-- ==== Sys2Proof/Word.lean ====
section
/-!
DEFINITION. The plainest types of the model: the host's address and data words (R6), bytes, and the 4 096-byte block.
-/

namespace Sys2Proof

/-- A byte address of the 24-bit register space (R6). -/
abbrev RegAddr := BitVec 24

/-- A 32-bit register word (R6). -/
abbrev RegWord := BitVec 32

/-- The content of one 4 096-byte block: byte `b` is bits `[8b+7:8b]` (R1, R2). -/
abbrev Blk := Nat

/-- Index of a front-end port, FE0 to FE15. -/
abbrev FePortIx := Fin 16

/-- Index of a drive port, DRV0 to DRV127. -/
abbrev DrvPortIx := Fin 128

/-- Index of a signature, SIG0 to SIG15. -/
abbrev SigIx := Fin 16

/-- Index of a Case channel, CH0 to CH3. -/
abbrev ChIx := Fin 4

/-- Index of a namespace, 0 to 63; its NSID is the index plus one (Table 17.2). -/
abbrev NsIx := Fin 64

end Sys2Proof
end

