-- ==== Sys2Proof/Syntax.lean ====
section
/-!
DEFINITION. The commands of the EZ4960: one constructor of `Instr` per row of the table of steps. The table gives the
rows no operands; each constructor carries the facts that reach the module from outside at that step (a frame, a
command capsule, a drive's answer, a sensor reading) or the item the step is about.
-/

namespace Sys2Proof

/-- How the destination address of a received frame matches the port (R32). -/
inductive FrameDest where
  | ownMac | broadcast | ownSolicitedNode | other
  deriving DecidableEq, Repr

/-- What a frame that passes the Ethernet filter carries (R37, R38, R43, R58). -/
inductive FramePayload where
  /-- a TCP segment of an open connection: its payload bytes, and whether a reservation of R57 covers them -/
  | tcp (conn : Nat) (bytes : Nat) (solicited : Bool)
  /-- a TCP segment of an open connection whose PDU header is invalid, out of sequence or fails its header digest (R43) -/
  | badPdu (conn : Nat) (fes : Nat)
  | ipv4Fragment
  | ipv4Options (bytes : Nat)
  | ipv6Extension
  | icmpOther
  | pause31B
  | other
  deriving DecidableEq, Repr

/-- A received Ethernet frame (R32, R33). -/
structure Frame where
  len : Nat
  fcsOk : Bool
  lengthField : Bool
  vlan : Option Nat
  dest : FrameDest
  payload : FramePayload
  deriving DecidableEq, Repr

/-- An address a station claims or asks for (R36). -/
inductive NetAddr where
  | ip4 (a : Nat) | ip6 (a : Nat)
  deriving DecidableEq, Repr

/-- A TCP SYN: the four-tuple, and the window, SACK and timestamp options it offers (R38, R40). -/
structure Syn where
  port : FePortIx
  srcAddr : Nat
  srcPort : Nat
  dstAddr : Nat
  dstPort : Nat
  ip6 : Bool
  wscale : Bool
  sack : Bool
  tstamp : Bool
  deriving DecidableEq, Repr

/-- An ICReq PDU (R41, R42). -/
structure IcReq where
  conn : Nat
  pfv : Nat
  hpda : Nat
  hdgst : Bool
  ddgst : Bool
  maxR2t : Nat
  headerOk : Bool
  deriving DecidableEq, Repr

/-- One block as an initiator sends it: its data and, with PRACT = 0, its protection information (R59). -/
structure RxBlk where
  data : Blk
  guard : Nat
  app : Nat
  ref : Nat
  deriving DecidableEq, Repr

/-- An H2CData PDU (R43, R44, R57). -/
structure H2cData where
  conn : Nat
  cid : Nat
  offset : Nat
  len : Nat
  headerOk : Bool
  inSequence : Bool
  hdgstOk : Bool
  ddgstOk : Bool
  blocks : List RxBlk
  deriving DecidableEq, Repr

/-- A Connect command (R46, Table 2.1). -/
structure ConnectCmd where
  conn : Nat
  cid : Nat
  recfmt : Nat
  hostNqn : List Nat
  subNqn : List Nat
  cntlid : Nat
  qid : Nat
  sqsize : Nat
  kato : Nat
  deriving DecidableEq, Repr

/-- The header every admin and I/O command carries (Table 2.3); `len` is the length of its data transfer in bytes and
`inCapsule` the bytes of it that the capsule carries. -/
structure CmdHdr where
  conn : Nat
  cid : Nat
  nsid : Nat
  len : Nat
  inCapsule : Nat
  deriving DecidableEq, Repr

/-- The end-to-end protection fields of a read, write or append (R59 to R61). -/
structure PiFields where
  pract : Bool
  prchkGuard : Bool
  prchkApp : Bool
  prchkRef : Bool
  lbat : Nat
  lbatm : Nat
  ilbrt : Nat
  deriving DecidableEq, Repr

/-- A Read, Write or Zone Append command; `ddgstOk` is the verdict on the data digest of in-capsule data (R44). -/
structure IoCmd where
  hdr : CmdHdr
  slba : Nat
  nlb : Nat
  pi : PiFields
  ddgstOk : Bool
  blocks : List RxBlk
  deriving DecidableEq, Repr

/-- A Zone Management Send: the zone start it names, and Select All. -/
structure ZoneCmd where
  hdr : CmdHdr
  slba : Nat
  selectAll : Bool
  deriving DecidableEq, Repr

/-- The part of a Zone Management Receive that Report Zones uses: which zones, and how many descriptors. -/
structure ReportCmd where
  hdr : CmdHdr
  slba : Nat
  stateFilter : Nat
  maxZones : Nat
  deriving DecidableEq, Repr

/-- The properties of R475. -/
inductive Property where
  | cap | vs | cc | csts | other
  deriving DecidableEq, Repr

/-- The fields of CC as a Property Set writes them (Table 2.7a). -/
structure CcValue where
  en : Bool
  css : Nat
  mps : Nat
  ams : Nat
  shn : Nat
  iosqes : Nat
  iocqes : Nat
  deriving DecidableEq, Repr

/-- A reset permit as presented (Table 3.6), and the verdict is the module's. -/
structure Permit where
  len : Nat
  magicOk : Bool
  versionOk : Bool
  nsid : Nat
  zoneStart : Nat
  serial : Nat
  nonce : Nat
  reserved : Nat
  sigR : Nat
  sigS : Nat
  deriving DecidableEq, Repr

/-- What a drive returns for one block of a read: whether it reports the block readable, the stored bytes as they are on
the medium, and the three check fields (R104, R150). -/
structure RdBlk where
  readable : Bool
  raw : Blk
  guard : Nat
  app : Nat
  ref : Nat
  deriving DecidableEq, Repr

/-- One position of a sheet as it was read at one block offset: the position, and what came back. -/
structure RdPos where
  pos : Nat
  blk : RdBlk
  deriving DecidableEq, Repr

/-- The reads of a sheet at one block offset. -/
structure RdOffset where
  offset : Nat
  got : List RdPos
  deriving DecidableEq, Repr

/-- Where a sheet lies: its signature and sheet index. -/
structure SheetId where
  sig : SigIx
  sheet : Nat
  deriving DecidableEq, Repr

/-- What identification learns of a drive (R217, R227): the SATA flag, the checks of R217, capacity and identity. -/
structure DriveInfo where
  sata : Bool
  ssd : Bool
  meetsR217 : Bool
  blocks : Nat
  identity : Nat
  queueDepth : Nat
  sector512 : Bool
  deriving DecidableEq, Repr

/-- A membership label copy as read from a drive (Table 4.7); `crcOk` covers magic, version and CRC (R111). -/
structure LabelCopy where
  crcOk : Bool
  gen : Nat
  sigIdentity : Nat
  sigIndex : Nat
  driveIndex : Nat
  bMin : Nat
  driveId : Nat
  reshape : Bool
  payloadHash : Nat
  deriving DecidableEq, Repr

/-- Link rates of a drive port: the RATE code of Table 9.5. -/
inductive LinkRate where
  | down | slow | mid | fast
  deriving DecidableEq, Repr

/-- Raw levels of the sideband inputs, `true` for a low (asserting) level, sampled at step 3 (R417). -/
structure PinSample where
  resetN : Bool
  pwrfailN : Bool
  tamperN : Bool
  attnN : Bool
  deriving DecidableEq, Repr

/-- A mismatch the gate finds at a boundary: the pair, the kind code of Table 14.8 and the attribution signatures of
members A and B for the impression (R325, R326). -/
structure Mismatch where
  pair : Fin 14
  kind : Nat
  sigA : Nat
  sigB : Nat
  overrunA : Bool
  overrunB : Bool
  deriving DecidableEq, Repr

/-- An overrun of an unpaired unit (R18): the unit's kind and index as in R362, and whether the item already overran. -/
structure Overrun where
  kind : Nat
  index : Nat
  second : Bool
  deriving DecidableEq, Repr

/-- What reaches the module at a boundary: pin samples, the eight die sensor readings in 0.1 °C, mismatches at the
output gate, and overruns. -/
structure BoundaryIn where
  pins : PinSample
  sensors : List Int
  mismatches : List Mismatch
  overruns : List Overrun
  deriving DecidableEq, Repr

/-- A gauge sample (R278): pack current in mA, positive while charging, both cell voltages in mV, temperature in 0.1 °C,
and the charge counted since the last sample in mC. -/
structure GaugeIn where
  currentMa : Int
  cell0Mv : Nat
  cell1Mv : Nat
  tempDc : Int
  chargeMc : Int
  deriving DecidableEq, Repr

/-- The outcome of a cast, recast or store element in one Stereo half. -/
inductive Half where
  | st0 | st1
  deriving DecidableEq, Repr

/-- What a read of a Case word finds (R258, R259): how many unmarked symbols were corrected, on which devices, or that
it is uncorrectable. -/
inductive WordResult where
  | clean
  | corrected (devices : List Nat)
  | uncorrectable (otherCopyOk : Bool)
  deriving DecidableEq, Repr

/-- What a word of the Case holds, as far as the tag store does not tell it (Table 11.3): a frame of a line, a parity line of an
update, an internal line, a ledger copy, or nothing. -/
inductive WordHolds where
  | lineFrame | parityLine (update : Nat) | internalLine | ledgerCopy | nothing
  deriving DecidableEq, Repr

/-- The raw pattern result of a self-test for one device (Table 11.6). -/
structure DevMismatch where
  dev : Nat
  inRow : Bool
  inReference : Bool
  deriving DecidableEq, Repr

/-- A DMA beat's response (R352). -/
inductive BeatKind where
  | read | write (countReachedZero : Bool)
  deriving DecidableEq, Repr

/-- A cast body that fails in both halves, by the index entry's type (Table 12.8, R303). -/
structure LostBody where
  typ : Nat
  sig : SigIx
  lbns : List Nat
  update : Nat
  deriving DecidableEq, Repr

/-- A bitmap copy found on a member at ASSEMBLE; `ok` covers magic, version, signature identity and both CRCs (R144). -/
structure BmpFound where
  ok : Bool
  gen : Nat
  regions : Nat
  bits : List Nat
  deriving DecidableEq, Repr

/-- A reshape checkpoint found on a holder (R209); `ok` covers magic, version, signature identity and CRC. -/
structure CkptFound where
  ok : Bool
  gen : Nat
  src : List Nat
  dst : List Nat
  b : Nat
  z : Nat
  next : Nat
  deriving DecidableEq, Repr

/-- A zone as the metadata area on the drives gives it (Table 4.8): directory state and flags, and its ledger entry. -/
structure ZoneFound where
  ns : Nat
  zone : Nat
  state : Nat
  flags : Nat
  resets : Nat
  wp : Nat
  sha : List Nat
  lastWrite : Nat
  key : Nat
  deriving DecidableEq, Repr

/-- A block of a torn copy window as it is found in the target and in the source layout (R209). -/
structure TornBlk where
  lbn : Nat
  target : RdBlk
  source : RdBlk
  deriving DecidableEq, Repr

/-- What the module reads from the members of a signature at ASSEMBLE. -/
structure AsmFound where
  bmps : List BmpFound
  cks : List CkptFound
  zones : List ZoneFound
  torn : List TornBlk
  deriving DecidableEq, Repr

/-- The commands. A docstring names the row's step; the rules are cited at its meaning. -/
inductive Instr where
  -- timebase and register writes
  | impressionBoundary (x : BoundaryIn)
  | registerWrite (addr : RegAddr) (word : RegWord)
  -- front-end ports (R31 to R40)
  | frameReceived (p : FePortIx) (f : Frame)
  | xoffRefresh (p : FePortIx)
  | xonSend (p : FePortIx)
  | pfcFrameReceived (p : FePortIx) (prio : Nat) (quanta : Nat)
  | arpRequest (p : FePortIx) (target : Nat)
  | neighborSolicitation (p : FePortIx) (target : Nat)
  | arpReplyClaim (p : FePortIx) (addr : Nat)
  | neighbourCacheAgeOut (p : FePortIx) (a : NetAddr)
  | duplicateAddressDetectionDone (p : FePortIx) (duplicate : Bool)
  | echoRequest (p : FePortIx) (a : NetAddr) (bytes : Nat)
  | synReceived (x : Syn)
  | retransmissionTimeout (conn : Nat)
  | icreqTimeout (conn : Nat)
  -- NVMe/TCP target
  | icreq (x : IcReq)
  | h2ctermreq (conn fes : Nat)
  | h2cdata (x : H2cData)
  | connect (x : ConnectCmd)
  | propertySet (h : CmdHdr) (prop : Property) (v : CcValue)
  | propertyGet (h : CmdHdr) (prop : Property)
  | shutdownComplete (cntlid : Nat)
  | authenticationSend (h : CmdHdr) (msg : Nat)
  | authenticationReceive (h : CmdHdr)
  | authFailClose (conn : Nat)
  | getLogPage (h : CmdHdr) (lid : Nat) (offset : Nat)
  | identify (h : CmdHdr) (cns : Nat) (csi : Nat)
  | setFeatures (h : CmdHdr) (fid : Nat) (save : Bool) (value : Nat)
  | getFeatures (h : CmdHdr) (fid : Nat)
  | asynchronousEventRequest (h : CmdHdr)
  | keepAlive (h : CmdHdr)
  | keepAliveExpired (cntlid : Nat)
  | securityProtocolList (h : CmdHdr) (protocol : Nat)
  | nonceRequest (h : CmdHdr)
  | resetPermit (h : CmdHdr) (x : Permit)
  | damageStatementRequest (h : CmdHdr) (zoneStart : Nat) (challenge : Nat)
  | damageStatementReceive (h : CmdHdr)
  | flush (h : CmdHdr)
  | flushComplete (conn : Nat) (cid : Nat)
  | write (x : IoCmd)
  | read (x : IoCmd)
  | reportZones (x : ReportCmd)
  | zoneOpen (x : ZoneCmd)
  | zoneClose (x : ZoneCmd)
  | zoneFinish (x : ZoneCmd)
  | zoneReset (x : ZoneCmd)
  | zoneOffline (x : ZoneCmd)
  | zoneActionDeferred (ns : NsIx) (zone : Nat)
  | zoneAppend (x : IoCmd)
  | invalidCommandOpcode (h : CmdHdr) (admin : Bool) (opcode : Nat)
  | admission (conn : Nat) (cid : Nat)
  | readyToTransferRelease (conn : Nat) (cid : Nat)
  | writeCompletionRelease (conn : Nat) (cid : Nat)
  | appendAssign (conn : Nat) (cid : Nat)
  | sealDigest (ns : NsIx) (zone : Nat) (back : List (Nat × Option Blk))
  | colophonSigned (ns : NsIx) (zone : Nat)
  | permitReset (ns : NsIx) (zone : Nat)
  | oztSel (v : RegWord)
  | connSel (v : RegWord)
  -- front-end links
  | linkLoss (p : FePortIx)
  | linkUp (p : FePortIx)
  | linkHoldExpired (p : FePortIx)
  | fePortReset (p : FePortIx)
  | portEnable (p : FePortIx)
  -- signatures: geometry and the write path
  | memberSel (g : SigIx) (v : RegWord)
  | mapGo (g : SigIx)
  | destageAgeExpired (x : SheetId)
  | updateBegin (x : SheetId)
  | updateReadsComplete (update : Nat) (reads : List RdOffset)
  | updateReady (update : Nat)
  | folioWriteComplete (update : Nat) (pos : Nat)
  | bitmapCommit (g : SigIx)
  | bitmapCommitComplete (g : SigIx) (targets : List Nat)
  | regionBitClear (g : SigIx) (region : Nat)
  | holderReplace (g : SigIx) (holder : Nat)
  | resyncItem (x : SheetId) (reads : List RdOffset)
  -- reads and repair
  | readReconstruct (x : SheetId) (o : RdOffset)
  | repairWrite (x : SheetId) (pos : Nat) (between : List (Nat × RdBlk))
  | repairWriteComplete (x : SheetId) (pos : Nat)
  | selfTestReadback (x : SheetId) (pos : Nat) (verified : Bool)
  | proofingItem (g : SigIx) (reads : List RdOffset)
  | hbSel (g : SigIx) (v : RegWord)
  | corrSel (g : SigIx) (v : RegWord)
  -- failure and rebuild
  | linkLossFailTimeout (p : DrvPortIx)
  | deferredDeclaration (g : SigIx) (member : Nat)
  | failGo (g : SigIx)
  | criticalItem (g : SigIx) (reads : List RdOffset)
  | normalItem (g : SigIx) (reads : List RdOffset)
  | rebuildItemComplete (x : SheetId)
  | formatComplete (p : DrvPortIx)
  | copybackItem (g : SigIx) (entry : Nat) (reads : List RdOffset)
  | copybackWriteComplete (g : SigIx) (entry : Nat)
  | entSel (g : SigIx) (v : RegWord)
  -- reshape
  | windowClaim (g : SigIx)
  | windowReadComplete (g : SigIx) (reads : List (Nat × List RdOffset))
  | windowParityComplete (g : SigIx)
  | windowWriteComplete (g : SigIx)
  | windowCheckpointDurable (g : SigIx)
  -- drive ports
  | driveLinkUp (p : DrvPortIx) (rate : LinkRate)
  | driveClassify (p : DrvPortIx) (d : DriveInfo) (a b : LabelCopy)
  | bringupTimeout (p : DrvPortIx)
  | commandTimeout (p : DrvPortIx) (tag : Nat)
  | ladderStepTimeout (p : DrvPortIx)
  | ladderStepSuccess (p : DrvPortIx)
  | driveCommandError (p : DrvPortIx) (tag : Nat) (blocks : List Nat) (data : List RdBlk)
  | linkCrcBurst (p : DrvPortIx) (errors : Nat)
  | linkTest (p : DrvPortIx)
  | linkSelfTestEnd (p : DrvPortIx) (codeViolations : Nat) (crcErrors : Nat)
  | driveLinkLoss (p : DrvPortIx)
  | presentWrite (p : DrvPortIx) (v : Bool)
  | pwrOnWrite (p : DrvPortIx) (v : Bool)
  | claim (p : DrvPortIx)
  | drivePortReset (p : DrvPortIx)
  | absentLimitExpired (g : SigIx) (member : Nat)
  | catchupItem (g : SigIx) (member : Nat) (sheet : Nat) (reads : List RdOffset)
  | signatureCreate (g : SigIx)
  | sataFormatItem (p : DrvPortIx)
  | formatPoll (p : DrvPortIx) (pct : Nat)
  | formatTimeout (p : DrvPortIx)
  -- the Case: organisation
  | reclaim (c : ChIx)
  | evbDrop (slot : Nat)
  | reGo (e : Fin 2)
  | rangeVisit (e : Fin 2)
  | parkedLineApply (e : Fin 2) (line : Nat)
  | rangeComplete (e : Fin 2)
  -- the Case: error correction
  | patrolScrub (c : ChIx) (r : WordResult) (h : WordHolds) (word : Nat)
  | caseSelfTest (c : ChIx) (r : List DevMismatch)
  | cleanOnlyCopy (c : ChIx)
  | mergeEntryFlush (slot : Nat)
  | eccTestEn (v : Bool)
  | devSel (v : RegWord)
  -- the Fount
  | gaugeSample (x : GaugeIn)
  | inputLow (b : Bool) (mv : Nat)
  | inputHealthy (b : Bool) (mv : Nat)
  | recastComplete (lost : List LostBody) (indexOk : Bool)
  -- scheduler
  | enclTempWrite (v : RegWord)
  | minShareWrite (addr : RegAddr) (v : RegWord)
  -- compared pairs
  | switchOverVerdict (pair : Fin 14) (passA passB : Bool)
  | heldImpressionRelease (pair : Fin 14) (sigA sigB : Nat)
  | adoptionRelease (pair : Fin 14)
  | simplexSelfTest (pair : Fin 14) (pass : Bool)
  | spareSelfTest (engine : Fin 33) (pass : Bool)
  -- DMA
  | dmaGo (c : Fin 64)
  | dmaAbort (c : Fin 64)
  | dmaStep (c : Fin 64)
  | busErrorRetry (c : Fin 64) (k : BeatKind) (addr : Nat) (ok : Bool)
  -- Errata log
  | freeze (v : Bool)
  | rateWindowEnd (code : Nat)
  -- makeready
  | coldReset (slotId : Nat)
  | powerQualifyEnd (packId : Nat)
  | selfTestEnd (failedEngines : List Nat) (failedChannels : List Nat) (st0Ok st1Ok : Bool) (rngOk : Bool)
  | caseInitEnd (failedChannels : List Nat)
  | signatureEnterService (g : SigIx) (x : AsmFound)
  | asmForce (mask : BitVec 16)
  | resetCmd (v : BitVec 16)
  -- I3C
  | entdaa (addr : Nat)
  | setdasa (addr : Nat)
  | setnewda (addr : Nat)
  | enec (bits : Nat)
  | disec (bits : Nat)
  | setmwl (v : Nat)
  | setmrl (v : Nat)
  | rstact (action : Nat)
  | cccUnsupported (code : Nat) (direct : Bool)
  | enthdrUnsupported (n : Nat)
  | privateWrite (bytes : List (BitVec 8))
  | privateRead (bytes : Nat)
  | hdrDdrWrite (halves : List (BitVec 16))
  | hdrDdrSetPointer (halves : List (BitVec 16))
  | hdrDdrRead (words : Nat)
  | legacyI2cTransfer (bytes : List (BitVec 8)) (readBytes : Nat)
  | ibiRequest (ack : Bool)
  | ibiRetry (ack : Bool)
  | winSel (v : RegWord)
  | windowAccess (write : Option RegWord)
  -- inputs
  | inputEnable (b : Bool) (mv : Nat)
  | inputOvercurrent (b : Bool)
  | inputStageRetry (b : Bool)
  | inputOvervoltage (b : Bool) (mv : Nat)
  | inputStageOff (b : Bool) (mv : Nat)
  | busTakeover (busMv : Nat)
  -- completions and departures
  | driveReadComplete (p : DrvPortIx) (tag : Nat) (blocks : List RdBlk)
  | stereoHalfLeavesService (h : Half)
  | portDisable (p : FePortIx)
  | tcpConnectionClosed (conn : Nat) (reset : Bool)
  | pfcPauseExpired (p : FePortIx)
  -- the commands without operands
  | connDrop
  | corruptionHourRoll
  | ageIncrement
  | reDuplex
  | probeGo
  | repairMapWrite
  | gaugeHibernate
  | gaugeWake
  | hibernationHour
  | gaugeReference
  | endOfCharge
  | chargerFault
  | packLowClear
  | calRest
  | calRestTimeout
  | gsbRefresh
  | gsbLatch
  | gsbLoad
  | gsbNone
  | rideThroughExpired
  | pwrfailAsserted
  | pwrfailStuck
  | pwrfailTrusted
  | castComplete
  | resumeFromCase
  | slotEraseComplete
  | castConsumed
  | castAbandon
  | releaseGo
  | releaseUpdatesRetired
  | releaseComplete
  | thermalStepDown
  | enclTempStale
  | fairWindowEnd
  | transientHourRoll
  | engineRecordWrite
  | sharedStopRestart
  | errataFlush
  | logFlush
  | freezeExpired
  | logClear
  | logClearComplete
  | anchorGo
  | imgVerify
  | imgCommit
  | imgConfirm
  | stageClear
  | imageJudgeComplete
  | imageStoreComplete
  | arbFuseAdvance
  | fountProbeTimeout
  | prechargeDone
  | prechargeTimeout
  | keyWaitExit
  | asmWaitExpired
  | asmDone
  | assembleEnd
  | maintGo
  | maintExit
  | resetNAsserted
  | resetNReleased
  | snapGo
  | counterRecordWrite
  | rstdaa
  | getpid
  | getbcr
  | getdcr
  | getstatus
  | getmwl
  | getmrl
  | getmxds
  | targetResetPattern
  | enthdr0
  | hdrExit
  | tamperEdge
  | tamperClearDone
  | attnEdge
  | attnStuck
  | kekLoad
  | kekRotate
  | kekRotationComplete
  | krecImport
  | secLoad
  | rngHealthFail
  | pwrfailDeasserted
  deriving DecidableEq, Repr

end Sys2Proof
end

