-- ==== Sys2Proof/Decode.lean ====
section
/-!
DEFINITION. The table of steps gives no row a bit of an encoding: no word spells a command.
-/

namespace Sys2Proof

/-- The command that a word spells: the table gives every row an empty list of fields, so none does. -/
def decodeTableWord (_nbits _w : Nat) : Option Instr := none

end Sys2Proof
end

