-- ==== Sys2Proof/Machine/Crypto.lean ====
section
/-!
DEFINITION. The check codes and the digest that the spec names by their published definitions: CRC-32C, the T10 guard
CRC-16, CRC-64, SHA-256, and arithmetic in GF(2^8) with the polynomial 0x11D (R100, R101, R326, R81).
-/

namespace Sys2Proof.Machine

/-- The bytes of a block, byte 0 first. -/
def blkBytes (b : Blk) : List Nat := (List.range 4096).map fun j => b / 256 ^ j % 256

/-- A block from its bytes. -/
def blkOf : List Nat → Blk
  | [] => 0
  | b :: bs => b % 256 + 256 * blkOf bs

/-- One bit of a reflected CRC-32C. -/
def crc32cBit (c : Nat) : Nat := if c % 2 = 1 then (c / 2) ^^^ 0x82F63B78 else c / 2

/-- One byte of CRC-32C. -/
def crc32cByte (c b : Nat) : Nat :=
  crc32cBit (crc32cBit (crc32cBit (crc32cBit (crc32cBit (crc32cBit (crc32cBit (crc32cBit (c ^^^ b))))))))

/-- CRC-32C (Castagnoli) of a byte string. -/
def crc32c (bs : List Nat) : Nat := (bs.foldl crc32cByte 0xFFFFFFFF) ^^^ 0xFFFFFFFF

/-- One bit of the T10 CRC-16, polynomial 0x8BB7. -/
def crc16Bit (c : Nat) : Nat := if c / 32768 % 2 = 1 then ((2 * c) % 65536) ^^^ 0x8BB7 else (2 * c) % 65536

/-- One byte of the T10 CRC-16. -/
def crc16Byte (c b : Nat) : Nat :=
  crc16Bit (crc16Bit (crc16Bit (crc16Bit (crc16Bit (crc16Bit (crc16Bit (crc16Bit (c ^^^ (b * 256)))))))))

/-- The guard of a byte string (T10 CRC-16, initial value 0). -/
def crc16 (bs : List Nat) : Nat := bs.foldl crc16Byte 0

/-- The guard of a block. -/
def guardOf (b : Blk) : Nat := crc16 (blkBytes b)

/-- One bit of CRC-64, polynomial 0x42F0_E1EB_A9EA_3693, initial value 0, no reflection (R326). -/
def crc64Bit (c : Nat) : Nat :=
  if c / 2 ^ 63 % 2 = 1 then ((2 * c) % 2 ^ 64) ^^^ 0x42F0E1EBA9EA3693 else (2 * c) % 2 ^ 64

/-- One byte of CRC-64. -/
def crc64Byte (c b : Nat) : Nat :=
  crc64Bit (crc64Bit (crc64Bit (crc64Bit (crc64Bit (crc64Bit (crc64Bit (crc64Bit (c ^^^ (b * 2 ^ 56)))))))))

/-- CRC-64 of a byte string. -/
def crc64 (bs : List Nat) : Nat := bs.foldl crc64Byte 0

/-! ### SHA-256 (FIPS 180-4) -/

/-- The 64 round constants. -/
def shaK : List Nat :=
  [0x428a2f98, 0x71374491, 0xb5c0fbcf, 0xe9b5dba5, 0x3956c25b, 0x59f111f1, 0x923f82a4, 0xab1c5ed5,
   0xd807aa98, 0x12835b01, 0x243185be, 0x550c7dc3, 0x72be5d74, 0x80deb1fe, 0x9bdc06a7, 0xc19bf174] ++
  [0xe49b69c1, 0xefbe4786, 0x0fc19dc6, 0x240ca1cc, 0x2de92c6f, 0x4a7484aa, 0x5cb0a9dc, 0x76f988da,
   0x983e5152, 0xa831c66d, 0xb00327c8, 0xbf597fc7, 0xc6e00bf3, 0xd5a79147, 0x06ca6351, 0x14292967] ++
  [0x27b70a85, 0x2e1b2138, 0x4d2c6dfc, 0x53380d13, 0x650a7354, 0x766a0abb, 0x81c2c92e, 0x92722c85,
   0xa2bfe8a1, 0xa81a664b, 0xc24b8b70, 0xc76c51a3, 0xd192e819, 0xd6990624, 0xf40e3585, 0x106aa070] ++
  [0x19a4c116, 0x1e376c08, 0x2748774c, 0x34b0bcb5, 0x391c0cb3, 0x4ed8aa4a, 0x5b9cca4f, 0x682e6ff3,
   0x748f82ee, 0x78a5636f, 0x84c87814, 0x8cc70208, 0x90befffa, 0xa4506ceb, 0xbef9a3f7, 0xc67178f2]

/-- The initial state. -/
def shaInit : List Nat :=
  [0x6a09e667, 0xbb67ae85, 0x3c6ef372, 0xa54ff53a, 0x510e527f, 0x9b05688c, 0x1f83d9ab, 0x5be0cd19]

/-- Rotate a 32-bit word right. -/
def rotr (n x : Nat) : Nat := (x / 2 ^ n) ||| (x * 2 ^ (32 - n) % 2 ^ 32)

/-- Extend the message schedule, newest word first, by `n` words. -/
def shaSched : Nat → List Nat → List Nat
  | 0, w => w
  | n + 1, w =>
    let x1 := w.getD 1 0
    let x14 := w.getD 14 0
    let s0 := rotr 7 x14 ^^^ rotr 18 x14 ^^^ (x14 / 2 ^ 3)
    let s1 := rotr 17 x1 ^^^ rotr 19 x1 ^^^ (x1 / 2 ^ 10)
    shaSched n (((w.getD 15 0 + s0 + w.getD 6 0 + s1) % 2 ^ 32) :: w)

/-- One round on the eight working words. -/
def shaRound (v : List Nat) (kw : Nat × Nat) : List Nat :=
  match v with
  | [a, b, c, d, e, f, g, h] =>
    let s1 := rotr 6 e ^^^ rotr 11 e ^^^ rotr 25 e
    let ch := (e &&& f) ^^^ ((2 ^ 32 - 1 - e) &&& g)
    let t1 := h + s1 + ch + kw.1 + kw.2
    let s0 := rotr 2 a ^^^ rotr 13 a ^^^ rotr 22 a
    let mj := (a &&& b) ^^^ (a &&& c) ^^^ (b &&& c)
    [(t1 + s0 + mj) % 2 ^ 32, a, b, c, (d + t1) % 2 ^ 32, e, f, g]
  | v => v

/-- Absorb one 64-byte block, given as its 16 words. -/
def shaBlock (h w : List Nat) : List Nat :=
  let sched := (shaSched 48 w.reverse).reverse
  let v := (shaK.zip sched).foldl shaRound h
  List.zipWith (fun x y => (x + y) % 2 ^ 32) h v

/-- The big-endian words of a byte string. -/
def beWords : List Nat → List Nat
  | a :: b :: c :: d :: bs => (a * 2 ^ 24 + b * 2 ^ 16 + c * 2 ^ 8 + d) :: beWords bs
  | _ => []

/-- Absorb `n` blocks of 16 words. -/
def shaBlocks : Nat → List Nat → List Nat → List Nat
  | 0, h, _ => h
  | n + 1, h, ws => shaBlocks n (shaBlock h (ws.take 16)) (ws.drop 16)

/-- Absorb a byte string that is a whole number of 64-byte blocks into a running state (R81). -/
def shaAbsorb (h : List Nat) (bs : List Nat) : List Nat := shaBlocks (bs.length / 64) h (beWords bs)

/-- Finish a running state after `total` bytes, `tail` being the bytes not yet absorbed; the digest's 32 bytes. -/
def shaFinish (h : List Nat) (tail : List Nat) (total : Nat) : List Nat :=
  let pad := (119 - total % 64) % 64
  let len := (List.range 8).map fun i => total * 8 / 256 ^ (7 - i) % 256
  let h := shaAbsorb h (tail ++ [0x80] ++ List.replicate pad 0 ++ len)
  h.flatMap fun w => [w / 2 ^ 24 % 256, w / 2 ^ 16 % 256, w / 2 ^ 8 % 256, w % 256]

/-- SHA-256 of a byte string. -/
def sha256 (bs : List Nat) : List Nat :=
  let n := bs.length / 64 * 64
  shaFinish (shaAbsorb shaInit (bs.take n)) (bs.drop n) bs.length

/-! ### GF(2^8) with 0x11D (R100) -/

/-- Multiply by the generator 2. -/
def gfDouble (a : Nat) : Nat := if a / 128 % 2 = 1 then (2 * a) ^^^ 0x11D else 2 * a

/-- Product in GF(2^8), `n` bits of the second factor. -/
def gfMulN : Nat → Nat → Nat → Nat
  | 0, _, _ => 0
  | n + 1, a, b => (if b % 2 = 1 then a else 0) ^^^ gfMulN n (gfDouble a) (b / 2)

/-- Product in GF(2^8). -/
def gfMul (a b : Nat) : Nat := gfMulN 8 a b

/-- The generator to a power. -/
def gfPow : Nat → Nat
  | 0 => 1
  | n + 1 => gfDouble (gfPow n)

/-- The multiplicative inverse: the power 254. -/
def gfInv (a : Nat) : Nat := (List.range 253).foldl (fun x _ => gfMul x a) a

end Sys2Proof.Machine
end

