-- ==== Sys2Proof/Config.lean ====
section
/-!
DEFINITION. What one module fixes at manufacture, the values the spec leaves open, and the published primitives the spec
names without defining. Every constant here is opaque: no proof can see a value, so a claim holds for every value.
-/

namespace Sys2Proof.Config

/-- A value the spec leaves open, for the count of such values drawn so far (the state's own counter). Safe: free. -/
opaque freeValue : Nat → Nat

/-- The module serial: 16 ASCII characters as a number, byte b in bits [8b+7:8b] (R442). -/
opaque serial : Nat

/-- Controller die revision, from fuses (R442). -/
opaque dieRev : Nat

/-- Word j of the fused image key hash (R442). -/
opaque keyHash : Nat → Nat

/-- The first of the 16 consecutive MAC addresses (R34). -/
opaque macBase : Nat

/-- Bytes of window 2 and its content (R430). -/
opaque certLen : Nat
opaque certByte : Nat → Nat

/-- Internal version of a microcode payload; the payload's inner structure is not published (R374). -/
opaque ucodeVersion : Nat → Nat
opaque ucodeValid : Nat → Bool

/-- Output n of the deterministic random generator, 384 bits (R423): its values are open. -/
opaque drbg : Nat → Nat

/-- AES-256-XTS of one 4 096-byte data unit: key, data-unit number, text (R103, IEEE Std 1619). -/
opaque xtsEncrypt : Nat → Nat → Blk → Blk
opaque xtsDecrypt : Nat → Nat → Blk → Blk

/-- AES key wrap and unwrap (RFC 3394): key-encryption key, text. -/
opaque keyWrap : Nat → Nat → Nat
opaque keyUnwrap : Nat → Nat → Option Nat

/-- SHA-384 of a byte string (R373). -/
opaque sha384 : List Nat → Nat

/-- ECDSA P-384 verification: public key (x then y), digest, r, s (R87, R373). -/
opaque ecdsaP384Verify : Nat → Nat → Nat → Nat → Bool

/-- ECDSA P-256 signature with the identity key over a message (R85, R430): r and s. -/
opaque identitySign : List Nat → Nat × Nat

/-- The verdict and the message of DH-HMAC-CHAP, as the NVMe Base Specification defines it (R47): the host secret, the
controller secret, the message received. -/
opaque chapAccepts : Nat → Nat → Nat → Option Bool
opaque chapReply : Nat → Nat → Nat → Nat

/-- The C2HTermReq error status that the NVMe/TCP Transport Specification names for a case (R43). -/
opaque fesOf : Nat → Nat

/-- Fields of Identify, Report Zones and log structures that a published standard or the fuses fill (R56): structure,
offset. -/
opaque standardByte : Nat → Nat → Nat

/-- The status code of Authentication Required in the NVMe Base Specification (R47). -/
opaque authRequiredStatus : Nat

end Sys2Proof.Config
end

