-- ==== Sys2Proof/Machine/Map.lean ====
section
/-!
DEFINITION. The one canonical form of every keyed store of the model: a list of key and value pairs with strictly rising
keys. `NMap` is plain data; equal stores are equal lists.
-/

namespace Sys2Proof.Machine

/-- A store by natural-number key: strictly rising keys. -/
abbrev NMap (α : Type) := List (Nat × α)

/-- The value stored under a key. -/
def nfind {α : Type} (k : Nat) : NMap α → Option α
  | [] => none
  | (j, v) :: m => if j = k then some v else nfind k m

/-- Store a value under a key, keeping the keys rising. -/
def nset {α : Type} (k : Nat) (v : α) : NMap α → NMap α
  | [] => [(k, v)]
  | (j, w) :: m =>
    if k < j then (k, v) :: (j, w) :: m
    else if k = j then (k, v) :: m
    else (j, w) :: nset k v m

/-- Remove a key. -/
def ndel {α : Type} (k : Nat) : NMap α → NMap α
  | [] => []
  | (j, w) :: m => if j = k then m else (j, w) :: ndel k m

/-- The value under a key, or the given default. -/
def ngetD {α : Type} (k : Nat) (d : α) (m : NMap α) : α := (nfind k m).getD d

/-- Store a number under a key; the default 0 is never listed. -/
def nput (k v : Nat) (m : NMap Nat) : NMap Nat := if v = 0 then ndel k m else nset k v m

/-- Change the value under a key, taking the default where nothing is listed. -/
def nupd {α : Type} (k : Nat) (d : α) (f : α → α) (m : NMap α) : NMap α := nset k (f (ngetD k d m)) m

/-- Change every value. -/
def nmapv {α : Type} (f : Nat → α → α) (m : NMap α) : NMap α := m.map fun p => (p.1, f p.1 p.2)

/-- Keep the entries that satisfy a test. -/
def nfilter {α : Type} (f : Nat → α → Bool) (m : NMap α) : NMap α := m.filter fun p => f p.1 p.2

/-- The smallest key not in use. -/
def nfresh {α : Type} : NMap α → Nat → Nat
  | [], n => n
  | (j, _) :: m, n => if n < j then n else nfresh m (j + 1)

/-- The canonical form: keys rise strictly. -/
abbrev NMap.wf {α : Type} (m : NMap α) : Prop := m.Pairwise fun a b => a.1 < b.1

end Sys2Proof.Machine
end

