-- ==== Sys2Proof/Machine/Regs.lean ====
section
/-!
DEFINITION. The register file: what a register field is (R6, R8, R12), how one instance of it is addressed (R437), and how
a field is read and stored. A field's value is listed under the key 32 × address + low bit; an unlisted field is 0.
-/

namespace Sys2Proof.Machine

/-- The access codes of Table 0.4. -/
inductive Access where
  | ro | rw | rw1c | rw1s | wo | rc | rwl
  deriving DecidableEq, Repr

/-- The Reset column (R12, R13): no reset, the reset kinds that set the field, or the committed image. -/
inductive RstKind where
  | none | c | cm | cmw | cmwp | img
  deriving DecidableEq, Repr

/-- A register field. Occurrence i lies at `base + (i / n2) * s1 + (i % n2) * s2`, for i below `n1 * n2`. -/
structure FieldSpec where
  base : Nat
  s1 : Nat
  n1 : Nat
  s2 : Nat
  n2 : Nat
  lo : Nat
  w : Nat
  acc : Access
  rst : Nat
  kind : RstKind
  rlo : Nat
  rhi : Nat
  deriving DecidableEq, Repr

/-- The address of occurrence i of a field (R437). -/
def FieldSpec.addr (F : FieldSpec) (i : Nat) : Nat := F.base + (i / F.n2) * F.s1 + (i % F.n2) * F.s2

/-- The key under which occurrence i of a field is stored. -/
def FieldSpec.key (F : FieldSpec) (i : Nat) : Nat := F.addr i * 32 + F.lo

/-- Which occurrence of a field an address holds. -/
def FieldSpec.at? (F : FieldSpec) (a : Nat) : Option Nat :=
  if a < F.base then Option.none
  else
    let d := a - F.base
    let i1 := if F.s1 = 0 then 0 else d / F.s1
    let r := d - i1 * F.s1
    let i2 := if F.s2 = 0 then 0 else r / F.s2
    if i1 < F.n1 ∧ i2 < F.n2 ∧ r = i2 * F.s2 then some (i1 * F.n2 + i2) else Option.none

/-- The register file. -/
abbrev Regs := NMap Nat

/-- The stored value of a field. -/
def rget (r : Regs) (F : FieldSpec) (i : Nat) : Nat := ngetD (F.key i) 0 r

/-- Store a value, cut to the field's width. -/
def rput (F : FieldSpec) (i v : Nat) (r : Regs) : Regs := nput (F.key i) (v % 2 ^ F.w) r

/-- The letter of a reset kind. -/
inductive ResetKind where
  | cold | module | warm | port
  deriving DecidableEq, Repr

/-- Whether a reset of a kind sets the fields with a Reset column (R12). -/
def RstKind.sets : RstKind → ResetKind → Bool
  | .c, .cold => true
  | .cm, .cold => true
  | .cm, .module => true
  | .cmw, .port => false
  | .cmw, _ => true
  | .cmwp, _ => true
  | _, _ => false

/-- One reset of all occurrences of one field. -/
def resetField (k : ResetKind) (r : Regs) (F : FieldSpec) : Regs :=
  if F.kind.sets k then (List.range (F.n1 * F.n2)).foldl (fun r i => rput F i F.rst r) r else r

end Sys2Proof.Machine
end

