-- ==== Sys2Proof/Machine/RegTable.lean ====
section
/-!
DEFINITION. Every field of every register table of the spec: base address, strides and counts of its repetitions, low
bit, width, access code, reset value and reset kinds, and the range of R440 where the description states one. One list
per block follows. The map of the namespaces at 0x50_0040 covers namespaces 0 to 47 and 56 to 63: notes/assumptions/6.md.
-/

namespace Sys2Proof.Machine.Reg

/-- Table 2.10: TCP port of the target -/
def Fe.NVME_PORT : FieldSpec := ⟨0x200000, 0x0, 1, 0x0, 1, 0, 16, .rwl, 0, .img, 0, 65535⟩
/-- Table 2.10: header digest required (R42) -/
def Fe.REQ_HDGST : FieldSpec := ⟨0x200004, 0x0, 1, 0x0, 1, 0, 1, .rwl, 0, .img, 0, 1⟩
/-- Table 2.10: data digest required (R42) -/
def Fe.REQ_DDGST : FieldSpec := ⟨0x200004, 0x0, 1, 0x0, 1, 1, 1, .rwl, 0, .img, 0, 1⟩
/-- Table 2.10: authentication required for every host (R47) -/
def Fe.REQ_AUTH : FieldSpec := ⟨0x200004, 0x0, 1, 0x0, 1, 2, 1, .rwl, 0, .img, 0, 1⟩
/-- Table 2.10: priority flow control on (R34) -/
def Fe.PFC_EN : FieldSpec := ⟨0x200004, 0x0, 1, 0x0, 1, 3, 1, .rwl, 0, .img, 0, 1⟩
/-- Table 2.10: priority used for flow control -/
def Fe.PFC_PRIO : FieldSpec := ⟨0x200004, 0x0, 1, 0x0, 1, 4, 3, .rwl, 0, .img, 0, 7⟩
/-- Table 2.10: bit p is 1 while FEp's link is up -/
def Fe.LINK_UP : FieldSpec := ⟨0x200008, 0x0, 1, 0x0, 1, 0, 16, .ro, 0, .none, 0, 65535⟩
/-- Table 2.10: an FPE pair runs simplex -/
def Fe.FPE_SIMPLEX : FieldSpec := ⟨0x200008, 0x0, 1, 0x0, 1, 16, 1, .ro, 0, .none, 0, 1⟩
/-- Table 2.10: open connections, 0 to 4 096 -/
def Fe.CONN_OPEN : FieldSpec := ⟨0x20000C, 0x0, 1, 0x0, 1, 0, 13, .ro, 0, .none, 0, 8191⟩
/-- Table 2.10: controllers in existence, 0 to 256 -/
def Fe.CTRL_OPEN : FieldSpec := ⟨0x20000C, 0x0, 1, 0x0, 1, 16, 9, .ro, 0, .none, 0, 511⟩
/-- Table 2.10: SYNs refused by R40; saturates -/
def Fe.CONN_REFUSED : FieldSpec := ⟨0x200010, 0x0, 1, 0x0, 1, 0, 32, .rc, 0, .cmw, 0, 4294967295⟩
/-- Table 2.10: a port declared link loss or link-up -/
def Fe.LINK_CHANGE : FieldSpec := ⟨0x200014, 0x0, 1, 0x0, 1, 0, 1, .rw1c, 0, .cmw, 0, 1⟩
/-- Table 2.10: an ANA group state changed -/
def Fe.ANA_CHANGE : FieldSpec := ⟨0x200014, 0x0, 1, 0x0, 1, 1, 1, .rw1c, 0, .cmw, 0, 1⟩
/-- Table 2.10: a SYN was refused -/
def Fe.CONN_LIMIT : FieldSpec := ⟨0x200014, 0x0, 1, 0x0, 1, 2, 1, .rw1c, 0, .cmw, 0, 1⟩
/-- Table 2.10: an authentication failed -/
def Fe.AUTH_FAIL : FieldSpec := ⟨0x200014, 0x0, 1, 0x0, 1, 3, 1, .rw1c, 0, .cmw, 0, 1⟩
/-- Table 2.10: a connection was terminated by R43 -/
def Fe.PROTO_TERM : FieldSpec := ⟨0x200014, 0x0, 1, 0x0, 1, 4, 1, .rw1c, 0, .cmw, 0, 1⟩
/-- Table 2.10: a duplicate address was detected -/
def Fe.DUP_ADDR : FieldSpec := ⟨0x200014, 0x0, 1, 0x0, 1, 5, 1, .rw1c, 0, .cmw, 0, 1⟩
/-- Table 2.10: bit n enables bit n of 0x20_0014 into the interrupt summary -/
def Fe.FE_INT_EN : FieldSpec := ⟨0x200018, 0x0, 1, 0x0, 1, 0, 6, .rw, 0, .cmw, 0, 63⟩
/-- Table 2.10: preferred ports of signature g, g = 0 to 15 -/
def Fe.ANA_PREF : FieldSpec := ⟨0x200040, 0x0, 1, 0x4, 16, 0, 16, .rwl, 0, .img, 0, 65535⟩
/-- Table 2.10: connection index to inspect -/
def Fe.CONN_SEL : FieldSpec := ⟨0x200100, 0x0, 1, 0x0, 1, 0, 12, .rw, 0, .cmw, 0, 4095⟩
/-- Table 2.10: closes the selected connection by R49; cleared when closed -/
def Fe.CONN_DROP : FieldSpec := ⟨0x20010C, 0x0, 1, 0x0, 1, 0, 1, .rw1s, 0, .cmw, 0, 1⟩
/-- Table 2.11: the index holds an open connection -/
def Fe.VALID : FieldSpec := ⟨0x200104, 0x0, 1, 0x0, 1, 0, 1, .ro, 0, .cmw, 0, 1⟩
/-- Table 2.11: front-end port -/
def Fe.PORT : FieldSpec := ⟨0x200104, 0x0, 1, 0x0, 1, 1, 4, .ro, 0, .cmw, 0, 15⟩
/-- Table 2.11: admin queue -/
def Fe.ADMIN : FieldSpec := ⟨0x200104, 0x0, 1, 0x0, 1, 5, 1, .ro, 0, .cmw, 0, 1⟩
/-- Table 2.11: authentication completed -/
def Fe.AUTH_DONE : FieldSpec := ⟨0x200104, 0x0, 1, 0x0, 1, 6, 1, .ro, 0, .cmw, 0, 1⟩
/-- Table 2.11: header digest enabled -/
def Fe.HDGST : FieldSpec := ⟨0x200104, 0x0, 1, 0x0, 1, 7, 1, .ro, 0, .cmw, 0, 1⟩
/-- Table 2.11: data digest enabled -/
def Fe.DDGST : FieldSpec := ⟨0x200104, 0x0, 1, 0x0, 1, 8, 1, .ro, 0, .cmw, 0, 1⟩
/-- Table 2.11: controller identifier -/
def Fe.CNTLID : FieldSpec := ⟨0x200104, 0x0, 1, 0x0, 1, 16, 16, .ro, 0, .cmw, 0, 65535⟩
/-- Table 2.11: queue identifier -/
def Fe.QID : FieldSpec := ⟨0x200108, 0x0, 1, 0x0, 1, 0, 16, .ro, 0, .cmw, 0, 65535⟩
/-- Table 2.11: commands outstanding, 0 to 128 -/
def Fe.OUTSTANDING : FieldSpec := ⟨0x200108, 0x0, 1, 0x0, 1, 16, 8, .ro, 0, .cmw, 0, 255⟩
/-- Table 2.11: entry in the image's host table -/
def Fe.HOST_IDX : FieldSpec := ⟨0x200108, 0x0, 1, 0x0, 1, 24, 8, .ro, 0, .cmw, 0, 255⟩
/-- Table 2.12: port enabled -/
def FeP.PORT_EN : FieldSpec := ⟨0x210000, 0x0, 1, 0x10000, 16, 0, 1, .rw, 0, .img, 0, 1⟩
/-- Table 2.12: port reset; cleared when retraining begins -/
def FeP.PORT_RESET : FieldSpec := ⟨0x210000, 0x0, 1, 0x10000, 16, 1, 1, .rw1s, 0, .cmwp, 0, 1⟩
/-- Table 2.12: IP MTU, 1 280 to 9 194 -/
def FeP.MTU : FieldSpec := ⟨0x210004, 0x0, 1, 0x10000, 16, 0, 14, .rw, 0, .img, 0, 16383⟩
/-- Table 2.12: VLAN identifier -/
def FeP.VLAN_ID : FieldSpec := ⟨0x210008, 0x0, 1, 0x10000, 16, 0, 12, .rw, 0, .img, 0, 4095⟩
/-- Table 2.12: tagging on (R33) -/
def FeP.VLAN_EN : FieldSpec := ⟨0x210008, 0x0, 1, 0x10000, 16, 12, 1, .rw, 0, .img, 0, 1⟩
/-- Table 2.12: transmitted priority; forced to PFC_PRIO when PFC_EN is 1 -/
def FeP.VLAN_PCP : FieldSpec := ⟨0x210008, 0x0, 1, 0x10000, 16, 13, 3, .rw, 0, .img, 0, 7⟩
/-- Table 2.12: MAC address bits [31:0] -/
def FeP.MAC_LO : FieldSpec := ⟨0x21000C, 0x0, 1, 0x10000, 16, 0, 32, .ro, 0, .none, 0, 4294967295⟩
/-- Table 2.12: MAC address bits [47:32] -/
def FeP.MAC_HI : FieldSpec := ⟨0x210010, 0x0, 1, 0x10000, 16, 0, 16, .ro, 0, .none, 0, 65535⟩
/-- Table 2.12: IPv4 address -/
def FeP.IP4_ADDR : FieldSpec := ⟨0x210014, 0x0, 1, 0x10000, 16, 0, 32, .rw, 0, .img, 0, 4294967295⟩
/-- Table 2.12: IPv4 gateway -/
def FeP.IP4_GW : FieldSpec := ⟨0x210018, 0x0, 1, 0x10000, 16, 0, 32, .rw, 0, .img, 0, 4294967295⟩
/-- Table 2.12: IPv4 prefix length -/
def FeP.IP4_PREFIX : FieldSpec := ⟨0x21001C, 0x0, 1, 0x10000, 16, 0, 6, .rw, 0, .img, 0, 63⟩
/-- Table 2.12: IPv4 address in use -/
def FeP.IP4_EN : FieldSpec := ⟨0x21001C, 0x0, 1, 0x10000, 16, 8, 1, .rw, 0, .img, 0, 1⟩
/-- Table 2.12: IPv6 address; IP6_ADDR0 holds bits [127:96] -/
def FeP.IP6_ADDR : FieldSpec := ⟨0x210020, 0x10000, 16, 0x4, 4, 0, 32, .rw, 0, .img, 0, 4294967295⟩
/-- Table 2.12: IPv6 gateway, same order -/
def FeP.IP6_GW : FieldSpec := ⟨0x210030, 0x10000, 16, 0x4, 4, 0, 32, .rw, 0, .img, 0, 4294967295⟩
/-- Table 2.12: IPv6 prefix length -/
def FeP.IP6_PREFIX : FieldSpec := ⟨0x210040, 0x0, 1, 0x10000, 16, 0, 8, .rw, 0, .img, 0, 255⟩
/-- Table 2.12: IPv6 global address in use -/
def FeP.IP6_EN : FieldSpec := ⟨0x210040, 0x0, 1, 0x10000, 16, 8, 1, .rw, 0, .img, 0, 1⟩
/-- Table 2.12: link-loss hold in ms (R64) -/
def FeP.HOLD_MS : FieldSpec := ⟨0x210044, 0x0, 1, 0x10000, 16, 0, 14, .rw, 2000, .cmw, 0, 16383⟩
/-- Table 2.12: link up -/
def FeP.LINK_UP : FieldSpec := ⟨0x210050, 0x0, 1, 0x10000, 16, 0, 1, .ro, 0, .none, 0, 1⟩
/-- Table 2.12: auto-negotiation complete -/
def FeP.AN_DONE : FieldSpec := ⟨0x210050, 0x0, 1, 0x10000, 16, 1, 1, .ro, 0, .none, 0, 1⟩
/-- Table 2.12: link training complete -/
def FeP.TRAIN_DONE : FieldSpec := ⟨0x210050, 0x0, 1, 0x10000, 16, 2, 1, .ro, 0, .none, 0, 1⟩
/-- Table 2.12: RS-FEC alignment lock -/
def FeP.FEC_ALIGNED : FieldSpec := ⟨0x210050, 0x0, 1, 0x10000, 16, 3, 1, .ro, 0, .none, 0, 1⟩
/-- Table 2.12: enable refused: MTU out of range, or no address enabled -/
def FeP.CFG_ERR : FieldSpec := ⟨0x210050, 0x0, 1, 0x10000, 16, 4, 1, .ro, 0, .cmwp, 0, 1⟩
/-- Table 2.12: IPv4 address claimed by another station -/
def FeP.DUP_ADDR4 : FieldSpec := ⟨0x210050, 0x0, 1, 0x10000, 16, 5, 1, .ro, 0, .cmwp, 0, 1⟩
/-- Table 2.12: IPv6 address not used after Duplicate Address Detection -/
def FeP.DUP_ADDR6 : FieldSpec := ⟨0x210050, 0x0, 1, 0x10000, 16, 6, 1, .ro, 0, .cmwp, 0, 1⟩
/-- Table 2.12: bit g is 1 while group g + 1 is Optimized on this port -/
def FeP.ANA_OPT : FieldSpec := ⟨0x210054, 0x0, 1, 0x10000, 16, 0, 16, .ro, 0, .none, 0, 65535⟩
/-- Table 2.12: connections open on this port -/
def FeP.PORT_CONN : FieldSpec := ⟨0x210058, 0x0, 1, 0x10000, 16, 0, 13, .ro, 0, .none, 0, 8191⟩
/-- Table 2.12: frames received; every counter saturates -/
def FeP.RX_FRAMES : FieldSpec := ⟨0x210060, 0x0, 1, 0x10000, 16, 0, 32, .rc, 0, .cmwp, 0, 4294967295⟩
/-- Table 2.12: frames transmitted -/
def FeP.TX_FRAMES : FieldSpec := ⟨0x210064, 0x0, 1, 0x10000, 16, 0, 32, .rc, 0, .cmwp, 0, 4294967295⟩
/-- Table 2.12: FEC codewords corrected -/
def FeP.FEC_CORR : FieldSpec := ⟨0x210068, 0x0, 1, 0x10000, 16, 0, 32, .rc, 0, .cmwp, 0, 4294967295⟩
/-- Table 2.12: FEC codewords uncorrectable -/
def FeP.FEC_UNCORR : FieldSpec := ⟨0x21006C, 0x0, 1, 0x10000, 16, 0, 32, .rc, 0, .cmwp, 0, 4294967295⟩
/-- Table 2.12: frames with bad FCS -/
def FeP.FCS_ERR : FieldSpec := ⟨0x210070, 0x0, 1, 0x10000, 16, 0, 32, .rc, 0, .cmwp, 0, 4294967295⟩
/-- Table 2.12: frames and packets dropped by R32, R37, R58 -/
def FeP.RX_DROP : FieldSpec := ⟨0x210074, 0x0, 1, 0x10000, 16, 0, 32, .rc, 0, .cmwp, 0, 4294967295⟩
/-- Table 2.12: TCP segments retransmitted -/
def FeP.TCP_RETX : FieldSpec := ⟨0x210078, 0x0, 1, 0x10000, 16, 0, 32, .rc, 0, .cmwp, 0, 4294967295⟩
/-- Table 2.12: PFC XOFF frames sent -/
def FeP.PFC_SENT : FieldSpec := ⟨0x21007C, 0x0, 1, 0x10000, 16, 0, 32, .rc, 0, .cmwp, 0, 4294967295⟩
/-- Table 3.8: open zones, 0 to 65 536 -/
def Zn.OPEN_ZONES : FieldSpec := ⟨0x500000, 0x0, 1, 0x0, 1, 0, 17, .ro, 0, .none, 0, 131071⟩
/-- Table 3.8: active zones, 0 to 1 048 576 -/
def Zn.ACTIVE_ZONES : FieldSpec := ⟨0x500004, 0x0, 1, 0x0, 1, 0, 21, .ro, 0, .none, 0, 2097151⟩
/-- Table 3.8: zones closed by R78; saturates -/
def Zn.EVICTIONS : FieldSpec := ⟨0x500008, 0x0, 1, 0x0, 1, 0, 32, .rc, 0, .cmw, 0, 4294967295⟩
/-- Table 3.8: seals completed; saturates -/
def Zn.SEALS : FieldSpec := ⟨0x50000C, 0x0, 1, 0x0, 1, 0, 32, .rc, 0, .cmw, 0, 4294967295⟩
/-- Table 3.8: seal requests queued, 0 to 64 -/
def Zn.SEAL_QUEUE : FieldSpec := ⟨0x500010, 0x0, 1, 0x0, 1, 0, 7, .ro, 0, .none, 0, 127⟩
/-- Table 3.8: Too Many Open Zones returned -/
def Zn.OPEN_LIMIT : FieldSpec := ⟨0x500014, 0x0, 1, 0x0, 1, 0, 1, .rw1c, 0, .cmw, 0, 1⟩
/-- Table 3.8: Too Many Active Zones returned -/
def Zn.ACTIVE_LIMIT : FieldSpec := ⟨0x500014, 0x0, 1, 0x0, 1, 1, 1, .rw1c, 0, .cmw, 0, 1⟩
/-- Table 3.8: a permit was refused -/
def Zn.PERMIT_FAIL : FieldSpec := ⟨0x500014, 0x0, 1, 0x0, 1, 2, 1, .rw1c, 0, .cmw, 0, 1⟩
/-- Table 3.8: a sealed zone was marked damaged later -/
def Zn.DAMAGE_MARK : FieldSpec := ⟨0x500014, 0x0, 1, 0x0, 1, 3, 1, .rw1c, 0, .cmw, 0, 1⟩
/-- Table 3.8: zones entered Read Only (R72) -/
def Zn.ZONE_RO : FieldSpec := ⟨0x500014, 0x0, 1, 0x0, 1, 4, 1, .rw1c, 0, .cmw, 0, 1⟩
/-- Table 3.8: a zone was reset by permit -/
def Zn.AUTH_RESET : FieldSpec := ⟨0x500014, 0x0, 1, 0x0, 1, 5, 1, .rw1c, 0, .cmw, 0, 1⟩
/-- Table 3.8: bit n enables bit n of 0x50_0014 into the interrupt summary -/
def Zn.ZN_INT_EN : FieldSpec := ⟨0x500018, 0x0, 1, 0x0, 1, 0, 6, .rw, 0, .cmw, 0, 63⟩
/-- Table 3.8: namespace n is zoned, n = 0 to 63 -/
def Zn.ZONED : FieldSpec := ⟨0x500040, 0x0, 1, 0x4, 48, 0, 1, .rwl, 0, .img, 0, 1⟩
/-- Table 3.8: namespace n is zoned, n = 0 to 63 -/
def Zn.ZONED_HI : FieldSpec := ⟨0x500120, 0x0, 1, 0x4, 8, 0, 1, .rwl, 0, .img, 0, 1⟩
/-- Table 3.8: namespace n is an evidence namespace -/
def Zn.EVIDENCE : FieldSpec := ⟨0x500040, 0x0, 1, 0x4, 48, 1, 1, .rwl, 0, .img, 0, 1⟩
/-- Table 3.8: namespace n is an evidence namespace -/
def Zn.EVIDENCE_HI : FieldSpec := ⟨0x500120, 0x0, 1, 0x4, 8, 1, 1, .rwl, 0, .img, 0, 1⟩
/-- Table 3.8: signature of namespace n -/
def Zn.NS_SIG : FieldSpec := ⟨0x500040, 0x0, 1, 0x4, 48, 4, 4, .rwl, 0, .img, 0, 15⟩
/-- Table 3.8: signature of namespace n -/
def Zn.NS_SIG_HI : FieldSpec := ⟨0x500120, 0x0, 1, 0x4, 8, 4, 4, .rwl, 0, .img, 0, 15⟩
/-- Table 3.8: sheets per zone -/
def Zn.ZONE_SHEETS : FieldSpec := ⟨0x500040, 0x0, 1, 0x4, 48, 16, 14, .rwl, 0, .img, 0, 16383⟩
/-- Table 3.8: sheets per zone -/
def Zn.ZONE_SHEETS_HI : FieldSpec := ⟨0x500120, 0x0, 1, 0x4, 8, 16, 14, .rwl, 0, .img, 0, 16383⟩
/-- Table 3.8: open-zone table entry to inspect -/
def Zn.OZT_SEL : FieldSpec := ⟨0x500100, 0x0, 1, 0x0, 1, 0, 16, .rw, 0, .cmw, 0, 65535⟩
/-- Table 3.8: the entry holds an open zone -/
def Zn.OZT_VALID : FieldSpec := ⟨0x500104, 0x0, 1, 0x0, 1, 0, 1, .ro, 0, .cmw, 0, 1⟩
/-- Table 3.8: Implicitly Opened -/
def Zn.IMPLICIT : FieldSpec := ⟨0x500104, 0x0, 1, 0x0, 1, 1, 1, .ro, 0, .cmw, 0, 1⟩
/-- Table 3.8: evidence zone -/
def Zn.OZT_EVID : FieldSpec := ⟨0x500104, 0x0, 1, 0x0, 1, 2, 1, .ro, 0, .cmw, 0, 1⟩
/-- Table 3.8: seal in progress -/
def Zn.SEAL_PENDING : FieldSpec := ⟨0x500104, 0x0, 1, 0x0, 1, 3, 1, .ro, 0, .cmw, 0, 1⟩
/-- Table 3.8: zone holds a hellbox block -/
def Zn.DAMAGED : FieldSpec := ⟨0x500104, 0x0, 1, 0x0, 1, 4, 1, .ro, 0, .cmw, 0, 1⟩
/-- Table 3.8: namespace index -/
def Zn.NS_INDEX : FieldSpec := ⟨0x500104, 0x0, 1, 0x0, 1, 16, 6, .ro, 0, .cmw, 0, 63⟩
/-- Table 3.8: zone index in the namespace -/
def Zn.ZONE_INDEX : FieldSpec := ⟨0x500108, 0x0, 1, 0x0, 1, 0, 32, .ro, 0, .cmw, 0, 4294967295⟩
/-- Table 3.8: write pointer, namespace LBA bits [31:0] -/
def Zn.WP_LO : FieldSpec := ⟨0x50010C, 0x0, 1, 0x0, 1, 0, 32, .ro, 0, .cmw, 0, 4294967295⟩
/-- Table 3.8: write pointer bits [63:32] -/
def Zn.WP_HI : FieldSpec := ⟨0x500110, 0x0, 1, 0x0, 1, 0, 32, .ro, 0, .cmw, 0, 4294967295⟩
/-- Table 3.8: blocks in the galley -/
def Zn.GALLEY_FILL : FieldSpec := ⟨0x500114, 0x0, 1, 0x0, 1, 0, 13, .ro, 0, .cmw, 0, 8191⟩
/-- Table 3.8: last-write impression, bits [31:0] -/
def Zn.LAST_WRITE : FieldSpec := ⟨0x500118, 0x0, 1, 0x0, 1, 0, 32, .ro, 0, .cmw, 0, 4294967295⟩
/-- Table 3.8: reserved: blocks of admitted appends not yet assigned, 0 to 1 048 576 -/
def Zn.RESERVED_NLB : FieldSpec := ⟨0x50011C, 0x0, 1, 0x0, 1, 0, 21, .ro, 0, .cmw, 0, 2097151⟩
/-- Table 4.10: member drives, 8 to 128 -/
def Sig.SIG_N : FieldSpec := ⟨0x100000, 0x0, 1, 0x10000, 16, 0, 8, .rwl, 0, .img, 0, 255⟩
/-- Table 4.10: data folios per sheet, 4 to 30 -/
def Sig.SIG_K : FieldSpec := ⟨0x100000, 0x0, 1, 0x10000, 16, 8, 5, .rwl, 0, .img, 0, 31⟩
/-- Table 4.10: spare drive-equivalents, 0 to 4 -/
def Sig.SIG_S : FieldSpec := ⟨0x100000, 0x0, 1, 0x10000, 16, 16, 3, .rwl, 0, .img, 0, 7⟩
/-- Table 4.10: 0: 128 KiB; 1: 256 KiB; 2: 512 KiB; 3: 1 MiB -/
def Sig.FOLIO_CODE : FieldSpec := ⟨0x100000, 0x0, 1, 0x10000, 16, 20, 2, .rwl, 0, .img, 0, 3⟩
/-- Table 4.10: packed check mode (R99) -/
def Sig.PACKED_CHECK : FieldSpec := ⟨0x100000, 0x0, 1, 0x10000, 16, 24, 1, .rwl, 0, .img, 0, 1⟩
/-- Table 4.10: the image defines signature g -/
def Sig.SIG_DEFINED : FieldSpec := ⟨0x100000, 0x0, 1, 0x10000, 16, 31, 1, .rwl, 0, .img, 0, 1⟩
/-- Table 4.10: sheet slots per member per cycle -/
def Sig.C_SHEET : FieldSpec := ⟨0x100004, 0x0, 1, 0x10000, 16, 0, 16, .rwl, 0, .img, 0, 65535⟩
/-- Table 4.10: spare slots per member, cycle and level -/
def Sig.C_SPARE : FieldSpec := ⟨0x100004, 0x0, 1, 0x10000, 16, 16, 16, .rwl, 0, .img, 0, 65535⟩
/-- Table 4.10: slots per member per cycle -/
def Sig.C_STRIDE : FieldSpec := ⟨0x100008, 0x0, 1, 0x10000, 16, 0, 16, .rwl, 0, .img, 0, 65535⟩
/-- Table 4.10: sheets in the metadata area -/
def Sig.META_SHEETS : FieldSpec := ⟨0x100008, 0x0, 1, 0x10000, 16, 16, 16, .rwl, 0, .img, 0, 65535⟩
/-- Table 4.10: cycles, set at ASSEMBLE (R113) -/
def Sig.CYCLES : FieldSpec := ⟨0x10000C, 0x0, 1, 0x10000, 16, 0, 32, .ro, 0, .cmw, 0, 4294967295⟩
/-- Table 4.10: sheets, bits [31:0] -/
def Sig.SHEETS_LO : FieldSpec := ⟨0x100010, 0x0, 1, 0x10000, 16, 0, 32, .ro, 0, .cmw, 0, 4294967295⟩
/-- Table 4.10: sheets, bits [63:32] -/
def Sig.SHEETS_HI : FieldSpec := ⟨0x100014, 0x0, 1, 0x10000, 16, 0, 32, .ro, 0, .cmw, 0, 4294967295⟩
/-- Table 4.10: B_min in force (R113), bits [31:0] -/
def Sig.MIN_BLOCKS_LO : FieldSpec := ⟨0x100018, 0x0, 1, 0x10000, 16, 0, 32, .ro, 0, .cmw, 0, 4294967295⟩
/-- Table 4.10: bits [63:32] -/
def Sig.MIN_BLOCKS_HI : FieldSpec := ⟨0x10001C, 0x0, 1, 0x10000, 16, 0, 32, .ro, 0, .cmw, 0, 4294967295⟩
/-- Table 4.10: unusable tail blocks per member -/
def Sig.TAIL_BLOCKS : FieldSpec := ⟨0x100020, 0x0, 1, 0x10000, 16, 0, 32, .ro, 0, .cmw, 0, 4294967295⟩
/-- Table 4.10: drive index to inspect -/
def Sig.MEMBER_SEL : FieldSpec := ⟨0x100040, 0x0, 1, 0x10000, 16, 0, 7, .rw, 0, .cmw, 0, 127⟩
/-- Table 4.10: drive port of the selected member -/
def Sig.MEMBER_PORT : FieldSpec := ⟨0x100044, 0x0, 1, 0x10000, 16, 0, 7, .ro, 0, .cmw, 0, 127⟩
/-- Table 4.10: the index is below SIG_N -/
def Sig.MEMBER_VALID : FieldSpec := ⟨0x100044, 0x0, 1, 0x10000, 16, 31, 1, .ro, 0, .cmw, 0, 1⟩
/-- Table 4.10: sig_base of the selected member -/
def Sig.MEMBER_BASE : FieldSpec := ⟨0x100048, 0x0, 1, 0x10000, 16, 0, 32, .ro, 0, .cmw, 0, 4294967295⟩
/-- Table 4.10: sheet to map, bits [31:0] -/
def Sig.MAP_SHEET_LO : FieldSpec := ⟨0x100050, 0x0, 1, 0x10000, 16, 0, 32, .rw, 0, .cmw, 0, 4294967295⟩
/-- Table 4.10: bits [63:32] -/
def Sig.MAP_SHEET_HI : FieldSpec := ⟨0x100054, 0x0, 1, 0x10000, 16, 0, 32, .rw, 0, .cmw, 0, 4294967295⟩
/-- Table 4.10: sheet position, 0 to w − 1 -/
def Sig.MAP_POS : FieldSpec := ⟨0x100058, 0x0, 1, 0x10000, 16, 0, 5, .rw, 0, .cmw, 0, 31⟩
/-- Table 4.10: starts a mapping; cleared when the result is written -/
def Sig.MAP_GO : FieldSpec := ⟨0x100058, 0x0, 1, 0x10000, 16, 8, 1, .rw1s, 0, .cmw, 0, 1⟩
/-- Table 4.10: drive index of the result -/
def Sig.MAP_DRIVE : FieldSpec := ⟨0x10005C, 0x0, 1, 0x10000, 16, 0, 7, .ro, 0, .cmw, 0, 127⟩
/-- Table 4.10: the result is valid -/
def Sig.MAP_VALID : FieldSpec := ⟨0x10005C, 0x0, 1, 0x10000, 16, 31, 1, .ro, 0, .cmw, 0, 1⟩
/-- Table 4.10: drive LBA of the folio's first data block, bits [31:0] -/
def Sig.MAP_LBA_LO : FieldSpec := ⟨0x100060, 0x0, 1, 0x10000, 16, 0, 32, .ro, 0, .cmw, 0, 4294967295⟩
/-- Table 4.10: bits [63:32] -/
def Sig.MAP_LBA_HI : FieldSpec := ⟨0x100064, 0x0, 1, 0x10000, 16, 0, 32, .ro, 0, .cmw, 0, 4294967295⟩
/-- Table 5.6: region size in GiB, 1 to 64 (R136) -/
def Sig.REGION_GIB : FieldSpec := ⟨0x100080, 0x0, 1, 0x10000, 16, 0, 7, .rwl, 0, .img, 0, 127⟩
/-- Table 5.6: sheets per region -/
def Sig.REGION_SHEETS : FieldSpec := ⟨0x100084, 0x0, 1, 0x10000, 16, 0, 32, .ro, 0, .cmw, 0, 4294967295⟩
/-- Table 5.6: regions in the signature -/
def Sig.REGIONS : FieldSpec := ⟨0x100088, 0x0, 1, 0x10000, 16, 0, 24, .ro, 0, .cmw, 0, 16777215⟩
/-- Table 5.6: forced-destage age in ms, 100 to 60 000 (R124) -/
def Sig.DESTAGE_AGE : FieldSpec := ⟨0x10008C, 0x0, 1, 0x10000, 16, 0, 16, .rw, 0, .img, 100, 60000⟩
/-- Table 5.6: newest issued generation, bits [31:0] -/
def Sig.BMP_GEN_LO : FieldSpec := ⟨0x100090, 0x0, 1, 0x10000, 16, 0, 32, .ro, 0, .cmw, 0, 4294967295⟩
/-- Table 5.6: bits [63:32] -/
def Sig.BMP_GEN_HI : FieldSpec := ⟨0x100094, 0x0, 1, 0x10000, 16, 0, 32, .ro, 0, .cmw, 0, 4294967295⟩
/-- Table 5.6: bits set in the Case bitmap -/
def Sig.BITS_SET : FieldSpec := ⟨0x100098, 0x0, 1, 0x10000, 16, 0, 24, .ro, 0, .cmw, 0, 16777215⟩
/-- Table 5.6: drive index of the first holder; 0x7F none -/
def Sig.HOLDER0 : FieldSpec := ⟨0x10009C, 0x0, 1, 0x10000, 16, 0, 7, .ro, 127, .cmw, 0, 127⟩
/-- Table 5.6: second holder -/
def Sig.HOLDER1 : FieldSpec := ⟨0x10009C, 0x0, 1, 0x10000, 16, 8, 7, .ro, 127, .cmw, 0, 127⟩
/-- Table 5.6: third holder -/
def Sig.HOLDER2 : FieldSpec := ⟨0x10009C, 0x0, 1, 0x10000, 16, 16, 7, .ro, 127, .cmw, 0, 127⟩
/-- Table 5.6: holder candidate 0; 0x7F none (R137) -/
def Sig.BMP_CAND0 : FieldSpec := ⟨0x1000A0, 0x0, 1, 0x10000, 16, 0, 7, .rwl, 0, .img, 0, 127⟩
/-- Table 5.6: candidate 1 -/
def Sig.BMP_CAND1 : FieldSpec := ⟨0x1000A0, 0x0, 1, 0x10000, 16, 8, 7, .rwl, 0, .img, 0, 127⟩
/-- Table 5.6: candidate 2 -/
def Sig.BMP_CAND2 : FieldSpec := ⟨0x1000A0, 0x0, 1, 0x10000, 16, 16, 7, .rwl, 0, .img, 0, 127⟩
/-- Table 5.6: candidate 3 -/
def Sig.BMP_CAND3 : FieldSpec := ⟨0x1000A0, 0x0, 1, 0x10000, 16, 24, 7, .rwl, 0, .img, 0, 127⟩
/-- Table 5.6: candidate 4 -/
def Sig.BMP_CAND4 : FieldSpec := ⟨0x1000A4, 0x0, 1, 0x10000, 16, 0, 7, .rwl, 0, .img, 0, 127⟩
/-- Table 5.6: candidate 5 -/
def Sig.BMP_CAND5 : FieldSpec := ⟨0x1000A4, 0x0, 1, 0x10000, 16, 8, 7, .rwl, 0, .img, 0, 127⟩
/-- Table 5.6: candidate 6 -/
def Sig.BMP_CAND6 : FieldSpec := ⟨0x1000A4, 0x0, 1, 0x10000, 16, 16, 7, .rwl, 0, .img, 0, 127⟩
/-- Table 5.6: candidate 7 -/
def Sig.BMP_CAND7 : FieldSpec := ⟨0x1000A4, 0x0, 1, 0x10000, 16, 24, 7, .rwl, 0, .img, 0, 127⟩
/-- Table 5.6: sheet updates of the signature in flight -/
def Sig.UPDATES : FieldSpec := ⟨0x1000A8, 0x0, 1, 0x10000, 16, 0, 13, .ro, 0, .cmw, 0, 8191⟩
/-- Table 5.6: 0: none; 1: marked regions (R144); 2: whole signature (R147) -/
def Sig.RESYNC_STATE : FieldSpec := ⟨0x1000AC, 0x0, 1, 0x10000, 16, 0, 2, .ro, 0, .cmw, 0, 3⟩
/-- Table 5.6: regions still awaiting resynchronisation -/
def Sig.RESYNC_LEFT : FieldSpec := ⟨0x1000B0, 0x0, 1, 0x10000, 16, 0, 24, .ro, 0, .cmw, 0, 16777215⟩
/-- Table 5.6: sheets whose P, Q or data was rewritten by R145; saturates -/
def Sig.RESYNC_FIXED : FieldSpec := ⟨0x1000B4, 0x0, 1, 0x10000, 16, 0, 32, .rc, 0, .cmw, 0, 4294967295⟩
/-- Table 5.6: a copy older or invalid was rewritten (R144) -/
def Sig.BMP_STALE : FieldSpec := ⟨0x1000B8, 0x0, 1, 0x10000, 16, 0, 1, .rw1c, 0, .cmw, 0, 1⟩
/-- Table 5.6: a holder's copy was lost and replaced (R148) -/
def Sig.HOLDER_LOST : FieldSpec := ⟨0x1000B8, 0x0, 1, 0x10000, 16, 1, 1, .rw1c, 0, .cmw, 0, 1⟩
/-- Table 5.6: fewer than three holders are in service -/
def Sig.HOLDER_SHORT : FieldSpec := ⟨0x1000B8, 0x0, 1, 0x10000, 16, 2, 1, .ro, 0, .cmw, 0, 1⟩
/-- Table 5.6: a resynchronisation finished -/
def Sig.RESYNC_DONE : FieldSpec := ⟨0x1000B8, 0x0, 1, 0x10000, 16, 3, 1, .rw1c, 0, .cmw, 0, 1⟩
/-- Table 5.6: a resynchronisation added hellbox entries -/
def Sig.RESYNC_LOSS : FieldSpec := ⟨0x1000B8, 0x0, 1, 0x10000, 16, 4, 1, .rw1c, 0, .cmw, 0, 1⟩
/-- Table 5.6: no valid bitmap copy was found (R147) -/
def Sig.BMP_ALL_LOST : FieldSpec := ⟨0x1000B8, 0x0, 1, 0x10000, 16, 5, 1, .rw1c, 0, .cmw, 0, 1⟩
/-- Table 5.6: bit m enables bit m of 0x00B8 into the interrupt summary -/
def Sig.WP_INT_EN : FieldSpec := ⟨0x1000BC, 0x0, 1, 0x10000, 16, 0, 6, .rw, 0, .cmw, 0, 63⟩
/-- Table 5.6: full-sheet updates retired; saturates -/
def Sig.FULL_UPDATES : FieldSpec := ⟨0x1000C0, 0x0, 1, 0x10000, 16, 0, 32, .rc, 0, .cmw, 0, 4294967295⟩
/-- Table 5.6: partial-sheet and partial-completion updates retired; saturates -/
def Sig.PARTIAL_UPDATES : FieldSpec := ⟨0x1000C4, 0x0, 1, 0x10000, 16, 0, 32, .rc, 0, .cmw, 0, 4294967295⟩
/-- Table 5.6: read-modify-write updates retired; saturates -/
def Sig.RMW_UPDATES : FieldSpec := ⟨0x1000C8, 0x0, 1, 0x10000, 16, 0, 32, .rc, 0, .cmw, 0, 4294967295⟩
/-- Table 6.5: silent-corruption events in 24 operating hours that retire a drive; 0 … -/
def Sig.RETIRE_THRESH : FieldSpec := ⟨0x100100, 0x0, 1, 0x10000, 16, 0, 8, .rw, 0, .img, 0, 255⟩
/-- Table 6.5: proofing pass enabled (R170) -/
def Sig.PROOF_EN : FieldSpec := ⟨0x100100, 0x0, 1, 0x10000, 16, 8, 1, .rw, 0, .img, 0, 1⟩
/-- Table 6.5: target lap in days, 1 to 365 (R173) -/
def Sig.PROOF_TARGET : FieldSpec := ⟨0x100100, 0x0, 1, 0x10000, 16, 16, 9, .rw, 0, .img, 1, 365⟩
/-- Table 6.5: hellbox extents, 0 to 65 536 -/
def Sig.HB_ENTRIES : FieldSpec := ⟨0x100104, 0x0, 1, 0x10000, 16, 0, 17, .ro, 0, .cmw, 0, 131071⟩
/-- Table 6.5: hellbox blocks, bits [31:0] -/
def Sig.HB_BLOCKS_LO : FieldSpec := ⟨0x100108, 0x0, 1, 0x10000, 16, 0, 32, .ro, 0, .cmw, 0, 4294967295⟩
/-- Table 6.5: bits [63:32] -/
def Sig.HB_BLOCKS_HI : FieldSpec := ⟨0x10010C, 0x0, 1, 0x10000, 16, 0, 32, .ro, 0, .cmw, 0, 4294967295⟩
/-- Table 6.5: extent to inspect -/
def Sig.HB_SEL : FieldSpec := ⟨0x100110, 0x0, 1, 0x10000, 16, 0, 16, .rw, 0, .cmw, 0, 65535⟩
/-- Table 6.5: start sig_lbn of the selected extent, bits [31:0] -/
def Sig.HB_START_LO : FieldSpec := ⟨0x100114, 0x0, 1, 0x10000, 16, 0, 32, .ro, 0, .cmw, 0, 4294967295⟩
/-- Table 6.5: bits [63:32] -/
def Sig.HB_START_HI : FieldSpec := ⟨0x100118, 0x0, 1, 0x10000, 16, 0, 32, .ro, 0, .cmw, 0, 4294967295⟩
/-- Table 6.5: blocks in the selected extent -/
def Sig.HB_COUNT : FieldSpec := ⟨0x10011C, 0x0, 1, 0x10000, 16, 0, 32, .ro, 0, .cmw, 0, 4294967295⟩
/-- Table 6.5: HB_SEL is below HB_ENTRIES -/
def Sig.HB_VALID : FieldSpec := ⟨0x100120, 0x0, 1, 0x10000, 16, 0, 1, .ro, 0, .cmw, 0, 1⟩
/-- Table 6.5: the extent lies in the metadata area -/
def Sig.HB_META : FieldSpec := ⟨0x100120, 0x0, 1, 0x10000, 16, 1, 1, .ro, 0, .cmw, 0, 1⟩
/-- Table 6.5: cause code, Table 6.2 -/
def Sig.HB_CAUSE : FieldSpec := ⟨0x100120, 0x0, 1, 0x10000, 16, 8, 4, .ro, 0, .cmw, 0, 15⟩
/-- Table 6.5: namespace index of the extent -/
def Sig.HB_NS : FieldSpec := ⟨0x100120, 0x0, 1, 0x10000, 16, 16, 6, .ro, 0, .cmw, 0, 63⟩
/-- Table 6.5: next sheet to proof, bits [31:0]; restored at ASSEMBLE (R167) -/
def Sig.PROOF_POS_LO : FieldSpec := ⟨0x100124, 0x0, 1, 0x10000, 16, 0, 32, .ro, 0, .cmw, 0, 4294967295⟩
/-- Table 6.5: bits [63:32] -/
def Sig.PROOF_POS_HI : FieldSpec := ⟨0x100128, 0x0, 1, 0x10000, 16, 0, 32, .ro, 0, .cmw, 0, 4294967295⟩
/-- Table 6.5: operating time of the current lap, 1/1024 h -/
def Sig.LAP_ELAPSED : FieldSpec := ⟨0x10012C, 0x0, 1, 0x10000, 16, 0, 32, .ro, 0, .cmw, 0, 4294967295⟩
/-- Table 6.5: operating time of the last completed lap, 1/1024 h; 0 before the first -/
def Sig.LAST_LAP : FieldSpec := ⟨0x100130, 0x0, 1, 0x10000, 16, 0, 32, .ro, 0, .cmw, 0, 4294967295⟩
/-- Table 6.5: laps completed; wraps -/
def Sig.LAP_COUNT : FieldSpec := ⟨0x100134, 0x0, 1, 0x10000, 16, 0, 16, .ro, 0, .cmw, 0, 65535⟩
/-- Table 6.5: 0: disabled; 1: running; 2: stopped by R170 -/
def Sig.PROOF_STATE : FieldSpec := ⟨0x100138, 0x0, 1, 0x10000, 16, 0, 2, .ro, 0, .cmw, 0, 3⟩
/-- Table 6.5: silent-corruption events repaired; saturates -/
def Sig.SILENT_FIX : FieldSpec := ⟨0x10013C, 0x0, 1, 0x10000, 16, 0, 32, .rc, 0, .cmw, 0, 4294967295⟩
/-- Table 6.5: medium errors repaired; saturates -/
def Sig.MEDIUM_FIX : FieldSpec := ⟨0x100140, 0x0, 1, 0x10000, 16, 0, 32, .rc, 0, .cmw, 0, 4294967295⟩
/-- Table 6.5: offsets repaired by the proofing pass; saturates -/
def Sig.PROOF_FIXED : FieldSpec := ⟨0x100144, 0x0, 1, 0x10000, 16, 0, 32, .rc, 0, .cmw, 0, 4294967295⟩
/-- Table 6.5: reads that needed a reconstruction; saturates -/
def Sig.RECON_READS : FieldSpec := ⟨0x100148, 0x0, 1, 0x10000, 16, 0, 32, .rc, 0, .cmw, 0, 4294967295⟩
/-- Table 6.5: silent corruption was found -/
def Sig.SILENT_CORR : FieldSpec := ⟨0x10014C, 0x0, 1, 0x10000, 16, 0, 1, .rw1c, 0, .cmw, 0, 1⟩
/-- Table 6.5: blocks entered the hellbox -/
def Sig.HB_ADD : FieldSpec := ⟨0x10014C, 0x0, 1, 0x10000, 16, 1, 1, .rw1c, 0, .cmw, 0, 1⟩
/-- Table 6.5: extents were coalesced (R165) -/
def Sig.HB_FULL : FieldSpec := ⟨0x10014C, 0x0, 1, 0x10000, 16, 2, 1, .rw1c, 0, .cmw, 0, 1⟩
/-- Table 6.5: the hellbox could not be restored (R168) -/
def Sig.HB_UNKNOWN : FieldSpec := ⟨0x10014C, 0x0, 1, 0x10000, 16, 3, 1, .ro, 0, .cmw, 0, 1⟩
/-- Table 6.5: a proofing lap completed -/
def Sig.PROOF_DONE : FieldSpec := ⟨0x10014C, 0x0, 1, 0x10000, 16, 4, 1, .rw1c, 0, .cmw, 0, 1⟩
/-- Table 6.5: the current lap exceeds PROOF_TARGET -/
def Sig.PROOF_SLOW : FieldSpec := ⟨0x10014C, 0x0, 1, 0x10000, 16, 5, 1, .rw1c, 0, .cmw, 0, 1⟩
/-- Table 6.5: a drive reached RETIRE_THRESH -/
def Sig.DRIVE_RETIRED : FieldSpec := ⟨0x10014C, 0x0, 1, 0x10000, 16, 6, 1, .rw1c, 0, .cmw, 0, 1⟩
/-- Table 6.5: a drive failed the self-test of R160 twice -/
def Sig.SELFTEST_FAIL : FieldSpec := ⟨0x10014C, 0x0, 1, 0x10000, 16, 7, 1, .rw1c, 0, .cmw, 0, 1⟩
/-- Table 6.5: bit m enables bit m of 0x014C into the interrupt summary -/
def Sig.RD_INT_EN : FieldSpec := ⟨0x100150, 0x0, 1, 0x10000, 16, 0, 8, .rw, 0, .cmw, 0, 255⟩
/-- Table 6.5: drive index to inspect -/
def Sig.CORR_SEL : FieldSpec := ⟨0x100160, 0x0, 1, 0x10000, 16, 0, 7, .rw, 0, .cmw, 0, 127⟩
/-- Table 6.5: silent-corruption events of the member in the last 24 operating hours -/
def Sig.CORR_24H : FieldSpec := ⟨0x100164, 0x0, 1, 0x10000, 16, 0, 8, .ro, 0, .cmw, 0, 255⟩
/-- Table 6.5: silent-corruption events of the member since it joined the signature; … -/
def Sig.CORR_TOTAL : FieldSpec := ⟨0x100168, 0x0, 1, 0x10000, 16, 0, 32, .ro, 0, .cmw, 0, 4294967295⟩
/-- Table 7.8: 0 optimal; 1 degraded; 2 critical; 3 degraded with loss (R194) -/
def Sig.SIG_HEALTH : FieldSpec := ⟨0x100180, 0x0, 1, 0x10000, 16, 0, 2, .ro, 0, .cmw, 0, 3⟩
/-- Table 7.8: unrestored members -/
def Sig.UNRESTORED : FieldSpec := ⟨0x100180, 0x0, 1, 0x10000, 16, 8, 8, .ro, 0, .cmw, 0, 255⟩
/-- Table 7.8: spare levels held, 0 to 4 -/
def Sig.LEVELS_USED : FieldSpec := ⟨0x100180, 0x0, 1, 0x10000, 16, 16, 3, .ro, 0, .cmw, 0, 7⟩
/-- Table 7.8: 0 idle; 1 critical items; 2 normal items; 3 copyback only -/
def Sig.RB_PHASE : FieldSpec := ⟨0x100180, 0x0, 1, 0x10000, 16, 20, 2, .ro, 0, .cmw, 0, 3⟩
/-- Table 7.8: drive index to fail (R177) -/
def Sig.FAIL_DRIVE : FieldSpec := ⟨0x100184, 0x0, 1, 0x10000, 16, 0, 7, .rw, 0, .cmw, 0, 127⟩
/-- Table 7.8: fail even with another member unrestored -/
def Sig.FAIL_FORCE : FieldSpec := ⟨0x100184, 0x0, 1, 0x10000, 16, 8, 1, .rw, 0, .cmw, 0, 1⟩
/-- Table 7.8: starts the request; cleared when taken or refused -/
def Sig.FAIL_GO : FieldSpec := ⟨0x100184, 0x0, 1, 0x10000, 16, 9, 1, .rw1s, 0, .cmw, 0, 1⟩
/-- Table 7.8: a member was declared failed -/
def Sig.DRIVE_FAILED : FieldSpec := ⟨0x100188, 0x0, 1, 0x10000, 16, 0, 1, .rw1c, 0, .cmw, 0, 1⟩
/-- Table 7.8: a walk ended -/
def Sig.REBUILD_DONE : FieldSpec := ⟨0x100188, 0x0, 1, 0x10000, 16, 1, 1, .rw1c, 0, .cmw, 0, 1⟩
/-- Table 7.8: a rebuild item added hellbox entries -/
def Sig.RB_LOSS : FieldSpec := ⟨0x100188, 0x0, 1, 0x10000, 16, 2, 1, .rw1c, 0, .cmw, 0, 1⟩
/-- Table 7.8: a copyback ended -/
def Sig.COPYBACK_DONE : FieldSpec := ⟨0x100188, 0x0, 1, 0x10000, 16, 3, 1, .rw1c, 0, .cmw, 0, 1⟩
/-- Table 7.8: a host request was refused -/
def Sig.FAIL_REFUSED : FieldSpec := ⟨0x100188, 0x0, 1, 0x10000, 16, 4, 1, .rw1c, 0, .cmw, 0, 1⟩
/-- Table 7.8: a replacement was refused or failed format -/
def Sig.REPL_REFUSED : FieldSpec := ⟨0x100188, 0x0, 1, 0x10000, 16, 5, 1, .rw1c, 0, .cmw, 0, 1⟩
/-- Table 7.8: a declaration is deferred (R176) -/
def Sig.RETIRE_DEFER : FieldSpec := ⟨0x100188, 0x0, 1, 0x10000, 16, 6, 1, .ro, 0, .cmw, 0, 1⟩
/-- Table 7.8: a folio could not be placed -/
def Sig.UNPLACEABLE : FieldSpec := ⟨0x100188, 0x0, 1, 0x10000, 16, 7, 1, .rw1c, 0, .cmw, 0, 1⟩
/-- Table 7.8: a failed member has no entry -/
def Sig.NO_ENTRY : FieldSpec := ⟨0x100188, 0x0, 1, 0x10000, 16, 8, 1, .ro, 0, .cmw, 0, 1⟩
/-- Table 7.8: no failure entries could be restored (R184) -/
def Sig.RB_STATE_LOST : FieldSpec := ⟨0x100188, 0x0, 1, 0x10000, 16, 9, 1, .rw1c, 0, .cmw, 0, 1⟩
/-- Table 7.8: bit m enables bit m of 0x0188 into the interrupt summary -/
def Sig.RB_INT_EN : FieldSpec := ⟨0x10018C, 0x0, 1, 0x10000, 16, 0, 10, .rw, 0, .cmw, 0, 1023⟩
/-- Table 7.8: failure entry to inspect -/
def Sig.ENT_SEL : FieldSpec := ⟨0x100190, 0x0, 1, 0x10000, 16, 0, 3, .rw, 0, .cmw, 0, 7⟩
/-- Table 7.8: Table 7.4 code -/
def Sig.ENT_STATE : FieldSpec := ⟨0x100194, 0x0, 1, 0x10000, 16, 0, 3, .ro, 0, .cmw, 0, 7⟩
/-- Table 7.8: repl -/
def Sig.ENT_REPL : FieldSpec := ⟨0x100194, 0x0, 1, 0x10000, 16, 3, 1, .ro, 0, .cmw, 0, 1⟩
/-- Table 7.8: target is direct -/
def Sig.ENT_DIRECT : FieldSpec := ⟨0x100194, 0x0, 1, 0x10000, 16, 4, 1, .ro, 0, .cmw, 0, 1⟩
/-- Table 7.8: spare level; 7 none -/
def Sig.ENT_LEVEL : FieldSpec := ⟨0x100194, 0x0, 1, 0x10000, 16, 8, 3, .ro, 0, .cmw, 0, 7⟩
/-- Table 7.8: Table 7.1 code -/
def Sig.ENT_CAUSE : FieldSpec := ⟨0x100194, 0x0, 1, 0x10000, 16, 12, 3, .ro, 0, .cmw, 0, 7⟩
/-- Table 7.8: drive index -/
def Sig.ENT_DRIVE : FieldSpec := ⟨0x100194, 0x0, 1, 0x10000, 16, 16, 7, .ro, 0, .cmw, 0, 127⟩
/-- Table 7.8: windows, 0 to 16 -/
def Sig.ENT_WINDOWS : FieldSpec := ⟨0x100194, 0x0, 1, 0x10000, 16, 24, 5, .ro, 0, .cmw, 0, 31⟩
/-- Table 7.8: low, bits [31:0] -/
def Sig.ENT_LOW_LO : FieldSpec := ⟨0x100198, 0x0, 1, 0x10000, 16, 0, 32, .ro, 0, .cmw, 0, 4294967295⟩
/-- Table 7.8: bits [63:32] -/
def Sig.ENT_LOW_HI : FieldSpec := ⟨0x10019C, 0x0, 1, 0x10000, 16, 0, 32, .ro, 0, .cmw, 0, 4294967295⟩
/-- Table 7.8: high, bits [31:0] -/
def Sig.ENT_HIGH_LO : FieldSpec := ⟨0x1001A0, 0x0, 1, 0x10000, 16, 0, 32, .ro, 0, .cmw, 0, 4294967295⟩
/-- Table 7.8: bits [63:32] -/
def Sig.ENT_HIGH_HI : FieldSpec := ⟨0x1001A4, 0x0, 1, 0x10000, 16, 0, 32, .ro, 0, .cmw, 0, 4294967295⟩
/-- Table 7.8: n, bits [31:0] -/
def Sig.ENT_N_LO : FieldSpec := ⟨0x1001A8, 0x0, 1, 0x10000, 16, 0, 32, .ro, 0, .cmw, 0, 4294967295⟩
/-- Table 7.8: bits [63:32] -/
def Sig.ENT_N_HI : FieldSpec := ⟨0x1001AC, 0x0, 1, 0x10000, 16, 0, 32, .ro, 0, .cmw, 0, 4294967295⟩
/-- Table 7.8: y, bits [31:0] -/
def Sig.ENT_Y_LO : FieldSpec := ⟨0x1001B0, 0x0, 1, 0x10000, 16, 0, 32, .ro, 0, .cmw, 0, 4294967295⟩
/-- Table 7.8: bits [63:32] -/
def Sig.ENT_Y_HI : FieldSpec := ⟨0x1001B4, 0x0, 1, 0x10000, 16, 0, 32, .ro, 0, .cmw, 0, 4294967295⟩
/-- Table 7.8: folios still to place or move, bits [31:0] -/
def Sig.ENT_TODO_LO : FieldSpec := ⟨0x1001B8, 0x0, 1, 0x10000, 16, 0, 32, .ro, 0, .cmw, 0, 4294967295⟩
/-- Table 7.8: bits [63:32] -/
def Sig.ENT_TODO_HI : FieldSpec := ⟨0x1001BC, 0x0, 1, 0x10000, 16, 0, 32, .ro, 0, .cmw, 0, 4294967295⟩
/-- Table 7.8: unplaceable folios; saturates -/
def Sig.ENT_UNPLACED : FieldSpec := ⟨0x1001C0, 0x0, 1, 0x10000, 16, 0, 32, .ro, 0, .cmw, 0, 4294967295⟩
/-- Table 7.8: operating time of declaration, 1/1024 h -/
def Sig.ENT_DECLARED : FieldSpec := ⟨0x1001C4, 0x0, 1, 0x10000, 16, 0, 32, .ro, 0, .cmw, 0, 4294967295⟩
/-- Table 7.8: estimated seconds to the end of the walk or copyback -/
def Sig.ENT_ETA : FieldSpec := ⟨0x1001C8, 0x0, 1, 0x10000, 16, 0, 32, .ro, 0, .cmw, 0, 4294967295⟩
/-- Table 7.8: sheets the unfinished windows of the signature still have to visit, … -/
def Sig.CRIT_LEFT_LO : FieldSpec := ⟨0x1001CC, 0x0, 1, 0x10000, 16, 0, 32, .ro, 0, .cmw, 0, 4294967295⟩
/-- Table 7.8: bits [63:32] -/
def Sig.CRIT_LEFT_HI : FieldSpec := ⟨0x1001D0, 0x0, 1, 0x10000, 16, 0, 32, .ro, 0, .cmw, 0, 4294967295⟩
/-- Table 7.8: sheets at which a rebuild item found three or more lost positions; … -/
def Sig.RB_LOSS_SHEETS : FieldSpec := ⟨0x1001D4, 0x0, 1, 0x10000, 16, 0, 32, .rc, 0, .cmw, 0, 4294967295⟩
/-- Table 7.8: survivor blocks written back by rebuild items; saturates -/
def Sig.RB_SECTOR_FIX : FieldSpec := ⟨0x1001D8, 0x0, 1, 0x10000, 16, 0, 32, .rc, 0, .cmw, 0, 4294967295⟩
/-- Table 8.3: 0 none; 1 committed, not begun; 2 copying; 3 paused (R207); 4 … -/
def Sig.RS_STATE : FieldSpec := ⟨0x100200, 0x0, 1, 0x10000, 16, 0, 3, .ro, 0, .cmw, 0, 7⟩
/-- Table 8.3: direction DOWN (R202) -/
def Sig.RS_DOWN : FieldSpec := ⟨0x100200, 0x0, 1, 0x10000, 16, 4, 1, .ro, 0, .cmw, 0, 1⟩
/-- Table 8.3: paused by C5 items or SIG_HEALTH -/
def Sig.RS_PAUSE_RB : FieldSpec := ⟨0x100200, 0x0, 1, 0x10000, 16, 8, 1, .ro, 0, .cmw, 0, 1⟩
/-- Table 8.3: paused by the dirty ceiling -/
def Sig.RS_PAUSE_CEIL : FieldSpec := ⟨0x100200, 0x0, 1, 0x10000, 16, 9, 1, .ro, 0, .cmw, 0, 1⟩
/-- Table 8.3: paused by module state or a Stereo half out of service -/
def Sig.RS_PAUSE_STATE : FieldSpec := ⟨0x100200, 0x0, 1, 0x10000, 16, 10, 1, .ro, 0, .cmw, 0, 1⟩
/-- Table 8.3: source member count -/
def Sig.SRC_N : FieldSpec := ⟨0x100204, 0x0, 1, 0x10000, 16, 0, 8, .ro, 0, .cmw, 0, 255⟩
/-- Table 8.3: source data folios per sheet -/
def Sig.SRC_K : FieldSpec := ⟨0x100204, 0x0, 1, 0x10000, 16, 8, 5, .ro, 0, .cmw, 0, 31⟩
/-- Table 8.3: source folio code -/
def Sig.SRC_FOLIO : FieldSpec := ⟨0x100204, 0x0, 1, 0x10000, 16, 20, 2, .ro, 0, .cmw, 0, 3⟩
/-- Table 8.3: source C_STRIDE -/
def Sig.SRC_C_STRIDE : FieldSpec := ⟨0x100208, 0x0, 1, 0x10000, 16, 0, 16, .ro, 0, .cmw, 0, 65535⟩
/-- Table 8.3: source META_SHEETS -/
def Sig.SRC_META_SHEETS : FieldSpec := ⟨0x100208, 0x0, 1, 0x10000, 16, 16, 16, .ro, 0, .cmw, 0, 65535⟩
/-- Table 8.3: bit e: failure entry e covers source sheets (R212) -/
def Sig.RS_ENT_OLD : FieldSpec := ⟨0x10020C, 0x0, 1, 0x10000, 16, 0, 8, .ro, 0, .cmw, 0, 255⟩
/-- Table 8.3: B, bits [31:0] -/
def Sig.RS_BOUND_LO : FieldSpec := ⟨0x100210, 0x0, 1, 0x10000, 16, 0, 32, .ro, 0, .cmw, 0, 4294967295⟩
/-- Table 8.3: bits [63:32] -/
def Sig.RS_BOUND_HI : FieldSpec := ⟨0x100214, 0x0, 1, 0x10000, 16, 0, 32, .ro, 0, .cmw, 0, 4294967295⟩
/-- Table 8.3: Z, bits [31:0] -/
def Sig.RS_END_LO : FieldSpec := ⟨0x100218, 0x0, 1, 0x10000, 16, 0, 32, .ro, 0, .cmw, 0, 4294967295⟩
/-- Table 8.3: bits [63:32] -/
def Sig.RS_END_HI : FieldSpec := ⟨0x10021C, 0x0, 1, 0x10000, 16, 0, 32, .ro, 0, .cmw, 0, 4294967295⟩
/-- Table 8.3: newest durable window generation, bits [31:0] -/
def Sig.RS_WGEN_LO : FieldSpec := ⟨0x100220, 0x0, 1, 0x10000, 16, 0, 32, .ro, 0, .cmw, 0, 4294967295⟩
/-- Table 8.3: bits [63:32] -/
def Sig.RS_WGEN_HI : FieldSpec := ⟨0x100224, 0x0, 1, 0x10000, 16, 0, 32, .ro, 0, .cmw, 0, 4294967295⟩
/-- Table 8.3: target sheets in the window in flight, 0 to 1 024 -/
def Sig.RS_WIN_SHEETS : FieldSpec := ⟨0x100228, 0x0, 1, 0x10000, 16, 0, 11, .ro, 0, .cmw, 0, 2047⟩
/-- Table 8.3: estimated seconds to completion -/
def Sig.RS_ETA : FieldSpec := ⟨0x10022C, 0x0, 1, 0x10000, 16, 0, 32, .ro, 0, .cmw, 0, 4294967295⟩
/-- Table 8.3: a reshape completed -/
def Sig.RS_DONE : FieldSpec := ⟨0x100230, 0x0, 1, 0x10000, 16, 0, 1, .rw1c, 0, .cmw, 0, 1⟩
/-- Table 8.3: a reshape resumed after a stop -/
def Sig.RS_RESUMED : FieldSpec := ⟨0x100230, 0x0, 1, 0x10000, 16, 1, 1, .rw1c, 0, .cmw, 0, 1⟩
/-- Table 8.3: a torn window was recovered from the drives (R209) -/
def Sig.RS_WIN_RESYNC : FieldSpec := ⟨0x100230, 0x0, 1, 0x10000, 16, 2, 1, .rw1c, 0, .cmw, 0, 1⟩
/-- Table 8.3: removed members were unlabelled -/
def Sig.RS_REMOVED : FieldSpec := ⟨0x100230, 0x0, 1, 0x10000, 16, 3, 1, .rw1c, 0, .cmw, 0, 1⟩
/-- Table 8.3: bit m enables bit m of 0x0230 into the interrupt summary -/
def Sig.RS_INT_EN : FieldSpec := ⟨0x100234, 0x0, 1, 0x10000, 16, 0, 4, .rw, 0, .cmw, 0, 15⟩
/-- Table 9.5: drive present in the slot, written by the host (R225) -/
def Drv.PRESENT : FieldSpec := ⟨0x400000, 0x10000, 8, 0x60, 16, 0, 1, .rw, 0, .cmw, 0, 1⟩
/-- Table 9.5: slot power applied, written by the host -/
def Drv.PWR_ON : FieldSpec := ⟨0x400000, 0x10000, 8, 0x60, 16, 1, 1, .rw, 0, .cmw, 0, 1⟩
/-- Table 9.5: link reset as ladder step 3; cleared when the link returns or is … -/
def Drv.PORT_RESET : FieldSpec := ⟨0x400000, 0x10000, 8, 0x60, 16, 2, 1, .rw1s, 0, .cmwp, 0, 1⟩
/-- Table 9.5: requests a link self-test (R223); cleared when it ends -/
def Drv.LINK_TEST : FieldSpec := ⟨0x400000, 0x10000, 8, 0x60, 16, 3, 1, .rw1s, 0, .cmwp, 0, 1⟩
/-- Table 9.5: treat the drive as new (Table 9.3); cleared at classification -/
def Drv.CLAIM : FieldSpec := ⟨0x400000, 0x10000, 8, 0x60, 16, 4, 1, .rw1s, 0, .cmwp, 0, 1⟩
/-- Table 9.5: link up -/
def Drv.LINK_UP : FieldSpec := ⟨0x400004, 0x10000, 8, 0x60, 16, 0, 1, .ro, 0, .none, 0, 1⟩
/-- Table 9.5: 0 down; 1 3 or 6 Gb/s; 2 12 Gb/s; 3 22.5 Gb/s -/
def Drv.RATE : FieldSpec := ⟨0x400004, 0x10000, 8, 0x60, 16, 1, 2, .ro, 0, .none, 0, 3⟩
/-- Table 9.5: SATA drive -/
def Drv.SATA : FieldSpec := ⟨0x400004, 0x10000, 8, 0x60, 16, 3, 1, .ro, 0, .cmwp, 0, 1⟩
/-- Table 9.5: drive is an SSD (R218) -/
def Drv.SSD : FieldSpec := ⟨0x400004, 0x10000, 8, 0x60, 16, 4, 1, .ro, 0, .cmwp, 0, 1⟩
/-- Table 9.5: drive state -/
def Drv.DRV_STATE : FieldSpec := ⟨0x400004, 0x10000, 8, 0x60, 16, 8, 3, .ro, 0, .cmwp, 0, 7⟩
/-- Table 9.5: a ladder runs -/
def Drv.LADDER_ACTIVE : FieldSpec := ⟨0x400004, 0x10000, 8, 0x60, 16, 11, 1, .ro, 0, .cmwp, 0, 1⟩
/-- Table 9.5: current step, 1 to 3 -/
def Drv.LADDER_STEP : FieldSpec := ⟨0x400004, 0x10000, 8, 0x60, 16, 12, 2, .ro, 0, .cmwp, 0, 3⟩
/-- Table 9.5: a self-test runs -/
def Drv.LINK_TESTING : FieldSpec := ⟨0x400004, 0x10000, 8, 0x60, 16, 14, 1, .ro, 0, .cmwp, 0, 1⟩
/-- Table 9.5: signature of the member -/
def Drv.MEM_SIG : FieldSpec := ⟨0x400008, 0x10000, 8, 0x60, 16, 0, 4, .ro, 0, .cmwp, 0, 15⟩
/-- Table 9.5: the drive is a member -/
def Drv.MEM_VALID : FieldSpec := ⟨0x400008, 0x10000, 8, 0x60, 16, 4, 1, .ro, 0, .cmwp, 0, 1⟩
/-- Table 9.5: drive index in the signature -/
def Drv.MEM_INDEX : FieldSpec := ⟨0x400008, 0x10000, 8, 0x60, 16, 8, 7, .ro, 0, .cmwp, 0, 127⟩
/-- Table 9.5: drive identity, bits [31:0] -/
def Drv.DRV_ID_LO : FieldSpec := ⟨0x40000C, 0x10000, 8, 0x60, 16, 0, 32, .ro, 0, .cmwp, 0, 4294967295⟩
/-- Table 9.5: bits [63:32] -/
def Drv.DRV_ID_HI : FieldSpec := ⟨0x400010, 0x10000, 8, 0x60, 16, 0, 32, .ro, 0, .cmwp, 0, 4294967295⟩
/-- Table 9.5: B, bits [31:0] -/
def Drv.CAP_LO : FieldSpec := ⟨0x400014, 0x10000, 8, 0x60, 16, 0, 32, .ro, 0, .cmwp, 0, 4294967295⟩
/-- Table 9.5: bits [63:32] -/
def Drv.CAP_HI : FieldSpec := ⟨0x400018, 0x10000, 8, 0x60, 16, 0, 32, .ro, 0, .cmwp, 0, 4294967295⟩
/-- Table 9.5: timeout in force, ms; 0 with no identified drive (R219) -/
def Drv.CMD_TIMEOUT : FieldSpec := ⟨0x40001C, 0x10000, 8, 0x60, 16, 0, 16, .ro, 0, .cmwp, 0, 65535⟩
/-- Table 9.5: command limit (R219); 0 with no identified drive -/
def Drv.QDEPTH : FieldSpec := ⟨0x40001C, 0x10000, 8, 0x60, 16, 16, 8, .ro, 0, .cmwp, 0, 255⟩
/-- Table 9.5: power wanted (R225) -/
def Drv.SPINUP_REQ : FieldSpec := ⟨0x400020, 0x10000, 8, 0x60, 16, 0, 1, .ro, 0, .cmwp, 0, 1⟩
/-- Table 9.5: power cycle wanted; cleared by the host -/
def Drv.CYCLE_REQ : FieldSpec := ⟨0x400020, 0x10000, 8, 0x60, 16, 1, 1, .rw1c, 0, .cmwp, 0, 1⟩
/-- Table 9.5: link went up or down -/
def Drv.LINK_CHANGE : FieldSpec := ⟨0x400024, 0x10000, 8, 0x60, 16, 0, 1, .rw1c, 0, .cmwp, 0, 1⟩
/-- Table 9.5: a ladder ran -/
def Drv.LADDER_RUN : FieldSpec := ⟨0x400024, 0x10000, 8, 0x60, 16, 1, 1, .rw1c, 0, .cmwp, 0, 1⟩
/-- Table 9.5: rate stepped down (R224) -/
def Drv.RATE_DOWN : FieldSpec := ⟨0x400024, 0x10000, 8, 0x60, 16, 2, 1, .rw1c, 0, .cmwp, 0, 1⟩
/-- Table 9.5: R217 not met -/
def Drv.DRV_UNSUPPORTED : FieldSpec := ⟨0x400024, 0x10000, 8, 0x60, 16, 3, 1, .rw1c, 0, .cmwp, 0, 1⟩
/-- Table 9.5: label of no signature in force -/
def Drv.FOREIGN : FieldSpec := ⟨0x400024, 0x10000, 8, 0x60, 16, 4, 1, .rw1c, 0, .cmwp, 0, 1⟩
/-- Table 9.5: member label at another port -/
def Drv.WRONG_SLOT : FieldSpec := ⟨0x400024, 0x10000, 8, 0x60, 16, 5, 1, .rw1c, 0, .cmwp, 0, 1⟩
/-- Table 9.5: bring-up failed twice -/
def Drv.BRINGUP_FAIL : FieldSpec := ⟨0x400024, 0x10000, 8, 0x60, 16, 6, 1, .rw1c, 0, .cmwp, 0, 1⟩
/-- Table 9.5: a format completed -/
def Drv.FORMAT_DONE : FieldSpec := ⟨0x400024, 0x10000, 8, 0x60, 16, 7, 1, .rw1c, 0, .cmwp, 0, 1⟩
/-- Table 9.5: a returning member caught up -/
def Drv.CATCHUP_DONE : FieldSpec := ⟨0x400024, 0x10000, 8, 0x60, 16, 8, 1, .rw1c, 0, .cmwp, 0, 1⟩
/-- Table 9.5: bit m enables bit m of offset 0x24 into the interrupt summary -/
def Drv.PORT_INT_EN : FieldSpec := ⟨0x400028, 0x10000, 8, 0x60, 16, 0, 9, .rw, 0, .cmw, 0, 511⟩
/-- Table 9.5: link CRC errors; every counter saturates -/
def Drv.CRC_ERR : FieldSpec := ⟨0x40002C, 0x10000, 8, 0x60, 16, 0, 32, .rc, 0, .cmwp, 0, 4294967295⟩
/-- Table 9.5: commands timed out -/
def Drv.CMD_TIMEOUTS : FieldSpec := ⟨0x400030, 0x10000, 8, 0x60, 16, 0, 32, .rc, 0, .cmwp, 0, 4294967295⟩
/-- Table 9.5: ladders started -/
def Drv.LADDERS : FieldSpec := ⟨0x400034, 0x10000, 8, 0x60, 16, 0, 32, .rc, 0, .cmwp, 0, 4294967295⟩
/-- Table 9.5: ladder step 3, port resets and self-test resets -/
def Drv.LINK_RESETS : FieldSpec := ⟨0x400038, 0x10000, 8, 0x60, 16, 0, 32, .rc, 0, .cmwp, 0, 4294967295⟩
/-- Table 9.5: self-tests run -/
def Drv.LINK_TESTS : FieldSpec := ⟨0x40003C, 0x10000, 8, 0x60, 16, 0, 32, .rc, 0, .cmwp, 0, 4294967295⟩
/-- Table 9.5: commands outstanding -/
def Drv.OUTSTANDING : FieldSpec := ⟨0x400040, 0x10000, 8, 0x60, 16, 0, 8, .ro, 0, .cmwp, 0, 255⟩
/-- Table 9.5: operating seconds of the current absence -/
def Drv.ABSENT_TIME : FieldSpec := ⟨0x400044, 0x10000, 8, 0x60, 16, 0, 32, .ro, 0, .cmw, 0, 4294967295⟩
/-- Table 9.5: regions left in the absence set -/
def Drv.CATCHUP_LEFT : FieldSpec := ⟨0x400048, 0x10000, 8, 0x60, 16, 0, 24, .ro, 0, .cmw, 0, 16777215⟩
/-- Table 9.5: format progress, 0 to 100 -/
def Drv.FORMAT_PCT : FieldSpec := ⟨0x40004C, 0x10000, 8, 0x60, 16, 0, 7, .ro, 0, .cmwp, 0, 127⟩
/-- Table 9.5: read commands completed -/
def Drv.READ_CMDS : FieldSpec := ⟨0x400050, 0x10000, 8, 0x60, 16, 0, 32, .rc, 0, .cmwp, 0, 4294967295⟩
/-- Table 9.5: write commands completed -/
def Drv.WRITE_CMDS : FieldSpec := ⟨0x400054, 0x10000, 8, 0x60, 16, 0, 32, .rc, 0, .cmwp, 0, 4294967295⟩
/-- Table 9.5: commands completed with an error -/
def Drv.ERR_CMDS : FieldSpec := ⟨0x400058, 0x10000, 8, 0x60, 16, 0, 32, .rc, 0, .cmwp, 0, 4294967295⟩
/-- Table 9.6: hard-drive command timeout in ms, 1 000 to 60 000; block 0x40 only -/
def DrvG.TIMEOUT_HDD : FieldSpec := ⟨0x400600, 0x0, 1, 0x10000, 8, 0, 16, .rw, 8000, .cmw, 1000, 60000⟩
/-- Table 9.6: SSD command timeout in ms, 500 to 60 000; block 0x40 only -/
def DrvG.TIMEOUT_SSD : FieldSpec := ⟨0x400600, 0x0, 1, 0x10000, 8, 16, 16, .rw, 2000, .cmw, 500, 60000⟩
/-- Table 9.6: short-absence limit in s, 0 to 3 600; 0 fails at once; block 0x40 only -/
def DrvG.ABSENT_LIMIT : FieldSpec := ⟨0x400604, 0x0, 1, 0x10000, 8, 0, 16, .rw, 600, .cmw, 0, 3600⟩
/-- Table 9.6: bit j: LINK_UP of port 16g + j -/
def DrvG.GRP_LINK_UP : FieldSpec := ⟨0x400608, 0x0, 1, 0x10000, 8, 0, 16, .ro, 0, .none, 0, 65535⟩
/-- Table 9.6: bit j: port 16g + j has an enabled event bit set -/
def DrvG.GRP_EVENT : FieldSpec := ⟨0x40060C, 0x0, 1, 0x10000, 8, 0, 16, .ro, 0, .cmw, 0, 65535⟩
/-- Table 10.8: organisation, Table 10.2 -/
def Cc.WAYS_CODE : FieldSpec := ⟨0x080000, 0x0, 1, 0x0, 1, 0, 3, .rwl, 0, .img, 0, 7⟩
/-- Table 10.8: policy bit permitting RE_OP 4 -/
def Cc.DISCARD_OK : FieldSpec := ⟨0x080000, 0x0, 1, 0x0, 1, 8, 1, .rwl, 0, .img, 0, 1⟩
/-- Table 10.8: ageing period in imp, 64 to 65 535 -/
def Cc.AGE_PERIOD : FieldSpec := ⟨0x080004, 0x0, 1, 0x0, 1, 0, 16, .rwl, 0, .img, 0, 65535⟩
/-- Table 10.8: sets in the organisation -/
def Cc.SETS : FieldSpec := ⟨0x080008, 0x0, 1, 0x0, 1, 0, 19, .ro, 0, .none, 0, 524287⟩
/-- Table 10.8: free line frames in channel c, c = 0 to 3 -/
def Cc.FREE_CH : FieldSpec := ⟨0x080010, 0x0, 1, 0x4, 4, 0, 17, .ro, 0, .none, 0, 131071⟩
/-- Table 10.8: valid tag entries -/
def Cc.LINES_VALID : FieldSpec := ⟨0x080020, 0x0, 1, 0x0, 1, 0, 20, .ro, 0, .none, 0, 1048575⟩
/-- Table 10.8: dirty lines -/
def Cc.LINES_DIRTY : FieldSpec := ⟨0x080024, 0x0, 1, 0x0, 1, 0, 20, .ro, 0, .none, 0, 1048575⟩
/-- Table 10.8: eviction buffer entries, 0 to 64 -/
def Cc.EVB_USED : FieldSpec := ⟨0x080028, 0x0, 1, 0x0, 1, 0, 7, .ro, 0, .none, 0, 127⟩
/-- Table 10.8: lines with PIN or RETAIN -/
def Cc.PINNED : FieldSpec := ⟨0x08002C, 0x0, 1, 0x0, 1, 0, 20, .ro, 0, .none, 0, 1048575⟩
/-- Table 10.8: lookups that hit; every counter saturates -/
def Cc.HITS : FieldSpec := ⟨0x080030, 0x0, 1, 0x0, 1, 0, 32, .rc, 0, .cmw, 0, 4294967295⟩
/-- Table 10.8: lookups that missed -/
def Cc.MISSES : FieldSpec := ⟨0x080034, 0x0, 1, 0x0, 1, 0, 32, .rc, 0, .cmw, 0, 4294967295⟩
/-- Table 10.8: lines displaced by R247 or R244 -/
def Cc.VICTIMS : FieldSpec := ⟨0x080038, 0x0, 1, 0x0, 1, 0, 32, .rc, 0, .cmw, 0, 4294967295⟩
/-- Table 10.8: lines reinstated by R249 -/
def Cc.REINSTATES : FieldSpec := ⟨0x08003C, 0x0, 1, 0x0, 1, 0, 32, .rc, 0, .cmw, 0, 4294967295⟩
/-- Table 10.8: fills that found no eligible way -/
def Cc.FILL_WAITS : FieldSpec := ⟨0x080040, 0x0, 1, 0x0, 1, 0, 32, .rc, 0, .cmw, 0, 4294967295⟩
/-- Table 10.8: allocations that found no free frame -/
def Cc.FRAME_WAITS : FieldSpec := ⟨0x080044, 0x0, 1, 0x0, 1, 0, 32, .rc, 0, .cmw, 0, 4294967295⟩
/-- Table 10.8: RE0 completed an operation -/
def Cc.RE0_DONE : FieldSpec := ⟨0x080048, 0x0, 1, 0x0, 1, 0, 1, .rw1c, 0, .cmw, 0, 1⟩
/-- Table 10.8: RE1 completed an operation -/
def Cc.RE1_DONE : FieldSpec := ⟨0x080048, 0x0, 1, 0x0, 1, 1, 1, .rw1c, 0, .cmw, 0, 1⟩
/-- Table 10.8: an RE_GO was refused (R251) -/
def Cc.RE_REFUSED : FieldSpec := ⟨0x080048, 0x0, 1, 0x0, 1, 2, 1, .rw1c, 0, .cmw, 0, 1⟩
/-- Table 10.8: an operation was aborted by a cast -/
def Cc.RE_ABORTED : FieldSpec := ⟨0x080048, 0x0, 1, 0x0, 1, 3, 1, .rw1c, 0, .cmw, 0, 1⟩
/-- Table 10.8: dirty data was discarded (R252) -/
def Cc.DISCARDED : FieldSpec := ⟨0x080048, 0x0, 1, 0x0, 1, 4, 1, .rw1c, 0, .cmw, 0, 1⟩
/-- Table 10.8: the eviction buffer was full -/
def Cc.EVB_FULL : FieldSpec := ⟨0x080048, 0x0, 1, 0x0, 1, 5, 1, .rw1c, 0, .cmw, 0, 1⟩
/-- Table 10.8: bit m enables bit m of 0x08_0048 into the interrupt summary -/
def Cc.CC_INT_EN : FieldSpec := ⟨0x08004C, 0x0, 1, 0x0, 1, 0, 6, .rw, 0, .cmw, 0, 63⟩
/-- Table 10.8: signature -/
def Cc.RE_SIG : FieldSpec := ⟨0x080100, 0x0, 1, 0x40, 2, 0, 4, .rw, 0, .cmw, 0, 15⟩
/-- Table 10.8: operation, Table 10.6; 5 to 7 refused -/
def Cc.RE_OP : FieldSpec := ⟨0x080100, 0x0, 1, 0x40, 2, 4, 3, .rw, 0, .cmw, 0, 7⟩
/-- Table 10.8: starts the operation; cleared when taken or refused -/
def Cc.RE_GO : FieldSpec := ⟨0x080100, 0x0, 1, 0x40, 2, 16, 1, .rw1s, 0, .cmw, 0, 1⟩
/-- Table 10.8: operation in progress -/
def Cc.RE_BUSY : FieldSpec := ⟨0x080100, 0x0, 1, 0x40, 2, 17, 1, .ro, 0, .cmw, 0, 1⟩
/-- Table 10.8: first sig_lbn, bits [31:0] -/
def Cc.RE_START_LO : FieldSpec := ⟨0x080104, 0x0, 1, 0x40, 2, 0, 32, .rw, 0, .cmw, 0, 4294967295⟩
/-- Table 10.8: bits [63:32] -/
def Cc.RE_START_HI : FieldSpec := ⟨0x080108, 0x0, 1, 0x40, 2, 0, 32, .rw, 0, .cmw, 0, 4294967295⟩
/-- Table 10.8: blocks, bits [31:0] -/
def Cc.RE_COUNT_LO : FieldSpec := ⟨0x08010C, 0x0, 1, 0x40, 2, 0, 32, .rw, 0, .cmw, 0, 4294967295⟩
/-- Table 10.8: bits [63:32] -/
def Cc.RE_COUNT_HI : FieldSpec := ⟨0x080110, 0x0, 1, 0x40, 2, 0, 32, .rw, 0, .cmw, 0, 4294967295⟩
/-- Table 10.8: next line number to visit, bits [31:0] -/
def Cc.RE_POS_LO : FieldSpec := ⟨0x080114, 0x0, 1, 0x40, 2, 0, 32, .ro, 0, .cmw, 0, 4294967295⟩
/-- Table 10.8: bits [63:32] -/
def Cc.RE_POS_HI : FieldSpec := ⟨0x080118, 0x0, 1, 0x40, 2, 0, 32, .ro, 0, .cmw, 0, 4294967295⟩
/-- Table 10.8: lines acted on; zeroed when RE_GO is taken -/
def Cc.RE_LINES : FieldSpec := ⟨0x08011C, 0x0, 1, 0x40, 2, 0, 32, .ro, 0, .cmw, 0, 4294967295⟩
/-- Table 10.8: lines skipped; zeroed when RE_GO is taken -/
def Cc.RE_SKIPPED : FieldSpec := ⟨0x080120, 0x0, 1, 0x40, 2, 0, 32, .ro, 0, .cmw, 0, 4294967295⟩
/-- Table 10.8: lines parked by R253; zeroed when RE_GO is taken -/
def Cc.RE_WAITS : FieldSpec := ⟨0x080124, 0x0, 1, 0x40, 2, 0, 32, .ro, 0, .cmw, 0, 4294967295⟩
/-- Table 10.8: sectors discarded; zeroed when RE_GO is taken -/
def Cc.RE_DISCARDED : FieldSpec := ⟨0x080128, 0x0, 1, 0x40, 2, 0, 32, .ro, 0, .cmw, 0, 4294967295⟩
/-- Table 10.8: signature of the line to probe -/
def Cc.PROBE_SIG : FieldSpec := ⟨0x080200, 0x0, 1, 0x0, 1, 0, 4, .rw, 0, .cmw, 0, 15⟩
/-- Table 10.8: kind, Table 10.1 -/
def Cc.PROBE_KIND : FieldSpec := ⟨0x080200, 0x0, 1, 0x0, 1, 4, 2, .rw, 0, .cmw, 0, 3⟩
/-- Table 10.8: starts a probe; cleared when the results are written -/
def Cc.PROBE_GO : FieldSpec := ⟨0x080200, 0x0, 1, 0x0, 1, 8, 1, .rw1s, 0, .cmw, 0, 1⟩
/-- Table 10.8: line number, bits [31:0] -/
def Cc.PROBE_LINE_LO : FieldSpec := ⟨0x080204, 0x0, 1, 0x0, 1, 0, 32, .rw, 0, .cmw, 0, 4294967295⟩
/-- Table 10.8: bits [35:32] -/
def Cc.PROBE_LINE_HI : FieldSpec := ⟨0x080208, 0x0, 1, 0x0, 1, 0, 4, .rw, 0, .cmw, 0, 15⟩
/-- Table 10.8: set by R238 -/
def Cc.PROBE_SET : FieldSpec := ⟨0x08020C, 0x0, 1, 0x0, 1, 0, 18, .ro, 0, .cmw, 0, 262143⟩
/-- Table 10.8: way, if present in the set -/
def Cc.PROBE_WAY : FieldSpec := ⟨0x08020C, 0x0, 1, 0x0, 1, 20, 4, .ro, 0, .cmw, 0, 15⟩
/-- Table 10.8: age -/
def Cc.PROBE_AGE : FieldSpec := ⟨0x08020C, 0x0, 1, 0x0, 1, 24, 2, .ro, 0, .cmw, 0, 3⟩
/-- Table 10.8: present in the set -/
def Cc.PROBE_HIT : FieldSpec := ⟨0x08020C, 0x0, 1, 0x0, 1, 26, 1, .ro, 0, .cmw, 0, 1⟩
/-- Table 10.8: dirty -/
def Cc.PROBE_DIRTY : FieldSpec := ⟨0x08020C, 0x0, 1, 0x0, 1, 27, 1, .ro, 0, .cmw, 0, 1⟩
/-- Table 10.8: present in the eviction buffer -/
def Cc.PROBE_EVB : FieldSpec := ⟨0x08020C, 0x0, 1, 0x0, 1, 28, 1, .ro, 0, .cmw, 0, 1⟩
/-- Table 10.8: PIN or RETAIN -/
def Cc.PROBE_PIN : FieldSpec := ⟨0x08020C, 0x0, 1, 0x0, 1, 29, 1, .ro, 0, .cmw, 0, 1⟩
/-- Table 10.8: primary frame -/
def Cc.PROBE_FRAME : FieldSpec := ⟨0x080210, 0x0, 1, 0x0, 1, 0, 19, .ro, 0, .cmw, 0, 524287⟩
/-- Table 10.8: duplex frame -/
def Cc.PROBE_DUPLEX : FieldSpec := ⟨0x080214, 0x0, 1, 0x0, 1, 0, 19, .ro, 0, .cmw, 0, 524287⟩
/-- Table 10.8: the duplex frame is valid -/
def Cc.PROBE_DUP_VALID : FieldSpec := ⟨0x080214, 0x0, 1, 0x0, 1, 31, 1, .ro, 0, .cmw, 0, 1⟩
/-- Table 11.10: patrol scrubber enabled -/
def Ecc.SCRUB_EN : FieldSpec := ⟨0x090000, 0x0, 1, 0x0, 1, 0, 1, .rw, 1, .cmw, 0, 1⟩
/-- Table 11.10: lap alarm in hours, 1 to 8 760 -/
def Ecc.SCRUB_ALARM_H : FieldSpec := ⟨0x090000, 0x0, 1, 0x0, 1, 16, 16, .rw, 24, .cmw, 1, 8760⟩
/-- Table 11.10: test mode; settable only in MAINTENANCE (R273) -/
def Ecc.ECC_TEST_EN : FieldSpec := ⟨0x090004, 0x0, 1, 0x0, 1, 0, 1, .rw, 0, .cmw, 0, 1⟩
/-- Table 11.10: 1: data-view writes leave check symbols unchanged -/
def Ecc.TEST_WRITE_MODE : FieldSpec := ⟨0x090004, 0x0, 1, 0x0, 1, 1, 1, .rw, 0, .cmw, 0, 1⟩
/-- Table 11.10: decoded-view words corrected; saturates -/
def Ecc.TEST_CORR : FieldSpec := ⟨0x090008, 0x0, 1, 0x0, 1, 0, 32, .rc, 0, .cmw, 0, 4294967295⟩
/-- Table 11.10: decoded-view words uncorrectable; saturates -/
def Ecc.TEST_UNCORR : FieldSpec := ⟨0x09000C, 0x0, 1, 0x0, 1, 0, 32, .rc, 0, .cmw, 0, 4294967295⟩
/-- Table 11.10: highest device corrected in the last corrected decoded-view word -/
def Ecc.TEST_LAST_DEV : FieldSpec := ⟨0x090010, 0x0, 1, 0x0, 1, 0, 5, .ro, 0, .cmw, 0, 31⟩
/-- Table 11.10: its channel -/
def Ecc.TEST_LAST_CH : FieldSpec := ⟨0x090010, 0x0, 1, 0x0, 1, 8, 2, .ro, 0, .cmw, 0, 3⟩
/-- Table 11.10: a word was corrected -/
def Ecc.CE_SEEN : FieldSpec := ⟨0x090014, 0x0, 1, 0x0, 1, 0, 1, .rw1c, 0, .cmw, 0, 1⟩
/-- Table 11.10: a word was uncorrectable -/
def Ecc.UE_SEEN : FieldSpec := ⟨0x090014, 0x0, 1, 0x0, 1, 1, 1, .rw1c, 0, .cmw, 0, 1⟩
/-- Table 11.10: a soft repair was made -/
def Ecc.ROW_REPAIRED : FieldSpec := ⟨0x090014, 0x0, 1, 0x0, 1, 2, 1, .rw1c, 0, .cmw, 0, 1⟩
/-- Table 11.10: a device was marked erased -/
def Ecc.DEVICE_ERASED : FieldSpec := ⟨0x090014, 0x0, 1, 0x0, 1, 3, 1, .rw1c, 0, .cmw, 0, 1⟩
/-- Table 11.10: a channel entered clean-only -/
def Ecc.CH_CLEAN_ONLY : FieldSpec := ⟨0x090014, 0x0, 1, 0x0, 1, 4, 1, .rw1c, 0, .cmw, 0, 1⟩
/-- Table 11.10: a channel left service -/
def Ecc.CH_OUT : FieldSpec := ⟨0x090014, 0x0, 1, 0x0, 1, 5, 1, .rw1c, 0, .cmw, 0, 1⟩
/-- Table 11.10: a lap exceeds SCRUB_ALARM_H -/
def Ecc.SCRUB_SLOW : FieldSpec := ⟨0x090014, 0x0, 1, 0x0, 1, 6, 1, .rw1c, 0, .cmw, 0, 1⟩
/-- Table 11.10: data was lost in the Case (Table 11.3) -/
def Ecc.CASE_LOSS : FieldSpec := ⟨0x090014, 0x0, 1, 0x0, 1, 7, 1, .rw1c, 0, .cmw, 0, 1⟩
/-- Table 11.10: the repair map is full -/
def Ecc.MAP_FULL : FieldSpec := ⟨0x090014, 0x0, 1, 0x0, 1, 8, 1, .rw1c, 0, .cmw, 0, 1⟩
/-- Table 11.10: a self-test was dropped (R267) -/
def Ecc.SELFTEST_DROP : FieldSpec := ⟨0x090014, 0x0, 1, 0x0, 1, 9, 1, .rw1c, 0, .cmw, 0, 1⟩
/-- Table 11.10: the merge buffer was full -/
def Ecc.MB_FULL : FieldSpec := ⟨0x090014, 0x0, 1, 0x0, 1, 10, 1, .rw1c, 0, .cmw, 0, 1⟩
/-- Table 11.10: bit m enables bit m of 0x09_0014 into the interrupt summary -/
def Ecc.ECC_INT_EN : FieldSpec := ⟨0x090018, 0x0, 1, 0x0, 1, 0, 11, .rw, 0, .cmw, 0, 2047⟩
/-- Table 11.10: CASE_LIMIT in 512 KiB frames (R262) -/
def Ecc.CASE_LIMIT : FieldSpec := ⟨0x09001C, 0x0, 1, 0x0, 1, 0, 18, .ro, 0, .none, 0, 262143⟩
/-- Table 11.10: repair map entries -/
def Ecc.MAP_ENTRIES : FieldSpec := ⟨0x090020, 0x0, 1, 0x0, 1, 0, 14, .ro, 0, .none, 0, 16383⟩
/-- Table 11.10: merge-buffer entries in use -/
def Ecc.MB_USED : FieldSpec := ⟨0x090024, 0x0, 1, 0x0, 1, 0, 7, .ro, 0, .none, 0, 127⟩
/-- Table 11.10: channel of the device to inspect -/
def Ecc.DEV_SEL_CH : FieldSpec := ⟨0x090040, 0x0, 1, 0x0, 1, 0, 2, .rw, 0, .cmw, 0, 3⟩
/-- Table 11.10: device, 0 to 19 -/
def Ecc.DEV_SEL : FieldSpec := ⟨0x090040, 0x0, 1, 0x0, 1, 8, 5, .rw, 0, .cmw, 0, 19⟩
/-- Table 11.10: corrected symbols of the device; saturates -/
def Ecc.DEV_CE : FieldSpec := ⟨0x090044, 0x0, 1, 0x0, 1, 0, 32, .ro, 0, .cmw, 0, 4294967295⟩
/-- Table 11.10: bank groups of the device whose repair is used -/
def Ecc.DEV_ROWS : FieldSpec := ⟨0x090048, 0x0, 1, 0x0, 1, 0, 4, .ro, 0, .cmw, 0, 15⟩
/-- Table 11.10: frames retired for the device, 0 to 16 -/
def Ecc.DEV_RETIRED : FieldSpec := ⟨0x090048, 0x0, 1, 0x0, 1, 8, 5, .ro, 0, .cmw, 0, 31⟩
/-- Table 11.10: Table 11.2 -/
def Ecc.CH_STATE : FieldSpec := ⟨0x090100, 0x0, 1, 0x40, 4, 0, 2, .ro, 0, .none, 0, 3⟩
/-- Table 11.10: bit 4 + j: DEVj marked erased -/
def Ecc.ERASED_MASK : FieldSpec := ⟨0x090100, 0x0, 1, 0x40, 4, 4, 20, .ro, 0, .none, 0, 1048575⟩
/-- Table 11.10: corrected words; every counter saturates -/
def Ecc.CE_COUNT : FieldSpec := ⟨0x090104, 0x0, 1, 0x40, 4, 0, 32, .rc, 0, .cmw, 0, 4294967295⟩
/-- Table 11.10: uncorrectable words -/
def Ecc.UE_COUNT : FieldSpec := ⟨0x090108, 0x0, 1, 0x40, 4, 0, 32, .rc, 0, .cmw, 0, 4294967295⟩
/-- Table 11.10: frame the scrubber is reading -/
def Ecc.SCRUB_POS : FieldSpec := ⟨0x09010C, 0x0, 1, 0x40, 4, 0, 17, .ro, 0, .cmw, 0, 131071⟩
/-- Table 11.10: last lap time, ms -/
def Ecc.SCRUB_LAST_LAP : FieldSpec := ⟨0x090110, 0x0, 1, 0x40, 4, 0, 32, .ro, 0, .cmw, 0, 4294967295⟩
/-- Table 11.10: time of the current lap, ms -/
def Ecc.SCRUB_ELAPSED : FieldSpec := ⟨0x090114, 0x0, 1, 0x40, 4, 0, 32, .ro, 0, .cmw, 0, 4294967295⟩
/-- Table 11.10: laps completed; wraps -/
def Ecc.SCRUB_LAPS : FieldSpec := ⟨0x090118, 0x0, 1, 0x40, 4, 0, 32, .ro, 0, .cmw, 0, 4294967295⟩
/-- Table 11.10: rows repaired, soft or hard, in force -/
def Ecc.ROWS_REPAIRED : FieldSpec := ⟨0x09011C, 0x0, 1, 0x40, 4, 0, 8, .ro, 0, .none, 0, 255⟩
/-- Table 11.10: retired frames -/
def Ecc.FRAMES_RETIRED : FieldSpec := ⟨0x090120, 0x0, 1, 0x40, 4, 0, 10, .ro, 0, .none, 0, 1023⟩
/-- Table 11.10: self-tests queued, 0 to 16 -/
def Ecc.ST_QUEUE : FieldSpec := ⟨0x090124, 0x0, 1, 0x40, 4, 0, 5, .ro, 0, .cmw, 0, 31⟩
/-- Table 11.10: self-tests with transient outcome -/
def Ecc.TRANSIENTS : FieldSpec := ⟨0x090128, 0x0, 1, 0x40, 4, 0, 32, .rc, 0, .cmw, 0, 4294967295⟩
/-- Table 12.10: pack voltage, mV -/
def Fount.PACK_V : FieldSpec := ⟨0x0A0000, 0x0, 1, 0x0, 1, 0, 16, .ro, 0, .none, 0, 65535⟩
/-- Table 12.10: pack temperature, 0.1 °C -/
def Fount.PACK_T : FieldSpec := ⟨0x0A0000, 0x0, 1, 0x0, 1, 16, 16, .ro, 0, .none, 0, 65535⟩
/-- Table 12.10: pack current, mA; positive while charging -/
def Fount.PACK_I : FieldSpec := ⟨0x0A0004, 0x0, 1, 0x0, 1, 0, 32, .ro, 0, .none, 0, 4294967295⟩
/-- Table 12.10: cell 0 voltage, mV -/
def Fount.CELL0_V : FieldSpec := ⟨0x0A0008, 0x0, 1, 0x0, 1, 0, 16, .ro, 0, .none, 0, 65535⟩
/-- Table 12.10: cell 1 voltage, mV -/
def Fount.CELL1_V : FieldSpec := ⟨0x0A0008, 0x0, 1, 0x0, 1, 16, 16, .ro, 0, .none, 0, 65535⟩
/-- Table 12.10: SoC_c, 0.01 % -/
def Fount.SOC_C : FieldSpec := ⟨0x0A000C, 0x0, 1, 0x0, 1, 0, 14, .ro, 0, .none, 0, 16383⟩
/-- Table 12.10: SoC_v, 0.01 % -/
def Fount.SOC_V : FieldSpec := ⟨0x0A000C, 0x0, 1, 0x0, 1, 16, 14, .ro, 0, .none, 0, 16383⟩
/-- Table 12.10: q_l, mC -/
def Fount.Q_LEARNED : FieldSpec := ⟨0x0A0010, 0x0, 1, 0x0, 1, 0, 32, .ro, 2808000, .c, 0, 4294967295⟩
/-- Table 12.10: r_l, 0.1 mΩ -/
def Fount.R_LEARNED : FieldSpec := ⟨0x0A0014, 0x0, 1, 0x0, 1, 0, 16, .ro, 600, .c, 0, 65535⟩
/-- Table 12.10: equivalent full cycles -/
def Fount.CYCLE_COUNT : FieldSpec := ⟨0x0A0014, 0x0, 1, 0x0, 1, 16, 16, .ro, 0, .c, 0, 65535⟩
/-- Table 12.10: operating time since the last reference, 1/1024 h -/
def Fount.REF_AGE : FieldSpec := ⟨0x0A0018, 0x0, 1, 0x0, 1, 0, 32, .ro, 0, .c, 0, 4294967295⟩
/-- Table 12.10: err_bound, 0.01 % -/
def Fount.ERR_BOUND : FieldSpec := ⟨0x0A001C, 0x0, 1, 0x0, 1, 0, 14, .ro, 1000, .c, 0, 16383⟩
/-- Table 12.10: e_count, mJ -/
def Fount.E_COUNT : FieldSpec := ⟨0x0A0020, 0x0, 1, 0x0, 1, 0, 32, .ro, 0, .none, 0, 4294967295⟩
/-- Table 12.10: e_volt, mJ -/
def Fount.E_VOLT : FieldSpec := ⟨0x0A0024, 0x0, 1, 0x0, 1, 0, 32, .ro, 0, .none, 0, 4294967295⟩
/-- Table 12.10: derate, 0.0001 -/
def Fount.DERATE : FieldSpec := ⟨0x0A0028, 0x0, 1, 0x0, 1, 0, 14, .ro, 0, .none, 0, 16383⟩
/-- Table 12.10: e_ride, mJ -/
def Fount.E_RIDE : FieldSpec := ⟨0x0A002C, 0x0, 1, 0x0, 1, 0, 32, .ro, 0, .none, 0, 4294967295⟩
/-- Table 12.10: e_avail, mJ, two's complement -/
def Fount.E_AVAIL : FieldSpec := ⟨0x0A0030, 0x0, 1, 0x0, 1, 0, 32, .ro, 0, .none, 0, 4294967295⟩
/-- Table 12.10: dirty ceiling, 4 096-byte blocks -/
def Fount.CEILING : FieldSpec := ⟨0x0A0034, 0x0, 1, 0x0, 1, 0, 25, .ro, 0, .none, 0, 33554431⟩
/-- Table 12.10: dirty bytes (R115), 4 096-byte blocks -/
def Fount.DIRTY : FieldSpec := ⟨0x0A0038, 0x0, 1, 0x0, 1, 0, 25, .ro, 0, .none, 0, 33554431⟩
/-- Table 12.10: 1 to 16 -/
def Fount.CASTS_REQUIRED : FieldSpec := ⟨0x0A003C, 0x0, 1, 0x0, 1, 0, 5, .rwl, 0, .img, 0, 31⟩
/-- Table 12.10: ride-through window, 0 to 500 ms -/
def Fount.RIDE_MS : FieldSpec := ⟨0x0A003C, 0x0, 1, 0x0, 1, 16, 9, .rw, 0, .img, 0, 500⟩
/-- Table 12.10: e_margin, J, 0 to 2 000 -/
def Fount.E_MARGIN : FieldSpec := ⟨0x0A0040, 0x0, 1, 0x0, 1, 0, 16, .rwl, 0, .img, 0, 65535⟩
/-- Table 12.10: 0: 1 kHz; 1: 10 Hz; 2: 1 Hz; 3: hibernating -/
def Fount.GAUGE_MODE : FieldSpec := ⟨0x0A0044, 0x0, 1, 0x0, 1, 0, 2, .ro, 0, .none, 0, 3⟩
/-- Table 12.10: 0 off; 1 constant current; 2 constant voltage; 3 done; 4 paused; 5 … -/
def Fount.CHG_STATE : FieldSpec := ⟨0x0A0044, 0x0, 1, 0x0, 1, 4, 3, .ro, 0, .none, 0, 7⟩
/-- Table 12.10: charger enabled -/
def Fount.CHG_EN : FieldSpec := ⟨0x0A0044, 0x0, 1, 0x0, 1, 8, 1, .rw, 0, .img, 0, 1⟩
/-- Table 12.10: pause for a reference (R285); cleared when it ends -/
def Fount.CAL_REST : FieldSpec := ⟨0x0A0044, 0x0, 1, 0x0, 1, 9, 1, .rw1s, 0, .cmw, 0, 1⟩
/-- Table 12.10: a disagreement began (R283) -/
def Fount.DISAGREE : FieldSpec := ⟨0x0A0048, 0x0, 1, 0x0, 1, 0, 1, .rw1c, 0, .cmw, 0, 1⟩
/-- Table 12.10: the estimates disagree -/
def Fount.DISAGREE_NOW : FieldSpec := ⟨0x0A0048, 0x0, 1, 0x0, 1, 1, 1, .ro, 0, .none, 0, 1⟩
/-- Table 12.10: pack low (R284) -/
def Fount.PACK_LOW : FieldSpec := ⟨0x0A0048, 0x0, 1, 0x0, 1, 2, 1, .ro, 0, .none, 0, 1⟩
/-- Table 12.10: REF_AGE above 168 h -/
def Fount.CAL_REQ : FieldSpec := ⟨0x0A0048, 0x0, 1, 0x0, 1, 3, 1, .ro, 0, .none, 0, 1⟩
/-- Table 12.10: ceiling is 0 -/
def Fount.CEIL_ZERO : FieldSpec := ⟨0x0A0048, 0x0, 1, 0x0, 1, 4, 1, .ro, 0, .none, 0, 1⟩
/-- Table 12.10: a gauge state block was taken -/
def Fount.GSB_RESTORED : FieldSpec := ⟨0x0A0048, 0x0, 1, 0x0, 1, 5, 1, .ro, 0, .c, 0, 1⟩
/-- Table 12.10: a loaded block was refused -/
def Fount.GSB_INVALID : FieldSpec := ⟨0x0A0048, 0x0, 1, 0x0, 1, 6, 1, .rw1c, 0, .cmw, 0, 1⟩
/-- Table 12.10: Hold was entered -/
def Fount.HOLD_ENTERED : FieldSpec := ⟨0x0A0048, 0x0, 1, 0x0, 1, 7, 1, .rw1c, 0, .cmw, 0, 1⟩
/-- Table 12.10: Hold ended with input returning -/
def Fount.HOLD_RETURNED : FieldSpec := ⟨0x0A0048, 0x0, 1, 0x0, 1, 8, 1, .rw1c, 0, .cmw, 0, 1⟩
/-- Table 12.10: PWR_A fell below 8.5 V -/
def Fount.INPUT_A_LOST : FieldSpec := ⟨0x0A0048, 0x0, 1, 0x0, 1, 9, 1, .rw1c, 0, .cmw, 0, 1⟩
/-- Table 12.10: PWR_B fell below 8.5 V -/
def Fount.INPUT_B_LOST : FieldSpec := ⟨0x0A0048, 0x0, 1, 0x0, 1, 10, 1, .rw1c, 0, .cmw, 0, 1⟩
/-- Table 12.10: PWRFAIL_N is ignored (R300) -/
def Fount.PWRFAIL_STUCK : FieldSpec := ⟨0x0A0048, 0x0, 1, 0x0, 1, 11, 1, .rw1c, 0, .cmw, 0, 1⟩
/-- Table 12.10: the charger stopped on cell overvoltage -/
def Fount.CHG_FAULT : FieldSpec := ⟨0x0A0048, 0x0, 1, 0x0, 1, 12, 1, .rw1c, 0, .c, 0, 1⟩
/-- Table 12.10: end of charge reached -/
def Fount.CHG_DONE : FieldSpec := ⟨0x0A0048, 0x0, 1, 0x0, 1, 13, 1, .rw1c, 0, .cmw, 0, 1⟩
/-- Table 12.10: bit m enables bit m of 0x0A_0048 into the interrupt summary -/
def Fount.FOUNT_INT_EN : FieldSpec := ⟨0x0A004C, 0x0, 1, 0x0, 1, 0, 14, .rw, 0, .cmw, 0, 16383⟩
/-- Table 12.10: PWR_A, mV -/
def Fount.IN_A_V : FieldSpec := ⟨0x0A0050, 0x0, 1, 0x0, 1, 0, 16, .ro, 0, .none, 0, 65535⟩
/-- Table 12.10: PWR_B, mV -/
def Fount.IN_B_V : FieldSpec := ⟨0x0A0050, 0x0, 1, 0x0, 1, 16, 16, .ro, 0, .none, 0, 65535⟩
/-- Table 12.10: filtered PWRFAIL_N asserted -/
def Fount.PF_LEVEL : FieldSpec := ⟨0x0A0054, 0x0, 1, 0x0, 1, 0, 1, .ro, 0, .none, 0, 1⟩
/-- Table 12.10: PWRFAIL_N ignored -/
def Fount.PF_IGNORED : FieldSpec := ⟨0x0A0054, 0x0, 1, 0x0, 1, 1, 1, .ro, 0, .cmw, 0, 1⟩
/-- Table 12.10: 0 none; 1 held; 2 chattering -/
def Fount.PF_STUCK_CAUSE : FieldSpec := ⟨0x0A0054, 0x0, 1, 0x0, 1, 2, 2, .ro, 0, .cmw, 0, 3⟩
/-- Table 12.10: filtered edges in the last 125 000 imp -/
def Fount.PF_EDGES : FieldSpec := ⟨0x0A0054, 0x0, 1, 0x0, 1, 8, 8, .ro, 0, .none, 0, 255⟩
/-- Table 12.10: gauge state block word w, w = 0 to 15 -/
def Fount.GSB_OUT : FieldSpec := ⟨0x0A0060, 0x0, 1, 0x4, 16, 0, 32, .ro, 0, .cmw, 0, 4294967295⟩
/-- Table 12.10: latches the current block into GSB_OUT; cleared when done -/
def Fount.GSB_LATCH : FieldSpec := ⟨0x0A00A0, 0x0, 1, 0x0, 1, 0, 1, .rw1s, 0, .cmw, 0, 1⟩
/-- Table 12.10: refreshes of the block; wraps -/
def Fount.GSB_SEQ : FieldSpec := ⟨0x0A00A0, 0x0, 1, 0x0, 1, 16, 16, .ro, 0, .c, 0, 65535⟩
/-- Table 12.10: block to load, word w -/
def Fount.GSB_IN : FieldSpec := ⟨0x0A00C0, 0x0, 1, 0x4, 16, 0, 32, .wo, 0, .cmw, 0, 4294967295⟩
/-- Table 12.10: loads GSB_IN in KEY_WAIT (R286); cleared when judged -/
def Fount.GSB_LOAD : FieldSpec := ⟨0x0A0100, 0x0, 1, 0x0, 1, 0, 1, .rw1s, 0, .cmw, 0, 1⟩
/-- Table 12.10: the host has no block; cleared when taken -/
def Fount.GSB_NONE : FieldSpec := ⟨0x0A0100, 0x0, 1, 0x0, 1, 1, 1, .rw1s, 0, .cmw, 0, 1⟩
/-- Table 12.11: ST0 in service -/
def Cast.ST0_OK : FieldSpec := ⟨0x0B0000, 0x0, 1, 0x0, 1, 0, 1, .ro, 0, .none, 0, 1⟩
/-- Table 12.11: ST1 in service -/
def Cast.ST1_OK : FieldSpec := ⟨0x0B0000, 0x0, 1, 0x0, 1, 1, 1, .ro, 0, .none, 0, 1⟩
/-- Table 12.11: an erased slot awaits a cast (R297) -/
def Cast.SLOT_READY : FieldSpec := ⟨0x0B0000, 0x0, 1, 0x0, 1, 2, 1, .ro, 0, .none, 0, 1⟩
/-- Table 12.11: a cast is pending (R301) -/
def Cast.CAST_PENDING : FieldSpec := ⟨0x0B0000, 0x0, 1, 0x0, 1, 3, 1, .ro, 0, .none, 0, 1⟩
/-- Table 12.11: slot holding the newest valid cast -/
def Cast.NEWEST_SLOT : FieldSpec := ⟨0x0B0000, 0x0, 1, 0x0, 1, 4, 1, .ro, 0, .none, 0, 1⟩
/-- Table 12.11: a release casts instead of destaging (R305) -/
def Cast.RELEASE_FAST : FieldSpec := ⟨0x0B0004, 0x0, 1, 0x0, 1, 0, 1, .rw, 0, .cmw, 0, 1⟩
/-- Table 12.11: requests a release (R306); cleared when taken, voided or refused -/
def Cast.RELEASE_GO : FieldSpec := ⟨0x0B0004, 0x0, 1, 0x0, 1, 1, 1, .rw1s, 0, .cmw, 0, 1⟩
/-- Table 12.11: abandons a pending cast not yet restored (R301); cleared when taken … -/
def Cast.CAST_ABANDON : FieldSpec := ⟨0x0B0004, 0x0, 1, 0x0, 1, 2, 1, .rw1s, 0, .cmw, 0, 1⟩
/-- Table 12.11: newest valid cast generation, bits [31:0] -/
def Cast.CAST_GEN_LO : FieldSpec := ⟨0x0B0008, 0x0, 1, 0x0, 1, 0, 32, .ro, 0, .c, 0, 4294967295⟩
/-- Table 12.11: bits [63:32] -/
def Cast.CAST_GEN_HI : FieldSpec := ⟨0x0B000C, 0x0, 1, 0x0, 1, 0, 32, .ro, 0, .c, 0, 4294967295⟩
/-- Table 12.11: slot blocks written by the newest cast -/
def Cast.LAST_CAST_BLOCKS : FieldSpec := ⟨0x0B0010, 0x0, 1, 0x0, 1, 0, 25, .ro, 0, .c, 0, 33554431⟩
/-- Table 12.11: duration of the newest cast, imp -/
def Cast.LAST_CAST_IMP : FieldSpec := ⟨0x0B0014, 0x0, 1, 0x0, 1, 0, 32, .ro, 0, .c, 0, 4294967295⟩
/-- Table 12.11: causes of the newest cast, as header offset 72 -/
def Cast.LAST_CAST_CAUSE : FieldSpec := ⟨0x0B0018, 0x0, 1, 0x0, 1, 0, 8, .ro, 0, .c, 0, 255⟩
/-- Table 12.11: recast progress, 0 to 100 -/
def Cast.RECAST_PCT : FieldSpec := ⟨0x0B001C, 0x0, 1, 0x0, 1, 0, 7, .ro, 0, .cmw, 0, 127⟩
/-- Table 12.11: index entries lost in both halves -/
def Cast.RECAST_LOST : FieldSpec := ⟨0x0B0020, 0x0, 1, 0x0, 1, 0, 32, .ro, 0, .cmw, 0, 4294967295⟩
/-- Table 12.11: the newest cast completed -/
def Cast.CAST_MADE : FieldSpec := ⟨0x0B0024, 0x0, 1, 0x0, 1, 0, 1, .rw1c, 0, .cmw, 0, 1⟩
/-- Table 12.11: a recast or resume from the Case completed -/
def Cast.RECAST_DONE : FieldSpec := ⟨0x0B0024, 0x0, 1, 0x0, 1, 1, 1, .rw1c, 0, .cmw, 0, 1⟩
/-- Table 12.11: a cast could not be recast (R301) -/
def Cast.CAST_LOST : FieldSpec := ⟨0x0B0024, 0x0, 1, 0x0, 1, 2, 1, .rw1c, 0, .cmw, 0, 1⟩
/-- Table 12.11: restored data entered the hellbox (R303) -/
def Cast.CAST_PARTIAL : FieldSpec := ⟨0x0B0024, 0x0, 1, 0x0, 1, 3, 1, .rw1c, 0, .cmw, 0, 1⟩
/-- Table 12.11: a wrapped key does not unwrap -/
def Cast.CAST_KEY_FAIL : FieldSpec := ⟨0x0B0024, 0x0, 1, 0x0, 1, 4, 1, .ro, 0, .cmw, 0, 1⟩
/-- Table 12.11: the cast's image differs from the committed image -/
def Cast.CAST_IMG_DIFF : FieldSpec := ⟨0x0B0024, 0x0, 1, 0x0, 1, 5, 1, .ro, 0, .cmw, 0, 1⟩
/-- Table 12.11: a signature's cast data was set aside (R303) -/
def Cast.CAST_STALE : FieldSpec := ⟨0x0B0024, 0x0, 1, 0x0, 1, 6, 1, .rw1c, 0, .cmw, 0, 1⟩
/-- Table 12.11: a cast was consumed (R304) -/
def Cast.CAST_CONSUMED : FieldSpec := ⟨0x0B0024, 0x0, 1, 0x0, 1, 7, 1, .rw1c, 0, .cmw, 0, 1⟩
/-- Table 12.11: SAFE_TO_REMOVE was asserted -/
def Cast.RELEASE_DONE : FieldSpec := ⟨0x0B0024, 0x0, 1, 0x0, 1, 8, 1, .rw1c, 0, .cmw, 0, 1⟩
/-- Table 12.11: a RELEASE_GO was refused or voided (R306) -/
def Cast.RELEASE_REFUSED : FieldSpec := ⟨0x0B0024, 0x0, 1, 0x0, 1, 9, 1, .rw1c, 0, .cmw, 0, 1⟩
/-- Table 12.11: bit m enables bit m of 0x0B_0024 into the interrupt summary -/
def Cast.CAST_INT_EN : FieldSpec := ⟨0x0B0028, 0x0, 1, 0x0, 1, 0, 10, .rw, 0, .cmw, 0, 1023⟩
/-- Table 12.11: casts begun since manufacture -/
def Cast.CASTS_TOTAL : FieldSpec := ⟨0x0B002C, 0x0, 1, 0x0, 1, 0, 32, .ro, 0, .none, 0, 4294967295⟩
/-- Table 13.7: thermal state, Table 13.5 -/
def Mu.THERM_STATE : FieldSpec := ⟨0x040000, 0x0, 1, 0x0, 1, 0, 2, .ro, 0, .none, 0, 3⟩
/-- Table 13.7: MIN_C4 doubled (R315) -/
def Mu.C4_BOOST : FieldSpec := ⟨0x040000, 0x0, 1, 0x0, 1, 8, 1, .ro, 0, .none, 0, 1⟩
/-- Table 13.7: ENCL_TEMP ignored (R317) -/
def Mu.ENCL_STALE : FieldSpec := ⟨0x040000, 0x0, 1, 0x0, 1, 9, 1, .ro, 0, .none, 0, 1⟩
/-- Table 13.7: no junction sensor reading valid -/
def Mu.SENSOR_FAIL : FieldSpec := ⟨0x040000, 0x0, 1, 0x0, 1, 10, 1, .ro, 0, .none, 0, 1⟩
/-- Table 13.7: junction temperature, 0.1 °C, two's complement -/
def Mu.JUNCTION_T : FieldSpec := ⟨0x040004, 0x0, 1, 0x0, 1, 0, 16, .ro, 0, .none, 0, 65535⟩
/-- Table 13.7: inlet temperature written by the host, 0.1 °C, two's complement -/
def Mu.ENCL_TEMP : FieldSpec := ⟨0x040008, 0x0, 1, 0x0, 1, 0, 16, .rw, 0, .cmw, 0, 65535⟩
/-- Table 13.7: minimum share of C2, % -/
def Mu.MIN_C2 : FieldSpec := ⟨0x04000C, 0x0, 1, 0x0, 1, 0, 7, .rw, 0, .img, 0, 127⟩
/-- Table 13.7: minimum share of C3, % -/
def Mu.MIN_C3 : FieldSpec := ⟨0x04000C, 0x0, 1, 0x0, 1, 8, 7, .rw, 0, .img, 0, 127⟩
/-- Table 13.7: minimum share of C4, % -/
def Mu.MIN_C4 : FieldSpec := ⟨0x04000C, 0x0, 1, 0x0, 1, 16, 7, .rw, 0, .img, 0, 127⟩
/-- Table 13.7: minimum share of C5, % -/
def Mu.MIN_C5 : FieldSpec := ⟨0x04000C, 0x0, 1, 0x0, 1, 24, 7, .rw, 0, .img, 0, 127⟩
/-- Table 13.7: minimum share of C6, % -/
def Mu.MIN_C6 : FieldSpec := ⟨0x040010, 0x0, 1, 0x0, 1, 0, 7, .rw, 0, .img, 0, 127⟩
/-- Table 13.7: press bytes of the current impression -/
def Mu.PRESS_BUDGET : FieldSpec := ⟨0x040014, 0x0, 1, 0x0, 1, 0, 21, .ro, 0, .none, 0, 2097151⟩
/-- Table 13.7: Case bytes of the current impression -/
def Mu.CASE_BUDGET : FieldSpec := ⟨0x040018, 0x0, 1, 0x0, 1, 0, 22, .ro, 0, .none, 0, 4194303⟩
/-- Table 13.7: DMA descriptors of the current impression -/
def Mu.DESC_BUDGET : FieldSpec := ⟨0x04001C, 0x0, 1, 0x0, 1, 0, 12, .ro, 0, .none, 0, 4095⟩
/-- Table 13.7: front-end credit of the current impression, all ports -/
def Mu.FE_CREDIT : FieldSpec := ⟨0x040020, 0x0, 1, 0x0, 1, 0, 20, .ro, 0, .none, 0, 1048575⟩
/-- Table 13.7: the thermal state changed -/
def Mu.THERM_CHANGE : FieldSpec := ⟨0x040024, 0x0, 1, 0x0, 1, 0, 1, .rw1c, 0, .cmw, 0, 1⟩
/-- Table 13.7: a share write was ignored (R311) -/
def Mu.SHARE_REJ : FieldSpec := ⟨0x040024, 0x0, 1, 0x0, 1, 1, 1, .rw1c, 0, .cmw, 0, 1⟩
/-- Table 13.7: the C4 boost began -/
def Mu.BOOST_BEGAN : FieldSpec := ⟨0x040024, 0x0, 1, 0x0, 1, 2, 1, .rw1c, 0, .cmw, 0, 1⟩
/-- Table 13.7: bit m enables bit m of 0x04_0024 into the interrupt summary -/
def Mu.MU_INT_EN : FieldSpec := ⟨0x040028, 0x0, 1, 0x0, 1, 0, 3, .rw, 0, .cmw, 0, 7⟩
/-- Table 13.7: items of class c placed, c = 0 to 7; every counter saturates -/
def Mu.ITEMS : FieldSpec := ⟨0x040040, 0x0, 1, 0x4, 8, 0, 32, .rc, 0, .cmw, 0, 4294967295⟩
/-- Table 13.7: impressions in which class c had items queued and none was placed -/
def Mu.STARVED : FieldSpec := ⟨0x040060, 0x0, 1, 0x4, 8, 0, 32, .rc, 0, .cmw, 0, 4294967295⟩
/-- Table 13.7: V2, bits [31:0] -/
def Mu.VTIME2_LO : FieldSpec := ⟨0x040080, 0x0, 1, 0x0, 1, 0, 32, .ro, 0, .cmw, 0, 4294967295⟩
/-- Table 13.7: bits [63:32] -/
def Mu.VTIME2_HI : FieldSpec := ⟨0x040084, 0x0, 1, 0x0, 1, 0, 32, .ro, 0, .cmw, 0, 4294967295⟩
/-- Table 13.7: V3, bits [31:0] -/
def Mu.VTIME3_LO : FieldSpec := ⟨0x040088, 0x0, 1, 0x0, 1, 0, 32, .ro, 0, .cmw, 0, 4294967295⟩
/-- Table 13.7: bits [63:32] -/
def Mu.VTIME3_HI : FieldSpec := ⟨0x04008C, 0x0, 1, 0x0, 1, 0, 32, .ro, 0, .cmw, 0, 4294967295⟩
/-- Table 13.7: connection index to observe -/
def Mu.FAIR_SEL : FieldSpec := ⟨0x040100, 0x0, 1, 0x0, 1, 0, 12, .rw, 0, .cmw, 0, 4095⟩
/-- Table 13.7: w_i -/
def Mu.FAIR_WEIGHT : FieldSpec := ⟨0x040104, 0x0, 1, 0x0, 1, 0, 8, .ro, 0, .cmw, 0, 255⟩
/-- Table 13.7: the connection was open throughout the window -/
def Mu.FAIR_VALID : FieldSpec := ⟨0x040104, 0x0, 1, 0x0, 1, 31, 1, .ro, 0, .cmw, 0, 1⟩
/-- Table 13.7: bytes admitted in C2 in the window -/
def Mu.FAIR_ADMIT_C2 : FieldSpec := ⟨0x040108, 0x0, 1, 0x0, 1, 0, 32, .ro, 0, .cmw, 0, 4294967295⟩
/-- Table 13.7: bytes admitted in C3 in the window -/
def Mu.FAIR_ADMIT_C3 : FieldSpec := ⟨0x04010C, 0x0, 1, 0x0, 1, 0, 32, .ro, 0, .cmw, 0, 4294967295⟩
/-- Table 13.7: boundaries of the window at which the connection was backlogged in … -/
def Mu.FAIR_BACKLOG_C2 : FieldSpec := ⟨0x040110, 0x0, 1, 0x0, 1, 0, 11, .ro, 0, .cmw, 0, 2047⟩
/-- Table 13.7: the same, in C3 -/
def Mu.FAIR_BACKLOG_C3 : FieldSpec := ⟨0x040114, 0x0, 1, 0x0, 1, 0, 11, .ro, 0, .cmw, 0, 2047⟩
/-- Table 13.7: bound of R321 for C2, bytes, two's complement -/
def Mu.FAIR_BOUND_C2 : FieldSpec := ⟨0x040118, 0x0, 1, 0x0, 1, 0, 32, .ro, 0, .cmw, 0, 4294967295⟩
/-- Table 13.7: bound of R321 for C3, bytes, two's complement -/
def Mu.FAIR_BOUND_C3 : FieldSpec := ⟨0x04011C, 0x0, 1, 0x0, 1, 0, 32, .ro, 0, .cmw, 0, 4294967295⟩
/-- Table 13.7: F_i of C2 at window end, bits [31:0] -/
def Mu.FAIR_FIN_LO : FieldSpec := ⟨0x040120, 0x0, 1, 0x0, 1, 0, 32, .ro, 0, .cmw, 0, 4294967295⟩
/-- Table 13.7: bits [63:32] -/
def Mu.FAIR_FIN_HI : FieldSpec := ⟨0x040124, 0x0, 1, 0x0, 1, 0, 32, .ro, 0, .cmw, 0, 4294967295⟩
/-- Table 13.7: weight of host-table entry h, h = 0 to 255; takes effect for tags … -/
def Mu.HOST_WEIGHT : FieldSpec := ⟨0x040400, 0x0, 1, 0x4, 256, 0, 8, .rw, 0, .img, 0, 255⟩
/-- Table 14.8: usable compositor spares, 0 to 2 -/
def Cp.SPARES_CMP : FieldSpec := ⟨0x050000, 0x0, 1, 0x0, 1, 0, 2, .ro, 0, .none, 0, 3⟩
/-- Table 14.8: usable press spares, 0 to 2 -/
def Cp.SPARES_PRS : FieldSpec := ⟨0x050000, 0x0, 1, 0x0, 1, 8, 2, .ro, 0, .none, 0, 3⟩
/-- Table 14.8: FPE4 usable as a spare -/
def Cp.SPARES_FPE : FieldSpec := ⟨0x050000, 0x0, 1, 0x0, 1, 16, 1, .ro, 0, .none, 0, 1⟩
/-- Table 14.8: some pair runs simplex -/
def Cp.SIMPLEX : FieldSpec := ⟨0x050000, 0x0, 1, 0x0, 1, 24, 1, .ro, 0, .none, 0, 1⟩
/-- Table 14.8: some pair is dead and adopted -/
def Cp.PAIR_DEAD : FieldSpec := ⟨0x050000, 0x0, 1, 0x0, 1, 25, 1, .ro, 0, .none, 0, 1⟩
/-- Table 14.8: a switch-over is in progress -/
def Cp.SWITCHING : FieldSpec := ⟨0x050000, 0x0, 1, 0x0, 1, 26, 1, .ro, 0, .none, 0, 1⟩
/-- Table 14.8: mismatches at the gate; every counter saturates -/
def Cp.MISMATCHES : FieldSpec := ⟨0x050004, 0x0, 1, 0x0, 1, 0, 32, .rc, 0, .cmw, 0, 4294967295⟩
/-- Table 14.8: transient verdicts -/
def Cp.PAIR_TRANSIENTS : FieldSpec := ⟨0x050008, 0x0, 1, 0x0, 1, 0, 32, .rc, 0, .cmw, 0, 4294967295⟩
/-- Table 14.8: spares loaded -/
def Cp.SPARE_LOADS : FieldSpec := ⟨0x05000C, 0x0, 1, 0x0, 1, 0, 32, .rc, 0, .cmw, 0, 4294967295⟩
/-- Table 14.8: a mismatch was detected -/
def Cp.MISMATCH : FieldSpec := ⟨0x050010, 0x0, 1, 0x0, 1, 0, 1, .rw1c, 0, .cmw, 0, 1⟩
/-- Table 14.8: an engine was retired -/
def Cp.ENG_RETIRED : FieldSpec := ⟨0x050010, 0x0, 1, 0x0, 1, 1, 1, .rw1c, 0, .cmw, 0, 1⟩
/-- Table 14.8: a pair began running simplex -/
def Cp.SIMPLEX_BEGAN : FieldSpec := ⟨0x050010, 0x0, 1, 0x0, 1, 2, 1, .rw1c, 0, .cmw, 0, 1⟩
/-- Table 14.8: a pair died (R335) -/
def Cp.DOUBLE_FAULT : FieldSpec := ⟨0x050010, 0x0, 1, 0x0, 1, 3, 1, .rw1c, 0, .cmw, 0, 1⟩
/-- Table 14.8: the pair map named an unusable engine (R324) -/
def Cp.MAP_SUBST : FieldSpec := ⟨0x050010, 0x0, 1, 0x0, 1, 4, 1, .rw1c, 0, .cmw, 0, 1⟩
/-- Table 14.8: no valid engine record was found (R338) -/
def Cp.RECORD_LOST : FieldSpec := ⟨0x050010, 0x0, 1, 0x0, 1, 5, 1, .rw1c, 0, .cmw, 0, 1⟩
/-- Table 14.8: bit m enables bit m of 0x05_0010 into the interrupt summary -/
def Cp.CP_INT_EN : FieldSpec := ⟨0x050014, 0x0, 1, 0x0, 1, 0, 6, .rw, 0, .cmw, 0, 63⟩
/-- Table 14.8: pair of the last mismatch; the lowest, when several mismatch at one … -/
def Cp.LAST_MM_PAIR : FieldSpec := ⟨0x050018, 0x0, 1, 0x0, 1, 0, 4, .ro, 0, .cmw, 0, 15⟩
/-- Table 14.8: 0 port command; 1 DMA descriptor; 2 press signature; 3 PDU header; 4 … -/
def Cp.LAST_MM_KIND : FieldSpec := ⟨0x050018, 0x0, 1, 0x0, 1, 8, 3, .ro, 0, .cmw, 0, 7⟩
/-- Table 14.8: impression counter of the last mismatch's I0, bits [31:0] -/
def Cp.LAST_MM_IMP : FieldSpec := ⟨0x05001C, 0x0, 1, 0x0, 1, 0, 32, .ro, 0, .cmw, 0, 4294967295⟩
/-- Table 14.8: pair p, p = 0 to 13: 0 comparing; 1 switch-over; 2 simplex; 3 dead -/
def Cp.PAIR_STATE : FieldSpec := ⟨0x050040, 0x0, 1, 0x4, 14, 0, 3, .ro, 0, .none, 0, 7⟩
/-- Table 14.8: switch-over impression, 0 to 7 -/
def Cp.PAIR_STEP : FieldSpec := ⟨0x050040, 0x0, 1, 0x4, 14, 4, 3, .ro, 0, .none, 0, 7⟩
/-- Table 14.8: engine number of member A; 0x3F none -/
def Cp.MEMBER_A : FieldSpec := ⟨0x050040, 0x0, 1, 0x4, 14, 8, 6, .ro, 0, .none, 0, 63⟩
/-- Table 14.8: engine number of member B; 0x3F none -/
def Cp.MEMBER_B : FieldSpec := ⟨0x050040, 0x0, 1, 0x4, 14, 16, 6, .ro, 0, .none, 0, 63⟩
/-- Table 14.8: pair carrying p's work; 0xF none -/
def Cp.ADOPTER : FieldSpec := ⟨0x050040, 0x0, 1, 0x4, 14, 24, 4, .ro, 0, .none, 0, 15⟩
/-- Table 14.8: engine e, e = 0 to 32: 0 spare; 1 comparing member; 2 simplex; 3 … -/
def Cp.ENG_ROLE : FieldSpec := ⟨0x050100, 0x0, 1, 0x4, 33, 0, 3, .ro, 0, .none, 0, 7⟩
/-- Table 14.8: 0 none; 1 self-test; 2 transient count; 3 repeated mismatch; 4 … -/
def Cp.ENG_CAUSE : FieldSpec := ⟨0x050100, 0x0, 1, 0x4, 33, 4, 3, .ro, 0, .none, 0, 7⟩
/-- Table 14.8: transients charged in the last 24 operating hours -/
def Cp.ENG_TRANS_24H : FieldSpec := ⟨0x050100, 0x0, 1, 0x4, 33, 8, 5, .ro, 0, .c, 0, 31⟩
/-- Table 14.8: transients charged to engine e -/
def Cp.ENG_TRANS_TOTAL : FieldSpec := ⟨0x050200, 0x0, 1, 0x4, 33, 0, 32, .rc, 0, .cmw, 0, 4294967295⟩
/-- Table 15.6: channels, 16 to 64 -/
def Dma.DMA_CHANNELS : FieldSpec := ⟨0x060000, 0x0, 1, 0x0, 1, 0, 7, .rwl, 0, .img, 0, 127⟩
/-- Table 15.6: host channels, 1 to 8 -/
def Dma.HOST_CHANNELS : FieldSpec := ⟨0x060000, 0x0, 1, 0x0, 1, 8, 4, .rwl, 0, .img, 0, 15⟩
/-- Table 15.6: DMA_CHANNELS is above 16 -/
def Dma.SHARED_PF : FieldSpec := ⟨0x060000, 0x0, 1, 0x0, 1, 16, 1, .ro, 0, .none, 0, 1⟩
/-- Table 15.6: retries of a failing beat, 0 to 7 -/
def Dma.RETRY_COUNT : FieldSpec := ⟨0x060004, 0x0, 1, 0x0, 1, 0, 3, .rw, 3, .cmw, 0, 7⟩
/-- Table 15.6: bus errors; every counter saturates -/
def Dma.BUS_ERRORS : FieldSpec := ⟨0x060008, 0x0, 1, 0x0, 1, 0, 32, .rc, 0, .cmw, 0, 4294967295⟩
/-- Table 15.6: shared stops (R353) -/
def Dma.SHARED_STOPS : FieldSpec := ⟨0x06000C, 0x0, 1, 0x0, 1, 0, 32, .rc, 0, .cmw, 0, 4294967295⟩
/-- Table 15.6: a host channel ended with DONE -/
def Dma.HOST_DONE : FieldSpec := ⟨0x060010, 0x0, 1, 0x0, 1, 0, 1, .rw1c, 0, .cmw, 0, 1⟩
/-- Table 15.6: a host channel halted or ended with DONE_WITH_ERROR -/
def Dma.HOST_ERR : FieldSpec := ⟨0x060010, 0x0, 1, 0x0, 1, 1, 1, .rw1c, 0, .cmw, 0, 1⟩
/-- Table 15.6: a shared stop occurred -/
def Dma.SHARED_STOP : FieldSpec := ⟨0x060010, 0x0, 1, 0x0, 1, 2, 1, .rw1c, 0, .cmw, 0, 1⟩
/-- Table 15.6: a GO was refused (R347) -/
def Dma.GO_REFUSED : FieldSpec := ⟨0x060010, 0x0, 1, 0x0, 1, 3, 1, .rw1c, 0, .cmw, 0, 1⟩
/-- Table 15.6: a host descriptor with IRQ completed -/
def Dma.DESC_IRQ : FieldSpec := ⟨0x060010, 0x0, 1, 0x0, 1, 4, 1, .rw1c, 0, .cmw, 0, 1⟩
/-- Table 15.6: bit m enables bit m of 0x06_0010 into the interrupt summary -/
def Dma.DMA_INT_EN : FieldSpec := ⟨0x060014, 0x0, 1, 0x0, 1, 0, 5, .rw, 0, .cmw, 0, 31⟩
/-- Table 15.6: bit h: host channel h ended with DONE -/
def Dma.HOST_DONE_MASK : FieldSpec := ⟨0x060020, 0x0, 1, 0x0, 1, 0, 8, .rw1c, 0, .cmw, 0, 255⟩
/-- Table 15.6: starts the channel; cleared when taken or refused -/
def Dma.GO : FieldSpec := ⟨0x060100, 0x0, 1, 0x40, 64, 0, 1, .rw1s, 0, .cmw, 0, 1⟩
/-- Table 15.6: stops the channel (R349); cleared when acted on -/
def Dma.ABORT : FieldSpec := ⟨0x060100, 0x0, 1, 0x40, 64, 1, 1, .rw1s, 0, .cmw, 0, 1⟩
/-- Table 15.6: 0 direct mode; 1 list mode -/
def Dma.LIST : FieldSpec := ⟨0x060100, 0x0, 1, 0x40, 64, 2, 1, .rw, 0, .cmw, 0, 1⟩
/-- Table 15.6: channel c is a host channel -/
def Dma.HOST_CH : FieldSpec := ⟨0x060100, 0x0, 1, 0x40, 64, 8, 1, .ro, 0, .none, 0, 1⟩
/-- Table 15.6: channel status -/
def Dma.CH_STATUS : FieldSpec := ⟨0x060104, 0x0, 1, 0x40, 64, 0, 3, .ro, 0, .cmw, 0, 7⟩
/-- Table 15.6: 0 none; 1 read error; 2 write error; 3 length; 4 target or range; 5 … -/
def Dma.ERR_CAUSE : FieldSpec := ⟨0x060104, 0x0, 1, 0x40, 64, 8, 4, .ro, 0, .cmw, 0, 15⟩
/-- Table 15.6: descriptors completed in this run, 0 to 4 096 -/
def Dma.DESC_INDEX : FieldSpec := ⟨0x060104, 0x0, 1, 0x40, 64, 16, 13, .ro, 0, .cmw, 0, 8191⟩
/-- Table 15.6: direct-mode source, bits [31:0] -/
def Dma.SRC_LO : FieldSpec := ⟨0x060108, 0x0, 1, 0x40, 64, 0, 32, .rw, 0, .cmw, 0, 4294967295⟩
/-- Table 15.6: bits [63:32] -/
def Dma.SRC_HI : FieldSpec := ⟨0x06010C, 0x0, 1, 0x40, 64, 0, 32, .rw, 0, .cmw, 0, 4294967295⟩
/-- Table 15.6: direct-mode destination, bits [31:0] -/
def Dma.DST_LO : FieldSpec := ⟨0x060110, 0x0, 1, 0x40, 64, 0, 32, .rw, 0, .cmw, 0, 4294967295⟩
/-- Table 15.6: bits [63:32] -/
def Dma.DST_HI : FieldSpec := ⟨0x060114, 0x0, 1, 0x40, 64, 0, 32, .rw, 0, .cmw, 0, 4294967295⟩
/-- Table 15.6: direct-mode length; while running, bytes left in the current … -/
def Dma.COUNT : FieldSpec := ⟨0x060118, 0x0, 1, 0x40, 64, 0, 25, .rw, 0, .cmw, 0, 33554431⟩
/-- Table 15.6: first descriptor, bits [31:0] -/
def Dma.DESC_PTR_LO : FieldSpec := ⟨0x06011C, 0x0, 1, 0x40, 64, 0, 32, .rw, 0, .cmw, 0, 4294967295⟩
/-- Table 15.6: bits [63:32] -/
def Dma.DESC_PTR_HI : FieldSpec := ⟨0x060120, 0x0, 1, 0x40, 64, 0, 32, .rw, 0, .cmw, 0, 4294967295⟩
/-- Table 15.6: current or failing descriptor, bits [31:0] -/
def Dma.CUR_DESC_LO : FieldSpec := ⟨0x060124, 0x0, 1, 0x40, 64, 0, 32, .ro, 0, .cmw, 0, 4294967295⟩
/-- Table 15.6: bits [63:32] -/
def Dma.CUR_DESC_HI : FieldSpec := ⟨0x060128, 0x0, 1, 0x40, 64, 0, 32, .ro, 0, .cmw, 0, 4294967295⟩
/-- Table 15.6: bytes moved in this run; saturates -/
def Dma.BYTES_DONE : FieldSpec := ⟨0x06012C, 0x0, 1, 0x40, 64, 0, 32, .ro, 0, .cmw, 0, 4294967295⟩
/-- Table 15.6: address of the failing beat, bits [31:0] -/
def Dma.ERR_ADDR_LO : FieldSpec := ⟨0x060130, 0x0, 1, 0x40, 64, 0, 32, .ro, 0, .cmw, 0, 4294967295⟩
/-- Table 15.6: bits [63:32] -/
def Dma.ERR_ADDR_HI : FieldSpec := ⟨0x060134, 0x0, 1, 0x40, 64, 0, 32, .ro, 0, .cmw, 0, 4294967295⟩
/-- Table 16.6: freeze requested (R365) -/
def El.FREEZE : FieldSpec := ⟨0x070000, 0x0, 1, 0x0, 1, 0, 1, .rw, 0, .cmw, 0, 1⟩
/-- Table 16.6: freeze in effect -/
def El.FROZEN : FieldSpec := ⟨0x070000, 0x0, 1, 0x0, 1, 1, 1, .ro, 0, .cmw, 0, 1⟩
/-- Table 16.6: flush now; cleared when the flush completes, or is withheld by a … -/
def El.LOG_FLUSH : FieldSpec := ⟨0x070000, 0x0, 1, 0x0, 1, 2, 1, .rw1s, 0, .cmw, 0, 1⟩
/-- Table 16.6: clear the log (R367); cleared when taken or refused -/
def El.LOG_CLEAR : FieldSpec := ⟨0x070000, 0x0, 1, 0x0, 1, 3, 1, .rw1s, 0, .cmw, 0, 1⟩
/-- Table 16.6: half read through DMA target 0x4: 0 ST0, 1 ST1 -/
def El.LOG_HALF : FieldSpec := ⟨0x070000, 0x0, 1, 0x0, 1, 4, 1, .rw, 0, .cmw, 0, 1⟩
/-- Table 16.6: policy bit permitting clears -/
def El.LOG_CLEAR_OK : FieldSpec := ⟨0x070000, 0x0, 1, 0x0, 1, 8, 1, .rwl, 0, .img, 0, 1⟩
/-- Table 16.6: offset at which the next flush appends -/
def El.LOG_USED : FieldSpec := ⟨0x070004, 0x0, 1, 0x0, 1, 0, 24, .ro, 0, .none, 0, 16777215⟩
/-- Table 16.6: bytes in the buffer, 0 to 65 536 -/
def El.BUF_USED : FieldSpec := ⟨0x070008, 0x0, 1, 0x0, 1, 0, 17, .ro, 0, .none, 0, 131071⟩
/-- Table 16.6: events dropped; every counter saturates -/
def El.ERRATA_LOST : FieldSpec := ⟨0x07000C, 0x0, 1, 0x0, 1, 0, 32, .rc, 0, .cmw, 0, 4294967295⟩
/-- Table 16.6: events suppressed by R364 -/
def El.SUPPRESSED : FieldSpec := ⟨0x070010, 0x0, 1, 0x0, 1, 0, 32, .rc, 0, .cmw, 0, 4294967295⟩
/-- Table 16.6: records per window per code, 1 to 255 -/
def El.RATE_LIMIT : FieldSpec := ⟨0x070014, 0x0, 1, 0x0, 1, 0, 8, .rw, 8, .cmw, 1, 255⟩
/-- Table 16.6: window in operating minutes, 1 to 255 -/
def El.RATE_WINDOW : FieldSpec := ⟨0x070014, 0x0, 1, 0x0, 1, 16, 8, .rw, 10, .cmw, 1, 255⟩
/-- Table 16.6: the LOG_FULL record was written -/
def El.EL_FULL : FieldSpec := ⟨0x070018, 0x0, 1, 0x0, 1, 0, 1, .rw1c, 0, .cmw, 0, 1⟩
/-- Table 16.6: an event was dropped -/
def El.EL_LOST : FieldSpec := ⟨0x070018, 0x0, 1, 0x0, 1, 1, 1, .rw1c, 0, .cmw, 0, 1⟩
/-- Table 16.6: a freeze ended after 300 s -/
def El.FREEZE_EXPIRED : FieldSpec := ⟨0x070018, 0x0, 1, 0x0, 1, 2, 1, .rw1c, 0, .cmw, 0, 1⟩
/-- Table 16.6: a clear completed -/
def El.EL_CLEARED : FieldSpec := ⟨0x070018, 0x0, 1, 0x0, 1, 3, 1, .rw1c, 0, .cmw, 0, 1⟩
/-- Table 16.6: a LOG_CLEAR was refused -/
def El.CLEAR_REFUSED : FieldSpec := ⟨0x070018, 0x0, 1, 0x0, 1, 4, 1, .rw1c, 0, .cmw, 0, 1⟩
/-- Table 16.6: bit m enables bit m of 0x07_0018 into the interrupt summary -/
def El.EL_INT_EN : FieldSpec := ⟨0x07001C, 0x0, 1, 0x0, 1, 0, 5, .rw, 0, .cmw, 0, 31⟩
/-- Table 16.6: clear count of the header -/
def El.CLEAR_COUNT : FieldSpec := ⟨0x070020, 0x0, 1, 0x0, 1, 0, 32, .ro, 0, .none, 0, 4294967295⟩
/-- Table 16.6: wall time, bits [31:0] -/
def El.ANCHOR_WALL_LO : FieldSpec := ⟨0x070024, 0x0, 1, 0x0, 1, 0, 32, .rw, 0, .cmw, 0, 4294967295⟩
/-- Table 16.6: bits [63:32] -/
def El.ANCHOR_WALL_HI : FieldSpec := ⟨0x070028, 0x0, 1, 0x0, 1, 0, 32, .rw, 0, .cmw, 0, 4294967295⟩
/-- Table 16.6: host tag of the anchor -/
def El.ANCHOR_TAG : FieldSpec := ⟨0x07002C, 0x0, 1, 0x0, 1, 0, 16, .rw, 0, .cmw, 0, 65535⟩
/-- Table 16.6: records an anchor; cleared when recorded -/
def El.ANCHOR_GO : FieldSpec := ⟨0x07002C, 0x0, 1, 0x0, 1, 16, 1, .rw1s, 0, .cmw, 0, 1⟩
/-- Table 17.12: 0 nothing committed; 1 committed, idle; 2 judging; 3 storing; 4 … -/
def Img.IMG_STATE : FieldSpec := ⟨0x020000, 0x0, 1, 0x0, 1, 0, 3, .ro, 0, .cmw, 0, 7⟩
/-- Table 17.12: judges the staged image (R380); cleared when taken or refused -/
def Img.IMG_VERIFY : FieldSpec := ⟨0x020000, 0x0, 1, 0x0, 1, 8, 1, .rw1s, 0, .cmw, 0, 1⟩
/-- Table 17.12: commits the staged image; cleared when taken or refused -/
def Img.IMG_COMMIT : FieldSpec := ⟨0x020000, 0x0, 1, 0x0, 1, 9, 1, .rw1s, 0, .cmw, 0, 1⟩
/-- Table 17.12: commits the candidate, IMAGE_WAIT only; cleared when taken or refused -/
def Img.IMG_CONFIRM : FieldSpec := ⟨0x020000, 0x0, 1, 0x0, 1, 10, 1, .rw1s, 0, .cmw, 0, 1⟩
/-- Table 17.12: the staging window is locked (R377) -/
def Img.STAGE_LOCKED : FieldSpec := ⟨0x020000, 0x0, 1, 0x0, 1, 11, 1, .ro, 0, .cmw, 0, 1⟩
/-- Table 17.12: zeroes the staging window; cleared when done -/
def Img.STAGE_CLEAR : FieldSpec := ⟨0x020000, 0x0, 1, 0x0, 1, 12, 1, .rw1s, 0, .cmw, 0, 1⟩
/-- Table 17.12: a committed change awaits the next makeready (R385) -/
def Img.PEND_MAKEREADY : FieldSpec := ⟨0x020000, 0x0, 1, 0x0, 1, 13, 1, .ro, 0, .cmw, 0, 1⟩
/-- Table 17.12: L as staged -/
def Img.STAGE_LEN : FieldSpec := ⟨0x020004, 0x0, 1, 0x0, 1, 0, 24, .ro, 0, .cmw, 0, 16777215⟩
/-- Table 17.12: L of the committed image -/
def Img.IMG_LEN : FieldSpec := ⟨0x020008, 0x0, 1, 0x0, 1, 0, 24, .ro, 0, .cmw, 0, 16777215⟩
/-- Table 17.12: blown anti-rollback fuses, 0 to 64 -/
def Img.ARB_FUSE : FieldSpec := ⟨0x02000C, 0x0, 1, 0x0, 1, 0, 7, .ro, 0, .none, 0, 127⟩
/-- Table 17.12: counter of the committed image -/
def Img.ARB_IMAGE : FieldSpec := ⟨0x02000C, 0x0, 1, 0x0, 1, 16, 7, .ro, 0, .cmw, 0, 127⟩
/-- Table 17.12: commits applied; saturates -/
def Img.COMMITS : FieldSpec := ⟨0x020010, 0x0, 1, 0x0, 1, 0, 32, .rc, 0, .cmw, 0, 4294967295⟩
/-- Table 17.12: an image was applied -/
def Img.IMG_COMMITTED : FieldSpec := ⟨0x020014, 0x0, 1, 0x0, 1, 0, 1, .rw1c, 0, .cmw, 0, 1⟩
/-- Table 17.12: an image or request was refused (R375) -/
def Img.IMG_REFUSED : FieldSpec := ⟨0x020014, 0x0, 1, 0x0, 1, 1, 1, .rw1c, 0, .cmw, 0, 1⟩
/-- Table 17.12: an IMG_VERIFY passed -/
def Img.IMG_VERIFIED : FieldSpec := ⟨0x020014, 0x0, 1, 0x0, 1, 2, 1, .rw1c, 0, .cmw, 0, 1⟩
/-- Table 17.12: a commit was abandoned (R384) -/
def Img.IMG_ABANDONED : FieldSpec := ⟨0x020014, 0x0, 1, 0x0, 1, 3, 1, .rw1c, 0, .cmw, 0, 1⟩
/-- Table 17.12: a stored copy was rewritten (R379) -/
def Img.COPY_REPAIRED : FieldSpec := ⟨0x020014, 0x0, 1, 0x0, 1, 4, 1, .rw1c, 0, .cmw, 0, 1⟩
/-- Table 17.12: a half could not be written (R378) -/
def Img.STORE_FAIL : FieldSpec := ⟨0x020014, 0x0, 1, 0x0, 1, 5, 1, .rw1c, 0, .cmw, 0, 1⟩
/-- Table 17.12: anti-rollback fuses were blown (R376) -/
def Img.ARB_ADVANCED : FieldSpec := ⟨0x020014, 0x0, 1, 0x0, 1, 6, 1, .rw1c, 0, .cmw, 0, 1⟩
/-- Table 17.12: bit m enables bit m of 0x02_0014 into the interrupt summary -/
def Img.IMG_INT_EN : FieldSpec := ⟨0x020018, 0x0, 1, 0x0, 1, 0, 7, .rw, 0, .cmw, 0, 127⟩
/-- Table 17.12: section index of the last refusal; 0xFFFF header, whole image or … -/
def Img.REFUSE_SECTION : FieldSpec := ⟨0x02001C, 0x0, 1, 0x0, 1, 0, 16, .ro, 0, .cmw, 0, 65535⟩
/-- Table 17.12: reason of the last refusal, Table 17.9 -/
def Img.REFUSE_REASON : FieldSpec := ⟨0x02001C, 0x0, 1, 0x0, 1, 16, 5, .ro, 0, .cmw, 0, 31⟩
/-- Table 17.12: SHA-256 of the committed image, word j, j = 0 to 7 -/
def Img.IMG_HASH : FieldSpec := ⟨0x020020, 0x0, 1, 0x4, 8, 0, 32, .ro, 0, .cmw, 0, 4294967295⟩
/-- Table 17.12: SHA-256 of the image last judged, word j -/
def Img.STAGE_HASH : FieldSpec := ⟨0x020040, 0x0, 1, 0x4, 8, 0, 32, .ro, 0, .cmw, 0, 4294967295⟩
/-- Table 17.12: the ST0 copy is valid (R379) -/
def Img.ST0_IMG_VALID : FieldSpec := ⟨0x020060, 0x0, 1, 0x0, 1, 0, 1, .ro, 0, .none, 0, 1⟩
/-- Table 17.12: the ST1 copy is valid -/
def Img.ST1_IMG_VALID : FieldSpec := ⟨0x020060, 0x0, 1, 0x0, 1, 1, 1, .ro, 0, .none, 0, 1⟩
/-- Table 17.12: the candidate is the ST1 copy -/
def Img.CAND_ST1 : FieldSpec := ⟨0x020060, 0x0, 1, 0x0, 1, 2, 1, .ro, 0, .none, 0, 1⟩
/-- Table 17.12: store generation of the candidate or of the last store, bits [31:0] -/
def Img.STORE_GEN_LO : FieldSpec := ⟨0x020064, 0x0, 1, 0x0, 1, 0, 32, .ro, 0, .none, 0, 4294967295⟩
/-- Table 17.12: bits [63:32] -/
def Img.STORE_GEN_HI : FieldSpec := ⟨0x020068, 0x0, 1, 0x0, 1, 0, 32, .ro, 0, .none, 0, 4294967295⟩
/-- Table 18.6: current state, Table 18.1 -/
def Glb.MOD_STATE : FieldSpec := ⟨0x000200, 0x0, 1, 0x0, 1, 0, 4, .ro, 0, .none, 0, 15⟩
/-- Table 18.6: state before the last change -/
def Glb.PREV_STATE : FieldSpec := ⟨0x000200, 0x0, 1, 0x0, 1, 8, 4, .ro, 0, .none, 0, 15⟩
/-- Table 18.6: Table 18.3; 0 none -/
def Glb.SAFE_CAUSE : FieldSpec := ⟨0x000200, 0x0, 1, 0x0, 1, 16, 3, .ro, 0, .cmw, 0, 7⟩
/-- Table 18.6: reset that began this makeready: 0 C; 1 M; 2 W -/
def Glb.LAST_RESET : FieldSpec := ⟨0x000200, 0x0, 1, 0x0, 1, 20, 2, .ro, 0, .none, 0, 3⟩
/-- Table 18.6: no pack answered in POWER_QUALIFY (R389) -/
def Glb.FOUNT_ABSENT : FieldSpec := ⟨0x000200, 0x0, 1, 0x0, 1, 24, 1, .ro, 0, .none, 0, 1⟩
/-- Table 18.6: the release in progress ends in MAINTENANCE (R397) -/
def Glb.MAINT_PENDING : FieldSpec := ⟨0x000200, 0x0, 1, 0x0, 1, 25, 1, .ro, 0, .cmw, 0, 1⟩
/-- Table 18.6: impressions since the current state was entered; saturates -/
def Glb.STATE_IMP : FieldSpec := ⟨0x000204, 0x0, 1, 0x0, 1, 0, 32, .ro, 0, .none, 0, 4294967295⟩
/-- Table 18.6: requests MAINTENANCE (R397); cleared when taken or refused -/
def Glb.MAINT_GO : FieldSpec := ⟨0x000208, 0x0, 1, 0x0, 1, 0, 1, .rw1s, 0, .cmw, 0, 1⟩
/-- Table 18.6: ends MAINTENANCE by a warm reset (R398); cleared when taken or refused -/
def Glb.MAINT_EXIT : FieldSpec := ⟨0x000208, 0x0, 1, 0x0, 1, 1, 1, .rw1s, 0, .cmw, 0, 1⟩
/-- Table 18.6: ends the ASSEMBLE wait (R394); cleared when taken -/
def Glb.ASM_DONE : FieldSpec := ⟨0x000208, 0x0, 1, 0x0, 1, 2, 1, .rw1s, 0, .cmw, 0, 1⟩
/-- Table 18.6: ASSEMBLE wait in s, 0 to 3 600 -/
def Glb.ASM_WAIT : FieldSpec := ⟨0x00020C, 0x0, 1, 0x0, 1, 0, 12, .rw, 120, .cmw, 0, 3600⟩
/-- Table 18.6: bit g forces signature g into service (R395); cleared when taken or … -/
def Glb.ASM_FORCE : FieldSpec := ⟨0x000210, 0x0, 1, 0x0, 1, 0, 16, .rw1s, 0, .cmw, 0, 65535⟩
/-- Table 18.6: bit g: signature g in service -/
def Glb.SIG_IN_SERVICE : FieldSpec := ⟨0x000214, 0x0, 1, 0x0, 1, 0, 16, .ro, 0, .cmw, 0, 65535⟩
/-- Table 18.6: bit 16 + g: signature g held out -/
def Glb.SIG_HELD : FieldSpec := ⟨0x000214, 0x0, 1, 0x0, 1, 16, 16, .ro, 0, .cmw, 0, 65535⟩
/-- Table 18.6: the state changed -/
def Glb.STATE_CHANGE : FieldSpec := ⟨0x000218, 0x0, 1, 0x0, 1, 0, 1, .rw1c, 0, .cmw, 0, 1⟩
/-- Table 18.6: PRESS_RUN was reached -/
def Glb.MAKEREADY_DONE : FieldSpec := ⟨0x000218, 0x0, 1, 0x0, 1, 1, 1, .rw1c, 0, .cmw, 0, 1⟩
/-- Table 18.6: SAFE was entered -/
def Glb.SAFE_ENTERED : FieldSpec := ⟨0x000218, 0x0, 1, 0x0, 1, 2, 1, .rw1c, 0, .cmw, 0, 1⟩
/-- Table 18.6: MAINT_GO or MAINT_EXIT was refused -/
def Glb.MAINT_REFUSED : FieldSpec := ⟨0x000218, 0x0, 1, 0x0, 1, 3, 1, .rw1c, 0, .cmw, 0, 1⟩
/-- Table 18.6: a signature was held out -/
def Glb.SIG_HELD_OUT : FieldSpec := ⟨0x000218, 0x0, 1, 0x0, 1, 4, 1, .rw1c, 0, .cmw, 0, 1⟩
/-- Table 18.6: the last reset waited for a cast (R401) -/
def Glb.RESET_CAST : FieldSpec := ⟨0x000218, 0x0, 1, 0x0, 1, 5, 1, .rw1c, 0, .cmw, 0, 1⟩
/-- Table 18.6: a signature was forced into service -/
def Glb.ASM_FORCED : FieldSpec := ⟨0x000218, 0x0, 1, 0x0, 1, 6, 1, .rw1c, 0, .cmw, 0, 1⟩
/-- Table 18.6: bit m enables bit m of 0x00_0218 into the interrupt summary -/
def Glb.MR_INT_EN : FieldSpec := ⟨0x00021C, 0x0, 1, 0x0, 1, 0, 7, .rw, 0, .cmw, 0, 127⟩
/-- Table 18.6: time in state s of the current makeready, ms -/
def Glb.MR_TIME : FieldSpec := ⟨0x000220, 0x0, 1, 0x4, 7, 0, 32, .ro, 0, .cmw, 0, 4294967295⟩
/-- Table 19.12: dynamic address; 0 none -/
def Hif.DYN_ADDR : FieldSpec := ⟨0x010000, 0x0, 1, 0x0, 1, 0, 7, .ro, 0, .cm, 0, 127⟩
/-- Table 19.12: strap value -/
def Hif.SLOT_ID : FieldSpec := ⟨0x010000, 0x0, 1, 0x0, 1, 8, 3, .ro, 0, .none, 0, 7⟩
/-- Table 19.12: ENINT as set by ENEC and DISEC -/
def Hif.IBI_ENABLED : FieldSpec := ⟨0x010000, 0x0, 1, 0x0, 1, 16, 1, .ro, 1, .cm, 0, 1⟩
/-- Table 19.12: the bus is in HDR-DDR -/
def Hif.HDR_ACTIVE : FieldSpec := ⟨0x010000, 0x0, 1, 0x0, 1, 17, 1, .ro, 0, .none, 0, 1⟩
/-- Table 19.12: maximum write length, bytes -/
def Hif.MWL : FieldSpec := ⟨0x010004, 0x0, 1, 0x0, 1, 0, 13, .ro, 4099, .cm, 0, 8191⟩
/-- Table 19.12: maximum read length, bytes -/
def Hif.MRL : FieldSpec := ⟨0x010004, 0x0, 1, 0x0, 1, 16, 13, .ro, 4096, .cm, 0, 8191⟩
/-- Table 19.12: bit c − 1: IBI class c pending (Table 19.5) -/
def Hif.IBI_PENDING : FieldSpec := ⟨0x010008, 0x0, 1, 0x0, 1, 0, 5, .rw1c, 0, .cmw, 0, 31⟩
/-- Table 19.12: bit c − 1: class c may raise an IBI -/
def Hif.IBI_MASK : FieldSpec := ⟨0x01000C, 0x0, 1, 0x0, 1, 0, 5, .rw, 31, .cmw, 0, 31⟩
/-- Table 19.12: Table 19.3 -/
def Hif.ALIGN_ERR : FieldSpec := ⟨0x010010, 0x0, 1, 0x0, 1, 0, 1, .rw1c, 0, .cmw, 0, 1⟩
/-- Table 19.12: Table 19.3 -/
def Hif.PARTIAL_WORD : FieldSpec := ⟨0x010010, 0x0, 1, 0x0, 1, 1, 1, .rw1c, 0, .cmw, 0, 1⟩
/-- Table 19.12: Table 19.3, R413 -/
def Hif.UNMAPPED : FieldSpec := ⟨0x010010, 0x0, 1, 0x0, 1, 2, 1, .rw1c, 0, .cmw, 0, 1⟩
/-- Table 19.12: Table 19.3 -/
def Hif.OVERLONG : FieldSpec := ⟨0x010010, 0x0, 1, 0x0, 1, 3, 1, .rw1c, 0, .cmw, 0, 1⟩
/-- Table 19.12: a window access beyond its size -/
def Hif.WIN_OVF : FieldSpec := ⟨0x010010, 0x0, 1, 0x0, 1, 4, 1, .rw1c, 0, .cmw, 0, 1⟩
/-- Table 19.12: a static-address transfer was NACKed (R405) -/
def Hif.LEGACY_REFUSED : FieldSpec := ⟨0x010010, 0x0, 1, 0x0, 1, 5, 1, .rw1c, 0, .cmw, 0, 1⟩
/-- Table 19.12: an IBI request was NACKed -/
def Hif.IBI_NACKED : FieldSpec := ⟨0x010010, 0x0, 1, 0x0, 1, 6, 1, .rw1c, 0, .cmw, 0, 1⟩
/-- Table 19.12: bit m enables bit m of 0x01_0010 into the interrupt summary -/
def Hif.HIF_INT_EN : FieldSpec := ⟨0x010014, 0x0, 1, 0x0, 1, 0, 7, .rw, 0, .cmw, 0, 127⟩
/-- Table 19.12: filtered PWRFAIL_N asserted -/
def Hif.PWRFAIL_F : FieldSpec := ⟨0x010018, 0x0, 1, 0x0, 1, 0, 1, .ro, 0, .none, 0, 1⟩
/-- Table 19.12: filtered TAMPER_N asserted -/
def Hif.TAMPER_F : FieldSpec := ⟨0x010018, 0x0, 1, 0x0, 1, 1, 1, .ro, 0, .none, 0, 1⟩
/-- Table 19.12: filtered ATTN_N asserted -/
def Hif.ATTN_F : FieldSpec := ⟨0x010018, 0x0, 1, 0x0, 1, 2, 1, .ro, 0, .none, 0, 1⟩
/-- Table 19.12: ALERT_N asserted -/
def Hif.ALERT_OUT : FieldSpec := ⟨0x010018, 0x0, 1, 0x0, 1, 8, 1, .ro, 0, .none, 0, 1⟩
/-- Table 19.12: READY asserted -/
def Hif.READY_OUT : FieldSpec := ⟨0x010018, 0x0, 1, 0x0, 1, 9, 1, .ro, 0, .none, 0, 1⟩
/-- Table 19.12: FAULT_N asserted -/
def Hif.FAULT_OUT : FieldSpec := ⟨0x010018, 0x0, 1, 0x0, 1, 10, 1, .ro, 0, .none, 0, 1⟩
/-- Table 19.12: SAFE_TO_REMOVE asserted -/
def Hif.SAFE_OUT : FieldSpec := ⟨0x010018, 0x0, 1, 0x0, 1, 11, 1, .ro, 0, .none, 0, 1⟩
/-- Table 19.12: an ATTN_N edge (R420) -/
def Hif.ATTN_PRESSED : FieldSpec := ⟨0x01001C, 0x0, 1, 0x0, 1, 0, 1, .rw1c, 0, .cmw, 0, 1⟩
/-- Table 19.12: ATTN_N held 10 s -/
def Hif.ATTN_STUCK : FieldSpec := ⟨0x01001C, 0x0, 1, 0x0, 1, 1, 1, .rw1c, 0, .cmw, 0, 1⟩
/-- Table 19.12: an edge in a state where it does not act -/
def Hif.ATTN_IGNORED : FieldSpec := ⟨0x01001C, 0x0, 1, 0x0, 1, 2, 1, .rw1c, 0, .cmw, 0, 1⟩
/-- Table 19.12: bit m enables bit m of 0x01_001C into the interrupt summary -/
def Hif.PIN_INT_EN : FieldSpec := ⟨0x010020, 0x0, 1, 0x0, 1, 0, 3, .rw, 0, .cmw, 0, 7⟩
/-- Table 19.13: a key-encryption key is accepted -/
def Sec.KEK_OK : FieldSpec := ⟨0x030000, 0x0, 1, 0x0, 1, 0, 1, .ro, 0, .cmw, 0, 1⟩
/-- Table 19.13: filtered TAMPER_N asserted -/
def Sec.TAMPER_LEVEL : FieldSpec := ⟨0x030000, 0x0, 1, 0x0, 1, 1, 1, .ro, 0, .none, 0, 1⟩
/-- Table 19.13: a tamper response is in progress -/
def Sec.TAMPER_ACTIVE : FieldSpec := ⟨0x030000, 0x0, 1, 0x0, 1, 2, 1, .ro, 0, .cmw, 0, 1⟩
/-- Table 19.13: the generator is stopped (R423) -/
def Sec.RNG_FAIL : FieldSpec := ⟨0x030000, 0x0, 1, 0x0, 1, 3, 1, .ro, 0, .c, 0, 1⟩
/-- Table 19.13: a valid key record exists -/
def Sec.KREC_VALID : FieldSpec := ⟨0x030000, 0x0, 1, 0x0, 1, 4, 1, .ro, 0, .none, 0, 1⟩
/-- Table 19.13: a rotation is in progress -/
def Sec.ROTATING : FieldSpec := ⟨0x030000, 0x0, 1, 0x0, 1, 5, 1, .ro, 0, .cmw, 0, 1⟩
/-- Table 19.13: bit g: signature g's data key is unwrapped -/
def Sec.KEYS_PRESENT : FieldSpec := ⟨0x030004, 0x0, 1, 0x0, 1, 0, 16, .ro, 0, .cmw, 0, 65535⟩
/-- Table 19.13: bit 16 + g: signature g has no data key (R424) -/
def Sec.KEY_MISSING : FieldSpec := ⟨0x030004, 0x0, 1, 0x0, 1, 16, 16, .ro, 0, .cmw, 0, 65535⟩
/-- Table 19.13: key record generation, bits [31:0] -/
def Sec.KREC_GEN_LO : FieldSpec := ⟨0x030008, 0x0, 1, 0x0, 1, 0, 32, .ro, 0, .none, 0, 4294967295⟩
/-- Table 19.13: bits [63:32] -/
def Sec.KREC_GEN_HI : FieldSpec := ⟨0x03000C, 0x0, 1, 0x0, 1, 0, 32, .ro, 0, .none, 0, 4294967295⟩
/-- Table 19.13: a key-encryption key was accepted -/
def Sec.KEK_ACCEPTED : FieldSpec := ⟨0x030010, 0x0, 1, 0x0, 1, 0, 1, .rw1c, 0, .cmw, 0, 1⟩
/-- Table 19.13: a KEK_LOAD was refused -/
def Sec.KEK_BAD : FieldSpec := ⟨0x030010, 0x0, 1, 0x0, 1, 1, 1, .rw1c, 0, .cmw, 0, 1⟩
/-- Table 19.13: a TAMPER_N edge was seen -/
def Sec.TAMPER_SEEN : FieldSpec := ⟨0x030010, 0x0, 1, 0x0, 1, 2, 1, .rw1c, 0, .c, 0, 1⟩
/-- Table 19.13: a data key was created -/
def Sec.KEY_CREATED : FieldSpec := ⟨0x030010, 0x0, 1, 0x0, 1, 3, 1, .rw1c, 0, .cmw, 0, 1⟩
/-- Table 19.13: a rotation completed -/
def Sec.KEK_ROTATED : FieldSpec := ⟨0x030010, 0x0, 1, 0x0, 1, 4, 1, .rw1c, 0, .cmw, 0, 1⟩
/-- Table 19.13: a rotation was refused or abandoned -/
def Sec.ROT_ABANDONED : FieldSpec := ⟨0x030010, 0x0, 1, 0x0, 1, 5, 1, .rw1c, 0, .cmw, 0, 1⟩
/-- Table 19.13: an import was refused -/
def Sec.IMPORT_BAD : FieldSpec := ⟨0x030010, 0x0, 1, 0x0, 1, 6, 1, .rw1c, 0, .cmw, 0, 1⟩
/-- Table 19.13: SEC_LOAD was taken -/
def Sec.SECRETS_LOADED : FieldSpec := ⟨0x030010, 0x0, 1, 0x0, 1, 7, 1, .rw1c, 0, .cmw, 0, 1⟩
/-- Table 19.13: bit m enables bit m of 0x03_0010 into the interrupt summary -/
def Sec.SEC_INT_EN : FieldSpec := ⟨0x030014, 0x0, 1, 0x0, 1, 0, 8, .rw, 0, .cmw, 0, 255⟩
/-- Table 19.13: key-encryption key word j, j = 0 to 7 -/
def Sec.KEK : FieldSpec := ⟨0x030020, 0x0, 1, 0x4, 8, 0, 32, .wo, 0, .cmw, 0, 4294967295⟩
/-- Table 19.13: new key word j, for rotation -/
def Sec.KEK_NEW : FieldSpec := ⟨0x030040, 0x0, 1, 0x4, 8, 0, 32, .wo, 0, .cmw, 0, 4294967295⟩
/-- Table 19.13: offers KEK (R426); cleared when judged -/
def Sec.KEK_LOAD : FieldSpec := ⟨0x030060, 0x0, 1, 0x0, 1, 0, 1, .rw1s, 0, .cmw, 0, 1⟩
/-- Table 19.13: starts a rotation (R429); cleared when taken or refused -/
def Sec.KEK_ROTATE : FieldSpec := ⟨0x030060, 0x0, 1, 0x0, 1, 1, 1, .rw1s, 0, .cmw, 0, 1⟩
/-- Table 19.13: imports window 4 (R428); cleared when judged -/
def Sec.KREC_IMPORT : FieldSpec := ⟨0x030060, 0x0, 1, 0x0, 1, 2, 1, .rw1s, 0, .cmw, 0, 1⟩
/-- Table 19.13: loads window 5 (R431); cleared when taken -/
def Sec.SEC_LOAD : FieldSpec := ⟨0x030060, 0x0, 1, 0x0, 1, 3, 1, .rw1s, 0, .cmw, 0, 1⟩
/-- Table 19.13: bytes of window 2 in use -/
def Sec.CERT_LEN : FieldSpec := ⟨0x030064, 0x0, 1, 0x0, 1, 0, 12, .ro, 0, .none, 0, 4095⟩
/-- Table 19.13: host-table entries with a host secret -/
def Sec.SECRETS_SET : FieldSpec := ⟨0x030068, 0x0, 1, 0x0, 1, 0, 9, .ro, 0, .cmw, 0, 511⟩
/-- Table 19.14: window, Table 19.4 -/
def Win.WIN_SEL : FieldSpec := ⟨0x600000, 0x0, 1, 0x0, 1, 0, 3, .rw, 0, .cmw, 0, 7⟩
/-- Table 19.14: byte offset; bits [1:0] ignored; advances by 4 per aperture word -/
def Win.WIN_OFFSET : FieldSpec := ⟨0x600004, 0x0, 1, 0x0, 1, 0, 24, .rw, 0, .cmw, 0, 16777215⟩
/-- Table 19.14: size of the selected window, bytes -/
def Win.WIN_SIZE : FieldSpec := ⟨0x600008, 0x0, 1, 0x0, 1, 0, 24, .ro, 0, .none, 0, 16777215⟩
/-- Table 20.5: 0x4960 -/
def Glb.PART_ID : FieldSpec := ⟨0x000000, 0x0, 1, 0x0, 1, 0, 16, .ro, 0, .none, 0, 65535⟩
/-- Table 20.5: controller die revision, from fuses -/
def Glb.DIE_REV : FieldSpec := ⟨0x000000, 0x0, 1, 0x0, 1, 16, 8, .ro, 0, .none, 0, 255⟩
/-- Table 20.5: register map version, 1 -/
def Glb.MAP_VER : FieldSpec := ⟨0x000000, 0x0, 1, 0x0, 1, 24, 8, .ro, 0, .none, 0, 255⟩
/-- Table 20.5: module serial, word j, j = 0 to 3 (R442) -/
def Glb.SERIAL : FieldSpec := ⟨0x000010, 0x0, 1, 0x4, 4, 0, 32, .ro, 0, .none, 0, 4294967295⟩
/-- Table 20.5: internal version of the compositor microcode section -/
def Glb.UCODE_VER : FieldSpec := ⟨0x000020, 0x0, 1, 0x0, 1, 0, 32, .ro, 0, .img, 0, 4294967295⟩
/-- Table 20.5: fused image key hash, word j, j = 0 to 11 -/
def Glb.KEY_HASH : FieldSpec := ⟨0x000030, 0x0, 1, 0x4, 12, 0, 32, .ro, 0, .none, 0, 4294967295⟩
/-- Table 20.5: operating time, 1/1024 h (R443) -/
def Glb.OP_TIME : FieldSpec := ⟨0x000060, 0x0, 1, 0x0, 1, 0, 32, .ro, 0, .none, 0, 4294967295⟩
/-- Table 20.5: power-cycle count -/
def Glb.POWER_CYCLES : FieldSpec := ⟨0x000064, 0x0, 1, 0x0, 1, 0, 24, .ro, 0, .none, 0, 16777215⟩
/-- Table 20.5: impression counter (R16), bits [31:0] -/
def Glb.IMP_CNT_LO : FieldSpec := ⟨0x000068, 0x0, 1, 0x0, 1, 0, 32, .ro, 0, .none, 0, 4294967295⟩
/-- Table 20.5: bits [63:32] -/
def Glb.IMP_CNT_HI : FieldSpec := ⟨0x00006C, 0x0, 1, 0x0, 1, 0, 32, .ro, 0, .none, 0, 4294967295⟩
/-- Table 20.5: no effect; for testing the bus -/
def Glb.SCRATCH : FieldSpec := ⟨0x000070, 0x0, 1, 0x0, 1, 0, 32, .rw, 0, .cmw, 0, 4294967295⟩
/-- Table 20.5: 0x5752 requests a warm reset (R445) -/
def Glb.RESET_CMD : FieldSpec := ⟨0x000074, 0x0, 1, 0x0, 1, 0, 16, .wo, 0, .cmw, 0, 65535⟩
/-- Table 20.5: operating impressions, bits [31:0] -/
def Glb.OP_IMP_LO : FieldSpec := ⟨0x000078, 0x0, 1, 0x0, 1, 0, 32, .ro, 0, .none, 0, 4294967295⟩
/-- Table 20.5: bits [63:32] -/
def Glb.OP_IMP_HI : FieldSpec := ⟨0x00007C, 0x0, 1, 0x0, 1, 0, 32, .ro, 0, .none, 0, 4294967295⟩
/-- Table 20.5: latches the snapshot (R446); cleared when latched -/
def Glb.SNAP_GO : FieldSpec := ⟨0x000080, 0x0, 1, 0x0, 1, 0, 1, .rw1s, 0, .cmw, 0, 1⟩
/-- Table 20.5: IMP_CNT, bits [31:0] -/
def Glb.SNAP_IMP_LO : FieldSpec := ⟨0x000084, 0x0, 1, 0x0, 1, 0, 32, .ro, 0, .cmw, 0, 4294967295⟩
/-- Table 20.5: bits [63:32] -/
def Glb.SNAP_IMP_HI : FieldSpec := ⟨0x000088, 0x0, 1, 0x0, 1, 0, 32, .ro, 0, .cmw, 0, 4294967295⟩
/-- Table 20.5: OP_TIME -/
def Glb.SNAP_OP_TIME : FieldSpec := ⟨0x00008C, 0x0, 1, 0x0, 1, 0, 32, .ro, 0, .cmw, 0, 4294967295⟩
/-- Table 20.5: POWER_CYCLES -/
def Glb.SNAP_CYCLES : FieldSpec := ⟨0x000090, 0x0, 1, 0x0, 1, 0, 24, .ro, 0, .cmw, 0, 16777215⟩
/-- Table 20.5: DIRTY of block 0x0A -/
def Glb.SNAP_DIRTY : FieldSpec := ⟨0x000094, 0x0, 1, 0x0, 1, 0, 25, .ro, 0, .cmw, 0, 33554431⟩
/-- Table 20.5: CEILING of block 0x0A -/
def Glb.SNAP_CEILING : FieldSpec := ⟨0x000098, 0x0, 1, 0x0, 1, 0, 25, .ro, 0, .cmw, 0, 33554431⟩
/-- Table 20.5: word 0x00_0100 -/
def Glb.SNAP_SUM0 : FieldSpec := ⟨0x00009C, 0x0, 1, 0x0, 1, 0, 32, .ro, 0, .cmw, 0, 4294967295⟩
/-- Table 20.5: word 0x00_0104 -/
def Glb.SNAP_SUM1 : FieldSpec := ⟨0x0000A0, 0x0, 1, 0x0, 1, 0, 8, .ro, 0, .cmw, 0, 255⟩
/-- Table 20.5: word 0x00_0110 -/
def Glb.SNAP_STATUS : FieldSpec := ⟨0x0000A4, 0x0, 1, 0x0, 1, 0, 32, .ro, 0, .cmw, 0, 4294967295⟩
/-- Table 20.5: block summary bits, Table 20.4 -/
def Glb.SUM_BLK : FieldSpec := ⟨0x000100, 0x0, 1, 0x0, 1, 0, 14, .ro, 0, .none, 0, 16383⟩
/-- Table 20.5: bit 16 + g: signature g -/
def Glb.SUM_SIG : FieldSpec := ⟨0x000100, 0x0, 1, 0x0, 1, 16, 16, .ro, 0, .none, 0, 65535⟩
/-- Table 20.5: bit g: drive port group g -/
def Glb.SUM_PG : FieldSpec := ⟨0x000104, 0x0, 1, 0x0, 1, 0, 8, .ro, 0, .none, 0, 255⟩
/-- Table 20.5: a write was refused by R440 or R445 -/
def Glb.VALUE_REJ : FieldSpec := ⟨0x000108, 0x0, 1, 0x0, 1, 0, 1, .rw1c, 0, .cmw, 0, 1⟩
/-- Table 20.5: no valid counter record was found (R444) -/
def Glb.COUNTERS_LOST : FieldSpec := ⟨0x000108, 0x0, 1, 0x0, 1, 1, 1, .rw1c, 0, .cmw, 0, 1⟩
/-- Table 20.5: bit m enables bit m of 0x00_0108 into the summary -/
def Glb.GLB_INT_EN : FieldSpec := ⟨0x00010C, 0x0, 1, 0x0, 1, 0, 2, .rw, 0, .cmw, 0, 3⟩
/-- Table 20.5: MOD_STATE -/
def Glb.GS_STATE : FieldSpec := ⟨0x000110, 0x0, 1, 0x0, 1, 0, 4, .ro, 0, .none, 0, 15⟩
/-- Table 20.5: THERM_STATE -/
def Glb.GS_THERM : FieldSpec := ⟨0x000110, 0x0, 1, 0x0, 1, 4, 2, .ro, 0, .none, 0, 3⟩
/-- Table 20.5: CEIL_ZERO -/
def Glb.GS_CEIL_ZERO : FieldSpec := ⟨0x000110, 0x0, 1, 0x0, 1, 6, 1, .ro, 0, .none, 0, 1⟩
/-- Table 20.5: SIMPLEX -/
def Glb.GS_SIMPLEX : FieldSpec := ⟨0x000110, 0x0, 1, 0x0, 1, 7, 1, .ro, 0, .none, 0, 1⟩
/-- Table 20.5: PAIR_DEAD -/
def Glb.GS_PAIR_DEAD : FieldSpec := ⟨0x000110, 0x0, 1, 0x0, 1, 8, 1, .ro, 0, .none, 0, 1⟩
/-- Table 20.5: KEK_OK -/
def Glb.GS_KEK_OK : FieldSpec := ⟨0x000110, 0x0, 1, 0x0, 1, 9, 1, .ro, 0, .none, 0, 1⟩
/-- Table 20.5: CAST_PENDING -/
def Glb.GS_CAST_PENDING : FieldSpec := ⟨0x000110, 0x0, 1, 0x0, 1, 10, 1, .ro, 0, .none, 0, 1⟩
/-- Table 20.5: some signature has SIG_HEALTH 1 or more -/
def Glb.GS_DEGRADED : FieldSpec := ⟨0x000110, 0x0, 1, 0x0, 1, 11, 1, .ro, 0, .none, 0, 1⟩
/-- Table 20.5: some signature has SIG_HEALTH 3 -/
def Glb.GS_LOSS : FieldSpec := ⟨0x000110, 0x0, 1, 0x0, 1, 12, 1, .ro, 0, .none, 0, 1⟩
/-- Table 20.5: SIG_HELD non-zero -/
def Glb.GS_HELD : FieldSpec := ⟨0x000110, 0x0, 1, 0x0, 1, 13, 1, .ro, 0, .none, 0, 1⟩
/-- Table 20.5: FROZEN of the Errata log -/
def Glb.GS_FROZEN : FieldSpec := ⟨0x000110, 0x0, 1, 0x0, 1, 14, 1, .ro, 0, .none, 0, 1⟩
/-- Table 20.5: SAFE_OUT -/
def Glb.GS_SAFE_OUT : FieldSpec := ⟨0x000110, 0x0, 1, 0x0, 1, 15, 1, .ro, 0, .none, 0, 1⟩
/-- Table 20.5: LINK_UP of block 0x20 -/
def Glb.GS_FE_LINKS : FieldSpec := ⟨0x000110, 0x0, 1, 0x0, 1, 16, 16, .ro, 0, .none, 0, 65535⟩

/-- The fields of the Fe registers. -/
def feTable : List FieldSpec := [Fe.NVME_PORT, Fe.REQ_HDGST, Fe.REQ_DDGST, Fe.REQ_AUTH, Fe.PFC_EN, Fe.PFC_PRIO, Fe.LINK_UP, Fe.FPE_SIMPLEX, Fe.CONN_OPEN, Fe.CTRL_OPEN, Fe.CONN_REFUSED, Fe.LINK_CHANGE, Fe.ANA_CHANGE, Fe.CONN_LIMIT, Fe.AUTH_FAIL, Fe.PROTO_TERM, Fe.DUP_ADDR, Fe.FE_INT_EN, Fe.ANA_PREF, Fe.CONN_SEL, Fe.CONN_DROP, Fe.VALID, Fe.PORT, Fe.ADMIN, Fe.AUTH_DONE, Fe.HDGST, Fe.DDGST, Fe.CNTLID, Fe.QID, Fe.OUTSTANDING, Fe.HOST_IDX]
/-- The fields of the FeP registers. -/
def fePTable : List FieldSpec := [FeP.PORT_EN, FeP.PORT_RESET, FeP.MTU, FeP.VLAN_ID, FeP.VLAN_EN, FeP.VLAN_PCP, FeP.MAC_LO, FeP.MAC_HI, FeP.IP4_ADDR, FeP.IP4_GW, FeP.IP4_PREFIX, FeP.IP4_EN, FeP.IP6_ADDR, FeP.IP6_GW, FeP.IP6_PREFIX, FeP.IP6_EN, FeP.HOLD_MS, FeP.LINK_UP, FeP.AN_DONE, FeP.TRAIN_DONE, FeP.FEC_ALIGNED, FeP.CFG_ERR, FeP.DUP_ADDR4, FeP.DUP_ADDR6, FeP.ANA_OPT, FeP.PORT_CONN, FeP.RX_FRAMES, FeP.TX_FRAMES, FeP.FEC_CORR, FeP.FEC_UNCORR, FeP.FCS_ERR, FeP.RX_DROP, FeP.TCP_RETX, FeP.PFC_SENT]
/-- The fields of the Zn registers. -/
def znTable : List FieldSpec := [Zn.OPEN_ZONES, Zn.ACTIVE_ZONES, Zn.EVICTIONS, Zn.SEALS, Zn.SEAL_QUEUE, Zn.OPEN_LIMIT, Zn.ACTIVE_LIMIT, Zn.PERMIT_FAIL, Zn.DAMAGE_MARK, Zn.ZONE_RO, Zn.AUTH_RESET, Zn.ZN_INT_EN, Zn.ZONED, Zn.ZONED_HI, Zn.EVIDENCE, Zn.EVIDENCE_HI, Zn.NS_SIG, Zn.NS_SIG_HI, Zn.ZONE_SHEETS, Zn.ZONE_SHEETS_HI, Zn.OZT_SEL, Zn.OZT_VALID, Zn.IMPLICIT, Zn.OZT_EVID, Zn.SEAL_PENDING, Zn.DAMAGED, Zn.NS_INDEX, Zn.ZONE_INDEX, Zn.WP_LO, Zn.WP_HI, Zn.GALLEY_FILL, Zn.LAST_WRITE, Zn.RESERVED_NLB]
/-- The fields of the Sig registers. -/
def sigTable : List FieldSpec :=
  [Sig.SIG_N, Sig.SIG_K, Sig.SIG_S, Sig.FOLIO_CODE, Sig.PACKED_CHECK, Sig.SIG_DEFINED, Sig.C_SHEET, Sig.C_SPARE, Sig.C_STRIDE, Sig.META_SHEETS, Sig.CYCLES, Sig.SHEETS_LO, Sig.SHEETS_HI, Sig.MIN_BLOCKS_LO, Sig.MIN_BLOCKS_HI, Sig.TAIL_BLOCKS, Sig.MEMBER_SEL, Sig.MEMBER_PORT, Sig.MEMBER_VALID, Sig.MEMBER_BASE, Sig.MAP_SHEET_LO, Sig.MAP_SHEET_HI, Sig.MAP_POS, Sig.MAP_GO, Sig.MAP_DRIVE, Sig.MAP_VALID, Sig.MAP_LBA_LO, Sig.MAP_LBA_HI, Sig.REGION_GIB, Sig.REGION_SHEETS, Sig.REGIONS, Sig.DESTAGE_AGE, Sig.BMP_GEN_LO, Sig.BMP_GEN_HI, Sig.BITS_SET, Sig.HOLDER0, Sig.HOLDER1, Sig.HOLDER2, Sig.BMP_CAND0, Sig.BMP_CAND1] ++
  [Sig.BMP_CAND2, Sig.BMP_CAND3, Sig.BMP_CAND4, Sig.BMP_CAND5, Sig.BMP_CAND6, Sig.BMP_CAND7, Sig.UPDATES, Sig.RESYNC_STATE, Sig.RESYNC_LEFT, Sig.RESYNC_FIXED, Sig.BMP_STALE, Sig.HOLDER_LOST, Sig.HOLDER_SHORT, Sig.RESYNC_DONE, Sig.RESYNC_LOSS, Sig.BMP_ALL_LOST, Sig.WP_INT_EN, Sig.FULL_UPDATES, Sig.PARTIAL_UPDATES, Sig.RMW_UPDATES, Sig.RETIRE_THRESH, Sig.PROOF_EN, Sig.PROOF_TARGET, Sig.HB_ENTRIES, Sig.HB_BLOCKS_LO, Sig.HB_BLOCKS_HI, Sig.HB_SEL, Sig.HB_START_LO, Sig.HB_START_HI, Sig.HB_COUNT, Sig.HB_VALID, Sig.HB_META, Sig.HB_CAUSE, Sig.HB_NS, Sig.PROOF_POS_LO, Sig.PROOF_POS_HI, Sig.LAP_ELAPSED, Sig.LAST_LAP, Sig.LAP_COUNT, Sig.PROOF_STATE] ++
  [Sig.SILENT_FIX, Sig.MEDIUM_FIX, Sig.PROOF_FIXED, Sig.RECON_READS, Sig.SILENT_CORR, Sig.HB_ADD, Sig.HB_FULL, Sig.HB_UNKNOWN, Sig.PROOF_DONE, Sig.PROOF_SLOW, Sig.DRIVE_RETIRED, Sig.SELFTEST_FAIL, Sig.RD_INT_EN, Sig.CORR_SEL, Sig.CORR_24H, Sig.CORR_TOTAL, Sig.SIG_HEALTH, Sig.UNRESTORED, Sig.LEVELS_USED, Sig.RB_PHASE, Sig.FAIL_DRIVE, Sig.FAIL_FORCE, Sig.FAIL_GO, Sig.DRIVE_FAILED, Sig.REBUILD_DONE, Sig.RB_LOSS, Sig.COPYBACK_DONE, Sig.FAIL_REFUSED, Sig.REPL_REFUSED, Sig.RETIRE_DEFER, Sig.UNPLACEABLE, Sig.NO_ENTRY, Sig.RB_STATE_LOST, Sig.RB_INT_EN, Sig.ENT_SEL, Sig.ENT_STATE, Sig.ENT_REPL, Sig.ENT_DIRECT, Sig.ENT_LEVEL, Sig.ENT_CAUSE] ++
  [Sig.ENT_DRIVE, Sig.ENT_WINDOWS, Sig.ENT_LOW_LO, Sig.ENT_LOW_HI, Sig.ENT_HIGH_LO, Sig.ENT_HIGH_HI, Sig.ENT_N_LO, Sig.ENT_N_HI, Sig.ENT_Y_LO, Sig.ENT_Y_HI, Sig.ENT_TODO_LO, Sig.ENT_TODO_HI, Sig.ENT_UNPLACED, Sig.ENT_DECLARED, Sig.ENT_ETA, Sig.CRIT_LEFT_LO, Sig.CRIT_LEFT_HI, Sig.RB_LOSS_SHEETS, Sig.RB_SECTOR_FIX, Sig.RS_STATE, Sig.RS_DOWN, Sig.RS_PAUSE_RB, Sig.RS_PAUSE_CEIL, Sig.RS_PAUSE_STATE, Sig.SRC_N, Sig.SRC_K, Sig.SRC_FOLIO, Sig.SRC_C_STRIDE, Sig.SRC_META_SHEETS, Sig.RS_ENT_OLD, Sig.RS_BOUND_LO, Sig.RS_BOUND_HI, Sig.RS_END_LO, Sig.RS_END_HI, Sig.RS_WGEN_LO, Sig.RS_WGEN_HI, Sig.RS_WIN_SHEETS, Sig.RS_ETA, Sig.RS_DONE, Sig.RS_RESUMED] ++
  [Sig.RS_WIN_RESYNC, Sig.RS_REMOVED, Sig.RS_INT_EN]
/-- The fields of the Drv registers. -/
def drvTable : List FieldSpec :=
  [Drv.PRESENT, Drv.PWR_ON, Drv.PORT_RESET, Drv.LINK_TEST, Drv.CLAIM, Drv.LINK_UP, Drv.RATE, Drv.SATA, Drv.SSD, Drv.DRV_STATE, Drv.LADDER_ACTIVE, Drv.LADDER_STEP, Drv.LINK_TESTING, Drv.MEM_SIG, Drv.MEM_VALID, Drv.MEM_INDEX, Drv.DRV_ID_LO, Drv.DRV_ID_HI, Drv.CAP_LO, Drv.CAP_HI, Drv.CMD_TIMEOUT, Drv.QDEPTH, Drv.SPINUP_REQ, Drv.CYCLE_REQ, Drv.LINK_CHANGE, Drv.LADDER_RUN, Drv.RATE_DOWN, Drv.DRV_UNSUPPORTED, Drv.FOREIGN, Drv.WRONG_SLOT, Drv.BRINGUP_FAIL, Drv.FORMAT_DONE, Drv.CATCHUP_DONE, Drv.PORT_INT_EN, Drv.CRC_ERR, Drv.CMD_TIMEOUTS, Drv.LADDERS, Drv.LINK_RESETS, Drv.LINK_TESTS, Drv.OUTSTANDING] ++
  [Drv.ABSENT_TIME, Drv.CATCHUP_LEFT, Drv.FORMAT_PCT, Drv.READ_CMDS, Drv.WRITE_CMDS, Drv.ERR_CMDS]
/-- The fields of the DrvG registers. -/
def drvGTable : List FieldSpec := [DrvG.TIMEOUT_HDD, DrvG.TIMEOUT_SSD, DrvG.ABSENT_LIMIT, DrvG.GRP_LINK_UP, DrvG.GRP_EVENT]
/-- The fields of the Cc registers. -/
def ccTable : List FieldSpec :=
  [Cc.WAYS_CODE, Cc.DISCARD_OK, Cc.AGE_PERIOD, Cc.SETS, Cc.FREE_CH, Cc.LINES_VALID, Cc.LINES_DIRTY, Cc.EVB_USED, Cc.PINNED, Cc.HITS, Cc.MISSES, Cc.VICTIMS, Cc.REINSTATES, Cc.FILL_WAITS, Cc.FRAME_WAITS, Cc.RE0_DONE, Cc.RE1_DONE, Cc.RE_REFUSED, Cc.RE_ABORTED, Cc.DISCARDED, Cc.EVB_FULL, Cc.CC_INT_EN, Cc.RE_SIG, Cc.RE_OP, Cc.RE_GO, Cc.RE_BUSY, Cc.RE_START_LO, Cc.RE_START_HI, Cc.RE_COUNT_LO, Cc.RE_COUNT_HI, Cc.RE_POS_LO, Cc.RE_POS_HI, Cc.RE_LINES, Cc.RE_SKIPPED, Cc.RE_WAITS, Cc.RE_DISCARDED, Cc.PROBE_SIG, Cc.PROBE_KIND, Cc.PROBE_GO, Cc.PROBE_LINE_LO] ++
  [Cc.PROBE_LINE_HI, Cc.PROBE_SET, Cc.PROBE_WAY, Cc.PROBE_AGE, Cc.PROBE_HIT, Cc.PROBE_DIRTY, Cc.PROBE_EVB, Cc.PROBE_PIN, Cc.PROBE_FRAME, Cc.PROBE_DUPLEX, Cc.PROBE_DUP_VALID]
/-- The fields of the Ecc registers. -/
def eccTable : List FieldSpec := [Ecc.SCRUB_EN, Ecc.SCRUB_ALARM_H, Ecc.ECC_TEST_EN, Ecc.TEST_WRITE_MODE, Ecc.TEST_CORR, Ecc.TEST_UNCORR, Ecc.TEST_LAST_DEV, Ecc.TEST_LAST_CH, Ecc.CE_SEEN, Ecc.UE_SEEN, Ecc.ROW_REPAIRED, Ecc.DEVICE_ERASED, Ecc.CH_CLEAN_ONLY, Ecc.CH_OUT, Ecc.SCRUB_SLOW, Ecc.CASE_LOSS, Ecc.MAP_FULL, Ecc.SELFTEST_DROP, Ecc.MB_FULL, Ecc.ECC_INT_EN, Ecc.CASE_LIMIT, Ecc.MAP_ENTRIES, Ecc.MB_USED, Ecc.DEV_SEL_CH, Ecc.DEV_SEL, Ecc.DEV_CE, Ecc.DEV_ROWS, Ecc.DEV_RETIRED, Ecc.CH_STATE, Ecc.ERASED_MASK, Ecc.CE_COUNT, Ecc.UE_COUNT, Ecc.SCRUB_POS, Ecc.SCRUB_LAST_LAP, Ecc.SCRUB_ELAPSED, Ecc.SCRUB_LAPS, Ecc.ROWS_REPAIRED, Ecc.FRAMES_RETIRED, Ecc.ST_QUEUE, Ecc.TRANSIENTS]
/-- The fields of the Fount registers. -/
def fountTable : List FieldSpec :=
  [Fount.PACK_V, Fount.PACK_T, Fount.PACK_I, Fount.CELL0_V, Fount.CELL1_V, Fount.SOC_C, Fount.SOC_V, Fount.Q_LEARNED, Fount.R_LEARNED, Fount.CYCLE_COUNT, Fount.REF_AGE, Fount.ERR_BOUND, Fount.E_COUNT, Fount.E_VOLT, Fount.DERATE, Fount.E_RIDE, Fount.E_AVAIL, Fount.CEILING, Fount.DIRTY, Fount.CASTS_REQUIRED, Fount.RIDE_MS, Fount.E_MARGIN, Fount.GAUGE_MODE, Fount.CHG_STATE, Fount.CHG_EN, Fount.CAL_REST, Fount.DISAGREE, Fount.DISAGREE_NOW, Fount.PACK_LOW, Fount.CAL_REQ, Fount.CEIL_ZERO, Fount.GSB_RESTORED, Fount.GSB_INVALID, Fount.HOLD_ENTERED, Fount.HOLD_RETURNED, Fount.INPUT_A_LOST, Fount.INPUT_B_LOST, Fount.PWRFAIL_STUCK, Fount.CHG_FAULT, Fount.CHG_DONE] ++
  [Fount.FOUNT_INT_EN, Fount.IN_A_V, Fount.IN_B_V, Fount.PF_LEVEL, Fount.PF_IGNORED, Fount.PF_STUCK_CAUSE, Fount.PF_EDGES, Fount.GSB_OUT, Fount.GSB_LATCH, Fount.GSB_SEQ, Fount.GSB_IN, Fount.GSB_LOAD, Fount.GSB_NONE]
/-- The fields of the Cast registers. -/
def castTable : List FieldSpec := [Cast.ST0_OK, Cast.ST1_OK, Cast.SLOT_READY, Cast.CAST_PENDING, Cast.NEWEST_SLOT, Cast.RELEASE_FAST, Cast.RELEASE_GO, Cast.CAST_ABANDON, Cast.CAST_GEN_LO, Cast.CAST_GEN_HI, Cast.LAST_CAST_BLOCKS, Cast.LAST_CAST_IMP, Cast.LAST_CAST_CAUSE, Cast.RECAST_PCT, Cast.RECAST_LOST, Cast.CAST_MADE, Cast.RECAST_DONE, Cast.CAST_LOST, Cast.CAST_PARTIAL, Cast.CAST_KEY_FAIL, Cast.CAST_IMG_DIFF, Cast.CAST_STALE, Cast.CAST_CONSUMED, Cast.RELEASE_DONE, Cast.RELEASE_REFUSED, Cast.CAST_INT_EN, Cast.CASTS_TOTAL]
/-- The fields of the Mu registers. -/
def muTable : List FieldSpec := [Mu.THERM_STATE, Mu.C4_BOOST, Mu.ENCL_STALE, Mu.SENSOR_FAIL, Mu.JUNCTION_T, Mu.ENCL_TEMP, Mu.MIN_C2, Mu.MIN_C3, Mu.MIN_C4, Mu.MIN_C5, Mu.MIN_C6, Mu.PRESS_BUDGET, Mu.CASE_BUDGET, Mu.DESC_BUDGET, Mu.FE_CREDIT, Mu.THERM_CHANGE, Mu.SHARE_REJ, Mu.BOOST_BEGAN, Mu.MU_INT_EN, Mu.ITEMS, Mu.STARVED, Mu.VTIME2_LO, Mu.VTIME2_HI, Mu.VTIME3_LO, Mu.VTIME3_HI, Mu.FAIR_SEL, Mu.FAIR_WEIGHT, Mu.FAIR_VALID, Mu.FAIR_ADMIT_C2, Mu.FAIR_ADMIT_C3, Mu.FAIR_BACKLOG_C2, Mu.FAIR_BACKLOG_C3, Mu.FAIR_BOUND_C2, Mu.FAIR_BOUND_C3, Mu.FAIR_FIN_LO, Mu.FAIR_FIN_HI, Mu.HOST_WEIGHT]
/-- The fields of the Cp registers. -/
def cpTable : List FieldSpec := [Cp.SPARES_CMP, Cp.SPARES_PRS, Cp.SPARES_FPE, Cp.SIMPLEX, Cp.PAIR_DEAD, Cp.SWITCHING, Cp.MISMATCHES, Cp.PAIR_TRANSIENTS, Cp.SPARE_LOADS, Cp.MISMATCH, Cp.ENG_RETIRED, Cp.SIMPLEX_BEGAN, Cp.DOUBLE_FAULT, Cp.MAP_SUBST, Cp.RECORD_LOST, Cp.CP_INT_EN, Cp.LAST_MM_PAIR, Cp.LAST_MM_KIND, Cp.LAST_MM_IMP, Cp.PAIR_STATE, Cp.PAIR_STEP, Cp.MEMBER_A, Cp.MEMBER_B, Cp.ADOPTER, Cp.ENG_ROLE, Cp.ENG_CAUSE, Cp.ENG_TRANS_24H, Cp.ENG_TRANS_TOTAL]
/-- The fields of the Dma registers. -/
def dmaTable : List FieldSpec := [Dma.DMA_CHANNELS, Dma.HOST_CHANNELS, Dma.SHARED_PF, Dma.RETRY_COUNT, Dma.BUS_ERRORS, Dma.SHARED_STOPS, Dma.HOST_DONE, Dma.HOST_ERR, Dma.SHARED_STOP, Dma.GO_REFUSED, Dma.DESC_IRQ, Dma.DMA_INT_EN, Dma.HOST_DONE_MASK, Dma.GO, Dma.ABORT, Dma.LIST, Dma.HOST_CH, Dma.CH_STATUS, Dma.ERR_CAUSE, Dma.DESC_INDEX, Dma.SRC_LO, Dma.SRC_HI, Dma.DST_LO, Dma.DST_HI, Dma.COUNT, Dma.DESC_PTR_LO, Dma.DESC_PTR_HI, Dma.CUR_DESC_LO, Dma.CUR_DESC_HI, Dma.BYTES_DONE, Dma.ERR_ADDR_LO, Dma.ERR_ADDR_HI]
/-- The fields of the El registers. -/
def elTable : List FieldSpec := [El.FREEZE, El.FROZEN, El.LOG_FLUSH, El.LOG_CLEAR, El.LOG_HALF, El.LOG_CLEAR_OK, El.LOG_USED, El.BUF_USED, El.ERRATA_LOST, El.SUPPRESSED, El.RATE_LIMIT, El.RATE_WINDOW, El.EL_FULL, El.EL_LOST, El.FREEZE_EXPIRED, El.EL_CLEARED, El.CLEAR_REFUSED, El.EL_INT_EN, El.CLEAR_COUNT, El.ANCHOR_WALL_LO, El.ANCHOR_WALL_HI, El.ANCHOR_TAG, El.ANCHOR_GO]
/-- The fields of the Img registers. -/
def imgTable : List FieldSpec := [Img.IMG_STATE, Img.IMG_VERIFY, Img.IMG_COMMIT, Img.IMG_CONFIRM, Img.STAGE_LOCKED, Img.STAGE_CLEAR, Img.PEND_MAKEREADY, Img.STAGE_LEN, Img.IMG_LEN, Img.ARB_FUSE, Img.ARB_IMAGE, Img.COMMITS, Img.IMG_COMMITTED, Img.IMG_REFUSED, Img.IMG_VERIFIED, Img.IMG_ABANDONED, Img.COPY_REPAIRED, Img.STORE_FAIL, Img.ARB_ADVANCED, Img.IMG_INT_EN, Img.REFUSE_SECTION, Img.REFUSE_REASON, Img.IMG_HASH, Img.STAGE_HASH, Img.ST0_IMG_VALID, Img.ST1_IMG_VALID, Img.CAND_ST1, Img.STORE_GEN_LO, Img.STORE_GEN_HI]
/-- The fields of the Glb registers. -/
def glbTable : List FieldSpec :=
  [Glb.MOD_STATE, Glb.PREV_STATE, Glb.SAFE_CAUSE, Glb.LAST_RESET, Glb.FOUNT_ABSENT, Glb.MAINT_PENDING, Glb.STATE_IMP, Glb.MAINT_GO, Glb.MAINT_EXIT, Glb.ASM_DONE, Glb.ASM_WAIT, Glb.ASM_FORCE, Glb.SIG_IN_SERVICE, Glb.SIG_HELD, Glb.STATE_CHANGE, Glb.MAKEREADY_DONE, Glb.SAFE_ENTERED, Glb.MAINT_REFUSED, Glb.SIG_HELD_OUT, Glb.RESET_CAST, Glb.ASM_FORCED, Glb.MR_INT_EN, Glb.MR_TIME, Glb.PART_ID, Glb.DIE_REV, Glb.MAP_VER, Glb.SERIAL, Glb.UCODE_VER, Glb.KEY_HASH, Glb.OP_TIME, Glb.POWER_CYCLES, Glb.IMP_CNT_LO, Glb.IMP_CNT_HI, Glb.SCRATCH, Glb.RESET_CMD, Glb.OP_IMP_LO, Glb.OP_IMP_HI, Glb.SNAP_GO, Glb.SNAP_IMP_LO, Glb.SNAP_IMP_HI] ++
  [Glb.SNAP_OP_TIME, Glb.SNAP_CYCLES, Glb.SNAP_DIRTY, Glb.SNAP_CEILING, Glb.SNAP_SUM0, Glb.SNAP_SUM1, Glb.SNAP_STATUS, Glb.SUM_BLK, Glb.SUM_SIG, Glb.SUM_PG, Glb.VALUE_REJ, Glb.COUNTERS_LOST, Glb.GLB_INT_EN, Glb.GS_STATE, Glb.GS_THERM, Glb.GS_CEIL_ZERO, Glb.GS_SIMPLEX, Glb.GS_PAIR_DEAD, Glb.GS_KEK_OK, Glb.GS_CAST_PENDING, Glb.GS_DEGRADED, Glb.GS_LOSS, Glb.GS_HELD, Glb.GS_FROZEN, Glb.GS_SAFE_OUT, Glb.GS_FE_LINKS]
/-- The fields of the Hif registers. -/
def hifTable : List FieldSpec := [Hif.DYN_ADDR, Hif.SLOT_ID, Hif.IBI_ENABLED, Hif.HDR_ACTIVE, Hif.MWL, Hif.MRL, Hif.IBI_PENDING, Hif.IBI_MASK, Hif.ALIGN_ERR, Hif.PARTIAL_WORD, Hif.UNMAPPED, Hif.OVERLONG, Hif.WIN_OVF, Hif.LEGACY_REFUSED, Hif.IBI_NACKED, Hif.HIF_INT_EN, Hif.PWRFAIL_F, Hif.TAMPER_F, Hif.ATTN_F, Hif.ALERT_OUT, Hif.READY_OUT, Hif.FAULT_OUT, Hif.SAFE_OUT, Hif.ATTN_PRESSED, Hif.ATTN_STUCK, Hif.ATTN_IGNORED, Hif.PIN_INT_EN]
/-- The fields of the Sec registers. -/
def secTable : List FieldSpec := [Sec.KEK_OK, Sec.TAMPER_LEVEL, Sec.TAMPER_ACTIVE, Sec.RNG_FAIL, Sec.KREC_VALID, Sec.ROTATING, Sec.KEYS_PRESENT, Sec.KEY_MISSING, Sec.KREC_GEN_LO, Sec.KREC_GEN_HI, Sec.KEK_ACCEPTED, Sec.KEK_BAD, Sec.TAMPER_SEEN, Sec.KEY_CREATED, Sec.KEK_ROTATED, Sec.ROT_ABANDONED, Sec.IMPORT_BAD, Sec.SECRETS_LOADED, Sec.SEC_INT_EN, Sec.KEK, Sec.KEK_NEW, Sec.KEK_LOAD, Sec.KEK_ROTATE, Sec.KREC_IMPORT, Sec.SEC_LOAD, Sec.CERT_LEN, Sec.SECRETS_SET]
/-- The fields of the Win registers. -/
def winTable : List FieldSpec := [Win.WIN_SEL, Win.WIN_OFFSET, Win.WIN_SIZE]

/-- The fields that a block of Table 20.1 holds. -/
def blockTable (b : Nat) : List FieldSpec :=
  if b = 0x00 then glbTable else if b = 0x01 then hifTable else if b = 0x02 then imgTable
  else if b = 0x03 then secTable else if b = 0x04 then muTable else if b = 0x05 then cpTable
  else if b = 0x06 then dmaTable else if b = 0x07 then elTable else if b = 0x08 then ccTable
  else if b = 0x09 then eccTable else if b = 0x0A then fountTable else if b = 0x0B then castTable
  else if 0x10 ≤ b ∧ b < 0x20 then sigTable else if b = 0x20 then feTable
  else if 0x21 ≤ b ∧ b < 0x31 then fePTable else if 0x40 ≤ b ∧ b < 0x48 then drvTable ++ drvGTable
  else if b = 0x50 then znTable else if b = 0x60 then winTable else []

/-- Every field of the module. -/
def allFields : List FieldSpec :=
  feTable ++ fePTable ++ znTable ++ sigTable ++ drvTable ++ drvGTable ++ ccTable ++ eccTable ++ fountTable ++ castTable ++ muTable ++ cpTable ++ dmaTable ++ elTable ++ imgTable ++ glbTable ++ hifTable ++ secTable ++ winTable

end Sys2Proof.Machine.Reg
end

