-- ==== Sys2Proof/Machine/State.lean ====
section
/-!
DEFINITION. The state of the module as plain data: the register file, every structure the spec gives the module beside it,
the queue of commands that wait, what leaves the module, and the state after reset.
-/

namespace Sys2Proof.Machine

/-! ### The register file and the host's accesses -/

/-- The register fields and what surrounds them: the latches of 64-bit pairs (R7), the request bits that clear at the next
boundary (R471), the event bits set in the present impression (R9), and the words that have been received and take effect
at the next boundary (R24). -/
structure RegFile where
  regs : Regs := []
  latches : NMap Nat := []
  clearNext : List Nat := []
  fresh : List Nat := []
  hostWrites : List (Nat × Nat) := []
  deriving DecidableEq, Repr

/-! ### Makeready and the module states (R387) -/

/-- The module states of Table 18.1. -/
inductive ModState where
  | powerQualify | selfTest | caseInit | imageWait | keyWait | recast | assemble | pressRun
  | hold | cast | castDone | release | maintenance | safe
  deriving DecidableEq, Repr

/-- The timebase, the state machine, and what outlives one state (R16, R387, R401, R443). -/
structure Core where
  powered : Bool := true
  mode : ModState := .powerQualify
  prev : ModState := .powerQualify
  imp : Nat := 0
  entered : Nat := 0
  opImp : Nat := 0
  cycles : Nat := 1
  /-- a module reset is in effect (R402) -/
  held : Bool := false
  /-- a module or warm reset that waits for a cast (R401) -/
  resetDue : Option ResetKind := none
  lastReset : ResetKind := .cold
  /-- the last reset waited for a cast (R401): RESET_CAST at the first boundary of makeready -/
  resetCast : Bool := false
  /-- a SAFE entry that waits for its cast (R399 step 2), with its cause and whether its cast is allowed -/
  safeDue : Option (Nat × Bool) := none
  /-- the flush of R399 has completed -/
  safeFlushed : Bool := false
  /-- step 5 of R305 is done -/
  released : Bool := false
  /-- the Fount probe has ended, and whether any pack answered (R389) -/
  probed : Bool := false
  /-- the free values drawn so far, and the outputs of the random generator used -/
  free : Nat := 0
  rngCount : Nat := 0
  /-- in ASSEMBLE: when it began, whether its wait has ended (ASM_WAIT, ASM_DONE), and the signatures forced (R394, R395) -/
  asmAt : Option Nat := none
  asmOver : Bool := false
  forced : List Nat := []
  /-- counter record: last generation, operating impression of the last write (R444) -/
  ctrGen : Nat := 0
  ctrAt : Nat := 0
  deriving DecidableEq, Repr

/-! ### The Errata log (chapter 16) -/

/-- A record (Table 16.3); `payload` is its payload bytes. -/
structure ErrRec where
  code : Nat
  flags : Nat := 0
  rep : Nat := 0
  opTime : Nat
  cycles : Nat
  src : Nat
  payload : List Nat := []
  deriving DecidableEq, Repr

/-- The window of one code of EC8 or EC9 (R364). -/
structure RateWin where
  start : Nat
  seen : Nat := 0
  dropped : Nat := 0
  lastSrc : Nat := 0
  deriving DecidableEq, Repr

/-- The volatile part of the log: events of the present boundary, the 65 536-byte buffer, rate windows, freeze, clear. -/
structure Errata where
  due : List ErrRec := []
  buf : List ErrRec := []
  wins : NMap RateWin := []
  lastFlush : Nat := 0
  flushDue : Bool := false
  /-- impression at which FREEZE was written 1, and whether the flush that begins the freeze is outstanding -/
  freezeAt : Option Nat := none
  /-- impression at which a clear began -/
  clearAt : Option Nat := none
  /-- LOG_USED when the clear began -/
  clearUsed : Nat := 0
  /-- offset of the end of the last record known to be written (R357) -/
  logEnd : Nat := 4096
  deriving DecidableEq, Repr

/-- The log region of one half (Table 16.1, Table 16.2). -/
structure LogRegion where
  hdrOk : Bool := false
  clears : Nat := 0
  clrTime : Nat := 0
  clrCycles : Nat := 0
  recs : NMap ErrRec := []
  full : Option ErrRec := none
  deriving DecidableEq, Repr

/-! ### Compared pairs (chapter 14) -/

/-- Code of PAIR_STATE. -/
inductive PairSt where
  | comparing | switching | simplex | dead
  deriving DecidableEq, Repr

/-- One logical pair. -/
structure Pair where
  st : PairSt := .comparing
  step : Nat := 0
  a : Option Nat := none
  b : Option Nat := none
  adopter : Option Nat := none
  /-- the held impression's number and attribution signatures, and which members overran in it -/
  i0 : Nat := 0
  sigA : Nat := 0
  sigB : Nat := 0
  overA : Bool := false
  overB : Bool := false
  /-- the verdict was transient, and the switch-over follows a transient verdict's re-execution -/
  transient : Bool := false
  verdict : Bool := false
  again : Bool := false
  /-- the pair ran simplex before it died, or a double fault is being adopted -/
  dying : Bool := false
  /-- boundaries for which the pair is left out of the forme (R331, R333) -/
  skip : Nat := 0
  /-- member the next boundary replaces by a spare (R331) -/
  replace : Option Nat := none
  /-- the held item overran in simplex once (R333) -/
  overran : Bool := false
  lastTest : Nat := 0
  deriving DecidableEq, Repr

/-- One engine. -/
structure Engine where
  retired : Bool := false
  cause : Nat := 0
  testing : Bool := false
  lastTest : Nat := 0
  lastPass : Bool := true
  /-- the 24 one-hour buckets, newest first (R331) -/
  buckets : List Nat := []
  deriving DecidableEq, Repr

/-- The pairs, the engines, and the engine record to be written (R338). -/
structure Pairs where
  pairs : NMap Pair := []
  engines : NMap Engine := []
  recGen : Nat := 0
  recDue : Bool := false
  /-- first operating hour not yet rolled out of the buckets -/
  hourAt : Nat := 0
  deriving DecidableEq, Repr

/-- An engine record copy (Table 14.6): generation and the retired engines with their causes. -/
structure EngRec where
  gen : Nat
  retired : NMap Nat
  deriving DecidableEq, Repr

/-- A counter record copy (Table 20.3). -/
structure CtrRec where
  gen : Nat
  opImp : Nat
  cycles : Nat
  deriving DecidableEq, Repr

/-! ### The Fount (chapter 12) and the inputs (chapter 21) -/

/-- One supply input: its monitor (R292) and its input stage (R454, R455). -/
structure Input where
  mv : Nat := 0
  /-- boundaries at which it was sampled below 8.5 V in a row, 2 standing for more, and the last such report -/
  low : Nat := 2
  lowAt : Nat := 0
  healthy : Bool := false
  on : Bool := false
  faultAt : Option Nat := none
  latched : Bool := false
  deriving DecidableEq, Repr

/-- The figures taken at step 4 of Table 1.4, in J and as fractions. -/
structure Figures where
  eCount : Rat := 0
  eVolt : Rat := 0
  derate : Rat := 1
  err : Rat := 1 / 10
  deriving DecidableEq, Repr

/-- The gauge, the charger, the input monitor and Hold. -/
structure Fount where
  packId : Option Nat := none
  absent : Bool := false
  /-- state of charge at the last reference or anchor, and the charge counted since, in mC -/
  anchor : Rat := 0
  counted : Rat := 0
  socV : Rat := 0
  /-- the last sample's current and pack voltage, and impression -/
  lastI : Int := 0
  lastV : Int := 0
  sampled : Nat := 0
  oneKhz : Bool := false
  rVals : List Rat := []
  capLearned : Bool := false
  resLearned : Bool := false
  restored : Bool := false
  /-- operating impressions since the last reference -/
  refAge : Nat := 0
  /-- discharged charge not yet a full cycle, mC -/
  cycMc : Nat := 0
  restAt : Option Nat := none
  quietAt : Option Nat := none
  eocAt : Option Nat := none
  hibernating : Bool := false
  hibAt : Nat := 0
  chg : Nat := 0
  faulted : Bool := false
  calAt : Option Nat := none
  packLow : Bool := false
  voltOkAt : Option Nat := none
  disagree : Bool := false
  gsbAt : Nat := 0
  /-- GSB_LOAD or GSB_NONE has been taken (R393), and the save time of the block loaded -/
  gsbTaken : Bool := false
  gsbKey : Nat := 0
  fig : Figures := {}
  inA : Input := {}
  inB : Input := {}
  holdAt : Nat := 0
  holdCeil : Nat := 0
  /-- HOLD_ENTERED conditions timed in RELEASE (R294) -/
  relHold : Option Nat := none
  /-- the charger carries the intermediate bus (R456) -/
  carries : Bool := false
  /-- precharge of a deeply discharged pack since, and a pack that is not charged at all (R470) -/
  precharge : Option Nat := none
  unfit : Bool := false
  deriving DecidableEq, Repr

/-- The sideband inputs and outputs, and what times them (R416 to R420, R300). `true` stands for an asserted (low) level. -/
structure Pins where
  nReset : Nat := 0
  nPf : Nat := 0
  nTamper : Nat := 0
  nAttn : Nat := 0
  rawReset : Bool := false
  rawPf : Bool := false
  rawTamper : Bool := false
  rawAttn : Bool := false
  fReset : Bool := false
  fPf : Bool := false
  fTamper : Bool := false
  fAttn : Bool := false
  pfEdges : List Nat := []
  pfSince : Nat := 0
  pfIgnored : Bool := false
  attnAt : Option Nat := none
  /-- the first sample after a cold start has been taken (R419, R420) -/
  seen : Bool := false
  slotId : Nat := 0
  deriving DecidableEq, Repr


/-! ### The Make-up scheduler (chapter 13) -/

/-- A queued work item: its class, its cost by budget key, its start tag and connection. Budget keys: 0 press bytes, 1 Case
bytes, 2 DMA descriptors, 1000 + p command slots of drive port p, 2000 + p credit of front-end port p. -/
structure Item where
  cls : Nat
  cost : List (Nat × Nat)
  tag : Nat := 0
  conn : Nat := 0
  deriving DecidableEq, Repr

/-- What one connection has had in the present fairness window (R321), and its finish tags (R319). -/
structure FairRec where
  adm2 : Nat := 0
  adm3 : Nat := 0
  back2 : Nat := 0
  back3 : Nat := 0
  await2 : Bool := false
  await3 : Bool := false
  fin2 : Nat := 0
  fin3 : Nat := 0
  openAt : Nat := 0
  deriving DecidableEq, Repr

/-- Queues, forme, debts, virtual times, fairness and the thermal state. -/
structure Sched where
  queue : List Item := []
  forme : List Item := []
  debt : NMap Nat := []
  v2 : Nat := 0
  v3 : Nat := 0
  /-- largest start tag admitted since the last boundary, per class -/
  top2 : Nat := 0
  top3 : Nat := 0
  fair : NMap FairRec := []
  total2 : Nat := 0
  total3 : Nat := 0
  therm : Nat := 0
  thermAt : Nat := 0
  junction : Int := 0
  sensorFail : Bool := false
  /-- since when the temperature has stayed 5 °C below the threshold of T1, T2, T3 -/
  cool1 : Option Nat := none
  cool2 : Option Nat := none
  cool3 : Option Nat := none
  enclAt : Option Nat := none
  floor1 : Bool := false
  floor2 : Bool := false
  enclLow1 : Option Nat := none
  enclLow2 : Option Nat := none
  boost : Bool := false
  deriving DecidableEq, Repr

/-! ### The DMA engine (chapter 15) -/

/-- The descriptor a channel is executing: its address (0 in direct mode), what is left of it, and its flags. -/
structure DmaCur where
  desc : Nat
  src : Nat
  dst : Nat
  len : Nat
  left : Nat
  last : Bool
  irq : Bool
  next : Nat
  deriving DecidableEq, Repr

/-- A running channel: the descriptor in progress, where the next one lies, a beat under retry (its address, whether it is
a write, retries made), and whether its prefetch is off (R353). -/
structure DmaRun where
  cur : Option DmaCur := none
  nextDesc : Nat := 0
  started : Nat := 0
  retry : Option (Nat × Bool × Nat) := none
  noPrefetch : Bool := false
  restart : Bool := false
  deriving DecidableEq, Repr

/-- The engine: runs by channel, and the impression of an outstanding shared stop. -/
structure Dma where
  runs : NMap DmaRun := []
  sharedAt : Option Nat := none
  /-- channel counts the engine runs with (R341, R472) -/
  channels : Nat := 16
  hosts : Nat := 1
  deriving DecidableEq, Repr


/-! ### The forme image (chapters 4 and 17) -/

/-- A member entry of an imposition (Table 4.2). -/
structure Member where
  port : Nat
  base : Nat
  deriving DecidableEq, Repr

/-- An imposition section (Table 4.2); `table` holds the rows, each entry a drive index and a slot. -/
structure Imposition where
  sig : Nat
  n : Nat
  k : Nat
  s : Nat
  folio : Nat
  packed : Bool
  cSheet : Nat
  cSpare : Nat
  cStride : Nat
  meta_ : Nat
  identity : Nat
  members : List Member
  table : List (List (Nat × Nat))
  hash : List Nat
  deriving DecidableEq, Repr

/-- A front-end port section (Table 17.5). -/
structure PortSec where
  en : Bool := false
  vlanEn : Bool := false
  ip4En : Bool := false
  ip6En : Bool := false
  pcp : Nat := 0
  mtu : Nat := 0
  vlan : Nat := 0
  ip4Prefix : Nat := 0
  ip6Prefix : Nat := 0
  ip4 : Nat := 0
  gw4 : Nat := 0
  ip6 : Nat := 0
  gw6 : Nat := 0
  deriving DecidableEq, Repr

/-- A host-table entry (Table 17.6); `nqn` without its padding. -/
structure HostEnt where
  nqn : List Nat
  auth : Bool
  weight : Nat
  perms : Nat
  deriving DecidableEq, Repr

/-- Signature parameters (Table 17.7). -/
structure SigPar where
  regionGib : Nat
  retire : Nat
  age : Nat
  target : Nat
  proof : Bool
  cands : List Nat
  deriving DecidableEq, Repr

/-- A namespace section (Table 17.8). -/
structure NsSec where
  zoned : Bool
  evidence : Bool
  sig : Nat
  zoneSheets : Nat
  base : Nat
  count : Nat
  nguid : Nat
  deriving DecidableEq, Repr

/-- A forme image as its sections give it (Tables 17.1 to 17.8). -/
structure Img where
  len : Nat
  counter : Nat
  serial : Nat
  keyXy : List Nat
  ways : Nat
  casts : Nat
  agePeriod : Nat
  margin : Nat
  ride : Nat
  dmaCh : Nat
  hostCh : Nat
  shares : List Nat
  policy : Nat
  pairMap : Option (List (Nat × Nat))
  fleet : Option Nat
  subNqn : List Nat
  nvmePort : Nat
  feBits : Nat
  pfcPrio : Nat
  anaPref : List Nat
  ports : NMap PortSec
  hosts : List HostEnt
  imps : NMap Imposition
  pars : NMap SigPar
  nss : NMap NsSec
  ucode : Nat
  ucodeVer : Nat
  hash : List Nat
  deriving DecidableEq, Repr

/-- A request on the image in progress (R380). -/
inductive ImgReq where
  | verify | commit | confirm
  deriving DecidableEq, Repr

/-- The image area of one half (Table 17.10a): whether both hashes match, the store generation, the image and the retained
source impositions. -/
structure ImgCopy where
  ok : Bool
  gen : Nat
  img : Img
  retained : NMap Imposition
  deriving DecidableEq, Repr

/-- The image in force and the request in progress. `cur` is the image committed last; `eff` is the same with the fields
that Table 17.10 defers to the next makeready still as they were. -/
structure Image where
  committed : Bool := false
  cur : Option Img := none
  eff : Option Img := none
  cand : Option ImgCopy := none
  candSt1 : Bool := false
  req : Option ImgReq := none
  reqAt : Nat := 0
  storing : Option Img := none
  /-- an application in IMAGE_WAIT: KEY_WAIT is entered at the next boundary -/
  applied : Bool := false
  /-- anti-rollback fuses to be blown: the count to reach, and since when -/
  fuseTo : Option (Nat × Nat) := none
  retained : NMap Imposition := []
  deriving DecidableEq, Repr

/-! ### Host interface and security (chapter 19) -/

/-- The I3C target, the windows, and the interrupts to be delivered. -/
structure Hif where
  hdr : Bool := false
  /-- an HDR mode the module does not support: it waits for the exit pattern (R404) -/
  hdrOther : Bool := false
  ptr : Nat := 0
  rstact : Nat := 0
  errSince : Bool := false
  delivered : List Nat := []
  nackAt : Option Nat := none
  sumPrev0 : Nat := 0
  sumPrev1 : Nat := 0
  /-- window 3 as latched by WIN_SEL -/
  krecLatch : List Nat := []
  /-- windows 4 (key record import) and 5 (authentication secrets), by byte; an unlisted byte is 0 -/
  win4 : NMap Nat := []
  win5 : NMap Nat := []
  deriving DecidableEq, Repr

/-- A key record (Table 19.9): generation, serial, the wrapped check key, and by signature the identity and wrapped key. -/
structure KeyRec where
  gen : Nat
  serial : Nat
  check : Nat
  entries : NMap (Nat × Nat)
  deriving DecidableEq, Repr

/-- The secrets of one host-table entry (R431). -/
structure Secret where
  host : Nat
  hostLen : Nat
  ctrl : Nat
  ctrlLen : Nat
  deriving DecidableEq, Repr

/-- Volatile keys and the tamper response. -/
structure Security where
  kek : Option Nat := none
  check : Option Nat := none
  dataKeys : NMap Nat := []
  castKey : Option Nat := none
  secrets : NMap Secret := []
  nonces : List (Nat × Nat × Nat) := []
  imported : Option KeyRec := none
  rec_ : Option KeyRec := none
  rotating : Option (Nat × Nat) := none
  /-- a tamper response waits for its cast, then clears -/
  tamperCast : Bool := false
  clearing : Option Nat := none
  wasTampered : Bool := false
  /-- impression of the last tamper response (R432) -/
  tamperAt : Option Nat := none
  deriving DecidableEq, Repr

/-- A reshape checkpoint (Table 8.2). -/
structure Ckpt where
  gen : Nat
  done : Bool
  down : Bool
  src : List Nat
  dst : List Nat
  b : Nat
  z : Nat
  next : Nat
  deriving DecidableEq, Repr

/-! ### What leaves the module -/

/-- Frames of a front-end port other than TCP payload. -/
inductive FrameOut where
  | xoff | xon | arpReply (a : Nat) | naReply (a : Nat) | gratArp (a : Nat) | dadProbe (a : Nat) | echoReply (n : Nat)
  | synAck (conn : Nat) (mss : Nat) | rst (conn : Option Nat)
  deriving DecidableEq, Repr

/-- A block with its protection information or check fields: data, guard, application tag, reference tag. -/
structure WireBlk where
  data : Blk
  guard : Nat
  app : Nat
  ref : Nat
  deriving DecidableEq, Repr

/-- What leaves the module: frames and PDUs to initiators, commands to drives, transfers to the host, interrupts. -/
inductive Out where
  | frame (port : Nat) (f : FrameOut)
  | icResp (conn : Nat) (hdgst ddgst : Bool)
  | c2hTerm (conn : Nat) (fes : Nat) (fei : Nat)
  | r2t (conn cid off len : Nat)
  | c2hData (conn cid : Nat) (blocks : List WireBlk)
  | c2hBytes (conn cid : Nat) (bytes : List Nat)
  | resp (conn cid sct sc : Nat) (dw0 : Nat)
  | drvRead (port lba n : Nat)
  | drvWrite (port lba : Nat) (blocks : List WireBlk)
  | drvCheck (port lba run : Nat) (entries : List (Nat × WireBlk))
  | drvLabel (port lba : Nat) (bytes : List Nat)
  | drvUnlabel (port : Nat)
  | drvBitmap (port slot gen : Nat)
  | drvCkpt (port : Nat) (c : Ckpt)
  | drvMeta (sig : Nat)
  | drvFormat (port : Nat)
  | drvZero (port lba n : Nat)
  | drvAbort (port tag : Nat)
  | drvReset (port : Nat)
  | drvLink (port rate : Nat)
  | drvIdentify (port : Nat)
  | hostBytes (bytes : List Nat)
  | ccc (code : Nat) (bytes : List Nat)
  | nack
  | ibi (mdb : Nat)
  deriving DecidableEq, Repr

/-! ### The front end (chapter 2) -/

/-- What times one front-end port: link, receive FIFO, flow control, neighbour cache, address detection. The link and
address bits themselves are register fields. -/
structure FePort where
  /-- bytes in the receive FIFO -/
  fifo : Nat := 0
  /-- XOFF is in force, and when it was last sent -/
  xoff : Bool := false
  xoffAt : Nat := 0
  /-- until when a received PFC frame pauses transmission: start, and quanta of 512 bit times -/
  pause : Option (Nat × Nat) := none
  /-- what the pause holds back, newest first -/
  txq : List Out := []
  /-- link lost at this impression; its connections are held -/
  lostAt : Option Nat := none
  /-- the address values in use since PORT_EN last became 1 (R35) -/
  ip4 : Option Nat := none
  ip6 : List Nat := []
  /-- detection under way since, and whether its last result was a duplicate -/
  dadAt : Option Nat := none
  /-- neighbour cache: the address and its last use -/
  nbrs : List (NetAddr × Nat) := []
  /-- the 64-bit counters of log page 0xC0, in the order of Table 2.6 -/
  rx : Nat := 0
  tx : Nat := 0
  fecCorr : Nat := 0
  fecUnc : Nat := 0
  fcs : Nat := 0
  drops : Nat := 0
  retx : Nat := 0
  /-- ANA state of each signature on this port: 1 optimized, 2 non-optimized, 3 inaccessible -/
  ana : NMap Nat := []
  deriving DecidableEq, Repr

/-- One TCP connection and its NVMe/TCP queue. -/
structure Conn where
  port : Nat
  srcAddr : Nat
  srcPort : Nat
  dstAddr : Nat
  dstPort : Nat
  ip6 : Bool
  wscale : Bool
  sack : Bool
  tstamp : Bool
  /-- established at -/
  openedAt : Nat
  /-- the FPE pair that serves it -/
  pair : Nat
  icDone : Bool := false
  hdgst : Bool := false
  ddgst : Bool := false
  hpda : Nat := 0
  maxR2t : Nat := 0
  cntlid : Nat := 0
  connected : Bool := false
  admin : Bool := false
  qid : Nat := 0
  qsize : Nat := 0
  host : Nat := 0
  authReq : Bool := false
  authDone : Bool := false
  /-- the message to be returned by the next Authentication Receive -/
  authMsg : Option Nat := none
  /-- authentication failed at: the connection closes 1 s later -/
  authFailAt : Option Nat := none
  /-- consecutive retransmissions of the oldest segment -/
  retx : Nat := 0
  deriving DecidableEq, Repr

/-- One controller. -/
structure Ctrl where
  host : Nat
  admin : Nat
  port : Nat
  kato : Nat := 0
  kaAt : Nat := 0
  queues : Nat := 64
  aec : Nat := 0
  aers : List Nat := []
  /-- events not yet reported, by kind -/
  due : List Nat := []
  cc : CcValue := ⟨false, 0, 0, 0, 0, 0, 0⟩
  /-- the boundary at which CC.EN last changed, for RDY -/
  enAt : Nat := 0
  /-- RDY before CC.EN last changed -/
  rdy0 : Bool := false
  cfs : Bool := false
  shst : Nat := 0
  /-- last errors, newest first: count, queue, CID, status, LBA, NSID -/
  errs : List (Nat × Nat × Nat × Nat × Nat × Nat) := []
  errCount : Nat := 0
  /-- Changed Zone List: namespace and zone -/
  changed : List (Nat × Nat) := []
  changedNs : List Nat := []
  dmg : Option (Nat × Nat × Nat) := none
  /-- critical warning bits already reported -/
  warned : Nat := 0
  deriving DecidableEq, Repr

/-- What a command is. -/
inductive CmdOp where
  | write | append | read | flush | open_ | close | finish | reset | offline | permit | aer
  deriving DecidableEq, Repr

/-- A value a read returns for one block. -/
structure RdVal where
  data : Blk
  never : Bool := false
  lost : Bool := false
  deriving DecidableEq, Repr

/-- An outstanding command of a connection. Counts are in blocks. -/
structure Cmd where
  op : CmdOp
  ns : Nat
  slba : Nat
  nlb : Nat
  pi : Option PiFields
  ord : Nat
  at_ : Nat
  /-- bytes of one block on the wire -/
  wire : Nat := 4096
  inCap : Bool := false
  /-- start tag of the unit that awaits admission or release -/
  tag : Nat := 0
  /-- blocks admitted, solicited, received -/
  adm : Nat := 0
  asked : Nat := 0
  got : Nat := 0
  /-- outstanding Ready-to-Transfer PDUs: first block, blocks, blocks received -/
  r2ts : List (Nat × Nat × Nat) := []
  blocks : NMap Blk := []
  /-- the data was discarded for this status (R44, R60) -/
  bad : Option (Nat × Nat) := none
  /-- all data received, its checks passed; since when -/
  ready : Bool := false
  readyAt : Nat := 0
  assigned : Option Nat := none
  /-- both copies of all data exist since -/
  storedAt : Option Nat := none
  wt : Bool := false
  /-- held, without admission, by a reset (R73, R88) or for want of frames (R244) -/
  held : Bool := false
  /-- its first work item has been placed (R49) -/
  begun : Bool := false
  /-- blocks still to come: sig_lbn; and values found, by command offset -/
  need : List Nat := []
  found : NMap RdVal := []
  /-- zones whose action this command waits for: namespace × 2^32 + zone -/
  zones : List Nat := []
  nonce : Nat := 0
  /-- its connection has closed: carried out, but not completed (R49) -/
  silent : Bool := false
  deriving DecidableEq, Repr

/-- A unit of admission (R315): its command, connection and port, its bytes, its tag, and whether R88, R73, R244 or R57 hold
it back. -/
structure AdmUnit where
  cmd : Nat
  conn : Nat
  port : Nat
  blocks : Nat
  tag : Nat
  held : Bool
  deriving DecidableEq, Repr

/-! ### Zones (chapter 3) -/

/-- Zone states. -/
inductive ZState where
  | empty | implicit | explicit | closed | full | readOnly | offline
  deriving DecidableEq, Repr

/-- A seal under way (R82): automatic, step 3 done with its operating time and power cycle, and the digest and damaged
blocks then found. -/
structure Seal where
  auto : Bool
  final : Bool := false
  op : Nat := 0
  cycles : Nat := 0
  digest : List Nat := []
  bad : List Nat := []
  /-- signing began at; none while it waits for the engine -/
  signAt : Option Nat := none
  deriving DecidableEq, Repr

/-- Actions that wait for a zone's reserved length to be 0. -/
inductive ZPend where
  | close | finish | reset
  deriving DecidableEq, Repr

/-- A zone. `fill` is its write pointer less its start. -/
structure Zone where
  st : ZState := .empty
  fill : Nat := 0
  /-- entry of the open-zone table -/
  slot : Option Nat := none
  sha : List Nat := []
  key : Nat := 0
  lastWrite : Nat := 0
  firstOp : Nat := 0
  lastOp : Nat := 0
  reserved : Nat := 0
  damaged : Bool := false
  sealing : Option Seal := none
  sealed : Bool := false
  /-- sealed with DAMAGED set; marked damaged later; operating time of the first damage -/
  sealBad : Bool := false
  later : Bool := false
  damOp : Nat := 0
  resets : Nat := 0
  pend : Option ZPend := none
  /-- an accepted permit: its nonce and command -/
  permit : Option (Nat × Nat) := none
  deriving DecidableEq, Repr

/-- The zones, the signing engine and the counters of Table 3.7 (from offset 16 on). -/
structure Zones where
  zones : NMap Zone := []
  signQ : List Nat := []
  nonces : List Nat := []
  cnt : NMap Nat := []
  /-- generation of the Damaged Sealed Zones page, by namespace -/
  dszGen : NMap Nat := []
  deriving DecidableEq, Repr

/-! ### The Case (chapters 10 and 11) -/

/-- One sector held by a line: its block; taken as never written; dirty, since when and in what order; the update in flight
that has frozen it; a shadow that waits behind that update. -/
structure Cell where
  data : Blk
  never : Bool := false
  dirty : Bool := false
  since : Nat := 0
  ord : Nat := 0
  upd : Option Nat := none
  shadow : Option (Blk × Nat × Nat) := none
  /-- write-through data, not counted as dirty bytes (R117) -/
  wt : Bool := false
  shWt : Bool := false
  deriving DecidableEq, Repr

/-- A line: its tag entry (Table 10.3) with its masks (the listed sectors are valid) and the frames it points to. -/
structure Line where
  kind : Nat
  sig : Nat
  num : Nat
  age : Nat := 0
  fillPending : Bool := false
  pin : Bool := false
  retain : Bool := false
  stream : Bool := false
  primary : Nat := 0
  duplex : Option Nat := none
  /-- frames of the shadow line that goes with it -/
  shFrames : List Nat := []
  cells : NMap Cell := []
  deriving DecidableEq, Repr

/-- An entry of the eviction buffer (R248). -/
structure EvbEnt where
  line : Line
  writeBack : Bool
  at_ : Nat
  engine : Option Nat := none
  deriving DecidableEq, Repr

/-- A running range operation (R250): the parked lines, and the sheets whose updates it waits for. -/
structure RangeRun where
  op : Nat
  sig : Nat
  first : Nat
  last : Nat
  start : Nat
  count : Nat
  pos : Nat
  parked : List Nat := []
  covers : List Nat := []
  fills : List Nat := []
  dropped : Bool := false
  deriving DecidableEq, Repr

/-- An entry of the merge buffer (R263): bytes by place in the word. -/
structure MergeEnt where
  word : Nat
  bytes : NMap Nat
  at_ : Nat
  deriving DecidableEq, Repr

/-- A self-test in the queue of a channel: row (frame), bank. -/
structure RowTest where
  row : Nat
  bank : Nat
  deriving DecidableEq, Repr

/-- A Case channel: Table 11.2, its frames in use, and its error history. -/
structure Chan where
  st : Nat := 0
  erased : List Nat := []
  used : List Nat := []
  retired : List Nat := []
  queue : List RowTest := []
  testAt : Option Nat := none
  /-- impressions of recent uncorrectable words -/
  ues : List Nat := []
  /-- repairs used: device × 8 + bank group; corrected symbols and retired frames by device -/
  ppr : List Nat := []
  devCe : NMap Nat := []
  devRet : NMap Nat := []
  rows : Nat := 0
  lapAt : Nat := 0
  /-- the reclaimer walks for this channel (R244) -/
  reclaim : Bool := false
  deriving DecidableEq, Repr

/-- An entry of the repair map (Table 11.8). -/
structure MapEnt where
  typ : Nat
  ch : Nat
  dev : Nat
  bank : Nat
  row : Nat
  deriving DecidableEq, Repr

/-- The cache and its ECC. -/
structure Case where
  tags : NMap Line := []
  evb : NMap EvbEnt := []
  chans : NMap Chan := []
  reclaimAt : Nat := 0
  engines : NMap RangeRun := []
  merge : NMap MergeEnt := []
  map : List MapEnt := []
  mapGen : Nat := 0
  mapDue : Bool := false
  /-- the test window's stored symbols: (channel × 2^20 + word) × 20 + device -/
  win : NMap Nat := []
  /-- keys of lines read or written by a non-streaming source in this impression, and in the one before; the boundary of the last
  age increment -/
  touched : List Nat := []
  touchedLast : List Nat := []
  agedAt : Option Nat := none
  deriving DecidableEq, Repr

/-! ### Updates (chapter 5) -/

/-- Kinds of update (R133); `parity` is the update of R163. -/
inductive UpdKind where
  | full | partial_ | completion | rmw | through | parity | window
  deriving DecidableEq, Repr

/-- States of Table 5.2. -/
inductive UpdSt where
  | prep | parity | ready
  deriving DecidableEq, Repr

/-- A sheet update in flight: its journal entry (R133) with its data and parity lines. -/
structure Upd where
  sig : Nat
  sheet : Nat
  kind : UpdKind
  st : UpdSt := .prep
  /-- the blocks it carries, by sheet offset `position × fb + block` -/
  data : NMap RdVal := []
  /-- reads wanted: position and block -/
  reads : List (Nat × Nat) := []
  /-- parity by block: P and Q, and whether the offset is never written -/
  par : NMap (Blk × Blk × Bool) := []
  /-- blocks to be written, by position -/
  writes : NMap (List Nat) := []
  done : List Nat := []
  begun : Nat := 0
  /-- positions and blocks that also are to be rewritten as they were (a folio written whole) -/
  old : NMap RdVal := []
  /-- its parity follows from its data alone -/
  fresh : Bool := false
  /-- restored from a cast (R304) -/
  restored : Bool := false
  deriving DecidableEq, Repr

/-! ### Signatures -/

/-- A critical window (R186). -/
structure CritWin where
  lo : Nat
  pos : Nat
  hi : Nat
  mask : List Nat
  deriving DecidableEq, Repr

/-- States of Table 7.4. -/
inductive EntSt where
  | wait | rebuild | rebuilt | format | copyback
  deriving DecidableEq, Repr

/-- A failure entry (Table 7.2); a free entry is not listed. -/
structure FailEnt where
  drive : Nat
  cause : Nat
  st : EntSt
  level : Option Nat := none
  direct : Bool := false
  low : Nat := 0
  high : Nat
  n : Nat := 0
  wins : List CritWin := []
  dead : List Nat := []
  y : Nat := 0
  repl : Bool := false
  /-- covers source sheets of a reshape (R212) -/
  old : Bool := false
  /-- the state FORMAT was entered from -/
  prev : EntSt := .wait
  unplaced : Nat := 0
  declared : Nat := 0
  order : Nat := 0
  /-- when its folios of the last 60 s were placed (ENT_ETA, R200) -/
  doneAt : List Nat := []
  deriving DecidableEq, Repr

/-- What the module keeps of a member: failed; absent or link-down with the time it began and the regions missed. -/
structure Mem where
  failed : Bool := false
  /-- cause of its declaration -/
  cause : Nat := 0
  noEntry : Bool := false
  absentAt : Option Nat := none
  /-- ABSENT_LIMIT in force when the absence began -/
  limit : Nat := 0
  linkDown : Bool := false
  missed : List Nat := []
  /-- in catch-up: present again, but its missed regions stay lost -/
  catching : Bool := false
  /-- the next sheet to catch up in the lowest region -/
  cpos : Nat := 0
  buckets : List Nat := []
  silent : Nat := 0
  identity : Nat := 0
  order : Nat := 0
  deriving DecidableEq, Repr

/-- What a signature keeps in the Case and in the Stereo store, and a cast carries: working bitmap, hellbox, proofing, and
failure entries with the absence sets. -/
structure SigKeep where
  bits : List Nat := []
  gen : Nat := 0
  durGen : Nat := 0
  /-- hellbox: start to count and cause -/
  hb : NMap (Nat × Nat) := []
  hbGen : Nat := 0
  hbUnknown : Bool := false
  proofPos : Nat := 0
  lapStart : Nat := 0
  lapCount : Nat := 0
  ents : NMap FailEnt := []
  mems : NMap Mem := []
  /-- identities of members declared failed -/
  deadIds : List Nat := []
  deriving DecidableEq, Repr

/-- A bitmap commit in flight (R139): its generation and bits, and the targets still to complete: 0 and 1 the Stereo halves,
16 + d the holder of drive index d. -/
structure Commit where
  gen : Nat
  bits : List Nat
  left : List Nat
  keep : SigKeep := {}
  deriving DecidableEq, Repr

/-- A copy window in flight (Table 8.1): its span, its step, its blocks, and the target sheets still to be written. -/
structure CopyWin where
  lo : Nat
  hi : Nat
  step : Nat
  blocks : NMap RdVal := []
  shadow : NMap (Blk × Nat × Nat) := []
  deriving DecidableEq, Repr

/-- A reshape (chapter 8). -/
structure Reshape where
  src : Imposition
  up : Bool
  b : Nat
  z : Nat
  wgen : Nat
  win : Option CopyWin := none
  begun : Bool := false
  paused : Bool := false
  /-- when its windows of the last 60 s were released (RS_ETA, R214) -/
  doneAt : List Nat := []
  deriving DecidableEq, Repr

/-- A lost block offset that awaits reconstruction (R154): positions that failed, and whether silently. -/
structure LostOff where
  sig : Nat
  sheet : Nat
  off : Nat
  bad : List (Nat × Bool)
  deriving DecidableEq, Repr

/-- A repair write and its self-test (R159, R160): the blocks of one folio with their values. `stage` 0 due, 1 issued,
2 and 3 the first and second read-back; `tries` writes made. -/
structure Repair where
  sig : Nat
  sheet : Nat
  pos : Nat
  blocks : NMap RdVal
  stage : Nat := 0
  tries : Nat := 0
  silent : Bool := false
  deriving DecidableEq, Repr

/-- A rebuild or copyback item in flight (R188): the entries whose folio it places, by number, and the windows that visited
the sheet. -/
structure WalkItem where
  sig : Nat
  sheet : Nat
  critical : Bool := false
  copyback : Bool := false
  ents : List Nat
  deriving DecidableEq, Repr

/-- The running state of a signature. -/
structure Sig where
  inService : Bool := false
  heldOut : Bool := false
  isNew : Bool := false
  /-- a new signature's members are being formatted -/
  creating : Bool := false
  /-- steps 1 to 3 of R394 are done, and the replay of R143 runs -/
  entering : Bool := false
  enterAt : Nat := 0
  cycles : Nat := 0
  sheets : Nat := 0
  bMin : Nat := 0
  labelGen : Nat := 0
  k : SigKeep := {}
  pendingSet : Bool := false
  pendingClear : Bool := false
  lastCommit : Nat := 0
  commit : Option Commit := none
  doneBits : List Nat := []
  holders : List Nat := []
  /-- holders lost, and when -/
  holdLost : List (Nat × Nat) := []
  resync : List Nat := []
  resyncSt : Nat := 0
  resyncPos : Nat := 0
  /-- sheets resynchronised ahead of the walk for a degraded read (R146) -/
  early : List Nat := []
  /-- last retirement, by region -/
  quiet : NMap Nat := []
  lossSeen : Bool := false
  /-- deferred declarations: member and cause -/
  deferred : List (Nat × Nat) := []
  lapOpen : Bool := false
  governed : Bool := false
  /-- sheets that are candidates of rank 2; sheets older than DESTAGE_AGE; and by sheet, since when
  and the block offsets whose parity R163 asks for -/
  rank2 : List Nat := []
  aged : List Nat := []
  hbPar : NMap (Nat × List Nat) := []
  rs : Option Reshape := none
  deriving DecidableEq, Repr

/-! ### Drive ports (chapter 9) -/

/-- What a drive command is for. -/
inductive DrvUse where
  | fg | upd (u : Nat) | repair | walk | other
  deriving DecidableEq, Repr

/-- An outstanding drive command: the folio span it covers, when it was issued, errors so far. -/
structure DrvCmd where
  write : Bool
  use : DrvUse
  sig : Nat
  sheet : Nat
  pos : Nat
  b0 : Nat
  n : Nat
  lba : Nat
  at_ : Nat
  errs : Nat := 0
  timed : Bool := false
  /-- what it sends -/
  outs : List Out := []
  deriving DecidableEq, Repr

/-- A running recovery ladder: its step, since when, and the tags it ends. -/
structure Ladder where
  step : Nat
  at_ : Nat
  tags : List Nat
  deriving DecidableEq, Repr

/-- A format under way (R233): for a failure entry or for a new signature, since when, next SATA run. -/
structure Fmt where
  sig : Nat
  ent : Option Nat
  index : Nat
  at_ : Nat
  run : Nat := 0
  done : Bool := false
  deriving DecidableEq, Repr

/-- A drive port. -/
structure Drv where
  rate : Nat := 0
  upAt : Nat := 0
  downAt : Option Nat := none
  /-- the link is down for a reset of the module's own -/
  ownReset : Bool := false
  identified : Bool := false
  sata : Bool := false
  ssd : Bool := false
  blocks : Nat := 0
  identity : Nat := 0
  qdepth : Nat := 0
  /-- a SATA drive of 512-byte logical sectors -/
  sec512 : Bool := false
  /-- a bring-up is timed (R227) -/
  bringing : Bool := false
  /-- row of Table 9.3, once classified -/
  row : Nat := 0
  label : Option LabelCopy := none
  pwrAt : Nat := 0
  bringups : Nat := 0
  failed : Bool := false
  isNew : Bool := false
  inService : Bool := false
  ladder : Option Ladder := none
  test : Option Nat := none
  testDue : Bool := false
  testRate : Nat := 0
  passAt : Option Nat := none
  cap : Nat := 3
  fmt : Option Fmt := none
  cmds : NMap DrvCmd := []
  /-- commands that wait for a place (R219, R223) -/
  queue : List (Nat × DrvCmd) := []
  deriving DecidableEq, Repr

/-- Commands outstanding on a drive. -/
def Drv.outstanding (d : Drv) : Nat := d.cmds.length

/-! ### The Stereo store and casts (chapter 12) -/

/-- What a cast carries (R296). -/
structure CastBody where
  lines : List Line := []
  upds : NMap Upd := []
  zones : NMap Zone := []
  sigs : NMap SigKeep := []
  rss : NMap Reshape := []
  deriving DecidableEq, Repr

/-- A cast slot of one half: erased; its first index block programmed; its header valid, with the fields of Table 12.7. -/
structure CastSlot where
  erased : Bool := false
  programmed : Bool := false
  ok : Bool := false
  gen : Nat := 0
  fast : Bool := false
  oneHalf : Bool := false
  imgHash : List Nat := []
  op : Nat := 0
  cycles : Nat := 0
  causes : Nat := 0
  entries : Nat := 0
  blocks : Nat := 0
  dirty : Nat := 0
  dur : Nat := 0
  castKey : Nat := 0
  dataKeys : NMap Nat := []
  gsb : List Nat := []
  body : CastBody := {}
  deriving DecidableEq, Repr

/-- A bitmap copy in one half (R138, R167), with what is written beside it. -/
structure BmpCopy where
  gen : Nat
  identity : Nat
  regions : Nat
  keep : SigKeep
  deriving DecidableEq, Repr

/-- One half of the Stereo store. -/
structure HalfSt where
  ok : Bool := true
  log : LogRegion := {}
  engRecs : NMap EngRec := []
  ctrRecs : NMap CtrRec := []
  img : Option ImgCopy := none
  slots : NMap CastSlot := [(0, {}), (1, {})]
  castReg : Nat := 0
  castsTotal : Nat := 0
  keyRecs : NMap KeyRec := []
  /-- bitmap copies and checkpoints: signature × 2 + slot -/
  bmps : NMap BmpCopy := []
  cks : NMap Ckpt := []
  maps : NMap (Nat × List MapEnt) := []
  deriving DecidableEq, Repr

/-- The older slot of a half: the one whose header is invalid, or whose generation is lower (R297). -/
def HalfSt.older (h : HalfSt) : Nat :=
  let a := ngetD 0 {} h.slots
  let b := ngetD 1 {} h.slots
  if !a.ok then 0 else if !b.ok then 1 else if a.gen ≤ b.gen then 0 else 1

/-- Whether the older slot is erased. -/
def HalfSt.olderErased (h : HalfSt) : Bool := (ngetD h.older {} h.slots).erased

/-- Casting: a cast that is due or under way, the content restored at makeready, and the erase of the older slots. -/
structure Casting where
  /-- causes (bits of header offset 72) of a cast that waits for a switch-over -/
  due : Option Nat := none
  /-- the cast under way or made last: its causes, when it began, its dirty blocks and its gauge state block -/
  causes : Nat := 0
  begun : Nat := 0
  beganOp : Nat := 0
  dirty : Nat := 0
  gsb : List Nat := []
  /-- what the cast under way carries, and after a recast or a resume what was restored -/
  body : CastBody := {}
  /-- the generation restored and not yet consumed, and the order number that the restored dirty data does not pass -/
  restored : Option Nat := none
  mark : Nat := 0
  /-- an erase of the older slots is under way, since -/
  eraseAt : Option Nat := none
  /-- in CAST_DONE: since when an input is healthy and PWRFAIL_N deasserted (R299) -/
  healthyAt : Option Nat := none
  /-- an ATTN_N edge that HOLD keeps (R420) -/
  attn : Bool := false
  /-- a resume from the Case waits for the erase (R299) -/
  resuming : Bool := false
  /-- a cast was made and could not be recast in this makeready (R72, R301) -/
  lost : Bool := false
  /-- the final bitmap commit of a release is under way or done (R142) -/
  final : Bool := false
  deriving DecidableEq, Repr

/-- Why a step can fault: never. Every command has an effect or leaves the module as it was. -/
inductive Fault : Type
  deriving DecidableEq, Repr

/-- A command without a meaning. -/
inductive Refusal where
  /-- The arm of `exec` has no meaning yet. Safe. -/
  | notModelled (mnemonic : String)
  deriving DecidableEq, Repr

/-- The module. -/
structure State where
  pending : List Instr := []
  rf : RegFile := {}
  core : Core := {}
  el : Errata := {}
  prs : Pairs := {}
  fnt : Fount := {}
  sch : Sched := {}
  dma : Dma := {}
  img : Image := {}
  hif : Hif := {}
  sec : Security := {}
  pins : Pins := {}
  fe : NMap FePort := []
  conns : NMap Conn := []
  ctrls : NMap Ctrl := []
  cmds : NMap Cmd := []
  units : List AdmUnit := []
  /-- the order of arrival of commands and of dirty data -/
  seq : Nat := 0
  /-- bytes in the ingress buffer, and reserved in it -/
  ingress : Nat := 0
  reserved : Nat := 0
  anaChange : Nat := 0
  /-- module-wide counters of Table 2.5: 512 000-byte units read and written, hellbox additions, and the bytes towards the next unit -/
  rdUnits : Nat := 0
  wrUnits : Nat := 0
  rdBytes : Nat := 0
  wrBytes : Nat := 0
  mediaErrs : Nat := 0
  zn : Zones := {}
  cs : Case := {}
  upds : NMap Upd := []
  sigs : NMap Sig := []
  lost : List LostOff := []
  repairs : List Repair := []
  walks : List WalkItem := []
  drvs : NMap Drv := []
  tagNo : Nat := 0
  cast : Casting := {}
  st0 : HalfSt := {}
  st1 : HalfSt := {}
  stage : NMap Nat := []
  hostBuf : NMap Nat := []
  /-- first operating hour not yet rolled out of the buckets of R161 -/
  corrHour : Nat := 0
  out : List Out := []
  withheld : List Out := []
  deriving DecidableEq, Repr

def State.drivePort (s : State) (p : Nat) : Drv := ngetD p {} s.drvs
def State.sigSt (s : State) (g : Nat) : Sig := ngetD g {} s.sigs

/-- The register fields that a cold reset sets to a value other than 0 (R12). -/
def coldRegs : Regs := (Reg.allFields.filter fun F => F.rst != 0 && F.kind.sets .cold).foldl (resetField .cold) []

/-- The module right after a cold reset, at the first impression of POWER_QUALIFY (R16, R388): every register field at its
reset value, nothing else set. The contents of a new module's Stereo store, fuses and inputs are named in the log. -/
def State.reset : State := { rf.regs := coldRegs, el.due := [⟨0x0001, 0, 0, 0, 1, 0, [0]⟩] }

end Sys2Proof.Machine
end

