-- ==== Sys2Proof/Machine/Ops.lean ====
section
/-!
DEFINITION. The named operations over State that every family shares: reading and writing register fields, setting event
bits, counting, recording events, drawing open values, entering a module state, and what leaves the module.
-/

namespace Sys2Proof.Machine

/-- Codes of MOD_STATE (Table 18.1). -/
def ModState.code : ModState → Nat
  | .powerQualify => 0 | .selfTest => 1 | .caseInit => 2 | .imageWait => 3 | .keyWait => 4 | .recast => 5
  | .assemble => 6 | .pressRun => 7 | .hold => 8 | .cast => 9 | .castDone => 10 | .release => 11
  | .maintenance => 12 | .safe => 13

/-- Codes of LAST_RESET (Table 18.6) and of event 0x0001. -/
def ResetKind.code : ResetKind → Nat
  | .cold => 0 | .module => 1 | .warm => 2 | .port => 3

/-! ### Register fields -/

/-- The stored value of a register field. -/
def State.get (s : State) (F : FieldSpec) (i : Nat := 0) : Nat := rget s.rf.regs F i

/-- Store a register field. -/
def State.put (s : State) (F : FieldSpec) (v : Nat) (i : Nat := 0) : State :=
  { s with rf.regs := rput F i v s.rf.regs }

/-- Whether a one-bit field is 1. -/
def State.bit (s : State) (F : FieldSpec) (i : Nat := 0) : Bool := s.get F i != 0

/-- The module sets an event bit (RW1C): R9 keeps it against a clear of the same impression. -/
def State.raise (s : State) (F : FieldSpec) (i : Nat := 0) : State :=
  { s with rf.regs := rput F i 1 s.rf.regs, rf.fresh := F.key i :: s.rf.fresh }

/-- Count on a field that saturates. -/
def State.bump (s : State) (F : FieldSpec) (n : Nat := 1) (i : Nat := 0) : State :=
  s.put F (min (s.get F i + n) (2 ^ F.w - 1)) i

/-- Store a field as 1 or 0. -/
def State.putB (s : State) (F : FieldSpec) (b : Bool) (i : Nat := 0) : State := s.put F (if b then 1 else 0) i

/-- A host's request bit (RW1S): it reads 1 at this boundary. -/
def State.ask (s : State) (F : FieldSpec) (i : Nat := 0) : State := s.put F 1 i

/-- The event that ends a request has come: the bit clears at the boundary that follows (R471). -/
def State.settle (s : State) (F : FieldSpec) (i : Nat := 0) : State :=
  { s with rf.clearNext := F.key i :: s.rf.clearNext }

/-- A request that is asked, taken and ended at one boundary. -/
def State.pulse (s : State) (F : FieldSpec) (i : Nat := 0) : State := (s.ask F i).settle F i

/-! ### Bytes -/

/-- The `n` bytes of a value, least significant first (R2). -/
def leBytes (n v : Nat) : List Nat := (List.range n).map fun b => v / 256 ^ b % 256

/-- The value of bytes stored least significant first (R2). -/
def leValue : List Nat → Nat
  | [] => 0
  | b :: bs => b % 256 + 256 * leValue bs

/-- The value of bytes stored most significant first (R3, R4). -/
def beValue (bs : List Nat) : Nat := leValue bs.reverse

/-- Round up to a multiple. -/
def roundUp (v m : Nat) : Nat := (v + m - 1) / m * m

/-! ### Time and open values -/

/-- Operating time in units of 1/1024 h (R443). -/
def opTimeOf (opImp : Nat) : Nat := (8 * opImp) / 3515625

/-- Impressions from an instant to now. -/
def State.since (s : State) (t : Nat) : Nat := s.core.imp - t

/-- Draw a value the spec leaves open. -/
def State.draw (s : State) : Nat × State := (Config.freeValue s.core.free, { s with core.free := s.core.free + 1 })

/-- Take the next output of the random generator (R423). -/
def State.random (s : State) : Nat × State := (Config.drbg s.core.rngCount, { s with core.rngCount := s.core.rngCount + 1 })

/-! ### Events and what leaves the module -/

/-- An event arises at this boundary; IMPRESSION_BOUNDARY records it (R359, R360). -/
def State.log (s : State) (code src : Nat) (payload : List Nat := []) : State :=
  { s with el.due := ⟨code, 0, 0, opTimeOf s.core.opImp, s.core.cycles, src, payload⟩ :: s.el.due }

/-- A C0 item is placed for a fault: the log is to be flushed (R356). -/
def faultItem (s : State) : State := { s with el.flushDue := true }

/-- Something leaves the module. -/
def State.emit (s : State) (o : Out) : State := { s with out := o :: s.out }

/-- The halves of the Stereo store in service. -/
def State.halfOk (s : State) : Bool := s.st0.ok || s.st1.ok

/-- Change every half in service (R355). -/
def State.eachHalf (s : State) (f : HalfSt → HalfSt) : State :=
  { s with st0 := if s.st0.ok then f s.st0 else s.st0, st1 := if s.st1.ok then f s.st1 else s.st1 }

/-- Act only while the module has power. -/
def whenOn (f : State → State) (s : State) : State := if s.core.powered then f s else s

/-! ### Module states -/

/-- Milliseconds in a number of impressions. -/
def impMs (n : Nat) : Nat := n / 125

/-- An in-band interrupt class becomes pending (R415, Table 19.5). -/
def State.ibi (s : State) (c : Nat) : State :=
  let F := Reg.Hif.IBI_PENDING
  { s with rf.regs := rput F 0 (s.get F ||| 2 ^ (c - 1)) s.rf.regs, rf.fresh := (F.key 0 + (c - 1)) :: s.rf.fresh }

/-- A HIF_ERR bit is set (R406, R410). -/
def hifErr (F : FieldSpec) (s : State) : State := { s.raise F with hif.errSince := true }

/-- Change the module state (R387), keeping the time of the state left (R403). -/
def State.enter (s : State) (m : ModState) : State :=
  let from_ := s.core.mode
  let t := s.since s.core.entered
  let s := if from_.code < 7 then s.put Reg.Glb.MR_TIME (impMs t) from_.code else s
  let s := { s with core.prev := from_, core.mode := m, core.entered := s.core.imp }
  let s := s.ibi 1
  let s := if m = .keyWait then s.ibi 5 else s
  (s.raise Reg.Glb.STATE_CHANGE).log 0x0002 0 [from_.code, m.code]

/-- From the first boundary of SELF_TEST onward the host interface is in service in every state (R387), but for the time a
module reset holds the module (R402). -/
def State.hostUp (s : State) : Bool := s.core.powered && !s.core.held && s.core.mode != .powerQualify

/-- Insertion into a list sorted by a key, before equal keys. -/
def insertBy {α : Type} (key : α → Nat) (x : α) : List α → List α
  | [] => [x]
  | y :: ys => if key x ≤ key y then x :: y :: ys else y :: insertBy key x ys

/-- Stable sort by a key. -/
def sortBy {α : Type} (key : α → Nat) : List α → List α
  | [] => []
  | x :: xs => insertBy key x (sortBy key xs)

/-- Replace element `i` of a list. -/
def setAt {α : Type} (i : Nat) (v : α) (l : List α) : List α := l.set i v

end Sys2Proof.Machine
end

