-- ==== Sys2Proof/Machine/Layout.lean ====
section
/-!
DEFINITION. Signature geometry and arithmetic (chapter 4): blocks of a sheet, the imposition's mapping, spare slots, packed
runs, parity over blocks, check fields, capacity; and the plan of a reshape (R202, R203).
-/

namespace Sys2Proof.Machine

/-- Folio blocks (Table 4.1). -/
def Imposition.fb (i : Imposition) : Nat := 32 * 2 ^ i.folio

/-- Sheet width. -/
def Imposition.w (i : Imposition) : Nat := i.k + 2

/-- Data blocks of a sheet. -/
def Imposition.sheetBlocks (i : Imposition) : Nat := i.k * i.fb

/-- Sheet, data position and block of a sig_lbn (R93). -/
def Imposition.sheetOf (i : Imposition) (lbn : Nat) : Nat := lbn / i.sheetBlocks
def Imposition.posOf (i : Imposition) (lbn : Nat) : Nat := lbn % i.sheetBlocks / i.fb
def Imposition.blkOf (i : Imposition) (lbn : Nat) : Nat := lbn % i.fb

/-- sig_lbn of a data block. -/
def Imposition.lbnOf (i : Imposition) (t pos b : Nat) : Nat := t * i.sheetBlocks + pos * i.fb + b

/-- The entries of the row of a sheet (R97): sheet positions, then spares. -/
def Imposition.row (i : Imposition) (t : Nat) : List (Nat × Nat) := i.table.getD (t % 4096) []

/-- The drive of a sheet position. -/
def Imposition.driveAt (i : Imposition) (t p : Nat) : Nat := ((i.row t).getD p (0, 0)).1

/-- Data-area position of block 0 of a folio (R97). -/
def Imposition.dataPos (i : Imposition) (t p : Nat) : Nat :=
  (t / 4096 * i.cStride + ((i.row t).getD p (0, 0)).2) * i.fb

/-- Drive LBA of a data-area position of a member (R97, R99). -/
def Imposition.lbaOf (i : Imposition) (drive x : Nat) : Nat :=
  let base := (i.members.getD drive ⟨0, 0⟩).base
  if i.packed then base + 64 * (x / 63) + x % 63 else base + x

/-- Drive port of a member. -/
def Imposition.portOf (i : Imposition) (drive : Nat) : Nat := (i.members.getD drive ⟨0, 0⟩).port

/-- The sheet position that a drive holds in a row, if any. -/
def Imposition.posIn (i : Imposition) (t drive : Nat) : Option Nat :=
  (List.range i.w).find? fun p => i.driveAt t p == drive

/-- The spare entry of a row for a level. -/
def Imposition.spareDrive (i : Imposition) (t q : Nat) : Nat := ((i.row t).getD (i.w + q) (0, 0)).1

/-- Data-area position of a rebuilt folio of failed drive `f` with spare level `q` (R98). -/
def Imposition.sparePos (i : Imposition) (t f q : Nat) : Nat :=
  let r := t % 4096
  let d := i.spareDrive t q
  let sp := ((List.range r).filter fun r' => i.spareDrive r' q == d && (i.posIn r' f).isSome).length
  (t / 4096 * i.cStride + i.cSheet + q * i.cSpare + sp) * i.fb

/-- The smallest number of sheets whose data is at least 1 GiB (R94). -/
def metaSheetsFor (sheetBlocks : Nat) : Nat := (262144 + sheetBlocks - 1) / sheetBlocks

/-! ### Capacity (R113) -/

/-- Cycles for a smallest member of `bMin` blocks. -/
def Imposition.cyclesFor (i : Imposition) (bMin : Nat) : Nat :=
  let per (m : Member) : Nat :=
    let a := bMin - m.base - 256
    let a := if i.packed then a / 64 * 63 else a
    a / i.fb / i.cStride
  match i.members.map per with
  | [] => 0
  | x :: xs => xs.foldl min x

/-- Sheets of a signature. -/
def Imposition.sheetsFor (i : Imposition) (bMin : Nat) : Nat := i.cyclesFor bMin * 4096

/-- Unusable blocks at the end of a member of `b` blocks. -/
def Imposition.tailFor (i : Imposition) (b base : Nat) (cycles : Nat) : Nat :=
  let fp := cycles * i.cStride * i.fb
  let fp := if i.packed then (fp + 62) / 63 * 64 else fp
  b - 256 - (base + fp)

/-! ### Parity (R101, R102) -/

/-- 4 096 bytes of 0x01. -/
def onesBlk : Nat := (2 ^ 32768 - 1) / 255

/-- Multiply every byte of a block by g. -/
def gfDoubleBlk (b : Blk) : Blk := ((b &&& (onesBlk * 127)) * 2) ^^^ (((b / 128) &&& onesBlk) * 0x1D)

/-- Multiply every byte of a block by a constant, `n` bits of it. -/
def gfMulBlkN : Nat → Nat → Blk → Blk
  | 0, _, _ => 0
  | n + 1, c, b => (if c % 2 = 1 then b else 0) ^^^ gfMulBlkN n (c / 2) (gfDoubleBlk b)

/-- Multiply every byte of a block by a constant. -/
def gfMulBlk (c : Nat) (b : Blk) : Blk := gfMulBlkN 8 c b

/-- P of data blocks in position order. -/
def parityP (ds : List Blk) : Blk := ds.foldl (fun a d => a ^^^ d) 0

/-- Q of data blocks, the first at position `i`. -/
def parityQFrom : Nat → List Blk → Blk
  | _, [] => 0
  | i, d :: ds => gfMulBlk (gfPow i) d ^^^ parityQFrom (i + 1) ds

/-- Q of data blocks in position order. -/
def parityQ (ds : List Blk) : Blk := parityQFrom 0 ds

/-- The data blocks of one offset as they are known, position by position: `none` for a lost one; P and Q likewise. -/
structure Column where
  data : List (Option Blk)
  p : Option Blk
  q : Option Blk
  deriving DecidableEq, Repr

/-- Positions lost at an offset: data positions, then k for P and k + 1 for Q. -/
def Column.lost (c : Column) : List Nat :=
  let k := c.data.length
  ((List.range k).filter fun i => (c.data.getD i none).isNone) ++ (if c.p.isNone then [k] else []) ++
    (if c.q.isNone then [k + 1] else [])

/-- XOR of the surviving data, and of g^i times each. -/
def Column.survP (c : Column) : Blk := c.data.foldl (fun a d => a ^^^ d.getD 0) 0
def Column.survQ (c : Column) : Blk := parityQ (c.data.map fun d => d.getD 0)

/-- R102: the whole column, when at most two positions are lost. -/
def Column.solve (c : Column) : Option (List Blk × Blk × Blk) :=
  let k := c.data.length
  let fill (f : Nat → Blk) : List Blk := (List.range k).map fun i => match c.data.getD i none with | some d => d | none => f i
  let done (ds : List Blk) : List Blk × Blk × Blk := (ds, parityP ds, parityQ ds)
  match (List.range k).filter fun i => (c.data.getD i none).isNone with
  | [] => some (done (fill fun _ => 0))
  | [x] =>
    match c.p, c.q with
    | some p, _ => some (done (fill fun _ => p ^^^ c.survP))
    | none, some q => some (done (fill fun _ => gfMulBlk (gfInv (gfPow x)) (q ^^^ c.survQ)))
    | none, none => none
  | [x, y] =>
    match c.p, c.q with
    | some p, some q =>
      let p' := p ^^^ c.survP
      let q' := q ^^^ c.survQ
      let dx := gfMulBlk (gfInv (gfPow x ^^^ gfPow y)) (gfMulBlk (gfPow y) p' ^^^ q')
      some (done (fill fun i => if i = x then dx else p' ^^^ dx))
    | _, _ => none
  | _ => none

/-! ### Check fields and data-unit numbers (R103 to R106) -/

/-- XTS data-unit number of block `b` of position `p` of sheet `t` (Table 4.4). -/
def Imposition.unitNo (i : Imposition) (t p b : Nat) : Nat :=
  if p < i.k then i.lbnOf t p b
  else if p = i.k then 0x8000000000000000 + t * i.sheetBlocks + b
  else 0xC000000000000000 + t * i.sheetBlocks + b

/-- Reference tag of block `b` of position `p` of sheet `t` (R106). -/
def Imposition.refTag (i : Imposition) (t p b : Nat) : Nat :=
  if p < i.k then i.lbnOf t p b % 2 ^ 32
  else if p = i.k then ((t * i.sheetBlocks + b) % 2 ^ 32) ^^^ 0x80000000
  else ((t * i.sheetBlocks + b) % 2 ^ 32) ^^^ 0x40000000

/-- The application tag that marks a never-written block. -/
def neverTag : Nat := 0xFFFF

/-- Blocks of a zone of a namespace (ZSZE). -/
def NsSec.zoneBlocks (n : NsSec) (i : Imposition) : Nat := n.zoneSheets * i.sheetBlocks

/-- sig_lbn of the first block of a namespace, and its size in blocks (R94). -/
def NsSec.start (n : NsSec) (i : Imposition) : Nat := n.base * i.sheetBlocks
def NsSec.size (n : NsSec) (i : Imposition) : Nat := n.count * i.sheetBlocks

/-- The namespace of an image that holds a sheet, with its index. -/
def Img.nsOfSheet (m : Img) (g t : Nat) : Option (Nat × NsSec) :=
  m.nss.find? fun p => p.2.sig = g ∧ p.2.base ≤ t ∧ t < p.2.base + p.2.count

/-- The application tag of a sheet of a signature (Table 4.5); none outside the metadata area and every namespace. -/
def Img.appTag (m : Img) (i : Imposition) (t : Nat) : Option Nat :=
  if t < i.meta_ then some 0xFFFD
  else
    match m.nsOfSheet i.sig t with
    | none => none
    | some (x, n) =>
      let l := (t - n.base) * i.sheetBlocks
      if n.zoned then some (x * 1024 + l / n.zoneBlocks i % 1021) else some (x * 1024 + l / 262144 % 1021)

/-! ### The plan of a reshape (R202, R203) -/

/-- Direction UP (R202). -/
def reshapeUp (src dst : Imposition) : Bool := dst.cStride * src.k ≤ src.cStride * dst.k

/-- The source sheet whose folio occupies a data-area position of a drive, by its slot; none in spare space (R97). -/
def Imposition.sheetAtPos (i : Imposition) (drive x : Nat) : Option Nat :=
  let c := x / (i.cStride * i.fb)
  let u := x / i.fb % i.cStride
  if u < i.cSheet then
    ((List.range 4096).find? fun r => (List.range i.w).any fun p => (i.row r).getD p (0, 0) == (drive, u)).map fun r => c * 4096 + r
  else none

/-- The source sheets that the positions `[x, x + len)` of a drive overlap. -/
def Imposition.sheetsIn (i : Imposition) (drive x len : Nat) : List Nat :=
  let first := x / i.fb
  let last := (x + len - 1) / i.fb
  ((List.range (last + 1 - first)).filterMap fun j => i.sheetAtPos drive ((first + j) * i.fb))

/-- Positions a window of target sheets `[a, b)` writes: folios, and the spare slots of the cycles it touches (R203). -/
def planWrites (dst : Imposition) (a b : Nat) : List (Nat × Nat × Nat) :=
  let folios := (List.range (b - a)).flatMap fun j => (List.range dst.w).map fun p => (dst.driveAt (a + j) p, dst.dataPos (a + j) p, dst.fb)
  let cycles := ((List.range (b - a)).map fun j => (a + j) / 4096).eraseDups
  folios ++ cycles.flatMap fun c => (List.range dst.n).map fun d => (d, (c * dst.cStride + dst.cSheet) * dst.fb, (dst.cStride - dst.cSheet) * dst.fb)

/-- Source spare slots of the source cycles that still have sheets beyond the window `[lo, hi)` of sig_lbn (R203). -/
def planSrcSpare (src : Imposition) (up : Bool) (lo hi z : Nat) : List (Nat × Nat × Nat) :=
  let sheets := z / src.sheetBlocks
  let beyond := (List.range sheets).filter fun t => if up then t * src.sheetBlocks ≥ hi else (t + 1) * src.sheetBlocks ≤ lo
  ((beyond.map fun t => t / 4096).eraseDups).flatMap fun c => (List.range src.n).map fun d => (d, (c * src.cStride + src.cSheet) * src.fb, (src.cStride - src.cSheet) * src.fb)

/-- Whether a window may be copied: its end divides no source sheet, and every source sheet not yet copied that occupies a
position it writes lies within it. Bounds are sig_lbn. -/
def windowOk (src dst : Imposition) (up : Bool) (lo hi z : Nat) : Bool :=
  let inside (t : Nat) : Bool := lo ≤ t * src.sheetBlocks && (t + 1) * src.sheetBlocks ≤ hi
  let copied (t : Nat) : Bool := if up then (t + 1) * src.sheetBlocks ≤ lo else t * src.sheetBlocks ≥ hi
  let beyondZ (t : Nat) : Bool := t * src.sheetBlocks ≥ z
  let edge := if up then hi else lo
  edge % src.sheetBlocks == 0 &&
    ((planWrites dst (lo / dst.sheetBlocks) (hi / dst.sheetBlocks) ++ planSrcSpare src up lo hi z).all fun x =>
      (src.sheetsIn x.1 x.2.1 x.2.2).all fun t => inside t || copied t || beyondZ t || x.1 ≥ src.n)

/-- Extend a window by whole target sheets until it may be copied, up to 1 024 target sheets; `n` target sheets so far. -/
def growWindow (src dst : Imposition) (up : Bool) (b z : Nat) : Nat → Nat → Option (Nat × Nat)
  | 0, _ => none
  | fuel + 1, n =>
    let lo := if up then b else b - min b (n * dst.sheetBlocks)
    let hi := if up then min z (b + n * dst.sheetBlocks) else b
    if n > 1024 then none
    else if windowOk src dst up lo hi z then some (lo, hi)
    else if (up && hi ≥ z) || (!up && lo == 0) then none
    else growWindow src dst up b z fuel (n + 1)

/-- The window that begins at boundary `b`: 256 target sheets, or fewer where it meets Z or 0. -/
def nextWindow (src dst : Imposition) (up : Bool) (b z : Nat) : Option (Nat × Nat) := growWindow src dst up b z 800 256

/-- Run the plan from a boundary; `true` when every window stays within its bound (R203). -/
def planOk (src dst : Imposition) (up : Bool) (z : Nat) : Nat → Nat → Bool
  | 0, _ => false
  | fuel + 1, b =>
    if (up && b ≥ z) || (!up && b == 0) then true
    else
      match nextWindow src dst up b z with
      | some (lo, hi) => planOk src dst up z fuel (if up then hi else lo)
      | none => false

end Sys2Proof.Machine
end

