-- ==== Sys2Proof/Machine/Cache.lean ====
section
/-!
DEFINITION. The Case as a cache (chapter 10): sets, lookup, frames, victims, the eviction buffer, fills, dirtying writes,
shadows, and the count of dirty blocks.
-/

namespace Sys2Proof.Machine

/-- Source of a Case event that names neither a device nor a frame (Table 16.4). -/
def noDev : Nat := 0x1F * 2 ^ 19

/-! ### Lookup (R237 to R239) -/

/-- Ways and sets of the organisation (Table 10.2). -/
def caseWays (s : State) : Nat := 2 ^ s.get Reg.Cc.WAYS_CODE
def caseSets (s : State) : Nat := 524288 / caseWays s

/-- The set of a line (R238). -/
def lineSet (s : State) (kind sig l : Nat) : Nat :=
  let n := caseSets s
  (l ^^^ (l / n) ^^^ (sig * 4099) ^^^ (kind * 1031)) % n

/-- Whether a line has an address. -/
def Line.is (x : Line) (kind sig num : Nat) : Bool := x.kind == kind && x.sig == sig && x.num == num

/-- The tag entry of a line, with its number. -/
def findTag (s : State) (kind sig num : Nat) : Option (Nat × Line) :=
  let b := lineSet s kind sig num * caseWays s
  s.cs.tags.find? fun p => b ≤ p.1 && p.1 < b + caseWays s && p.2.is kind sig num

/-- The eviction-buffer entry of a line. -/
def findEvb (s : State) (kind sig num : Nat) : Option (Nat × EvbEnt) := s.cs.evb.find? fun p => p.2.line.is kind sig num

/-- The line, wherever it is. -/
def findLine (s : State) (kind sig num : Nat) : Option Line :=
  match findTag s kind sig num with
  | some p => some p.2
  | none => (findEvb s kind sig num).map (·.2.line)

/-- Change the line, wherever it is. -/
def updLine (kind sig num : Nat) (f : Line → Line) (s : State) : State :=
  match findTag s kind sig num with
  | some p => { s with cs.tags := nset p.1 (f p.2) s.cs.tags }
  | none =>
    match findEvb s kind sig num with
    | some p => { s with cs.evb := nset p.1 { p.2 with line := f p.2.line } s.cs.evb }
    | none => s

/-- The cell of a data block. -/
def cellAt (s : State) (sig lbn : Nat) : Option Cell := (findLine s 0 sig (lbn / 128)).bind fun x => nfind (lbn % 128) x.cells

/-- All lines: tag store and eviction buffer. -/
def allLines (s : State) : List Line := s.cs.tags.map (·.2) ++ s.cs.evb.map (·.2.line)

/-! ### Frames (R236, R242) -/

def State.chan (s : State) (c : Nat) : Chan := ngetD c {} s.cs.chans
def State.setChan (s : State) (c : Nat) (x : Chan) : State := { s with cs.chans := nset c x s.cs.chans }

/-- A channel in service for clean lines, and for dirty frames (Table 11.2, R261). -/
def chanClean (s : State) (c : Nat) : Bool := (s.chan c).st ≤ 2
def chanDirty (s : State) (c : Nat) : Bool := (s.chan c).st ≤ 1

/-- Free line frames of a channel. -/
def freeFrames (s : State) (c : Nat) : Nat :=
  131008 - ((s.chan c).used.length + ((s.chan c).retired.filter fun f => f < 131008 && !(s.chan c).used.contains f).length)

/-- The n-th frame that is neither in use nor retired. -/
def nthFree (taken : List Nat) (n : Nat) : Nat := (sortBy id taken).foldl (fun n u => if u ≤ n then n + 1 else n) n

/-- The channel with the most free frames among some, ties to the lowest (R242). -/
def roomiest (s : State) (cs : List Nat) : Option Nat :=
  cs.foldl (fun b c => if freeFrames s c = 0 then b else match b with
    | none => some c
    | some d => if freeFrames s c > freeFrames s d then some c else b) none

/-- Take a frame of a channel; which of the free frames is left open by the spec. -/
def takeFrame (c : Nat) (s : State) : Nat × State :=
  let d := s.draw
  let x := s.chan c
  let f := nthFree (x.used ++ x.retired).eraseDups (d.1 % max 1 (freeFrames s c))
  (c * 131072 + f, d.2.setChan c { x with used := f :: x.used })

/-- Give a frame back. -/
def giveFrame (f : Nat) (s : State) : State :=
  let c := f / 131072
  s.setChan c { s.chan c with used := (s.chan c).used.erase (f % 131072) }

def giveFrames (fs : List Nat) (s : State) : State := fs.foldl (fun s f => giveFrame f s) s

/-- Two frames in two channels that can hold dirty data, or one when only one can (R115, R242). -/
def takePair (s : State) : Option (List Nat × State) :=
  match roomiest s ((List.range 4).filter fun c => chanDirty s c) with
  | none => none
  | some c =>
    let a := takeFrame c s
    match roomiest a.2 ((List.range 4).filter fun d => d != c && chanDirty a.2 d) with
    | none => some ([a.1], a.2)
    | some d => let b := takeFrame d a.2; some ([a.1, b.1], b.2)

/-! ### Victims (R245 to R247) -/

/-- Whether a line may be a victim. -/
def Line.eligible (x : Line) : Bool :=
  !(x.cells.any fun c => c.2.dirty || c.2.upd.isSome || c.2.shadow.isSome) && !x.pin && !x.fillPending

/-- Whether a line is dirty. -/
def Line.dirty (x : Line) : Bool := x.cells.any fun c => c.2.dirty

/-- Put a line into the eviction buffer, if an entry is free; a range engine holds at most 32 (R248). -/
def evict (x : Line) (writeBack : Bool) (engine : Option Nat) (s : State) : Option State :=
  if s.cs.evb.length ≥ 64 ∨ (engine.isSome ∧ (s.cs.evb.filter fun p => p.2.engine.isSome).length ≥ 32) then none
  else some { s with cs.evb := nset (nfresh s.cs.evb 0) ⟨x, writeBack, s.core.imp, engine⟩ s.cs.evb }

/-- Choose a way of a set for a new line (R247): the tag entry's number, with the victim in the eviction buffer. -/
def chooseWay (set : Nat) (s : State) : Option (Nat × State) :=
  let w := caseWays s
  let keys := (List.range w).map fun i => set * w + i
  match keys.find? fun k => (nfind k s.cs.tags).isNone with
  | some k => some (k, s)
  | none =>
    let at_ (k : Nat) : Line := ngetD k ⟨0, 0, 0, 0, false, false, false, false, 0, none, [], []⟩ s.cs.tags
    let e := keys.filter fun k => (at_ k).eligible
    let e' := e.filter fun k => !(at_ k).retain
    let e := if e'.isEmpty then e else e'
    if e.isEmpty then none
    else
      let top := (e.map fun k => (at_ k).age).foldl max 0
      let d := 3 - top
      match e.find? fun k => (at_ k).age + d = 3 with
      | none => none
      | some k =>
        let s := { s with cs.tags := nmapv (fun j x => if keys.contains j then { x with age := min 3 (x.age + d) } else x) s.cs.tags }
        match evict (at_ k) false none s with
        | none => none
        | some s => some (k, ({ s with cs.tags := ndel k s.cs.tags } : State).bump Reg.Cc.VICTIMS)

/-- Allocate a line (R242, R245): a way and a primary frame, or nothing when the fill or the allocation has to wait. -/
def newLine (kind sig num : Nat) (stream : Bool) (s : State) : Option State :=
  match chooseWay (lineSet s kind sig num) s with
  | none => none
  | some (k, s) =>
    match roomiest s ((List.range 4).filter fun c => chanClean s c) with
    | none => none
    | some c =>
      let f := takeFrame c s
      let x : Line := { kind := kind, sig := sig, num := num, age := if stream then 3 else 0, stream := stream, primary := f.1 }
      some { f.2 with cs.tags := nset k x f.2.cs.tags }

/-- Why an allocation waits: counted once (R244, R247). -/
def waitCount (kind sig num : Nat) (s : State) : State :=
  if (chooseWay (lineSet s kind sig num) s).isNone then
    let s := s.bump Reg.Cc.FILL_WAITS
    if s.cs.evb.length ≥ 64 then s.raise Reg.Cc.EVB_FULL else s
  else s.bump Reg.Cc.FRAME_WAITS

/-- A line of the eviction buffer goes back to its set, if a way is found (R249). -/
def reinstate (kind sig num : Nat) (s : State) : State :=
  match findEvb s kind sig num with
  | none => s
  | some (i, e) =>
    match chooseWay (lineSet s kind sig num) s with
    | none => s
    | some (k, s) => ({ s with cs.tags := nset k e.line s.cs.tags, cs.evb := ndel i s.cs.evb } : State).bump Reg.Cc.REINSTATES

/-- Note that a non-streaming source read or wrote a line: it takes age 0 at the boundary (R245). -/
def touch (kind sig num : Nat) (s : State) : State :=
  match findTag s kind sig num with
  | some p => { s with cs.touched := p.1 :: s.cs.touched }
  | none => s

/-! ### Fills and writes (R241, R242) -/

/-- A fill brings one sector; it never overwrites a dirty one. A line that is not present and finds no way is not filled. -/
def fillCell (kind sig num j : Nat) (v : RdVal) (stream : Bool) (s : State) : State :=
  let s := if (findLine s kind sig num).isSome then s else (newLine kind sig num stream s).getD (waitCount kind sig num s)
  updLine kind sig num (fun x =>
    match nfind j x.cells with
    | some c => if c.dirty ∨ c.upd.isSome then x else { x with cells := nset j { c with data := v.data, never := v.never } x.cells }
    | none => { x with cells := nset j { data := v.data, never := v.never } x.cells }) s

/-- Fill a data block. -/
def fillBlock (sig lbn : Nat) (v : RdVal) (stream : Bool) (s : State) : State :=
  if v.lost then s else fillCell 0 sig (lbn / 128) (lbn % 128) v stream s

/-- Fill a P (kind 1) or Q (kind 2) block of a sheet (Table 10.1). -/
def fillParity (i : Imposition) (kind t b : Nat) (v : Blk) (s : State) : State :=
  let l := t * i.sheetBlocks + b
  fillCell kind i.sig (l / 128) (l % 128) { data := v } true s

/-- Ready a data line to take a dirty sector: present in its set and with a duplex where two channels can hold one (R242);
nothing when the write has to wait for a way or a frame (R244). -/
def readyLine (sig num : Nat) (stream : Bool) (s : State) : Option State :=
  let s := if (findTag s 0 sig num).isNone ∧ (findEvb s 0 sig num).any (fun p => !p.2.writeBack) then reinstate 0 sig num s else s
  let s? := if (findLine s 0 sig num).isSome then some s else newLine 0 sig num stream s
  s?.bind fun s =>
    match findLine s 0 sig num with
    | none => none
    | some x =>
      let moved := !chanDirty s (x.primary / 131072)
      if x.duplex.isSome ∧ !moved then some s
      else if moved then
        match takePair s with
        | none => none
        | some (fs, s) =>
          let s := giveFrames ([x.primary] ++ x.duplex.toList) s
          some (updLine 0 sig num (fun x => { x with primary := fs.getD 0 0, duplex := fs[1]? }) s)
      else
        match roomiest s ((List.range 4).filter fun c => c != x.primary / 131072 && chanDirty s c) with
        | none => if ((List.range 4).filter fun c => chanDirty s c).length < 2 then some s else none
        | some c => let f := takeFrame c s; some (updLine 0 sig num (fun x => { x with duplex := some f.1 }) f.2)

/-- A dirty block lands: in its sector, or in a shadow while an update in flight has it frozen (R126). -/
def writeCell (sig lbn : Nat) (data : Blk) (never wt : Bool) (s : State) : State :=
  let n := lbn / 128
  let j := lbn % 128
  let s := { s with seq := s.seq + 1 }
  let frozen := (cellAt s sig lbn).any fun c => c.upd.isSome
  let s :=
    if frozen ∧ (findLine s 0 sig n).any (fun x => x.shFrames.isEmpty) then
      match takePair s with
      | some (fs, s) => updLine 0 sig n (fun x => { x with shFrames := fs }) s
      | none => s
    else s
  updLine 0 sig n (fun x =>
    let c := ngetD j ({ data := data } : Cell) x.cells
    let c :=
      if c.upd.isSome then { c with shadow := some (data, s.core.imp, s.seq), shWt := wt && (c.shWt || c.shadow.isNone) }
      else { c with data := data, never := never, dirty := true, since := if c.dirty then c.since else s.core.imp, ord := if c.dirty then c.ord else s.seq, wt := wt && (c.wt || !c.dirty) }
    { x with cells := nset j c x.cells }) s

/-- A write of one block of a namespace: the line is made ready first; nothing when it has to wait. -/
def putBlock (sig : Nat) (stream wt : Bool) (s : State) (x : Nat × Blk) : Option State :=
  (readyLine sig (x.1 / 128) stream s).map fun s =>
    let s := writeCell sig x.1 x.2 false wt s
    if stream then s else touch 0 sig (x.1 / 128) s

/-- Blocks are written together, or wait together (R244). -/
def putBlocks (sig : Nat) (stream wt : Bool) (xs : List (Nat × Blk)) (s : State) : Option State := xs.foldlM (putBlock sig stream wt) s

/-- Whether every line of a run of blocks can take dirty data now (R244). -/
def canDirtyRun (sig lbn n : Nat) (s : State) : Bool :=
  (List.range ((lbn + n + 127) / 128 - lbn / 128)).all fun i => (readyLine sig (lbn / 128 + i) false s).isSome

/-- A block becomes clean: its line loses its duplex with its last dirty sector (R242). -/
def settleLine (sig num : Nat) (s : State) : State :=
  match findLine s 0 sig num with
  | none => s
  | some x =>
    let live := x.cells.any fun c => c.2.dirty || c.2.upd.isSome
    let shadows := x.cells.any fun c => c.2.shadow.isSome
    let s := if shadows ∨ x.shFrames.isEmpty then s else updLine 0 sig num (fun x => { x with shFrames := [] }) (giveFrames x.shFrames s)
    match x.duplex with
    | some d => if live then s else updLine 0 sig num (fun x => { x with duplex := none }) (giveFrame d s)
    | none => s

/-- Dirty blocks of the lines (R115): dirty sectors but those written through, and shadows. -/
def Line.dirtyCount (x : Line) : Nat :=
  (x.cells.map fun c => (if c.2.dirty && !c.2.wt then 1 else 0) + (if c.2.shadow.isSome && !c.2.shWt then 1 else 0)).sum

/-- Blocks of a command that are admitted and counted but not yet in a line: its data has not arrived, or an append has not
been assigned. -/
def Cmd.afloat (c : Cmd) : Nat :=
  if c.wt || c.bad.isSome then 0
  else match c.op with
    | .write => if c.storedAt.isSome then 0 else c.adm
    | .append => if c.storedAt.isSome then 0 else c.adm
    | _ => 0

/-- Blocks of a copy window count as dirty until its release (R207). -/
def windowBlocks (s : State) : Nat :=
  (s.sigs.map fun p => match p.2.rs with
    | some r => (match r.win with | some w => w.hi - w.lo | none => 0)
    | none => 0).sum

/-- The dirty bytes, in blocks (R115). -/
def State.dirty (s : State) : Nat :=
  ((allLines s).map Line.dirtyCount).sum + (s.cmds.map fun p => p.2.afloat).sum + windowBlocks s

/-- Blocks of write-through staging (R118): admitted and not yet on the drives. -/
def State.staged (s : State) : Nat :=
  ((allLines s).map fun x => (x.cells.filter fun c => c.2.dirty && c.2.wt).length).sum +
    (s.cmds.map fun p => if p.2.wt && p.2.storedAt.isNone && p.2.bad.isNone then p.2.adm else 0).sum

/-! ### The commands of the cache -/

/-- The lines of a list of keys take age 0. -/
def youngest (ks : List Nat) (s : State) : State := { s with cs.tags := nmapv (fun k x => if ks.contains k then { x with age := 0 } else x) s.cs.tags }

/-- At every boundary the lines touched in the ending impression take age 0 (R245). -/
def stepTouched (s : State) : State :=
  let s := youngest s.cs.touched s
  { s with cs.touchedLast := s.cs.touched, cs.touched := [] }

/-- AGE_INCREMENT: at each multiple of AGE_PERIOD every valid entry ages, once, and the lines touched in the ending impression take age 0
after it (R245). -/
def doAgeIncrement (s : State) : State :=
  let p := s.get Reg.Cc.AGE_PERIOD
  if p > 0 ∧ s.core.imp % p = 0 ∧ s.cs.agedAt ≠ some s.core.imp then
    youngest s.cs.touchedLast { s with cs.tags := nmapv (fun _ x => { x with age := min 3 (x.age + 1) }) s.cs.tags, cs.agedAt := some s.core.imp }
  else s

/-- One set of the reclaimer: its eligible age-3 lines whose primary frame lies in the channel (R244). -/
def reclaimSet (c : Nat) (set : Nat) (s : State) : State :=
  let w := caseWays s
  (List.range w).foldl (fun s i =>
    let k := set * w + i
    match nfind k s.cs.tags with
    | some x =>
      if x.eligible ∧ x.age = 3 ∧ !x.retain ∧ x.primary / 131072 = c then
        match evict x false none s with
        | some s => ({ s with cs.tags := ndel k s.cs.tags } : State).bump Reg.Cc.VICTIMS
        | none => s.raise Reg.Cc.EVB_FULL
      else s
    | none => s) s

/-- RECLAIM: once a channel has fallen below 256 free frames, 64 sets are walked each time until it holds 512 (R244). -/
def doReclaim (c : Nat) (s : State) : State :=
  if (s.chan c).st ≤ 2 ∧ (freeFrames s c < 256 ∨ (s.chan c).reclaim) then
    let n := caseSets s
    let s := (List.range 64).foldl (fun s i => if freeFrames s c < 512 then reclaimSet c ((s.cs.reclaimAt + i) % n) s else s) s
    let s := { s with cs.reclaimAt := (s.cs.reclaimAt + 64) % n }
    s.setChan c { s.chan c with reclaim := decide (freeFrames s c < 512) }
  else s

/-- EVB_DROP: a drop leaves the eviction buffer at the boundary after it entered it, unless a read from it runs (R248). -/
def doEvbDrop (i : Nat) (s : State) : State :=
  match nfind i s.cs.evb with
  | some e =>
    if !e.writeBack ∧ s.core.imp > e.at_ ∧ !e.line.fillPending then
      { giveFrames ([e.line.primary] ++ e.line.duplex.toList ++ e.line.shFrames) s with cs.evb := ndel i s.cs.evb }
    else s
  | none => s

/-- PROBE_GO: the line named by the probe registers is looked up and the results are written (R255). -/
def doProbeGo (s : State) : State :=
  let s := s.pulse Reg.Cc.PROBE_GO
  let g := s.get Reg.Cc.PROBE_SIG
  let k := s.get Reg.Cc.PROBE_KIND
  let l := s.get Reg.Cc.PROBE_LINE_LO + 2 ^ 32 * s.get Reg.Cc.PROBE_LINE_HI
  let hit := findTag s k g l
  let e := (findEvb s k g l).map fun p => p.2.line
  let x := (hit.map (·.2)) <|> e
  let s := s.put Reg.Cc.PROBE_SET (lineSet s k g l)
  let s := (s.put Reg.Cc.PROBE_WAY ((hit.map fun p => p.1 % caseWays s).getD 0)).put Reg.Cc.PROBE_AGE ((x.map (·.age)).getD 0)
  let s := (s.putB Reg.Cc.PROBE_HIT hit.isSome).putB Reg.Cc.PROBE_DIRTY (x.any Line.dirty)
  let s := (s.putB Reg.Cc.PROBE_EVB e.isSome).putB Reg.Cc.PROBE_PIN (x.any fun x => x.pin || x.retain)
  let s := (s.put Reg.Cc.PROBE_FRAME ((x.map (·.primary)).getD 0)).put Reg.Cc.PROBE_DUPLEX ((x.bind (·.duplex)).getD 0)
  s.putB Reg.Cc.PROBE_DUP_VALID (x.any fun x => x.duplex.isSome && x.dirty)

/-- RE_DUPLEX: dirty lines left single by the loss of a channel get a new duplex frame, in ascending order (R243). -/
def doReDuplex (s : State) : State :=
  let single := s.cs.tags.filter fun p => p.2.dirty && p.2.duplex.isNone && chanDirty s (p.2.primary / 131072)
  let s' := single.foldl (fun s p =>
    match roomiest s ((List.range 4).filter fun c => c != p.2.primary / 131072 && chanDirty s c) with
    | some c => let f := takeFrame c s; { f.2 with cs.tags := nset p.1 { p.2 with duplex := some f.1 } f.2.cs.tags }
    | none => s) s
  let n := single.length
  if n > 0 ∧ ((List.range 4).filter fun c => chanDirty s c).length ≥ 2 then s'.log 0x4008 noDev ([0] ++ leBytes 4 n) else s'

/-- R243: a channel leaves service: its clean lines are invalidated, its dirty lines keep their other frame. -/
def loseChannel (c : Nat) (s : State) : State :=
  let inC (f : Nat) : Bool := f / 131072 == c
  let gone := s.cs.tags.filter fun p => !p.2.dirty && !(p.2.cells.any fun x => x.2.upd.isSome) && inC p.2.primary
  let keep (x : Line) : Line :=
    match x.duplex with
    | some d => if inC x.primary then { x with primary := d, duplex := none } else if inC d then { x with duplex := none } else x
    | none => x
  let tags := (s.cs.tags.filter fun p => !(gone.any fun q => q.1 == p.1)).map fun p => (p.1, keep p.2)
  let evb := s.cs.evb.filter fun p => !(!p.2.writeBack && inC p.2.line.primary)
  let s := faultItem (s.setChan c { s.chan c with used := [], queue := [], testAt := none })
  ({ s with cs.tags := tags, cs.evb := evb.map fun p => (p.1, { p.2 with line := keep p.2.line }) } : State).log 0x4008 noDev ([c] ++ leBytes 4 gone.length)

def execAgeIncrement (s : State) : Host.Outcome State Fault Refusal := .next (whenOn doAgeIncrement s)
def execReclaim (c : ChIx) (s : State) : Host.Outcome State Fault Refusal := .next (whenOn (doReclaim c.val) s)
def execEvbDrop (i : Nat) (s : State) : Host.Outcome State Fault Refusal := .next (whenOn (doEvbDrop i) s)
def execReDuplex (s : State) : Host.Outcome State Fault Refusal := .next (whenOn doReDuplex s)
def execProbeGo (s : State) : Host.Outcome State Fault Refusal := .next (whenOn doProbeGo s)

end Sys2Proof.Machine
end

