-- ==== Sys2Proof/Machine/Operands.lean ====
section
/-!
DEFINITION. What the operands of commands name: namespaces, zones, sheets of either layout of a reshape, the place of a folio,
regions of the bitmap, and the blocks that count as written, lost or gone.
-/

namespace Sys2Proof.Machine

/-- Source of an event of a signature, with the drive index it concerns or none (Table 16.4). -/
def srcSig (g : Nat) (d : Nat := 0xFF) : Nat := g * 65536 + d * 256

/-! ### Images, namespaces, zones -/

/-- The image in force. -/
def imgOf (s : State) : Option Img := s.img.eff

/-- The imposition of a signature in force: the target one during a reshape (R204). -/
def impOf (s : State) (g : Nat) : Option Imposition := (imgOf s).bind fun m => nfind g m.imps

/-- The members of a signature: during a reshape, those that either layout has; they agree where both have one (R201). -/
def membersOf (s : State) (g : Nat) : List Member :=
  match impOf s g with
  | some i => (match (s.sigSt g).rs with | some r => i.members ++ r.src.members.drop i.members.length | none => i.members)
  | none => []

/-- Drive port of a member. -/
def memPort (s : State) (g d : Nat) : Nat := (((membersOf s g)[d]?).map (·.port)).getD 0

/-- The parameters of a signature. -/
def parOf (s : State) (g : Nat) : SigPar := ((imgOf s).bind fun m => nfind g m.pars).getD ⟨4, 0, 2000, 30, false, []⟩

/-- A namespace, by index. -/
def nsOf (s : State) (n : Nat) : Option NsSec := (imgOf s).bind fun m => nfind n m.nss

/-- A namespace with the imposition of its signature. -/
def nsImp (s : State) (n : Nat) : Option (NsSec × Imposition) := (nsOf s n).bind fun x => (impOf s x.sig).map fun i => (x, i)

/-- First sig_lbn and size in blocks of a namespace; a reshape keeps both (R205). -/
def nsStart (s : State) (n : Nat) : Nat := ((nsImp s n).map fun p => p.1.start p.2).getD 0
def nsSize (s : State) (n : Nat) : Nat := ((nsImp s n).map fun p => p.1.size p.2).getD 0
def nsSig (s : State) (n : Nat) : Nat := ((nsOf s n).map (·.sig)).getD 0
def nsZoned (s : State) (n : Nat) : Bool := (nsOf s n).any (·.zoned)
def nsEvidence (s : State) (n : Nat) : Bool := (nsOf s n).any (·.evidence)

/-- ZSZE of a zoned namespace, 1 where there is none. -/
def zsze (s : State) (n : Nat) : Nat := max 1 (((nsImp s n).map fun p => p.1.zoneBlocks p.2).getD 1)

/-- Zones of a namespace. -/
def zoneCount (s : State) (n : Nat) : Nat := nsSize s n / zsze s n

/-- Key of a zone. -/
def zoneKey (n z : Nat) : Nat := n * 2 ^ 32 + z

def State.zone (s : State) (k : Nat) : Zone := ngetD k {} s.zn.zones
def State.setZone (s : State) (k : Nat) (z : Zone) : State := { s with zn.zones := nset k z s.zn.zones }
def State.updZone (s : State) (k : Nat) (f : Zone → Zone) : State := s.setZone k (f (s.zone k))

/-- First sig_lbn of a zone by its key. -/
def zoneLbn (s : State) (k : Nat) : Nat := nsStart s (k / 2 ^ 32) + k % 2 ^ 32 * zsze s (k / 2 ^ 32)

/-- The namespace that holds a block of a signature. -/
def nsOfLbn (s : State) (g lbn : Nat) : Option Nat :=
  ((imgOf s).bind fun m => m.nss.find? fun p => p.2.sig == g && nsStart s p.1 ≤ lbn && lbn < nsStart s p.1 + nsSize s p.1).map (·.1)

/-- The zone that holds a block, by key; none in a conventional namespace and outside namespaces. -/
def zoneOfLbn (s : State) (g lbn : Nat) : Option Nat :=
  (nsOfLbn s g lbn).bind fun n => if nsZoned s n then some (zoneKey n ((lbn - nsStart s n) / zsze s n)) else none

/-- Whether a zone is open: it has an entry of the open-zone table. -/
def Zone.isOpen (z : Zone) : Bool := z.st == .implicit || z.st == .explicit

/-- Whether a zone is active (R70). -/
def Zone.isActive (z : Zone) : Bool := z.isOpen || z.st == .closed

/-- Whether a block of a zone lies in its written extent: below the write pointer, or the colophon of a sealed zone (R121). -/
def inExtent (s : State) (k lbn : Nat) : Bool :=
  let z := s.zone k
  let o := lbn - zoneLbn s k
  o < z.fill || (z.sealed && o + 1 == zsze s (k / 2 ^ 32))

/-- Whether a block of a signature may be written on the drives: every block of a conventional namespace and of the metadata
area, and the written extent of a zone. -/
def mayBeWritten (s : State) (g lbn : Nat) : Bool :=
  match nsOfLbn s g lbn with
  | none => match impOf s g with | some i => decide (lbn < i.meta_ * i.sheetBlocks) | none => false
  | some _ => match zoneOfLbn s g lbn with | some k => inExtent s k lbn | none => true

/-! ### Sheets of either layout -/

/-- Number under which a source sheet of a reshape is known; target sheets are known by their index. -/
def srcBit : Nat := 2 ^ 48

/-- Layout and index of a sheet as it is known. -/
def layOf (s : State) (g t : Nat) : Option (Imposition × Nat) :=
  if t ≥ srcBit then (s.sigSt g).rs.map fun r => (r.src, t - srcBit) else (impOf s g).map fun i => (i, t)

/-- Whether a block lies in the source layout of a reshape (R205). -/
def inSource (s : State) (g lbn : Nat) : Bool :=
  match (s.sigSt g).rs with
  | some r => if r.up then decide (lbn ≥ r.b) else decide (lbn < r.b)
  | none => false

/-- The sheet that holds a block, as it is known. -/
def sheetOfLbn (s : State) (g lbn : Nat) : Nat :=
  if inSource s g lbn then srcBit + (((s.sigSt g).rs.map fun r => r.src.sheetOf lbn).getD 0)
  else ((impOf s g).map fun i => i.sheetOf lbn).getD 0

/-- Blocks of a sheet: first sig_lbn, and how many. -/
def sheetSpan (s : State) (g t : Nat) : Nat × Nat :=
  match layOf s g t with
  | some (i, u) => (u * i.sheetBlocks, i.sheetBlocks)
  | none => (0, 0)

/-- Folio blocks and k of a sheet's layout. -/
def sheetFb (s : State) (g t : Nat) : Nat := max 1 (((layOf s g t).map fun p => p.1.fb).getD 1)
def sheetK (s : State) (g t : Nat) : Nat := ((layOf s g t).map fun p => p.1.k).getD 0

/-- sig_lbn of data position `p`, block `b`. -/
def lbnAt (s : State) (g t p b : Nat) : Nat := (sheetSpan s g t).1 + p * sheetFb s g t + b

/-- A sheet that lies wholly inside the metadata area or some namespace, or touches one. -/
def sheetHeld (s : State) (g t : Nat) : Bool :=
  let sp := sheetSpan s g t
  match impOf s g with
  | none => false
  | some i => sp.1 < i.meta_ * i.sheetBlocks || (nsOfLbn s g sp.1).isSome

/-- Whether R145 skips a sheet: outside the metadata area and every namespace, or zoned with nothing written. -/
def skipSheet (s : State) (g t : Nat) : Bool :=
  let sp := sheetSpan s g t
  !sheetHeld s g t ||
    (match zoneOfLbn s g sp.1 with
     | some k =>
       let z := s.zone k
       let o := sp.1 - zoneLbn s k
       !(o < z.fill) && !(z.sealed && o + sp.2 == zsze s (k / 2 ^ 32))
     | none => false)

/-- Whether a data folio of a sheet is absent: no block of it in the written extent of its zone (R121). -/
def absentFolio (s : State) (g t p : Nat) : Bool :=
  let l := lbnAt s g t p 0
  let fb := sheetFb s g t
  match zoneOfLbn s g l with
  | none => false
  | some k =>
    let z := s.zone k
    let o := l - zoneLbn s k
    !(o < z.fill) && !(z.sealed && o + fb == zsze s (k / 2 ^ 32))

/-! ### The hellbox as a set (R162) -/

def inHb (s : State) (g lbn : Nat) : Bool := (s.sigSt g).k.hb.any fun e => e.1 ≤ lbn && lbn < e.1 + e.2.1

/-! ### Regions (R136, R206) -/

def regionSheets (s : State) (g : Nat) : Nat :=
  match layOf s g ((s.sigSt g).rs.map (fun _ => srcBit) |>.getD 0) with
  | some (i, _) => max 1 ((parOf s g).regionGib * 262144 / max 1 i.sheetBlocks)
  | none => 1

/-- Blocks of one region. -/
def regionBlocks (s : State) (g : Nat) : Nat :=
  match layOf s g ((s.sigSt g).rs.map (fun _ => srcBit) |>.getD 0) with
  | some (i, _) => max 1 (regionSheets s g * i.sheetBlocks)
  | none => 1

def regionCount (s : State) (g : Nat) : Nat := ((s.sigSt g).sheets + regionSheets s g - 1) / regionSheets s g

/-- The regions that a sheet's data touches. -/
def regionsOf (s : State) (g t : Nat) : List Nat :=
  let sp := sheetSpan s g t
  let r := regionBlocks s g
  (List.range ((sp.1 + max 1 sp.2 - 1) / r + 1 - sp.1 / r)).map fun j => sp.1 / r + j

/-! ### Members and the place of a folio (R181, R230, R473) -/

def State.setSig (s : State) (g : Nat) (x : Sig) : State := { s with sigs := nset g x s.sigs }
def State.updSig (s : State) (g : Nat) (f : Sig → Sig) : State := s.setSig g (f (s.sigSt g))
def State.updKeep (s : State) (g : Nat) (f : SigKeep → SigKeep) : State := s.updSig g fun x => { x with k := f x.k }
def State.setDrv (s : State) (p : Nat) (d : Drv) : State := { s with drvs := nset p d s.drvs }
def State.updDrv (s : State) (p : Nat) (f : Drv → Drv) : State := s.setDrv p (f (s.drivePort p))

/-- What is kept of a member. -/
def memOf (s : State) (g d : Nat) : Mem := ngetD d {} (s.sigSt g).k.mems
def setMem (g d : Nat) (m : Mem) (s : State) : State := s.updKeep g fun k => { k with mems := nset d m k.mems }

/-- Whether a row holds a drive in a sheet position. -/
def rowHolds (i : Imposition) (t d : Nat) : Bool := (i.posIn t d).isSome

/-- placed(e, t) of R181; `t` is the index in the entry's own layout. -/
def placed (i : Imposition) (e : FailEnt) (t : Nat) : Bool :=
  e.low ≤ t && t < e.high &&
    (t < e.n || e.wins.any fun w => w.lo ≤ t && t < w.pos && w.mask.any fun d => rowHolds i t d)

/-- The entry of a failed member whose range holds a sheet. -/
def entryOf (s : State) (g d : Nat) (old : Bool) (t : Nat) : Option (Nat × FailEnt) :=
  (s.sigSt g).k.ents.find? fun p => p.2.drive == d && p.2.old == old && p.2.low ≤ t && t < p.2.high

/-- The port of a drive index in a layout, and whether its drive works. -/
def portServes (s : State) (i : Imposition) (d : Nat) : Bool := (s.drivePort (i.portOf d)).inService

/-- Where a folio lives (R181, R183): drive index and data-area position of its first block; none while it is lost. For a read
a position that awaits catch-up is lost; a write goes there (R232). -/
def locate (s : State) (g t p : Nat) (forRead : Bool) : Option (Nat × Nat) :=
  match layOf s g t with
  | none => none
  | some (i, u) =>
    let d := i.driveAt u p
    let m := memOf s g d
    if m.failed then
      match entryOf s g d (t ≥ srcBit) u with
      | none => none
      | some (_, e) =>
        let own := if portServes s i d then some (d, i.dataPos u p) else none
        if e.st == .copyback && u < e.y then own
        else if !placed i e u then none
        else if e.direct then own
        else
          match e.level with
          | none => none
          | some q =>
            let sd := i.spareDrive u q
            if e.dead.contains sd || !portServes s i sd || (memOf s g sd).failed || (memOf s g sd).absentAt.isSome then none
            else some (sd, i.sparePos u d q)
    else if m.absentAt.isSome && !m.catching then none
    else if forRead && m.catching && (regionsOf s g t).any (fun r => m.missed.contains r) then none
    else if portServes s i d then some (d, i.dataPos u p) else none

/-- Drive port and LBA of a block of a folio. -/
def driveLba (s : State) (g t : Nat) (at_ : Nat × Nat) (b : Nat) : Nat × Nat :=
  match layOf s g t with
  | some (i, _) => (i.portOf at_.1, i.lbaOf at_.1 (at_.2 + b))
  | none => (0, 0)

/-- A member is unrestored: failed or absent with a folio that is lost (R175). Judged by its entries and its absence. -/
def unrestored (s : State) (g d : Nat) : Bool :=
  let m := memOf s g d
  if m.failed then
    let es := (s.sigSt g).k.ents.filter fun p => p.2.drive == d
    m.noEntry || es.any fun p => p.2.st == .wait || p.2.st == .rebuild || p.2.unplaced > 0 || (p.2.st == .format && p.2.prev != .rebuilt)
  else m.absentAt.isSome

/-- The unrestored members of a signature. -/
def unrestoredList (s : State) (g : Nat) : List Nat := ((s.sigSt g).k.mems.map (·.1)).filter fun d => unrestored s g d

/-- Spare levels held by entries of a signature (R180). -/
def levelsUsed (s : State) (g : Nat) : List Nat := ((s.sigSt g).k.ents.filterMap fun p => p.2.level).eraseDups

/-- Whether a signature has used all its distributed spare (R180). -/
def spareUsedUp (s : State) (g : Nat) : Bool :=
  let n := ((impOf s g).map (·.s)).getD 0
  (n ≥ 1 && decide ((levelsUsed s g).length ≥ n)) || ((s.sigSt g).k.ents.any fun p => p.2.st == .wait) || ((s.sigSt g).k.mems.any fun p => p.2.failed && p.2.noEntry)

/-- Insert into a list without repeats. -/
def addTo (x : Nat) (l : List Nat) : List Nat := if l.contains x then l else insertBy id x l

/-! ### What is in flight on a sheet (R127, R159, R188) -/

def updOn (s : State) (g t : Nat) : Option (Nat × Upd) := s.upds.find? fun p => p.2.sig == g && p.2.sheet == t
def repairOn (s : State) (g t : Nat) : Bool := s.repairs.any fun r => r.sig == g && r.sheet == t && r.stage > 0
def walkOn (s : State) (g t : Nat) : Bool := s.walks.any fun w => w.sig == g && w.sheet == t
def sheetBusy (s : State) (g t : Nat) : Bool := (updOn s g t).isSome || repairOn s g t || walkOn s g t

/-- The copy window that holds a block. -/
def windowOf (s : State) (g lbn : Nat) : Option CopyWin :=
  ((s.sigSt g).rs.bind (·.win)).filter fun w => w.lo ≤ lbn && lbn < w.hi

/-! ### Check fields of a block (R103 to R106) -/

/-- Application tag of a sheet; 0 outside every area. -/
def appTagOf (s : State) (g t : Nat) : Nat :=
  match imgOf s, layOf s g t with
  | some m, some (i, u) =>
    if u * i.sheetBlocks < i.meta_ * i.sheetBlocks then 0xFFFD
    else match nsOfLbn s g (u * i.sheetBlocks) with
      | some n =>
        let l := u * i.sheetBlocks - nsStart s n
        if nsZoned s n then n * 1024 + l / zsze s n % 1021 else n * 1024 + l / 262144 % 1021
      | none => (m.appTag i u).getD 0
  | _, _ => 0

/-- The data key of a signature as it is held. -/
def keyOf (s : State) (g : Nat) : Nat := (nfind g s.sec.dataKeys).getD 0

/-- A block as it goes to a drive: encrypted, with its check fields; a never-written block as zeros with 0xFFFF (R103 to
R106). -/
def toDrive (s : State) (g t p b : Nat) (v : RdVal) : WireBlk :=
  match layOf s g t with
  | none => ⟨0, 0, 0, 0⟩
  | some (i, u) =>
    if v.never then ⟨0, 0, neverTag, i.refTag u p b⟩
    else ⟨Config.xtsEncrypt (keyOf s g) (i.unitNo u p b) v.data, guardOf v.data, appTagOf s g t, i.refTag u p b⟩

/-- What a drive's block is (R150, R151): verified, never written, or failed, silently or as a medium error. -/
inductive BlkSays where
  | good (v : RdVal) | medium | silent
  deriving DecidableEq, Repr

/-- The verification of R150 and R151 of a block read at a position of a sheet. -/
def verify (s : State) (g t p b : Nat) (x : RdBlk) : BlkSays :=
  match layOf s g t with
  | none => .silent
  | some (i, u) =>
    if !x.readable then .medium
    else
      let isData := decide (p < i.k)
      let l := lbnAt s g t p b
      let mustBe := isData && (zoneOfLbn s g l).any fun k => inExtent s k l
      if x.app = neverTag then (if mustBe then .silent else .good ⟨0, true, false⟩)
      else
        let d := Config.xtsDecrypt (keyOf s g) (i.unitNo u p b) x.raw
        if x.guard = guardOf d ∧ x.app = appTagOf s g t ∧ x.ref = i.refTag u p b then .good ⟨d, false, false⟩ else .silent

end Sys2Proof.Machine
end

