-- ==== Sys2Proof/Machine/Pairs.lean ====
section
/-!
DEFINITION. Compared pairs and switch-over (chapter 14): forming, the output gate, the steps of a switch-over, verdicts,
spares, transients, simplex pairs, double faults and the engine record.
-/

namespace Sys2Proof.Machine

/-- Type of an engine: 0 compositor core, 1 press, 2 front-end protocol engine (Table 14.1). -/
def engType (e : Nat) : Nat := if e < 8 then 0 else if e < 28 then 1 else 2

/-- Type of a pair (Table 14.1). -/
def pairType (p : Nat) : Nat := if p < 3 then 0 else if p < 12 then 1 else 2

/-- Default members of a pair (Table 14.1). -/
def defaultMembers (p : Nat) : Nat × Nat :=
  if p < 3 then (2 * p, 2 * p + 1) else if p < 12 then (8 + 2 * (p - 3), 9 + 2 * (p - 3)) else (28 + 2 * (p - 12), 29 + 2 * (p - 12))

/-- A pair, and an engine, of the state. -/
def State.pair (s : State) (p : Nat) : Pair := ngetD p {} s.prs.pairs
def State.engine (s : State) (e : Nat) : Engine := ngetD e {} s.prs.engines

def State.setPair (s : State) (p : Nat) (q : Pair) : State := { s with prs.pairs := nset p q s.prs.pairs }
def State.setEngine (s : State) (e : Nat) (q : Engine) : State := { s with prs.engines := nset e q s.prs.engines }

/-- Whether an engine is a member of some pair. -/
def isMember (s : State) (e : Nat) : Bool := s.prs.pairs.any fun p => p.2.a == some e || p.2.b == some e

/-- The usable spares of a type, in order of use (R323, R334). -/
def spares (s : State) (t : Nat) : List Nat :=
  (List.range 33).filter fun e => engType e == t && !(s.engine e).retired && (s.engine e).lastPass && !isMember s e

/-- Members in register order: member A has the lower engine number (R323). -/
def ordered (x y : Option Nat) : Option Nat × Option Nat :=
  match x, y with
  | some a, some b => if a ≤ b then (some a, some b) else (some b, some a)
  | none, some b => (some b, none)
  | x, none => (x, none)

/-- Retire an engine (R331, R332, R334, R338). -/
def retire (e cause : Nat) (s : State) : State :=
  let s := s.setEngine e { s.engine e with retired := true, cause := cause, testing := false }
  let s := { s with prs.recDue := true }
  (s.raise Reg.Cp.ENG_RETIRED).log 0x3003 e [cause]

/-- Pairs whose switch-over or adoption is not over: their outputs are held (R329, R337). -/
def State.switching (s : State) : Bool := s.prs.pairs.any fun p => p.2.st == .switching || p.2.dying

/-- Release the PDUs withheld since I0, ahead of any produced later, once no release is waited for (R329, R337). -/
def releaseWithheld (s : State) : State :=
  if s.switching then s else { s with out := s.withheld ++ s.out, withheld := [] }

/-- A spare joins a pair, or the pair runs simplex on the member that stays (R328, R333). -/
def refill (p stay : Nat) (s : State) : State :=
  match spares s (pairType p) with
  | sp :: _ =>
    let m := ordered (some stay) (some sp)
    (s.setPair p { s.pair p with a := m.1, b := m.2 }).bump Reg.Cp.SPARE_LOADS
  | [] =>
    ((s.setPair p { s.pair p with a := some stay, b := none, lastTest := s.core.imp }).raise
      Reg.Cp.SIMPLEX_BEGAN).log 0x3004 stay [p]

/-- The pair that adopts a dead pair's work (R335): the lowest comparing pair of its type not in switch-over, else the
lowest simplex pair. -/
def adopterOf (s : State) (p : Nat) : Option Nat :=
  let same := (List.range 14).filter fun q => q != p && pairType q == pairType p
  match same.find? fun q => (s.pair q).st == .comparing with
  | some q => some q
  | none => same.find? fun q => (s.pair q).st == .simplex

/-- A double fault (R335, R336): the pair dies; its work is adopted, or the module enters SAFE with the type as operand. -/
def doubleFault (p : Nat) (s : State) : State :=
  let src := ((s.pair p).a <|> (s.pair p).b).getD 0
  match adopterOf s p with
  | some q =>
    let s := s.setPair p { s.pair p with st := .dead, dying := true, step := 3, adopter := some q, a := none, b := none, transient := false, again := false }
    (s.raise Reg.Cp.DOUBLE_FAULT).log 0x3005 src [p, q]
  | none =>
    let s := s.setPair p { s.pair p with st := .dead, dying := false, step := 0, adopter := none, a := none, b := none }
    let s := (s.raise Reg.Cp.DOUBLE_FAULT).log 0x3005 src [p, 0xF]
    { s with withheld := [], core.safeDue := some (1, pairType p != 0) }

/-- The verdict ends with a pair that reloads: its verdict is taken and it goes on to I4. -/
def reloaded (p : Nat) (transient : Bool) (s : State) : State :=
  s.setPair p { s.pair p with transient := transient, verdict := true }

/-- The count of transients charged to an engine in 24 operating hours (R331). -/
def trans24 (s : State) (e : Nat) : Nat := (s.engine e).buckets.sum

/-- Table 14.4, R332 and R337: the verdict of a switch-over at the boundary that ends I2. -/
def verdict (p : Nat) (passA passB : Bool) (s : State) : State :=
  let q := s.pair p
  match q.a, q.b with
  | some a, some b =>
    let note (row : Nat) (s : State) : State := s.log 0x3002 a [p, row]
    match passA, passB with
    | true, true =>
      let s := note 1 s
      if q.again then
        let bad := if trans24 s b > trans24 s a then b else a
        let good := if bad = a then b else a
        let s := retire bad 3 s
        if (spares s (pairType p)).isEmpty then doubleFault p s else reloaded p false (refill p good s)
      else
        match q.replace with
        | some e =>
          let good := if e = a then b else a
          reloaded p false (refill p good (s.setPair p { q with replace := none }))
        | none => reloaded p true (s.bump Reg.Cp.PAIR_TRANSIENTS)
    | true, false => reloaded p false (refill p a (retire b 1 (note 2 s)))
    | false, true => reloaded p false (refill p b (retire a 1 (note 3 s)))
    | false, false => doubleFault p (retire b 1 (retire a 1 (note 4 s)))
  | _, _ => s

/-- SWITCH_OVER_VERDICT: at the boundary that ends I2 (R328). -/
def doSwitchOverVerdict (p : Nat) (passA passB : Bool) (s : State) : State :=
  let q := s.pair p
  if q.st = .switching ∧ q.step = 3 ∧ !q.verdict then verdict p passA passB s else s

/-- Charge one transient to an engine; the seventeenth within 24 operating hours retires it (R330, R331). -/
def charge (p e : Nat) (s : State) : State :=
  let g := s.engine e
  let bs := match g.buckets with | [] => [1] | b :: bs => (b + 1) :: bs
  let s := (s.setEngine e { g with buckets := bs }).bump Reg.Cp.ENG_TRANS_TOTAL 1 e
  if trans24 s e ≥ 17 ∧ !(s.engine e).retired then
    (retire e 2 s).setPair p { s.pair p with replace := some e }
  else s

/-- HELD_IMPRESSION_RELEASE: the re-executed outputs compare equal and are released at the end of I4 (R328 to R330). -/
def doHeldImpressionRelease (p : Nat) (sigA sigB : Nat) (s : State) : State :=
  let q := s.pair p
  if q.st = .switching ∧ q.step = 5 ∧ q.verdict then
    let s := s.setPair p { q with st := if q.b.isNone then .simplex else .comparing, step := 0, verdict := false, transient := false, again := false, overA := false, overB := false }
    let s :=
      if q.transient then
        let s := if q.overA ∨ sigA ≠ q.sigA then (match q.a with | some e => charge p e s | none => s) else s
        if q.overB ∨ sigB ≠ q.sigB then (match q.b with | some e => charge p e s | none => s) else s
      else s
    releaseWithheld s
  else s

/-- ADOPTION_RELEASE: the held impression of a dead pair is released by its adopter at the end of I7 (R335). -/
def doAdoptionRelease (p : Nat) (s : State) : State :=
  let q := s.pair p
  if q.dying ∧ q.step = 8 then
    let s := s.setPair p { q with dying := false, step := 0, verdict := false }
    let s := if pairType p = 2 then { s with conns := nmapv (fun _ c => if c.pair = p then { c with pair := q.adopter.getD p } else c) s.conns } else s
    releaseWithheld s
  else s

/-- Step 2 of Table 1.4: every pair in switch-over goes to its next impression; I3 waits for the verdict, I5 and I8 for the
release. A retirement of R331 takes effect at the boundary after it (R331, R333). -/
def advancePair (q : Pair) : Pair :=
  if q.dying then { q with step := min 8 (q.step + 1) }
  else if q.st = .switching then
    let cap := if q.verdict then 5 else 3
    { q with step := min cap (q.step + 1) }
  else { q with skip := q.skip - 1 }

/-- R331: at the boundary after a retirement by transient count the pair is left out of one forme and a spare loads. -/
def replaceMember (p : Nat) (s : State) : State :=
  let q := s.pair p
  match q.replace with
  | some e =>
    if q.st = .switching then s
    else
      let good := if q.a = some e then q.b else q.a
      match good with
      | some g =>
        let s := s.setPair p { q with replace := none, skip := 1 }
        let s := refill p g s
        let q := s.pair p
        s.setPair p { q with st := if q.b.isNone then .simplex else .comparing }
      | none => s
  | none => s

/-- Steps of all pairs at a boundary. -/
def advancePairs (s : State) : State :=
  let s := { s with prs.pairs := nmapv (fun _ q => advancePair q) s.prs.pairs }
  (List.range 14).foldl (fun s p => replaceMember p s) s

/-- R325, R328, R332: a pair's outputs do not compare equal at the gate. `i0` is the impression that ends. -/
def mismatch (m : Mismatch) (s : State) : State :=
  let p := m.pair.val
  let q := s.pair p
  let i0 := s.core.imp - 1
  let started (again : Bool) (s : State) : State :=
    let s := s.setPair p { s.pair p with st := .switching, step := 1, verdict := false, transient := false, again := again, i0 := i0, sigA := m.sigA, sigB := m.sigB, overA := m.overrunA, overB := m.overrunB }
    (((faultItem s).bump Reg.Cp.MISMATCHES).raise Reg.Cp.MISMATCH).log 0x3001 (q.a.getD 0) ([p, m.kind] ++ leBytes 8 i0)
  match q.st with
  | .comparing => if q.skip > 0 then s else started false s
  | .switching => if q.step = 5 ∧ q.verdict then started q.transient s else s
  | .simplex =>
    if m.overrunA ∨ m.overrunB then
      if q.overran then doubleFault p s else ((faultItem s).setPair p { q with overran := true }).log 0x0003 0 (leBytes 8 i0)
    else s
  | .dead => s

/-- LAST_MM_PAIR, LAST_MM_KIND and LAST_MM_IMP: the lowest pair, and the lowest of its kinds (R325). -/
def lastMismatch (ms : List Mismatch) (s : State) : State :=
  let order (m : Mismatch) : Nat := m.pair.val * 8 + m.kind
  match sortBy order (ms.filter fun m => (s.pair m.pair.val).step = 1 && (s.pair m.pair.val).st == .switching) with
  | [] => s
  | m :: _ => ((s.put Reg.Cp.LAST_MM_PAIR m.pair.val).put Reg.Cp.LAST_MM_KIND m.kind).put Reg.Cp.LAST_MM_IMP (s.core.imp - 1)

/-- Steps 1 and 2 of Table 1.4. -/
def gate (ms : List Mismatch) (s : State) : State :=
  let s := advancePairs s
  let ms := sortBy (fun m => m.pair.val * 8 + m.kind) ms
  lastMismatch ms (ms.foldl (fun s m => mismatch m s) s)

/-- The operating hour. -/
def opHour (opImp : Nat) : Nat := opImp / 450000000

/-- TRANSIENT_HOUR_ROLL: an operating hour has ended; the oldest of the 24 buckets leaves the count (R331). -/
def doTransientHourRoll (s : State) : State :=
  if opHour s.core.opImp > s.prs.hourAt then
    { s with prs.engines := nmapv (fun _ e => { e with buckets := (0 :: e.buckets).take 24 }) s.prs.engines, prs.hourAt := s.prs.hourAt + 1 }
  else s

/-- SIMPLEX_SELF_TEST: every 125 000 imp a simplex member leaves two formes and tests itself (R333). -/
def doSimplexSelfTest (p : Nat) (pass : Bool) (s : State) : State :=
  let q := s.pair p
  if q.st = .simplex ∧ s.since q.lastTest ≥ 125000 then
    let s := s.setPair p { q with lastTest := s.core.imp, skip := 2 }
    if pass then s
    else
      let s := match q.a with | some e => retire e 1 s | none => s
      doubleFault p s
  else s

/-- SPARE_SELF_TEST: every 125 000 imp a usable spare tests itself (R334). -/
def doSpareSelfTest (e : Nat) (pass : Bool) (s : State) : State :=
  let g := s.engine e
  if !g.retired ∧ !isMember s e ∧ s.since g.lastTest ≥ 125000 then
    let s := s.setEngine e { g with lastTest := s.core.imp, lastPass := pass }
    if pass then s else retire e 1 s
  else s

/-- The engines retired, with their causes, as the engine record carries them (Table 14.6). -/
def retiredMap (s : State) : NMap Nat :=
  (s.prs.engines.filter fun p => p.2.retired).map fun p => (p.1, p.2.cause)

/-- ENGINE_RECORD_WRITE: generation G to slot G mod 2 of every half in service, at the first boundary after a retirement
(R338). -/
def doEngineRecordWrite (s : State) : State :=
  if s.prs.recDue ∧ s.halfOk then
    let g := s.prs.recGen + 1
    let s := s.eachHalf fun h => { h with engRecs := nset (g % 2) ⟨g, retiredMap s⟩ h.engRecs }
    ({ s with prs.recGen := g, prs.recDue := false } : State).log 0x3006 0 (leBytes 8 g ++ [0])
  else s

/-- The newest of the copies that both halves in service hold. -/
def newestEng (s : State) : Option EngRec :=
  let all := ((if s.st0.ok then s.st0.engRecs else []) ++ (if s.st1.ok then s.st1.engRecs else [])).map (·.2)
  all.foldl (fun b r => match b with | some x => if r.gen > x.gen then some r else b | none => some r) none

/-- SELF_TEST reads the engine record (R338). -/
def readEngineRecord (s : State) : State :=
  match newestEng s with
  | some r =>
    let es := (List.range 33).foldl (fun m e =>
      match nfind e r.retired with
      | some c => nupd e ({} : Engine) (fun g => { g with retired := true, cause := c }) m
      | none => m) s.prs.engines
    { s with prs.engines := es, prs.recGen := r.gen }
  | none => (s.raise Reg.Cp.RECORD_LOST).log 0x3006 0 (leBytes 8 0 ++ [1])

/-- Form one pair of a map (R324): an unusable member is replaced by the first usable spare of its type; without a spare the
pair runs simplex; with no usable member it is dead. `ms` are the members the map names, `taken` the engines the map names
for any pair. -/
def formPair (taken : List Nat) (p : Nat) (ms : Nat × Nat) (s : State) : State :=
  let ok (e : Nat) : Bool := !(s.engine e).retired
  let free := (spares s (pairType p)).filter fun e => !taken.contains e
  let pick (xs : List Nat) : State :=
    match xs with
    | x :: y :: _ =>
      let m := ordered (some x) (some y)
      s.setPair p { a := m.1, b := m.2, lastTest := s.core.imp }
    | [x] => ((s.setPair p { st := .simplex, a := some x, lastTest := s.core.imp }).raise Reg.Cp.SIMPLEX_BEGAN).log 0x3004 x [p]
    | [] => s.setPair p { st := .dead }
  pick ((if ok ms.1 then [ms.1] else []) ++ (if ok ms.2 then [ms.2] else []) ++ free)

/-- R324: form all pairs by a map; dead pairs are adopted. -/
def formPairs (map : List (Nat × Nat)) (s : State) : State :=
  let taken := map.flatMap fun m => [m.1, m.2]
  let s := { s with prs.pairs := [] }
  let s := (List.range 14).foldl (fun s p => formPair taken p (map.getD p (defaultMembers p)) s) s
  (List.range 14).foldl (fun s p =>
    if (s.pair p).st = .dead then s.setPair p { s.pair p with adopter := adopterOf s p } else s) s

/-- Whether a type has a pair that can work. -/
def typeAlive (s : State) (t : Nat) : Bool :=
  s.prs.pairs.any fun p => pairType p.1 == t && (p.2.st == .comparing || p.2.st == .simplex || p.2.st == .switching)

/-- SELF_TEST tests every engine and forms the pairs with the default map (R324, R390). -/
def testEngines (failed : List Nat) (s : State) : State :=
  let s := (List.range 33).foldl (fun s e =>
    let g := s.engine e
    if failed.contains e ∧ !g.retired then retire e 4 (s.setEngine e g)
    else s.setEngine e { g with lastPass := !failed.contains e, lastTest := s.core.imp }) s
  formPairs ((List.range 14).map defaultMembers) s

/-- Press pairs able to take items this impression (R309, R328, R335). -/
def pressPairs (s : State) : Nat :=
  ((List.range 14).filter fun p => pairType p == 1 && ((s.pair p).st == .comparing || (s.pair p).st == .simplex) && (s.pair p).skip == 0).length

/-- Whether some pair runs simplex, or is dead and adopted (Table 14.8). -/
def anySimplex (s : State) : Bool := s.prs.pairs.any fun p => p.2.st == .simplex
def anyDead (s : State) : Bool := s.prs.pairs.any fun p => p.2.st == .dead

/-! ### The commands -/

def execTransientHourRoll (s : State) : Host.Outcome State Fault Refusal := .next (whenOn doTransientHourRoll s)
def execSpareSelfTest (e : Fin 33) (pass : Bool) (s : State) : Host.Outcome State Fault Refusal :=
  .next (whenOn (doSpareSelfTest e.val pass) s)
def execEngineRecordWrite (s : State) : Host.Outcome State Fault Refusal := .next (whenOn doEngineRecordWrite s)

end Sys2Proof.Machine
end

