-- ==== Sys2Proof/Machine/FeOps.lean ====
section
/-!
DEFINITION. What the front-end families share: PDUs that leave by a connection, completions, asynchronous events, and the end
of a command.
-/

namespace Sys2Proof.Machine

/-! ### Keys -/

/-- Key of a command: its connection and command identifier. -/
def cmdKey (conn cid : Nat) : Nat := conn * 65536 + cid

def State.conn (s : State) (c : Nat) : Option Conn := nfind c s.conns
def State.updConn (s : State) (c : Nat) (f : Conn → Conn) : State :=
  match nfind c s.conns with
  | some x => { s with conns := nset c (f x) s.conns }
  | none => s
def State.cmd (s : State) (k : Nat) : Option Cmd := nfind k s.cmds
def State.setCmd (s : State) (k : Nat) (c : Cmd) : State := { s with cmds := nset k c s.cmds }
def State.updCmd (s : State) (k : Nat) (f : Cmd → Cmd) : State :=
  match nfind k s.cmds with
  | some c => s.setCmd k (f c)
  | none => s
def State.updCtrl (s : State) (c : Nat) (f : Ctrl → Ctrl) : State :=
  match nfind c s.ctrls with
  | some x => { s with ctrls := nset c (f x) s.ctrls }
  | none => s

def State.fePort (s : State) (p : Nat) : FePort := ngetD p {} s.fe
def State.updFe (s : State) (p : Nat) (f : FePort → FePort) : State := { s with fe := nset p (f (s.fePort p)) s.fe }

/-! ### PDUs and completions -/

/-- Whether the FPE pair of a connection withholds its PDUs (R66, R329). -/
def heldPdu (s : State) (conn : Nat) : Bool :=
  match s.conn conn with
  | some c => let q := s.pair c.pair; q.st == .switching || q.dying
  | none => false

/-- Something leaves by a port, or waits while priority flow control pauses the port (R34). -/
def transmit (p : Nat) (o : Out) (s : State) : State :=
  if (s.fePort p).pause.isSome then s.updFe p fun x => { x with txq := o :: x.txq } else s.emit o

/-- A PDU leaves by a connection, or waits until its FPE pair resumes (R66). -/
def State.pdu (s : State) (conn : Nat) (o : Out) : State :=
  if heldPdu s conn then { s with withheld := o :: s.withheld }
  else match s.conn conn with
    | some c => transmit c.port o s
    | none => s.emit o

/-- A frame leaves by a port; every frame counts. -/
def sendFrame (p : Nat) (f : FrameOut) (s : State) : State :=
  ((transmit p (.frame p f) s).bump Reg.FeP.TX_FRAMES 1 p).updFe p fun x => { x with tx := x.tx + 1 }

/-- A flow-control frame; a pause of the port's priority does not hold it. -/
def sendControl (p : Nat) (f : FrameOut) (s : State) : State :=
  ((s.emit (.frame p f)).bump Reg.FeP.TX_FRAMES 1 p).updFe p fun x => { x with tx := x.tx + 1 }

/-- The controller of a connection. -/
def ctrlOf (s : State) (conn : Nat) : Option Nat := ((s.conn conn).filter (·.connected)).map (·.cntlid)

/-- An error of a controller enters its Error Information log, the last 64 kept (Table 2.4). -/
def logError (conn cid sct sc lba ns : Nat) (s : State) : State :=
  match s.conn conn with
  | some c =>
    s.updCtrl c.cntlid fun x => { x with errCount := x.errCount + 1, errs := ((x.errCount + 1, c.qid, cid, sct * 256 + sc, lba, ns) :: x.errs).take 64 }
  | none => s

/-- A completion (CapsuleResp) leaves by the command's connection (R41). -/
def respond (conn cid sct sc dw0 : Nat) (s : State) : State :=
  let s := s.pdu conn (.resp conn cid sct sc dw0)
  if sct = 0 ∧ sc = 0 then s else logError conn cid sct sc 0 0 s

/-- Bytes that a command keeps in the ingress buffer: in-capsule data that is not admitted (R58), and what is reserved for its
outstanding Ready-to-Transfer PDUs (R57). -/
def Cmd.capBytes (c : Cmd) : Nat := if c.inCap && c.adm < c.nlb then c.nlb * c.wire else 0
def Cmd.r2tBytes (c : Cmd) : Nat := (c.r2ts.map fun r => r.2.1 * c.wire).sum

/-- The zone of a zone command or an append. -/
def Cmd.zone (s : State) (c : Cmd) : Nat := zoneKey c.ns (c.slba / zsze s c.ns)

/-- A command leaves: its units, its ingress space, its reservation, and the reserved length of an append that received no
LBA (R44, R49, R57, R75). -/
def removeCmd (k : Nat) (s : State) : State :=
  match s.cmd k with
  | none => s
  | some c =>
    let s := { s with cmds := ndel k s.cmds, units := s.units.filter fun u => u.cmd != k, ingress := s.ingress - c.capBytes, reserved := s.reserved - c.r2tBytes }
    if c.op = .append ∧ c.assigned.isNone ∧ !c.zones.isEmpty then
      s.updZone (c.zone s) fun z => { z with reserved := z.reserved - c.nlb }
    else s

/-- A command ends: its units are gone; it is completed unless its connection has closed (R49). -/
def endCmd (k sct sc dw0 : Nat) (s : State) : State :=
  match s.cmd k with
  | none => s
  | some c =>
    let s := removeCmd k s
    if c.silent then s else respond (k / 65536) (k % 65536) sct sc dw0 s

/-- A read that fails names its lowest failing LBA in the log (R157). -/
def endCmdAt (k sct sc lba : Nat) (s : State) : State :=
  match s.cmd k with
  | none => s
  | some c =>
    let s := removeCmd k s
    if c.silent then s else logError (k / 65536) (k % 65536) sct sc lba c.ns (s.pdu (k / 65536) (.resp (k / 65536) (k % 65536) sct sc 0))

/-! ### Asynchronous events (R55) -/

/-- Bit of the Asynchronous Event Configuration that enables an event: 0 to 7 a critical warning bit, 8 namespace attributes,
11 ANA change, 27 zone descriptors (the numbering of the NVMe specifications; PRESUMED). -/
def aecOn (x : Ctrl) (bit : Nat) : Bool := x.aec / 2 ^ bit % 2 == 1

/-- An event arises on some controllers; it is reported once an Asynchronous Event Request is outstanding. -/
def notice (bit : Nat) (who : Nat → Ctrl → Bool) (s : State) : State :=
  { s with ctrls := nmapv (fun i x => if who i x && aecOn x bit && !x.due.contains bit then { x with due := x.due ++ [bit] } else x) s.ctrls }

/-- Report the events due on one controller while it has requests outstanding. -/
def deliverTo (i : Nat) (s : State) : State :=
  match nfind i s.ctrls with
  | none => s
  | some x =>
    let n := min x.due.length x.aers.length
    let s := s.updCtrl i fun x => { x with due := x.due.drop n, aers := x.aers.drop n }
    ((x.aers.take n).zip (x.due.take n)).foldl (fun s p => endCmd (cmdKey x.admin p.1) 0 0 (Config.standardByte 0xAE p.2) s) s

/-- Report the events due on every controller (R63: at the boundary after the event). -/
def deliverAll (s : State) : State := (s.ctrls.map (·.1)).foldl (fun s i => deliverTo i s) s

/-- A zone enters the Changed Zone List of every controller (R89); the notice is armed again when the page is read. -/
def zoneChanged (k : Nat) (s : State) : State :=
  let n := k / 2 ^ 32
  let s := notice 27 (fun _ x => !(x.changed.any fun e => e.1 == n)) s
  { s with ctrls := nmapv (fun _ x => if x.changed.contains (n, k % 2 ^ 32) then x else { x with changed := (n, k % 2 ^ 32) :: x.changed }) s.ctrls }

/-- A 64-bit counter of Table 3.7, by its offset. -/
def countZn (off : Nat) (s : State) : State := { s with zn.cnt := nset off (ngetD off 0 s.zn.cnt + 1) s.zn.cnt }

end Sys2Proof.Machine
end

