-- ==== Sys2Proof/Machine/Hellbox.lean ====
section
/-!
DEFINITION. The hellbox (R162 to R168): additions with their merges and coalescing, removals, and the marking of the zones
that hold its blocks (R86, R164).
-/

namespace Sys2Proof.Machine

/-- Area of a block: 0 for the metadata area, else its namespace plus 1. -/
def hbArea (s : State) (g lbn : Nat) : Nat := match nsOfLbn s g lbn with | some n => n + 1 | none => 0

/-- Whether two adjacent extents may be one (R162). -/
def hbJoin (s : State) (g : Nat) (a b : Nat × Nat × Nat) : Bool :=
  a.1 + a.2.1 == b.1 && a.2.2 == b.2.2 && hbArea s g a.1 == hbArea s g b.1 && a.2.1 + b.2.1 ≤ 2 ^ 32 - 1

/-- Merge the adjacent extents of a sorted list. -/
def hbMerge (s : State) (g : Nat) : NMap (Nat × Nat) → NMap (Nat × Nat)
  | [] => []
  | x :: xs =>
    match hbMerge s g xs with
    | [] => [x]
    | y :: ys => if hbJoin s g (x.1, x.2) (y.1, y.2) then (x.1, (x.2.1 + y.2.1, x.2.2)) :: ys else x :: y :: ys

/-- The neighbours with the smallest gap in one area whose merge keeps the limit, the lower start first (R165); `no` is a pair
of starts left out. -/
def hbClosest (s : State) (g : Nat) (no : Option Nat) (m : NMap (Nat × Nat)) : Option Nat :=
  let pairs := m.zip (m.drop 1)
  let ok := pairs.filter fun p => hbArea s g p.1.1 == hbArea s g p.2.1 && p.2.1 + p.2.2.1 - p.1.1 ≤ 2 ^ 32 - 1 && no != some p.1.1
  let gap (p : (Nat × Nat × Nat) × (Nat × Nat × Nat)) : Nat := p.2.1 - (p.1.1 + p.1.2.1)
  (ok.foldl (fun b p => match b with | some q => if gap p < gap q then some p else b | none => some p) none).map fun p => p.1.1

/-- Coalesce at a start with the next extent: the result carries cause 6. -/
def hbJoinAt (a : Nat) : NMap (Nat × Nat) → NMap (Nat × Nat)
  | x :: y :: m => if x.1 = a then (x.1, (y.1 + y.2.1 - x.1, 6)) :: m else x :: hbJoinAt a (y :: m)
  | m => m

/-- R165: a list of more than 65 536 extents is coalesced once. -/
def hbFit (no : Option Nat) (g : Nat) (s : State) : State :=
  let m := (s.sigSt g).k.hb
  if m.length ≤ 65536 then s
  else
    match hbClosest s g no m with
    | none => s
    | some a =>
      let s := s.updKeep g fun k => { k with hb := hbJoinAt a k.hb }
      let n := (ngetD a (0, 0) (s.sigSt g).k.hb).1
      (s.raise Reg.Sig.HB_FULL g).log 0x5005 (srcSig g) (leBytes 8 a ++ leBytes 4 n ++ [1])

/-- The runs of consecutive numbers of a rising list. -/
def runsOf : List Nat → List (Nat × Nat)
  | [] => []
  | x :: xs =>
    match runsOf xs with
    | [] => [(x, 1)]
    | (y, n) :: r => if x + 1 = y then (x, n + 1) :: r else (x, 1) :: (y, n) :: r

/-- A zone gains a hellbox block: DAMAGED; a sealed zone is marked damaged later (R86, R164). -/
def damageZone (k : Nat) (s : State) : State :=
  let z := s.zone k
  let s := s.updZone k fun z => { z with damaged := true, damOp := if z.damaged then z.damOp else opTimeOf s.core.opImp }
  if z.sealed then
    let s := { s with zn.dszGen := nset (k / 2 ^ 32) (ngetD (k / 2 ^ 32) 0 s.zn.dszGen + 1) s.zn.dszGen }
    if z.later then s
    else
      let s := countZn 32 (s.updZone k fun z => { z with later := true })
      let s := (zoneChanged k s).raise Reg.Zn.DAMAGE_MARK
      s.log 0xA004 (k / 2 ^ 32) (leBytes 8 (k % 2 ^ 32 * zsze s (k / 2 ^ 32)))
  else s

/-- One run of blocks enters the hellbox (R164). -/
def hbAddRun (g cause : Nat) (s : State) (r : Nat × Nat) : State :=
  let s := s.updKeep g fun k => { k with hb := hbMerge s g (nset r.1 (r.2, cause) k.hb), hbGen := k.hbGen + 1 }
  let s := hbFit none g (s.updSig g fun x => { x with pendingSet := true, lossSeen := x.lossSeen || cause == 1 || cause == 5 })
  let s := (s.raise Reg.Sig.HB_ADD g).log 0x5004 (srcSig g) (leBytes 8 r.1 ++ leBytes 4 r.2 ++ [cause] ++ leBytes 8 (sheetOfLbn s g r.1 % srcBit))
  let s := { s with mediaErrs := s.mediaErrs + 1 }
  let ks := ((List.range r.2).filterMap fun j => zoneOfLbn s g (r.1 + j)).eraseDups
  ks.foldl (fun s k => damageZone k s) s

/-- Parity of a block offset is to be recomputed and written (R163). -/
def askParity (now t b : Nat) (m : NMap (Nat × List Nat)) : NMap (Nat × List Nat) :=
  match nfind t m with
  | some (at_, bs) => nset t (at_, addTo b bs) m
  | none => nset t (now, [b]) m

/-- Blocks enter the hellbox with a cause; the parity of their offsets is to be recomputed (R163, R164). -/
def hbAdd (g cause : Nat) (lbns : List Nat) (s : State) : State :=
  let new := sortBy id ((lbns.filter fun l => !inHb s g l).eraseDups)
  let s := (runsOf new).foldl (hbAddRun g cause) s
  new.foldl (fun s l =>
    let t := sheetOfLbn s g l
    s.updSig g fun x => { x with hbPar := askParity s.core.imp t (l % sheetFb s g t) x.hbPar }) s

/-- Take one block out of a list of extents. -/
def hbCut (l : Nat) : NMap (Nat × Nat) → NMap (Nat × Nat)
  | [] => []
  | (a, (n, c)) :: m =>
    if a ≤ l ∧ l < a + n then
      (if l > a then [(a, (l - a, c))] else []) ++ (if l + 1 < a + n then [(l + 1, (a + n - l - 1, c))] else []) ++ m
    else (a, (n, c)) :: hbCut l m

/-- Blocks leave the hellbox (R166); a split past the limit coalesces elsewhere. -/
def hbRemove (g : Nat) (lbns : List Nat) (s : State) : State :=
  let old := sortBy id ((lbns.filter fun l => inHb s g l).eraseDups)
  let s := old.foldl (fun s l =>
    let left := ((s.sigSt g).k.hb.find? fun e => e.1 ≤ l && l < e.1 + e.2.1).map (·.1)
    hbFit left g (s.updKeep g fun k => { k with hb := hbCut l k.hb })) s
  let s := (runsOf old).foldl (fun s r => s.log 0x5005 (srcSig g) (leBytes 8 r.1 ++ leBytes 4 r.2 ++ [0])) s
  if old.isEmpty then s else s.updSig g fun x => { x with pendingSet := true }

/-- Every block of a run leaves the hellbox (a zone reset). -/
def hbClear (g lo n : Nat) (s : State) : State :=
  let ext := (s.sigSt g).k.hb.filter fun e => e.1 < lo + n && lo < e.1 + e.2.1
  if ext.isEmpty then s
  else
    let keep := (s.sigSt g).k.hb.flatMap fun e =>
      if e.1 < lo + n && lo < e.1 + e.2.1 then
        (if e.1 < lo then [(e.1, (lo - e.1, e.2.2))] else []) ++
          (if lo + n < e.1 + e.2.1 then [(lo + n, (e.1 + e.2.1 - lo - n, e.2.2))] else [])
      else [e]
    let s := s.updSig g fun x => { x with pendingSet := true, k := { x.k with hb := keep } }
    ext.foldl (fun s e =>
      let a := max e.1 lo
      s.log 0x5005 (srcSig g) (leBytes 8 a ++ leBytes 4 (min (e.1 + e.2.1) (lo + n) - a) ++ [0])) s

/-- HB_SEL: an extent is latched (R174). -/
def doHbSel (g v : Nat) (s : State) : State :=
  let n := v % 65536
  let s := s.put Reg.Sig.HB_SEL n g
  let e := (s.sigSt g).k.hb[n]?
  let a := (e.map (·.1)).getD 0
  let s := s.putB Reg.Sig.HB_VALID e.isSome g
  let s := (s.put Reg.Sig.HB_START_LO (a % 2 ^ 32) g).put Reg.Sig.HB_START_HI (a / 2 ^ 32) g
  let s := (s.put Reg.Sig.HB_COUNT ((e.map (·.2.1)).getD 0) g).put Reg.Sig.HB_CAUSE ((e.map (·.2.2)).getD 0) g
  let area := if e.isSome then hbArea s g a else 1
  (s.putB Reg.Sig.HB_META (area == 0) g).put Reg.Sig.HB_NS (area - 1) g

def execHbSel (g : SigIx) (v : RegWord) (s : State) : Host.Outcome State Fault Refusal := .next (whenOn (doHbSel g.val v.toNat) s)

end Sys2Proof.Machine
end

