-- ==== Sys2Proof/Machine/Column.lean ====
section
/-!
DEFINITION. One block offset of a sheet as the module finds it (R121, R134, R150, R154, R163): what each position holds, which
positions are lost, and what R102 and R156 make of them. Reads, proofing, resynchronisation, rebuild and the write path share
it.
-/

namespace Sys2Proof.Machine

/-- What a position is at a block offset: counting as zero and not read, found, lost, failed in verification (silently or as a
medium error), or not yet read. -/
inductive PosVal where
  | zero | good (d : Blk) (never : Bool) | gone | bad (silent : Bool) | owed
  deriving DecidableEq, Repr

/-- Its block, where one is known. -/
def PosVal.blk? : PosVal → Option Blk
  | .zero => some 0
  | .good d _ => some d
  | _ => none

/-- Lost by R154. -/
def PosVal.lost : PosVal → Bool
  | .gone => true
  | .bad _ => true
  | _ => false

/-- Taken as never written. -/
def PosVal.never : PosVal → Bool
  | .zero => true
  | .good _ n => n
  | _ => false

/-- The sheet offset of a block of a data position. -/
def sheetOff (s : State) (g t p b : Nat) : Nat := p * sheetFb s g t + b

/-- What an update in flight has in the Case for a position, once its parity is computed (R134). -/
def updVal (s : State) (g t p b : Nat) : Option PosVal :=
  match updOn s g t with
  | none => none
  | some (_, u) =>
    if u.st = .prep then none
    else if p < sheetK s g t then
      ((nfind (sheetOff s g t p b) u.data) <|> (nfind (sheetOff s g t p b) u.old)).map fun v => .good v.data v.never
    else (nfind b u.par).map fun v => .good (if p = sheetK s g t then v.1 else v.2.1) v.2.2

/-- Whether the parity at an offset waits to be recomputed (R163). -/
def parityOwed (s : State) (g t b : Nat) : Bool := (nfind t (s.sigSt g).hbPar).any fun e => e.2.contains b

/-- Whether a block belongs to a write that is outstanding for a repair (R154). -/
def underRepair (s : State) (g t p b : Nat) : Bool :=
  s.repairs.any fun r => r.sig == g && r.sheet == t && r.pos == p && r.stage > 0 && (nfind b r.blocks).isSome

/-- What a position holds at an offset, from the blocks that were read and those already known to have failed. -/
def posVal (s : State) (g t b : Nat) (bad : List (Nat × Bool)) (got : List RdPos) (p : Nat) : PosVal :=
  if p ≥ sheetK s g t && parityOwed s g t b then .gone
  else match updVal s g t p b with
  | some v => v
  | none =>
    if p < sheetK s g t && (inHb s g (lbnAt s g t p b) || absentFolio s g t p) then .zero
    else if underRepair s g t p b then .gone
    else match locate s g t p true with
      | none => .gone
      | some _ =>
        match bad.find? fun x => x.1 == p with
        | some x => .bad x.2
        | none =>
          match got.find? fun x => x.pos == p with
          | none => .owed
          | some x => match verify s g t p b x.blk with
            | .good v => .good v.data v.never
            | .medium => .bad false
            | .silent => .bad true

/-- All positions of an offset: data, P, Q. -/
def lookAt (s : State) (g t b : Nat) (bad : List (Nat × Bool)) (got : List RdPos) : List PosVal :=
  (List.range (sheetK s g t + 2)).map (posVal s g t b bad got)

/-- The reads of an offset among those of an item. -/
def gotAt (reads : List RdOffset) (b : Nat) : List RdPos := ((reads.find? fun o => o.offset == b).map (·.got)).getD []

/-- The column of an offset. -/
def colOf (vs : List PosVal) : Column :=
  let k := vs.length - 2
  ⟨(vs.take k).map PosVal.blk?, (vs.getD k .gone).blk?, (vs.getD (k + 1) .gone).blk?⟩

/-- The second condition of R156. -/
def Column.agrees (c : Column) : Bool :=
  match (List.range c.data.length).filter fun i => (c.data.getD i none).isNone, c.p, c.q with
  | [x], some p, some q => (p ^^^ c.survP) == gfMulBlk (gfInv (gfPow x)) (q ^^^ c.survQ)
  | _, _, _ => true

/-- The whole column by R102, where at most two positions are unknown; with the check of R156 where it applies. -/
def solveAt (cross : Bool) (vs : List PosVal) : Option (List Blk × Blk × Blk) :=
  let c := colOf vs
  if cross && !c.agrees then none else c.solve

/-- Positions lost at an offset, and the data positions among them. -/
def lostPos (vs : List PosVal) : List Nat := (List.range vs.length).filter fun p => (vs.getD p .zero).lost
def lostData (vs : List PosVal) : List Nat := (lostPos vs).filter fun p => p < vs.length - 2

/-- Positions still to be read. -/
def owedPos (vs : List PosVal) : List Nat := (List.range vs.length).filter fun p => vs.getD p .zero == .owed

/-- Present positions whose block failed verification, with whether silently. -/
def badPos (vs : List PosVal) : List (Nat × Bool) :=
  (List.range vs.length).filterMap fun p => match vs.getD p .zero with | .bad x => some (p, x) | _ => none

/-- Whether every data block of an offset is taken as never written, lost ones left out. -/
def allNever (vs : List PosVal) : Bool := (vs.take (vs.length - 2)).all PosVal.never

/-- The data as it stands with lost blocks taken as zero (R163). -/
def zeroed (vs : List PosVal) : List Blk := (vs.take (vs.length - 2)).map fun v => v.blk?.getD 0

/-- The value of a position in a solved column. -/
def solvedAt (x : List Blk × Blk × Blk) (p : Nat) : Blk :=
  if p < x.1.length then x.1.getD p 0 else if p = x.1.length then x.2.1 else x.2.2

/-- Whether an offset of a sheet has a block of the written extent (R121): parity elsewhere is never written. -/
def offsetLive (s : State) (g t b : Nat) : Bool :=
  (List.range (sheetK s g t)).any fun p => match zoneOfLbn s g (lbnAt s g t p b) with
    | none => true
    | some k => inExtent s k (lbnAt s g t p b)

/-- The offsets that an item examines. -/
def liveOffsets (s : State) (g t : Nat) : List Nat := (List.range (sheetFb s g t)).filter fun b => offsetLive s g t b

/-- HB_UNKNOWN (R168): present positions that failed and would be restored to all-zero plaintext. -/
def unknownZeros (s : State) (g : Nat) (vs : List PosVal) (x : List Blk × Blk × Blk) : List Nat :=
  if (s.sigSt g).k.hbUnknown then ((badPos vs).map (·.1)).filter fun p => p < vs.length - 2 && solvedAt x p == 0 else []

/-- The first number from `t` on that satisfies a test, among `n`. -/
def firstFrom (f : Nat → Bool) : Nat → Nat → Option Nat
  | 0, _ => none
  | n + 1, t => if f t then some t else firstFrom f n (t + 1)

/-- How many of the `n` numbers from `t` on satisfy a test. -/
def countFrom (f : Nat → Bool) : Nat → Nat → Nat
  | 0, _ => 0
  | n + 1, t => (if f t then 1 else 0) + countFrom f n (t + 1)

/-- Whether the region of a sheet awaits resynchronisation, and the sheet has not been done (R146). -/
def resyncWaits (s : State) (g t : Nat) : Bool :=
  let x := s.sigSt g
  !x.early.contains t && (regionsOf s g t).any fun r => x.resync.contains r && !(x.resync.head? == some r && t < x.resyncPos)

end Sys2Proof.Machine
end

