-- ==== Sys2Proof/Machine/DriveOps.lean ====
section
/-!
DEFINITION. Commands to drives (R107, R109, R131, R153, R218, R219, R223, R230, R473): how a read or a write of blocks of a folio is
issued, what becomes of a write whose position is lost, and how an outstanding command ends.
-/

namespace Sys2Proof.Machine

/-- The states in which the drive ports run (Table 1.7). -/
def drivesRun (m : ModState) : Bool := m == .assemble || m == .pressRun || m == .hold || m == .release

/-- Where rebuild and resynchronisation items are taken (C5), and copyback and formats (C6) (Table 1.7). -/
def runsC5 (m : ModState) : Bool := m == .assemble || m == .pressRun || m == .hold
def runsC6 (m : ModState) : Bool := m == .pressRun || m == .hold

/-- Whether a port takes a new command now: a place under QDEPTH, and no self-test or reset of its link (R219, R223). -/
def takesCmd (d : Drv) : Bool := decide (d.cmds.length < d.qdepth) && d.test.isNone && !d.testDue && !d.ownReset

/-- Send one command that waits. -/
def sendCmd (p tag : Nat) (c : DrvCmd) (s : State) : State :=
  c.outs.foldl State.emit (s.updDrv p fun d => { d with cmds := nset tag { c with at_ := s.core.imp } d.cmds })

/-- Send the commands that wait for a place, in order. -/
def pumpN (p : Nat) : Nat → State → State
  | 0, s => s
  | n + 1, s =>
    let d := s.drivePort p
    match d.queue with
    | [] => s
    | (tag, c) :: q => if takesCmd d then pumpN p n (sendCmd p tag c (s.setDrv p { d with queue := q })) else s

def pump (p : Nat) (s : State) : State := pumpN p (s.drivePort p).queue.length s

/-- A command for a port: it is sent, or waits behind the others. -/
def giveCmd (p : Nat) (c : DrvCmd) (s : State) : State :=
  let s := { s with tagNo := s.tagNo + 1 }
  pump p (s.updDrv p fun d => { d with queue := d.queue ++ [(s.tagNo, c)] })

/-- Lines of a read in flight are FILL_PENDING (Table 10.3). -/
def setFill (v : Bool) (g t p b n : Nat) (s : State) : State :=
  if p < sheetK s g t then
    let l := lbnAt s g t p b
    (List.range ((l + n + 127) / 128 - l / 128)).foldl (fun s i =>
      let m := l / 128 + i
      let s := if v && (findLine s 0 g m).isNone then (newLine 0 g m false s).getD (waitCount 0 g m s) else s
      updLine 0 g m (fun x => { x with fillPending := v }) s) s
  else s

/-- A command ends. -/
def dropCmd (p tag : Nat) (s : State) : State :=
  let d := s.drivePort p
  let s := s.setDrv p { d with cmds := ndel tag d.cmds, queue := d.queue.filter fun x => x.1 != tag }
  match nfind tag d.cmds with
  | some c => if !c.write && c.use == .fg then setFill false c.sig c.sheet c.pos c.b0 c.n s else s
  | none => s

/-- A command completes on its drive: it counts, and the next one is sent. -/
def finishCmd (p tag : Nat) (s : State) : State :=
  match nfind tag (s.drivePort p).cmds with
  | some c => pump p ((dropCmd p tag s).bump (if c.write then Reg.Drv.WRITE_CMDS else Reg.Drv.READ_CMDS) 1 p)
  | none => s

/-- Complete every command of a kind for a place (a sheet and, where given, a position). -/
def finishAll (use : DrvUse) (g t : Nat) (pos : Option Nat) (s : State) : State :=
  let hit (c : DrvCmd) : Bool := c.use == use && c.sig == g && c.sheet == t && (pos == none || pos == some c.pos)
  s.drvs.foldl (fun s d => d.2.cmds.foldl (fun s c => if hit c.2 then finishCmd d.1 c.1 s else s) s) s

/-! ### Reads -/

/-- Issue one read of blocks of a folio (R107, R153); nothing when its position has no place. -/
def issueRead (use : DrvUse) (g t p b n : Nat) (s : State) : State :=
  match locate s g t p true with
  | none => s
  | some at_ =>
    let x := driveLba s g t at_ b
    let s := if use = .fg then setFill true g t p b n s else s
    giveCmd x.1 { write := false, use := use, sig := g, sheet := t, pos := p, b0 := b, n := n, lba := x.2, at_ := s.core.imp, outs := [.drvRead x.1 x.2 n] } s

/-! ### Writes -/

/-- A write to a position that is absent or link-down sets the regions of its sheet in the absence set (R230, R473); a
position of a failed member is lost and takes nothing. -/
def noteMissed (g t p : Nat) (s : State) : State :=
  match layOf s g t with
  | none => s
  | some (i, u) =>
    let d := i.driveAt u p
    let m := memOf s g d
    if !m.failed ∧ (m.absentAt.isSome ∨ m.linkDown) ∧ s.core.mode ≠ .maintenance then
      (setMem g d { m with missed := (regionsOf s g t).foldl (fun l r => addTo r l) m.missed } s).updSig g fun x => { x with pendingClear := true }
    else s

/-- What a write of blocks sends: a command for each run of blocks, and in packed check mode the entries of the check blocks it
touches (R109). -/
def writeOuts (s : State) (g t p : Nat) (at_ : Nat × Nat) (blocks : NMap RdVal) : List Out :=
  let wire (b : Nat) : WireBlk := toDrive s g t p b (ngetD b ⟨0, true, false⟩ blocks)
  let port := (driveLba s g t at_ 0).1
  let runs := (runsOf (blocks.map (·.1))).map fun r =>
    Out.drvWrite port (driveLba s g t at_ r.1).2 ((List.range r.2).map fun j => wire (r.1 + j))
  let checks :=
    match layOf s g t with
    | some (i, _) =>
      if i.packed then
        let m (b : Nat) : Nat := (at_.2 + b) / 63
        ((blocks.map fun b => m b.1).eraseDups).map fun r =>
          Out.drvCheck port ((i.members.getD at_.1 ⟨0, 0⟩).base + 64 * r + 63) r
            ((blocks.filter fun b => m b.1 == r).map fun b => ((at_.2 + b.1) % 63, wire b.1))
      else []
    | none => []
  runs ++ checks

/-- Issue the write of blocks of a folio at a place, as one command (R107, R131). -/
def writeAt (use : DrvUse) (g t p : Nat) (at_ : Nat × Nat) (blocks : NMap RdVal) (s : State) : State :=
  match blocks with
  | [] => s
  | (b0, _) :: _ =>
    let last := (blocks.map (·.1)).foldl max b0
    let x := driveLba s g t at_ b0
    giveCmd x.1 { write := true, use := use, sig := g, sheet := t, pos := p, b0 := b0, n := last + 1 - b0, lba := x.2, at_ := s.core.imp
                  outs := writeOuts s g t p at_ blocks } s

/-- Issue a write at a position's place; whether the position could take it. A lost position counts as completed (R132, R183). -/
def issueWrite (use : DrvUse) (g t p : Nat) (blocks : NMap RdVal) (s : State) : Bool × State :=
  match locate s g t p false with
  | none => (false, noteMissed g t p s)
  | some at_ => (true, writeAt use g t p at_ blocks s)

/-! ### Lost blocks and repairs -/

/-- A block of a foreground read is lost: its offset awaits reconstruction (R154, R155). -/
def addLost (g t b : Nat) (bad : List (Nat × Bool)) (s : State) : State :=
  if s.lost.any fun x => x.sig == g && x.sheet == t && x.off == b then
    { s with lost := s.lost.map fun x =>
        if x.sig == g && x.sheet == t && x.off == b then { x with bad := x.bad ++ bad.filter fun y => !(x.bad.any fun z => z.1 == y.1) } else x }
  else { s with lost := s.lost ++ [⟨g, t, b, bad⟩] }

/-- A foreground read that ends without data: its blocks fail step 1 of R150 (R221). -/
def failRead (c : DrvCmd) (blocks : List Nat) (s : State) : State :=
  if c.use = .fg ∧ !c.write then blocks.foldl (fun s b => addLost c.sig c.sheet b [(c.pos, false)] s) s else s

/-- The repair of a folio gains a block to be rewritten (R158, R159); while it lasts its line is pinned (R155). -/
def addRepair (g t p b : Nat) (v : RdVal) (silent : Bool) (s : State) : State :=
  let is (r : Repair) : Bool := r.sig == g && r.sheet == t && r.pos == p && r.stage == 0
  let s :=
    if s.repairs.any is then { s with repairs := s.repairs.map fun r => if is r then { r with blocks := nset b v r.blocks, silent := r.silent || silent } else r }
    else { s with repairs := s.repairs ++ [{ sig := g, sheet := t, pos := p, blocks := [(b, v)], silent := silent }] }
  if p < sheetK s g t then updLine 0 g (lbnAt s g t p b / 128) (fun x => { x with pin := true }) s else s

/-- A repair is over: the lines that no other repair holds lose their pin. -/
def endRepair (r : Repair) (s : State) : State :=
  let s := { s with repairs := s.repairs.erase r }
  if r.pos < sheetK s r.sig r.sheet then
    let lines := (r.blocks.map fun b => lbnAt s r.sig r.sheet r.pos b.1 / 128).eraseDups
    lines.foldl (fun s n =>
      let held := s.repairs.any fun q => q.sig == r.sig && q.pos < sheetK s q.sig q.sheet && q.blocks.any fun b => lbnAt s q.sig q.sheet q.pos b.1 / 128 == n
      if held then s else updLine 0 r.sig n (fun x => { x with pin := false }) s) s
  else s

/-- Blocks that an update writes need no repair. -/
def dropRepairs (g t p : Nat) (bs : List Nat) (s : State) : State :=
  s.repairs.foldl (fun s r =>
    if r.sig == g && r.sheet == t && r.pos == p && r.stage == 0 then
      let keep := r.blocks.filter fun b => !bs.contains b.1
      if keep.isEmpty then endRepair r s
      else { s with repairs := s.repairs.map fun q => if q == r then { r with blocks := keep } else q }
    else s) s

/-- One event of silent corruption of a member (R161): its bucket and its total. -/
def countSilent (g d : Nat) (s : State) : State :=
  let m := memOf s g d
  let bs := match m.buckets with | [] => [1] | x :: xs => (x + 1) :: xs
  setMem g d { m with buckets := bs, silent := min (m.silent + 1) (2 ^ 32 - 1) } s

/-- Silent-corruption events of a member in the last 24 operating hours. -/
def silent24 (s : State) (g d : Nat) : Nat := (memOf s g d).buckets.sum

/-- The drive index that serves a position. -/
def servedBy (s : State) (g t p : Nat) : Nat := ((locate s g t p false).map (·.1)).getD (((layOf s g t).map fun x => x.1.driveAt x.2 p).getD 0)

/-- A folio of one read had failing blocks: one event (R158, R161). -/
def countFix (g t p : Nat) (silent : Bool) (s : State) : State :=
  if silent then countSilent g (servedBy s g t p) (s.bump Reg.Sig.SILENT_FIX 1 g) else s.bump Reg.Sig.MEDIUM_FIX 1 g

end Sys2Proof.Machine
end

