-- ==== Sys2Proof/Machine/FrontEnd.lean ====
section
/-!
DEFINITION. The front-end ports (R31 to R40, R64, R67, R68): frames, flow control, addresses, connections, links and port
resets, and the close of a connection (R49).
-/

namespace Sys2Proof.Machine

/-! ### States of the module and of a port -/

/-- The states in which front-end links train, and in which connections are accepted (Table 1.7, R65, R396). -/
def feLinks (m : ModState) : Bool := m == .assemble || m == .pressRun || m == .hold || m == .release
def feAccepts (m : ModState) : Bool := m == .pressRun || m == .hold

def State.portUp (s : State) (p : Nat) : Bool := s.bit Reg.FeP.LINK_UP p

/-- MAC address of a port: 16 consecutive addresses in port order (R34). -/
def macOf (p : Nat) : Nat := (Config.macBase + p) % 2 ^ 48

/-- The link-local address of a MAC address by the modified EUI-64 rule (R35). -/
def linkLocal (mac : Nat) : Nat :=
  let hi := (mac / 2 ^ 24) ^^^ 0x020000
  0xFE80 * 2 ^ 112 + hi * 2 ^ 40 + 0xFFFE * 2 ^ 24 + mac % 2 ^ 24

/-- The IPv6 address in the registers of a port. -/
def ip6Reg (s : State) (p : Nat) : Nat := (List.range 4).foldl (fun a j => a * 2 ^ 32 + s.get Reg.FeP.IP6_ADDR (4 * p + j)) 0

/-- Whether an address is in use on a port: its IPv4 address, or an IPv6 address that detection has found unique (R36). -/
def ownsAddr (s : State) (p : Nat) : NetAddr → Bool
  | .ip4 a => (s.fePort p).ip4 == some a
  | .ip6 a => (s.fePort p).ip6.contains a && (s.fePort p).dadAt.isNone && !s.bit Reg.FeP.DUP_ADDR6 p

/-! ### The neighbour cache (R36) -/

/-- A next hop is used: it is held in the cache of 1 024 entries. -/
def useNbr (p : Nat) (a : NetAddr) (s : State) : State :=
  let l := (s.fePort p).nbrs.filter fun e => e.1 != a
  s.updFe p fun x => { x with nbrs := ((a, s.core.imp) :: l).take 1024 }

/-- The next hop to an address: itself when on-link, else the gateway of its family (R35). -/
def nextHop (s : State) (p : Nat) (ip6 : Bool) (a : Nat) : NetAddr :=
  if ip6 then
    let n := 128 - s.get Reg.FeP.IP6_PREFIX p
    let gw := (List.range 4).foldl (fun a j => a * 2 ^ 32 + s.get Reg.FeP.IP6_GW (4 * p + j)) 0
    if a / 2 ^ n = ip6Reg s p / 2 ^ n ∨ a / 2 ^ 64 = 0xFE80 * 2 ^ 48 then .ip6 a else .ip6 gw
  else
    let n := 32 - s.get Reg.FeP.IP4_PREFIX p
    if a / 2 ^ n = s.get Reg.FeP.IP4_ADDR p / 2 ^ n then .ip4 a else .ip4 (s.get Reg.FeP.IP4_GW p)

/-! ### Closing connections (R49) -/

/-- Key of the first command that runs on after its connection has closed. -/
def silentBase : Nat := 2 ^ 28

/-- A command runs on without its connection: it takes a key of its own, so that the connection index can be used again. -/
def silence (k : Nat) (c : Cmd) (s : State) : State :=
  let n := nfresh (nfilter (fun j _ => j ≥ silentBase) s.cmds) silentBase
  { s with
    cmds := nset n { c with silent := true } (ndel k s.cmds)
    zn.zones := nmapv (fun _ z => match z.permit with
      | some (x, j) => if j = k then { z with permit := some (x, n) } else z
      | none => z) s.zn.zones }

/-- What becomes of one command of a closing connection. -/
def closeCmd (s : State) (k : Nat) : State :=
  match s.cmd k with
  | none => s
  | some c =>
    let runs := match c.op with
      | .write | .append => decide (c.got = c.nlb) && decide (c.adm = c.nlb) && c.bad.isNone
      | _ => c.begun
    if runs then silence k c s
    else
      let s := removeCmd k s
      if c.op = .close ∨ c.op = .finish ∨ c.op = .reset then
        c.zones.foldl (fun s z => s.updZone z fun x => { x with pend := none }) s
      else s

/-- One connection closes. -/
def closeOne (i : Nat) (s : State) : State :=
  match s.conn i with
  | none => s
  | some _ =>
    let s := ((s.cmds.map (·.1)).filter fun k => k / 65536 == i).foldl closeCmd s
    { s with conns := ndel i s.conns, sch.fair := ndel i s.sch.fair }

/-- A connection closes; with an admin connection, the controller's I/O connections close and its CNTLID is free. -/
def closeConn (i : Nat) (s : State) : State :=
  match s.conn i with
  | none => s
  | some c =>
    if c.connected ∧ c.admin then
      let s := ((s.conns.filter fun p => p.2.connected && p.2.cntlid == c.cntlid).map (·.1)).foldl (fun s j => closeOne j s) s
      { s with ctrls := ndel c.cntlid s.ctrls }
    else closeOne i s

/-- The connections of a port close. -/
def closePort (p : Nat) (s : State) : State :=
  ((s.conns.filter fun c => c.2.port == p).map (·.1)).foldl (fun s i => closeConn i s) s

/-- Every connection closes. -/
def closeAll (s : State) : State := (s.conns.map (·.1)).foldl (fun s i => closeConn i s) s

/-- A connection is terminated for a protocol fault: a C2HTermReq leaves, then the connection closes (R43). -/
def terminate (i fes fei : Nat) (s : State) : State :=
  let s := s.pdu i (.c2hTerm i fes fei)
  closeConn i ((s.raise Reg.Fe.PROTO_TERM).log 0x9001 i (leBytes 2 fes))

/-! ### Links (R36, R64) -/

/-- The link bits of a port. -/
def setLink (p : Nat) (up : Bool) (s : State) : State :=
  let s := (s.putB Reg.FeP.LINK_UP up p).putB Reg.FeP.AN_DONE up p
  (s.putB Reg.FeP.TRAIN_DONE up p).putB Reg.FeP.FEC_ALIGNED up p

/-- A link change is declared. -/
def declareLink (p : Nat) (up : Bool) (s : State) : State :=
  ((setLink p up s).raise Reg.Fe.LINK_CHANGE).log 0x8001 p [if up then 1 else 0]

/-- LINK_UP: training and alignment are complete; the addresses are announced and probed (R36, R64). -/
def doLinkUp (p : Nat) (s : State) : State :=
  if feLinks s.core.mode ∧ s.bit Reg.FeP.PORT_EN p ∧ !s.portUp p then
    let s := (declareLink p true s).putB Reg.FeP.DUP_ADDR4 false p
    let x := s.fePort p
    let s := match x.ip4 with | some a => sendFrame p (.gratArp a) s | none => s
    let s := x.ip6.foldl (fun s a => sendFrame p (.dadProbe a) s) s
    s.updFe p fun y => { y with lostAt := none, dadAt := if x.ip6.isEmpty then none else some s.core.imp }
  else s

/-- LINK_LOSS: the connections of the port are held (R64). -/
def doLinkLoss (p : Nat) (s : State) : State :=
  if s.portUp p then (declareLink p false s).updFe p fun x => { x with lostAt := some s.core.imp, dadAt := none } else s

/-- LINK_HOLD_EXPIRED: the link has not returned within HOLD_MS; the connections close without RST (R64). -/
def doLinkHoldExpired (p : Nat) (s : State) : State :=
  match (s.fePort p).lostAt with
  | some t => if s.since t ≥ 125 * s.get Reg.FeP.HOLD_MS p then closePort p (s.updFe p fun x => { x with lostAt := none }) else s
  | none => s

/-- The link of a port goes down at once, its connections with it. -/
def dropPort (p : Nat) (s : State) : State :=
  let s := if s.portUp p then declareLink p false s else s
  closePort p (s.updFe p fun x => { x with lostAt := none, dadAt := none, fifo := 0, xoff := false, pause := none, txq := [] })

/-- The read-clear counters of a port. -/
def clearPortCounters (p : Nat) (s : State) : State :=
  [Reg.FeP.RX_FRAMES, Reg.FeP.TX_FRAMES, Reg.FeP.FEC_CORR, Reg.FeP.FEC_UNCORR, Reg.FeP.FCS_ERR, Reg.FeP.RX_DROP,
    Reg.FeP.TCP_RETX, Reg.FeP.PFC_SENT].foldl (fun s F => s.put F 0 p) s

/-- FE_PORT_RESET (R12, R36, R64): the link retrains. -/
def doFePortReset (p : Nat) (s : State) : State :=
  let s := clearPortCounters p (dropPort p (s.pulse Reg.FeP.PORT_RESET p))
  ((s.putB Reg.FeP.CFG_ERR false p).putB Reg.FeP.DUP_ADDR4 false p).putB Reg.FeP.DUP_ADDR6 false p

/-- PORT_ENABLE: PORT_EN changes from 0 to 1; the configuration is checked and its values are taken into use (R35, R68). A
refused port stays disabled. -/
def doPortEnable (p : Nat) (s : State) : State :=
  if s.bit Reg.FeP.PORT_EN p then s
  else
    let mtu := s.get Reg.FeP.MTU p
    if mtu < 1280 ∨ mtu > 9194 ∨ (!s.bit Reg.FeP.IP4_EN p ∧ !s.bit Reg.FeP.IP6_EN p) then s.putB Reg.FeP.CFG_ERR true p
    else
      let s := ((s.putB Reg.FeP.PORT_EN true p).putB Reg.FeP.CFG_ERR false p).putB Reg.FeP.DUP_ADDR4 false p
      s.updFe p fun x => { x with
        ip4 := if s.bit Reg.FeP.IP4_EN p then some (s.get Reg.FeP.IP4_ADDR p) else none
        ip6 := (if s.bit Reg.FeP.IP6_EN p then [ip6Reg s p] else []) ++ [linkLocal (macOf p)]
        lostAt := none }

/-- PORT_DISABLE: PORT_EN is written to 0 (R64). -/
def doPortDisable (p : Nat) (s : State) : State :=
  if s.bit Reg.FeP.PORT_EN p then clearPortCounters p ((dropPort p s).putB Reg.FeP.PORT_EN false p) else s

/-- The front-end ports are off (Table 1.7): every link is down, every connection is closed. -/
def feOff (s : State) : State := (List.range 16).foldl (fun s p => dropPort p s) s

/-! ### Frames (R32 to R34, R37, R38, R58) -/

/-- A dropped frame or packet that counts in RX_DROP. -/
def dropFrame (p : Nat) (s : State) : State := (s.bump Reg.FeP.RX_DROP 1 p).updFe p fun x => { x with drops := x.drops + 1 }

/-- XOFF above 48 KiB (R34). -/
def xoffCheck (p : Nat) (s : State) : State :=
  if s.bit Reg.Fe.PFC_EN ∧ (s.fePort p).fifo > 49152 ∧ !(s.fePort p).xoff then
    ((sendControl p .xoff s).bump Reg.FeP.PFC_SENT 1 p).updFe p fun x => { x with xoff := true, xoffAt := s.core.imp }
  else s

/-- What an accepted frame carries. -/
def takePayload (p : Nat) (s : State) : FramePayload → State
  | .tcp i n solicited =>
    match s.conn i with
    | some c =>
      if c.port ≠ p then s
      else if !solicited ∧ s.ingress + s.reserved + n > 3145728 then dropFrame p s
      else s.updConn i fun c => { c with retx := 0 }
    | none => s
  | .badPdu i fes => if (s.conn i).any fun c => c.port == p then terminate i fes 0 s else s
  | .ipv4Fragment => dropFrame p s
  | .ipv4Options n => if n > 40 then dropFrame p s else s
  | .ipv6Extension => dropFrame p s
  | .icmpOther | .pause31B | .other => s

/-- Whether the VLAN rule accepts a frame (R33). -/
def vlanOk (s : State) (p : Nat) (v : Option Nat) : Bool :=
  if s.bit Reg.FeP.VLAN_EN p then v == some (s.get Reg.FeP.VLAN_ID p) else v.isNone

/-- FRAME_RECEIVED. The frame enters the receive FIFO; a frame that does not fit there is lost. -/
def doFrameReceived (p : Nat) (f : Frame) (s : State) : State :=
  if !s.portUp p then s
  else
    let s := (s.bump Reg.FeP.RX_FRAMES 1 p).updFe p fun x => { x with rx := x.rx + 1 }
    if !f.fcsOk then (s.bump Reg.FeP.FCS_ERR 1 p).updFe p fun x => { x with fcs := x.fcs + 1 }
    else if f.len > 9216 ∨ f.lengthField ∨ f.dest = .other then dropFrame p s
    else if !vlanOk s p f.vlan then s
    else if f.payload = .pause31B then s
    else if (s.fePort p).fifo + f.len > 65536 then s
    else takePayload p (xoffCheck p (s.updFe p fun x => { x with fifo := x.fifo + f.len })) f.payload

/-- XOFF_REFRESH: every 2 048 quanta of 512 bit times while the FIFO stays above 16 KiB (R34). -/
def doXoffRefresh (p : Nat) (s : State) : State :=
  let x := s.fePort p
  if x.xoff ∧ x.fifo > 16384 ∧ s.since x.xoffAt * 400000 ≥ 2048 * 512 then
    ((sendControl p .xoff s).bump Reg.FeP.PFC_SENT 1 p).updFe p fun x => { x with xoffAt := s.core.imp }
  else s

/-- XON_SEND: the FIFO is below 16 KiB (R34). -/
def doXonSend (p : Nat) (s : State) : State :=
  let x := s.fePort p
  if x.xoff ∧ x.fifo < 16384 then (sendControl p .xon s).updFe p fun x => { x with xoff := false } else s

/-- PFC_FRAME_RECEIVED: the port stops transmitting for the pause time; other priorities are ignored (R34). -/
def doPfcFrameReceived (p prio quanta : Nat) (s : State) : State :=
  if s.portUp p ∧ s.bit Reg.Fe.PFC_EN ∧ prio = s.get Reg.Fe.PFC_PRIO then
    s.updFe p fun x => { x with pause := some (s.core.imp, quanta) }
  else s

/-- PFC_PAUSE_EXPIRED: the pause time is over, at 400 000 bit times per impression; what it held leaves. -/
def doPfcPauseExpired (p : Nat) (s : State) : State :=
  match (s.fePort p).pause with
  | some (t, q) =>
    if s.since t * 400000 ≥ q * 512 then
      { s.updFe p fun x => { x with pause := none, txq := [] } with out := (s.fePort p).txq ++ s.out }
    else s
  | none => s

/-! ### Addresses (R36, R37) -/

def doArpRequest (p target : Nat) (s : State) : State :=
  if s.portUp p ∧ ownsAddr s p (.ip4 target) then sendFrame p (.arpReply target) s else s

def doNeighborSolicitation (p target : Nat) (s : State) : State :=
  if s.portUp p ∧ ownsAddr s p (.ip6 target) then sendFrame p (.naReply target) s else s

/-- ARP_REPLY_CLAIM: another station claims the port's IPv4 address; the port keeps it. -/
def doArpReplyClaim (p addr : Nat) (s : State) : State :=
  if s.portUp p ∧ ownsAddr s p (.ip4 addr) then
    ((s.putB Reg.FeP.DUP_ADDR4 true p).raise Reg.Fe.DUP_ADDR).log 0x8002 p [4]
  else s

/-- NEIGHBOUR_CACHE_AGE_OUT: 300 s without use. -/
def doNeighbourCacheAgeOut (p : Nat) (a : NetAddr) (s : State) : State :=
  s.updFe p fun x => { x with nbrs := x.nbrs.filter fun e => !(e.1 == a && decide (s.since e.2 ≥ 37500000)) }

/-- DUPLICATE_ADDRESS_DETECTION_DONE: one probe and 1 s of waiting have passed. -/
def doDuplicateAddressDetectionDone (p : Nat) (dup : Bool) (s : State) : State :=
  match (s.fePort p).dadAt with
  | some t =>
    if s.since t ≥ 125000 then
      let s := (s.updFe p fun x => { x with dadAt := none }).putB Reg.FeP.DUP_ADDR6 dup p
      if dup then (s.raise Reg.Fe.DUP_ADDR).log 0x8002 p [6] else s
    else s
  | none => s

/-- ECHO_REQUEST: at most 1 024 bytes of data are answered (R37). -/
def doEchoRequest (p : Nat) (a : NetAddr) (n : Nat) (s : State) : State :=
  if s.portUp p ∧ ownsAddr s p a ∧ n ≤ 1024 then sendFrame p (.echoReply n) s else s

/-! ### TCP connections (R38 to R40) -/

/-- SYN_RECEIVED (R38, R40, R65). -/
def doSynReceived (x : Syn) (s : State) : State :=
  let p := x.port.val
  let dst : NetAddr := if x.ip6 then .ip6 x.dstAddr else .ip4 x.dstAddr
  if !s.portUp p ∨ !ownsAddr s p dst then s
  else
    let s := useNbr p (nextHop s p x.ip6 x.srcAddr) s
    if !feAccepts s.core.mode ∨ x.dstPort ≠ s.get Reg.Fe.NVME_PORT then sendFrame p (.rst none) s
    else
      let same := s.conns.any fun c => c.2.srcAddr == x.srcAddr && c.2.srcPort == x.srcPort && c.2.dstAddr == x.dstAddr && c.2.dstPort == x.dstPort && c.2.ip6 == x.ip6
      if s.conns.length ≥ 4096 ∨ same then
        (((sendFrame p (.rst none) s).bump Reg.Fe.CONN_REFUSED).raise Reg.Fe.CONN_LIMIT).log 0x8003 p
      else
        let i := nfresh s.conns 0
        let c : Conn := { port := p, srcAddr := x.srcAddr, srcPort := x.srcPort, dstAddr := x.dstAddr, dstPort := x.dstPort, ip6 := x.ip6, wscale := x.wscale, sack := x.sack, tstamp := x.tstamp, openedAt := s.core.imp, pair := 12 + i % 2 }
        let s := { s with conns := nset i c s.conns, sch.fair := nset i { openAt := s.core.imp } s.sch.fair }
        sendFrame p (.synAck i (s.get Reg.FeP.MTU p - (if x.ip6 then 60 else 40))) s

/-- RETRANSMISSION_TIMEOUT: the segment is sent again; after 10 consecutive ones the connection is aborted (R39). -/
def doRetransmissionTimeout (i : Nat) (s : State) : State :=
  match s.conn i with
  | none => s
  | some c =>
    if c.retx ≥ 10 then closeConn i (sendFrame c.port (.rst (some i)) s)
    else
      let s := (s.bump Reg.FeP.TCP_RETX 1 c.port).updFe c.port fun x => { x with retx := x.retx + 1 }
      s.updConn i fun c => { c with retx := c.retx + 1 }

/-- ICREQ_TIMEOUT: no complete ICReq within 2 s of establishment (R40). -/
def doIcreqTimeout (i : Nat) (s : State) : State :=
  match s.conn i with
  | some c => if !c.icDone ∧ s.since c.openedAt ≥ 250000 then closeConn i s else s
  | none => s

/-- TCP_CONNECTION_CLOSED: the peer ends the connection, by FIN or by RST (R49). -/
def doTcpConnectionClosed (i : Nat) (_reset : Bool) (s : State) : State := closeConn i s

/-- H2CTERMREQ: the connection closes in the same way as for a fault of its own (R43). -/
def doH2ctermreq (i fes : Nat) (s : State) : State :=
  if (s.conn i).isSome then closeConn i ((s.raise Reg.Fe.PROTO_TERM).log 0x9001 i (leBytes 2 fes)) else s

/-- AUTH_FAIL_CLOSE: 1 s after a failed authentication (R47). -/
def doAuthFailClose (i : Nat) (s : State) : State :=
  match (s.conn i).bind (·.authFailAt) with
  | some t => if s.since t ≥ 125000 then closeConn i s else s
  | none => s

/-- KEEP_ALIVE_EXPIRED: the association is torn down (R48). -/
def doKeepAliveExpired (c : Nat) (s : State) : State :=
  match nfind c s.ctrls with
  | some x =>
    if x.kato > 0 ∧ s.since x.kaAt ≥ 125 * x.kato then closeConn x.admin (s.log 0x9004 x.admin (leBytes 2 c)) else s
  | none => s

/-! ### The connection registers (R67) -/

/-- Commands outstanding on a connection. -/
def outstandingOf (s : State) (i : Nat) : Nat := (s.cmds.filter fun p => p.1 / 65536 == i && !p.2.silent).length

/-- CONN_SEL: the snapshot of a connection. -/
def doConnSel (v : Nat) (s : State) : State :=
  let i := v % 4096
  let s := s.put Reg.Fe.CONN_SEL i
  let c := s.conn i
  let f (g : Conn → Nat) : Nat := (c.map g).getD 0
  let s := ((s.putB Reg.Fe.VALID c.isSome).put Reg.Fe.PORT (f (·.port))).putB Reg.Fe.ADMIN (c.any (·.admin))
  let s := ((s.putB Reg.Fe.AUTH_DONE (c.any (·.authDone))).putB Reg.Fe.HDGST (c.any (·.hdgst))).putB Reg.Fe.DDGST (c.any (·.ddgst))
  let s := (s.put Reg.Fe.CNTLID (f (·.cntlid))).put Reg.Fe.QID (f (·.qid))
  (s.put Reg.Fe.OUTSTANDING (outstandingOf s i)).put Reg.Fe.HOST_IDX (f (·.host))

/-- CONN_DROP closes the selected connection by R49. -/
def doConnDrop (s : State) : State := closeConn (s.get Reg.Fe.CONN_SEL) (s.pulse Reg.Fe.CONN_DROP)

/-! ### The commands -/

def execFrameReceived (p : FePortIx) (f : Frame) (s : State) : Host.Outcome State Fault Refusal := .next (whenOn (doFrameReceived p.val f) s)
def execXoffRefresh (p : FePortIx) (s : State) : Host.Outcome State Fault Refusal := .next (whenOn (doXoffRefresh p.val) s)
def execXonSend (p : FePortIx) (s : State) : Host.Outcome State Fault Refusal := .next (whenOn (doXonSend p.val) s)
def execPfcFrameReceived (p : FePortIx) (prio q : Nat) (s : State) : Host.Outcome State Fault Refusal :=
  .next (whenOn (doPfcFrameReceived p.val prio q) s)
def execPfcPauseExpired (p : FePortIx) (s : State) : Host.Outcome State Fault Refusal := .next (whenOn (doPfcPauseExpired p.val) s)
def execArpRequest (p : FePortIx) (a : Nat) (s : State) : Host.Outcome State Fault Refusal := .next (whenOn (doArpRequest p.val a) s)
def execNeighborSolicitation (p : FePortIx) (a : Nat) (s : State) : Host.Outcome State Fault Refusal :=
  .next (whenOn (doNeighborSolicitation p.val a) s)
def execArpReplyClaim (p : FePortIx) (a : Nat) (s : State) : Host.Outcome State Fault Refusal := .next (whenOn (doArpReplyClaim p.val a) s)
def execNeighbourCacheAgeOut (p : FePortIx) (a : NetAddr) (s : State) : Host.Outcome State Fault Refusal :=
  .next (whenOn (doNeighbourCacheAgeOut p.val a) s)
def execDuplicateAddressDetectionDone (p : FePortIx) (d : Bool) (s : State) : Host.Outcome State Fault Refusal :=
  .next (whenOn (doDuplicateAddressDetectionDone p.val d) s)
def execEchoRequest (p : FePortIx) (a : NetAddr) (n : Nat) (s : State) : Host.Outcome State Fault Refusal :=
  .next (whenOn (doEchoRequest p.val a n) s)
def execSynReceived (x : Syn) (s : State) : Host.Outcome State Fault Refusal := .next (whenOn (doSynReceived x) s)
def execRetransmissionTimeout (i : Nat) (s : State) : Host.Outcome State Fault Refusal := .next (whenOn (doRetransmissionTimeout i) s)
def execIcreqTimeout (i : Nat) (s : State) : Host.Outcome State Fault Refusal := .next (whenOn (doIcreqTimeout i) s)
def execTcpConnectionClosed (i : Nat) (r : Bool) (s : State) : Host.Outcome State Fault Refusal :=
  .next (whenOn (doTcpConnectionClosed i r) s)
def execH2ctermreq (i fes : Nat) (s : State) : Host.Outcome State Fault Refusal := .next (whenOn (doH2ctermreq i fes) s)
def execAuthFailClose (i : Nat) (s : State) : Host.Outcome State Fault Refusal := .next (whenOn (doAuthFailClose i) s)
def execKeepAliveExpired (c : Nat) (s : State) : Host.Outcome State Fault Refusal := .next (whenOn (doKeepAliveExpired c) s)
def execLinkUp (p : FePortIx) (s : State) : Host.Outcome State Fault Refusal := .next (whenOn (doLinkUp p.val) s)
def execLinkLoss (p : FePortIx) (s : State) : Host.Outcome State Fault Refusal := .next (whenOn (doLinkLoss p.val) s)
def execLinkHoldExpired (p : FePortIx) (s : State) : Host.Outcome State Fault Refusal := .next (whenOn (doLinkHoldExpired p.val) s)
def execFePortReset (p : FePortIx) (s : State) : Host.Outcome State Fault Refusal := .next (whenOn (doFePortReset p.val) s)
def execPortEnable (p : FePortIx) (s : State) : Host.Outcome State Fault Refusal := .next (whenOn (doPortEnable p.val) s)
def execPortDisable (p : FePortIx) (s : State) : Host.Outcome State Fault Refusal := .next (whenOn (doPortDisable p.val) s)
def execConnSel (v : RegWord) (s : State) : Host.Outcome State Fault Refusal := .next (whenOn (doConnSel v.toNat) s)
def execConnDrop (s : State) : Host.Outcome State Fault Refusal := .next (whenOn doConnDrop s)

end Sys2Proof.Machine
end

