-- ==== Sys2Proof/Machine/Fount.lean ====
section
/-!
DEFINITION. The Fount gauge and its charger (R276 to R286), the figures of step 4 and the dirty ceiling (R287 to R289).
Energies are exact fractions of joules; registers hold them rounded down in their own units.
-/

namespace Sys2Proof.Machine

/-! ### The pack model (Table 12.1) and derating (Table 12.3) -/

/-- Points of the open-circuit voltage, in mV, at 0, 10, … 100 %. -/
def ocvPoints : List Nat := [3700, 4200, 4400, 4480, 4540, 4600, 4660, 4720, 4820, 4980, 5300]

/-- Points of W, in mV, at 0, 10, … 100 %. -/
def wPoints : List Nat := [0, 395, 825, 1269, 1720, 2177, 2640, 3109, 3586, 4076, 4590]

/-- Keep a fraction within bounds. -/
def clampR (lo hi x : Rat) : Rat := if x < lo then lo else if x > hi then hi else x

/-- Linear interpolation of a table with a point at every tenth, at a state of charge in 0 to 1; the result in V. -/
def interp10 (pts : List Nat) (x : Rat) : Rat :=
  let x := clampR 0 1 x
  let k := min 9 (x * 10).floor.toNat
  let a : Rat := (pts.getD k 0 : Nat)
  let b : Rat := (pts.getD (k + 1) 0 : Nat)
  (a + (b - a) * (x * 10 - (k : Nat))) / 1000

/-- W at a state of charge, in V. -/
def packW (x : Rat) : Rat := interp10 wPoints x

/-- The state of charge at which OCV equals a voltage in V, clamped to 0 to 1 (R280). -/
def socOfOcv (v : Rat) : Rat :=
  let seg := (List.range 10).find? fun k => v < ((ocvPoints.getD (k + 1) 0 : Nat) : Rat) / 1000
  match seg with
  | none => 1
  | some k =>
    let a : Rat := ((ocvPoints.getD k 0 : Nat) : Rat) / 1000
    let b : Rat := ((ocvPoints.getD (k + 1) 0 : Nat) : Rat) / 1000
    clampR 0 1 (((k : Nat) : Rat) / 10 + (v - a) / (b - a) / 10)

/-- derate at a pack temperature in 0.1 °C (R288). -/
def derateOf (t : Int) : Rat :=
  let seg (t0 t1 : Int) (d0 d1 : Rat) : Rat := d0 + (d1 - d0) * (((t - t0 : Int) : Rat) / ((t1 - t0 : Int) : Rat))
  if t ≤ -300 then 78 / 100
  else if t ≤ -200 then seg (-300) (-200) (78 / 100) (83 / 100)
  else if t ≤ -100 then seg (-200) (-100) (83 / 100) (88 / 100)
  else if t ≤ 0 then seg (-100) 0 (88 / 100) (93 / 100)
  else if t ≤ 100 then seg 0 100 (93 / 100) (97 / 100)
  else if t ≤ 250 then seg 100 250 (97 / 100) 1
  else 1

/-- Current at cast power, in A. -/
def castCurrent : Rat := 360 / 46

/-- e(x) of R280: energy from a state of charge down to the floor, for a capacity in C and a resistance in Ω. -/
def packEnergy (q r x : Rat) : Rat :=
  let xe := socOfOcv (38 / 10 + castCurrent * r)
  if x ≤ xe then 0 else q * (packW x - packW xe) * (1 - castCurrent * r / (46 / 10))

/-! ### Two's complement register values -/

/-- A signed value as a register of `w` bits. -/
def toTwos (w : Nat) (v : Int) : Nat := (v % (2 ^ w : Int)).toNat

/-- The signed value of a register of `w` bits. -/
def fromTwos (w : Nat) (v : Nat) : Int := if v < 2 ^ (w - 1) then (v : Int) else (v : Int) - (2 ^ w : Int)

/-! ### The estimates -/

/-- q_l in C, r_l in Ω. -/
def qLearned (s : State) : Rat := (s.get Reg.Fount.Q_LEARNED : Nat) / 1000
def rLearned (s : State) : Rat := (s.get Reg.Fount.R_LEARNED : Nat) / 10000

/-- SoC_c (R280): the state at the last reference or anchor plus the counted charge over the learned capacity. -/
def socC (s : State) : Rat := clampR 0 1 (s.fnt.anchor + s.fnt.counted / ((s.get Reg.Fount.Q_LEARNED : Nat) : Rat))

/-- Whether the floor of R282 is lifted. -/
def errLifted (s : State) : Bool := s.fnt.restored || s.fnt.capLearned

/-- err_bound (R282). -/
def errBound (s : State) : Rat :=
  let floor_ : Rat := if errLifted s then 0 else 1 / 10
  let hours : Rat := (s.fnt.refAge : Nat) / 450000000
  min (9 / 10) (max floor_ (1 / 100 + 5 / 1000 * hours))

/-- A fraction rounded down to a natural number. -/
def floorN (x : Rat) : Nat := x.floor.toNat

/-! ### The gauge state block (Table 12.2) -/

/-- REF_AGE, 1/1024 h. -/
def refAgeUnits (s : State) : Nat := opTimeOf s.fnt.refAge

/-- The 64 bytes of the present block. -/
def gsbBytes (s : State) : List Nat :=
  let flags := (if s.fnt.capLearned then 1 else 0) + (if s.fnt.resLearned then 2 else 0)
  let head := [0x47, 0x41, 0x55, 0x47] ++ leBytes 2 1 ++ leBytes 2 flags ++ leBytes 8 (s.fnt.packId.getD 0) ++
    leBytes 4 (s.get Reg.Fount.Q_LEARNED) ++ leBytes 2 (s.get Reg.Fount.R_LEARNED) ++
    leBytes 2 (s.get Reg.Fount.CYCLE_COUNT) ++ leBytes 4 (refAgeUnits s) ++ leBytes 4 (opTimeOf s.core.opImp) ++
    leBytes 4 (s.core.cycles % 2 ^ 24) ++ leBytes 4 (floorN (socC s * ((s.get Reg.Fount.Q_LEARNED : Nat) : Rat))) ++ List.replicate 20 0
  head ++ leBytes 4 (crc32c head)

/-- Word w of a byte string: byte 4w + b in bits [8b+7:8b] (R286). -/
def wordOf (bs : List Nat) (w : Nat) : Nat := leValue ((bs.drop (4 * w)).take 4)

/-- Copy the present block into GSB_OUT. -/
def latchGsb (s : State) : State :=
  let bs := gsbBytes s
  (List.range 16).foldl (fun s w => s.put Reg.Fount.GSB_OUT (wordOf bs w) w) s

/-- A refresh of GSB_OUT, counted by GSB_SEQ (R286). -/
def refreshGsb (s : State) : State :=
  let s := latchGsb { s with fnt.gsbAt := s.core.opImp }
  (s.put Reg.Fount.GSB_SEQ (s.get Reg.Fount.GSB_SEQ + 1)).ibi 4

/-- Whether a block is valid (R286): magic, version, CRC, the fitted pack's identity, capacity and resistance. -/
def gsbValid (s : State) (bs : List Nat) : Bool :=
  let cap := leValue ((bs.drop 16).take 4)
  let res := leValue ((bs.drop 20).take 2)
  bs.take 4 == [0x47, 0x41, 0x55, 0x47] && leValue ((bs.drop 4).take 2) == 1 &&
    leValue ((bs.drop 60).take 4) == crc32c (bs.take 60) && s.fnt.packId == some (leValue ((bs.drop 8).take 8)) &&
    2340000 ≤ cap && cap ≤ 5148000 && 100 ≤ res && res ≤ 3000

/-- When a block was saved: power cycles first, then operating time (R443). -/
def gsbTime (bs : List Nat) : Nat := leValue ((bs.drop 32).take 3) * 2 ^ 32 + leValue ((bs.drop 28).take 4)

/-- Take a valid block (R286). SoC_c follows from the new q_l and the charge counted since the last reference. -/
def takeGsb (bs : List Nat) (s : State) : State :=
  let flags := leValue ((bs.drop 6).take 2)
  let age := leValue ((bs.drop 24).take 4)
  let s := s.put Reg.Fount.Q_LEARNED (leValue ((bs.drop 16).take 4))
  let s := s.put Reg.Fount.R_LEARNED (leValue ((bs.drop 20).take 2))
  let s := s.put Reg.Fount.CYCLE_COUNT (leValue ((bs.drop 22).take 2))
  let s := { s with fnt.refAge := age * 3515625 / 8, fnt.restored := true, fnt.capLearned := s.fnt.capLearned || flags % 2 == 1, fnt.resLearned := s.fnt.resLearned || flags / 2 % 2 == 1, fnt.rVals := [] }
  refreshGsb ((s.putB Reg.Fount.GSB_RESTORED true))

/-- The bytes of GSB_IN. -/
def gsbIn (s : State) : List Nat := (List.range 16).flatMap fun w => leBytes 4 (s.get Reg.Fount.GSB_IN w)

/-- GSB_LOAD is acted on in KEY_WAIT (R286). -/
def judgeGsbLoad (s : State) : State :=
  let bs := gsbIn s
  let s := s.settle Reg.Fount.GSB_LOAD
  if gsbValid s bs then (takeGsb bs { s with fnt.gsbTaken := true, fnt.gsbKey := gsbTime bs }).log 0x100B 0 [0]
  else (({ s with fnt.gsbTaken := true } : State).raise Reg.Fount.GSB_INVALID).log 0x100B 0 [1]

/-- GSB_NONE is taken in KEY_WAIT (R286). -/
def judgeGsbNone (s : State) : State :=
  (({ s with fnt.gsbTaken := true } : State).settle Reg.Fount.GSB_NONE).log 0x100B 0 [2]

/-- The states from SELF_TEST to IMAGE_WAIT, in which a write of GSB_LOAD or GSB_NONE stays set (R286). -/
def beforeKeyWait (m : ModState) : Bool := m == .selfTest || m == .caseInit || m == .imageWait

/-- GSB_LOAD is written. -/
def doGsbLoad (s : State) : State :=
  let s := s.ask Reg.Fount.GSB_LOAD
  if s.core.mode == .keyWait then judgeGsbLoad s
  else if beforeKeyWait s.core.mode then s else s.settle Reg.Fount.GSB_LOAD

/-- GSB_NONE is written. -/
def doGsbNone (s : State) : State :=
  let s := s.ask Reg.Fount.GSB_NONE
  if s.core.mode == .keyWait then judgeGsbNone s
  else if beforeKeyWait s.core.mode then s else s.settle Reg.Fount.GSB_NONE

/-- At the first boundary of KEY_WAIT the writes kept since SELF_TEST are acted on, with GSB_IN as it then stands (R286). -/
def takeKeptGsb (s : State) : State :=
  let s := if s.bit Reg.Fount.GSB_LOAD then judgeGsbLoad s else s
  if s.bit Reg.Fount.GSB_NONE then judgeGsbNone s else s

/-- GSB_LATCH is written: the present block stands in GSB_OUT until the next latch or refresh (R286). -/
def doGsbLatch (s : State) : State := (latchGsb s).pulse Reg.Fount.GSB_LATCH

/-- GSB_REFRESH: 3 600 s of operating time since the last refresh (R286). -/
def doGsbRefresh (s : State) : State := if s.core.opImp - s.fnt.gsbAt ≥ 450000000 then refreshGsb s else s

/-! ### The charger (R276, R277) -/

/-- Whether some input is healthy. -/
def anyHealthy (s : State) : Bool := s.fnt.inA.healthy || s.fnt.inB.healthy

/-- Whether the charger may charge (R277, R472). -/
def chargerMay (s : State) : Bool :=
  anyHealthy s && !s.fnt.carries && s.core.mode != .hold && s.core.mode != .cast && !s.fnt.faulted && !s.fnt.unfit && !s.fnt.absent &&
    (s.bit Reg.Fount.CHG_EN || !s.img.committed)

/-- The charger's state as its conditions stand (Table 12.10, CHG_STATE). -/
def chargerState (s : State) : Nat :=
  let t := fromTwos 16 (s.get Reg.Fount.PACK_T)
  let v := s.get Reg.Fount.PACK_V
  if s.fnt.faulted ∨ s.fnt.unfit then 6
  else if !chargerMay s then 0
  else if s.fnt.calAt.isSome then 4
  else if t > 650 ∨ t < -300 then 5
  else if s.fnt.chg = 3 then (if socC s < 97 / 100 ∨ s.fnt.socV < 97 / 100 then 1 else 3)
  else if s.fnt.chg = 2 then 2
  else if v ≥ 5400 then 2
  else 1

/-- The charging current limit in mA (R276, R470). -/
def chargeLimit (s : State) : Nat := if s.fnt.precharge.isSome then 65 else if fromTwos 16 (s.get Reg.Fount.PACK_T) < -100 then 325 else 650

/-- Update the charger; the 300 s of R276 run only in constant voltage. -/
def stepCharger (s : State) : State :=
  let c := chargerState s
  { s with fnt.chg := c, fnt.eocAt := if c = 2 then s.fnt.eocAt else none }

/-- END_OF_CHARGE: the current has stayed below 26 mA for 300 s in constant voltage (R276). -/
def doEndOfCharge (s : State) : State :=
  match s.fnt.eocAt with
  | some t => if s.fnt.chg = 2 ∧ s.since t ≥ 37500000 then stepCharger (({ s with fnt.chg := 3, fnt.eocAt := none } : State).raise Reg.Fount.CHG_DONE) else s
  | none => s

/-- CHARGER_FAULT: either cell exceeds 2.8 V; the charger stays stopped until the next cold reset (R277). -/
def doChargerFault (s : State) : State :=
  if (s.get Reg.Fount.CELL0_V > 2800 ∨ s.get Reg.Fount.CELL1_V > 2800) ∧ !s.fnt.faulted then
    let s := { s with fnt.faulted := true, fnt.chg := 6, fnt.eocAt := none }
    (s.raise Reg.Fount.CHG_FAULT).log 0x100C 0 (leBytes 2 (s.get Reg.Fount.CELL0_V) ++ leBytes 2 (s.get Reg.Fount.CELL1_V))
  else s

/-! ### Samples, references and learning (R278 to R285) -/

/-- The magnitude of a current. -/
def magn (i : Int) : Nat := i.natAbs

/-- R281: the learned resistance is the mean of the last 16 values, once the floor of R282 is lifted. -/
def applyResistance (s : State) : State :=
  if errLifted s ∧ !s.fnt.rVals.isEmpty then
    let r := floorN (s.fnt.rVals.sum / (s.fnt.rVals.length : Nat))
    if r = s.get Reg.Fount.R_LEARNED then s else refreshGsb (s.put Reg.Fount.R_LEARNED r)
  else s

/-- R281: a step of at least 500 mA between two 1 kHz samples yields one value of ΔV/ΔI, in 0.1 mΩ. -/
def learnResistance (i v : Int) (s : State) : State :=
  let di := i - s.fnt.lastI
  if s.fnt.oneKhz ∧ magn s.fnt.lastI > 100 ∧ magn di ≥ 500 then
    let r : Rat := ((v - s.fnt.lastV : Int) : Rat) / ((di : Int) : Rat) * 10000
    applyResistance { s with fnt.rVals := (r :: s.fnt.rVals).take 16, fnt.resLearned := true }
  else s

/-- PACK_LOW becomes 1 (R284). -/
def setPackLow (s : State) : State :=
  if s.fnt.packLow then s
  else ({ s with fnt.packLow := true, fnt.voltOkAt := none } : State).log 0x1009 0 (leBytes 2 (s.get Reg.Fount.PACK_V))

/-- Discharged charge adds up to equivalent full cycles of 4 680 C (the spec gives CYCLE_COUNT no rule; DESIGN CHOICE). -/
def countCycles (charge : Int) (s : State) : State :=
  let d := s.fnt.cycMc + (if charge < 0 then charge.natAbs else 0)
  (({ s with fnt.cycMc := d % 4680000 } : State)).put Reg.Fount.CYCLE_COUNT (s.get Reg.Fount.CYCLE_COUNT + d / 4680000)

/-- GAUGE_SAMPLE (R278): current, both cell voltages and temperature, the charge counted, and what follows from them. -/
def doGaugeSample (x : GaugeIn) (s : State) : State :=
  if s.fnt.hibernating ∨ s.fnt.absent then s
  else
    let v := x.cell0Mv + x.cell1Mv
    let s := s.put Reg.Fount.PACK_V v
    let s := s.put Reg.Fount.CELL0_V x.cell0Mv
    let s := s.put Reg.Fount.CELL1_V x.cell1Mv
    let s := s.put Reg.Fount.PACK_T (toTwos 16 x.tempDc)
    let s := s.put Reg.Fount.PACK_I (toTwos 32 x.currentMa)
    let s := countCycles x.chargeMc (learnResistance x.currentMa (v : Int) s)
    let soc := socOfOcv (((v : Nat) : Rat) / 1000 - ((x.currentMa : Int) : Rat) / 1000 * rLearned s)
    let s := { s with fnt.counted := s.fnt.counted + ((x.chargeMc : Int) : Rat), fnt.socV := soc, fnt.lastI := x.currentMa, fnt.lastV := (v : Int), fnt.sampled := s.core.imp, fnt.oneKhz := decide (magn x.currentMa > 100) }
    let s := { s with fnt.restAt := if magn x.currentMa < 2 then (s.fnt.restAt <|> some s.core.imp) else none, fnt.eocAt := if s.fnt.chg = 2 ∧ magn x.currentMa < 26 then (s.fnt.eocAt <|> some s.core.imp) else none }
    let s := if x.cell0Mv < 1900 ∨ x.cell1Mv < 1900 ∨ v < 3800 then setPackLow s else s
    stepCharger s

/-- A reference or anchor for the counter (R281): SoC_c becomes SoC_v, learning the capacity where the span allows it. -/
def anchorGauge (s : State) : State :=
  let d := s.fnt.socV - s.fnt.anchor
  let s :=
    if d ≥ 4 / 10 ∨ d ≤ -(4 / 10) then
      let q := floorN (clampR 2340000 5148000 (s.fnt.counted / d))
      let s := ({ s with fnt.capLearned := true } : State)
      if q = s.get Reg.Fount.Q_LEARNED then s else refreshGsb (s.put Reg.Fount.Q_LEARNED q)
    else s
  applyResistance { s with fnt.anchor := s.fnt.socV, fnt.counted := 0 }

/-- GAUGE_REFERENCE: the end of a rest of 30 minutes (R281). It ends a pause of R285. -/
def doGaugeReference (s : State) : State :=
  match s.fnt.restAt with
  | some t =>
    if s.since t ≥ 225000000 then
      let s := anchorGauge s
      let s := { s with fnt.refAge := 0, fnt.disagree := false, fnt.restAt := some s.core.imp }
      let s := if s.fnt.calAt.isSome then ({ s with fnt.calAt := none } : State).settle Reg.Fount.CAL_REST else s
      stepCharger (refreshGsb s)
    else s
  | none => s

/-- The voltage reading of POWER_QUALIFY after a reset of kind C: an anchor, counted as a reference for learning (R281). -/
def coldAnchor (cell0 cell1 : Nat) (s : State) : State :=
  let v := cell0 + cell1
  let s := ((s.put Reg.Fount.PACK_V v).put Reg.Fount.CELL0_V cell0).put Reg.Fount.CELL1_V cell1
  let soc := socOfOcv (((v : Nat) : Rat) / 1000)
  { s with fnt.socV := soc, fnt.anchor := soc, fnt.counted := 0 }

/-- GAUGE_HIBERNATE: below 2 mA for 60 s (R279). -/
def doGaugeHibernate (s : State) : State :=
  match s.fnt.restAt with
  | some t => if s.since t ≥ 7500000 ∧ !s.fnt.hibernating then { s with fnt.hibernating := true, fnt.hibAt := s.core.imp } else s
  | none => s

/-- GAUGE_WAKE: the wake comparator, an access to block 0x0A, or an input below 8.5 V (R279). -/
def doGaugeWake (s : State) : State := { s with fnt.hibernating := false }

/-- HIBERNATION_HOUR: a modelled self-discharge of 0.1 % of q_l per 24 hours for each hour (R279). -/
def doHibernationHour (s : State) : State :=
  if s.fnt.hibernating ∧ s.since s.fnt.hibAt ≥ 450000000 then
    { s with fnt.counted := s.fnt.counted - ((s.get Reg.Fount.Q_LEARNED : Nat) : Rat) / 24000, fnt.hibAt := s.fnt.hibAt + 450000000 }
  else s

/-- PACK_LOW_CLEAR: e_volt has stayed above 0 for 1 s (R284); never while no pack answers (R389). -/
def doPackLowClear (s : State) : State :=
  match s.fnt.voltOkAt with
  | some t => if s.fnt.packLow ∧ !s.fnt.absent ∧ !s.fnt.unfit ∧ s.since t ≥ 125000 then { s with fnt.packLow := false, fnt.voltOkAt := none } else s
  | none => s

/-- CAL_REST is written: the charger pauses until a reference or for 40 minutes (R285). -/
def doCalRest (s : State) : State :=
  let s := s.ask Reg.Fount.CAL_REST
  stepCharger { s with fnt.calAt := some s.core.imp }

/-- The pause of R285 ends. -/
def endCalRest (s : State) : State :=
  if s.fnt.calAt.isSome then stepCharger (({ s with fnt.calAt := none } : State).settle Reg.Fount.CAL_REST) else s

/-- CAL_REST_TIMEOUT: 40 minutes have passed (R285). -/
def doCalRestTimeout (s : State) : State :=
  match s.fnt.calAt with
  | some t => if s.since t ≥ 300000000 then endCalRest s else s
  | none => s

/-! ### The figures of step 4 and the ceiling of step 7 -/

/-- GAUGE_MODE (R278). -/
def gaugeMode (s : State) : Nat :=
  if s.fnt.hibernating then 3
  else
    let m := magn s.fnt.lastI
    if m > 100 then 0 else if m ≥ 5 then 1 else 2

/-- Step 4: the newest figures, DISAGREE at the boundary where a disagreement begins (R283), and CAL_REQ (R285). -/
def takeFigures (s : State) : State :=
  let q := qLearned s
  let r := rLearned s
  let sc := socC s
  let err := errBound s
  let fig : Figures := ⟨packEnergy q r sc, packEnergy q r s.fnt.socV, derateOf (fromTwos 16 (s.get Reg.Fount.PACK_T)), err⟩
  let dis := decide (sc - s.fnt.socV > err ∨ s.fnt.socV - sc > err)
  let began := dis && !s.fnt.disagree
  let s := { s with fnt.fig := fig, fnt.disagree := dis, fnt.voltOkAt := if fig.eVolt > 0 then (s.fnt.voltOkAt <|> some s.core.imp) else none }
  let s := s.put Reg.Fount.SOC_C (floorN (sc * 10000))
  let s := s.put Reg.Fount.SOC_V (floorN (s.fnt.socV * 10000))
  let s := s.put Reg.Fount.ERR_BOUND (floorN (err * 10000))
  let s := s.put Reg.Fount.E_COUNT (floorN (fig.eCount * 1000))
  let s := s.put Reg.Fount.E_VOLT (floorN (fig.eVolt * 1000))
  let s := s.put Reg.Fount.DERATE (floorN (fig.derate * 10000))
  let s := s.put Reg.Fount.REF_AGE (refAgeUnits s)
  let s := s.put Reg.Fount.GAUGE_MODE (gaugeMode s)
  if began then
    (s.raise Reg.Fount.DISAGREE).log 0x1008 0 (leBytes 2 (floorN (sc * 10000)) ++ leBytes 2 (floorN (s.fnt.socV * 10000)))
  else s

/-- CAL_REQ: REF_AGE above 168 h. -/
def calReq (s : State) : Bool := s.fnt.refAge > 168 * 450000000

/-- e_ride in J (R287). -/
def eRide (s : State) : Rat := (s.get Reg.Fount.CASTS_REQUIRED : Nat) * 80 * (s.get Reg.Fount.RIDE_MS : Nat) / 1000

/-- What the pack surely holds: the lower estimate, derated and less the error bound (R287, R293). -/
def sureEnergy (s : State) : Rat := min s.fnt.fig.eCount s.fnt.fig.eVolt * s.fnt.fig.derate * (1 - s.fnt.fig.err)

/-- e_avail (R287). -/
def eAvail (s : State) : Rat := sureEnergy s - eRide s - (s.get Reg.Fount.E_MARGIN : Nat)

/-- SLOT_READY: every half in service has its older slot erased (R297). -/
def slotReady (s : State) : Bool :=
  s.halfOk && (!s.st0.ok || s.st0.olderErased) && (!s.st1.ok || s.st1.olderErased)

/-- The conditions under which the ceiling is 0 (R289). -/
def ceilingHeld (s : State) : Bool := !s.img.committed || s.fnt.packLow || !slotReady s || !s.halfOk

/-- The ceiling in 4 096-byte blocks (R287 to R289); 1 GiB is 262 144 blocks. -/
def ceilingOf (s : State) : Nat :=
  if ceilingHeld s then 0
  else
    let n : Rat := (s.get Reg.Fount.CASTS_REQUIRED : Nat)
    let per := eAvail s / n
    let gib := clampR 0 112 ((per - 40) / (32 / 10))
    let c := min (floorN (gib * 262144)) (s.get Reg.Ecc.CASE_LIMIT * 128)
    if s.core.mode == .hold then min c s.fnt.holdCeil else c

/-- Step 7 of Table 1.4. -/
def stepCeiling (s : State) : State :=
  let s := s.put Reg.Fount.E_RIDE (floorN (eRide s * 1000))
  let s := s.put Reg.Fount.E_AVAIL (toTwos 32 (eAvail s * 1000).floor)
  s.put Reg.Fount.CEILING (ceilingOf s)

/-! ### The commands -/

def execGaugeSample (x : GaugeIn) (s : State) : Host.Outcome State Fault Refusal := .next (whenOn (doGaugeSample x) s)
def execGaugeHibernate (s : State) : Host.Outcome State Fault Refusal := .next (whenOn doGaugeHibernate s)
def execGaugeWake (s : State) : Host.Outcome State Fault Refusal := .next (whenOn doGaugeWake s)
def execHibernationHour (s : State) : Host.Outcome State Fault Refusal := .next (whenOn doHibernationHour s)
def execGaugeReference (s : State) : Host.Outcome State Fault Refusal := .next (whenOn doGaugeReference s)
def execEndOfCharge (s : State) : Host.Outcome State Fault Refusal := .next (whenOn doEndOfCharge s)
def execChargerFault (s : State) : Host.Outcome State Fault Refusal := .next (whenOn doChargerFault s)
def execPackLowClear (s : State) : Host.Outcome State Fault Refusal := .next (whenOn doPackLowClear s)
def execCalRest (s : State) : Host.Outcome State Fault Refusal := .next (whenOn doCalRest s)
def execCalRestTimeout (s : State) : Host.Outcome State Fault Refusal := .next (whenOn doCalRestTimeout s)
def execGsbRefresh (s : State) : Host.Outcome State Fault Refusal := .next (whenOn doGsbRefresh s)
def execGsbLatch (s : State) : Host.Outcome State Fault Refusal := .next (whenOn doGsbLatch s)
def execGsbLoad (s : State) : Host.Outcome State Fault Refusal := .next (whenOn doGsbLoad s)
def execGsbNone (s : State) : Host.Outcome State Fault Refusal := .next (whenOn doGsbNone s)

end Sys2Proof.Machine
end

