-- ==== Sys2Proof/Machine/Scheduler.lean ====
section
/-!
DEFINITION. The Make-up scheduler (chapter 13): budgets, the four passes of a forme, minimum shares, thermal states, and the
tags and windows of fairness.
-/

namespace Sys2Proof.Machine

/-! ### Queueing -/

/-- Put an item at the end of its class. -/
def enqueue (it : Item) (s : State) : State := { s with sch.queue := s.sch.queue ++ [it] }

/-- Press items, each charged 128 000 bytes (R310). -/
def pressItem (cls : Nat) : Item := ⟨cls, [(0, 128000)], 0, 0⟩

/-- A drive command of a port: one slot for each started 131 072 bytes, and at least one (R310). -/
def driveItem (cls port bytes : Nat) : Item := ⟨cls, [(1000 + port, max 1 ((bytes + 131071) / 131072))], 0, 0⟩

/-! ### Budgets (Table 13.2) -/

/-- Budgets by key; front-end credit can be overdrawn. -/
abbrev Budgets := List (Nat × Int)

/-- What a budget has left. -/
def budgetOf (b : Budgets) (k : Nat) : Int := (nfind k b).getD 0

/-- DMA channels of the image that are not halted. -/
def liveChannels (s : State) : Nat :=
  ((List.range s.dma.channels).filter fun c => s.get Reg.Dma.CH_STATUS c != 4).length

/-- Command slots of a drive port (Table 13.2). -/
def portSlots (s : State) (p : Nat) : Nat :=
  let d := s.drivePort p
  if d.inService && d.outstanding < d.qdepth then 4 else 0

/-- Credit of a front-end port (Table 13.2, R310). -/
def portCredit (s : State) (p : Nat) : Int :=
  if s.bit Reg.FeP.LINK_UP p then 48000 - ((ngetD p (0 : Nat) s.sch.debt : Nat) : Int) else 0

/-- The budgets of the new impression (R309). -/
def budgets (s : State) : Budgets :=
  [(0, ((128000 * pressPairs s : Nat) : Int)), (1, ((819200 * ((List.range 4).filter fun c => s.get Reg.Ecc.CH_STATE c ≤ 2).length : Nat) : Int)),
    (2, ((32 * liveChannels s : Nat) : Int))] ++
  ((List.range 128).map fun p => (1000 + p, ((portSlots s p : Nat) : Int))) ++
  ((List.range 16).map fun p => (2000 + p, portCredit s p))

/-- Whether a budget has room for a cost (R312): the whole cost, or any credit above 0. -/
def hasRoom (b : Budgets) (k cost : Nat) : Bool :=
  if k ≥ 2000 then budgetOf b k > 0 else budgetOf b k ≥ (cost : Int)

/-- Charge a cost. -/
def chargeBudget (b : Budgets) (k cost : Nat) : Budgets := nset k (budgetOf b k - (cost : Int)) b

/-! ### The four passes (R312, R313) -/

/-- A pass under way: budgets, what the class has placed by key in this pass, ports passed over, items placed and left. -/
structure PassSt where
  bud : Budgets
  used : NMap Nat
  spent : List Nat
  placed : List Item
  left : List Item
  ended : Bool
  deriving DecidableEq, Repr

/-- Offer the next item of a class. `may` is what the pass asks of the item beyond room. -/
def offer (may : NMap Nat → Item → Bool) (st : PassSt) (it : Item) : PassSt :=
  let short := it.cost.filter fun c => !hasRoom st.bud c.1 c.2
  if st.ended then { st with left := st.left ++ [it] }
  else if it.cost.any fun c => st.spent.contains c.1 then { st with left := st.left ++ [it] }
  else if !short.isEmpty then
    match short with
    | [c] => if c.1 ≥ 1000 then { st with spent := c.1 :: st.spent, left := st.left ++ [it] } else { st with ended := true, left := st.left ++ [it] }
    | _ => { st with ended := true, left := st.left ++ [it] }
  else if !may st.used it then { st with ended := true, left := st.left ++ [it] }
  else
    { st with bud := it.cost.foldl (fun b c => chargeBudget b c.1 c.2) st.bud, used := it.cost.foldl (fun u c => nset c.1 (ngetD c.1 0 u + c.2) u) st.used, placed := st.placed ++ [it] }

/-- The forme being composed: budgets, what is placed, and each class's queue. -/
structure FormeSt where
  bud : Budgets
  placed : List Item
  queues : NMap (List Item)
  /-- cost placed by key by C2, by C3, and by C5 to C7 in passes 3 and 4 -/
  used2 : NMap Nat
  used3 : NMap Nat
  usedBg : NMap Nat
  bgCap : Budgets
  deriving DecidableEq, Repr

/-- Add the costs of two tallies. -/
def addUse (a b : NMap Nat) : NMap Nat := b.foldl (fun u c => nset c.1 (ngetD c.1 0 u + c.2) u) a

/-- Run one class through one pass. -/
def runClass (may : NMap Nat → Item → Bool) (bg : Bool) (c : Nat) (f : FormeSt) : FormeSt :=
  let q := ngetD c [] f.queues
  let r := q.foldl (offer may) ⟨f.bud, [], [], [], [], false⟩
  { f with bud := r.bud, placed := f.placed ++ r.placed, queues := nset c r.left f.queues, used2 := if c = 2 then addUse f.used2 r.used else f.used2, used3 := if c = 3 then addUse f.used3 r.used else f.used3, usedBg := if bg then addUse f.usedBg r.used else f.usedBg }

/-- The minimum share of a class, with the boost of R315. -/
def shareOf (s : State) (c : Nat) : Nat :=
  let m2 := s.get Reg.Mu.MIN_C2
  let m3 := s.get Reg.Mu.MIN_C3
  let m4 := s.get Reg.Mu.MIN_C4
  let m5 := s.get Reg.Mu.MIN_C5
  let m6 := s.get Reg.Mu.MIN_C6
  if c = 2 then m2 else if c = 3 then m3
  else if c = 4 then (if s.sch.boost then min (2 * m4) (100 - (m2 + m3 + m5 + m6)) else m4)
  else if c = 5 then m5 else if c = 6 then m6 else 0

/-- The cap of T2 on C2 and C3: half of each budget left after pass 1 (Table 13.5). -/
def t2Ok (s : State) (after1 : Budgets) (used : NMap Nat) (placed : NMap Nat) (it : Item) : Bool :=
  s.sch.therm < 2 || it.cost.all fun c => ((ngetD c.1 0 used + ngetD c.1 0 placed + c.2 : Nat) : Int) * 2 ≤ budgetOf after1 c.1

/-- The cap of T1 on C5 to C7: half of each budget left when pass 3 reaches C5 (Table 13.5). -/
def t1Ok (s : State) (cap : Budgets) (used : NMap Nat) (placed : NMap Nat) (it : Item) : Bool :=
  s.sch.therm < 1 || it.cost.all fun c => ((ngetD c.1 0 used + ngetD c.1 0 placed + c.2 : Nat) : Int) * 2 ≤ budgetOf cap c.1

/-- Pass 2 for one class: while what it has placed in this pass is below its reservation of every budget used (R312). -/
def pass2 (s : State) (after1 : Budgets) (c : Nat) (f : FormeSt) : FormeSt :=
  let half := if s.sch.therm ≥ 1 ∧ (c = 5 ∨ c = 6) then 2 else 1
  let res (k : Nat) : Int := ((shareOf s c : Nat) : Int) * budgetOf after1 k / 100 / half
  let below (u : NMap Nat) (it : Item) : Bool := it.cost.all fun x => ((ngetD x.1 0 u : Nat) : Int) < res x.1
  let used := if c = 2 then f.used2 else f.used3
  runClass (fun u it => below u it && (c ≥ 4 || t2Ok s after1 used u it)) false c f

/-- Pass 3 for one class: while there is room and the thermal caps allow. -/
def pass3 (s : State) (after1 : Budgets) (c : Nat) (f : FormeSt) : FormeSt :=
  let f := if c = 5 then { f with bgCap := f.bud } else f
  if c ≤ 3 then
    let used := if c = 2 then f.used2 else f.used3
    runClass (fun u it => t2Ok s after1 used u it) false c f
  else if c = 4 then runClass (fun _ _ => true) false c f
  else runClass (fun u it => t1Ok s f.bgCap f.usedBg u it) true c f

/-- The classes a module state admits (Table 1.7). -/
def admits (m : ModState) (c : Nat) : Bool :=
  match m with
  | .powerQualify | .castDone => false
  | .selfTest | .caseInit | .imageWait | .keyWait | .maintenance | .safe => c == 0
  | .recast | .cast => c ≤ 1
  | .assemble => c == 0 || c == 4 || c == 5
  | .pressRun | .hold => c ≤ 7
  | .release => c ≤ 1 || c == 3 || c == 4 || c == 6

/-- The items of a class in its order (Table 13.1): C2 and C3 by start tag, then connection. -/
def classQueue (q : List Item) (c : Nat) : List Item :=
  let xs := q.filter fun it => it.cls == c
  if c = 2 ∨ c = 3 then sortBy (fun it => it.tag * 4096 + it.conn) xs else xs

/-- Compose the forme of the new impression (R312 to R314). -/
def composeForme (s : State) : FormeSt :=
  let qs : NMap (List Item) := (List.range 8).map fun c => (c, if admits s.core.mode c then classQueue s.sch.queue c else [])
  let f : FormeSt := ⟨budgets s, [], qs, [], [], [], []⟩
  let f := runClass (fun _ _ => true) false 1 (runClass (fun _ _ => true) false 0 f)
  let after1 := f.bud
  let f := [2, 3, 4, 5, 6].foldl (fun f c => pass2 s after1 c f) f
  let f := [2, 3, 4, 5, 6].foldl (fun f c => pass3 s after1 c f) f
  runClass (fun u it => t1Ok s f.bgCap f.usedBg u it) true 7 f

/-- Step 8 of Table 1.4: budgets shown, items placed and counted, debts taken over (R309 to R312). -/
def stepForme (s : State) : State :=
  let b := budgets s
  let f := composeForme s
  let s := s.put Reg.Mu.PRESS_BUDGET (budgetOf b 0).toNat
  let s := s.put Reg.Mu.CASE_BUDGET (budgetOf b 1).toNat
  let s := s.put Reg.Mu.DESC_BUDGET (budgetOf b 2).toNat
  let s := s.put Reg.Mu.FE_CREDIT (((List.range 16).map fun p => max 0 (budgetOf b (2000 + p))).sum).toNat
  let s := (List.range 8).foldl (fun s c =>
    let had := classQueue s.sch.queue c
    let n := (f.placed.filter fun it => it.cls == c).length
    let s := s.bump Reg.Mu.ITEMS n c
    if n = 0 ∧ !had.isEmpty then s.bump Reg.Mu.STARVED 1 c else s) s
  let kept := (List.range 8).flatMap fun c =>
    if admits s.core.mode c then ngetD c [] f.queues else s.sch.queue.filter fun it => it.cls == c
  let debt : NMap Nat := (List.range 16).foldl (fun m p =>
    let v := budgetOf f.bud (2000 + p)
    nput p (if s.bit Reg.FeP.LINK_UP p then (-v).toNat else ngetD p 0 s.sch.debt) m) []
  { s with sch.queue := kept, sch.forme := f.placed, sch.debt := debt }

/-! ### Minimum shares (R311) -/

/-- MIN_SHARE_WRITE: a write to the word that holds MIN_C2 to MIN_C5, or MIN_C6; ignored when the sum would exceed 100. -/
def doMinShareWrite (addr v : Nat) (s : State) : State :=
  let f (F : FieldSpec) (lo : Nat) (a : Nat) : Nat := if addr = a then v / 2 ^ lo % 128 else s.get F
  let m2 := f Reg.Mu.MIN_C2 0 0x04000C
  let m3 := f Reg.Mu.MIN_C3 8 0x04000C
  let m4 := f Reg.Mu.MIN_C4 16 0x04000C
  let m5 := f Reg.Mu.MIN_C5 24 0x04000C
  let m6 := f Reg.Mu.MIN_C6 0 0x040010
  if m2 + m3 + m4 + m5 + m6 > 100 then (s.raise Reg.Mu.SHARE_REJ).log 0x2003 0 (leBytes 4 v)
  else ((((s.put Reg.Mu.MIN_C2 m2).put Reg.Mu.MIN_C3 m3).put Reg.Mu.MIN_C4 m4).put Reg.Mu.MIN_C5 m5).put Reg.Mu.MIN_C6 m6

/-! ### Thermal states (R316, R317) -/

/-- Threshold of a thermal state, 0.1 °C. -/
def thermThreshold (t : Nat) : Int := if t = 1 then 1000 else if t = 2 then 1100 else 1200

/-- Keep or begin a span while a condition holds. -/
def spanFrom (now : Nat) (c : Bool) (o : Option Nat) : Option Nat := if c then (o <|> some now) else none

/-- The inlet floors (R317). -/
def stepFloors (s : State) : State :=
  match s.sch.enclAt with
  | none => { s with sch.floor1 := false, sch.floor2 := false, sch.enclLow1 := none, sch.enclLow2 := none }
  | some _ =>
    let t := fromTwos 16 (s.get Reg.Mu.ENCL_TEMP)
    let now := s.core.imp
    let l1 := spanFrom now (t ≤ 650) s.sch.enclLow1
    let l2 := spanFrom now (t ≤ 700) s.sch.enclLow2
    let expired (o : Option Nat) : Bool := match o with | some a => now - a ≥ 125000 | none => false
    { s with sch.enclLow1 := l1, sch.enclLow2 := l2, sch.floor1 := t > 700 || (s.sch.floor1 && !expired l1), sch.floor2 := t > 750 || (s.sch.floor2 && !expired l2) }

/-- The state that the temperature and the floors ask for at once. -/
def thermAsked (s : State) : Nat :=
  let j := s.sch.junction
  let a := if s.sch.sensorFail then 2 else if j ≥ 1200 then 3 else if j ≥ 1100 then 2 else if j ≥ 1000 then 1 else 0
  let b := if s.sch.floor2 then 2 else if s.sch.floor1 then 1 else 0
  max a b

/-- A change of the thermal state (R316). -/
def setTherm (t : Nat) (s : State) : State :=
  if t = s.sch.therm then s
  else
    let old := s.sch.therm
    let s := { s with sch.therm := t, sch.thermAt := s.core.imp }
    (s.raise Reg.Mu.THERM_CHANGE).log 0x2001 0 ([old, t] ++ leBytes 2 (toTwos 16 s.sch.junction))

/-- Step 6 of Table 1.4: readings outside -55 °C to +150 °C are discarded; the state rises at once (R316). -/
def stepThermal (sensors : List Int) (s : State) : State :=
  let ok := (sensors.take 8).filter fun t => -550 ≤ t && t ≤ 1500
  let fail := ok.isEmpty
  let s := if fail && !s.sch.sensorFail then s.log 0x2002 0 else s
  let j := if fail then s.sch.junction else ok.foldl max (-550)
  let s := { s with sch.sensorFail := fail, sch.junction := j }
  let s := s.put Reg.Mu.JUNCTION_T (toTwos 16 j)
  let s := stepFloors s
  let now := s.core.imp
  let s := { s with sch.cool1 := spanFrom now (!fail && j ≤ 950) s.sch.cool1, sch.cool2 := spanFrom now (!fail && j ≤ 1050) s.sch.cool2, sch.cool3 := spanFrom now (!fail && j ≤ 1150) s.sch.cool3 }
  if thermAsked s > s.sch.therm then setTherm (thermAsked s) s else s

/-- THERMAL_STEP_DOWN: one step, after 1 s at least 5 °C below the state's threshold, and no floor above (R316, R317). -/
def doThermalStepDown (s : State) : State :=
  let t := s.sch.therm
  let c := if t = 1 then s.sch.cool1 else if t = 2 then s.sch.cool2 else s.sch.cool3
  let fl := if s.sch.floor2 then 2 else if s.sch.floor1 then 1 else 0
  match c with
  | some a => if t > 0 ∧ s.since a ≥ 125000 ∧ fl < t ∧ s.core.imp > s.sch.thermAt then setTherm (t - 1) s else s
  | none => s

/-- ENCL_TEMP_WRITE (R317). -/
def doEnclTempWrite (v : Nat) (s : State) : State :=
  ({ s with sch.enclAt := some s.core.imp } : State).put Reg.Mu.ENCL_TEMP v

/-- ENCL_TEMP_STALE: 60 s have passed since the last write; both floors lift (R317). -/
def doEnclTempStale (s : State) : State :=
  match s.sch.enclAt with
  | some t => if s.since t ≥ 7500000 then { s with sch.enclAt := none, sch.floor1 := false, sch.floor2 := false, sch.enclLow1 := none, sch.enclLow2 := none } else s
  | none => s

/-! ### The boost of C4 (R315) -/

/-- The boost holds while the dirty bytes exceed 90 % of the ceiling. -/
def stepBoost (s : State) : State :=
  let on := decide (s.dirty * 10 > s.get Reg.Fount.CEILING * 9)
  let began := on && !s.sch.boost
  let s := { s with sch.boost := on }
  if began then (s.raise Reg.Mu.BOOST_BEGAN).log 0x2004 0 (leBytes 4 s.dirty) else s

/-! ### Fairness (R319 to R321) -/

/-- The weight of a connection; 0 is taken as 1 (R319). -/
def weightOf (s : State) (conn : Nat) : Nat :=
  let w := match nfind conn s.conns with | some c => s.get Reg.Mu.HOST_WEIGHT c.host | none => 1
  if w = 0 then 1 else w

/-- The fairness record of a connection. -/
def State.fairOf (s : State) (conn : Nat) : FairRec := ngetD conn {} s.sch.fair
def State.setFair (s : State) (conn : Nat) (r : FairRec) : State := { s with sch.fair := nset conn r s.sch.fair }

/-- Tag a unit of C2: its start tag, and the state with the connection's new finish tag (R319). Tags are 64 bits wide. -/
def tag2 (conn bytes : Nat) (s : State) : Nat × State :=
  let r := s.fairOf conn
  let st := max s.sch.v2 r.fin2
  let w := weightOf s conn
  (st, s.setFair conn { r with fin2 := (st + (bytes * 256 + w - 1) / w) % 2 ^ 64, await2 := true })

/-- Tag a command of C3, which is admitted with it. -/
def tag3 (conn bytes : Nat) (s : State) : State :=
  let r := s.fairOf conn
  let l := if bytes = 0 then 4096 else bytes
  let st := max s.sch.v3 r.fin3
  let w := weightOf s conn
  let s := s.setFair conn { r with fin3 := (st + (l * 256 + w - 1) / w) % 2 ^ 64, await3 := true, adm3 := r.adm3 + bytes }
  { s with sch.top3 := max s.sch.top3 st, sch.total3 := s.sch.total3 + bytes }

/-- After admission at a boundary, V becomes the largest start tag admitted; with nothing awaiting, the largest F (R319). -/
def stepTags (s : State) : State :=
  let waiting2 := s.units.any fun _ => true
  let v2 := if waiting2 then max s.sch.v2 s.sch.top2 else (s.sch.fair.map fun p => p.2.fin2).foldl max s.sch.v2
  let v3 := (s.sch.fair.map fun p => p.2.fin3).foldl max s.sch.v3
  let s := { s with sch.v2 := v2, sch.v3 := v3, sch.top2 := 0, sch.top3 := 0 }
  let s := (s.put Reg.Mu.VTIME2_LO (v2 % 2 ^ 32)).put Reg.Mu.VTIME2_HI (v2 / 2 ^ 32)
  (s.put Reg.Mu.VTIME3_LO (v3 % 2 ^ 32)).put Reg.Mu.VTIME3_HI (v3 / 2 ^ 32)

/-- Whether a unit is held back by what R321 excepts. -/
def heldBack (s : State) (u : AdmUnit) : Bool :=
  u.held || portCredit s u.port ≤ 0 || !s.bit Reg.FeP.LINK_UP u.port

/-- A boundary of the window for each connection with a unit awaiting admission (R321). -/
def countBacklog (s : State) : State :=
  let cs := (s.units.filter fun u => !heldBack s u).map (·.conn)
  let s := s.units.foldl (fun s u => s.setFair u.conn { s.fairOf u.conn with await2 := true }) s
  cs.eraseDups.foldl (fun s c => let r := s.fairOf c; s.setFair c { r with back2 := r.back2 + 1 }) s

/-- FAIR_WINDOW_END: an aligned window of 1 024 impressions ends; the selected connection's figures are latched (R321). -/
def doFairWindowEnd (s : State) : State :=
  if s.core.imp % 1024 = 0 ∧ s.core.imp > 0 then
    let c := s.get Reg.Mu.FAIR_SEL
    let r := s.fairOf c
    let w := weightOf s c
    let sum2 := ((s.sch.fair.filter fun p => p.2.await2).map fun p => weightOf s p.1).sum
    let sum3 := ((s.sch.fair.filter fun p => p.2.await3).map fun p => weightOf s p.1).sum
    let bound (sum total : Nat) : Int := (if sum = 0 then 0 else ((w * total / sum : Nat) : Int)) - 1048576
    let opened := (nfind c s.conns).isSome && decide (r.openAt + 1024 ≤ s.core.imp)
    let s := (s.put Reg.Mu.FAIR_WEIGHT w).putB Reg.Mu.FAIR_VALID opened
    let s := (s.put Reg.Mu.FAIR_ADMIT_C2 r.adm2).put Reg.Mu.FAIR_ADMIT_C3 r.adm3
    let s := (s.put Reg.Mu.FAIR_BACKLOG_C2 r.back2).put Reg.Mu.FAIR_BACKLOG_C3 r.back3
    let s := (s.put Reg.Mu.FAIR_BOUND_C2 (toTwos 32 (bound sum2 s.sch.total2))).put Reg.Mu.FAIR_BOUND_C3 (toTwos 32 (bound sum3 s.sch.total3))
    let s := (s.put Reg.Mu.FAIR_FIN_LO (r.fin2 % 2 ^ 32)).put Reg.Mu.FAIR_FIN_HI (r.fin2 / 2 ^ 32)
    { s with sch.fair := nmapv (fun _ x => { x with adm2 := 0, adm3 := 0, back2 := 0, back3 := 0, await2 := false, await3 := false }) s.sch.fair, sch.total2 := 0, sch.total3 := 0 }
  else s

/-- A write to FAIR_SEL: the latched figures read 0 until a window has ended after it (R322). -/
def fairSelWritten (s : State) : State :=
  let s := (s.put Reg.Mu.FAIR_WEIGHT 0).putB Reg.Mu.FAIR_VALID false
  let s := (s.put Reg.Mu.FAIR_ADMIT_C2 0).put Reg.Mu.FAIR_ADMIT_C3 0
  let s := (s.put Reg.Mu.FAIR_BACKLOG_C2 0).put Reg.Mu.FAIR_BACKLOG_C3 0
  let s := (s.put Reg.Mu.FAIR_BOUND_C2 0).put Reg.Mu.FAIR_BOUND_C3 0
  (s.put Reg.Mu.FAIR_FIN_LO 0).put Reg.Mu.FAIR_FIN_HI 0

/-! ### The commands -/

def execThermalStepDown (s : State) : Host.Outcome State Fault Refusal := .next (whenOn doThermalStepDown s)
def execEnclTempWrite (v : RegWord) (s : State) : Host.Outcome State Fault Refusal := .next (whenOn (doEnclTempWrite v.toNat) s)
def execEnclTempStale (s : State) : Host.Outcome State Fault Refusal := .next (whenOn doEnclTempStale s)
def execMinShareWrite (a : RegAddr) (v : RegWord) (s : State) : Host.Outcome State Fault Refusal :=
  .next (whenOn (doMinShareWrite a.toNat v.toNat) s)
def execFairWindowEnd (s : State) : Host.Outcome State Fault Refusal := .next (whenOn doFairWindowEnd s)

end Sys2Proof.Machine
end

