-- ==== Sys2Proof/Machine/Nvme.lean ====
section
/-!
DEFINITION. The NVMe/TCP target (R41, R42, R45 to R48, R50 to R56, R475, R87, R89, R169): connections, controllers, features,
log pages, Identify, and security protocol 0xF0.
-/

namespace Sys2Proof.Machine

/-! ### Checks that every command passes (R46, R50, R51) -/

/-- The C2HTermReq statuses of R43: header field, sequence, header digest, range, MAXH2CDATA, unsupported parameter; and the
field error information of PFV. -/
def fesHeader : Nat := Config.fesOf 0
def fesSequence : Nat := Config.fesOf 1
def fesDigest : Nat := Config.fesOf 2
def fesRange : Nat := Config.fesOf 3
def fesLimit : Nat := Config.fesOf 4
def fesUnsupported : Nat := Config.fesOf 5
def feiPfv : Nat := Config.fesOf 16

/-- Queues on which a command exists (Table 2.2). -/
inductive OnQueue where
  | admin | io | both
  deriving DecidableEq, Repr

def OnQueue.has (q : OnQueue) (admin : Bool) : Bool := match q with | .admin => admin | .io => !admin | .both => true

/-- What precedes checks 3 to 8: a connection whose ICReq is done, a successful Connect (R46), a supported opcode (R50), a free
CID, and authentication (Table 2.3). -/
def gateStatus (q : OnQueue) (auth : Bool) (h : CmdHdr) (c : Conn) (s : State) : Option (Nat × Nat) :=
  if !c.connected then some (0, 0x0C)
  else if !q.has c.admin then some (0, 0x01)
  else if (s.cmd (cmdKey h.conn h.cid)).isSome then some (0, 0x03)
  else if auth ∧ c.authReq ∧ !c.authDone then some (Config.authRequiredStatus / 256, Config.authRequiredStatus % 256)
  else none

/-- Run a command past those checks; a PDU before the ICReq is out of sequence (R43). -/
def gated (q : OnQueue) (auth : Bool) (h : CmdHdr) (k : Conn → State → State) (s : State) : State :=
  match s.conn h.conn with
  | none => s
  | some c =>
    if !c.icDone then terminate h.conn fesSequence 0 s
    else match gateStatus q auth h c s with
      | some (sct, sc) => respond h.conn h.cid sct sc 0 s
      | none => k c s

/-- Namespace index of an NSID. -/
def nsIx (nsid : Nat) : Nat := nsid - 1

/-- Whether an NSID names a namespace that the host of a connection may use. -/
def nsAllowed (s : State) (c : Conn) (nsid : Nat) : Bool :=
  nsid ≥ 1 && (nsOf s (nsIx nsid)).isSome &&
    ((imgOf s).bind fun m => m.hosts[c.host]?).any fun e => e.perms / 2 ^ nsIx nsid % 2 == 1

/-- ANA state of a signature on a port: 1 optimized, 2 non-optimized, 3 inaccessible (R62). -/
def anaState (s : State) (p g : Nat) : Nat := ngetD g 3 (s.fePort p).ana

/-- Checks 3 and 4 of Table 2.3. An admin command whose NSID is 0 or 0xFFFF_FFFF names no namespace. -/
def checkNs (admin : Bool) (h : CmdHdr) (c : Conn) (s : State) : Option (Nat × Nat) :=
  if admin ∧ (h.nsid = 0 ∨ h.nsid = 0xFFFFFFFF) then none
  else if !nsAllowed s c h.nsid then some (0, 0x0B)
  else if anaState s c.port (nsSig s (nsIx h.nsid)) = 3 then some (3, 0x02)
  else none

/-- Checks 5 and 6 of Table 2.3, with the length that the command implies. -/
def checkLen (h : CmdHdr) (implied : Option Nat) : Option (Nat × Nat) :=
  if h.len > 1048576 then some (0, 0x02)
  else if h.inCapsule > 8192 ∨ implied.any (· != h.len) then some (0, 0x0F)
  else none

/-- An admin command past Table 2.3. -/
def adminCmd (h : CmdHdr) (implied : Option Nat) (k : Conn → State → State) (s : State) : State :=
  gated .admin true h (fun c s =>
    match checkNs true h c s <|> checkLen h implied with
    | some (sct, sc) => respond h.conn h.cid sct sc 0 s
    | none => k c (tag3 h.conn h.len s)) s

def ok (h : CmdHdr) (dw0 : Nat) (s : State) : State := respond h.conn h.cid 0 0 dw0 s
def invalidField (h : CmdHdr) (s : State) : State := respond h.conn h.cid 0 0x02 0 s

/-- Bytes returned to the initiator from an offset of a page, zeros beyond its end, then the completion (R41, R53). -/
def returnBytes (h : CmdHdr) (offset : Nat) (page : List Nat) (s : State) : State :=
  let b := ((page.drop offset).take h.len)
  ok h 0 (s.pdu h.conn (.c2hBytes h.conn h.cid (b ++ List.replicate (h.len - b.length) 0)))

/-- A structure given by fields at offsets. -/
def layout (len : Nat) (fs : List (Nat × List Nat)) : List Nat :=
  fs.foldl (fun b f => (b.take f.1) ++ f.2 ++ b.drop (f.1 + f.2.length)) (List.replicate len 0)

/-- ASCII bytes. -/
def ascii (x : String) : List Nat := x.toList.map fun c => c.toNat

/-- The module serial, 16 bytes (R442). -/
def serialBytes : List Nat := leBytes 16 Config.serial

/-! ### Connections (R41, R42, R46) -/

/-- ICREQ (R41 to R43). -/
def doIcreq (x : IcReq) (s : State) : State :=
  match s.conn x.conn with
  | none => s
  | some c =>
    if c.icDone then terminate x.conn fesSequence 0 s
    else if x.pfv ≠ 0 then terminate x.conn fesUnsupported feiPfv s
    else if !x.headerOk ∨ x.hpda > 31 then terminate x.conn fesHeader 0 s
    else if (s.bit Reg.Fe.REQ_HDGST ∧ !x.hdgst) ∨ (s.bit Reg.Fe.REQ_DDGST ∧ !x.ddgst) then terminate x.conn fesUnsupported 0 s
    else
      let s := s.updConn x.conn fun c => { c with icDone := true, hdgst := x.hdgst, ddgst := x.ddgst, hpda := x.hpda, maxR2t := x.maxR2t }
      s.pdu x.conn (.icResp x.conn x.hdgst x.ddgst)

/-- Index of a host NQN in the image's host table. -/
def hostIx (s : State) (nqn : List Nat) : Option Nat := (imgOf s).bind fun m => m.hosts.findIdx? fun e => e.nqn == nqn

/-- The lowest CNTLID not in use, 0x0001 to 0x0100. -/
def freeCntlid (s : State) : Option Nat := ((List.range 256).find? fun i => (nfind (i + 1) s.ctrls).isNone).map (· + 1)

/-- The parameter of a Connect that is invalid, if any: 1 subsystem NQN, 2 CNTLID, 3 QID, 4 queue size. -/
def connectBad (x : ConnectCmd) (host : Nat) (s : State) : Option Nat :=
  let sub := ((imgOf s).map (·.subNqn)).getD []
  if x.subNqn ≠ sub then some 1
  else if x.qid = 0 then
    if x.cntlid ≠ 0xFFFF then some 2 else if x.sqsize + 1 > 32 then some 4 else none
  else
    match nfind x.cntlid s.ctrls with
    | none => some 2
    | some t =>
      if t.host ≠ host then some 2
      else if x.qid > t.queues ∨ (s.conns.any fun p => p.2.connected && !p.2.admin && p.2.cntlid == x.cntlid && p.2.qid == x.qid) then some 3
      else if x.sqsize + 1 > 128 then some 4 else none

/-- KATO in ms, rounded up to 100 ms (R48). -/
def katoMs (v : Nat) : Nat := (v + 99) / 100 * 100

/-- A Connect that succeeds. -/
def connected (x : ConnectCmd) (host cntlid : Nat) (s : State) : State :=
  let auth := s.bit Reg.Fe.REQ_AUTH || ((imgOf s).bind fun m => m.hosts[host]?).any (·.auth)
  let s := if x.qid = 0 then
      let port := ((s.conn x.conn).map (·.port)).getD 0
      { s with ctrls := nset cntlid { host := host, admin := x.conn, port := port, kato := katoMs x.kato, kaAt := s.core.imp } s.ctrls }
    else s
  let s := s.updConn x.conn fun c => { c with connected := true, cntlid := cntlid, admin := decide (x.qid = 0), qid := x.qid, qsize := x.sqsize, host := host, authReq := auth }
  respond x.conn x.cid 0 0 (cntlid + if auth then Config.standardByte 0x7F 0 else 0) s

/-- CONNECT (Table 2.1): the first failing row decides. -/
def doConnect (x : ConnectCmd) (s : State) : State :=
  match s.conn x.conn with
  | none => s
  | some c =>
    if !c.icDone then terminate x.conn fesSequence 0 s
    else if c.connected then respond x.conn x.cid 0 0x0C 0 s
    else if x.recfmt ≠ 0 then respond x.conn x.cid 1 0x80 0 s
    else if x.qid = 0 ∧ s.ctrls.length ≥ 256 then respond x.conn x.cid 1 0x81 0 s
    else match hostIx s x.hostNqn with
      | none => respond x.conn x.cid 1 0x84 0 s
      | some host => match connectBad x host s with
        | some f => respond x.conn x.cid 1 0x82 (Config.standardByte 0x01 f) s
        | none => match if x.qid = 0 then freeCntlid s else some x.cntlid with
          | some i => connected x host i s
          | none => respond x.conn x.cid 1 0x81 0 s

/-! ### Properties (R475) -/

/-- The fields of CC that are accepted with EN 1. -/
def ccAccepted (v : CcValue) : Bool := v.css == 6 && v.mps == 0 && v.ams == 0 && v.iosqes == 6 && v.iocqes == 4

/-- CSTS.RDY. -/
def Ctrl.rdy (s : State) (x : Ctrl) : Bool := if s.core.imp > x.enAt then x.cc.en && !x.cfs else x.rdy0

/-- Word of CC (the bit places are the NVMe Base Specification's). -/
def ccWord (v : CcValue) : Nat :=
  (if v.en then 1 else 0) + v.css % 8 * 2 ^ 4 + v.mps % 16 * 2 ^ 7 + v.ams % 8 * 2 ^ 11 + v.shn % 4 * 2 ^ 14 + v.iosqes % 16 * 2 ^ 16 + v.iocqes % 16 * 2 ^ 20

/-- CAP: MQES 127, CQR 1, TO 20, CSS 0x41 (Table 2.7a). -/
def capValue : Nat := 127 + 2 ^ 16 + 20 * 2 ^ 24 + 0x41 * 2 ^ 37

def cstsWord (s : State) (x : Ctrl) : Nat := (if x.rdy s then 1 else 0) + (if x.cfs then 2 else 0) + x.shst * 4

/-- PROPERTY_SET: CC only. -/
def doPropertySet (h : CmdHdr) (p : Property) (v : CcValue) (s : State) : State :=
  adminCmd h none (fun c s =>
    if p ≠ .cc then invalidField h s
    else
      ok h 0 (s.updCtrl c.cntlid fun x => { x with
        rdy0 := if x.cc.en = v.en then x.rdy0 else x.rdy s
        enAt := if x.cc.en = v.en then x.enAt else s.core.imp
        cfs := if v.en then x.cfs || !ccAccepted v else false
        shst := if v.shn % 4 ≠ 0 ∧ x.cc.shn = 0 then 1 else x.shst
        cc := v })) s

/-- PROPERTY_GET (Table 2.7a). -/
def doPropertyGet (h : CmdHdr) (p : Property) (s : State) : State :=
  adminCmd h none (fun c s =>
    match nfind c.cntlid s.ctrls, p with
    | _, .cap => ok h capValue s
    | _, .vs => ok h 0x00020000 s
    | some x, .cc => ok h (ccWord x.cc) s
    | some x, .csts => ok h (cstsWord s x) s
    | _, _ => invalidField h s) s

/-- SHUTDOWN_COMPLETE: the controller's outstanding commands have completed; Asynchronous Event Requests stay outstanding. -/
def doShutdownComplete (i : Nat) (s : State) : State :=
  match nfind i s.ctrls with
  | some x =>
    let busy := s.cmds.any fun p => !p.2.silent && p.2.op != .aer && (s.conn (p.1 / 65536)).any fun c => c.cntlid == i
    if x.shst = 1 ∧ !busy then s.updCtrl i fun x => { x with shst := 2 } else s
  | none => s

/-! ### Authentication (R47) -/

/-- The secrets of a host-table entry, where a host secret is set. -/
def secretsOf (s : State) (host : Nat) : Option Secret := (nfind host s.sec.secrets).filter fun x => x.hostLen > 0

/-- AUTHENTICATION_SEND: a message of DH-HMAC-CHAP is judged. -/
def doAuthenticationSend (h : CmdHdr) (msg : Nat) (s : State) : State :=
  gated .both false h (fun c s =>
    let x := secretsOf s c.host
    let verdict := match x with
      | some x => Config.chapAccepts x.host x.ctrl msg
      | none => some false
    let s := s.updConn h.conn fun c => { c with authMsg := some (Config.chapReply ((x.map (·.host)).getD 0) ((x.map (·.ctrl)).getD 0) msg) }
    let s := ok h 0 s
    match verdict with
    | some true => s.updConn h.conn fun c => { c with authDone := true }
    | none => s
    | some false =>
      let s := (s.raise Reg.Fe.AUTH_FAIL).log 0x9002 h.conn [c.host]
      s.updConn h.conn fun c => { c with authFailAt := some s.core.imp }) s

/-- AUTHENTICATION_RECEIVE returns the module's message. -/
def doAuthenticationReceive (h : CmdHdr) (s : State) : State :=
  gated .both false h (fun c s =>
    match c.authMsg with
    | some m => returnBytes h 0 (leBytes h.len m) (s.updConn h.conn fun c => { c with authMsg := none })
    | none => respond h.conn h.cid 0 0x0C 0 s) s

/-! ### Damaged zones (R86, R89) -/

/-- The offsets in a zone of its blocks in the hellbox, ascending. -/
def zoneDamage (s : State) (k : Nat) : List Nat :=
  let g := nsSig s (k / 2 ^ 32)
  let a := zoneLbn s k
  let n := zsze s (k / 2 ^ 32)
  (s.sigSt g).k.hb.flatMap fun e =>
    let lo := max e.1 a
    let hi := min (e.1 + e.2.1) (a + n)
    (List.range (hi - lo)).map fun j => lo - a + j

/-- Whether the colophon block of a sealed zone is in the hellbox. -/
def colophonLost (s : State) (k : Nat) : Bool := inHb s (nsSig s (k / 2 ^ 32)) (zoneLbn s k + zsze s (k / 2 ^ 32) - 1)

/-- Namespace LBA of a zone's start. -/
def zoneStart (s : State) (k : Nat) : Nat := k % 2 ^ 32 * zsze s (k / 2 ^ 32)

/-- Zones that are open, and active (R70). -/
def openZones (s : State) : Nat := (s.zn.zones.filter fun p => p.2.isOpen).length
def activeZones (s : State) : Nat := (s.zn.zones.filter fun p => p.2.isActive).length

/-! ### Log pages (R53) -/

/-- Critical Warning (Table 2.5). -/
def criticalWarning (s : State) : Nat :=
  let gs := (List.range 16).filter fun g => s.bit Reg.Sig.SIG_DEFINED g
  (if gs.any fun g => spareUsedUp s g then 1 else 0) +
  (if s.sch.therm ≥ 2 then 2 else 0) +
  (if gs.any fun g => s.get Reg.Sig.SIG_HEALTH g ≥ 1 then 4 else 0) +
  (if s.get Reg.Fount.CEILING = 0 then 16 else 0)

/-- Error Information: 64 entries of 64 bytes. -/
def errorPage (x : Ctrl) : List Nat :=
  x.errs.flatMap fun e => leBytes 8 e.1 ++ leBytes 2 e.2.1 ++ leBytes 2 e.2.2.1 ++ leBytes 2 (2 * e.2.2.2.1) ++ leBytes 2 0 ++ leBytes 8 e.2.2.2.2.1 ++ leBytes 4 e.2.2.2.2.2 ++ List.replicate 36 0

/-- SMART / Health Information (Table 2.5). -/
def smartPage (s : State) : List Nat :=
  layout 512 [(0, [criticalWarning s]), (1, leBytes 2 ((s.sch.junction / 10 + 273).toNat)), (32, leBytes 16 s.rdUnits), (48, leBytes 16 s.wrUnits),
    (112, leBytes 16 s.core.cycles), (128, leBytes 16 (opTimeOf s.core.opImp / 1024)), (144, leBytes 16 (max s.st0.castsTotal s.st1.castsTotal)), (160, leBytes 16 s.mediaErrs)]

/-- Asymmetric Namespace Access (R62): a group for each signature. -/
def anaPage (s : State) (p : Nat) : List Nat :=
  let gs := (List.range 16).filter fun g => s.bit Reg.Sig.SIG_DEFINED g
  leBytes 8 s.anaChange ++ leBytes 2 gs.length ++ List.replicate 6 0 ++
    gs.flatMap fun g =>
      let ns := (List.range 64).filter fun n => (nsOf s n).any fun x => x.sig == g
      leBytes 4 (g + 1) ++ leBytes 4 ns.length ++ leBytes 8 s.anaChange ++ [anaState s p g] ++ List.replicate 15 0 ++ ns.flatMap fun n => leBytes 4 (n + 1)

/-- Changed Zone List (R89). -/
def changedPage (s : State) (x : Ctrl) (n : Nat) : List Nat :=
  let zs := sortBy id ((x.changed.filter fun e => e.1 == n).map (·.2))
  leBytes 2 (if zs.length > 511 then 0xFFFF else zs.length) ++ List.replicate 6 0 ++ (zs.take 511).flatMap fun z => leBytes 8 (zoneStart s (zoneKey n z))

/-- Front-End Port Status (Table 2.6). -/
def portPage (s : State) : List Nat :=
  (List.range 16).flatMap fun p =>
    let x := s.fePort p
    let b (F : FieldSpec) (v : Nat) : Nat := if s.bit F p then v else 0
    [p, b Reg.FeP.LINK_UP 1 + b Reg.FeP.AN_DONE 2 + b Reg.FeP.TRAIN_DONE 4 + b Reg.FeP.FEC_ALIGNED 8 + b Reg.FeP.PORT_EN 16] ++
      leBytes 2 (s.conns.filter fun c => c.2.port == p).length ++ leBytes 4 0 ++ leBytes 8 x.rx ++ leBytes 8 x.tx ++ leBytes 8 x.fecCorr ++ leBytes 8 x.fecUnc ++ leBytes 8 x.fcs ++ leBytes 8 x.drops ++ leBytes 8 x.retx

/-- Zone Resource Status (Table 3.7). -/
def zonePage (s : State) : List Nat :=
  leBytes 4 (openZones s) ++ leBytes 4 (activeZones s) ++ leBytes 4 s.zn.signQ.length ++ leBytes 4 0 ++
    [16, 24, 32, 40, 48, 56, 64, 72].flatMap fun o => leBytes 8 (ngetD o 0 s.zn.cnt)

/-- Damaged Sealed Zones of a namespace (R89). -/
def damagedPage (s : State) (n : Nat) : List Nat :=
  let zs := s.zn.zones.filter fun p => p.1 / 2 ^ 32 == n && p.2.sealed && (p.2.sealBad || p.2.later)
  leBytes 4 zs.length ++ leBytes 4 0 ++ leBytes 8 (ngetD n 0 s.zn.dszGen) ++
    zs.flatMap fun p => leBytes 8 (zoneStart s p.1) ++ leBytes 4 (zoneDamage s p.1).length ++
      leBytes 4 ((if p.2.sealBad then 1 else 0) + (if p.2.later then 2 else 0) + (if colophonLost s p.1 then 4 else 0)) ++ leBytes 4 p.2.damOp ++ List.replicate 12 0

/-- Lost Blocks of a namespace (R169). -/
def lostPage (s : State) (n : Nat) : List Nat :=
  let g := nsSig s n
  let a := nsStart s n
  let es := (s.sigSt g).k.hb.filter fun e => nsOfLbn s g e.1 == some n
  leBytes 4 es.length ++ leBytes 4 0 ++ leBytes 8 (s.sigSt g).k.hbGen ++
    es.flatMap fun e => leBytes 8 (e.1 - a) ++ leBytes 4 e.2.1 ++
      leBytes 4 ((if e.2.2 == 6 then 1 else 0) + (if (zoneOfLbn s g e.1).any fun k => (s.zone k).sealed then 2 else 0) + e.2.2 * 256)

/-- GET_LOG_PAGE. Reading the Changed Zone List or the Changed Namespace List clears it. -/
def doGetLogPage (h : CmdHdr) (lid off : Nat) (s : State) : State :=
  adminCmd h none (fun c s =>
    let x := nfind c.cntlid s.ctrls
    let n := nsIx h.nsid
    let named := decide (h.nsid ≥ 1) && decide (h.nsid < 0xFFFFFFFF)
    match x with
    | none => invalidField h s
    | some x =>
      if lid = 0x01 then returnBytes h off (errorPage x) s
      else if lid = 0x02 then returnBytes h off (smartPage s) s
      else if lid = 0x04 then returnBytes h off (x.changedNs.flatMap fun n => leBytes 4 (n + 1)) (s.updCtrl c.cntlid fun x => { x with changedNs := [] })
      else if lid = 0x0C then returnBytes h off (anaPage s c.port) s
      else if lid = 0xBF ∧ named then
        returnBytes h off (changedPage s x n) (s.updCtrl c.cntlid fun x => { x with changed := x.changed.filter fun e => e.1 != n })
      else if lid = 0xC0 then returnBytes h off (portPage s) s
      else if lid = 0xC1 then returnBytes h off (zonePage s) s
      else if lid = 0xC2 ∧ named then returnBytes h off (damagedPage s n) s
      else if lid = 0xC3 ∧ named then returnBytes h off (lostPage s n) s
      else invalidField h s) s

/-! ### Identify (R56, R69) -/

/-- Bytes of a string padded with spaces. -/
def padded (n : Nat) (x : List Nat) : List Nat := x.take n ++ List.replicate (n - x.length) 0x20

/-- The controller structure (Table 2.7). -/
def idController (s : State) (cntlid : Nat) : List Nat :=
  layout 4096 [(4, padded 20 serialBytes), (24, padded 40 (ascii "Worler EZ4960")), (76, [0x0A, 8]), (78, leBytes 2 cntlid), (256, leBytes 2 1), (259, [3]),
    (320, leBytes 2 1), (343, [0x47]), (344, leBytes 4 16), (348, leBytes 4 16), (512, [0x66, 0x44]), (514, leBytes 2 128), (516, leBytes 4 64), (525, [0x07]),
    (768, (((imgOf s).map (·.subNqn)).getD []).take 256), (1792, leBytes 4 516), (1796, leBytes 4 1), (1803, [1])]

/-- The namespace structure (Table 2.7). -/
def idNamespace (s : State) (n : Nat) : List Nat :=
  let z := leBytes 8 (nsSize s n)
  layout 4096 [(0, z ++ z ++ z), (25, [0, 0x10, 1, 1, 1, 1]), (92, leBytes 4 (nsSig s n + 1)), (104, leBytes 16 (((nsOf s n).map (·.nguid)).getD 0)), (128, leBytes 4 (8 + 12 * 65536))]

/-- The zoned namespace structure (Table 3.1). -/
def idZoned (s : State) (n : Nat) : List Nat :=
  layout 4096 [(2, leBytes 2 1), (4, leBytes 4 1048575), (8, leBytes 4 65535), (2816, leBytes 8 (zsze s n))]

/-- IDENTIFY. -/
def doIdentify (h : CmdHdr) (cns csi : Nat) (s : State) : State :=
  adminCmd h (some 4096) (fun c s =>
    let n := nsIx h.nsid
    let named := nsAllowed s c h.nsid
    let perNs (b : List Nat) (s : State) : State := if named then returnBytes h 0 b s else respond h.conn h.cid 0 0x0B 0 s
    if cns = 0x00 then perNs (idNamespace s n) s
    else if cns = 0x01 then returnBytes h 0 (idController s c.cntlid) s
    else if cns = 0x02 then
      returnBytes h 0 (((List.range 64).filter fun i => i + 1 > h.nsid && nsAllowed s c (i + 1)).flatMap fun i => leBytes 4 (i + 1)) s
    else if cns = 0x03 then
      perNs ([2, 16, 0, 0] ++ leBytes 16 (((nsOf s n).map (·.nguid)).getD 0) ++ [4, 1, 0, 0, if nsZoned s n then 2 else 0]) s
    else if cns = 0x05 then
      if csi = 2 ∧ named ∧ nsZoned s n then perNs (idZoned s n) s
      else if csi = 0 then perNs [] s
      else if named then invalidField h s else respond h.conn h.cid 0 0x0B 0 s
    else if cns = 0x06 then if csi = 0 ∨ csi = 2 then returnBytes h 0 [] s else invalidField h s
    else if cns = 0x08 then perNs (layout 4096 [(1, [1]), (4, leBytes 4 (nsSig s n + 1))]) s
    else invalidField h s) s

/-! ### Features, events, keep alive (R48, R52, R55) -/

/-- SET_FEATURES. -/
def doSetFeatures (h : CmdHdr) (fid : Nat) (save : Bool) (v : Nat) (s : State) : State :=
  adminCmd h none (fun c s =>
    if fid ≠ 0x07 ∧ fid ≠ 0x0B ∧ fid ≠ 0x0F then invalidField h s
    else if save then respond h.conn h.cid 1 0x0D 0 s
    else if fid = 0x07 then
      let sq := min (v % 65536) 63
      let cq := min (v / 65536) 63
      ok h (sq + cq * 65536) (s.updCtrl c.cntlid fun x => { x with queues := min sq cq + 1 })
    else if fid = 0x0B then ok h 0 (s.updCtrl c.cntlid fun x => { x with aec := v })
    else ok h 0 (s.updCtrl c.cntlid fun x => { x with kato := katoMs v, kaAt := s.core.imp })) s

/-- GET_FEATURES. -/
def doGetFeatures (h : CmdHdr) (fid : Nat) (s : State) : State :=
  adminCmd h none (fun c s =>
    match nfind c.cntlid s.ctrls with
    | none => invalidField h s
    | some x =>
      if fid = 0x07 then ok h ((x.queues - 1) * 65537) s
      else if fid = 0x0B then ok h x.aec s
      else if fid = 0x0F then ok h x.kato s
      else invalidField h s) s

/-- ASYNCHRONOUS_EVENT_REQUEST: at most 4 are outstanding. -/
def doAsynchronousEventRequest (h : CmdHdr) (s : State) : State :=
  adminCmd h none (fun c s =>
    match nfind c.cntlid s.ctrls with
    | none => s
    | some x =>
      if x.aers.length ≥ 4 then respond h.conn h.cid 1 0x05 0 s
      else
        let s := s.setCmd (cmdKey h.conn h.cid) { op := .aer, ns := 0, slba := 0, nlb := 0, pi := none, ord := s.seq, at_ := s.core.imp }
        s.updCtrl c.cntlid fun x => { x with aers := x.aers ++ [h.cid] }) s

/-- KEEP_ALIVE restarts the controller's timer. -/
def doKeepAlive (h : CmdHdr) (s : State) : State :=
  adminCmd h none (fun c s => ok h 0 (s.updCtrl c.cntlid fun x => { x with kaAt := s.core.imp })) s

/-- INVALID_COMMAND_OPCODE: every opcode outside Table 2.2 (R50). -/
def doInvalidCommandOpcode (h : CmdHdr) (s : State) : State :=
  match s.conn h.conn with
  | none => s
  | some c =>
    if !c.icDone then terminate h.conn fesSequence 0 s
    else if !c.connected then respond h.conn h.cid 0 0x0C 0 s
    else respond h.conn h.cid 0 0x01 0 s

/-! ### Security protocols (R54, R87, R88) -/

/-- SECURITY_PROTOCOL_LIST: protocol 0x00 lists 0x00 and 0xF0; any other protocol is refused. -/
def doSecurityProtocolList (h : CmdHdr) (sp : Nat) (s : State) : State :=
  adminCmd h none (fun _ s =>
    if sp = 0 then returnBytes h 0 [0, 0, 0, 0, 0, 0, 0, 2, 0x00, 0xF0] s else invalidField h s) s

/-- NONCE_REQUEST: a new nonce; a 65th discards the oldest (R87, R423). -/
def doNonceRequest (h : CmdHdr) (s : State) : State :=
  adminCmd h (some 16) (fun _ s =>
    if s.bit Reg.Sec.RNG_FAIL then respond h.conn h.cid 0 0x06 0 s
    else
      let r := s.random
      let n := r.1 % 2 ^ 128
      let l := r.2.zn.nonces ++ [n]
      returnBytes h 0 (leBytes 16 n) { r.2 with zn.nonces := l.drop (l.length - 64) }) s

/-- Bytes 0 to 63 of a permit (Table 3.6); `reserved` holds its 2, 4 and 8 reserved bytes. -/
def permitHead (x : Permit) : List Nat :=
  ascii "RPMT" ++ leBytes 2 1 ++ leBytes 2 x.reserved ++ leBytes 4 x.nsid ++ leBytes 4 (x.reserved / 2 ^ 16) ++ leBytes 8 x.zoneStart ++
    leBytes 16 x.serial ++ leBytes 16 x.nonce ++ leBytes 8 (x.reserved / 2 ^ 48)

/-- A permit fails step 2 or 3 of R87, or R88: it counts and is recorded with the failed check. -/
def permitRefused (h : CmdHdr) (x : Permit) (check sct sc : Nat) (s : State) : State :=
  let s := countZn 48 s
  let s := if check ≤ 4 then s.raise Reg.Zn.PERMIT_FAIL else s
  respond h.conn h.cid sct sc 0 (s.log 0xA002 (nsIx x.nsid) (leBytes 8 x.zoneStart ++ [check]))

/-- RESET_PERMIT: the steps of R87, in order; an accepted permit waits for PERMIT_RESET (R88). -/
def doResetPermit (h : CmdHdr) (x : Permit) (s : State) : State :=
  adminCmd h none (fun _ s =>
    if x.len ≠ 160 ∨ !x.magicOk ∨ !x.versionOk then invalidField h s
    else
      let fresh := s.zn.nonces.contains x.nonce
      let s := { s with zn.nonces := s.zn.nonces.erase x.nonce }
      let n := nsIx x.nsid
      let z := x.zoneStart / zsze s n
      let k := zoneKey n z
      let named := decide (x.nsid ≥ 1) && nsEvidence s n && decide (x.zoneStart % zsze s n = 0) && decide (z < zoneCount s n)
      let key := ((imgOf s).bind (·.fleet)).getD 0
      if !named then permitRefused h x 1 2 0x86 s
      else if x.serial ≠ leValue serialBytes then permitRefused h x 2 2 0x86 s
      else if !fresh then permitRefused h x 3 2 0x86 s
      else if !Config.ecdsaP384Verify key (Config.sha384 (permitHead x)) x.sigR x.sigS then permitRefused h x 4 2 0x86 s
      else if (s.zone k).permit.isSome then permitRefused h x 6 1 0xBF s
      else if (s.zone k).st = .empty ∨ (s.zone k).st = .offline then permitRefused h x 5 1 0xBF s
      else
        let key := cmdKey h.conn h.cid
        let s := s.setCmd key { op := .permit, ns := n, slba := x.zoneStart, nlb := 0, pi := none, ord := s.seq, at_ := s.core.imp, begun := true, nonce := x.nonce, zones := [k] }
        s.updZone k fun z => { z with permit := some (x.nonce, key) }) s

/-- DAMAGE_STATEMENT_REQUEST (Table 3.4): the zone must be sealed. -/
def doDamageStatementRequest (h : CmdHdr) (start chal : Nat) (s : State) : State :=
  adminCmd h (some 32) (fun c s =>
    let n := nsIx h.nsid
    let z := start / zsze s n
    if nsZoned s n ∧ h.nsid ≥ 1 ∧ start % zsze s n = 0 ∧ z < zoneCount s n ∧ (s.zone (zoneKey n z)).sealed then
      ok h 0 (s.updCtrl c.cntlid fun x => { x with dmg := some (n, z, chal) })
    else invalidField h s) s

/-- A list of offsets of 4 bytes, in a fixed room. -/
def offsetList (room : Nat) (xs : List Nat) : List Nat :=
  let b := (xs.take room).flatMap fun o => leBytes 4 o
  b ++ List.replicate (4 * room - b.length) 0

/-- An ECDSA value, 32 bytes big-endian (R3). -/
def ecBytes (v : Nat) : List Nat := (leBytes 32 v).reverse

/-- The damage statement of a zone (Table 3.5). -/
def damageStatement (s : State) (n z chal : Nat) : List Nat :=
  let k := zoneKey n z
  let bad := zoneDamage s k
  let body := offsetList 960 bad
  let flags := (if colophonLost s k then 1 else 0) + (if bad.length > 960 then 2 else 0) + (if (s.zone k).sealBad then 4 else 0)
  let head := layout 192 [(0, ascii "DMGS"), (4, leBytes 2 1 ++ leBytes 2 flags), (8, serialBytes), (24, leBytes 4 (n + 1)), (32, leBytes 8 (zoneStart s k)), (40, leBytes 4 bad.length),
    (44, leBytes 4 (opTimeOf s.core.opImp)), (48, leBytes 4 s.core.cycles), (64, leBytes 16 chal), (80, sha256 body)]
  let sig := Config.identitySign head
  head ++ ecBytes sig.1 ++ ecBytes sig.2 ++ body

/-- DAMAGE_STATEMENT_RECEIVE: the statement for the last request on the controller. -/
def doDamageStatementReceive (h : CmdHdr) (s : State) : State :=
  adminCmd h (some 4096) (fun c s =>
    match (nfind c.cntlid s.ctrls).bind (·.dmg) with
    | some (n, z, chal) => returnBytes h 0 (damageStatement s n z chal) s
    | none => respond h.conn h.cid 0 0x0C 0 s) s

/-! ### The commands -/

def execIcreq (x : IcReq) (s : State) : Host.Outcome State Fault Refusal := .next (whenOn (doIcreq x) s)
def execConnect (x : ConnectCmd) (s : State) : Host.Outcome State Fault Refusal := .next (whenOn (doConnect x) s)
def execPropertySet (h : CmdHdr) (p : Property) (v : CcValue) (s : State) : Host.Outcome State Fault Refusal :=
  .next (whenOn (doPropertySet h p v) s)
def execPropertyGet (h : CmdHdr) (p : Property) (s : State) : Host.Outcome State Fault Refusal := .next (whenOn (doPropertyGet h p) s)
def execShutdownComplete (i : Nat) (s : State) : Host.Outcome State Fault Refusal := .next (whenOn (doShutdownComplete i) s)
def execAuthenticationSend (h : CmdHdr) (m : Nat) (s : State) : Host.Outcome State Fault Refusal := .next (whenOn (doAuthenticationSend h m) s)
def execAuthenticationReceive (h : CmdHdr) (s : State) : Host.Outcome State Fault Refusal := .next (whenOn (doAuthenticationReceive h) s)
def execGetLogPage (h : CmdHdr) (lid off : Nat) (s : State) : Host.Outcome State Fault Refusal := .next (whenOn (doGetLogPage h lid off) s)
def execIdentify (h : CmdHdr) (cns csi : Nat) (s : State) : Host.Outcome State Fault Refusal := .next (whenOn (doIdentify h cns csi) s)
def execSetFeatures (h : CmdHdr) (fid : Nat) (save : Bool) (v : Nat) (s : State) : Host.Outcome State Fault Refusal :=
  .next (whenOn (doSetFeatures h fid save v) s)
def execGetFeatures (h : CmdHdr) (fid : Nat) (s : State) : Host.Outcome State Fault Refusal := .next (whenOn (doGetFeatures h fid) s)
def execAsynchronousEventRequest (h : CmdHdr) (s : State) : Host.Outcome State Fault Refusal := .next (whenOn (doAsynchronousEventRequest h) s)
def execKeepAlive (h : CmdHdr) (s : State) : Host.Outcome State Fault Refusal := .next (whenOn (doKeepAlive h) s)
def execInvalidCommandOpcode (h : CmdHdr) (_admin : Bool) (_op : Nat) (s : State) : Host.Outcome State Fault Refusal :=
  .next (whenOn (doInvalidCommandOpcode h) s)
def execSecurityProtocolList (h : CmdHdr) (sp : Nat) (s : State) : Host.Outcome State Fault Refusal := .next (whenOn (doSecurityProtocolList h sp) s)
def execNonceRequest (h : CmdHdr) (s : State) : Host.Outcome State Fault Refusal := .next (whenOn (doNonceRequest h) s)
def execResetPermit (h : CmdHdr) (x : Permit) (s : State) : Host.Outcome State Fault Refusal := .next (whenOn (doResetPermit h x) s)
def execDamageStatementRequest (h : CmdHdr) (z c : Nat) (s : State) : Host.Outcome State Fault Refusal :=
  .next (whenOn (doDamageStatementRequest h z c) s)
def execDamageStatementReceive (h : CmdHdr) (s : State) : Host.Outcome State Fault Refusal := .next (whenOn (doDamageStatementReceive h) s)

end Sys2Proof.Machine
end

