-- ==== Sys2Proof/Machine/ZoneOps.lean ====
section
/-!
DEFINITION. What the zone families share (R70 to R79): opening, closing, filling and resetting a zone, the commands that wait
for a zone, and what is brought to the metadata area while the ceiling is 0 (R289).
-/

namespace Sys2Proof.Machine

/-- Write-through (R117): a ceiling of 0, or fewer than two channels for dirty data. -/
def writeThrough (s : State) : Bool :=
  s.get Reg.Fount.CEILING == 0 || decide (((List.range 4).filter fun c => chanDirty s c).length < 2)

/-- A change of zone state; with a ceiling of 0 it is brought to the metadata area of its signature (R289). -/
def zoneSaved (k : Nat) (s : State) : State :=
  if s.get Reg.Fount.CEILING = 0 then s.emit (.drvMeta (nsSig s (k / 2 ^ 32))) else s

/-- The sheet of a zone that its write pointer has partly filled; none at a sheet's edge. -/
def galleySheet (s : State) (k : Nat) : Option Nat :=
  let g := nsSig s (k / 2 ^ 32)
  let f := (s.zone k).fill
  if f = 0 then none
  else
    let l := zoneLbn s k + f - 1
    let t := sheetOfLbn s g l
    let sp := sheetSpan s g t
    if l + 1 < sp.1 + sp.2 then some t else none

/-- A partial galley is to be written (R120): its sheet is a candidate of rank 2. -/
def askPartial (k : Nat) (s : State) : State :=
  match galleySheet s k with
  | some t => s.updSig (nsSig s (k / 2 ^ 32)) fun x => { x with rank2 := addTo t x.rank2 }
  | none => s

/-- The free entry of the open-zone table. -/
def freeSlot (s : State) : Nat :=
  nfresh ((sortBy id (s.zn.zones.filterMap fun p => p.2.slot)).map fun i => (i, ())) 0

/-- The lines of a sheet, data and parity, are kept for an open galley, or become ordinary (R122, Table 10.3). -/
def retainSheet (v : Bool) (g t : Nat) (s : State) : State :=
  let sp := sheetSpan s g t
  let set (kind l n : Nat) (s : State) : State :=
    (List.range ((l + n + 127) / 128 - l / 128)).foldl (fun s i => updLine kind g (l / 128 + i) (fun x => { x with retain := v }) s) s
  set 2 sp.1 (sheetFb s g t) (set 1 sp.1 (sheetFb s g t) (set 0 sp.1 sp.2 s))

/-- The galley of a zone that is no longer open (R122). -/
def unretain (k : Nat) (s : State) : State :=
  match galleySheet s k with
  | some t => retainSheet false (nsSig s (k / 2 ^ 32)) t s
  | none => s

/-- A zone closes (R70, R79): its state goes to the ledger, a partial galley is written. -/
def closeZone (k : Nat) (s : State) : State :=
  zoneSaved k (askPartial k ((unretain k s).updZone k fun z => { z with st := .closed, slot := none, pend := none }))

/-- A zone becomes Full without a seal (R73, R76). -/
def fillZone (k : Nat) (s : State) : State :=
  zoneSaved k (askPartial k ((unretain k s).updZone k fun z => { z with st := .full, slot := none, pend := none }))

/-- The open zone that R78 closes: oldest last write, ties to the lowest namespace, then the lowest zone. -/
def evictable (s : State) : Option Nat :=
  (s.zn.zones.filter fun p => p.2.st == .implicit && p.2.reserved == 0 && p.2.sealing.isNone).foldl
    (fun b p => match b with
      | none => some p.1
      | some q => if p.2.lastWrite < (s.zone q).lastWrite then some p.1 else some q) none

/-- A zone becomes open by the checks of R78: a status of SCT 1, or the zone with an entry of the table. -/
def openZone (k : Nat) (st : ZState) (s : State) : Option Nat × State :=
  let z := s.zone k
  if z.isOpen then (none, zoneSaved k (s.updZone k fun z => { z with st := st }))
  else if z.st = .empty ∧ activeZones s ≥ 1048576 then (some 0xBD, countZn 72 (s.raise Reg.Zn.ACTIVE_LIMIT))
  else
    let take (s : State) : State := zoneSaved k (s.updZone k fun z => { z with st := st, slot := some (freeSlot s), key := nsSig s (k / 2 ^ 32) })
    if openZones s < 65536 then (none, take s)
    else match evictable s with
      | none => (some 0xBE, countZn 64 (s.raise Reg.Zn.OPEN_LIMIT))
      | some v => (none, take (countZn 56 ((closeZone v s).bump Reg.Zn.EVICTIONS)))

/-- Drop the blocks of a zone from the Case: its galley is discarded (R73). A frozen block stays with its update. -/
def dropCells (g lo n : Nat) (s : State) : State :=
  let inIt (num j : Nat) : Bool := lo ≤ num * 128 + j && num * 128 + j < lo + n
  let cut (x : Line) : Line :=
    if x.kind = 0 ∧ x.sig = g then
      { x with cells := x.cells.filterMap fun c =>
          if inIt x.num c.1 then (if c.2.upd.isSome then some (c.1, { c.2 with dirty := false, shadow := none }) else none) else some c }
    else x
  let nums := ((allLines s).filter fun x => x.kind == 0 && x.sig == g && decide (lo < (x.num + 1) * 128) && decide (x.num * 128 < lo + n)).map (·.num)
  let s := { s with cs.tags := s.cs.tags.map fun p => (p.1, cut p.2), cs.evb := s.cs.evb.map fun p => (p.1, { p.2 with line := cut p.2.line }) }
  nums.foldl (fun s m => settleLine g m s) s

/-- A zone is reset (R73): its galley and hellbox entries go, its write pointer returns to its start. -/
def resetZone (k : Nat) (s : State) : State :=
  let g := nsSig s (k / 2 ^ 32)
  let s := hbClear g (zoneLbn s k) (zsze s (k / 2 ^ 32)) (dropCells g (zoneLbn s k) (zsze s (k / 2 ^ 32)) (unretain k s))
  zoneSaved k (s.updZone k fun z => { lastWrite := z.lastWrite, resets := z.resets, reserved := z.reserved })

/-! ### Commands that wait for a zone -/

/-- A zone's action is over: each command of its kind that waits for it goes on, and ends with its last zone. -/
def zoneDone (k : Nat) (ops : List CmdOp) (s : State) : State :=
  let ks := (s.cmds.filter fun p => ops.contains p.2.op && p.2.zones.contains k).map (·.1)
  ks.foldl (fun s c =>
    let s := s.updCmd c fun x => { x with zones := x.zones.erase k }
    if (s.cmd c).any fun x => x.zones.isEmpty then endCmd c 0 0 0 s else s) s

/-- A seal begins (R82, R84). -/
def beginSeal (k : Nat) (auto : Bool) (s : State) : State := s.updZone k fun z => { z with sealing := some { auto := auto } }

end Sys2Proof.Machine
end

