-- ==== Sys2Proof/Machine/WriteCmds.lean ====
section
/-!
DEFINITION. Write and Zone Append from the capsule to the Case (R44, R57 to R60, R74, R75, R115 to R117, R315): checks, units of
admission, Ready-to-Transfer, received data, and completion.
-/

namespace Sys2Proof.Machine

/-! ### Protection information (R59, R60) -/

/-- Bytes of one block on the wire. -/
def wireOf (pi : PiFields) : Nat := if pi.pract then 4096 else 4104

/-- Table 2.8 for the block at an offset of its command. -/
def piBad (pi : PiFields) (off : Nat) (b : RxBlk) : Option (Nat × Nat) :=
  if pi.pract then none
  else if b.guard ≠ guardOf b.data then some (2, 0x82)
  else if pi.prchkApp ∧ b.app &&& pi.lbatm ≠ pi.lbat &&& pi.lbatm then some (2, 0x83)
  else if pi.prchkRef ∧ b.ref ≠ (pi.ilbrt + off) % 2 ^ 32 then some (2, 0x84)
  else none

/-- The first failure among blocks from an offset of a command on. -/
def piFail (pi : PiFields) (off : Nat) (bs : List RxBlk) : Option (Nat × Nat) :=
  ((List.range bs.length).zip bs).findSome? fun x => piBad pi (off + x.1) x.2

/-! ### Units of admission (R315, R319) -/

/-- The next unit of a command becomes due and is tagged: its in-capsule data, or one Ready-to-Transfer (R57). -/
def nextUnit (k : Nat) (s : State) : State :=
  match s.cmd k with
  | none => s
  | some c =>
    let n := if c.inCap then c.nlb else min (c.nlb - c.adm) (if c.wire = 4104 then 31 else 32)
    let i := k / 65536
    let t := tag2 i (n * c.wire) s
    let port := ((s.conn i).map (·.port)).getD 0
    let s := t.2.updCmd k fun c => { c with tag := t.1 }
    { s with units := s.units ++ [⟨k, i, port, n, t.1, false⟩] }

/-- Whether a unit goes before another: lower start tag, then lower connection, then earlier command (R320). -/
def unitLe (u v : AdmUnit) : Bool := u.tag < v.tag || (u.tag == v.tag && (u.conn < v.conn || (u.conn == v.conn && u.cmd ≤ v.cmd)))

/-! ### Data units of Table 2.5 -/

def countWritten (blocks : Nat) (s : State) : State :=
  let n := s.wrBytes + 4096 * blocks
  { s with wrBytes := n % 512000, wrUnits := s.wrUnits + n / 512000 }

def countRead (blocks : Nat) (s : State) : State :=
  let n := s.rdBytes + 4096 * blocks
  { s with rdBytes := n % 512000, rdUnits := s.rdUnits + n / 512000 }

/-! ### Data into the Case -/

/-- First sig_lbn of a command's data: of a write, or of an append that has its LBA. -/
def Cmd.lbn (s : State) (c : Cmd) : Nat := nsStart s c.ns + c.assigned.getD c.slba

/-- Blocks that go to the Case: those in a copy window wait there as its shadows (R207); the others land in their lines. -/
def land (g : Nat) (stream wt : Bool) (xs : List (Nat × Blk)) (s : State) : Option State :=
  let inWin := xs.filter fun x => (windowOf s g x.1).isSome
  (putBlocks g stream wt (xs.filter fun x => (windowOf s g x.1).isNone) s).map fun s =>
    inWin.foldl (fun s x =>
      let s := { s with seq := s.seq + 1 }
      s.updSig g fun y => { y with rs := y.rs.map fun r => { r with win := r.win.map fun w => { w with shadow := nset x.1 (x.2, s.core.imp, s.seq) w.shadow } } }) s

/-- The data of a command with its place. -/
def Cmd.places (s : State) (c : Cmd) : List (Nat × Blk) := c.blocks.map fun b => (c.lbn s + b.1, b.2)

/-- The data of a Write enters the Case once it is whole; it waits while frames are short (R244). -/
def storeWrite (k : Nat) (s : State) : State :=
  match s.cmd k with
  | some c =>
    if c.op = .write ∧ c.ready ∧ c.storedAt.isNone then
      match land (nsSig s c.ns) false c.wt (c.places s) s with
      | some s' => s'.updCmd k fun c => { c with storedAt := some s.core.imp, ord := s.seq, blocks := if c.wt then c.blocks else [] }
      | none => s.bump Reg.Cc.FRAME_WAITS
    else s
  | none => s

/-- All data of a command has been received and admitted, and its checks have passed (R75, R116). -/
def dataReady (k : Nat) (s : State) : State :=
  match s.cmd k with
  | some c =>
    if c.got = c.nlb ∧ c.adm = c.nlb ∧ c.bad.isNone ∧ !c.ready then
      storeWrite k ((countWritten c.nlb s).updCmd k fun c => { c with ready := true, readyAt := s.core.imp })
    else s
  | none => s

/-- The data of a command is discarded for a status; the command ends once nothing more of it is solicited (R44, R60). -/
def discardData (k sct sc : Nat) (s : State) : State :=
  match s.cmd k with
  | none => s
  | some c =>
    let s := if c.op = .append ∧ !c.zones.isEmpty then s.updZone (c.zone s) fun z => { z with reserved := z.reserved - c.nlb } else s
    let s := { s with units := s.units.filter fun u => u.cmd != k }
    let s := s.updCmd k fun c => { c with bad := some (sct, sc), blocks := [], zones := [] }
    if c.r2ts.isEmpty then endCmd k sct sc 0 s else s

/-! ### Intake -/

/-- What a Write, Read or Zone Append passes before its own checks (Table 2.3 with the exceptions of R50). -/
def ioCmd (x : IoCmd) (kind : Bool → Bool) (k : Conn → State → State) (s : State) : State :=
  gated .io true x.hdr (fun c s =>
    let n := nsIx x.hdr.nsid
    let own := checkNs false x.hdr c s <|> (if kind (nsZoned s n) then none else some (0, 0x01)) <|> checkLen x.hdr (some (x.nlb * wireOf x.pi)) <|>
      (if x.hdr.inCapsule ≠ 0 ∧ x.hdr.inCapsule ≠ x.hdr.len then some (0, 0x0F) else none) <|>
      (if x.slba + x.nlb > nsSize s n then some (0, 0x80) else none)
    match own with
    | some (sct, sc) => respond x.hdr.conn x.hdr.cid sct sc 0 s
    | none => k c s) s

/-- The blocks of in-capsule data by offset. -/
def capBlocks (x : IoCmd) : NMap Blk := ((List.range x.nlb).zip x.blocks).map fun b => (b.1, b.2.data)

/-- A Write or Zone Append takes its place among the commands; its in-capsule data stays in the ingress buffer (R58). -/
def placeCmd (op : CmdOp) (x : IoCmd) (s : State) : State :=
  let cap := decide (x.hdr.inCapsule ≠ 0)
  let c : Cmd := { op := op, ns := nsIx x.hdr.nsid, slba := x.slba, nlb := x.nlb, pi := some x.pi, ord := s.seq, at_ := s.core.imp, wire := wireOf x.pi,
                   inCap := cap, got := if cap then x.nlb else 0, blocks := if cap then capBlocks x else [] }
  let s := { s with seq := s.seq + 1, ingress := s.ingress + if cap then x.nlb * wireOf x.pi else 0 }
  s.setCmd (cmdKey x.hdr.conn x.hdr.cid) c

/-- The checks of in-capsule data (R44, R60). -/
def capCheck (x : IoCmd) (s : State) : State :=
  let k := cmdKey x.hdr.conn x.hdr.cid
  if x.hdr.inCapsule = 0 then s
  else if !x.ddgstOk then discardData k 0 0x22 (s.log 0x9003 x.hdr.conn (leBytes 2 x.hdr.cid))
  else match piFail x.pi 0 x.blocks with
    | some (sct, sc) => discardData k sct sc s
    | none => s

/-- Whether the ingress buffer has room for in-capsule data; a segment that finds none is dropped (R58). -/
def capFits (x : IoCmd) (s : State) : Bool := x.hdr.inCapsule = 0 || s.ingress + s.reserved + x.nlb * wireOf x.pi ≤ 3145728

/-- The port of a connection drops a segment for want of ingress space. -/
def dropSegment (conn : Nat) (s : State) : State :=
  match s.conn conn with
  | some c => dropFrame c.port s
  | none => s

/-- WRITE (R51, R58, R60): conventional namespaces only. -/
def doWrite (x : IoCmd) (s : State) : State :=
  if !capFits x s then dropSegment x.hdr.conn s
  else ioCmd x (fun z => !z) (fun _ s => capCheck x (nextUnit (cmdKey x.hdr.conn x.hdr.cid) (placeCmd .write x s))) s

/-- A Zone Append meets its zone (Table 3.2, R74, R78, R82, R88). -/
def appendTry (k : Nat) (s : State) : State :=
  match s.cmd k with
  | none => s
  | some c =>
    let zk := c.zone s
    let z := s.zone zk
    let limit := zsze s c.ns - if nsEvidence s c.ns then 1 else 0
    if z.sealing.isSome ∨ z.pend = some .finish then endCmd k 1 0xB9 0 s
    else if z.permit.isSome ∨ z.pend.isSome then s.updCmd k fun c => { c with held := true }
    else if z.st = .full then endCmd k 1 0xB9 0 s
    else if z.st = .readOnly then endCmd k 1 0xBA 0 s
    else if z.st = .offline then endCmd k 1 0xBB 0 s
    else if z.fill + z.reserved + c.nlb > limit then endCmd k 1 0xB8 0 s
    else match (if z.isOpen then (none, s) else openZone zk .implicit s) with
      | (some sc, s) => endCmd k 1 sc 0 s
      | (none, s) =>
        let s := s.updZone zk fun z => { z with reserved := z.reserved + c.nlb }
        nextUnit k (s.updCmd k fun c => { c with held := false, zones := [zk] })

/-- Appends held for a zone go on, in ascending connection, then in order of arrival. -/
def releaseHeld (zk : Nat) (s : State) : State :=
  let ks := (s.cmds.filter fun p => p.2.op == .append && p.2.held && p.2.zone s == zk).map fun p => (p.1, p.2.ord)
  (sortBy (fun p => p.1 / 65536 * 2 ^ 64 + p.2) ks).foldl (fun s p => appendTry p.1 s) s

/-- ZONE_APPEND (R51, R73, R74, R78). -/
def doZoneAppend (x : IoCmd) (s : State) : State :=
  if !capFits x s then dropSegment x.hdr.conn s
  else ioCmd x id (fun _ s =>
    if x.slba % zsze s (nsIx x.hdr.nsid) ≠ 0 then invalidField x.hdr s
    else capCheck x (appendTry (cmdKey x.hdr.conn x.hdr.cid) (placeCmd .append x s))) s

/-! ### Admission (R115, R118, R290, R315, R320) -/

/-- Parity blocks of the updates in flight (R118). -/
def parityBlocks (s : State) : Nat := (s.upds.map fun p => 2 * (ngetD (sheetK s p.2.sig p.2.sheet) [] p.2.writes).length).sum

/-- Whether the data of a unit may be admitted: under the ceiling, or within the update allowance while writing through. -/
def roomFor (wt : Bool) (n : Nat) (s : State) : Bool :=
  if wt then s.staged + n ≤ 16384 && parityBlocks s + s.staged + 3 * n ≤ 262144
  else s.dirty + n ≤ s.get Reg.Fount.CEILING

/-- Whether the frames a unit needs are there (R244). -/
def framesFor (c : Cmd) (n : Nat) (s : State) : Bool :=
  let a := if c.op = .append then zoneLbn s (c.zone s) + (s.zone (c.zone s)).fill else c.lbn s + c.adm
  canDirtyRun (nsSig s c.ns) a n s

/-- ADMISSION of the next unit of a command: lowest start tag first, ties to the lowest connection. -/
def doAdmission (conn cid : Nat) (s : State) : State :=
  let k := cmdKey conn cid
  match s.units.find? fun u => u.cmd == k, s.cmd k with
  | some u, some c =>
    let first := s.units.all fun v => v == u || heldBack s v || unitLe u v
    let wt := c.wt || writeThrough s
    if !feAccepts s.core.mode ∨ heldBack s u ∨ !first ∨ !roomFor wt u.blocks s then s
    else if !framesFor c u.blocks s then s.bump Reg.Cc.FRAME_WAITS
    else
      let bytes := u.blocks * c.wire
      let r := s.fairOf conn
      let s := s.setFair conn { r with adm2 := r.adm2 + bytes }
      let s := { s with units := s.units.filter fun v => v.cmd != k, sch.top2 := max s.sch.top2 u.tag, sch.total2 := s.sch.total2 + bytes }
      let s := s.updCmd k fun c => { c with adm := c.adm + u.blocks, wt := wt, begun := true }
      if c.inCap then
        let s := { s with ingress := s.ingress - bytes }
        dataReady k (enqueue ⟨2, [(2000 + u.port, bytes)], u.tag, conn⟩ s)
      else if c.adm + u.blocks < c.nlb then nextUnit k s else s
  | _, _ => s

/-- READY_TO_TRANSFER_RELEASE (R57, R66). -/
def doReadyToTransferRelease (conn cid : Nat) (s : State) : State :=
  let k := cmdKey conn cid
  match s.conn conn, s.cmd k with
  | some x, some c =>
    let n := min (c.adm - c.asked) (if c.wire = 4104 then 31 else 32)
    if n = 0 ∨ c.inCap ∨ c.bad.isSome ∨ c.r2ts.length ≥ min 4 (x.maxR2t + 1) ∨ s.ingress + s.reserved + n * c.wire > 3145728 ∨ heldPdu s conn then s
    else
      let s := { s with reserved := s.reserved + n * c.wire }
      let s := s.updCmd k fun c => { c with asked := c.asked + n, r2ts := c.r2ts ++ [(c.asked, n, 0)] }
      enqueue ⟨2, [(2000 + x.port, n * c.wire)], c.tag, conn⟩ (s.pdu conn (.r2t conn cid (c.asked * c.wire) (n * c.wire)))
  | _, _ => s

/-! ### Received data (R43, R44, R57, R60) -/

/-- Data of a PDU enters its Ready-to-Transfer; a complete one frees its reservation. -/
def takeData (k i n : Nat) (s : State) : State :=
  match s.cmd k with
  | none => s
  | some c =>
    match c.r2ts[i]? with
    | none => s
    | some (first, len, got) =>
      if got + n = len then { s.updCmd k (fun c => { c with r2ts := c.r2ts.eraseIdx i }) with reserved := s.reserved - len * c.wire }
      else s.updCmd k fun c => { c with r2ts := c.r2ts.set i (first, len, got + n) }

/-- H2CDATA. -/
def doH2cdata (x : H2cData) (s : State) : State :=
  match s.conn x.conn with
  | none => s
  | some cn =>
    let k := cmdKey x.conn x.cid
    if !cn.icDone ∨ !x.inSequence then terminate x.conn fesSequence 0 s
    else if !x.headerOk then terminate x.conn fesHeader 0 s
    else if cn.hdgst ∧ !x.hdgstOk then terminate x.conn fesDigest 0 s
    else if x.len > 131072 then terminate x.conn fesLimit 0 s
    else match s.cmd k with
      | none => terminate x.conn fesRange 0 s
      | some c =>
        let n := x.len / c.wire
        match c.r2ts.findIdx? fun r => (r.1 + r.2.2) * c.wire == x.offset && r.2.2 + n ≤ r.2.1 with
        | none => terminate x.conn fesRange 0 s
        | some i =>
          if x.len ≠ n * c.wire ∨ n = 0 ∨ x.blocks.length ≠ n then terminate x.conn fesRange 0 s
          else
            let off := x.offset / c.wire
            let s := takeData k i n s
            match c.bad with
            | some (sct, sc) => if (s.cmd k).any fun c => c.r2ts.isEmpty then endCmd k sct sc 0 s else s
            | none =>
              if cn.ddgst ∧ !x.ddgstOk then discardData k 0 0x22 (s.log 0x9003 x.conn (leBytes 2 x.cid))
              else match c.pi.bind fun pi => piFail pi off x.blocks with
                | some (sct, sc) => discardData k sct sc s
                | none =>
                  let bs := ((List.range n).zip x.blocks).foldl (fun m b => nset (off + b.1) b.2.data m) c.blocks
                  dataReady k (s.updCmd k fun c => { c with blocks := bs, got := c.got + n })

/-! ### Assignment and completion (R75, R116, R117) -/

/-- The running digest of a zone takes further blocks (R81). -/
def absorb (sha : List Nat) (ds : List Blk) : List Nat :=
  ds.foldl (fun h d => shaAbsorb h (blkBytes d)) (if sha.isEmpty then shaInit else sha)

/-- Whether an append is the next of its zone to be assigned. -/
def nextToAssign (k : Nat) (c : Cmd) (s : State) : Bool :=
  let rank (j : Nat) (x : Cmd) : Nat × Nat × Nat := (x.readyAt, j / 65536, x.ord)
  let r := rank k c
  s.cmds.all fun p =>
    if p.1 != k && p.2.op == .append && p.2.ready && p.2.assigned.isNone && p.2.zone s == c.zone s then
      let q := rank p.1 p.2
      decide (r.1 < q.1) || (r.1 == q.1 && (decide (r.2.1 < q.2.1) || (r.2.1 == q.2.1 && decide (r.2.2 ≤ q.2.2))))
    else true

/-- APPEND_ASSIGN: the append takes the write pointer as its LBA (R75); a zone at its end becomes Full (R76) or is sealed (R84).
A full galley is whole, so its sheet is a candidate for a full-sheet update at once (R119). -/
def doAppendAssign (conn cid : Nat) (s : State) : State :=
  let k := cmdKey conn cid
  match s.cmd k with
  | none => s
  | some c =>
    if c.op = .append ∧ c.ready ∧ c.assigned.isNone ∧ nextToAssign k c s then
      let zk := c.zone s
      let a := zoneLbn s zk + (s.zone zk).fill
      let ds := c.blocks.map fun b => (a + b.1, b.2)
      match land (nsSig s c.ns) true c.wt ds s with
      | none => s.bump Reg.Cc.FRAME_WAITS
      | some s' =>
        let op := opTimeOf s.core.opImp
        let s' := s'.updZone zk fun z => { z with
          fill := z.fill + c.nlb, reserved := z.reserved - c.nlb, lastWrite := s.core.imp
          firstOp := if z.fill = 0 then op else z.firstOp, lastOp := op
          sha := if nsEvidence s c.ns then absorb z.sha (c.blocks.map (·.2)) else z.sha }
        let s' := s'.updCmd k fun c => { c with assigned := some (a - nsStart s c.ns), storedAt := some s.core.imp, ord := s.seq, blocks := if c.wt then c.blocks else [] }
        let f := (s'.zone zk).fill
        let s' := if c.wt then askPartial zk s' else s'
        if nsEvidence s c.ns ∧ f = zsze s c.ns - 1 ∧ (s'.zone zk).sealing.isNone then beginSeal zk true s'
        else if !nsEvidence s c.ns ∧ f = zsze s c.ns then fillZone zk s'
        else zoneSaved zk s'
    else s

/-- Whether the data of a command is on the drives: no block of it is dirty with data as old as its own. -/
def onDrives (s : State) (g lbn n lo hi : Nat) : Bool :=
  (List.range n).all fun j =>
    match cellAt s g (lbn + j) with
    | some c => !(c.dirty && lo ≤ c.ord && c.ord ≤ hi) && !(c.shadow.any fun x => x.2.2 ≤ hi) && !(c.upd.isSome && lo ≤ c.ord && c.ord ≤ hi)
    | none => true

/-- WRITE_COMPLETION_RELEASE: both copies exist (R116); a command written through waits for its update (R117). -/
def doWriteCompletionRelease (conn cid : Nat) (s : State) : State :=
  let k := cmdKey conn cid
  let s := storeWrite k s
  match s.cmd k with
  | some c =>
    if (c.op = .write ∨ c.op = .append) ∧ c.storedAt.isSome then
      if c.wt ∧ !onDrives s (nsSig s c.ns) (c.lbn s) c.nlb 0 (c.ord + c.nlb) then s
      else endCmd k 0 0 (c.assigned.getD 0) s
    else s
  | none => s

/-! ### The commands -/

def execWrite (x : IoCmd) (s : State) : Host.Outcome State Fault Refusal := .next (whenOn (doWrite x) s)
def execZoneAppend (x : IoCmd) (s : State) : Host.Outcome State Fault Refusal := .next (whenOn (doZoneAppend x) s)
def execAdmission (c i : Nat) (s : State) : Host.Outcome State Fault Refusal := .next (whenOn (doAdmission c i) s)
def execReadyToTransferRelease (c i : Nat) (s : State) : Host.Outcome State Fault Refusal := .next (whenOn (doReadyToTransferRelease c i) s)
def execH2cdata (x : H2cData) (s : State) : Host.Outcome State Fault Refusal := .next (whenOn (doH2cdata x) s)
def execAppendAssign (c i : Nat) (s : State) : Host.Outcome State Fault Refusal := .next (whenOn (doAppendAssign c i) s)
def execWriteCompletionRelease (c i : Nat) (s : State) : Host.Outcome State Fault Refusal := .next (whenOn (doWriteCompletionRelease c i) s)

end Sys2Proof.Machine
end

