-- ==== Sys2Proof/Machine/Updates.lean ====
section
/-!
DEFINITION. Sheet updates (R119 to R133, R163): which sheets are candidates and in what order, what an update reads and writes, its
parity, and its retirement.
-/

namespace Sys2Proof.Machine

/-! ### Dirty blocks of a sheet -/

/-- The cells of a sheet in the Case, by sheet offset. -/
def sheetCells (s : State) (g t : Nat) : NMap Cell :=
  let sp := sheetSpan s g t
  (List.range ((sp.1 + sp.2 + 127) / 128 - sp.1 / 128)).flatMap fun i =>
    let n := sp.1 / 128 + i
    match findLine s 0 g n with
    | some x => x.cells.filterMap fun c =>
        let l := n * 128 + c.1
        if sp.1 ≤ l ∧ l < sp.1 + sp.2 then some (l - sp.1, c.2) else none
    | none => []

/-- Its dirty blocks that no update carries. -/
def dirtyCells (s : State) (g t : Nat) : NMap Cell := (sheetCells s g t).filter fun c => c.2.dirty && c.2.upd.isNone

/-- The sheets that hold dirty blocks outside updates: signature and sheet. -/
def dirtySheets (s : State) : List (Nat × Nat) :=
  ((allLines s).flatMap fun x =>
    if x.kind = 0 then (x.cells.filter fun c => c.2.dirty && c.2.upd.isNone).map fun c => (x.sig, sheetOfLbn s x.sig (x.num * 128 + c.1)) else []).eraseDups

/-- The zone of a sheet, if it is zoned. -/
def zoneOfSheet (s : State) (g t : Nat) : Option Nat := zoneOfLbn s g (sheetSpan s g t).1

/-- Whether the written extent of a zoned sheet reaches its last block: a full galley (R119). -/
def galleyFull (s : State) (g t : Nat) : Bool :=
  let sp := sheetSpan s g t
  (zoneOfSheet s g t).any fun k => inExtent s k (sp.1 + sp.2 - 1) && inExtent s k sp.1 && (sp.2 < 2 || inExtent s k (sp.1 + sp.2 - 2))

/-- Whether every data block of a sheet is dirty. -/
def wholeDirty (s : State) (g t : Nat) : Bool := decide ((dirtyCells s g t).length = (sheetSpan s g t).2)

/-! ### Candidates (R124, R163) -/

/-- Dirty bytes above 90 % of the ceiling. -/
def pressed (s : State) : Bool := decide (s.dirty * 10 > s.get Reg.Fount.CEILING * 9)

/-- Rank of a sheet and the impression that orders it in its rank; none for a sheet that is no candidate. Rank 0 is a parity
update of R163. -/
def rankOf (s : State) (g t : Nat) : Option (Nat × Nat) :=
  let x := s.sigSt g
  match nfind t x.hbPar with
  | some e => some (0, e.1)
  | none =>
    match (dirtyCells s g t).filter fun c => !c.2.wt with
    | [] => none
    | c :: cs =>
      let at_ := cs.foldl (fun a c => min a c.2.since) c.2.since
      if (zoneOfSheet s g t).isSome then
        if galleyFull s g t then some (if pressed s then 1 else if x.rank2.contains t then 2 else 3, at_)
        else if x.rank2.contains t then some (2, at_) else none
      else if pressed s then some (1, at_)
      else if x.rank2.contains t then some (2, at_)
      else if wholeDirty s g t then some (3, at_)
      else if x.aged.contains t then some (4, at_)
      else none

/-- Sheets with write-through data: each is an update of class C2, outside the ranks (R117, R124). -/
def throughSheet (s : State) (g t : Nat) : Bool := (dirtyCells s g t).any fun c => c.2.wt

/-- Whether a sheet can begin an update now: nothing in flight on it, its signature in service, room in the journal (R118, R127,
R133). -/
def mayBegin (s : State) (g t : Nat) : Bool :=
  let sp := sheetSpan s g t
  (s.sigSt g).inService && drivesRun s.core.mode && !sheetBusy s g t && decide (s.upds.length < 4096) &&
    (windowOf s g sp.1).isNone && (windowOf s g (sp.1 + sp.2 - 1)).isNone

/-- The order of two candidates: rank, age, signature, sheet. -/
def candLe (a b : Nat × Nat × Nat × Nat) : Bool :=
  decide (a.1 < b.1) || (a.1 == b.1 && (decide (a.2.1 < b.2.1) || (a.2.1 == b.2.1 &&
    (decide (a.2.2.1 < b.2.2.1) || (a.2.2.1 == b.2.2.1 && decide (a.2.2.2 ≤ b.2.2.2))))))

/-- Every candidate that can begin. -/
def candidates (s : State) : List (Nat × Nat × Nat × Nat) :=
  let sheets := (s.sigs.flatMap fun p => p.2.hbPar.map fun e => (p.1, e.1)) ++ dirtySheets s
  sheets.eraseDups.filterMap fun x => if mayBegin s x.1 x.2 then (rankOf s x.1 x.2).map fun r => (r.1, r.2, x.1, x.2) else none

/-! ### Beginning an update -/

/-- All blocks of a folio. -/
def wholeFolio (s : State) (g t : Nat) : List Nat := List.range (sheetFb s g t)

/-- The parity blocks of a sheet that the Case holds as clean lines of its galley (R122). -/
def casePar (s : State) (g t b : Nat) : Option (Blk × Blk × Bool) :=
  let l := (sheetSpan s g t).1 + b
  let at_ (kind : Nat) : Option Blk := (findLine s kind g (l / 128)).bind fun x => (nfind (l % 128) x.cells).map (·.data)
  match at_ 1, at_ 2 with
  | some p, some q => some (p, q, false)
  | _, _ => none

/-- An update of a sheet as its dirty blocks ask for it: its kind, blocks, folio masks, reads (R119 to R125, R163). -/
def shapeUpd (s : State) (g t : Nat) : Upd :=
  let k := sheetK s g t
  let fb := sheetFb s g t
  let base : Upd := { sig := g, sheet := t, kind := .rmw, begun := s.core.imp }
  match nfind t (s.sigSt g).hbPar with
  | some e =>
    { base with kind := .parity, writes := [(k, e.2), (k + 1, e.2)], reads := e.2.flatMap fun b => (List.range k).map fun p => (p, b) }
  | none =>
    let cells := dirtyCells s g t
    let data : NMap RdVal := cells.map fun c => (c.1, ⟨c.2.data, false, false⟩)
    let thru := cells.any fun c => c.2.wt
    let at_ (p : Nat) : List Nat := (cells.filter fun c => c.1 / fb == p).map fun c => c.1 % fb
    let ps := (List.range k).filter fun p => !(at_ p).isEmpty
    if data.length = k * fb then
      { base with kind := if thru then .through else .full, data := data, fresh := true, writes := (List.range (k + 2)).map fun p => (p, wholeFolio s g t) }
    else
      match zoneOfSheet s g t with
      | some z =>
        let old := (List.range k).filter fun p => (wholeFolio s g t).any fun b => inExtent s z (lbnAt s g t p b) && !(at_ p).contains b
        let writes := ps.map (fun p => (p, wholeFolio s g t)) ++ [(k, wholeFolio s g t), (k + 1, wholeFolio s g t)]
        if old.isEmpty then { base with kind := if thru then .through else .partial_, data := data, fresh := true, writes := writes }
        else
          let keep := ps.flatMap fun p => (wholeFolio s g t).filterMap fun b =>
            if inExtent s z (lbnAt s g t p b) && !(at_ p).contains b && !inHb s g (lbnAt s g t p b) then some (p, b) else none
          let held := keep.filterMap fun x => (cellAt s g (lbnAt s g t x.1 x.2)).map fun c => (sheetOff s g t x.1 x.2, (⟨c.data, c.never, false⟩ : RdVal))
          let par := (wholeFolio s g t).filterMap fun b => (casePar s g t b).map fun v => (b, v)
          { base with
            kind := if thru then .through else .completion, data := data, writes := writes, old := held, par := par
            reads := (keep.filter fun x => (nfind (sheetOff s g t x.1 x.2) held).isNone) ++
              ((wholeFolio s g t).filter fun b => (nfind b par).isNone).flatMap fun b => [(k, b), (k + 1, b)] }
      | none =>
        let offs := (cells.map fun c => c.1 % fb).eraseDups
        let offs := sortBy id offs
        { base with
          kind := if thru then .through else .rmw, data := data
          writes := ps.map (fun p => (p, at_ p)) ++ [(k, offs), (k + 1, offs)]
          reads := (cells.map fun c => (c.1 / fb, c.1 % fb)) ++ offs.flatMap fun b => [(k, b), (k + 1, b)] }

/-- Freeze or change the cells that an update carries. -/
def updCells (g t : Nat) (offs : List Nat) (f : Cell → Cell) (s : State) : State :=
  let lo := (sheetSpan s g t).1
  let lines := (offs.map fun o => (lo + o) / 128).eraseDups
  lines.foldl (fun s n =>
    updLine 0 g n (fun x => { x with cells := x.cells.map fun c => if lo ≤ n * 128 + c.1 ∧ offs.contains (n * 128 + c.1 - lo) then (c.1, f c.2) else c }) s) s

/-- Issue the reads of an update: one command per folio (R125, R129). -/
def updReads (id g t : Nat) (reads : List (Nat × Nat)) (s : State) : State :=
  ((reads.map (·.1)).eraseDups).foldl (fun s p =>
    let bs := (reads.filter fun x => x.1 == p && posVal s g t x.2 [] [] p == .owed).map (·.2)
    match bs with
    | [] => s
    | b :: r =>
      let lo := r.foldl min b
      let hi := r.foldl max b
      issueRead (.upd id) g t p lo (hi + 1 - lo) s) s

/-- A new update enters PREP: journal entry, region bits, reads, frozen blocks (Table 5.2, R126, R139, R206). -/
def startUpd (u : Upd) (s : State) : State :=
  let id := nfresh s.upds 0
  let rs := regionsOf s u.sig u.sheet
  let s := { s with upds := nset id u s.upds }
  let s := s.updSig u.sig fun x =>
    { x with
      pendingSet := x.pendingSet || rs.any fun r => !x.k.bits.contains r
      k := { x.k with bits := rs.foldl (fun l r => addTo r l) x.k.bits }
      rank2 := if u.kind = .parity then x.rank2 else x.rank2.erase u.sheet
      aged := if u.kind = .parity then x.aged else x.aged.erase u.sheet }
  updReads id u.sig u.sheet u.reads (updCells u.sig u.sheet (u.data.map (·.1)) (fun c => { c with upd := some id }) s)

/-! ### Parity (R101, R123, R125, R130, R132) -/

/-- What one offset of an update comes to: its parity, blocks to enter the hellbox, blocks to be repaired, and what failed. -/
structure OffDone where
  par : Blk × Blk × Bool
  hb : List Nat
  fix : List (Nat × Blk × Bool)
  failed : List (Nat × Bool)
  deriving DecidableEq, Repr

/-- New data over the old column of an offset. -/
def overlay (u : Upd) (fb b : Nat) (ds : List Blk) : List Blk :=
  (List.range ds.length).map fun p => match nfind (p * fb + b) u.data with | some v => v.data | none => ds.getD p 0

/-- One offset of an update; none while a block it needs has not been read. -/
def offDone (s : State) (u : Upd) (reads : List RdOffset) (b : Nat) : Option OffDone :=
  let k := sheetK s u.sig u.sheet
  let fb := sheetFb s u.sig u.sheet
  let new := (List.range k).filter fun p => (nfind (p * fb + b) u.data).isSome
  if u.fresh then
    let ds := overlay u fb b (List.replicate k 0)
    some ⟨(parityP ds, parityQ ds, new.isEmpty), [], [], []⟩
  else
    let zoned := (zoneOfSheet s u.sig u.sheet).isSome
    let raw := lookAt s u.sig u.sheet b [] (gotAt reads b)
    let vs := (List.range raw.length).map fun p =>
      if zoned && new.contains p then PosVal.zero
      else if p ≥ k then (match nfind b u.par with | some v => .good (if p = k then v.1 else v.2.1) v.2.2 | none => raw.getD p .gone)
      else raw.getD p .gone
    let pq (p : Nat) : Bool := match vs.getD p .gone with | .good _ _ => true | .gone => true | _ => false
    let known := (new.all fun p => (vs.getD p .gone).blk?.isSome) && pq k && pq (k + 1)
    if u.kind ≠ .parity ∧ known then
      let diff (p : Nat) : Blk := (match nfind (p * fb + b) u.data with | some v => v.data | none => 0) ^^^ ((vs.getD p .zero).blk?.getD 0)
      let dp := new.foldl (fun a p => a ^^^ diff p) 0
      let dq := new.foldl (fun a p => a ^^^ gfMulBlk (gfPow p) (diff p)) 0
      let never := new.isEmpty && (vs.getD k .zero).never
      some ⟨(((vs.getD k .zero).blk?.getD 0) ^^^ dp, ((vs.getD (k + 1) .zero).blk?.getD 0) ^^^ dq, never), [], [], badPos vs⟩
    else if !(owedPos vs).all fun p => u.kind == .parity && p ≥ k then none
    else
      let sol := solveAt true vs
      let ds := overlay u fb b (match sol with | some x => x.1 | none => zeroed vs)
      let hb := if sol.isNone then lostData vs else []
      let fix := if sol.isSome then (badPos vs).filterMap fun x => if x.1 < k && !new.contains x.1 then some (x.1, ds.getD x.1 0, x.2) else none else []
      some ⟨(parityP ds, parityQ ds, new.isEmpty && allNever vs), hb, fix, badPos vs⟩

/-- Every offset of an update. -/
def updOffsets (s : State) (u : Upd) : List Nat := ngetD (sheetK s u.sig u.sheet) [] u.writes

/-! ### Retirement (Table 5.2, R126, R166) -/

/-- A line of the eviction buffer that is no longer dirty is dropped (R248). -/
def settleEvb (s : State) : State :=
  { s with cs.evb := s.cs.evb.map fun p =>
      if p.2.writeBack && !p.2.line.dirty && !(p.2.line.cells.any fun c => c.2.upd.isSome) then (p.1, { p.2 with writeBack := false, at_ := s.core.imp }) else p }

/-- Keep the lines of a partial sheet whose zone is still open, with its parity (R122). -/
def keepGalley (u : Upd) (s : State) : State :=
  match zoneOfSheet s u.sig u.sheet, layOf s u.sig u.sheet with
  | some z, some (i, t) =>
    if (s.zone z).isOpen ∧ galleySheet s z = some u.sheet then
      let s := u.par.foldl (fun s v => fillParity i 2 t v.1 v.2.2.1 (fillParity i 1 t v.1 v.2.1 s)) s
      retainSheet true u.sig u.sheet s
    else retainSheet false u.sig u.sheet s
  | _, _ => s

/-- An update retires: its blocks become clean, or give way to their shadows; its entry is freed. -/
def retireUpd (id : Nat) (s : State) : State :=
  match nfind id s.upds with
  | none => s
  | some u =>
    let s := { s with upds := ndel id s.upds }
    let offs := u.data.map (·.1)
    let lo := (sheetSpan s u.sig u.sheet).1
    let clean (c : Cell) : Cell :=
      if c.upd ≠ some id then c
      else match c.shadow with
        | some (d, at_, o) => { c with data := d, never := false, dirty := true, since := at_, ord := o, upd := none, shadow := none, wt := c.shWt, shWt := false }
        | none => { c with dirty := false, upd := none, wt := false, shWt := false }
    let s := if u.kind = .window then s else updCells u.sig u.sheet offs clean s
    let s := if u.kind = .window then s else hbRemove u.sig (offs.map fun o => lo + o) s
    let s := s.updSig u.sig fun x => { x with quiet := (regionsOf s u.sig u.sheet).foldl (fun m r => nset r s.core.imp m) x.quiet }
    let s := match u.kind with
      | .full | .window => s.bump Reg.Sig.FULL_UPDATES 1 u.sig
      | .partial_ | .completion => s.bump Reg.Sig.PARTIAL_UPDATES 1 u.sig
      | .rmw | .parity => s.bump Reg.Sig.RMW_UPDATES 1 u.sig
      | .through => s
    let s := if u.kind = .window ∨ u.kind = .parity then s else keepGalley u s
    let s := ((offs.map fun o => (lo + o) / 128).eraseDups).foldl (fun s n => settleLine u.sig n s) s
    settleEvb s

/-- A folio write of an update is over: completed, or lost with its drive (R132). -/
def folioDone (id pos : Nat) (s : State) : State :=
  match nfind id s.upds with
  | none => s
  | some u =>
    let u := { u with done := addTo pos u.done }
    let s := { s with upds := nset id u s.upds }
    if u.st = .ready ∧ u.writes.all fun w => u.done.contains w.1 then retireUpd id s else s

/-- What an update writes at a position, by block. -/
def updBlocks (s : State) (u : Upd) (p : Nat) (bs : List Nat) : NMap RdVal :=
  let k := sheetK s u.sig u.sheet
  bs.map fun b =>
    (b, if p < k then (((nfind (sheetOff s u.sig u.sheet p b) u.data) <|> (nfind (sheetOff s u.sig u.sheet p b) u.old)).getD ⟨0, true, false⟩)
        else match nfind b u.par with
          | some v => ⟨if p = k then v.1 else v.2.1, v.2.2, false⟩
          | none => ⟨0, true, false⟩)

/-- READY: every folio write is issued at once, its position fixed (R128, R183); a lost position counts as completed. -/
def readyUpd (id : Nat) (s : State) : State :=
  match nfind id s.upds with
  | none => s
  | some u =>
    let s := { s with upds := nset id { u with st := .ready } s.upds }
    u.writes.foldl (fun s w =>
      let s := dropRepairs u.sig u.sheet w.1 w.2 s
      let r := issueWrite (.upd id) u.sig u.sheet w.1 (updBlocks s u w.1 w.2) s
      if r.1 then r.2 else folioDone id w.1 r.2) s

/-! ### Durability of region bits (R140) -/

/-- Whether the bit of a region is durable. -/
def durable (s : State) (g r : Nat) : Bool :=
  let x := s.sigSt g
  match x.commit with
  | none => x.doneBits.contains r
  | some c =>
    c.bits.contains r &&
      (x.doneBits.contains r ||
        (!c.left.contains 0 && !c.left.contains 1 &&
          let waiting := (c.left.filter fun t => t ≥ 16).length
          (waiting == 0 || decide (x.holders.length - waiting ≥ 2))))

end Sys2Proof.Machine
end

