-- ==== Sys2Proof/Machine/CaseEcc.lean ====
section
/-!
DEFINITION. Range engines (R250 to R254), the symbol code of the Case (R256 to R258), uncorrectable words, channel states, the patrol
scrubber, self-tests and repairs (R259 to R275), and the merge buffer (R263).
-/

namespace Sys2Proof.Machine

/-! ### Range engines (R250 to R254) -/

/-- RE_GO is taken or refused (R251). -/
def doReGo (e : Nat) (s : State) : State :=
  let s := s.pulse Reg.Cc.RE_GO e
  let g := s.get Reg.Cc.RE_SIG e
  let op := s.get Reg.Cc.RE_OP e
  let lo := s.get Reg.Cc.RE_START_LO e + 2 ^ 32 * s.get Reg.Cc.RE_START_HI e
  let n := s.get Reg.Cc.RE_COUNT_LO e + 2 ^ 32 * s.get Reg.Cc.RE_COUNT_HI e
  let size := (s.sigSt g).sheets * ((impOf s g).map (·.sheetBlocks)).getD 0
  if (nfind e s.cs.engines).isSome || !(s.core.mode == .pressRun || s.core.mode == .maintenance) || !(s.sigSt g).inService || n == 0 ||
      decide (lo + n > size) || decide (op > 4) || (op == 4 && !s.bit Reg.Cc.DISCARD_OK) then
    s.raise Reg.Cc.RE_REFUSED
  else
    let s := { s with cs.engines := nset e ⟨op, g, lo / 128, (lo + n - 1) / 128, lo, n, lo / 128, [], [], [], false⟩ s.cs.engines }
    let s := ((s.putB Reg.Cc.RE_BUSY true e).put Reg.Cc.RE_LINES 0 e).put Reg.Cc.RE_SKIPPED 0 e
    let s := (s.put Reg.Cc.RE_WAITS 0 e).put Reg.Cc.RE_DISCARDED 0 e
    (s.put Reg.Cc.RE_POS_LO (lo / 128 % 2 ^ 32) e).put Reg.Cc.RE_POS_HI (lo / 128 / 2 ^ 32) e

/-- The event of a range operation: 0 ended, 1 aborted, 2 discarded (Table 16.5). -/
def logRange (e : Nat) (r : RangeRun) (outcome : Nat) (s : State) : State :=
  s.log 0x4007 noDev ([e, r.op, outcome] ++ leBytes 8 r.start ++ leBytes 8 r.count)

/-- A line of the galley of an open zone. -/
def galleyLine (s : State) (g num : Nat) : Bool :=
  match zoneOfLbn s g (num * 128), zoneOfLbn s g (num * 128 + 127) with
  | some a, some b => [a, b].any fun k => (s.zone k).isOpen && (match galleySheet s k with
      | some t => let sp := sheetSpan s g t; decide (sp.1 < num * 128 + 128 ∧ num * 128 < sp.1 + sp.2)
      | none => false)
  | some a, none => (s.zone a).isOpen
  | none, some b => (s.zone b).isOpen
  | none, none => false

/-- The sheets of a line's dirty sectors. -/
def lineSheets (s : State) (g : Nat) (x : Line) : List Nat :=
  ((x.cells.filter fun c => c.2.dirty).map fun c => sheetOfLbn s g (x.num * 128 + c.1)).eraseDups

/-- The sheets of a line become candidates of rank 2, and the engine waits for them (R254). -/
def coverLine (e g : Nat) (x : Line) (s : State) : State :=
  let ts := lineSheets s g x
  let s := s.updSig g fun y => { y with rank2 := ts.foldl (fun l t => addTo t l) y.rank2 }
  { s with cs.engines := nmapv (fun i r => if i = e then { r with covers := ts.foldl (fun l t => addTo t l) r.covers } else r) s.cs.engines }

/-- A blocked visit: the eviction buffer is full (R248). -/
def evbFull (s : State) : Option State × State := (none, s.raise Reg.Cc.EVB_FULL)

/-- A clean line leaves its set as a drop (R248). -/
def dropLine (e key : Nat) (x : Line) (s : State) : Option State :=
  (evict x false (some e) s).map fun s => ({ s with cs.tags := ndel key s.cs.tags } : State).bump Reg.Cc.RE_LINES 1 e

/-- The blocks of an absent line that a prefetch reads from the drives (R152, Table 10.6). -/
def prefetchBlocks (s : State) (g num : Nat) : List Nat :=
  ((List.range 128).map fun j => num * 128 + j).filter fun l =>
    let t := sheetOfLbn s g l
    !inHb s g l && sheetHeld s g t && mayBeWritten s g l

/-- Issue the reads of a prefetch: one command per folio. -/
def prefetch (e g num : Nat) (s : State) : State :=
  let ls := prefetchBlocks s g num
  let at_ (l : Nat) : Nat × Nat := let t := sheetOfLbn s g l; (t, (l - (sheetSpan s g t).1) / sheetFb s g t)
  let s' := ((ls.map at_).eraseDups).foldl (fun s f =>
    let bs := (ls.filter fun l => at_ l == f).map fun l => (l - (sheetSpan s g f.1).1) % sheetFb s g f.1
    match bs with
    | [] => s
    | b :: r => let lo := r.foldl min b; issueRead .fg g f.1 f.2 lo (r.foldl max b + 1 - lo) s) s
  let s' := { s' with cs.engines := nmapv (fun i r => if i = e then { r with fills := num :: r.fills } else r) s'.cs.engines }
  if ls.isEmpty then s' else s'.bump Reg.Cc.RE_LINES 1 e

/-- Discard the dirty sectors of a line (R252). -/
def discardLine (e key : Nat) (r : RangeRun) (x : Line) (s : State) : Option State :=
  let n := (x.cells.filter fun c => c.2.dirty).length
  (dropLine e key { x with cells := x.cells.filter fun c => !c.2.dirty, duplex := x.duplex } s).map fun s =>
    let s := s.bump Reg.Cc.RE_DISCARDED n e
    if r.dropped then s
    else
      let s := { s with cs.engines := nmapv (fun i y => if i = e then { y with dropped := true } else y) s.cs.engines }
      logRange e r 2 (s.raise Reg.Cc.DISCARDED)

/-- The operation of an engine on one line that no transfer uses (Table 10.6): none when the visit has to wait. -/
def rangeLine (e : Nat) (r : RangeRun) (num : Nat) (s : State) : Option State :=
  let g := r.sig
  match findTag s 0 g num with
  | none =>
    match findEvb s 0 g num with
    | some p => if (r.op = 0 ∨ r.op = 2) ∧ p.2.line.dirty then some (coverLine e g p.2.line s) else some s
    | none => if r.op = 3 then some (prefetch e g num s) else some s
  | some (key, x) =>
    let skip : State := s.bump Reg.Cc.RE_SKIPPED 1 e
    let busy := x.cells.any fun c => c.2.upd.isSome || c.2.shadow.isSome
    let meta_ := (nsOfLbn s g (num * 128)).isNone && (nsOfLbn s g (num * 128 + 127)).isNone
    if !x.dirty && !busy then
      if r.op = 1 ∨ r.op = 2 ∨ r.op = 4 then (if x.pin || x.retain then some s else dropLine e key x s) else some s
    else if r.op = 0 then some ((coverLine e g x s).bump Reg.Cc.RE_LINES 1 e)
    else if r.op = 1 then some skip
    else if r.op = 2 then
      if galleyLine s g num then some skip
      else (evict x true (some e) (coverLine e g x s)).map fun s => ({ s with cs.tags := ndel key s.cs.tags } : State).bump Reg.Cc.RE_LINES 1 e
    else if r.op = 4 then (if busy || galleyLine s g num || meta_ then some skip else discardLine e key r x s)
    else some s

/-- Whether a transfer into a line is in flight: a drive read, or initiator data on its way (R253). -/
def lineBusy (s : State) (g num : Nat) : Bool :=
  (findLine s 0 g num).any (·.fillPending) ||
    s.cmds.any fun p => p.2.op == .write && p.2.storedAt.isNone && p.2.got > 0 && nsSig s p.2.ns == g &&
      decide (p.2.lbn s / 128 ≤ num ∧ num ≤ (p.2.lbn s + p.2.nlb - 1) / 128)

/-- Put an engine's record back. -/
def updEngine (e : Nat) (f : RangeRun → RangeRun) (s : State) : State := { s with cs.engines := nmapv (fun i r => if i = e then f r else r) s.cs.engines }

/-- One visit after another, at most `n` (R250, R253). -/
def visitN (e : Nat) : Nat → State → State
  | 0, s => s
  | n + 1, s =>
    match nfind e s.cs.engines with
    | none => s
    | some r =>
      if r.pos > r.last ∨ r.parked.length ≥ 16 then s
      else
        let next (s : State) : State := visitN e n (updEngine e (fun r => { r with pos := r.pos + 1 }) s)
        if lineBusy s r.sig r.pos then next ((updEngine e (fun y => { y with parked := y.parked ++ [r.pos] }) s).bump Reg.Cc.RE_WAITS 1 e)
        else match rangeLine e r r.pos s with
          | some s => next s
          | none => s.raise Reg.Cc.EVB_FULL

/-- RANGE_VISIT: at most 64 lines of one impression (R250). -/
def doRangeVisit (e : Nat) (s : State) : State :=
  if s.core.mode = .pressRun ∨ s.core.mode = .maintenance then
    let s := visitN e 64 s
    match nfind e s.cs.engines with
    | some r => (s.put Reg.Cc.RE_POS_LO (r.pos % 2 ^ 32) e).put Reg.Cc.RE_POS_HI (r.pos / 2 ^ 32) e
    | none => s
  else s

/-- PARKED_LINE_APPLY: the transfer has ended; the operation is applied to the line as it stands (R253). -/
def doParkedLineApply (e num : Nat) (s : State) : State :=
  match nfind e s.cs.engines with
  | some r =>
    if r.parked.contains num ∧ !lineBusy s r.sig num ∧ (s.core.mode = .pressRun ∨ s.core.mode = .maintenance) then
      match rangeLine e r num s with
      | some s => updEngine e (fun y => { y with parked := y.parked.erase num }) s
      | none => s.raise Reg.Cc.EVB_FULL
    else s
  | none => s

/-- Whether an operation is over (R254). -/
def rangeOver (s : State) (e : Nat) (r : RangeRun) : Bool :=
  decide (r.pos > r.last) && r.parked.isEmpty &&
    (if r.op = 0 ∨ r.op = 2 then
      (r.covers.all fun t => !(s.sigSt r.sig).rank2.contains t && (updOn s r.sig t).isNone) &&
        !(s.cs.evb.any fun p => p.2.engine == some e && p.2.writeBack)
    else r.fills.all fun n => !(findLine s 0 r.sig n).any (·.fillPending))

/-- RANGE_COMPLETE. -/
def doRangeComplete (e : Nat) (s : State) : State :=
  match nfind e s.cs.engines with
  | some r =>
    if rangeOver s e r then
      let s := ({ s with cs.engines := ndel e s.cs.engines } : State).putB Reg.Cc.RE_BUSY false e
      logRange e r 0 (s.raise (if e = 0 then Reg.Cc.RE0_DONE else Reg.Cc.RE1_DONE))
    else s
  | none => s

/-- A cast aborts both engines (R250). -/
def abortRanges (s : State) : State :=
  s.cs.engines.foldl (fun s p =>
    logRange p.1 p.2 1 ((({ s with cs.engines := ndel p.1 s.cs.engines } : State).putB Reg.Cc.RE_BUSY false p.1).raise Reg.Cc.RE_ABORTED)) s

/-! ### The symbol code (R256 to R258) -/

/-- The coefficient that a device carries (Table 11.1). -/
def coefOf (dev : Nat) : Nat := if dev < 16 then dev + 4 else dev - 16

/-- The remainder after one more coefficient, highest first; `r` is c_3, c_2, c_1, c_0. -/
def rsStep (r : List Nat) (d : Nat) : List Nat :=
  let f := d ^^^ r.getD 0 0
  [r.getD 1 0 ^^^ gfMul f 0x0F, r.getD 2 0 ^^^ gfMul f 0x36, r.getD 3 0 ^^^ gfMul f 0x78, gfMul f 0x40]

/-- The check symbols c_0 to c_3 of 16 data bytes (R257). -/
def rsCheck (data : List Nat) : List Nat := (data.reverse.foldl rsStep [0, 0, 0, 0]).reverse

/-- Syndrome i of a word given by its 20 symbols in device order (R257). -/
def rsSyn (w : List Nat) (i : Nat) : Nat :=
  (List.range 20).foldl (fun a d => a ^^^ gfMul (w.getD d 0) (gfPow (i * coefOf d))) 0

/-- The error values at two devices that clear all four syndromes. -/
def rsPair (w : List Nat) (a b : Nat) : Option (Nat × Nat) :=
  let x := gfPow (coefOf a)
  let y := gfPow (coefOf b)
  let s0 := rsSyn w 0
  let s1 := rsSyn w 1
  let e2 := gfMul (s1 ^^^ gfMul s0 x) (gfInv (x ^^^ y))
  let e1 := s0 ^^^ e2
  let ok (i : Nat) : Bool := rsSyn w i == gfMul e1 (gfPow (i * coefOf a)) ^^^ gfMul e2 (gfPow (i * coefOf b))
  if ok 2 && ok 3 then some (e1, e2) else none

/-- Decode a word under the devices marked erased (Table 11.2): the corrected symbols, none when uncorrectable. -/
def rsDecode (erased : List Nat) (w : List Nat) : Option (List Nat) :=
  if (List.range 4).all fun i => rsSyn w i == 0 then some w
  else
    let all := (List.range 20).flatMap fun a => ((List.range 20).filter fun b => a < b).map fun b => (a, b)
    let may := all.filter fun p => erased.all fun d => d == p.1 || d == p.2
    may.findSome? fun p => (rsPair w p.1 p.2).map fun v => (w.set p.1 (w.getD p.1 0 ^^^ v.1)).set p.2 (w.getD p.2 0 ^^^ v.2)

/-! ### The repair map (R272) -/

/-- An entry of the repair map; a full map records nothing further. -/
def addMap (x : MapEnt) (s : State) : State :=
  if s.cs.map.length < 8183 then { s with cs.map := s.cs.map ++ [x], cs.mapDue := true }
  else (s.raise Reg.Ecc.MAP_FULL).log 0x4006 noDev (leBytes 8 s.cs.mapGen ++ [1])

/-- Write a new generation of the map to every half in service. -/
def writeMap (s : State) : State :=
  let g := s.cs.mapGen + 1
  let s := s.eachHalf fun h => { h with maps := nset (g % 2) (g, s.cs.map) h.maps }
  ({ s with cs.mapGen := g, cs.mapDue := false } : State).log 0x4006 noDev (leBytes 8 g ++ [0])

/-- REPAIR_MAP_WRITE: at the first boundary after a change. -/
def doRepairMapWrite (s : State) : State := if s.cs.mapDue ∧ s.halfOk then writeMap s else s

/-! ### Channel states (R258, R260, R261) -/

/-- CH_STATE and ERASED_MASK follow the channel. -/
def showChan (c : Nat) (s : State) : State :=
  (s.put Reg.Ecc.CH_STATE (s.chan c).st c).put Reg.Ecc.ERASED_MASK ((s.chan c).erased.foldl (fun m d => m + 2 ^ d) 0) c

/-- CASE_LIMIT in frames of 512 KiB (R262). -/
def caseLimit (s : State) : Nat :=
  let cs := (List.range 4).filter fun c => chanDirty s c
  let f := (cs.map fun c => 131008 - ((s.chan c).retired.filter fun x => x < 131008).length).sum
  if cs.length < 2 then 0 else min 229376 ((f - 32768) / 2)

/-- Dirty data lost in both copies of some sectors of a data line enters the hellbox with cause 7 (Table 11.3). An update that
carries one of them drops it. -/
def loseCells (g num : Nat) (js : List Nat) (s : State) : State :=
  match findLine s 0 g num with
  | none => s
  | some x =>
    let hit := (x.cells.filter fun c => js.contains c.1 && (c.2.dirty || c.2.upd.isSome || c.2.shadow.isSome)).map (·.1)
    let s := updLine 0 g num (fun x => { x with cells := x.cells.filter fun c => !js.contains c.1 }) s
    let ls := hit.map fun j => num * 128 + j
    let drop (u : Upd) : Upd :=
      let os := if u.sig = g then (ls.map fun l => l - (sheetSpan s g u.sheet).1) else []
      { u with data := u.data.filter fun d => !(u.sig == g && os.contains d.1 && decide ((sheetSpan s g u.sheet).1 ≤ num * 128 + 127)) }
    let s := { s with upds := nmapv (fun _ u => if u.sig = g ∧ ls.any (fun l => sheetOfLbn s g l == u.sheet) then drop u else u) s.upds }
    if hit.isEmpty then s else hbAdd g 7 ls (settleLine g num (s.raise Reg.Ecc.CASE_LOSS))

/-- A channel leaves service (R243, R260): what it alone held is lost. The last channel takes the module to SAFE (Table 18.3). -/
def leaveService (c : Nat) (s : State) : State :=
  if (s.chan c).st ≥ 3 then s
  else
    let s := showChan c (s.setChan c { s.chan c with st := 3 })
    let s := addMap ⟨5, c, 0xFF, 0xFF, 0⟩ (s.raise Reg.Ecc.CH_OUT)
    let s := loseChannel c (s.log 0x4005 noDev [c, 3])
    let gone := (allLines s).filter fun x => x.kind == 0 && x.primary / 131072 == c
    let s := gone.foldl (fun s x => loseCells x.sig x.num (x.cells.map (·.1)) s) s
    if (List.range 4).all fun d => (s.chan d).st ≥ 3 then { s with core.safeDue := s.core.safeDue <|> some (4, false) } else s

/-- A device is marked erased (R258, R260): the channel moves down Table 11.2. -/
def markErased (c dev : Nat) (s : State) : State :=
  let x := s.chan c
  if x.st ≥ 3 ∨ x.erased.contains dev then s
  else
    let s := (s.raise Reg.Ecc.DEVICE_ERASED).log 0x4005 (dev * 2 ^ 19) [c, min 3 (x.st + 1)]
    let s := addMap ⟨4, c, dev, 0xFF, 0⟩ s
    if x.erased.length ≥ 2 then leaveService c s
    else
      let s := showChan c (s.setChan c { x with erased := dev :: x.erased, st := x.st + 1 })
      if x.st + 1 = 2 then s.raise Reg.Ecc.CH_CLEAN_ONLY else s

/-- Move the frames of a line that lie in a channel to channels that can hold dirty frames. -/
def moveFrames (c : Nat) (x : Line) (s : State) : Option (Line × State) :=
  let inC (f : Nat) : Bool := f / 131072 == c
  let fresh (no : List Nat) (s : State) : Option (Nat × State) :=
    (roomiest s ((List.range 4).filter fun d => d != c && chanDirty s d && !no.contains d)).map fun d => takeFrame d s
  let others := ([x.primary] ++ x.duplex.toList).filter fun f => !inC f
  let s1 := if inC x.primary then (fresh (others.map (· / 131072)) s).map fun r => ({ x with primary := r.1 }, giveFrame x.primary r.2) else some (x, s)
  let s2 := s1.bind fun r => match x.duplex with
    | some d => if inC d then
        (match fresh [r.1.primary / 131072] r.2 with
         | some q => some ({ r.1 with duplex := some q.1 }, giveFrame d q.2)
         | none => some ({ r.1 with duplex := none }, giveFrame d r.2))
      else some r
    | none => some r
  s2.map fun r =>
    x.shFrames.foldl (fun r f =>
      if inC f then (match fresh ((r.1.shFrames.filter fun y => y != f).map (· / 131072)) r.2 with
        | some q => ({ r.1 with shFrames := r.1.shFrames.map fun y => if y = f then q.1 else y }, giveFrame f q.2)
        | none => r)
      else r) r

/-- CLEAN_ONLY_COPY: dirty and shadow frames leave a clean-only channel, in ascending order of tag entry (R261). -/
def doCleanOnlyCopy (c : Nat) (s : State) : State :=
  if (s.chan c).st = 2 then
    s.cs.tags.foldl (fun s p =>
      match nfind p.1 s.cs.tags with
      | some x =>
        if x.dirty || x.cells.any (fun y => y.2.upd.isSome || y.2.shadow.isSome) then
          match moveFrames c x s with
          | some r => { r.2 with cs.tags := nset p.1 r.1 r.2.cs.tags }
          | none => s
        else s
      | none => s) s
  else s

/-! ### Word errors (R259, R267) -/

/-- The frame and the bank of a code word: 32 768 words of a frame, 1 024 of a bank row (Table 11.4). -/
def wordFrame (w : Nat) : Nat := w / 32768
def wordBank (w : Nat) : Nat := w % 32768 / 1024

/-- A self-test of a row is queued (R267); none in the scratch and test windows. -/
def queueTest (c w : Nat) (s : State) : State :=
  let x := s.chan c
  let t : RowTest := ⟨wordFrame w, wordBank w⟩
  if wordFrame w ≥ 131040 ∨ x.queue.contains t then s
  else if x.queue.length ≥ 16 then s.raise Reg.Ecc.SELFTEST_DROP
  else
    let go := x.queue.isEmpty && s.core.mode != .cast && s.core.mode != .castDone
    (faultItem s).setChan c { x with queue := x.queue ++ [t], testAt := if go then some s.core.imp else x.testAt }

/-- Symbols that the state of a channel corrects beside its erasures (Table 11.2). -/
def maxFix (st : Nat) : Nat := if st = 0 then 2 else if st = 1 then 1 else 0

/-- A corrected word (R258, R259). -/
def correctedWord (c w : Nat) (ds : List Nat) (s : State) : State :=
  let x := s.chan c
  let s := s.setChan c { x with devCe := ds.foldl (fun m d => nset d (min (ngetD d 0 m + 1) (2 ^ 32 - 1)) m) x.devCe }
  let s := (s.bump Reg.Ecc.CE_COUNT 1 c).raise Reg.Ecc.CE_SEEN
  queueTest c w (s.log 0x4001 (ds.foldl min 31 * 2 ^ 19 + c * 131072 + wordFrame w) [c])

/-- Drop a clean line at once (Table 11.3, first row). -/
def dropClean (x : Line) (s : State) : State :=
  match findTag s x.kind x.sig x.num with
  | some (k, y) =>
    match evict y false none s with
    | some s => { s with cs.tags := ndel k s.cs.tags }
    | none => { giveFrames ([y.primary] ++ y.duplex.toList) (s.raise Reg.Cc.EVB_FULL) with cs.tags := ndel k s.cs.tags }
  | none => s

/-- Whether a line must be kept: dirty, in an update, or with a shadow. -/
def Line.held (x : Line) : Bool := x.cells.any fun c => c.2.dirty || c.2.upd.isSome || c.2.shadow.isSome

/-- Which row of Table 11.3 an uncorrectable word falls under. -/
def ueRow (held : Bool) (other : Bool) (h : WordHolds) (f : Nat) : Nat :=
  if f ≥ 131040 then 8
  else match h with
    | .lineFrame => if !held then 1 else if other then 2 else 3
    | .parityLine _ => if other then 2 else 4
    | .internalLine => if other then 5 else 6
    | .ledgerCopy => if other then 7 else 6
    | .nothing => 1

/-- An uncorrectable word (Table 11.3, R259, R260). -/
def uncorrectableWord (c w : Nat) (other : Bool) (h : WordHolds) (s : State) : State :=
  let f := c * 131072 + wordFrame w
  let x := (allLines s).find? fun y => y.primary == f || y.duplex == some f || y.shFrames.contains f
  let row := ueRow (x.any Line.held) other h (wordFrame w)
  let s := ((s.bump Reg.Ecc.UE_COUNT 1 c).raise Reg.Ecc.UE_SEEN).log 0x4002 (noDev + f) [c, row]
  let s := queueTest c w s
  let s := match x, h with
    | some y, .lineFrame =>
      if row = 1 then dropClean y s else if row = 3 then loseCells y.sig y.num [w % 32768 / 256] s else s
    | _, .parityLine u =>
      if row = 4 then (match nfind u s.upds with
        | some y => { s with upds := nset u { y with st := .parity, par := [] } s.upds }
        | none => s)
      else s
    | _, _ => s
  let s := if row = 6 then { s.raise Reg.Ecc.CASE_LOSS with core.safeDue := s.core.safeDue <|> some (2, false) } else s
  let y := s.chan c
  let ues := s.core.imp :: y.ues.filter fun t => decide (s.core.imp - t < 125000)
  let s := s.setChan c { y with ues := ues }
  if ues.length ≥ 16 then leaveService c s else s

/-! ### The patrol scrubber (R266) -/

/-- A lap of a channel's scrubber ends. -/
def endScrubLap (c : Nat) (s : State) : State :=
  let x := s.chan c
  let s := (s.put Reg.Ecc.SCRUB_LAST_LAP (impMs (s.since x.lapAt)) c).put Reg.Ecc.SCRUB_LAPS (s.get Reg.Ecc.SCRUB_LAPS c + 1) c
  s.setChan c { x with lapAt := s.core.imp }

/-- Whether the scrubber passes over a word: its row is held for a self-test, or the test window is in test mode. -/
def scrubSkips (s : State) (c w : Nat) : Bool :=
  (wordFrame w ≥ 131044 && s.bit Reg.Ecc.ECC_TEST_EN) ||
    ((s.chan c).testAt.isSome && (match (s.chan c).queue with | t :: _ => t == ⟨wordFrame w, wordBank w⟩ | [] => false))

/-- PATROL_SCRUB: the scrubber has read on to the burst of a word, which it finds as the result says. A word below its position
lies in its next lap. -/
def doPatrolScrub (c : Nat) (r : WordResult) (h : WordHolds) (w : Nat) (s : State) : State :=
  if s.bit Reg.Ecc.SCRUB_EN ∧ (s.chan c).st ≤ 2 ∧ s.core.mode ≠ .cast ∧ s.core.mode ≠ .castDone ∧ !scrubSkips s c w then
    let s := if wordFrame w < s.get Reg.Ecc.SCRUB_POS c then endScrubLap c s else s
    let s := s.put Reg.Ecc.SCRUB_POS (wordFrame w) c
    let s := match r with
      | .clean => s
      | .corrected ds =>
        let ds := ds.filter fun d => !(s.chan c).erased.contains d
        if ds.isEmpty then s
        else if ds.eraseDups.length > maxFix (s.chan c).st then uncorrectableWord c w true h s
        else correctedWord c w ds.eraseDups s
      | .uncorrectable ok => uncorrectableWord c w ok h s
    let s := if w ≥ 2 ^ 32 - 16 then (endScrubLap c s).put Reg.Ecc.SCRUB_POS 0 c else s
    s.put Reg.Ecc.SCRUB_ELAPSED (impMs (s.since (s.chan c).lapAt)) c
  else s

/-! ### Self-tests and repairs (R268 to R271) -/

/-- The content of a frame moves to a new frame of the same channel (R271). -/
def replaceFrame (c f : Nat) (s : State) : State :=
  let old := c * 131072 + f
  let used := (s.chan c).used.contains f
  let s := s.setChan c { s.chan c with retired := addTo f (s.chan c).retired, used := (s.chan c).used.erase f }
  if used ∧ freeFrames s c > 0 then
    let n := takeFrame c s
    let sub (y : Nat) : Nat := if y = old then n.1 else y
    let fix (x : Line) : Line := { x with primary := sub x.primary, duplex := x.duplex.map sub, shFrames := x.shFrames.map sub }
    { n.2 with cs.tags := n.2.cs.tags.map fun p => (p.1, fix p.2), cs.evb := n.2.cs.evb.map fun p => (p.1, { p.2 with line := fix p.2.line }) }
  else s

/-- The frame of a hard row that cannot be repaired is retired; a device with 16 of them is marked erased (R271). -/
def retireFrame (c dev : Nat) (t : RowTest) (s : State) : State :=
  if t.row ≥ 131008 then markErased c dev s
  else
    let s := replaceFrame c t.row s
    let n := ngetD dev 0 (s.chan c).devRet + 1
    let s := s.setChan c { s.chan c with devRet := nset dev n (s.chan c).devRet }
    let s := addMap ⟨3, c, dev, t.bank, t.row⟩ (s.log 0x4004 (dev * 2 ^ 19 + (c * 131072 + t.row)) [1])
    if n ≥ 16 then markErased c dev s else s

/-- A hard row (Table 11.6): repaired if the bank group's repair is free, else retired; only recorded once a cast has begun. -/
def hardRow (c dev : Nat) (t : RowTest) (s : State) : State :=
  let key := dev * 8 + t.bank / 4
  let src := dev * 2 ^ 19 + (c * 131072 + t.row)
  let s := s.log 0x4003 src [1]
  if s.core.mode = .cast ∨ s.core.mode = .castDone then addMap ⟨1, c, dev, t.bank, t.row⟩ s
  else if (s.chan c).ppr.contains key then retireFrame c dev t s
  else
    let s := s.setChan c { s.chan c with ppr := key :: (s.chan c).ppr, rows := (s.chan c).rows + 1 }
    addMap ⟨1, c, dev, t.bank, t.row⟩ ((s.raise Reg.Ecc.ROW_REPAIRED).log 0x4004 src [0])

/-- The outcome of a self-test (R269, Table 11.6). -/
def judgeTest (c : Nat) (t : RowTest) (r : List DevMismatch) (s : State) : State :=
  let bad := r.filter fun d => (d.inRow || d.inReference) && !(s.chan c).erased.contains d.dev
  if ((bad.map (·.dev)).eraseDups).length ≥ 3 then leaveService c s
  else if bad.isEmpty then (s.bump Reg.Ecc.TRANSIENTS 1 c).log 0x4003 (noDev + (c * 131072 + t.row)) [0]
  else bad.foldl (fun s d =>
    if d.inReference then markErased c d.dev (s.log 0x4003 (d.dev * 2 ^ 19 + (c * 131072 + t.row)) [2]) else hardRow c d.dev t s) s

/-- CASE_SELF_TEST: the test of the first queued row ends 2 imp after it began (R268). -/
def doCaseSelfTest (c : Nat) (r : List DevMismatch) (s : State) : State :=
  let x := s.chan c
  let casting := s.core.mode == .cast || s.core.mode == .castDone
  match x.queue, x.testAt with
  | t :: q, some at_ =>
    if x.st ≤ 2 ∧ s.since at_ ≥ 2 then
      let s := s.setChan c { x with queue := q, testAt := if q.isEmpty || casting then none else some s.core.imp }
      judgeTest c t r s
    else s
  | _ :: _, none => if casting then s else s.setChan c { x with testAt := some s.core.imp }
  | [], _ => s

/-! ### The merge buffer and the test window (R263, R273, R274) -/

/-- The 20 stored symbols of a word of the test window; unwritten words are zero (R265). -/
def winWord (s : State) (a : Nat) : List Nat := (List.range 20).map fun d => ngetD (a * 20 + d) 0 s.cs.win

/-- Store symbols of a word from a device on. -/
def putWin (a dev : Nat) (bs : List Nat) (s : State) : State :=
  { s with cs.win := ((List.range bs.length).zip bs).foldl (fun m x => nput (a * 20 + dev + x.1) (x.2 % 256) m) s.cs.win }

/-- A word of the window is written whole: data and check symbols. -/
def writeWord (a : Nat) (bs : List Nat) (s : State) : State := putWin a 16 (rsCheck bs) (putWin a 0 bs s)

/-- What a decoded word gives under the state of its channel. -/
def decodedWord (s : State) (a : Nat) : Option (List Nat) := (rsDecode (s.chan (a / 2 ^ 20)).erased (winWord s a)).map fun w => w.take 16

/-- An entry of the merge buffer is written by read-merge-write, or whole when its mask is full (R263). Bytes of an
uncorrectable word of the window, which has no other copy, stay as they are stored. -/
def flushMerge (i : Nat) (s : State) : State :=
  match nfind i s.cs.merge with
  | none => s
  | some m =>
    let old := (decodedWord s m.word).getD ((winWord s m.word).take 16)
    let bs := (List.range 16).map fun j => (nfind j m.bytes).getD (old.getD j 0)
    { writeWord m.word bs s with cs.merge := ndel i s.cs.merge }

/-- A narrow write (R263). -/
def narrowWrite (a : Nat) (bytes : NMap Nat) (s : State) : State :=
  match s.cs.merge.find? fun p => p.2.word == a with
  | some (i, m) => { s with cs.merge := nset i { m with bytes := bytes.foldl (fun b x => nset x.1 x.2 b) m.bytes } s.cs.merge }
  | none =>
    let s :=
      if s.cs.merge.length < 64 then s
      else
        let s := s.raise Reg.Ecc.MB_FULL
        match s.cs.merge.foldl (fun b p => match b with | some q => if p.2.at_ < q.2.at_ then some p else b | none => some p) (none : Option (Nat × MergeEnt)) with
        | some q => flushMerge q.1 s
        | none => s
    { s with cs.merge := nset (nfresh s.cs.merge 0) ⟨a, bytes, s.core.imp⟩ s.cs.merge }

/-- A full-word write discards the entry of its word (R263). -/
def wholeWrite (a : Nat) (bs : List Nat) (s : State) : State :=
  writeWord a bs { s with cs.merge := s.cs.merge.filter fun p => p.2.word != a }

/-- MERGE_ENTRY_FLUSH: at the next boundary once its mask is full, or when 4 imp old. -/
def doMergeEntryFlush (i : Nat) (s : State) : State :=
  match nfind i s.cs.merge with
  | some m => if (m.bytes.length = 16 ∧ s.since m.at_ ≥ 1) ∨ s.since m.at_ ≥ 4 then flushMerge i s else s
  | none => s

/-- The cast empties the buffer (R264). -/
def emptyMerge (s : State) : State := (s.cs.merge.map (·.1)).foldl (fun s i => flushMerge i s) s

/-- Test mode ends: the window of every channel in service is zeroed (R274). -/
def endEccTest (s : State) : State :=
  if s.bit Reg.Ecc.ECC_TEST_EN then
    let inUse (k : Nat) : Bool := decide ((s.chan (k / 20 / 2 ^ 20)).st ≤ 2)
    { s.putB Reg.Ecc.ECC_TEST_EN false with cs.win := s.cs.win.filter fun p => !inUse p.1, cs.merge := s.cs.merge.filter fun p => !inUse (p.2.word * 20) }
  else s

/-- ECC_TEST_EN is written (R273). -/
def doEccTestEn (v : Bool) (s : State) : State :=
  if v then (if s.core.mode = .maintenance then s.putB Reg.Ecc.ECC_TEST_EN true else s) else endEccTest s

/-- DEV_SEL: the counts of a device are latched (R275); a device above 19 is rejected (R440). -/
def doDevSel (v : Nat) (s : State) : State :=
  let c := v % 4
  let w := v / 256 % 32
  let d := if w > 19 then s.get Reg.Ecc.DEV_SEL else w
  let s := (s.put Reg.Ecc.DEV_SEL_CH c).put Reg.Ecc.DEV_SEL d
  let s := if w > 19 then s.raise Reg.Glb.VALUE_REJ else s
  let x := s.chan c
  let s := s.put Reg.Ecc.DEV_CE (ngetD d 0 x.devCe)
  (s.put Reg.Ecc.DEV_ROWS (x.ppr.filter fun k => k / 8 == d).length).put Reg.Ecc.DEV_RETIRED (ngetD d 0 x.devRet)

/-! ### The commands -/

def execReGo (e : Fin 2) (s : State) : Host.Outcome State Fault Refusal := .next (whenOn (doReGo e.val) s)
def execRangeVisit (e : Fin 2) (s : State) : Host.Outcome State Fault Refusal := .next (whenOn (doRangeVisit e.val) s)
def execParkedLineApply (e : Fin 2) (l : Nat) (s : State) : Host.Outcome State Fault Refusal := .next (whenOn (doParkedLineApply e.val l) s)
def execRangeComplete (e : Fin 2) (s : State) : Host.Outcome State Fault Refusal := .next (whenOn (doRangeComplete e.val) s)
def execCleanOnlyCopy (c : ChIx) (s : State) : Host.Outcome State Fault Refusal := .next (whenOn (doCleanOnlyCopy c.val) s)
def execMergeEntryFlush (i : Nat) (s : State) : Host.Outcome State Fault Refusal := .next (whenOn (doMergeEntryFlush i) s)
def execRepairMapWrite (s : State) : Host.Outcome State Fault Refusal := .next (whenOn doRepairMapWrite s)
def execEccTestEn (v : Bool) (s : State) : Host.Outcome State Fault Refusal := .next (whenOn (doEccTestEn v) s)
def execDevSel (v : RegWord) (s : State) : Host.Outcome State Fault Refusal := .next (whenOn (doDevSel v.toNat) s)

end Sys2Proof.Machine
end

