-- ==== Sys2Proof/Machine/Errata.lean ====
section
/-!
DEFINITION. The Errata log (chapter 16): recording of the events of a boundary, flood rules, flushes, freeze, clears and
anchors.
-/

namespace Sys2Proof.Machine

/-- Length of a record: 16 plus its payload, rounded up to a multiple of 4 (R359). -/
def ErrRec.len (r : ErrRec) : Nat := 16 + roundUp r.payload.length 4

/-- The bytes of a record (Table 16.3). -/
def ErrRec.bytes (r : ErrRec) : List Nat :=
  leBytes 2 r.len ++ leBytes 2 r.code ++ [r.flags, r.rep] ++ leBytes 4 r.opTime ++ leBytes 3 r.cycles ++ leBytes 3 r.src ++
    r.payload ++ List.replicate (r.len - 16 - r.payload.length) 0

/-- Bytes in the buffer (BUF_USED). -/
def Errata.used (e : Errata) : Nat := (e.buf.map ErrRec.len).sum

/-- Event class of a code. -/
def errClass (code : Nat) : Nat := code / 4096

/-- Order of R360: suppression records first, then ascending code (class, then code in the class), then source. -/
def ErrRec.order (r : ErrRec) : Nat := ((if r.flags % 2 = 1 then 0 else 1) * 65536 + r.code) * 16777216 + r.src

/-- An event or record is dropped (R356, R365, R366). -/
def errDrop (s : State) : State := (s.bump Reg.El.ERRATA_LOST).raise Reg.El.EL_LOST

/-- Append a record to the buffer, or drop it when the buffer is full. -/
def errAppend (r : ErrRec) (s : State) : State :=
  let r := if s.bit Reg.El.FROZEN then { r with flags := r.flags + (if r.flags / 4 % 2 = 0 then 4 else 0) } else r
  if s.el.used + r.len > 65536 then errDrop s else { s with el.buf := s.el.buf ++ [r] }

/-- R363: an event equal in code and source to the last record of the buffer repeats it, unless it is saturated. -/
def errRepeat (r : ErrRec) (s : State) : State :=
  match s.el.buf.getLast? with
  | some l =>
    if l.code = r.code ∧ l.src = r.src then
      if l.rep < 255 then { s with el.buf := s.el.buf.dropLast ++ [{ l with rep := l.rep + 1 }] }
      else errAppend { r with flags := 2 } s
    else errAppend r s
  | none => errAppend r s

/-- The length of a rate window (R364). -/
def rateWindow (s : State) : Nat := s.get Reg.El.RATE_WINDOW * 7500000

/-- R364: the window of a code ends; a record of its suppressed events, if any, is made. -/
def endRateWindow (code : Nat) (s : State) : State :=
  match nfind code s.el.wins with
  | none => s
  | some w =>
    if s.since w.start < rateWindow s then s
    else
      let s := { s with el.wins := ndel code s.el.wins }
      if w.dropped = 0 then s
      else
        let startOp := s.core.opImp - s.since w.start
        errAppend ⟨code, 1, 0, opTimeOf (startOp + rateWindow s), s.core.cycles, w.lastSrc,
          leBytes 4 w.dropped ++ leBytes 4 (opTimeOf startOp)⟩ s

/-- R364: an event of EC8 or EC9. -/
def errRate (r : ErrRec) (s : State) : State :=
  let s := endRateWindow r.code s
  match nfind r.code s.el.wins with
  | none => errAppend r { s with el.wins := nset r.code ⟨s.core.imp, 1, 0, 0⟩ s.el.wins }
  | some w =>
    if w.seen < s.get Reg.El.RATE_LIMIT then
      errAppend r { s with el.wins := nset r.code { w with seen := w.seen + 1 } s.el.wins }
    else
      (({ s with el.wins := nset r.code { w with dropped := w.dropped + 1, lastSrc := r.src } s.el.wins } : State)).bump
        Reg.El.SUPPRESSED

/-- R359, Table 16.4: record one event by the flood rule of its class. -/
def errRecord (s : State) (r : ErrRec) : State :=
  let c := errClass r.code
  if r.flags % 2 = 1 then errAppend r s
  else if 4 ≤ c ∧ c ≤ 7 then errRepeat r s
  else if c = 8 ∨ c = 9 then errRate r s
  else errAppend r s

/-- R360: record the events of a boundary in their order. -/
def recordEvents (s : State) : State :=
  let evs := sortBy ErrRec.order s.el.due.reverse
  evs.foldl errRecord { s with el.due := [] }

/-- First byte of the reserved space of the LOG_FULL record (Table 16.1). -/
def logLimit : Nat := 16776960

/-- R357, R366: append one record to the record area of every half in service, or drop it when it does not fit. -/
def flushOne (s : State) (r : ErrRec) : State :=
  if s.bit Reg.El.EL_FULL ∨ s.el.logEnd + r.len > logLimit then
    let s := errDrop s
    let fullNow := (s.st0.log.full.isSome && s.st0.ok) || (s.st1.log.full.isSome && s.st1.ok)
    if fullNow then s
    else
      let rec_ : ErrRec := ⟨0x0005, 0, 0, opTimeOf s.core.opImp, s.core.cycles, 0, leBytes 4 s.el.logEnd⟩
      (s.eachHalf fun h => { h with log.full := some rec_ }).raise Reg.El.EL_FULL
  else
    let off := s.el.logEnd
    let s := s.eachHalf fun h => { h with log.recs := nset off r h.log.recs }
    { s with el.logEnd := off + r.len }

/-- R356, R357: flush the buffer to every half in service; nothing is made while no half is in service. -/
def flushLog (s : State) : State :=
  if s.halfOk then
    let recs := s.el.buf
    let s := { s with el.buf := [], el.lastFlush := s.core.imp, el.flushDue := false }
    if recs.isEmpty then s
    else recs.foldl flushOne { s with el.logEnd := roundUp s.el.logEnd 4096 }
  else s

/-- Whether one of the conditions of R356 asks for a flush, and no freeze or clear withholds it. -/
def flushWanted (s : State) : Bool :=
  s.halfOk && !s.bit Reg.El.FROZEN && s.el.clearAt.isNone &&
    (s.el.flushDue || s.since s.el.lastFlush ≥ 125000 || s.el.used ≥ 49152)

/-- ERRATA_FLUSH: the flush of R356 at the first boundary at which one of its conditions holds. -/
def doErrataFlush (s : State) : State := if flushWanted s then flushLog s else s

/-- LOG_FLUSH is written: a flush now, or withheld by a freeze or for want of a half (R356, Table 16.6). -/
def doLogFlush (s : State) : State :=
  let s := s.pulse Reg.El.LOG_FLUSH
  if s.halfOk && !s.bit Reg.El.FROZEN && s.el.clearAt.isNone then flushLog s else s

/-- The flush that begins a freeze completes, and FROZEN is set (R365). -/
def beginFreeze (s : State) : State :=
  if s.bit Reg.El.FREEZE && !s.bit Reg.El.FROZEN && s.halfOk then
    let s := (flushLog s).putB Reg.El.FROZEN true
    { s with el.freezeAt := some s.core.imp }
  else s

/-- A freeze ends, whatever the cause: FREEZE and FROZEN clear and the buffer is flushed at the next boundary (R365). -/
def endFreeze (s : State) : State :=
  let s := (s.putB Reg.El.FREEZE false).putB Reg.El.FROZEN false
  { s with el.freezeAt := none, el.flushDue := true }

/-- FREEZE is written (R365). -/
def doFreeze (v : Bool) (s : State) : State :=
  if v then beginFreeze (s.putB Reg.El.FREEZE true)
  else if s.bit Reg.El.FREEZE || s.bit Reg.El.FROZEN then endFreeze s else s

/-- FREEZE_EXPIRED: 300 s of a freeze have passed (R365). -/
def doFreezeExpired (s : State) : State :=
  match s.el.freezeAt with
  | some t =>
    if s.bit Reg.El.FROZEN ∧ s.since t ≥ 37500000 then ((endFreeze s).raise Reg.El.FREEZE_EXPIRED).log 0x0007 0 else s
  | none => s

/-- The region of every half is erased (R367 step 1). -/
def eraseLog (s : State) : State := s.eachHalf fun h => { h with log.hdrOk := false, log.recs := [], log.full := none }

/-- LOG_CLEAR is taken only if the image in force permits clears and the log is frozen (R367, R472). -/
def doLogClear (s : State) : State :=
  let s := s.pulse Reg.El.LOG_CLEAR
  if s.bit Reg.El.LOG_CLEAR_OK ∧ s.img.committed ∧ s.bit Reg.El.FROZEN then
    let used := roundUp s.el.logEnd 4096
    let s := eraseLog s
    { s with el.clearAt := some s.core.imp, el.clearUsed := used }
  else s.raise Reg.El.CLEAR_REFUSED

/-- Steps 2 and 3 of R367: the header with its clear count, and the LOG_CLEARED record. -/
def writeCleared (flags used lost : Nat) (s : State) : State :=
  let clears := (max s.st0.log.clears s.st1.log.clears) + 1
  let op := opTimeOf s.core.opImp
  let cyc := s.core.cycles
  let rec_ : ErrRec := ⟨0x0006, flags, 0, op, cyc, 0, leBytes 4 used ++ leBytes 4 lost ++ leBytes 4 clears⟩
  let s := s.eachHalf fun h => { h with log := ⟨true, clears, op, cyc, [(4096, rec_)], none⟩ }
  { s with el.logEnd := 4096 + rec_.len }

/-- LOG_CLEAR_COMPLETE: the region is erased; the clear runs to its end (R367 steps 2 to 4). -/
def doLogClearComplete (s : State) : State :=
  match s.el.clearAt with
  | none => s
  | some _ =>
    let lost := s.get Reg.El.ERRATA_LOST
    let s := (writeCleared 0 s.el.clearUsed lost s).put Reg.El.ERRATA_LOST 0
    let s := { s with el.clearAt := none }
    (endFreeze s).raise Reg.El.EL_CLEARED

/-- R367: a region whose header is not valid is cleared at makeready; the record carries INTERRUPTED. -/
def clearInterrupted (s : State) : State :=
  writeCleared 8 0xFFFFFFFF 0xFFFFFFFF (eraseLog { s with el.buf := [] })

/-- The offset after the last record of a region (R357). -/
def LogRegion.endOff (l : LogRegion) : Nat := (l.recs.map fun p => p.1 + p.2.len).foldl max 4096

/-- CASE_INIT step 5: scan the log for its end, and clear a log whose header is invalid (R357, R367, R391). -/
def scanLog (s : State) : State :=
  if s.halfOk then
    let ok := (s.st0.ok && s.st0.log.hdrOk) || (s.st1.ok && s.st1.log.hdrOk)
    if ok then
      let e0 := if s.st0.ok && s.st0.log.hdrOk then s.st0.log.endOff else 4096
      let e1 := if s.st1.ok && s.st1.log.hdrOk then s.st1.log.endOff else 4096
      { s with el.logEnd := max e0 e1 }
    else clearInterrupted s
  else s

/-- RATE_WINDOW_END for one event code (R364). -/
def doRateWindowEnd (code : Nat) (s : State) : State := endRateWindow code s

/-- ANCHOR_GO: the wall-clock anchor as written, with the impression counter of the boundary (R368). -/
def doAnchorGo (s : State) : State :=
  let wall := s.get Reg.El.ANCHOR_WALL_LO + 2 ^ 32 * s.get Reg.El.ANCHOR_WALL_HI
  (s.pulse Reg.El.ANCHOR_GO).log 0x0004 0 (leBytes 8 wall ++ leBytes 8 s.core.imp ++ leBytes 2 (s.get Reg.El.ANCHOR_TAG))

/-- A byte of the log region of one half, as DMA target 0x4 reads it (R358, Table 16.1, Table 16.2). Unwritten bytes of the
record area read 0xFF (R357). -/
def logByte (h : HalfSt) (off : Nat) : Nat :=
  if off < 4096 then
    if h.log.hdrOk then
      let head := [0x45, 0x52, 0x52, 0x4C] ++ leBytes 2 1 ++ leBytes 2 0 ++ leBytes 4 h.log.clears ++ leBytes 4 0 ++
        leBytes 16 Config.serial ++ leBytes 4 h.log.clrTime ++ leBytes 4 h.log.clrCycles
      if off < 4092 then head.getD off 0 else (leBytes 4 (crc32c (head ++ List.replicate (4092 - head.length) 0))).getD (off - 4092) 0
    else 0xFF
  else if off < logLimit then
    match h.log.recs.find? fun p => p.1 ≤ off ∧ off < p.1 + p.2.len with
    | some (o, r) => r.bytes.getD (off - o) 0
    | none => 0xFF
  else
    match h.log.full with
    | some r => r.bytes.getD (off - logLimit) 0xFF
    | none => 0xFF

/-! ### The commands -/

def execErrataFlush (s : State) : Host.Outcome State Fault Refusal := .next (whenOn doErrataFlush s)
def execLogFlush (s : State) : Host.Outcome State Fault Refusal := .next (whenOn doLogFlush s)
def execFreeze (v : Bool) (s : State) : Host.Outcome State Fault Refusal := .next (whenOn (doFreeze v) s)
def execFreezeExpired (s : State) : Host.Outcome State Fault Refusal := .next (whenOn doFreezeExpired s)
def execLogClear (s : State) : Host.Outcome State Fault Refusal := .next (whenOn doLogClear s)
def execLogClearComplete (s : State) : Host.Outcome State Fault Refusal := .next (whenOn doLogClearComplete s)
def execRateWindowEnd (code : Nat) (s : State) : Host.Outcome State Fault Refusal := .next (whenOn (doRateWindowEnd code) s)
def execAnchorGo (s : State) : Host.Outcome State Fault Refusal := .next (whenOn doAnchorGo s)

end Sys2Proof.Machine
end

