-- ==== Sys2Proof/Machine/Dma.lean ====
section
/-!
DEFINITION. The DMA engine's host channels (chapter 15): starting and stopping, descriptors and their checks, steps, bus errors,
shared stops. Compositor channels serve the module's own work and are part of what that work does.
-/

namespace Sys2Proof.Machine

/-! ### Channels and targets (R341, R343) -/

/-- Whether a channel is a host channel of the counts in force. -/
def hostChannel (s : State) (c : Nat) : Bool := decide (c < s.dma.channels) && decide (c + s.dma.hosts ≥ s.dma.channels)

/-- Target and byte offset of an address. -/
def dmaTarget (a : Nat) : Nat := a / 2 ^ 60 % 16
def dmaOffset (a : Nat) : Nat := a % 2 ^ 60

/-- Size of a target that host channels use (Table 15.1). -/
def dmaSize (t : Nat) : Nat := if t = 3 then 0x10000000 else if t = 4 then 16777216 else if t = 5 then 8388608 else if t = 6 then 262144 else 0

/-- Whether a host channel may use a range in a direction (Table 15.1). -/
def dmaMay (s : State) (write : Bool) (a n : Nat) : Bool :=
  let t := dmaTarget a
  let ok := if t = 3 then s.bit Reg.Ecc.ECC_TEST_EN else if t = 4 then !write else t == 5 || t == 6
  ok && decide (dmaOffset a + n ≤ dmaSize t)

/-! ### The ECC test window (R273, Table 11.9) -/

def eccView (o : Nat) : Nat := o / 2 ^ 26 % 4
def eccChan (o : Nat) : Nat := o / 2 ^ 24 % 4
def eccPlace (o : Nat) : Nat := o % 2 ^ 24

/-- Whether a beat of the window receives a bus error. -/
def eccBad (s : State) (o : Nat) : Bool :=
  eccView o == 3 || decide ((s.chan (eccChan o)).st ≥ 3) || decide (eccPlace o ≥ (if eccView o = 2 then 0x380000 else 0xE00000))

/-- The key of the code word of a data-view offset. -/
def eccWord (o : Nat) : Nat := eccChan o * 2 ^ 20 + eccPlace o / 16

/-- A decoded read of one word: its data, with TEST_CORR, TEST_UNCORR and TEST_LAST (Table 11.2). The data of an uncorrectable word
is left open. -/
def eccDecode (a : Nat) (s : State) : List Nat × State :=
  let c := a / 2 ^ 20
  let w := winWord s a
  let patch (bs : List Nat) : List Nat := match s.cs.merge.find? fun p => p.2.word == a with
    | some m => (List.range 16).map fun j => (nfind j m.2.bytes).getD (bs.getD j 0)
    | none => bs
  match rsDecode (s.chan c).erased w with
  | some v =>
    let fixed := (List.range 20).filter fun d => w.getD d 0 != v.getD d 0 && !(s.chan c).erased.contains d
    if fixed.isEmpty then (patch (v.take 16), s)
    else if fixed.length > maxFix (s.chan c).st then
      let d := s.draw
      (patch (leBytes 16 d.1), d.2.bump Reg.Ecc.TEST_UNCORR)
    else (patch (v.take 16), ((s.bump Reg.Ecc.TEST_CORR).put Reg.Ecc.TEST_LAST_DEV (fixed.foldl max 0)).put Reg.Ecc.TEST_LAST_CH c)
  | none =>
    let d := s.draw
    (patch (leBytes 16 d.1), d.2.bump Reg.Ecc.TEST_UNCORR)

/-- A decoded read of some words from the word of an offset on. -/
def eccReadN : Nat → Nat → State → List Nat × State
  | 0, _, s => ([], s)
  | n + 1, a, s =>
    let x := eccDecode a s
    let y := eccReadN n (a + 1) x.2
    (x.1 ++ y.1, y.2)

/-- Bytes of the window; a decoded read takes whole 64-byte beats (R350). -/
def eccRead (o n : Nat) (s : State) : List Nat × State :=
  if eccView o = 1 then
    let lo := o / 64 * 64
    let x := eccReadN ((roundUp (o + n) 64 - lo) / 16) (eccWord lo) s
    ((x.1.drop (o - lo)).take n, x.2)
  else if eccView o = 2 then
    ((List.range n).map fun i => let p := eccPlace o + i; ngetD ((eccChan o * 2 ^ 20 + p / 4) * 20 + 16 + p % 4) 0 s.cs.win, s)
  else ((List.range n).map fun i => let p := eccPlace o + i; ngetD ((eccChan o * 2 ^ 20 + p / 16) * 20 + p % 16) 0 s.cs.win, s)

/-- Bytes stored into the window, word by word. -/
def eccStore : Nat → Nat → List Nat → State → State
  | 0, _, _, s => s
  | n + 1, o, bs, s =>
    if bs.isEmpty then s
    else if eccView o = 2 then
      let k := 4 - eccPlace o % 4
      let s := putWin (eccChan o * 2 ^ 20 + eccPlace o / 4) (16 + eccPlace o % 4) (bs.take k) s
      eccStore n (o + k) (bs.drop k) s
    else
      let k := 16 - eccPlace o % 16
      let part := bs.take k
      let s :=
        if s.bit Reg.Ecc.TEST_WRITE_MODE then putWin (eccWord o) (eccPlace o % 16) part s
        else if part.length = 16 then wholeWrite (eccWord o) part s
        else narrowWrite (eccWord o) (((List.range part.length).zip part).map fun x => (eccPlace o % 16 + x.1, x.2 % 256)) s
      eccStore n (o + k) (bs.drop k) s

/-! ### Bytes of a target -/

/-- Whether a beat at an address receives a bus error: a log half out of service (R358), a locked staging window (R377), the test
window (R273). -/
def beatBad (s : State) (write : Bool) (a : Nat) : Bool :=
  let t := dmaTarget a
  if t = 3 then eccBad s (dmaOffset a)
  else if t = 4 then !(if s.bit Reg.El.LOG_HALF then s.st1.ok else s.st0.ok)
  else t == 5 && write && s.bit Reg.Img.STAGE_LOCKED

/-- Read bytes at an address. -/
def dmaRead (a n : Nat) (s : State) : List Nat × State :=
  let o := dmaOffset a
  let t := dmaTarget a
  if t = 3 then eccRead o n s
  else if t = 4 then ((List.range n).map fun i => logByte (if s.bit Reg.El.LOG_HALF then s.st1 else s.st0) (o + i), s)
  else if t = 5 then ((List.range n).map fun i => ngetD (o + i) 0 s.stage, s)
  else ((List.range n).map fun i => ngetD (o + i) 0 s.hostBuf, s)

/-- Store bytes into a sparse buffer. -/
def putBytes (o : Nat) (bs : List Nat) (m : NMap Nat) : NMap Nat :=
  ((List.range bs.length).zip bs).foldl (fun m x => nput (o + x.1) (x.2 % 256) m) m

/-- Write bytes at an address. -/
def dmaWrite (a : Nat) (bs : List Nat) (s : State) : State :=
  let o := dmaOffset a
  let t := dmaTarget a
  if t = 3 then eccStore (bs.length + 1) o bs s
  else if t = 5 then { s with stage := putBytes o bs s.stage }
  else { s with hostBuf := putBytes o bs s.hostBuf }

/-! ### Runs and how they end (R346 to R349, Table 15.4) -/

/-- Change a channel's run. -/
def updRun (c : Nat) (f : DmaRun → DmaRun) (s : State) : State :=
  match nfind c s.dma.runs with
  | some r => { s with dma.runs := nset c (f r) s.dma.runs }
  | none => s

/-- A channel ends with a status. -/
def endRun (c st : Nat) (s : State) : State := ({ s with dma.runs := ndel c s.dma.runs } : State).put Reg.Dma.CH_STATUS st c

/-- The address of a failing beat, as ERR_ADDR shows it. -/
def errAddr (s : State) (c : Nat) : Nat := s.get Reg.Dma.ERR_ADDR_LO c + 2 ^ 32 * s.get Reg.Dma.ERR_ADDR_HI c

/-- A channel halts, or ends with DONE_WITH_ERROR. -/
def haltRun (c st cause : Nat) (s : State) : State :=
  let s := (endRun c st s).put Reg.Dma.ERR_CAUSE cause c
  (s.raise Reg.Dma.HOST_ERR).log 0xB001 c ([st, cause] ++ leBytes 8 (errAddr s c))

/-- Every running host channel is aborted (R349). -/
def abortDma (s : State) : State := { s.dma.runs.foldl (fun s r => endRun r.1 7 s) s with dma.sharedAt := none }

/-- Set a bit of HOST_DONE_MASK. -/
def doneBit (c : Nat) (s : State) : State :=
  let h := c + s.dma.hosts - s.dma.channels
  let F := Reg.Dma.HOST_DONE_MASK
  { s with rf.regs := rput F 0 (s.get F ||| 2 ^ h) s.rf.regs, rf.fresh := (F.key 0 + h) :: s.rf.fresh }

/-- A descriptor completes (R348). -/
def completeDesc (c : Nat) (d : DmaCur) (s : State) : State :=
  let s := s.bump Reg.Dma.DESC_INDEX 1 c
  let s := if d.irq then s.raise Reg.Dma.DESC_IRQ else s
  if d.last then (doneBit c (endRun c 2 s)).raise Reg.Dma.HOST_DONE
  else updRun c (fun r => { r with cur := none, nextDesc := d.next, noPrefetch := false }) s

/-- CUR_DESC. -/
def showDesc (c a : Nat) (s : State) : State := (s.put Reg.Dma.CUR_DESC_LO (a % 2 ^ 32) c).put Reg.Dma.CUR_DESC_HI (a / 2 ^ 32) c

/-- Checks 3 to 5 of Table 15.3 on a descriptor. -/
def descBad (s : State) (flags : Nat) (d : DmaCur) : Option Nat :=
  if flags ≥ 4 then some 5
  else if d.len = 0 ∨ d.len > 16777216 then some 3
  else if !dmaMay s false d.src d.len ∨ !dmaMay s true d.dst d.len then some 4 else none

/-- A descriptor of the host buffer (Table 15.2). -/
def descAt (s : State) (a : Nat) : Nat × DmaCur :=
  let f (o n : Nat) : Nat := leValue ((List.range n).map fun i => ngetD (dmaOffset a + o + i) 0 s.hostBuf)
  let fl := f 20 4
  (fl, ⟨a, f 0 8, f 8 8, f 16 4, f 16 4, fl % 2 == 1, fl / 2 % 2 == 1, f 24 8⟩)

/-- The channel takes its next descriptor, or halts with DESC_ERR (R346). -/
def fetchDesc (c : Nat) (s : State) : State :=
  match nfind c s.dma.runs with
  | none => s
  | some r =>
    if !s.bit Reg.Dma.LIST c then
      let w (l h : FieldSpec) : Nat := s.get l c + 2 ^ 32 * s.get h c
      let n := s.get Reg.Dma.COUNT c
      let d : DmaCur := ⟨0, w Reg.Dma.SRC_LO Reg.Dma.SRC_HI, w Reg.Dma.DST_LO Reg.Dma.DST_HI, n, n, true, false, 0⟩
      let s := showDesc c 0 s
      match descBad s 0 d with
      | some k => haltRun c 6 k s
      | none => updRun c (fun r => { r with cur := some d }) s
    else
      let a := r.nextDesc
      let s := showDesc c a s
      if s.get Reg.Dma.DESC_INDEX c ≥ 4096 then haltRun c 6 7 s
      else if a % 32 ≠ 0 then haltRun c 6 6 s
      else if dmaTarget a ≠ 6 ∨ dmaOffset a + 32 > 262144 then haltRun c 6 4 s
      else
        let x := descAt s a
        if !x.2.last ∧ x.2.next % 32 ≠ 0 then haltRun c 6 6 s
        else match descBad s x.1 x.2 with
          | some k => haltRun c 6 k s
          | none => updRun c (fun r => { r with cur := some x.2 }) s

/-- Whether a descriptor's ranges overlap in one target, and whether it copies in descending order (R351). -/
def DmaCur.overlaps (d : DmaCur) : Bool :=
  dmaTarget d.src == dmaTarget d.dst && decide (d.src < d.dst + d.len) && decide (d.dst < d.src + d.len)
def DmaCur.down (d : DmaCur) : Bool := d.overlaps && decide (d.dst > d.src)

/-- The 64-byte beats of a range, by address. -/
def beatsOf (a n : Nat) : List Nat := (List.range ((roundUp (a + n) 64 - a / 64 * 64) / 64)).map fun i => a / 64 * 64 + 64 * i

/-- How many bytes of a piece move before its first failing beat, in the piece's order: with the beat. -/
def beatLimit (s : State) (write down : Bool) (a n : Nat) : Nat × Option Nat :=
  let bs := beatsOf a n
  match (if down then bs.reverse else bs).find? fun b => beatBad s write b with
  | none => (n, none)
  | some b => (if down then a + n - min (a + n) (b + 64) else b - a, some b)

/-- Move up to `n` bytes of the current descriptor (R350, R351): the bytes moved; a failing beat is left for its retries. -/
def moveBytes (c : Nat) (d : DmaCur) (n : Nat) (s : State) : Nat × State :=
  let n := min d.left n
  let o := if d.down then d.left - n else d.len - d.left
  let rd := beatLimit s false d.down (d.src + o) n
  let wr := beatLimit s true d.down (d.dst + o) n
  let m := min rd.1 wr.1
  let o' := if d.down then o + n - m else o
  let x := dmaRead (d.src + o') m s
  let s := if m = 0 then s else (dmaWrite (d.dst + o') x.1 x.2).bump Reg.Dma.BYTES_DONE m c
  let fail := if rd.1 ≤ wr.1 then (rd.2.map fun b => (b, false)) <|> (wr.2.map fun b => (b, true)) else wr.2.map fun b => (b, true)
  let s := updRun c (fun r => { r with cur := some { d with left := d.left - m }, retry := fail.map fun f => (f.1, f.2, 0) }) s
  (m, s)

/-- One step: at most `n` more descriptors and `b` more bytes (R342). -/
def stepRun (c : Nat) : Nat → Nat → State → State
  | 0, _, s => s
  | n + 1, b, s =>
    match nfind c s.dma.runs with
    | none => s
    | some r =>
      if r.retry.isSome ∨ b = 0 then s
      else match r.cur with
        | none => stepRun c n b (fetchDesc c s)
        | some d =>
          let x := moveBytes c d b s
          if d.left = x.1 then stepRun c n (b - x.1) (completeDesc c d x.2) else stepRun c n (b - x.1) x.2

/-! ### The commands -/

/-- Whether the run that GO would start uses only targets 0x4 and 0x6, as SAFE asks (R347). -/
def safeTargets (s : State) (c : Nat) : Nat → Nat → Bool
  | 0, _ => true
  | n + 1, a =>
    let ok (x : Nat) : Bool := dmaTarget x == 4 || dmaTarget x == 6
    if !s.bit Reg.Dma.LIST c then ok (s.get Reg.Dma.SRC_LO c + 2 ^ 32 * s.get Reg.Dma.SRC_HI c) && ok (s.get Reg.Dma.DST_LO c + 2 ^ 32 * s.get Reg.Dma.DST_HI c)
    else
      let d := (descAt s a).2
      ok a && ok d.src && ok d.dst && (d.last || safeTargets s c n d.next)

/-- Whether a GO is refused. -/
def goRefused (s : State) (c a : Nat) : Bool :=
  let m := s.core.mode
  (nfind c s.dma.runs).isSome || m == .powerQualify || m == .selfTest || m == .caseInit || m == .cast || m == .castDone ||
    (m == .safe && !safeTargets s c 4096 a)

/-- DMA_GO (R347). -/
def doDmaGo (c : Nat) (s : State) : State :=
  if !hostChannel s c then s
  else
    let s := s.pulse Reg.Dma.GO c
    let a := s.get Reg.Dma.DESC_PTR_LO c + 2 ^ 32 * s.get Reg.Dma.DESC_PTR_HI c
    if goRefused s c a then (s.raise Reg.Dma.GO_REFUSED).log 0xB003 c
    else
      let s := ((s.put Reg.Dma.BYTES_DONE 0 c).put Reg.Dma.DESC_INDEX 0 c).put Reg.Dma.CH_STATUS 1 c
      { s with dma.runs := nset c { nextDesc := a, started := s.core.imp } s.dma.runs }

/-- DMA_ABORT (R349, R353). -/
def doDmaAbort (c : Nat) (s : State) : State :=
  if !hostChannel s c then s
  else
    let s := s.pulse Reg.Dma.ABORT c
    if (nfind c s.dma.runs).isSome then endRun c 7 s else s

/-- DMA_STEP: one step of a running channel (R342). -/
def doDmaStep (c : Nat) (s : State) : State :=
  match nfind c s.dma.runs with
  | some r => if s.core.imp > r.started ∧ !r.restart then stepRun c 64 262144 s else s
  | none => s

/-- Every running channel stops (R353). -/
def sharedStop (s : State) : State :=
  let n := s.dma.runs.length
  let s := s.dma.runs.foldl (fun s r =>
    let s := (s.put Reg.Dma.CH_STATUS 5 r.1).put Reg.Dma.ERR_CAUSE 8 r.1
    updRun r.1 (fun x => { x with retry := none, restart := true }) s) s
  let s := faultItem { s with dma.sharedAt := some s.core.imp }
  ((s.bump Reg.Dma.SHARED_STOPS).raise Reg.Dma.SHARED_STOP).log 0xB002 0 [n]

/-- A beat has failed its last retry (Table 15.4). -/
def beatFails (c a : Nat) (write zero : Bool) (noPrefetch : Bool) (s : State) : State :=
  let s := (s.put Reg.Dma.ERR_ADDR_LO (a % 2 ^ 32) c).put Reg.Dma.ERR_ADDR_HI (a / 2 ^ 32) c
  if write then (if zero then haltRun c 3 10 s else haltRun c 4 2 s)
  else if s.dma.channels ≤ 16 ∨ noPrefetch then haltRun c 4 1 s
  else sharedStop s

/-- BUS_ERROR_RETRY: one retry of the beat at an address that has failed, and its outcome (R352). A beat that the target itself
refuses fails again. -/
def doBusErrorRetry (c : Nat) (k : BeatKind) (addr : Nat) (ok : Bool) (s : State) : State :=
  match nfind c s.dma.runs with
  | none => s
  | some r =>
    if r.restart then s
    else
      let zero := match k with | .write z => z | .read => false
      let kw := match k with | .write _ => true | .read => false
      let b := r.retry.getD (addr, kw, 0)
      let ok := ok && !beatBad s b.2.1 b.1
      let lim := s.get Reg.Dma.RETRY_COUNT
      let s := updRun c (fun r => { r with retry := some (b.1, b.2.1, b.2.2 + 1) }) s
      if b.2.2 ≥ lim then beatFails c b.1 b.2.1 zero r.noPrefetch s
      else if ok then (updRun c (fun r => { r with retry := none }) s).bump Reg.Dma.BUS_ERRORS
      else if b.2.2 + 1 ≥ lim then beatFails c b.1 b.2.1 zero r.noPrefetch s
      else s

/-- SHARED_STOP_RESTART: in the next impression every stopped channel starts its descriptor again, prefetch off (R353). -/
def doSharedStopRestart (s : State) : State :=
  match s.dma.sharedAt with
  | some t =>
    if s.core.imp > t then
      let s := { s with dma.sharedAt := none }
      s.dma.runs.foldl (fun s r =>
        if !r.2.restart then s
        else match r.2.cur with
          | some d =>
            if d.overlaps then haltRun r.1 4 9 s
            else (updRun r.1 (fun x => { x with restart := false, noPrefetch := true, cur := some { d with left := d.len } }) s).put Reg.Dma.CH_STATUS 1 r.1
          | none => (updRun r.1 (fun x => { x with restart := false, noPrefetch := true }) s).put Reg.Dma.CH_STATUS 1 r.1) s
    else s
  | none => s

def execDmaGo (c : Fin 64) (s : State) : Host.Outcome State Fault Refusal := .next (whenOn (doDmaGo c.val) s)
def execDmaAbort (c : Fin 64) (s : State) : Host.Outcome State Fault Refusal := .next (whenOn (doDmaAbort c.val) s)
def execDmaStep (c : Fin 64) (s : State) : Host.Outcome State Fault Refusal := .next (whenOn (doDmaStep c.val) s)
def execBusErrorRetry (c : Fin 64) (k : BeatKind) (a : Nat) (ok : Bool) (s : State) : Host.Outcome State Fault Refusal :=
  .next (whenOn (doBusErrorRetry c.val k a ok) s)
def execSharedStopRestart (s : State) : Host.Outcome State Fault Refusal := .next (whenOn doSharedStopRestart s)

end Sys2Proof.Machine
end

