-- ==== Sys2Proof/Machine/Failure.lean ====
section
/-!
DEFINITION. Declaring a member failed (R148, R175 to R180, R186, R199, R212): failure entries, spare levels, critical windows, deferral,
and what becomes of the commands of a drive that leaves.
-/

namespace Sys2Proof.Machine

/-! ### Commands of a drive that leaves -/

/-- What the end of one command of a drive means for its user (R132, R178, R221, R473); `missed`: a write also sets the absence
set. -/
def endCmdOf (missed : Bool) (c : DrvCmd) (s : State) : State :=
  if c.write then
    let s := if missed then noteMissed c.sig c.sheet c.pos s else s
    match c.use with
    | .upd u => folioDone u c.pos s
    | .repair => match s.repairs.find? fun r => r.sig == c.sig && r.sheet == c.sheet && r.pos == c.pos && r.stage > 0 with
      | some r => endRepair r s
      | none => s
    | _ => s
  else match c.use with
    | .fg => failRead c ((List.range c.n).map fun j => c.b0 + j) s
    | .repair => match s.repairs.find? fun r => r.sig == c.sig && r.sheet == c.sheet && r.pos == c.pos && r.stage > 0 with
      | some r => endRepair r s
      | none => s
    | _ => s

/-- Every command of a port ends. -/
def endPortCmds (missed : Bool) (p : Nat) (s : State) : State :=
  let d := s.drivePort p
  let all := d.cmds ++ d.queue
  all.foldl (fun s c => endCmdOf missed c.2 (dropCmd p c.1 s)) s

/-! ### Failure entries (R179, R180, R212) -/

/-- Ranges of sheets that a failed member's entries cover: whether of the source layout, and the bounds. -/
def entRanges (s : State) (g d : Nat) : List (Bool × Nat × Nat) :=
  match (s.sigSt g).rs, impOf s g with
  | some r, some i =>
    let up (lay : Imposition) (first : Bool) : Nat × Nat :=
      if first then (0, r.b / max 1 lay.sheetBlocks) else (r.b / max 1 lay.sheetBlocks, r.z / max 1 lay.sheetBlocks)
    let dst := up i r.up
    let src := up r.src (!r.up)
    (if d < i.n ∧ dst.1 < dst.2 then [(false, dst.1, dst.2)] else []) ++ (if d < r.src.n ∧ src.1 < src.2 then [(true, src.1, src.2)] else [])
  | _, _ => [(false, 0, (s.sigSt g).sheets)]

/-- The lowest spare level that no entry holds. -/
def freeLevel (s : State) (g : Nat) : Option Nat :=
  (List.range (((impOf s g).map (·.s)).getD 0)).find? fun q => !(levelsUsed s g).contains q

/-- Change one entry; every change asks for a commit (R184). -/
def updEnt (g e : Nat) (f : FailEnt → FailEnt) (s : State) : State :=
  match nfind e (s.sigSt g).k.ents with
  | some x => s.updSig g fun y => { y with pendingClear := true, k := { y.k with ents := nset e (f x) y.k.ents } }
  | none => s

/-- Put an entry into a number. -/
def putEnt (g e : Nat) (x : FailEnt) (s : State) : State :=
  s.updSig g fun y => { y with pendingClear := true, k := { y.k with ents := nset e x y.k.ents } }

/-- Layout of an entry. -/
def entLay (s : State) (g : Nat) (e : FailEnt) : Option Imposition := if e.old then (s.sigSt g).rs.map (·.src) else impOf s g

/-- The number under which a sheet of an entry's layout is known. -/
def entSheet (e : FailEnt) (t : Nat) : Nat := if e.old then srcBit + t else t

/-- Add a window, merged with one of equal `lo`; at most 16 (R186). -/
def addWin (w : CritWin) (ws : List CritWin) : List CritWin :=
  if ws.any fun v => v.lo == w.lo then
    ws.map fun v => if v.lo == w.lo then { v with pos := min v.pos w.pos, hi := max v.hi w.hi, mask := w.mask.foldl (fun l d => addTo d l) v.mask } else v
  else if ws.length < 16 then ws ++ [w] else ws

/-- Windows for a newly failed drive (R186); only entries of one layout join. -/
def addWindows (g b : Nat) (s : State) : State :=
  let ents := (s.sigSt g).k.ents
  let mine := ents.filter fun p => p.2.drive == b && (p.2.st == .wait || p.2.st == .rebuild) && p.2.n == p.2.low
  let others := ents.filter fun p => p.2.drive != b && (p.2.st == .wait || p.2.st == .rebuild)
  let s' := others.foldl (fun s p => updEnt g p.1 (fun e => { e with wins := addWin ⟨e.n, e.n, e.high, [b]⟩ e.wins }) s) s
  let s' := mine.foldl (fun s m => (others.filter fun p => p.2.old == m.2.old).foldl (fun s p =>
    updEnt g m.1 (fun e => { e with wins := addWin ⟨p.2.n, p.2.n, e.high, [p.2.drive]⟩ e.wins }) s) s) s'
  (s'.sigSt g).k.ents.foldl (fun s p =>
    if (nfind p.1 ents).any fun o => o.wins == p.2.wins then s else s.log 0x6003 (srcSig g p.2.drive) [p.1, p.2.wins.length]) s'

/-- A declared member takes entries for its ranges, or none where too few are free (R179, R180). -/
def takeEntry (g d cause : Nat) (s : State) : State :=
  let mine (old : Bool) : List FailEnt := ((s.sigSt g).k.ents.map (·.2)).filter fun e => e.drive == d && e.old == old
  let rs := ((entRanges s g d).map fun r => (r.1, r.2.1, (mine r.1).foldl (fun h e => min h e.low) r.2.2)).filter fun r => r.2.1 < r.2.2
  let free := (List.range 8).filter fun e => (nfind e (s.sigSt g).k.ents).isNone
  if free.length < rs.length ∨ rs.isEmpty then setMem g d { memOf s g d with noEntry := true } s
  else
    let q := freeLevel s g
    let s := setMem g d { memOf s g d with noEntry := false } s
    let s := (free.zip rs).foldl (fun s x =>
      let e : FailEnt :=
        { drive := d, cause := cause, st := if q.isSome then .rebuild else .wait, level := q, low := x.2.2.1, high := x.2.2.2, n := x.2.2.1, old := x.2.1
          y := x.2.2.1, declared := opTimeOf s.core.opImp, order := s.seq }
      putEnt g x.1 e s) s
    addWindows g d { s with seq := s.seq + 1 }

/-- A level or an entry has become free: the earliest WAIT entry takes the level (R180), members without an entry take entries
in the order of their declaration (R179). -/
def reuse (g : Nat) (s : State) : State :=
  let waits := (s.sigSt g).k.ents.filter fun p => p.2.st == .wait && !p.2.repl
  let first := waits.foldl (fun b p => match b with | none => some p | some q => if p.2.order < q.2.order then some p else some q) none
  let s := match freeLevel s g, first with
    | some q, some p =>
      (waits.filter fun x => x.2.drive == p.2.drive).foldl (fun s x => updEnt g x.1 (fun e => { e with st := .rebuild, level := some q, direct := false }) s) s
    | _, _ => s
  let ms := (sortBy (fun p => p.2.order) ((s.sigSt g).k.mems.filter fun p => p.2.failed && p.2.noEntry))
  ms.foldl (fun s p => takeEntry g p.1 p.2.cause s) s

/-- The entry becomes free. -/
def freeEnt (g e : Nat) (s : State) : State :=
  reuse g (s.updSig g fun y => { y with pendingClear := true, k := { y.k with ents := ndel e y.k.ents } })

/-- Folios that an entry has placed on a drive, and so loses with it. -/
def placedOn (s : State) (g : Nat) (e : FailEnt) (d : Nat) : Nat :=
  match entLay s g e, e.level with
  | some i, some q =>
    if e.direct then 0
    else
      let top := e.wins.foldl (fun m w => max m w.pos) e.n
      countFrom (fun t => placed i e t && rowHolds i t e.drive && i.spareDrive t q == d && !skipSheet s g (entSheet e t)) (top - e.low) e.low
  | _, _ => 0

/-- A drive joins the dead set of every entry (R178, R179). -/
def addDead (g d : Nat) (s : State) : State :=
  (s.sigSt g).k.ents.foldl (fun s p =>
    if p.2.dead.contains d then s
    else
      let n := placedOn s g p.2 d
      updEnt g p.1 (fun e => { e with dead := addTo d e.dead, unplaced := e.unplaced + n }) s) s

/-! ### Holders (R148) -/

/-- A holder's copy is lost. -/
def loseHolder (g d : Nat) (s : State) : State :=
  if (s.sigSt g).holders.contains d then
    s.updSig g fun x =>
      { x with holders := x.holders.erase d, holdLost := x.holdLost ++ [(d, s.core.imp)], commit := x.commit.map fun c => { c with left := c.left.erase (16 + d) } }
  else s

/-! ### Declarations (R175, R176, R178, R199) -/

/-- The drive of a member leaves service. -/
def dropDrive (g d : Nat) (missed : Bool) (s : State) : State :=
  if (impOf s g).isNone then s
  else
    let p := memPort s g d
    endPortCmds missed p (s.updDrv p fun x => { x with inService := false, ladder := none, testDue := false })

/-- Whether a member still takes commands, so that its labels can be zeroed (R178). -/
def acceptsCmds (s : State) (p cause : Nat) : Bool :=
  (s.drivePort p).identified && (s.drivePort p).downAt.isNone && s.bit Reg.Drv.PWR_ON p && (cause == 3 || cause == 4 || cause == 5)

/-- A member's replacement is declared failed (R199). -/
def replacementFails (g d : Nat) (s : State) : State :=
  (s.sigSt g).k.ents.foldl (fun s p =>
    if p.2.drive ≠ d then s
    else if p.2.direct then
      addWindows g d (updEnt g p.1 (fun e => { e with st := .wait, direct := false, n := e.low, wins := [], repl := false, order := s.seq }) s)
    else match p.2.st with
      | .copyback =>
        let fresh : FailEnt := { p.2 with st := .rebuild, n := p.2.low, high := p.2.y, wins := [], y := p.2.low, repl := false, dead := [], unplaced := 0, order := s.seq }
        let s := updEnt g p.1 (fun e => { e with st := .rebuilt, low := e.y, repl := false }) s
        if p.2.y ≤ p.2.low then s
        else match (List.range 8).find? fun e => (nfind e (s.sigSt g).k.ents).isNone with
          | some e => addWindows g d (putEnt g e fresh s)
          | none => setMem g d { memOf s g d with noEntry := true } s
      | _ => updEnt g p.1 (fun e => { e with repl := false }) s) { s with seq := s.seq + 1 }

/-- A declaration. -/
def declareNow (g d cause : Nat) (s : State) : State :=
  if (impOf s g).isNone then s
  else
    let p := memPort s g d
    let m := memOf s g d
    let served := (s.drivePort p).inService
    if m.failed ∧ !served then s
    else
      let id := if (s.drivePort p).identity = 0 then m.identity else (s.drivePort p).identity
      let s := dropDrive g d false s
      let s := if acceptsCmds s p cause then s.emit (.drvUnlabel p) else s
      let s := s.updDrv p fun x => { x with failed := true, fmt := none }
      let s := s.updKeep g fun k => { k with deadIds := if id = 0 then k.deadIds else addTo id k.deadIds }
      let s := s.updSig g fun x => { x with deferred := x.deferred.filter fun y => y.1 != d }
      let s := loseHolder g d (addDead g d s)
      let s := if m.failed then reuse g (replacementFails g d s)
        else
          let s := setMem g d { m with failed := true, cause := cause, absentAt := none, linkDown := false, missed := [], catching := false, order := s.seq } s
          takeEntry g d cause { s with seq := s.seq + 1 }
      ((s.updSig g fun x => { x with pendingClear := true }).raise Reg.Sig.DRIVE_FAILED g).log 0x6001 (srcSig g d) ([p, cause] ++ leBytes 8 id)

/-- Other members of the signature that are unrestored. -/
def othersUnrestored (s : State) (g d : Nat) : List Nat := (unrestoredList s g).filter fun x => x != d

/-- A declaration, or its deferral (R176). None is made in MAINTENANCE (R474). -/
def declare (g d cause : Nat) (s : State) : State :=
  if s.core.mode = .maintenance then s
  else if (cause = 3 ∨ cause = 4) ∧ (othersUnrestored s g d).length ≥ 2 then
    if (s.sigSt g).deferred.any fun x => x.1 == d then s
    else (s.updSig g fun x => { x with deferred := x.deferred ++ [(d, cause)] }).log 0x6002 (srcSig g d) [0]
  else declareNow g d cause s

/-- Retire members whose count has reached the threshold (R161). -/
def judgeRetire (g : Nat) (s : State) : State :=
  let th := s.get Reg.Sig.RETIRE_THRESH g
  if th = 0 then s
  else (s.sigSt g).k.mems.foldl (fun s p =>
    if p.2.failed ∨ silent24 s g p.1 < th ∨ ((s.sigSt g).deferred.any fun x => x.1 == p.1) then s
    else declare g p.1 3 (s.raise Reg.Sig.DRIVE_RETIRED g)) s

/-- Member whose port this is: signature and drive index. -/
def memberAt (s : State) (p : Nat) : Option (Nat × Nat) :=
  (imgOf s).bind fun m => m.imps.findSome? fun x => ((membersOf s x.1).findIdx? fun y => y.port == p).map fun d => (x.1, d)

/-! ### Declarations as commands -/

/-- LINK_LOSS_FAIL_TIMEOUT: cause 1, 250 000 imp of link loss with PRESENT and PWR_ON 1 (R175, R226). -/
def doLinkLossFailTimeout (p : Nat) (s : State) : State :=
  match memberAt s p with
  | some (g, d) =>
    let x := s.drivePort p
    if drivesRun s.core.mode ∧ s.bit Reg.Drv.PRESENT p ∧ s.bit Reg.Drv.PWR_ON p ∧ !x.ownReset ∧ (x.downAt.any fun t => s.since t ≥ 250000) ∧
        (memOf s g d).linkDown then declare g d 1 s
    else s
  | none => s

/-- DEFERRED_DECLARATION: fewer than two other members are unrestored (R176). -/
def doDeferredDeclaration (g d : Nat) (s : State) : State :=
  match (s.sigSt g).deferred.find? fun x => x.1 == d with
  | some x => if (othersUnrestored s g d).length < 2 then declareNow g d x.2 s else s
  | none => s

/-- FAIL_GO (R177). -/
def doFailGo (g : Nat) (s : State) : State :=
  let s := s.pulse Reg.Sig.FAIL_GO g
  let d := s.get Reg.Sig.FAIL_DRIVE g
  let n := ((impOf s g).map (·.n)).getD 0
  if d ≥ n ∨ (memOf s g d).failed ∨ (!s.bit Reg.Sig.FAIL_FORCE g ∧ !(othersUnrestored s g d).isEmpty) then
    (s.raise Reg.Sig.FAIL_REFUSED g).log 0x6002 (srcSig g d) [1]
  else declare g d 5 s

def execLinkLossFailTimeout (p : DrvPortIx) (s : State) : Host.Outcome State Fault Refusal := .next (whenOn (doLinkLossFailTimeout p.val) s)
def execDeferredDeclaration (g : SigIx) (d : Nat) (s : State) : Host.Outcome State Fault Refusal := .next (whenOn (doDeferredDeclaration g.val d) s)
def execFailGo (g : SigIx) (s : State) : Host.Outcome State Fault Refusal := .next (whenOn (doFailGo g.val) s)

end Sys2Proof.Machine
end

