-- ==== Sys2Proof/Machine/WritePath.lean ====
section
/-!
DEFINITION. The write path's commands (chapter 5): the sheet update, Flush, the dirty-region bitmap and its holders,
resynchronisation, and the loss of a Stereo half.
-/

namespace Sys2Proof.Machine

/-! ### Sheet updates (R124 to R133) -/

/-- DESTAGE_AGE_EXPIRED: the oldest dirty block of a conventional sheet has reached DESTAGE_AGE (Table 5.1, rank 4). -/
def doDestageAgeExpired (g t : Nat) (s : State) : State :=
  let cs := dirtyCells s g t
  if (zoneOfSheet s g t).isNone ∧ cs.any fun c => s.since c.2.since ≥ s.get Reg.Sig.DESTAGE_AGE g * 125 then
    s.updSig g fun x => { x with aged := addTo t x.aged }
  else s

/-- Whether the update allowance of 262 144 blocks holds the parity lines of one more update (R118). -/
def allowed (s : State) (u : Upd) : Bool :=
  decide (parityBlocks s + s.staged + 2 * (updOffsets s u).length ≤ 262144)

/-- UPDATE_BEGIN: the first candidate in the order of R124, or a sheet with write-through data, enters PREP. -/
def doUpdateBegin (g t : Nat) (s : State) : State :=
  let u := shapeUpd s g t
  if !mayBegin s g t ∨ !allowed s u then s
  else if throughSheet s g t ∧ (nfind t (s.sigSt g).hbPar).isNone then startUpd u s
  else match rankOf s g t with
    | none => s
    | some r => if (candidates s).all fun c => candLe (r.1, r.2, g, t) c then startUpd u s else s

/-- The result of the reads of an update (R132): losses enter the hellbox, blocks that failed beside it are repaired, failures
count by folio. -/
def settleReads (g t : Nat) (rs : List (Nat × OffDone)) (s : State) : State :=
  let hb := rs.flatMap fun r => r.2.hb.map fun p => lbnAt s g t p r.1
  let s := if hb.isEmpty then s else hbAdd g 3 hb s
  let s := rs.foldl (fun s r => r.2.fix.foldl (fun s x => addRepair g t x.1 r.1 ⟨x.2.1, false, false⟩ x.2.2 s) s) s
  let failed := rs.flatMap fun r => r.2.failed
  let own := ((failed.map (·.1)).eraseDups).filter fun p => !(s.repairs.any fun r => r.sig == g && r.sheet == t && r.pos == p && r.stage == 0)
  own.foldl (fun s p => countFix g t p (failed.any fun x => x.1 == p && x.2) s) s

/-- UPDATE_READS_COMPLETE: with all reads there, the update enters PARITY and its parity is computed (Table 5.2, R130). -/
def doUpdateReadsComplete (id : Nat) (reads : List RdOffset) (s : State) : State :=
  match nfind id s.upds with
  | none => s
  | some u =>
    if u.st ≠ .prep ∨ u.kind = .window then s
    else
      let keep := u.reads.filter fun x => x.1 < sheetK s u.sig u.sheet && u.kind == .completion || (x.1 < sheetK s u.sig u.sheet && u.kind == .through)
      let old := keep.filterMap fun x =>
        match posVal s u.sig u.sheet x.2 [] (gotAt reads x.2) x.1 with
        | .good d n => some (sheetOff s u.sig u.sheet x.1 x.2, (⟨d, n, false⟩ : RdVal))
        | _ => none
      let rs := (updOffsets s u).map fun b => (b, offDone s u reads b)
      if rs.any fun r => r.2.isNone then s
      else
        let rs := rs.filterMap fun r => r.2.map fun x => (r.1, x)
        let s := s.drvs.foldl (fun s d => d.2.cmds.foldl (fun s c => if !c.2.write && c.2.use == .upd id then finishCmd d.1 c.1 s else s) s) s
        let s := if u.kind = .parity then s.updSig u.sig fun x =>
            { x with hbPar := match nfind u.sheet x.hbPar with
              | some e =>
                let left := e.2.filter fun b => !(updOffsets s u).contains b
                if left.isEmpty then ndel u.sheet x.hbPar else nset u.sheet (e.1, left) x.hbPar
              | none => x.hbPar }
          else s
        let s := settleReads u.sig u.sheet rs s
        let u := { u with st := .parity, par := rs.map fun r => (r.1, r.2.par)
                          old := if (zoneOfSheet s u.sig u.sheet).isSome then old.foldl (fun m v => nset v.1 v.2 m) u.old else u.old }
        judgeRetire u.sig { s with upds := nset id u s.upds }

/-- UPDATE_READY: the bits of all its regions are durable and no repair of the sheet is outstanding (R128, R140, R159, R206). -/
def doUpdateReady (id : Nat) (s : State) : State :=
  match nfind id s.upds with
  | none => s
  | some u =>
    if u.st = .parity ∧ u.kind ≠ .window ∧ drivesRun s.core.mode ∧ ((regionsOf s u.sig u.sheet).all fun r => durable s u.sig r) ∧ !repairOn s u.sig u.sheet then
      readyUpd id s
    else s

/-- FOLIO_WRITE_COMPLETE: the drive reports success (R131); the last one retires the update. -/
def doFolioWriteComplete (id pos : Nat) (s : State) : State :=
  match nfind id s.upds with
  | none => s
  | some u =>
    let cmd := s.drvs.findSome? fun d => (d.2.cmds.find? fun c => c.2.write && c.2.use == .upd id && c.2.pos == pos).map fun c => (d.1, c.1)
    match cmd with
    | some x => if u.st = .ready ∧ !u.done.contains pos then folioDone id pos (finishCmd x.1 x.2 s) else s
    | none => s

/-! ### Flush (R135) -/

/-- The dirty blocks of a namespace that a Flush covers, as signature × 2^48 + sig_lbn: those of writes whose completion was
released before. -/
def flushNeeds (s : State) (n : Nat) : List Nat :=
  let g := nsSig s n
  let lo := nsStart s n
  let hi := lo + nsSize s n
  let waits : List (Nat × Nat) := s.cmds.filterMap fun p =>
    if (p.2.op == .write || p.2.op == .append) && p.2.storedAt.isSome && p.2.ns == n then some (p.2.lbn s, p.2.nlb) else none
  let held (l : Nat) : Bool := waits.any fun w => w.1 ≤ l && l < w.1 + w.2
  (allLines s).flatMap fun x =>
    if x.kind = 0 ∧ x.sig = g then
      (x.cells.filter fun c =>
        let l := x.num * 128 + c.1
        (c.2.dirty || c.2.upd.isSome || c.2.shadow.isSome) && decide (lo ≤ l ∧ l < hi) && !held l).map fun c => g * 2 ^ 48 + (x.num * 128 + c.1)
    else []

/-- Blocks of a copy window count as covered by a Flush until its release (R208). -/
def flushWindow (s : State) (n : Nat) : List Nat :=
  match ((s.sigSt (nsSig s n)).rs.bind (·.win)) with
  | some w => if w.lo < nsStart s n + nsSize s n ∧ nsStart s n < w.hi then (w.shadow.map fun x => nsSig s n * 2 ^ 48 + x.1) else []
  | none => []

/-- FLUSH: the covered sheets become candidates of rank 2, the galleys of covered zones are written as partial sheets. -/
def doFlush (h : CmdHdr) (s : State) : State :=
  gated .io true h (fun c s =>
    match (if h.nsid = 0xFFFFFFFF then none else checkNs false h c s) <|> checkLen h (some 0) with
    | some (sct, sc) => respond h.conn h.cid sct sc 0 s
    | none =>
      let ns := if h.nsid = 0xFFFFFFFF then ((imgOf s).map fun m => m.nss.map (·.1)).getD [] else [nsIx h.nsid]
      let need := ns.flatMap fun n => flushNeeds s n ++ flushWindow s n
      let s := s.setCmd (cmdKey h.conn h.cid)
        { op := .flush, ns := nsIx h.nsid, slba := 0, nlb := 0, pi := none, ord := s.seq, at_ := s.core.imp, need := need }
      let s := { s with seq := s.seq + 1 }
      need.foldl (fun s x =>
        let g := x / 2 ^ 48
        let t := sheetOfLbn s g (x % 2 ^ 48)
        s.updSig g fun y => { y with rank2 := addTo t y.rank2 }) s) s

/-- Whether a block is still as it was when a Flush of an order covered it, not yet on the drives. -/
def stillDirty (s : State) (ord x : Nat) : Bool :=
  let g := x / 2 ^ 48
  let l := x % 2 ^ 48
  (cellAt s g l).any (fun c => (c.dirty && decide (c.ord ≤ ord)) || (c.upd.isSome && decide (c.ord ≤ ord)) || c.shadow.any fun y => decide (y.2.2 ≤ ord)) ||
    (windowOf s g l).any fun w => (nfind l w.shadow).any fun y => decide (y.2.2 ≤ ord)

/-- FLUSH_COMPLETE: at the boundary after the last update that carries covered data has retired. -/
def doFlushComplete (conn cid : Nat) (s : State) : State :=
  let k := cmdKey conn cid
  match s.cmd k with
  | some c =>
    if c.op = .flush ∧ s.core.imp > c.at_ then
      let left := c.need.filter fun x => stillDirty s c.ord x
      if left.isEmpty then endCmd k 0 0 0 s else s.updCmd k fun c => { c with need := left }
    else s
  | none => s

/-! ### The dirty-region bitmap (R136 to R142) -/

/-- Whether a member can be a holder: its drive is in service. -/
def holderServes (s : State) (g d : Nat) : Bool :=
  match impOf s g with
  | some i => d < i.n && portServes s i d && !(memOf s g d).failed && (memOf s g d).absentAt.isNone
  | none => false

/-- Port group of a member. -/
def groupOf (s : State) (g d : Nat) : Nat := ((impOf s g).map fun i => i.portOf d / 16).getD 0

/-- Add candidates in order to some holders, at most three, each in a port group of its own (R137). -/
def pickHolders (s : State) (g : Nat) (have_ : List Nat) : List Nat :=
  (parOf s g).cands.foldl (fun hs d =>
    if hs.length < 3 ∧ holderServes s g d ∧ !hs.contains d ∧ !(hs.any fun h => groupOf s g h == groupOf s g d) then hs ++ [d] else hs) have_

/-- BITMAP_COMMIT: a new generation is taken and issued to every Stereo half in service and every holder (R139, R148). -/
def doBitmapCommit (g : Nat) (s : State) : State :=
  let x := s.sigSt g
  if x.inService ∧ drivesRun s.core.mode ∧ x.commit.isNone ∧ (x.pendingSet ∨ (x.pendingClear ∧ s.since x.lastCommit ≥ 125000)) then
    let hs := pickHolders s g []
    let gen := x.k.gen + 1
    let keep := { x.k with gen := gen }
    let targets := (if s.st0.ok then [0] else []) ++ (if s.st1.ok then [1] else []) ++ hs.map (16 + ·)
    let s := s.setSig g { x with k := keep, holders := hs, pendingSet := false, pendingClear := false, lastCommit := s.core.imp
                                 commit := some { gen := gen, bits := keep.bits, left := targets, keep := keep } }
    hs.foldl (fun s d => s.emit (.drvBitmap (((impOf s g).map fun i => i.portOf d).getD 0) (gen % 2) gen)) s
  else s

/-- What a Stereo half takes in a commit (R138, R167, R184). -/
def storeBmp (s : State) (g : Nat) (c : Commit) (h : HalfSt) : HalfSt :=
  { h with bmps := nset (g * 2 + c.gen % 2) ⟨c.gen, ((impOf s g).map (·.identity)).getD 0, regionCount s g, c.keep⟩ h.bmps }

/-- BITMAP_COMMIT_COMPLETE: some targets have completed; with the last one the commit is complete. -/
def doBitmapCommitComplete (g : Nat) (targets : List Nat) (s : State) : State :=
  let x := s.sigSt g
  match x.commit with
  | none => s
  | some c =>
    let hit := targets.filter fun t => c.left.contains t
    let s := if hit.contains 0 then { s with st0 := storeBmp s g c s.st0 } else s
    let s := if hit.contains 1 then { s with st1 := storeBmp s g c s.st1 } else s
    let left := c.left.filter fun t => !hit.contains t
    if left.isEmpty then
      let s := s.updSig g fun x => { x with commit := none, doneBits := c.bits, k := { x.k with durGen := c.gen } }
      let hs := x.holders ++ List.replicate (3 - x.holders.length) 0x7F
      s.log 0x5007 (srcSig g) (leBytes 8 c.gen ++ hs)
    else s.updSig g fun x => { x with commit := some { c with left := left } }

/-- When a region was last updated; a bit restored set counts from the entry into service (R141). -/
def quietSince (x : Sig) (r : Nat) : Nat := max x.enterAt (ngetD r 0 x.quiet)

/-- REGION_BIT_CLEAR (R141). -/
def doRegionBitClear (g r : Nat) (s : State) : State :=
  let x := s.sigSt g
  let busy := s.upds.any fun u => u.2.sig == g && (regionsOf s g u.2.sheet).contains r
  if x.inService ∧ x.k.bits.contains r ∧ !busy ∧ s.since (quietSince x r) ≥ 125000 ∧ !x.resync.contains r then
    s.setSig g { x with pendingClear := true, k := { x.k with bits := x.k.bits.erase r } }
  else s

/-- HOLDER_REPLACE: the current generation goes to a replacement of a lost holder (R148). -/
def doHolderReplace (g d : Nat) (s : State) : State :=
  let x := s.sigSt g
  match x.holdLost with
  | [] => s
  | _ :: rest =>
    let hs := pickHolders s g (x.holders.filter fun h => holderServes s g h)
    match hs.filter fun h => !x.holders.contains h with
    | [] => if (x.holdLost.head?.any fun l => s.since l.2 ≥ 125000) then s.setSig g { x with holdLost := rest } else s
    | h :: _ =>
      if h = d ∧ x.inService then
        let s := s.setSig g { x with holders := x.holders ++ [h], holdLost := rest }
        let s := (s.raise Reg.Sig.HOLDER_LOST g).emit (.drvBitmap (((impOf s g).map fun i => i.portOf h).getD 0) (x.k.gen % 2) x.k.gen)
        let now := x.holders ++ [h]
        s.log 0x5007 (srcSig g h) (leBytes 8 x.k.gen ++ (now ++ List.replicate (3 - now.length) 0x7F))
      else s

/-! ### Resynchronisation (R145, R146) -/

/-- The first sheet at or after a number that touches a region and is not skipped; source sheets of a reshape follow those of
the target. -/
def nextInRegion (s : State) (g r from_ : Nat) (also : Nat → Bool := fun _ => true) : Option Nat :=
  let per := regionBlocks s g
  let lo := r * per
  let hi := lo + per
  let ok (t : Nat) : Bool :=
    let sp := sheetSpan s g t
    sp.1 < hi && lo < sp.1 + sp.2 && !skipSheet s g t && (inSource s g sp.1 == decide (t ≥ srcBit)) && also t
  let tgt := (impOf s g).bind fun i =>
    let a := max from_ (lo / max 1 i.sheetBlocks)
    firstFrom ok (hi / max 1 i.sheetBlocks + 1 - a) a
  if from_ < srcBit ∧ tgt.isSome then tgt
  else (s.sigSt g).rs.bind fun x =>
    let a := max from_ (srcBit + lo / max 1 x.src.sheetBlocks)
    firstFrom ok (srcBit + hi / max 1 x.src.sheetBlocks + 1 - a) a

/-- One offset of a resynchronisation (Table 5.4): blocks to be written, and blocks that enter the hellbox; none while a read
is missing. -/
def resyncOff (s : State) (g t : Nat) (reads : List RdOffset) (b : Nat) : Option (List (Nat × RdVal) × List Nat) :=
  let k := sheetK s g t
  let vs := lookAt s g t b [] (gotAt reads b)
  if !(owedPos vs).isEmpty then none
  else
    let lost := lostData vs
    let pq (ds : List Blk) : List (Nat × RdVal) := [(k, ⟨parityP ds, allNever vs, false⟩), (k + 1, ⟨parityQ ds, allNever vs, false⟩)]
    match lost with
    | [] =>
      let ds := zeroed vs
      let agrees := (vs.getD k .gone).blk? == some (parityP ds) && (vs.getD (k + 1) .gone).blk? == some (parityQ ds)
      let gone := (vs.getD k .gone == .gone || (vs.getD k .gone).blk? == some (parityP ds)) && (vs.getD (k + 1) .gone == .gone || (vs.getD (k + 1) .gone).blk? == some (parityQ ds))
      if agrees ∨ gone then some ([], []) else some (pq ds, [])
    | [x] =>
      let c := colOf vs
      match c.p, c.q, c.agrees, c.solve with
      | some _, some _, true, some y => some (if vs.getD x .gone == .gone then [] else [(x, ⟨solvedAt y x, false, false⟩)], [])
      | _, _, _, _ => some (pq (zeroed vs), lost)
    | _ => some (pq (zeroed vs), lost)

/-- Write the results of an item: each folio's blocks as one command. -/
def writeItem (use : DrvUse) (g t : Nat) (ws : List (Nat × Nat × RdVal)) (s : State) : State :=
  ((ws.map (·.1)).eraseDups).foldl (fun s p =>
    let bs := (ws.filter fun w => w.1 == p).foldl (fun m w => nset w.2.1 w.2.2 m) []
    (issueWrite use g t p bs s).2) s

/-- Offsets whose parity an item has written need no update of R163. -/
def parityDone (g t : Nat) (bs : List Nat) (s : State) : State :=
  s.updSig g fun x => { x with hbPar := match nfind t x.hbPar with
    | some e => let left := e.2.filter fun b => !bs.contains b; if left.isEmpty then ndel t x.hbPar else nset t (e.1, left) x.hbPar
    | none => x.hbPar }

/-- A region has been walked: the next one follows, or the resynchronisation has finished. -/
def resyncStep (g from_ : Nat) : Nat → State → State
  | 0, s => s
  | n + 1, s =>
    let x := s.sigSt g
    match x.resync with
    | [] => s
    | r :: rest =>
      match nextInRegion s g r from_ with
      | some t => s.setSig g { x with resyncPos := t }
      | none =>
        let s := s.setSig g { x with resync := rest, resyncPos := 0 }
        if rest.isEmpty then
          ((s.updSig g fun x => { x with resyncSt := 0, early := [] }).raise Reg.Sig.RESYNC_DONE g).log 0x5008 (srcSig g) ([x.resyncSt] ++ leBytes 4 0)
        else resyncStep g 0 n s

/-- RESYNC_ITEM: the next sheet of the walk, or a sheet that a degraded read or a rebuild item waits for (R146). -/
def doResyncItem (g t : Nat) (reads : List RdOffset) (s : State) : State :=
  let x := s.sigSt g
  let next := x.resync.head?.bind fun r => nextInRegion s g r x.resyncPos
  let early := resyncWaits s g t && next != some t
  if !x.inService ∨ !runsC5 s.core.mode ∨ sheetBusy s g t then s
  else if next.isNone ∧ !x.resync.isEmpty then resyncStep g x.resyncPos x.resync.length s
  else if next ≠ some t ∧ !early then s
  else
    let rs := (liveOffsets s g t).map fun b => (b, resyncOff s g t reads b)
    if rs.any fun r => r.2.isNone then s
    else
      let rs := rs.filterMap fun r => r.2.map fun y => (r.1, y)
      let ws := rs.flatMap fun r => r.2.1.map fun w => (w.1, r.1, w.2)
      let hb := rs.flatMap fun r => r.2.2.map fun p => lbnAt s g t p r.1
      let s := writeItem .other g t ws s
      let s := if ws.isEmpty then s else s.bump Reg.Sig.RESYNC_FIXED 1 g
      let s := if hb.isEmpty then s else parityDone g t ((rs.filter fun r => !r.2.2.isEmpty).map (·.1)) ((hbAdd g 4 hb s).raise Reg.Sig.RESYNC_LOSS g)
      if early then s.updSig g fun x => { x with early := addTo t x.early }
      else resyncStep g (t + 1) (x.resync.length + 1) s

/-! ### The Stereo store loses a half (R355) -/

/-- A half leaves service; a cast to it under way is abandoned (R295). -/
def dropHalf (casting : Bool) (h : HalfSt) : HalfSt :=
  { h with ok := false, slots := if casting then nset h.older { programmed := true } h.slots else h.slots }

/-- STEREO_HALF_LEAVES_SERVICE: writes to it count no more. -/
def doStereoHalfLeavesService (h : Half) (s : State) : State :=
  let i := match h with | .st0 => 0 | .st1 => 1
  let casting := s.core.mode == .cast
  let s := match h with
    | .st0 => if s.st0.ok then { s with st0 := dropHalf casting s.st0 } else s
    | .st1 => if s.st1.ok then { s with st1 := dropHalf casting s.st1 } else s
  { s with sigs := nmapv (fun _ x => { x with commit := x.commit.map fun c => { c with left := c.left.erase i } }) s.sigs }

/-! ### The commands -/

def execDestageAgeExpired (x : SheetId) (s : State) : Host.Outcome State Fault Refusal := .next (whenOn (doDestageAgeExpired x.sig.val x.sheet) s)
def execUpdateBegin (x : SheetId) (s : State) : Host.Outcome State Fault Refusal := .next (whenOn (doUpdateBegin x.sig.val x.sheet) s)
def execUpdateReadsComplete (u : Nat) (r : List RdOffset) (s : State) : Host.Outcome State Fault Refusal := .next (whenOn (doUpdateReadsComplete u r) s)
def execUpdateReady (u : Nat) (s : State) : Host.Outcome State Fault Refusal := .next (whenOn (doUpdateReady u) s)
def execFolioWriteComplete (u p : Nat) (s : State) : Host.Outcome State Fault Refusal := .next (whenOn (doFolioWriteComplete u p) s)
def execFlush (h : CmdHdr) (s : State) : Host.Outcome State Fault Refusal := .next (whenOn (doFlush h) s)
def execFlushComplete (c i : Nat) (s : State) : Host.Outcome State Fault Refusal := .next (whenOn (doFlushComplete c i) s)
def execBitmapCommit (g : SigIx) (s : State) : Host.Outcome State Fault Refusal := .next (whenOn (doBitmapCommit g.val) s)
def execBitmapCommitComplete (g : SigIx) (ts : List Nat) (s : State) : Host.Outcome State Fault Refusal := .next (whenOn (doBitmapCommitComplete g.val ts) s)
def execRegionBitClear (g : SigIx) (r : Nat) (s : State) : Host.Outcome State Fault Refusal := .next (whenOn (doRegionBitClear g.val r) s)
def execHolderReplace (g : SigIx) (d : Nat) (s : State) : Host.Outcome State Fault Refusal := .next (whenOn (doHolderReplace g.val d) s)
def execResyncItem (x : SheetId) (r : List RdOffset) (s : State) : Host.Outcome State Fault Refusal := .next (whenOn (doResyncItem x.sig.val x.sheet r) s)
def execStereoHalfLeavesService (h : Half) (s : State) : Host.Outcome State Fault Refusal := .next (whenOn (doStereoHalfLeavesService h) s)

end Sys2Proof.Machine
end

