-- ==== Sys2Proof/Machine/ReadPath.lean ====
section
/-!
DEFINITION. Reads, reconstruction, repair and the proofing pass (chapter 6).
-/

namespace Sys2Proof.Machine

/-! ### Where a block of a Read comes from (R134, R152, R153) -/

/-- The source of one block: found already, on a drive, or lost. -/
inductive ReadFrom where
  | found (v : RdVal) | drive (sheet pos blk : Nat) | lost (sheet pos blk : Nat)
  deriving DecidableEq, Repr

/-- Whether the Case holds a block: its shadow, else its frozen, dirty or clean value; and a copy window's block. -/
def inCase (s : State) (g lbn : Nat) : Option RdVal :=
  match windowOf s g lbn with
  | some w =>
    match nfind lbn w.shadow with
    | some x => some ⟨x.1, false, false⟩
    | none => (nfind lbn w.blocks) <|> ((cellAt s g lbn).map fun c => ⟨c.data, c.never, false⟩)
  | none => (cellAt s g lbn).map fun c => match c.shadow with
    | some x => ⟨x.1, false, false⟩
    | none => ⟨c.data, c.never, false⟩

def readFrom (s : State) (g lbn : Nat) : ReadFrom :=
  if inHb s g lbn then .found ⟨0, true, true⟩
  else match inCase s g lbn with
    | some v => .found v
    | none =>
      if (zoneOfLbn s g lbn).any fun k => !inExtent s k lbn then .found ⟨0, true, false⟩
      else
        let t := sheetOfLbn s g lbn
        let o := lbn - (sheetSpan s g t).1
        let p := o / sheetFb s g t
        let b := o % sheetFb s g t
        if (locate s g t p true).isSome && !underRepair s g t p b then .drive t p b else .lost t p b

/-! ### The end of a Read (R61, R157, Table 6.1) -/

/-- One block as it goes to the initiator (R61). -/
def wireBlk (c : Cmd) (lba : Nat) (v : RdVal) : WireBlk :=
  if v.never || v.lost then ⟨0, 0, 0xFFFF, lba % 2 ^ 32⟩ else ⟨v.data, guardOf v.data, (c.pi.map (·.lbat)).getD 0, lba % 2 ^ 32⟩

/-- A Read whose blocks are all found transfers them and completes. -/
def finishRead (k : Nat) (s : State) : State :=
  match s.cmd k with
  | none => s
  | some c =>
    if c.op = .read ∧ c.need.isEmpty then
      let conn := k / 65536
      let s := if c.silent then s else s.pdu conn (.c2hData conn (k % 65536) ((List.range c.nlb).map fun j => wireBlk c (c.slba + j) (ngetD j ⟨0, true, false⟩ c.found)))
      let s := countRead c.nlb s
      match (List.range c.nlb).find? fun j => (ngetD j ⟨0, true, false⟩ c.found).lost with
      | some j => endCmdAt k 2 0x81 (c.slba + j) s
      | none => endCmd k 0 0 0 s
    else s

/-- A block has its value: every Read that needs it takes it, and may end. -/
def feed (g lbn : Nat) (v : RdVal) (s : State) : State :=
  let key := g * 2 ^ 48 + lbn
  let v := if inHb s g lbn then ⟨0, true, true⟩ else v
  let ks := (s.cmds.filter fun p => p.2.op == .read && p.2.need.contains key).map (·.1)
  ks.foldl (fun s k =>
    finishRead k (s.updCmd k fun c => { c with need := c.need.erase key, found := nset (lbn - nsStart s c.ns - c.slba) v c.found })) s

/-! ### READ -/

/-- Count a lookup for each line that a Read touches, and note the use of the line (R245). -/
def countHits (g : Nat) (miss : List Nat) (lo n : Nat) (s : State) : State :=
  (List.range ((lo + n + 127) / 128 - lo / 128)).foldl (fun s i =>
    let m := lo / 128 + i
    let s := if miss.any fun l => l / 128 == m then s.bump Reg.Cc.MISSES else s.bump Reg.Cc.HITS
    touch 0 g m s) s

/-- Issue the drive reads of a Read: one command per folio, from its first to its last block needed (R153). -/
def readFolios (g : Nat) (ds : List (Nat × Nat × Nat)) (s : State) : State :=
  ((ds.map fun d => (d.1, d.2.1)).eraseDups).foldl (fun s f =>
    let bs := (ds.filter fun d => d.1 == f.1 && d.2.1 == f.2).map fun d => d.2.2
    match bs with
    | [] => s
    | b :: r => let lo := r.foldl min b; issueRead .fg g f.1 f.2 lo (r.foldl max b + 1 - lo) s) s

/-- READ. -/
def doRead (x : IoCmd) (s : State) : State :=
  ioCmd x (fun _ => true) (fun _ s =>
    let n := nsIx x.hdr.nsid
    let g := nsSig s n
    let lo := nsStart s n + x.slba
    let offline := nsZoned s n && (List.range x.nlb).any fun j => (zoneOfLbn s g (lo + j)).any fun k => (s.zone k).st == .offline
    if offline then respond x.hdr.conn x.hdr.cid 1 0xBB 0 s
    else
      let src := (List.range x.nlb).map fun j => (j, readFrom s g (lo + j))
      let found : NMap RdVal := src.filterMap fun y => match y.2 with | .found v => some (y.1, v) | _ => none
      let need := src.filterMap fun y => match y.2 with | .found _ => none | _ => some (lo + y.1)
      let ds := src.filterMap fun y => match y.2 with | .drive t p b => some (t, p, b) | _ => none
      let ls := src.filterMap fun y => match y.2 with | .lost t p b => some (t, p, b) | _ => none
      let k := cmdKey x.hdr.conn x.hdr.cid
      let s := tag3 x.hdr.conn (x.nlb * wireOf x.pi) s
      let s := s.setCmd k { op := .read, ns := n, slba := x.slba, nlb := x.nlb, pi := some x.pi, ord := s.seq, at_ := s.core.imp, wire := wireOf x.pi
                            begun := true, need := need.map fun l => g * 2 ^ 48 + l, found := found }
      let s := countHits g need lo x.nlb { s with seq := s.seq + 1 }
      let s := readFolios g ds s
      let s := ls.foldl (fun s l => addLost g l.1 l.2.2 [] s) s
      finishRead k s) s

/-! ### Drive reads and reconstruction (R150, R154 to R156, R158) -/

/-- The blocks of a foreground read arrive: a good one fills the Case and serves its Reads, a failed one is lost. -/
def takeRead (c : DrvCmd) (blocks : List RdBlk) (s : State) : State :=
  ((List.range c.n).zip blocks).foldl (fun s x =>
    let b := c.b0 + x.1
    let l := lbnAt s c.sig c.sheet c.pos b
    match verify s c.sig c.sheet c.pos b x.2 with
    | .good v => feed c.sig l v (fillBlock c.sig l v false s)
    | .medium => addLost c.sig c.sheet b [(c.pos, false)] s
    | .silent => addLost c.sig c.sheet b [(c.pos, true)] s) s

/-- DRIVE_READ_COMPLETE: every block is verified (R150). The reads of other users end with the command that carries their
blocks. -/
def doDriveReadComplete (p tag : Nat) (blocks : List RdBlk) (s : State) : State :=
  match nfind tag (s.drivePort p).cmds with
  | none => s
  | some c =>
    if c.write ∨ blocks.length ≠ c.n ∨ c.use ≠ .fg then s else takeRead c blocks (finishCmd p tag s)

/-- Reads that needed a reconstruction, each counted once (RECON_READS). -/
def countRecon (g : Nat) (lbns : List Nat) (s : State) : State :=
  let ks := (s.cmds.filter fun p => p.2.op == .read && p.2.asked == 0 && lbns.any fun l => p.2.need.contains (g * 2 ^ 48 + l)).map (·.1)
  ks.foldl (fun s k => (s.updCmd k fun c => { c with asked := 1 }).bump Reg.Sig.RECON_READS 1 g) s

/-- READ_RECONSTRUCT: a lost offset is decided once every other position has been read (R154, R156, R168). -/
def doReadReconstruct (g t : Nat) (o : RdOffset) (s : State) : State :=
  match s.lost.find? fun x => x.sig == g && x.sheet == t && x.off == o.offset with
  | none => s
  | some x =>
    if resyncWaits s g t then s
    else
      let k := sheetK s g t
      let b := x.off
      let vs := lookAt s g t b x.bad o.got
      if !(owedPos vs).isEmpty then s
      else
        let lbn (p : Nat) : Nat := lbnAt s g t p b
        let ps := lostData vs
        let s := countRecon g (ps.map lbn) { s with lost := s.lost.erase x }
        let s := match solveAt true vs with
          | some y =>
            let zeros := unknownZeros s g vs y
            let s := if zeros.isEmpty then s else hbAdd g 1 (zeros.map lbn) s
            let s := (ps.filter fun p => !zeros.contains p).foldl (fun s p => fillBlock g (lbn p) ⟨solvedAt y p, false, false⟩ false s) s
            let s := ((badPos vs).filter fun q => !zeros.contains q.1).foldl (fun s q =>
              addRepair g t q.1 b ⟨solvedAt y q.1, q.1 ≥ k && allNever vs, false⟩ q.2 s) s
            let s := zeros.foldl (fun s p => countFix g t p ((badPos vs).any fun q => q.1 == p && q.2) s) s
            ps.foldl (fun s p => feed g (lbn p) ⟨solvedAt y p, false, false⟩ s) s
          | none =>
            let s := hbAdd g 1 (ps.map lbn) s
            let s := ((badPos vs).filter (·.2)).foldl (fun s q => countSilent g (servedBy s g t q.1) s) s
            ps.foldl (fun s p => feed g (lbn p) ⟨0, true, true⟩ s) s
        -- requested blocks that meanwhile are found, or are in the hellbox, are served as they are
        let s := (List.range k).foldl (fun s p => match vs.getD p .gone with
          | .good d n => feed g (lbn p) ⟨d, n, false⟩ s
          | .zero => feed g (lbn p) ⟨0, true, false⟩ s
          | _ => s) s
        judgeRetire g s

/-! ### Repair (R159, R160) -/

/-- The repair of a folio. -/
def repairOf (s : State) (g t p : Nat) (stage : Nat → Bool) : Option Repair :=
  s.repairs.find? fun r => r.sig == g && r.sheet == t && r.pos == p && stage r.stage

/-- Replace a repair. -/
def setRepair (r q : Repair) (s : State) : State := { s with repairs := s.repairs.map fun x => if x == r then q else x }

/-- REPAIR_WRITE: the failing blocks from the first to the last, with the verified blocks between them (R159); the event of the
folio counts (R158, R161). -/
def doRepairWrite (g t p : Nat) (between : List (Nat × RdBlk)) (s : State) : State :=
  match repairOf s g t p (· == 0) with
  | none => s
  | some r =>
    let waits := s.lost.any fun x => x.sig == g && x.sheet == t && x.bad.any fun y => y.1 == p
    if sheetBusy s g t ∨ waits ∨ !drivesRun s.core.mode then s
    else
      let bs := r.blocks.map (·.1)
      let lo := bs.headD 0
      let hi := bs.foldl max lo
      let mid := ((List.range (hi - lo)).map (lo + ·)).filter fun b => !bs.contains b
      let vals := mid.map fun b => (b, match between.find? fun x => x.1 == b with
        | none => none
        | some x => match verify s g t p b x.2 with | .good v => some (some v) | .medium => some none | .silent => some none)
      if vals.any fun v => v.2.isNone then s
      else
        match vals.find? fun v => v.2 == some none with
        | some v => addLost g t v.1 [(p, true)] s
        | none =>
          let all := vals.foldl (fun m v => match v.2 with | some (some x) => nset v.1 x m | _ => m) r.blocks
          let s := judgeRetire g (countFix g t p r.silent s)
          match repairOf s g t p (· == 0) with
          | none => s
          | some r =>
            let w := issueWrite .repair g t p all s
            if w.1 then setRepair r { r with stage := 1, tries := r.tries + 1 } w.2 else endRepair r w.2

/-- Read a repaired folio back. -/
def readBackRepair (r : Repair) (s : State) : State :=
  let lo := (r.blocks.map (·.1)).headD 0
  issueRead .repair r.sig r.sheet r.pos lo ((r.blocks.map (·.1)).foldl max lo + 1 - lo) s

/-- REPAIR_WRITE_COMPLETE: the targeted self-test begins with its first read (R160). -/
def doRepairWriteComplete (g t p : Nat) (s : State) : State :=
  match repairOf s g t p (· == 1) with
  | none => s
  | some r =>
    let s := finishAll .repair g t (some p) s
    readBackRepair r (setRepair r { r with stage := 2 } s)

/-- SELFTEST_READBACK: two good reads pass; a failure rewrites once, a second one fails the drive (R160). -/
def doSelfTestReadback (g t p : Nat) (good : Bool) (s : State) : State :=
  match repairOf s g t p (fun n => n == 2 || n == 3) with
  | none => s
  | some r =>
    let s := finishAll .repair g t (some p) s
    if good ∧ r.stage = 2 then readBackRepair r (setRepair r { r with stage := 3 } s)
    else if good then
      let d := servedBy s g t p
      let s := if r.silent then s.raise Reg.Sig.SILENT_CORR g else s
      let s := s.log (if r.silent then 0x5001 else 0x5002) (srcSig g d) (leBytes 8 (t % srcBit) ++ [p] ++ leBytes 2 r.blocks.length)
      endRepair r s
    else if r.tries < 2 then
      let w := issueWrite .repair g t p r.blocks s
      if w.1 then setRepair r { r with stage := 1, tries := r.tries + 1 } w.2 else endRepair r w.2
    else
      let d := servedBy s g t p
      let s := ((endRepair r s).raise Reg.Sig.SELFTEST_FAIL g).log 0x5003 (srcSig g d) (leBytes 8 (t % srcBit))
      declare g d 4 s

/-- CORRUPTION_HOUR_ROLL: at each operating hour the oldest of the 24 buckets of every member is dropped (R161). -/
def doCorruptionHourRoll (s : State) : State :=
  if s.core.opImp / 450000000 > s.corrHour then
    { s with
      corrHour := s.corrHour + 1
      sigs := nmapv (fun _ x => { x with k := { x.k with mems := nmapv (fun _ m => { m with buckets := if m.buckets.isEmpty then [] else (0 :: m.buckets).take 24 }) x.k.mems } }) s.sigs }
  else s

/-! ### The proofing pass (R170 to R173) -/

/-- Whether the pass of a signature may run. -/
def proofRuns (s : State) (g : Nat) : Bool :=
  let x := s.sigSt g
  x.inService && s.bit Reg.Sig.PROOF_EN g && x.resync.isEmpty && x.rs.isNone && (s.core.mode == .pressRun || s.core.mode == .hold) &&
    !(x.k.ents.any fun e => e.2.st == .rebuild) && !(x.k.mems.any fun m => m.2.catching)

/-- The lap ends (R173). -/
def endLap (g : Nat) (s : State) : State :=
  let x := s.sigSt g
  let now := opTimeOf s.core.opImp
  let t := now - x.k.lapStart
  let s := s.setSig g { x with pendingClear := true, lapOpen := false, k := { x.k with proofPos := 0, lapStart := now, lapCount := (x.k.lapCount + 1) % 65536, hbUnknown := false } }
  ((s.put Reg.Sig.LAST_LAP t g).raise Reg.Sig.PROOF_DONE g).log 0x5006 (srcSig g) (leBytes 2 (s.sigSt g).k.lapCount ++ leBytes 4 t)

/-- The next sheet of the pass. -/
def nextProof (s : State) (g : Nat) : Option Nat :=
  let x := s.sigSt g
  firstFrom (fun t => !skipSheet s g t) (x.sheets - x.k.proofPos) x.k.proofPos

/-- One offset of a proofing item (Table 6.3): whether P or Q is to be rewritten, data to be written back, blocks that enter the
hellbox; none while a read is missing. -/
def proofOff (s : State) (g t : Nat) (reads : List RdOffset) (b : Nat) : Option (Bool × List (Nat × Blk × Bool) × List Nat × List (Nat × Bool)) :=
  let k := sheetK s g t
  let vs := lookAt s g t b [] (gotAt reads b)
  if !(owedPos vs).isEmpty then none
  else if (lostData vs).isEmpty then
    let ds := zeroed vs
    let wrong (p : Nat) (v : Blk) : Bool := match vs.getD p .gone with | .good d _ => d != v | .bad _ => true | _ => false
    some (wrong k (parityP ds) || wrong (k + 1) (parityQ ds), [], [], badPos vs)
  else match solveAt true vs with
    | some y =>
      let zeros := unknownZeros s g vs y
      some ((badPos vs).any fun q => decide (q.1 ≥ k), (badPos vs).filterMap (fun q => if q.1 < k && !zeros.contains q.1 then some (q.1, solvedAt y q.1, q.2) else none), zeros, badPos vs)
    | none => some (false, [], lostData vs, badPos vs)

/-- PROOFING_ITEM: the next sheet of the lap. -/
def doProofingItem (g : Nat) (reads : List RdOffset) (s : State) : State :=
  if !proofRuns s g then s
  else
    let s := if (s.sigSt g).lapOpen then s else
      (s.updSig g fun x => { x with lapOpen := true }).log 0x5006 (srcSig g) (leBytes 2 (s.sigSt g).k.lapCount ++ leBytes 4 0)
    match nextProof s g with
    | none => endLap g s
    | some t =>
      if sheetBusy s g t then s
      else
        let rs := (liveOffsets s g t).map fun b => (b, proofOff s g t reads b)
        if rs.any fun r => r.2.isNone then s
        else
          let rs := rs.filterMap fun r => r.2.map fun y => (r.1, y)
          let hb := rs.flatMap fun r => r.2.2.2.1.map fun p => lbnAt s g t p r.1
          let s := if hb.isEmpty then s else hbAdd g 2 hb s
          let s := rs.foldl (fun s r => if r.2.1 then s.updSig g fun x => { x with hbPar := askParity s.core.imp t r.1 x.hbPar } else s) s
          let s := rs.foldl (fun s r => r.2.2.1.foldl (fun s f => addRepair g t f.1 r.1 ⟨f.2.1, false, false⟩ f.2.2 s) s) s
          let fixed := (rs.filter fun r => r.2.1 || !r.2.2.1.isEmpty).length
          let s := s.bump Reg.Sig.PROOF_FIXED fixed g
          -- events of folios that no repair write will count
          let failed := rs.flatMap fun r => r.2.2.2.2
          let own := ((failed.map (·.1)).eraseDups).filter fun p => !(s.repairs.any fun r => r.sig == g && r.sheet == t && r.pos == p && r.stage == 0)
          let s := own.foldl (fun s p => if failed.any fun q => q.1 == p && q.2 then countSilent g (servedBy s g t p) s else s) s
          let s := judgeRetire g (s.updKeep g fun k => { k with proofPos := t + 1 })
          if (nextProof s g).isNone then endLap g s else s

/-- CORR_SEL: the counts of a member are latched (R174). -/
def doCorrSel (g v : Nat) (s : State) : State :=
  let d := v % 128
  ((s.put Reg.Sig.CORR_SEL d g).put Reg.Sig.CORR_24H (min 255 (silent24 s g d)) g).put Reg.Sig.CORR_TOTAL (memOf s g d).silent g

/-! ### The commands -/

def execRead (x : IoCmd) (s : State) : Host.Outcome State Fault Refusal := .next (whenOn (doRead x) s)
def execDriveReadComplete (p : DrvPortIx) (t : Nat) (bs : List RdBlk) (s : State) : Host.Outcome State Fault Refusal :=
  .next (whenOn (doDriveReadComplete p.val t bs) s)
def execReadReconstruct (x : SheetId) (o : RdOffset) (s : State) : Host.Outcome State Fault Refusal := .next (whenOn (doReadReconstruct x.sig.val x.sheet o) s)
def execRepairWrite (x : SheetId) (p : Nat) (bs : List (Nat × RdBlk)) (s : State) : Host.Outcome State Fault Refusal :=
  .next (whenOn (doRepairWrite x.sig.val x.sheet p bs) s)
def execRepairWriteComplete (x : SheetId) (p : Nat) (s : State) : Host.Outcome State Fault Refusal := .next (whenOn (doRepairWriteComplete x.sig.val x.sheet p) s)
def execSelfTestReadback (x : SheetId) (p : Nat) (v : Bool) (s : State) : Host.Outcome State Fault Refusal := .next (whenOn (doSelfTestReadback x.sig.val x.sheet p v) s)
def execCorruptionHourRoll (s : State) : Host.Outcome State Fault Refusal := .next (whenOn doCorruptionHourRoll s)
def execProofingItem (g : SigIx) (r : List RdOffset) (s : State) : Host.Outcome State Fault Refusal := .next (whenOn (doProofingItem g.val r) s)
def execCorrSel (g : SigIx) (v : RegWord) (s : State) : Host.Outcome State Fault Refusal := .next (whenOn (doCorrSel g.val v.toNat) s)

end Sys2Proof.Machine
end

