-- ==== Sys2Proof/Machine/Rebuild.lean ====
section
/-!
DEFINITION. Rebuild, replacement and copyback (R185 to R200): the walks, one item, its completion, and the end of a walk.
-/

namespace Sys2Proof.Machine

/-! ### Walks (R185, R187) -/

/-- Whether an entry is walked: it has a target. -/
def hasTarget (e : FailEnt) : Bool := e.st == .rebuild || (e.st == .format && e.prev == .rebuild)

/-- Whether a sheet of a layout holds a drive in a sheet position and is not skipped. -/
def walksOver (s : State) (g : Nat) (e : FailEnt) (t : Nat) : Bool :=
  match entLay s g e with
  | some i => rowHolds i t e.drive && !skipSheet s g (entSheet e t)
  | none => false

/-- Whether some drive of a mask is in a sheet's row. -/
def maskIn (s : State) (g : Nat) (e : FailEnt) (mask : List Nat) (t : Nat) : Bool :=
  match entLay s g e with
  | some i => mask.any fun d => rowHolds i t d
  | none => false

/-- Next sheet of a window. -/
def winNext (s : State) (g : Nat) (e : FailEnt) (w : CritWin) : Option Nat :=
  match entLay s g e with
  | some i => firstFrom (fun t => walksOver s g e t && maskIn s g e w.mask t && !placed i e t) (w.hi - w.pos) w.pos
  | none => none

/-- Next sheet of the normal walk of an entry. -/
def entNext (s : State) (g : Nat) (e : FailEnt) : Option Nat := firstFrom (walksOver s g e) (e.high - e.n) e.n

/-- Entries with a walk, by number. -/
def walkers (s : State) (g : Nat) : List (Nat × FailEnt) := (s.sigSt g).k.ents.filter fun p => hasTarget p.2

/-- Windows without a next sheet are finished. -/
def finishWins (g : Nat) (s : State) : State :=
  (walkers s g).foldl (fun s p =>
    if p.2.wins.any fun w => w.pos < w.hi && (winNext s g p.2 w).isNone then
      updEnt g p.1 (fun e => { e with wins := e.wins.map fun w => if (winNext s g p.2 w).isNone then { w with pos := w.hi } else w }) s
    else s) s

/-- The lowest critical sheet, as known, with the entries whose windows have it next. -/
def critNext (s : State) (g : Nat) : Option (Nat × List Nat) :=
  let all := (walkers s g).flatMap fun p => (p.2.wins.filterMap fun w => if w.pos < w.hi then winNext s g p.2 w else none).map fun t => (entSheet p.2 t, p.1)
  match all with
  | [] => none
  | x :: xs =>
    let t := xs.foldl (fun t y => min t y.1) x.1
    some (t, ((all.filter fun y => y.1 == t).map (·.2)).eraseDups)

/-- The lowest normal sheet, as known, with the entries whose next sheet it is. -/
def normNext (s : State) (g : Nat) : Option (Nat × List Nat) :=
  let all := (walkers s g).filterMap fun p => (entNext s g p.2).map fun t => (entSheet p.2 t, p.1)
  match all with
  | [] => none
  | x :: xs =>
    let t := xs.foldl (fun t y => min t y.1) x.1
    some (t, (all.filter fun y => y.1 == t).map (·.2))

/-- Unfinished windows of entries with a target. -/
def critOpen (s : State) (g : Nat) : Bool := (walkers s g).any fun p => p.2.wins.any fun w => w.pos < w.hi

/-- Whether a signature has a C5 item to take (R185, R207). -/
def hasC5 (s : State) (g : Nat) : Bool :=
  !(s.sigSt g).resync.isEmpty || ((s.sigSt g).k.mems.any fun m => m.2.catching && !m.2.missed.isEmpty) || !(walkers s g).isEmpty

/-- The walk of an entry ends (R187, Table 7.4). -/
def endWalk (g e : Nat) (s : State) : State :=
  match nfind e (s.sigSt g).k.ents with
  | none => s
  | some x =>
    let s := (s.raise Reg.Sig.REBUILD_DONE g).log 0x6004 (srcSig g x.drive) [e, 0]
    if x.direct then
      let s := freeEnt g e s
      if (s.sigSt g).k.ents.any fun p => p.2.drive == x.drive then s
      else setMem g x.drive { memOf s g x.drive with failed := false, noEntry := false } s
    else
      let back : FailEnt → FailEnt := fun y => { y with n := y.high, wins := [], st := if y.st == .format then .format else if y.repl then .copyback else .rebuilt, prev := .rebuilt, y := y.low }
      updEnt g e back s

/-- Entries without a next sheet end their walks. -/
def endWalks (g : Nat) (s : State) : State :=
  (walkers s g).foldl (fun s p =>
    match nfind p.1 (s.sigSt g).k.ents with
    | some e => if hasTarget e && (entNext s g e).isNone && !(e.wins.any fun w => w.pos < w.hi) then endWalk g p.1 s else s
    | none => s) s

/-! ### One item (R189 to R193) -/

/-- What an item comes to at one offset: values by position; blocks to enter the hellbox; survivors to be repaired; none while
a read is missing. -/
structure RbOff where
  vals : List (Nat × RdVal)
  hb : List Nat
  fix : List (Nat × Blk × Bool)
  failed : List (Nat × Bool)
  deriving DecidableEq, Repr

/-- One offset of an item that places the folios of some positions (Table 7.3, R191). -/
def rbOff (s : State) (g t : Nat) (place : List Nat) (reads : List RdOffset) (b : Nat) : Option RbOff :=
  let k := sheetK s g t
  let vs := (lookAt s g t b [] (gotAt reads b))
  let vs := (List.range vs.length).map fun p => match vs.getD p .gone with
    | .zero => PosVal.zero
    | v => if place.contains p && v == .owed then .gone else v
  let owed := owedPos vs
  let lost := lostPos vs
  let enough := owed.isEmpty || (decide (lost.length ≤ 1) && (badPos vs).isEmpty && decide (owed.length + lost.length ≤ 2) && owed.all fun p => decide (p ≥ k))
  if !enough then none
  else
    let parNever := (vs.getD k .gone).never || (vs.getD (k + 1) .gone).never
    let outside (p : Nat) : Bool := decide (p < k) && ((zoneOfLbn s g (lbnAt s g t p b)).any fun z => !inExtent s z (lbnAt s g t p b))
    match solveAt false vs with
    | some y =>
      let never (p : Nat) : Bool :=
        if p < k then outside p || inHb s g (lbnAt s g t p b) || parNever else allNever vs || parNever
      some ⟨place.map fun p => (p, if never p then ⟨0, true, false⟩ else ⟨solvedAt y p, false, false⟩), [],
        (badPos vs).map fun q => (q.1, solvedAt y q.1, q.2), badPos vs⟩
    | none =>
      let ds := zeroed vs
      let never := allNever vs
      some ⟨place.map fun p => (p, if p < k then ⟨0, true, false⟩ else ⟨if p = k then parityP ds else parityQ ds, never, false⟩),
        (lostData vs).filter fun p => !outside p, [], badPos vs⟩

/-- The results of an item other than its placements: losses, repairs, counts (R190, R193). -/
def rbSettle (g t : Nat) (rs : List (Nat × RbOff)) (s : State) : State :=
  let hb := rs.flatMap fun r => r.2.hb.map fun p => lbnAt s g t p r.1
  let s := if hb.isEmpty then s else
    ((((hbAdd g 5 hb s).bump Reg.Sig.RB_LOSS_SHEETS 1 g).raise Reg.Sig.RB_LOSS g)).log 0x6006 (srcSig g) (leBytes 8 (t % srcBit))
  let s := rs.foldl (fun s r => r.2.fix.foldl (fun s x => (addRepair g t x.1 r.1 ⟨x.2.1, false, false⟩ x.2.2 s).bump Reg.Sig.RB_SECTOR_FIX 1 g) s) s
  let failed := rs.flatMap fun r => if r.2.fix.isEmpty then r.2.failed else []
  let own := ((failed.map (·.1)).eraseDups).filter fun p => !(s.repairs.any fun r => r.sig == g && r.sheet == t && r.pos == p && r.stage == 0)
  judgeRetire g (own.foldl (fun s p => if failed.any fun q => q.1 == p && q.2 then countSilent g (servedBy s g t p) s else s) s)

/-- The place an entry gives a folio: its spare slot, or the member's own position; none where it cannot be placed (R181, R187). -/
def placeOf (s : State) (g : Nat) (e : FailEnt) (u : Nat) : Option (Nat × Nat) :=
  match entLay s g e with
  | none => none
  | some i =>
    if e.direct then
      match i.posIn u e.drive with
      | some p => if portServes s i e.drive then some (e.drive, i.dataPos u p) else none
      | none => none
    else match e.level with
      | none => none
      | some q =>
        let d := i.spareDrive u q
        if e.dead.contains d || !portServes s i d || (memOf s g d).failed || (memOf s g d).absentAt.isSome then none
        else some (d, i.sparePos u e.drive q)

/-- The results at every offset of the sheet; none while a read is missing. Offsets outside the written extent are placed as
never written. -/
def rbSheet (s : State) (g t : Nat) (place : List Nat) (reads : List RdOffset) : Option (List (Nat × RbOff)) :=
  let live := liveOffsets s g t
  let rs := (wholeFolio s g t).map fun b =>
    (b, if live.contains b then rbOff s g t place reads b else some ⟨place.map fun p => (p, ⟨0, true, false⟩), [], [], []⟩)
  if rs.any fun r => r.2.isNone then none else some (rs.filterMap fun r => r.2.map fun x => (r.1, x))

/-- The blocks of one position out of an item. -/
def rbBlocks (rs : List (Nat × RbOff)) (p : Nat) : NMap RdVal := rs.filterMap fun r => (r.2.vals.find? fun v => v.1 == p).map fun v => (r.1, v.2)

/-- An item begins: its folios are computed and their writes issued (R189 to R192). An absent folio counts as placed; one whose
target is lost is unplaceable. -/
def startItem (g t : Nat) (es : List Nat) (critical : Bool) (reads : List RdOffset) (s : State) : State :=
  if sheetBusy s g t ∨ resyncWaits s g t then s
  else
    let u := t % srcBit
    let ents := es.filterMap fun e => (nfind e (s.sigSt g).k.ents).map fun x => (e, x)
    let posOf (x : FailEnt) : Option Nat := (entLay s g x).bind fun i => i.posIn u x.drive
    let live := ents.filter fun x => (posOf x.2).any fun p => !(decide (p < sheetK s g t) && absentFolio s g t p)
    let able := live.filter fun x => (placeOf s g x.2 u).isSome
    let place := live.filterMap fun x => posOf x.2
    match rbSheet s g t place reads with
    | none => s
    | some rs =>
      let s := rbSettle g t rs s
      let s := (live.filter fun x => (placeOf s g x.2 u).isNone).foldl (fun s x =>
        ((updEnt g x.1 (fun e => { e with unplaced := e.unplaced + 1 }) s).raise Reg.Sig.UNPLACEABLE g).log 0x6005 (srcSig g x.2.drive) (leBytes 8 u)) s
      let s := { s with walks := s.walks ++ [{ sig := g, sheet := t, critical := critical, ents := es }] }
      able.foldl (fun s x => match posOf x.2, placeOf s g x.2 u with
        | some p, some at_ => writeAt .walk g t p at_ (rbBlocks rs p) s
        | _, _ => s) s

/-- Whether rebuild items of a signature may be taken: no resynchronisation item is left (R185). -/
def rebuildTurn (s : State) (g : Nat) : Bool :=
  let x := s.sigSt g
  x.inService && runsC5 s.core.mode && x.resync.isEmpty && !(x.k.mems.any fun m => m.2.catching && !m.2.missed.isEmpty)

/-- CRITICAL_ITEM. -/
def doCriticalItem (g : Nat) (reads : List RdOffset) (s : State) : State :=
  if !rebuildTurn s g then s
  else
    let s := finishWins g s
    match critNext s g with
    | some (t, es) => startItem g t es true reads s
    | none => endWalks g s

/-- NORMAL_ITEM: only while no window of an entry with a target is unfinished. -/
def doNormalItem (g : Nat) (reads : List RdOffset) (s : State) : State :=
  if !rebuildTurn s g then s
  else
    let s := finishWins g s
    if critOpen s g then s
    else
      let s := endWalks g s
      match normNext s g with
      | some (t, es) => startItem g t es false reads s
      | none => s

/-- The transfers of the last 60 s. -/
def recent (now : Nat) (ts : List Nat) : List Nat := ts.filter fun t => decide (now - t < 7500000)

/-- An entry has placed or moved a folio. -/
def stamp (now : Nat) (e : FailEnt) : FailEnt := { e with doneAt := now :: recent now e.doneAt }

/-- REBUILD_ITEM_COMPLETE: the cursors move; a folio whose target died meanwhile is unplaceable (R187, R192). -/
def doRebuildItemComplete (g t : Nat) (s : State) : State :=
  match s.walks.find? fun w => w.sig == g && w.sheet == t && !w.copyback with
  | none => s
  | some w =>
    let u := t % srcBit
    let s := finishAll .walk g t none { s with walks := s.walks.erase w }
    let s := w.ents.foldl (fun s e => match nfind e (s.sigSt g).k.ents with
      | none => s
      | some _ =>
        let move (y : FailEnt) : FailEnt :=
          if w.critical then { y with wins := y.wins.map fun v => if v.pos ≤ u && u < v.hi && maskIn s g y v.mask u then { v with pos := u + 1 } else v }
          else { y with n := u + 1 }
        updEnt g e (fun y => stamp s.core.imp (move y)) s) s
    endWalks g (finishWins g s)

/-! ### Copyback (R198) -/

/-- Next sheet of a copyback. -/
def copyNext (s : State) (g : Nat) (e : FailEnt) : Option Nat := firstFrom (fun t => (entLay s g e).any fun i => rowHolds i t e.drive) (e.high - e.y) e.y

/-- A copyback has reached the end of its range. -/
def endCopyback (g e : Nat) (s : State) : State :=
  match nfind e (s.sigSt g).k.ents with
  | none => s
  | some x =>
    let s := (s.raise Reg.Sig.COPYBACK_DONE g).log 0x6004 (srcSig g x.drive) [e, 1]
    let s := freeEnt g e s
    if (s.sigSt g).k.ents.any fun p => p.2.drive == x.drive then s
    else setMem g x.drive { memOf s g x.drive with failed := false, noEntry := false } s

/-- COPYBACK_ITEM: the folio is read at its spare place, or reconstructed, and written to the member's own position. -/
def doCopybackItem (g e : Nat) (reads : List RdOffset) (s : State) : State :=
  let x := s.sigSt g
  match nfind e x.k.ents with
  | none => s
  | some en =>
    if en.st ≠ .copyback ∨ !x.inService ∨ !runsC6 s.core.mode then s
    else match copyNext s g en, entLay s g en with
      | none, _ => endCopyback g e (updEnt g e (fun y => { y with y := y.high }) s)
      | some u, some i =>
        let t := entSheet en u
        if sheetBusy s g t ∨ resyncWaits s g t then s
        else match i.posIn u en.drive with
          | none => s
          | some p =>
            let item : WalkItem := { sig := g, sheet := t, copyback := true, ents := [e] }
            if skipSheet s g t ∨ (p < i.k ∧ absentFolio s g t p) then { s with walks := s.walks ++ [item] }
            else
              let one (b : Nat) : Option RbOff :=
                if !offsetLive s g t b then some ⟨[(p, ⟨0, true, false⟩)], [], [], []⟩
                else match posVal s g t b [] (gotAt reads b) p with
                  | .good d n => some ⟨[(p, ⟨d, n, false⟩)], [], [], []⟩
                  | .zero => some ⟨[(p, ⟨0, true, false⟩)], [], [], []⟩
                  | .owed => none
                  | .gone => rbOff s g t [p] reads b
                  | .bad _ => rbOff s g t [p] reads b
              let rs := (wholeFolio s g t).map fun b => (b, one b)
              if rs.any fun r => r.2.isNone then s
              else
                let rs := rs.filterMap fun r => r.2.map fun y => (r.1, y)
                let s := rbSettle g t rs s
                if portServes s i en.drive then
                  writeAt .walk g t p (en.drive, i.dataPos u p) (rbBlocks rs p) { s with walks := s.walks ++ [item] }
                else s
      | _, none => s

/-- COPYBACK_WRITE_COMPLETE: y moves on; at the end of the range the entry becomes free. -/
def doCopybackWriteComplete (g e : Nat) (s : State) : State :=
  match s.walks.find? fun w => w.sig == g && w.copyback && w.ents == [e] with
  | none => s
  | some w =>
    let s := finishAll .walk g w.sheet none { s with walks := s.walks.erase w }
    let s := updEnt g e (fun x => stamp s.core.imp { x with y := w.sheet % srcBit + 1 }) s
    match nfind e (s.sigSt g).k.ents with
    | some x => if (copyNext s g x).isNone then endCopyback g e (updEnt g e (fun y => { y with y := y.high }) s) else s
    | none => s

/-! ### Health (R194) and the snapshot (R200) -/

/-- SIG_HEALTH. -/
def healthOf (s : State) (g : Nat) : Nat :=
  let x := s.sigSt g
  let un := !(unrestoredList s g).isEmpty
  let noTarget := (x.k.mems.filter fun m => m.2.failed && (m.2.noEntry || x.k.ents.any fun e => e.2.drive == m.1 && (e.2.st == .wait || (e.2.st == .format && e.2.prev == .wait)))).length
  if un && x.lossSeen then 3
  else if (x.k.ents.any fun e => e.2.wins.any fun w => w.pos < w.hi) || decide (noTarget ≥ 2) then 2
  else if un then 1 else 0

/-- Folios still to place or to move by an entry. -/
def entTodo (s : State) (g : Nat) (e : FailEnt) : Nat :=
  if e.st == .copyback then countFrom (fun t => (entLay s g e).any fun i => rowHolds i t e.drive) (e.high - e.y) e.y
  else if hasTarget e then countFrom (walksOver s g e) (e.high - e.n) e.n else 0

/-- Sheets the unfinished windows still have to visit. -/
def critLeft (s : State) (g : Nat) : Nat :=
  ((s.sigSt g).k.ents.map fun p => (p.2.wins.map fun w => countFrom (fun t => walksOver s g p.2 t && maskIn s g p.2 w.mask t) (w.hi - w.pos) w.pos).sum).sum

/-- Code of an entry state (Table 7.4). -/
def EntSt.code : EntSt → Nat
  | .wait => 1 | .rebuild => 2 | .rebuilt => 3 | .format => 4 | .copyback => 5

/-- ENT_SEL: the selected failure entry is latched; a free one reads 0 (R200). -/
def doEntSel (g v : Nat) (s : State) : State :=
  let n := v % 8
  let e? := nfind n (s.sigSt g).k.ents
  let f (h : FailEnt → Nat) : Nat := (e?.map h).getD 0
  let s := (s.put Reg.Sig.ENT_SEL n g).put Reg.Sig.ENT_STATE (f fun e => e.st.code) g
  let s := (s.putB Reg.Sig.ENT_REPL (e?.any (·.repl)) g).putB Reg.Sig.ENT_DIRECT (e?.any (·.direct)) g
  let s := (s.put Reg.Sig.ENT_LEVEL (f fun e => e.level.getD 7) g).put Reg.Sig.ENT_CAUSE (f (·.cause)) g
  let s := (s.put Reg.Sig.ENT_DRIVE (f (·.drive)) g).put Reg.Sig.ENT_WINDOWS (f fun e => e.wins.length) g
  let pair (lo hi : FieldSpec) (x : Nat) (s : State) : State := (s.put lo (x % 2 ^ 32) g).put hi (x / 2 ^ 32) g
  let s := pair Reg.Sig.ENT_LOW_LO Reg.Sig.ENT_LOW_HI (f (·.low)) s
  let s := pair Reg.Sig.ENT_HIGH_LO Reg.Sig.ENT_HIGH_HI (f (·.high)) s
  let s := pair Reg.Sig.ENT_N_LO Reg.Sig.ENT_N_HI (f (·.n)) s
  let s := pair Reg.Sig.ENT_Y_LO Reg.Sig.ENT_Y_HI (f (·.y)) s
  let todo := (e?.map (entTodo s g)).getD 0
  let s := pair Reg.Sig.ENT_TODO_LO Reg.Sig.ENT_TODO_HI todo s
  let s := (s.put Reg.Sig.ENT_UNPLACED (min (2 ^ 32 - 1) (f (·.unplaced))) g).put Reg.Sig.ENT_DECLARED (f (·.declared)) g
  -- the average rate over the last 60 s, in folios
  let rate := f fun e => (recent s.core.imp e.doneAt).length
  s.put Reg.Sig.ENT_ETA (if e?.isSome then (if rate = 0 then 2 ^ 32 - 1 else min (2 ^ 32 - 1) (todo * 60 / rate)) else 0) g

/-! ### The commands -/

def execCriticalItem (g : SigIx) (r : List RdOffset) (s : State) : Host.Outcome State Fault Refusal := .next (whenOn (doCriticalItem g.val r) s)
def execNormalItem (g : SigIx) (r : List RdOffset) (s : State) : Host.Outcome State Fault Refusal := .next (whenOn (doNormalItem g.val r) s)
def execRebuildItemComplete (x : SheetId) (s : State) : Host.Outcome State Fault Refusal := .next (whenOn (doRebuildItemComplete x.sig.val x.sheet) s)
def execCopybackItem (g : SigIx) (e : Nat) (r : List RdOffset) (s : State) : Host.Outcome State Fault Refusal := .next (whenOn (doCopybackItem g.val e r) s)
def execCopybackWriteComplete (g : SigIx) (e : Nat) (s : State) : Host.Outcome State Fault Refusal := .next (whenOn (doCopybackWriteComplete g.val e) s)
def execEntSel (g : SigIx) (v : RegWord) (s : State) : Host.Outcome State Fault Refusal := .next (whenOn (doEntSel g.val v.toNat) s)

end Sys2Proof.Machine
end

