-- ==== Sys2Proof/Machine/Labels.lean ====
section
/-!
DEFINITION. Membership labels (R110, R111): the bytes of a copy, and writing the pair.
-/

namespace Sys2Proof.Machine

/-- Cycles of a layout for a smallest member. -/
def cyclesOf (i : Imposition) (bMin : Nat) : Nat := i.cyclesFor bMin

/-- A label copy (Table 4.7): the geometry it carries, and the hash of the target imposition during a reshape. -/
def labelBytes (s : State) (g d : Nat) (i : Imposition) (target : Option (List Nat)) (gen identity : Nat) (copyB : Bool) : List Nat :=
  let flags := (if copyB then 1 else 0) + (if i.packed then 2 else 0) + (if target.isSome then 4 else 0)
  let bMin := (s.sigSt g).bMin
  let head := ascii "SGLB" ++ leBytes 2 1 ++ leBytes 2 flags ++ leBytes 8 gen ++ serialBytes ++ leBytes 16 i.identity ++
    [g, d, i.n, i.k, i.s, i.folio] ++ leBytes 2 i.cStride ++ leBytes 4 (i.members.getD d ⟨0, 0⟩).base ++ leBytes 4 (cyclesOf i bMin) ++
    leBytes 8 bMin ++ leBytes 8 identity ++ leBytes 4 (opTimeOf s.core.opImp) ++ leBytes 4 s.core.cycles ++ i.hash ++ target.getD (List.replicate 32 0)
  let body := head ++ List.replicate (4092 - head.length) 0
  body ++ leBytes 4 (crc32c body)

/-- Write both copies of a member's label: copy A at LBA 0, copy B at B − 256. -/
def writeLabels (g d : Nat) (i : Imposition) (target : Option (List Nat)) (s : State) : State :=
  let p := i.portOf d
  let x := s.drivePort p
  let gen := (s.sigSt g).labelGen + 1
  let s := s.emit (.drvLabel p 0 (labelBytes s g d i target gen x.identity false))
  s.emit (.drvLabel p (x.blocks - 256) (labelBytes s g d i target gen x.identity true))

/-- Write the labels of some members, as one generation. -/
def writeAllLabels (g : Nat) (ds : List Nat) (i : Imposition) (target : Option (List Nat)) (s : State) : State :=
  let s := ds.foldl (fun s d => if (s.drivePort (i.portOf d)).identified then writeLabels g d i target s else s) s
  s.updSig g fun x => { x with labelGen := x.labelGen + 1 }

end Sys2Proof.Machine
end

