-- ==== Sys2Proof/Machine/Reshape.lean ====
section
/-!
DEFINITION. Online reshape (chapter 8): the copy window's steps, its release, and the end of a reshape.
-/

namespace Sys2Proof.Machine

/-! ### Whether a window may run (R207) -/

/-- The reasons to pause: C5 items or SIG_HEALTH; the dirty ceiling, for a window of some blocks; the module state or a Stereo
half. -/
def pauseRb (s : State) (g : Nat) : Bool := hasC5 s g || decide (healthOf s g > 1)
def pauseCeil (s : State) (blocks : Nat) : Bool := decide (s.dirty + blocks > s.get Reg.Fount.CEILING)
def pauseState (s : State) : Bool := !runsC6 s.core.mode || !s.st0.ok || !s.st1.ok

/-- The next window of a reshape: its bounds. -/
def windowNext (s : State) (g : Nat) : Option (Nat × Nat) :=
  match (s.sigSt g).rs, impOf s g with
  | some r, some i => nextWindow r.src i r.up r.b r.z
  | _, _ => none

/-- The target sheets of a window, and its source sheets as they are known. -/
def winTargets (s : State) (g lo hi : Nat) : List Nat :=
  let n := max 1 (((impOf s g).map (·.sheetBlocks)).getD 1)
  (List.range (hi / n - lo / n)).map fun j => lo / n + j
def winSources (s : State) (g lo hi : Nat) : List Nat :=
  let n := max 1 (((s.sigSt g).rs.map fun r => r.src.sheetBlocks).getD 1)
  (List.range ((hi + n - 1) / n - lo / n)).map fun j => srcBit + lo / n + j

/-- Whether a reshape is paused now. -/
def pausedNow (s : State) (g : Nat) : Bool :=
  let n := match windowNext s g with | some w => w.2 - w.1 | none => 0
  pauseRb s g || pauseCeil s n || pauseState s

/-- The reshape of a signature. -/
def updRs (g : Nat) (f : Reshape → Reshape) (s : State) : State := s.updSig g fun x => { x with rs := x.rs.map f }
def updWin (g : Nat) (f : CopyWin → CopyWin) (s : State) : State := updRs g (fun r => { r with win := r.win.map f }) s

/-- WINDOW_CLAIM (step 1): nothing is in flight on the window's sheets; its blocks are frozen; one journal entry for each target
sheet; the region bits are set. Copyback items go before it. -/
def doWindowClaim (g : Nat) (s : State) : State :=
  match (s.sigSt g).rs, windowNext s g with
  | some r, some (lo, hi) =>
    let busy := (winTargets s g lo hi ++ winSources s g lo hi).any fun t => sheetBusy s g t
    let copyback := (s.sigSt g).k.ents.any fun e => e.2.st == .copyback
    let todo := (winTargets s g lo hi).filter fun t => !skipSheet s g t
    if r.win.isSome ∨ !(s.sigSt g).inService ∨ busy ∨ copyback ∨ pausedNow s g ∨ s.upds.length + todo.length > 4096 then s
    else
      let s := updRs g (fun r => { r with begun := true, paused := false, win := some { lo := lo, hi := hi, step := 1 } }) s
      let k := ((impOf s g).map (·.k)).getD 0
      todo.foldl (fun s t =>
        startUpd { sig := g, sheet := t, kind := .window, fresh := true, begun := s.core.imp, writes := (List.range (k + 2)).map fun p => (p, wholeFolio s g t) } s) s
  | _, _ => s

/-- The updates of the window in flight. -/
def winUpds (s : State) (g : Nat) : List (Nat × Upd) := s.upds.filter fun u => u.2.sig == g && u.2.kind == .window

/-- What one offset of a source sheet gives: values by data position, and losses; none while a read is missing. -/
def winOff (s : State) (g t : Nat) (reads : List RdOffset) (b : Nat) : Option (List (Nat × RdVal) × List Nat × List (Nat × Blk × Bool)) :=
  let vs := lookAt s g t b [] (gotAt reads b)
  let k := vs.length - 2
  let owed := owedPos vs
  let data (p : Nat) (x : Blk) : Nat × RdVal := (lbnAt s g t p b, ⟨x, (vs.getD p .zero).never, false⟩)
  if (lostData vs).isEmpty ∧ owed.all fun p => decide (p ≥ k) then
    some ((List.range k).map fun p => data p ((vs.getD p .zero).blk?.getD 0), [], [])
  else if !owed.isEmpty then none
  else match solveAt true vs with
    | some y =>
      let zeros := unknownZeros s g vs y
      some ((List.range k).map fun p => if zeros.contains p then (lbnAt s g t p b, ⟨0, true, false⟩) else data p (solvedAt y p), zeros,
        (badPos vs).filterMap fun q => if q.1 < k && !zeros.contains q.1 then some (q.1, solvedAt y q.1, q.2) else none)
    | none =>
      some ((List.range k).map fun p => if (vs.getD p .zero).lost then (lbnAt s g t p b, ⟨0, true, false⟩) else data p ((vs.getD p .zero).blk?.getD 0), lostData vs, [])

/-- WINDOW_READ_COMPLETE (step 2): the source sheets are read, verified and reconstructed; the Case overlays them. -/
def doWindowReadComplete (g : Nat) (reads : List (Nat × List RdOffset)) (s : State) : State :=
  match (s.sigSt g).rs.bind (·.win) with
  | none => s
  | some w =>
    if w.step ≠ 1 then s
    else
      let of (t : Nat) : List RdOffset := ((reads.find? fun r => r.1 == t % srcBit).map (·.2)).getD []
      let srcs := (winSources s g w.lo w.hi).filter fun t => !skipSheet s g t
      let rs := srcs.flatMap fun t => (liveOffsets s g t).map fun b => (t, b, winOff s g t (of t) b)
      if rs.any fun r => r.2.2.isNone then s
      else
        let rs := rs.filterMap fun r => r.2.2.map fun y => (r.1, r.2.1, y)
        let hb := rs.flatMap fun r => r.2.2.2.1.map fun p => lbnAt s g r.1 p r.2.1
        let s := if hb.isEmpty then s else hbAdd g 1 hb s
        let failed := ((rs.flatMap fun r => r.2.2.2.2.map fun f => (r.1, f.1, f.2.2)).eraseDups)
        let s := failed.foldl (fun s f => countFix g f.1 f.2.1 f.2.2 s) s
        let read : NMap RdVal := rs.foldl (fun m r => r.2.2.1.foldl (fun m v => nset v.1 v.2 m) m) []
        let value (l : Nat) : RdVal :=
          if inHb s g l then ⟨0, true, false⟩
          else match cellAt s g l with
            | some c => ⟨c.data, c.never, false⟩
            | none => if (zoneOfLbn s g l).any fun k => !inExtent s k l then ⟨0, true, false⟩ else ngetD l ⟨0, true, false⟩ read
        let n := max 1 (((impOf s g).map (·.sheetBlocks)).getD 1)
        let ups := winUpds s g
        let blocks : NMap RdVal := ups.flatMap fun u => (List.range n).map fun o => (u.2.sheet * n + o, value (u.2.sheet * n + o))
        let s := { s with upds := nmapv (fun _ u => if u.sig = g ∧ u.kind = .window then { u with data := (List.range n).map fun o => (o, value (u.sheet * n + o)) } else u) s.upds }
        judgeRetire g (updWin g (fun w => { w with step := 2, blocks := blocks }) s)

/-- The target P and Q of one journal entry of a window (R101). -/
def winParity (s : State) (u : Upd) : Upd :=
  let k := sheetK s u.sig u.sheet
  let fb := sheetFb s u.sig u.sheet
  { u with st := .parity, par := (List.range fb).map fun b =>
      let vs := (List.range k).map fun p => ngetD (p * fb + b) ⟨0, true, false⟩ u.data
      (b, parityP (vs.map (·.data)), parityQ (vs.map (·.data)), vs.all (·.never)) }

/-- Where a target folio of a window goes: as usual; for a failed member whose target-layout entry has a target and is not in
REBUILD, to its spare or direct place (R212). -/
def winPlace (s : State) (g t p : Nat) : Option (Nat × Nat) :=
  match impOf s g with
  | none => none
  | some i =>
    let d := i.driveAt t p
    if (memOf s g d).failed then
      ((s.sigSt g).k.ents.find? fun e => e.2.drive == d && !e.2.old && (e.2.st == .rebuilt || e.2.st == .copyback || (e.2.st == .format && e.2.prev == .rebuilt))).bind
        fun e => if e.2.st == .copyback && portServes s i d then some (d, i.dataPos t p) else placeOf s g e.2 t
    else locate s g t p false

/-- Issue every folio write of one journal entry of a window. -/
def winWrite (id : Nat) (s : State) : State :=
  match nfind id s.upds with
  | none => s
  | some u =>
    let s := { s with upds := nset id { u with st := .ready } s.upds }
    u.writes.foldl (fun s w =>
      let k := sheetK s u.sig u.sheet
      if w.1 < k ∧ absentFolio s u.sig u.sheet w.1 then folioDone id w.1 s
      else match winPlace s u.sig u.sheet w.1 with
        | some at_ => writeAt (.upd id) u.sig u.sheet w.1 at_ (updBlocks s u w.1 w.2) s
        | none => folioDone id w.1 (noteMissed u.sig u.sheet w.1 s)) s

/-- WINDOW_PARITY_COMPLETE (steps 3 and 4): the target parity is computed; once the region bits are durable every folio write is
issued. -/
def doWindowParityComplete (g : Nat) (s : State) : State :=
  match (s.sigSt g).rs.bind (·.win) with
  | none => s
  | some w =>
    if w.step ≠ 2 ∧ w.step ≠ 3 then s
    else
      let s := { s with upds := nmapv (fun _ u => if u.sig = g ∧ u.kind = .window ∧ u.st = .prep then winParity s u else u) s.upds }
      let s := updWin g (fun w => { w with step := 3 }) s
      if (winUpds s g).all fun u => (regionsOf s g u.2.sheet).all fun r => durable s g r then
        let ids := (winUpds s g).map (·.1)
        ids.foldl (fun s i => winWrite i s) (updWin g (fun w => { w with step := 4 }) s)
      else s

/-- Where the boundary stands after the window. -/
def nextBound (r : Reshape) (w : CopyWin) : Nat := if r.up then w.hi else w.lo

/-- The checkpoint that a window's end writes (Table 8.2). -/
def ckptOf (s : State) (g : Nat) (r : Reshape) (b gen : Nat) (done : Bool) : Ckpt :=
  let dst := ((impOf s g).map (·.hash)).getD []
  let next := match (impOf s g).bind fun i => nextWindow r.src i r.up b r.z with | some w => (if r.up then w.2 else w.1) | none => b
  { gen := gen, done := done, down := !r.up, src := r.src.hash, dst := dst, b := b, z := r.z, next := next }

/-- Send a checkpoint to every holder. -/
def sendCkpt (g : Nat) (c : Ckpt) (s : State) : State :=
  (s.sigSt g).holders.foldl (fun s d => s.emit (.drvCkpt (((impOf s g).map fun i => i.portOf d).getD 0) c)) s

/-- Keep a checkpoint in the halves in service. -/
def storeCkpt (g : Nat) (c : Ckpt) (s : State) : State := s.eachHalf fun h => { h with cks := nset g c h.cks }

/-- WINDOW_WRITE_COMPLETE (step 4 ends, step 5 begins): every entry has retired; the checkpoint with the new B is issued. -/
def doWindowWriteComplete (g : Nat) (s : State) : State :=
  match (s.sigSt g).rs with
  | none => s
  | some r =>
    match r.win with
    | none => s
    | some w =>
      if w.step ≠ 4 ∨ !drivesRun s.core.mode then s
      else
        let ids := (winUpds s g).map (·.1)
        let s := ids.foldl (fun s i =>
          let cs := s.drvs.flatMap fun d => (d.2.cmds.filter fun c => c.2.use == .upd i).map fun c => (d.1, c.1, c.2.pos)
          cs.foldl (fun s c => folioDone i c.2.2 (finishCmd c.1 c.2.1 s)) s) s
        if !(winUpds s g).isEmpty then s
        else sendCkpt g (ckptOf s g r (nextBound r w) (r.wgen + 1) false) (updWin g (fun w => { w with step := 5 }) s)

/-! ### Release and end (R210 to R212) -/

/-- A window has been released: the entries of both layouts take their new ranges (R212). -/
def moveRanges (g : Nat) (s : State) : State :=
  match (s.sigSt g).rs, impOf s g with
  | some r, some i =>
    let cut := s.sigSt g
    let tb := r.b / max 1 i.sheetBlocks
    let sb := r.b / max 1 r.src.sheetBlocks
    let s := cut.k.ents.foldl (fun s p =>
      updEnt g p.1 (fun e =>
        if e.old then (if r.up then { e with low := max e.low sb, n := max e.n sb, y := max e.y sb } else { e with high := min e.high sb, n := min e.n sb })
        else
          let along := e.st == .rebuilt || e.st == .copyback || (e.st == .format && e.prev == .rebuilt)
          if r.up then { e with high := tb, n := if along then tb else e.n }
          else { e with low := tb, n := if along then e.n else min e.n tb, y := if e.st == .copyback then e.y else tb }) s) s
    ((s.sigSt g).k.ents.filter fun p => p.2.old && decide (p.2.low ≥ p.2.high)).foldl (fun s p => freeEnt g p.1 s) s
  | _, _ => s

/-- The lines of a released window become clean; its shadows are dirty from now on, in the layout now in force (R208). -/
def releaseLines (g : Nat) (w : CopyWin) (s : State) : Option State :=
  let clean (x : Line) : Line :=
    if x.kind = 0 ∧ x.sig = g then
      { x with cells := x.cells.map fun c => let l := x.num * 128 + c.1; if w.lo ≤ l ∧ l < w.hi ∧ c.2.upd.isNone then (c.1, { c.2 with dirty := false, wt := false }) else c }
    else x
  let nums := ((allLines s).filter fun x => x.kind == 0 && x.sig == g && decide (x.num * 128 < w.hi) && decide (w.lo < x.num * 128 + 128)).map (·.num)
  let s := { s with cs.tags := s.cs.tags.map fun p => (p.1, clean p.2), cs.evb := s.cs.evb.map fun p => (p.1, { p.2 with line := clean p.2.line }) }
  let s := nums.foldl (fun s n => settleLine g n s) s
  putBlocks g false false (w.shadow.map fun x => (x.1, x.2.1)) s

/-- R210: the galley of every open zone whose write pointer has passed to the target side is re-formed from the window. -/
def reformGalleys (g : Nat) (w : CopyWin) (s : State) : State :=
  (s.zn.zones.filter fun z => z.2.isOpen && nsSig s (z.1 / 2 ^ 32) == g).foldl (fun s z =>
    let wp := zoneLbn s z.1 + z.2.fill
    if w.lo ≤ wp ∧ wp < w.hi then
      match galleySheet s z.1 with
      | some t =>
        let sp := sheetSpan s g t
        let s := (w.blocks.filter fun b => decide (sp.1 ≤ b.1 ∧ b.1 < wp) && !b.2.never).foldl (fun s b => fillBlock g b.1 b.2 true s) s
        retainSheet true g t s
      | none => s
    else s) s

/-- The bitmap takes the target numbering (R211 step 3). -/
def convertBits (src dst total : Nat) (bits : List Nat) : List Nat :=
  (List.range ((total + dst - 1) / max 1 dst)).filter fun r => bits.any fun b => decide (b * src < (r + 1) * dst) && decide (r * dst < (b + 1) * src)

/-- The last window has been released (R211). -/
def finishReshape (g : Nat) (r : Reshape) (s : State) : State :=
  match impOf s g with
  | none => s
  | some i =>
    let srcPer := regionBlocks s g
    let bMin := ((List.range i.n).map fun d => (s.drivePort (i.portOf d)).blocks).filter fun b => b != 0
    let bMin := match bMin with | [] => (s.sigSt g).bMin | b :: bs => bs.foldl min b
    let s := s.updSig g fun x => { x with bMin := bMin, cycles := i.cyclesFor bMin, sheets := i.sheetsFor bMin, rs := none }
    -- REGION_GIB of the committed image comes into force
    let s := match s.img.eff, s.img.cur with
      | some e, some c => { s with img.eff := some { e with pars := match nfind g e.pars, nfind g c.pars with
          | some a, some b => nset g { a with regionGib := b.regionGib } e.pars
          | _, _ => e.pars } }
      | _, _ => s
    let s := writeAllLabels g (List.range i.n) i none s
    let c := { ckptOf s g r r.b r.wgen true with next := r.b }
    let s := sendCkpt g c (storeCkpt g c s)
    let dstPer := regionBlocks s g
    let conv := convertBits srcPer dstPer ((s.sigSt g).sheets * i.sheetBlocks)
    let s := s.updSig g fun x => { x with
      pendingSet := true, commit := none
      quiet := [], k := { x.k with bits := convertBits srcPer dstPer (x.sheets * i.sheetBlocks) x.k.bits
                                   proofPos := 0
                                   ents := nmapv (fun _ e => { e with low := 0, high := x.sheets, n := if e.n == e.high then x.sheets else e.n, y := if e.st == .copyback then e.y else 0 }) x.k.ents
                                   mems := (x.k.mems.filter fun m => m.1 < i.n).map fun m => (m.1, { m.2 with missed := conv m.2.missed, cpos := 0 }) }
      doneBits := [] }
    let gone := (List.range r.src.n).filter fun d => d ≥ i.n
    let s := if gone.isEmpty then s else
      (gone.foldl (fun s d => (s.emit (.drvUnlabel (r.src.portOf d))).updDrv (r.src.portOf d) fun x => { x with inService := false }) s).raise Reg.Sig.RS_REMOVED g
    let s := { s with img.retained := ndel g s.img.retained }
    let s := s.eachHalf fun h => { h with img := h.img.map fun c => { c with retained := ndel g c.retained } }
    (s.raise Reg.Sig.RS_DONE g).log 0x6008 (srcSig g) ([4] ++ leBytes 8 r.b)

/-- WINDOW_CHECKPOINT_DURABLE (steps 5 and 6): B advances, the window is released; an absent member is declared failed (R231). -/
def doWindowCheckpointDurable (g : Nat) (s : State) : State :=
  match (s.sigSt g).rs with
  | none => s
  | some r =>
    match r.win with
    | none => s
    | some w =>
      if w.step ≠ 5 then s
      else
        let b := nextBound r w
        let moved := updRs g (fun r => { r with b := b, wgen := r.wgen + 1, win := none, doneAt := s.core.imp :: recent s.core.imp r.doneAt }) (storeCkpt g (ckptOf s g r b (r.wgen + 1) false) s)
        match releaseLines g w moved with
        | none => s.bump Reg.Cc.FRAME_WAITS
        | some s =>
          let s := moveRanges g (reformGalleys g w s)
          let away := ((s.sigSt g).k.mems.filter fun m => !m.2.failed && m.2.absentAt.isSome).map (·.1)
          let s := away.foldl (fun s d => declare g d 6 s) s
          match (s.sigSt g).rs with
          | some r => if (r.up ∧ r.b ≥ r.z) ∨ (!r.up ∧ r.b = 0) then finishReshape g r s else s
          | none => s

def execWindowClaim (g : SigIx) (s : State) : Host.Outcome State Fault Refusal := .next (whenOn (doWindowClaim g.val) s)
def execWindowReadComplete (g : SigIx) (r : List (Nat × List RdOffset)) (s : State) : Host.Outcome State Fault Refusal :=
  .next (whenOn (doWindowReadComplete g.val r) s)
def execWindowParityComplete (g : SigIx) (s : State) : Host.Outcome State Fault Refusal := .next (whenOn (doWindowParityComplete g.val) s)
def execWindowWriteComplete (g : SigIx) (s : State) : Host.Outcome State Fault Refusal := .next (whenOn (doWindowWriteComplete g.val) s)
def execWindowCheckpointDurable (g : SigIx) (s : State) : Host.Outcome State Fault Refusal := .next (whenOn (doWindowCheckpointDurable g.val) s)

end Sys2Proof.Machine
end

