-- ==== Sys2Proof/Machine/DrivePorts.lean ====
section
/-!
DEFINITION. Drive ports (chapter 9): links, the recovery ladder, self-tests of the link, presence and power, classification,
short absence and catch-up, and formats.
-/

namespace Sys2Proof.Machine

/-! ### Replacement and formatting (R195, R196, R233, R234) -/

/-- Whether the drives of a signature are SATA (R92). -/
def sigSata (i : Imposition) : Bool := i.packed

/-- Blocks of the footprint on a member (R100), and its runs in packed check mode. -/
def footprintBlocks (s : State) (g : Nat) (i : Imposition) : Nat := (s.sigSt g).cycles * i.cStride * i.fb
def footprint (s : State) (g : Nat) (i : Imposition) : Nat :=
  if i.packed then (footprintBlocks s g i + 62) / 63 * 64 else footprintBlocks s g i

/-- A format begins: FORMAT UNIT, or the first run of a SATA format. -/
def beginFormat (p g : Nat) (ent : Option Nat) (d : Nat) (s : State) : State :=
  let sata := (s.drivePort p).sata
  let s := (s.updDrv p fun x => { x with fmt := some ⟨g, ent, d, s.core.imp, 0, false⟩, isNew := true }).put Reg.Drv.FORMAT_PCT 0 p
  if sata then s else s.emit (.drvFormat p)

/-- Change every entry of a member. -/
def updEntsOf (g d : Nat) (f : FailEnt → FailEnt) (s : State) : State :=
  (s.sigSt g).k.ents.foldl (fun s e => if e.2.drive = d then updEnt g e.1 f s else s) s

/-- A replacement is refused (R196). -/
def refuseReplacement (g d p reason : Nat) (s : State) : State := (s.raise Reg.Sig.REPL_REFUSED g).log 0x6007 (srcSig g d) [p, reason]

/-- A new drive goes to the failure entries of the member of its port (R196). -/
def handOver (p : Nat) (s : State) : State :=
  match memberAt s p with
  | none => s
  | some (g, d) =>
    match impOf s g with
    | none => s
    | some i =>
      let x := s.drivePort p
      let es := (s.sigSt g).k.ents.filter fun e => e.2.drive == d
      let base := (i.members.getD d ⟨0, 0⟩).base
      if !(memOf s g d).failed ∨ es.isEmpty ∨ s.core.mode = .maintenance ∨ !(s.sigSt g).inService then s
      else if x.sata != sigSata i then refuseReplacement g d p 1 s
      else if x.blocks < base + footprint s g i + 256 then refuseReplacement g d p 2 s
      else if es.any fun e => (e.2.st == .wait || (e.2.st == .rebuild && !e.2.direct && !e.2.repl) || e.2.st == .rebuilt) then
        let s := updEntsOf g d (fun e => if e.st == .wait || e.st == .rebuild || e.st == .rebuilt then { e with prev := e.st, st := .format } else e) s
        beginFormat p g (es.head?.map (·.1)) d s
      else s

/-- A format fails: the drive is unlabelled and unused, the entry returns to its state (R196, R229, R234). -/
def formatFails (p : Nat) (s : State) : State :=
  match (s.drivePort p).fmt with
  | none => s
  | some f =>
    let s := s.updDrv p fun x => { x with fmt := none, row := 8 }
    let s := if (s.drivePort p).identified then s.emit (.drvUnlabel p) else s
    let s := refuseReplacement f.sig f.index p 3 (s.log 0x7005 p [1])
    if f.ent.isSome then updEntsOf f.sig f.index (fun e => if e.st == .format then { e with st := e.prev } else e) s
    else s.updSig f.sig fun x => { x with creating := false, heldOut := true }

/-- A formatted replacement serves its entry (Table 7.4). -/
def replacementReady (g d p : Nat) (s : State) : State :=
  let s := s.updDrv p fun x => { x with fmt := none, failed := false, isNew := false, inService := true, row := 7 }
  let s := match impOf s g with
    | some i => writeAllLabels g [d] i ((s.sigSt g).rs.map fun _ => i.hash) s
    | none => s
  let s := setMem g d { memOf s g d with identity := (s.drivePort p).identity } s
  updEntsOf g d (fun e =>
    if e.st ≠ .format then e
    else match e.prev with
      | .wait => { e with st := .rebuild, direct := true, n := e.low }
      | .rebuild => { e with st := .rebuild, repl := true }
      | .rebuilt => { e with st := .copyback, y := e.low }
      | _ => { e with st := e.prev }) s

/-- Runs of a SATA format (R99, R233). -/
def formatRuns (s : State) (f : Fmt) : Nat :=
  match impOf s f.sig with
  | some i => footprint s f.sig i / 64
  | none => 0

/-- SATA_FORMAT_ITEM: the next command of a SATA format, 1 024 runs, or 128 on a drive of 512-byte sectors (R233). -/
def doSataFormatItem (p : Nat) (s : State) : State :=
  let x := s.drivePort p
  match x.fmt with
  | none => s
  | some f =>
    let total := formatRuns s f
    if !x.sata ∨ !runsC6 s.core.mode ∨ f.run ≥ total then s
    else
      let n := min (if x.sec512 then 128 else 1024) (total - f.run)
      let base := ((impOf s f.sig).map fun i => (i.members.getD f.index ⟨0, 0⟩).base).getD 0
      let s := (s.updDrv p fun x => { x with fmt := some { f with run := f.run + n } }).put Reg.Drv.FORMAT_PCT ((f.run + n) * 100 / max 1 total) p
      s.emit (.drvZero p (base + 64 * f.run) (64 * n))

/-- FORMAT_POLL: the progress of a SAS format (R233). -/
def doFormatPoll (p pct : Nat) (s : State) : State :=
  let x := s.drivePort p
  if x.fmt.isSome ∧ !x.sata then s.put Reg.Drv.FORMAT_PCT (min 100 pct) p else s

/-- FORMAT_COMPLETE: the zero blocks of Table 4.3 are written, FORMAT_DONE is set, the labels follow (R196, R233). A member of a new
signature waits for the others (R229). -/
def doFormatComplete (p : Nat) (s : State) : State :=
  let x := s.drivePort p
  match x.fmt with
  | none => s
  | some f =>
    if f.done ∨ (x.sata ∧ f.run < formatRuns s f) ∨ !drivesRun s.core.mode then s
    else
      let s := (s.emit (.drvZero p 1 255)).emit (.drvZero p (x.blocks - 255) 255)
      let s := (((s.put Reg.Drv.FORMAT_PCT 100 p).raise Reg.Drv.FORMAT_DONE p)).log 0x7005 p [0]
      if f.ent.isSome then replacementReady f.sig f.index p s
      else s.updDrv p fun x => { x with fmt := some { f with done := true } }

/-- FORMAT_TIMEOUT: 72 h (R233). -/
def doFormatTimeout (p : Nat) (s : State) : State :=
  match (s.drivePort p).fmt with
  | some f => if !f.done ∧ s.since f.at_ ≥ 72 * 450000000 then formatFails p s else s
  | none => s

/-! ### Absence (R230, R231, R473) -/

/-- A member becomes absent. A replacement that goes away is declared failed, for it keeps no absence set. -/
def makeAbsent (p : Nat) (s : State) : State :=
  match memberAt s p with
  | none => s
  | some (g, d) =>
    let m := memOf s g d
    let ran := (s.drivePort p).inService
    if !(s.sigSt g).inService ∧ !drivesRun s.core.mode then s.updDrv p fun x => { x with inService := false }
    else if m.failed then (if ran then declare g d 6 (s.updDrv p fun x => { x with identified := false }) else s)
    else if m.absentAt.isSome ∧ !m.catching then s
    else
      let s := setMem g d { m with absentAt := some s.core.opImp, limit := s.get Reg.DrvG.ABSENT_LIMIT, catching := false, linkDown := false } s
      let s := addDead g d (dropDrive g d true s)
      (s.updSig g fun x => { x with pendingClear := true }).log 0x7004 p ([0] ++ leBytes 4 (memOf s g d).missed.length)

/-- The drive of a port goes: the port has no identified drive (R219), a ladder is abandoned (R222), a format fails (R234). -/
def driveGone (p : Nat) (s : State) : State :=
  let s := makeAbsent p (formatFails p s)
  let s := endPortCmds false p s
  (s.updDrv p fun x => { x with identified := false, qdepth := 0, ladder := none, test := none, testDue := false, ownReset := false, inService := false, bringing := false, row := 0 }).put Reg.Drv.CMD_TIMEOUT 0 p

/-- PRESENT_WRITE (R225, R226, R230). -/
def doPresentWrite (p : Nat) (v : Bool) (s : State) : State :=
  let was := s.bit Reg.Drv.PRESENT p
  let s := s.putB Reg.Drv.PRESENT v p
  if was = v then s
  else if v then
    let s := s.updDrv p fun x => { x with bringups := 0, cap := 3, testRate := 0, bringing := s.bit Reg.Drv.PWR_ON p, pwrAt := s.core.imp }
    if !s.bit Reg.Drv.PWR_ON p ∧ !(s.drivePort p).failed then (s.put Reg.Drv.SPINUP_REQ 1 p).ibi 2 else s
  else (driveGone p (s.put Reg.Drv.SPINUP_REQ 0 p)).updDrv p fun x => { x with bringups := 0, failed := false, isNew := false }

/-- PWR_ON_WRITE (R225, R226). -/
def doPwrOnWrite (p : Nat) (v : Bool) (s : State) : State :=
  let was := s.bit Reg.Drv.PWR_ON p
  let s := s.putB Reg.Drv.PWR_ON v p
  if v then
    let s := s.put Reg.Drv.SPINUP_REQ 0 p
    if was then s else s.updDrv p fun x => { x with pwrAt := s.core.imp, bringing := s.bit Reg.Drv.PRESENT p }
  else if !was then s
  else
    let s := driveGone p s
    if s.bit Reg.Drv.PRESENT p ∧ !(s.drivePort p).failed then (s.put Reg.Drv.SPINUP_REQ 1 p).ibi 2 else s

/-- ABSENT_LIMIT_EXPIRED (R231): judged on operating time, never in MAINTENANCE. -/
def doAbsentLimitExpired (g d : Nat) (s : State) : State :=
  let m := memOf s g d
  match m.absentAt with
  | some t => if drivesRun s.core.mode ∧ !m.failed ∧ s.core.opImp - t ≥ m.limit * 125000 then declare g d 6 s else s
  | none => s

/-- The next sheet a returning member catches up, in the lowest region of its absence set (R232). -/
def nextCatch (s : State) (g d : Nat) : Option (Nat × Option Nat) :=
  let m := memOf s g d
  m.missed.head?.map fun r => (r, nextInRegion s g r m.cpos fun t => (layOf s g t).any fun x => rowHolds x.1 x.2 d)

/-- A region has been caught up. -/
def caughtUp (g d r : Nat) (s : State) : State :=
  let m := memOf s g d
  let left := m.missed.erase r
  let s := (setMem g d { m with missed := left, cpos := 0, catching := !left.isEmpty } s).updSig g fun x => { x with pendingClear := true }
  if left.isEmpty then
    (s.raise Reg.Drv.CATCHUP_DONE (memPort s g d)).log 0x7004 (memPort s g d) ([1] ++ leBytes 4 0)
  else s

/-- CATCHUP_ITEM: one sheet, placed as a rebuild item with target direct (R232). -/
def doCatchupItem (g d t : Nat) (reads : List RdOffset) (s : State) : State :=
  if !(memOf s g d).catching ∨ !(s.sigSt g).inService ∨ !runsC5 s.core.mode then s
  else match nextCatch s g d with
    | none => s
    | some (r, none) => caughtUp g d r s
    | some (r, some u) =>
      if u ≠ t ∨ sheetBusy s g t ∨ resyncWaits s g t then s
      else match layOf s g t with
        | none => s
        | some (i, x) =>
          match i.posIn x d with
          | none => s
          | some p =>
            let next (s : State) : State :=
              let s := setMem g d { memOf s g d with cpos := t + 1 } s
              match nextCatch s g d with | some (_, none) => caughtUp g d r s | _ => s
            if p < i.k ∧ absentFolio s g t p then next s
            else match rbSheet s g t [p] reads with
              | none => s
              | some rs => next (writeAt .other g t p (d, i.dataPos x p) (rbBlocks rs p) (rbSettle g t rs s))

/-! ### Links (R216, R223, R224, R227, R473) -/

/-- Code of a link rate (Table 9.5). -/
def rateCode : LinkRate → Nat
  | .down => 0 | .slow => 1 | .mid => 2 | .fast => 3

/-- Start a link self-test once nothing is outstanding (R223). -/
def tryTest (p : Nat) (s : State) : State :=
  let x := s.drivePort p
  if x.testDue ∧ x.test.isNone ∧ x.ladder.isNone ∧ x.cmds.isEmpty then
    let s := s.updDrv p fun x => { x with test := some s.core.imp, testDue := false, ownReset := true }
    ((s.bump Reg.Drv.LINK_TESTS 1 p).bump Reg.Drv.LINK_RESETS 1 p).emit (.drvLink p x.rate)
  else s

/-- A self-test becomes due. -/
def askTest (p : Nat) (s : State) : State :=
  if (s.drivePort p).test.isSome then s else tryTest p (s.updDrv p fun x => { x with testDue := true })

/-- The link of a port is lost (R473): the member is link-down. -/
def linkGone (p : Nat) (s : State) : State :=
  let s := (s.updDrv p fun x => { x with rate := 0, downAt := some s.core.imp, ownReset := false }).raise Reg.Drv.LINK_CHANGE p
  match memberAt s p with
  | some (g, d) =>
    if (s.drivePort p).inService ∧ !(memOf s g d).failed then
      let s := setMem g d { memOf s g d with linkDown := true } s
      endPortCmds true p (s.updDrv p fun x => { x with inService := false })
    else endPortCmds false p s
  | none => endPortCmds false p s

/-- DRIVE_LINK_UP: a link that the module reset itself resumes; otherwise the drive is identified (R227). -/
def doDriveLinkUp (p : Nat) (r : LinkRate) (s : State) : State :=
  let x := s.drivePort p
  let runs := drivesRun s.core.mode || (s.core.mode == .maintenance && s.core.prev != .keyWait)
  if r = .down ∨ !runs ∨ !s.bit Reg.Drv.PRESENT p ∨ !s.bit Reg.Drv.PWR_ON p then s
  else
    let code := min (rateCode r) x.cap
    let s := s.updDrv p fun x => { x with rate := code, downAt := none, upAt := s.core.imp }
    let s := if s.bit Reg.Drv.PORT_RESET p then s.settle Reg.Drv.PORT_RESET p else s
    let s := s.raise Reg.Drv.LINK_CHANGE p
    if x.ownReset ∧ x.identified then (if x.test.isSome then s else pump p (s.updDrv p fun x => { x with ownReset := false }))
    else
      let s := s.updDrv p fun x => { x with identified := false, qdepth := 0, ownReset := false, bringing := true, row := 0 }
      (s.put Reg.Drv.CMD_TIMEOUT 0 p).emit (.drvIdentify p)

/-- DRIVE_LINK_LOSS. -/
def doDriveLinkLoss (p : Nat) (s : State) : State :=
  let x := s.drivePort p
  if x.rate = 0 ∨ x.ownReset then s else linkGone p s

/-- LINK_CRC_BURST: more than 32 CRC errors within 1 s ask for a self-test; a second burst within 60 s of a passed test steps
the rate down first (R223, R224). -/
def stepRate (p : Nat) (s : State) : State :=
  let x := s.drivePort p
  let low := if x.sata then x.testRate ≥ 1 else x.rate ≤ 1
  if low then
    let s := s.updDrv p fun x => { x with test := none, testDue := false }
    linkGone p (if s.bit Reg.Drv.LINK_TEST p then s.settle Reg.Drv.LINK_TEST p else s)
  else
    let s := s.updDrv p fun x => { x with rate := if x.sata then x.rate else x.rate - 1, cap := if x.sata then x.cap else x.rate - 1
                                          testRate := if x.sata then 1 else x.testRate, test := none, testDue := true }
    tryTest p (s.raise Reg.Drv.RATE_DOWN p)

def doLinkCrcBurst (p n : Nat) (s : State) : State :=
  let s := s.bump Reg.Drv.CRC_ERR n p
  let x := s.drivePort p
  if n ≤ 32 ∨ x.rate = 0 ∨ x.test.isSome then s
  else if x.passAt.any fun t => s.since t ≤ 7500000 then stepRate p s
  else askTest p s

/-- LINK_TEST is written (R223). -/
def doLinkTest (p : Nat) (s : State) : State :=
  let s := s.ask Reg.Drv.LINK_TEST p
  if (s.drivePort p).rate = 0 then s.settle Reg.Drv.LINK_TEST p else askTest p s

/-- LINK_SELF_TEST_END: 20 ms of idle dwords; no code violation and at most 2 CRC errors pass (R223). -/
def doLinkSelfTestEnd (p cv crc : Nat) (s : State) : State :=
  let x := s.drivePort p
  match x.test with
  | none => s
  | some t =>
    if s.since t < 2500 then s
    else
      let s := s.bump Reg.Drv.CRC_ERR crc p
      if cv = 0 ∧ crc ≤ 2 then
        let s := s.updDrv p fun x => { x with test := none, ownReset := false, passAt := some s.core.imp }
        let s := if s.bit Reg.Drv.LINK_TEST p then s.settle Reg.Drv.LINK_TEST p else s
        pump p (s.log 0x7002 p [0, x.rate])
      else stepRate p (s.log 0x7002 p [1, x.rate])

/-- PORT_RESET: a link reset as ladder step 3 (Table 9.5); the rate reached by stepping down is given up. -/
def doDrivePortReset (p : Nat) (s : State) : State :=
  let own (F : FieldSpec) : Bool := decide (F.kind = RstKind.cmwp) && F.base / 65536 == 0x40 && F.n1 * F.n2 == 128
  let reset (r : Regs) (F : FieldSpec) : Regs := if own F then rput F p F.rst r else r
  let s := { s with rf.regs := Reg.allFields.foldl reset s.rf.regs, rf.latches := ndel (Reg.Drv.DRV_ID_HI.addr p) (ndel (Reg.Drv.CAP_HI.addr p) s.rf.latches) }
  let s := (s.ask Reg.Drv.PORT_RESET p).bump Reg.Drv.LINK_RESETS 1 p
  let x := s.drivePort p
  let s := s.updDrv p fun x => { x with ownReset := true, cap := 3, testRate := 0, test := none, testDue := false }
  if x.rate = 0 then (s.settle Reg.Drv.PORT_RESET p).emit (.drvLink p 3) else s.emit (.drvLink p 3)

/-- BRINGUP_TIMEOUT: 30 s without a link, or 60 s without an identified drive (R227). -/
def doBringupTimeout (p : Nat) (s : State) : State :=
  let x := s.drivePort p
  let late := (x.rate = 0 && s.since x.pwrAt ≥ 3750000) || (x.rate != 0 && !x.identified && s.since x.upAt ≥ 7500000)
  if x.bringing ∧ late ∧ drivesRun s.core.mode ∧ s.bit Reg.Drv.PRESENT p ∧ s.bit Reg.Drv.PWR_ON p then
    let s := (s.updDrv p fun x => { x with bringing := false, bringups := x.bringups + 1 }).raise Reg.Drv.CYCLE_REQ p
    let s := s.ibi 2
    if x.bringups + 1 ≥ 2 then ((s.updDrv p fun x => { x with row := 8 }).raise Reg.Drv.BRINGUP_FAIL p).log 0x7006 p else s
  else s

/-! ### Meeting a drive (R111, R227, R228) -/

/-- The label copy in use of two (R111), with whether it is copy B, and whether the other one is to be rewritten. -/
def labelInUse (id : Nat) (a b : LabelCopy) : Option (LabelCopy × Bool × Bool) :=
  let ok (l : LabelCopy) : Bool := l.crcOk && l.driveId == id
  if ok a && ok b then (if b.gen > a.gen then some (b, true, true) else some (a, false, decide (b.gen < a.gen)))
  else if ok a then some (a, false, true)
  else if ok b then some (b, true, true) else none

/-- Row of Table 9.3. -/
def classRow (s : State) (p : Nat) (d : DriveInfo) (l : Option LabelCopy) : Nat :=
  let sigOf (x : LabelCopy) : Option (Nat × Imposition) := (imgOf s).bind fun m => m.imps.find? fun i => i.2.identity == x.sigIdentity
  let here (x : LabelCopy) (g : Nat) : Bool := decide (x.driveIndex < (membersOf s g).length) && memPort s g x.driveIndex == p
  let wrongType := l.any fun x => (sigOf x).any fun y => here x y.1 && d.sata != sigSata y.2
  if !d.meetsR217 ∨ wrongType then 1
  else if s.sigs.any fun x => x.2.k.deadIds.contains d.identity then 2
  else match l with
    | none => 3
    | some x =>
      if s.bit Reg.Drv.CLAIM p then 3
      else match sigOf x with
        | none => 4
        | some (g, _) =>
          if !here x g then 5
          else
            let m := memOf s g x.driveIndex
            if m.linkDown ∨ (!m.failed ∧ m.absentAt.any fun t => s.core.opImp - t < m.limit * 125000) then 6
            else if s.core.mode = .assemble ∧ (!m.failed ∨ m.identity = d.identity) then 7
            else 8

/-- A member takes its place again; it catches up on what it missed (R232, R473). -/
def memberReturns (p g d : Nat) (s : State) : State :=
  let m := memOf s g d
  let s := s.updDrv p fun x => { x with inService := true }
  let s := setMem g d { m with absentAt := none, linkDown := false, catching := !m.missed.isEmpty, cpos := 0, identity := (s.drivePort p).identity } s
  let s := s.updSig g fun x => { x with pendingClear := true }
  if m.missed.isEmpty ∧ (m.absentAt.isSome ∨ m.linkDown) then (s.raise Reg.Drv.CATCHUP_DONE p).log 0x7004 p ([1] ++ leBytes 4 0) else s

/-- A drive is new (rows 2 and 3): it goes to a failure entry, or waits. -/
def driveNew (p : Nat) (s : State) : State := handOver p (s.updDrv p fun x => { x with isNew := true })

/-- DRIVE_CLASSIFY: identification ends, and Table 9.3 decides. -/
def doDriveClassify (p : Nat) (d : DriveInfo) (a b : LabelCopy) (s : State) : State :=
  let x := s.drivePort p
  if x.rate = 0 ∨ x.identified ∨ !x.bringing ∨ !(drivesRun s.core.mode || s.core.mode == .maintenance) then s
  else
    let lab := labelInUse d.identity a b
    let row := classRow s p d (lab.map (·.1))
    let s := s.updDrv p fun x => { x with
      identified := true, bringing := false, sata := d.sata, ssd := d.ssd, blocks := min d.blocks 15625000000, identity := d.identity
      qdepth := if d.sata then min 32 d.queueDepth else 64, sec512 := d.sector512, label := lab.map (·.1), isNew := false, row := row }
    let s := s.put Reg.Drv.CMD_TIMEOUT (if d.ssd then s.get Reg.DrvG.TIMEOUT_SSD else s.get Reg.DrvG.TIMEOUT_HDD) p
    let s := if s.bit Reg.Drv.CLAIM p then s.settle Reg.Drv.CLAIM p else s
    let s := s.log 0x7003 p ([row] ++ leBytes 8 d.identity)
    match row with
    | 1 => s.raise Reg.Drv.DRV_UNSUPPORTED p
    | 2 | 3 => driveNew p s
    | 5 => s.raise Reg.Drv.WRONG_SLOT p
    | 6 | 7 =>
      match lab, memberAt s p with
      | some (l, fromB, stale), some (g, i) =>
        let s := if l.gen > (s.sigSt g).labelGen then s.updSig g fun y => { y with labelGen := l.gen, bMin := l.bMin } else s
        let s := memberReturns p g i s
        if stale ∧ s.core.mode = .assemble then
          match impOf s g with
          | some im =>
            let bytes := labelBytes s g i im none l.gen d.identity (!fromB)
            (s.emit (.drvLabel p (if fromB then 0 else d.blocks - 256) bytes)).log 0x500A (srcSig g i) [3]
          | none => s
        else s
      | _, _ => s
    | _ => s.raise Reg.Drv.FOREIGN p

/-- CLAIM is written (Table 9.5): a drive already left unused is classified as new at once. -/
def doClaim (p : Nat) (s : State) : State :=
  let x := s.drivePort p
  let s := s.ask Reg.Drv.CLAIM p
  if x.identified ∧ !x.inService ∧ x.fmt.isNone ∧ (x.row = 4 ∨ x.row = 5 ∨ x.row = 8 ∨ x.row = 3) then
    let s := (s.updDrv p fun x => { x with row := 3 }).log 0x7003 p ([3] ++ leBytes 8 x.identity)
    driveNew p (s.settle Reg.Drv.CLAIM p)
  else s

/-! ### The recovery ladder (R220 to R222) -/

/-- A ladder step begins: what it sends. -/
def ladderStep (p step : Nat) (tags : List Nat) (s : State) : State :=
  let s := s.updDrv p fun x => { x with ladder := some ⟨step, s.core.imp, tags⟩ }
  match step with
  | 1 => tags.foldl (fun s t => s.emit (.drvAbort p t)) s
  | 2 => s.emit (.drvReset p)
  | _ => ((s.updDrv p fun x => { x with ownReset := true }).bump Reg.Drv.LINK_RESETS 1 p).emit (.drvLink p (s.drivePort p).cap)

/-- A ladder begins. -/
def startLadder (p step : Nat) (tags : List Nat) (s : State) : State :=
  ladderStep p step tags ((s.bump Reg.Drv.LADDERS 1 p).raise Reg.Drv.LADDER_RUN p)

/-- COMMAND_TIMEOUT: the ladder begins, or the command joins the one that runs (R220). -/
def doCommandTimeout (p tag : Nat) (s : State) : State :=
  let x := s.drivePort p
  match nfind tag x.cmds with
  | none => s
  | some c =>
    if c.timed ∨ s.since c.at_ < s.get Reg.Drv.CMD_TIMEOUT p * 125 then s
    else
      let s := (s.updDrv p fun x => { x with cmds := nset tag { c with timed := true } x.cmds }).bump Reg.Drv.CMD_TIMEOUTS 1 p
      match x.ladder with
      | none => startLadder p (if x.sata then 2 else 1) [tag] s
      | some l =>
        let s := s.updDrv p fun x => { x with ladder := some { l with tags := l.tags ++ [tag] } }
        if l.step = 1 then s.emit (.drvAbort p tag) else s

/-- Commands that a successful step has ended: reads fail step 1 of R150, writes are reissued (R221). -/
def endLadder (p : Nat) (l : Ladder) (s : State) : State :=
  let x := s.drivePort p
  let hit := x.cmds.filter fun c => l.step ≥ 2 || l.tags.contains c.1
  let s := s.updDrv p fun x => { x with ladder := none, ownReset := false }
  let s := hit.foldl (fun s c =>
    if c.2.write then c.2.outs.foldl State.emit (s.updDrv p fun x => { x with cmds := nset c.1 { c.2 with at_ := s.core.imp, timed := false } x.cmds })
    else endCmdOf false c.2 (dropCmd p c.1 s)) s
  tryTest p (pump p (s.log 0x7001 p [l.step]))

/-- LADDER_STEP_SUCCESS. -/
def doLadderStepSuccess (p : Nat) (s : State) : State :=
  match (s.drivePort p).ladder with
  | some l => if l.step = 3 ∧ (s.drivePort p).rate = 0 then s else endLadder p l s
  | none => s

/-- A ladder ends in failure (step 4 of Table 9.2): the drive is declared failed, its format fails, or in MAINTENANCE its member is
lost for reads (R474). -/
def ladderFails (p : Nat) (s : State) : State :=
  let s := (s.updDrv p fun x => { x with ladder := none, ownReset := false }).log 0x7001 p [4]
  if (s.drivePort p).fmt.isSome then formatFails p s
  else if s.core.mode = .maintenance then endPortCmds false p (s.updDrv p fun x => { x with inService := false })
  else match memberAt s p with
    | some (g, d) => if (s.drivePort p).inService ∨ (memOf s g d).linkDown then declare g d 2 s else endPortCmds false p s
    | none => endPortCmds false p s

/-- LADDER_STEP_TIMEOUT: 1 s, 4 s and 2 s (Table 9.2). -/
def doLadderStepTimeout (p : Nat) (s : State) : State :=
  match (s.drivePort p).ladder with
  | none => s
  | some l =>
    let limit := if l.step = 1 then 125000 else if l.step = 2 then 500000 else 250000
    if s.since l.at_ < limit then s
    else if l.step ≥ 3 then ladderFails p s
    else ladderStep p (l.step + 1) l.tags s

/-- DRIVE_COMMAND_ERROR: a read fails step 1 of R150 for the blocks reported, or for all; a write is reissued twice, then the
ladder starts at step 2, then the drive is declared failed (R221). -/
def doDriveCommandError (p tag : Nat) (blocks : List Nat) (data : List RdBlk) (s : State) : State :=
  match nfind tag (s.drivePort p).cmds with
  | none => s
  | some c =>
    let s := s.bump Reg.Drv.ERR_CMDS 1 p
    if !c.write then
      let s := pump p (dropCmd p tag s)
      if blocks.isEmpty ∨ data.length ≠ c.n then endCmdOf false c s
      else if c.use = .fg then
        takeRead c (((List.range c.n).zip data).map fun x => if blocks.contains (c.b0 + x.1) then { x.2 with readable := false } else x.2) s
      else s
    else
      let c := { c with errs := c.errs + 1 }
      let s := s.updDrv p fun x => { x with cmds := nset tag { c with at_ := s.core.imp, timed := false } x.cmds }
      if c.errs ≤ 2 then c.outs.foldl State.emit s
      else if c.errs = 3 then
        match (s.drivePort p).ladder with
        | none => startLadder p 2 [tag] s
        | some l => s.updDrv p fun x => { x with ladder := some { l with tags := l.tags ++ [tag] } }
      else ladderFails p s

/-! ### Inspection (R114) -/

/-- MEMBER_SEL latches a member. -/
def doMemberSel (g v : Nat) (s : State) : State :=
  let d := v % 128
  let m := (impOf s g).bind fun i => if d < i.n then i.members[d]? else none
  (((s.put Reg.Sig.MEMBER_SEL d g).put Reg.Sig.MEMBER_PORT ((m.map (·.port)).getD 0) g).putB Reg.Sig.MEMBER_VALID m.isSome g).put
    Reg.Sig.MEMBER_BASE ((m.map (·.base)).getD 0) g

/-- MAP_GO: the place of a folio by R97 and R99. -/
def doMapGo (g : Nat) (s : State) : State :=
  let s := s.pulse Reg.Sig.MAP_GO g
  let t := s.get Reg.Sig.MAP_SHEET_LO g + 2 ^ 32 * s.get Reg.Sig.MAP_SHEET_HI g
  let p := s.get Reg.Sig.MAP_POS g
  match impOf s g with
  | some i =>
    if t < (s.sigSt g).sheets ∧ p < i.w then
      let d := i.driveAt t p
      let l := i.lbaOf d (i.dataPos t p)
      (((s.put Reg.Sig.MAP_DRIVE d g).put Reg.Sig.MAP_VALID 1 g).put Reg.Sig.MAP_LBA_LO (l % 2 ^ 32) g).put Reg.Sig.MAP_LBA_HI (l / 2 ^ 32) g
    else s.put Reg.Sig.MAP_VALID 0 g
  | none => s.put Reg.Sig.MAP_VALID 0 g

/-! ### The commands -/

def execDriveLinkUp (p : DrvPortIx) (r : LinkRate) (s : State) : Host.Outcome State Fault Refusal := .next (whenOn (doDriveLinkUp p.val r) s)
def execDriveClassify (p : DrvPortIx) (d : DriveInfo) (a b : LabelCopy) (s : State) : Host.Outcome State Fault Refusal :=
  .next (whenOn (doDriveClassify p.val d a b) s)
def execBringupTimeout (p : DrvPortIx) (s : State) : Host.Outcome State Fault Refusal := .next (whenOn (doBringupTimeout p.val) s)
def execCommandTimeout (p : DrvPortIx) (t : Nat) (s : State) : Host.Outcome State Fault Refusal := .next (whenOn (doCommandTimeout p.val t) s)
def execLadderStepTimeout (p : DrvPortIx) (s : State) : Host.Outcome State Fault Refusal := .next (whenOn (doLadderStepTimeout p.val) s)
def execLadderStepSuccess (p : DrvPortIx) (s : State) : Host.Outcome State Fault Refusal := .next (whenOn (doLadderStepSuccess p.val) s)
def execDriveCommandError (p : DrvPortIx) (t : Nat) (bs : List Nat) (ds : List RdBlk) (s : State) : Host.Outcome State Fault Refusal :=
  .next (whenOn (doDriveCommandError p.val t bs ds) s)
def execLinkCrcBurst (p : DrvPortIx) (n : Nat) (s : State) : Host.Outcome State Fault Refusal := .next (whenOn (doLinkCrcBurst p.val n) s)
def execLinkTest (p : DrvPortIx) (s : State) : Host.Outcome State Fault Refusal := .next (whenOn (doLinkTest p.val) s)
def execLinkSelfTestEnd (p : DrvPortIx) (v c : Nat) (s : State) : Host.Outcome State Fault Refusal := .next (whenOn (doLinkSelfTestEnd p.val v c) s)
def execDriveLinkLoss (p : DrvPortIx) (s : State) : Host.Outcome State Fault Refusal := .next (whenOn (doDriveLinkLoss p.val) s)
def execPresentWrite (p : DrvPortIx) (v : Bool) (s : State) : Host.Outcome State Fault Refusal := .next (whenOn (doPresentWrite p.val v) s)
def execPwrOnWrite (p : DrvPortIx) (v : Bool) (s : State) : Host.Outcome State Fault Refusal := .next (whenOn (doPwrOnWrite p.val v) s)
def execClaim (p : DrvPortIx) (s : State) : Host.Outcome State Fault Refusal := .next (whenOn (doClaim p.val) s)
def execDrivePortReset (p : DrvPortIx) (s : State) : Host.Outcome State Fault Refusal := .next (whenOn (doDrivePortReset p.val) s)
def execAbsentLimitExpired (g : SigIx) (d : Nat) (s : State) : Host.Outcome State Fault Refusal := .next (whenOn (doAbsentLimitExpired g.val d) s)
def execCatchupItem (g : SigIx) (d t : Nat) (r : List RdOffset) (s : State) : Host.Outcome State Fault Refusal := .next (whenOn (doCatchupItem g.val d t r) s)
def execSataFormatItem (p : DrvPortIx) (s : State) : Host.Outcome State Fault Refusal := .next (whenOn (doSataFormatItem p.val) s)
def execFormatPoll (p : DrvPortIx) (n : Nat) (s : State) : Host.Outcome State Fault Refusal := .next (whenOn (doFormatPoll p.val n) s)
def execFormatComplete (p : DrvPortIx) (s : State) : Host.Outcome State Fault Refusal := .next (whenOn (doFormatComplete p.val) s)
def execFormatTimeout (p : DrvPortIx) (s : State) : Host.Outcome State Fault Refusal := .next (whenOn (doFormatTimeout p.val) s)
def execMemberSel (g : SigIx) (v : RegWord) (s : State) : Host.Outcome State Fault Refusal := .next (whenOn (doMemberSel g.val v.toNat) s)
def execMapGo (g : SigIx) (s : State) : Host.Outcome State Fault Refusal := .next (whenOn (doMapGo g.val) s)

end Sys2Proof.Machine
end

