-- ==== Sys2Proof/Machine/Image.lean ====
section
/-!
DEFINITION. The forme image (chapter 17): parsing (Tables 17.1 to 17.8), the checks of Table 17.9, staging, the stored copies,
and the fields that an application writes. The requests are commands of Makeready.
-/

namespace Sys2Proof.Machine

/-! ### Staging (R377) -/

/-- The entries of a sparse store at or above an offset. -/
def sparseFrom (off : Nat) : NMap Nat → NMap Nat
  | [] => []
  | (k, v) :: m => if k < off then sparseFrom off m else (k, v) :: m

/-- The bytes `[off, off + n)` of a sparse store; unlisted bytes are 0. -/
def sparseBytes (m : NMap Nat) (off : Nat) : Nat → List Nat
  | 0 => []
  | n + 1 =>
    match sparseFrom off m with
    | [] => List.replicate (n + 1) 0
    | (k, v) :: m' => if k = off then v :: sparseBytes m' (off + 1) n else 0 :: sparseBytes ((k, v) :: m') (off + 1) n

/-- Store one byte of a sparse store. -/
def sparsePut (off v : Nat) (m : NMap Nat) : NMap Nat := nput off (v % 256) m

/-- A little-endian field of a byte string. -/
def fieldAt (bs : List Nat) (off n : Nat) : Nat := leValue ((bs.drop off).take n)

/-- The L field as the window holds it (STAGE_LEN). -/
def stageLen (s : State) : Nat := leValue ((List.range 4).map fun j => ngetD (8 + j) 0 s.stage)

/-- The staged image: as many bytes as its own L field says, at most the window. -/
def stagedBytes (s : State) : List Nat := sparseBytes s.stage 0 (min (stageLen s) 8388608)

/-! ### Parsing -/

/-- A section as found (R372). -/
structure Sect where
  typ : Nat
  inst : Nat
  pay : List Nat
  crc : Nat
  flags : Nat
  zeroOk : Bool
  deriving DecidableEq, Repr

/-- The sections of an image: `n` of them from an offset, ending exactly at the trailer. -/
def parseSects (bs : List Nat) (end_ : Nat) : Nat → Nat → Option (List Sect)
  | 0, off => if off = end_ then some [] else none
  | n + 1, off =>
    let len := fieldAt bs (off + 4) 4
    let next := off + 16 + roundUp len 8
    if next > end_ then none
    else
      let padOk := ((bs.drop (off + 16 + len)).take (roundUp len 8 - len)).all (· == 0)
      let x : Sect := ⟨fieldAt bs off 2, fieldAt bs (off + 2) 2, (bs.drop (off + 16)).take len, fieldAt bs (off + 8) 4, fieldAt bs (off + 12) 2, padOk && fieldAt bs (off + 14) 2 == 0⟩
      match parseSects bs end_ n next with
      | some xs => some (x :: xs)
      | none => none

/-- The types of Table 17.2 and the largest instance of each. -/
def sectMax (typ : Nat) : Option Nat :=
  if typ = 1 ∨ typ = 2 ∨ typ = 3 ∨ typ = 4 ∨ typ = 6 ∨ typ = 0x30 then some 0
  else if typ = 5 ∨ typ = 0x10 ∨ typ = 0x11 then some 15
  else if typ = 0x20 then some 63 else none

/-- Payload lengths of Table 17.2. -/
def payLenOk (x : Sect) : Bool :=
  let l := x.pay.length
  if x.typ = 1 then l == 32 else if x.typ = 2 then l == 28 else if x.typ = 3 then l == 96
  else if x.typ = 4 then l == 296 else if x.typ = 5 then l == 48
  else if x.typ = 6 then fieldAt x.pay 0 4 ≤ 256 && l == 8 + 288 * fieldAt x.pay 0 4
  else if x.typ = 0x10 then l ≥ 32 else if x.typ = 0x11 then l == 16 else if x.typ = 0x20 then l == 40
  else if x.typ = 0x30 then 4096 ≤ l && l ≤ 2097152 else true

/-- The payload of a section. -/
def sectOf (xs : List Sect) (typ inst : Nat) : Option (List Nat) :=
  (xs.find? fun x => x.typ == typ && x.inst == inst).map (·.pay)

/-- Index of a section in image order; 0xFFFF when none carries the failure (R375). -/
def sectIx (xs : List Sect) (typ inst : Nat) : Nat :=
  match xs.findIdx? fun x => x.typ == typ && x.inst == inst with
  | some i => i
  | none => 0xFFFF

/-- A UTF-8 name without its 0x00 padding. -/
def unpad (bs : List Nat) : List Nat := (bs.reverse.dropWhile (· == 0)).reverse

/-- Whether bytes `[off, off + n)` are 0. -/
def zerosAt (bs : List Nat) (off n : Nat) : Bool := ((bs.drop off).take n).all (· == 0)

/-- The rows of an imposition table from its bytes: `n` rows of `m` entries. -/
def parseRows (m : Nat) : Nat → List Nat → List (List (Nat × Nat))
  | 0, _ => []
  | n + 1, bs =>
    let row := (List.range m).map fun j => (fieldAt bs (4 * j) 1, fieldAt bs (4 * j + 2) 2)
    row :: parseRows m n (bs.drop (4 * m))

/-- An imposition section (Table 4.2). -/
def parseImposition (b : List Nat) : Imposition :=
  let n := fieldAt b 1 1
  let k := fieldAt b 2 1
  let sp := fieldAt b 3 1
  ⟨fieldAt b 0 1, n, k, sp, fieldAt b 4 1, fieldAt b 5 1 % 2 == 1, fieldAt b 8 2, fieldAt b 10 2, fieldAt b 12 2, fieldAt b 14 2, fieldAt b 16 16,
    (List.range n).map fun j => ⟨fieldAt b (32 + 8 * j) 1, fieldAt b (36 + 8 * j) 4⟩,
    parseRows (k + 2 + sp) 4096 (b.drop (32 + 8 * n)), sha256 b⟩

/-- A front-end port section (Table 17.5); addresses are in network order. -/
def parsePort (b : List Nat) : PortSec :=
  let f := fieldAt b 0 1
  ⟨f % 2 == 1, f / 2 % 2 == 1, f / 4 % 2 == 1, f / 8 % 2 == 1, fieldAt b 1 1, fieldAt b 2 2, fieldAt b 4 2, fieldAt b 6 1, fieldAt b 7 1,
    beValue ((b.drop 8).take 4), beValue ((b.drop 12).take 4), beValue ((b.drop 16).take 16), beValue ((b.drop 32).take 16)⟩

/-- The host table (Table 17.6). -/
def parseHosts (b : List Nat) : List HostEnt :=
  (List.range (fieldAt b 0 4)).map fun h =>
    let o := 8 + 288 * h
    ⟨unpad ((b.drop o).take 256), fieldAt b (o + 256) 1 % 2 == 1, fieldAt b (o + 257) 1, fieldAt b (o + 264) 8⟩

/-- Signature parameters (Table 17.7). -/
def parsePar (b : List Nat) : SigPar :=
  ⟨fieldAt b 0 1, fieldAt b 1 1, fieldAt b 2 2, fieldAt b 4 2, fieldAt b 6 1 % 2 == 1, (b.drop 8).take 8⟩

/-- A namespace section (Table 17.8). -/
def parseNs (b : List Nat) : NsSec :=
  ⟨fieldAt b 0 1 % 2 == 1, fieldAt b 0 1 / 2 % 2 == 1, fieldAt b 1 1, fieldAt b 2 2, fieldAt b 8 8, fieldAt b 16 8, fieldAt b 24 16⟩

/-- The sections of a type, by instance. -/
def sectMap {α : Type} (xs : List Sect) (typ : Nat) (f : List Nat → α) : NMap α :=
  (xs.filter fun x => x.typ == typ).foldl (fun m x => nset x.inst (f x.pay) m) []

/-- An image from its header and sections. -/
def buildImg (bs : List Nat) (xs : List Sect) : Img :=
  let g := (sectOf xs 1 0).getD []
  let fe := (sectOf xs 4 0).getD []
  let uc := (sectOf xs 0x30 0).getD []
  { len := fieldAt bs 8 4, counter := fieldAt bs 12 4, serial := fieldAt bs 32 16, keyXy := (bs.drop 48).take 96,
    ways := fieldAt g 0 1, casts := fieldAt g 1 1, agePeriod := fieldAt g 2 2, margin := fieldAt g 4 2, ride := fieldAt g 6 2,
    dmaCh := fieldAt g 8 1, hostCh := fieldAt g 9 1, shares := (g.drop 10).take 5, policy := fieldAt g 16 4,
    pairMap := (sectOf xs 2 0).map fun b => (List.range 14).map fun p => (fieldAt b (2 * p) 1, fieldAt b (2 * p + 1) 1),
    fleet := (sectOf xs 3 0).map beValue,
    subNqn := unpad (fe.take 256), nvmePort := fieldAt fe 256 2, feBits := fieldAt fe 258 1, pfcPrio := fieldAt fe 259 1,
    anaPref := (List.range 16).map fun j => fieldAt fe (260 + 2 * j) 2,
    ports := sectMap xs 5 parsePort, hosts := parseHosts ((sectOf xs 6 0).getD []),
    imps := sectMap xs 0x10 parseImposition, pars := sectMap xs 0x11 parsePar, nss := sectMap xs 0x20 parseNs,
    ucode := leValue uc, ucodeVer := Config.ucodeVersion (leValue uc), hash := sha256 bs }

/-! ### The checks of Table 17.9 -/

/-- A verdict: the failing section's index and the reason, or the image. -/
abbrev Verdict := Except (Nat × Nat) Img

/-- Find the first failing item. -/
def firstFail {α : Type} (xs : List α) (bad : α → Option (Nat × Nat)) : Option (Nat × Nat) := xs.findSome? bad

/-- Check 1 (header and chain). -/
def chk1 (bs : List Nat) : Option (List Sect) :=
  let l := fieldAt bs 8 4
  if bs.take 4 == [0x46, 0x52, 0x4D, 0x45] && fieldAt bs 4 2 == 1 && 256 ≤ l && l ≤ 8388608 && l % 8 == 0 && bs.length == l &&
      zerosAt bs 6 2 && zerosAt bs 20 4 && zerosAt bs 144 16 && fieldAt bs 16 4 ≥ 1 && fieldAt bs 16 4 ≤ 524288 then
    parseSects bs (l - 96) (fieldAt bs 16 4) 160
  else none

/-- The fused key hash as one number (R373, R442). -/
def fusedKeyHash : Nat := (List.range 12).foldl (fun a j => a * 2 ^ 32 + Config.keyHash j % 2 ^ 32) 0

/-- Check 2 (key hash and signature, R373). -/
def chk2 (bs : List Nat) : Bool :=
  let l := bs.length
  let xy := (bs.drop 48).take 96
  Config.sha384 xy == fusedKeyHash &&
    Config.ecdsaP384Verify (beValue xy) (Config.sha384 (bs.take (l - 96))) (beValue ((bs.drop (l - 96)).take 48)) (beValue (bs.drop (l - 48)))

/-- Checks 3 and 4 (anti-rollback, bound serial). -/
def chk3 (s : State) (counter : Nat) : Bool := counter ≤ 64 && s.get Reg.Img.ARB_FUSE ≤ counter
def chk4 (serial : Nat) : Bool := serial == leValue (List.replicate 16 0x20) || serial == Config.serial % 2 ^ 128

/-- Strictly ascending type and instance. -/
def sectsAscend : List Sect → Nat → Nat → Option Nat
  | [], _, _ => none
  | x :: xs, i, prev =>
    let k := x.typ * 65536 + x.inst + 1
    if k ≤ prev then some i else sectsAscend xs (i + 1) k

/-- Check 6 (order, duplicates, presence, instances, lengths, imposition byte 0, microcode). -/
def chk6 (xs : List Sect) : Option (Nat × Nat) :=
  match sectsAscend xs 0 0 with
  | some i => some (i, 6)
  | none =>
    let bad := xs.findIdx? fun x =>
      match sectMax x.typ with
      | none => x.flags % 2 == 0
      | some m => x.inst > m || !payLenOk x || (x.typ == 0x10 && fieldAt x.pay 0 1 != x.inst) || (x.typ == 0x30 && !Config.ucodeValid (leValue x.pay))
    match bad with
    | some i => some (i, 6)
    | none =>
      let has (t : Nat) : Bool := xs.any fun x => x.typ == t
      let sigs (t : Nat) : List Nat := (xs.filter fun x => x.typ == t).map (·.inst)
      let evid := xs.any fun x => x.typ == 0x20 && fieldAt x.pay 0 1 / 2 % 2 == 1
      if has 1 && has 4 && has 6 && has 0x30 && sigs 0x10 == sigs 0x11 && (!evid || has 3) then none else some (0xFFFF, 6)

/-- Whether a value lies in a range. -/
def inR (v lo hi : Nat) : Bool := lo ≤ v && v ≤ hi

/-- Check 7 of one section (ranges, reserved bits, zero fields). -/
def sectRange (x : Sect) : Bool :=
  let b := x.pay
  let f := fieldAt b
  x.zeroOk && x.flags < 2 &&
    (if x.typ = 1 then
      inR (f 1 1) 1 16 && inR (f 2 2) 64 65535 && f 4 2 ≤ 2000 && f 6 2 ≤ 500 && inR (f 8 1) 16 64 && inR (f 9 1) 1 8 &&
        ((b.drop 10).take 5).all (· ≤ 100) && zerosAt b 15 1 && f 16 4 < 32 && zerosAt b 20 12
    else if x.typ = 2 then
      let ms := (List.range 14).flatMap fun p => [(p, f (2 * p) 1), (p, f (2 * p + 1) 1)]
      ms.all (fun m => m.2 ≤ 32 && engType m.2 == pairType m.1) && (ms.map (·.2)).eraseDups.length == 28
    else if x.typ = 4 then f 258 1 < 16 && f 259 1 ≤ 7 && zerosAt b 292 4
    else if x.typ = 5 then
      f 0 1 < 16 && f 1 1 ≤ 7 && inR (f 2 2) 1280 9194 && f 4 2 < 4096 && f 6 1 ≤ 32 && f 7 1 ≤ 128
    else if x.typ = 6 then
      zerosAt b 4 4 && (List.range (f 0 4)).all fun h => f (264 + 288 * h) 1 < 2 && zerosAt b (266 + 288 * h) 6 && zerosAt b (280 + 288 * h) 16
    else if x.typ = 0x10 then
      f 5 1 < 2 && f 6 2 == 4096 && (List.range (f 1 1)).all fun j => zerosAt b (33 + 8 * j) 3
    else if x.typ = 0x11 then inR (f 0 1) 1 64 && inR (f 2 2) 100 60000 && inR (f 4 2) 1 365 && f 6 1 < 2 && zerosAt b 7 1 && ((b.drop 8).take 8).all (· < 128)
    else if x.typ = 0x20 then
      f 0 1 < 4 && f 0 1 != 2 && f 1 1 ≤ 15 && f 2 2 < 16384 && (f 0 1 % 2 == 1 || f 2 2 == 0) && zerosAt b 4 4
    else true)

/-- R96 and R91: an imposition section with its payload. -/
def imposOk (i : Imposition) (payLen : Nat) : Bool :=
  let w := i.k + 2
  let m := w + i.s
  payLen == 32 + 8 * i.n + 4 * 4096 * m &&
    inR i.n 8 128 && inR i.k 4 30 && i.s ≤ 4 && i.folio ≤ 3 &&
    i.table.all (fun r => r.all (fun e => e.1 < i.n) && (r.map (·.1)).eraseDups.length == m && (r.drop w).all fun e => e.2 == 0xFFFF) &&
    (let cnt (n d : Nat) : Nat := ((i.table.take n).filter fun r => (r.take w).any fun e => e.1 == d).length
     (List.range 4096).all (fun r => ((i.table.getD r []).take w).all fun e => e.2 == cnt r e.1) &&
       i.cSheet == ((List.range i.n).map fun d => cnt 4096 d).foldl max 0) &&
    i.cSpare == ((List.range i.s).flatMap fun q => (List.range i.n).flatMap fun d => (List.range i.n).map fun f =>
        if f = d then 0 else (i.table.filter fun r => (r.getD (w + q) (0, 0)).1 == d && (r.take w).any fun e => e.1 == f).length).foldl max 0 &&
    i.cStride == i.cSheet + i.s * i.cSpare && i.meta_ == metaSheetsFor i.sheetBlocks

/-- R92: a signature of an image; ports are distinct and belong to one signature. The interface type is a matter of the
drives found (R228). -/
def sigOk (m : Img) (i : Imposition) : Bool :=
  let ports (x : Imposition) : List Nat := x.members.map (·.port)
  i.n ≥ i.k + 2 + i.s + 1 && (ports i).eraseDups.length == i.n && (ports i).all (· < 128) &&
    m.imps.all fun p => p.1 == i.sig || (ports p.2).all fun q => !(ports i).contains q

/-- R137: at least three distinct candidates in three different port groups. -/
def candsOk (i : Imposition) (p : SigPar) : Bool :=
  let real := p.cands.filter (· != 0x7F)
  let groups := (real.map fun d => i.portOf d / 16).eraseDups
  real.all (· < i.n) && real.eraseDups.length == real.length && groups.length ≥ 3

/-- Check 13: namespaces. -/
def nsOk (m : Img) (x : Nat) (n : NsSec) : Bool :=
  match nfind n.sig m.imps with
  | none => false
  | some i =>
    let bytes := n.zoneSheets * i.sheetBlocks * 4096
    n.base ≥ i.meta_ && n.count ≥ 1 &&
      m.nss.all (fun p => p.1 == x || p.2.sig != n.sig || p.2.base + p.2.count ≤ n.base || n.base + n.count ≤ p.2.base) &&
      (!n.zoned || (n.zoneSheets ≥ 1 && 268435456 ≤ bytes && bytes ≤ 4294967296 && n.count % n.zoneSheets == 0))

/-- sig_lbn that ends the highest namespace of a signature (Z of R201). -/
def sigEnd (m : Img) (i : Imposition) : Nat :=
  ((m.nss.filter fun p => p.2.sig == i.sig).map fun p => (p.2.base + p.2.count) * i.sheetBlocks).foldl max 0

/-- Footprint of a member in drive blocks, without sig_base (Table 4.3). -/
def shapeFootprint (i : Imposition) (cycles : Nat) : Nat :=
  let fp := cycles * i.cStride * i.fb
  if i.packed then (fp + 62) / 63 * 64 else fp

/-- R201: a changed imposition section may start a reshape. -/
def reshapeOk (s : State) (old new : Img) (g : Nat) (src dst : Imposition) : Bool :=
  let nss := old.nss.filter fun p => p.2.sig == g
  let z := sigEnd new dst
  let need := dst.meta_ * dst.sheetBlocks + (if z > dst.meta_ * dst.sheetBlocks then z - dst.meta_ * dst.sheetBlocks else 0)
  let sheetsNeed := (need + dst.sheetBlocks - 1) / dst.sheetBlocks
  let cyc := (sheetsNeed + 4095) / 4096
  let added := (List.range dst.n).filter fun j => j ≥ src.n
  (s.sigSt g).rs.isNone && src.identity == dst.identity && src.s == dst.s && src.packed == dst.packed &&
    (List.range (min src.n dst.n)).all (fun j => src.members.getD j ⟨0, 0⟩ == dst.members.getD j ⟨0, 0⟩) &&
    added.all (fun j =>
      let d := s.drivePort (dst.portOf j)
      d.identified && d.label.isNone && d.sata == dst.packed && d.blocks ≥ (dst.members.getD j ⟨0, 0⟩).base + shapeFootprint dst cyc + 256) &&
    nss.all (fun p => match nfind p.1 new.nss with
      | none => false
      | some q => q.sig == g && q.start dst == p.2.start src && q.size dst == p.2.size src &&
          (!p.2.zoned || q.zoneSheets * dst.sheetBlocks == p.2.zoneSheets * src.sheetBlocks)) &&
    dst.meta_ * dst.sheetBlocks ≤ ((new.nss.filter fun p => p.2.sig == g).map fun p => p.2.start dst).foldl min (2 ^ 64) &&
    (let bm := ((dst.members.map fun m => (s.drivePort m.port).blocks)).foldl min (2 ^ 64)
     (dst.sheetsFor bm - dst.meta_) * dst.sheetBlocks + dst.meta_ * dst.sheetBlocks ≥ z) &&
    (match nfind g new.pars with
     | none => false
     | some p => ((p.cands.filter fun d => d < min src.n dst.n).map fun d => dst.portOf d / 16).eraseDups.length ≥ 3)

/-- The section that a failure of check 14 names, and whether a difference is permitted outside or in IMAGE_WAIT
(Table 17.10). -/
def chk14 (s : State) (old new : Img) (xs : List Sect) : Option (Nat × Nat) :=
  let waiting := s.core.mode == .imageWait
  let sigBad := firstFail (List.range 16) fun g =>
    match nfind g old.imps, nfind g new.imps with
    | some a, some b => if a.hash == b.hash then none else if reshapeOk s old new g a b then none else some (sectIx xs 0x10 g, 14)
    | some _, none => if waiting && !(new.nss.any fun p => p.2.sig == g) then none else some (0xFFFF, 14)
    | none, some b => if waiting && b.members.all (fun m => (s.drivePort m.port).label.isNone) then none else some (sectIx xs 0x10 g, 14)
    | none, none => none
  let regionBad := firstFail (List.range 16) fun g =>
    match nfind g old.pars, nfind g new.pars, nfind g old.imps, nfind g new.imps with
    | some a, some b, some i, some j => if a.regionGib ≠ b.regionGib ∧ i.hash = j.hash then some (sectIx xs 0x11 g, 14) else none
    | _, _, _, _ => none
  let nsBad := firstFail (List.range 64) fun n =>
    match nfind n old.nss, nfind n new.nss with
    | some a, some b =>
      let same := match nfind a.sig old.imps, nfind b.sig new.imps with
        | some i, some j => a.zoned == b.zoned && a.evidence == b.evidence && a.sig == b.sig && (i.hash != j.hash || (a.base == b.base && a.count == b.count && a.zoneSheets == b.zoneSheets))
        | _, _ => false
      if same then none else some (sectIx xs 0x20 n, 14)
    | some a, none => if waiting && new.policy / 16 % 2 == 1 && !a.evidence then none else some (0xFFFF, 14)
    | _, _ => none
  sigBad <|> regionBad <|> nsBad

/-- Check 15: the plan of R203 for each signature that starts a reshape. -/
def chk15 (old new : Img) (xs : List Sect) : Option (Nat × Nat) :=
  firstFail (List.range 16) fun g =>
    match nfind g old.imps, nfind g new.imps with
    | some a, some b =>
      if a.hash == b.hash then none
      else
        let z := sigEnd new b
        let up := reshapeUp a b
        if planOk a b up z (z / b.sheetBlocks + 2) (if up then 0 else z) then none else some (sectIx xs 0x10 g, 15)
    | _, _ => none

/-- Table 17.9: the checks in their order; the first that fails decides (R375). -/
def judge (s : State) (bs : List Nat) (inForce : Option Img) : Verdict :=
  match chk1 bs with
  | none => .error (0xFFFF, 1)
  | some xs =>
    let m := buildImg bs xs
    let impFail (f : Imposition → Bool) (r : Nat) : Option (Nat × Nat) :=
      firstFail m.imps fun p => if f p.2 then none else some (sectIx xs 0x10 p.1, r)
    let bad : Option (Nat × Nat) :=
      (if chk2 bs then none else some (0xFFFF, 2)) <|>
      (if chk3 s m.counter then none else some (0xFFFF, 3)) <|>
      (if chk4 m.serial then none else some (0xFFFF, 4)) <|>
      ((xs.findIdx? fun x => crc32c x.pay != x.crc).map fun i => (i, 5)) <|>
      chk6 xs <|>
      ((xs.findIdx? fun x => !sectRange x).map fun i => (i, 7)) <|>
      (if 1 ≤ m.ways ∧ m.ways ≤ 4 then none else some (sectIx xs 1 0, 13)) <|>
      (if m.shares.sum ≤ 100 then none else some (sectIx xs 1 0, 12)) <|>
      impFail (fun i => imposOk i ((sectOf xs 0x10 i.sig).getD []).length) 8 <|>
      impFail (sigOk m) 9 <|>
      (firstFail m.pars fun p => match nfind p.1 m.imps with
        | some i => if candsOk i p.2 then none else some (sectIx xs 0x11 p.1, 10)
        | none => some (sectIx xs 0x11 p.1, 10)) <|>
      (firstFail m.nss fun p => if nsOk m p.1 p.2 then none else some (sectIx xs 0x20 p.1, 11)) <|>
      (match inForce with | some old => chk14 s old m xs <|> chk15 old m xs | none => none)
    match bad with
    | some b => .error b
    | none => .ok m

/-! ### The stored copies (R378, R379) -/

/-- Whether a stored copy is valid: its record and hashes, and checks 1 to 7, of which the fuses and the serial decide again. -/
def copyValid (s : State) (c : ImgCopy) : Bool := c.ok && chk3 s c.img.counter && chk4 c.img.serial && Config.sha384 c.img.keyXy == fusedKeyHash

/-- The valid copy of a half in service. -/
def validCopy (s : State) (h : HalfSt) : Option ImgCopy := if h.ok then h.img.filter (copyValid s) else none

/-- R379: the candidate is the valid copy of highest store generation; ST0's when the generations are equal. -/
def chooseCandidate (s : State) : State :=
  let c0 := validCopy s s.st0
  let c1 := validCopy s s.st1
  let st1 := match c0, c1 with
    | some a, some b => decide (b.gen > a.gen)
    | none, some _ => true
    | _, _ => false
  let c := if st1 then c1 else c0
  let s := { s with img.cand := c, img.candSt1 := st1 }
  let s := (s.putB Reg.Img.ST0_IMG_VALID c0.isSome).putB Reg.Img.ST1_IMG_VALID c1.isSome
  let g := (c.map (·.gen)).getD 0
  ((s.putB Reg.Img.CAND_ST1 st1).put Reg.Img.STORE_GEN_LO (g % 2 ^ 32)).put Reg.Img.STORE_GEN_HI (g / 2 ^ 32)

/-- R378: the image and the retained sections are written to the halves in service as a new store generation. -/
def storeImage (m : Img) (retained : NMap Imposition) (s : State) : State :=
  let g0 := s.get Reg.Img.STORE_GEN_LO + 2 ^ 32 * s.get Reg.Img.STORE_GEN_HI
  let gh (h : HalfSt) : Nat := (h.img.map (·.gen)).getD 0
  let g := max g0 (max (gh s.st0) (gh s.st1)) + 1
  let s := if s.st0.ok && s.st1.ok then s else s.raise Reg.Img.STORE_FAIL
  let s := s.eachHalf fun h => { h with img := some ⟨true, g, m, retained⟩ }
  let s := (s.putB Reg.Img.ST0_IMG_VALID s.st0.ok).putB Reg.Img.ST1_IMG_VALID s.st1.ok
  (s.put Reg.Img.STORE_GEN_LO (g % 2 ^ 32)).put Reg.Img.STORE_GEN_HI (g / 2 ^ 32)

/-! ### The fields of an application (R382) -/

/-- Write a 32-byte digest into eight words, byte 4j in bits [31:24] of word j (R386). -/
def putHash (F : FieldSpec) (h : List Nat) (s : State) : State :=
  (List.range 8).foldl (fun s j => s.put F (beValue ((h.drop (4 * j)).take 4)) j) s

/-- The fields of one front-end port. -/
def applyPort (p : Nat) (x : PortSec) (s : State) : State :=
  let s := (s.put Reg.FeP.MTU x.mtu p).put Reg.FeP.VLAN_ID x.vlan p
  let s := (s.putB Reg.FeP.VLAN_EN x.vlanEn p).put Reg.FeP.VLAN_PCP x.pcp p
  let s := (s.put Reg.FeP.IP4_ADDR x.ip4 p).put Reg.FeP.IP4_GW x.gw4 p
  let s := (s.put Reg.FeP.IP4_PREFIX x.ip4Prefix p).putB Reg.FeP.IP4_EN x.ip4En p
  let s := (s.put Reg.FeP.IP6_PREFIX x.ip6Prefix p).putB Reg.FeP.IP6_EN x.ip6En p
  (List.range 4).foldl (fun s j =>
    let w (a : Nat) : Nat := a / 2 ^ (32 * (3 - j)) % 2 ^ 32
    (s.put Reg.FeP.IP6_ADDR (w x.ip6) (4 * p + j)).put Reg.FeP.IP6_GW (w x.gw6) (4 * p + j)) s

/-- The geometry fields of one signature. -/
def applyGeometry (g : Nat) (i : Option Imposition) (s : State) : State :=
  match i with
  | none => s.putB Reg.Sig.SIG_DEFINED false g
  | some i =>
    let s := (s.put Reg.Sig.SIG_N i.n g).put Reg.Sig.SIG_K i.k g
    let s := (s.put Reg.Sig.SIG_S i.s g).put Reg.Sig.FOLIO_CODE i.folio g
    let s := (s.putB Reg.Sig.PACKED_CHECK i.packed g).putB Reg.Sig.SIG_DEFINED true g
    let s := (s.put Reg.Sig.C_SHEET i.cSheet g).put Reg.Sig.C_SPARE i.cSpare g
    (s.put Reg.Sig.C_STRIDE i.cStride g).put Reg.Sig.META_SHEETS i.meta_ g

/-- The parameter fields of one signature; REGION_GIB only where no reshape defers it. -/
def applyPar (g : Nat) (region : Bool) (p : SigPar) (s : State) : State :=
  let c (j : Nat) : Nat := p.cands.getD j 0x7F
  let s := if region then s.put Reg.Sig.REGION_GIB p.regionGib g else s
  let s := (s.put Reg.Sig.DESTAGE_AGE p.age g).put Reg.Sig.RETIRE_THRESH p.retire g
  let s := (s.putB Reg.Sig.PROOF_EN p.proof g).put Reg.Sig.PROOF_TARGET p.target g
  let s := (s.put Reg.Sig.BMP_CAND0 (c 0) g).put Reg.Sig.BMP_CAND1 (c 1) g
  let s := (s.put Reg.Sig.BMP_CAND2 (c 2) g).put Reg.Sig.BMP_CAND3 (c 3) g
  let s := (s.put Reg.Sig.BMP_CAND4 (c 4) g).put Reg.Sig.BMP_CAND5 (c 5) g
  (s.put Reg.Sig.BMP_CAND6 (c 6) g).put Reg.Sig.BMP_CAND7 (c 7) g

/-- The fields of one namespace; the words of namespaces 48 to 55 are hidden by the snapshot registers (see the log). -/
def applyNs (n : Nat) (x : Option NsSec) (s : State) : State :=
  let x := x.getD ⟨false, false, 0, 0, 0, 0, 0⟩
  if n < 48 then
    let s := (s.putB Reg.Zn.ZONED x.zoned n).putB Reg.Zn.EVIDENCE x.evidence n
    (s.put Reg.Zn.NS_SIG x.sig n).put Reg.Zn.ZONE_SHEETS x.zoneSheets n
  else if n ≥ 56 then
    let s := (s.putB Reg.Zn.ZONED_HI x.zoned (n - 56)).putB Reg.Zn.EVIDENCE_HI x.evidence (n - 56)
    (s.put Reg.Zn.NS_SIG_HI x.sig (n - 56)).put Reg.Zn.ZONE_SHEETS_HI x.zoneSheets (n - 56)
  else s

/-- The fields that Table 17.10 applies at once in every commit. -/
def applyNow (m : Img) (s : State) : State :=
  let s := (s.put Reg.Fount.CASTS_REQUIRED m.casts).put Reg.Fount.E_MARGIN m.margin
  let s := (s.put Reg.Fount.RIDE_MS m.ride).put Reg.Cc.AGE_PERIOD m.agePeriod
  let s := (s.putB Reg.Cc.DISCARD_OK (m.policy % 2 == 1)).putB Reg.El.LOG_CLEAR_OK (m.policy / 2 % 2 == 1)
  let s := s.putB Reg.Fount.CHG_EN (m.policy / 4 % 2 == 1)
  let sh (j : Nat) : Nat := m.shares.getD j 0
  let s := (s.put Reg.Mu.MIN_C2 (sh 0)).put Reg.Mu.MIN_C3 (sh 1)
  let s := ((s.put Reg.Mu.MIN_C4 (sh 2)).put Reg.Mu.MIN_C5 (sh 3)).put Reg.Mu.MIN_C6 (sh 4)
  let s := (List.range 256).foldl (fun s h => s.put Reg.Mu.HOST_WEIGHT ((m.hosts[h]?).map (·.weight) |>.getD 0) h) s
  let s := (s.putB Reg.Fe.REQ_HDGST (m.feBits % 2 == 1)).putB Reg.Fe.REQ_DDGST (m.feBits / 2 % 2 == 1)
  let s := s.putB Reg.Fe.REQ_AUTH (m.feBits / 4 % 2 == 1)
  let s := (List.range 16).foldl (fun s g => s.put Reg.Fe.ANA_PREF (m.anaPref.getD g 0) g) s
  let s := (List.range 16).foldl (fun s p => applyPort p (ngetD p {} m.ports) s) s
  let s := (List.range 16).foldl (fun s g => applyGeometry g (nfind g m.imps) s) s
  (List.range 64).foldl (fun s n => applyNs n (nfind n m.nss) s) s

/-- The fields that Table 17.10 defers to the next makeready, and that IMAGE_WAIT applies at once. -/
def applyDeferred (m : Img) (s : State) : State :=
  let s := (s.put Reg.Cc.WAYS_CODE m.ways).put Reg.Dma.DMA_CHANNELS m.dmaCh
  let s := (s.put Reg.Dma.HOST_CHANNELS m.hostCh).put Reg.Fe.NVME_PORT m.nvmePort
  let s := (s.putB Reg.Fe.PFC_EN (m.feBits / 8 % 2 == 1)).put Reg.Fe.PFC_PRIO m.pfcPrio
  let s := { s with dma.channels := m.dmaCh, dma.hosts := m.hostCh }
  s.put Reg.Glb.UCODE_VER m.ucodeVer

/-- The image with the deferred fields of another (Table 17.10). -/
def keepDeferred (old new : Img) : Img :=
  { new with ways := old.ways, dmaCh := old.dmaCh, hostCh := old.hostCh, pairMap := old.pairMap, ucode := old.ucode, ucodeVer := old.ucodeVer, subNqn := old.subNqn, nvmePort := old.nvmePort, pfcPrio := old.pfcPrio, feBits := new.feBits % 8 + old.feBits / 8 * 8 }

/-- A refusal (R375). -/
def refuseImage (sec reason : Nat) (s : State) : State :=
  let s := (s.put Reg.Img.REFUSE_SECTION sec).put Reg.Img.REFUSE_REASON reason
  (s.raise Reg.Img.IMG_REFUSED).log 0xC002 0 (leBytes 2 sec ++ leBytes 2 reason)

/-- IMG_STATE between requests. -/
def idleState (s : State) : Nat := if s.img.committed then 1 else 0

/-- A request ends (R377, R380). -/
def endRequest (s : State) : State :=
  let s := { s with img.req := none, img.storing := none }
  (s.put Reg.Img.IMG_STATE (idleState s)).putB Reg.Img.STAGE_LOCKED false

/-- R380: the states in which a request is taken. -/
def requestAllowed (r : ImgReq) (s : State) : Bool :=
  let m := s.core.mode
  s.img.req.isNone &&
    (match r with
     | .confirm => m == .imageWait && s.img.cand.isSome
     | _ => m == .imageWait || m == .pressRun || m == .hold || m == .maintenance)

/-- A request is taken or refused (R380). -/
def request (r : ImgReq) (F : FieldSpec) (s : State) : State :=
  let s := s.pulse F
  if requestAllowed r s then
    let s := { s with img.req := some r, img.reqAt := s.core.imp }
    let s := s.put Reg.Img.IMG_STATE 2
    if r = .confirm then s else s.putB Reg.Img.STAGE_LOCKED true
  else refuseImage 0xFFFF 16 s

def doImgVerify (s : State) : State := request .verify Reg.Img.IMG_VERIFY s
def doImgCommit (s : State) : State := request .commit Reg.Img.IMG_COMMIT s
def doImgConfirm (s : State) : State := request .confirm Reg.Img.IMG_CONFIRM s

/-- STAGE_CLEAR zeroes the staging window (R377); a locked window ignores host writes. -/
def doStageClear (s : State) : State :=
  let s := s.pulse Reg.Img.STAGE_CLEAR
  if s.bit Reg.Img.STAGE_LOCKED then s else { s with stage := [] }

/-- R384: a commit not yet applied is abandoned with reason 17 by a cast or a reset. -/
def abandonCommit (s : State) : State :=
  match s.img.req with
  | some .commit | some .confirm =>
    let s := (endRequest s).raise Reg.Img.IMG_ABANDONED
    refuseImage 0xFFFF 17 s
  | some .verify => endRequest s
  | none => s

/-- ARB_FUSE_ADVANCE: fuses are blown until ARB_FUSE equals the image's counter, then ARB_ADVANCED is set (R376). -/
def doArbFuseAdvance (s : State) : State :=
  match s.img.fuseTo with
  | some (c, _) =>
    let s := { s with img.fuseTo := none }
    if s.get Reg.Img.ARB_FUSE < c then (s.put Reg.Img.ARB_FUSE c).raise Reg.Img.ARB_ADVANCED else s
  | none => s

/-! ### The commands -/

def execImgVerify (s : State) : Host.Outcome State Fault Refusal := .next (whenOn doImgVerify s)
def execImgCommit (s : State) : Host.Outcome State Fault Refusal := .next (whenOn doImgCommit s)
def execImgConfirm (s : State) : Host.Outcome State Fault Refusal := .next (whenOn doImgConfirm s)
def execStageClear (s : State) : Host.Outcome State Fault Refusal := .next (whenOn doStageClear s)
def execArbFuseAdvance (s : State) : Host.Outcome State Fault Refusal := .next (whenOn doArbFuseAdvance s)

end Sys2Proof.Machine
end

