-- ==== Sys2Proof/Machine/Resets.lean ====
section
/-!
DEFINITION. What resets, power-down, SAFE and a tamper response do to the whole module (R399 to R402, R432, R444).
-/

namespace Sys2Proof.Machine

/-! ### Stopping the ports -/

/-- A signature without drive ports: out of service, its commit in flight gone. -/
def sigOff (x : Sig) : Sig :=
  { x with inService := false, heldOut := false, entering := false, creating := false, pendingSet := x.pendingSet || x.commit.isSome, commit := none }

/-- Both kinds of port stop: commands end by R49, drive commands are abandoned, no completion is released (R295, R399). -/
def portsOff (s : State) : State :=
  let s := closeAll (feOff s)
  let s := { s with cmds := [], units := [], ingress := 0, reserved := 0, withheld := [], walks := [], lost := [], sch.queue := [], sch.forme := [], sch.debt := [] }
  let s := { s with drvs := nmapv (fun _ d => ({ pwrAt := d.pwrAt, cap := d.cap, passAt := d.passAt } : Drv)) s.drvs }
  let s : State := { s with repairs := s.repairs.map fun r => { r with stage := 0 } }
  let s : State := { s with sigs := nmapv (fun _ x => sigOff x) s.sigs }
  let s : State := { s with zn.zones := nmapv (fun _ z => { z with reserved := 0, permit := none, pend := none }) s.zn.zones, zn.signQ := [] }
  (s.put Reg.Glb.SIG_IN_SERVICE 0).put Reg.Glb.SIG_HELD 0

/-! ### The counter record (R443, R444) -/

/-- Write the counter record as a new generation to every half in service. -/
def writeCounters (s : State) : State :=
  if s.halfOk then
    let g := s.core.ctrGen + 1
    let s := s.eachHalf fun h => { h with ctrRecs := nset (g % 2) ⟨g, s.core.opImp, s.core.cycles⟩ h.ctrRecs }
    { s with core.ctrGen := g }
  else s

/-- COUNTER_RECORD_WRITE: every 7 500 000 imp. -/
def doCounterRecordWrite (s : State) : State :=
  if s.core.mode ≠ .powerQualify ∧ s.since s.core.ctrAt ≥ 7500000 then
    { writeCounters s with core.ctrAt := s.core.imp }
  else s

/-- The valid copy of highest generation among the halves in service. -/
def newestCtr (s : State) : Option CtrRec :=
  let all := ((if s.st0.ok then s.st0.ctrRecs else []) ++ (if s.st1.ok then s.st1.ctrRecs else [])).map (·.2)
  all.foldl (fun b r => match b with | some x => if r.gen > x.gen then some r else b | none => some r) none

/-- The module powers down; a module that controls it flushes the log and writes the counters first (R356, R444). -/
def powerDown (s : State) : State :=
  let s := if s.core.mode = .powerQualify then s else writeCounters (flushLog (recordEvents s))
  { s with core.powered := false }

/-! ### Zeroize and clear (R432) -/

/-- A key rotation in progress is abandoned; the old key stays in force (R429). -/
def abandonRotation (s : State) : State :=
  if s.sec.rotating.isSome then
    (({ s with sec.rotating := none } : State).putB Reg.Sec.ROTATING false).raise Reg.Sec.ROT_ABANDONED
  else s

/-- Zeroize: every secret goes at one boundary. -/
def zeroize (s : State) : State :=
  let s := abandonRotation s
  let s := { s with sec.kek := none, sec.dataKeys := [], sec.check := none, sec.castKey := none, sec.secrets := [], zn.nonces := [], sec.nonces := [] }
  let s := (List.range 8).foldl (fun s j => (s.put Reg.Sec.KEK 0 j).put Reg.Sec.KEK_NEW 0 j) s
  ((s.putB Reg.Sec.KEK_OK false).put Reg.Sec.KEYS_PRESENT 0).put Reg.Sec.SECRETS_SET 0

/-- The Case without content: tag store, frames, test window, ledgers. Channel states and the repair map stay. -/
def emptyCase (s : State) : State :=
  { s with
    cs := { chans := nmapv (fun _ c => { c with used := [], queue := [], testAt := none, reclaim := false }) s.cs.chans, map := s.cs.map, mapGen := s.cs.mapGen, mapDue := s.cs.mapDue }
    upds := [], repairs := [], zn.zones := []
    sigs := nmapv (fun _ x => ({ enterAt := x.enterAt, labelGen := x.labelGen } : Sig)) s.sigs
    cast.body := {}, cast.resuming := false }

/-- Clear begins: the Case is zeroed, as in CASE_INIT, in at most 1.0 s. -/
def beginClear (s : State) : State := { emptyCase s with sec.clearing := some s.core.imp }

/-! ### Resets (R12, R400, Table 18.4) -/

/-- The reset values of the fields of a reset kind. A field that an image sets is 0 until one is committed (R13). -/
def resetRegs (k : ResetKind) (r : Regs) : Regs :=
  Reg.allFields.foldl (fun r F =>
    if F.kind = .img ∧ k ≠ .port then (List.range (F.n1 * F.n2)).foldl (fun r i => rput F i 0 r) r else resetField k r F) r

/-- A makeready begins in a state, which is entered without the time of the state left (R387, R400, R403). -/
def startMakeready (k : ResetKind) (m : ModState) (s : State) : State :=
  let from_ := s.core.mode
  let s := { s with core.prev := from_, core.mode := m, core.entered := s.core.imp, core.lastReset := k }
  let s := if k = .module ∧ s.core.held then s else s.log 0x0001 0 [k.code]
  if from_ = m then s else ((s.ibi 1).raise Reg.Glb.STATE_CHANGE).log 0x0002 0 [from_.code, m.code]

/-- What a reset of kind M or W keeps and what it clears, registers apart (Table 18.4). -/
def resetCore (s : State) : State :=
  { s with
    rf.latches := [], rf.clearNext := [], rf.fresh := [], rf.hostWrites := []
    core.resetDue := none, core.safeDue := none, core.safeFlushed := false, core.released := false, core.resetCast := false
    core.asmAt := none, core.asmOver := false, core.forced := []
    el.freezeAt := none, el.clearAt := none, el.flushDue := true
    prs.pairs := []
    fnt.gsbTaken := false, fnt.calAt := none, fnt.disagree := false, fnt.relHold := none
    pins.pfIgnored := false
    sch := { therm := s.sch.therm, thermAt := s.sch.thermAt, junction := s.sch.junction, sensorFail := s.sch.sensorFail, cool1 := s.sch.cool1, cool2 := s.sch.cool2, cool3 := s.sch.cool3 }
    dma := {}, img := {}, sec := {}, hif := {}
    fe := nmapv (fun _ x => ({ rx := x.rx, tx := x.tx, fecCorr := x.fecCorr, fecUnc := x.fecUnc, fcs := x.fcs, drops := x.drops, retx := x.retx } : FePort)) s.fe
    conns := [], ctrls := [], cmds := [], units := [], ingress := 0, reserved := 0, anaChange := 0
    zn := { cnt := s.zn.cnt, dszGen := s.zn.dszGen }
    cs := {}, upds := [], sigs := [], lost := [], repairs := [], walks := [], drvs := [], cast := {}, stage := [], withheld := [] }

/-- The register fields take their reset values. -/
def regsReset (k : ResetKind) (s : State) : State := { s with rf.regs := resetRegs k s.rf.regs }

/-- A reset of kind M or W takes effect. -/
def applyReset (k : ResetKind) (s : State) : State :=
  let wasCast := s.core.resetCast
  let x := s.hif
  let s := regsReset k (resetCore (abandonCommit s))
  let s := if k = .module then { s with core.held := s.pins.fReset, core.probed := s.fnt.absent }
    else { s with core.ctrAt := s.core.imp, hif.hdr := x.hdr, hif.hdrOther := x.hdrOther, hif.ptr := x.ptr }
  let s := if wasCast then s.raise Reg.Glb.RESET_CAST else s
  let s := startMakeready k (if k = .module then .powerQualify else .selfTest) s
  if k = .warm then writeCounters s else s

/-! ### SAFE (R399) -/

/-- SAFE is entered: ports stop, the log is flushed, the outputs follow. -/
def enterSafe (cause : Nat) (s : State) : State :=
  let s := portsOff s
  let s := { s with core.safeDue := none, core.resetDue := none, cast.due := none }
  let s := s.enter .safe
  let s := s.log 0x0008 0 [cause]
  let s := (s.put Reg.Glb.SAFE_CAUSE cause).raise Reg.Glb.SAFE_ENTERED
  writeCounters { flushLog s with core.safeFlushed := true }

end Sys2Proof.Machine
end

