-- ==== Sys2Proof/Machine/Zones.lean ====
section
/-!
DEFINITION. Zone Management, seals and colophons, resets by permit, Report Zones and the open-zone snapshot (R73, R80 to R90).
-/

namespace Sys2Proof.Machine

/-! ### Zone actions (Table 3.2) -/

/-- The actions of Zone Management Send. -/
inductive ZAct where
  | open_ | close | finish | reset | offline
  deriving DecidableEq, Repr

/-- What an action does to one zone: a status of SCT 1; done at once; or done once the zone's reserved length is 0 or its seal
is complete. -/
inductive ZDone where
  | fail (sc : Nat) | now | later
  deriving DecidableEq, Repr

/-- The command kind that waits for an action. -/
def ZAct.op : ZAct → CmdOp
  | .open_ => .open_ | .close => .close | .finish => .finish | .reset => .reset | .offline => .offline

/-- What an action is waiting for on a zone. -/
def ZAct.pend : ZAct → Option ZPend
  | .close => some .close | .finish => some .finish | .reset => some .reset | _ => none

/-- Close, Finish or Reset takes effect on a zone whose reserved length is 0. -/
def zoneEffect (a : ZPend) (k : Nat) (s : State) : State :=
  match a with
  | .close => closeZone k s
  | .finish => fillZone k s
  | .reset => resetZone k s

/-- One action on one zone (Table 3.2, R73, R80, R82, R88). A second action that meets another one still waiting is refused. -/
def zoneAct (a : ZAct) (k : Nat) (s : State) : ZDone × State :=
  let z := s.zone k
  let ev := nsEvidence s (k / 2 ^ 32)
  let wait (p : ZPend) : ZDone × State :=
    if z.reserved = 0 then (.now, zoneEffect p k s) else (.later, s.updZone k fun z => { z with pend := some p })
  if z.permit.isSome then (.fail 0xBF, s)
  else if z.sealing.isSome then (if a = .finish then (.later, s) else (.fail 0xBF, s))
  else if z.pend.isSome then (if z.pend = a.pend then (.later, s) else (.fail 0xBF, s))
  else match a with
    | .open_ =>
      match z.st with
      | .full => (.fail 0xBF, s)
      | .readOnly => (.fail 0xBA, s)
      | .offline => (.fail 0xBB, s)
      | .explicit => (.now, s)
      | _ => match openZone k .explicit s with
        | (some sc, s) => (.fail sc, s)
        | (none, s) => (.now, s)
    | .close =>
      match z.st with
      | .empty | .full => (.fail 0xBF, s)
      | .readOnly => (.fail 0xBA, s)
      | .offline => (.fail 0xBB, s)
      | .closed => (.now, s)
      | _ => wait .close
    | .finish =>
      match z.st with
      | .readOnly => (.fail 0xBA, s)
      | .offline => (.fail 0xBB, s)
      | .full => (.now, s)
      | _ => if ev then (.later, beginSeal k false s) else wait .finish
    | .reset =>
      if z.st = .empty then (.now, s)
      else if ev then (.fail 0xBF, s)
      else match z.st with
        | .readOnly => (.fail 0xBA, s)
        | .offline => (.fail 0xBB, s)
        | _ => wait .reset
    | .offline =>
      match z.st with
      | .readOnly => if ev then (.fail 0xBF, s) else (.now, zoneSaved k (zoneChanged k (s.updZone k fun z => { z with st := .offline, slot := none })))
      | .offline => (.now, s)
      | _ => (.fail 0xBF, s)

/-- The zones that Select All names for an action (the Zoned Namespace Command Set's states; PRESUMED). -/
def ZAct.selects (a : ZAct) (z : Zone) : Bool :=
  match a with
  | .open_ => z.st == .closed
  | .close => z.isOpen
  | .finish => z.isActive
  | .reset => z.isActive || z.st == .full
  | .offline => z.st == .readOnly

/-- An action on every selected zone; a zone under a seal or an accepted permit is skipped. -/
def zoneActAll (a : ZAct) (n : Nat) (s : State) : Option Nat × List Nat × State :=
  let ks := (s.zn.zones.filter fun p => p.1 / 2 ^ 32 == n && a.selects p.2).map (·.1)
  if ks.isEmpty then (none, [], s)
  else if nsEvidence s n ∧ (a = .reset ∨ a = .offline) then (some 0xBF, [], s)
  else if a = .open_ ∧ openZones s + ks.length > 65536 then (some 0xBE, [], countZn 64 (s.raise Reg.Zn.OPEN_LIMIT))
  else
    let r := ks.foldl (fun (r : List Nat × State) k =>
      match zoneAct a k r.2 with
      | (.later, s) => (r.1 ++ [k], s)
      | (_, s) => (r.1, s)) ([], s)
    (none, r.1, r.2)

/-- A Zone Management Send past its common checks. -/
def zoneSend (a : ZAct) (x : ZoneCmd) (c : Conn) (s : State) : State :=
  let h := x.hdr
  let n := nsIx h.nsid
  let s := tag3 h.conn 0 s
  let _ := c
  let put (ks : List Nat) (s : State) : State :=
    (s.setCmd (cmdKey h.conn h.cid) { op := a.op, ns := n, slba := x.slba, nlb := 0, pi := none, ord := s.seq, at_ := s.core.imp, zones := ks })
  if x.selectAll then
    match zoneActAll a n s with
    | (some sc, _, s) => respond h.conn h.cid 1 sc 0 s
    | (none, [], s) => ok h 0 s
    | (none, ks, s) => put ks s
  else if x.slba ≥ nsSize s n then respond h.conn h.cid 0 0x80 0 s
  else if x.slba % zsze s n ≠ 0 then invalidField h s
  else
    let k := zoneKey n (x.slba / zsze s n)
    match zoneAct a k s with
    | (.fail sc, s) => respond h.conn h.cid 1 sc 0 s
    | (.now, s) => ok h 0 s
    | (.later, s) => put [k] s

/-- A Zone Management Send. -/
def doZoneSend (a : ZAct) (x : ZoneCmd) (s : State) : State :=
  gated .io true x.hdr (fun c s =>
    let n := nsIx x.hdr.nsid
    match checkNs false x.hdr c s <|> (if nsZoned s n then none else some (0, 0x01)) <|> checkLen x.hdr none with
    | some (sct, sc) => respond x.hdr.conn x.hdr.cid sct sc 0 s
    | none => zoneSend a x c s) s

/-- ZONE_ACTION_DEFERRED: a Close, Finish or Reset that waited takes effect at a reserved length of 0 (R70, R73). -/
def doZoneActionDeferred (n z : Nat) (s : State) : State :=
  let k := zoneKey n z
  match (s.zone k).pend with
  | some p =>
    if (s.zone k).reserved = 0 then
      let s := zoneEffect p k (s.updZone k fun z => { z with pend := none })
      let op := match p with | .close => CmdOp.close | .finish => CmdOp.finish | .reset => CmdOp.reset
      releaseHeld k (zoneDone k [op] s)
    else s
  | none => s

/-! ### Seals (R82, R84 to R86) -/

/-- The blocks of a zone read back: from the Case where they are, from the drives as the operand gives them; none where a block
that is needed is not there yet. `none` for a block that could not be recovered. -/
def readBack (s : State) (k : Nat) (back : List (Nat × Option Blk)) : Option (List (Option Blk)) :=
  let g := nsSig s (k / 2 ^ 32)
  let a := zoneLbn s k
  (List.range (s.zone k).fill).mapM fun o =>
    if inHb s g (a + o) then some none
    else match cellAt s g (a + o) with
      | some c => some (some (c.shadow.map (·.1) |>.getD c.data))
      | none => nfind o back

/-- The signing engine takes a request: it queues 64; a further one waits in its zone (R82). -/
def queueSeal (k : Nat) (s : State) : State :=
  if s.zn.signQ.length ≥ 64 then s
  else
    let idle := s.zn.signQ.isEmpty
    let s := { s with zn.signQ := s.zn.signQ ++ [k] }
    if idle then s.updZone k fun z => { z with sealing := z.sealing.map fun x => { x with signAt := some s.core.imp } } else s

/-- SEAL_DIGEST: step 3 of R82 at a reserved length of 0; a zone with hellbox blocks is read back and hashed afresh (R86). -/
def doSealDigest (n z : Nat) (back : List (Nat × Option Blk)) (s : State) : State :=
  let k := zoneKey n z
  let x := s.zone k
  match x.sealing with
  | none => s
  | some y =>
    if y.final ∨ x.reserved ≠ 0 then s
    else
      let finish (digest : List Nat) (s : State) : State :=
        let bad := zoneDamage s k
        let s := s.updZone k fun z => { z with sealing := some { y with
          final := true
          op := if y.op = 0 then opTimeOf s.core.opImp else y.op
          cycles := if y.cycles = 0 then s.core.cycles else y.cycles
          digest := digest, bad := bad } }
        queueSeal k s
      if (zoneDamage s k).isEmpty then finish (shaFinish (if x.sha.isEmpty then shaInit else x.sha) [] (4096 * x.fill)) s
      else match readBack s k back with
        | none => s
        | some bs =>
          let g := nsSig s n
          let lost := ((List.range bs.length).zip bs).filterMap fun p => if p.2.isNone then some (zoneLbn s k + p.1) else none
          let s := hbAdd g 1 lost s
          finish (shaFinish (absorb [] (bs.map fun b => b.getD 0)) [] (4096 * x.fill)) s

/-- The colophon block of a zone (Table 3.3). -/
def colophon (s : State) (k : Nat) (y : Seal) : List Nat :=
  let z := s.zone k
  let n := k / 2 ^ 32
  let body := offsetList 896 y.bad
  let flags := (if y.bad.isEmpty then 0 else 1) + (if y.bad.length > 896 then 2 else 0) + (if y.auto then 4 else 0) + (if z.fill = 0 then 8 else 0)
  let head := layout 448 [(0, ascii "COLO"), (4, leBytes 2 1 ++ leBytes 2 flags), (8, serialBytes), (24, leBytes 4 (n + 1)), (28, [nsSig s n]), (32, leBytes 8 (zoneStart s k)),
    (40, leBytes 4 (zsze s n)), (44, leBytes 4 z.fill), (48, leBytes 4 y.bad.length), (52, leBytes 4 y.op), (56, leBytes 4 (y.cycles % 2 ^ 24)), (60, leBytes 2 z.resets),
    (64, leBytes 4 z.firstOp), (68, leBytes 4 z.lastOp), (80, y.digest), (112, sha256 body)]
  let sig := Config.identitySign head
  head ++ ecBytes sig.1 ++ ecBytes sig.2 ++ body

/-- The next request of the signing engine begins; a zone that waits takes the free place. -/
def nextSeal (s : State) : State :=
  let wait := s.zn.zones.find? fun p => (p.2.sealing.any fun y => y.final) && !s.zn.signQ.contains p.1
  let s := match wait with
    | some p => if s.zn.signQ.length < 64 then { s with zn.signQ := s.zn.signQ ++ [p.1] } else s
    | none => s
  match s.zn.signQ with
  | [] => s
  | k :: _ => s.updZone k fun z => { z with sealing := z.sealing.map fun x => { x with signAt := some s.core.imp } }

/-- COLOPHON_SIGNED: 40 imp after its signing began, the colophon is written at the last block of the zone, which becomes Full
(step 5 of R82). -/
def doColophonSigned (n z : Nat) (s : State) : State :=
  let k := zoneKey n z
  match s.zn.signQ, (s.zone k).sealing with
  | q :: rest, some y =>
    if q = k ∧ y.final ∧ (y.signAt.any fun t => s.since t ≥ 40) then
      match land (nsSig s n) true (writeThrough s) [(zoneLbn s k + zsze s n - 1, blkOf (colophon s k y))] s with
      | none => s.bump Reg.Cc.FRAME_WAITS
      | some s =>
        let s := askPartial k (unretain k s)
        let last := sheetOfLbn s (nsSig s n) (zoneLbn s k + zsze s n - 1)
        let s := s.updSig (nsSig s n) fun x => { x with rank2 := addTo last x.rank2 }
        let s := s.updZone k fun z => { z with st := .full, slot := none, sealing := none, sealed := true, sealBad := !y.bad.isEmpty }
        let s := countZn 16 (s.bump Reg.Zn.SEALS)
        let s := if y.bad.isEmpty then s else
          { countZn 24 s with zn.dszGen := nset n (ngetD n 0 s.zn.dszGen + 1) s.zn.dszGen }
        let s := nextSeal { s with zn.signQ := rest }
        zoneDone k [.finish] (zoneSaved k s)
    else s
  | _, _ => s

/-! ### The authorised reset (R88) -/

/-- PERMIT_RESET: an accepted permit resets its zone at a reserved length of 0 with no seal in progress. -/
def doPermitReset (n z : Nat) (s : State) : State :=
  let k := zoneKey n z
  let x := s.zone k
  match x.permit with
  | some (nonce, c) =>
    if x.reserved = 0 ∧ x.sealing.isNone then
      let listed := x.sealed && (x.sealBad || x.later)
      let s := resetZone k (s.updZone k fun z => { z with resets := (z.resets + 1) % 65536 })
      let s := if listed then { s with zn.dszGen := nset n (ngetD n 0 s.zn.dszGen + 1) s.zn.dszGen } else s
      let s := countZn 40 (zoneChanged k (s.raise Reg.Zn.AUTH_RESET))
      let s := s.log 0xA003 n (leBytes 4 (n + 1) ++ leBytes 8 (zoneStart s k) ++ leBytes 16 nonce)
      releaseHeld k (endCmd c 0 0 0 s)
    else s
  | none => s

/-! ### Report Zones and the snapshot (R73, R90) -/

/-- Zone state codes of a zone descriptor (PRESUMED: the Zoned Namespace Command Set's). -/
def ZState.code : ZState → Nat
  | .empty => 1 | .implicit => 2 | .explicit => 3 | .closed => 4 | .readOnly => 0xD | .full => 0xE | .offline => 0xF

/-- The Report Zones filter of each state. -/
def ZState.filter : ZState → Nat
  | .empty => 1 | .implicit => 2 | .explicit => 3 | .closed => 4 | .full => 5 | .readOnly => 6 | .offline => 7

/-- REPORT_ZONES: descriptors from a zone on. -/
def doReportZones (x : ReportCmd) (s : State) : State :=
  let h := x.hdr
  gated .io true h (fun c s =>
    let n := nsIx h.nsid
    match checkNs false h c s <|> (if nsZoned s n then none else some (0, 0x01)) <|> checkLen h none with
    | some (sct, sc) => respond h.conn h.cid sct sc 0 s
    | none =>
      if x.slba ≥ nsSize s n then respond h.conn h.cid 0 0x80 0 s
      else
        let z0 := x.slba / zsze s n
        let zs := ((List.range (zoneCount s n - z0)).map fun j => z0 + j).filter fun z =>
          x.stateFilter == 0 || (s.zone (zoneKey n z)).st.filter == x.stateFilter
        let desc (z : Nat) : List Nat :=
          let y := s.zone (zoneKey n z)
          [2, y.st.code * 16, 0, 0, 0, 0, 0, 0] ++ leBytes 8 (zsze s n) ++ leBytes 8 (z * zsze s n) ++ leBytes 8 (z * zsze s n + y.fill) ++ List.replicate 32 0
        returnBytes h 0 (leBytes 8 zs.length ++ List.replicate 56 0 ++ (zs.take x.maxZones).flatMap desc) (tag3 h.conn h.len s)) s

/-- OZT_SEL: the snapshot of an open-zone table entry. -/
def doOztSel (v : Nat) (s : State) : State :=
  let i := v % 65536
  let s := s.put Reg.Zn.OZT_SEL i
  let e := s.zn.zones.find? fun p => p.2.slot == some i
  let f (g : Nat → Zone → Nat) : Nat := (e.map fun p => g p.1 p.2).getD 0
  let b (g : Nat → Zone → Bool) : Bool := e.any fun p => g p.1 p.2
  let wp := f fun k z => zoneStart s k + z.fill
  let s := ((s.putB Reg.Zn.OZT_VALID e.isSome).putB Reg.Zn.IMPLICIT (b fun _ z => z.st == .implicit)).putB Reg.Zn.OZT_EVID (b fun k _ => nsEvidence s (k / 2 ^ 32))
  let s := (s.putB Reg.Zn.SEAL_PENDING (b fun _ z => z.sealing.isSome)).putB Reg.Zn.DAMAGED (b fun _ z => z.damaged)
  let s := (s.put Reg.Zn.NS_INDEX (f fun k _ => k / 2 ^ 32)).put Reg.Zn.ZONE_INDEX (f fun k _ => k % 2 ^ 32)
  let s := (s.put Reg.Zn.WP_LO (wp % 2 ^ 32)).put Reg.Zn.WP_HI (wp / 2 ^ 32)
  let g := f fun k z => z.fill % max 1 (sheetSpan s (nsSig s (k / 2 ^ 32)) 0).2
  ((s.put Reg.Zn.GALLEY_FILL g).put Reg.Zn.LAST_WRITE (f fun _ z => z.lastWrite % 2 ^ 32)).put Reg.Zn.RESERVED_NLB (f fun _ z => z.reserved)

/-! ### The commands -/

def execZoneOpen (x : ZoneCmd) (s : State) : Host.Outcome State Fault Refusal := .next (whenOn (doZoneSend .open_ x) s)
def execZoneClose (x : ZoneCmd) (s : State) : Host.Outcome State Fault Refusal := .next (whenOn (doZoneSend .close x) s)
def execZoneFinish (x : ZoneCmd) (s : State) : Host.Outcome State Fault Refusal := .next (whenOn (doZoneSend .finish x) s)
def execZoneReset (x : ZoneCmd) (s : State) : Host.Outcome State Fault Refusal := .next (whenOn (doZoneSend .reset x) s)
def execZoneOffline (x : ZoneCmd) (s : State) : Host.Outcome State Fault Refusal := .next (whenOn (doZoneSend .offline x) s)
def execZoneActionDeferred (n : NsIx) (z : Nat) (s : State) : Host.Outcome State Fault Refusal := .next (whenOn (doZoneActionDeferred n.val z) s)
def execSealDigest (n : NsIx) (z : Nat) (b : List (Nat × Option Blk)) (s : State) : Host.Outcome State Fault Refusal :=
  .next (whenOn (doSealDigest n.val z b) s)
def execColophonSigned (n : NsIx) (z : Nat) (s : State) : Host.Outcome State Fault Refusal := .next (whenOn (doColophonSigned n.val z) s)
def execPermitReset (n : NsIx) (z : Nat) (s : State) : Host.Outcome State Fault Refusal := .next (whenOn (doPermitReset n.val z) s)
def execReportZones (x : ReportCmd) (s : State) : Host.Outcome State Fault Refusal := .next (whenOn (doReportZones x) s)
def execOztSel (v : RegWord) (s : State) : Host.Outcome State Fault Refusal := .next (whenOn (doOztSel v.toNat) s)

end Sys2Proof.Machine
end

