-- ==== Sys2Proof/Machine/Casts.lean ====
section
/-!
DEFINITION. Hold, casting, the recast, and releases (R292 to R306), with what waits for a cast: a SAFE entry (R399), a reset
(R401) and a tamper response (R432).
-/

namespace Sys2Proof.Machine

/-! ### What the Case holds to be cast (R294, R296) -/

/-- Content to cast: dirty data, galleys, journal entries, restored cast data or a seal in progress; and, unless the ceiling is
0, an open zone or internal lines that no Stereo commit holds yet. -/
def castContent (s : State) : Bool :=
  decide (s.dirty > 0) || (allLines s).any Line.held || !s.upds.isEmpty || (s.sigs.any fun p => p.2.rs.any fun r => r.win.isSome) ||
    s.cast.restored.isSome || (s.zn.zones.any fun p => p.2.sealing.isSome) ||
    (s.get Reg.Fount.CEILING != 0 &&
      ((s.zn.zones.any fun p => p.2.isOpen) || s.sigs.any fun p => p.2.pendingSet || p.2.pendingClear || p.2.commit.isSome))

/-- The sectors of a line that a cast carries. -/
def castLine (x : Line) : Line := { x with cells := x.cells.filter fun c => c.2.dirty || c.2.upd.isSome || c.2.shadow.isSome }

/-- What a cast carries (R296). What an earlier cast restored for a signature not yet in service is carried on. -/
def bodyOf (s : State) : CastBody :=
  { lines := ((allLines s).filter Line.held).map castLine
    upds := s.upds
    zones := s.zn.zones
    sigs := s.sigs.map fun p => (p.1, if p.2.inService then p.2.k else ngetD p.1 p.2.k s.cast.body.sigs)
    rss := s.sigs.filterMap fun p => (p.2.rs <|> nfind p.1 s.cast.body.rss).map fun r => (p.1, r) }

/-! ### The cast slots (R297, R301) -/

/-- The valid headers of the halves in service. -/
def validSlots (s : State) : List CastSlot :=
  (((if s.st0.ok then s.st0.slots.map (·.2) else []) ++ (if s.st1.ok then s.st1.slots.map (·.2) else [])).filter (·.ok))

/-- The newest valid cast. -/
def newestSlot (s : State) : Option CastSlot :=
  (validSlots s).foldl (fun b x => match b with | some y => if x.gen > y.gen then some x else b | none => some x) none

/-- The generation of the last cast consumed. -/
def castReg (s : State) : Nat := max (if s.st0.ok then s.st0.castReg else 0) (if s.st1.ok then s.st1.castReg else 0)

/-- The pending cast (R301). -/
def pendingSlot (s : State) : Option CastSlot := (newestSlot s).filter fun x => x.gen > castReg s

/-- A cast is consumed (R304). -/
def consume (gen : Nat) (s : State) : State :=
  let s := s.eachHalf fun h => { h with castReg := max h.castReg gen }
  ({ s with cast.restored := none } : State).raise Reg.Cast.CAST_CONSUMED

/-- The older slot of each half in service is erased (R297). -/
def eraseOlder (s : State) : State := s.eachHalf fun h => { h with slots := nset h.older { erased := true } h.slots }

/-- The registers of the newest valid cast (Table 12.11). -/
def showCast (s : State) : State :=
  match newestSlot s with
  | some x =>
    let s := (s.put Reg.Cast.CAST_GEN_LO (x.gen % 2 ^ 32)).put Reg.Cast.CAST_GEN_HI (x.gen / 2 ^ 32 % 2 ^ 32)
    let s := s.put Reg.Cast.LAST_CAST_BLOCKS ((2049 + (x.entries * 128 + 4095) / 4096 + x.blocks) % 2 ^ 25)
    (s.put Reg.Cast.LAST_CAST_IMP (x.dur % 2 ^ 32)).put Reg.Cast.LAST_CAST_CAUSE (x.causes % 256)
  | none => s

/-! ### A cast begins (R28, R295) -/

/-- Every append and write whose data is wholly in the Case is assigned or stored at the boundary of the cast (R295 step 1). -/
def assignAll (s : State) : State :=
  let ks := s.cmds.map (·.1)
  let s := ks.foldl (fun s k => storeWrite k s) s
  ks.foldl (fun s _ => ks.foldl (fun s k => doAppendAssign (k / 65536) (k % 65536) s) s) s

/-- A RELEASE_GO that HOLD keeps is void when Hold ends in a cast (R306). -/
def voidRelease (s : State) : State :=
  let s := if s.core.mode = .hold ∧ s.bit Reg.Cast.RELEASE_GO then (s.settle Reg.Cast.RELEASE_GO).raise Reg.Cast.RELEASE_REFUSED else s
  { s with cast.attn := false }

/-- What a cast ends elsewhere: a commit (R384), a key rotation (R429), host DMA and the range engines, the test window, a freeze of
the log, a release for maintenance. -/
def endForCast (s : State) : State :=
  let s := (abandonRotation (abandonCommit (voidRelease s))).putB Reg.Glb.MAINT_PENDING false
  let s := if s.bit Reg.El.FREEZE ∨ s.bit Reg.El.FROZEN then endFreeze s else s
  let s := abortRanges (abortDma s)
  if s.core.mode = .maintenance then endEccTest s else s

/-- CAST_BEGIN: the module enters CAST; ports stop, the merge buffer is emptied, and what the cast carries is fixed. -/
def beginCast (causes : Nat) (s : State) : State :=
  let s := assignAll (endForCast s)
  let body := bodyOf s
  let dirty := s.dirty
  let s := emptyMerge (portsOff s)
  let s := s.eachHalf fun h => { h with castsTotal := h.castsTotal + 1 }
  let s := s.put Reg.Cast.CASTS_TOTAL (max s.st0.castsTotal s.st1.castsTotal % 2 ^ 32)
  let s : State := { s with
    cast.due := none, cast.causes := causes, cast.begun := s.core.imp, cast.beganOp := s.core.opImp, cast.dirty := dirty
    cast.gsb := gsbBytes s, cast.body := body, cast.healthyAt := none, cast.final := false, fnt.relHold := none }
  s.enter .cast

/-- A cast that is due begins once no switch-over is in progress (R27, R295). -/
def tryCast (s : State) : State :=
  match s.cast.due with
  | some c => if s.switching ∨ s.core.mode = .cast then s else beginCast c s
  | none => s

/-- A cast trigger (R28): recorded by itself; while a cast is in progress it only adds its cause. -/
def dueCast (bit : Nat) (s : State) : State :=
  let s := s.log 0x1004 0 [bit]
  if s.core.mode = .cast then { s with cast.causes := s.cast.causes ||| 2 ^ bit }
  else { s with cast.due := some (s.cast.due.getD 0 ||| 2 ^ bit) }

/-- What waits at a boundary: a SAFE entry, with its cast first where R399 allows one, and a cast that is due. -/
def settleCore (s : State) : State :=
  if !s.core.powered then s
  else match s.core.safeDue with
    | some (cause, allowed) =>
      if s.core.mode = .safe then { s with core.safeDue := none }
      else if s.core.mode = .cast then s
      else if allowed ∧ s.core.mode ≠ .castDone ∧ castContent s ∧ s.halfOk then tryCast { s with cast.due := some (s.cast.due.getD 0) }
      else enterSafe cause s
    | none => tryCast s

/-- Casts for each of some triggers. -/
def castFor (bits : List Nat) (s : State) : State := settleCore (bits.foldl (fun s b => dueCast b s) s)

/-! ### Releases (R305) -/

/-- An open zone is closed for a release; one that seals is left, and one with a reserved length waits (R70, R71). -/
def closeForRelease (k : Nat) (s : State) : State :=
  let z := s.zone k
  if !z.isOpen ∨ z.sealing.isSome then s
  else if z.reserved > 0 then s.updZone k fun z => { z with pend := some (z.pend.getD .close) }
  else closeZone k s

/-- RELEASE_START: the zones close and every dirty sheet is a candidate of rank 2 (R305 steps 1 and 2). -/
def startRelease (s : State) : State :=
  let s := s.enter .release
  let s : State := { s with core.released := false, cast.final := false, fnt.relHold := none }
  let s := (s.zn.zones.map (·.1)).foldl (fun s k => closeForRelease k s) s
  (dirtySheets s).foldl (fun s x => s.updSig x.1 fun y => { y with rank2 := addTo x.2 y.rank2 }) s

/-- A release is requested in PRESS_RUN: normal or, with RELEASE_FAST, by a cast with cause bit 4. -/
def beginRelease (s : State) : State := if s.bit Reg.Cast.RELEASE_FAST then castFor [4] s else startRelease s

/-! ### Hold (R292 to R294) -/

/-- Both inputs are lost; a Hold condition (R292). -/
def inputsLost (s : State) : Bool := decide (s.fnt.inA.low ≥ 2) && decide (s.fnt.inB.low ≥ 2)
def holdCond (s : State) : Bool := inputsLost s || (s.pins.fPf && !s.pins.pfIgnored)

/-- The cause bits of a cast made for a Hold condition. -/
def holdCauses (s : State) : List Nat :=
  let pf := s.pins.fPf && !s.pins.pfIgnored
  (if inputsLost s || !pf then [0] else []) ++ (if pf then [1] else [])

/-- Ride-through ends in a cast; where nothing is to be cast, the module powers down with its inputs (R294). -/
def castOrOff (s : State) : State :=
  if s.core.mode = .hold ∨ castContent s then castFor (holdCauses s) s
  else if inputsLost s then powerDown s else s

/-- HOLD_ENTRY. -/
def enterHold (s : State) : State :=
  let s := endCalRest { s with fnt.holdAt := s.core.imp, fnt.holdCeil := s.get Reg.Fount.CEILING }
  let s := ((s.raise Reg.Fount.HOLD_ENTERED).log 0x1002 0 (leBytes 4 s.fnt.holdCeil)).enter .hold
  if s.get Reg.Fount.RIDE_MS = 0 then castOrOff s else s

/-- HOLD_EXIT; a release kept by HOLD is taken (R306, R420). -/
def exitHold (s : State) : State :=
  let s := ((s.raise Reg.Fount.HOLD_RETURNED).log 0x1003 0 (leBytes 4 (s.since s.fnt.holdAt))).enter .pressRun
  if s.bit Reg.Cast.RELEASE_GO ∨ s.cast.attn then
    beginRelease ({ (if s.bit Reg.Cast.RELEASE_GO then s.settle Reg.Cast.RELEASE_GO else s) with cast.attn := false } : State)
  else s

/-- In the powered CAST_DONE: since when an input is healthy and PWRFAIL_N deasserted (R299). -/
def noteHealthy (s : State) : State :=
  if s.core.mode = .castDone then
    { s with cast.healthyAt := if anyHealthy s ∧ !s.pins.fPf then (s.cast.healthyAt <|> some s.core.imp) else none }
  else s

/-- What the Hold condition does in the present state (R293, R294, R299). -/
def evalHold (s : State) : State :=
  let c := holdCond s
  match s.core.mode with
  | .pressRun => if c ∧ s.cast.due.isNone then enterHold s else s
  | .hold => if s.cast.due.isNone ∧ !c ∧ anyHealthy s then exitHold s else s
  | .release =>
    if s.core.released then (if inputsLost s then powerDown s else s)
    else if s.cast.due.isSome then s
    else match s.fnt.relHold with
      | none =>
        if c then
          let s := endCalRest { s with fnt.relHold := some s.core.imp }
          if s.get Reg.Fount.RIDE_MS = 0 then castOrOff s else s
        else s
      | some _ => if !c ∧ anyHealthy s then { s with fnt.relHold := none } else s
  | .selfTest | .caseInit | .imageWait | .keyWait | .assemble =>
    if c ∧ castContent s then (if s.cast.due.isNone then castFor (holdCauses s) s else s)
    else if inputsLost s then powerDown s else s
  | .recast | .maintenance | .safe => if inputsLost s ∧ s.sec.clearing.isNone then powerDown s else s
  | .castDone => if !anyHealthy s ∧ s.sec.clearing.isNone then powerDown s else noteHealthy s
  | .cast | .powerQualify => s

/-- RIDE_THROUGH_EXPIRED: RIDE_MS × 125 imp have passed in Hold (R293, R294). -/
def doRideThroughExpired (s : State) : State :=
  let due (t : Nat) : Bool := decide (s.since t ≥ s.get Reg.Fount.RIDE_MS * 125)
  if s.cast.due.isSome then s
  else match s.core.mode, s.fnt.relHold with
    | .hold, _ => if due s.fnt.holdAt then castOrOff s else s
    | .release, some t => if due t ∧ !s.core.released then castOrOff s else s
    | _, _ => s

/-- FOUNT_SHORT (R293): the pack is low, or no longer covers a cast and the rest of the window. -/
def fountShort (s : State) : Bool :=
  let at_ : Option Nat := match s.core.mode with | .hold => some s.fnt.holdAt | .release => s.fnt.relHold | _ => none
  match at_ with
  | none => false
  | some t =>
    let left : Rat := (s.get Reg.Fount.RIDE_MS * 125 - s.since t : Nat) / 125000
    s.fnt.packLow || decide (sureEnergy s - (s.get Reg.Fount.E_MARGIN : Nat) < 40 + 32 / 10 * ((s.dirty : Nat) / 262144 : Rat) + 80 * left)

/-! ### The input monitor and PWRFAIL_N (R292, R300) -/

def State.input (s : State) (b : Bool) : Input := if b then s.fnt.inB else s.fnt.inA
def State.updInput (s : State) (b : Bool) (f : Input → Input) : State :=
  if b then { s with fnt.inB := f s.fnt.inB } else { s with fnt.inA := f s.fnt.inA }

/-- The monitor's newest sample of an input. -/
def sampleInput (b : Bool) (mv : Nat) (s : State) : State :=
  (s.updInput b fun x => { x with mv := mv }).put (if b then Reg.Fount.IN_B_V else Reg.Fount.IN_A_V) (min mv 65535)

/-- An input is lost: it fell below 8.5 V for two samples. -/
def loseInput (b : Bool) (s : State) : State :=
  let s := s.updInput b fun x => { x with low := 2, healthy := false }
  ((doGaugeWake s).raise (if b then Reg.Fount.INPUT_B_LOST else Reg.Fount.INPUT_A_LOST)).log 0x1001 (if b then 1 else 0)

/-- INPUT_LOW: an input is sampled below 8.5 V. One sample is filtered out; from the second on, the input is low. -/
def doInputLow (b : Bool) (mv : Nat) (s : State) : State :=
  if mv < 8500 then
    let x := s.input b
    let s := sampleInput b mv s
    if x.low ≥ 2 then s
    else if x.low = 0 then s.updInput b fun x => { x with low := 1, lowAt := s.core.imp }
    else if s.core.imp > x.lowAt then evalHold (loseInput b s)
    else s
  else s

/-- INPUT_HEALTHY: two samples in a row at or above 9.0 V, of an input whose stage is not cut off (R455, R466). -/
def doInputHealthy (b : Bool) (mv : Nat) (s : State) : State :=
  let x := s.input b
  if mv ≥ 9000 ∧ x.faultAt.isNone ∧ !x.latched then
    let s : State := { s with fnt.carries := false }
    evalHold ((sampleInput b mv s).updInput b fun x => { x with low := 0, healthy := true })
  else s

/-- PWRFAIL_N is ignored for a cause (R300). -/
def ignorePf (cause : Nat) (s : State) : State :=
  if s.pins.pfIgnored then s
  else
    let s := ({ s with pins.pfIgnored := true } : State).putB Reg.Fount.PF_IGNORED true
    evalHold (((s.put Reg.Fount.PF_STUCK_CAUSE cause).raise Reg.Fount.PWRFAIL_STUCK).log 0x100D 0 [cause])

/-- An edge of the filtered PWRFAIL_N: the sixteenth within 125 000 imp is chatter (R300). -/
def pfEdge (level : Bool) (s : State) : State :=
  let es := s.core.imp :: s.pins.pfEdges.filter fun t => s.since t < 125000
  let s : State := { s with pins.fPf := level, pins.pfEdges := es, pins.pfSince := s.core.imp }
  let s := noteHealthy s
  if es.length ≥ 16 then ignorePf 2 s else s

/-- PWRFAIL_ASSERTED and PWRFAIL_DEASSERTED: the filtered level changes (R292, R417). -/
def doPwrfail (level : Bool) (s : State) : State := if s.pins.fPf = level then s else evalHold (pfEdge level s)

/-- PWRFAIL_STUCK: asserted for 7 500 000 imp in CAST_DONE with a healthy input (R300). -/
def doPwrfailStuck (s : State) : State :=
  if s.core.mode = .castDone ∧ s.pins.fPf ∧ anyHealthy s ∧ s.since (max s.pins.pfSince s.core.entered) ≥ 7500000 then ignorePf 1 s else s

/-- PWRFAIL_TRUSTED: deasserted for 125 000 imp without an edge (R300). -/
def doPwrfailTrusted (s : State) : State :=
  if s.pins.pfIgnored ∧ !s.pins.fPf ∧ s.since s.pins.pfSince ≥ 125000 then
    (({ s with pins.pfIgnored := false } : State).putB Reg.Fount.PF_IGNORED false).put Reg.Fount.PF_STUCK_CAUSE 0
  else s

/-! ### The cast completes (R295 steps 3 to 5) -/

/-- The header and body that a half receives; a half alone in service sets flag bit 3. -/
def newSlot (s : State) (gen entries blocks : Nat) : CastSlot :=
  { programmed := true, ok := true, gen := gen, fast := s.cast.causes / 16 % 2 == 1, oneHalf := s.st0.ok != s.st1.ok
    imgHash := (s.img.cur.map (·.hash)).getD [], op := opTimeOf s.cast.beganOp, cycles := s.core.cycles, causes := s.cast.causes
    entries := entries, blocks := blocks, dirty := s.cast.dirty, dur := s.since s.cast.begun
    castKey := Config.keyWrap (s.sec.kek.getD 0) (s.sec.castKey.getD 0)
    dataKeys := nmapv (fun _ k => Config.keyWrap (s.sec.kek.getD 0) k) s.sec.dataKeys
    gsb := s.cast.gsb, body := s.cast.body }

/-- A fresh cast key is drawn in advance, unless the generator has stopped (R423). -/
def drawCastKey (s : State) : State :=
  if s.bit Reg.Sec.RNG_FAIL then s else let r := s.random; { r.2 with sec.castKey := some r.1 }

/-- Every half in service takes the cast; what its index counts beside the body kept here is left open. -/
def writeCast (s : State) : State :=
  let gen := max ((newestSlot s).map (·.gen) |>.getD 0) (castReg s) + 1
  let e := s.draw
  let b := e.2.draw
  let s := b.2
  let slot := newSlot s gen (e.1 % 524289) (b.1 % 31438847)
  let s := s.eachHalf fun h => { h with slots := nset h.older slot h.slots }
  let s := showCast (s.raise Reg.Cast.CAST_MADE)
  s.log 0x1005 0 (leBytes 8 gen ++ leBytes 4 (s.get Reg.Cast.LAST_CAST_BLOCKS) ++ leBytes 4 slot.dur)

/-- Zeroize and clear (R432). -/
def tamperResponse (s : State) : State := beginClear (zeroize { s with sec.tamperCast := false, sec.wasTampered := true })

/-- CAST_DONE is entered; without a healthy input the module powers down (R299). -/
def enterCastDone (s : State) : State :=
  let s := s.enter .castDone
  let s := if s.cast.causes / 16 % 2 = 1 then (s.raise Reg.Cast.RELEASE_DONE).log 0x100E 0 [1] else s
  let s := if s.sec.tamperCast then tamperResponse s else s
  if !anyHealthy s ∧ s.sec.clearing.isNone then powerDown s else noteHealthy s

/-- CAST_COMPLETE: every half in service holds its header; what waited for the cast follows. -/
def doCastComplete (s : State) : State :=
  if s.core.mode = .cast then
    let earlier := s.cast.restored <|> (pendingSlot s).map (·.gen)
    let s := if s.halfOk then writeCast s else s
    let s := match earlier with | some g => consume g s | none => s
    let s := drawCastKey s
    let s := writeCounters (if s.halfOk then writeMap s else s)
    let s := flushLog (recordEvents s)
    match s.core.safeDue, s.core.resetDue with
    | some (cause, _), _ => let s := enterSafe cause s; if s.sec.tamperCast then tamperResponse s else s
    | none, some k => applyReset k { s with core.resetCast := true }
    | none, none => enterCastDone s
  else s

/-! ### ASSEMBLE begins, from a recast or from the Case (R299, R303) -/

/-- The bitmap copies of the Stereo store whose signature identity is that of the image (R144, R168, R184). -/
def stereoBmps (s : State) (g : Nat) : List BmpCopy :=
  match impOf s g with
  | some i =>
    let of (h : HalfSt) : List BmpCopy := if h.ok then (h.bmps.filter fun p => p.1 / 2 == g && p.2.identity == i.identity).map (·.2) else []
    of s.st0 ++ of s.st1
  | none => []

/-- The one of highest generation. -/
def newestBmp (s : State) (g : Nat) : Option BmpCopy :=
  (stereoBmps s g).foldl (fun b x => match b with | some y => if x.gen > y.gen then some x else b | none => some x) none

/-- Whether a cast carries what a signature keeps, and was restored. -/
def castHas (s : State) (g : Nat) : Bool := (nfind g s.cast.body.sigs).isSome

/-- ASSEMBLE is entered: each signature has what the cast or the Stereo store kept of its members; present and powered ports begin their
bring-up, and the other members are absent (R227, R230, R387). -/
def enterAssemble (s : State) : State :=
  let s := s.enter .assemble
  let s : State := { s with core.asmAt := some s.core.imp, core.asmOver := false, core.forced := [] }
  let kept (g : Nat) (x : Sig) : SigKeep := if castHas s g then x.k else ((newestBmp s g).map (·.keep)).getD {}
  let s : State := { s with sigs := nmapv (fun g x => { x with inService := false, heldOut := false, entering := false, creating := false, k := kept g x }) s.sigs }
  (List.range 128).foldl (fun s p =>
    if s.bit Reg.Drv.PRESENT p ∧ s.bit Reg.Drv.PWR_ON p then s.updDrv p fun x => { x with pwrAt := s.core.imp, bringing := true }
    else makeAbsent p s) s

/-- Restored journal entries and dirty data are known from what comes later (R304); the writes of an entry begin anew. -/
def markRestored (gen : Nat) (s : State) : State :=
  { s with
    upds := nmapv (fun _ u => { u with done := [], restored := true }) s.upds
    zn.zones := nmapv (fun _ z => { z with sealing := z.sealing.map fun y => { y with signAt := none } }) s.zn.zones
    cast.restored := some gen, cast.mark := s.seq }

/-- A seal whose final digest stands is queued again for the signing engine (R83); the others run from their start. -/
def resumeSeals (s : State) : State :=
  { s with zn.signQ := (s.zn.zones.filter fun p => p.2.sealing.any fun y => !y.digest.isEmpty).map (·.1) }

/-- RESUME_FROM_CASE: input is back for 1 s, or PWRFAIL_N is stuck, after a cast for input loss or PWRFAIL_N (R299, R300). -/
def doResumeFromCase (s : State) : State :=
  let quiet := s.cast.healthyAt.any fun t => s.since t ≥ 125000
  let stuck := s.pins.pfIgnored && s.get Reg.Fount.PF_STUCK_CAUSE == 1 && anyHealthy s
  if s.core.mode = .castDone ∧ (s.cast.causes = 1 ∨ s.cast.causes = 2 ∨ s.cast.causes = 3) ∧ (quiet ∨ stuck) ∧ !s.cast.resuming ∧
      s.cast.eraseAt.isNone ∧ s.sec.clearing.isNone ∧ !s.sec.wasTampered then
    { s with cast.eraseAt := some s.core.imp, cast.resuming := true }
  else s

/-- A resume or a recast is done: 0x1006 and RECAST_DONE. -/
def recastDone (gen lost : Nat) (s : State) : State := (s.raise Reg.Cast.RECAST_DONE).log 0x1006 0 (leBytes 8 gen ++ leBytes 4 lost)

/-- SLOT_ERASE_COMPLETE: the older slots are erased (R297); a resume goes on to ASSEMBLE with the Case as it stands (R299). -/
def doSlotEraseComplete (s : State) : State :=
  if s.cast.eraseAt.isSome then
    let s := { eraseOlder s with cast.eraseAt := none }
    if s.cast.resuming ∧ s.core.mode = .castDone then
      let gen := ((newestSlot s).map (·.gen)).getD 0
      let s : State := { markRestored gen s with cast.resuming := false }
      enterAssemble (resumeSeals (recastDone gen 0 s))
    else s
  else s

/-! ### RECAST (R302, R303) -/

/-- A line takes two frames in two channels and enters the tag store with age 0 (R242, R303). -/
def restoreLine (x : Line) (s : State) : State :=
  match chooseWay (lineSet s x.kind x.sig x.num) s with
  | none => s
  | some (k, s) =>
    match takePair s with
    | none => s
    | some (fs, s) =>
      let sh := if x.cells.any fun c => c.2.shadow.isSome then takePair s else none
      let s := match sh with | some (_, s) => s | none => s
      let y : Line := { x with age := 0, primary := fs.getD 0 0, duplex := fs[1]?, shFrames := (sh.map (·.1)).getD [] }
      { s with cs.tags := nset k y s.cs.tags }

/-- The blocks of a line that a cast carries, by signature block number. -/
def lineLbns (x : Line) : List Nat := (x.cells.filter fun c => c.2.dirty || c.2.upd.isSome || c.2.shadow.isSome).map fun c => x.num * 128 + c.1

/-- A lost body of type 1 or 2 takes its sectors out of its lines, one of type 3 its shadows (Table 12.8). -/
def cutLost (b : LostBody) (x : Line) : Line :=
  if x.sig ≠ b.sig.val ∨ x.kind ≠ 0 then x
  else { x with cells := x.cells.filterMap fun c =>
      if !b.lbns.contains (x.num * 128 + c.1) then some c
      else if b.typ = 3 then some (c.1, { c.2 with shadow := none })
      else c.2.shadow.map fun z => (c.1, { c.2 with data := z.1, dirty := true, since := z.2.1, ord := z.2.2, upd := none, shadow := none }) }

/-- What a lost body does to the body of the cast (R303). -/
def loseBody (c : CastBody) (b : LostBody) : CastBody :=
  if b.typ = 1 ∨ b.typ = 2 ∨ b.typ = 3 then { c with lines := c.lines.map (cutLost b) }
  else if b.typ = 4 then { c with upds := nmapv (fun i u => if i = b.update ∧ u.st = .ready then { u with st := .parity } else u) c.upds }
  else if b.typ = 5 then { c with upds := ndel b.update c.upds }
  else c

/-- A cast that cannot be recast (R301): CAST_LOST, and R72 for the zones that were open. -/
def castLost (gen reason : Nat) (s : State) : State :=
  (({ s with cast.lost := true } : State).raise Reg.Cast.CAST_LOST).log 0x1007 0 (leBytes 8 gen ++ [reason])

/-- The restoration of R303, in its order. -/
def restoreBody (gen : Nat) (c : CastBody) (s : State) : State :=
  let top := ((c.lines.flatMap fun x => x.cells.map fun p => max p.2.ord ((p.2.shadow.map (·.2.2)).getD 0))).foldl max s.seq
  let s : State := { s with
    sigs := c.sigs.foldl (fun m p => nset p.1 { ngetD p.1 {} m with k := p.2, rs := nfind p.1 c.rss <|> (ngetD p.1 {} m).rs } m) s.sigs
    zn.zones := nmapv (fun _ z => { z with reserved := 0, pend := none, permit := none }) c.zones
    upds := c.upds, cast.body := c, seq := top }
  resumeSeals (markRestored gen (c.lines.foldl (fun s x => restoreLine x s) s))

/-- RECAST_COMPLETE: the pending cast is restored, with the bodies that matched in neither half lost (R303). -/
def doRecastComplete (lost : List LostBody) (indexOk : Bool) (s : State) : State :=
  match s.core.mode, pendingSlot s with
  | .recast, some x =>
    let bad := lost.any fun b => b.typ = 6 ∨ b.typ = 7
    let s := (s.put Reg.Cast.RECAST_PCT 100).put Reg.Cast.RECAST_LOST (min lost.length (2 ^ 32 - 1))
    let s :=
      if !indexOk then castLost x.gen 2 { s with cast.restored := some x.gen, cast.mark := s.seq }
      else if bad then castLost x.gen 5 { s with cast.restored := some x.gen, cast.mark := s.seq }
      else
        let dropped := lost.filter fun b => b.typ = 5
        let s := restoreBody x.gen (lost.foldl loseBody x.body) s
        let s := dropped.foldl (fun s b =>
          match nfind b.update x.body.upds with
          | some u => s.updSig u.sig fun y => { y with resync := (regionsOf s u.sig u.sheet).foldl (fun l r => addTo r l) y.resync }
          | none => s) s
        lost.foldl (fun s b => if b.typ ≤ 3 then (hbAdd b.sig.val 8 b.lbns s).raise Reg.Cast.CAST_PARTIAL else s) s
    let s := enterAssemble (recastDone x.gen lost.length s)
    if indexOk ∧ bad then x.body.lines.foldl (fun s l => if l.kind = 0 then hbAdd l.sig 8 (lineLbns l) s else s) s else s
  | _, _ => s

/-- CAST_CONSUMED: no restored dirty sector remains dirty and every restored journal entry has retired (R304). -/
def doCastConsumed (s : State) : State :=
  match s.cast.restored with
  | none => s
  | some g =>
    let old (c : Cell) : Bool := (c.dirty && decide (c.ord ≤ s.cast.mark)) || c.shadow.any fun z => decide (z.2.2 ≤ s.cast.mark)
    if (drivesRun s.core.mode ∨ s.core.mode = .maintenance) ∧ !((allLines s).any fun x => x.cells.any fun c => old c.2) ∧ !(s.upds.any fun u => u.2.restored) then
      consume g s
    else s

/-- CAST_ABANDON: taken while a cast is pending and not restored, from SELF_TEST to KEY_WAIT; refused otherwise (R301). -/
def doCastAbandon (s : State) : State :=
  let s := s.pulse Reg.Cast.CAST_ABANDON
  match pendingSlot s with
  | some x => if 1 ≤ s.core.mode.code ∧ s.core.mode.code ≤ 4 then consume x.gen (castLost x.gen 3 s) else s
  | none => s

/-! ### RELEASE_GO and the end of a release (R305, R306) -/

/-- RELEASE_GO, judged by the module state (R306). -/
def doReleaseGo (s : State) : State :=
  let refuse (s : State) : State := (s.pulse Reg.Cast.RELEASE_GO).raise Reg.Cast.RELEASE_REFUSED
  if s.cast.due.isSome then refuse s
  else match s.core.mode with
    | .pressRun => beginRelease (s.pulse Reg.Cast.RELEASE_GO)
    | .hold => s.ask Reg.Cast.RELEASE_GO
    | .release =>
      if s.bit Reg.Cast.RELEASE_FAST ∧ !s.bit Reg.Glb.MAINT_PENDING ∧ !s.core.released then castFor [4] (s.pulse Reg.Cast.RELEASE_GO)
      else refuse s
    | _ => refuse s

/-- Whether the work of a release is over: no zone open, no data waiting, no dirty sheet, no update, no window (R305 steps 1 to 3). -/
def releaseIdle (s : State) : Bool :=
  !(s.zn.zones.any fun p => p.2.isOpen || p.2.sealing.isSome) && !(s.cmds.any fun p => p.2.ready && p.2.storedAt.isNone) &&
    (dirtySheets s).isEmpty && s.upds.isEmpty && !(s.sigs.any fun p => p.2.rs.any fun r => r.win.isSome)

/-- RELEASE_UPDATES_RETIRED: the ledger and directory are destaged (R71), the bits of every region not awaiting resynchronisation
clear, and one final commit is made (R142). -/
def doReleaseUpdatesRetired (s : State) : State :=
  if s.core.mode = .release ∧ !s.cast.final ∧ releaseIdle s then
    let gs := (s.sigs.filter fun p => p.2.inService).map (·.1)
    gs.foldl (fun s g =>
      let s := s.updSig g fun x => { x with pendingSet := true, k := { x.k with bits := x.k.bits.filter fun r => x.resync.contains r } }
      doBitmapCommit g (s.emit (.drvMeta g))) { s with cast.final := true }
  else s

/-- RELEASE_COMPLETE: steps 4 and 5 of R305; a release for maintenance enters MAINTENANCE (R397). -/
def doReleaseComplete (s : State) : State :=
  if s.core.mode = .release ∧ s.cast.final ∧ !s.core.released ∧ !(s.sigs.any fun p => p.2.inService && (p.2.commit.isSome || p.2.pendingSet)) then
    let s := closeAll (refreshGsb (flushLog (recordEvents s)))
    if s.bit Reg.Glb.MAINT_PENDING then (feOff (s.putB Reg.Glb.MAINT_PENDING false)).enter .maintenance
    else
      let s : State := { s with core.released := true, fnt.relHold := none }
      (s.raise Reg.Cast.RELEASE_DONE).log 0x100E 0 [0]
  else s

/-! ### The commands -/

def execInputLow (b : Bool) (mv : Nat) (s : State) : Host.Outcome State Fault Refusal := .next (whenOn (doInputLow b mv) s)
def execInputHealthy (b : Bool) (mv : Nat) (s : State) : Host.Outcome State Fault Refusal := .next (whenOn (doInputHealthy b mv) s)
def execRideThroughExpired (s : State) : Host.Outcome State Fault Refusal := .next (whenOn doRideThroughExpired s)
def execPwrfailAsserted (s : State) : Host.Outcome State Fault Refusal := .next (whenOn (doPwrfail true) s)
def execPwrfailDeasserted (s : State) : Host.Outcome State Fault Refusal := .next (whenOn (doPwrfail false) s)
def execPwrfailStuck (s : State) : Host.Outcome State Fault Refusal := .next (whenOn doPwrfailStuck s)
def execPwrfailTrusted (s : State) : Host.Outcome State Fault Refusal := .next (whenOn doPwrfailTrusted s)
def execCastComplete (s : State) : Host.Outcome State Fault Refusal := .next (whenOn doCastComplete s)
def execResumeFromCase (s : State) : Host.Outcome State Fault Refusal := .next (whenOn doResumeFromCase s)
def execSlotEraseComplete (s : State) : Host.Outcome State Fault Refusal := .next (whenOn doSlotEraseComplete s)
def execRecastComplete (lost : List LostBody) (ok : Bool) (s : State) : Host.Outcome State Fault Refusal :=
  .next (whenOn (doRecastComplete lost ok) s)
def execCastConsumed (s : State) : Host.Outcome State Fault Refusal := .next (whenOn doCastConsumed s)
def execCastAbandon (s : State) : Host.Outcome State Fault Refusal := .next (whenOn doCastAbandon s)
def execReleaseGo (s : State) : Host.Outcome State Fault Refusal := .next (whenOn doReleaseGo s)
def execReleaseUpdatesRetired (s : State) : Host.Outcome State Fault Refusal := .next (whenOn doReleaseUpdatesRetired s)
def execReleaseComplete (s : State) : Host.Outcome State Fault Refusal := .next (whenOn doReleaseComplete s)

/-! Commands that may leave a SAFE entry or a cast to be settled at once (R27, R336, R399). -/

def execSwitchOverVerdict (p : Fin 14) (a b : Bool) (s : State) : Host.Outcome State Fault Refusal :=
  .next (whenOn (fun s => settleCore (doSwitchOverVerdict p.val a b s)) s)
def execHeldImpressionRelease (p : Fin 14) (a b : Nat) (s : State) : Host.Outcome State Fault Refusal :=
  .next (whenOn (fun s => settleCore (doHeldImpressionRelease p.val a b s)) s)
def execAdoptionRelease (p : Fin 14) (s : State) : Host.Outcome State Fault Refusal :=
  .next (whenOn (fun s => settleCore (doAdoptionRelease p.val s)) s)
def execSimplexSelfTest (p : Fin 14) (pass : Bool) (s : State) : Host.Outcome State Fault Refusal :=
  .next (whenOn (fun s => settleCore (doSimplexSelfTest p.val pass s)) s)
def execPatrolScrub (c : ChIx) (r : WordResult) (h : WordHolds) (w : Nat) (s : State) : Host.Outcome State Fault Refusal :=
  .next (whenOn (fun s => settleCore (doPatrolScrub c.val r h w s)) s)
def execCaseSelfTest (c : ChIx) (r : List DevMismatch) (s : State) : Host.Outcome State Fault Refusal :=
  .next (whenOn (fun s => settleCore (doCaseSelfTest c.val r s)) s)

end Sys2Proof.Machine
end

