-- ==== Sys2Proof/Machine/Makeready.lean ====
section
/-!
DEFINITION. Makeready from power-up to the exit of KEY_WAIT (R389 to R393), the application of an image (R381 to R385), requests for
MAINTENANCE and the resets (R397 to R402, R445).
-/

namespace Sys2Proof.Machine

/-! ### POWER_QUALIFY (R389, R470) -/

/-- What a cold start finds of the counter record: the counters of the newest copy, the power cycle counted (R443, R444). -/
def coldCounters (s : State) : Core :=
  match newestCtr s with
  | some r => { opImp := r.opImp, cycles := (r.cycles + 1) % 2 ^ 24, ctrGen := r.gen, free := s.core.free, rngCount := s.core.rngCount }
  | none => { free := s.core.free, rngCount := s.core.rngCount }

/-- COLD_RESET: power is applied to an unpowered module, or to one that still qualifies its power. What lasts is the Stereo store, the
fuses and the lifetime counters; every other part starts as at reset (R16, R388, Table 18.4). -/
def doColdReset (slotId : Nat) (s : State) : State :=
  if !s.core.powered ∨ s.core.mode = .powerQualify then
    let st0 := { s.st0 with ok := true }
    let st1 := { s.st1 with ok := true }
    let fe := nmapv (fun _ x => ({ rx := x.rx, tx := x.tx, fecCorr := x.fecCorr, fecUnc := x.fecUnc, fcs := x.fcs, drops := x.drops, retx := x.retx } : FePort)) s.fe
    let t : State :=
      { rf.regs := coldRegs, pending := s.pending, core := coldCounters { s with st0 := st0, st1 := st1 }, pins.slotId := slotId
        st0 := st0, st1 := st1, zn.cnt := s.zn.cnt, zn.dszGen := s.zn.dszGen, fe := fe
        rdUnits := s.rdUnits, wrUnits := s.wrUnits, rdBytes := s.rdBytes, wrBytes := s.wrBytes, mediaErrs := s.mediaErrs, out := s.out }
    let t : State := { t with prs.hourAt := opHour t.core.opImp, corrHour := t.core.opImp / 450000000 }
    ((t.put Reg.Img.ARB_FUSE (s.get Reg.Img.ARB_FUSE)).put Reg.Hif.SLOT_ID (slotId % 256)).log 0x0001 0 [0]
  else s

/-- FOUNT_PROBE_TIMEOUT: no pack answers within 40 ms; PACK_LOW is held at 1 (R389). -/
def doFountProbeTimeout (s : State) : State :=
  if s.core.mode = .powerQualify ∧ !s.core.held ∧ !s.core.probed ∧ s.since s.core.entered ≥ 5000 then
    setPackLow ({ s with core.probed := true, fnt.absent := true } : State)
  else s

/-- The pack is not charged; PACK_LOW stays 1 until the next cold reset (R470). -/
def unfitPack (s : State) : State := stepCharger (setPackLow { s with fnt.unfit := true, fnt.precharge := none })

/-- The pack voltage decides how it is charged (R470). -/
def checkPack (s : State) : State :=
  let v := s.get Reg.Fount.PACK_V
  if s.fnt.absent ∨ s.fnt.unfit then s
  else if v < 2000 then unfitPack s
  else if v < 3000 then { s with fnt.precharge := some s.core.imp }
  else s

/-- PRECHARGE_DONE: the pack has reached 3.8 V. -/
def doPrechargeDone (s : State) : State :=
  if s.fnt.precharge.isSome ∧ s.get Reg.Fount.PACK_V ≥ 3800 then stepCharger { s with fnt.precharge := none } else s

/-- PRECHARGE_TIMEOUT: no rise above 3.0 V within 2 h. -/
def doPrechargeTimeout (s : State) : State :=
  match s.fnt.precharge with
  | some t => if s.since t ≥ 900000000 ∧ s.get Reg.Fount.PACK_V ≤ 3000 then unfitPack s else s
  | none => s

/-- SELF_TEST is entered: a cold start without a valid counter record says so, and the record is written (R444). -/
def enterSelfTest (s : State) : State :=
  let s := s.enter .selfTest
  let s := if s.core.lastReset = .cold ∧ (newestCtr s).isNone then s.raise Reg.Glb.COUNTERS_LOST else s
  { writeCounters s with core.ctrAt := s.core.imp }

/-- POWER_QUALIFY_END: an input is healthy and the probe has ended. After a cold reset the rest voltage anchors the charge counter
(R281); RESET_N must be released (R402). -/
def doPowerQualifyEnd (packId : Nat) (s : State) : State :=
  if s.core.mode = .powerQualify ∧ anyHealthy s ∧ !s.core.held ∧ !s.pins.fReset then
    let s := if s.fnt.absent then s else { s with fnt.packId := some (packId % 2 ^ 64), core.probed := true }
    let s := if s.core.lastReset = .cold ∧ !s.fnt.absent then coldAnchor (s.get Reg.Fount.CELL0_V) (s.get Reg.Fount.CELL1_V) s else s
    enterSelfTest (stepCharger (checkPack s))
  else s

/-! ### SELF_TEST and CASE_INIT (R390, R391) -/

/-- The newest valid repair map of the halves in service (R272). -/
def newestMap (s : State) : Option (Nat × List MapEnt) :=
  let all := ((if s.st0.ok then s.st0.maps else []) ++ (if s.st1.ok then s.st1.maps else [])).map (·.2)
  all.foldl (fun b r => match b with | some x => if r.1 > x.1 then some r else b | none => some r) none

/-- A channel as the repair map leaves it (R258, R270 to R272). -/
def chanOf (es : List MapEnt) (c : Nat) (x : Chan) : Chan :=
  let mine := es.filter fun e => e.ch == c
  let er := (mine.filter fun e => e.typ == 4).map (·.dev)
  let rows := mine.filter fun e => e.typ == 1 || e.typ == 2
  let ret := mine.filter fun e => e.typ == 3
  { x with
    st := max x.st (if (mine.any fun e => e.typ == 5) || er.eraseDups.length ≥ 3 then 3 else er.eraseDups.length)
    erased := (er ++ x.erased).eraseDups, retired := (ret.map (·.row)).eraseDups
    ppr := (rows.map fun e => e.dev * 8 + e.bank / 4).eraseDups, rows := rows.length
    devRet := ret.foldl (fun m e => nset e.dev (ngetD e.dev 0 m + 1) m) [] }

/-- CASE_INIT step 1: the repair map is read and the channels take their states; what SELF_TEST added stays to be written. -/
def readMap (s : State) : State :=
  let own := s.cs.map
  let r := newestMap s
  let es := (r.map (·.2)).getD [] ++ own
  let s : State := { s with cs.map := es, cs.mapGen := (r.map (·.1)).getD 0, cs.mapDue := !own.isEmpty }
  let s := (List.range 4).foldl (fun s c => showChan c (s.setChan c { chanOf es c (s.chan c) with lapAt := s.core.imp })) s
  if r.isSome ∨ !s.halfOk then s else s.log 0x4006 noDev (leBytes 8 0 ++ [0])

/-- A slot whose first index block is programmed has no valid header in either half (R301). -/
def slotTorn (s : State) : Bool :=
  let at_ (i : Nat) : List CastSlot := (if s.st0.ok then [ngetD i {} s.st0.slots] else []) ++ (if s.st1.ok then [ngetD i {} s.st1.slots] else [])
  [0, 1].any fun i => ((at_ i).any fun x => x.programmed) && !(at_ i).any fun x => x.ok

/-- CASE_INIT step 2: what the cast slots hold. -/
def decideCasts (s : State) : State := if slotTorn s then showCast (castLost 0 1 s) else showCast s

/-- The registers of the key record in use. -/
def showKeyRec (s : State) : State :=
  let g := (s.sec.rec_.map (·.gen)).getD 0
  ((s.putB Reg.Sec.KREC_VALID s.sec.rec_.isSome).put Reg.Sec.KREC_GEN_LO (g % 2 ^ 32)).put Reg.Sec.KREC_GEN_HI (g / 2 ^ 32)

/-- The newest valid key record (R425). -/
def readKeyRec (s : State) : State :=
  let all := ((if s.st0.ok then s.st0.keyRecs else []) ++ (if s.st1.ok then s.st1.keyRecs else [])).map (·.2)
  let r := all.foldl (fun (b : Option KeyRec) x => match b with | some y => if x.gen > y.gen then some x else b | none => some x) none
  showKeyRec { s with sec.rec_ := r }

/-- SELF_TEST_END: engines, Case training and the Stereo probe have ended; with a type that cannot form a pair the module enters SAFE,
else CASE_INIT, where the map is read, the casts are decided and the older slots begin to be erased. -/
def doSelfTestEnd (engines channels : List Nat) (st0Ok st1Ok rngOk : Bool) (s : State) : State :=
  if s.core.mode = .selfTest then
    let s := { s with st0 := { s.st0 with ok := st0Ok }, st1 := { s.st1 with ok := st1Ok } }
    let s := testEngines engines (readEngineRecord s)
    let s := readKeyRec (s.put Reg.Cast.CASTS_TOTAL (max s.st0.castsTotal s.st1.castsTotal % 2 ^ 32))
    let s := channels.foldl (fun s c => if c < 4 then leaveService c s else s) s
    let s : State := { s with core.safeDue := none }
    if rngOk ∧ [0, 1, 2].all fun t => typeAlive s t then
      let s := decideCasts (readMap (s.enter .caseInit))
      { s with cast.eraseAt := if s.halfOk then some s.core.imp else none }
    else enterSafe 5 s
  else s

/-- CASE_INIT_END: pending hard repairs are applied, the Case is zeroed, the log's end is found; with no channel left the module enters
SAFE, else IMAGE_WAIT with its candidate chosen (R391, R392). -/
def doCaseInitEnd (channels : List Nat) (s : State) : State :=
  if s.core.mode = .caseInit ∧ s.cast.eraseAt.isNone then
    let hard := s.cs.map.any fun e => e.typ == 1
    let s : State := { s with cs.map := s.cs.map.map fun e => if e.typ = 1 then { e with typ := 2 } else e, cs.mapDue := s.cs.mapDue || hard }
    let s := channels.foldl (fun s c => if c < 4 then leaveService c s else s) s
    let s := scanLog { s with core.safeDue := none }
    if (List.range 4).all fun c => (s.chan c).st ≥ 3 then enterSafe 4 s
    else chooseCandidate (s.enter .imageWait)
  else s

/-! ### The application of an image (R381 to R385, R204) -/

/-- The layout that a reshape begins with (R202). -/
def newReshape (src dst : Imposition) (z wgen : Nat) : Reshape :=
  let up := reshapeUp src dst
  { src := src, up := up, b := if up then 0 else z, z := z, wgen := wgen }

/-- One above the highest generation of any checkpoint of the signature that the module holds; 0 if none (R204). -/
def nextWgen (s : State) (g : Nat) (found : List Nat) : Nat :=
  let gs := found ++ ((nfind g s.st0.cks).toList ++ (nfind g s.st1.cks).toList).map (·.gen)
  if gs.isEmpty then 0 else gs.foldl max 0 + 1

/-- The steps of R204 for one signature: labels that carry the source geometry and the target's hash, the first checkpoint, RS_STATE 1. The
entries of members failed before now cover source sheets. -/
def startReshape (g : Nat) (src dst : Imposition) (z : Nat) (found : List Nat) (s : State) : State :=
  let r := newReshape src dst z (nextWgen s g found)
  let s := s.updSig g fun x => { x with
    rs := some r, k := { x.k with ents := nmapv (fun _ e => { e with old := true, high := min e.high (z / max 1 src.sheetBlocks), n := min e.n (z / max 1 src.sheetBlocks) }) x.k.ents } }
  let both : Imposition := { src with members := src.members ++ dst.members.drop src.n }
  let s := writeAllLabels g (List.range both.members.length) both (some dst.hash) s
  let s := (dst.members.drop src.n).foldl (fun s m => s.updDrv m.port fun x => if x.identified then { x with inService := true, isNew := false, row := 7 } else x) s
  let c := ckptOf s g r r.b r.wgen false
  (sendCkpt g c (storeCkpt g c s)).log 0x6008 (srcSig g) ([0] ++ leBytes 8 r.b)

/-- What changes of the host table do to open connections: those of a removed entry close, the others keep their entry by its name
(Table 17.10). -/
def rehost (old new : List HostEnt) (s : State) : State :=
  let to_ (h : Nat) : Option Nat := (old[h]?).bind fun e => new.findIdx? fun x => x.nqn == e.nqn
  let dead := (s.conns.filter fun c => c.2.connected && (to_ c.2.host).isNone).map (·.1)
  let s := dead.foldl (fun s i => closeConn i s) s
  { s with
    conns := nmapv (fun _ c => if c.connected then { c with host := (to_ c.host).getD 0 } else c) s.conns
    ctrls := nmapv (fun _ c => { c with host := (to_ c.host).getD 0 }) s.ctrls }

/-- The namespaces whose attributes an image changes. -/
def changedNss (old new : NMap NsSec) : List Nat := (List.range 64).filter fun n => nfind n old != nfind n new

/-- Namespace Attribute Changed on every controller, and its list (R55, R382). -/
def noticeNs (ns : List Nat) (s : State) : State :=
  if ns.isEmpty then s
  else
    let s := notice 8 (fun _ _ => true) s
    { s with ctrls := nmapv (fun _ c => { c with changedNs := (c.changedNs ++ ns).eraseDups }) s.ctrls }

/-- PORT_EN acts at application (Table 17.10). -/
def applyPortEn (m : Img) (s : State) : State :=
  (List.range 16).foldl (fun s p => if (ngetD p {} m.ports).en then doPortEnable p s else doPortDisable p s) s

/-- The defined signatures have a place in the state; in IMAGE_WAIT a removed one loses it. -/
def placeSigs (m : Img) (waiting : Bool) (s : State) : State :=
  let kept := if waiting then s.sigs.filter fun p => (nfind p.1 m.imps).isSome else s.sigs
  { s with sigs := m.imps.foldl (fun x p => if (nfind p.1 x).isSome then x else nset p.1 {} x) kept }

/-- The source layouts that an image starts to reshape, against the one in force. -/
def startedBy (old : Option Img) (m : Img) : NMap Imposition :=
  match old with
  | none => []
  | some o => o.imps.filter fun p => (nfind p.1 m.imps).any fun i => i.hash != p.2.hash

/-- The application boundary (R382). In IMAGE_WAIT every deferred item takes effect, and the module goes on to KEY_WAIT at the next
boundary (R392). Outside it, the reshapes begin at once. -/
def applyImage (m : Img) (retained : NMap Imposition) (s : State) : State :=
  let waiting := s.core.mode == .imageWait
  let old := s.img.cur
  let prev := s.img.eff
  let started := if waiting then [] else startedBy old m
  let keepRegions (e : Img) : Img := { e with pars := nmapv (fun g p => if (nfind g started).isSome then (match prev.bind fun o => nfind g o.pars with | some q => { p with regionGib := q.regionGib } | none => p) else p) e.pars }
  let eff := match prev with | some o => if waiting then m else keepRegions (keepDeferred o m) | none => m
  let s : State := { s with img.committed := true, img.cur := some m, img.eff := some eff, img.retained := retained, img.applied := waiting }
  let s := if waiting then applyDeferred m s else s.putB Reg.Img.PEND_MAKEREADY (decide (keepDeferred m eff ≠ eff))
  let s := placeSigs m waiting (applyNow m s)
  let s := m.pars.foldl (fun s p => applyPar p.1 ((nfind p.1 started).isNone) p.2 s) s
  let s := if waiting then formPairs (m.pairMap.getD ((List.range 14).map defaultMembers)) s else s
  let s := if waiting then (match m.pairMap with
    | some pm => if pm.any fun x => (s.engine x.1).retired || (s.engine x.2).retired then s.raise Reg.Cp.MAP_SUBST else s
    | none => s) else s
  let s := applyPortEn m s
  let s := match old with | some o => if waiting then s else noticeNs (changedNss o.nss m.nss) (rehost o.hosts m.hosts s) | none => s
  let s := if waiting then
      retained.foldl (fun s p => match nfind p.1 m.imps with
        | some dst => s.updSig p.1 fun x => { x with rs := some (newReshape p.2 dst (sigEnd m dst) 0) }
        | none => s) s
    else started.foldl (fun s p => match nfind p.1 m.imps with
        | some dst => startReshape p.1 p.2 dst (sigEnd m dst) [] s
        | none => s) s
  let s := (s.put Reg.Img.IMG_LEN m.len).put Reg.Img.ARB_IMAGE m.counter
  let s := (putHash Reg.Img.IMG_HASH m.hash (s.bump Reg.Img.COMMITS)).raise Reg.Img.IMG_COMMITTED
  let s := s.log 0xC001 0 (leBytes 4 m.counter)
  let s := if m.policy / 8 % 2 = 1 ∧ m.counter > s.get Reg.Img.ARB_FUSE then { s with img.fuseTo := some (m.counter, s.core.imp) } else s
  stepCharger (endRequest s)

/-- A half whose copy is invalid or older than the candidate is rewritten from it (R379). -/
def repairCopies (c : ImgCopy) (s : State) : State :=
  let bad (h : HalfSt) : Bool := h.ok && !((validCopy s h).any fun x => x.gen ≥ c.gen)
  if bad s.st0 || bad s.st1 then
    let s' := s.eachHalf fun h => if bad h then { h with img := some c } else h
    ((s'.putB Reg.Img.ST0_IMG_VALID s'.st0.ok).putB Reg.Img.ST1_IMG_VALID s'.st1.ok).raise Reg.Img.COPY_REPAIRED
  else s

/-- IMAGE_JUDGE_COMPLETE: the checks are over (R381 phase 1). A verify ends; a confirm is applied; a commit goes on to its store. -/
def doImageJudgeComplete (s : State) : State :=
  if s.img.storing.isSome then s
  else match s.img.req with
    | none => s
    | some .confirm =>
      (match s.img.cand with
       | some c =>
         let s := putHash Reg.Img.STAGE_HASH c.img.hash s
         if !chk3 s c.img.counter then refuseImage 0xFFFF 3 (endRequest s)
         else if !copyValid s c then refuseImage 0xFFFF (if chk4 c.img.serial then 2 else 4) (endRequest s)
         else applyImage c.img c.retained (repairCopies c (s.put Reg.Img.IMG_STATE 4))
       | none => endRequest s)
    | some r =>
      let bs := stagedBytes s
      let inForce := if s.core.mode = .imageWait then s.img.cand.map (·.img) else s.img.cur
      let s := putHash Reg.Img.STAGE_HASH (sha256 bs) s
      match judge s bs inForce with
      | .error e => refuseImage e.1 e.2 (endRequest s)
      | .ok m =>
        if r = .verify then (endRequest s).raise Reg.Img.IMG_VERIFIED
        else ({ s with img.storing := some m } : State).put Reg.Img.IMG_STATE 3

/-- IMAGE_STORE_COMPLETE: both halves' areas are written (R378), and the image is applied (R381 phase 3). -/
def doImageStoreComplete (s : State) : State :=
  match s.img.storing with
  | none => s
  | some m =>
    let waiting := s.core.mode == .imageWait
    let old := if waiting then s.img.cand.map (·.img) else s.img.cur
    let had := if waiting then (s.img.cand.map (·.retained)).getD [] else s.img.retained
    let kept := had.filter fun p => (nfind p.1 m.imps).isSome
    let retained := (startedBy old m).foldl (fun r p => nset p.1 p.2 r) kept
    applyImage m retained ((storeImage m retained s).put Reg.Img.IMG_STATE 4)

/-! ### KEY_WAIT (R302, R393) -/

/-- The first two conditions of R302: CAST_IMG_DIFF and CAST_KEY_FAIL while they fail. -/
def castImgDiff (s : State) : Bool :=
  match pendingSlot s, s.img.cur with | some x, some m => x.imgHash != m.hash | _, _ => false
def castKeyFail (s : State) : Bool :=
  match pendingSlot s, s.sec.kek with
  | some x, some k => (Config.keyUnwrap k x.castKey).isNone || x.dataKeys.any fun p => (Config.keyUnwrap k p.2).isNone
  | _, _ => false

/-- KEY_WAIT_EXIT: keys accepted, the gauge block settled, and a pending cast fit to be recast. A fresh cast key is drawn (R423). -/
def doKeyWaitExit (s : State) : State :=
  if s.core.mode = .keyWait ∧ s.bit Reg.Sec.KEK_OK ∧ s.fnt.gsbTaken ∧ !castImgDiff s ∧ !castKeyFail s then
    let s := drawCastKey s
    if (pendingSlot s).isSome then (s.put Reg.Cast.RECAST_PCT 0).enter .recast else enterAssemble s
  else s

/-! ### Requests for MAINTENANCE and resets (R397 to R402, R445) -/

/-- A reset is requested (R401, R402, R418). -/
def requestReset (k : ResetKind) (s : State) : State :=
  let m := s.core.mode
  let wins (o : Option ResetKind) : Option ResetKind := if o = some .module then o else some k
  if s.core.held ∨ (k = .warm ∧ s.pins.fReset) then s
  else if m = .cast then { s with core.resetDue := wins s.core.resetDue }
  else if (m = .pressRun ∨ m = .hold ∨ m = .release ∨ m = .assemble ∨ m = .maintenance) ∧ castContent s ∧ s.halfOk then
    settleCore { s with core.resetDue := wins s.core.resetDue, core.resetCast := true, cast.due := some (s.cast.due.getD 0) }
  else applyReset k s

/-- RESET_N_ASSERTED (R418): the filtered pin falls. -/
def doResetNAsserted (s : State) : State :=
  if s.pins.fReset then s else requestReset .module { s with pins.fReset := true }

/-- RESET_N_RELEASED (R400, R402): a reset held so far begins its makeready. -/
def doResetNReleased (s : State) : State :=
  if s.pins.fReset then
    let s : State := { s with pins.fReset := false }
    if s.core.held then ({ s with core.held := false, core.entered := s.core.imp } : State).log 0x0001 0 [1] else s
  else s

/-- RESET_CMD (R445). -/
def doResetCmd (v : Nat) (s : State) : State :=
  if v ≠ 0x5752 then s.raise Reg.Glb.VALUE_REJ
  else if s.core.mode = .powerQualify then s else requestReset .warm s

/-- MAINT_GO (R397). -/
def doMaintGo (s : State) : State :=
  let s := s.pulse Reg.Glb.MAINT_GO
  match s.core.mode with
  | .keyWait => s.enter .maintenance
  | .pressRun => if s.cast.due.isSome then s.raise Reg.Glb.MAINT_REFUSED else startRelease (s.putB Reg.Glb.MAINT_PENDING true)
  | _ => s.raise Reg.Glb.MAINT_REFUSED

/-- MAINT_EXIT (R398). -/
def doMaintExit (s : State) : State :=
  let s := s.pulse Reg.Glb.MAINT_EXIT
  if s.core.mode = .maintenance then requestReset .warm (endEccTest s) else s.raise Reg.Glb.MAINT_REFUSED

/-! ### The commands -/

def execImageJudgeComplete (s : State) : Host.Outcome State Fault Refusal := .next (whenOn doImageJudgeComplete s)
def execImageStoreComplete (s : State) : Host.Outcome State Fault Refusal := .next (whenOn doImageStoreComplete s)
def execColdReset (slotId : Nat) (s : State) : Host.Outcome State Fault Refusal := .next (doColdReset slotId s)
def execFountProbeTimeout (s : State) : Host.Outcome State Fault Refusal := .next (whenOn doFountProbeTimeout s)
def execPowerQualifyEnd (packId : Nat) (s : State) : Host.Outcome State Fault Refusal := .next (whenOn (doPowerQualifyEnd packId) s)
def execPrechargeDone (s : State) : Host.Outcome State Fault Refusal := .next (whenOn doPrechargeDone s)
def execPrechargeTimeout (s : State) : Host.Outcome State Fault Refusal := .next (whenOn doPrechargeTimeout s)
def execSelfTestEnd (es cs : List Nat) (a b r : Bool) (s : State) : Host.Outcome State Fault Refusal :=
  .next (whenOn (doSelfTestEnd es cs a b r) s)
def execCaseInitEnd (cs : List Nat) (s : State) : Host.Outcome State Fault Refusal := .next (whenOn (doCaseInitEnd cs) s)
def execKeyWaitExit (s : State) : Host.Outcome State Fault Refusal := .next (whenOn doKeyWaitExit s)
def execMaintGo (s : State) : Host.Outcome State Fault Refusal := .next (whenOn doMaintGo s)
def execMaintExit (s : State) : Host.Outcome State Fault Refusal := .next (whenOn doMaintExit s)
def execResetNAsserted (s : State) : Host.Outcome State Fault Refusal := .next (whenOn doResetNAsserted s)
def execResetNReleased (s : State) : Host.Outcome State Fault Refusal := .next (whenOn doResetNReleased s)
def execResetCmd (v : BitVec 16) (s : State) : Host.Outcome State Fault Refusal := .next (whenOn (doResetCmd v.toNat) s)
def execCounterRecordWrite (s : State) : Host.Outcome State Fault Refusal := .next (whenOn doCounterRecordWrite s)

end Sys2Proof.Machine
end

