-- ==== Sys2Proof/Machine/Assemble.lean ====
section
/-!
DEFINITION. ASSEMBLE (R394 to R396): how a signature enters service, with what is restored of it (R113, R143, R144, R168, R184, R209,
R303), how a new one is created (R229, R424), and the end of the state.
-/

namespace Sys2Proof.Machine

/-- One bit of a field of bits. -/
def State.setBit (s : State) (F : FieldSpec) (g : Nat) (v : Bool) : State :=
  if s.get F / 2 ^ g % 2 = 1 then (if v then s else s.put F (s.get F - 2 ^ g)) else if v then s.put F (s.get F + 2 ^ g) else s

/-! ### Keys (R424, R425) -/

/-- A key record becomes the next generation, in slot G mod 2 of every half in service. -/
def writeKeyRec (r : KeyRec) (s : State) : State :=
  let r := { r with gen := r.gen + 1, serial := Config.serial }
  showKeyRec { (s.eachHalf fun h => { h with keyRecs := nset (r.gen % 2) r h.keyRecs }) with sec.rec_ := some r }

/-- A signature's data key, 64 bytes, is created, wrapped into the key record and kept, where the generator runs, a half is in service and the
record has no key of that identity. -/
def createKey (g : Nat) (s : State) : State :=
  let id := ((impOf s g).map (·.identity)).getD 0
  match s.sec.kek, s.sec.rec_ with
  | some kek, some r =>
    if s.bit Reg.Sec.RNG_FAIL ∨ !s.halfOk ∨ (nfind g s.sec.dataKeys).isSome ∨ r.entries.any (fun e => e.2.1 == id) then s
    else
      let a := s.random
      let b := a.2.random
      let key := a.1 % 2 ^ 256 + 2 ^ 256 * (b.1 % 2 ^ 256)
      let s := writeKeyRec { r with entries := nset g (id, Config.keyWrap kek key) r.entries } b.2
      (({ s with sec.dataKeys := nset g key s.sec.dataKeys } : State).setBit Reg.Sec.KEYS_PRESENT g true).raise Reg.Sec.KEY_CREATED
  | _, _ => s

/-- Whether a signature has its data key; a missing one is shown (R424). -/
def hasKey (s : State) (g : Nat) : Bool := (nfind g s.sec.dataKeys).isSome
def markKey (g : Nat) (s : State) : State := s.setBit Reg.Sec.KEY_MISSING g (!hasKey s g)

/-! ### The conditions of R394 -/

/-- A port is identifying (DRV_STATE 1). -/
def identifying (s : State) (p : Nat) : Bool :=
  s.bit Reg.Drv.PRESENT p && s.bit Reg.Drv.PWR_ON p && (s.drivePort p).bringing && !(s.drivePort p).identified

/-- The first condition. -/
def waitOver (s : State) (g : Nat) : Bool := s.core.asmOver || !(membersOf s g).any fun m => identifying s m.port

/-- No drive at a member port carries a label of the signature: it is new (R229). -/
def isNewSig (s : State) (g : Nat) : Bool :=
  let id := ((impOf s g).map (·.identity)).getD 0
  !(membersOf s g).any fun m => (s.drivePort m.port).identified && (s.drivePort m.port).label.any fun l => l.sigIdentity == id

/-- Members unrestored (R175), those that are still being identified among them. -/
def lostMembers (s : State) (g : Nat) : Nat :=
  ((List.range (membersOf s g).length).filter fun d => if (memOf s g d).failed then unrestored s g d else !(s.drivePort (memPort s g d)).inService).length

/-- The layout that the labels describe: the source one during a reshape (R204). -/
def labelLay (s : State) (g : Nat) : Option Imposition := ((s.sigSt g).rs.map (·.src)) <|> impOf s g

/-- The third condition (R113). -/
def capacityOk (s : State) (g : Nat) : Bool :=
  match labelLay s g, impOf s g, imgOf s with
  | some i, some dst, some m => decide (i.sheetsFor (s.sigSt g).bMin * i.sheetBlocks ≥ sigEnd m dst)
  | _, _, _ => false

/-- Whether a signature may begin to enter service. -/
def mayEnter (s : State) (g : Nat) : Bool :=
  let x := s.sigSt g
  runsC5 s.core.mode && (impOf s g).isSome && !x.inService && !x.creating && waitOver s g && !isNewSig s g &&
    (decide (lostMembers s g < 3) || s.core.forced.contains g) && capacityOk s g && hasKey s g

/-! ### Step 1 to 3: bitmap, hellbox, failure entries -/

/-- The valid bitmap copies found, on members and in the Stereo store: generation and bits (R144). -/
def validBmps (s : State) (g : Nat) (x : AsmFound) : List (Nat × List Nat) :=
  ((x.bmps.filter fun b => b.ok && b.regions == regionCount s g).map fun b => (b.gen, b.bits)) ++
    ((stereoBmps s g).filter fun b => b.regions == regionCount s g).map fun b => (b.gen, b.keep.bits)

/-- The copy of highest generation. -/
def bestBmp (s : State) (g : Nat) (x : AsmFound) : Option (Nat × List Nat) :=
  (validBmps s g x).foldl (fun b c => match b with | some y => if c.1 > y.1 then some c else b | none => some c) none

/-- Whether the journal of a recast or resumed cast governs a signature (R143). -/
def governs (s : State) (g : Nat) (best : Option (Nat × List Nat)) : Bool :=
  match nfind g s.cast.body.sigs, best with
  | some k, some b => decide (k.durGen ≤ b.1) && decide (b.1 ≤ k.gen)
  | _, _ => false

/-- Zones become Read Only (R72): each is listed in the Changed Zone List. -/
def loseZones (ks : List Nat) (s : State) : State :=
  if ks.isEmpty then s
  else ((ks.foldl (fun s k => zoneChanged k (s.updZone k fun z => { z with st := .readOnly, slot := none })) s).raise Reg.Zn.ZONE_RO).log 0xA001 0 (leBytes 4 ks.length)

/-- A cast's data for a signature is set aside as stale (R303). -/
def setAside (g : Nat) (s : State) : State :=
  let mine := (allLines s).filter fun x => x.kind == 0 && x.sig == g
  let s := hbAdd g 8 (mine.flatMap lineLbns) s
  let s : State := { s with
    upds := nfilter (fun _ u => u.sig != g) s.upds
    cs.tags := nfilter (fun _ x => x.sig != g || x.kind ≥ 3) s.cs.tags
    cs.evb := nfilter (fun _ e => e.line.sig != g || e.line.kind ≥ 3) s.cs.evb }
  let s := loseZones ((s.zn.zones.filter fun p => p.2.isOpen && nsSig s (p.1 / 2 ^ 32) == g).map (·.1)) s
  (s.raise Reg.Cast.CAST_STALE).log 0x1007 (srcSig g) (leBytes 8 (((newestSlot s).map (·.gen)).getD 0) ++ [4])

/-- An absence noted in this makeready is kept beside what is restored of a member. -/
def withAbsence (now : NMap Mem) (ms : NMap Mem) : NMap Mem :=
  now.foldl (fun ms p =>
    match p.2.absentAt with
    | some t => let m := ngetD p.1 {} ms; if m.failed ∨ m.absentAt.isSome then ms else nset p.1 { m with absentAt := some t, limit := p.2.limit } ms
    | none => ms) ms

/-- What is kept of a signature that no cast governs: the newest bitmap, the hellbox of higher generation, the entries of the newest Stereo
copy. -/
def keepWithout (s : State) (g : Nat) (best : Option (Nat × List Nat)) : SigKeep :=
  let cur := (s.sigSt g).k
  let st := newestBmp s g
  let base := if castHas s g then (st.map (·.keep)).getD {} else cur
  let hb := match st with | some c => if cur.hbGen ≥ c.keep.hbGen then cur else c.keep | none => cur
  { base with
    bits := (best.map (·.2)).getD (List.range (regionCount s g)), gen := (best.map (·.1)).getD 0, durGen := (best.map (·.1)).getD 0
    hb := hb.hb, hbGen := hb.hbGen, hbUnknown := if st.isSome || castHas s g then hb.hbUnknown else true
    mems := if castHas s g then withAbsence cur.mems base.mems else base.mems }

/-- A member without a valid label of its signature. -/
def unlabelled (s : State) (g d : Nat) : Bool :=
  let x := s.drivePort (memPort s g d)
  !(x.identified && x.label.any fun l => l.sigIdentity == ((impOf s g).map (·.identity)).getD 0 && l.driveIndex == d)

/-- The members take their places: one in service catches up on what it missed, one that is not is absent from now on; a replacement that is
not there is lost, and a format of before begins anew (R199, R230, R232, R394). -/
def rejoin (g : Nat) (s : State) : State :=
  (List.range (membersOf s g).length).foldl (fun s d =>
    let m := memOf s g d
    let p := memPort s g d
    let x := s.drivePort p
    let s := updEntsOf g d (fun e => if e.st == .format && (s.drivePort p).fmt.isNone then { e with st := e.prev } else e) s
    if m.failed then
      if !x.inService ∧ (s.sigSt g).k.ents.any (fun e => e.2.drive == d && (e.2.direct || e.2.repl || e.2.st == .copyback)) then reuse g (replacementFails g d s) else s
    else if x.inService then setMem g d { m with absentAt := none, linkDown := false, catching := !m.missed.isEmpty, identity := x.identity } s
    else if m.absentAt.isSome then setMem g d { m with catching := false, linkDown := false } s
    else makeAbsent p s) s

/-- READY entries write all of their positions again (R143). -/
def replay (g : Nat) (s : State) : State :=
  let ids := (s.upds.filter fun u => u.2.sig == g && u.2.st == .ready).map (·.1)
  let s := ids.foldl (fun s i => if (nfind i s.upds).any fun u => u.kind == .window then winWrite i s else readyUpd i s) s
  s.log 0x5009 (srcSig g) (leBytes 4 ids.length)

/-- Steps 1 to 3 of R394, and the start of step 4. -/
def restoreSig (g : Nat) (x : AsmFound) (s : State) : State :=
  let s := match labelLay s g with
    | some i => s.updSig g fun y => { y with cycles := i.cyclesFor y.bMin, sheets := i.sheetsFor y.bMin }
    | none => s
  let best := bestBmp s g x
  let s := s.updSig g fun y => { y with entering := true, doneBits := (best.map (·.2)).getD [], commit := none, pendingSet := true }
  if governs s g best then
    let s := s.updSig g fun y => { y with governed := true, resync := [], resyncSt := 0 }
    replay g (rejoin g s)
  else
    let s := if castHas s g then setAside g s else s
    let lost := (newestBmp s g).isNone
    let s := s.updSig g fun y => { y with k := keepWithout s g best }
    let s := rejoin g s
    let s := if lost then
        ((List.range (membersOf s g).length).filter fun d => unlabelled s g d && !(memOf s g d).failed).foldl (fun s d => declareNow g d 6 s) (s.raise Reg.Sig.RB_STATE_LOST g)
      else s
    let s := if best.isNone then s.raise Reg.Sig.BMP_ALL_LOST g else s
    let bits := (s.sigSt g).k.bits
    let st := if bits.isEmpty then 0 else if best.isNone then 2 else 1
    let s := s.updSig g fun y => { y with governed := false, resync := bits, resyncSt := st, resyncPos := 0, early := [] }
    if bits.isEmpty then s else s.log 0x5008 (srcSig g) ([st] ++ leBytes 4 bits.length)

/-! ### Step 5: zones (R71, R72, R112) -/

/-- A zone as the metadata area gives it. A Full zone without a ledger entry is full to its end. -/
def zoneOf (s : State) (z : ZoneFound) : Zone :=
  let n := zsze s z.ns
  let start := z.zone * n
  let fill := z.wp - start
  let st : ZState := match z.state with
    | 1 => .empty | 2 => .implicit | 3 => .explicit | 4 => .closed | 0xD => .readOnly | 0xE => .full | 0xF => .offline | _ => .empty
  { st := st, fill := if st = .empty then 0 else if st = .full ∧ (fill = 0 ∨ fill > n) then n else min fill n, sha := z.sha, key := z.key
    lastWrite := z.lastWrite, damaged := z.flags % 2 == 1, later := z.flags / 2 % 2 == 1, sealed := z.flags / 4 % 2 == 1, resets := z.resets }

/-- The zones of a signature are read into the Case; what a recast restored stands. A zone that was open is Closed, or Read Only where a
cast was lost. -/
def restoreZones (g : Nat) (x : AsmFound) (s : State) : State :=
  let found := x.zones.filter fun z => nsSig s z.ns == g && nsZoned s z.ns && decide (z.zone < zoneCount s z.ns) && (nfind (zoneKey z.ns z.zone) s.zn.zones).isNone
  let s := found.foldl (fun s z => s.setZone (zoneKey z.ns z.zone) (zoneOf s z)) s
  let open_ := (found.map fun z => zoneKey z.ns z.zone).filter fun k => (s.zone k).isOpen
  if s.cast.lost then loseZones open_ s else open_.foldl (fun s k => s.updZone k fun z => { z with st := .closed }) s

/-! ### A reshape resumes (R209, Table 8.1) -/

/-- The checkpoints of the reshape in progress, of members and Stereo halves. -/
def validCks (s : State) (g : Nat) (r : Reshape) (x : AsmFound) : List CkptFound :=
  let dst := ((impOf s g).map (·.hash)).getD []
  let st := (if s.st0.ok then (nfind g s.st0.cks).toList else []) ++ (if s.st1.ok then (nfind g s.st1.cks).toList else [])
  ((x.cks ++ st.map fun c => (⟨true, c.gen, c.src, c.dst, c.b, c.z, c.next⟩ : CkptFound)).filter fun c => c.ok && c.src == r.src.hash && c.dst == dst)

/-- The one of highest generation. -/
def bestCk (cs : List CkptFound) : Option CkptFound :=
  cs.foldl (fun b c => match b with | some y => if c.gen > y.gen then some c else b | none => some c) none

/-- A window's journal entries are made anew with its blocks; its parity follows. -/
def remakeWindow (g lo hi : Nat) (blocks : NMap RdVal) (s : State) : State :=
  let s := updRs g (fun r => { r with begun := true, win := some { lo := lo, hi := hi, step := 2, blocks := blocks, shadow := (r.win.map (·.shadow)).getD [] } }) s
  let n := max 1 (((impOf s g).map (·.sheetBlocks)).getD 1)
  let k := ((impOf s g).map (·.k)).getD 0
  let s := ((winTargets s g lo hi).filter fun t => !skipSheet s g t).foldl (fun s t =>
    startUpd { sig := g, sheet := t, kind := .window, fresh := true, begun := s.core.imp, writes := (List.range (k + 2)).map fun p => (p, wholeFolio s g t) } s) s
  { s with upds := nmapv (fun _ u => if u.sig = g ∧ u.kind = .window then { u with data := (List.range n).map fun o => (o, ngetD (u.sheet * n + o) ⟨0, true, false⟩ blocks) } else u) s.upds }

/-- One block of a torn window: the target copy where it verifies, else the source copy; none where neither does. -/
def tornBlock (s : State) (g : Nat) (r : Reshape) (i : Imposition) (torn : List TornBlk) (l : Nat) : Option RdVal :=
  if inHb s g l ∨ !mayBeWritten s g l then some ⟨0, true, false⟩
  else match torn.find? fun b => b.lbn == l with
    | none => none
    | some b =>
      match verify s g (i.sheetOf l) (i.posOf l) (i.blkOf l) b.target with
      | .good v => some v
      | _ => match verify s g (srcBit + r.src.sheetOf l) (r.src.posOf l) (r.src.blkOf l) b.source with
        | .good v => some v
        | _ => none

/-- Without a cast: the window at the checkpoint's B may be torn, and is copied again from the blocks recovered. -/
def recoverWindow (g lo hi : Nat) (torn : List TornBlk) (s : State) : State :=
  match (s.sigSt g).rs, impOf s g with
  | some r, some i =>
    let vs := (List.range (hi - lo)).map fun j => (lo + j, tornBlock s g r i torn (lo + j))
    let bad := vs.filterMap fun v => if v.2.isNone then some v.1 else none
    let s := if bad.isEmpty then s else hbAdd g 4 bad s
    let s := remakeWindow g lo hi (vs.map fun v => (v.1, v.2.getD ⟨0, true, false⟩)) s
    (s.raise Reg.Sig.RS_WIN_RESYNC g).log 0x6008 (srcSig g) ([3] ++ leBytes 8 r.b)
  | _, _ => s

/-- The window of a governing cast: before the writes it begins again, after them its lines are written again (Table 8.1). -/
def resumeWindow (g : Nat) (w : CopyWin) (s : State) : State :=
  if w.step ≤ 2 then updWin g (fun w => { w with step := 1, blocks := [] }) s
  else if w.step ≥ 5 then remakeWindow g w.lo w.hi w.blocks s
  else s

/-- A reshape in progress goes on, by the highest window generation among the cast's record and the valid checkpoints. -/
def resumeReshape (g : Nat) (x : AsmFound) (s : State) : State :=
  match (s.sigSt g).rs, impOf s g with
  | some r, some i =>
    let best := bestCk (validCks s g r x)
    let told (s : State) : State := (s.raise Reg.Sig.RS_RESUMED g).log 0x6008 (srcSig g) ([2] ++ leBytes 8 (((s.sigSt g).rs.map (·.b)).getD 0))
    if (s.sigSt g).governed then
      let later := best.all fun c => decide (c.gen < r.wgen)
      let s := if later then let c := ckptOf s g r r.b r.wgen false; sendCkpt g c (storeCkpt g c s) else s
      told (match r.win with | some w => resumeWindow g w s | none => s)
    else match best with
      | none => startReshape g r.src i r.z (x.cks.filterMap fun c => if c.ok then some c.gen else none) s
      | some c =>
        let r := { r with b := c.b, z := c.z, wgen := c.gen, win := none }
        let s := told (s.updSig g fun y => { y with rs := some r })
        if (r.up ∧ r.b ≥ r.z) ∨ (!r.up ∧ r.b = 0) then finishReshape g r s
        else
          let w := if r.up then (c.b, c.next) else (c.next, c.b)
          if w.1 < w.2 then recoverWindow g w.1 w.2 x.torn s else s
  | _, _ => s

/-! ### Entry -/

/-- The current bitmap generation goes to every holder and half whose copy is older or invalid (R144). -/
def freshenBmps (g : Nat) (x : AsmFound) (s : State) : State :=
  let k := (s.sigSt g).k
  let hs := (s.sigSt g).holders
  if k.gen = 0 then s
  else
    let has (h : HalfSt) : Bool := !h.ok || (h.bmps.any fun b => b.1 / 2 == g && b.2.gen == k.gen && b.2.identity == ((impOf s g).map (·.identity)).getD 0)
    let short := decide ((x.bmps.filter fun b => b.ok && b.gen == k.gen).length < hs.length)
    if has s.st0 && has s.st1 && !short then s
    else
      let c : Commit := { gen := k.gen, bits := k.bits, left := [], keep := k }
      let s' := s.eachHalf fun h => if has h then h else storeBmp s g c h
      let s' := if short then hs.foldl (fun s d => s.emit (.drvBitmap (memPort s g d) (k.gen % 2) k.gen)) s' else s'
      s'.raise Reg.Sig.BMP_STALE g

/-- The last step: the signature is in service. Hellbox extents outside every namespace and the metadata area go. -/
def enterService (g : Nat) (x : AsmFound) (s : State) : State :=
  let s := resumeReshape g x (restoreZones g x s)
  let s := (s.upds.filter fun u => u.2.sig == g && u.2.st == .prep && u.2.kind != .window).foldl (fun s u => updReads u.1 g u.2.sheet u.2.reads s) s
  let held (l : Nat) : Bool := (nsOfLbn s g l).isSome || (impOf s g).any fun i => decide (l < i.meta_ * i.sheetBlocks)
  let s := s.updKeep g fun k => { k with hb := k.hb.filter fun e => held e.1 }
  let s := s.updSig g fun y => { y with inService := true, entering := false, heldOut := false, isNew := false, enterAt := s.core.imp, lastCommit := s.core.imp }
  let s := s.updSig g fun y => { y with holders := pickHolders s g [], holdLost := [] }
  let s := freshenBmps g x s
  let s := (s.setBit Reg.Glb.SIG_IN_SERVICE g true).setBit Reg.Glb.SIG_HELD g false
  ((membersOf s g).map (·.port)).foldl (fun s p => if (s.drivePort p).isNew && (s.drivePort p).identified then handOver p s else s) s

/-- SIGNATURE_ENTER_SERVICE: at the first boundary at which R394 holds the signature is restored; it is in service once every replay has
completed. -/
def doSignatureEnterService (g : Nat) (x : AsmFound) (s : State) : State :=
  let s := if (s.sigSt g).entering then s else if mayEnter s g then restoreSig g x (markKey g s) else s
  if (s.sigSt g).entering ∧ runsC5 s.core.mode ∧ !(s.upds.any fun u => u.2.sig == g && u.2.st == .ready) then enterService g x s else s

/-! ### A new signature (R229) -/

/-- Whether the drive of a member port can be built into a new signature; one formatted for it counts. -/
def fitNew (s : State) (g : Nat) (i : Imposition) (m : Member) : Bool :=
  let d := s.drivePort m.port
  d.identified && (d.fmt.any (fun f => f.sig == g) || (d.isNew && (d.row == 2 || d.row == 3) && d.fmt.isNone)) && d.sata == sigSata i && decide (d.blocks ≥ m.base + 512)

/-- The smallest member, and what follows from it (R113). -/
def sizeNew (g : Nat) (i : Imposition) (s : State) : State :=
  let b := match i.members.map fun m => (s.drivePort m.port).blocks with | [] => 0 | x :: xs => xs.foldl min x
  s.updSig g fun y => { y with bMin := b, cycles := i.cyclesFor b, sheets := i.sheetsFor b }

/-- A label as it has been written to a member. -/
def labelOf (s : State) (g d : Nat) (i : Imposition) : LabelCopy :=
  { crcOk := true, gen := (s.sigSt g).labelGen, sigIdentity := i.identity, sigIndex := g, driveIndex := d, bMin := (s.sigSt g).bMin
    driveId := (s.drivePort (i.portOf d)).identity, reshape := false, payloadHash := leValue i.hash }

/-- Every format has completed: labels of generation 1, bitmap generation 1, the data key. -/
def finishNew (g : Nat) (i : Imposition) (s : State) : State :=
  let s := writeAllLabels g (List.range i.n) i none (sizeNew g i (s.updSig g fun y => { y with labelGen := 0, k := {} }))
  let s := (List.range i.n).foldl (fun s d =>
    let p := i.portOf d
    let s := s.updDrv p fun x => { x with fmt := none, isNew := false, failed := false, inService := true, row := 7, label := some (labelOf s g d i) }
    setMem g d { identity := (s.drivePort p).identity } s) s
  let k := { (s.sigSt g).k with gen := 1, durGen := 1, bits := [] }
  let s := s.updSig g fun y => { y with k := k, creating := false, isNew := true, rs := none }
  let s := s.eachHalf (storeBmp s g { gen := 1, bits := [], left := [], keep := k })
  let s := (pickHolders s g []).foldl (fun s d => s.emit (.drvBitmap (memPort s g d) 1 1)) s
  markKey g (createKey g s)

/-- SIGNATURE_CREATE: in PRESS_RUN the members of a new signature are checked and formatted; once all are, it is labelled and keyed. -/
def doSignatureCreate (g : Nat) (s : State) : State :=
  let x := s.sigSt g
  match impOf s g with
  | none => s
  | some i =>
    if x.inService ∨ x.entering then s
    else if x.creating then
      if runsC6 s.core.mode ∧ i.members.all fun m => (s.drivePort m.port).fmt.any fun f => f.sig == g && f.done then finishNew g i s else s
    else if s.core.mode = .pressRun ∧ waitOver s g ∧ isNewSig s g then
      if i.members.all (fitNew s g i) then
        let s := (sizeNew g i s).updSig g fun y => { y with creating := true, isNew := true }
        (List.range i.n).foldl (fun s d => if (s.drivePort (i.portOf d)).fmt.isNone then beginFormat (i.portOf d) g none d s else s) s
      else if x.heldOut then s
      else ((s.updSig g fun y => { y with heldOut := true }).setBit Reg.Glb.SIG_HELD g true).raise Reg.Glb.SIG_HELD_OUT
    else s

/-! ### The wait, the force, and the end of ASSEMBLE (R394 to R396) -/

/-- ASM_WAIT_EXPIRED. -/
def doAsmWaitExpired (s : State) : State :=
  match s.core.asmAt with
  | some t => if s.core.mode = .assemble ∧ s.since t ≥ s.get Reg.Glb.ASM_WAIT * 125000 then { s with core.asmOver := true } else s
  | none => s

/-- ASM_DONE. -/
def doAsmDone (s : State) : State :=
  let s := s.pulse Reg.Glb.ASM_DONE
  if s.core.mode = .assemble then { s with core.asmOver := true } else s

/-- One bit of ASM_FORCE. -/
def forceSig (g : Nat) (s : State) : State :=
  if (s.sigSt g).inService ∨ (impOf s g).isNone ∨ !runsC5 s.core.mode ∨ !waitOver s g ∨ !capacityOk s g ∨ isNewSig s g then s
  else ({ s with core.forced := addTo g s.core.forced } : State).raise Reg.Glb.ASM_FORCED

/-- ASM_FORCE. -/
def doAsmForce (mask : Nat) (s : State) : State :=
  let s := (s.put Reg.Glb.ASM_FORCE mask).settle Reg.Glb.ASM_FORCE
  ((List.range 16).filter fun g => mask / 2 ^ g % 2 == 1).foldl (fun s g => forceSig g s) s

/-- Whether a signature is held out now: its wait is over, and it cannot enter. -/
def heldNow (s : State) (g : Nat) : Bool := waitOver s g && !(s.sigSt g).entering && !mayEnter s g

/-- A signature is held out. -/
def holdOut (g : Nat) (s : State) : State :=
  let s := markKey g (((s.updSig g fun y => { y with heldOut := true }).setBit Reg.Glb.SIG_HELD g true).raise Reg.Glb.SIG_HELD_OUT)
  if !isNewSig s g && !capacityOk s g then s.log 0x500A (srcSig g) [2] else s

/-- ASSEMBLE_END: every defined signature is in service or held out; PRESS_RUN is entered. -/
def doAssembleEnd (s : State) : State :=
  let gs := ((imgOf s).map fun m => m.imps.map (·.1)).getD []
  if s.core.mode = .assemble ∧ s.cast.due.isNone ∧ gs.all fun g => (s.sigSt g).inService || heldNow s g then
    let s := (gs.filter fun g => !(s.sigSt g).inService).foldl (fun s g => holdOut g s) s
    (s.enter .pressRun).raise Reg.Glb.MAKEREADY_DONE
  else s

/-! ### The commands -/

def execSignatureCreate (g : SigIx) (s : State) : Host.Outcome State Fault Refusal := .next (whenOn (doSignatureCreate g.val) s)
def execSignatureEnterService (g : SigIx) (x : AsmFound) (s : State) : Host.Outcome State Fault Refusal :=
  .next (whenOn (doSignatureEnterService g.val x) s)
def execAsmWaitExpired (s : State) : Host.Outcome State Fault Refusal := .next (whenOn doAsmWaitExpired s)
def execAsmDone (s : State) : Host.Outcome State Fault Refusal := .next (whenOn doAsmDone s)
def execAsmForce (m : BitVec 16) (s : State) : Host.Outcome State Fault Refusal := .next (whenOn (doAsmForce m.toNat) s)
def execAssembleEnd (s : State) : Host.Outcome State Fault Refusal := .next (whenOn doAssembleEnd s)

end Sys2Proof.Machine
end

