-- ==== Sys2Proof/Machine/Inputs.lean ====
section
/-!
DEFINITION. The input stages (R454 to R456, R466, Table 21.4). A stage that disconnects is lost like its input (R454).
-/

namespace Sys2Proof.Machine

/-- A stage disconnects: its input no longer counts. -/
def dropStage (b : Bool) (f : Input → Input) (s : State) : State :=
  let lost := decide ((s.input b).low ≥ 2)
  let s := s.updInput b fun x => { f x with on := false, healthy := false }
  evalHold (if lost then s else loseInput b s)

/-- INPUT_ENABLE: above 8.8 V for 2 ms the stage ramps. One that an overvoltage turned off needs 62 V or less; one at its current limit
waits for its retry. -/
def doInputEnable (b : Bool) (mv : Nat) (s : State) : State :=
  let x := s.input b
  if mv > 8800 ∧ x.faultAt.isNone ∧ (!x.latched ∨ mv < 62000) then (sampleInput b mv s).updInput b fun x => { x with on := true, latched := false } else s

/-- INPUT_OVERCURRENT: the stage has held its limit of 11 A for 10 ms. -/
def doInputOvercurrent (b : Bool) (s : State) : State := dropStage b (fun x => { x with faultAt := some s.core.imp }) s

/-- INPUT_STAGE_RETRY: 1 s later. -/
def doInputStageRetry (b : Bool) (s : State) : State :=
  match (s.input b).faultAt with
  | some t => if s.since t ≥ 125000 then s.updInput b fun x => { x with faultAt := none, on := true } else s
  | none => s

/-- INPUT_OVERVOLTAGE: above 64 V. -/
def doInputOvervoltage (b : Bool) (mv : Nat) (s : State) : State :=
  if mv > 64000 then dropStage b (fun x => { x with latched := true }) (sampleInput b mv s) else s

/-- INPUT_STAGE_OFF: below 7.5 V. -/
def doInputStageOff (b : Bool) (mv : Nat) (s : State) : State :=
  if mv < 7500 then dropStage b (fun x => x) (sampleInput b mv s) else s

/-- BUS_TAKEOVER: below 11.5 V on the intermediate bus the charger reverses, without waiting for a boundary. -/
def doBusTakeover (mv : Nat) (s : State) : State :=
  if mv < 11500 ∧ !s.fnt.absent then stepCharger { s with fnt.carries := true } else s

def execInputEnable (b : Bool) (mv : Nat) (s : State) : Host.Outcome State Fault Refusal := .next (whenOn (doInputEnable b mv) s)
def execInputOvercurrent (b : Bool) (s : State) : Host.Outcome State Fault Refusal := .next (whenOn (doInputOvercurrent b) s)
def execInputStageRetry (b : Bool) (s : State) : Host.Outcome State Fault Refusal := .next (whenOn (doInputStageRetry b) s)
def execInputOvervoltage (b : Bool) (mv : Nat) (s : State) : Host.Outcome State Fault Refusal := .next (whenOn (doInputOvervoltage b mv) s)
def execInputStageOff (b : Bool) (mv : Nat) (s : State) : Host.Outcome State Fault Refusal := .next (whenOn (doInputStageOff b mv) s)
def execBusTakeover (mv : Nat) (s : State) : Host.Outcome State Fault Refusal := .next (whenOn (doBusTakeover mv) s)

end Sys2Proof.Machine
end

