-- ==== Sys2Proof/Machine/Secure.lean ====
section
/-!
DEFINITION. Keys (R425 to R429), authentication secrets (R431), the random generator (R423), the tamper response (R432) and the attention
button (R420).
-/

namespace Sys2Proof.Machine

/-! ### The key record as bytes (Tables 19.8 and 19.9) -/

/-- One entry. -/
def krecEntry (e : Option (Nat × Nat)) : List Nat := leBytes 16 ((e.map (·.1)).getD 0) ++ leBytes 72 ((e.map (·.2)).getD 0) ++ leBytes 8 0

/-- The record as a slot holds it. -/
def krecBytes (r : KeyRec) : List Nat :=
  let used := (List.range 16).foldl (fun v g => if (nfind g r.entries).isSome then v + 2 ^ g else v) 0
  let body := ascii "KREC" ++ leBytes 2 1 ++ leBytes 2 (r.gen % 2) ++ leBytes 8 r.gen ++ leBytes 16 r.serial ++ leBytes 4 used ++ leBytes 4 0 ++
    leBytes 40 r.check ++ leBytes 48 0 ++ ((List.range 16).flatMap fun g => krecEntry (nfind g r.entries)) ++ leBytes 2428 0
  body ++ leBytes 4 (crc32c body)

/-- A record read from bytes; none where magic, version or CRC is wrong. -/
def krecParse (bs : List Nat) : Option KeyRec :=
  let at_ (o n : Nat) : Nat := leValue ((bs.drop o).take n)
  if bs.length = 4096 ∧ bs.take 4 = ascii "KREC" ∧ at_ 4 2 = 1 ∧ at_ 4092 4 = crc32c (bs.take 4092) then
    some { gen := at_ 8 8, serial := at_ 16 16, check := at_ 40 40
           entries := ((List.range 16).filter fun g => at_ 32 4 / 2 ^ g % 2 == 1).map fun g => (g, at_ (128 + 96 * g) 16, at_ (144 + 96 * g) 72) }
  else none

/-! ### The key-encryption key (R426 to R428) -/

/-- The 256-bit key in eight words, its first byte in bits [31:24] of word 0. -/
def keyWords (F : FieldSpec) (s : State) : Nat := (List.range 8).foldl (fun v j => v * 2 ^ 32 + s.get F j) 0
def zeroWords (F : FieldSpec) (s : State) : State := (List.range 8).foldl (fun s j => s.put F 0 j) s

/-- A KEK_LOAD is refused. -/
def refuseKek (s : State) : State := (zeroWords Reg.Sec.KEK (s.raise Reg.Sec.KEK_BAD)).log 0xD002 0 [1]

/-- The record that a key must open: the module's own, with the imported entries of the image's signatures that it lacks; and whether
that changed it. -/
def mergedRec (s : State) : Option (KeyRec × Bool) :=
  let ids : NMap Nat := (((imgOf s).map (·.imps)).getD []).map fun p => (p.1, p.2.identity)
  let from_ (own : NMap (Nat × Nat)) (i : KeyRec) : NMap (Nat × Nat) :=
    ids.filterMap fun p => if own.any fun e => e.2.1 == p.2 then none else (i.entries.find? fun e => e.2.1 == p.2).map fun e => (p.1, e.2)
  match s.sec.rec_, s.sec.imported with
  | some r, some i => let new := from_ r.entries i; some ({ r with entries := new.foldl (fun m e => nset e.1 e.2 m) r.entries }, !new.isEmpty)
  | some r, none => some (r, false)
  | none, some i => some ({ gen := 0, serial := i.serial, check := i.check, entries := from_ [] i }, true)
  | none, none => none

/-- The data keys of the image's signatures out of a record. -/
def unwrapKeys (s : State) (kek : Nat) (r : KeyRec) : NMap Nat :=
  (((imgOf s).map (·.imps)).getD []).filterMap fun p =>
    (r.entries.find? fun e => e.2.1 == p.2.identity).bind fun e => (Config.keyUnwrap kek e.2.2).map fun k => (p.1, k)

/-- A key is accepted. -/
def acceptKek (kek check : Nat) (keys : NMap Nat) (s : State) : State :=
  let s : State := { s with sec.kek := some kek, sec.check := some check, sec.dataKeys := keys, sec.imported := none }
  let s := keys.foldl (fun s p => s.setBit Reg.Sec.KEYS_PRESENT p.1 true) s
  ((s.putB Reg.Sec.KEK_OK true).raise Reg.Sec.KEK_ACCEPTED).log 0xD002 0 [0]

/-- KEK_LOAD. A tamper edge of the same impression has zeroized the key (R432). -/
def doKekLoad (s : State) : State :=
  let s := s.pulse Reg.Sec.KEK_LOAD
  let kek := keyWords Reg.Sec.KEK s
  if s.sec.tamperAt = some s.core.imp then zeroWords Reg.Sec.KEK s
  else if s.core.mode ≠ .keyWait ∨ s.bit Reg.Sec.KEK_OK then refuseKek s
  else match mergedRec s with
    | none =>
      if s.bit Reg.Sec.RNG_FAIL then acceptKek kek 0 [] s
      else
        let r := s.random
        let check := r.1 % 2 ^ 256
        acceptKek kek check [] (writeKeyRec { gen := 0, serial := Config.serial, check := Config.keyWrap kek check, entries := [] } r.2)
    | some (r, new) =>
      match Config.keyUnwrap kek r.check with
      | none => refuseKek s
      | some check =>
        if r.entries.any fun e => (Config.keyUnwrap kek e.2.2).isNone then refuseKek s
        else acceptKek kek check (unwrapKeys s kek r) (if new then writeKeyRec r s else s)

/-- KREC_IMPORT: window 4 is taken in KEY_WAIT before a key is accepted. -/
def doKrecImport (s : State) : State :=
  let s := s.pulse Reg.Sec.KREC_IMPORT
  match krecParse ((List.range 4096).map fun j => ngetD j 0 s.hif.win4) with
  | some r => if s.core.mode = .keyWait ∧ !s.bit Reg.Sec.KEK_OK then { s with sec.imported := some r } else s.raise Reg.Sec.IMPORT_BAD
  | none => s.raise Reg.Sec.IMPORT_BAD

/-! ### Rotation (R429) -/

/-- KEK_ROTATE. -/
def doKekRotate (s : State) : State :=
  let s := s.pulse Reg.Sec.KEK_ROTATE
  if (s.core.mode = .pressRun ∨ s.core.mode = .maintenance) ∧ s.bit Reg.Sec.KEK_OK ∧ (pendingSlot s).isNone ∧ s.sec.rotating.isNone ∧ s.sec.rec_.isSome then
    ({ s with sec.rotating := some (keyWords Reg.Sec.KEK_NEW s, s.core.imp) } : State).putB Reg.Sec.ROTATING true
  else s.raise Reg.Sec.ROT_ABANDONED

/-- KEK_ROTATION_COMPLETE: generation G + 2 stands in the halves in service, and the new key takes the place of the old one. -/
def doKekRotationComplete (s : State) : State :=
  match s.sec.rotating, s.sec.kek, s.sec.rec_ with
  | some (new, _), some old, some r =>
    if s.halfOk then
      let wrap (w : Nat) : Nat := ((Config.keyUnwrap old w).map (Config.keyWrap new)).getD w
      let r1 := { r with check := wrap r.check, entries := nmapv (fun _ e => (e.1, wrap e.2)) r.entries }
      let s := writeKeyRec { r1 with gen := r.gen + 1 } (writeKeyRec r1 s)
      (({ s with sec.kek := some new, sec.rotating := none } : State).putB Reg.Sec.ROTATING false).raise Reg.Sec.KEK_ROTATED
    else s
  | _, _, _ => s

/-! ### Secrets and the generator (R423, R431) -/

/-- The entry of window 5 for a host-table entry; an invalid length means no secret. -/
def secretAt (w : NMap Nat) (h : Nat) : Option Secret :=
  let b (o : Nat) : Nat := ngetD (160 * h + o) 0 w
  let ok (n : Nat) : Bool := n == 0 || n == 32 || n == 48 || n == 64
  let val (o n : Nat) : Nat := leValue ((List.range n).map fun j => b (o + j))
  if ok (b 0) && ok (b 1) && (b 0 != 0 || b 1 != 0) then some ⟨val 16 (b 0), b 0, val 80 (b 1), b 1⟩ else none

/-- SEC_LOAD: the secret table is replaced, the window zeroed. -/
def doSecLoad (s : State) : State :=
  let s := s.pulse Reg.Sec.SEC_LOAD
  let t : NMap Secret := (List.range 256).filterMap fun h => (secretAt s.hif.win5 h).map fun x => (h, x)
  let s : State := { s with sec.secrets := t, hif.win5 := [] }
  (s.put Reg.Sec.SECRETS_SET (t.filter fun x => x.2.hostLen != 0).length).raise Reg.Sec.SECRETS_LOADED

/-- RNG_HEALTH_FAIL: the generator stops until the next cold reset. -/
def doRngHealthFail (s : State) : State := s.putB Reg.Sec.RNG_FAIL true

/-! ### Tamper (R419, R432, Table 19.10) -/

/-- Zeroize and clear at once, in MAINTENANCE from now on. -/
def tamperNow (s : State) : State :=
  let s := tamperResponse (portsOff { s with cast.due := none })
  if s.core.mode = .maintenance then s else s.enter .maintenance

/-- The response of Table 19.10. -/
def tamperActs (s : State) : State :=
  let s := ((s.log 0xD001 0).raise Reg.Sec.TAMPER_SEEN)
  if s.core.held then s
  else
    let s := ({ s with sec.tamperAt := some s.core.imp } : State).putB Reg.Sec.TAMPER_ACTIVE true
    match s.core.mode with
    | .powerQualify | .selfTest | .caseInit | .imageWait | .keyWait => (zeroize s).putB Reg.Sec.TAMPER_ACTIVE false
    | .recast => tamperNow s
    | .cast => dueCast 3 { s with sec.tamperCast := true }
    | .castDone => if s.sec.clearing.isSome then s else tamperResponse s
    | .safe => tamperResponse s
    | _ => if castContent s ∧ s.sec.clearing.isNone then settleCore (dueCast 3 { s with sec.tamperCast := true }) else tamperNow s

/-- TAMPER_EDGE: the filtered pin falls. -/
def doTamperEdge (s : State) : State := if s.pins.fTamper then s else tamperActs { s with pins.fTamper := true }

/-- TAMPER_CLEAR_DONE: the Case is zeroed; the module is in MAINTENANCE where an input is healthy, and powers down otherwise; SAFE stays. -/
def doTamperClearDone (s : State) : State :=
  if s.sec.clearing.isSome then
    let s := (({ s with sec.clearing := none } : State).putB Reg.Sec.TAMPER_ACTIVE false).ibi 5
    match s.core.mode with
    | .castDone => if anyHealthy s then s.enter .maintenance else powerDown s
    | .maintenance => if anyHealthy s then s else powerDown s
    | _ => s
  else s

/-! ### The attention button (R420) -/

/-- What an edge does. -/
def attnActs (s : State) : State :=
  let s := s.raise Reg.Hif.ATTN_PRESSED
  match s.core.mode with
  | .pressRun => if s.cast.due.isSome then s.raise Reg.Hif.ATTN_IGNORED else beginRelease s
  | .hold => { s with cast.attn := true }
  | _ => s.raise Reg.Hif.ATTN_IGNORED

/-- ATTN_EDGE: the filtered pin falls. -/
def doAttnEdge (s : State) : State :=
  if s.pins.fAttn then s else attnActs { s with pins.fAttn := true, pins.attnAt := some s.core.imp }

/-- ATTN_STUCK: the level has been asserted for 10 s, told once. -/
def doAttnStuck (s : State) : State :=
  match s.pins.attnAt with
  | some t => if s.pins.fAttn ∧ s.since t ≥ 1250000 then (({ s with pins.attnAt := none } : State).raise Reg.Hif.ATTN_STUCK).log 0xE001 0 else s
  | none => s

/-! ### The commands -/

def execKekLoad (s : State) : Host.Outcome State Fault Refusal := .next (whenOn doKekLoad s)
def execKrecImport (s : State) : Host.Outcome State Fault Refusal := .next (whenOn doKrecImport s)
def execKekRotate (s : State) : Host.Outcome State Fault Refusal := .next (whenOn doKekRotate s)
def execKekRotationComplete (s : State) : Host.Outcome State Fault Refusal := .next (whenOn doKekRotationComplete s)
def execSecLoad (s : State) : Host.Outcome State Fault Refusal := .next (whenOn doSecLoad s)
def execRngHealthFail (s : State) : Host.Outcome State Fault Refusal := .next (whenOn doRngHealthFail s)
def execTamperEdge (s : State) : Host.Outcome State Fault Refusal := .next (whenOn doTamperEdge s)
def execTamperClearDone (s : State) : Host.Outcome State Fault Refusal := .next (whenOn doTamperClearDone s)
def execAttnEdge (s : State) : Host.Outcome State Fault Refusal := .next (whenOn doAttnEdge s)
def execAttnStuck (s : State) : Host.Outcome State Fault Refusal := .next (whenOn doAttnStuck s)

end Sys2Proof.Machine
end

