-- ==== Sys2Proof/Machine/Flags.lean ====
section
/-!
DEFINITION. What a register read returns: the fields that track a condition of the module, the stored fields, the latches of 64-bit
pairs (R7), the interrupt summary (R447), the global status (R449) and the snapshot (R446).
-/

namespace Sys2Proof.Machine

/-- A field that follows a condition: the field, its occurrence, its value. -/
abbrev Level := FieldSpec × Nat × Nat

/-- One bit. -/
def bitN (b : Bool) : Nat := if b then 1 else 0

/-- The bits at which a test holds, below a width. -/
def maskN (n : Nat) (f : Nat → Bool) : Nat := ((List.range n).map fun j => if f j then 2 ^ j else 0).sum

/-- Both words of a 64-bit quantity. -/
def pairLevels (lo hi : FieldSpec) (i v : Nat) : List Level := [(lo, i, v % 2 ^ 32), (hi, i, v / 2 ^ 32 % 2 ^ 32)]

/-! ### Levels by block -/

/-- SAFE_TO_REMOVE is asserted in three cases (R388). -/
def safeOut (s : State) : Bool :=
  s.core.mode == .castDone || (s.core.mode == .release && s.core.released) || (s.core.mode == .safe && s.core.safeFlushed)

/-- READY (Table 1.7) and FAULT_N (R340). -/
def readyOut (s : State) : Bool := s.core.mode == .pressRun || s.core.mode == .hold
def faultOut (s : State) : Bool := anySimplex s || anyDead s || s.core.mode == .safe

/-- Character j of the module serial (R442). -/
def serialChar (j : Nat) : Nat := Config.serial / 256 ^ j % 256

/-- Block 0x00, but for the summary and the status words. -/
def levelsGlb (s : State) : List Level :=
  [(Reg.Glb.MOD_STATE, 0, s.core.mode.code), (Reg.Glb.PREV_STATE, 0, s.core.prev.code), (Reg.Glb.LAST_RESET, 0, s.core.lastReset.code),
   (Reg.Glb.FOUNT_ABSENT, 0, bitN s.fnt.absent), (Reg.Glb.STATE_IMP, 0, min (s.since s.core.entered) (2 ^ 32 - 1)),
   (Reg.Glb.PART_ID, 0, 0x4960), (Reg.Glb.DIE_REV, 0, Config.dieRev), (Reg.Glb.MAP_VER, 0, 1),
   (Reg.Glb.OP_TIME, 0, opTimeOf s.core.opImp), (Reg.Glb.POWER_CYCLES, 0, s.core.cycles)] ++
  pairLevels Reg.Glb.IMP_CNT_LO Reg.Glb.IMP_CNT_HI 0 s.core.imp ++ pairLevels Reg.Glb.OP_IMP_LO Reg.Glb.OP_IMP_HI 0 s.core.opImp ++
  (List.range 4).map (fun j => (Reg.Glb.SERIAL, j, beValue ((List.range 4).map fun b => serialChar (4 * j + b)))) ++
  (List.range 12).map (fun j => (Reg.Glb.KEY_HASH, j, Config.keyHash j))

/-- Block 0x01, but for ALERT_OUT. -/
def levelsHif (s : State) : List Level :=
  [(Reg.Hif.HDR_ACTIVE, 0, bitN s.hif.hdr), (Reg.Hif.PWRFAIL_F, 0, bitN s.pins.fPf), (Reg.Hif.TAMPER_F, 0, bitN s.pins.fTamper),
   (Reg.Hif.ATTN_F, 0, bitN s.pins.fAttn), (Reg.Hif.READY_OUT, 0, bitN (readyOut s)), (Reg.Hif.FAULT_OUT, 0, bitN (faultOut s)),
   (Reg.Hif.SAFE_OUT, 0, bitN (safeOut s))]

/-- Block 0x04. -/
def levelsMu (s : State) : List Level :=
  [(Reg.Mu.THERM_STATE, 0, s.sch.therm), (Reg.Mu.C4_BOOST, 0, bitN s.sch.boost), (Reg.Mu.ENCL_STALE, 0, bitN s.sch.enclAt.isNone),
   (Reg.Mu.SENSOR_FAIL, 0, bitN s.sch.sensorFail)]

/-- Code of PAIR_STATE. -/
def PairSt.code : PairSt → Nat
  | .comparing => 0 | .switching => 1 | .simplex => 2 | .dead => 3

/-- ENG_ROLE: the members of a pair in I1 and I2 of a switch-over are under self-test (Table 14.3). -/
def engRole (s : State) (e : Nat) : Nat :=
  if (s.engine e).retired then 4
  else match s.prs.pairs.find? fun p => p.2.a == some e || p.2.b == some e with
    | none => 0
    | some (_, q) => if q.st = .switching ∧ q.step ≤ 2 ∧ !q.verdict then 3 else if q.st = .simplex then 2 else 1

/-- Block 0x05. -/
def levelsCp (s : State) : List Level :=
  [(Reg.Cp.SPARES_CMP, 0, (spares s 0).length), (Reg.Cp.SPARES_PRS, 0, (spares s 1).length), (Reg.Cp.SPARES_FPE, 0, min 1 (spares s 2).length),
   (Reg.Cp.SIMPLEX, 0, bitN (anySimplex s)), (Reg.Cp.PAIR_DEAD, 0, bitN (anyDead s)), (Reg.Cp.SWITCHING, 0, bitN s.switching)] ++
  (List.range 14).flatMap (fun p =>
    let q := s.pair p
    [(Reg.Cp.PAIR_STATE, p, q.st.code), (Reg.Cp.PAIR_STEP, p, if q.st = .switching ∨ q.dying then min 7 q.step else 0),
     (Reg.Cp.MEMBER_A, p, q.a.getD 0x3F), (Reg.Cp.MEMBER_B, p, q.b.getD 0x3F), (Reg.Cp.ADOPTER, p, q.adopter.getD 0xF)]) ++
  (List.range 33).flatMap fun e =>
    [(Reg.Cp.ENG_ROLE, e, engRole s e), (Reg.Cp.ENG_CAUSE, e, (s.engine e).cause), (Reg.Cp.ENG_TRANS_24H, e, min 31 (trans24 s e))]

/-- Block 0x06: COUNT of a running channel is what its current descriptor has left. -/
def levelsDma (s : State) : List Level :=
  (Reg.Dma.SHARED_PF, 0, bitN (decide (s.dma.channels > 16))) ::
  (List.range 64).flatMap fun c =>
    (Reg.Dma.HOST_CH, c, bitN (hostChannel s c)) ::
    match (nfind c s.dma.runs).bind (·.cur) with
    | some d => [(Reg.Dma.COUNT, c, d.left)]
    | none => []

/-- Block 0x07. -/
def levelsEl (s : State) : List Level :=
  [(Reg.El.LOG_USED, 0, roundUp s.el.logEnd 4096), (Reg.El.BUF_USED, 0, s.el.used),
   (Reg.El.CLEAR_COUNT, 0, max (if s.st0.ok then s.st0.log.clears else 0) (if s.st1.ok then s.st1.log.clears else 0))]

/-- Block 0x08. -/
def levelsCc (s : State) : List Level :=
  [(Reg.Cc.SETS, 0, caseSets s), (Reg.Cc.LINES_VALID, 0, s.cs.tags.length), (Reg.Cc.EVB_USED, 0, s.cs.evb.length),
   (Reg.Cc.LINES_DIRTY, 0, (s.cs.tags.filter fun p => p.2.cells.any fun c => c.2.dirty).length),
   (Reg.Cc.PINNED, 0, (s.cs.tags.filter fun p => p.2.pin || p.2.retain).length)] ++
  (List.range 4).map fun c => (Reg.Cc.FREE_CH, c, if chanClean s c then freeFrames s c else 0)

/-- Block 0x09. -/
def levelsEcc (s : State) : List Level :=
  [(Reg.Ecc.MAP_ENTRIES, 0, s.cs.map.length), (Reg.Ecc.MB_USED, 0, s.cs.merge.length)] ++
  (List.range 4).flatMap fun c =>
    [(Reg.Ecc.ROWS_REPAIRED, c, (s.chan c).rows), (Reg.Ecc.FRAMES_RETIRED, c, (s.chan c).retired.length),
     (Reg.Ecc.ST_QUEUE, c, (s.chan c).queue.length)]

/-- Block 0x0A. -/
def levelsFount (s : State) : List Level :=
  [(Reg.Fount.DIRTY, 0, s.dirty), (Reg.Fount.CHG_STATE, 0, s.fnt.chg), (Reg.Fount.DISAGREE_NOW, 0, bitN s.fnt.disagree),
   (Reg.Fount.PACK_LOW, 0, bitN s.fnt.packLow), (Reg.Fount.CAL_REQ, 0, bitN (calReq s)),
   (Reg.Fount.CEIL_ZERO, 0, bitN (s.get Reg.Fount.CEILING == 0)), (Reg.Fount.PF_LEVEL, 0, bitN s.pins.fPf),
   (Reg.Fount.PF_EDGES, 0, min 255 (s.pins.pfEdges.filter fun t => s.since t < 125000).length)]

/-- The slot that holds the newest valid cast. -/
def newestAt (s : State) : Nat :=
  let gen (i : Nat) : Nat := (([s.st0, s.st1].filter (·.ok)).map fun h => let x := ngetD i {} h.slots; if x.ok then x.gen + 1 else 0).foldl max 0
  if gen 1 > gen 0 then 1 else 0

/-- Block 0x0B. -/
def levelsCast (s : State) : List Level :=
  [(Reg.Cast.ST0_OK, 0, bitN s.st0.ok), (Reg.Cast.ST1_OK, 0, bitN s.st1.ok), (Reg.Cast.SLOT_READY, 0, bitN (slotReady s)),
   (Reg.Cast.CAST_PENDING, 0, bitN (pendingSlot s).isSome), (Reg.Cast.NEWEST_SLOT, 0, newestAt s),
   (Reg.Cast.CAST_KEY_FAIL, 0, bitN (castKeyFail s)), (Reg.Cast.CAST_IMG_DIFF, 0, bitN (castImgDiff s))]

/-- RS_STATE (Table 8.3). -/
def rsState (s : State) (g : Nat) : Nat :=
  match (s.sigSt g).rs with
  | none => 0
  | some r => if r.b = (if r.up then r.z else 0) ∧ r.win.isNone then 4 else if !r.begun then 1 else if r.paused then 3 else 2

/-- Windows left of a reshape, taken as of the size of the next one, and the seconds they take at the rate of the last 60 s (R214). -/
def rsEta (s : State) (g : Nat) : Nat :=
  match (s.sigSt g).rs, windowNext s g with
  | some r, some w =>
    let left := if r.up then r.z - r.b else r.b
    let n := (left + (w.2 - w.1) - 1) / max 1 (w.2 - w.1)
    let rate := (recent s.core.imp r.doneAt).length
    if rate = 0 then 2 ^ 32 - 1 else min (2 ^ 32 - 1) (n * 60 / rate)
  | _, _ => 0

/-- Registers of chapter 8. -/
def levelsReshape (s : State) (g : Nat) : List Level :=
  match (s.sigSt g).rs with
  | none => []
  | some r =>
    let k := max 1 (((impOf s g).map (·.sheetBlocks)).getD 1)
    let n := match windowNext s g with | some w => w.2 - w.1 | none => 0
    [(Reg.Sig.RS_STATE, g, rsState s g), (Reg.Sig.RS_DOWN, g, bitN !r.up),
     (Reg.Sig.RS_PAUSE_RB, g, bitN (r.paused && pauseRb s g)), (Reg.Sig.RS_PAUSE_CEIL, g, bitN (r.paused && pauseCeil s n)),
     (Reg.Sig.RS_PAUSE_STATE, g, bitN (r.paused && pauseState s)), (Reg.Sig.SRC_N, g, r.src.n), (Reg.Sig.SRC_K, g, r.src.k),
     (Reg.Sig.SRC_FOLIO, g, r.src.folio), (Reg.Sig.SRC_C_STRIDE, g, r.src.cStride), (Reg.Sig.SRC_META_SHEETS, g, r.src.meta_),
     (Reg.Sig.RS_ENT_OLD, g, maskN 8 fun e => (nfind e (s.sigSt g).k.ents).any (·.old)),
     (Reg.Sig.RS_WIN_SHEETS, g, match r.win with | some w => (w.hi - w.lo) / k | none => 0), (Reg.Sig.RS_ETA, g, rsEta s g)] ++
    pairLevels Reg.Sig.RS_BOUND_LO Reg.Sig.RS_BOUND_HI g r.b ++ pairLevels Reg.Sig.RS_END_LO Reg.Sig.RS_END_HI g r.z ++
    pairLevels Reg.Sig.RS_WGEN_LO Reg.Sig.RS_WGEN_HI g r.wgen

/-- PROOF_STATE (R170). -/
def proofState (s : State) (g : Nat) : Nat := if !s.bit Reg.Sig.PROOF_EN g then 0 else if proofRuns s g then 1 else 2

/-- Tail blocks of a member: the least of any. -/
def tailBlocks (s : State) (g : Nat) : Nat :=
  match impOf s g with
  | some i => (match i.members.map fun m => i.tailFor (s.sigSt g).bMin m.base (s.sigSt g).cycles with
    | [] => 0
    | t :: ts => ts.foldl min t)
  | none => 0

/-- A block 0x10 + g. What ASSEMBLE sets reads 0 before it. -/
def levelsSig (s : State) (g : Nat) : List Level :=
  let x := s.sigSt g
  let laid := x.sheets != 0
  [(Reg.Sig.CYCLES, g, x.cycles), (Reg.Sig.TAIL_BLOCKS, g, if laid then tailBlocks s g else 0),
   (Reg.Sig.REGION_SHEETS, g, if laid then regionSheets s g else 0), (Reg.Sig.REGIONS, g, if laid then regionCount s g else 0),
   (Reg.Sig.BITS_SET, g, x.k.bits.length), (Reg.Sig.HOLDER0, g, x.holders.getD 0 0x7F), (Reg.Sig.HOLDER1, g, x.holders.getD 1 0x7F),
   (Reg.Sig.HOLDER2, g, x.holders.getD 2 0x7F), (Reg.Sig.UPDATES, g, (s.upds.filter fun u => u.2.sig == g).length),
   (Reg.Sig.RESYNC_STATE, g, x.resyncSt), (Reg.Sig.RESYNC_LEFT, g, x.resync.length),
   (Reg.Sig.HOLDER_SHORT, g, bitN (x.inService && decide (x.holders.length < 3))), (Reg.Sig.HB_ENTRIES, g, x.k.hb.length),
   (Reg.Sig.HB_UNKNOWN, g, bitN x.k.hbUnknown), (Reg.Sig.LAP_ELAPSED, g, if x.inService then opTimeOf s.core.opImp - x.k.lapStart else 0),
   (Reg.Sig.LAP_COUNT, g, x.k.lapCount), (Reg.Sig.PROOF_STATE, g, proofState s g),
   (Reg.Sig.RETIRE_DEFER, g, bitN !x.deferred.isEmpty), (Reg.Sig.NO_ENTRY, g, bitN (x.k.mems.any fun m => m.2.failed && m.2.noEntry))] ++
  pairLevels Reg.Sig.SHEETS_LO Reg.Sig.SHEETS_HI g x.sheets ++ pairLevels Reg.Sig.MIN_BLOCKS_LO Reg.Sig.MIN_BLOCKS_HI g x.bMin ++
  pairLevels Reg.Sig.BMP_GEN_LO Reg.Sig.BMP_GEN_HI g x.k.gen ++
  pairLevels Reg.Sig.HB_BLOCKS_LO Reg.Sig.HB_BLOCKS_HI g ((x.k.hb.map fun e => e.2.1).sum) ++
  pairLevels Reg.Sig.PROOF_POS_LO Reg.Sig.PROOF_POS_HI g x.k.proofPos ++
  pairLevels Reg.Sig.CRIT_LEFT_LO Reg.Sig.CRIT_LEFT_HI g (critLeft s g) ++ levelsReshape s g

/-- Block 0x20. -/
def levelsFe (s : State) : List Level :=
  [(Reg.Fe.LINK_UP, 0, maskN 16 s.portUp), (Reg.Fe.FPE_SIMPLEX, 0, bitN (s.prs.pairs.any fun p => pairType p.1 == 2 && p.2.st == .simplex)),
   (Reg.Fe.CONN_OPEN, 0, s.conns.length), (Reg.Fe.CTRL_OPEN, 0, s.ctrls.length)]

/-- A block 0x21 + p. -/
def levelsFeP (s : State) (p : Nat) : List Level :=
  [(Reg.FeP.MAC_LO, p, macOf p % 2 ^ 32), (Reg.FeP.MAC_HI, p, macOf p / 2 ^ 32),
   (Reg.FeP.ANA_OPT, p, maskN 16 fun g => ngetD g 0 (s.fePort p).ana == 1),
   (Reg.FeP.PORT_CONN, p, (s.conns.filter fun c => c.2.port == p).length)]

/-- DRV_STATE (Tables 9.3 and 9.5). -/
def drvState (s : State) (p : Nat) : Nat :=
  let x := s.drivePort p
  let mem := (memberAt s p).map fun m => memOf s m.1 m.2
  if x.fmt.isSome then 5
  else if x.failed then 6
  else if x.inService then (if mem.any (·.catching) then 3 else 2)
  else if mem.any fun m => m.absentAt.isSome && !m.failed then 7
  else if x.identified ∧ (x.rate ≠ 0 ∨ x.ownReset) then 4
  else if s.bit Reg.Drv.PRESENT p ∧ s.bit Reg.Drv.PWR_ON p then 1 else 0

/-- A drive port's registers. -/
def levelsDrv (s : State) (p : Nat) : List Level :=
  let x := s.drivePort p
  let at_ := memberAt s p
  let mem := (at_.map fun m => memOf s m.1 m.2).getD {}
  let isMem := x.inService && at_.isSome
  [(Reg.Drv.LINK_UP, p, bitN (x.rate != 0)), (Reg.Drv.RATE, p, x.rate), (Reg.Drv.SATA, p, bitN (x.identified && x.sata)),
   (Reg.Drv.SSD, p, bitN (x.identified && x.ssd)), (Reg.Drv.DRV_STATE, p, drvState s p), (Reg.Drv.LADDER_ACTIVE, p, bitN x.ladder.isSome),
   (Reg.Drv.LADDER_STEP, p, (x.ladder.map (·.step)).getD 0), (Reg.Drv.LINK_TESTING, p, bitN x.test.isSome),
   (Reg.Drv.MEM_SIG, p, if isMem then (at_.map (·.1)).getD 0 else 0), (Reg.Drv.MEM_VALID, p, bitN isMem),
   (Reg.Drv.MEM_INDEX, p, if isMem then (at_.map (·.2)).getD 0 else 0), (Reg.Drv.QDEPTH, p, x.qdepth), (Reg.Drv.OUTSTANDING, p, x.outstanding),
   (Reg.Drv.ABSENT_TIME, p, match mem.absentAt with | some t => (s.core.opImp - t) / 125000 | none => 0),
   (Reg.Drv.CATCHUP_LEFT, p, mem.missed.length)] ++
  pairLevels Reg.Drv.DRV_ID_LO Reg.Drv.DRV_ID_HI p (if x.identified then x.identity else 0) ++
  pairLevels Reg.Drv.CAP_LO Reg.Drv.CAP_HI p (if x.identified then x.blocks else 0)

/-- The enabled events of a drive port. -/
def portEvents (s : State) (p : Nat) : Nat :=
  (([Reg.Drv.LINK_CHANGE, Reg.Drv.LADDER_RUN, Reg.Drv.RATE_DOWN, Reg.Drv.DRV_UNSUPPORTED, Reg.Drv.FOREIGN, Reg.Drv.WRONG_SLOT,
     Reg.Drv.BRINGUP_FAIL, Reg.Drv.FORMAT_DONE, Reg.Drv.CATCHUP_DONE].map fun F => s.get F p * 2 ^ F.lo).sum) &&& s.get Reg.Drv.PORT_INT_EN p

/-- GRP_EVENT of a group of ports. -/
def grpEvent (s : State) (g : Nat) : Nat := maskN 16 fun j => portEvents s (16 * g + j) != 0

/-- Block 0x50. -/
def levelsZn (s : State) : List Level :=
  [(Reg.Zn.OPEN_ZONES, 0, (s.zn.zones.filter fun p => p.2.isOpen).length), (Reg.Zn.ACTIVE_ZONES, 0, (s.zn.zones.filter fun p => p.2.isActive).length),
   (Reg.Zn.SEAL_QUEUE, 0, s.zn.signQ.length)]

/-- Sizes of the windows (Table 19.4). -/
def winSize (w : Nat) : Nat :=
  match w with
  | 0 => 8388608 | 1 => 262144 | 2 => 4096 | 3 => 4096 | 4 => 4096 | 5 => 40960 | _ => 0

/-- The levels that stand at an address, but for the words of the summary and what mirrors it. -/
def levelsAt (s : State) (a : Nat) : List Level :=
  let b := a / 65536
  let o := a % 65536
  if b = 0x00 then levelsGlb s else if b = 0x01 then levelsHif s else if b = 0x02 then [(Reg.Img.STAGE_LEN, 0, stageLen s)]
  else if b = 0x03 then [(Reg.Sec.TAMPER_LEVEL, 0, bitN s.pins.fTamper), (Reg.Sec.CERT_LEN, 0, Config.certLen)]
  else if b = 0x04 then levelsMu s else if b = 0x05 then levelsCp s else if b = 0x06 then levelsDma s else if b = 0x07 then levelsEl s
  else if b = 0x08 then levelsCc s else if b = 0x09 then levelsEcc s else if b = 0x0A then levelsFount s else if b = 0x0B then levelsCast s
  else if 0x10 ≤ b ∧ b < 0x20 then levelsSig s (b - 0x10) else if b = 0x20 then levelsFe s
  else if 0x21 ≤ b ∧ b < 0x31 then levelsFeP s (b - 0x21)
  else if 0x40 ≤ b ∧ b < 0x48 then
    let g := b - 0x40
    if o < 0x600 then levelsDrv s (16 * g + o / 0x60)
    else [(Reg.DrvG.GRP_LINK_UP, g, maskN 16 fun j => (s.drivePort (16 * g + j)).rate != 0), (Reg.DrvG.GRP_EVENT, g, grpEvent s g)]
  else if b = 0x50 then levelsZn s
  else if b = 0x60 then [(Reg.Win.WIN_SIZE, 0, winSize (s.get Reg.Win.WIN_SEL))]
  else []

/-! ### Words -/

/-- The fields of a word, with their occurrence. -/
def wordFields (a : Nat) : List (FieldSpec × Nat) := (Reg.blockTable (a / 65536)).filterMap fun F => (F.at? a).map fun i => (F, i)

/-- A reserved word of a table: offset 0x5C of a drive port (Table 9.5, R438). -/
def reservedWord (a : Nat) : Bool := 0x40 ≤ a / 65536 && a / 65536 < 0x48 && a % 65536 < 0x600 && a % 65536 % 0x60 == 0x5C

/-- The aperture of the windows (Table 19.14). -/
def isAperture (a : Nat) : Bool := 0x601000 ≤ a && a ≤ 0x60FFFC

/-- Whether a chapter defines an address (R410, R436, R437): the registers of a DMA channel only below DMA_CHANNELS. -/
def wordDefined (s : State) (a : Nat) : Bool :=
  if isAperture a ∨ reservedWord a then true
  else if 0x060100 ≤ a ∧ a < 0x061100 ∧ (a - 0x060100) / 0x40 ≥ s.dma.channels then false
  else !(wordFields a).isEmpty

/-- A signature that the image does not define reads 0 and ignores writes, and so do the module-wide fields of block 0x40 in the
others (R437). -/
def wordMute (s : State) (a : Nat) : Bool :=
  let b := a / 65536
  (0x10 ≤ b && b < 0x20 && !s.bit Reg.Sig.SIG_DEFINED (b - 0x10)) || (0x41 ≤ b && b < 0x48 && (a % 65536 == 0x600 || a % 65536 == 0x604))

/-- The namespace whose attributes stand at an address. -/
def nsAt (a : Nat) : Option Nat :=
  match Reg.Zn.ZONED.at? a with
  | some i => some i
  | none => (Reg.Zn.ZONED_HI.at? a).map fun i => 56 + i

/-- The value of a field as it reads, given the levels of its word; WO fields read 0. -/
def fieldValue (s : State) (ls : List Level) (F : FieldSpec) (i : Nat) : Nat :=
  if F.acc = .wo then 0
  else match ls.find? fun l => decide (l.1 = F) && l.2.1 == i with
    | some l => l.2.2 % 2 ^ F.w
    | none => s.get F i

/-- A word by its fields. -/
def wordBy (s : State) (ls : List Level) (a : Nat) : Nat :=
  if wordMute s a ∨ ((nsAt a).any fun n => (nsOf s n).isNone) then 0
  else ((wordFields a).map fun x => fieldValue s ls x.1 x.2 * 2 ^ x.1.lo).sum

/-- A word other than those of the summary. -/
def plainWord (s : State) (a : Nat) : Nat := wordBy s (levelsAt s a) a

/-! ### The interrupt summary (R447) and the global status (R449) -/

/-- Whether an event register has a bit that its enable register passes. -/
def passes (s : State) (ev en : Nat) : Bool := (plainWord s ev &&& plainWord s en) != 0

/-- SUM_BLK (Table 20.4). -/
def sumBlk (s : State) : Nat :=
  let src : List (List (Nat × Nat)) :=
    [[(0x000218, 0x00021C), (0x000108, 0x00010C)], [(0x010010, 0x010014), (0x01001C, 0x010020)], [(0x020014, 0x020018)],
     [(0x030010, 0x030014)], [(0x040024, 0x040028)], [(0x050010, 0x050014)], [(0x060010, 0x060014)], [(0x070018, 0x07001C)],
     [(0x080048, 0x08004C)], [(0x090014, 0x090018)], [(0x0A0048, 0x0A004C)], [(0x0B0024, 0x0B0028)], [(0x200014, 0x200018)],
     [(0x500014, 0x500018)]]
  maskN 14 fun j => (src.getD j []).any fun p => passes s p.1 p.2

/-- SUM_SIG (Table 20.4). -/
def sumSig (s : State) : Nat :=
  maskN 16 fun g =>
    let b := (0x10 + g) * 65536
    passes s (b + 0xB8) (b + 0xBC) || passes s (b + 0x14C) (b + 0x150) || passes s (b + 0x188) (b + 0x18C) || passes s (b + 0x230) (b + 0x234)

/-- The two words of the summary. -/
def sum0 (s : State) : Nat := sumBlk s + sumSig s * 65536
def sum1 (s : State) : Nat := maskN 8 fun g => grpEvent s g != 0

/-- GLOBAL_STATUS. -/
def levelsStatus (s : State) : List Level :=
  [(Reg.Glb.GS_STATE, 0, s.core.mode.code), (Reg.Glb.GS_THERM, 0, s.sch.therm), (Reg.Glb.GS_CEIL_ZERO, 0, bitN (s.get Reg.Fount.CEILING == 0)),
   (Reg.Glb.GS_SIMPLEX, 0, bitN (anySimplex s)), (Reg.Glb.GS_PAIR_DEAD, 0, bitN (anyDead s)), (Reg.Glb.GS_KEK_OK, 0, s.get Reg.Sec.KEK_OK),
   (Reg.Glb.GS_CAST_PENDING, 0, bitN (pendingSlot s).isSome),
   (Reg.Glb.GS_DEGRADED, 0, bitN ((List.range 16).any fun g => s.get Reg.Sig.SIG_HEALTH g ≥ 1)),
   (Reg.Glb.GS_LOSS, 0, bitN ((List.range 16).any fun g => s.get Reg.Sig.SIG_HEALTH g = 3)),
   (Reg.Glb.GS_HELD, 0, bitN (s.get Reg.Glb.SIG_HELD != 0)), (Reg.Glb.GS_FROZEN, 0, s.get Reg.El.FROZEN),
   (Reg.Glb.GS_SAFE_OUT, 0, bitN (safeOut s)), (Reg.Glb.GS_FE_LINKS, 0, maskN 16 s.portUp)]

/-- ALERT_N is asserted while a summary word is non-zero (R448). -/
def alertOut (s : State) : Bool := sum0 s != 0 || sum1 s != 0

/-- The value of a word, as it stands at the boundary. -/
def wordValue (s : State) (a : Nat) : Nat :=
  if a = 0x000100 then sum0 s
  else if a = 0x000104 then sum1 s
  else if a = 0x000110 then wordBy s (levelsStatus s) a
  else if a = 0x010018 then wordBy s ((Reg.Hif.ALERT_OUT, 0, bitN (alertOut s)) :: levelsHif s) a
  else plainWord s a

/-! ### Reading (R7, R8, R410) -/

/-- The low words of the 64-bit pairs. -/
def pairLows : List FieldSpec :=
  [Reg.Zn.WP_LO, Reg.Sig.SHEETS_LO, Reg.Sig.MIN_BLOCKS_LO, Reg.Sig.MAP_SHEET_LO, Reg.Sig.MAP_LBA_LO, Reg.Sig.BMP_GEN_LO, Reg.Sig.HB_BLOCKS_LO,
   Reg.Sig.HB_START_LO, Reg.Sig.PROOF_POS_LO, Reg.Sig.ENT_LOW_LO, Reg.Sig.ENT_HIGH_LO, Reg.Sig.ENT_N_LO, Reg.Sig.ENT_Y_LO, Reg.Sig.ENT_TODO_LO,
   Reg.Sig.CRIT_LEFT_LO, Reg.Sig.RS_BOUND_LO, Reg.Sig.RS_END_LO, Reg.Sig.RS_WGEN_LO, Reg.Drv.DRV_ID_LO, Reg.Drv.CAP_LO, Reg.Cc.RE_START_LO,
   Reg.Cc.RE_COUNT_LO, Reg.Cc.RE_POS_LO, Reg.Cc.PROBE_LINE_LO, Reg.Cast.CAST_GEN_LO] ++
  [Reg.Mu.VTIME2_LO, Reg.Mu.VTIME3_LO, Reg.Mu.FAIR_FIN_LO, Reg.Dma.SRC_LO, Reg.Dma.DST_LO, Reg.Dma.DESC_PTR_LO, Reg.Dma.CUR_DESC_LO,
   Reg.Dma.ERR_ADDR_LO, Reg.El.ANCHOR_WALL_LO, Reg.Img.STORE_GEN_LO, Reg.Sec.KREC_GEN_LO, Reg.Glb.IMP_CNT_LO, Reg.Glb.OP_IMP_LO,
   Reg.Glb.SNAP_IMP_LO]

/-- Whether an address holds the low word of a pair. -/
def isPairLow (a : Nat) : Bool := pairLows.any fun F => (F.at? a).isSome

/-- A host's read of one word: a low word latches its high word, a latched high word returns what was latched, RC fields clear, and an
address that no chapter defines reads 0 and sets UNMAPPED. -/
def readWord (a : Nat) (s : State) : Nat × State :=
  if !wordDefined s a then (0, hifErr Reg.Hif.UNMAPPED s)
  else
    let v := match nfind a s.rf.latches with | some h => h | none => wordValue s a
    let s := if isPairLow a ∧ !wordMute s a then { s with rf.latches := nset (a + 4) (wordValue s (a + 4)) s.rf.latches } else s
    let s := if wordMute s a then s else (wordFields a).foldl (fun s x => if x.1.acc = .rc then s.put x.1 0 x.2 else s) s
    let s := if a / 65536 = 0x0A then doGaugeWake s else s
    (v, s)

/-! ### The snapshot (R446) -/

/-- SNAP_GO: the values of this boundary are latched. -/
def doSnapGo (s : State) : State :=
  let s := s.pulse Reg.Glb.SNAP_GO
  let v0 := sum0 s
  let v1 := sum1 s
  let st := wordValue s 0x000110
  let s := (s.put Reg.Glb.SNAP_IMP_LO (s.core.imp % 2 ^ 32)).put Reg.Glb.SNAP_IMP_HI (s.core.imp / 2 ^ 32)
  let s := (s.put Reg.Glb.SNAP_OP_TIME (opTimeOf s.core.opImp)).put Reg.Glb.SNAP_CYCLES s.core.cycles
  let s := (s.put Reg.Glb.SNAP_DIRTY s.dirty).put Reg.Glb.SNAP_CEILING (s.get Reg.Fount.CEILING)
  ((s.put Reg.Glb.SNAP_SUM0 v0).put Reg.Glb.SNAP_SUM1 v1).put Reg.Glb.SNAP_STATUS st

def execSnapGo (s : State) : Host.Outcome State Fault Refusal := .next (whenOn doSnapGo s)

end Sys2Proof.Machine
end

