-- ==== Sys2Proof/Machine/HostWrite.lean ====
section
/-!
DEFINITION. The landing of a host's register word at its boundary (R8 to R10, R24, R439, R440, R471): the access codes, the windows
(R413, R414), and the actions that a word starts.
-/

namespace Sys2Proof.Machine

/-! ### The windows (R413, R414, Table 19.4) -/

/-- The aperture's place: WIN_OFFSET without its low bits. -/
def winAt (s : State) : Nat := s.get Reg.Win.WIN_OFFSET / 4 * 4

/-- Whether Table 19.4 permits an access to the selected window. -/
def winMay (s : State) (write : Bool) : Bool :=
  match s.get Reg.Win.WIN_SEL with
  | 0 => !write || !s.bit Reg.Img.STAGE_LOCKED
  | 1 => true
  | 2 => !write
  | 3 => !write
  | 4 => write && s.core.mode == .keyWait
  | 5 => write
  | _ => false

/-- A byte of the selected window. -/
def winByte (s : State) (o : Nat) : Nat :=
  match s.get Reg.Win.WIN_SEL with
  | 0 => ngetD o 0 s.stage
  | 1 => ngetD o 0 s.hostBuf
  | 2 => Config.certByte o % 256
  | 3 => s.hif.krecLatch.getD o 0
  | _ => 0

/-- An access beyond the window's size, or one the table does not permit, sets its error bit; windows 6 and 7 have no size. -/
def winErrors (write : Bool) (s : State) : State :=
  let w := s.get Reg.Win.WIN_SEL
  let beyond := decide (w < 6) && decide (winAt s ≥ winSize w)
  let bad := !winMay s write
  let s := if beyond then hifErr Reg.Hif.WIN_OVF s else s
  if bad then hifErr Reg.Hif.UNMAPPED s else s

/-- Whether the access takes effect. -/
def winOk (s : State) (write : Bool) : Bool := winMay s write && decide (winAt s < winSize (s.get Reg.Win.WIN_SEL))

/-- WIN_OFFSET advances by 4 for every word of the aperture. -/
def winAdvance (s : State) : State := s.put Reg.Win.WIN_OFFSET (s.get Reg.Win.WIN_OFFSET + 4)

/-- A word written to the aperture. -/
def apertureWrite (v : Nat) (s : State) : State :=
  let o := winAt s
  let bs := leBytes 4 v
  let t := if winOk s true then
      match s.get Reg.Win.WIN_SEL with
      | 0 => { s with stage := putBytes o bs s.stage }
      | 1 => { s with hostBuf := putBytes o bs s.hostBuf }
      | 4 => { s with hif.win4 := putBytes o bs s.hif.win4 }
      | 5 => { s with hif.win5 := putBytes o bs s.hif.win5 }
      | _ => s
    else s
  winAdvance (winErrors true t)

/-- A word read from the aperture. -/
def apertureRead (s : State) : Nat × State :=
  let o := winAt s
  let v := if winOk s false then leValue ((List.range 4).map fun j => winByte s (o + j)) else 0
  (v, winAdvance (winErrors false s))

/-- WIN_SEL: a window is selected, and window 3 latched from the key record in force. -/
def doWinSel (v : Nat) (s : State) : State :=
  { s.put Reg.Win.WIN_SEL v with hif.krecLatch := (s.sec.rec_.map krecBytes).getD [] }

/-- WINDOW_ACCESS: one word of the aperture; a read's word leaves the module. -/
def doWindowAccess (write : Option Nat) (s : State) : State :=
  match write with
  | some v => apertureWrite v s
  | none => (apertureRead s).2.emit (.hostBytes (leBytes 4 (apertureRead s).1).reverse)

/-- A host's read of one word, the aperture among them. -/
def hostRead (a : Nat) (s : State) : Nat × State := if isAperture a then apertureRead s else readWord a s

/-! ### Storing by access code (R8, R9, R440) -/

/-- Clear the written bits of a write-one-to-clear field, but for those set in this impression; a cleared interrupt class may be
delivered again. -/
def clearBits (F : FieldSpec) (i x : Nat) (s : State) : State :=
  let hit (j : Nat) : Bool := x / 2 ^ j % 2 == 1 && !s.rf.fresh.contains (F.key i + j)
  let old := s.get F i
  let s := s.put F (maskN F.w fun j => old / 2 ^ j % 2 == 1 && !hit j) i
  if F = Reg.Hif.IBI_PENDING then
    let left := s.hif.delivered.filter fun c => !hit (c - 1)
    { s with hif.delivered := left, hif.nackAt := if s.get F i = 0 then none else s.hif.nackAt }
  else s

/-- Store one field of a word as its access code says. -/
def storeField (v : Nat) (s : State) (x : FieldSpec × Nat) : State :=
  let F := x.1
  let i := x.2
  let n := v / 2 ^ F.lo % 2 ^ F.w
  match F.acc with
  | .rw => if F.rlo ≤ n ∧ n ≤ F.rhi then s.put F n i else s.raise Reg.Glb.VALUE_REJ
  | .rwl => if s.img.committed then s else if F.rlo ≤ n ∧ n ≤ F.rhi then s.put F n i else s.raise Reg.Glb.VALUE_REJ
  | .wo => s.put F n i
  | .rw1c => clearBits F i n s
  | .ro | .rc | .rw1s => s

/-- Fields whose writes their own functions store. -/
def ownFields : List FieldSpec :=
  [Reg.Glb.RESET_CMD, Reg.Mu.MIN_C2, Reg.Mu.MIN_C3, Reg.Mu.MIN_C4, Reg.Mu.MIN_C5, Reg.Mu.MIN_C6, Reg.Mu.ENCL_TEMP, Reg.El.FREEZE,
   Reg.Ecc.ECC_TEST_EN, Reg.Ecc.DEV_SEL_CH, Reg.Ecc.DEV_SEL, Reg.Sig.MEMBER_SEL, Reg.Sig.HB_SEL, Reg.Sig.CORR_SEL, Reg.Sig.ENT_SEL,
   Reg.Fe.CONN_SEL, Reg.FeP.PORT_EN, Reg.Drv.PRESENT, Reg.Drv.PWR_ON, Reg.Zn.OZT_SEL, Reg.Win.WIN_SEL]

/-- The fields of a word but for those. -/
def landFields (a v : Nat) (s : State) : State :=
  ((wordFields a).filter fun x => !ownFields.contains x.1).foldl (storeField v) s

/-! ### The actions of a word -/

/-- Act where a bit of the word is 1. -/
def ifBit (v j : Nat) (f : State → State) (s : State) : State := if v / 2 ^ j % 2 = 1 then f s else s

/-- The actions of the global block, the image, security and the scheduler. -/
def actGlobal (a v : Nat) (s : State) : State :=
  if a = 0x000208 then ifBit v 2 doAsmDone (ifBit v 1 doMaintExit (ifBit v 0 doMaintGo s))
  else if a = 0x000210 then (if v % 65536 = 0 then s else doAsmForce (v % 65536) s)
  else if a = 0x000074 then doResetCmd (v % 65536) s
  else if a = 0x000080 then ifBit v 0 (fun s => s.ask Reg.Glb.SNAP_GO) s
  else if a = 0x020000 then ifBit v 12 doStageClear (ifBit v 10 doImgConfirm (ifBit v 9 doImgCommit (ifBit v 8 doImgVerify s)))
  else if a = 0x030060 then ifBit v 3 doSecLoad (ifBit v 2 doKrecImport (ifBit v 1 doKekRotate (ifBit v 0 doKekLoad s)))
  else if a = 0x04000C ∨ a = 0x040010 then doMinShareWrite a v s
  else if a = 0x040008 then doEnclTempWrite v s
  else if a = 0x040100 then fairSelWritten s
  else s

/-- The actions of the log, the Case, the Fount and casting. -/
def actCase (a v : Nat) (s : State) : State :=
  if a = 0x070000 then ifBit v 3 doLogClear (ifBit v 2 doLogFlush (doFreeze (v % 2 == 1) s))
  else if a = 0x07002C then ifBit v 16 doAnchorGo s
  else if a = 0x080100 then ifBit v 16 (doReGo 0) s
  else if a = 0x080140 then ifBit v 16 (doReGo 1) s
  else if a = 0x080200 then ifBit v 8 doProbeGo s
  else if a = 0x090004 then doEccTestEn (v % 2 == 1) s
  else if a = 0x090040 then doDevSel v s
  else if a = 0x0A0044 then ifBit v 9 doCalRest (stepCharger s)
  else if a = 0x0A00A0 then ifBit v 0 doGsbLatch s
  else if a = 0x0A0100 then ifBit v 1 doGsbNone (ifBit v 0 doGsbLoad s)
  else if a = 0x0B0004 then ifBit v 2 doCastAbandon (ifBit v 1 doReleaseGo s)
  else s

/-- The actions of a signature's block. -/
def actSig (g o v : Nat) (s : State) : State :=
  if o = 0x40 then doMemberSel g v s
  else if o = 0x58 then ifBit v 8 (doMapGo g) s
  else if o = 0x110 then doHbSel g v s
  else if o = 0x160 then doCorrSel g v s
  else if o = 0x184 then ifBit v 9 (doFailGo g) s
  else if o = 0x190 then doEntSel g v s
  else s

/-- The control word of a drive port: power before presence where a drive is present, so that the two act together. -/
def actDrive (p v : Nat) (s : State) : State :=
  let pres := v % 2 == 1
  let pwr := v / 2 % 2 == 1
  let s := if pres then doPresentWrite p pres (doPwrOnWrite p pwr s) else doPwrOnWrite p pwr (doPresentWrite p pres s)
  ifBit v 4 (doClaim p) (ifBit v 3 (doLinkTest p) (ifBit v 2 (doDrivePortReset p) s))

/-- The control word of a front-end port. -/
def actPort (p v : Nat) (s : State) : State :=
  ifBit v 1 (doFePortReset p) (if v % 2 = 1 then doPortEnable p s else doPortDisable p s)

/-- What a word starts, after its fields are stored (R439). -/
def wordActions (a v : Nat) (s : State) : State :=
  let b := a / 65536
  let o := a % 65536
  let s := if b = 0x0A then doGaugeWake s else s
  if b < 0x05 then actGlobal a v s
  else if b = 0x06 then
    if 0x100 ≤ o ∧ (o - 0x100) % 0x40 = 0 then ifBit v 1 (doDmaAbort ((o - 0x100) / 0x40)) (ifBit v 0 (doDmaGo ((o - 0x100) / 0x40)) s) else s
  else if b < 0x10 then actCase a v s
  else if b < 0x20 then actSig (b - 0x10) o v s
  else if a = 0x200100 then doConnSel v s
  else if a = 0x20010C then ifBit v 0 doConnDrop s
  else if 0x21 ≤ b ∧ b < 0x31 ∧ o = 0 then actPort (b - 0x21) v s
  else if 0x40 ≤ b ∧ b < 0x48 ∧ o < 0x600 ∧ o % 0x60 = 0 then actDrive (16 * (b - 0x40) + o / 0x60) v s
  else if a = 0x500100 then doOztSel v s
  else if a = 0x600000 then doWinSel v s
  else s

/-- Whether the registers of a DMA channel ignore a write (R341, R347): a compositor channel's, and a running channel's but for its
first word. -/
def dmaIgnores (s : State) (a : Nat) : Bool :=
  decide (0x060100 ≤ a ∧ a < 0x061100) &&
    (let c := (a - 0x060100) / 0x40
     !hostChannel s c || ((nfind c s.dma.runs).isSome && (a - 0x060100) % 0x40 != 0))

/-- The fields of a DMA channel's first word that stay while it runs. -/
def landList (a v : Nat) (s : State) : State :=
  if 0x060100 ≤ a ∧ a < 0x061100 ∧ (nfind ((a - 0x060100) / 0x40) s.dma.runs).isSome then s else landFields a v s

/-- A host's word takes effect. -/
def landWord (a v : Nat) (s : State) : State :=
  if isAperture a then apertureWrite v s
  else if !wordDefined s a then hifErr Reg.Hif.UNMAPPED s
  else if reservedWord a ∨ wordMute s a ∨ dmaIgnores s a then s
  else wordActions a v (landList a v s)

/-- A snapshot asked for at this boundary takes the values as the boundary leaves them (R446). -/
def finishSnap (s : State) : State :=
  if s.bit Reg.Glb.SNAP_GO ∧ !s.rf.clearNext.contains (Reg.Glb.SNAP_GO.key 0) then doSnapGo s else s

/-- REGISTER_WRITE: the boundary has come at which a host's word takes effect (R24). -/
def doRegisterWrite (a v : Nat) (s : State) : State :=
  if !s.hostUp then s
  else if a % 4 ≠ 0 then hifErr Reg.Hif.ALIGN_ERR s
  else finishSnap (landWord a v s)

/-! ### The commands -/

def execRegisterWrite (a : RegAddr) (v : RegWord) (s : State) : Host.Outcome State Fault Refusal := .next (whenOn (doRegisterWrite a.toNat v.toNat) s)
def execWinSel (v : RegWord) (s : State) : Host.Outcome State Fault Refusal := .next (whenOn (doWinSel v.toNat) s)
def execWindowAccess (w : Option RegWord) (s : State) : Host.Outcome State Fault Refusal := .next (whenOn (doWindowAccess (w.map BitVec.toNat)) s)

end Sys2Proof.Machine
end

