-- ==== Sys2Proof/Machine/HostIf.lean ====
section
/-!
DEFINITION. The I3C target (R404 to R412, R415, R416): address assignment, common command codes, resets of the target, HDR entry and exit,
register transfers in SDR, HDR-DDR and legacy I2C, and in-band interrupts. A word written is queued, and lands at the next boundary.
-/

namespace Sys2Proof.Machine

/-! ### Who hears what -/

/-- Whether the bus is in SDR mode for the module: in service, and no HDR mode entered (R404, R408). -/
def sdrOn (s : State) : Bool := s.hostUp && !s.hif.hdr && !s.hif.hdrOther

/-- Whether the module holds a dynamic address. -/
def hasAddr (s : State) : Bool := s.get Reg.Hif.DYN_ADDR != 0

/-- Act on what every target hears in SDR. -/
def onBus (f : State → State) (s : State) : State := if sdrOn s then f s else s

/-- Act on what is addressed to the dynamic address in SDR. -/
def onAddr (f : State → State) (s : State) : State := if sdrOn s ∧ hasAddr s then f s else s

/-- Most significant byte first. -/
def msbBytes (n v : Nat) : List Nat := (leBytes n v).reverse

/-! ### Addresses (R405) -/

/-- The provisioned identifier (Table 19.1). -/
def pidOf (s : State) : Nat := 0x5A7 * 2 ^ 33 + 0x4960 * 2 ^ 16 + s.pins.slotId % 8 * 2 ^ 12 + 1

/-- ENTDAA: without a dynamic address the module takes part, sends its identity, and is assigned an address. -/
def doEntdaa (a : Nat) (s : State) : State :=
  if hasAddr s then s else (s.emit (.ccc 0x07 (msbBytes 6 (pidOf s) ++ [0x0E, 0x00]))).put Reg.Hif.DYN_ADDR (a % 128)

/-- The static address is NACKed while a dynamic one is held. -/
def refuseStatic (s : State) : State := (hifErr Reg.Hif.LEGACY_REFUSED s).emit .nack

/-- SETDASA at the static address. -/
def doSetdasa (a : Nat) (s : State) : State := if hasAddr s then refuseStatic s else s.put Reg.Hif.DYN_ADDR (a % 128)
def doSetnewda (a : Nat) (s : State) : State := s.put Reg.Hif.DYN_ADDR (a % 128)
def doRstdaa (s : State) : State := s.put Reg.Hif.DYN_ADDR 0

/-! ### Common command codes (R406, R407, Tables 19.1 and 19.2) -/

def doGetpid (s : State) : State := s.emit (.ccc 0x8D (msbBytes 6 (pidOf s)))
def doGetbcr (s : State) : State := s.emit (.ccc 0x8E [0x0E])
def doGetdcr (s : State) : State := s.emit (.ccc 0x8F [0x00])

/-- The number of interrupt classes pending. -/
def ibiCount (s : State) : Nat := ((List.range 5).filter fun j => s.get Reg.Hif.IBI_PENDING / 2 ^ j % 2 == 1).length

/-- GETSTATUS: pending classes, an error since the last one, MOD_STATE. -/
def doGetstatus (s : State) : State :=
  ({ s with hif.errSince := false } : State).emit (.ccc 0x90 [s.core.mode.code, ibiCount s + 32 * bitN s.hif.errSince])

/-- ENEC and DISEC: only ENINT, bit 0, acts. -/
def doEnec (bits : Nat) (s : State) : State := if bits % 2 = 1 then s.putB Reg.Hif.IBI_ENABLED true else s
def doDisec (bits : Nat) (s : State) : State := if bits % 2 = 1 then s.putB Reg.Hif.IBI_ENABLED false else s

/-- Clamp to a range. -/
def clampTo (lo hi v : Nat) : Nat := max lo (min hi v)

def doSetmwl (v : Nat) (s : State) : State := s.put Reg.Hif.MWL (clampTo 7 4099 v)
def doGetmwl (s : State) : State := s.emit (.ccc 0x8B (msbBytes 2 (s.get Reg.Hif.MWL)))
def doSetmrl (v : Nat) (s : State) : State := s.put Reg.Hif.MRL (clampTo 4 4096 v)
def doGetmrl (s : State) : State := s.emit (.ccc 0x8C (msbBytes 2 (s.get Reg.Hif.MRL) ++ [1]))
def doGetmxds (s : State) : State := s.emit (.ccc 0x94 [0, 0])

/-- RSTACT: the action of the next target reset pattern. -/
def doRstact (a : Nat) (s : State) : State := if a ≤ 2 then { s with hif.rstact := a } else s.emit .nack

/-- A target reset pattern carries out the action, once. -/
def doTargetResetPattern (s : State) : State :=
  if s.hostUp then
    let a := s.hif.rstact
    let s := { s with hif.rstact := 0 }
    if a = 1 then { s with hif.nackAt := none, hif.hdr := false, hif.hdrOther := false } else if a = 2 then requestReset .warm s else s
  else s

/-- Any other code: a direct one is NACKed, a broadcast one ignored. -/
def doCccUnsupported (direct : Bool) (s : State) : State := if direct then s.emit .nack else s

/-! ### HDR modes (R404) -/

def doEnthdr0 (s : State) : State := { s with hif.hdr := true }
def doEnthdrUnsupported (s : State) : State := { s with hif.hdrOther := true }
def doHdrExit (s : State) : State := if s.hostUp then { s with hif.hdr := false, hif.hdrOther := false } else s

/-! ### Register transfers (R409 to R412, Table 19.3) -/

/-- The whole words among data bytes, and how many bytes are left over. -/
def wordsOf : List Nat → List Nat × Nat
  | a :: b :: c :: d :: bs => let r := wordsOf bs; (beValue [a, b, c, d] :: r.1, r.2)
  | bs => ([], bs.length)

/-- Words received for consecutive addresses wait for their boundary; addresses wrap. -/
def queueWords (a : Nat) (ws : List Nat) (s : State) : State :=
  { s with rf.hostWrites := s.rf.hostWrites ++ ((List.range ws.length).zip ws).map fun x => ((a + 4 * x.1) % 2 ^ 24, x.2) }

/-- A write of an address and data bytes: the read pointer, the words, and Table 19.3. -/
def busWrite (a : Nat) (data : List Nat) (s : State) : State :=
  if a % 4 ≠ 0 then hifErr Reg.Hif.ALIGN_ERR s
  else
    let room := s.get Reg.Hif.MWL - 3
    let r := wordsOf (data.take room)
    let s := if data.length > room then hifErr Reg.Hif.OVERLONG s else s
    let s := if r.2 = 0 then s else hifErr Reg.Hif.PARTIAL_WORD s
    queueWords a r.1 { s with hif.ptr := a }

/-- A private write. -/
def doPrivateWrite (bs : List Nat) (s : State) : State :=
  match bs with
  | a :: b :: c :: data => busWrite (beValue [a, b, c]) data s
  | _ => hifErr Reg.Hif.PARTIAL_WORD s

/-- Words read from the read pointer on, each as the boundary left it; the pointer advances. -/
def readWords : Nat → State → List Nat × State
  | 0, s => ([], s)
  | n + 1, s =>
    let r := hostRead s.hif.ptr s
    let q := readWords n { r.2 with hif.ptr := (s.hif.ptr + 4) % 2 ^ 24 }
    (r.1 :: q.1, q.2)

/-- A read of a number of bytes, at most MRL. -/
def busRead (n : Nat) (s : State) : State :=
  let n := min n (s.get Reg.Hif.MRL)
  let r := readWords ((n + 3) / 4) s
  r.2.emit (.hostBytes ((r.1.flatMap (msbBytes 4)).take n))

/-- The bytes of an HDR-DDR transfer: A[23:8], A[7:0] × 256, then two half-words for every word; an odd half-word is discarded. -/
def doHdrWrite (hs : List Nat) (s : State) : State :=
  match hs with
  | a :: b :: data => busWrite (a * 256 + b / 256) ((data.take (data.length / 2 * 2)).flatMap (msbBytes 2)) s
  | _ => hifErr Reg.Hif.PARTIAL_WORD s

/-- Command code 0x21 carries only the two address words. -/
def doHdrPointer (hs : List Nat) (s : State) : State :=
  match hs with
  | a :: b :: _ => busWrite (a * 256 + b / 256) [] s
  | _ => hifErr Reg.Hif.PARTIAL_WORD s

/-- In HDR-DDR mode, addressed to the module. -/
def onHdr (f : State → State) (s : State) : State := if s.hostUp ∧ s.hif.hdr ∧ hasAddr s then f s else s

/-- LEGACY_I2C_TRANSFER: served only without a dynamic address. -/
def doLegacy (bs : List Nat) (n : Nat) (s : State) : State :=
  if hasAddr s then refuseStatic s
  else
    let s := if bs.isEmpty then s else doPrivateWrite bs s
    if n = 0 then s else busRead n s

/-! ### In-band interrupts (R415, R416) -/

/-- The lowest pending class that may be raised and is not yet delivered. -/
def wantedIbi (s : State) : Option Nat :=
  (List.range 5).find? (fun j => (s.get Reg.Hif.IBI_PENDING &&& s.get Reg.Hif.IBI_MASK) / 2 ^ j % 2 == 1 && !s.hif.delivered.contains (j + 1)) |>.map (· + 1)

/-- A request on the bus, acknowledged or not. -/
def raiseIbi (c : Nat) (ack : Bool) (s : State) : State :=
  if ack then ({ s with hif.delivered := insertBy id c s.hif.delivered, hif.nackAt := none } : State).emit (.ibi c)
  else hifErr Reg.Hif.IBI_NACKED { s with hif.nackAt := some s.core.imp }

/-- Whether a request may be made: ENINT, an address, an idle bus. -/
def mayRequest (s : State) : Bool := sdrOn s && hasAddr s && s.bit Reg.Hif.IBI_ENABLED

/-- IBI_REQUEST. -/
def doIbiRequest (ack : Bool) (s : State) : State :=
  match wantedIbi s with
  | some c => if mayRequest s ∧ s.hif.nackAt.isNone then raiseIbi c ack s else s
  | none => s

/-- IBI_RETRY: 125 impressions after a NACK. -/
def doIbiRetry (ack : Bool) (s : State) : State :=
  match s.hif.nackAt, wantedIbi s with
  | some t, some c => if mayRequest s ∧ s.since t ≥ 125 then raiseIbi c ack s else s
  | some _, none => { s with hif.nackAt := none }
  | none, _ => s

/-! ### The commands -/

def execEntdaa (a : Nat) (s : State) : Host.Outcome State Fault Refusal := .next (onBus (doEntdaa a) s)
def execSetdasa (a : Nat) (s : State) : Host.Outcome State Fault Refusal := .next (onBus (doSetdasa a) s)
def execSetnewda (a : Nat) (s : State) : Host.Outcome State Fault Refusal := .next (onAddr (doSetnewda a) s)
def execRstdaa (s : State) : Host.Outcome State Fault Refusal := .next (onBus doRstdaa s)
def execGetpid (s : State) : Host.Outcome State Fault Refusal := .next (onAddr doGetpid s)
def execGetbcr (s : State) : Host.Outcome State Fault Refusal := .next (onAddr doGetbcr s)
def execGetdcr (s : State) : Host.Outcome State Fault Refusal := .next (onAddr doGetdcr s)
def execGetstatus (s : State) : Host.Outcome State Fault Refusal := .next (onAddr doGetstatus s)
def execEnec (b : Nat) (s : State) : Host.Outcome State Fault Refusal := .next (onBus (doEnec b) s)
def execDisec (b : Nat) (s : State) : Host.Outcome State Fault Refusal := .next (onBus (doDisec b) s)
def execSetmwl (v : Nat) (s : State) : Host.Outcome State Fault Refusal := .next (onBus (doSetmwl v) s)
def execGetmwl (s : State) : Host.Outcome State Fault Refusal := .next (onAddr doGetmwl s)
def execSetmrl (v : Nat) (s : State) : Host.Outcome State Fault Refusal := .next (onBus (doSetmrl v) s)
def execGetmrl (s : State) : Host.Outcome State Fault Refusal := .next (onAddr doGetmrl s)
def execGetmxds (s : State) : Host.Outcome State Fault Refusal := .next (onAddr doGetmxds s)
def execRstact (a : Nat) (s : State) : Host.Outcome State Fault Refusal := .next (onBus (doRstact a) s)
def execTargetResetPattern (s : State) : Host.Outcome State Fault Refusal := .next (whenOn doTargetResetPattern s)
def execCccUnsupported (_code : Nat) (d : Bool) (s : State) : Host.Outcome State Fault Refusal := .next (onBus (doCccUnsupported d) s)
def execEnthdr0 (s : State) : Host.Outcome State Fault Refusal := .next (onBus doEnthdr0 s)
def execEnthdrUnsupported (_n : Nat) (s : State) : Host.Outcome State Fault Refusal := .next (onBus doEnthdrUnsupported s)
def execHdrExit (s : State) : Host.Outcome State Fault Refusal := .next (whenOn doHdrExit s)
def execPrivateWrite (bs : List (BitVec 8)) (s : State) : Host.Outcome State Fault Refusal := .next (onAddr (doPrivateWrite (bs.map BitVec.toNat)) s)
def execPrivateRead (n : Nat) (s : State) : Host.Outcome State Fault Refusal := .next (onAddr (busRead n) s)
def execHdrDdrWrite (hs : List (BitVec 16)) (s : State) : Host.Outcome State Fault Refusal := .next (onHdr (doHdrWrite (hs.map BitVec.toNat)) s)
def execHdrDdrSetPointer (hs : List (BitVec 16)) (s : State) : Host.Outcome State Fault Refusal := .next (onHdr (doHdrPointer (hs.map BitVec.toNat)) s)
def execHdrDdrRead (n : Nat) (s : State) : Host.Outcome State Fault Refusal := .next (onHdr (busRead (4 * min n (s.get Reg.Hif.MRL / 4))) s)
def execLegacyI2cTransfer (bs : List (BitVec 8)) (n : Nat) (s : State) : Host.Outcome State Fault Refusal :=
  .next (onBus (doLegacy (bs.map BitVec.toNat) n) s)
def execIbiRequest (a : Bool) (s : State) : Host.Outcome State Fault Refusal := .next (whenOn (doIbiRequest a) s)
def execIbiRetry (a : Bool) (s : State) : Host.Outcome State Fault Refusal := .next (whenOn (doIbiRetry a) s)

end Sys2Proof.Machine
end

