-- ==== Sys2Proof/Machine/Boundary.lean ====
section
/-!
DEFINITION. The boundary of an impression (R21, Table 1.4): its eight steps in their order, and what the chapters decide at every
boundary beside them.
-/

namespace Sys2Proof.Machine

/-! ### The beginning: time, requests, events -/

/-- The impression ends: the counters of time advance (R5, R16, R443), request bits whose event has come clear (R471), and event bits set
from now on belong to the new impression (R9). -/
def tick (s : State) : State :=
  let regs := s.rf.clearNext.foldl (fun r k => ndel k r) s.rf.regs
  { s with
    rf.regs := regs, rf.clearNext := [], rf.fresh := []
    core.imp := s.core.imp + 1, core.opImp := s.core.opImp + 1, fnt.refAge := s.fnt.refAge + 1 }

/-- CAL_REQ begins: REF_AGE passes 168 h (R285). -/
def stepCalReq (s : State) : State := if s.fnt.refAge = 168 * 450000000 + 1 then s.log 0x100A 0 (leBytes 4 (refAgeUnits s)) else s

/-- An overrun of an unpaired unit (R18): recorded, and its item placed again as C0; the retirement at a second overrun has no rule in the
chapters that own the units. -/
def overrun (s : State) (o : Overrun) : State :=
  enqueue ⟨0, [], 0, 0⟩ ((faultItem s).log 0x0003 (o.kind * 2 ^ 20 + o.index % 2 ^ 20) (leBytes 8 (s.core.imp - 1)))

/-! ### Step 3: pins and host writes -/

/-- The pin filter (R417): the count of equal samples, and whether a level sampled four times in a row differs from the filtered one. -/
def filterCount (n : Nat) (last now : Bool) : Nat := if last = now then min 4 (n + 1) else 1

/-- One sample of the four inputs. -/
def samplePins (x : PinSample) (s : State) : State :=
  let p := s.pins
  let first := !p.seen
  let s : State := { s with pins := { p with
    seen := true
    nReset := filterCount p.nReset p.rawReset x.resetN, rawReset := x.resetN
    nPf := filterCount p.nPf p.rawPf x.pwrfailN, rawPf := x.pwrfailN
    nTamper := filterCount p.nTamper p.rawTamper x.tamperN, rawTamper := x.tamperN
    nAttn := filterCount p.nAttn p.rawAttn x.attnN, rawAttn := x.attnN } }
  let s := if s.pins.nReset = 4 then (if x.resetN then doResetNAsserted s else doResetNReleased s) else s
  let s := if s.pins.nPf = 4 then doPwrfail x.pwrfailN s else s
  -- at the first sample after a cold start an open tamper loop counts as an edge (R419), a held button does not (R420)
  let s := if s.pins.nTamper = 4 ∨ first then
      (if x.tamperN then doTamperEdge s else { s with pins.fTamper := false })
    else s
  if first then (if x.attnN then { s with pins.fAttn := true, pins.attnAt := some s.core.imp } else s)
  else if s.pins.nAttn = 4 then (if x.attnN then doAttnEdge s else { s with pins.fAttn := false, pins.attnAt := none })
  else s

/-- The host's words received since the last boundary take effect in their order (R24, R26). -/
def landWrites (s : State) : State :=
  let ws := s.rf.hostWrites
  let s : State := { s with rf.hostWrites := [] }
  if s.hostUp then ws.foldl (fun s w => if s.hostUp then landWord w.1 w.2 s else s) s else s

/-! ### Steps 5 to 8 -/

/-- Step 5: Hold and what it leads to. -/
def stepHold (s : State) : State :=
  let s := evalHold s
  let s := if s.core.powered ∧ s.cast.due.isNone ∧ fountShort s then castOrOff s else s
  if s.core.powered then doRideThroughExpired s else s

/-- Step 6: the thermal state; entering T3 casts, or enters SAFE before a cast can be made (R318). -/
def stepThermalCast (sensors : List Int) (s : State) : State :=
  let old := s.sch.therm
  let s := stepThermal sensors s
  if s.sch.therm = 3 ∧ old < 3 then
    match s.core.mode with
    | .powerQualify | .selfTest | .caseInit | .imageWait | .keyWait | .recast => { s with core.safeDue := s.core.safeDue <|> some (3, false) }
    | .castDone | .safe => s
    | _ => castFor [2] s
  else s

/-- Steps 7 and 8. -/
def stepBudgets (s : State) : State :=
  let s := stepBoost (stepCeiling (s.put Reg.Ecc.CASE_LIMIT (caseLimit s)))
  countBacklog (stepTags (stepForme s))

/-! ### Decisions of every boundary -/

/-- What a signature's rebuild is at (RB_PHASE). -/
def rbPhase (s : State) (g : Nat) : Nat :=
  let es := (s.sigSt g).k.ents
  if es.any fun e => e.2.wins.any fun w => w.pos < w.hi then 1
  else if es.any fun e => e.2.st == .rebuild then 2
  else if es.any fun e => e.2.st == .copyback then 3 else 0

/-- R194 and the counts beside it; a loss is forgotten when the signature is optimal again. -/
def stepHealth (g : Nat) (s : State) : State :=
  let h := healthOf s g
  let s := (s.put Reg.Sig.SIG_HEALTH h g).put Reg.Sig.UNRESTORED (unrestoredList s g).length g
  let s := (s.put Reg.Sig.LEVELS_USED (levelsUsed s g).length g).put Reg.Sig.RB_PHASE (rbPhase s g) g
  if h = 0 then s.updSig g fun x => { x with lossSeen := false } else s

/-- PROOF_SLOW (R173): a lap longer than PROOF_TARGET days. -/
def stepProof (g : Nat) (s : State) : State :=
  let x := s.sigSt g
  if x.inService ∧ opTimeOf s.core.opImp - x.k.lapStart > s.get Reg.Sig.PROOF_TARGET g * 24 * 1024 then s.raise Reg.Sig.PROOF_SLOW g else s

/-- A reshape pauses and resumes (R207); a window in flight runs to its end. -/
def stepReshape (g : Nat) (s : State) : State :=
  match (s.sigSt g).rs with
  | some r =>
    let now := pausedNow s g
    if (s.sigSt g).inService ∧ r.begun ∧ r.win.isNone ∧ rsState s g ≠ 4 ∧ r.paused ≠ now then
      (updRs g (fun r => { r with paused := now }) s).log 0x6008 (srcSig g) ((if now then 1 else 2) :: leBytes 8 r.b)
    else s
  | none => s

/-- SCRUB_ELAPSED and SCRUB_SLOW (R266). -/
def stepScrub (c : Nat) (s : State) : State :=
  if (s.chan c).st ≥ 3 then s
  else
    let t := impMs (s.since (s.chan c).lapAt)
    let s := s.put Reg.Ecc.SCRUB_ELAPSED (min t (2 ^ 32 - 1)) c
    if t > s.get Reg.Ecc.SCRUB_ALARM_H * 3600000 then s.raise Reg.Ecc.SCRUB_SLOW else s

/-- The state of a signature's ANA group on a port (R62): 1 optimized, 2 non-optimized, 3 inaccessible. -/
def anaNow (s : State) (p g : Nat) : Nat :=
  let pref := s.get Reg.Fe.ANA_PREF g
  if !(s.sigSt g).inService ∨ s.core.mode = .release then 3
  else if pref / 2 ^ p % 2 = 1 then 1
  else if (List.range 16).any fun q => pref / 2 ^ q % 2 == 1 && s.portUp q then 2 else 1

/-- The groups whose state changes on a port. -/
def anaChanges (s : State) (p : Nat) : List (Nat × Nat) :=
  ((List.range 16).filter fun g => s.bit Reg.Sig.SIG_DEFINED g && anaNow s p g != anaState s p g).map fun g => (g, anaNow s p g)

/-- R63: changed groups count one change, notify the controllers of their port, and are recorded. -/
def stepAna (s : State) : State :=
  let cs := ((List.range 16).map fun p => (p, anaChanges s p)).filter fun c => !c.2.isEmpty
  if cs.isEmpty then s
  else
    let s := { s with anaChange := s.anaChange + 1 }
    let s := cs.foldl (fun s c =>
      let s := s.updFe c.1 fun x => { x with ana := c.2.foldl (fun m e => nset e.1 e.2 m) x.ana }
      c.2.foldl (fun s e => s.log 0x8004 c.1 [e.1 + 1, e.2]) s) s
    (notice 11 (fun _ x => cs.any fun c => c.1 == x.port) s).raise Reg.Fe.ANA_CHANGE

/-- Critical warnings (R55, Table 2.5): a bit is reported when it becomes set. -/
def stepWarnings (s : State) : State :=
  let w := criticalWarning s
  let s := (List.range 8).foldl (fun s j => notice j (fun _ x => w / 2 ^ j % 2 == 1 && x.warned / 2 ^ j % 2 == 0) s) s
  { s with ctrls := nmapv (fun _ x => { x with warned := w }) s.ctrls }

/-- What the links of a front-end port have carried since the last boundary beside what the model follows: the receive FIFO drains, and
frames and FEC codewords are counted; the numbers are open. -/
def stepLink (p : Nat) (s : State) : State :=
  if s.portUp p then
    let a := s.draw
    let b := a.2.draw
    let c := b.2.draw
    let d := c.2.draw
    let s := ((d.2.bump Reg.FeP.TX_FRAMES b.1 p).bump Reg.FeP.FEC_CORR c.1 p).bump Reg.FeP.FEC_UNCORR d.1 p
    s.updFe p fun x => { x with fifo := x.fifo - a.1 % (x.fifo + 1), tx := x.tx + b.1, fecCorr := x.fecCorr + c.1, fecUnc := x.fecUnc + d.1 }
  else s

/-- An image applied in IMAGE_WAIT: KEY_WAIT begins, and the gauge block requests kept since SELF_TEST are judged (R286, R392). -/
def stepApplied (s : State) : State :=
  if s.img.applied ∧ s.core.mode = .imageWait then takeKeptGsb (({ s with img.applied := false } : State).enter .keyWait) else s

/-- The interrupt summary gains a bit (R448). -/
def stepSummary (s : State) : State :=
  let a := sum0 s
  let b := sum1 s
  let gain := (List.range 32).any (fun j => a / 2 ^ j % 2 == 1 && s.hif.sumPrev0 / 2 ^ j % 2 == 0) ||
    (List.range 32).any fun j => b / 2 ^ j % 2 == 1 && s.hif.sumPrev1 / 2 ^ j % 2 == 0
  let s : State := { s with hif.sumPrev0 := a, hif.sumPrev1 := b }
  if gain then s.ibi 3 else s

/-- Act while the module has power and is not held in reset. -/
def whenFree (f : State → State) (s : State) : State := if s.core.powered ∧ !s.core.held then f s else s

/-- The decisions of the chapters, by signature, channel and port. -/
def stepUnits (s : State) : State :=
  let gs := List.range 16
  let s := gs.foldl (fun s g => if s.bit Reg.Sig.SIG_DEFINED g then stepReshape g (stepProof g (stepHealth g s)) else s) s
  let s := (List.range 4).foldl (fun s c => stepScrub c s) s
  let s := (List.range 128).foldl (fun s p => tryTest p s) s
  let s := gs.foldl (fun s p => stepLink p s) s
  stepWarnings (stepAna s)

/-- IMPRESSION_BOUNDARY. -/
def doImpressionBoundary (x : BoundaryIn) (s : State) : State :=
  -- steps 1 and 2
  let s := deliverAll (gate x.mismatches (stepTouched (stepCalReq (tick s))))
  let s := x.overruns.foldl overrun s
  -- step 3
  let s := landWrites (samplePins x.pins s)
  -- steps 4 to 8
  let s := whenFree (fun s => stepHold (takeFigures s)) s
  let s := whenFree (stepThermalCast x.sensors) s
  let s := whenFree (fun s => stepUnits (stepBudgets s)) s
  -- what waits, what is recorded, what is shown
  let s := whenFree (fun s => settleCore (stepApplied (beginFreeze (stepCharger s)))) s
  let s := whenOn (fun s => finishSnap (stepSummary s)) s
  recordEvents s

def execImpressionBoundary (x : BoundaryIn) (s : State) : Host.Outcome State Fault Refusal := .next (whenOn (doImpressionBoundary x) s)

end Sys2Proof.Machine
end

