-- ==== Sys2Proof/Machine/Dispatch.lean ====
section
/-!
DEFINITION. One arm per command: a direct call of its meaning.
-/

namespace Sys2Proof.Machine

/-- What a command does to everything but the queue. -/
def exec (i : Instr) (s : State) : Host.Outcome State Fault Refusal :=
  match i with
  | .impressionBoundary x => Sys2Proof.Machine.execImpressionBoundary x s
  | .registerWrite addr word => Sys2Proof.Machine.execRegisterWrite addr word s
  | .frameReceived p f => Sys2Proof.Machine.execFrameReceived p f s
  | .xoffRefresh p => Sys2Proof.Machine.execXoffRefresh p s
  | .xonSend p => Sys2Proof.Machine.execXonSend p s
  | .pfcFrameReceived p prio quanta => Sys2Proof.Machine.execPfcFrameReceived p prio quanta s
  | .arpRequest p target => Sys2Proof.Machine.execArpRequest p target s
  | .neighborSolicitation p target => Sys2Proof.Machine.execNeighborSolicitation p target s
  | .arpReplyClaim p addr => Sys2Proof.Machine.execArpReplyClaim p addr s
  | .neighbourCacheAgeOut p a => Sys2Proof.Machine.execNeighbourCacheAgeOut p a s
  | .duplicateAddressDetectionDone p duplicate => Sys2Proof.Machine.execDuplicateAddressDetectionDone p duplicate s
  | .echoRequest p a bytes => Sys2Proof.Machine.execEchoRequest p a bytes s
  | .synReceived x => Sys2Proof.Machine.execSynReceived x s
  | .retransmissionTimeout conn => Sys2Proof.Machine.execRetransmissionTimeout conn s
  | .icreqTimeout conn => Sys2Proof.Machine.execIcreqTimeout conn s
  | .icreq x => Sys2Proof.Machine.execIcreq x s
  | .h2ctermreq conn fes => Sys2Proof.Machine.execH2ctermreq conn fes s
  | .h2cdata x => Sys2Proof.Machine.execH2cdata x s
  | .connect x => Sys2Proof.Machine.execConnect x s
  | .propertySet h prop v => Sys2Proof.Machine.execPropertySet h prop v s
  | .propertyGet h prop => Sys2Proof.Machine.execPropertyGet h prop s
  | .shutdownComplete cntlid => Sys2Proof.Machine.execShutdownComplete cntlid s
  | .authenticationSend h msg => Sys2Proof.Machine.execAuthenticationSend h msg s
  | .authenticationReceive h => Sys2Proof.Machine.execAuthenticationReceive h s
  | .authFailClose conn => Sys2Proof.Machine.execAuthFailClose conn s
  | .getLogPage h lid offset => Sys2Proof.Machine.execGetLogPage h lid offset s
  | .identify h cns csi => Sys2Proof.Machine.execIdentify h cns csi s
  | .setFeatures h fid save value => Sys2Proof.Machine.execSetFeatures h fid save value s
  | .getFeatures h fid => Sys2Proof.Machine.execGetFeatures h fid s
  | .asynchronousEventRequest h => Sys2Proof.Machine.execAsynchronousEventRequest h s
  | .keepAlive h => Sys2Proof.Machine.execKeepAlive h s
  | .keepAliveExpired cntlid => Sys2Proof.Machine.execKeepAliveExpired cntlid s
  | .securityProtocolList h protocol => Sys2Proof.Machine.execSecurityProtocolList h protocol s
  | .nonceRequest h => Sys2Proof.Machine.execNonceRequest h s
  | .resetPermit h x => Sys2Proof.Machine.execResetPermit h x s
  | .damageStatementRequest h zoneStart challenge => Sys2Proof.Machine.execDamageStatementRequest h zoneStart challenge s
  | .damageStatementReceive h => Sys2Proof.Machine.execDamageStatementReceive h s
  | .flush h => Sys2Proof.Machine.execFlush h s
  | .flushComplete conn cid => Sys2Proof.Machine.execFlushComplete conn cid s
  | .write x => Sys2Proof.Machine.execWrite x s
  | .read x => Sys2Proof.Machine.execRead x s
  | .reportZones x => Sys2Proof.Machine.execReportZones x s
  | .zoneOpen x => Sys2Proof.Machine.execZoneOpen x s
  | .zoneClose x => Sys2Proof.Machine.execZoneClose x s
  | .zoneFinish x => Sys2Proof.Machine.execZoneFinish x s
  | .zoneReset x => Sys2Proof.Machine.execZoneReset x s
  | .zoneOffline x => Sys2Proof.Machine.execZoneOffline x s
  | .zoneActionDeferred ns zone => Sys2Proof.Machine.execZoneActionDeferred ns zone s
  | .zoneAppend x => Sys2Proof.Machine.execZoneAppend x s
  | .invalidCommandOpcode h admin opcode => Sys2Proof.Machine.execInvalidCommandOpcode h admin opcode s
  | .admission conn cid => Sys2Proof.Machine.execAdmission conn cid s
  | .readyToTransferRelease conn cid => Sys2Proof.Machine.execReadyToTransferRelease conn cid s
  | .writeCompletionRelease conn cid => Sys2Proof.Machine.execWriteCompletionRelease conn cid s
  | .appendAssign conn cid => Sys2Proof.Machine.execAppendAssign conn cid s
  | .sealDigest ns zone back => Sys2Proof.Machine.execSealDigest ns zone back s
  | .colophonSigned ns zone => Sys2Proof.Machine.execColophonSigned ns zone s
  | .permitReset ns zone => Sys2Proof.Machine.execPermitReset ns zone s
  | .oztSel v => Sys2Proof.Machine.execOztSel v s
  | .connSel v => Sys2Proof.Machine.execConnSel v s
  | .linkLoss p => Sys2Proof.Machine.execLinkLoss p s
  | .linkUp p => Sys2Proof.Machine.execLinkUp p s
  | .linkHoldExpired p => Sys2Proof.Machine.execLinkHoldExpired p s
  | .fePortReset p => Sys2Proof.Machine.execFePortReset p s
  | .portEnable p => Sys2Proof.Machine.execPortEnable p s
  | .memberSel g v => Sys2Proof.Machine.execMemberSel g v s
  | .mapGo g => Sys2Proof.Machine.execMapGo g s
  | .destageAgeExpired x => Sys2Proof.Machine.execDestageAgeExpired x s
  | .updateBegin x => Sys2Proof.Machine.execUpdateBegin x s
  | .updateReadsComplete update reads => Sys2Proof.Machine.execUpdateReadsComplete update reads s
  | .updateReady update => Sys2Proof.Machine.execUpdateReady update s
  | .folioWriteComplete update pos => Sys2Proof.Machine.execFolioWriteComplete update pos s
  | .bitmapCommit g => Sys2Proof.Machine.execBitmapCommit g s
  | .bitmapCommitComplete g targets => Sys2Proof.Machine.execBitmapCommitComplete g targets s
  | .regionBitClear g region => Sys2Proof.Machine.execRegionBitClear g region s
  | .holderReplace g holder => Sys2Proof.Machine.execHolderReplace g holder s
  | .resyncItem x reads => Sys2Proof.Machine.execResyncItem x reads s
  | .readReconstruct x o => Sys2Proof.Machine.execReadReconstruct x o s
  | .repairWrite x pos between => Sys2Proof.Machine.execRepairWrite x pos between s
  | .repairWriteComplete x pos => Sys2Proof.Machine.execRepairWriteComplete x pos s
  | .selfTestReadback x pos verified => Sys2Proof.Machine.execSelfTestReadback x pos verified s
  | .proofingItem g reads => Sys2Proof.Machine.execProofingItem g reads s
  | .hbSel g v => Sys2Proof.Machine.execHbSel g v s
  | .corrSel g v => Sys2Proof.Machine.execCorrSel g v s
  | .linkLossFailTimeout p => Sys2Proof.Machine.execLinkLossFailTimeout p s
  | .deferredDeclaration g member => Sys2Proof.Machine.execDeferredDeclaration g member s
  | .failGo g => Sys2Proof.Machine.execFailGo g s
  | .criticalItem g reads => Sys2Proof.Machine.execCriticalItem g reads s
  | .normalItem g reads => Sys2Proof.Machine.execNormalItem g reads s
  | .rebuildItemComplete x => Sys2Proof.Machine.execRebuildItemComplete x s
  | .formatComplete p => Sys2Proof.Machine.execFormatComplete p s
  | .copybackItem g entry reads => Sys2Proof.Machine.execCopybackItem g entry reads s
  | .copybackWriteComplete g entry => Sys2Proof.Machine.execCopybackWriteComplete g entry s
  | .entSel g v => Sys2Proof.Machine.execEntSel g v s
  | .windowClaim g => Sys2Proof.Machine.execWindowClaim g s
  | .windowReadComplete g reads => Sys2Proof.Machine.execWindowReadComplete g reads s
  | .windowParityComplete g => Sys2Proof.Machine.execWindowParityComplete g s
  | .windowWriteComplete g => Sys2Proof.Machine.execWindowWriteComplete g s
  | .windowCheckpointDurable g => Sys2Proof.Machine.execWindowCheckpointDurable g s
  | .driveLinkUp p rate => Sys2Proof.Machine.execDriveLinkUp p rate s
  | .driveClassify p d a b => Sys2Proof.Machine.execDriveClassify p d a b s
  | .bringupTimeout p => Sys2Proof.Machine.execBringupTimeout p s
  | .commandTimeout p tag => Sys2Proof.Machine.execCommandTimeout p tag s
  | .ladderStepTimeout p => Sys2Proof.Machine.execLadderStepTimeout p s
  | .ladderStepSuccess p => Sys2Proof.Machine.execLadderStepSuccess p s
  | .driveCommandError p tag blocks data => Sys2Proof.Machine.execDriveCommandError p tag blocks data s
  | .linkCrcBurst p errors => Sys2Proof.Machine.execLinkCrcBurst p errors s
  | .linkTest p => Sys2Proof.Machine.execLinkTest p s
  | .linkSelfTestEnd p codeViolations crcErrors => Sys2Proof.Machine.execLinkSelfTestEnd p codeViolations crcErrors s
  | .driveLinkLoss p => Sys2Proof.Machine.execDriveLinkLoss p s
  | .presentWrite p v => Sys2Proof.Machine.execPresentWrite p v s
  | .pwrOnWrite p v => Sys2Proof.Machine.execPwrOnWrite p v s
  | .claim p => Sys2Proof.Machine.execClaim p s
  | .drivePortReset p => Sys2Proof.Machine.execDrivePortReset p s
  | .absentLimitExpired g member => Sys2Proof.Machine.execAbsentLimitExpired g member s
  | .catchupItem g member sheet reads => Sys2Proof.Machine.execCatchupItem g member sheet reads s
  | .signatureCreate g => Sys2Proof.Machine.execSignatureCreate g s
  | .sataFormatItem p => Sys2Proof.Machine.execSataFormatItem p s
  | .formatPoll p pct => Sys2Proof.Machine.execFormatPoll p pct s
  | .formatTimeout p => Sys2Proof.Machine.execFormatTimeout p s
  | .reclaim c => Sys2Proof.Machine.execReclaim c s
  | .evbDrop slot => Sys2Proof.Machine.execEvbDrop slot s
  | .reGo e => Sys2Proof.Machine.execReGo e s
  | .rangeVisit e => Sys2Proof.Machine.execRangeVisit e s
  | .parkedLineApply e line => Sys2Proof.Machine.execParkedLineApply e line s
  | .rangeComplete e => Sys2Proof.Machine.execRangeComplete e s
  | .patrolScrub c r h word => Sys2Proof.Machine.execPatrolScrub c r h word s
  | .caseSelfTest c r => Sys2Proof.Machine.execCaseSelfTest c r s
  | .cleanOnlyCopy c => Sys2Proof.Machine.execCleanOnlyCopy c s
  | .mergeEntryFlush slot => Sys2Proof.Machine.execMergeEntryFlush slot s
  | .eccTestEn v => Sys2Proof.Machine.execEccTestEn v s
  | .devSel v => Sys2Proof.Machine.execDevSel v s
  | .gaugeSample x => Sys2Proof.Machine.execGaugeSample x s
  | .inputLow b mv => Sys2Proof.Machine.execInputLow b mv s
  | .inputHealthy b mv => Sys2Proof.Machine.execInputHealthy b mv s
  | .recastComplete lost indexOk => Sys2Proof.Machine.execRecastComplete lost indexOk s
  | .enclTempWrite v => Sys2Proof.Machine.execEnclTempWrite v s
  | .minShareWrite addr v => Sys2Proof.Machine.execMinShareWrite addr v s
  | .switchOverVerdict pair passA passB => Sys2Proof.Machine.execSwitchOverVerdict pair passA passB s
  | .heldImpressionRelease pair sigA sigB => Sys2Proof.Machine.execHeldImpressionRelease pair sigA sigB s
  | .adoptionRelease pair => Sys2Proof.Machine.execAdoptionRelease pair s
  | .simplexSelfTest pair pass => Sys2Proof.Machine.execSimplexSelfTest pair pass s
  | .spareSelfTest engine pass => Sys2Proof.Machine.execSpareSelfTest engine pass s
  | .dmaGo c => Sys2Proof.Machine.execDmaGo c s
  | .dmaAbort c => Sys2Proof.Machine.execDmaAbort c s
  | .dmaStep c => Sys2Proof.Machine.execDmaStep c s
  | .busErrorRetry c k addr ok => Sys2Proof.Machine.execBusErrorRetry c k addr ok s
  | .freeze v => Sys2Proof.Machine.execFreeze v s
  | .rateWindowEnd code => Sys2Proof.Machine.execRateWindowEnd code s
  | .coldReset slotId => Sys2Proof.Machine.execColdReset slotId s
  | .powerQualifyEnd packId => Sys2Proof.Machine.execPowerQualifyEnd packId s
  | .selfTestEnd failedEngines failedChannels st0Ok st1Ok rngOk => Sys2Proof.Machine.execSelfTestEnd failedEngines failedChannels st0Ok st1Ok rngOk s
  | .caseInitEnd failedChannels => Sys2Proof.Machine.execCaseInitEnd failedChannels s
  | .signatureEnterService g x => Sys2Proof.Machine.execSignatureEnterService g x s
  | .asmForce mask => Sys2Proof.Machine.execAsmForce mask s
  | .resetCmd v => Sys2Proof.Machine.execResetCmd v s
  | .entdaa addr => Sys2Proof.Machine.execEntdaa addr s
  | .setdasa addr => Sys2Proof.Machine.execSetdasa addr s
  | .setnewda addr => Sys2Proof.Machine.execSetnewda addr s
  | .enec bits => Sys2Proof.Machine.execEnec bits s
  | .disec bits => Sys2Proof.Machine.execDisec bits s
  | .setmwl v => Sys2Proof.Machine.execSetmwl v s
  | .setmrl v => Sys2Proof.Machine.execSetmrl v s
  | .rstact action => Sys2Proof.Machine.execRstact action s
  | .cccUnsupported code direct => Sys2Proof.Machine.execCccUnsupported code direct s
  | .enthdrUnsupported n => Sys2Proof.Machine.execEnthdrUnsupported n s
  | .privateWrite bytes => Sys2Proof.Machine.execPrivateWrite bytes s
  | .privateRead bytes => Sys2Proof.Machine.execPrivateRead bytes s
  | .hdrDdrWrite halves => Sys2Proof.Machine.execHdrDdrWrite halves s
  | .hdrDdrSetPointer halves => Sys2Proof.Machine.execHdrDdrSetPointer halves s
  | .hdrDdrRead words => Sys2Proof.Machine.execHdrDdrRead words s
  | .legacyI2cTransfer bytes readBytes => Sys2Proof.Machine.execLegacyI2cTransfer bytes readBytes s
  | .ibiRequest ack => Sys2Proof.Machine.execIbiRequest ack s
  | .ibiRetry ack => Sys2Proof.Machine.execIbiRetry ack s
  | .winSel v => Sys2Proof.Machine.execWinSel v s
  | .windowAccess write => Sys2Proof.Machine.execWindowAccess write s
  | .inputEnable b mv => Sys2Proof.Machine.execInputEnable b mv s
  | .inputOvercurrent b => Sys2Proof.Machine.execInputOvercurrent b s
  | .inputStageRetry b => Sys2Proof.Machine.execInputStageRetry b s
  | .inputOvervoltage b mv => Sys2Proof.Machine.execInputOvervoltage b mv s
  | .inputStageOff b mv => Sys2Proof.Machine.execInputStageOff b mv s
  | .busTakeover busMv => Sys2Proof.Machine.execBusTakeover busMv s
  | .driveReadComplete p tag blocks => Sys2Proof.Machine.execDriveReadComplete p tag blocks s
  | .stereoHalfLeavesService h => Sys2Proof.Machine.execStereoHalfLeavesService h s
  | .portDisable p => Sys2Proof.Machine.execPortDisable p s
  | .tcpConnectionClosed conn reset => Sys2Proof.Machine.execTcpConnectionClosed conn reset s
  | .pfcPauseExpired p => Sys2Proof.Machine.execPfcPauseExpired p s
  | .connDrop => Sys2Proof.Machine.execConnDrop s
  | .corruptionHourRoll => Sys2Proof.Machine.execCorruptionHourRoll s
  | .ageIncrement => Sys2Proof.Machine.execAgeIncrement s
  | .reDuplex => Sys2Proof.Machine.execReDuplex s
  | .probeGo => Sys2Proof.Machine.execProbeGo s
  | .repairMapWrite => Sys2Proof.Machine.execRepairMapWrite s
  | .gaugeHibernate => Sys2Proof.Machine.execGaugeHibernate s
  | .gaugeWake => Sys2Proof.Machine.execGaugeWake s
  | .hibernationHour => Sys2Proof.Machine.execHibernationHour s
  | .gaugeReference => Sys2Proof.Machine.execGaugeReference s
  | .endOfCharge => Sys2Proof.Machine.execEndOfCharge s
  | .chargerFault => Sys2Proof.Machine.execChargerFault s
  | .packLowClear => Sys2Proof.Machine.execPackLowClear s
  | .calRest => Sys2Proof.Machine.execCalRest s
  | .calRestTimeout => Sys2Proof.Machine.execCalRestTimeout s
  | .gsbRefresh => Sys2Proof.Machine.execGsbRefresh s
  | .gsbLatch => Sys2Proof.Machine.execGsbLatch s
  | .gsbLoad => Sys2Proof.Machine.execGsbLoad s
  | .gsbNone => Sys2Proof.Machine.execGsbNone s
  | .rideThroughExpired => Sys2Proof.Machine.execRideThroughExpired s
  | .pwrfailAsserted => Sys2Proof.Machine.execPwrfailAsserted s
  | .pwrfailStuck => Sys2Proof.Machine.execPwrfailStuck s
  | .pwrfailTrusted => Sys2Proof.Machine.execPwrfailTrusted s
  | .castComplete => Sys2Proof.Machine.execCastComplete s
  | .resumeFromCase => Sys2Proof.Machine.execResumeFromCase s
  | .slotEraseComplete => Sys2Proof.Machine.execSlotEraseComplete s
  | .castConsumed => Sys2Proof.Machine.execCastConsumed s
  | .castAbandon => Sys2Proof.Machine.execCastAbandon s
  | .releaseGo => Sys2Proof.Machine.execReleaseGo s
  | .releaseUpdatesRetired => Sys2Proof.Machine.execReleaseUpdatesRetired s
  | .releaseComplete => Sys2Proof.Machine.execReleaseComplete s
  | .thermalStepDown => Sys2Proof.Machine.execThermalStepDown s
  | .enclTempStale => Sys2Proof.Machine.execEnclTempStale s
  | .fairWindowEnd => Sys2Proof.Machine.execFairWindowEnd s
  | .transientHourRoll => Sys2Proof.Machine.execTransientHourRoll s
  | .engineRecordWrite => Sys2Proof.Machine.execEngineRecordWrite s
  | .sharedStopRestart => Sys2Proof.Machine.execSharedStopRestart s
  | .errataFlush => Sys2Proof.Machine.execErrataFlush s
  | .logFlush => Sys2Proof.Machine.execLogFlush s
  | .freezeExpired => Sys2Proof.Machine.execFreezeExpired s
  | .logClear => Sys2Proof.Machine.execLogClear s
  | .logClearComplete => Sys2Proof.Machine.execLogClearComplete s
  | .anchorGo => Sys2Proof.Machine.execAnchorGo s
  | .imgVerify => Sys2Proof.Machine.execImgVerify s
  | .imgCommit => Sys2Proof.Machine.execImgCommit s
  | .imgConfirm => Sys2Proof.Machine.execImgConfirm s
  | .stageClear => Sys2Proof.Machine.execStageClear s
  | .imageJudgeComplete => Sys2Proof.Machine.execImageJudgeComplete s
  | .imageStoreComplete => Sys2Proof.Machine.execImageStoreComplete s
  | .arbFuseAdvance => Sys2Proof.Machine.execArbFuseAdvance s
  | .fountProbeTimeout => Sys2Proof.Machine.execFountProbeTimeout s
  | .prechargeDone => Sys2Proof.Machine.execPrechargeDone s
  | .prechargeTimeout => Sys2Proof.Machine.execPrechargeTimeout s
  | .keyWaitExit => Sys2Proof.Machine.execKeyWaitExit s
  | .asmWaitExpired => Sys2Proof.Machine.execAsmWaitExpired s
  | .asmDone => Sys2Proof.Machine.execAsmDone s
  | .assembleEnd => Sys2Proof.Machine.execAssembleEnd s
  | .maintGo => Sys2Proof.Machine.execMaintGo s
  | .maintExit => Sys2Proof.Machine.execMaintExit s
  | .resetNAsserted => Sys2Proof.Machine.execResetNAsserted s
  | .resetNReleased => Sys2Proof.Machine.execResetNReleased s
  | .snapGo => Sys2Proof.Machine.execSnapGo s
  | .counterRecordWrite => Sys2Proof.Machine.execCounterRecordWrite s
  | .rstdaa => Sys2Proof.Machine.execRstdaa s
  | .getpid => Sys2Proof.Machine.execGetpid s
  | .getbcr => Sys2Proof.Machine.execGetbcr s
  | .getdcr => Sys2Proof.Machine.execGetdcr s
  | .getstatus => Sys2Proof.Machine.execGetstatus s
  | .getmwl => Sys2Proof.Machine.execGetmwl s
  | .getmrl => Sys2Proof.Machine.execGetmrl s
  | .getmxds => Sys2Proof.Machine.execGetmxds s
  | .targetResetPattern => Sys2Proof.Machine.execTargetResetPattern s
  | .enthdr0 => Sys2Proof.Machine.execEnthdr0 s
  | .hdrExit => Sys2Proof.Machine.execHdrExit s
  | .tamperEdge => Sys2Proof.Machine.execTamperEdge s
  | .tamperClearDone => Sys2Proof.Machine.execTamperClearDone s
  | .attnEdge => Sys2Proof.Machine.execAttnEdge s
  | .attnStuck => Sys2Proof.Machine.execAttnStuck s
  | .kekLoad => Sys2Proof.Machine.execKekLoad s
  | .kekRotate => Sys2Proof.Machine.execKekRotate s
  | .kekRotationComplete => Sys2Proof.Machine.execKekRotationComplete s
  | .krecImport => Sys2Proof.Machine.execKrecImport s
  | .secLoad => Sys2Proof.Machine.execSecLoad s
  | .rngHealthFail => Sys2Proof.Machine.execRngHealthFail s
  | .pwrfailDeasserted => Sys2Proof.Machine.execPwrfailDeasserted s

end Sys2Proof.Machine
end

