-- ==== Sys2Proof/Safety.lean ====
section
/-!
DEFINITION. The terms in which claims speak of the module: the canonical form of its stores, what it is for a command to have an effect, and
what an effect leaves alone.
-/

namespace Sys2Proof.Machine

/-- The canonical form of a store whose unlisted entries read as 0: keys rise strictly, and no entry is 0. -/
abbrev Canon (m : NMap Nat) : Prop := NMap.wf m ∧ ∀ e ∈ m, e.2 ≠ 0

/-- The register file (R8), the staging window (R377), the host memory buffer (R348), and windows 4 and 5 (R413) are canonical; the latches of the
64-bit pairs (R7) rise strictly. -/
structure Canonical (s : State) : Prop where
  regs : Canon s.rf.regs
  latches : NMap.wf s.rf.latches
  stage : Canon s.stage
  hostBuf : Canon s.hostBuf
  win4 : Canon s.hif.win4
  win5 : Canon s.hif.win5

/-- The module has power, and its stores are canonical. -/
structure Live (s : State) : Prop where
  power : s.core.powered = true
  canon : Canonical s

/-- The command answers a next state, and `P` holds of it. -/
def Gives (c : Instr) (s : State) (P : State → Prop) : Prop := ∃ t, exec c s = .next t ∧ P t

/-- Every register field but those under the keys listed reads as before, and so do the latches and the words the host has sent. -/
structure RegsBut (ks : List Nat) (s t : State) : Prop where
  regs : ∀ k, k ∉ ks → nfind k t.rf.regs = nfind k s.rf.regs
  latches : t.rf.latches = s.rf.latches
  words : t.rf.hostWrites = s.rf.hostWrites

/-- What closing connections can change (R49): the connections, controllers and commands, their units, ingress space, zones' reserved lengths and
waiting actions, and the scheduler's fairness records; every other part is as before. -/
def ClosesOnly (s t : State) : Prop :=
  t = { s with conns := t.conns, ctrls := t.ctrls, cmds := t.cmds, units := t.units, ingress := t.ingress, reserved := t.reserved, zn := t.zn, sch := t.sch }

/-- What the data plane can change: register fields, the Case, updates, repairs and lost blocks, walks, the signatures, the drive ports and what
leaves by them, the Errata log, zones and what is reported of them, and the free values it takes; every other part is as before: connections,
commands, the scheduler, the pairs, the Fount, the image, security, the pins, and the host interface. -/
def PlaneOnly (s0 s : State) : Prop :=
  s = { s0 with rf := s.rf, cs := s.cs, seq := s.seq, drvs := s.drvs, out := s.out, tagNo := s.tagNo, sigs := s.sigs, repairs := s.repairs, lost := s.lost, upds := s.upds, el := s.el, zn := s.zn, ctrls := s.ctrls, mediaErrs := s.mediaErrs, walks := s.walks, core := { s0.core with free := s.core.free } }

/-- A connection has closed (R49): an admin connection takes its controller with it; another connection goes alone. -/
def Closed (i : Nat) (c : Conn) (s t : State) : Prop :=
  (c.connected = true ∧ c.admin = true → t.ctrls = ndel c.cntlid s.ctrls) ∧
    (¬(c.connected = true ∧ c.admin = true) → t.conns = ndel i s.conns ∧ t.ctrls = s.ctrls) ∧ ClosesOnly s t

/-- A connection whose PDUs leave at once: its pair does not withhold them (R66), and no pause holds its port (R34). -/
abbrev FreePath (i : Nat) (c : Conn) (s : State) : Prop :=
  nfind i s.conns = some c ∧ heldPdu s i = false ∧ (s.fePort c.port).pause = none

/-- An admin command that meets nothing to refuse it before its own checks (R46, R50, Table 2.3). -/
abbrev AdminReady (h : CmdHdr) (c : Conn) (s : State) : Prop :=
  FreePath h.conn c s ∧ c.icDone = true ∧ c.connected = true ∧ c.admin = true ∧ nfind (cmdKey h.conn h.cid) s.cmds = none ∧
    (c.authReq = true → c.authDone = true) ∧ checkNs true h c s = none ∧ h.len ≤ 1048576 ∧ h.inCapsule ≤ 8192

/-- A Write, Read or Zone Append that meets nothing to refuse it before its own checks (R50, R51, Table 2.3); `zoned` is the kind of its namespace. -/
abbrev IoReady (x : IoCmd) (c : Conn) (zoned : Bool) (s : State) : Prop :=
  FreePath x.hdr.conn c s ∧ c.icDone = true ∧ c.connected = true ∧ c.admin = false ∧ nfind (cmdKey x.hdr.conn x.hdr.cid) s.cmds = none ∧
    (c.authReq = true → c.authDone = true) ∧ checkNs false x.hdr c s = none ∧ nsZoned s (x.hdr.nsid - 1) = zoned ∧
    x.hdr.len = x.nlb * wireOf x.pi ∧ x.hdr.len ≤ 1048576 ∧ (x.hdr.inCapsule = 0 ∨ x.hdr.inCapsule = x.hdr.len ∧ x.hdr.len ≤ 8192) ∧
    x.slba + x.nlb ≤ nsSize s (x.hdr.nsid - 1)

/-- A Zone Management Send for one zone that meets nothing to refuse it before the checks of Table 3.2; nothing is in progress on its zone. -/
abbrev ZoneReady (x : ZoneCmd) (c : Conn) (k : Nat) (s : State) : Prop :=
  FreePath x.hdr.conn c s ∧ c.icDone = true ∧ c.connected = true ∧ c.admin = false ∧ nfind (cmdKey x.hdr.conn x.hdr.cid) s.cmds = none ∧
    (c.authReq = true → c.authDone = true) ∧ checkNs false x.hdr c s = none ∧ nsZoned s (x.hdr.nsid - 1) = true ∧ x.hdr.len ≤ 1048576 ∧
    x.hdr.inCapsule ≤ 8192 ∧ x.selectAll = false ∧ x.slba < nsSize s (x.hdr.nsid - 1) ∧ x.slba % zsze s (x.hdr.nsid - 1) = 0 ∧
    k = zoneKey (x.hdr.nsid - 1) (x.slba / zsze s (x.hdr.nsid - 1)) ∧
    (s.zone k).permit = none ∧ (s.zone k).sealing = none ∧ (s.zone k).pend = none

/-- The completion of a command leaves (R41), after whatever `os` says, newest first. -/
def Completes (h : CmdHdr) (sct sc dw0 : Nat) (os : List Out) (s t : State) : Prop := t.out = .resp h.conn h.cid sct sc dw0 :: os ++ s.out

/-- A command leaves the module as it was. -/
def NoEffect (c : Instr) (s : State) : Prop := exec c s = .next s

end Sys2Proof.Machine
end

