-- ==== Sys2Proof/Certificates/Slice0/Obligations.lean ====
section
/-!
DEFINITION. The statements for the provers. Each says, for every state that meets its premises, what a command does and all that it leaves
alone. A statement about a next state is a completion statement: its conclusion is that the command answers that next state.
-/

set_option linter.unusedVariables false

open Sys2Proof Sys2Proof.Machine

/-- With a command c at the front of the queue, step is exec of c on the state whose queue is the rest. On an empty queue step answers the state as it is
(the model's choice, log entry 1). The opcode table gives its rows no bits, so no word spells a command and withFetchWord changes nothing. -/
def Obligations.StepRunsTheFrontCommand : Prop :=
  (∀ (c : Instr) (rest : List Instr) (s : State), step { s with pending := c :: rest } = exec c { s with pending := rest }) ∧
  (∀ s : State, s.pending = [] → step s = .next s) ∧
  (∀ (s : State) (nbits w : Nat), decodeTableWord nbits w = none ∧ s.withFetchWord nbits w = s)

/-- For every command c and every state s, exec c s answers a next state: where a rule refuses a command the refusal is the module's own answer or record,
never a stop of the model. Without power every command but COLD_RESET leaves the module as it was. -/
def Obligations.EveryCommandAnswersANextState : Prop :=
  (∀ (c : Instr) (s : State), ∃ t, exec c s = .next t) ∧
  (∀ (c : Instr) (s : State), s.core.powered = false → (∀ i, c ≠ .coldReset i) → exec c s = .next s)

/-- State.reset is in POWER_QUALIFY with power, its impression counter and its queue are 0 and empty, no connection, controller, command, update or Case
line exists, and its register file, latches, staging window, host memory buffer and windows 4 and 5 are in their canonical form. -/
def Obligations.ResetIsCanonical : Prop :=
  Canonical State.reset ∧ State.reset.core.mode = .powerQualify ∧ State.reset.core.powered = true ∧ State.reset.core.imp = 0 ∧ State.reset.core.opImp = 0 ∧
    State.reset.pending = [] ∧ State.reset.conns = [] ∧ State.reset.ctrls = [] ∧ State.reset.cmds = [] ∧ State.reset.upds = [] ∧ State.reset.cs.tags = []

/-- For every state whose stores are canonical (keys rising strictly, no listed entry equal to what an unlisted one reads as), if a step answers a next
state then its stores are canonical again. Equal contents are therefore equal data in every state a run can reach. -/
def Obligations.StepKeepsTheStoresCanonical : Prop :=
  ∀ s t : State, Canonical s → step s = .next t → Canonical t

/-- For every command c and every state s with canonical stores, the next state of exec c s holds the same queue: what waits is taken first in, first out,
and only a step takes from it. -/
def Obligations.CommandsLeaveTheQueueAlone : Prop :=
  ∀ (c : Instr) (s t : State), Canonical s → exec c s = .next t → t.pending = s.pending

/-- IMPRESSION_BOUNDARY of a module with power makes the impression counter one more; COLD_RESET starts it at 0 where it starts the timebase (no power, or
POWER_QUALIFY) and leaves it elsewhere; every other command leaves it as it is. -/
def Obligations.ImpressionCounterMovesAtBoundaries : Prop :=
  State.reset.core.imp = 0 ∧
  (∀ (x : BoundaryIn) (s t : State), Live s → exec (.impressionBoundary x) s = .next t → t.core.imp = s.core.imp + 1) ∧
  (∀ (i : Nat) (s t : State), Canonical s → exec (.coldReset i) s = .next t →
    t.core.imp = if s.core.powered = false ∨ s.core.mode = .powerQualify then 0 else s.core.imp) ∧
  (∀ (c : Instr) (s t : State), Canonical s → (∀ x, c ≠ .impressionBoundary x) → (∀ i, c ≠ .coldReset i) → exec c s = .next t → t.core.imp = s.core.imp)

/-- A gauge sample with a cell below 1.9 V, or with the pack below 3.8 V, makes PACK_LOW 1, and no other sample changes it. While it is 1, step 7 of a
boundary puts the ceiling at 0. Step 4 keeps the impression since which e_volt has been above 0, and forgets it when e_volt is not. PACK_LOW_CLEAR
clears PACK_LOW once 125 000 imp have passed since then, and does nothing before. -/
def Obligations.PackLowRule : Prop :=
  (∀ (s : State) (x : GaugeIn), Live s → s.fnt.hibernating = false → s.fnt.absent = false → Gives (.gaugeSample x) s fun t =>
    t.fnt.packLow = (s.fnt.packLow || decide (x.cell0Mv < 1900) || decide (x.cell1Mv < 1900) || decide (x.cell0Mv + x.cell1Mv < 3800))) ∧
  (∀ (s : State), Live s → s.fnt.packLow = true → (stepCeiling s).get Reg.Fount.CEILING = 0) ∧
  (∀ (s : State), Live s → (takeFigures s).fnt.voltOkAt = if (takeFigures s).fnt.fig.eVolt > 0 then some (s.fnt.voltOkAt.getD s.core.imp) else none) ∧
  (∀ (s : State) (a : Nat), Live s → s.fnt.voltOkAt = some a → s.fnt.packLow = true → s.fnt.absent = false → s.fnt.unfit = false → 125000 ≤ s.since a → Gives (.packLowClear) s fun t =>
    t.fnt.packLow = false ∧ t = { s with fnt := t.fnt }) ∧
  (∀ (s : State), Live s → (∀ a, s.fnt.voltOkAt = some a → s.since a < 125000) → NoEffect (.packLowClear) s)

/-- An ICReq that passes its other checks and requests every digest that REQ_HDGST and REQ_DDGST require leaves the connection with exactly the digests it
requests. Where REQ_HDGST or REQ_DDGST is 1 and the ICReq does not request that digest, a C2HTermReq of error status Unsupported Parameter leaves and
the connection is closed. -/
def Obligations.DigestsFollowTheICReq : Prop :=
  (∀ (s : State) (x : IcReq) (c : Conn), Live s → FreePath x.conn c s → c.icDone = false → x.pfv = 0 → x.headerOk = true → x.hpda ≤ 31 → (s.get Reg.Fe.REQ_HDGST = 0 ∨ x.hdgst = true) → (s.get Reg.Fe.REQ_DDGST = 0 ∨ x.ddgst = true) → Gives (.icreq x) s fun t =>
    ∃ d, nfind x.conn t.conns = some d ∧ d.hdgst = x.hdgst ∧ d.ddgst = x.ddgst) ∧
  (∀ (s : State) (x : IcReq) (c : Conn), Live s → FreePath x.conn c s → c.icDone = false → x.pfv = 0 → x.headerOk = true → x.hpda ≤ 31 → (s.get Reg.Fe.REQ_HDGST = 1 ∧ x.hdgst = false ∨ s.get Reg.Fe.REQ_DDGST = 1 ∧ x.ddgst = false) → Gives (.icreq x) s fun t =>
    t.out = .c2hTerm x.conn fesUnsupported 0 :: s.out ∧ Closed x.conn c { s with rf := t.rf, el := t.el, out := t.out } t)

/-- Above 48 KiB in the receive FIFO an accepted frame makes XOFF leave, counted in TX_FRAMES and PFC_SENT; while XOFF is in force and the FIFO stays
above 16 KiB, XOFF_REFRESH sends another 2 048 quanta after the last; below 16 KiB XON_SEND sends XON and ends XOFF; a PFC frame of the configured
priority holds transmission from now on for its quanta, and PFC_PAUSE_EXPIRED at the end of the pause sends what was held and ends the pause. Nothing
else changes. -/
def Obligations.FlowControlFrames : Prop :=
  (∀ (s : State) (p : FePortIx) (f : Frame), Live s → s.get Reg.FeP.LINK_UP p = 1 → f.fcsOk = true → f.len ≤ 9216 → f.lengthField = false → f.dest ≠ .other → f.vlan = none → s.get Reg.FeP.VLAN_EN p = 0 → f.payload = .other → (s.fePort p).fifo + f.len ≤ 65536 → 49152 < (s.fePort p).fifo + f.len → s.get Reg.Fe.PFC_EN = 1 → (s.fePort p).xoff = false → Gives (.frameReceived p f) s fun t =>
    t.out = .frame p .xoff :: s.out ∧ t.get Reg.FeP.RX_FRAMES p = min (s.get Reg.FeP.RX_FRAMES p + 1) (2 ^ Reg.FeP.RX_FRAMES.w - 1) ∧ t.get Reg.FeP.TX_FRAMES p = min (s.get Reg.FeP.TX_FRAMES p + 1) (2 ^ Reg.FeP.TX_FRAMES.w - 1) ∧ t.get Reg.FeP.PFC_SENT p = min (s.get Reg.FeP.PFC_SENT p + 1) (2 ^ Reg.FeP.PFC_SENT.w - 1) ∧
    t.fePort p = { s.fePort p with rx := (s.fePort p).rx + 1, tx := (s.fePort p).tx + 1, fifo := (s.fePort p).fifo + f.len, xoff := true, xoffAt := s.core.imp } ∧
    (∀ q, q ≠ p.val → t.fePort q = s.fePort q) ∧ RegsBut [Reg.FeP.RX_FRAMES.key p, Reg.FeP.TX_FRAMES.key p, Reg.FeP.PFC_SENT.key p] s t ∧
    t = { s with rf := t.rf, fe := t.fe, out := t.out }) ∧
  (∀ (s : State) (p : FePortIx), Live s → (s.fePort p).xoff = true → 16384 < (s.fePort p).fifo → 2048 * 512 ≤ s.since (s.fePort p).xoffAt * 400000 → Gives (.xoffRefresh p) s fun t =>
    t.out = .frame p .xoff :: s.out ∧ t.get Reg.FeP.TX_FRAMES p = min (s.get Reg.FeP.TX_FRAMES p + 1) (2 ^ Reg.FeP.TX_FRAMES.w - 1) ∧ t.get Reg.FeP.PFC_SENT p = min (s.get Reg.FeP.PFC_SENT p + 1) (2 ^ Reg.FeP.PFC_SENT.w - 1) ∧
    t.fePort p = { s.fePort p with xoffAt := s.core.imp, tx := (s.fePort p).tx + 1 } ∧ (∀ q, q ≠ p.val → t.fePort q = s.fePort q) ∧
    RegsBut [Reg.FeP.TX_FRAMES.key p, Reg.FeP.PFC_SENT.key p] s t ∧ t = { s with rf := t.rf, fe := t.fe, out := t.out }) ∧
  (∀ (s : State) (p : FePortIx), Live s → (s.fePort p).xoff = true → (s.fePort p).fifo < 16384 → Gives (.xonSend p) s fun t =>
    t.out = .frame p .xon :: s.out ∧ t.get Reg.FeP.TX_FRAMES p = min (s.get Reg.FeP.TX_FRAMES p + 1) (2 ^ Reg.FeP.TX_FRAMES.w - 1) ∧
    t.fePort p = { s.fePort p with xoff := false, tx := (s.fePort p).tx + 1 } ∧ (∀ q, q ≠ p.val → t.fePort q = s.fePort q) ∧
    RegsBut [Reg.FeP.TX_FRAMES.key p] s t ∧ t = { s with rf := t.rf, fe := t.fe, out := t.out }) ∧
  (∀ (s : State) (p : FePortIx) (prio quanta : Nat), Live s → s.get Reg.FeP.LINK_UP p = 1 → s.get Reg.Fe.PFC_EN = 1 → s.get Reg.Fe.PFC_PRIO = prio → Gives (.pfcFrameReceived p prio quanta) s fun t =>
    t.fePort p = { s.fePort p with pause := some (s.core.imp, quanta) } ∧ (∀ q, q ≠ p.val → t.fePort q = s.fePort q) ∧ t = { s with fe := t.fe }) ∧
  (∀ (s : State) (p : FePortIx) (since quanta : Nat), Live s → (s.fePort p).pause = some (since, quanta) → quanta * 512 ≤ s.since since * 400000 → Gives (.pfcPauseExpired p) s fun t =>
    t.out = (s.fePort p).txq ++ s.out ∧ t.fePort p = { s.fePort p with pause := none, txq := [] } ∧ (∀ q, q ≠ p.val → t.fePort q = s.fePort q) ∧
    t = { s with fe := t.fe, out := t.out })

/-- A frame that arrives while the link is up counts in RX_FRAMES. With a bad FCS it counts in FCS_ERR and is dropped; longer than 9 216 bytes, with a
length field, or for another station it counts in RX_DROP; outside the accepted VLAN it is dropped without a count; else its bytes enter the receive
FIFO. With the link down a frame has no effect. -/
def Obligations.FrameReception : Prop :=
  (∀ (s : State) (p : FePortIx) (f : Frame), Live s → s.get Reg.FeP.LINK_UP p = 0 → NoEffect (.frameReceived p f) s) ∧
  (∀ (s : State) (p : FePortIx) (f : Frame), Live s → s.get Reg.FeP.LINK_UP p = 1 → f.fcsOk = false → Gives (.frameReceived p f) s fun t =>
    t.get Reg.FeP.RX_FRAMES p = min (s.get Reg.FeP.RX_FRAMES p + 1) (2 ^ Reg.FeP.RX_FRAMES.w - 1) ∧ t.get Reg.FeP.FCS_ERR p = min (s.get Reg.FeP.FCS_ERR p + 1) (2 ^ Reg.FeP.FCS_ERR.w - 1) ∧ t.fePort p = { s.fePort p with rx := (s.fePort p).rx + 1, fcs := (s.fePort p).fcs + 1 } ∧
    (∀ q, q ≠ p.val → t.fePort q = s.fePort q) ∧ RegsBut [Reg.FeP.RX_FRAMES.key p, Reg.FeP.FCS_ERR.key p] s t ∧ t = { s with rf := t.rf, fe := t.fe }) ∧
  (∀ (s : State) (p : FePortIx) (f : Frame), Live s → s.get Reg.FeP.LINK_UP p = 1 → f.fcsOk = true → (9216 < f.len ∨ f.lengthField = true ∨ f.dest = .other) → Gives (.frameReceived p f) s fun t =>
    t.get Reg.FeP.RX_FRAMES p = min (s.get Reg.FeP.RX_FRAMES p + 1) (2 ^ Reg.FeP.RX_FRAMES.w - 1) ∧ t.get Reg.FeP.RX_DROP p = min (s.get Reg.FeP.RX_DROP p + 1) (2 ^ Reg.FeP.RX_DROP.w - 1) ∧ t.fePort p = { s.fePort p with rx := (s.fePort p).rx + 1, drops := (s.fePort p).drops + 1 } ∧
    (∀ q, q ≠ p.val → t.fePort q = s.fePort q) ∧ RegsBut [Reg.FeP.RX_FRAMES.key p, Reg.FeP.RX_DROP.key p] s t ∧ t = { s with rf := t.rf, fe := t.fe }) ∧
  (∀ (s : State) (p : FePortIx) (f : Frame), Live s → s.get Reg.FeP.LINK_UP p = 1 → f.fcsOk = true → f.len ≤ 9216 → f.lengthField = false → f.dest ≠ .other → s.get Reg.FeP.VLAN_EN p = 1 → f.vlan ≠ some (s.get Reg.FeP.VLAN_ID p) → Gives (.frameReceived p f) s fun t =>
    t.get Reg.FeP.RX_FRAMES p = min (s.get Reg.FeP.RX_FRAMES p + 1) (2 ^ Reg.FeP.RX_FRAMES.w - 1) ∧ t.fePort p = { s.fePort p with rx := (s.fePort p).rx + 1 } ∧
    (∀ q, q ≠ p.val → t.fePort q = s.fePort q) ∧ RegsBut [Reg.FeP.RX_FRAMES.key p] s t ∧ t = { s with rf := t.rf, fe := t.fe }) ∧
  (∀ (s : State) (p : FePortIx) (f : Frame), Live s → s.get Reg.FeP.LINK_UP p = 1 → f.fcsOk = true → f.len ≤ 9216 → f.lengthField = false → f.dest ≠ .other → s.get Reg.FeP.VLAN_EN p = 1 → f.vlan = some (s.get Reg.FeP.VLAN_ID p) → (f.payload = .icmpOther ∨ f.payload = .other) → (s.fePort p).fifo + f.len ≤ 49152 → Gives (.frameReceived p f) s fun t =>
    t.get Reg.FeP.RX_FRAMES p = min (s.get Reg.FeP.RX_FRAMES p + 1) (2 ^ Reg.FeP.RX_FRAMES.w - 1) ∧ t.fePort p = { s.fePort p with rx := (s.fePort p).rx + 1, fifo := (s.fePort p).fifo + f.len } ∧
    (∀ q, q ≠ p.val → t.fePort q = s.fePort q) ∧ RegsBut [Reg.FeP.RX_FRAMES.key p] s t ∧ t = { s with rf := t.rf, fe := t.fe })

/-- With the link up: an ARP request, a neighbor solicitation and an echo request of at most 1 024 bytes for an address in use are answered and counted in
TX_FRAMES; a claim of the port’s IPv4 address by another station sets DUP_ADDR4 and DUP_ADDR and is logged as 0x8002 with payload 4, and the port
keeps the address; a detection that ends 1 s after it began sets DUP_ADDR6 to its verdict, and logs 0x8002 with payload 6 for a duplicate; neighbours
not used for 300 s leave the cache, the others stay. -/
def Obligations.AddressReplies : Prop :=
  (∀ (s : State) (p : FePortIx) (a : Nat), Live s → s.get Reg.FeP.LINK_UP p = 1 → (s.fePort p).ip4 = some a → (s.fePort p).pause = none → Gives (.arpRequest p a) s fun t =>
    t.out = .frame p (.arpReply a) :: s.out ∧ t.get Reg.FeP.TX_FRAMES p = min (s.get Reg.FeP.TX_FRAMES p + 1) (2 ^ Reg.FeP.TX_FRAMES.w - 1) ∧ t.fePort p = { s.fePort p with tx := (s.fePort p).tx + 1 } ∧
    (∀ q, q ≠ p.val → t.fePort q = s.fePort q) ∧ RegsBut [Reg.FeP.TX_FRAMES.key p] s t ∧ t = { s with rf := t.rf, fe := t.fe, out := t.out }) ∧
  (∀ (s : State) (p : FePortIx) (a : Nat), Live s → s.get Reg.FeP.LINK_UP p = 1 → a ∈ (s.fePort p).ip6 → (s.fePort p).dadAt = none → s.get Reg.FeP.DUP_ADDR6 p = 0 → (s.fePort p).pause = none → Gives (.neighborSolicitation p a) s fun t =>
    t.out = .frame p (.naReply a) :: s.out ∧ t.get Reg.FeP.TX_FRAMES p = min (s.get Reg.FeP.TX_FRAMES p + 1) (2 ^ Reg.FeP.TX_FRAMES.w - 1) ∧ t.fePort p = { s.fePort p with tx := (s.fePort p).tx + 1 } ∧
    (∀ q, q ≠ p.val → t.fePort q = s.fePort q) ∧ RegsBut [Reg.FeP.TX_FRAMES.key p] s t ∧ t = { s with rf := t.rf, fe := t.fe, out := t.out }) ∧
  (∀ (s : State) (p : FePortIx) (a n : Nat), Live s → s.get Reg.FeP.LINK_UP p = 1 → (s.fePort p).ip4 = some a → n ≤ 1024 → (s.fePort p).pause = none → Gives (.echoRequest p (.ip4 a) n) s fun t =>
    t.out = .frame p (.echoReply n) :: s.out ∧ t.get Reg.FeP.TX_FRAMES p = min (s.get Reg.FeP.TX_FRAMES p + 1) (2 ^ Reg.FeP.TX_FRAMES.w - 1) ∧ t.fePort p = { s.fePort p with tx := (s.fePort p).tx + 1 } ∧
    (∀ q, q ≠ p.val → t.fePort q = s.fePort q) ∧ RegsBut [Reg.FeP.TX_FRAMES.key p] s t ∧ t = { s with rf := t.rf, fe := t.fe, out := t.out }) ∧
  (∀ (s : State) (p : FePortIx) (a : NetAddr) (n : Nat), Live s → 1024 < n → NoEffect (.echoRequest p a n) s) ∧
  (∀ (s : State) (p : FePortIx) (a : Nat), Live s → s.get Reg.FeP.LINK_UP p = 1 → (s.fePort p).ip4 = some a → Gives (.arpReplyClaim p a) s fun t =>
    t.get Reg.FeP.DUP_ADDR4 p = 1 ∧ t.get Reg.Fe.DUP_ADDR = 1 ∧ t.el.due = ⟨0x8002, 0, 0, opTimeOf s.core.opImp, s.core.cycles, p, [4]⟩ :: s.el.due ∧ RegsBut [Reg.FeP.DUP_ADDR4.key p, Reg.Fe.DUP_ADDR.key 0] s t ∧
    t.el = { s.el with due := t.el.due } ∧ t = { s with rf := t.rf, el := t.el }) ∧
  (∀ (s : State) (p : FePortIx) (a : NetAddr), Live s → Gives (.neighbourCacheAgeOut p a) s fun t =>
    (t.fePort p).nbrs = (s.fePort p).nbrs.filter (fun e => !(e.1 == a && decide (37500000 ≤ s.since e.2))) ∧
    t.fePort p = { s.fePort p with nbrs := (t.fePort p).nbrs } ∧ (∀ q, q ≠ p.val → t.fePort q = s.fePort q) ∧ t = { s with fe := t.fe }) ∧
  (∀ (s : State) (p : FePortIx) (began : Nat), Live s → (s.fePort p).dadAt = some began → 125000 ≤ s.since began → Gives (.duplicateAddressDetectionDone p true) s fun t =>
    t.get Reg.FeP.DUP_ADDR6 p = 1 ∧ t.get Reg.Fe.DUP_ADDR = 1 ∧ t.el.due = ⟨0x8002, 0, 0, opTimeOf s.core.opImp, s.core.cycles, p, [6]⟩ :: s.el.due ∧ t.fePort p = { s.fePort p with dadAt := none } ∧
    (∀ q, q ≠ p.val → t.fePort q = s.fePort q) ∧ RegsBut [Reg.FeP.DUP_ADDR6.key p, Reg.Fe.DUP_ADDR.key 0] s t ∧ t = { s with rf := t.rf, el := t.el, fe := t.fe }) ∧
  (∀ (s : State) (p : FePortIx) (began : Nat), Live s → (s.fePort p).dadAt = some began → 125000 ≤ s.since began → Gives (.duplicateAddressDetectionDone p false) s fun t =>
    t.get Reg.FeP.DUP_ADDR6 p = 0 ∧ t.fePort p = { s.fePort p with dadAt := none } ∧
    (∀ q, q ≠ p.val → t.fePort q = s.fePort q) ∧ RegsBut [Reg.FeP.DUP_ADDR6.key p] s t ∧ t = { s with rf := t.rf, fe := t.fe })

/-- In a state in which front-end links train, LINK_UP on an enabled port whose link is down sets the four link bits and LINK_CHANGE, logs 0x8001 with
payload 1, sends a gratuitous ARP for the IPv4 address and a detection probe for each IPv6 address, and starts detection. LINK_LOSS clears the link
bits, logs 0x8001 with payload 0 and holds the connections; only LINK_HOLD_EXPIRED, 125 impressions for each millisecond of HOLD_MS later, closes
them. -/
def Obligations.LinkChanges : Prop :=
  (∀ (s : State) (p : FePortIx), Live s → (s.core.mode = .assemble ∨ s.core.mode = .pressRun ∨ s.core.mode = .hold ∨ s.core.mode = .release) → s.get Reg.FeP.PORT_EN p = 1 → s.get Reg.FeP.LINK_UP p = 0 → (s.fePort p).pause = none → (s.fePort p).ip4 = none → Gives (.linkUp p) s fun t =>
    t.get Reg.FeP.LINK_UP p = 1 ∧ t.get Reg.FeP.AN_DONE p = 1 ∧ t.get Reg.FeP.TRAIN_DONE p = 1 ∧ t.get Reg.FeP.FEC_ALIGNED p = 1 ∧ t.get Reg.Fe.LINK_CHANGE = 1 ∧
    t.out = ((s.fePort p).ip6.map fun a => Out.frame p (.dadProbe a)).reverse ++ s.out ∧ t.el.due = ⟨0x8001, 0, 0, opTimeOf s.core.opImp, s.core.cycles, p, [1]⟩ :: s.el.due ∧
    t.fePort p = { s.fePort p with tx := (s.fePort p).tx + (s.fePort p).ip6.length, lostAt := none, dadAt := if (s.fePort p).ip6 = [] then none else some s.core.imp } ∧
    (∀ q, q ≠ p.val → t.fePort q = s.fePort q) ∧ RegsBut [Reg.FeP.LINK_UP.key p, Reg.FeP.AN_DONE.key p, Reg.FeP.TRAIN_DONE.key p, Reg.FeP.FEC_ALIGNED.key p, Reg.Fe.LINK_CHANGE.key 0, Reg.FeP.DUP_ADDR4.key p, Reg.FeP.TX_FRAMES.key p] s t ∧ t.el = { s.el with due := t.el.due } ∧ t = { s with rf := t.rf, el := t.el, fe := t.fe, out := t.out }) ∧
  (∀ (s : State) (p : FePortIx) (a : Nat), Live s → (s.core.mode = .assemble ∨ s.core.mode = .pressRun ∨ s.core.mode = .hold ∨ s.core.mode = .release) → s.get Reg.FeP.PORT_EN p = 1 → s.get Reg.FeP.LINK_UP p = 0 → (s.fePort p).pause = none → (s.fePort p).ip4 = some a → Gives (.linkUp p) s fun t =>
    t.get Reg.FeP.LINK_UP p = 1 ∧ t.get Reg.FeP.AN_DONE p = 1 ∧ t.get Reg.FeP.TRAIN_DONE p = 1 ∧ t.get Reg.FeP.FEC_ALIGNED p = 1 ∧ t.get Reg.Fe.LINK_CHANGE = 1 ∧
    t.out = ((s.fePort p).ip6.map fun a => Out.frame p (.dadProbe a)).reverse ++ .frame p (.gratArp a) :: s.out ∧ t.el.due = ⟨0x8001, 0, 0, opTimeOf s.core.opImp, s.core.cycles, p, [1]⟩ :: s.el.due ∧
    t.fePort p = { s.fePort p with tx := (s.fePort p).tx + 1 + (s.fePort p).ip6.length, lostAt := none, dadAt := if (s.fePort p).ip6 = [] then none else some s.core.imp } ∧
    (∀ q, q ≠ p.val → t.fePort q = s.fePort q) ∧ RegsBut [Reg.FeP.LINK_UP.key p, Reg.FeP.AN_DONE.key p, Reg.FeP.TRAIN_DONE.key p, Reg.FeP.FEC_ALIGNED.key p, Reg.Fe.LINK_CHANGE.key 0, Reg.FeP.DUP_ADDR4.key p, Reg.FeP.TX_FRAMES.key p] s t ∧ t.el = { s.el with due := t.el.due } ∧ t = { s with rf := t.rf, el := t.el, fe := t.fe, out := t.out }) ∧
  (∀ (s : State) (p : FePortIx), Live s → s.get Reg.FeP.LINK_UP p = 1 → Gives (.linkLoss p) s fun t =>
    t.get Reg.FeP.LINK_UP p = 0 ∧ t.get Reg.FeP.AN_DONE p = 0 ∧ t.get Reg.FeP.TRAIN_DONE p = 0 ∧ t.get Reg.FeP.FEC_ALIGNED p = 0 ∧ t.get Reg.Fe.LINK_CHANGE = 1 ∧
    t.el.due = ⟨0x8001, 0, 0, opTimeOf s.core.opImp, s.core.cycles, p, [0]⟩ :: s.el.due ∧ t.fePort p = { s.fePort p with lostAt := some s.core.imp, dadAt := none } ∧
    (∀ q, q ≠ p.val → t.fePort q = s.fePort q) ∧ RegsBut [Reg.FeP.LINK_UP.key p, Reg.FeP.AN_DONE.key p, Reg.FeP.TRAIN_DONE.key p, Reg.FeP.FEC_ALIGNED.key p, Reg.Fe.LINK_CHANGE.key 0] s t ∧ t.el = { s.el with due := t.el.due } ∧ t = { s with rf := t.rf, el := t.el, fe := t.fe }) ∧
  (∀ (s : State) (p : FePortIx) (lost : Nat), Live s → (s.fePort p).lostAt = some lost → 125 * s.get Reg.FeP.HOLD_MS p ≤ s.since lost → Gives (.linkHoldExpired p) s fun t =>
    t.fePort p = { s.fePort p with lostAt := none } ∧ (∀ q, q ≠ p.val → t.fePort q = s.fePort q) ∧ t.rf = s.rf ∧
    (∀ i c, (s.conns.filter fun e => e.2.port == p.val) = [(i, c)] → nfind i s.conns = some c → ¬(c.connected = true ∧ c.admin = true) → t.conns = ndel i s.conns ∧ t.ctrls = s.ctrls) ∧
    ClosesOnly { s with fe := t.fe } t) ∧
  (∀ (s : State) (p : FePortIx) (lost : Nat), Live s → (s.fePort p).lostAt = some lost → s.since lost < 125 * s.get Reg.FeP.HOLD_MS p → NoEffect (.linkHoldExpired p) s)

/-- A SYN that arrives on a port whose link is up, for an address in use on it, at the NVMe port while the module accepts connections, with fewer than 4
096 connections open and its four-tuple free, opens a connection at the lowest free index, established now, and is answered by SYN-ACK with an MSS of
the MTU less 40 (IPv4) or 60 (IPv6); to another port or in another state it is answered by RST; at the limit, or with its four-tuple open already, it
is answered by RST, counted in CONN_REFUSED, and CONN_LIMIT is set. -/
def Obligations.ConnectionsOpen : Prop :=
  (∀ (s : State) (x : Syn), Live s → s.get Reg.FeP.LINK_UP x.port = 1 → ownsAddr s x.port (if x.ip6 then .ip6 x.dstAddr else .ip4 x.dstAddr) = true → (s.fePort x.port).pause = none → (s.core.mode = .pressRun ∨ s.core.mode = .hold) → x.dstPort = s.get Reg.Fe.NVME_PORT → s.conns.length < 4096 → (s.conns.any fun c => c.2.srcAddr == x.srcAddr && c.2.srcPort == x.srcPort && c.2.dstAddr == x.dstAddr && c.2.dstPort == x.dstPort && c.2.ip6 == x.ip6) = false → Gives (.synReceived x) s fun t =>
    (∃ c : Conn, t.conns = nset (nfresh s.conns 0) c s.conns ∧ c.port = x.port ∧ c.srcAddr = x.srcAddr ∧ c.srcPort = x.srcPort ∧ c.dstAddr = x.dstAddr ∧
      c.dstPort = x.dstPort ∧ c.ip6 = x.ip6 ∧ c.openedAt = s.core.imp ∧ c.icDone = false ∧ c.connected = false) ∧
    t.out = .frame x.port (.synAck (nfresh s.conns 0) (s.get Reg.FeP.MTU x.port - (if x.ip6 then 60 else 40))) :: s.out ∧
    t.get Reg.FeP.TX_FRAMES x.port = min (s.get Reg.FeP.TX_FRAMES x.port + 1) (2 ^ Reg.FeP.TX_FRAMES.w - 1) ∧
    RegsBut [Reg.FeP.TX_FRAMES.key x.port] s t ∧ (∀ q, q ≠ x.port.val → t.fePort q = s.fePort q) ∧
    t = { s with rf := t.rf, sch := t.sch, fe := t.fe, conns := t.conns, out := t.out }) ∧
  (∀ (s : State) (x : Syn), Live s → s.get Reg.FeP.LINK_UP x.port = 1 → ownsAddr s x.port (if x.ip6 then .ip6 x.dstAddr else .ip4 x.dstAddr) = true → (s.fePort x.port).pause = none → (s.core.mode ≠ .pressRun ∧ s.core.mode ≠ .hold ∨ x.dstPort ≠ s.get Reg.Fe.NVME_PORT) → Gives (.synReceived x) s fun t =>
    t.out = .frame x.port (.rst none) :: s.out ∧ t.conns = s.conns ∧
    t.get Reg.FeP.TX_FRAMES x.port = min (s.get Reg.FeP.TX_FRAMES x.port + 1) (2 ^ Reg.FeP.TX_FRAMES.w - 1) ∧ RegsBut [Reg.FeP.TX_FRAMES.key x.port] s t ∧
    (∀ q, q ≠ x.port.val → t.fePort q = s.fePort q) ∧ t = { s with rf := t.rf, fe := t.fe, out := t.out }) ∧
  (∀ (s : State) (x : Syn), Live s → s.get Reg.FeP.LINK_UP x.port = 1 → ownsAddr s x.port (if x.ip6 then .ip6 x.dstAddr else .ip4 x.dstAddr) = true → (s.fePort x.port).pause = none → (s.core.mode = .pressRun ∨ s.core.mode = .hold) → x.dstPort = s.get Reg.Fe.NVME_PORT → (4096 ≤ s.conns.length ∨ (s.conns.any fun c => c.2.srcAddr == x.srcAddr && c.2.srcPort == x.srcPort && c.2.dstAddr == x.dstAddr && c.2.dstPort == x.dstPort && c.2.ip6 == x.ip6) = true) → Gives (.synReceived x) s fun t =>
    t.out = .frame x.port (.rst none) :: s.out ∧ t.conns = s.conns ∧ t.get Reg.Fe.CONN_REFUSED = min (s.get Reg.Fe.CONN_REFUSED + 1) (2 ^ Reg.Fe.CONN_REFUSED.w - 1) ∧
    t.get Reg.Fe.CONN_LIMIT = 1 ∧ t.el.due = ⟨0x8003, 0, 0, opTimeOf s.core.opImp, s.core.cycles, x.port, []⟩ :: s.el.due ∧
    RegsBut [Reg.FeP.TX_FRAMES.key x.port, Reg.Fe.CONN_REFUSED.key 0, Reg.Fe.CONN_LIMIT.key 0] s t ∧
    (∀ q, q ≠ x.port.val → t.fePort q = s.fePort q) ∧ t = { s with rf := t.rf, el := t.el, fe := t.fe, out := t.out })

/-- A retransmission timeout sends the segment again and counts it, and the one after ten consecutive ones aborts the connection by RST; a connection
without a complete ICReq 2 s after it was established, one that the peer ends, one terminated by H2CTermReq (PROTO_TERM, logged as 0x9001 with its
error status), one whose authentication failed 1 s ago, the admin connection of a controller whose keep-alive time is over (logged as 0x9004), and the
one CONN_SEL names when CONN_DROP is written, close. -/
def Obligations.ConnectionsClose : Prop :=
  (∀ (s : State) (i : Nat) (c : Conn), Live s → nfind i s.conns = some c → c.retx < 10 → Gives (.retransmissionTimeout i) s fun t =>
    nfind i t.conns = some { c with retx := c.retx + 1 } ∧ (∀ j, j ≠ i → nfind j t.conns = nfind j s.conns) ∧
    t.get Reg.FeP.TCP_RETX c.port = min (s.get Reg.FeP.TCP_RETX c.port + 1) (2 ^ Reg.FeP.TCP_RETX.w - 1) ∧
    t.fePort c.port = { s.fePort c.port with retx := (s.fePort c.port).retx + 1 } ∧ (∀ q, q ≠ c.port → t.fePort q = s.fePort q) ∧
    RegsBut [Reg.FeP.TCP_RETX.key c.port] s t ∧ t = { s with rf := t.rf, fe := t.fe, conns := t.conns }) ∧
  (∀ (s : State) (i : Nat) (c : Conn), Live s → nfind i s.conns = some c → 10 ≤ c.retx → (s.fePort c.port).pause = none → Gives (.retransmissionTimeout i) s fun t =>
    t.out = .frame c.port (.rst (some i)) :: s.out ∧ (∃ u, u.conns = s.conns ∧ u.ctrls = s.ctrls ∧ u = { s with rf := t.rf, fe := t.fe, out := t.out } ∧ Closed i c u t) ∧
    RegsBut [Reg.FeP.TX_FRAMES.key c.port] s t) ∧
  (∀ (s : State) (i : Nat) (c : Conn), Live s → nfind i s.conns = some c → c.icDone = false → 250000 ≤ s.since c.openedAt → Gives (.icreqTimeout i) s fun t =>
    Closed i c s t) ∧
  (∀ (s : State) (i : Nat) (c : Conn) (r : Bool), Live s → nfind i s.conns = some c → Gives (.tcpConnectionClosed i r) s fun t =>
    Closed i c s t) ∧
  (∀ (s : State) (i fes : Nat) (c : Conn), Live s → nfind i s.conns = some c → Gives (.h2ctermreq i fes) s fun t =>
    t.get Reg.Fe.PROTO_TERM = 1 ∧ t.el.due = ⟨0x9001, 0, 0, opTimeOf s.core.opImp, s.core.cycles, i, leBytes 2 fes⟩ :: s.el.due ∧ RegsBut [Reg.Fe.PROTO_TERM.key 0] s t ∧
    Closed i c { s with rf := t.rf, el := t.el } t) ∧
  (∀ (s : State) (i failed : Nat) (c : Conn), Live s → nfind i s.conns = some c → c.authFailAt = some failed → 125000 ≤ s.since failed → Gives (.authFailClose i) s fun t =>
    Closed i c s t) ∧
  (∀ (s : State) (k : Nat) (x : Ctrl) (c : Conn), Live s → nfind k s.ctrls = some x → 0 < x.kato → 125 * x.kato ≤ s.since x.kaAt → nfind x.admin s.conns = some c → Gives (.keepAliveExpired k) s fun t =>
    t.el.due = ⟨0x9004, 0, 0, opTimeOf s.core.opImp, s.core.cycles, x.admin, leBytes 2 k⟩ :: s.el.due ∧ t.rf = s.rf ∧ Closed x.admin c { s with el := t.el } t) ∧
  (∀ (s : State) (c : Conn), Live s → nfind (s.get Reg.Fe.CONN_SEL) s.conns = some c → Gives (.connDrop) s fun t =>
    t.get Reg.Fe.CONN_DROP = 1 ∧ Reg.Fe.CONN_DROP.key 0 ∈ t.rf.clearNext ∧ RegsBut [Reg.Fe.CONN_DROP.key 0] s t ∧ Closed (s.get Reg.Fe.CONN_SEL) c { s with rf := t.rf } t)

/-- PORT_ENABLE with an MTU of 1 280 to 9 194 and an address family enabled sets PORT_EN, clears CFG_ERR and takes the addresses into use; otherwise it
sets CFG_ERR and the port stays disabled (log entry 18: PORT_EN stays 0). PORT_DISABLE clears PORT_EN; it and FE_PORT_RESET take the link down, close
the connections, empty the FIFO and clear the eight counters; the reset also clears CFG_ERR, DUP_ADDR4 and DUP_ADDR6. Other ports keep their registers
and state. -/
def Obligations.PortEnableAndReset : Prop :=
  (∀ (s : State) (p : FePortIx), Live s → s.get Reg.FeP.PORT_EN p = 0 → 1280 ≤ s.get Reg.FeP.MTU p → s.get Reg.FeP.MTU p ≤ 9194 → s.get Reg.FeP.IP4_EN p = 1 → s.get Reg.FeP.IP6_EN p = 0 → Gives (.portEnable p) s fun t =>
    t.get Reg.FeP.PORT_EN p = 1 ∧ t.get Reg.FeP.CFG_ERR p = 0 ∧ t.get Reg.FeP.DUP_ADDR4 p = 0 ∧
    t.fePort p = { s.fePort p with ip4 := some (s.get Reg.FeP.IP4_ADDR p), ip6 := [linkLocal (macOf p)], lostAt := none } ∧ (∀ q, q ≠ p.val → t.fePort q = s.fePort q) ∧
    RegsBut [Reg.FeP.PORT_EN.key p, Reg.FeP.CFG_ERR.key p, Reg.FeP.DUP_ADDR4.key p] s t ∧ t = { s with rf := t.rf, fe := t.fe }) ∧
  (∀ (s : State) (p : FePortIx), Live s → s.get Reg.FeP.PORT_EN p = 0 → (s.get Reg.FeP.MTU p < 1280 ∨ 9194 < s.get Reg.FeP.MTU p ∨ s.get Reg.FeP.IP4_EN p = 0 ∧ s.get Reg.FeP.IP6_EN p = 0) → Gives (.portEnable p) s fun t =>
    t.get Reg.FeP.CFG_ERR p = 1 ∧ t.get Reg.FeP.PORT_EN p = 0 ∧ RegsBut [Reg.FeP.CFG_ERR.key p] s t ∧ t = { s with rf := t.rf }) ∧
  (∀ (s : State) (p : FePortIx), Live s → s.get Reg.FeP.PORT_EN p = 1 → Gives (.portDisable p) s fun t =>
    t.get Reg.FeP.PORT_EN p = 0 ∧ t.get Reg.FeP.LINK_UP p = 0 ∧ t.get Reg.FeP.RX_FRAMES p = 0 ∧ t.get Reg.FeP.TX_FRAMES p = 0 ∧ t.get Reg.FeP.FEC_CORR p = 0 ∧ t.get Reg.FeP.FEC_UNCORR p = 0 ∧ t.get Reg.FeP.FCS_ERR p = 0 ∧ t.get Reg.FeP.RX_DROP p = 0 ∧ t.get Reg.FeP.TCP_RETX p = 0 ∧ t.get Reg.FeP.PFC_SENT p = 0 ∧
    t.fePort p = { s.fePort p with lostAt := none, dadAt := none, fifo := 0, xoff := false, pause := none, txq := [] } ∧ (∀ q, q ≠ p.val → t.fePort q = s.fePort q) ∧
    RegsBut [Reg.FeP.PORT_EN.key p, Reg.FeP.LINK_UP.key p, Reg.FeP.AN_DONE.key p, Reg.FeP.TRAIN_DONE.key p, Reg.FeP.FEC_ALIGNED.key p, Reg.Fe.LINK_CHANGE.key 0, Reg.FeP.RX_FRAMES.key p, Reg.FeP.TX_FRAMES.key p, Reg.FeP.FEC_CORR.key p, Reg.FeP.FEC_UNCORR.key p, Reg.FeP.FCS_ERR.key p, Reg.FeP.RX_DROP.key p, Reg.FeP.TCP_RETX.key p, Reg.FeP.PFC_SENT.key p] s t ∧ t = { s with rf := t.rf, el := t.el, fe := t.fe, conns := t.conns, ctrls := t.ctrls, cmds := t.cmds, units := t.units, ingress := t.ingress, reserved := t.reserved, zn := t.zn, sch := t.sch }) ∧
  (∀ (s : State) (p : FePortIx), Live s → Gives (.fePortReset p) s fun t =>
    t.get Reg.FeP.LINK_UP p = 0 ∧ t.get Reg.FeP.CFG_ERR p = 0 ∧ t.get Reg.FeP.DUP_ADDR4 p = 0 ∧ t.get Reg.FeP.DUP_ADDR6 p = 0 ∧ t.get Reg.FeP.RX_FRAMES p = 0 ∧ t.get Reg.FeP.TX_FRAMES p = 0 ∧ t.get Reg.FeP.FEC_CORR p = 0 ∧ t.get Reg.FeP.FEC_UNCORR p = 0 ∧ t.get Reg.FeP.FCS_ERR p = 0 ∧ t.get Reg.FeP.RX_DROP p = 0 ∧ t.get Reg.FeP.TCP_RETX p = 0 ∧ t.get Reg.FeP.PFC_SENT p = 0 ∧
    t.fePort p = { s.fePort p with lostAt := none, dadAt := none, fifo := 0, xoff := false, pause := none, txq := [] } ∧ (∀ q, q ≠ p.val → t.fePort q = s.fePort q) ∧
    RegsBut [Reg.FeP.PORT_RESET.key p, Reg.FeP.CFG_ERR.key p, Reg.FeP.DUP_ADDR4.key p, Reg.FeP.DUP_ADDR6.key p, Reg.FeP.LINK_UP.key p, Reg.FeP.AN_DONE.key p, Reg.FeP.TRAIN_DONE.key p, Reg.FeP.FEC_ALIGNED.key p, Reg.Fe.LINK_CHANGE.key 0, Reg.FeP.RX_FRAMES.key p, Reg.FeP.TX_FRAMES.key p, Reg.FeP.FEC_CORR.key p, Reg.FeP.FEC_UNCORR.key p, Reg.FeP.FCS_ERR.key p, Reg.FeP.RX_DROP.key p, Reg.FeP.TCP_RETX.key p, Reg.FeP.PFC_SENT.key p] s t ∧ t = { s with rf := t.rf, el := t.el, fe := t.fe, conns := t.conns, ctrls := t.ctrls, cmds := t.cmds, units := t.units, ingress := t.ingress, reserved := t.reserved, zn := t.zn, sch := t.sch })

/-- Writing CONN_SEL leaves in VALID, PORT, ADMIN, CNTLID, QID and HOST_IDX what the selected connection is, and VALID 0 where no connection has that
index; no other field changes. -/
def Obligations.ConnectionSnapshot : Prop :=
  (∀ (s : State) (v : RegWord) (c : Conn), Live s → v.toNat < 4096 → nfind v.toNat s.conns = some c → c.port < 16 → c.cntlid < 65536 → Gives (.connSel v) s fun t =>
    t.get Reg.Fe.CONN_SEL = v.toNat ∧ t.get Reg.Fe.VALID = 1 ∧ t.get Reg.Fe.PORT = c.port ∧ t.get Reg.Fe.ADMIN = (if c.admin then 1 else 0) ∧ t.get Reg.Fe.CNTLID = c.cntlid ∧
    RegsBut [Reg.Fe.CONN_SEL.key 0, Reg.Fe.VALID.key 0, Reg.Fe.PORT.key 0, Reg.Fe.ADMIN.key 0, Reg.Fe.AUTH_DONE.key 0, Reg.Fe.HDGST.key 0, Reg.Fe.DDGST.key 0, Reg.Fe.CNTLID.key 0, Reg.Fe.QID.key 0, Reg.Fe.OUTSTANDING.key 0, Reg.Fe.HOST_IDX.key 0] s t ∧ t = { s with rf := t.rf }) ∧
  (∀ (s : State) (v : RegWord), Live s → nfind (v.toNat % 4096) s.conns = none → Gives (.connSel v) s fun t =>
    t.get Reg.Fe.VALID = 0 ∧ RegsBut [Reg.Fe.CONN_SEL.key 0, Reg.Fe.VALID.key 0, Reg.Fe.PORT.key 0, Reg.Fe.ADMIN.key 0, Reg.Fe.AUTH_DONE.key 0, Reg.Fe.HDGST.key 0, Reg.Fe.DDGST.key 0, Reg.Fe.CNTLID.key 0, Reg.Fe.QID.key 0, Reg.Fe.OUTSTANDING.key 0, Reg.Fe.HOST_IDX.key 0] s t ∧ t = { s with rf := t.rf })

/-- A valid ICReq on a new connection records the digests and limits it asks for and is answered by ICResp; a second ICReq terminates the connection, with
PROTO_TERM set and 0x9001 logged. A Connect that passes every row of Table 2.1 makes the connection a queue of its controller and completes with the
CNTLID: with QID 0 the lowest free CNTLID, for which a controller of that host now exists; otherwise the controller it names. -/
def Obligations.ConnectEstablishesControllers : Prop :=
  (∀ (s : State) (x : IcReq) (c : Conn), Live s → FreePath x.conn c s → c.icDone = false → x.pfv = 0 → x.headerOk = true → x.hpda ≤ 31 → (s.get Reg.Fe.REQ_HDGST = 0 ∨ x.hdgst = true) → (s.get Reg.Fe.REQ_DDGST = 0 ∨ x.ddgst = true) → Gives (.icreq x) s fun t =>
    nfind x.conn t.conns = some { c with icDone := true, hdgst := x.hdgst, ddgst := x.ddgst, hpda := x.hpda, maxR2t := x.maxR2t } ∧
    (∀ j, j ≠ x.conn → nfind j t.conns = nfind j s.conns) ∧ t.out = .icResp x.conn x.hdgst x.ddgst :: s.out ∧ t = { s with conns := t.conns, out := t.out }) ∧
  (∀ (s : State) (x : IcReq) (c : Conn), Live s → FreePath x.conn c s → c.icDone = true → Gives (.icreq x) s fun t =>
    t.get Reg.Fe.PROTO_TERM = 1 ∧ t.out = .c2hTerm x.conn fesSequence 0 :: s.out ∧ t.el.due = ⟨0x9001, 0, 0, opTimeOf s.core.opImp, s.core.cycles, x.conn, leBytes 2 fesSequence⟩ :: s.el.due ∧
    RegsBut [Reg.Fe.PROTO_TERM.key 0] s t ∧ Closed x.conn c { s with rf := t.rf, el := t.el, out := t.out } t) ∧
  (∀ (s : State) (x : ConnectCmd) (c : Conn) (host i : Nat), Live s → FreePath x.conn c s → c.icDone = true → c.connected = false → x.recfmt = 0 → hostIx s x.hostNqn = some host → connectBad x host s = none → x.qid = 0 → s.ctrls.length < 256 → freeCntlid s = some i → Gives (.connect x) s fun t =>
    nfind i t.ctrls = some { host := host, admin := x.conn, port := c.port, kato := katoMs x.kato, kaAt := s.core.imp } ∧ (∀ j, j ≠ i → nfind j t.ctrls = nfind j s.ctrls) ∧
    (∃ d, nfind x.conn t.conns = some d ∧ d = { c with connected := true, admin := true, cntlid := i, qid := 0, qsize := x.sqsize, host := host, authReq := d.authReq } ∧
      (s.get Reg.Fe.REQ_AUTH = 1 → d.authReq = true)) ∧
    (∀ j, j ≠ x.conn → nfind j t.conns = nfind j s.conns) ∧ (∃ a, t.out = .resp x.conn x.cid 0 0 (i + a) :: s.out) ∧ t = { s with conns := t.conns, ctrls := t.ctrls, out := t.out }) ∧
  (∀ (s : State) (x : ConnectCmd) (c : Conn) (host : Nat), Live s → FreePath x.conn c s → c.icDone = true → c.connected = false → x.recfmt = 0 → hostIx s x.hostNqn = some host → connectBad x host s = none → x.qid ≠ 0 → Gives (.connect x) s fun t =>
    t.ctrls = s.ctrls ∧ (∃ d, nfind x.conn t.conns = some d ∧ d = { c with connected := true, admin := false, cntlid := x.cntlid, qid := x.qid, qsize := x.sqsize, host := host, authReq := d.authReq } ∧
      (s.get Reg.Fe.REQ_AUTH = 1 → d.authReq = true)) ∧
    (∀ j, j ≠ x.conn → nfind j t.conns = nfind j s.conns) ∧ (∃ a, t.out = .resp x.conn x.cid 0 0 (x.cntlid + a) :: s.out) ∧ t = { s with conns := t.conns, out := t.out })

/-- Property Set of CC stores it, sets CFS for an enable with other than the accepted fields and clears it on a disable, and begins a shutdown; Property
Get returns the constant CAP and VS and the words of CC and CSTS; a shutdown is complete once no command of the controller but Asynchronous Event
Requests is outstanding; Keep Alive restarts the timer. Each completes with status 0 and leaves other controllers alone. -/
def Obligations.ControllerProperties : Prop :=
  (∀ (s : State) (h : CmdHdr) (c : Conn) (x : Ctrl) (v : CcValue), Live s → AdminReady h c s → nfind c.cntlid s.ctrls = some x → Gives (.propertySet h .cc v) s fun t =>
    (∃ y, nfind c.cntlid t.ctrls = some y ∧ y.cc = v ∧ y.cfs = (if v.en then x.cfs || !ccAccepted v else false) ∧
      y.shst = (if v.shn % 4 ≠ 0 ∧ x.cc.shn = 0 then 1 else x.shst) ∧ y = { x with cc := y.cc, cfs := y.cfs, shst := y.shst, rdy0 := y.rdy0, enAt := y.enAt }) ∧
    (∀ j, j ≠ c.cntlid → nfind j t.ctrls = nfind j s.ctrls) ∧ Completes h 0 0 0 [] s t ∧ t = { s with sch := t.sch, ctrls := t.ctrls, out := t.out }) ∧
  (∀ (s : State) (h : CmdHdr) (c : Conn) (x : Ctrl), Live s → AdminReady h c s → nfind c.cntlid s.ctrls = some x → Gives (.propertyGet h .cap) s fun t =>
    Completes h 0 0 (127 + 2 ^ 16 + 20 * 2 ^ 24 + 65 * 2 ^ 37) [] s t ∧ t = { s with sch := t.sch, out := t.out }) ∧
  (∀ (s : State) (h : CmdHdr) (c : Conn) (x : Ctrl), Live s → AdminReady h c s → nfind c.cntlid s.ctrls = some x → Gives (.propertyGet h .vs) s fun t =>
    Completes h 0 0 (0x00020000) [] s t ∧ t = { s with sch := t.sch, out := t.out }) ∧
  (∀ (s : State) (h : CmdHdr) (c : Conn) (x : Ctrl), Live s → AdminReady h c s → nfind c.cntlid s.ctrls = some x → Gives (.propertyGet h .cc) s fun t =>
    Completes h 0 0 (ccWord x.cc) [] s t ∧ t = { s with sch := t.sch, out := t.out }) ∧
  (∀ (s : State) (h : CmdHdr) (c : Conn) (x : Ctrl), Live s → AdminReady h c s → nfind c.cntlid s.ctrls = some x → Gives (.propertyGet h .csts) s fun t =>
    Completes h 0 0 ((if x.rdy s then 1 else 0) + (if x.cfs then 2 else 0) + x.shst * 4) [] s t ∧ t = { s with sch := t.sch, out := t.out }) ∧
  (∀ (s : State) (i : Nat) (x : Ctrl), Live s → nfind i s.ctrls = some x → x.shst = 1 → (∀ p ∈ s.cmds, p.2.silent = true ∨ p.2.op = .aer ∨ ∀ c, nfind (p.1 / 65536) s.conns = some c → c.cntlid ≠ i) → Gives (.shutdownComplete i) s fun t =>
    nfind i t.ctrls = some { x with shst := 2 } ∧ (∀ j, j ≠ i → nfind j t.ctrls = nfind j s.ctrls) ∧ t = { s with ctrls := t.ctrls }) ∧
  (∀ (s : State) (h : CmdHdr) (c : Conn) (x : Ctrl), Live s → AdminReady h c s → nfind c.cntlid s.ctrls = some x → Gives (.keepAlive h) s fun t =>
    nfind c.cntlid t.ctrls = some { x with kaAt := s.core.imp } ∧ (∀ j, j ≠ c.cntlid → nfind j t.ctrls = nfind j s.ctrls) ∧ Completes h 0 0 0 [] s t ∧ t = { s with sch := t.sch, ctrls := t.ctrls, out := t.out })

/-- Set Features with feature 0x07 grants at most 63 + 1 queues of each kind and returns the numbers granted, 0x0B stores the event configuration, 0x0F
stores the keep-alive time rounded up to 100 ms and restarts the timer; Get Features returns them; another feature is an Invalid Field, and a save is
refused with 1/0x0D. An Asynchronous Event Request while fewer than four wait is kept without completion; a fifth is refused with 1/0x05. -/
def Obligations.FeaturesAndEvents : Prop :=
  (∀ (s : State) (h : CmdHdr) (c : Conn) (x : Ctrl) (v : Nat), Live s → AdminReady h c s → nfind c.cntlid s.ctrls = some x → Gives (.setFeatures h 0x07 false v) s fun t =>
    nfind c.cntlid t.ctrls = some { x with queues := min (min (v % 65536) 63) (min (v / 65536) 63) + 1 } ∧ (∀ j, j ≠ c.cntlid → nfind j t.ctrls = nfind j s.ctrls) ∧ Completes h 0 0 (min (v % 65536) 63 + min (v / 65536) 63 * 65536) [] s t ∧ t = { s with sch := t.sch, ctrls := t.ctrls, out := t.out }) ∧
  (∀ (s : State) (h : CmdHdr) (c : Conn) (x : Ctrl) (v : Nat), Live s → AdminReady h c s → nfind c.cntlid s.ctrls = some x → Gives (.setFeatures h 0x0B false v) s fun t =>
    nfind c.cntlid t.ctrls = some { x with aec := v } ∧ (∀ j, j ≠ c.cntlid → nfind j t.ctrls = nfind j s.ctrls) ∧ Completes h 0 0 (0) [] s t ∧ t = { s with sch := t.sch, ctrls := t.ctrls, out := t.out }) ∧
  (∀ (s : State) (h : CmdHdr) (c : Conn) (x : Ctrl) (v : Nat), Live s → AdminReady h c s → nfind c.cntlid s.ctrls = some x → Gives (.setFeatures h 0x0F false v) s fun t =>
    nfind c.cntlid t.ctrls = some { x with kato := (v + 99) / 100 * 100, kaAt := s.core.imp } ∧ (∀ j, j ≠ c.cntlid → nfind j t.ctrls = nfind j s.ctrls) ∧ Completes h 0 0 (0) [] s t ∧ t = { s with sch := t.sch, ctrls := t.ctrls, out := t.out }) ∧
  (∀ (s : State) (h : CmdHdr) (c : Conn) (fid v : Nat), Live s → AdminReady h c s → (fid = 0x07 ∨ fid = 0x0B ∨ fid = 0x0F) → Gives (.setFeatures h fid true v) s fun t =>
    Completes h 1 0x0D 0 [] s t ∧ t = { s with sch := t.sch, ctrls := t.ctrls, out := t.out }) ∧
  (∀ (s : State) (h : CmdHdr) (c : Conn) (x : Ctrl), Live s → AdminReady h c s → nfind c.cntlid s.ctrls = some x → Gives (.getFeatures h 0x07) s fun t =>
    Completes h 0 0 ((x.queues - 1) * 65537) [] s t ∧ t = { s with sch := t.sch, out := t.out }) ∧
  (∀ (s : State) (h : CmdHdr) (c : Conn) (x : Ctrl), Live s → AdminReady h c s → nfind c.cntlid s.ctrls = some x → Gives (.getFeatures h 0x0B) s fun t =>
    Completes h 0 0 (x.aec) [] s t ∧ t = { s with sch := t.sch, out := t.out }) ∧
  (∀ (s : State) (h : CmdHdr) (c : Conn) (x : Ctrl), Live s → AdminReady h c s → nfind c.cntlid s.ctrls = some x → Gives (.getFeatures h 0x0F) s fun t =>
    Completes h 0 0 (x.kato) [] s t ∧ t = { s with sch := t.sch, out := t.out }) ∧
  (∀ (s : State) (h : CmdHdr) (c : Conn) (x : Ctrl), Live s → AdminReady h c s → nfind c.cntlid s.ctrls = some x → x.aers.length < 4 → Gives (.asynchronousEventRequest h) s fun t =>
    nfind c.cntlid t.ctrls = some { x with aers := x.aers ++ [h.cid] } ∧ (∀ j, j ≠ c.cntlid → nfind j t.ctrls = nfind j s.ctrls) ∧
    (∃ k, nfind (cmdKey h.conn h.cid) t.cmds = some k ∧ k.op = .aer) ∧ (∀ j, j ≠ cmdKey h.conn h.cid → nfind j t.cmds = nfind j s.cmds) ∧ t = { s with sch := t.sch, ctrls := t.ctrls, cmds := t.cmds })

/-- Authentication Send completes with status 0; an accepted message authenticates the connection, and a rejected one, as every message of a host without
a secret, sets AUTH_FAIL, logs 0x9002 with the host index and begins the second after which the connection closes. Authentication Receive returns the
message of the module once. -/
def Obligations.Authentication : Prop :=
  (∀ (s : State) (h : CmdHdr) (c : Conn) (msg : Nat), Live s → FreePath h.conn c s → c.icDone = true → c.connected = true → nfind (cmdKey h.conn h.cid) s.cmds = none → secretsOf s c.host = none → Gives (.authenticationSend h msg) s fun t =>
    t.get Reg.Fe.AUTH_FAIL = 1 ∧ t.el.due = ⟨0x9002, 0, 0, opTimeOf s.core.opImp, s.core.cycles, h.conn, [c.host]⟩ :: s.el.due ∧ (∃ d, nfind h.conn t.conns = some d ∧ d.authFailAt = some s.core.imp ∧ d = { c with authFailAt := d.authFailAt, authMsg := d.authMsg }) ∧
    (∀ j, j ≠ h.conn → nfind j t.conns = nfind j s.conns) ∧ Completes h 0 0 0 [] s t ∧ RegsBut [Reg.Fe.AUTH_FAIL.key 0] s t ∧ t = { s with rf := t.rf, el := t.el, conns := t.conns, out := t.out }) ∧
  (∀ (s : State) (h : CmdHdr) (c : Conn) (msg : Nat) (x : Secret), Live s → FreePath h.conn c s → c.icDone = true → c.connected = true → nfind (cmdKey h.conn h.cid) s.cmds = none → secretsOf s c.host = some x → Gives (.authenticationSend h msg) s fun t =>
    Completes h 0 0 0 [] s t ∧ (Config.chapAccepts x.host x.ctrl msg = some true → ∃ d, nfind h.conn t.conns = some d ∧ d.authDone = true) ∧
    (Config.chapAccepts x.host x.ctrl msg = some false → t.get Reg.Fe.AUTH_FAIL = 1 ∧ ∃ d, nfind h.conn t.conns = some d ∧ d.authFailAt = some s.core.imp) ∧
    (∀ j, j ≠ h.conn → nfind j t.conns = nfind j s.conns) ∧ RegsBut [Reg.Fe.AUTH_FAIL.key 0] s t ∧ t = { s with rf := t.rf, el := t.el, conns := t.conns, out := t.out }) ∧
  (∀ (s : State) (h : CmdHdr) (c : Conn) (m : Nat), Live s → FreePath h.conn c s → c.icDone = true → c.connected = true → nfind (cmdKey h.conn h.cid) s.cmds = none → c.authMsg = some m → Gives (.authenticationReceive h) s fun t =>
    nfind h.conn t.conns = some { c with authMsg := none } ∧ (∀ j, j ≠ h.conn → nfind j t.conns = nfind j s.conns) ∧
    (∃ b, b.length = h.len ∧ b = (leBytes h.len m).take h.len ∧ Completes h 0 0 0 [.c2hBytes h.conn h.cid b] s t) ∧ t = { s with conns := t.conns, out := t.out })

/-- Get Log Page 0x02 returns SMART / Health Information, 0xC0 the front-end port status, 0x04 the changed namespaces and 0xBF the changed zones of a
namespace, which the read clears; Identify with CNS 0x01 returns the controller structure; each sends the bytes from the offset, zeros beyond the end,
then status 0. A log page or structure the module does not have is an Invalid Field. -/
def Obligations.LogPagesAndIdentify : Prop :=
  (∀ (s : State) (h : CmdHdr) (c : Conn) (x : Ctrl) (off : Nat), Live s → AdminReady h c s → nfind c.cntlid s.ctrls = some x → Gives (.getLogPage h 0x02 off) s fun t =>
    Completes h 0 0 0 [.c2hBytes h.conn h.cid ((((smartPage s).drop off).take h.len) ++ List.replicate (h.len - (((smartPage s).drop off).take h.len).length) 0)] s t ∧ t = { s with sch := t.sch, out := t.out }) ∧
  (∀ (s : State) (h : CmdHdr) (c : Conn) (x : Ctrl) (off : Nat), Live s → AdminReady h c s → nfind c.cntlid s.ctrls = some x → Gives (.getLogPage h 0xC0 off) s fun t =>
    Completes h 0 0 0 [.c2hBytes h.conn h.cid ((((portPage s).drop off).take h.len) ++ List.replicate (h.len - (((portPage s).drop off).take h.len).length) 0)] s t ∧ t = { s with sch := t.sch, out := t.out }) ∧
  (∀ (s : State) (h : CmdHdr) (c : Conn) (x : Ctrl) (off : Nat), Live s → AdminReady h c s → nfind c.cntlid s.ctrls = some x → Gives (.getLogPage h 0x04 off) s fun t =>
    Completes h 0 0 0 [.c2hBytes h.conn h.cid ((((x.changedNs.flatMap fun n => leBytes 4 (n + 1)).drop off).take h.len) ++ List.replicate (h.len - (((x.changedNs.flatMap fun n => leBytes 4 (n + 1)).drop off).take h.len).length) 0)] s t ∧ nfind c.cntlid t.ctrls = some { x with changedNs := [] } ∧ (∀ j, j ≠ c.cntlid → nfind j t.ctrls = nfind j s.ctrls) ∧ t = { s with sch := t.sch, ctrls := t.ctrls, out := t.out }) ∧
  (∀ (s : State) (h : CmdHdr) (c : Conn) (x : Ctrl) (off : Nat), Live s → AdminReady h c s → nfind c.cntlid s.ctrls = some x → 1 ≤ h.nsid → h.nsid < 0xFFFFFFFF → Gives (.getLogPage h 0xBF off) s fun t =>
    Completes h 0 0 0 [.c2hBytes h.conn h.cid ((((changedPage s x (h.nsid - 1)).drop off).take h.len) ++ List.replicate (h.len - (((changedPage s x (h.nsid - 1)).drop off).take h.len).length) 0)] s t ∧ nfind c.cntlid t.ctrls = some { x with changed := x.changed.filter fun e => e.1 != h.nsid - 1 } ∧ (∀ j, j ≠ c.cntlid → nfind j t.ctrls = nfind j s.ctrls) ∧ t = { s with sch := t.sch, ctrls := t.ctrls, out := t.out }) ∧
  (∀ (s : State) (h : CmdHdr) (c : Conn) (x : Ctrl) (off : Nat), Live s → AdminReady h c s → nfind c.cntlid s.ctrls = some x → Gives (.getLogPage h 0x05 off) s fun t =>
    Completes h 0 0x02 0 [] s t ∧ t = { s with sch := t.sch, ctrls := t.ctrls, out := t.out }) ∧
  (∀ (s : State) (h : CmdHdr) (c : Conn) (csi : Nat), Live s → AdminReady h c s → h.len = 4096 → Gives (.identify h 0x01 csi) s fun t =>
    Completes h 0 0 0 [.c2hBytes h.conn h.cid ((((idController s c.cntlid).drop 0).take h.len) ++ List.replicate (h.len - (((idController s c.cntlid).drop 0).take h.len).length) 0)] s t ∧ t = { s with sch := t.sch, out := t.out }) ∧
  (∀ (s : State) (h : CmdHdr) (c : Conn) (cns csi : Nat), Live s → AdminReady h c s → h.len = 4096 → 8 < cns → Gives (.identify h cns csi) s fun t =>
    Completes h 0 0x02 0 [] s t ∧ t = { s with sch := t.sch, ctrls := t.ctrls, out := t.out }) ∧
  (∀ (s : State) (h : CmdHdr) (c : Conn), Live s → AdminReady h c s → Gives (.securityProtocolList h 0) s fun t =>
    Completes h 0 0 0 [.c2hBytes h.conn h.cid (((([0, 0, 0, 0, 0, 0, 0, 2, 0x00, 0xF0]).drop 0).take h.len) ++ List.replicate (h.len - ((([0, 0, 0, 0, 0, 0, 0, 2, 0x00, 0xF0]).drop 0).take h.len).length) 0)] s t ∧ t = { s with sch := t.sch, out := t.out }) ∧
  (∀ (s : State) (h : CmdHdr) (c : Conn) (sp : Nat), Live s → AdminReady h c s → sp ≠ 0 → Gives (.securityProtocolList h sp) s fun t =>
    Completes h 0 0x02 0 [] s t ∧ t = { s with sch := t.sch, ctrls := t.ctrls, out := t.out }) ∧
  (∀ (s : State) (h : CmdHdr) (c : Conn) (admin : Bool) (op : Nat), Live s → FreePath h.conn c s → c.icDone = true → c.connected = true → Gives (.invalidCommandOpcode h admin op) s fun t =>
    Completes h 0 0x01 0 [] s t ∧ t = { s with ctrls := t.ctrls, out := t.out })

/-- A nonce request with the generator healthy returns the next random output and keeps the last 64 nonces. A reset permit that names an evidence zone
which is neither Empty nor Offline and has no permit waiting, with this module’s serial and a nonce that is outstanding, consumes the nonce; if its
signature verifies it waits for PERMIT_RESET without completing, and if not it is refused with 2/0x86, counted, PERMIT_FAIL is set and 0xA002 logged.
A damage statement is returned for the zone of the last request. -/
def Obligations.PermitsAndDamageStatements : Prop :=
  (∀ (s : State) (h : CmdHdr) (c : Conn), Live s → AdminReady h c s → h.len = 16 → s.get Reg.Sec.RNG_FAIL = 0 → Gives (.nonceRequest h) s fun t =>
    t.zn.nonces = (s.zn.nonces ++ [Config.drbg s.core.rngCount % 2 ^ 128]).drop (s.zn.nonces.length + 1 - 64) ∧ t.core = { s.core with rngCount := s.core.rngCount + 1 } ∧
    Completes h 0 0 0 [.c2hBytes h.conn h.cid (leBytes 16 (Config.drbg s.core.rngCount % 2 ^ 128))] s t ∧ t.zn = { s.zn with nonces := t.zn.nonces } ∧ t = { s with core := t.core, sch := t.sch, zn := t.zn, out := t.out }) ∧
  (∀ (s : State) (h : CmdHdr) (c : Conn), Live s → AdminReady h c s → h.len = 16 → s.get Reg.Sec.RNG_FAIL = 1 → Gives (.nonceRequest h) s fun t =>
    Completes h 0 0x06 0 [] s t ∧ t = { s with sch := t.sch, ctrls := t.ctrls, out := t.out }) ∧
  (∀ (s : State) (h : CmdHdr) (c : Conn) (x : Permit), Live s → AdminReady h c s → x.len = 160 → x.magicOk = true → x.versionOk = true → 1 ≤ x.nsid → nsEvidence s (x.nsid - 1) = true → x.zoneStart % zsze s (x.nsid - 1) = 0 → x.zoneStart / zsze s (x.nsid - 1) < zoneCount s (x.nsid - 1) → x.serial = leValue serialBytes → x.nonce ∈ s.zn.nonces → (s.zone (zoneKey (x.nsid - 1) (x.zoneStart / zsze s (x.nsid - 1)))).permit = none → (s.zone (zoneKey (x.nsid - 1) (x.zoneStart / zsze s (x.nsid - 1)))).st ≠ .empty → (s.zone (zoneKey (x.nsid - 1) (x.zoneStart / zsze s (x.nsid - 1)))).st ≠ .offline → Gives (.resetPermit h x) s fun t =>
    t.zn.nonces = s.zn.nonces.erase x.nonce ∧
    (Config.ecdsaP384Verify (((imgOf s).bind (·.fleet)).getD 0) (Config.sha384 (permitHead x)) x.sigR x.sigS = true →
      t.zone (zoneKey (x.nsid - 1) (x.zoneStart / zsze s (x.nsid - 1))) = { s.zone (zoneKey (x.nsid - 1) (x.zoneStart / zsze s (x.nsid - 1))) with permit := some (x.nonce, cmdKey h.conn h.cid) } ∧
      (∃ k, nfind (cmdKey h.conn h.cid) t.cmds = some k ∧ k.op = .permit ∧ k.nonce = x.nonce) ∧ t = { s with sch := t.sch, zn := t.zn, cmds := t.cmds }) ∧
    (Config.ecdsaP384Verify (((imgOf s).bind (·.fleet)).getD 0) (Config.sha384 (permitHead x)) x.sigR x.sigS = false →
      t.get Reg.Zn.PERMIT_FAIL = 1 ∧ t.el.due = ⟨0xA002, 0, 0, opTimeOf s.core.opImp, s.core.cycles, (x.nsid - 1), leBytes 8 x.zoneStart ++ [4]⟩ :: s.el.due ∧ Completes h 2 0x86 0 [] s t ∧
      ngetD 48 0 t.zn.cnt = ngetD 48 0 s.zn.cnt + 1 ∧ RegsBut [Reg.Zn.PERMIT_FAIL.key 0] s t ∧ t = { s with rf := t.rf, el := t.el, sch := t.sch, zn := t.zn, ctrls := t.ctrls, out := t.out })) ∧
  (∀ (s : State) (h : CmdHdr) (c : Conn) (x : Ctrl) (start chal : Nat), Live s → AdminReady h c s → nfind c.cntlid s.ctrls = some x → h.len = 32 → 1 ≤ h.nsid → nsZoned s (h.nsid - 1) = true → start % zsze s (h.nsid - 1) = 0 → start / zsze s (h.nsid - 1) < zoneCount s (h.nsid - 1) → (s.zone (zoneKey (h.nsid - 1) (start / zsze s (h.nsid - 1)))).sealed = true → Gives (.damageStatementRequest h start chal) s fun t =>
    nfind c.cntlid t.ctrls = some { x with dmg := some (h.nsid - 1, start / zsze s (h.nsid - 1), chal) } ∧ (∀ j, j ≠ c.cntlid → nfind j t.ctrls = nfind j s.ctrls) ∧ Completes h 0 0 0 [] s t ∧ t = { s with sch := t.sch, ctrls := t.ctrls, out := t.out }) ∧
  (∀ (s : State) (h : CmdHdr) (c : Conn) (x : Ctrl) (n z chal : Nat), Live s → AdminReady h c s → nfind c.cntlid s.ctrls = some x → h.len = 4096 → x.dmg = some (n, z, chal) → Gives (.damageStatementReceive h) s fun t =>
    Completes h 0 0 0 [.c2hBytes h.conn h.cid ((((damageStatement s n z chal).drop 0).take h.len) ++ List.replicate (h.len - (((damageStatement s n z chal).drop 0).take h.len).length) 0)] s t ∧ t = { s with sch := t.sch, out := t.out })

/-- A Write to a conventional namespace, without in-capsule data, becomes an outstanding command of which nothing is admitted or received, and its first
unit of at most 32 blocks (31 with protection information) waits for admission; one beyond the namespace completes with 0/0x80. A Zone Append to an
open zone with room does so too and reserves its length in the zone; one beyond the writable capacity completes with 1/0xB8. -/
def Obligations.WriteIntake : Prop :=
  (∀ (s : State) (x : IoCmd) (c : Conn), Live s → IoReady x c false s → x.hdr.inCapsule = 0 → Gives (.write x) s fun t =>
    (∃ k, nfind (cmdKey x.hdr.conn x.hdr.cid) t.cmds = some k ∧ k.op = .write ∧ k.ns = x.hdr.nsid - 1 ∧ k.slba = x.slba ∧ k.nlb = x.nlb ∧ k.adm = 0 ∧ k.got = 0 ∧ k.ready = false) ∧
    (∀ j, j ≠ cmdKey x.hdr.conn x.hdr.cid → nfind j t.cmds = nfind j s.cmds) ∧
    (∃ u, t.units = s.units ++ [u] ∧ u.cmd = cmdKey x.hdr.conn x.hdr.cid ∧ u.conn = cmdKey x.hdr.conn x.hdr.cid / 65536 ∧ u.blocks = min x.nlb (if wireOf x.pi = 4104 then 31 else 32)) ∧ t = { s with sch := t.sch, cmds := t.cmds, units := t.units, seq := t.seq }) ∧
  (∀ (s : State) (x : IoCmd) (c : Conn), Live s → FreePath x.hdr.conn c s → c.icDone = true → c.connected = true → c.admin = false → nfind (cmdKey x.hdr.conn x.hdr.cid) s.cmds = none → c.authReq = false → checkNs false x.hdr c s = none → nsZoned s (x.hdr.nsid - 1) = false → x.hdr.len = x.nlb * wireOf x.pi → x.hdr.len ≤ 1048576 → x.hdr.inCapsule = 0 → nsSize s (x.hdr.nsid - 1) < x.slba + x.nlb → Gives (.write x) s fun t =>
    t.out = .resp x.hdr.conn x.hdr.cid 0 0x80 0 :: s.out ∧ t = { s with ctrls := t.ctrls, out := t.out }) ∧
  (∀ (s : State) (x : IoCmd) (c : Conn), Live s → IoReady x c true s → x.hdr.inCapsule = 0 → x.slba % zsze s (x.hdr.nsid - 1) = 0 → (s.zone (zoneKey (x.hdr.nsid - 1) (x.slba / zsze s (x.hdr.nsid - 1)))).st = .explicit → (s.zone (zoneKey (x.hdr.nsid - 1) (x.slba / zsze s (x.hdr.nsid - 1)))).sealing = none → (s.zone (zoneKey (x.hdr.nsid - 1) (x.slba / zsze s (x.hdr.nsid - 1)))).pend = none → (s.zone (zoneKey (x.hdr.nsid - 1) (x.slba / zsze s (x.hdr.nsid - 1)))).permit = none → (s.zone (zoneKey (x.hdr.nsid - 1) (x.slba / zsze s (x.hdr.nsid - 1)))).fill + (s.zone (zoneKey (x.hdr.nsid - 1) (x.slba / zsze s (x.hdr.nsid - 1)))).reserved + x.nlb ≤ zsze s (x.hdr.nsid - 1) - (if nsEvidence s (x.hdr.nsid - 1) then 1 else 0) → Gives (.zoneAppend x) s fun t =>
    (∃ k, nfind (cmdKey x.hdr.conn x.hdr.cid) t.cmds = some k ∧ k.op = .append ∧ k.nlb = x.nlb ∧ k.adm = 0 ∧ k.got = 0 ∧ k.assigned = none ∧ k.held = false) ∧
    (∀ j, j ≠ cmdKey x.hdr.conn x.hdr.cid → nfind j t.cmds = nfind j s.cmds) ∧
    (∃ u, t.units = s.units ++ [u] ∧ u.cmd = cmdKey x.hdr.conn x.hdr.cid ∧ u.blocks = min x.nlb (if wireOf x.pi = 4104 then 31 else 32)) ∧
    t.zone (zoneKey (x.hdr.nsid - 1) (x.slba / zsze s (x.hdr.nsid - 1))) = { s.zone (zoneKey (x.hdr.nsid - 1) (x.slba / zsze s (x.hdr.nsid - 1))) with reserved := (s.zone (zoneKey (x.hdr.nsid - 1) (x.slba / zsze s (x.hdr.nsid - 1)))).reserved + x.nlb } ∧ (∀ z, z ≠ zoneKey (x.hdr.nsid - 1) (x.slba / zsze s (x.hdr.nsid - 1)) → t.zone z = s.zone z) ∧ t = { s with sch := t.sch, cmds := t.cmds, units := t.units, seq := t.seq, zn := t.zn }) ∧
  (∀ (s : State) (x : IoCmd) (c : Conn), Live s → IoReady x c true s → x.hdr.inCapsule = 0 → x.slba % zsze s (x.hdr.nsid - 1) = 0 → (s.zone (zoneKey (x.hdr.nsid - 1) (x.slba / zsze s (x.hdr.nsid - 1)))).st = .explicit → (s.zone (zoneKey (x.hdr.nsid - 1) (x.slba / zsze s (x.hdr.nsid - 1)))).sealing = none → (s.zone (zoneKey (x.hdr.nsid - 1) (x.slba / zsze s (x.hdr.nsid - 1)))).pend = none → (s.zone (zoneKey (x.hdr.nsid - 1) (x.slba / zsze s (x.hdr.nsid - 1)))).permit = none → zsze s (x.hdr.nsid - 1) - (if nsEvidence s (x.hdr.nsid - 1) then 1 else 0) < (s.zone (zoneKey (x.hdr.nsid - 1) (x.slba / zsze s (x.hdr.nsid - 1)))).fill + (s.zone (zoneKey (x.hdr.nsid - 1) (x.slba / zsze s (x.hdr.nsid - 1)))).reserved + x.nlb → x.hdr.cid < 65536 → Gives (.zoneAppend x) s fun t =>
    t.out = .resp x.hdr.conn x.hdr.cid 1 0xB8 0 :: s.out ∧ nfind (cmdKey x.hdr.conn x.hdr.cid) t.cmds = none ∧ t.zn = s.zn ∧ t.units = s.units.filter (fun u => u.cmd != cmdKey x.hdr.conn x.hdr.cid))

/-- Admission of the last unit of a command that nothing holds back, first in the order of tags, with room under the ceiling and frames, takes it from the
units, counts its blocks as admitted and takes the write-through decision; in another module state it has no effect. Ready-to-Transfer asks for the
next admitted blocks, reserves their bytes and leaves by the connection. Data of a Ready-to-Transfer that does not complete the command is kept. An
append whose data is whole takes the write pointer as its LBA. A command whose data is stored completes with its LBA and is gone. -/
def Obligations.WriteProgress : Prop :=
  (∀ (s : State) (conn cid : Nat) (u : AdmUnit) (c : Cmd), Live s → s.units.find? (fun v => v.cmd == cmdKey conn cid) = some u → nfind (cmdKey conn cid) s.cmds = some c → (s.core.mode = .pressRun ∨ s.core.mode = .hold) → heldBack s u = false → (s.units.all fun v => v == u || heldBack s v || unitLe u v) = true → roomFor (c.wt || writeThrough s) u.blocks s = true → framesFor c u.blocks s = true → c.inCap = false → c.adm + u.blocks = c.nlb → Gives (.admission conn cid) s fun t =>
    nfind (cmdKey conn cid) t.cmds = some { c with adm := c.nlb, wt := c.wt || writeThrough s, begun := true } ∧ (∀ j, j ≠ cmdKey conn cid → nfind j t.cmds = nfind j s.cmds) ∧
    t.units = s.units.filter (fun v => v.cmd != cmdKey conn cid) ∧ t.out = s.out ∧ t = { s with sch := t.sch, cmds := t.cmds, units := t.units }) ∧
  (∀ (s : State) (conn cid : Nat), Live s → s.core.mode ≠ .pressRun → s.core.mode ≠ .hold → NoEffect (.admission conn cid) s) ∧
  (∀ (s : State) (conn cid : Nat) (x : Conn) (c : Cmd) (n : Nat), Live s → FreePath conn x s → nfind (cmdKey conn cid) s.cmds = some c → n = min (c.adm - c.asked) (if c.wire = 4104 then 31 else 32) → 0 < n → c.inCap = false → c.bad = none → c.r2ts.length < min 4 (x.maxR2t + 1) → s.ingress + s.reserved + n * c.wire ≤ 3145728 → Gives (.readyToTransferRelease conn cid) s fun t =>
    nfind (cmdKey conn cid) t.cmds = some { c with asked := c.asked + n, r2ts := c.r2ts ++ [(c.asked, n, 0)] } ∧ (∀ j, j ≠ cmdKey conn cid → nfind j t.cmds = nfind j s.cmds) ∧
    t.out = .r2t conn cid (c.asked * c.wire) (n * c.wire) :: s.out ∧ t.reserved = s.reserved + n * c.wire ∧ t = { s with sch := t.sch, cmds := t.cmds, reserved := t.reserved, out := t.out }) ∧
  (∀ (s : State) (x : H2cData) (cn : Conn) (c : Cmd) (first len got : Nat), Live s → nfind x.conn s.conns = some cn → cn.icDone = true → x.inSequence = true → x.headerOk = true → cn.hdgst = false → cn.ddgst = false → x.len ≤ 131072 → nfind (cmdKey x.conn x.cid) s.cmds = some c → c.r2ts = [(first, len, got)] → 0 < c.wire → x.offset = (first + got) * c.wire → x.len = x.blocks.length * c.wire → 0 < x.blocks.length → got + x.blocks.length < len → c.bad = none → (c.pi.bind fun pi => piFail pi (first + got) x.blocks) = none → c.got + x.blocks.length < c.nlb → Gives (.h2cdata x) s fun t =>
    (∃ k, nfind (cmdKey x.conn x.cid) t.cmds = some k ∧ k = { c with got := c.got + x.blocks.length, r2ts := [(first, len, got + x.blocks.length)], blocks := k.blocks } ∧
      (∀ b, x.blocks = [b] → nfind (first + got) k.blocks = some b.data)) ∧
    (∀ j, j ≠ cmdKey x.conn x.cid → nfind j t.cmds = nfind j s.cmds) ∧ t.out = s.out ∧ t = { s with cmds := t.cmds }) ∧
  (∀ (s : State) (conn cid : Nat) (c : Cmd) (at_ : Nat), Live s → cid < 65536 → nfind (cmdKey conn cid) s.cmds = some c → c.op = .write → c.storedAt = some at_ → c.wt = false → c.silent = false → c.r2ts = [] → c.inCap = false → heldPdu s conn = false → (∃ x, nfind conn s.conns = some x ∧ (s.fePort x.port).pause = none) → Gives (.writeCompletionRelease conn cid) s fun t =>
    t.cmds = ndel (cmdKey conn cid) s.cmds ∧ t.out = .resp conn cid 0 0 (c.assigned.getD 0) :: s.out ∧ t = { s with cmds := t.cmds, units := t.units, out := t.out }) ∧
  (∀ (s : State) (conn cid : Nat) (c : Cmd) (u : State), Live s → nfind (cmdKey conn cid) s.cmds = some c → c.op = .append → c.ready = true → c.assigned = none → c.wt = false → nextToAssign (cmdKey conn cid) c s = true → nsEvidence s c.ns = false → land (nsSig s c.ns) true c.wt (c.blocks.map fun b => (zoneLbn s (c.zone s) + (s.zone (c.zone s)).fill + b.1, b.2)) s = some u → u.zn = s.zn → u.img = s.img → u.cmds = s.cmds → u.rf = s.rf → (s.zone (c.zone s)).fill + c.nlb < zsze s c.ns → 0 < s.get Reg.Fount.CEILING → Gives (.appendAssign conn cid) s fun t =>
    (t.zone (c.zone s)).fill = (s.zone (c.zone s)).fill + c.nlb ∧ (t.zone (c.zone s)).reserved = (s.zone (c.zone s)).reserved - c.nlb ∧ (t.zone (c.zone s)).lastWrite = s.core.imp ∧ (t.zone (c.zone s)).st = (s.zone (c.zone s)).st ∧
    (∃ k, nfind (cmdKey conn cid) t.cmds = some k ∧ k.assigned = some (zoneLbn s (c.zone s) + (s.zone (c.zone s)).fill - nsStart s c.ns) ∧ k.storedAt = some s.core.imp) ∧
    (∀ j, j ≠ cmdKey conn cid → nfind j t.cmds = nfind j s.cmds) ∧ (∀ z, z ≠ c.zone s → t.zone z = s.zone z) ∧ t = { u with zn := t.zn, cmds := t.cmds })

/-- On a zone with nothing in progress and a ceiling above 0: Open of a closed zone, with room in the open-zone table, makes it Explicitly Opened in the
free entry. Close of an open zone, and Finish of an active one without evidence protection, with reserved length 0, make it Closed or Full and give
back its entry. Finish of one with evidence protection begins its seal and is not completed. Reset without evidence protection returns the write
pointer to the start; with it, Reset of a zone not empty completes with 1/0xBF. Offline takes a read-only zone without evidence protection to Offline.
Each completes with 0/0 and changes no other zone. -/
def Obligations.ZoneActions : Prop :=
  (∀ (s : State) (x : ZoneCmd) (c : Conn) (k : Nat), Live s → ZoneReady x c k s → 0 < s.get Reg.Fount.CEILING → (s.zone k).st = .closed → openZones s < 65536 → Gives (.zoneOpen x) s fun t =>
    Completes x.hdr 0 0 0 [] s t ∧ t.zone k = { s.zone k with st := .explicit, slot := some (freeSlot s), key := nsSig s (k / 2 ^ 32) } ∧ (∀ j, j ≠ k → t.zone j = s.zone j) ∧ t = { s with sch := t.sch, zn := t.zn, ctrls := t.ctrls, out := t.out }) ∧
  (∀ (s : State) (x : ZoneCmd) (c : Conn) (k : Nat), Live s → ZoneReady x c k s → 0 < s.get Reg.Fount.CEILING → (s.zone k).isOpen = true → (s.zone k).reserved = 0 → Gives (.zoneClose x) s fun t =>
    Completes x.hdr 0 0 0 [] s t ∧ t.zone k = { s.zone k with st := .closed, slot := none, pend := none } ∧ (∀ j, j ≠ k → t.zone j = s.zone j) ∧ t = { s with sch := t.sch, zn := t.zn, ctrls := t.ctrls, out := t.out, cs := t.cs, sigs := t.sigs }) ∧
  (∀ (s : State) (x : ZoneCmd) (c : Conn) (k : Nat), Live s → ZoneReady x c k s → 0 < s.get Reg.Fount.CEILING → (s.zone k).isActive = true → (s.zone k).reserved = 0 → nsEvidence s (k / 2 ^ 32) = false → Gives (.zoneFinish x) s fun t =>
    Completes x.hdr 0 0 0 [] s t ∧ t.zone k = { s.zone k with st := .full, slot := none, pend := none } ∧ (∀ j, j ≠ k → t.zone j = s.zone j) ∧ t = { s with sch := t.sch, zn := t.zn, ctrls := t.ctrls, out := t.out, cs := t.cs, sigs := t.sigs }) ∧
  (∀ (s : State) (x : ZoneCmd) (c : Conn) (k : Nat), Live s → ZoneReady x c k s → (s.zone k).st ≠ .readOnly → (s.zone k).st ≠ .offline → (s.zone k).st ≠ .full → nsEvidence s (k / 2 ^ 32) = true → Gives (.zoneFinish x) s fun t =>
    t.out = s.out ∧ t.zone k = { s.zone k with sealing := some { auto := false } } ∧ (∀ j, j ≠ k → t.zone j = s.zone j) ∧ (∃ w, nfind (cmdKey x.hdr.conn x.hdr.cid) t.cmds = some w ∧ w.op = .finish ∧ w.zones = [k]) ∧ (∀ j, j ≠ cmdKey x.hdr.conn x.hdr.cid → nfind j t.cmds = nfind j s.cmds) ∧ t = { s with sch := t.sch, zn := t.zn, cmds := t.cmds }) ∧
  (∀ (s : State) (x : ZoneCmd) (c : Conn) (k : Nat), Live s → ZoneReady x c k s → 0 < s.get Reg.Fount.CEILING → ((s.zone k).st = .full ∨ (s.zone k).isActive = true) → (s.zone k).reserved = 0 → nsEvidence s (k / 2 ^ 32) = false → Gives (.zoneReset x) s fun t =>
    Completes x.hdr 0 0 0 [] s t ∧ t.zone k = { lastWrite := (s.zone k).lastWrite, resets := (s.zone k).resets } ∧ (∀ j, j ≠ k → t.zone j = s.zone j) ∧ t = { s with sch := t.sch, zn := t.zn, ctrls := t.ctrls, out := t.out, cs := t.cs, sigs := t.sigs, el := t.el }) ∧
  (∀ (s : State) (x : ZoneCmd) (c : Conn) (k : Nat), Live s → ZoneReady x c k s → (s.zone k).st ≠ .empty → nsEvidence s (k / 2 ^ 32) = true → Gives (.zoneReset x) s fun t =>
    Completes x.hdr 1 0xBF 0 [] s t ∧ t.zn = s.zn ∧ t = { s with sch := t.sch, ctrls := t.ctrls, out := t.out }) ∧
  (∀ (s : State) (x : ZoneCmd) (c : Conn) (k : Nat), Live s → ZoneReady x c k s → 0 < s.get Reg.Fount.CEILING → (s.zone k).st = .readOnly → nsEvidence s (k / 2 ^ 32) = false → Gives (.zoneOffline x) s fun t =>
    Completes x.hdr 0 0 0 [] s t ∧ t.zone k = { s.zone k with st := .offline, slot := none } ∧ (∀ j, j ≠ k → t.zone j = s.zone j) ∧ t = { s with sch := t.sch, zn := t.zn, ctrls := t.ctrls, out := t.out })

/-- A Close or Finish that waited on a zone whose reserved length is now 0 makes it Closed or Full and gives back its table entry; a Reset returns it to
empty. The one command that waited, which waits for no other zone, completes with 0/0 and is gone. With a reserved length above 0 the step has no
effect. -/
def Obligations.ZoneActionsWhenIdle : Prop :=
  (∀ (s : State) (n : NsIx) (z conn cid : Nat) (c : Cmd) (x : Conn) (p : ZPend), Live s → (s.zone (zoneKey n.val z)).pend = some p → (s.zone (zoneKey n.val z)).reserved = 0 → 0 < s.get Reg.Fount.CEILING → s.cmds = [(cmdKey conn cid, c)] → c.zones = [zoneKey n.val z] → c.silent = false → c.inCap = false → c.r2ts = [] → cid < 65536 → FreePath conn x s → ((p = .close ∧ c.op = .close) ∨ (p = .finish ∧ c.op = .finish)) → Gives (.zoneActionDeferred n z) s fun t =>
    t.zone (zoneKey n.val z) = { s.zone (zoneKey n.val z) with st := if p = .close then .closed else .full, slot := none, pend := none } ∧ (∀ j, j ≠ zoneKey n.val z → t.zone j = s.zone j) ∧ t.cmds = [] ∧ t.out = .resp conn cid 0 0 0 :: s.out ∧ t = { s with zn := t.zn, cmds := t.cmds, units := t.units, ctrls := t.ctrls, out := t.out, cs := t.cs, sigs := t.sigs }) ∧
  (∀ (s : State) (n : NsIx) (z conn cid : Nat) (c : Cmd) (x : Conn) (p : ZPend), Live s → (s.zone (zoneKey n.val z)).pend = some p → (s.zone (zoneKey n.val z)).reserved = 0 → 0 < s.get Reg.Fount.CEILING → s.cmds = [(cmdKey conn cid, c)] → c.zones = [zoneKey n.val z] → c.silent = false → c.inCap = false → c.r2ts = [] → cid < 65536 → FreePath conn x s → p = .reset → c.op = .reset → Gives (.zoneActionDeferred n z) s fun t =>
    t.zone (zoneKey n.val z) = { lastWrite := (s.zone (zoneKey n.val z)).lastWrite, resets := (s.zone (zoneKey n.val z)).resets } ∧ (∀ j, j ≠ zoneKey n.val z → t.zone j = s.zone j) ∧ t.cmds = [] ∧ t.out = .resp conn cid 0 0 0 :: s.out ∧ t = { s with zn := t.zn, cmds := t.cmds, units := t.units, ctrls := t.ctrls, out := t.out, cs := t.cs, sigs := t.sigs, el := t.el }) ∧
  (∀ (s : State) (n : NsIx) (z : Nat), Live s → 0 < (s.zone (zoneKey n.val z)).reserved → NoEffect (.zoneActionDeferred n z) s)

/-- With a reserved length of 0 and no hellbox block in the zone, the digest of a seal in progress is the running SHA-256 of the 4 096 bytes of each block
written; it joins the signing queue, and an empty queue begins to sign it at once. 40 impressions after its signing began, the colophon is stored at
the last block of the zone, which becomes Full without an entry, is counted in SEALS and leaves the queue. An accepted permit with a reserved length
of 0 and no seal resets the zone, counts the reset modulo 65 536, raises AUTH_RESET, logs 0xA003 with the zone and the nonce, and completes the
command. -/
def Obligations.ZoneSealsAndPermits : Prop :=
  (∀ (s : State) (n : NsIx) (z : Nat) (back : List (Nat × Option Blk)) (y : Seal), Live s → (s.zone (zoneKey n.val z)).sealing = some y → y.final = false → (s.zone (zoneKey n.val z)).reserved = 0 → zoneDamage s (zoneKey n.val z) = [] → s.zn.signQ.length < 64 → Gives (.sealDigest n z back) s fun t =>
    (∃ w, t.zone (zoneKey n.val z) = { s.zone (zoneKey n.val z) with sealing := some w } ∧ w.final = true ∧ w.auto = y.auto ∧ w.bad = [] ∧
      w.digest = shaFinish (if (s.zone (zoneKey n.val z)).sha.isEmpty then shaInit else (s.zone (zoneKey n.val z)).sha) [] (4096 * (s.zone (zoneKey n.val z)).fill) ∧ (s.zn.signQ = [] → w.signAt = some s.core.imp)) ∧
    (∀ j, j ≠ zoneKey n.val z → t.zone j = s.zone j) ∧ t.zn.signQ = s.zn.signQ ++ [zoneKey n.val z] ∧ t = { s with zn := t.zn }) ∧
  (∀ (s : State) (n : NsIx) (z : Nat) (y : Seal) (a : Nat) (u : State), Live s → s.zn.signQ = [zoneKey n.val z] → (s.zone (zoneKey n.val z)).sealing = some y → y.final = true → y.signAt = some a → 40 ≤ s.since a → 0 < s.get Reg.Fount.CEILING → y.bad = [] → land (nsSig s n.val) true (writeThrough s) [(zoneLbn s (zoneKey n.val z) + zsze s n.val - 1, blkOf (colophon s (zoneKey n.val z) y))] s = some u → u.zn = s.zn → u.img = s.img → u.cmds = s.cmds → u.rf = s.rf → ((∀ e ∈ s.cmds, e.2.op ≠ .finish)) → ((∀ e ∈ s.zn.zones, e.1 ≠ zoneKey n.val z → e.2.sealing = none)) → NMap.wf s.zn.zones → Gives (.colophonSigned n z) s fun t =>
    t.zone (zoneKey n.val z) = { s.zone (zoneKey n.val z) with st := .full, slot := none, sealing := none, sealed := true, sealBad := false } ∧ (∀ j, j ≠ zoneKey n.val z → t.zone j = s.zone j) ∧ t.zn.signQ = [] ∧
    t.get Reg.Zn.SEALS 0 = min (s.get Reg.Zn.SEALS 0 + 1) (2 ^ Reg.Zn.SEALS.w - 1) ∧ ngetD 16 0 t.zn.cnt = ngetD 16 0 s.zn.cnt + 1 ∧ RegsBut [Reg.Zn.SEALS.key 0] s t ∧ t = { u with zn := t.zn, cs := t.cs, sigs := t.sigs, rf := t.rf }) ∧
  (∀ (s : State) (n : NsIx) (z conn cid nonce : Nat) (c : Cmd) (x : Conn), Live s → (s.zone (zoneKey n.val z)).permit = some (nonce, cmdKey conn cid) → (s.zone (zoneKey n.val z)).reserved = 0 → (s.zone (zoneKey n.val z)).sealing = none → 0 < s.get Reg.Fount.CEILING → nfind (cmdKey conn cid) s.cmds = some c → c.op = .permit → c.silent = false → c.inCap = false → c.r2ts = [] → cid < 65536 → FreePath conn x s → ((∀ e ∈ s.cmds, e.2.held = false)) → Gives (.permitReset n z) s fun t =>
    t.zone (zoneKey n.val z) = { lastWrite := (s.zone (zoneKey n.val z)).lastWrite, resets := ((s.zone (zoneKey n.val z)).resets + 1) % 65536 } ∧ (∀ j, j ≠ zoneKey n.val z → t.zone j = s.zone j) ∧ t.cmds = ndel (cmdKey conn cid) s.cmds ∧ t.out = .resp conn cid 0 0 0 :: s.out ∧
    t.get Reg.Zn.AUTH_RESET = 1 ∧ RegsBut [Reg.Zn.AUTH_RESET.key 0] s t ∧ ngetD 40 0 t.zn.cnt = ngetD 40 0 s.zn.cnt + 1 ∧
    (∃ r l, t.el.due = ⟨0xA003, 0, 0, opTimeOf s.core.opImp, s.core.cycles, n.val, leBytes 4 (n.val + 1) ++ leBytes 8 r ++ leBytes 16 nonce⟩ :: l ∧ r = zoneStart s (zoneKey n.val z)) ∧
    t = { s with rf := t.rf, zn := t.zn, cmds := t.cmds, units := t.units, ctrls := t.ctrls, out := t.out, cs := t.cs, sigs := t.sigs, el := t.el })

/-- Report Zones to a zoned namespace, from an LBA inside it, returns exactly the requested length: the number of zones from that of the LBA on that pass
the filter, and the descriptors of the first of them, as many as it asks for, each with the state, the capacity, the start and the write pointer of
its zone (the byte layout is PRESUMED, log entry 20), zeros beyond; from an LBA beyond the namespace it completes with 0/0x80. OZT_SEL latches the
entry of its low 16 bits: its namespace, zone, state, write pointer, reserved length and flags; an entry not in use reads 0 throughout. -/
def Obligations.ZoneReportsAndSnapshot : Prop :=
  (∀ (s : State) (x : ReportCmd) (c : Conn), Live s → FreePath x.hdr.conn c s → c.icDone = true → c.connected = true → c.admin = false → nfind (cmdKey x.hdr.conn x.hdr.cid) s.cmds = none → ((c.authReq = true → c.authDone = true)) → checkNs false x.hdr c s = none → nsZoned s (x.hdr.nsid - 1) = true → x.hdr.len ≤ 1048576 → x.hdr.inCapsule ≤ 8192 → x.slba < nsSize s (x.hdr.nsid - 1) → Gives (.reportZones x) s fun t =>
    (∃ l page, t.out = .resp x.hdr.conn x.hdr.cid 0 0 0 :: .c2hBytes x.hdr.conn x.hdr.cid l :: s.out ∧ l = page.take x.hdr.len ++ List.replicate (x.hdr.len - (page.take x.hdr.len).length) 0 ∧
      page = leBytes 8 (((List.range (zoneCount s (x.hdr.nsid - 1) - x.slba / zsze s (x.hdr.nsid - 1))).map fun j => x.slba / zsze s (x.hdr.nsid - 1) + j).filter fun z => x.stateFilter == 0 || (s.zone (zoneKey (x.hdr.nsid - 1) z)).st.filter == x.stateFilter).length ++ List.replicate 56 0 ++ ((((List.range (zoneCount s (x.hdr.nsid - 1) - x.slba / zsze s (x.hdr.nsid - 1))).map fun j => x.slba / zsze s (x.hdr.nsid - 1) + j).filter fun z => x.stateFilter == 0 || (s.zone (zoneKey (x.hdr.nsid - 1) z)).st.filter == x.stateFilter).take x.maxZones).flatMap (fun z => [2, (s.zone (zoneKey (x.hdr.nsid - 1) z)).st.code * 16, 0, 0, 0, 0, 0, 0] ++ leBytes 8 (zsze s (x.hdr.nsid - 1)) ++ leBytes 8 (z * zsze s (x.hdr.nsid - 1)) ++
          leBytes 8 (z * zsze s (x.hdr.nsid - 1) + (s.zone (zoneKey (x.hdr.nsid - 1) z)).fill) ++ List.replicate 32 0)) ∧ t = { s with sch := t.sch, out := t.out }) ∧
  (∀ (s : State) (x : ReportCmd) (c : Conn), Live s → FreePath x.hdr.conn c s → c.icDone = true → c.connected = true → c.admin = false → nfind (cmdKey x.hdr.conn x.hdr.cid) s.cmds = none → ((c.authReq = true → c.authDone = true)) → checkNs false x.hdr c s = none → nsZoned s (x.hdr.nsid - 1) = true → x.hdr.len ≤ 1048576 → x.hdr.inCapsule ≤ 8192 → nsSize s (x.hdr.nsid - 1) ≤ x.slba → Gives (.reportZones x) s fun t =>
    Completes x.hdr 0 0x80 0 [] s t ∧ t = { s with ctrls := t.ctrls, out := t.out }) ∧
  (∀ (s : State) (v : RegWord) (k : Nat) (z : Zone), Live s → s.zn.zones.find? (fun p => p.2.slot == some (v.toNat % 65536)) = some (k, z) → Gives (.oztSel v) s fun t =>
    (t.get Reg.Zn.OZT_VALID = 1 ∧ t.get Reg.Zn.OZT_SEL = v.toNat % 65536 ∧ t.get Reg.Zn.NS_INDEX = k / 2 ^ 32 % 2 ^ Reg.Zn.NS_INDEX.w ∧ t.get Reg.Zn.ZONE_INDEX = k % 2 ^ 32 % 2 ^ Reg.Zn.ZONE_INDEX.w ∧
    t.get Reg.Zn.IMPLICIT = (if z.st == .implicit then 1 else 0) ∧ t.get Reg.Zn.OZT_EVID = (if nsEvidence s (k / 2 ^ 32) then 1 else 0) ∧ t.get Reg.Zn.SEAL_PENDING = (if z.sealing.isSome then 1 else 0) ∧ t.get Reg.Zn.DAMAGED = (if z.damaged then 1 else 0) ∧
    t.get Reg.Zn.WP_LO = (zoneStart s k + z.fill) % 2 ^ 32 ∧ t.get Reg.Zn.WP_HI = (zoneStart s k + z.fill) / 2 ^ 32 % 2 ^ Reg.Zn.WP_HI.w ∧ t.get Reg.Zn.LAST_WRITE = z.lastWrite % 2 ^ 32 ∧
    t.get Reg.Zn.RESERVED_NLB = z.reserved % 2 ^ Reg.Zn.RESERVED_NLB.w) ∧ RegsBut [Reg.Zn.OZT_SEL.key 0, Reg.Zn.OZT_VALID.key 0, Reg.Zn.IMPLICIT.key 0, Reg.Zn.OZT_EVID.key 0, Reg.Zn.SEAL_PENDING.key 0, Reg.Zn.DAMAGED.key 0, Reg.Zn.NS_INDEX.key 0, Reg.Zn.ZONE_INDEX.key 0, Reg.Zn.WP_LO.key 0, Reg.Zn.WP_HI.key 0, Reg.Zn.GALLEY_FILL.key 0, Reg.Zn.LAST_WRITE.key 0, Reg.Zn.RESERVED_NLB.key 0] s t ∧ t = { s with rf := t.rf }) ∧
  (∀ (s : State) (v : RegWord), Live s → s.zn.zones.find? (fun p => p.2.slot == some (v.toNat % 65536)) = none → Gives (.oztSel v) s fun t =>
    (t.get Reg.Zn.OZT_SEL = v.toNat % 65536 ∧ t.get Reg.Zn.OZT_VALID = 0 ∧ t.get Reg.Zn.IMPLICIT = 0 ∧ t.get Reg.Zn.OZT_EVID = 0 ∧ t.get Reg.Zn.SEAL_PENDING = 0 ∧ t.get Reg.Zn.DAMAGED = 0 ∧ t.get Reg.Zn.NS_INDEX = 0 ∧ t.get Reg.Zn.ZONE_INDEX = 0 ∧ t.get Reg.Zn.WP_LO = 0 ∧ t.get Reg.Zn.WP_HI = 0 ∧ t.get Reg.Zn.GALLEY_FILL = 0 ∧ t.get Reg.Zn.LAST_WRITE = 0 ∧ t.get Reg.Zn.RESERVED_NLB = 0) ∧ RegsBut [Reg.Zn.OZT_SEL.key 0, Reg.Zn.OZT_VALID.key 0, Reg.Zn.IMPLICIT.key 0, Reg.Zn.OZT_EVID.key 0, Reg.Zn.SEAL_PENDING.key 0, Reg.Zn.DAMAGED.key 0, Reg.Zn.NS_INDEX.key 0, Reg.Zn.ZONE_INDEX.key 0, Reg.Zn.WP_LO.key 0, Reg.Zn.WP_HI.key 0, Reg.Zn.GALLEY_FILL.key 0, Reg.Zn.LAST_WRITE.key 0, Reg.Zn.RESERVED_NLB.key 0] s t ∧ t = { s with rf := t.rf })

/-- A Read of blocks that are all found, none of them lost, transfers its blocks in order, each with its data, guard, application tag and the low 32 bits
of its LBA, a block never written as zeros with application tag FFFFh, completes with 0/0 and leaves the commands as they were; only the Case counters
of lookups change among the registers. A Read whose blocks all lie on drives stays outstanding, needs every one of them, and takes no zone, signature
or connection along. A drive read that brings the one block that the one outstanding Read needs completes that Read with it. -/
def Obligations.ReadsServed : Prop :=
  (∀ (s : State) (x : IoCmd) (c : Conn) (v : Nat → RdVal), Live s → IoReady x c false s → x.hdr.cid < 65536 → (∀ j < x.nlb, readFrom s (nsSig s (x.hdr.nsid - 1)) (nsStart s (x.hdr.nsid - 1) + x.slba + j) = .found (v j) ∧ (v j).lost = false) → Gives (.read x) s fun t =>
    (∃ l, t.out = .resp x.hdr.conn x.hdr.cid 0 0 0 :: .c2hData x.hdr.conn x.hdr.cid l :: s.out ∧ l.length = x.nlb ∧
      ∀ j < x.nlb, l[j]? = some (if (v j).never then ⟨0, 0, 0xFFFF, (x.slba + j) % 2 ^ 32⟩ else ⟨(v j).data, guardOf (v j).data, x.pi.lbat, (x.slba + j) % 2 ^ 32⟩)) ∧
    t.cmds = s.cmds ∧ RegsBut [Reg.Cc.HITS.key 0, Reg.Cc.MISSES.key 0] s t ∧ t.zn = s.zn ∧ t.sigs = s.sigs ∧ t.conns = s.conns ∧ t.drvs = s.drvs) ∧
  (∀ (s : State) (x : IoCmd) (c : Conn) (t0 p0 b0 : Nat), Live s → IoReady x c false s → 0 < x.nlb → (∀ j < x.nlb, readFrom s (nsSig s (x.hdr.nsid - 1)) (nsStart s (x.hdr.nsid - 1) + x.slba + j) = .drive t0 p0 (b0 + j)) → Gives (.read x) s fun t =>
    (∃ w, nfind (cmdKey x.hdr.conn x.hdr.cid) t.cmds = some w ∧ w.op = .read ∧ w.slba = x.slba ∧ w.nlb = x.nlb ∧ w.need = (List.range x.nlb).map fun j => nsSig s (x.hdr.nsid - 1) * 2 ^ 48 + ((nsStart s (x.hdr.nsid - 1) + x.slba + j))) ∧
    (∀ j, j ≠ cmdKey x.hdr.conn x.hdr.cid → nfind j t.cmds = nfind j s.cmds) ∧ t.zn = s.zn ∧ t.sigs = s.sigs ∧ t.conns = s.conns ∧ t.lost = s.lost) ∧
  (∀ (s : State) (p : DrvPortIx) (tag conn cid : Nat) (b : RdBlk) (k : DrvCmd) (c : Cmd) (x : Conn) (v : RdVal), Live s → nfind tag (s.drivePort p.val).cmds = some k → (s.drivePort p.val).queue = [] → k.write = false → k.use = .fg → k.n = 1 → verify s k.sig k.sheet k.pos k.b0 b = .good v → v.lost = false → inHb s k.sig (lbnAt s k.sig k.sheet k.pos k.b0) = false → s.cmds = [(cmdKey conn cid, c)] → c.op = .read → c.nlb = 1 → c.need = [k.sig * 2 ^ 48 + lbnAt s k.sig k.sheet k.pos k.b0] → lbnAt s k.sig k.sheet k.pos k.b0 = nsStart s c.ns + c.slba → c.silent = false → c.inCap = false → c.r2ts = [] → cid < 65536 → FreePath conn x s → Gives (.driveReadComplete p tag [b]) s fun t =>
    t.cmds = [] ∧ t.out = .resp conn cid 0 0 0 :: .c2hData conn cid [if v.never then ⟨0, 0, 0xFFFF, c.slba % 2 ^ 32⟩ else ⟨v.data, guardOf v.data, (c.pi.map (·.lbat)).getD 0, c.slba % 2 ^ 32⟩] :: s.out ∧
    t.zn = s.zn ∧ t.sigs = s.sigs ∧ t.conns = s.conns ∧ t.lost = s.lost) ∧
  (∀ (s : State) (x : SheetId) (o : RdOffset) (l : LostOff) (vs : List PosVal) (p conn cid : Nat) (y : List Blk × Blk × Blk) (c : Cmd) (cn : Conn), Live s → s.lost.find? (fun z => z.sig == x.sig.val && z.sheet == x.sheet && z.off == o.offset) = some l → resyncWaits s x.sig.val x.sheet = false → vs = lookAt s x.sig.val x.sheet l.off l.bad o.got → owedPos vs = [] → lostData vs = [p] → badPos vs = [(p, false)] → solveAt true vs = some y → (s.sigSt x.sig.val).k.hbUnknown = false → (s.sigSt x.sig.val).k.mems = [] → inHb s x.sig.val (lbnAt s x.sig.val x.sheet p l.off) = false → s.cmds = [(cmdKey conn cid, c)] → c.op = .read → c.asked = 0 → c.nlb = 1 → c.need = [x.sig.val * 2 ^ 48 + lbnAt s x.sig.val x.sheet p l.off] → lbnAt s x.sig.val x.sheet p l.off = nsStart s c.ns + c.slba → c.silent = false → c.inCap = false → c.r2ts = [] → cid < 65536 → FreePath conn cn s → Gives (.readReconstruct x o) s fun t =>
    t.lost = s.lost.erase l ∧ t.cmds = [] ∧ t.out = .resp conn cid 0 0 0 :: .c2hData conn cid [⟨solvedAt y p, guardOf (solvedAt y p), (c.pi.map (·.lbat)).getD 0, c.slba % 2 ^ 32⟩] :: s.out ∧ t.zn = s.zn ∧ t.conns = s.conns)

/-- MEMBER_SEL latches the port and base of a member, or reads as not valid; MAP_GO latches the drive and drive LBA at which a folio of an existing sheet
lies, or reads as not valid for a sheet or position that does not exist; HB_SEL an extent of the hellbox, CORR_SEL the corruption counts of a member,
ENT_SEL a failure entry, a free one as 0, and DEV_SEL the counts of a device, a device above 19 being rejected with VALUE_REJ. Nothing else changes. -/
def Obligations.SignatureSnapshots : Prop :=
  (∀ (s : State) (g : SigIx) (v : RegWord) (i : Imposition) (m : Member), Live s → impOf s g.val = some i → v.toNat % 128 < i.n → i.members[v.toNat % 128]? = some m → Gives (.memberSel g v) s fun t =>
    t.get Reg.Sig.MEMBER_SEL g.val = v.toNat % 128 ∧ t.get Reg.Sig.MEMBER_PORT g.val = m.port % 2 ^ Reg.Sig.MEMBER_PORT.w ∧ t.get Reg.Sig.MEMBER_VALID g.val = 1 ∧ t.get Reg.Sig.MEMBER_BASE g.val = m.base % 2 ^ Reg.Sig.MEMBER_BASE.w ∧ RegsBut [Reg.Sig.MEMBER_SEL.key (g.val), Reg.Sig.MEMBER_PORT.key (g.val), Reg.Sig.MEMBER_VALID.key (g.val), Reg.Sig.MEMBER_BASE.key (g.val)] s t ∧ t = { s with rf := t.rf }) ∧
  (∀ (s : State) (g : SigIx) (v : RegWord) (i : Imposition), Live s → impOf s g.val = some i → i.n ≤ v.toNat % 128 → Gives (.memberSel g v) s fun t =>
    t.get Reg.Sig.MEMBER_SEL g.val = v.toNat % 128 ∧ t.get Reg.Sig.MEMBER_PORT g.val = 0 ∧ t.get Reg.Sig.MEMBER_VALID g.val = 0 ∧ t.get Reg.Sig.MEMBER_BASE g.val = 0 ∧ RegsBut [Reg.Sig.MEMBER_SEL.key (g.val), Reg.Sig.MEMBER_PORT.key (g.val), Reg.Sig.MEMBER_VALID.key (g.val), Reg.Sig.MEMBER_BASE.key (g.val)] s t ∧ t = { s with rf := t.rf }) ∧
  (∀ (s : State) (g : SigIx) (i : Imposition) (t0 p0 : Nat), Live s → impOf s g.val = some i → t0 = (s.get Reg.Sig.MAP_SHEET_LO g.val + 2 ^ 32 * s.get Reg.Sig.MAP_SHEET_HI g.val) → p0 = (s.get Reg.Sig.MAP_POS g.val) → t0 < (s.sigSt g.val).sheets → p0 < i.w → Gives (.mapGo g) s fun t =>
    t.get Reg.Sig.MAP_VALID g.val = 1 ∧ t.get Reg.Sig.MAP_DRIVE g.val = i.driveAt t0 p0 % 2 ^ Reg.Sig.MAP_DRIVE.w ∧ t.get Reg.Sig.MAP_LBA_LO g.val = i.lbaOf (i.driveAt t0 p0) (i.dataPos t0 p0) % 2 ^ 32 ∧ t.get Reg.Sig.MAP_LBA_HI g.val = i.lbaOf (i.driveAt t0 p0) (i.dataPos t0 p0) / 2 ^ 32 % 2 ^ Reg.Sig.MAP_LBA_HI.w ∧ RegsBut [Reg.Sig.MAP_GO.key (g.val), Reg.Sig.MAP_DRIVE.key (g.val), Reg.Sig.MAP_VALID.key (g.val), Reg.Sig.MAP_LBA_LO.key (g.val), Reg.Sig.MAP_LBA_HI.key (g.val)] s t ∧ t = { s with rf := t.rf }) ∧
  (∀ (s : State) (g : SigIx) (i : Imposition) (t0 p0 : Nat), Live s → impOf s g.val = some i → t0 = (s.get Reg.Sig.MAP_SHEET_LO g.val + 2 ^ 32 * s.get Reg.Sig.MAP_SHEET_HI g.val) → p0 = (s.get Reg.Sig.MAP_POS g.val) → ((s.sigSt g.val).sheets ≤ t0 ∨ i.w ≤ p0) → Gives (.mapGo g) s fun t =>
    t.get Reg.Sig.MAP_VALID g.val = 0 ∧ RegsBut [Reg.Sig.MAP_GO.key (g.val), Reg.Sig.MAP_VALID.key (g.val)] s t ∧ t = { s with rf := t.rf }) ∧
  (∀ (s : State) (g : SigIx) (v : RegWord) (a m c : Nat), Live s → (s.sigSt g.val).k.hb[v.toNat % 65536]? = some (a, m, c) → Gives (.hbSel g v) s fun t =>
    t.get Reg.Sig.HB_SEL g.val = v.toNat % 65536 ∧ t.get Reg.Sig.HB_VALID g.val = 1 ∧ t.get Reg.Sig.HB_START_LO g.val = a % 2 ^ 32 ∧ t.get Reg.Sig.HB_START_HI g.val = a / 2 ^ 32 % 2 ^ Reg.Sig.HB_START_HI.w ∧ t.get Reg.Sig.HB_COUNT g.val = m % 2 ^ Reg.Sig.HB_COUNT.w ∧ t.get Reg.Sig.HB_CAUSE g.val = c % 2 ^ Reg.Sig.HB_CAUSE.w ∧
    t.get Reg.Sig.HB_META g.val = (if nsOfLbn s g.val a = none then 1 else 0) ∧ (∀ n, nsOfLbn s g.val a = some n → t.get Reg.Sig.HB_NS g.val = n % 2 ^ Reg.Sig.HB_NS.w) ∧ RegsBut [Reg.Sig.HB_SEL.key (g.val), Reg.Sig.HB_VALID.key (g.val), Reg.Sig.HB_START_LO.key (g.val), Reg.Sig.HB_START_HI.key (g.val), Reg.Sig.HB_COUNT.key (g.val), Reg.Sig.HB_CAUSE.key (g.val), Reg.Sig.HB_META.key (g.val), Reg.Sig.HB_NS.key (g.val)] s t ∧ t = { s with rf := t.rf }) ∧
  (∀ (s : State) (g : SigIx) (v : RegWord), Live s → (s.sigSt g.val).k.hb[v.toNat % 65536]? = none → Gives (.hbSel g v) s fun t =>
    t.get Reg.Sig.HB_VALID g.val = 0 ∧ t.get Reg.Sig.HB_START_LO g.val = 0 ∧ t.get Reg.Sig.HB_START_HI g.val = 0 ∧ t.get Reg.Sig.HB_COUNT g.val = 0 ∧ RegsBut [Reg.Sig.HB_SEL.key (g.val), Reg.Sig.HB_VALID.key (g.val), Reg.Sig.HB_START_LO.key (g.val), Reg.Sig.HB_START_HI.key (g.val), Reg.Sig.HB_COUNT.key (g.val), Reg.Sig.HB_CAUSE.key (g.val), Reg.Sig.HB_META.key (g.val), Reg.Sig.HB_NS.key (g.val)] s t ∧ t = { s with rf := t.rf }) ∧
  (∀ (s : State) (g : SigIx) (v : RegWord), Live s → Gives (.corrSel g v) s fun t =>
    t.get Reg.Sig.CORR_SEL g.val = v.toNat % 128 ∧ t.get Reg.Sig.CORR_24H g.val = min 255 (memOf s g.val (v.toNat % 128)).buckets.sum ∧ t.get Reg.Sig.CORR_TOTAL g.val = (memOf s g.val (v.toNat % 128)).silent % 2 ^ Reg.Sig.CORR_TOTAL.w ∧ RegsBut [Reg.Sig.CORR_SEL.key (g.val), Reg.Sig.CORR_24H.key (g.val), Reg.Sig.CORR_TOTAL.key (g.val)] s t ∧ t = { s with rf := t.rf }) ∧
  (∀ (s : State) (g : SigIx) (v : RegWord) (e : FailEnt), Live s → nfind (v.toNat % 8) (s.sigSt g.val).k.ents = some e → Gives (.entSel g v) s fun t =>
    t.get Reg.Sig.ENT_SEL g.val = v.toNat % 8 ∧ t.get Reg.Sig.ENT_STATE g.val = e.st.code % 2 ^ Reg.Sig.ENT_STATE.w ∧ t.get Reg.Sig.ENT_CAUSE g.val = e.cause % 2 ^ Reg.Sig.ENT_CAUSE.w ∧ t.get Reg.Sig.ENT_DRIVE g.val = e.drive % 2 ^ Reg.Sig.ENT_DRIVE.w ∧
    t.get Reg.Sig.ENT_LOW_LO g.val = e.low % 2 ^ 32 ∧ t.get Reg.Sig.ENT_HIGH_LO g.val = e.high % 2 ^ 32 ∧ t.get Reg.Sig.ENT_N_LO g.val = e.n % 2 ^ 32 ∧ t.get Reg.Sig.ENT_Y_LO g.val = e.y % 2 ^ 32 ∧ t.get Reg.Sig.ENT_UNPLACED g.val = min (2 ^ 32 - 1) e.unplaced ∧ RegsBut [Reg.Sig.ENT_SEL.key (g.val), Reg.Sig.ENT_STATE.key (g.val), Reg.Sig.ENT_REPL.key (g.val), Reg.Sig.ENT_DIRECT.key (g.val), Reg.Sig.ENT_LEVEL.key (g.val), Reg.Sig.ENT_CAUSE.key (g.val), Reg.Sig.ENT_DRIVE.key (g.val), Reg.Sig.ENT_WINDOWS.key (g.val), Reg.Sig.ENT_LOW_LO.key (g.val), Reg.Sig.ENT_LOW_HI.key (g.val), Reg.Sig.ENT_HIGH_LO.key (g.val), Reg.Sig.ENT_HIGH_HI.key (g.val), Reg.Sig.ENT_N_LO.key (g.val), Reg.Sig.ENT_N_HI.key (g.val), Reg.Sig.ENT_Y_LO.key (g.val), Reg.Sig.ENT_Y_HI.key (g.val), Reg.Sig.ENT_TODO_LO.key (g.val), Reg.Sig.ENT_TODO_HI.key (g.val), Reg.Sig.ENT_UNPLACED.key (g.val), Reg.Sig.ENT_DECLARED.key (g.val), Reg.Sig.ENT_ETA.key (g.val)] s t ∧ t = { s with rf := t.rf }) ∧
  (∀ (s : State) (g : SigIx) (v : RegWord), Live s → nfind (v.toNat % 8) (s.sigSt g.val).k.ents = none → Gives (.entSel g v) s fun t =>
    t.get Reg.Sig.ENT_STATE g.val = 0 ∧ t.get Reg.Sig.ENT_DRIVE g.val = 0 ∧ t.get Reg.Sig.ENT_LOW_LO g.val = 0 ∧ t.get Reg.Sig.ENT_HIGH_LO g.val = 0 ∧ t.get Reg.Sig.ENT_N_LO g.val = 0 ∧ t.get Reg.Sig.ENT_TODO_LO g.val = 0 ∧ RegsBut [Reg.Sig.ENT_SEL.key (g.val), Reg.Sig.ENT_STATE.key (g.val), Reg.Sig.ENT_REPL.key (g.val), Reg.Sig.ENT_DIRECT.key (g.val), Reg.Sig.ENT_LEVEL.key (g.val), Reg.Sig.ENT_CAUSE.key (g.val), Reg.Sig.ENT_DRIVE.key (g.val), Reg.Sig.ENT_WINDOWS.key (g.val), Reg.Sig.ENT_LOW_LO.key (g.val), Reg.Sig.ENT_LOW_HI.key (g.val), Reg.Sig.ENT_HIGH_LO.key (g.val), Reg.Sig.ENT_HIGH_HI.key (g.val), Reg.Sig.ENT_N_LO.key (g.val), Reg.Sig.ENT_N_HI.key (g.val), Reg.Sig.ENT_Y_LO.key (g.val), Reg.Sig.ENT_Y_HI.key (g.val), Reg.Sig.ENT_TODO_LO.key (g.val), Reg.Sig.ENT_TODO_HI.key (g.val), Reg.Sig.ENT_UNPLACED.key (g.val), Reg.Sig.ENT_DECLARED.key (g.val), Reg.Sig.ENT_ETA.key (g.val)] s t ∧ t = { s with rf := t.rf }) ∧
  (∀ (s : State) (v : RegWord) (c w : Nat), Live s → c = v.toNat % 4 → w = v.toNat / 256 % 32 → w ≤ 19 → Gives (.devSel v) s fun t =>
    t.get Reg.Ecc.DEV_SEL_CH = c ∧ t.get Reg.Ecc.DEV_SEL = w ∧ t.get Reg.Ecc.DEV_CE = ngetD w 0 (s.chan c).devCe % 2 ^ Reg.Ecc.DEV_CE.w ∧ t.get Reg.Ecc.DEV_RETIRED = ngetD w 0 (s.chan c).devRet % 2 ^ Reg.Ecc.DEV_RETIRED.w ∧ RegsBut [Reg.Ecc.DEV_SEL_CH.key 0, Reg.Ecc.DEV_SEL.key 0, Reg.Ecc.DEV_CE.key 0, Reg.Ecc.DEV_ROWS.key 0, Reg.Ecc.DEV_RETIRED.key 0] s t ∧ t = { s with rf := t.rf }) ∧
  (∀ (s : State) (v : RegWord), Live s → 19 < v.toNat / 256 % 32 → Gives (.devSel v) s fun t =>
    t.get Reg.Ecc.DEV_SEL = s.get Reg.Ecc.DEV_SEL % 2 ^ Reg.Ecc.DEV_SEL.w ∧ t.get Reg.Glb.VALUE_REJ = 1 ∧ RegsBut [Reg.Ecc.DEV_SEL_CH.key 0, Reg.Ecc.DEV_SEL.key 0, Reg.Ecc.DEV_CE.key 0, Reg.Ecc.DEV_ROWS.key 0, Reg.Ecc.DEV_RETIRED.key 0, Reg.Glb.VALUE_REJ.key 0] s t ∧ t = { s with rf := t.rf })

/-- A Flush of a namespace, with a data length of 0 and nothing to refuse it, stays outstanding; it covers the blocks of the namespace that are dirty, in
an update or in a copy window, and takes its place in the order of writes; no completion leaves. At a later impression it completes with 0/0 if every
block it covers has reached the drives as it was; otherwise it keeps the ones that have not. At the impression in which it came nothing happens. -/
def Obligations.FlushAndItsEnd : Prop :=
  (∀ (s : State) (h : CmdHdr) (c : Conn), Live s → FreePath h.conn c s → c.icDone = true → c.connected = true → c.admin = false → nfind (cmdKey h.conn h.cid) s.cmds = none → ((c.authReq = true → c.authDone = true)) → h.nsid ≠ 0xFFFFFFFF → checkNs false h c s = none → h.len = 0 → h.inCapsule ≤ 8192 → Gives (.flush h) s fun t =>
    (∃ w, nfind (cmdKey h.conn h.cid) t.cmds = some w ∧ w.op = .flush ∧ w.at_ = s.core.imp ∧ w.ord = s.seq ∧ w.need = flushNeeds s (h.nsid - 1) ++ flushWindow s (h.nsid - 1)) ∧
    (∀ j, j ≠ cmdKey h.conn h.cid → nfind j t.cmds = nfind j s.cmds) ∧ t = { s with cmds := t.cmds, seq := t.seq, sigs := t.sigs }) ∧
  (∀ (s : State) (conn cid : Nat) (c : Cmd) (x : Conn), Live s → nfind (cmdKey conn cid) s.cmds = some c → c.op = .flush → c.at_ < s.core.imp → ((∀ b ∈ c.need, stillDirty s c.ord b = false)) → c.silent = false → c.inCap = false → c.r2ts = [] → cid < 65536 → FreePath conn x s → Gives (.flushComplete conn cid) s fun t =>
    t.cmds = ndel (cmdKey conn cid) s.cmds ∧ t.out = .resp conn cid 0 0 0 :: s.out ∧ t = { s with cmds := t.cmds, units := t.units, out := t.out }) ∧
  (∀ (s : State) (conn cid : Nat) (c : Cmd) (b : Nat), Live s → nfind (cmdKey conn cid) s.cmds = some c → c.op = .flush → c.at_ < s.core.imp → b ∈ c.need → stillDirty s c.ord b = true → Gives (.flushComplete conn cid) s fun t =>
    nfind (cmdKey conn cid) t.cmds = some { c with need := c.need.filter fun a => stillDirty s c.ord a } ∧ (∀ j, j ≠ cmdKey conn cid → nfind j t.cmds = nfind j s.cmds) ∧ t = { s with cmds := t.cmds }) ∧
  (∀ (s : State) (conn cid : Nat) (c : Cmd), Live s → nfind (cmdKey conn cid) s.cmds = some c → s.core.imp ≤ c.at_ → NoEffect (.flushComplete conn cid) s)

/-- REPAIR_WRITE of a folio with one failing block, on an idle sheet, counts a medium fix and writes it; its completion begins the targeted self-test; a
first good read-back asks for a second, a second one logs 0x5002 (or raises SILENT_CORR and logs 0x5001 for a silent failure) and ends the repair. At
a further operating hour the oldest bucket of every member is dropped. A proofing pass that has no sheet left ends its lap: LAST_LAP takes its length,
PROOF_DONE is raised and the next lap starts at sheet 0. -/
def Obligations.RepairsAndScrubbing : Prop :=
  (∀ (s : State) (x : SheetId) (p : Nat) (r : Repair) (b : Nat) (v : RdVal) (a : Nat × Nat), Live s → repairOf s x.sig.val x.sheet p (· == 0) = some r → r.blocks = [(b, v)] → r.silent = false → r ∈ s.repairs → sheetBusy s x.sig.val x.sheet = false → (s.lost.any fun y => y.sig == x.sig.val && y.sheet == x.sheet && y.bad.any fun z => z.1 == p) = false → drivesRun s.core.mode = true → locate s x.sig.val x.sheet p false = some a → (s.sigSt x.sig.val).k.mems = [] → Gives (.repairWrite x p []) s fun t =>
    t.get Reg.Sig.MEDIUM_FIX x.sig.val = min (s.get Reg.Sig.MEDIUM_FIX x.sig.val + 1) (2 ^ Reg.Sig.MEDIUM_FIX.w - 1) ∧ t.repairs = s.repairs.map (fun q => if q == r then { r with stage := 1, tries := r.tries + 1 } else q) ∧ RegsBut [Reg.Sig.MEDIUM_FIX.key x.sig.val] s t ∧ PlaneOnly s t) ∧
  (∀ (s : State) (x : SheetId) (p : Nat) (r : Repair), Live s → repairOf s x.sig.val x.sheet p (· == 1) = some r → Gives (.repairWriteComplete x p) s fun t =>
    t.repairs = s.repairs.map (fun q => if q == r then { r with stage := 2 } else q) ∧ PlaneOnly s t) ∧
  (∀ (s : State) (x : SheetId) (p : Nat) (r : Repair), Live s → repairOf s x.sig.val x.sheet p (fun n => n == 2 || n == 3) = some r → r.stage = 2 → Gives (.selfTestReadback x p true) s fun t =>
    t.repairs = s.repairs.map (fun q => if q == r then { r with stage := 3 } else q) ∧ PlaneOnly s t) ∧
  (∀ (s : State) (x : SheetId) (p : Nat) (r : Repair), Live s → repairOf s x.sig.val x.sheet p (fun n => n == 2 || n == 3) = some r → r.stage = 3 → Gives (.selfTestReadback x p true) s fun t =>
    t.repairs = s.repairs.erase r ∧ (r.silent = true → t.get Reg.Sig.SILENT_CORR x.sig.val = 1) ∧ (∃ d l, t.el.due = ⟨if r.silent then 0x5001 else 0x5002, 0, 0, opTimeOf s.core.opImp, s.core.cycles, srcSig x.sig.val d, leBytes 8 (x.sheet % 2 ^ 48) ++ [p] ++ leBytes 2 r.blocks.length⟩ :: l) ∧ PlaneOnly s t) ∧
  (∀ (s : State), Live s → s.corrHour < s.core.opImp / 450000000 → Gives (.corruptionHourRoll) s fun t =>
    t.corrHour = s.corrHour + 1 ∧ (∀ g d b bs, (memOf s g d).buckets = b :: bs → (memOf t g d).buckets = (0 :: b :: bs).take 24) ∧ t = { s with corrHour := t.corrHour, sigs := t.sigs }) ∧
  (∀ (s : State), Live s → s.core.opImp / 450000000 ≤ s.corrHour → NoEffect (.corruptionHourRoll) s) ∧
  (∀ (s : State) (g : SigIx) (r : List RdOffset), Live s → proofRuns s g.val = true → (s.sigSt g.val).lapOpen = true → nextProof s g.val = none → Gives (.proofingItem g r) s fun t =>
    t.sigSt g.val = { s.sigSt g.val with pendingClear := true, lapOpen := false, k := { (s.sigSt g.val).k with proofPos := 0, lapStart := opTimeOf s.core.opImp, lapCount := ((s.sigSt g.val).k.lapCount + 1) % 65536, hbUnknown := false } } ∧
    t.get Reg.Sig.PROOF_DONE g.val = 1 ∧ t.get Reg.Sig.LAST_LAP g.val = (opTimeOf s.core.opImp - (s.sigSt g.val).k.lapStart) % 2 ^ Reg.Sig.LAST_LAP.w ∧ (∀ h, h ≠ g.val → t.sigSt h = s.sigSt h) ∧ RegsBut [Reg.Sig.PROOF_DONE.key g.val, Reg.Sig.LAST_LAP.key g.val] s t ∧ t = { s with rf := t.rf, sigs := t.sigs, el := t.el })

/-- A gauge sample above the low-voltage thresholds stores the pack and cell voltages, the current and the temperature, and adds the counted charge. After
60 s below 2 mA the gauge hibernates; a wake ends that; each hour of hibernation takes 1/24000 of the learned capacity off. A rest of 30 minutes whose
voltage agrees with the anchor is a reference: SoC_c becomes SoC_v, the counted charge and the reference age become 0 and the block is refreshed.
Refresh and latch fill GSB_OUT; GSB_LOAD in KEY_WAIT takes a valid block and reports an invalid one; GSB_NONE declares that there is none. -/
def Obligations.GaugeSamplesAndReferences : Prop :=
  (∀ (s : State) (x : GaugeIn), Live s → s.fnt.hibernating = false → s.fnt.absent = false → s.fnt.oneKhz = false → 1900 ≤ x.cell0Mv → 1900 ≤ x.cell1Mv → Gives (.gaugeSample x) s fun t =>
    t.get Reg.Fount.PACK_V = (x.cell0Mv + x.cell1Mv) % 2 ^ Reg.Fount.PACK_V.w ∧ t.get Reg.Fount.CELL0_V = x.cell0Mv % 2 ^ Reg.Fount.CELL0_V.w ∧ t.get Reg.Fount.CELL1_V = x.cell1Mv % 2 ^ Reg.Fount.CELL1_V.w ∧
    t.get Reg.Fount.PACK_T = toTwos 16 x.tempDc % 2 ^ Reg.Fount.PACK_T.w ∧ t.get Reg.Fount.PACK_I = toTwos 32 x.currentMa % 2 ^ Reg.Fount.PACK_I.w ∧
    t.fnt.counted = s.fnt.counted + (x.chargeMc : Rat) ∧ t.fnt.lastI = x.currentMa ∧ t.fnt.sampled = s.core.imp ∧ t.fnt.packLow = s.fnt.packLow ∧ t.fnt.anchor = s.fnt.anchor ∧
    RegsBut [Reg.Fount.PACK_V.key 0, Reg.Fount.CELL0_V.key 0, Reg.Fount.CELL1_V.key 0, Reg.Fount.PACK_T.key 0, Reg.Fount.PACK_I.key 0, Reg.Fount.CYCLE_COUNT.key 0] s t ∧ t = { s with rf := t.rf, fnt := t.fnt }) ∧
  (∀ (s : State) (a : Nat), Live s → s.fnt.restAt = some a → 7500000 ≤ s.since a → s.fnt.hibernating = false → Gives (.gaugeHibernate) s fun t =>
    t = { s with fnt := { s.fnt with hibernating := true, hibAt := s.core.imp } }) ∧
  (∀ (s : State), Live s → Gives (.gaugeWake) s fun t =>
    t = { s with fnt := { s.fnt with hibernating := false } }) ∧
  (∀ (s : State), Live s → s.fnt.hibernating = true → 450000000 ≤ s.since s.fnt.hibAt → Gives (.hibernationHour) s fun t =>
    t = { s with fnt := { s.fnt with counted := s.fnt.counted - (s.get Reg.Fount.Q_LEARNED : Rat) / 24000, hibAt := s.fnt.hibAt + 450000000 } }) ∧
  (∀ (s : State) (a : Nat), Live s → s.fnt.restAt = some a → 225000000 ≤ s.since a → s.fnt.socV - s.fnt.anchor < 4 / 10 → -(4 / 10) < s.fnt.socV - s.fnt.anchor → s.fnt.rVals = [] → s.fnt.calAt = none → Gives (.gaugeReference) s fun t =>
    t.fnt.anchor = s.fnt.socV ∧ t.fnt.counted = 0 ∧ t.fnt.refAge = 0 ∧ t.fnt.disagree = false ∧ t.get Reg.Fount.Q_LEARNED = s.get Reg.Fount.Q_LEARNED ∧
    t.get Reg.Fount.GSB_SEQ = (s.get Reg.Fount.GSB_SEQ + 1) % 2 ^ Reg.Fount.GSB_SEQ.w ∧ RegsBut ((List.range 16).map Reg.Fount.GSB_OUT.key ++ [Reg.Fount.GSB_SEQ.key 0, Reg.Hif.IBI_PENDING.key 0]) s t ∧ t = { s with rf := t.rf, fnt := t.fnt }) ∧
  (∀ (s : State), Live s → 450000000 ≤ s.core.opImp - s.fnt.gsbAt → Gives (.gsbRefresh) s fun t =>
    t.get Reg.Fount.GSB_SEQ = (s.get Reg.Fount.GSB_SEQ + 1) % 2 ^ Reg.Fount.GSB_SEQ.w ∧ (∀ w < 16, t.get Reg.Fount.GSB_OUT w = wordOf (gsbBytes s) w % 2 ^ 32) ∧
    t.fnt = { s.fnt with gsbAt := s.core.opImp } ∧ RegsBut ((List.range 16).map Reg.Fount.GSB_OUT.key ++ [Reg.Fount.GSB_SEQ.key 0, Reg.Hif.IBI_PENDING.key 0]) s t ∧ t = { s with rf := t.rf, fnt := t.fnt }) ∧
  (∀ (s : State), Live s → Gives (.gsbLatch) s fun t =>
    (∀ w < 16, t.get Reg.Fount.GSB_OUT w = wordOf (gsbBytes s) w % 2 ^ 32) ∧ t.get Reg.Fount.GSB_LATCH = 1 ∧ t.get Reg.Fount.GSB_SEQ = s.get Reg.Fount.GSB_SEQ ∧
    RegsBut ((List.range 16).map Reg.Fount.GSB_OUT.key ++ [Reg.Fount.GSB_LATCH.key 0]) s t ∧ t = { s with rf := t.rf }) ∧
  (∀ (s : State), Live s → s.core.mode = .keyWait → gsbValid (s.ask Reg.Fount.GSB_LOAD) (gsbIn (s.ask Reg.Fount.GSB_LOAD)) = false → Gives (.gsbLoad) s fun t =>
    t.get Reg.Fount.GSB_INVALID = 1 ∧ t.fnt = { s.fnt with gsbTaken := true } ∧ t.el.due = ⟨0x100B, 0, 0, opTimeOf s.core.opImp, s.core.cycles, 0, [1]⟩ :: s.el.due ∧ RegsBut [Reg.Fount.GSB_LOAD.key 0, Reg.Fount.GSB_INVALID.key 0] s t ∧ t = { s with rf := t.rf, fnt := t.fnt, el := t.el }) ∧
  (∀ (s : State), Live s → s.core.mode = .keyWait → gsbValid (s.ask Reg.Fount.GSB_LOAD) (gsbIn (s.ask Reg.Fount.GSB_LOAD)) = true → Gives (.gsbLoad) s fun t =>
    t.get Reg.Fount.Q_LEARNED = leValue (((gsbIn (s.ask Reg.Fount.GSB_LOAD)).drop 16).take 4) % 2 ^ Reg.Fount.Q_LEARNED.w ∧ t.get Reg.Fount.R_LEARNED = leValue (((gsbIn (s.ask Reg.Fount.GSB_LOAD)).drop 20).take 2) % 2 ^ Reg.Fount.R_LEARNED.w ∧ t.get Reg.Fount.GSB_RESTORED = 1 ∧
    t.fnt.restored = true ∧ t.fnt.gsbTaken = true ∧ t.fnt.rVals = [] ∧ t.el.due = ⟨0x100B, 0, 0, opTimeOf s.core.opImp, s.core.cycles, 0, [0]⟩ :: s.el.due ∧ t = { s with rf := t.rf, fnt := t.fnt, el := t.el }) ∧
  (∀ (s : State), Live s → s.core.mode = .keyWait → Gives (.gsbNone) s fun t =>
    t.fnt = { s.fnt with gsbTaken := true } ∧ t.el.due = ⟨0x100B, 0, 0, opTimeOf s.core.opImp, s.core.cycles, 0, [2]⟩ :: s.el.due ∧ RegsBut [Reg.Fount.GSB_NONE.key 0] s t ∧ t = { s with rf := t.rf, fnt := t.fnt, el := t.el })

/-- After 300 s of constant voltage below 26 mA the charge is done: CHG_DONE. A cell above 2.8 V stops the charger until the next cold reset: CHG_FAULT
and event 0x100C with both cell voltages. PACK_LOW clears when the usable energy by voltage has stayed above 0 for 125000 impressions. CAL_REST pauses
the charger until a reference or for 40 minutes. Below 11.5 V on the bus the charger carries the module at once. -/
def Obligations.ChargerAndPackLow : Prop :=
  (∀ (s : State) (a : Nat), Live s → s.fnt.eocAt = some a → s.fnt.chg = 2 → 37500000 ≤ s.since a → Gives (.endOfCharge) s fun t =>
    t.get Reg.Fount.CHG_DONE = 1 ∧ t.fnt = { s.fnt with chg := chargerState { s with fnt := { s.fnt with chg := 3, eocAt := none } }, eocAt := none } ∧ RegsBut [Reg.Fount.CHG_DONE.key 0] s t ∧ t = { s with rf := t.rf, fnt := t.fnt }) ∧
  (∀ (s : State), Live s → (2800 < s.get Reg.Fount.CELL0_V ∨ 2800 < s.get Reg.Fount.CELL1_V) → s.fnt.faulted = false → Gives (.chargerFault) s fun t =>
    t.get Reg.Fount.CHG_FAULT = 1 ∧ t.fnt = { s.fnt with faulted := true, chg := 6, eocAt := none } ∧ t.el.due = ⟨0x100C, 0, 0, opTimeOf s.core.opImp, s.core.cycles, 0, (leBytes 2 (s.get Reg.Fount.CELL0_V) ++ leBytes 2 (s.get Reg.Fount.CELL1_V))⟩ :: s.el.due ∧ RegsBut [Reg.Fount.CHG_FAULT.key 0] s t ∧ t = { s with rf := t.rf, fnt := t.fnt, el := t.el }) ∧
  (∀ (s : State) (a : Nat), Live s → s.fnt.voltOkAt = some a → s.fnt.packLow = true → s.fnt.absent = false → s.fnt.unfit = false → 125000 ≤ s.since a → Gives (.packLowClear) s fun t =>
    t = { s with fnt := { s.fnt with packLow := false, voltOkAt := none } }) ∧
  (∀ (s : State), Live s → Gives (.calRest) s fun t =>
    t.get Reg.Fount.CAL_REST = 1 ∧ t.fnt.calAt = some s.core.imp ∧ t.fnt.chg = chargerState { (s.ask Reg.Fount.CAL_REST) with fnt := { s.fnt with calAt := some s.core.imp } } ∧ RegsBut [Reg.Fount.CAL_REST.key 0] s t ∧ t = { s with rf := t.rf, fnt := t.fnt }) ∧
  (∀ (s : State) (a : Nat), Live s → s.fnt.calAt = some a → 300000000 ≤ s.since a → Gives (.calRestTimeout) s fun t =>
    t.fnt.calAt = none ∧ Reg.Fount.CAL_REST.key 0 ∈ t.rf.clearNext ∧ RegsBut [] s t ∧ t = { s with rf := t.rf, fnt := t.fnt }) ∧
  (∀ (s : State) (mv : Nat), Live s → mv < 11500 → s.fnt.absent = false → Gives (.busTakeover mv) s fun t =>
    t.fnt.carries = true ∧ (t.fnt.chg = 0 ∨ t.fnt.chg = 6) ∧ t = { s with fnt := t.fnt })

/-- Above 8.8 V an input stage turns on; at its current limit, above 64 V or below 7.5 V it turns off and its input is lost at once, which one lost input
alone does not answer with Hold. One sample below 8.5 V is filtered out; the second makes the input low, raises INPUT_A_LOST or INPUT_B_LOST and logs
0x1001. Two samples of 9.0 V make it healthy again. PWRFAIL_N asserted in PRESS_RUN enters HOLD: HOLD_ENTERED, 0x1002 with the ceiling, STATE_CHANGE.
Deasserted with an input healthy it leaves: HOLD_RETURNED, 0x1003. Asserted for 60 s in CAST_DONE with a healthy input, PWRFAIL_N is ignored;
deasserted for 1 s it is trusted again. -/
def Obligations.InputStagesAndHold : Prop :=
  (∀ (s : State) (b : Bool) (mv : Nat), Live s → 8800 < mv → (s.input b).faultAt = none → (s.input b).latched = false → Gives (.inputEnable b mv) s fun t =>
    t.get (if b then Reg.Fount.IN_B_V else Reg.Fount.IN_A_V) = min mv 65535 ∧ RegsBut [FieldSpec.key (if b then Reg.Fount.IN_B_V else Reg.Fount.IN_A_V) 0] s t ∧
    t = { (s.updInput b fun x => { x with mv := mv, on := true, latched := false }) with rf := t.rf }) ∧
  (∀ (s : State) (b : Bool), Live s → s.core.mode = .pressRun → s.pins.fPf = false → (s.input (!b)).low < 2 → (s.input b).low < 2 → Gives (.inputOvercurrent b) s fun t =>
    t.get (if b then Reg.Fount.INPUT_B_LOST else Reg.Fount.INPUT_A_LOST) = 1 ∧ t.fnt.hibernating = false ∧ t.input b = { s.input b with faultAt := some s.core.imp, on := false, healthy := false, low := 2 } ∧ t.input (!b) = s.input (!b) ∧ t.core = s.core ∧
    t.el.due = ⟨0x1001, 0, 0, opTimeOf s.core.opImp, s.core.cycles, (if b then 1 else 0), []⟩ :: s.el.due ∧ RegsBut [FieldSpec.key (if b then Reg.Fount.INPUT_B_LOST else Reg.Fount.INPUT_A_LOST) 0] s t ∧ t = { s with rf := t.rf, fnt := t.fnt, el := t.el }) ∧
  (∀ (s : State) (b : Bool) (a : Nat), Live s → (s.input b).faultAt = some a → 125000 ≤ s.since a → Gives (.inputStageRetry b) s fun t =>
    t = s.updInput b fun x => { x with faultAt := none, on := true }) ∧
  (∀ (s : State) (b : Bool) (mv : Nat), Live s → 64000 < mv → s.core.mode = .pressRun → s.pins.fPf = false → (s.input (!b)).low < 2 → (s.input b).low < 2 → Gives (.inputOvervoltage b mv) s fun t =>
    t.get (if b then Reg.Fount.IN_B_V else Reg.Fount.IN_A_V) = min mv 65535 ∧ t.get (if b then Reg.Fount.INPUT_B_LOST else Reg.Fount.INPUT_A_LOST) = 1 ∧ t.fnt.hibernating = false ∧ t.input b = { s.input b with mv := mv, latched := true, on := false, healthy := false, low := 2 } ∧ t.input (!b) = s.input (!b) ∧ t.core = s.core ∧
    t.el.due = ⟨0x1001, 0, 0, opTimeOf s.core.opImp, s.core.cycles, (if b then 1 else 0), []⟩ :: s.el.due ∧ RegsBut [FieldSpec.key (if b then Reg.Fount.INPUT_B_LOST else Reg.Fount.INPUT_A_LOST) 0, FieldSpec.key (if b then Reg.Fount.IN_B_V else Reg.Fount.IN_A_V) 0] s t ∧ t = { s with rf := t.rf, fnt := t.fnt, el := t.el }) ∧
  (∀ (s : State) (b : Bool) (mv : Nat), Live s → mv < 7500 → s.core.mode = .pressRun → s.pins.fPf = false → (s.input (!b)).low < 2 → (s.input b).low < 2 → Gives (.inputStageOff b mv) s fun t =>
    t.get (if b then Reg.Fount.IN_B_V else Reg.Fount.IN_A_V) = min mv 65535 ∧ t.get (if b then Reg.Fount.INPUT_B_LOST else Reg.Fount.INPUT_A_LOST) = 1 ∧ t.fnt.hibernating = false ∧ t.input b = { s.input b with mv := mv, on := false, healthy := false, low := 2 } ∧ t.input (!b) = s.input (!b) ∧ t.core = s.core ∧
    t.el.due = ⟨0x1001, 0, 0, opTimeOf s.core.opImp, s.core.cycles, (if b then 1 else 0), []⟩ :: s.el.due ∧ RegsBut [FieldSpec.key (if b then Reg.Fount.INPUT_B_LOST else Reg.Fount.INPUT_A_LOST) 0, FieldSpec.key (if b then Reg.Fount.IN_B_V else Reg.Fount.IN_A_V) 0] s t ∧ t = { s with rf := t.rf, fnt := t.fnt, el := t.el }) ∧
  (∀ (s : State) (b : Bool) (mv : Nat), Live s → mv < 8500 → (s.input b).low = 0 → Gives (.inputLow b mv) s fun t =>
    t.get (if b then Reg.Fount.IN_B_V else Reg.Fount.IN_A_V) = min mv 65535 ∧ RegsBut [FieldSpec.key (if b then Reg.Fount.IN_B_V else Reg.Fount.IN_A_V) 0] s t ∧ t = { (s.updInput b fun x => { x with mv := mv, low := 1, lowAt := s.core.imp }) with rf := t.rf }) ∧
  (∀ (s : State) (b : Bool) (mv : Nat), Live s → mv < 8500 → (s.input b).low = 1 → (s.input b).lowAt < s.core.imp → s.core.mode = .pressRun → s.pins.fPf = false → (s.input (!b)).low < 2 → Gives (.inputLow b mv) s fun t =>
    t.get (if b then Reg.Fount.IN_B_V else Reg.Fount.IN_A_V) = min mv 65535 ∧ t.get (if b then Reg.Fount.INPUT_B_LOST else Reg.Fount.INPUT_A_LOST) = 1 ∧ t.fnt.hibernating = false ∧ t.input b = { s.input b with mv := mv, low := 2, healthy := false } ∧ t.input (!b) = s.input (!b) ∧ t.core = s.core ∧
    t.el.due = ⟨0x1001, 0, 0, opTimeOf s.core.opImp, s.core.cycles, (if b then 1 else 0), []⟩ :: s.el.due ∧ RegsBut [FieldSpec.key (if b then Reg.Fount.INPUT_B_LOST else Reg.Fount.INPUT_A_LOST) 0, FieldSpec.key (if b then Reg.Fount.IN_B_V else Reg.Fount.IN_A_V) 0] s t ∧ t = { s with rf := t.rf, fnt := t.fnt, el := t.el }) ∧
  (∀ (s : State) (b : Bool) (mv : Nat), Live s → 9000 ≤ mv → (s.input b).faultAt = none → (s.input b).latched = false → s.core.mode = .pressRun → s.pins.fPf = false → Gives (.inputHealthy b mv) s fun t =>
    t.get (if b then Reg.Fount.IN_B_V else Reg.Fount.IN_A_V) = min mv 65535 ∧ RegsBut [FieldSpec.key (if b then Reg.Fount.IN_B_V else Reg.Fount.IN_A_V) 0] s t ∧ t.input b = { s.input b with mv := mv, low := 0, healthy := true } ∧ t.input (!b) = s.input (!b) ∧ t.fnt.carries = false ∧ t = { s with rf := t.rf, fnt := t.fnt }) ∧
  (∀ (s : State), Live s → s.core.mode = .pressRun → s.cast.due = none → s.pins.fPf = false → s.pins.pfIgnored = false → (s.pins.pfEdges.filter fun t => s.since t < 125000).length < 15 → s.get Reg.Fount.RIDE_MS ≠ 0 → s.fnt.calAt = none → Gives (.pwrfailAsserted) s fun t =>
    t.core = { s.core with prev := .pressRun, mode := .hold, entered := s.core.imp } ∧ t.get Reg.Fount.HOLD_ENTERED = 1 ∧ t.get Reg.Glb.STATE_CHANGE = 1 ∧ t.fnt = { s.fnt with holdAt := s.core.imp, holdCeil := s.get Reg.Fount.CEILING } ∧ t.pins.fPf = true ∧
    t.el.due = ⟨0x0002, 0, 0, opTimeOf s.core.opImp, s.core.cycles, 0, [7, 8]⟩ :: ⟨0x1002, 0, 0, opTimeOf s.core.opImp, s.core.cycles, 0, leBytes 4 (s.get Reg.Fount.CEILING)⟩ :: s.el.due ∧ RegsBut [Reg.Fount.HOLD_ENTERED.key 0, Reg.Glb.STATE_CHANGE.key 0, Reg.Hif.IBI_PENDING.key 0] s t ∧ t = { s with rf := t.rf, core := t.core, fnt := t.fnt, pins := t.pins, el := t.el }) ∧
  (∀ (s : State), Live s → s.core.mode = .hold → s.cast.due = none → s.pins.fPf = true → s.pins.pfIgnored = false → (s.pins.pfEdges.filter fun t => s.since t < 125000).length < 15 → inputsLost s = false → anyHealthy s = true → s.get Reg.Cast.RELEASE_GO = 0 → s.cast.attn = false → Gives (.pwrfailDeasserted) s fun t =>
    t.core = { s.core with prev := .hold, mode := .pressRun, entered := s.core.imp } ∧ t.get Reg.Fount.HOLD_RETURNED = 1 ∧ t.get Reg.Glb.STATE_CHANGE = 1 ∧ t.pins.fPf = false ∧
    t.el.due = ⟨0x0002, 0, 0, opTimeOf s.core.opImp, s.core.cycles, 0, [8, 7]⟩ :: ⟨0x1003, 0, 0, opTimeOf s.core.opImp, s.core.cycles, 0, leBytes 4 (s.since s.fnt.holdAt)⟩ :: s.el.due ∧ RegsBut [Reg.Fount.HOLD_RETURNED.key 0, Reg.Glb.STATE_CHANGE.key 0, Reg.Hif.IBI_PENDING.key 0] s t ∧ t = { s with rf := t.rf, core := t.core, pins := t.pins, el := t.el }) ∧
  (∀ (s : State), Live s → s.core.mode = .castDone → s.pins.fPf = true → s.pins.pfIgnored = false → anyHealthy s = true → 7500000 ≤ s.since (max s.pins.pfSince s.core.entered) → Gives (.pwrfailStuck) s fun t =>
    t.pins = { s.pins with pfIgnored := true } ∧ t.get Reg.Fount.PF_IGNORED = 1 ∧ t.get Reg.Fount.PF_STUCK_CAUSE = 1 ∧ t.get Reg.Fount.PWRFAIL_STUCK = 1 ∧ t.el.due = ⟨0x100D, 0, 0, opTimeOf s.core.opImp, s.core.cycles, 0, [1]⟩ :: s.el.due ∧ t.core = s.core ∧ RegsBut [Reg.Fount.PF_IGNORED.key 0, Reg.Fount.PF_STUCK_CAUSE.key 0, Reg.Fount.PWRFAIL_STUCK.key 0] s t ∧ t = { s with rf := t.rf, pins := t.pins, el := t.el, cast := t.cast }) ∧
  (∀ (s : State), Live s → s.pins.pfIgnored = true → s.pins.fPf = false → 125000 ≤ s.since s.pins.pfSince → Gives (.pwrfailTrusted) s fun t =>
    t.pins = { s.pins with pfIgnored := false } ∧ t.get Reg.Fount.PF_IGNORED = 0 ∧ t.get Reg.Fount.PF_STUCK_CAUSE = 0 ∧ RegsBut [Reg.Fount.PF_IGNORED.key 0, Reg.Fount.PF_STUCK_CAUSE.key 0] s t ∧ t = { s with rf := t.rf, pins := t.pins })

/-- On a bus in SDR mode: ENTDAA without a dynamic address sends the provisioned identifier, BCR 0x0E and DCR 0 and takes the address; SETDASA takes it
too, or is refused with LEGACY_REFUSED while an address is held; SETNEWDA replaces it, RSTDAA ends it. GETPID, GETBCR, GETDCR, GETMWL, GETMRL and
GETMXDS answer as Table 19.1 and 19.2 say, GETSTATUS with the pending classes, an error since the last one and MOD_STATE. ENEC and DISEC act on ENINT
only. SETMWL and SETMRL clamp to 7 to 4099 and 4 to 4096. RSTACT takes actions 0 to 2 and NACKs others; unsupported direct codes are NACKed. ENTHDR0
enters HDR-DDR; another HDR mode waits for the exit pattern. -/
def Obligations.CommonCommandCodes : Prop :=
  (∀ (s : State) (a : Nat), Live s → sdrOn s = true → hasAddr s = false → Gives (.entdaa a) s fun t =>
    t.get Reg.Hif.DYN_ADDR = a % 128 ∧ t.out = .ccc 0x07 (msbBytes 6 (pidOf s) ++ [0x0E, 0x00]) :: s.out ∧ RegsBut [Reg.Hif.DYN_ADDR.key 0] s t ∧ t = { s with rf := t.rf, out := t.out }) ∧
  (∀ (s : State) (a : Nat), Live s → sdrOn s = true → hasAddr s = false → Gives (.setdasa a) s fun t =>
    t.get Reg.Hif.DYN_ADDR = a % 128 ∧ RegsBut [Reg.Hif.DYN_ADDR.key 0] s t ∧ t = { s with rf := t.rf }) ∧
  (∀ (s : State) (a : Nat), Live s → sdrOn s = true → hasAddr s = true → Gives (.setdasa a) s fun t =>
    t.get Reg.Hif.LEGACY_REFUSED = 1 ∧ t.hif = { s.hif with errSince := true } ∧ t.out = .nack :: s.out ∧ RegsBut [Reg.Hif.LEGACY_REFUSED.key 0] s t ∧ t = { s with rf := t.rf, hif := t.hif, out := t.out }) ∧
  (∀ (s : State) (a : Nat), Live s → sdrOn s = true → hasAddr s = true → Gives (.setnewda a) s fun t =>
    t.get Reg.Hif.DYN_ADDR = a % 128 ∧ RegsBut [Reg.Hif.DYN_ADDR.key 0] s t ∧ t = { s with rf := t.rf }) ∧
  (∀ (s : State), Live s → sdrOn s = true → Gives (.rstdaa) s fun t =>
    t.get Reg.Hif.DYN_ADDR = 0 ∧ RegsBut [Reg.Hif.DYN_ADDR.key 0] s t ∧ t = { s with rf := t.rf }) ∧
  (∀ (s : State), Live s → sdrOn s = true → hasAddr s = true → Gives (.getpid) s fun t =>
    t = { s with out := .ccc 0x8D (msbBytes 6 (pidOf s)) :: s.out }) ∧
  (∀ (s : State), Live s → sdrOn s = true → hasAddr s = true → Gives (.getbcr) s fun t =>
    t = { s with out := .ccc 0x8E [0x0E] :: s.out }) ∧
  (∀ (s : State), Live s → sdrOn s = true → hasAddr s = true → Gives (.getdcr) s fun t =>
    t = { s with out := .ccc 0x8F [0x00] :: s.out }) ∧
  (∀ (s : State), Live s → sdrOn s = true → hasAddr s = true → Gives (.getmwl) s fun t =>
    t = { s with out := .ccc 0x8B (msbBytes 2 (s.get Reg.Hif.MWL)) :: s.out }) ∧
  (∀ (s : State), Live s → sdrOn s = true → hasAddr s = true → Gives (.getmrl) s fun t =>
    t = { s with out := .ccc 0x8C (msbBytes 2 (s.get Reg.Hif.MRL) ++ [1]) :: s.out }) ∧
  (∀ (s : State), Live s → sdrOn s = true → hasAddr s = true → Gives (.getmxds) s fun t =>
    t = { s with out := .ccc 0x94 [0, 0] :: s.out }) ∧
  (∀ (s : State), Live s → sdrOn s = true → hasAddr s = true → Gives (.getstatus) s fun t =>
    t = { s with out := .ccc 0x90 [s.core.mode.code, ibiCount s + 32 * (if s.hif.errSince then 1 else 0)] :: s.out, hif := { s.hif with errSince := false } }) ∧
  (∀ (s : State) (bits : Nat), Live s → sdrOn s = true → Gives (.enec bits) s fun t =>
    t.get Reg.Hif.IBI_ENABLED = (if bits % 2 = 1 then 1 else s.get Reg.Hif.IBI_ENABLED) ∧ RegsBut [Reg.Hif.IBI_ENABLED.key 0] s t ∧ t = { s with rf := t.rf }) ∧
  (∀ (s : State) (bits : Nat), Live s → sdrOn s = true → Gives (.disec bits) s fun t =>
    t.get Reg.Hif.IBI_ENABLED = (if bits % 2 = 1 then 0 else s.get Reg.Hif.IBI_ENABLED) ∧ RegsBut [Reg.Hif.IBI_ENABLED.key 0] s t ∧ t = { s with rf := t.rf }) ∧
  (∀ (s : State) (v : Nat), Live s → sdrOn s = true → Gives (.setmwl v) s fun t =>
    t.get Reg.Hif.MWL = max 7 (min 4099 v) ∧ RegsBut [Reg.Hif.MWL.key 0] s t ∧ t = { s with rf := t.rf }) ∧
  (∀ (s : State) (v : Nat), Live s → sdrOn s = true → Gives (.setmrl v) s fun t =>
    t.get Reg.Hif.MRL = max 4 (min 4096 v) ∧ RegsBut [Reg.Hif.MRL.key 0] s t ∧ t = { s with rf := t.rf }) ∧
  (∀ (s : State) (a : Nat), Live s → sdrOn s = true → a ≤ 2 → Gives (.rstact a) s fun t =>
    t = { s with hif := { s.hif with rstact := a } }) ∧
  (∀ (s : State) (a : Nat), Live s → sdrOn s = true → 2 < a → Gives (.rstact a) s fun t =>
    t = { s with out := .nack :: s.out }) ∧
  (∀ (s : State) (code : Nat), Live s → sdrOn s = true → Gives (.cccUnsupported code true) s fun t =>
    t = { s with out := .nack :: s.out }) ∧
  (∀ (s : State) (code : Nat), Live s → NoEffect (.cccUnsupported code false) s) ∧
  (∀ (s : State), Live s → sdrOn s = true → Gives (.enthdr0) s fun t =>
    t = { s with hif := { s.hif with hdr := true } }) ∧
  (∀ (s : State) (n : Nat), Live s → sdrOn s = true → Gives (.enthdrUnsupported n) s fun t =>
    t = { s with hif := { s.hif with hdrOther := true } })

/-- A private write or an HDR-DDR write of an aligned address and whole words sets the read pointer and queues one word for each consecutive address, to
land at the next boundary; a misaligned address only sets ALIGN_ERR. A read delivers the words from the read pointer on, which advances by 4 for each.
Legacy transfers are refused while a dynamic address is held. The aperture of window 1 reads and writes the host buffer and advances WIN_OFFSET. A
register write of an unaligned address sets ALIGN_ERR, of an undefined one UNMAPPED; a word of read-write fields is stored. An impression boundary
advances the impression counter by one and records every event that arose. -/
def Obligations.RegisterTransfers : Prop :=
  (∀ (s : State) (bs : List (BitVec 8)) (a b c : Nat) (data ws : List Nat), Live s → sdrOn s = true → hasAddr s = true → bs.map BitVec.toNat = a :: b :: c :: data → beValue [a, b, c] % 4 = 0 → data.length ≤ s.get Reg.Hif.MWL - 3 → wordsOf data = (ws, 0) → Gives (.privateWrite bs) s fun t =>
    t.hif = { s.hif with ptr := beValue [a, b, c] } ∧ t.rf = { s.rf with hostWrites := s.rf.hostWrites ++ ((List.range ws.length).zip ws).map fun x => ((beValue [a, b, c] + 4 * x.1) % 2 ^ 24, x.2) } ∧ t = { s with rf := t.rf, hif := t.hif }) ∧
  (∀ (s : State) (bs : List (BitVec 8)) (a b c : Nat) (data : List Nat), Live s → sdrOn s = true → hasAddr s = true → bs.map BitVec.toNat = a :: b :: c :: data → beValue [a, b, c] % 4 ≠ 0 → Gives (.privateWrite bs) s fun t =>
    t.get Reg.Hif.ALIGN_ERR = 1 ∧ t.hif = { s.hif with errSince := true } ∧ RegsBut [Reg.Hif.ALIGN_ERR.key 0] s t ∧ t = { s with rf := t.rf, hif := t.hif }) ∧
  (∀ (s : State) (w : Nat) (u : State), Live s → sdrOn s = true → hasAddr s = true → 4 ≤ s.get Reg.Hif.MRL → hostRead s.hif.ptr s = (w, u) → Gives (.privateRead 4) s fun t =>
    t = { u with hif := { u.hif with ptr := (s.hif.ptr + 4) % 2 ^ 24 }, out := .hostBytes (msbBytes 4 w) :: u.out }) ∧
  (∀ (s : State) (hs : List (BitVec 16)) (a b : Nat) (data ws : List Nat), Live s → s.hostUp = true → s.hif.hdr = true → hasAddr s = true → hs.map BitVec.toNat = a :: b :: data → (a * 256 + b / 256) % 4 = 0 → (data.take (data.length / 2 * 2)).length * 2 ≤ s.get Reg.Hif.MWL - 3 → wordsOf ((data.take (data.length / 2 * 2)).flatMap (msbBytes 2)) = (ws, 0) → Gives (.hdrDdrWrite hs) s fun t =>
    t.hif = { s.hif with ptr := a * 256 + b / 256 } ∧ t.rf = { s.rf with hostWrites := s.rf.hostWrites ++ ((List.range ws.length).zip ws).map fun x => ((a * 256 + b / 256 + 4 * x.1) % 2 ^ 24, x.2) } ∧ t = { s with rf := t.rf, hif := t.hif }) ∧
  (∀ (s : State) (hs : List (BitVec 16)) (a b : Nat) (data : List Nat), Live s → s.hostUp = true → s.hif.hdr = true → hasAddr s = true → hs.map BitVec.toNat = a :: b :: data → (a * 256 + b / 256) % 4 = 0 → Gives (.hdrDdrSetPointer hs) s fun t =>
    t = { s with hif := { s.hif with ptr := a * 256 + b / 256 } }) ∧
  (∀ (s : State) (w : Nat) (u : State), Live s → s.hostUp = true → s.hif.hdr = true → hasAddr s = true → 4 ≤ s.get Reg.Hif.MRL → hostRead s.hif.ptr s = (w, u) → Gives (.hdrDdrRead 1) s fun t =>
    t = { u with hif := { u.hif with ptr := (s.hif.ptr + 4) % 2 ^ 24 }, out := .hostBytes (msbBytes 4 w) :: u.out }) ∧
  (∀ (s : State), Live s → s.hostUp = true → Gives (.hdrExit) s fun t =>
    t = { s with hif := { s.hif with hdr := false, hdrOther := false } }) ∧
  (∀ (s : State), Live s → s.hostUp = true → s.hif.rstact = 1 → Gives (.targetResetPattern) s fun t =>
    t = { s with hif := { s.hif with rstact := 0, nackAt := none, hdr := false, hdrOther := false } }) ∧
  (∀ (s : State) (bs : List (BitVec 8)) (n : Nat), Live s → sdrOn s = true → hasAddr s = true → Gives (.legacyI2cTransfer bs n) s fun t =>
    t.get Reg.Hif.LEGACY_REFUSED = 1 ∧ t.hif = { s.hif with errSince := true } ∧ t.out = .nack :: s.out ∧ RegsBut [Reg.Hif.LEGACY_REFUSED.key 0] s t ∧ t = { s with rf := t.rf, hif := t.hif, out := t.out }) ∧
  (∀ (s : State) (bs : List (BitVec 8)) (a b c : Nat) (data ws : List Nat), Live s → sdrOn s = true → hasAddr s = false → bs.map BitVec.toNat = a :: b :: c :: data → beValue [a, b, c] % 4 = 0 → data.length ≤ s.get Reg.Hif.MWL - 3 → wordsOf data = (ws, 0) → Gives (.legacyI2cTransfer bs 0) s fun t =>
    t.hif = { s.hif with ptr := beValue [a, b, c] } ∧ t.rf = { s.rf with hostWrites := s.rf.hostWrites ++ ((List.range ws.length).zip ws).map fun x => ((beValue [a, b, c] + 4 * x.1) % 2 ^ 24, x.2) } ∧ t = { s with rf := t.rf, hif := t.hif }) ∧
  (∀ (s : State) (c : Nat), Live s → wantedIbi s = some c → mayRequest s = true → s.hif.nackAt = none → Gives (.ibiRequest true) s fun t =>
    t = { s with hif := { s.hif with delivered := insertBy id c s.hif.delivered, nackAt := none }, out := .ibi c :: s.out }) ∧
  (∀ (s : State) (c : Nat), Live s → wantedIbi s = some c → mayRequest s = true → s.hif.nackAt = none → Gives (.ibiRequest false) s fun t =>
    t.get Reg.Hif.IBI_NACKED = 1 ∧ t.hif = { s.hif with nackAt := some s.core.imp, errSince := true } ∧ RegsBut [Reg.Hif.IBI_NACKED.key 0] s t ∧ t = { s with rf := t.rf, hif := t.hif }) ∧
  (∀ (s : State) (c a : Nat), Live s → wantedIbi s = some c → mayRequest s = true → s.hif.nackAt = some a → 125 ≤ s.since a → Gives (.ibiRetry true) s fun t =>
    t = { s with hif := { s.hif with delivered := insertBy id c s.hif.delivered, nackAt := none }, out := .ibi c :: s.out }) ∧
  (∀ (s : State) (v : RegWord), Live s → Gives (.winSel v) s fun t =>
    t.get Reg.Win.WIN_SEL = v.toNat % 8 ∧ t.hif = { s.hif with krecLatch := (s.sec.rec_.map krecBytes).getD [] } ∧ RegsBut [Reg.Win.WIN_SEL.key 0] s t ∧ t = { s with rf := t.rf, hif := t.hif }) ∧
  (∀ (s : State) (v : RegWord), Live s → s.get Reg.Win.WIN_SEL = 1 → winAt s < 262144 → Gives (.windowAccess (some v)) s fun t =>
    t.hostBuf = putBytes (winAt s) (leBytes 4 v.toNat) s.hostBuf ∧ t.get Reg.Win.WIN_OFFSET = (s.get Reg.Win.WIN_OFFSET + 4) % 2 ^ 24 ∧ RegsBut [Reg.Win.WIN_OFFSET.key 0] s t ∧ t = { s with rf := t.rf, hostBuf := t.hostBuf }) ∧
  (∀ (s : State), Live s → s.get Reg.Win.WIN_SEL = 1 → winAt s < 262144 → Gives (.windowAccess none) s fun t =>
    t.out = .hostBytes (leBytes 4 (leValue ((List.range 4).map fun j => ngetD (winAt s + j) 0 s.hostBuf))).reverse :: s.out ∧ t.get Reg.Win.WIN_OFFSET = (s.get Reg.Win.WIN_OFFSET + 4) % 2 ^ 24 ∧ RegsBut [Reg.Win.WIN_OFFSET.key 0] s t ∧ t = { s with rf := t.rf, out := t.out }) ∧
  (∀ (s : State) (a : RegAddr) (v : RegWord), Live s → s.hostUp = true → a.toNat % 4 ≠ 0 → Gives (.registerWrite a v) s fun t =>
    t.get Reg.Hif.ALIGN_ERR = 1 ∧ t.hif = { s.hif with errSince := true } ∧ RegsBut [Reg.Hif.ALIGN_ERR.key 0] s t ∧ t = { s with rf := t.rf, hif := t.hif }) ∧
  (∀ (s : State) (v : RegWord), Live s → s.hostUp = true → s.get Reg.Glb.SNAP_GO = 0 → Gives (.registerWrite 0x010014 v) s fun t =>
    t.get Reg.Hif.HIF_INT_EN = v.toNat % 128 ∧ RegsBut [Reg.Hif.HIF_INT_EN.key 0] s t ∧ t = { s with rf := t.rf }) ∧
  (∀ (s : State) (x : BoundaryIn), Live s → Gives (.impressionBoundary x) s fun t =>
    t.core.imp = s.core.imp + 1 ∧ t.el.due = [] ∧ t.pending = s.pending ∧ Canonical t)

/-- A flush writes the buffer at the next 4096-byte page of the record area of every half in service; it comes 1 s after the last one, or when LOG_FLUSH
asks for it. FREEZE flushes and sets FROZEN, which ends by a write of 0 or after 300 s with FREEZE_EXPIRED. LOG_CLEAR of a frozen log that the image
permits erases the region, and is refused otherwise; at its end the clear counts and the LOG_CLEARED record stand in every half. A rate window with
events dropped ends in a record that counts them. ANCHOR_GO records the wall clock with the impression counter. -/
def Obligations.ErrataLogKeeping : Prop :=
  (∀ (s : State) (r : ErrRec), Live s → s.halfOk = true → s.get Reg.El.FROZEN = 0 → s.el.clearAt = none → 125000 ≤ s.since s.el.lastFlush → s.el.buf = [r] → s.get Reg.El.EL_FULL = 0 → roundUp s.el.logEnd 4096 + r.len ≤ logLimit → Gives (.errataFlush) s fun t =>
    t.el = { s.el with buf := [], lastFlush := s.core.imp, flushDue := false, logEnd := roundUp s.el.logEnd 4096 + r.len } ∧
    t.st0 = (if s.st0.ok then { s.st0 with log.recs := nset (roundUp s.el.logEnd 4096) r s.st0.log.recs } else s.st0) ∧ t.st1 = (if s.st1.ok then { s.st1 with log.recs := nset (roundUp s.el.logEnd 4096) r s.st1.log.recs } else s.st1) ∧ t = { s with el := t.el, st0 := t.st0, st1 := t.st1 }) ∧
  (∀ (s : State) (r : ErrRec), Live s → s.halfOk = true → s.get Reg.El.FROZEN = 0 → s.el.clearAt = none → s.el.buf = [r] → s.get Reg.El.EL_FULL = 0 → roundUp s.el.logEnd 4096 + r.len ≤ logLimit → Gives (.logFlush) s fun t =>
    t.el = { s.el with buf := [], lastFlush := s.core.imp, flushDue := false, logEnd := roundUp s.el.logEnd 4096 + r.len } ∧
    t.st0 = (if s.st0.ok then { s.st0 with log.recs := nset (roundUp s.el.logEnd 4096) r s.st0.log.recs } else s.st0) ∧ t.st1 = (if s.st1.ok then { s.st1 with log.recs := nset (roundUp s.el.logEnd 4096) r s.st1.log.recs } else s.st1) ∧ RegsBut [Reg.El.LOG_FLUSH.key 0] s t ∧ t = { s with rf := t.rf, el := t.el, st0 := t.st0, st1 := t.st1 }) ∧
  (∀ (s : State), Live s → s.halfOk = true → s.get Reg.El.FROZEN = 0 → s.el.buf = [] → Gives (.freeze true) s fun t =>
    t.get Reg.El.FREEZE = 1 ∧ t.get Reg.El.FROZEN = 1 ∧ t.el = { s.el with lastFlush := s.core.imp, flushDue := false, freezeAt := some s.core.imp } ∧ RegsBut [Reg.El.FREEZE.key 0, Reg.El.FROZEN.key 0] s t ∧ t = { s with rf := t.rf, el := t.el }) ∧
  (∀ (s : State), Live s → s.get Reg.El.FREEZE = 1 → Gives (.freeze false) s fun t =>
    t.get Reg.El.FREEZE = 0 ∧ t.get Reg.El.FROZEN = 0 ∧ t.el = { s.el with freezeAt := none, flushDue := true } ∧ RegsBut [Reg.El.FREEZE.key 0, Reg.El.FROZEN.key 0] s t ∧ t = { s with rf := t.rf, el := t.el }) ∧
  (∀ (s : State) (a : Nat), Live s → s.el.freezeAt = some a → s.get Reg.El.FROZEN = 1 → 37500000 ≤ s.since a → Gives (.freezeExpired) s fun t =>
    t.get Reg.El.FREEZE = 0 ∧ t.get Reg.El.FROZEN = 0 ∧ t.get Reg.El.FREEZE_EXPIRED = 1 ∧ t.el = { s.el with freezeAt := none, flushDue := true, due := ⟨0x0007, 0, 0, opTimeOf s.core.opImp, s.core.cycles, 0, []⟩ :: s.el.due } ∧ RegsBut [Reg.El.FREEZE.key 0, Reg.El.FROZEN.key 0, Reg.El.FREEZE_EXPIRED.key 0] s t ∧ t = { s with rf := t.rf, el := t.el }) ∧
  (∀ (s : State), Live s → s.get Reg.El.LOG_CLEAR_OK = 1 → s.img.committed = true → s.get Reg.El.FROZEN = 1 → Gives (.logClear) s fun t =>
    t.get Reg.El.LOG_CLEAR = 1 ∧ t.el = { s.el with clearAt := some s.core.imp, clearUsed := roundUp s.el.logEnd 4096 } ∧
    t.st0 = (if s.st0.ok then { s.st0 with log := { s.st0.log with hdrOk := false, recs := [], full := none } } else s.st0) ∧ t.st1 = (if s.st1.ok then { s.st1 with log := { s.st1.log with hdrOk := false, recs := [], full := none } } else s.st1) ∧ RegsBut [Reg.El.LOG_CLEAR.key 0] s t ∧ t = { s with rf := t.rf, el := t.el, st0 := t.st0, st1 := t.st1 }) ∧
  (∀ (s : State), Live s → (s.get Reg.El.LOG_CLEAR_OK = 0 ∨ s.img.committed = false ∨ s.get Reg.El.FROZEN = 0) → Gives (.logClear) s fun t =>
    t.get Reg.El.CLEAR_REFUSED = 1 ∧ RegsBut [Reg.El.LOG_CLEAR.key 0, Reg.El.CLEAR_REFUSED.key 0] s t ∧ t = { s with rf := t.rf }) ∧
  (∀ (s : State) (a : Nat) (r : ErrRec), Live s → s.el.clearAt = some a → r = ⟨0x0006, 0, 0, opTimeOf s.core.opImp, s.core.cycles, 0, leBytes 4 s.el.clearUsed ++ leBytes 4 (s.get Reg.El.ERRATA_LOST) ++ leBytes 4 (max s.st0.log.clears s.st1.log.clears + 1)⟩ → Gives (.logClearComplete) s fun t =>
    t.get Reg.El.FREEZE = 0 ∧ t.get Reg.El.FROZEN = 0 ∧ t.get Reg.El.EL_CLEARED = 1 ∧ t.get Reg.El.ERRATA_LOST = 0 ∧ t.el = { s.el with clearAt := none, freezeAt := none, flushDue := true, logEnd := 4096 + r.len } ∧
    t.st0 = (if s.st0.ok then { s.st0 with log := ⟨true, max s.st0.log.clears s.st1.log.clears + 1, opTimeOf s.core.opImp, s.core.cycles, [(4096, r)], none⟩ } else s.st0) ∧ t.st1 = (if s.st1.ok then { s.st1 with log := ⟨true, max s.st0.log.clears s.st1.log.clears + 1, opTimeOf s.core.opImp, s.core.cycles, [(4096, r)], none⟩ } else s.st1) ∧ RegsBut [Reg.El.FREEZE.key 0, Reg.El.FROZEN.key 0, Reg.El.EL_CLEARED.key 0, Reg.El.ERRATA_LOST.key 0] s t ∧ t = { s with rf := t.rf, el := t.el, st0 := t.st0, st1 := t.st1 }) ∧
  (∀ (s : State) (code : Nat) (w : RateWin), Live s → nfind code s.el.wins = some w → s.get Reg.El.RATE_WINDOW * 7500000 ≤ s.since w.start → w.dropped = 0 → Gives (.rateWindowEnd code) s fun t =>
    t = { s with el := { s.el with wins := ndel code s.el.wins } }) ∧
  (∀ (s : State) (code : Nat) (w : RateWin) (r : ErrRec), Live s → nfind code s.el.wins = some w → s.get Reg.El.RATE_WINDOW * 7500000 ≤ s.since w.start → w.dropped ≠ 0 → s.get Reg.El.FROZEN = 0 → r = ⟨code, 1, 0, opTimeOf (s.core.opImp - s.since w.start + s.get Reg.El.RATE_WINDOW * 7500000), s.core.cycles, w.lastSrc, leBytes 4 w.dropped ++ leBytes 4 (opTimeOf (s.core.opImp - s.since w.start))⟩ → s.el.used + r.len ≤ 65536 → Gives (.rateWindowEnd code) s fun t =>
    t = { s with el := { s.el with wins := ndel code s.el.wins, buf := s.el.buf ++ [r] } }) ∧
  (∀ (s : State), Live s → Gives (.anchorGo) s fun t =>
    t.get Reg.El.ANCHOR_GO = 1 ∧ t.el.due = ⟨0x0004, 0, 0, opTimeOf s.core.opImp, s.core.cycles, 0, (leBytes 8 (s.get Reg.El.ANCHOR_WALL_LO + 2 ^ 32 * s.get Reg.El.ANCHOR_WALL_HI) ++ leBytes 8 s.core.imp ++ leBytes 2 (s.get Reg.El.ANCHOR_TAG))⟩ :: s.el.due ∧ RegsBut [Reg.El.ANCHOR_GO.key 0] s t ∧ t = { s with rf := t.rf, el := t.el })

/-- GO on an idle host channel starts a run at the descriptor pointer with BYTES_DONE and DESC_INDEX 0 and CH_STATUS running; while it runs, GO is refused
with GO_REFUSED and 0xB003. ABORT ends a run with status 7. A step moves the rest of a short last descriptor between ranges of the host buffer, counts
the bytes and the descriptor, and ends the run as done. A good retry counts one bus error; after a shared stop the stopped channels start their
descriptor again without prefetch. SNAP_GO latches the counters of this boundary; the counter record goes to every half in service as a new
generation. -/
def Obligations.DmaChannelsAndSnapshots : Prop :=
  (∀ (s : State) (c : Fin 64), Live s → hostChannel s c.val = true → nfind c.val s.dma.runs = none → s.core.mode = .pressRun → Gives (.dmaGo c) s fun t =>
    t.dma = { s.dma with runs := nset c.val { nextDesc := s.get Reg.Dma.DESC_PTR_LO c.val + 2 ^ 32 * s.get Reg.Dma.DESC_PTR_HI c.val, started := s.core.imp } s.dma.runs } ∧ t.get Reg.Dma.CH_STATUS c.val = 1 ∧ t.get Reg.Dma.BYTES_DONE c.val = 0 ∧ t.get Reg.Dma.DESC_INDEX c.val = 0 ∧
    RegsBut [Reg.Dma.GO.key c.val, Reg.Dma.CH_STATUS.key c.val, Reg.Dma.BYTES_DONE.key c.val, Reg.Dma.DESC_INDEX.key c.val] s t ∧ t = { s with rf := t.rf, dma := t.dma }) ∧
  (∀ (s : State) (c : Fin 64), Live s → hostChannel s c.val = true → (nfind c.val s.dma.runs).isSome = true → Gives (.dmaGo c) s fun t =>
    t.get Reg.Dma.GO_REFUSED = 1 ∧ t.el.due = ⟨0xB003, 0, 0, opTimeOf s.core.opImp, s.core.cycles, c.val, []⟩ :: s.el.due ∧ t.dma = s.dma ∧ RegsBut [Reg.Dma.GO.key c.val, Reg.Dma.GO_REFUSED.key 0] s t ∧ t = { s with rf := t.rf, el := t.el }) ∧
  (∀ (s : State) (c : Fin 64), Live s → hostChannel s c.val = true → (nfind c.val s.dma.runs).isSome = true → Gives (.dmaAbort c) s fun t =>
    t.dma = { s.dma with runs := ndel c.val s.dma.runs } ∧ t.get Reg.Dma.CH_STATUS c.val = 7 ∧ RegsBut [Reg.Dma.ABORT.key c.val, Reg.Dma.CH_STATUS.key c.val] s t ∧ t = { s with rf := t.rf, dma := t.dma }) ∧
  (∀ (s : State) (c : Fin 64) (r : DmaRun) (d : DmaCur), Live s → s.dma.runs = [(c.val, r)] → r.started < s.core.imp → r.restart = false → r.retry = none → r.cur = some d → d.left = d.len → 0 < d.len → d.len ≤ 262144 → d.last = true → d.irq = false → dmaTarget d.src = 6 → dmaTarget d.dst = 6 → d.overlaps = false → (∀ b ∈ beatsOf d.src d.len, beatBad s false b = false) → (∀ b ∈ beatsOf d.dst d.len, beatBad s true b = false) → Gives (.dmaStep c) s fun t =>
    t.hostBuf = putBytes (dmaOffset d.dst) ((List.range d.len).map fun i => ngetD (dmaOffset d.src + i) 0 s.hostBuf) s.hostBuf ∧ t.dma.runs = [] ∧ t.get Reg.Dma.CH_STATUS c.val = 2 ∧ t.get Reg.Dma.HOST_DONE = 1 ∧
    t.get Reg.Dma.BYTES_DONE c.val = min (s.get Reg.Dma.BYTES_DONE c.val + d.len) (2 ^ 32 - 1) ∧ t.get Reg.Dma.DESC_INDEX c.val = min (s.get Reg.Dma.DESC_INDEX c.val + 1) 8191 ∧
    RegsBut [Reg.Dma.CH_STATUS.key c.val, Reg.Dma.BYTES_DONE.key c.val, Reg.Dma.DESC_INDEX.key c.val, Reg.Dma.HOST_DONE.key 0, Reg.Dma.HOST_DONE_MASK.key 0] s t ∧ t = { s with rf := t.rf, dma := t.dma, hostBuf := t.hostBuf }) ∧
  (∀ (s : State) (c : Fin 64) (r : DmaRun) (a n : Nat), Live s → nfind c.val s.dma.runs = some r → r.restart = false → r.retry = some (a, false, n) → n < s.get Reg.Dma.RETRY_COUNT → beatBad s false a = false → Gives (.busErrorRetry c .read a true) s fun t =>
    t.dma.runs = nset c.val { r with retry := none } (nset c.val { r with retry := some (a, false, n + 1) } s.dma.runs) ∧ t.get Reg.Dma.BUS_ERRORS = min (s.get Reg.Dma.BUS_ERRORS + 1) (2 ^ 32 - 1) ∧ RegsBut [Reg.Dma.BUS_ERRORS.key 0] s t ∧ t = { s with rf := t.rf, dma := t.dma }) ∧
  (∀ (s : State) (a c : Nat) (r : DmaRun) (d : DmaCur), Live s → s.dma.sharedAt = some a → a < s.core.imp → s.dma.runs = [(c, r)] → r.restart = true → r.cur = some d → d.overlaps = false → Gives (.sharedStopRestart) s fun t =>
    t.dma = { s.dma with sharedAt := none, runs := [(c, { r with restart := false, noPrefetch := true, cur := some { d with left := d.len } })] } ∧ t.get Reg.Dma.CH_STATUS c = 1 ∧ RegsBut [Reg.Dma.CH_STATUS.key c] s t ∧ t = { s with rf := t.rf, dma := t.dma }) ∧
  (∀ (s : State), Live s → Gives (.snapGo) s fun t =>
    t.get Reg.Glb.SNAP_IMP_LO = s.core.imp % 2 ^ 32 ∧ t.get Reg.Glb.SNAP_IMP_HI = s.core.imp / 2 ^ 32 % 2 ^ 32 ∧ t.get Reg.Glb.SNAP_OP_TIME = opTimeOf s.core.opImp % 2 ^ 32 ∧ t.get Reg.Glb.SNAP_CYCLES = s.core.cycles % 2 ^ 24 ∧ t.get Reg.Glb.SNAP_DIRTY = s.dirty % 2 ^ 25 ∧ t.get Reg.Glb.SNAP_CEILING = s.get Reg.Fount.CEILING % 2 ^ 25 ∧
    RegsBut [Reg.Glb.SNAP_GO.key 0, Reg.Glb.SNAP_IMP_LO.key 0, Reg.Glb.SNAP_IMP_HI.key 0, Reg.Glb.SNAP_OP_TIME.key 0, Reg.Glb.SNAP_CYCLES.key 0, Reg.Glb.SNAP_DIRTY.key 0, Reg.Glb.SNAP_CEILING.key 0, Reg.Glb.SNAP_SUM0.key 0, Reg.Glb.SNAP_SUM1.key 0, Reg.Glb.SNAP_STATUS.key 0] s t ∧ t = { s with rf := t.rf }) ∧
  (∀ (s : State), Live s → s.core.mode ≠ .powerQualify → 7500000 ≤ s.since s.core.ctrAt → s.halfOk = true → Gives (.counterRecordWrite) s fun t =>
    t.core = { s.core with ctrGen := s.core.ctrGen + 1, ctrAt := s.core.imp } ∧ t.st0 = (if s.st0.ok then { s.st0 with ctrRecs := nset ((s.core.ctrGen + 1) % 2) ⟨s.core.ctrGen + 1, s.core.opImp, s.core.cycles⟩ s.st0.ctrRecs } else s.st0) ∧ t.st1 = (if s.st1.ok then { s.st1 with ctrRecs := nset ((s.core.ctrGen + 1) % 2) ⟨s.core.ctrGen + 1, s.core.opImp, s.core.cycles⟩ s.st1.ctrRecs } else s.st1) ∧ t = { s with core := t.core, st0 := t.st0, st1 := t.st1 })

/-- In KEY_WAIT KEK_LOAD without a key record accepts the key, draws a check key and writes the first record; outside KEY_WAIT it is refused with KEK_BAD
and 0xD002. A valid record in window 4 is imported in KEY_WAIT. KEK_ROTATE begins a rotation and its end puts the new key in force. SEC_LOAD replaces
the secrets and zeroes window 5. A generator that fails its health test sets RNG_FAIL. A tamper edge in KEY_WAIT zeroizes every key and secret at once
and logs 0xD001; when a clear ends in MAINTENANCE the response is over. An attention edge outside PRESS_RUN and HOLD is ignored, in HOLD it is kept;
held for 10 s the button is stuck. -/
def Obligations.KeysSecretsAndTamper : Prop :=
  (∀ (s : State), Live s → s.core.mode = .keyWait → s.get Reg.Sec.KEK_OK = 0 → s.get Reg.Sec.RNG_FAIL = 0 → s.sec.tamperAt ≠ some s.core.imp → s.sec.rec_ = none → s.sec.imported = none → Gives (.kekLoad) s fun t =>
    t.sec = { s.sec with kek := some (keyWords Reg.Sec.KEK s), check := some (Config.drbg s.core.rngCount % 2 ^ 256), dataKeys := [], imported := none, rec_ := some { gen := 1, serial := Config.serial, check := Config.keyWrap (keyWords Reg.Sec.KEK s) (Config.drbg s.core.rngCount % 2 ^ 256), entries := [] } } ∧ t.core = { s.core with rngCount := s.core.rngCount + 1 } ∧
    t.get Reg.Sec.KEK_OK = 1 ∧ t.get Reg.Sec.KEK_ACCEPTED = 1 ∧ t.get Reg.Sec.KREC_VALID = 1 ∧ t.el.due = ⟨0xD002, 0, 0, opTimeOf s.core.opImp, s.core.cycles, 0, [0]⟩ :: s.el.due ∧
    t.st0 = (if s.st0.ok then { s.st0 with keyRecs := nset 1 { gen := 1, serial := Config.serial, check := Config.keyWrap (keyWords Reg.Sec.KEK s) (Config.drbg s.core.rngCount % 2 ^ 256), entries := [] } s.st0.keyRecs } else s.st0) ∧ t.st1 = (if s.st1.ok then { s.st1 with keyRecs := nset 1 { gen := 1, serial := Config.serial, check := Config.keyWrap (keyWords Reg.Sec.KEK s) (Config.drbg s.core.rngCount % 2 ^ 256), entries := [] } s.st1.keyRecs } else s.st1) ∧
    RegsBut [Reg.Sec.KEK_LOAD.key 0, Reg.Sec.KEK_OK.key 0, Reg.Sec.KEK_ACCEPTED.key 0, Reg.Sec.KREC_VALID.key 0, Reg.Sec.KREC_GEN_LO.key 0, Reg.Sec.KREC_GEN_HI.key 0] s t ∧ t = { s with rf := t.rf, core := t.core, sec := t.sec, el := t.el, st0 := t.st0, st1 := t.st1 }) ∧
  (∀ (s : State), Live s → s.core.mode ≠ .keyWait → s.sec.tamperAt ≠ some s.core.imp → Gives (.kekLoad) s fun t =>
    t.get Reg.Sec.KEK_BAD = 1 ∧ (∀ j < 8, t.get Reg.Sec.KEK j = 0) ∧ t.sec = s.sec ∧ t.el.due = ⟨0xD002, 0, 0, opTimeOf s.core.opImp, s.core.cycles, 0, [1]⟩ :: s.el.due ∧ RegsBut ([Reg.Sec.KEK_LOAD.key 0, Reg.Sec.KEK_BAD.key 0] ++ (List.range 8).map Reg.Sec.KEK.key) s t ∧ t = { s with rf := t.rf, el := t.el }) ∧
  (∀ (s : State), Live s → s.core.mode = .keyWait → s.get Reg.Sec.KEK_OK = 0 → Gives (.krecImport) s fun t =>
    (match krecParse ((List.range 4096).map fun j => ngetD j 0 s.hif.win4) with
      | some r => t.sec = { s.sec with imported := some r } ∧ t.get Reg.Sec.IMPORT_BAD = s.get Reg.Sec.IMPORT_BAD
      | none => t.sec = s.sec ∧ t.get Reg.Sec.IMPORT_BAD = 1) ∧ RegsBut [Reg.Sec.KREC_IMPORT.key 0, Reg.Sec.IMPORT_BAD.key 0] s t ∧ t = { s with rf := t.rf, sec := t.sec }) ∧
  (∀ (s : State), Live s → (s.core.mode = .pressRun ∨ s.core.mode = .maintenance) → s.get Reg.Sec.KEK_OK = 1 → pendingSlot s = none → s.sec.rotating = none → s.sec.rec_.isSome = true → Gives (.kekRotate) s fun t =>
    t.sec = { s.sec with rotating := some (keyWords Reg.Sec.KEK_NEW s, s.core.imp) } ∧ t.get Reg.Sec.ROTATING = 1 ∧ RegsBut [Reg.Sec.KEK_ROTATE.key 0, Reg.Sec.ROTATING.key 0] s t ∧ t = { s with rf := t.rf, sec := t.sec }) ∧
  (∀ (s : State) (new at_ old : Nat) (r : KeyRec), Live s → s.sec.rotating = some (new, at_) → s.sec.kek = some old → s.sec.rec_ = some r → s.halfOk = true → Gives (.kekRotationComplete) s fun t =>
    t.sec.kek = some new ∧ t.sec.rotating = none ∧ (∃ q, t.sec.rec_ = some q ∧ q.gen = r.gen + 2 ∧ q.check = ((Config.keyUnwrap old r.check).map (Config.keyWrap new)).getD r.check) ∧ t.get Reg.Sec.ROTATING = 0 ∧ t.get Reg.Sec.KEK_ROTATED = 1 ∧
    RegsBut [Reg.Sec.ROTATING.key 0, Reg.Sec.KEK_ROTATED.key 0, Reg.Sec.KREC_VALID.key 0, Reg.Sec.KREC_GEN_LO.key 0, Reg.Sec.KREC_GEN_HI.key 0] s t ∧ t = { s with rf := t.rf, sec := t.sec, st0 := t.st0, st1 := t.st1 }) ∧
  (∀ (s : State), Live s → Gives (.secLoad) s fun t =>
    t.sec = { s.sec with secrets := (List.range 256).filterMap fun h => (secretAt s.hif.win5 h).map fun x => (h, x) } ∧ t.hif = { s.hif with win5 := [] } ∧ t.get Reg.Sec.SECRETS_LOADED = 1 ∧ t.get Reg.Sec.SECRETS_SET = (t.sec.secrets.filter fun x => x.2.hostLen != 0).length % 512 ∧
    RegsBut [Reg.Sec.SEC_LOAD.key 0, Reg.Sec.SECRETS_LOADED.key 0, Reg.Sec.SECRETS_SET.key 0] s t ∧ t = { s with rf := t.rf, sec := t.sec, hif := t.hif }) ∧
  (∀ (s : State), Live s → Gives (.rngHealthFail) s fun t =>
    t.get Reg.Sec.RNG_FAIL = 1 ∧ RegsBut [Reg.Sec.RNG_FAIL.key 0] s t ∧ t = { s with rf := t.rf }) ∧
  (∀ (s : State), Live s → s.pins.fTamper = false → s.core.held = false → s.core.mode = .keyWait → s.sec.rotating = none → Gives (.tamperEdge) s fun t =>
    t.pins = { s.pins with fTamper := true } ∧ t.sec = { s.sec with tamperAt := some s.core.imp, kek := none, dataKeys := [], check := none, castKey := none, secrets := [], nonces := [] } ∧ t.zn = { s.zn with nonces := [] } ∧ t.get Reg.Sec.TAMPER_SEEN = 1 ∧ t.get Reg.Sec.TAMPER_ACTIVE = 0 ∧ t.get Reg.Sec.KEK_OK = 0 ∧ t.get Reg.Sec.KEYS_PRESENT = 0 ∧
    (∀ j < 8, t.get Reg.Sec.KEK j = 0 ∧ t.get Reg.Sec.KEK_NEW j = 0) ∧ t.el.due = ⟨0xD001, 0, 0, opTimeOf s.core.opImp, s.core.cycles, 0, []⟩ :: s.el.due ∧
    RegsBut ([Reg.Sec.TAMPER_SEEN.key 0, Reg.Sec.TAMPER_ACTIVE.key 0, Reg.Sec.KEK_OK.key 0, Reg.Sec.KEYS_PRESENT.key 0, Reg.Sec.SECRETS_SET.key 0] ++ (List.range 8).map Reg.Sec.KEK.key ++ (List.range 8).map Reg.Sec.KEK_NEW.key) s t ∧ t = { s with rf := t.rf, pins := t.pins, sec := t.sec, zn := t.zn, el := t.el }) ∧
  (∀ (s : State), Live s → s.sec.clearing.isSome = true → s.core.mode = .maintenance → anyHealthy s = true → Gives (.tamperClearDone) s fun t =>
    t.sec = { s.sec with clearing := none } ∧ t.get Reg.Sec.TAMPER_ACTIVE = 0 ∧ t.core = s.core ∧ RegsBut [Reg.Sec.TAMPER_ACTIVE.key 0, Reg.Hif.IBI_PENDING.key 0] s t ∧ t = { s with rf := t.rf, sec := t.sec }) ∧
  (∀ (s : State), Live s → s.pins.fAttn = false → s.core.mode = .hold → Gives (.attnEdge) s fun t =>
    t.pins = { s.pins with fAttn := true, attnAt := some s.core.imp } ∧ t.cast = { s.cast with attn := true } ∧ t.get Reg.Hif.ATTN_PRESSED = 1 ∧ RegsBut [Reg.Hif.ATTN_PRESSED.key 0] s t ∧ t = { s with rf := t.rf, pins := t.pins, cast := t.cast }) ∧
  (∀ (s : State) (a : Nat), Live s → s.pins.attnAt = some a → s.pins.fAttn = true → 1250000 ≤ s.since a → Gives (.attnStuck) s fun t =>
    t.pins = { s.pins with attnAt := none } ∧ t.get Reg.Hif.ATTN_STUCK = 1 ∧ t.el.due = ⟨0xE001, 0, 0, opTimeOf s.core.opImp, s.core.cycles, 0, []⟩ :: s.el.due ∧ RegsBut [Reg.Hif.ATTN_STUCK.key 0] s t ∧ t = { s with rf := t.rf, pins := t.pins, el := t.el })

/-- COLD_RESET of a module without power begins POWER_QUALIFY with everything but the Stereo store, the fuses and the lifetime counters as at reset. A
pack that does not answer in 40 ms is low; a precharge ends at 3.8 V, or fails after 2 h. POWER_QUALIFY_END enters SELF_TEST, SELF_TEST_END CASE_INIT
(SAFE with cause 5 where an engine type has no pair), CASE_INIT_END IMAGE_WAIT, and KEY_WAIT_EXIT RECAST while a cast is pending. -/
def Obligations.MakereadyStates : Prop :=
  (∀ (s : State) (i : Nat), Canonical s → (s.core.powered = false ∨ s.core.mode = .powerQualify) → Gives (.coldReset i) s fun t =>
    t.core.mode = .powerQualify ∧ t.core.powered = true ∧ t.core.imp = 0 ∧ t.core.lastReset = .cold ∧ t.core.held = false ∧ t.conns = [] ∧ t.ctrls = [] ∧ t.cmds = [] ∧ t.upds = [] ∧ t.sigs = [] ∧ t.drvs = [] ∧ t.cs = {} ∧ t.sec = {} ∧ t.img = {} ∧ t.fnt = {} ∧ t.stage = [] ∧ t.hostBuf = [] ∧
    t.st0 = { s.st0 with ok := true } ∧ t.st1 = { s.st1 with ok := true } ∧ t.pins = { slotId := i } ∧ t.get Reg.Img.ARB_FUSE = s.get Reg.Img.ARB_FUSE % 2 ^ Reg.Img.ARB_FUSE.w ∧ t.get Reg.Hif.SLOT_ID = i % 256 ∧ t.el.due = [⟨0x0001, 0, 0, opTimeOf t.core.opImp, t.core.cycles, 0, [0]⟩] ∧ t.pending = s.pending ∧ t.out = s.out) ∧
  (∀ (s : State), Live s → s.core.mode = .powerQualify → s.core.held = false → s.core.probed = false → 5000 ≤ s.since s.core.entered → s.fnt.packLow = false → Gives (.fountProbeTimeout) s fun t =>
    t.core = { s.core with probed := true } ∧ t.fnt = { s.fnt with absent := true, packLow := true, voltOkAt := none } ∧ t.el.due = ⟨0x1009, 0, 0, opTimeOf s.core.opImp, s.core.cycles, 0, leBytes 2 (s.get Reg.Fount.PACK_V)⟩ :: s.el.due ∧ t = { s with core := t.core, fnt := t.fnt, el := t.el }) ∧
  (∀ (s : State) (a : Nat), Live s → s.fnt.precharge = some a → 3800 ≤ s.get Reg.Fount.PACK_V → Gives (.prechargeDone) s fun t =>
    t.fnt = { s.fnt with precharge := none, chg := t.fnt.chg, eocAt := t.fnt.eocAt } ∧ t.fnt.chg = chargerState s ∧ t = { s with fnt := t.fnt }) ∧
  (∀ (s : State) (a : Nat), Live s → s.fnt.precharge = some a → 900000000 ≤ s.since a → s.get Reg.Fount.PACK_V ≤ 3000 → s.fnt.packLow = false → Gives (.prechargeTimeout) s fun t =>
    t.fnt = { s.fnt with unfit := true, precharge := none, packLow := true, voltOkAt := none, chg := 6, eocAt := none } ∧ t.el.due = ⟨0x1009, 0, 0, opTimeOf s.core.opImp, s.core.cycles, 0, leBytes 2 (s.get Reg.Fount.PACK_V)⟩ :: s.el.due ∧ t = { s with fnt := t.fnt, el := t.el }) ∧
  (∀ (s : State) (n : Nat), Live s → s.core.mode = .powerQualify → anyHealthy s = true → s.core.held = false → s.pins.fReset = false → Gives (.powerQualifyEnd n) s fun t =>
    t.core.mode = .selfTest ∧ t.core.prev = .powerQualify ∧ t.core.entered = s.core.imp ∧ t.core.ctrAt = s.core.imp ∧ t.get Reg.Glb.STATE_CHANGE = 1 ∧ (s.fnt.absent = false → t.fnt.packId = some (n % 2 ^ 64) ∧ t.core.probed = true) ∧ t = { s with rf := t.rf, core := t.core, fnt := t.fnt, el := t.el, st0 := t.st0, st1 := t.st1 }) ∧
  (∀ (s : State) (es : List Nat) (a b : Bool), Live s → s.core.mode = .selfTest → [0, 1, 2].all (fun k => typeAlive (testEngines es (readEngineRecord { s with st0 := { s.st0 with ok := a }, st1 := { s.st1 with ok := b } })) k) = true → Gives (.selfTestEnd es [] a b true) s fun t =>
    t.core.mode = .caseInit ∧ t.core.prev = .selfTest ∧ t.core.entered = s.core.imp ∧ t.core.safeDue = none ∧ t.get Reg.Glb.STATE_CHANGE = 1 ∧ t.st0.ok = a ∧ t.st1.ok = b ∧ t.prs = (testEngines es (readEngineRecord { s with st0 := { s.st0 with ok := a }, st1 := { s.st1 with ok := b } })).prs ∧ t.cast.eraseAt = (if a || b then some s.core.imp else none) ∧ t = { s with rf := t.rf, core := t.core, el := t.el, prs := t.prs, cs := t.cs, st0 := t.st0, st1 := t.st1, sec := t.sec, cast := t.cast }) ∧
  (∀ (s : State) (es : List Nat) (cs : List Nat) (a b : Bool), Live s → s.core.mode = .selfTest → Gives (.selfTestEnd es cs a b false) s fun t =>
    t.core.mode = .safe ∧ t.get Reg.Glb.SAFE_CAUSE = 5 ∧ t.get Reg.Glb.SAFE_ENTERED = 1 ∧ t.cmds = [] ∧ t.units = []) ∧
  (∀ (s : State), Live s → s.core.mode = .caseInit → s.cast.eraseAt = none → (∃ c < 4, (s.chan c).st < 3) → Gives (.caseInitEnd []) s fun t =>
    t.core.mode = .imageWait ∧ t.core.prev = .caseInit ∧ t.core.entered = s.core.imp ∧ t.core.safeDue = none ∧ t.get Reg.Glb.STATE_CHANGE = 1 ∧ t.cs.map = s.cs.map.map (fun e => if e.typ = 1 then { e with typ := 2 } else e) ∧ t.cs.mapDue = (s.cs.mapDue || s.cs.map.any fun e => e.typ == 1) ∧ t = { s with rf := t.rf, core := t.core, el := t.el, cs := t.cs, img := t.img, st0 := t.st0, st1 := t.st1 }) ∧
  (∀ (s : State), Live s → s.core.mode = .keyWait → s.get Reg.Sec.KEK_OK = 1 → s.get Reg.Sec.RNG_FAIL = 0 → s.fnt.gsbTaken = true → castImgDiff s = false → castKeyFail s = false → (pendingSlot s).isSome = true → Gives (.keyWaitExit) s fun t =>
    t.core = { s.core with mode := .recast, prev := .keyWait, entered := s.core.imp, rngCount := s.core.rngCount + 1 } ∧ t.sec = { s.sec with castKey := some (Config.drbg s.core.rngCount) } ∧ t.get Reg.Cast.RECAST_PCT = 0 ∧ t.get Reg.Glb.STATE_CHANGE = 1 ∧ t.el.due = ⟨0x0002, 0, 0, opTimeOf s.core.opImp, s.core.cycles, 0, [4, 5]⟩ :: s.el.due ∧
    RegsBut [Reg.Cast.RECAST_PCT.key 0, Reg.Glb.MR_TIME.key 4, Reg.Hif.IBI_PENDING.key 0, Reg.Glb.STATE_CHANGE.key 0] s t ∧ t = { s with rf := t.rf, core := t.core, el := t.el, sec := t.sec })

/-- MAINT_GO enters MAINTENANCE from KEY_WAIT, begins a release in PRESS_RUN, and is refused with MAINT_REFUSED elsewhere; MAINT_EXIT outside MAINTENANCE
is refused, and in it begins a warm reset where nothing is to be cast. RESET_CMD takes 0x5752 as a warm reset and rejects any other value; a warm
reset begins makeready at SELF_TEST with no connection, command, line or signature. RESET_N asserted begins a module reset that holds in POWER_QUALIFY
until it is released. -/
def Obligations.MaintenanceAndResets : Prop :=
  (∀ (s : State), Live s → s.core.mode = .keyWait → Gives (.maintGo) s fun t =>
    t.core = { s.core with mode := .maintenance, prev := .keyWait, entered := s.core.imp } ∧ t.get Reg.Glb.STATE_CHANGE = 1 ∧ t.el.due = ⟨0x0002, 0, 0, opTimeOf s.core.opImp, s.core.cycles, 0, [4, 12]⟩ :: s.el.due ∧ RegsBut [Reg.Glb.MAINT_GO.key 0, Reg.Glb.MR_TIME.key 4, Reg.Hif.IBI_PENDING.key 0, Reg.Glb.STATE_CHANGE.key 0] s t ∧ t = { s with rf := t.rf, core := t.core, el := t.el }) ∧
  (∀ (s : State), Live s → s.core.mode = .pressRun → s.cast.due = none → s.zn.zones = [] → dirtySheets ((s.pulse Reg.Glb.MAINT_GO).putB Reg.Glb.MAINT_PENDING true) = [] → Gives (.maintGo) s fun t =>
    t.core.mode = .release ∧ t.core.prev = .pressRun ∧ t.core.entered = s.core.imp ∧ t.get Reg.Glb.MAINT_PENDING = 1 ∧ t.get Reg.Glb.STATE_CHANGE = 1 ∧ RegsBut [Reg.Glb.MAINT_GO.key 0, Reg.Glb.MAINT_PENDING.key 0, Reg.Hif.IBI_PENDING.key 0, Reg.Glb.STATE_CHANGE.key 0] s t) ∧
  (∀ (s : State), Live s → s.core.mode ≠ .keyWait → s.core.mode ≠ .pressRun → Gives (.maintGo) s fun t =>
    t.get Reg.Glb.MAINT_REFUSED = 1 ∧ RegsBut [Reg.Glb.MAINT_GO.key 0, Reg.Glb.MAINT_REFUSED.key 0] s t ∧ t = { s with rf := t.rf }) ∧
  (∀ (s : State), Live s → s.core.mode ≠ .maintenance → Gives (.maintExit) s fun t =>
    t.get Reg.Glb.MAINT_REFUSED = 1 ∧ RegsBut [Reg.Glb.MAINT_EXIT.key 0, Reg.Glb.MAINT_REFUSED.key 0] s t ∧ t = { s with rf := t.rf }) ∧
  (∀ (s : State), Live s → s.core.mode = .maintenance → s.core.held = false → s.pins.fReset = false → castContent (endEccTest (s.pulse Reg.Glb.MAINT_EXIT)) = false → Gives (.maintExit) s fun t =>
    t.core.mode = .selfTest ∧ t.core.lastReset = .warm ∧ t.core.entered = s.core.imp ∧ t.core.opImp = s.core.opImp ∧ t.conns = [] ∧ t.ctrls = [] ∧ t.cmds = [] ∧ t.units = [] ∧ t.upds = [] ∧ t.sigs = [] ∧ t.drvs = [] ∧ t.cs = {} ∧ t.sec = {} ∧ t.img = {} ∧ t.dma = {} ∧ t.cast = {} ∧ t.stage = [] ∧ t.hostBuf = s.hostBuf ∧ t.pins = { s.pins with pfIgnored := false } ∧ t.pending = s.pending ∧ t.out = s.out) ∧
  (∀ (s : State) (v : BitVec 16), Live s → v ≠ 0x5752 → Gives (.resetCmd v) s fun t =>
    t.get Reg.Glb.VALUE_REJ = 1 ∧ RegsBut [Reg.Glb.VALUE_REJ.key 0] s t ∧ t = { s with rf := t.rf }) ∧
  (∀ (s : State), Live s → (s.core.mode = .safe ∨ s.core.mode = .keyWait ∨ s.core.mode = .imageWait) → s.core.held = false → s.pins.fReset = false → Gives (.resetCmd 0x5752) s fun t =>
    t.core.mode = .selfTest ∧ t.core.lastReset = .warm ∧ t.core.entered = s.core.imp ∧ t.core.opImp = s.core.opImp ∧ t.conns = [] ∧ t.ctrls = [] ∧ t.cmds = [] ∧ t.units = [] ∧ t.upds = [] ∧ t.sigs = [] ∧ t.drvs = [] ∧ t.cs = {} ∧ t.sec = {} ∧ t.img = {} ∧ t.dma = {} ∧ t.cast = {} ∧ t.stage = [] ∧ t.hostBuf = s.hostBuf ∧ t.pins = { s.pins with pfIgnored := false } ∧ t.pending = s.pending ∧ t.out = s.out) ∧
  (∀ (s : State), Live s → s.core.mode = .powerQualify → NoEffect (.resetCmd 0x5752) s) ∧
  (∀ (s : State), Live s → s.pins.fReset = false → s.core.held = false → (s.core.mode = .safe ∨ s.core.mode = .keyWait ∨ s.core.mode = .imageWait) → Gives (.resetNAsserted) s fun t =>
    t.core.mode = .powerQualify ∧ t.core.held = true ∧ t.core.lastReset = .module ∧ t.pins = { s.pins with fReset := true, pfIgnored := false } ∧ t.core.opImp = s.core.opImp ∧ t.conns = [] ∧ t.ctrls = [] ∧ t.cmds = [] ∧ t.upds = [] ∧ t.sigs = [] ∧ t.drvs = [] ∧ t.cs = {} ∧ t.sec = {} ∧ t.hif = {}) ∧
  (∀ (s : State), Live s → s.pins.fReset = true → s.core.held = true → Gives (.resetNReleased) s fun t =>
    t.pins = { s.pins with fReset := false } ∧ t.core = { s.core with held := false, entered := s.core.imp } ∧ t.el.due = ⟨0x0001, 0, 0, opTimeOf s.core.opImp, s.core.cycles, 0, [1]⟩ :: s.el.due ∧ t = { s with pins := t.pins, core := t.core, el := t.el })

/-- IMG_VERIFY and IMG_COMMIT in IMAGE_WAIT, PRESS_RUN, HOLD and MAINTENANCE, and IMG_CONFIRM in IMAGE_WAIT with a candidate, are taken while no request
is in progress: IMG_STATE becomes 2, and verify and commit lock the staging window. Elsewhere a request is refused with reason 16. STAGE_CLEAR zeroes
an unlocked window. At the end of the checks a verify ends with IMG_VERIFIED or with its refusal, and a commit goes on to its store; when that is
written the image is in force, IMG_COMMITTED is set and the request has ended. ARB_FUSE follows the counter of the image. -/
def Obligations.ImageRequests : Prop :=
  (∀ (s : State), Live s → (s.core.mode = .imageWait ∨ s.core.mode = .pressRun ∨ s.core.mode = .hold ∨ s.core.mode = .maintenance) → s.img.req = none → Gives (.imgVerify) s fun t =>
    t.img = { s.img with req := some .verify, reqAt := s.core.imp } ∧ t.get Reg.Img.IMG_STATE = 2 ∧ t.get Reg.Img.STAGE_LOCKED = 1 ∧ RegsBut [Reg.Img.IMG_VERIFY.key 0, Reg.Img.IMG_STATE.key 0, Reg.Img.STAGE_LOCKED.key 0] s t ∧ t = { s with rf := t.rf, img := t.img }) ∧
  (∀ (s : State), Live s → (s.core.mode = .imageWait ∨ s.core.mode = .pressRun ∨ s.core.mode = .hold ∨ s.core.mode = .maintenance) → s.img.req = none → Gives (.imgCommit) s fun t =>
    t.img = { s.img with req := some .commit, reqAt := s.core.imp } ∧ t.get Reg.Img.IMG_STATE = 2 ∧ t.get Reg.Img.STAGE_LOCKED = 1 ∧ RegsBut [Reg.Img.IMG_COMMIT.key 0, Reg.Img.IMG_STATE.key 0, Reg.Img.STAGE_LOCKED.key 0] s t ∧ t = { s with rf := t.rf, img := t.img }) ∧
  (∀ (s : State), Live s → s.core.mode = .imageWait → s.img.cand.isSome = true → s.img.req = none → Gives (.imgConfirm) s fun t =>
    t.img = { s.img with req := some .confirm, reqAt := s.core.imp } ∧ t.get Reg.Img.IMG_STATE = 2 ∧ RegsBut [Reg.Img.IMG_CONFIRM.key 0, Reg.Img.IMG_STATE.key 0] s t ∧ t = { s with rf := t.rf, img := t.img }) ∧
  (∀ (s : State), Live s → s.img.req.isSome = true → Gives (.imgCommit) s fun t =>
    t.get Reg.Img.REFUSE_SECTION = 0xFFFF ∧ t.get Reg.Img.REFUSE_REASON = 16 ∧ t.get Reg.Img.IMG_REFUSED = 1 ∧ t.el.due = ⟨0xC002, 0, 0, opTimeOf s.core.opImp, s.core.cycles, 0, [255, 255, 16, 0]⟩ :: s.el.due ∧ RegsBut [Reg.Img.IMG_COMMIT.key 0, Reg.Img.REFUSE_SECTION.key 0, Reg.Img.REFUSE_REASON.key 0, Reg.Img.IMG_REFUSED.key 0] s t ∧ t = { s with rf := t.rf, el := t.el }) ∧
  (∀ (s : State), Live s → s.get Reg.Img.STAGE_LOCKED = 0 → Gives (.stageClear) s fun t =>
    t.stage = [] ∧ RegsBut [Reg.Img.STAGE_CLEAR.key 0] s t ∧ t = { s with rf := t.rf, stage := t.stage }) ∧
  (∀ (s : State), Live s → s.get Reg.Img.STAGE_LOCKED = 1 → Gives (.stageClear) s fun t =>
    RegsBut [Reg.Img.STAGE_CLEAR.key 0] s t ∧ t = { s with rf := t.rf }) ∧
  (∀ (s : State), Live s → s.core.mode ≠ .imageWait → s.img.storing = none → s.img.req = some .verify → Gives (.imageJudgeComplete) s fun t =>
    (match judge (putHash Reg.Img.STAGE_HASH (sha256 (stagedBytes s)) s) (stagedBytes s) s.img.cur with
      | .error e => t.get Reg.Img.IMG_REFUSED = 1 ∧ t.el.due = ⟨0xC002, 0, 0, opTimeOf s.core.opImp, s.core.cycles, 0, leBytes 2 e.1 ++ leBytes 2 e.2⟩ :: s.el.due ∧ t.img = { s.img with req := none }
      | .ok _ => t.get Reg.Img.IMG_VERIFIED = 1 ∧ t.el = s.el ∧ t.img = { s.img with req := none }) ∧ t.get Reg.Img.STAGE_LOCKED = 0 ∧ t.get Reg.Img.IMG_STATE = idleState s ∧ t = { s with rf := t.rf, el := t.el, img := t.img }) ∧
  (∀ (s : State), Live s → s.core.mode ≠ .imageWait → s.img.storing = none → s.img.req = some .commit → Gives (.imageJudgeComplete) s fun t =>
    (match judge (putHash Reg.Img.STAGE_HASH (sha256 (stagedBytes s)) s) (stagedBytes s) s.img.cur with
      | .error e => t.get Reg.Img.IMG_REFUSED = 1 ∧ t.el.due = ⟨0xC002, 0, 0, opTimeOf s.core.opImp, s.core.cycles, 0, leBytes 2 e.1 ++ leBytes 2 e.2⟩ :: s.el.due ∧ t.img = { s.img with req := none }
      | .ok m => t.get Reg.Img.IMG_STATE = 3 ∧ t.el = s.el ∧ t.img = { s.img with storing := some m }) ∧ t = { s with rf := t.rf, el := t.el, img := t.img }) ∧
  (∀ (s : State) (m : Img), Live s → s.img.storing = some m → Gives (.imageStoreComplete) s fun t =>
    t.img.cur = some m ∧ t.img.committed = true ∧ t.img.req = none ∧ t.img.storing = none ∧ t.get Reg.Img.IMG_COMMITTED = 1 ∧ t.get Reg.Img.STAGE_LOCKED = 0 ∧ t.get Reg.Img.IMG_STATE = 1 ∧ t.get Reg.Img.ARB_IMAGE = m.counter % 2 ^ Reg.Img.ARB_IMAGE.w ∧ t.get Reg.Img.IMG_LEN = m.len % 2 ^ Reg.Img.IMG_LEN.w) ∧
  (∀ (s : State) (c a : Nat), Live s → s.img.fuseTo = some (c, a) → s.get Reg.Img.ARB_FUSE < c → Gives (.arbFuseAdvance) s fun t =>
    t.get Reg.Img.ARB_FUSE = c % 2 ^ Reg.Img.ARB_FUSE.w ∧ t.get Reg.Img.ARB_ADVANCED = 1 ∧ t.img = { s.img with fuseTo := none } ∧ RegsBut [Reg.Img.ARB_FUSE.key 0, Reg.Img.ARB_ADVANCED.key 0] s t ∧ t = { s with rf := t.rf, img := t.img })

/-- ASM_WAIT_EXPIRED and ASM_DONE end the wait of ASSEMBLE; ASM_FORCE marks a signature whose wait is over and that has the capacity as forced. A
signature that is entering with no READY update left is in service from that boundary. In PRESS_RUN a new signature whose members are all fit begins
its creation. Once every signature is in service, ASSEMBLE_END enters PRESS_RUN and sets MAKEREADY_DONE. -/
def Obligations.AssembleAndSignatures : Prop :=
  (∀ (s : State) (a : Nat), Live s → s.core.asmAt = some a → s.core.mode = .assemble → s.get Reg.Glb.ASM_WAIT * 125000 ≤ s.since a → Gives (.asmWaitExpired) s fun t =>
    t = { s with core := { s.core with asmOver := true } }) ∧
  (∀ (s : State), Live s → s.core.mode = .assemble → Gives (.asmDone) s fun t =>
    t.core = { s.core with asmOver := true } ∧ RegsBut [Reg.Glb.ASM_DONE.key 0] s t ∧ t = { s with rf := t.rf, core := t.core }) ∧
  (∀ (s : State) (g : SigIx), Live s → (s.sigSt g.val).inService = false → (impOf s g.val).isSome = true → runsC5 s.core.mode = true → waitOver s g.val = true → capacityOk s g.val = true → isNewSig s g.val = false → Gives (.asmForce (BitVec.ofNat 16 (2 ^ g.val))) s fun t =>
    t.core = { s.core with forced := addTo g.val s.core.forced } ∧ t.get Reg.Glb.ASM_FORCED = 1 ∧ t.get Reg.Glb.ASM_FORCE = 2 ^ g.val ∧ RegsBut [Reg.Glb.ASM_FORCE.key 0, Reg.Glb.ASM_FORCED.key 0] s t ∧ t = { s with rf := t.rf, core := t.core }) ∧
  (∀ (s : State) (g : SigIx) (x : AsmFound), Live s → (s.sigSt g.val).entering = true → s.core.mode = .pressRun → (s.upds.any fun u => u.2.sig == g.val && u.2.st == .ready) = false → Gives (.signatureEnterService g x) s fun t =>
    (t.sigSt g.val).inService = true ∧ (t.sigSt g.val).entering = false ∧ t.get Reg.Glb.SIG_IN_SERVICE / 2 ^ g.val % 2 = 1 ∧ t.get Reg.Glb.SIG_HELD / 2 ^ g.val % 2 = 0 ∧ t.core.mode = s.core.mode) ∧
  (∀ (s : State) (g : SigIx) (i : Imposition), Live s → impOf s g.val = some i → (s.sigSt g.val).inService = false → (s.sigSt g.val).entering = false → (s.sigSt g.val).creating = false → s.core.mode = .pressRun → waitOver s g.val = true → isNewSig s g.val = true → i.members.all (fitNew s g.val i) = true → Gives (.signatureCreate g) s fun t =>
    (t.sigSt g.val).creating = true ∧ (t.sigSt g.val).isNew = true ∧ (∀ h, h ≠ g.val → t.sigSt h = s.sigSt h) ∧ t.core = s.core ∧ t.cs = s.cs) ∧
  (∀ (s : State) (m : Img), Live s → s.core.mode = .assemble → s.cast.due = none → s.img.eff = some m → (m.imps.map (·.1)).all (fun g => (s.sigSt g).inService) = true → Gives (.assembleEnd) s fun t =>
    t.core = { s.core with mode := .pressRun, prev := .assemble, entered := s.core.imp } ∧ t.get Reg.Glb.MAKEREADY_DONE = 1 ∧ t.get Reg.Glb.STATE_CHANGE = 1 ∧ t.el.due = ⟨0x0002, 0, 0, opTimeOf s.core.opImp, s.core.cycles, 0, [6, 7]⟩ :: s.el.due ∧ RegsBut [Reg.Glb.MR_TIME.key 6, Reg.Hif.IBI_PENDING.key 0, Reg.Glb.STATE_CHANGE.key 0, Reg.Glb.MAKEREADY_DONE.key 0] s t ∧ t = { s with rf := t.rf, core := t.core, el := t.el })

/-- When RIDE_MS has passed in HOLD a cast begins: the module enters CAST with the cause bits of the Hold condition, and no connection or command remains.
CAST_COMPLETE writes a slot of the next generation with the causes and the body of the cast to every half in service and enters CAST_DONE. Input back
for 1 s begins the erase of the older slots; its end goes on to ASSEMBLE with the cast as restored. RECAST_COMPLETE restores a pending cast and enters
ASSEMBLE. A restored cast is consumed once nothing of it is dirty; an abandoned one is consumed and lost at once. -/
def Obligations.CastsAndRecasts : Prop :=
  (∀ (s : State), Live s → s.core.mode = .hold → s.cast.due = none → s.get Reg.Fount.RIDE_MS * 125 ≤ s.since s.fnt.holdAt → s.switching = false → s.core.safeDue = none → NMap.wf s.conns → Gives (.rideThroughExpired) s fun t =>
    t.core.mode = .cast ∧ t.core.prev = .hold ∧ t.core.entered = s.core.imp ∧ t.cast.due = none ∧ t.cast.causes = (holdCauses s).foldl (fun c b => c ||| 2 ^ b) 0 ∧ t.cast.begun = s.core.imp ∧ t.conns = [] ∧ t.cmds = [] ∧ t.get Reg.Glb.STATE_CHANGE = 1 ∧ t.get Reg.Glb.SIG_IN_SERVICE = 0) ∧
  (∀ (s : State), Live s → s.core.mode = .cast → s.core.safeDue = none → s.core.resetDue = none → s.sec.tamperCast = false → anyHealthy s = true → s.halfOk = true → Gives (.castComplete) s fun t =>
    t.core.mode = .castDone ∧ t.core.prev = .cast ∧ t.core.powered = true ∧ t.core.entered = s.core.imp ∧ t.get Reg.Cast.CAST_MADE = 1 ∧ t.get Reg.Glb.STATE_CHANGE = 1 ∧ (s.st0.ok = true → (nfind s.st0.older t.st0.slots).map (fun c => (c.ok, c.gen, c.causes, c.body)) = some (true, max (((newestSlot s).map (·.gen)).getD 0) (castReg s) + 1, s.cast.causes, s.cast.body)) ∧ (s.st1.ok = true → (nfind s.st1.older t.st1.slots).map (fun c => (c.ok, c.gen, c.causes, c.body)) = some (true, max (((newestSlot s).map (·.gen)).getD 0) (castReg s) + 1, s.cast.causes, s.cast.body))) ∧
  (∀ (s : State) (a : Nat), Live s → s.core.mode = .castDone → (s.cast.causes = 1 ∨ s.cast.causes = 2 ∨ s.cast.causes = 3) → s.cast.healthyAt = some a → 125000 ≤ s.since a → s.cast.resuming = false → s.cast.eraseAt = none → s.sec.clearing = none → s.sec.wasTampered = false → Gives (.resumeFromCase) s fun t =>
    t = { s with cast := { s.cast with eraseAt := some s.core.imp, resuming := true } }) ∧
  (∀ (s : State), Live s → s.cast.eraseAt.isSome = true → s.cast.resuming = false → Gives (.slotEraseComplete) s fun t =>
    t.cast = { s.cast with eraseAt := none } ∧ t.st0 = (if s.st0.ok then { s.st0 with slots := nset s.st0.older { erased := true } s.st0.slots } else s.st0) ∧ t.st1 = (if s.st1.ok then { s.st1 with slots := nset s.st1.older { erased := true } s.st1.slots } else s.st1) ∧ t = { s with cast := t.cast, st0 := t.st0, st1 := t.st1 }) ∧
  (∀ (s : State), Live s → s.cast.eraseAt.isSome = true → s.cast.resuming = true → s.core.mode = .castDone → Gives (.slotEraseComplete) s fun t =>
    t.core.mode = .assemble ∧ t.core.prev = .castDone ∧ t.cast.eraseAt = none ∧ t.cast.resuming = false ∧ t.cast.restored.isSome = true ∧ t.cs = s.cs ∧ t.get Reg.Cast.RECAST_DONE = 1 ∧ t.get Reg.Glb.STATE_CHANGE = 1) ∧
  (∀ (s : State) (x : CastSlot), Live s → s.core.mode = .recast → pendingSlot s = some x → Gives (.recastComplete [] true) s fun t =>
    t.core.mode = .assemble ∧ t.core.prev = .recast ∧ t.cast.restored = some x.gen ∧ t.cast.body = x.body ∧ t.get Reg.Cast.RECAST_PCT = 100 ∧ t.get Reg.Cast.RECAST_LOST = 0 ∧ t.get Reg.Cast.RECAST_DONE = 1 ∧ t.get Reg.Glb.STATE_CHANGE = 1) ∧
  (∀ (s : State) (g : Nat), Live s → s.cast.restored = some g → (s.core.mode = .pressRun ∨ s.core.mode = .hold) → (allLines s).any (fun x => x.cells.any fun c => c.2.dirty || c.2.shadow.isSome) = false → (s.upds.any fun u => u.2.restored) = false → Gives (.castConsumed) s fun t =>
    t.cast = { s.cast with restored := none } ∧ t.get Reg.Cast.CAST_CONSUMED = 1 ∧ (s.st0.ok = true → t.st0 = { s.st0 with castReg := max s.st0.castReg g }) ∧ (s.st1.ok = true → t.st1 = { s.st1 with castReg := max s.st1.castReg g }) ∧ RegsBut [Reg.Cast.CAST_CONSUMED.key 0] s t ∧ t = { s with rf := t.rf, cast := t.cast, st0 := t.st0, st1 := t.st1 }) ∧
  (∀ (s : State) (x : CastSlot), Live s → pendingSlot s = some x → 1 ≤ s.core.mode.code → s.core.mode.code ≤ 4 → Gives (.castAbandon) s fun t =>
    t.cast = { s.cast with lost := true, restored := none } ∧ t.get Reg.Cast.CAST_LOST = 1 ∧ t.get Reg.Cast.CAST_CONSUMED = 1 ∧ t.el.due = ⟨0x1007, 0, 0, opTimeOf s.core.opImp, s.core.cycles, 0, leBytes 8 x.gen ++ [3]⟩ :: s.el.due ∧ (s.st0.ok = true → t.st0 = { s.st0 with castReg := max s.st0.castReg x.gen }) ∧ (s.st1.ok = true → t.st1 = { s.st1 with castReg := max s.st1.castReg x.gen }) ∧ RegsBut [Reg.Cast.CAST_ABANDON.key 0, Reg.Cast.CAST_LOST.key 0, Reg.Cast.CAST_CONSUMED.key 0] s t ∧ t = { s with rf := t.rf, el := t.el, cast := t.cast, st0 := t.st0, st1 := t.st1 }) ∧
  (∀ (s : State), Live s → (pendingSlot s = none ∨ ¬(1 ≤ s.core.mode.code ∧ s.core.mode.code ≤ 4)) → Gives (.castAbandon) s fun t =>
    RegsBut [Reg.Cast.CAST_ABANDON.key 0] s t ∧ t = { s with rf := t.rf })

/-- In PRESS_RUN with nothing open or dirty RELEASE_GO enters RELEASE; in HOLD it stays asked; in the states of no release it is refused with
RELEASE_REFUSED. Once nothing is left to write the final commit is asked for, and when it is durable every connection closes and RELEASE_DONE is set,
or MAINTENANCE is entered where the release was asked for it. -/
def Obligations.Releases : Prop :=
  (∀ (s : State), Live s → s.core.mode = .pressRun → s.cast.due = none → s.get Reg.Cast.RELEASE_FAST = 0 → s.zn.zones = [] → dirtySheets s = [] → Gives (.releaseGo) s fun t =>
    t.core = { s.core with mode := .release, prev := .pressRun, entered := s.core.imp, released := false } ∧ t.cast = { s.cast with final := false } ∧ t.fnt = { s.fnt with relHold := none } ∧ t.get Reg.Glb.STATE_CHANGE = 1 ∧ t.el.due = ⟨0x0002, 0, 0, opTimeOf s.core.opImp, s.core.cycles, 0, [7, 11]⟩ :: s.el.due ∧ RegsBut [Reg.Cast.RELEASE_GO.key 0, Reg.Hif.IBI_PENDING.key 0, Reg.Glb.STATE_CHANGE.key 0] s t ∧ t = { s with rf := t.rf, core := t.core, el := t.el, cast := t.cast, fnt := t.fnt }) ∧
  (∀ (s : State), Live s → s.core.mode = .hold → s.cast.due = none → Gives (.releaseGo) s fun t =>
    t.get Reg.Cast.RELEASE_GO = 1 ∧ RegsBut [Reg.Cast.RELEASE_GO.key 0] s t ∧ t = { s with rf := t.rf }) ∧
  (∀ (s : State), Live s → s.core.mode ≠ .pressRun → s.core.mode ≠ .hold → s.core.mode ≠ .release → Gives (.releaseGo) s fun t =>
    t.get Reg.Cast.RELEASE_REFUSED = 1 ∧ RegsBut [Reg.Cast.RELEASE_GO.key 0, Reg.Cast.RELEASE_REFUSED.key 0] s t ∧ t = { s with rf := t.rf }) ∧
  (∀ (s : State), Live s → s.core.mode = .release → s.cast.final = false → releaseIdle s = true → Gives (.releaseUpdatesRetired) s fun t =>
    t.cast = { s.cast with final := true } ∧ t.core.mode = .release ∧ t.cs = s.cs ∧ t.conns = s.conns) ∧
  (∀ (s : State), Live s → s.core.mode = .release → s.cast.final = true → s.core.released = false → (s.sigs.any fun p => p.2.inService && (p.2.commit.isSome || p.2.pendingSet)) = false → s.get Reg.Glb.MAINT_PENDING = 0 → NMap.wf s.conns → Gives (.releaseComplete) s fun t =>
    t.core = { s.core with released := true } ∧ t.get Reg.Cast.RELEASE_DONE = 1 ∧ t.conns = [] ∧ t.fnt.relHold = none ∧ t.cs = s.cs ∧ t.sigs = s.sigs) ∧
  (∀ (s : State), Live s → s.core.mode = .release → s.cast.final = true → s.core.released = false → (s.sigs.any fun p => p.2.inService && (p.2.commit.isSome || p.2.pendingSet)) = false → s.get Reg.Glb.MAINT_PENDING = 1 → NMap.wf s.conns → Gives (.releaseComplete) s fun t =>
    t.core.mode = .maintenance ∧ t.core.prev = .release ∧ t.get Reg.Glb.MAINT_PENDING = 0 ∧ t.get Reg.Glb.STATE_CHANGE = 1 ∧ t.conns = [] ∧ t.cs = s.cs ∧ t.sigs = s.sigs)

/-- A write of minimum shares whose sum is at most 100 is stored, word by word; one whose sum exceeds 100 is rejected with SHARE_REJ and 0x2003, and
nothing is stored. A write of ENCL_TEMP is stored with its time, and after 60 s without one both floors lift. The thermal state falls one step after 1
s of cool readings, with THERM_CHANGE and 0x2001. At the end of each window of 1 024 impressions the figures of the selected connection are latched
and the counts begin anew. -/
def Obligations.SchedulerInputs : Prop :=
  (∀ (s : State) (v : RegWord), Live s → v.toNat % 128 + v.toNat / 256 % 128 + v.toNat / 65536 % 128 + v.toNat / 16777216 % 128 + s.get Reg.Mu.MIN_C6 ≤ 100 → s.get Reg.Mu.MIN_C6 < 128 → Gives (.minShareWrite 0x04000C v) s fun t =>
    t.get Reg.Mu.MIN_C2 = v.toNat % 128 ∧ t.get Reg.Mu.MIN_C3 = v.toNat / 256 % 128 ∧ t.get Reg.Mu.MIN_C4 = v.toNat / 65536 % 128 ∧ t.get Reg.Mu.MIN_C5 = v.toNat / 16777216 % 128 ∧ t.get Reg.Mu.MIN_C6 = s.get Reg.Mu.MIN_C6 ∧ RegsBut [Reg.Mu.MIN_C2.key 0, Reg.Mu.MIN_C3.key 0, Reg.Mu.MIN_C4.key 0, Reg.Mu.MIN_C5.key 0, Reg.Mu.MIN_C6.key 0] s t ∧ t = { s with rf := t.rf }) ∧
  (∀ (s : State) (v : RegWord), Live s → 100 < v.toNat % 128 + v.toNat / 256 % 128 + v.toNat / 65536 % 128 + v.toNat / 16777216 % 128 + s.get Reg.Mu.MIN_C6 → Gives (.minShareWrite 0x04000C v) s fun t =>
    t.get Reg.Mu.SHARE_REJ = 1 ∧ t.el.due = ⟨0x2003, 0, 0, opTimeOf s.core.opImp, s.core.cycles, 0, leBytes 4 v.toNat⟩ :: s.el.due ∧ RegsBut [Reg.Mu.SHARE_REJ.key 0] s t ∧ t = { s with rf := t.rf, el := t.el }) ∧
  (∀ (s : State) (v : RegWord), Live s → Gives (.enclTempWrite v) s fun t =>
    t.sch = { s.sch with enclAt := some s.core.imp } ∧ t.get Reg.Mu.ENCL_TEMP = v.toNat % 2 ^ Reg.Mu.ENCL_TEMP.w ∧ RegsBut [Reg.Mu.ENCL_TEMP.key 0] s t ∧ t = { s with rf := t.rf, sch := t.sch }) ∧
  (∀ (s : State) (a : Nat), Live s → s.sch.enclAt = some a → 7500000 ≤ s.since a → Gives (.enclTempStale) s fun t =>
    t = { s with sch := { s.sch with enclAt := none, floor1 := false, floor2 := false, enclLow1 := none, enclLow2 := none } }) ∧
  (∀ (s : State) (k a : Nat), Live s → s.sch.therm = k → 0 < k → (if k = 1 then s.sch.cool1 else if k = 2 then s.sch.cool2 else s.sch.cool3) = some a → 125000 ≤ s.since a → (s.sch.floor2 = true → 2 < k) → (s.sch.floor1 = true → 1 < k) → s.sch.thermAt < s.core.imp → Gives (.thermalStepDown) s fun t =>
    t.sch = { s.sch with therm := k - 1, thermAt := s.core.imp } ∧ t.get Reg.Mu.THERM_CHANGE = 1 ∧ t.el.due = ⟨0x2001, 0, 0, opTimeOf s.core.opImp, s.core.cycles, 0, [k, k - 1] ++ leBytes 2 (toTwos 16 s.sch.junction)⟩ :: s.el.due ∧ RegsBut [Reg.Mu.THERM_CHANGE.key 0] s t ∧ t = { s with rf := t.rf, el := t.el, sch := t.sch }) ∧
  (∀ (s : State) (r : FairRec), Live s → s.core.imp % 1024 = 0 → 0 < s.core.imp → s.fairOf (s.get Reg.Mu.FAIR_SEL) = r → Gives (.fairWindowEnd) s fun t =>
    t.get Reg.Mu.FAIR_WEIGHT = weightOf s (s.get Reg.Mu.FAIR_SEL) % 2 ^ Reg.Mu.FAIR_WEIGHT.w ∧ t.get Reg.Mu.FAIR_VALID = (if (nfind (s.get Reg.Mu.FAIR_SEL) s.conns).isSome ∧ r.openAt + 1024 ≤ s.core.imp then 1 else 0) ∧ t.get Reg.Mu.FAIR_ADMIT_C2 = r.adm2 % 2 ^ Reg.Mu.FAIR_ADMIT_C2.w ∧ t.get Reg.Mu.FAIR_ADMIT_C3 = r.adm3 % 2 ^ Reg.Mu.FAIR_ADMIT_C3.w ∧ t.sch.total2 = 0 ∧ t.sch.total3 = 0 ∧ t.sch = { s.sch with fair := t.sch.fair, total2 := 0, total3 := 0 } ∧ t = { s with rf := t.rf, sch := t.sch })

/-- When both members of a pair in switch-over pass, the verdict is transient: it is counted and recorded, and the pair re-executes; when one fails it is
retired with cause 1. At the end of the re-execution, or of an adoption, the pair works again and what was withheld leaves once no pair is in switch-
over. A self-test of a simplex member or a spare that passes renews its time; a spare that fails is retired. Each operating hour rolls the buckets,
and a retirement is written as the next engine record to every half. A Stereo half that leaves service takes no more writes. -/
def Obligations.PairsAndEngines : Prop :=
  (∀ (s : State) (p : Fin 14) (a b : Nat), Live s → (s.pair p.val).st = .switching → (s.pair p.val).step = 3 → (s.pair p.val).verdict = false → (s.pair p.val).a = some a → (s.pair p.val).b = some b → (s.pair p.val).again = false → (s.pair p.val).replace = none → s.core.safeDue = none → s.cast.due = none → Gives (.switchOverVerdict p true true) s fun t =>
    t.pair p.val = { s.pair p.val with transient := true, verdict := true } ∧ (∀ q, q ≠ p.val → t.pair q = s.pair q) ∧ t.get Reg.Cp.PAIR_TRANSIENTS 0 = min (s.get Reg.Cp.PAIR_TRANSIENTS 0 + 1) (2 ^ Reg.Cp.PAIR_TRANSIENTS.w - 1) ∧ t.el.due = ⟨0x3002, 0, 0, opTimeOf s.core.opImp, s.core.cycles, a, [p.val, 1]⟩ :: s.el.due ∧ RegsBut [Reg.Cp.PAIR_TRANSIENTS.key 0] s t ∧ t = { s with rf := t.rf, el := t.el, prs := t.prs }) ∧
  (∀ (s : State) (p : Fin 14) (a b : Nat), Live s → (s.pair p.val).st = .switching → (s.pair p.val).step = 3 → (s.pair p.val).verdict = false → (s.pair p.val).a = some a → (s.pair p.val).b = some b → a ≠ b → s.core.safeDue = none → s.cast.due = none → Gives (.switchOverVerdict p true false) s fun t =>
    (t.engine b).retired = true ∧ (t.engine b).cause = 1 ∧ (t.pair p.val).verdict = true ∧ (t.pair p.val).transient = false ∧ t.get Reg.Cp.ENG_RETIRED = 1 ∧ t.prs.recDue = true ∧ t = { s with rf := t.rf, el := t.el, prs := t.prs }) ∧
  (∀ (s : State) (p : Fin 14), Live s → (s.pair p.val).st = .switching → (s.pair p.val).step = 5 → (s.pair p.val).verdict = true → (s.pair p.val).transient = false → s.core.safeDue = none → s.cast.due = none → Gives (.heldImpressionRelease p 0 0) s fun t =>
    t.pair p.val = { s.pair p.val with st := (if (s.pair p.val).b.isNone then .simplex else .comparing), step := 0, verdict := false, transient := false, again := false, overA := false, overB := false } ∧ t.out = (if t.switching then s.out else s.withheld ++ s.out) ∧ t.withheld = (if t.switching then s.withheld else []) ∧ t = { s with prs := t.prs, out := t.out, withheld := t.withheld }) ∧
  (∀ (s : State) (p : Fin 14), Live s → (s.pair p.val).dying = true → (s.pair p.val).step = 8 → s.core.safeDue = none → s.cast.due = none → Gives (.adoptionRelease p) s fun t =>
    t.pair p.val = { s.pair p.val with dying := false, step := 0, verdict := false } ∧ (pairType p.val ≠ 2 → t.conns = s.conns) ∧ t.out = (if t.switching then s.out else s.withheld ++ s.out) ∧ t.withheld = (if t.switching then s.withheld else []) ∧ t = { s with prs := t.prs, conns := t.conns, out := t.out, withheld := t.withheld }) ∧
  (∀ (s : State) (p : Fin 14), Live s → (s.pair p.val).st = .simplex → 125000 ≤ s.since (s.pair p.val).lastTest → s.core.safeDue = none → s.cast.due = none → Gives (.simplexSelfTest p true) s fun t =>
    t.pair p.val = { s.pair p.val with lastTest := s.core.imp, skip := 2 } ∧ (∀ q, q ≠ p.val → t.pair q = s.pair q) ∧ t.prs.engines = s.prs.engines ∧ t = { s with prs := t.prs }) ∧
  (∀ (s : State) (e : Fin 33), Live s → (s.engine e.val).retired = false → isMember s e.val = false → 125000 ≤ s.since (s.engine e.val).lastTest → Gives (.spareSelfTest e true) s fun t =>
    t.engine e.val = { s.engine e.val with lastTest := s.core.imp, lastPass := true } ∧ (∀ q, q ≠ e.val → t.engine q = s.engine q) ∧ t.prs.pairs = s.prs.pairs ∧ t = { s with prs := t.prs }) ∧
  (∀ (s : State) (e : Fin 33), Live s → (s.engine e.val).retired = false → isMember s e.val = false → 125000 ≤ s.since (s.engine e.val).lastTest → Gives (.spareSelfTest e false) s fun t =>
    t.engine e.val = { s.engine e.val with lastTest := s.core.imp, lastPass := false, retired := true, cause := 1, testing := false } ∧ t.prs.recDue = true ∧ t.get Reg.Cp.ENG_RETIRED = 1 ∧ t.el.due = ⟨0x3003, 0, 0, opTimeOf s.core.opImp, s.core.cycles, e.val, [1]⟩ :: s.el.due ∧ RegsBut [Reg.Cp.ENG_RETIRED.key 0] s t ∧ t = { s with rf := t.rf, el := t.el, prs := t.prs }) ∧
  (∀ (s : State), Live s → s.prs.hourAt < s.core.opImp / 450000000 → Gives (.transientHourRoll) s fun t =>
    t = { s with prs := { s.prs with engines := nmapv (fun _ e => { e with buckets := (0 :: e.buckets).take 24 }) s.prs.engines, hourAt := s.prs.hourAt + 1 } }) ∧
  (∀ (s : State), Live s → s.prs.recDue = true → s.halfOk = true → Gives (.engineRecordWrite) s fun t =>
    t.prs = { s.prs with recGen := s.prs.recGen + 1, recDue := false } ∧ t.st0 = (if s.st0.ok then { s.st0 with engRecs := nset ((s.prs.recGen + 1) % 2) ⟨s.prs.recGen + 1, retiredMap s⟩ s.st0.engRecs } else s.st0) ∧ t.st1 = (if s.st1.ok then { s.st1 with engRecs := nset ((s.prs.recGen + 1) % 2) ⟨s.prs.recGen + 1, retiredMap s⟩ s.st1.engRecs } else s.st1) ∧ t.el.due = ⟨0x3006, 0, 0, opTimeOf s.core.opImp, s.core.cycles, 0, leBytes 8 (s.prs.recGen + 1) ++ [0]⟩ :: s.el.due ∧ t = { s with prs := t.prs, el := t.el, st0 := t.st0, st1 := t.st1 }) ∧
  (∀ (s : State), Live s → s.st0.ok = true → s.core.mode ≠ .cast → Gives (.stereoHalfLeavesService .st0) s fun t =>
    t.st0 = { s.st0 with ok := false } ∧ t.sigs = nmapv (fun _ x => { x with commit := x.commit.map fun c => { c with left := c.left.erase 0 } }) s.sigs ∧ t = { s with st0 := t.st0, sigs := t.sigs }) ∧
  (∀ (s : State), Live s → s.st1.ok = true → s.core.mode ≠ .cast → Gives (.stereoHalfLeavesService .st1) s fun t =>
    t.st1 = { s.st1 with ok := false } ∧ t.sigs = nmapv (fun _ x => { x with commit := x.commit.map fun c => { c with left := c.left.erase 1 } }) s.sigs ∧ t = { s with st1 := t.st1, sigs := t.sigs })

/-- At a multiple of AGE_PERIOD every entry ages by 1 up to 3, once, and the lines touched in the impression before it are at age 0. The reclaimer, below
256 free frames of a channel, moves an eligible line of age 3 to the eviction buffer as a drop and counts a victim; at 512 free frames it rests. A
drop leaves the buffer at a later boundary and gives its frames back. A dirty line with one frame gets a second in the roomiest other channel,
recorded. A probe writes what is held of the line that its registers name. -/
def Obligations.CaseAsACache : Prop :=
  (∀ (s : State), Live s → 0 < s.get Reg.Cc.AGE_PERIOD → s.core.imp % s.get Reg.Cc.AGE_PERIOD = 0 → s.cs.agedAt ≠ some s.core.imp → Gives (.ageIncrement) s fun t =>
    t = { s with cs := { s.cs with agedAt := some s.core.imp, tags := nmapv (fun k x => { x with age := if s.cs.touchedLast.contains k then 0 else min 3 (x.age + 1) }) s.cs.tags } }) ∧
  (∀ (s : State), Live s → s.cs.agedAt = some s.core.imp → NoEffect (.ageIncrement) s) ∧
  (∀ (s : State) (c : ChIx) (k : Nat) (x : Line), Live s → (s.chan c.val).st ≤ 2 → freeFrames s c.val < 256 → s.cs.tags = [(k, x)] → x.eligible = true → x.age = 3 → x.retain = false → x.primary / 131072 = c.val → s.cs.evb.length < 64 → (∃ j, j < 64 ∧ k / caseWays s = (s.cs.reclaimAt + j) % caseSets s) → Gives (.reclaim c) s fun t =>
    t.cs = { s.cs with tags := [], evb := nset (nfresh s.cs.evb 0) ⟨x, false, s.core.imp, none⟩ s.cs.evb, reclaimAt := (s.cs.reclaimAt + 64) % caseSets s, chans := nset c.val { s.chan c.val with reclaim := true } s.cs.chans } ∧ t.get Reg.Cc.VICTIMS 0 = min (s.get Reg.Cc.VICTIMS 0 + 1) (2 ^ Reg.Cc.VICTIMS.w - 1) ∧ RegsBut [Reg.Cc.VICTIMS.key 0] s t ∧ t = { s with rf := t.rf, cs := t.cs }) ∧
  (∀ (s : State) (c : ChIx), Live s → (s.chan c.val).st ≤ 2 → 512 ≤ freeFrames s c.val → (s.chan c.val).reclaim = true → Gives (.reclaim c) s fun t =>
    t = { s with cs := { s.cs with reclaimAt := (s.cs.reclaimAt + 64) % caseSets s, chans := nset c.val { s.chan c.val with reclaim := false } s.cs.chans } }) ∧
  (∀ (s : State) (i : Nat) (e : EvbEnt), Live s → nfind i s.cs.evb = some e → e.writeBack = false → e.at_ < s.core.imp → e.line.fillPending = false → Gives (.evbDrop i) s fun t =>
    t.cs.evb = ndel i s.cs.evb ∧ (∀ d, t.chan d = { s.chan d with used := ([e.line.primary] ++ e.line.duplex.toList ++ e.line.shFrames).foldl (fun u f => if f / 131072 = d then u.erase (f % 131072) else u) (s.chan d).used }) ∧ t = { s with cs := { s.cs with evb := t.cs.evb, chans := t.cs.chans } }) ∧
  (∀ (s : State) (i : Nat) (e : EvbEnt), Live s → nfind i s.cs.evb = some e → e.at_ = s.core.imp → NoEffect (.evbDrop i) s) ∧
  (∀ (s : State) (k d : Nat) (x : Line), Live s → (s.cs.tags.filter fun p => p.2.dirty && p.2.duplex.isNone && chanDirty s (p.2.primary / 131072)) = [(k, x)] → roomiest s ((List.range 4).filter fun c => c != x.primary / 131072 && chanDirty s c) = some d → 2 ≤ ((List.range 4).filter fun q => chanDirty s q).length → Gives (.reDuplex) s fun t =>
    t.cs = { (takeFrame d s).2.cs with tags := nset k { x with duplex := some (takeFrame d s).1 } s.cs.tags } ∧ t.core = { s.core with free := s.core.free + 1 } ∧ t.el.due = ⟨0x4008, 0, 0, opTimeOf s.core.opImp, s.core.cycles, noDev, [0, 1, 0, 0, 0]⟩ :: s.el.due ∧ t = { s with core := t.core, el := t.el, cs := t.cs }) ∧
  (∀ (s : State) (k : Nat) (x : Line), Live s → findTag s (s.get Reg.Cc.PROBE_KIND) (s.get Reg.Cc.PROBE_SIG) (s.get Reg.Cc.PROBE_LINE_LO + 2 ^ 32 * s.get Reg.Cc.PROBE_LINE_HI) = some (k, x) → findEvb s (s.get Reg.Cc.PROBE_KIND) (s.get Reg.Cc.PROBE_SIG) (s.get Reg.Cc.PROBE_LINE_LO + 2 ^ 32 * s.get Reg.Cc.PROBE_LINE_HI) = none → Gives (.probeGo) s fun t =>
    t.get Reg.Cc.PROBE_HIT = 1 ∧ t.get Reg.Cc.PROBE_EVB = 0 ∧ t.get Reg.Cc.PROBE_SET = lineSet s (s.get Reg.Cc.PROBE_KIND) (s.get Reg.Cc.PROBE_SIG) (s.get Reg.Cc.PROBE_LINE_LO + 2 ^ 32 * s.get Reg.Cc.PROBE_LINE_HI) % 2 ^ Reg.Cc.PROBE_SET.w ∧ t.get Reg.Cc.PROBE_WAY = k % caseWays s % 2 ^ Reg.Cc.PROBE_WAY.w ∧ t.get Reg.Cc.PROBE_AGE = x.age % 2 ^ Reg.Cc.PROBE_AGE.w ∧ t.get Reg.Cc.PROBE_DIRTY = (if x.dirty then 1 else 0) ∧ t.get Reg.Cc.PROBE_PIN = (if x.pin || x.retain then 1 else 0) ∧ t.get Reg.Cc.PROBE_FRAME = x.primary % 2 ^ Reg.Cc.PROBE_FRAME.w ∧ t.get Reg.Cc.PROBE_DUPLEX = x.duplex.getD 0 % 2 ^ Reg.Cc.PROBE_DUPLEX.w ∧ t.get Reg.Cc.PROBE_DUP_VALID = (if x.duplex.isSome && x.dirty then 1 else 0) ∧ RegsBut [Reg.Cc.PROBE_GO.key 0, Reg.Cc.PROBE_SET.key 0, Reg.Cc.PROBE_WAY.key 0, Reg.Cc.PROBE_AGE.key 0, Reg.Cc.PROBE_HIT.key 0, Reg.Cc.PROBE_DIRTY.key 0, Reg.Cc.PROBE_EVB.key 0, Reg.Cc.PROBE_PIN.key 0, Reg.Cc.PROBE_FRAME.key 0, Reg.Cc.PROBE_DUPLEX.key 0, Reg.Cc.PROBE_DUP_VALID.key 0] s t ∧ t = { s with rf := t.rf }) ∧
  (∀ (s : State) (i : Nat) (e : EvbEnt), Live s → findTag s (s.get Reg.Cc.PROBE_KIND) (s.get Reg.Cc.PROBE_SIG) (s.get Reg.Cc.PROBE_LINE_LO + 2 ^ 32 * s.get Reg.Cc.PROBE_LINE_HI) = none → findEvb s (s.get Reg.Cc.PROBE_KIND) (s.get Reg.Cc.PROBE_SIG) (s.get Reg.Cc.PROBE_LINE_LO + 2 ^ 32 * s.get Reg.Cc.PROBE_LINE_HI) = some (i, e) → Gives (.probeGo) s fun t =>
    t.get Reg.Cc.PROBE_HIT = 0 ∧ t.get Reg.Cc.PROBE_EVB = 1 ∧ t.get Reg.Cc.PROBE_SET = lineSet s (s.get Reg.Cc.PROBE_KIND) (s.get Reg.Cc.PROBE_SIG) (s.get Reg.Cc.PROBE_LINE_LO + 2 ^ 32 * s.get Reg.Cc.PROBE_LINE_HI) % 2 ^ Reg.Cc.PROBE_SET.w ∧ t.get Reg.Cc.PROBE_WAY = 0 ∧ t.get Reg.Cc.PROBE_AGE = e.line.age % 2 ^ Reg.Cc.PROBE_AGE.w ∧ t.get Reg.Cc.PROBE_DIRTY = (if e.line.dirty then 1 else 0) ∧ t.get Reg.Cc.PROBE_FRAME = e.line.primary % 2 ^ Reg.Cc.PROBE_FRAME.w ∧ RegsBut [Reg.Cc.PROBE_GO.key 0, Reg.Cc.PROBE_SET.key 0, Reg.Cc.PROBE_WAY.key 0, Reg.Cc.PROBE_AGE.key 0, Reg.Cc.PROBE_HIT.key 0, Reg.Cc.PROBE_DIRTY.key 0, Reg.Cc.PROBE_EVB.key 0, Reg.Cc.PROBE_PIN.key 0, Reg.Cc.PROBE_FRAME.key 0, Reg.Cc.PROBE_DUPLEX.key 0, Reg.Cc.PROBE_DUP_VALID.key 0] s t ∧ t = { s with rf := t.rf }) ∧
  (∀ (s : State), Live s → findTag s (s.get Reg.Cc.PROBE_KIND) (s.get Reg.Cc.PROBE_SIG) (s.get Reg.Cc.PROBE_LINE_LO + 2 ^ 32 * s.get Reg.Cc.PROBE_LINE_HI) = none → findEvb s (s.get Reg.Cc.PROBE_KIND) (s.get Reg.Cc.PROBE_SIG) (s.get Reg.Cc.PROBE_LINE_LO + 2 ^ 32 * s.get Reg.Cc.PROBE_LINE_HI) = none → Gives (.probeGo) s fun t =>
    t.get Reg.Cc.PROBE_HIT = 0 ∧ t.get Reg.Cc.PROBE_EVB = 0 ∧ t.get Reg.Cc.PROBE_DIRTY = 0 ∧ t.get Reg.Cc.PROBE_PIN = 0 ∧ t.get Reg.Cc.PROBE_DUP_VALID = 0 ∧ RegsBut [Reg.Cc.PROBE_GO.key 0, Reg.Cc.PROBE_SET.key 0, Reg.Cc.PROBE_WAY.key 0, Reg.Cc.PROBE_AGE.key 0, Reg.Cc.PROBE_HIT.key 0, Reg.Cc.PROBE_DIRTY.key 0, Reg.Cc.PROBE_EVB.key 0, Reg.Cc.PROBE_PIN.key 0, Reg.Cc.PROBE_FRAME.key 0, Reg.Cc.PROBE_DUPLEX.key 0, Reg.Cc.PROBE_DUP_VALID.key 0] s t ∧ t = { s with rf := t.rf })

/-- RE_GO, in PRESS_RUN or MAINTENANCE with the engine idle, the signature in service and a range of at least one block inside it, starts the operation:
RE_BUSY is 1, the counts are zero and the position is the first line. In another state it is refused. A clean line that an invalidation visits leaves
its set as a drop and counts; a line in a transfer is parked and counts as a wait. A parked line is acted on when its transfer has ended. The engine
ends when all lines are visited and nothing is waited for: RE_BUSY is 0, the event bit is set and event 0x4007 arises. -/
def Obligations.RangeEngines : Prop :=
  (∀ (s : State) (e : Fin 2) (i : Imposition), Live s → (s.core.mode = .pressRun ∨ s.core.mode = .maintenance) → nfind e.val s.cs.engines = none → (s.sigSt (s.get Reg.Cc.RE_SIG e.val)).inService = true → impOf s (s.get Reg.Cc.RE_SIG e.val) = some i → 0 < (s.get Reg.Cc.RE_COUNT_LO e.val + 2 ^ 32 * s.get Reg.Cc.RE_COUNT_HI e.val) → (s.get Reg.Cc.RE_START_LO e.val + 2 ^ 32 * s.get Reg.Cc.RE_START_HI e.val) + (s.get Reg.Cc.RE_COUNT_LO e.val + 2 ^ 32 * s.get Reg.Cc.RE_COUNT_HI e.val) ≤ (s.sigSt (s.get Reg.Cc.RE_SIG e.val)).sheets * i.sheetBlocks → s.get Reg.Cc.RE_OP e.val < 4 → Gives (.reGo e) s fun t =>
    t.cs = { s.cs with engines := nset e.val ⟨s.get Reg.Cc.RE_OP e.val, (s.get Reg.Cc.RE_SIG e.val), (s.get Reg.Cc.RE_START_LO e.val + 2 ^ 32 * s.get Reg.Cc.RE_START_HI e.val) / 128, ((s.get Reg.Cc.RE_START_LO e.val + 2 ^ 32 * s.get Reg.Cc.RE_START_HI e.val) + (s.get Reg.Cc.RE_COUNT_LO e.val + 2 ^ 32 * s.get Reg.Cc.RE_COUNT_HI e.val) - 1) / 128, (s.get Reg.Cc.RE_START_LO e.val + 2 ^ 32 * s.get Reg.Cc.RE_START_HI e.val), (s.get Reg.Cc.RE_COUNT_LO e.val + 2 ^ 32 * s.get Reg.Cc.RE_COUNT_HI e.val), (s.get Reg.Cc.RE_START_LO e.val + 2 ^ 32 * s.get Reg.Cc.RE_START_HI e.val) / 128, [], [], [], false⟩ s.cs.engines } ∧ t.get Reg.Cc.RE_BUSY e.val = 1 ∧ t.get Reg.Cc.RE_LINES e.val = 0 ∧ t.get Reg.Cc.RE_SKIPPED e.val = 0 ∧ t.get Reg.Cc.RE_WAITS e.val = 0 ∧ t.get Reg.Cc.RE_DISCARDED e.val = 0 ∧ t.get Reg.Cc.RE_POS_LO e.val = (s.get Reg.Cc.RE_START_LO e.val + 2 ^ 32 * s.get Reg.Cc.RE_START_HI e.val) / 128 % 2 ^ 32 ∧ t.get Reg.Cc.RE_POS_HI e.val = (s.get Reg.Cc.RE_START_LO e.val + 2 ^ 32 * s.get Reg.Cc.RE_START_HI e.val) / 128 / 2 ^ 32 % 2 ^ 32 ∧ RegsBut [Reg.Cc.RE_GO.key e.val, Reg.Cc.RE_BUSY.key e.val, Reg.Cc.RE_LINES.key e.val, Reg.Cc.RE_SKIPPED.key e.val, Reg.Cc.RE_WAITS.key e.val, Reg.Cc.RE_DISCARDED.key e.val, Reg.Cc.RE_POS_LO.key e.val, Reg.Cc.RE_POS_HI.key e.val] s t ∧ t = { s with rf := t.rf, cs := t.cs }) ∧
  (∀ (s : State) (e : Fin 2), Live s → s.core.mode ≠ .pressRun → s.core.mode ≠ .maintenance → Gives (.reGo e) s fun t =>
    t.get Reg.Cc.RE_REFUSED = 1 ∧ RegsBut [Reg.Cc.RE_GO.key e.val, Reg.Cc.RE_REFUSED.key 0] s t ∧ t = { s with rf := t.rf }) ∧
  (∀ (s : State) (e : Fin 2) (r : RangeRun) (k : Nat) (x : Line), Live s → s.core.mode = .pressRun → nfind e.val s.cs.engines = some r → r.op = 1 → r.pos = r.last → r.parked.length < 16 → lineBusy s r.sig r.pos = false → findTag s 0 r.sig r.pos = some (k, x) → x.dirty = false → (x.cells.any fun c => c.2.upd.isSome || c.2.shadow.isSome) = false → x.pin = false → x.retain = false → s.cs.evb.length < 64 → (s.cs.evb.filter fun p => p.2.engine.isSome).length < 32 → Gives (.rangeVisit e) s fun t =>
    t.cs = { s.cs with tags := ndel k s.cs.tags, evb := nset (nfresh s.cs.evb 0) ⟨x, false, s.core.imp, some e.val⟩ s.cs.evb, engines := nmapv (fun i y => if i = e.val then { y with pos := y.pos + 1 } else y) s.cs.engines } ∧ t.get Reg.Cc.RE_LINES e.val = min (s.get Reg.Cc.RE_LINES e.val + 1) (2 ^ Reg.Cc.RE_LINES.w - 1) ∧ t.get Reg.Cc.RE_POS_LO e.val = (r.pos + 1) % 2 ^ 32 ∧ t.get Reg.Cc.RE_POS_HI e.val = (r.pos + 1) / 2 ^ 32 % 2 ^ 32 ∧ RegsBut [Reg.Cc.RE_LINES.key e.val, Reg.Cc.RE_POS_LO.key e.val, Reg.Cc.RE_POS_HI.key e.val] s t ∧ t = { s with rf := t.rf, cs := t.cs }) ∧
  (∀ (s : State) (e : Fin 2) (r : RangeRun), Live s → s.core.mode = .pressRun → nfind e.val s.cs.engines = some r → r.pos = r.last → r.parked.length < 16 → lineBusy s r.sig r.pos = true → Gives (.rangeVisit e) s fun t =>
    t.cs = { s.cs with engines := nmapv (fun i y => if i = e.val then { y with parked := y.parked ++ [r.pos], pos := y.pos + 1 } else y) s.cs.engines } ∧ t.get Reg.Cc.RE_WAITS e.val = min (s.get Reg.Cc.RE_WAITS e.val + 1) (2 ^ Reg.Cc.RE_WAITS.w - 1) ∧ t.get Reg.Cc.RE_POS_LO e.val = (r.pos + 1) % 2 ^ 32 ∧ t.get Reg.Cc.RE_POS_HI e.val = (r.pos + 1) / 2 ^ 32 % 2 ^ 32 ∧ RegsBut [Reg.Cc.RE_WAITS.key e.val, Reg.Cc.RE_POS_LO.key e.val, Reg.Cc.RE_POS_HI.key e.val] s t ∧ t = { s with rf := t.rf, cs := t.cs }) ∧
  (∀ (s : State) (e : Fin 2) (l : Nat) (r : RangeRun) (k : Nat) (x : Line), Live s → s.core.mode = .pressRun → nfind e.val s.cs.engines = some r → r.op = 1 → r.parked.contains l = true → lineBusy s r.sig l = false → findTag s 0 r.sig l = some (k, x) → x.dirty = false → (x.cells.any fun c => c.2.upd.isSome || c.2.shadow.isSome) = false → x.pin = false → x.retain = false → s.cs.evb.length < 64 → (s.cs.evb.filter fun p => p.2.engine.isSome).length < 32 → Gives (.parkedLineApply e l) s fun t =>
    t.cs = { s.cs with tags := ndel k s.cs.tags, evb := nset (nfresh s.cs.evb 0) ⟨x, false, s.core.imp, some e.val⟩ s.cs.evb, engines := nmapv (fun i y => if i = e.val then { y with parked := y.parked.erase l } else y) s.cs.engines } ∧ t.get Reg.Cc.RE_LINES e.val = min (s.get Reg.Cc.RE_LINES e.val + 1) (2 ^ Reg.Cc.RE_LINES.w - 1) ∧ RegsBut [Reg.Cc.RE_LINES.key e.val] s t ∧ t = { s with rf := t.rf, cs := t.cs }) ∧
  (∀ (s : State) (e : Fin 2) (r : RangeRun), Live s → nfind e.val s.cs.engines = some r → rangeOver s e.val r = true → Gives (.rangeComplete e) s fun t =>
    t.cs = { s.cs with engines := ndel e.val s.cs.engines } ∧ t.get Reg.Cc.RE_BUSY e.val = 0 ∧ t.get (if e.val = 0 then Reg.Cc.RE0_DONE else Reg.Cc.RE1_DONE) = 1 ∧ t.el.due = ⟨0x4007, 0, 0, opTimeOf s.core.opImp, s.core.cycles, noDev, [e.val, r.op, 0] ++ leBytes 8 r.start ++ leBytes 8 r.count⟩ :: s.el.due ∧ RegsBut [Reg.Cc.RE_BUSY.key e.val, (if e.val = 0 then Reg.Cc.RE0_DONE else Reg.Cc.RE1_DONE).key 0] s t ∧ t = { s with rf := t.rf, el := t.el, cs := t.cs })

/-- The scrubber records the frame it has reached and the time of its lap; a clean word changes nothing else. A row test that finds no mismatch is counted
as a transient and recorded, and the next row of the queue begins. A dirty line of a clean-only channel moves to the roomiest channel that can hold
it. An entry of the merge buffer 4 impressions old is merged with the bytes its word holds, and the word is stored with new check symbols. Test mode
begins in MAINTENANCE and, when it ends, the window of every channel in service is zero. A changed repair map is written as the next generation to
every half in service. -/
def Obligations.CaseUpkeep : Prop :=
  (∀ (s : State) (c : ChIx) (h : WordHolds) (w : Nat), Live s → s.get Reg.Ecc.SCRUB_EN = 1 → (s.chan c.val).st ≤ 2 → s.core.mode ≠ .cast → s.core.mode ≠ .castDone → scrubSkips s c.val w = false → s.get Reg.Ecc.SCRUB_POS c.val ≤ wordFrame w → w < 2 ^ 32 - 16 → s.core.safeDue = none → s.cast.due = none → Gives (.patrolScrub c .clean h w) s fun t =>
    t.get Reg.Ecc.SCRUB_POS c.val = wordFrame w ∧ t.get Reg.Ecc.SCRUB_ELAPSED c.val = impMs (s.since (s.chan c.val).lapAt) % 2 ^ Reg.Ecc.SCRUB_ELAPSED.w ∧ RegsBut [Reg.Ecc.SCRUB_POS.key c.val, Reg.Ecc.SCRUB_ELAPSED.key c.val] s t ∧ t = { s with rf := t.rf }) ∧
  (∀ (s : State) (c : ChIx) (h : WordHolds) (w : Nat), Live s → s.get Reg.Ecc.SCRUB_EN = 1 → (s.chan c.val).st ≤ 2 → s.core.mode ≠ .cast → s.core.mode ≠ .castDone → scrubSkips s c.val w = false → wordFrame w < s.get Reg.Ecc.SCRUB_POS c.val → w < 2 ^ 32 - 16 → s.core.safeDue = none → s.cast.due = none → Gives (.patrolScrub c .clean h w) s fun t =>
    t.get Reg.Ecc.SCRUB_POS c.val = wordFrame w ∧ t.get Reg.Ecc.SCRUB_ELAPSED c.val = 0 ∧ t.get Reg.Ecc.SCRUB_LAST_LAP c.val = impMs (s.since (s.chan c.val).lapAt) % 2 ^ 32 ∧ t.get Reg.Ecc.SCRUB_LAPS c.val = (s.get Reg.Ecc.SCRUB_LAPS c.val + 1) % 2 ^ 32 ∧ t.chan c.val = { s.chan c.val with lapAt := s.core.imp } ∧ (∀ d, d ≠ c.val → t.chan d = s.chan d) ∧ t.cs.tags = s.cs.tags ∧ RegsBut [Reg.Ecc.SCRUB_POS.key c.val, Reg.Ecc.SCRUB_ELAPSED.key c.val, Reg.Ecc.SCRUB_LAST_LAP.key c.val, Reg.Ecc.SCRUB_LAPS.key c.val] s t ∧ t = { s with rf := t.rf, cs := t.cs }) ∧
  (∀ (s : State) (c : ChIx) (r : RowTest) (q : List RowTest) (a : Nat), Live s → (s.chan c.val).queue = r :: q → (s.chan c.val).testAt = some a → (s.chan c.val).st ≤ 2 → 2 ≤ s.since a → s.core.mode = .pressRun → s.core.safeDue = none → s.cast.due = none → Gives (.caseSelfTest c []) s fun t =>
    t.chan c.val = { s.chan c.val with queue := q, testAt := if q.isEmpty then none else some s.core.imp } ∧ (∀ d, d ≠ c.val → t.chan d = s.chan d) ∧ t.get Reg.Ecc.TRANSIENTS c.val = min (s.get Reg.Ecc.TRANSIENTS c.val + 1) (2 ^ Reg.Ecc.TRANSIENTS.w - 1) ∧ t.el.due = ⟨0x4003, 0, 0, opTimeOf s.core.opImp, s.core.cycles, noDev + (c.val * 131072 + r.row), [0]⟩ :: s.el.due ∧ RegsBut [Reg.Ecc.TRANSIENTS.key c.val] s t ∧ t = { s with rf := t.rf, el := t.el, cs := { s.cs with chans := t.cs.chans } }) ∧
  (∀ (s : State) (c : ChIx) (k n d : Nat) (x : Line), Live s → (s.chan c.val).st = 2 → s.cs.tags = [(k, x)] → x.dirty = true → x.primary / 131072 = c.val → x.duplex = some d → d / 131072 ≠ c.val → x.shFrames = [] → roomiest s ((List.range 4).filter fun q => q != c.val && chanDirty s q && !([d / 131072].contains q)) = some n → Gives (.cleanOnlyCopy c) s fun t =>
    t.cs.tags = [(k, { x with primary := (takeFrame n s).1 })] ∧ t.chan c.val = { s.chan c.val with used := (s.chan c.val).used.erase (x.primary % 131072) } ∧ t.chan n = (takeFrame n s).2.chan n ∧ (∀ q, q ≠ c.val → q ≠ n → t.chan q = s.chan q) ∧ t.core = { s.core with free := s.core.free + 1 } ∧ t = { s with core := t.core, cs := { s.cs with tags := t.cs.tags, chans := t.cs.chans } }) ∧
  (∀ (s : State) (i : Nat) (m : MergeEnt) (old : List Nat), Live s → nfind i s.cs.merge = some m → 4 ≤ s.since m.at_ → decodedWord s m.word = some old → NMap.wf s.cs.win → Gives (.mergeEntryFlush i) s fun t =>
    winWord t m.word = (((List.range 16).map fun j => (nfind j m.bytes).getD (old.getD j 0)) ++ rsCheck ((List.range 16).map fun j => (nfind j m.bytes).getD (old.getD j 0))).map (· % 256) ∧ (∀ a, a ≠ m.word → winWord t a = winWord s a) ∧ t = { s with cs := { s.cs with merge := ndel i s.cs.merge, win := t.cs.win } }) ∧
  (∀ (s : State) (i : Nat) (m : MergeEnt), Live s → nfind i s.cs.merge = some m → s.since m.at_ = 0 → NoEffect (.mergeEntryFlush i) s) ∧
  (∀ (s : State), Live s → s.core.mode = .maintenance → Gives (.eccTestEn true) s fun t =>
    t.get Reg.Ecc.ECC_TEST_EN = 1 ∧ RegsBut [Reg.Ecc.ECC_TEST_EN.key 0] s t ∧ t = { s with rf := t.rf }) ∧
  (∀ (s : State), Live s → s.core.mode ≠ .maintenance → NoEffect (.eccTestEn true) s) ∧
  (∀ (s : State), Live s → s.get Reg.Ecc.ECC_TEST_EN = 1 → Gives (.eccTestEn false) s fun t =>
    t.get Reg.Ecc.ECC_TEST_EN = 0 ∧ (∀ a, a < 2 ^ 22 → (s.chan (a / 2 ^ 20)).st ≤ 2 → winWord t a = List.replicate 20 0) ∧ (∀ a, 2 < (s.chan (a / 2 ^ 20)).st → winWord t a = winWord s a) ∧ RegsBut [Reg.Ecc.ECC_TEST_EN.key 0] s t ∧ t = { s with rf := t.rf, cs := { s.cs with win := t.cs.win, merge := t.cs.merge } }) ∧
  (∀ (s : State), Live s → s.cs.mapDue = true → s.halfOk = true → Gives (.repairMapWrite) s fun t =>
    t.cs = { s.cs with mapGen := s.cs.mapGen + 1, mapDue := false } ∧ t.st0 = (if s.st0.ok then { s.st0 with maps := nset ((s.cs.mapGen + 1) % 2) (s.cs.mapGen + 1, s.cs.map) s.st0.maps } else s.st0) ∧ t.st1 = (if s.st1.ok then { s.st1 with maps := nset ((s.cs.mapGen + 1) % 2) (s.cs.mapGen + 1, s.cs.map) s.st1.maps } else s.st1) ∧ t.el.due = ⟨0x4006, 0, 0, opTimeOf s.core.opImp, s.core.cycles, noDev, leBytes 8 (s.cs.mapGen + 1) ++ [0]⟩ :: s.el.due ∧ t = { s with cs := t.cs, el := t.el, st0 := t.st0, st1 := t.st1 }) ∧
  (∀ (s : State), Live s → s.cs.mapDue = false → NoEffect (.repairMapWrite) s)
end

