-- ==== Sys2Proof/Laws/Map.lean ====
section
/-!
SUPPORT. Laws of the keyed stores: reading what was stored, leaving every other key alone, and keeping the canonical form.
-/

namespace Sys2Proof.Machine

/-- What every step of a fold keeps, the fold keeps. -/
theorem foldl_keep {β γ : Type} (P : β → Prop) (f : β → γ → β) (l : List γ) {b : β} (h : P b) (hf : ∀ b x, P b → P (f b x)) : P (l.foldl f b) := by
  induction l generalizing b with
  | nil => exact h
  | cons a l ih => exact ih (hf b a h)

section Any
variable {α : Type}

@[simp] theorem nfind_nil (k : Nat) : nfind k ([] : NMap α) = none := rfl

theorem nfind_cons (k j : Nat) (v : α) (m : NMap α) : nfind k ((j, v) :: m) = if j = k then some v else nfind k m := rfl

/-- Reading back what was stored. -/
@[simp] theorem nfind_nset_self (k : Nat) (v : α) (m : NMap α) : nfind k (nset k v m) = some v := by
  induction m with
  | nil => simp [nset, nfind]
  | cons a m ih =>
    obtain ⟨j, w⟩ := a
    unfold nset
    split_ifs with h1 h2
    · simp [nfind]
    · simp [nfind]
    · simp [nfind, Ne.symm h2, ih]

/-- A store leaves every other key alone. -/
theorem nfind_nset_ne {k j : Nat} (h : j ≠ k) (v : α) (m : NMap α) : nfind j (nset k v m) = nfind j m := by
  induction m with
  | nil => simp [nset, nfind, Ne.symm h]
  | cons a m ih =>
    obtain ⟨i, w⟩ := a
    unfold nset
    split_ifs with h1 h2
    · simp [nfind, Ne.symm h]
    · subst h2; simp [nfind, Ne.symm h]
    · simp [nfind, ih]

/-- A key below every listed one is not listed. -/
theorem nfind_none_of_lt {k : Nat} {m : NMap α} (h : ∀ e ∈ m, k < e.1) : nfind k m = none := by
  induction m with
  | nil => rfl
  | cons a m ih =>
    obtain ⟨i, w⟩ := a
    have h1 : k < i := h (i, w) (by simp)
    have h2 := ih fun e he => h e (by simp [he])
    simp [nfind, h2]; omega

theorem mem_ndel {k : Nat} {m : NMap α} {e : Nat × α} (h : e ∈ ndel k m) : e ∈ m := by
  induction m with
  | nil => simp [ndel] at h
  | cons a m ih =>
    obtain ⟨i, w⟩ := a
    unfold ndel at h
    split_ifs at h with h1
    · simp [h]
    · rcases List.mem_cons.mp h with h | h
      · simp [h]
      · simp [ih h]

theorem mem_nset {k : Nat} {v : α} {m : NMap α} {e : Nat × α} (h : e ∈ nset k v m) : e = (k, v) ∨ e ∈ m := by
  induction m with
  | nil => simp [nset] at h; simp [h]
  | cons a m ih =>
    obtain ⟨i, w⟩ := a
    unfold nset at h
    split_ifs at h with h1 h2
    · simpa using h
    · rcases List.mem_cons.mp h with h | h <;> simp [h]
    · rcases List.mem_cons.mp h with h | h
      · simp [h]
      · rcases ih h with h | h <;> simp [h]

/-- Removing a key keeps the keys rising. -/
theorem NMap.wf_ndel (k : Nat) {m : NMap α} (h : NMap.wf m) : NMap.wf (ndel k m) := by
  induction m with
  | nil => simp [ndel]
  | cons a m ih =>
    obtain ⟨i, w⟩ := a
    obtain ⟨h1, h2⟩ := List.pairwise_cons.mp h
    unfold ndel
    split_ifs
    · exact h2
    · exact List.pairwise_cons.mpr ⟨fun e he => h1 e (mem_ndel he), ih h2⟩

/-- What is listed in rising order is what is found. -/
theorem nfind_of_mem {m : NMap α} (h : NMap.wf m) {e : Nat × α} (he : e ∈ m) : nfind e.1 m = some e.2 := by
  induction m with
  | nil => cases he
  | cons a m ih =>
    obtain ⟨i, w⟩ := a
    obtain ⟨h1, h2⟩ := List.pairwise_cons.mp h
    rcases List.mem_cons.mp he with rfl | he
    · simp [nfind]
    · have := h1 e he
      simp [nfind, ih h2 he]
      intro hi
      simp [hi] at this

/-- A store keeps the keys rising. -/
theorem NMap.wf_nset (k : Nat) (v : α) {m : NMap α} (h : NMap.wf m) : NMap.wf (nset k v m) := by
  induction m with
  | nil => simp [nset]
  | cons a m ih =>
    obtain ⟨i, w⟩ := a
    obtain ⟨h1, h2⟩ := List.pairwise_cons.mp h
    unfold nset
    split_ifs with h3 h4
    · refine List.pairwise_cons.mpr ⟨fun e he => ?_, h⟩
      rcases List.mem_cons.mp he with he | he
      · simpa [he] using h3
      · have := h1 e he; simp only at this ⊢; omega
    · subst h4; exact List.pairwise_cons.mpr ⟨h1, h2⟩
    · refine List.pairwise_cons.mpr ⟨fun e he => ?_, ih h2⟩
      rcases mem_nset he with he | he
      · simp only [he]; omega
      · exact h1 e he

theorem nfind_ndel_ne {k j : Nat} (h : j ≠ k) (m : NMap α) : nfind j (ndel k m) = nfind j m := by
  induction m with
  | nil => rfl
  | cons a m ih =>
    obtain ⟨i, w⟩ := a
    unfold ndel
    split_ifs with h1
    · subst h1; simp [nfind, Ne.symm h]
    · simp [nfind, ih]

/-- A removed key is not listed. -/
theorem nfind_ndel_self (k : Nat) {m : NMap α} (h : NMap.wf m) : nfind k (ndel k m) = none := by
  induction m with
  | nil => rfl
  | cons a m ih =>
    obtain ⟨i, w⟩ := a
    obtain ⟨h1, h2⟩ := List.pairwise_cons.mp h
    unfold ndel
    split_ifs with h3
    · subst h3; exact nfind_none_of_lt h1
    · simp [nfind, h3, ih h2]

@[simp] theorem ngetD_nset_self (k : Nat) (d v : α) (m : NMap α) : ngetD k d (nset k v m) = v := by simp [ngetD]

theorem ngetD_nset_ne {k j : Nat} (h : j ≠ k) (d v : α) (m : NMap α) : ngetD j d (nset k v m) = ngetD j d m := by
  simp [ngetD, nfind_nset_ne h]

end Any

/-! ### Canonical stores -/

theorem Canon.nil : Canon [] := ⟨List.Pairwise.nil, by simp⟩

theorem Canon.ndel (k : Nat) {m : NMap Nat} (h : Canon m) : Canon (ndel k m) :=
  ⟨NMap.wf_ndel k h.1, fun e he => h.2 e (mem_ndel he)⟩

theorem Canon.nput (k v : Nat) {m : NMap Nat} (h : Canon m) : Canon (nput k v m) := by
  unfold Machine.nput
  split_ifs with h1
  · exact h.ndel k
  · refine ⟨NMap.wf_nset k v h.1, fun e he => ?_⟩
    rcases mem_nset he with he | he
    · simpa [he] using h1
    · exact h.2 e he

theorem Canon.foldl {β : Type} (f : NMap Nat → β → NMap Nat) (l : List β) {m : NMap Nat} (h : Canon m)
    (hf : ∀ m x, Canon m → Canon (f m x)) : Canon (l.foldl f m) := by
  induction l generalizing m with
  | nil => exact h
  | cons a l ih => exact ih (hf m a h)

theorem Canon.rput (F : FieldSpec) (i v : Nat) {r : Regs} (h : Canon r) : Canon (rput F i v r) := h.nput _ _

theorem Canon.putBytes (o : Nat) (bs : List Nat) {m : NMap Nat} (h : Canon m) : Canon (putBytes o bs m) :=
  Canon.foldl _ _ h fun _ _ h => h.nput _ _

theorem Canon.resetField (k : ResetKind) (F : FieldSpec) {r : Regs} (h : Canon r) : Canon (resetField k r F) := by
  unfold Machine.resetField
  split_ifs
  · exact Canon.foldl _ _ h fun _ _ h => h.rput _ _ _
  · exact h

theorem Canon.resetRegs (k : ResetKind) {r : Regs} (h : Canon r) : Canon (resetRegs k r) := by
  refine Canon.foldl _ _ h fun r F h => ?_
  split_ifs
  · exact Canon.foldl _ _ h fun _ _ h => h.rput _ _ _
  · exact h.resetField _ _

theorem Canon.coldRegs : Canon coldRegs := Canon.foldl _ _ Canon.nil fun _ _ h => h.resetField _ _

/-! ### Reading what was stored -/

theorem ngetD_ndel_self (k : Nat) {m : NMap Nat} (h : NMap.wf m) : ngetD k 0 (ndel k m) = 0 := by simp [ngetD, nfind_ndel_self k h]

/-- A number stored in a canonical store reads back. -/
theorem ngetD_nput_self (k v : Nat) {m : NMap Nat} (h : NMap.wf m) : ngetD k 0 (nput k v m) = v := by
  unfold nput
  split_ifs with h1
  · rw [ngetD_ndel_self k h, h1]
  · simp

theorem ngetD_nput_ne {k j : Nat} (h : j ≠ k) (v : Nat) (m : NMap Nat) : ngetD j 0 (nput k v m) = ngetD j 0 m := by
  unfold nput
  split_ifs
  · simp [ngetD, nfind_ndel_ne h]
  · exact ngetD_nset_ne h _ _ _

/-- A register field reads back what was stored, cut to its width. -/
theorem rget_rput_self (F : FieldSpec) (i v : Nat) {r : Regs} (h : NMap.wf r) : rget (rput F i v r) F i = v % 2 ^ F.w :=
  ngetD_nput_self _ _ h

/-- A store into one field leaves every field under another key alone. -/
theorem rget_rput_ne {F G : FieldSpec} {i j : Nat} (h : G.key j ≠ F.key i) (v : Nat) (r : Regs) : rget (rput F i v r) G j = rget r G j :=
  ngetD_nput_ne h _ _

end Sys2Proof.Machine
end

