-- ==== Sys2Proof/Laws/State.lean ====
section
/-!
SUPPORT. One lemma per part of the state and shared update, true by unfolding: the part of State that the update leaves alone, so that no later proof
unfolds a record update.
-/

namespace Sys2Proof.Machine

variable (s : State)

/-! ### put -/

@[simp] theorem State.put_pending (F : FieldSpec) (v i : Nat) : (s.put F v i).pending = s.pending := rfl
@[simp] theorem State.put_core (F : FieldSpec) (v i : Nat) : (s.put F v i).core = s.core := rfl
@[simp] theorem State.put_el (F : FieldSpec) (v i : Nat) : (s.put F v i).el = s.el := rfl
@[simp] theorem State.put_prs (F : FieldSpec) (v i : Nat) : (s.put F v i).prs = s.prs := rfl
@[simp] theorem State.put_fnt (F : FieldSpec) (v i : Nat) : (s.put F v i).fnt = s.fnt := rfl
@[simp] theorem State.put_sch (F : FieldSpec) (v i : Nat) : (s.put F v i).sch = s.sch := rfl
@[simp] theorem State.put_dma (F : FieldSpec) (v i : Nat) : (s.put F v i).dma = s.dma := rfl
@[simp] theorem State.put_img (F : FieldSpec) (v i : Nat) : (s.put F v i).img = s.img := rfl
@[simp] theorem State.put_hif (F : FieldSpec) (v i : Nat) : (s.put F v i).hif = s.hif := rfl
@[simp] theorem State.put_sec (F : FieldSpec) (v i : Nat) : (s.put F v i).sec = s.sec := rfl
@[simp] theorem State.put_pins (F : FieldSpec) (v i : Nat) : (s.put F v i).pins = s.pins := rfl
@[simp] theorem State.put_fe (F : FieldSpec) (v i : Nat) : (s.put F v i).fe = s.fe := rfl
@[simp] theorem State.put_conns (F : FieldSpec) (v i : Nat) : (s.put F v i).conns = s.conns := rfl
@[simp] theorem State.put_ctrls (F : FieldSpec) (v i : Nat) : (s.put F v i).ctrls = s.ctrls := rfl
@[simp] theorem State.put_cmds (F : FieldSpec) (v i : Nat) : (s.put F v i).cmds = s.cmds := rfl
@[simp] theorem State.put_units (F : FieldSpec) (v i : Nat) : (s.put F v i).units = s.units := rfl
@[simp] theorem State.put_seq (F : FieldSpec) (v i : Nat) : (s.put F v i).seq = s.seq := rfl
@[simp] theorem State.put_ingress (F : FieldSpec) (v i : Nat) : (s.put F v i).ingress = s.ingress := rfl
@[simp] theorem State.put_reserved (F : FieldSpec) (v i : Nat) : (s.put F v i).reserved = s.reserved := rfl
@[simp] theorem State.put_anaChange (F : FieldSpec) (v i : Nat) : (s.put F v i).anaChange = s.anaChange := rfl
@[simp] theorem State.put_rdUnits (F : FieldSpec) (v i : Nat) : (s.put F v i).rdUnits = s.rdUnits := rfl
@[simp] theorem State.put_wrUnits (F : FieldSpec) (v i : Nat) : (s.put F v i).wrUnits = s.wrUnits := rfl
@[simp] theorem State.put_rdBytes (F : FieldSpec) (v i : Nat) : (s.put F v i).rdBytes = s.rdBytes := rfl
@[simp] theorem State.put_wrBytes (F : FieldSpec) (v i : Nat) : (s.put F v i).wrBytes = s.wrBytes := rfl
@[simp] theorem State.put_mediaErrs (F : FieldSpec) (v i : Nat) : (s.put F v i).mediaErrs = s.mediaErrs := rfl
@[simp] theorem State.put_zn (F : FieldSpec) (v i : Nat) : (s.put F v i).zn = s.zn := rfl
@[simp] theorem State.put_cs (F : FieldSpec) (v i : Nat) : (s.put F v i).cs = s.cs := rfl
@[simp] theorem State.put_upds (F : FieldSpec) (v i : Nat) : (s.put F v i).upds = s.upds := rfl
@[simp] theorem State.put_sigs (F : FieldSpec) (v i : Nat) : (s.put F v i).sigs = s.sigs := rfl
@[simp] theorem State.put_lost (F : FieldSpec) (v i : Nat) : (s.put F v i).lost = s.lost := rfl
@[simp] theorem State.put_repairs (F : FieldSpec) (v i : Nat) : (s.put F v i).repairs = s.repairs := rfl
@[simp] theorem State.put_walks (F : FieldSpec) (v i : Nat) : (s.put F v i).walks = s.walks := rfl
@[simp] theorem State.put_drvs (F : FieldSpec) (v i : Nat) : (s.put F v i).drvs = s.drvs := rfl
@[simp] theorem State.put_tagNo (F : FieldSpec) (v i : Nat) : (s.put F v i).tagNo = s.tagNo := rfl
@[simp] theorem State.put_cast (F : FieldSpec) (v i : Nat) : (s.put F v i).cast = s.cast := rfl
@[simp] theorem State.put_st0 (F : FieldSpec) (v i : Nat) : (s.put F v i).st0 = s.st0 := rfl
@[simp] theorem State.put_st1 (F : FieldSpec) (v i : Nat) : (s.put F v i).st1 = s.st1 := rfl
@[simp] theorem State.put_stage (F : FieldSpec) (v i : Nat) : (s.put F v i).stage = s.stage := rfl
@[simp] theorem State.put_hostBuf (F : FieldSpec) (v i : Nat) : (s.put F v i).hostBuf = s.hostBuf := rfl
@[simp] theorem State.put_corrHour (F : FieldSpec) (v i : Nat) : (s.put F v i).corrHour = s.corrHour := rfl
@[simp] theorem State.put_out (F : FieldSpec) (v i : Nat) : (s.put F v i).out = s.out := rfl
@[simp] theorem State.put_withheld (F : FieldSpec) (v i : Nat) : (s.put F v i).withheld = s.withheld := rfl

/-! ### raise -/

@[simp] theorem State.raise_pending (F : FieldSpec) (i : Nat) : (s.raise F i).pending = s.pending := rfl
@[simp] theorem State.raise_core (F : FieldSpec) (i : Nat) : (s.raise F i).core = s.core := rfl
@[simp] theorem State.raise_el (F : FieldSpec) (i : Nat) : (s.raise F i).el = s.el := rfl
@[simp] theorem State.raise_prs (F : FieldSpec) (i : Nat) : (s.raise F i).prs = s.prs := rfl
@[simp] theorem State.raise_fnt (F : FieldSpec) (i : Nat) : (s.raise F i).fnt = s.fnt := rfl
@[simp] theorem State.raise_sch (F : FieldSpec) (i : Nat) : (s.raise F i).sch = s.sch := rfl
@[simp] theorem State.raise_dma (F : FieldSpec) (i : Nat) : (s.raise F i).dma = s.dma := rfl
@[simp] theorem State.raise_img (F : FieldSpec) (i : Nat) : (s.raise F i).img = s.img := rfl
@[simp] theorem State.raise_hif (F : FieldSpec) (i : Nat) : (s.raise F i).hif = s.hif := rfl
@[simp] theorem State.raise_sec (F : FieldSpec) (i : Nat) : (s.raise F i).sec = s.sec := rfl
@[simp] theorem State.raise_pins (F : FieldSpec) (i : Nat) : (s.raise F i).pins = s.pins := rfl
@[simp] theorem State.raise_fe (F : FieldSpec) (i : Nat) : (s.raise F i).fe = s.fe := rfl
@[simp] theorem State.raise_conns (F : FieldSpec) (i : Nat) : (s.raise F i).conns = s.conns := rfl
@[simp] theorem State.raise_ctrls (F : FieldSpec) (i : Nat) : (s.raise F i).ctrls = s.ctrls := rfl
@[simp] theorem State.raise_cmds (F : FieldSpec) (i : Nat) : (s.raise F i).cmds = s.cmds := rfl
@[simp] theorem State.raise_units (F : FieldSpec) (i : Nat) : (s.raise F i).units = s.units := rfl
@[simp] theorem State.raise_seq (F : FieldSpec) (i : Nat) : (s.raise F i).seq = s.seq := rfl
@[simp] theorem State.raise_ingress (F : FieldSpec) (i : Nat) : (s.raise F i).ingress = s.ingress := rfl
@[simp] theorem State.raise_reserved (F : FieldSpec) (i : Nat) : (s.raise F i).reserved = s.reserved := rfl
@[simp] theorem State.raise_anaChange (F : FieldSpec) (i : Nat) : (s.raise F i).anaChange = s.anaChange := rfl
@[simp] theorem State.raise_rdUnits (F : FieldSpec) (i : Nat) : (s.raise F i).rdUnits = s.rdUnits := rfl
@[simp] theorem State.raise_wrUnits (F : FieldSpec) (i : Nat) : (s.raise F i).wrUnits = s.wrUnits := rfl
@[simp] theorem State.raise_rdBytes (F : FieldSpec) (i : Nat) : (s.raise F i).rdBytes = s.rdBytes := rfl
@[simp] theorem State.raise_wrBytes (F : FieldSpec) (i : Nat) : (s.raise F i).wrBytes = s.wrBytes := rfl
@[simp] theorem State.raise_mediaErrs (F : FieldSpec) (i : Nat) : (s.raise F i).mediaErrs = s.mediaErrs := rfl
@[simp] theorem State.raise_zn (F : FieldSpec) (i : Nat) : (s.raise F i).zn = s.zn := rfl
@[simp] theorem State.raise_cs (F : FieldSpec) (i : Nat) : (s.raise F i).cs = s.cs := rfl
@[simp] theorem State.raise_upds (F : FieldSpec) (i : Nat) : (s.raise F i).upds = s.upds := rfl
@[simp] theorem State.raise_sigs (F : FieldSpec) (i : Nat) : (s.raise F i).sigs = s.sigs := rfl
@[simp] theorem State.raise_lost (F : FieldSpec) (i : Nat) : (s.raise F i).lost = s.lost := rfl
@[simp] theorem State.raise_repairs (F : FieldSpec) (i : Nat) : (s.raise F i).repairs = s.repairs := rfl
@[simp] theorem State.raise_walks (F : FieldSpec) (i : Nat) : (s.raise F i).walks = s.walks := rfl
@[simp] theorem State.raise_drvs (F : FieldSpec) (i : Nat) : (s.raise F i).drvs = s.drvs := rfl
@[simp] theorem State.raise_tagNo (F : FieldSpec) (i : Nat) : (s.raise F i).tagNo = s.tagNo := rfl
@[simp] theorem State.raise_cast (F : FieldSpec) (i : Nat) : (s.raise F i).cast = s.cast := rfl
@[simp] theorem State.raise_st0 (F : FieldSpec) (i : Nat) : (s.raise F i).st0 = s.st0 := rfl
@[simp] theorem State.raise_st1 (F : FieldSpec) (i : Nat) : (s.raise F i).st1 = s.st1 := rfl
@[simp] theorem State.raise_stage (F : FieldSpec) (i : Nat) : (s.raise F i).stage = s.stage := rfl
@[simp] theorem State.raise_hostBuf (F : FieldSpec) (i : Nat) : (s.raise F i).hostBuf = s.hostBuf := rfl
@[simp] theorem State.raise_corrHour (F : FieldSpec) (i : Nat) : (s.raise F i).corrHour = s.corrHour := rfl
@[simp] theorem State.raise_out (F : FieldSpec) (i : Nat) : (s.raise F i).out = s.out := rfl
@[simp] theorem State.raise_withheld (F : FieldSpec) (i : Nat) : (s.raise F i).withheld = s.withheld := rfl

/-! ### bump -/

@[simp] theorem State.bump_pending (F : FieldSpec) (m i : Nat) : (s.bump F m i).pending = s.pending := rfl
@[simp] theorem State.bump_core (F : FieldSpec) (m i : Nat) : (s.bump F m i).core = s.core := rfl
@[simp] theorem State.bump_el (F : FieldSpec) (m i : Nat) : (s.bump F m i).el = s.el := rfl
@[simp] theorem State.bump_prs (F : FieldSpec) (m i : Nat) : (s.bump F m i).prs = s.prs := rfl
@[simp] theorem State.bump_fnt (F : FieldSpec) (m i : Nat) : (s.bump F m i).fnt = s.fnt := rfl
@[simp] theorem State.bump_sch (F : FieldSpec) (m i : Nat) : (s.bump F m i).sch = s.sch := rfl
@[simp] theorem State.bump_dma (F : FieldSpec) (m i : Nat) : (s.bump F m i).dma = s.dma := rfl
@[simp] theorem State.bump_img (F : FieldSpec) (m i : Nat) : (s.bump F m i).img = s.img := rfl
@[simp] theorem State.bump_hif (F : FieldSpec) (m i : Nat) : (s.bump F m i).hif = s.hif := rfl
@[simp] theorem State.bump_sec (F : FieldSpec) (m i : Nat) : (s.bump F m i).sec = s.sec := rfl
@[simp] theorem State.bump_pins (F : FieldSpec) (m i : Nat) : (s.bump F m i).pins = s.pins := rfl
@[simp] theorem State.bump_fe (F : FieldSpec) (m i : Nat) : (s.bump F m i).fe = s.fe := rfl
@[simp] theorem State.bump_conns (F : FieldSpec) (m i : Nat) : (s.bump F m i).conns = s.conns := rfl
@[simp] theorem State.bump_ctrls (F : FieldSpec) (m i : Nat) : (s.bump F m i).ctrls = s.ctrls := rfl
@[simp] theorem State.bump_cmds (F : FieldSpec) (m i : Nat) : (s.bump F m i).cmds = s.cmds := rfl
@[simp] theorem State.bump_units (F : FieldSpec) (m i : Nat) : (s.bump F m i).units = s.units := rfl
@[simp] theorem State.bump_seq (F : FieldSpec) (m i : Nat) : (s.bump F m i).seq = s.seq := rfl
@[simp] theorem State.bump_ingress (F : FieldSpec) (m i : Nat) : (s.bump F m i).ingress = s.ingress := rfl
@[simp] theorem State.bump_reserved (F : FieldSpec) (m i : Nat) : (s.bump F m i).reserved = s.reserved := rfl
@[simp] theorem State.bump_anaChange (F : FieldSpec) (m i : Nat) : (s.bump F m i).anaChange = s.anaChange := rfl
@[simp] theorem State.bump_rdUnits (F : FieldSpec) (m i : Nat) : (s.bump F m i).rdUnits = s.rdUnits := rfl
@[simp] theorem State.bump_wrUnits (F : FieldSpec) (m i : Nat) : (s.bump F m i).wrUnits = s.wrUnits := rfl
@[simp] theorem State.bump_rdBytes (F : FieldSpec) (m i : Nat) : (s.bump F m i).rdBytes = s.rdBytes := rfl
@[simp] theorem State.bump_wrBytes (F : FieldSpec) (m i : Nat) : (s.bump F m i).wrBytes = s.wrBytes := rfl
@[simp] theorem State.bump_mediaErrs (F : FieldSpec) (m i : Nat) : (s.bump F m i).mediaErrs = s.mediaErrs := rfl
@[simp] theorem State.bump_zn (F : FieldSpec) (m i : Nat) : (s.bump F m i).zn = s.zn := rfl
@[simp] theorem State.bump_cs (F : FieldSpec) (m i : Nat) : (s.bump F m i).cs = s.cs := rfl
@[simp] theorem State.bump_upds (F : FieldSpec) (m i : Nat) : (s.bump F m i).upds = s.upds := rfl
@[simp] theorem State.bump_sigs (F : FieldSpec) (m i : Nat) : (s.bump F m i).sigs = s.sigs := rfl
@[simp] theorem State.bump_lost (F : FieldSpec) (m i : Nat) : (s.bump F m i).lost = s.lost := rfl
@[simp] theorem State.bump_repairs (F : FieldSpec) (m i : Nat) : (s.bump F m i).repairs = s.repairs := rfl
@[simp] theorem State.bump_walks (F : FieldSpec) (m i : Nat) : (s.bump F m i).walks = s.walks := rfl
@[simp] theorem State.bump_drvs (F : FieldSpec) (m i : Nat) : (s.bump F m i).drvs = s.drvs := rfl
@[simp] theorem State.bump_tagNo (F : FieldSpec) (m i : Nat) : (s.bump F m i).tagNo = s.tagNo := rfl
@[simp] theorem State.bump_cast (F : FieldSpec) (m i : Nat) : (s.bump F m i).cast = s.cast := rfl
@[simp] theorem State.bump_st0 (F : FieldSpec) (m i : Nat) : (s.bump F m i).st0 = s.st0 := rfl
@[simp] theorem State.bump_st1 (F : FieldSpec) (m i : Nat) : (s.bump F m i).st1 = s.st1 := rfl
@[simp] theorem State.bump_stage (F : FieldSpec) (m i : Nat) : (s.bump F m i).stage = s.stage := rfl
@[simp] theorem State.bump_hostBuf (F : FieldSpec) (m i : Nat) : (s.bump F m i).hostBuf = s.hostBuf := rfl
@[simp] theorem State.bump_corrHour (F : FieldSpec) (m i : Nat) : (s.bump F m i).corrHour = s.corrHour := rfl
@[simp] theorem State.bump_out (F : FieldSpec) (m i : Nat) : (s.bump F m i).out = s.out := rfl
@[simp] theorem State.bump_withheld (F : FieldSpec) (m i : Nat) : (s.bump F m i).withheld = s.withheld := rfl

/-! ### putB -/

@[simp] theorem State.putB_pending (F : FieldSpec) (b : Bool) (i : Nat) : (s.putB F b i).pending = s.pending := rfl
@[simp] theorem State.putB_core (F : FieldSpec) (b : Bool) (i : Nat) : (s.putB F b i).core = s.core := rfl
@[simp] theorem State.putB_el (F : FieldSpec) (b : Bool) (i : Nat) : (s.putB F b i).el = s.el := rfl
@[simp] theorem State.putB_prs (F : FieldSpec) (b : Bool) (i : Nat) : (s.putB F b i).prs = s.prs := rfl
@[simp] theorem State.putB_fnt (F : FieldSpec) (b : Bool) (i : Nat) : (s.putB F b i).fnt = s.fnt := rfl
@[simp] theorem State.putB_sch (F : FieldSpec) (b : Bool) (i : Nat) : (s.putB F b i).sch = s.sch := rfl
@[simp] theorem State.putB_dma (F : FieldSpec) (b : Bool) (i : Nat) : (s.putB F b i).dma = s.dma := rfl
@[simp] theorem State.putB_img (F : FieldSpec) (b : Bool) (i : Nat) : (s.putB F b i).img = s.img := rfl
@[simp] theorem State.putB_hif (F : FieldSpec) (b : Bool) (i : Nat) : (s.putB F b i).hif = s.hif := rfl
@[simp] theorem State.putB_sec (F : FieldSpec) (b : Bool) (i : Nat) : (s.putB F b i).sec = s.sec := rfl
@[simp] theorem State.putB_pins (F : FieldSpec) (b : Bool) (i : Nat) : (s.putB F b i).pins = s.pins := rfl
@[simp] theorem State.putB_fe (F : FieldSpec) (b : Bool) (i : Nat) : (s.putB F b i).fe = s.fe := rfl
@[simp] theorem State.putB_conns (F : FieldSpec) (b : Bool) (i : Nat) : (s.putB F b i).conns = s.conns := rfl
@[simp] theorem State.putB_ctrls (F : FieldSpec) (b : Bool) (i : Nat) : (s.putB F b i).ctrls = s.ctrls := rfl
@[simp] theorem State.putB_cmds (F : FieldSpec) (b : Bool) (i : Nat) : (s.putB F b i).cmds = s.cmds := rfl
@[simp] theorem State.putB_units (F : FieldSpec) (b : Bool) (i : Nat) : (s.putB F b i).units = s.units := rfl
@[simp] theorem State.putB_seq (F : FieldSpec) (b : Bool) (i : Nat) : (s.putB F b i).seq = s.seq := rfl
@[simp] theorem State.putB_ingress (F : FieldSpec) (b : Bool) (i : Nat) : (s.putB F b i).ingress = s.ingress := rfl
@[simp] theorem State.putB_reserved (F : FieldSpec) (b : Bool) (i : Nat) : (s.putB F b i).reserved = s.reserved := rfl
@[simp] theorem State.putB_anaChange (F : FieldSpec) (b : Bool) (i : Nat) : (s.putB F b i).anaChange = s.anaChange := rfl
@[simp] theorem State.putB_rdUnits (F : FieldSpec) (b : Bool) (i : Nat) : (s.putB F b i).rdUnits = s.rdUnits := rfl
@[simp] theorem State.putB_wrUnits (F : FieldSpec) (b : Bool) (i : Nat) : (s.putB F b i).wrUnits = s.wrUnits := rfl
@[simp] theorem State.putB_rdBytes (F : FieldSpec) (b : Bool) (i : Nat) : (s.putB F b i).rdBytes = s.rdBytes := rfl
@[simp] theorem State.putB_wrBytes (F : FieldSpec) (b : Bool) (i : Nat) : (s.putB F b i).wrBytes = s.wrBytes := rfl
@[simp] theorem State.putB_mediaErrs (F : FieldSpec) (b : Bool) (i : Nat) : (s.putB F b i).mediaErrs = s.mediaErrs := rfl
@[simp] theorem State.putB_zn (F : FieldSpec) (b : Bool) (i : Nat) : (s.putB F b i).zn = s.zn := rfl
@[simp] theorem State.putB_cs (F : FieldSpec) (b : Bool) (i : Nat) : (s.putB F b i).cs = s.cs := rfl
@[simp] theorem State.putB_upds (F : FieldSpec) (b : Bool) (i : Nat) : (s.putB F b i).upds = s.upds := rfl
@[simp] theorem State.putB_sigs (F : FieldSpec) (b : Bool) (i : Nat) : (s.putB F b i).sigs = s.sigs := rfl
@[simp] theorem State.putB_lost (F : FieldSpec) (b : Bool) (i : Nat) : (s.putB F b i).lost = s.lost := rfl
@[simp] theorem State.putB_repairs (F : FieldSpec) (b : Bool) (i : Nat) : (s.putB F b i).repairs = s.repairs := rfl
@[simp] theorem State.putB_walks (F : FieldSpec) (b : Bool) (i : Nat) : (s.putB F b i).walks = s.walks := rfl
@[simp] theorem State.putB_drvs (F : FieldSpec) (b : Bool) (i : Nat) : (s.putB F b i).drvs = s.drvs := rfl
@[simp] theorem State.putB_tagNo (F : FieldSpec) (b : Bool) (i : Nat) : (s.putB F b i).tagNo = s.tagNo := rfl
@[simp] theorem State.putB_cast (F : FieldSpec) (b : Bool) (i : Nat) : (s.putB F b i).cast = s.cast := rfl
@[simp] theorem State.putB_st0 (F : FieldSpec) (b : Bool) (i : Nat) : (s.putB F b i).st0 = s.st0 := rfl
@[simp] theorem State.putB_st1 (F : FieldSpec) (b : Bool) (i : Nat) : (s.putB F b i).st1 = s.st1 := rfl
@[simp] theorem State.putB_stage (F : FieldSpec) (b : Bool) (i : Nat) : (s.putB F b i).stage = s.stage := rfl
@[simp] theorem State.putB_hostBuf (F : FieldSpec) (b : Bool) (i : Nat) : (s.putB F b i).hostBuf = s.hostBuf := rfl
@[simp] theorem State.putB_corrHour (F : FieldSpec) (b : Bool) (i : Nat) : (s.putB F b i).corrHour = s.corrHour := rfl
@[simp] theorem State.putB_out (F : FieldSpec) (b : Bool) (i : Nat) : (s.putB F b i).out = s.out := rfl
@[simp] theorem State.putB_withheld (F : FieldSpec) (b : Bool) (i : Nat) : (s.putB F b i).withheld = s.withheld := rfl

/-! ### ask -/

@[simp] theorem State.ask_pending (F : FieldSpec) (i : Nat) : (s.ask F i).pending = s.pending := rfl
@[simp] theorem State.ask_core (F : FieldSpec) (i : Nat) : (s.ask F i).core = s.core := rfl
@[simp] theorem State.ask_el (F : FieldSpec) (i : Nat) : (s.ask F i).el = s.el := rfl
@[simp] theorem State.ask_prs (F : FieldSpec) (i : Nat) : (s.ask F i).prs = s.prs := rfl
@[simp] theorem State.ask_fnt (F : FieldSpec) (i : Nat) : (s.ask F i).fnt = s.fnt := rfl
@[simp] theorem State.ask_sch (F : FieldSpec) (i : Nat) : (s.ask F i).sch = s.sch := rfl
@[simp] theorem State.ask_dma (F : FieldSpec) (i : Nat) : (s.ask F i).dma = s.dma := rfl
@[simp] theorem State.ask_img (F : FieldSpec) (i : Nat) : (s.ask F i).img = s.img := rfl
@[simp] theorem State.ask_hif (F : FieldSpec) (i : Nat) : (s.ask F i).hif = s.hif := rfl
@[simp] theorem State.ask_sec (F : FieldSpec) (i : Nat) : (s.ask F i).sec = s.sec := rfl
@[simp] theorem State.ask_pins (F : FieldSpec) (i : Nat) : (s.ask F i).pins = s.pins := rfl
@[simp] theorem State.ask_fe (F : FieldSpec) (i : Nat) : (s.ask F i).fe = s.fe := rfl
@[simp] theorem State.ask_conns (F : FieldSpec) (i : Nat) : (s.ask F i).conns = s.conns := rfl
@[simp] theorem State.ask_ctrls (F : FieldSpec) (i : Nat) : (s.ask F i).ctrls = s.ctrls := rfl
@[simp] theorem State.ask_cmds (F : FieldSpec) (i : Nat) : (s.ask F i).cmds = s.cmds := rfl
@[simp] theorem State.ask_units (F : FieldSpec) (i : Nat) : (s.ask F i).units = s.units := rfl
@[simp] theorem State.ask_seq (F : FieldSpec) (i : Nat) : (s.ask F i).seq = s.seq := rfl
@[simp] theorem State.ask_ingress (F : FieldSpec) (i : Nat) : (s.ask F i).ingress = s.ingress := rfl
@[simp] theorem State.ask_reserved (F : FieldSpec) (i : Nat) : (s.ask F i).reserved = s.reserved := rfl
@[simp] theorem State.ask_anaChange (F : FieldSpec) (i : Nat) : (s.ask F i).anaChange = s.anaChange := rfl
@[simp] theorem State.ask_rdUnits (F : FieldSpec) (i : Nat) : (s.ask F i).rdUnits = s.rdUnits := rfl
@[simp] theorem State.ask_wrUnits (F : FieldSpec) (i : Nat) : (s.ask F i).wrUnits = s.wrUnits := rfl
@[simp] theorem State.ask_rdBytes (F : FieldSpec) (i : Nat) : (s.ask F i).rdBytes = s.rdBytes := rfl
@[simp] theorem State.ask_wrBytes (F : FieldSpec) (i : Nat) : (s.ask F i).wrBytes = s.wrBytes := rfl
@[simp] theorem State.ask_mediaErrs (F : FieldSpec) (i : Nat) : (s.ask F i).mediaErrs = s.mediaErrs := rfl
@[simp] theorem State.ask_zn (F : FieldSpec) (i : Nat) : (s.ask F i).zn = s.zn := rfl
@[simp] theorem State.ask_cs (F : FieldSpec) (i : Nat) : (s.ask F i).cs = s.cs := rfl
@[simp] theorem State.ask_upds (F : FieldSpec) (i : Nat) : (s.ask F i).upds = s.upds := rfl
@[simp] theorem State.ask_sigs (F : FieldSpec) (i : Nat) : (s.ask F i).sigs = s.sigs := rfl
@[simp] theorem State.ask_lost (F : FieldSpec) (i : Nat) : (s.ask F i).lost = s.lost := rfl
@[simp] theorem State.ask_repairs (F : FieldSpec) (i : Nat) : (s.ask F i).repairs = s.repairs := rfl
@[simp] theorem State.ask_walks (F : FieldSpec) (i : Nat) : (s.ask F i).walks = s.walks := rfl
@[simp] theorem State.ask_drvs (F : FieldSpec) (i : Nat) : (s.ask F i).drvs = s.drvs := rfl
@[simp] theorem State.ask_tagNo (F : FieldSpec) (i : Nat) : (s.ask F i).tagNo = s.tagNo := rfl
@[simp] theorem State.ask_cast (F : FieldSpec) (i : Nat) : (s.ask F i).cast = s.cast := rfl
@[simp] theorem State.ask_st0 (F : FieldSpec) (i : Nat) : (s.ask F i).st0 = s.st0 := rfl
@[simp] theorem State.ask_st1 (F : FieldSpec) (i : Nat) : (s.ask F i).st1 = s.st1 := rfl
@[simp] theorem State.ask_stage (F : FieldSpec) (i : Nat) : (s.ask F i).stage = s.stage := rfl
@[simp] theorem State.ask_hostBuf (F : FieldSpec) (i : Nat) : (s.ask F i).hostBuf = s.hostBuf := rfl
@[simp] theorem State.ask_corrHour (F : FieldSpec) (i : Nat) : (s.ask F i).corrHour = s.corrHour := rfl
@[simp] theorem State.ask_out (F : FieldSpec) (i : Nat) : (s.ask F i).out = s.out := rfl
@[simp] theorem State.ask_withheld (F : FieldSpec) (i : Nat) : (s.ask F i).withheld = s.withheld := rfl

/-! ### settle -/

@[simp] theorem State.settle_pending (F : FieldSpec) (i : Nat) : (s.settle F i).pending = s.pending := rfl
@[simp] theorem State.settle_core (F : FieldSpec) (i : Nat) : (s.settle F i).core = s.core := rfl
@[simp] theorem State.settle_el (F : FieldSpec) (i : Nat) : (s.settle F i).el = s.el := rfl
@[simp] theorem State.settle_prs (F : FieldSpec) (i : Nat) : (s.settle F i).prs = s.prs := rfl
@[simp] theorem State.settle_fnt (F : FieldSpec) (i : Nat) : (s.settle F i).fnt = s.fnt := rfl
@[simp] theorem State.settle_sch (F : FieldSpec) (i : Nat) : (s.settle F i).sch = s.sch := rfl
@[simp] theorem State.settle_dma (F : FieldSpec) (i : Nat) : (s.settle F i).dma = s.dma := rfl
@[simp] theorem State.settle_img (F : FieldSpec) (i : Nat) : (s.settle F i).img = s.img := rfl
@[simp] theorem State.settle_hif (F : FieldSpec) (i : Nat) : (s.settle F i).hif = s.hif := rfl
@[simp] theorem State.settle_sec (F : FieldSpec) (i : Nat) : (s.settle F i).sec = s.sec := rfl
@[simp] theorem State.settle_pins (F : FieldSpec) (i : Nat) : (s.settle F i).pins = s.pins := rfl
@[simp] theorem State.settle_fe (F : FieldSpec) (i : Nat) : (s.settle F i).fe = s.fe := rfl
@[simp] theorem State.settle_conns (F : FieldSpec) (i : Nat) : (s.settle F i).conns = s.conns := rfl
@[simp] theorem State.settle_ctrls (F : FieldSpec) (i : Nat) : (s.settle F i).ctrls = s.ctrls := rfl
@[simp] theorem State.settle_cmds (F : FieldSpec) (i : Nat) : (s.settle F i).cmds = s.cmds := rfl
@[simp] theorem State.settle_units (F : FieldSpec) (i : Nat) : (s.settle F i).units = s.units := rfl
@[simp] theorem State.settle_seq (F : FieldSpec) (i : Nat) : (s.settle F i).seq = s.seq := rfl
@[simp] theorem State.settle_ingress (F : FieldSpec) (i : Nat) : (s.settle F i).ingress = s.ingress := rfl
@[simp] theorem State.settle_reserved (F : FieldSpec) (i : Nat) : (s.settle F i).reserved = s.reserved := rfl
@[simp] theorem State.settle_anaChange (F : FieldSpec) (i : Nat) : (s.settle F i).anaChange = s.anaChange := rfl
@[simp] theorem State.settle_rdUnits (F : FieldSpec) (i : Nat) : (s.settle F i).rdUnits = s.rdUnits := rfl
@[simp] theorem State.settle_wrUnits (F : FieldSpec) (i : Nat) : (s.settle F i).wrUnits = s.wrUnits := rfl
@[simp] theorem State.settle_rdBytes (F : FieldSpec) (i : Nat) : (s.settle F i).rdBytes = s.rdBytes := rfl
@[simp] theorem State.settle_wrBytes (F : FieldSpec) (i : Nat) : (s.settle F i).wrBytes = s.wrBytes := rfl
@[simp] theorem State.settle_mediaErrs (F : FieldSpec) (i : Nat) : (s.settle F i).mediaErrs = s.mediaErrs := rfl
@[simp] theorem State.settle_zn (F : FieldSpec) (i : Nat) : (s.settle F i).zn = s.zn := rfl
@[simp] theorem State.settle_cs (F : FieldSpec) (i : Nat) : (s.settle F i).cs = s.cs := rfl
@[simp] theorem State.settle_upds (F : FieldSpec) (i : Nat) : (s.settle F i).upds = s.upds := rfl
@[simp] theorem State.settle_sigs (F : FieldSpec) (i : Nat) : (s.settle F i).sigs = s.sigs := rfl
@[simp] theorem State.settle_lost (F : FieldSpec) (i : Nat) : (s.settle F i).lost = s.lost := rfl
@[simp] theorem State.settle_repairs (F : FieldSpec) (i : Nat) : (s.settle F i).repairs = s.repairs := rfl
@[simp] theorem State.settle_walks (F : FieldSpec) (i : Nat) : (s.settle F i).walks = s.walks := rfl
@[simp] theorem State.settle_drvs (F : FieldSpec) (i : Nat) : (s.settle F i).drvs = s.drvs := rfl
@[simp] theorem State.settle_tagNo (F : FieldSpec) (i : Nat) : (s.settle F i).tagNo = s.tagNo := rfl
@[simp] theorem State.settle_cast (F : FieldSpec) (i : Nat) : (s.settle F i).cast = s.cast := rfl
@[simp] theorem State.settle_st0 (F : FieldSpec) (i : Nat) : (s.settle F i).st0 = s.st0 := rfl
@[simp] theorem State.settle_st1 (F : FieldSpec) (i : Nat) : (s.settle F i).st1 = s.st1 := rfl
@[simp] theorem State.settle_stage (F : FieldSpec) (i : Nat) : (s.settle F i).stage = s.stage := rfl
@[simp] theorem State.settle_hostBuf (F : FieldSpec) (i : Nat) : (s.settle F i).hostBuf = s.hostBuf := rfl
@[simp] theorem State.settle_corrHour (F : FieldSpec) (i : Nat) : (s.settle F i).corrHour = s.corrHour := rfl
@[simp] theorem State.settle_out (F : FieldSpec) (i : Nat) : (s.settle F i).out = s.out := rfl
@[simp] theorem State.settle_withheld (F : FieldSpec) (i : Nat) : (s.settle F i).withheld = s.withheld := rfl

/-! ### pulse -/

@[simp] theorem State.pulse_pending (F : FieldSpec) (i : Nat) : (s.pulse F i).pending = s.pending := rfl
@[simp] theorem State.pulse_core (F : FieldSpec) (i : Nat) : (s.pulse F i).core = s.core := rfl
@[simp] theorem State.pulse_el (F : FieldSpec) (i : Nat) : (s.pulse F i).el = s.el := rfl
@[simp] theorem State.pulse_prs (F : FieldSpec) (i : Nat) : (s.pulse F i).prs = s.prs := rfl
@[simp] theorem State.pulse_fnt (F : FieldSpec) (i : Nat) : (s.pulse F i).fnt = s.fnt := rfl
@[simp] theorem State.pulse_sch (F : FieldSpec) (i : Nat) : (s.pulse F i).sch = s.sch := rfl
@[simp] theorem State.pulse_dma (F : FieldSpec) (i : Nat) : (s.pulse F i).dma = s.dma := rfl
@[simp] theorem State.pulse_img (F : FieldSpec) (i : Nat) : (s.pulse F i).img = s.img := rfl
@[simp] theorem State.pulse_hif (F : FieldSpec) (i : Nat) : (s.pulse F i).hif = s.hif := rfl
@[simp] theorem State.pulse_sec (F : FieldSpec) (i : Nat) : (s.pulse F i).sec = s.sec := rfl
@[simp] theorem State.pulse_pins (F : FieldSpec) (i : Nat) : (s.pulse F i).pins = s.pins := rfl
@[simp] theorem State.pulse_fe (F : FieldSpec) (i : Nat) : (s.pulse F i).fe = s.fe := rfl
@[simp] theorem State.pulse_conns (F : FieldSpec) (i : Nat) : (s.pulse F i).conns = s.conns := rfl
@[simp] theorem State.pulse_ctrls (F : FieldSpec) (i : Nat) : (s.pulse F i).ctrls = s.ctrls := rfl
@[simp] theorem State.pulse_cmds (F : FieldSpec) (i : Nat) : (s.pulse F i).cmds = s.cmds := rfl
@[simp] theorem State.pulse_units (F : FieldSpec) (i : Nat) : (s.pulse F i).units = s.units := rfl
@[simp] theorem State.pulse_seq (F : FieldSpec) (i : Nat) : (s.pulse F i).seq = s.seq := rfl
@[simp] theorem State.pulse_ingress (F : FieldSpec) (i : Nat) : (s.pulse F i).ingress = s.ingress := rfl
@[simp] theorem State.pulse_reserved (F : FieldSpec) (i : Nat) : (s.pulse F i).reserved = s.reserved := rfl
@[simp] theorem State.pulse_anaChange (F : FieldSpec) (i : Nat) : (s.pulse F i).anaChange = s.anaChange := rfl
@[simp] theorem State.pulse_rdUnits (F : FieldSpec) (i : Nat) : (s.pulse F i).rdUnits = s.rdUnits := rfl
@[simp] theorem State.pulse_wrUnits (F : FieldSpec) (i : Nat) : (s.pulse F i).wrUnits = s.wrUnits := rfl
@[simp] theorem State.pulse_rdBytes (F : FieldSpec) (i : Nat) : (s.pulse F i).rdBytes = s.rdBytes := rfl
@[simp] theorem State.pulse_wrBytes (F : FieldSpec) (i : Nat) : (s.pulse F i).wrBytes = s.wrBytes := rfl
@[simp] theorem State.pulse_mediaErrs (F : FieldSpec) (i : Nat) : (s.pulse F i).mediaErrs = s.mediaErrs := rfl
@[simp] theorem State.pulse_zn (F : FieldSpec) (i : Nat) : (s.pulse F i).zn = s.zn := rfl
@[simp] theorem State.pulse_cs (F : FieldSpec) (i : Nat) : (s.pulse F i).cs = s.cs := rfl
@[simp] theorem State.pulse_upds (F : FieldSpec) (i : Nat) : (s.pulse F i).upds = s.upds := rfl
@[simp] theorem State.pulse_sigs (F : FieldSpec) (i : Nat) : (s.pulse F i).sigs = s.sigs := rfl
@[simp] theorem State.pulse_lost (F : FieldSpec) (i : Nat) : (s.pulse F i).lost = s.lost := rfl
@[simp] theorem State.pulse_repairs (F : FieldSpec) (i : Nat) : (s.pulse F i).repairs = s.repairs := rfl
@[simp] theorem State.pulse_walks (F : FieldSpec) (i : Nat) : (s.pulse F i).walks = s.walks := rfl
@[simp] theorem State.pulse_drvs (F : FieldSpec) (i : Nat) : (s.pulse F i).drvs = s.drvs := rfl
@[simp] theorem State.pulse_tagNo (F : FieldSpec) (i : Nat) : (s.pulse F i).tagNo = s.tagNo := rfl
@[simp] theorem State.pulse_cast (F : FieldSpec) (i : Nat) : (s.pulse F i).cast = s.cast := rfl
@[simp] theorem State.pulse_st0 (F : FieldSpec) (i : Nat) : (s.pulse F i).st0 = s.st0 := rfl
@[simp] theorem State.pulse_st1 (F : FieldSpec) (i : Nat) : (s.pulse F i).st1 = s.st1 := rfl
@[simp] theorem State.pulse_stage (F : FieldSpec) (i : Nat) : (s.pulse F i).stage = s.stage := rfl
@[simp] theorem State.pulse_hostBuf (F : FieldSpec) (i : Nat) : (s.pulse F i).hostBuf = s.hostBuf := rfl
@[simp] theorem State.pulse_corrHour (F : FieldSpec) (i : Nat) : (s.pulse F i).corrHour = s.corrHour := rfl
@[simp] theorem State.pulse_out (F : FieldSpec) (i : Nat) : (s.pulse F i).out = s.out := rfl
@[simp] theorem State.pulse_withheld (F : FieldSpec) (i : Nat) : (s.pulse F i).withheld = s.withheld := rfl

/-! ### ibi -/

@[simp] theorem State.ibi_pending (c : Nat) : (s.ibi c).pending = s.pending := rfl
@[simp] theorem State.ibi_core (c : Nat) : (s.ibi c).core = s.core := rfl
@[simp] theorem State.ibi_el (c : Nat) : (s.ibi c).el = s.el := rfl
@[simp] theorem State.ibi_prs (c : Nat) : (s.ibi c).prs = s.prs := rfl
@[simp] theorem State.ibi_fnt (c : Nat) : (s.ibi c).fnt = s.fnt := rfl
@[simp] theorem State.ibi_sch (c : Nat) : (s.ibi c).sch = s.sch := rfl
@[simp] theorem State.ibi_dma (c : Nat) : (s.ibi c).dma = s.dma := rfl
@[simp] theorem State.ibi_img (c : Nat) : (s.ibi c).img = s.img := rfl
@[simp] theorem State.ibi_hif (c : Nat) : (s.ibi c).hif = s.hif := rfl
@[simp] theorem State.ibi_sec (c : Nat) : (s.ibi c).sec = s.sec := rfl
@[simp] theorem State.ibi_pins (c : Nat) : (s.ibi c).pins = s.pins := rfl
@[simp] theorem State.ibi_fe (c : Nat) : (s.ibi c).fe = s.fe := rfl
@[simp] theorem State.ibi_conns (c : Nat) : (s.ibi c).conns = s.conns := rfl
@[simp] theorem State.ibi_ctrls (c : Nat) : (s.ibi c).ctrls = s.ctrls := rfl
@[simp] theorem State.ibi_cmds (c : Nat) : (s.ibi c).cmds = s.cmds := rfl
@[simp] theorem State.ibi_units (c : Nat) : (s.ibi c).units = s.units := rfl
@[simp] theorem State.ibi_seq (c : Nat) : (s.ibi c).seq = s.seq := rfl
@[simp] theorem State.ibi_ingress (c : Nat) : (s.ibi c).ingress = s.ingress := rfl
@[simp] theorem State.ibi_reserved (c : Nat) : (s.ibi c).reserved = s.reserved := rfl
@[simp] theorem State.ibi_anaChange (c : Nat) : (s.ibi c).anaChange = s.anaChange := rfl
@[simp] theorem State.ibi_rdUnits (c : Nat) : (s.ibi c).rdUnits = s.rdUnits := rfl
@[simp] theorem State.ibi_wrUnits (c : Nat) : (s.ibi c).wrUnits = s.wrUnits := rfl
@[simp] theorem State.ibi_rdBytes (c : Nat) : (s.ibi c).rdBytes = s.rdBytes := rfl
@[simp] theorem State.ibi_wrBytes (c : Nat) : (s.ibi c).wrBytes = s.wrBytes := rfl
@[simp] theorem State.ibi_mediaErrs (c : Nat) : (s.ibi c).mediaErrs = s.mediaErrs := rfl
@[simp] theorem State.ibi_zn (c : Nat) : (s.ibi c).zn = s.zn := rfl
@[simp] theorem State.ibi_cs (c : Nat) : (s.ibi c).cs = s.cs := rfl
@[simp] theorem State.ibi_upds (c : Nat) : (s.ibi c).upds = s.upds := rfl
@[simp] theorem State.ibi_sigs (c : Nat) : (s.ibi c).sigs = s.sigs := rfl
@[simp] theorem State.ibi_lost (c : Nat) : (s.ibi c).lost = s.lost := rfl
@[simp] theorem State.ibi_repairs (c : Nat) : (s.ibi c).repairs = s.repairs := rfl
@[simp] theorem State.ibi_walks (c : Nat) : (s.ibi c).walks = s.walks := rfl
@[simp] theorem State.ibi_drvs (c : Nat) : (s.ibi c).drvs = s.drvs := rfl
@[simp] theorem State.ibi_tagNo (c : Nat) : (s.ibi c).tagNo = s.tagNo := rfl
@[simp] theorem State.ibi_cast (c : Nat) : (s.ibi c).cast = s.cast := rfl
@[simp] theorem State.ibi_st0 (c : Nat) : (s.ibi c).st0 = s.st0 := rfl
@[simp] theorem State.ibi_st1 (c : Nat) : (s.ibi c).st1 = s.st1 := rfl
@[simp] theorem State.ibi_stage (c : Nat) : (s.ibi c).stage = s.stage := rfl
@[simp] theorem State.ibi_hostBuf (c : Nat) : (s.ibi c).hostBuf = s.hostBuf := rfl
@[simp] theorem State.ibi_corrHour (c : Nat) : (s.ibi c).corrHour = s.corrHour := rfl
@[simp] theorem State.ibi_out (c : Nat) : (s.ibi c).out = s.out := rfl
@[simp] theorem State.ibi_withheld (c : Nat) : (s.ibi c).withheld = s.withheld := rfl

/-! ### log -/

@[simp] theorem State.log_pending (c r : Nat) (l : List Nat) : (s.log c r l).pending = s.pending := rfl
@[simp] theorem State.log_rf (c r : Nat) (l : List Nat) : (s.log c r l).rf = s.rf := rfl
@[simp] theorem State.log_core (c r : Nat) (l : List Nat) : (s.log c r l).core = s.core := rfl
@[simp] theorem State.log_prs (c r : Nat) (l : List Nat) : (s.log c r l).prs = s.prs := rfl
@[simp] theorem State.log_fnt (c r : Nat) (l : List Nat) : (s.log c r l).fnt = s.fnt := rfl
@[simp] theorem State.log_sch (c r : Nat) (l : List Nat) : (s.log c r l).sch = s.sch := rfl
@[simp] theorem State.log_dma (c r : Nat) (l : List Nat) : (s.log c r l).dma = s.dma := rfl
@[simp] theorem State.log_img (c r : Nat) (l : List Nat) : (s.log c r l).img = s.img := rfl
@[simp] theorem State.log_hif (c r : Nat) (l : List Nat) : (s.log c r l).hif = s.hif := rfl
@[simp] theorem State.log_sec (c r : Nat) (l : List Nat) : (s.log c r l).sec = s.sec := rfl
@[simp] theorem State.log_pins (c r : Nat) (l : List Nat) : (s.log c r l).pins = s.pins := rfl
@[simp] theorem State.log_fe (c r : Nat) (l : List Nat) : (s.log c r l).fe = s.fe := rfl
@[simp] theorem State.log_conns (c r : Nat) (l : List Nat) : (s.log c r l).conns = s.conns := rfl
@[simp] theorem State.log_ctrls (c r : Nat) (l : List Nat) : (s.log c r l).ctrls = s.ctrls := rfl
@[simp] theorem State.log_cmds (c r : Nat) (l : List Nat) : (s.log c r l).cmds = s.cmds := rfl
@[simp] theorem State.log_units (c r : Nat) (l : List Nat) : (s.log c r l).units = s.units := rfl
@[simp] theorem State.log_seq (c r : Nat) (l : List Nat) : (s.log c r l).seq = s.seq := rfl
@[simp] theorem State.log_ingress (c r : Nat) (l : List Nat) : (s.log c r l).ingress = s.ingress := rfl
@[simp] theorem State.log_reserved (c r : Nat) (l : List Nat) : (s.log c r l).reserved = s.reserved := rfl
@[simp] theorem State.log_anaChange (c r : Nat) (l : List Nat) : (s.log c r l).anaChange = s.anaChange := rfl
@[simp] theorem State.log_rdUnits (c r : Nat) (l : List Nat) : (s.log c r l).rdUnits = s.rdUnits := rfl
@[simp] theorem State.log_wrUnits (c r : Nat) (l : List Nat) : (s.log c r l).wrUnits = s.wrUnits := rfl
@[simp] theorem State.log_rdBytes (c r : Nat) (l : List Nat) : (s.log c r l).rdBytes = s.rdBytes := rfl
@[simp] theorem State.log_wrBytes (c r : Nat) (l : List Nat) : (s.log c r l).wrBytes = s.wrBytes := rfl
@[simp] theorem State.log_mediaErrs (c r : Nat) (l : List Nat) : (s.log c r l).mediaErrs = s.mediaErrs := rfl
@[simp] theorem State.log_zn (c r : Nat) (l : List Nat) : (s.log c r l).zn = s.zn := rfl
@[simp] theorem State.log_cs (c r : Nat) (l : List Nat) : (s.log c r l).cs = s.cs := rfl
@[simp] theorem State.log_upds (c r : Nat) (l : List Nat) : (s.log c r l).upds = s.upds := rfl
@[simp] theorem State.log_sigs (c r : Nat) (l : List Nat) : (s.log c r l).sigs = s.sigs := rfl
@[simp] theorem State.log_lost (c r : Nat) (l : List Nat) : (s.log c r l).lost = s.lost := rfl
@[simp] theorem State.log_repairs (c r : Nat) (l : List Nat) : (s.log c r l).repairs = s.repairs := rfl
@[simp] theorem State.log_walks (c r : Nat) (l : List Nat) : (s.log c r l).walks = s.walks := rfl
@[simp] theorem State.log_drvs (c r : Nat) (l : List Nat) : (s.log c r l).drvs = s.drvs := rfl
@[simp] theorem State.log_tagNo (c r : Nat) (l : List Nat) : (s.log c r l).tagNo = s.tagNo := rfl
@[simp] theorem State.log_cast (c r : Nat) (l : List Nat) : (s.log c r l).cast = s.cast := rfl
@[simp] theorem State.log_st0 (c r : Nat) (l : List Nat) : (s.log c r l).st0 = s.st0 := rfl
@[simp] theorem State.log_st1 (c r : Nat) (l : List Nat) : (s.log c r l).st1 = s.st1 := rfl
@[simp] theorem State.log_stage (c r : Nat) (l : List Nat) : (s.log c r l).stage = s.stage := rfl
@[simp] theorem State.log_hostBuf (c r : Nat) (l : List Nat) : (s.log c r l).hostBuf = s.hostBuf := rfl
@[simp] theorem State.log_corrHour (c r : Nat) (l : List Nat) : (s.log c r l).corrHour = s.corrHour := rfl
@[simp] theorem State.log_out (c r : Nat) (l : List Nat) : (s.log c r l).out = s.out := rfl
@[simp] theorem State.log_withheld (c r : Nat) (l : List Nat) : (s.log c r l).withheld = s.withheld := rfl

/-! ### emit -/

@[simp] theorem State.emit_pending (o : Out) : (s.emit o).pending = s.pending := rfl
@[simp] theorem State.emit_rf (o : Out) : (s.emit o).rf = s.rf := rfl
@[simp] theorem State.emit_core (o : Out) : (s.emit o).core = s.core := rfl
@[simp] theorem State.emit_el (o : Out) : (s.emit o).el = s.el := rfl
@[simp] theorem State.emit_prs (o : Out) : (s.emit o).prs = s.prs := rfl
@[simp] theorem State.emit_fnt (o : Out) : (s.emit o).fnt = s.fnt := rfl
@[simp] theorem State.emit_sch (o : Out) : (s.emit o).sch = s.sch := rfl
@[simp] theorem State.emit_dma (o : Out) : (s.emit o).dma = s.dma := rfl
@[simp] theorem State.emit_img (o : Out) : (s.emit o).img = s.img := rfl
@[simp] theorem State.emit_hif (o : Out) : (s.emit o).hif = s.hif := rfl
@[simp] theorem State.emit_sec (o : Out) : (s.emit o).sec = s.sec := rfl
@[simp] theorem State.emit_pins (o : Out) : (s.emit o).pins = s.pins := rfl
@[simp] theorem State.emit_fe (o : Out) : (s.emit o).fe = s.fe := rfl
@[simp] theorem State.emit_conns (o : Out) : (s.emit o).conns = s.conns := rfl
@[simp] theorem State.emit_ctrls (o : Out) : (s.emit o).ctrls = s.ctrls := rfl
@[simp] theorem State.emit_cmds (o : Out) : (s.emit o).cmds = s.cmds := rfl
@[simp] theorem State.emit_units (o : Out) : (s.emit o).units = s.units := rfl
@[simp] theorem State.emit_seq (o : Out) : (s.emit o).seq = s.seq := rfl
@[simp] theorem State.emit_ingress (o : Out) : (s.emit o).ingress = s.ingress := rfl
@[simp] theorem State.emit_reserved (o : Out) : (s.emit o).reserved = s.reserved := rfl
@[simp] theorem State.emit_anaChange (o : Out) : (s.emit o).anaChange = s.anaChange := rfl
@[simp] theorem State.emit_rdUnits (o : Out) : (s.emit o).rdUnits = s.rdUnits := rfl
@[simp] theorem State.emit_wrUnits (o : Out) : (s.emit o).wrUnits = s.wrUnits := rfl
@[simp] theorem State.emit_rdBytes (o : Out) : (s.emit o).rdBytes = s.rdBytes := rfl
@[simp] theorem State.emit_wrBytes (o : Out) : (s.emit o).wrBytes = s.wrBytes := rfl
@[simp] theorem State.emit_mediaErrs (o : Out) : (s.emit o).mediaErrs = s.mediaErrs := rfl
@[simp] theorem State.emit_zn (o : Out) : (s.emit o).zn = s.zn := rfl
@[simp] theorem State.emit_cs (o : Out) : (s.emit o).cs = s.cs := rfl
@[simp] theorem State.emit_upds (o : Out) : (s.emit o).upds = s.upds := rfl
@[simp] theorem State.emit_sigs (o : Out) : (s.emit o).sigs = s.sigs := rfl
@[simp] theorem State.emit_lost (o : Out) : (s.emit o).lost = s.lost := rfl
@[simp] theorem State.emit_repairs (o : Out) : (s.emit o).repairs = s.repairs := rfl
@[simp] theorem State.emit_walks (o : Out) : (s.emit o).walks = s.walks := rfl
@[simp] theorem State.emit_drvs (o : Out) : (s.emit o).drvs = s.drvs := rfl
@[simp] theorem State.emit_tagNo (o : Out) : (s.emit o).tagNo = s.tagNo := rfl
@[simp] theorem State.emit_cast (o : Out) : (s.emit o).cast = s.cast := rfl
@[simp] theorem State.emit_st0 (o : Out) : (s.emit o).st0 = s.st0 := rfl
@[simp] theorem State.emit_st1 (o : Out) : (s.emit o).st1 = s.st1 := rfl
@[simp] theorem State.emit_stage (o : Out) : (s.emit o).stage = s.stage := rfl
@[simp] theorem State.emit_hostBuf (o : Out) : (s.emit o).hostBuf = s.hostBuf := rfl
@[simp] theorem State.emit_corrHour (o : Out) : (s.emit o).corrHour = s.corrHour := rfl
@[simp] theorem State.emit_withheld (o : Out) : (s.emit o).withheld = s.withheld := rfl

/-! ### setCmd -/

@[simp] theorem State.setCmd_pending (k : Nat) (c : Cmd) : (s.setCmd k c).pending = s.pending := rfl
@[simp] theorem State.setCmd_rf (k : Nat) (c : Cmd) : (s.setCmd k c).rf = s.rf := rfl
@[simp] theorem State.setCmd_core (k : Nat) (c : Cmd) : (s.setCmd k c).core = s.core := rfl
@[simp] theorem State.setCmd_el (k : Nat) (c : Cmd) : (s.setCmd k c).el = s.el := rfl
@[simp] theorem State.setCmd_prs (k : Nat) (c : Cmd) : (s.setCmd k c).prs = s.prs := rfl
@[simp] theorem State.setCmd_fnt (k : Nat) (c : Cmd) : (s.setCmd k c).fnt = s.fnt := rfl
@[simp] theorem State.setCmd_sch (k : Nat) (c : Cmd) : (s.setCmd k c).sch = s.sch := rfl
@[simp] theorem State.setCmd_dma (k : Nat) (c : Cmd) : (s.setCmd k c).dma = s.dma := rfl
@[simp] theorem State.setCmd_img (k : Nat) (c : Cmd) : (s.setCmd k c).img = s.img := rfl
@[simp] theorem State.setCmd_hif (k : Nat) (c : Cmd) : (s.setCmd k c).hif = s.hif := rfl
@[simp] theorem State.setCmd_sec (k : Nat) (c : Cmd) : (s.setCmd k c).sec = s.sec := rfl
@[simp] theorem State.setCmd_pins (k : Nat) (c : Cmd) : (s.setCmd k c).pins = s.pins := rfl
@[simp] theorem State.setCmd_fe (k : Nat) (c : Cmd) : (s.setCmd k c).fe = s.fe := rfl
@[simp] theorem State.setCmd_conns (k : Nat) (c : Cmd) : (s.setCmd k c).conns = s.conns := rfl
@[simp] theorem State.setCmd_ctrls (k : Nat) (c : Cmd) : (s.setCmd k c).ctrls = s.ctrls := rfl
@[simp] theorem State.setCmd_units (k : Nat) (c : Cmd) : (s.setCmd k c).units = s.units := rfl
@[simp] theorem State.setCmd_seq (k : Nat) (c : Cmd) : (s.setCmd k c).seq = s.seq := rfl
@[simp] theorem State.setCmd_ingress (k : Nat) (c : Cmd) : (s.setCmd k c).ingress = s.ingress := rfl
@[simp] theorem State.setCmd_reserved (k : Nat) (c : Cmd) : (s.setCmd k c).reserved = s.reserved := rfl
@[simp] theorem State.setCmd_anaChange (k : Nat) (c : Cmd) : (s.setCmd k c).anaChange = s.anaChange := rfl
@[simp] theorem State.setCmd_rdUnits (k : Nat) (c : Cmd) : (s.setCmd k c).rdUnits = s.rdUnits := rfl
@[simp] theorem State.setCmd_wrUnits (k : Nat) (c : Cmd) : (s.setCmd k c).wrUnits = s.wrUnits := rfl
@[simp] theorem State.setCmd_rdBytes (k : Nat) (c : Cmd) : (s.setCmd k c).rdBytes = s.rdBytes := rfl
@[simp] theorem State.setCmd_wrBytes (k : Nat) (c : Cmd) : (s.setCmd k c).wrBytes = s.wrBytes := rfl
@[simp] theorem State.setCmd_mediaErrs (k : Nat) (c : Cmd) : (s.setCmd k c).mediaErrs = s.mediaErrs := rfl
@[simp] theorem State.setCmd_zn (k : Nat) (c : Cmd) : (s.setCmd k c).zn = s.zn := rfl
@[simp] theorem State.setCmd_cs (k : Nat) (c : Cmd) : (s.setCmd k c).cs = s.cs := rfl
@[simp] theorem State.setCmd_upds (k : Nat) (c : Cmd) : (s.setCmd k c).upds = s.upds := rfl
@[simp] theorem State.setCmd_sigs (k : Nat) (c : Cmd) : (s.setCmd k c).sigs = s.sigs := rfl
@[simp] theorem State.setCmd_lost (k : Nat) (c : Cmd) : (s.setCmd k c).lost = s.lost := rfl
@[simp] theorem State.setCmd_repairs (k : Nat) (c : Cmd) : (s.setCmd k c).repairs = s.repairs := rfl
@[simp] theorem State.setCmd_walks (k : Nat) (c : Cmd) : (s.setCmd k c).walks = s.walks := rfl
@[simp] theorem State.setCmd_drvs (k : Nat) (c : Cmd) : (s.setCmd k c).drvs = s.drvs := rfl
@[simp] theorem State.setCmd_tagNo (k : Nat) (c : Cmd) : (s.setCmd k c).tagNo = s.tagNo := rfl
@[simp] theorem State.setCmd_cast (k : Nat) (c : Cmd) : (s.setCmd k c).cast = s.cast := rfl
@[simp] theorem State.setCmd_st0 (k : Nat) (c : Cmd) : (s.setCmd k c).st0 = s.st0 := rfl
@[simp] theorem State.setCmd_st1 (k : Nat) (c : Cmd) : (s.setCmd k c).st1 = s.st1 := rfl
@[simp] theorem State.setCmd_stage (k : Nat) (c : Cmd) : (s.setCmd k c).stage = s.stage := rfl
@[simp] theorem State.setCmd_hostBuf (k : Nat) (c : Cmd) : (s.setCmd k c).hostBuf = s.hostBuf := rfl
@[simp] theorem State.setCmd_corrHour (k : Nat) (c : Cmd) : (s.setCmd k c).corrHour = s.corrHour := rfl
@[simp] theorem State.setCmd_out (k : Nat) (c : Cmd) : (s.setCmd k c).out = s.out := rfl
@[simp] theorem State.setCmd_withheld (k : Nat) (c : Cmd) : (s.setCmd k c).withheld = s.withheld := rfl

/-! ### updFe -/

@[simp] theorem State.updFe_pending (p : Nat) (f : FePort → FePort) : (s.updFe p f).pending = s.pending := rfl
@[simp] theorem State.updFe_rf (p : Nat) (f : FePort → FePort) : (s.updFe p f).rf = s.rf := rfl
@[simp] theorem State.updFe_core (p : Nat) (f : FePort → FePort) : (s.updFe p f).core = s.core := rfl
@[simp] theorem State.updFe_el (p : Nat) (f : FePort → FePort) : (s.updFe p f).el = s.el := rfl
@[simp] theorem State.updFe_prs (p : Nat) (f : FePort → FePort) : (s.updFe p f).prs = s.prs := rfl
@[simp] theorem State.updFe_fnt (p : Nat) (f : FePort → FePort) : (s.updFe p f).fnt = s.fnt := rfl
@[simp] theorem State.updFe_sch (p : Nat) (f : FePort → FePort) : (s.updFe p f).sch = s.sch := rfl
@[simp] theorem State.updFe_dma (p : Nat) (f : FePort → FePort) : (s.updFe p f).dma = s.dma := rfl
@[simp] theorem State.updFe_img (p : Nat) (f : FePort → FePort) : (s.updFe p f).img = s.img := rfl
@[simp] theorem State.updFe_hif (p : Nat) (f : FePort → FePort) : (s.updFe p f).hif = s.hif := rfl
@[simp] theorem State.updFe_sec (p : Nat) (f : FePort → FePort) : (s.updFe p f).sec = s.sec := rfl
@[simp] theorem State.updFe_pins (p : Nat) (f : FePort → FePort) : (s.updFe p f).pins = s.pins := rfl
@[simp] theorem State.updFe_conns (p : Nat) (f : FePort → FePort) : (s.updFe p f).conns = s.conns := rfl
@[simp] theorem State.updFe_ctrls (p : Nat) (f : FePort → FePort) : (s.updFe p f).ctrls = s.ctrls := rfl
@[simp] theorem State.updFe_cmds (p : Nat) (f : FePort → FePort) : (s.updFe p f).cmds = s.cmds := rfl
@[simp] theorem State.updFe_units (p : Nat) (f : FePort → FePort) : (s.updFe p f).units = s.units := rfl
@[simp] theorem State.updFe_seq (p : Nat) (f : FePort → FePort) : (s.updFe p f).seq = s.seq := rfl
@[simp] theorem State.updFe_ingress (p : Nat) (f : FePort → FePort) : (s.updFe p f).ingress = s.ingress := rfl
@[simp] theorem State.updFe_reserved (p : Nat) (f : FePort → FePort) : (s.updFe p f).reserved = s.reserved := rfl
@[simp] theorem State.updFe_anaChange (p : Nat) (f : FePort → FePort) : (s.updFe p f).anaChange = s.anaChange := rfl
@[simp] theorem State.updFe_rdUnits (p : Nat) (f : FePort → FePort) : (s.updFe p f).rdUnits = s.rdUnits := rfl
@[simp] theorem State.updFe_wrUnits (p : Nat) (f : FePort → FePort) : (s.updFe p f).wrUnits = s.wrUnits := rfl
@[simp] theorem State.updFe_rdBytes (p : Nat) (f : FePort → FePort) : (s.updFe p f).rdBytes = s.rdBytes := rfl
@[simp] theorem State.updFe_wrBytes (p : Nat) (f : FePort → FePort) : (s.updFe p f).wrBytes = s.wrBytes := rfl
@[simp] theorem State.updFe_mediaErrs (p : Nat) (f : FePort → FePort) : (s.updFe p f).mediaErrs = s.mediaErrs := rfl
@[simp] theorem State.updFe_zn (p : Nat) (f : FePort → FePort) : (s.updFe p f).zn = s.zn := rfl
@[simp] theorem State.updFe_cs (p : Nat) (f : FePort → FePort) : (s.updFe p f).cs = s.cs := rfl
@[simp] theorem State.updFe_upds (p : Nat) (f : FePort → FePort) : (s.updFe p f).upds = s.upds := rfl
@[simp] theorem State.updFe_sigs (p : Nat) (f : FePort → FePort) : (s.updFe p f).sigs = s.sigs := rfl
@[simp] theorem State.updFe_lost (p : Nat) (f : FePort → FePort) : (s.updFe p f).lost = s.lost := rfl
@[simp] theorem State.updFe_repairs (p : Nat) (f : FePort → FePort) : (s.updFe p f).repairs = s.repairs := rfl
@[simp] theorem State.updFe_walks (p : Nat) (f : FePort → FePort) : (s.updFe p f).walks = s.walks := rfl
@[simp] theorem State.updFe_drvs (p : Nat) (f : FePort → FePort) : (s.updFe p f).drvs = s.drvs := rfl
@[simp] theorem State.updFe_tagNo (p : Nat) (f : FePort → FePort) : (s.updFe p f).tagNo = s.tagNo := rfl
@[simp] theorem State.updFe_cast (p : Nat) (f : FePort → FePort) : (s.updFe p f).cast = s.cast := rfl
@[simp] theorem State.updFe_st0 (p : Nat) (f : FePort → FePort) : (s.updFe p f).st0 = s.st0 := rfl
@[simp] theorem State.updFe_st1 (p : Nat) (f : FePort → FePort) : (s.updFe p f).st1 = s.st1 := rfl
@[simp] theorem State.updFe_stage (p : Nat) (f : FePort → FePort) : (s.updFe p f).stage = s.stage := rfl
@[simp] theorem State.updFe_hostBuf (p : Nat) (f : FePort → FePort) : (s.updFe p f).hostBuf = s.hostBuf := rfl
@[simp] theorem State.updFe_corrHour (p : Nat) (f : FePort → FePort) : (s.updFe p f).corrHour = s.corrHour := rfl
@[simp] theorem State.updFe_out (p : Nat) (f : FePort → FePort) : (s.updFe p f).out = s.out := rfl
@[simp] theorem State.updFe_withheld (p : Nat) (f : FePort → FePort) : (s.updFe p f).withheld = s.withheld := rfl

/-! ### updSig -/

@[simp] theorem State.updSig_pending (g : Nat) (f : Sig → Sig) : (s.updSig g f).pending = s.pending := rfl
@[simp] theorem State.updSig_rf (g : Nat) (f : Sig → Sig) : (s.updSig g f).rf = s.rf := rfl
@[simp] theorem State.updSig_core (g : Nat) (f : Sig → Sig) : (s.updSig g f).core = s.core := rfl
@[simp] theorem State.updSig_el (g : Nat) (f : Sig → Sig) : (s.updSig g f).el = s.el := rfl
@[simp] theorem State.updSig_prs (g : Nat) (f : Sig → Sig) : (s.updSig g f).prs = s.prs := rfl
@[simp] theorem State.updSig_fnt (g : Nat) (f : Sig → Sig) : (s.updSig g f).fnt = s.fnt := rfl
@[simp] theorem State.updSig_sch (g : Nat) (f : Sig → Sig) : (s.updSig g f).sch = s.sch := rfl
@[simp] theorem State.updSig_dma (g : Nat) (f : Sig → Sig) : (s.updSig g f).dma = s.dma := rfl
@[simp] theorem State.updSig_img (g : Nat) (f : Sig → Sig) : (s.updSig g f).img = s.img := rfl
@[simp] theorem State.updSig_hif (g : Nat) (f : Sig → Sig) : (s.updSig g f).hif = s.hif := rfl
@[simp] theorem State.updSig_sec (g : Nat) (f : Sig → Sig) : (s.updSig g f).sec = s.sec := rfl
@[simp] theorem State.updSig_pins (g : Nat) (f : Sig → Sig) : (s.updSig g f).pins = s.pins := rfl
@[simp] theorem State.updSig_fe (g : Nat) (f : Sig → Sig) : (s.updSig g f).fe = s.fe := rfl
@[simp] theorem State.updSig_conns (g : Nat) (f : Sig → Sig) : (s.updSig g f).conns = s.conns := rfl
@[simp] theorem State.updSig_ctrls (g : Nat) (f : Sig → Sig) : (s.updSig g f).ctrls = s.ctrls := rfl
@[simp] theorem State.updSig_cmds (g : Nat) (f : Sig → Sig) : (s.updSig g f).cmds = s.cmds := rfl
@[simp] theorem State.updSig_units (g : Nat) (f : Sig → Sig) : (s.updSig g f).units = s.units := rfl
@[simp] theorem State.updSig_seq (g : Nat) (f : Sig → Sig) : (s.updSig g f).seq = s.seq := rfl
@[simp] theorem State.updSig_ingress (g : Nat) (f : Sig → Sig) : (s.updSig g f).ingress = s.ingress := rfl
@[simp] theorem State.updSig_reserved (g : Nat) (f : Sig → Sig) : (s.updSig g f).reserved = s.reserved := rfl
@[simp] theorem State.updSig_anaChange (g : Nat) (f : Sig → Sig) : (s.updSig g f).anaChange = s.anaChange := rfl
@[simp] theorem State.updSig_rdUnits (g : Nat) (f : Sig → Sig) : (s.updSig g f).rdUnits = s.rdUnits := rfl
@[simp] theorem State.updSig_wrUnits (g : Nat) (f : Sig → Sig) : (s.updSig g f).wrUnits = s.wrUnits := rfl
@[simp] theorem State.updSig_rdBytes (g : Nat) (f : Sig → Sig) : (s.updSig g f).rdBytes = s.rdBytes := rfl
@[simp] theorem State.updSig_wrBytes (g : Nat) (f : Sig → Sig) : (s.updSig g f).wrBytes = s.wrBytes := rfl
@[simp] theorem State.updSig_mediaErrs (g : Nat) (f : Sig → Sig) : (s.updSig g f).mediaErrs = s.mediaErrs := rfl
@[simp] theorem State.updSig_zn (g : Nat) (f : Sig → Sig) : (s.updSig g f).zn = s.zn := rfl
@[simp] theorem State.updSig_cs (g : Nat) (f : Sig → Sig) : (s.updSig g f).cs = s.cs := rfl
@[simp] theorem State.updSig_upds (g : Nat) (f : Sig → Sig) : (s.updSig g f).upds = s.upds := rfl
@[simp] theorem State.updSig_lost (g : Nat) (f : Sig → Sig) : (s.updSig g f).lost = s.lost := rfl
@[simp] theorem State.updSig_repairs (g : Nat) (f : Sig → Sig) : (s.updSig g f).repairs = s.repairs := rfl
@[simp] theorem State.updSig_walks (g : Nat) (f : Sig → Sig) : (s.updSig g f).walks = s.walks := rfl
@[simp] theorem State.updSig_drvs (g : Nat) (f : Sig → Sig) : (s.updSig g f).drvs = s.drvs := rfl
@[simp] theorem State.updSig_tagNo (g : Nat) (f : Sig → Sig) : (s.updSig g f).tagNo = s.tagNo := rfl
@[simp] theorem State.updSig_cast (g : Nat) (f : Sig → Sig) : (s.updSig g f).cast = s.cast := rfl
@[simp] theorem State.updSig_st0 (g : Nat) (f : Sig → Sig) : (s.updSig g f).st0 = s.st0 := rfl
@[simp] theorem State.updSig_st1 (g : Nat) (f : Sig → Sig) : (s.updSig g f).st1 = s.st1 := rfl
@[simp] theorem State.updSig_stage (g : Nat) (f : Sig → Sig) : (s.updSig g f).stage = s.stage := rfl
@[simp] theorem State.updSig_hostBuf (g : Nat) (f : Sig → Sig) : (s.updSig g f).hostBuf = s.hostBuf := rfl
@[simp] theorem State.updSig_corrHour (g : Nat) (f : Sig → Sig) : (s.updSig g f).corrHour = s.corrHour := rfl
@[simp] theorem State.updSig_out (g : Nat) (f : Sig → Sig) : (s.updSig g f).out = s.out := rfl
@[simp] theorem State.updSig_withheld (g : Nat) (f : Sig → Sig) : (s.updSig g f).withheld = s.withheld := rfl

/-! ### updDrv -/

@[simp] theorem State.updDrv_pending (p : Nat) (f : Drv → Drv) : (s.updDrv p f).pending = s.pending := rfl
@[simp] theorem State.updDrv_rf (p : Nat) (f : Drv → Drv) : (s.updDrv p f).rf = s.rf := rfl
@[simp] theorem State.updDrv_core (p : Nat) (f : Drv → Drv) : (s.updDrv p f).core = s.core := rfl
@[simp] theorem State.updDrv_el (p : Nat) (f : Drv → Drv) : (s.updDrv p f).el = s.el := rfl
@[simp] theorem State.updDrv_prs (p : Nat) (f : Drv → Drv) : (s.updDrv p f).prs = s.prs := rfl
@[simp] theorem State.updDrv_fnt (p : Nat) (f : Drv → Drv) : (s.updDrv p f).fnt = s.fnt := rfl
@[simp] theorem State.updDrv_sch (p : Nat) (f : Drv → Drv) : (s.updDrv p f).sch = s.sch := rfl
@[simp] theorem State.updDrv_dma (p : Nat) (f : Drv → Drv) : (s.updDrv p f).dma = s.dma := rfl
@[simp] theorem State.updDrv_img (p : Nat) (f : Drv → Drv) : (s.updDrv p f).img = s.img := rfl
@[simp] theorem State.updDrv_hif (p : Nat) (f : Drv → Drv) : (s.updDrv p f).hif = s.hif := rfl
@[simp] theorem State.updDrv_sec (p : Nat) (f : Drv → Drv) : (s.updDrv p f).sec = s.sec := rfl
@[simp] theorem State.updDrv_pins (p : Nat) (f : Drv → Drv) : (s.updDrv p f).pins = s.pins := rfl
@[simp] theorem State.updDrv_fe (p : Nat) (f : Drv → Drv) : (s.updDrv p f).fe = s.fe := rfl
@[simp] theorem State.updDrv_conns (p : Nat) (f : Drv → Drv) : (s.updDrv p f).conns = s.conns := rfl
@[simp] theorem State.updDrv_ctrls (p : Nat) (f : Drv → Drv) : (s.updDrv p f).ctrls = s.ctrls := rfl
@[simp] theorem State.updDrv_cmds (p : Nat) (f : Drv → Drv) : (s.updDrv p f).cmds = s.cmds := rfl
@[simp] theorem State.updDrv_units (p : Nat) (f : Drv → Drv) : (s.updDrv p f).units = s.units := rfl
@[simp] theorem State.updDrv_seq (p : Nat) (f : Drv → Drv) : (s.updDrv p f).seq = s.seq := rfl
@[simp] theorem State.updDrv_ingress (p : Nat) (f : Drv → Drv) : (s.updDrv p f).ingress = s.ingress := rfl
@[simp] theorem State.updDrv_reserved (p : Nat) (f : Drv → Drv) : (s.updDrv p f).reserved = s.reserved := rfl
@[simp] theorem State.updDrv_anaChange (p : Nat) (f : Drv → Drv) : (s.updDrv p f).anaChange = s.anaChange := rfl
@[simp] theorem State.updDrv_rdUnits (p : Nat) (f : Drv → Drv) : (s.updDrv p f).rdUnits = s.rdUnits := rfl
@[simp] theorem State.updDrv_wrUnits (p : Nat) (f : Drv → Drv) : (s.updDrv p f).wrUnits = s.wrUnits := rfl
@[simp] theorem State.updDrv_rdBytes (p : Nat) (f : Drv → Drv) : (s.updDrv p f).rdBytes = s.rdBytes := rfl
@[simp] theorem State.updDrv_wrBytes (p : Nat) (f : Drv → Drv) : (s.updDrv p f).wrBytes = s.wrBytes := rfl
@[simp] theorem State.updDrv_mediaErrs (p : Nat) (f : Drv → Drv) : (s.updDrv p f).mediaErrs = s.mediaErrs := rfl
@[simp] theorem State.updDrv_zn (p : Nat) (f : Drv → Drv) : (s.updDrv p f).zn = s.zn := rfl
@[simp] theorem State.updDrv_cs (p : Nat) (f : Drv → Drv) : (s.updDrv p f).cs = s.cs := rfl
@[simp] theorem State.updDrv_upds (p : Nat) (f : Drv → Drv) : (s.updDrv p f).upds = s.upds := rfl
@[simp] theorem State.updDrv_sigs (p : Nat) (f : Drv → Drv) : (s.updDrv p f).sigs = s.sigs := rfl
@[simp] theorem State.updDrv_lost (p : Nat) (f : Drv → Drv) : (s.updDrv p f).lost = s.lost := rfl
@[simp] theorem State.updDrv_repairs (p : Nat) (f : Drv → Drv) : (s.updDrv p f).repairs = s.repairs := rfl
@[simp] theorem State.updDrv_walks (p : Nat) (f : Drv → Drv) : (s.updDrv p f).walks = s.walks := rfl
@[simp] theorem State.updDrv_tagNo (p : Nat) (f : Drv → Drv) : (s.updDrv p f).tagNo = s.tagNo := rfl
@[simp] theorem State.updDrv_cast (p : Nat) (f : Drv → Drv) : (s.updDrv p f).cast = s.cast := rfl
@[simp] theorem State.updDrv_st0 (p : Nat) (f : Drv → Drv) : (s.updDrv p f).st0 = s.st0 := rfl
@[simp] theorem State.updDrv_st1 (p : Nat) (f : Drv → Drv) : (s.updDrv p f).st1 = s.st1 := rfl
@[simp] theorem State.updDrv_stage (p : Nat) (f : Drv → Drv) : (s.updDrv p f).stage = s.stage := rfl
@[simp] theorem State.updDrv_hostBuf (p : Nat) (f : Drv → Drv) : (s.updDrv p f).hostBuf = s.hostBuf := rfl
@[simp] theorem State.updDrv_corrHour (p : Nat) (f : Drv → Drv) : (s.updDrv p f).corrHour = s.corrHour := rfl
@[simp] theorem State.updDrv_out (p : Nat) (f : Drv → Drv) : (s.updDrv p f).out = s.out := rfl
@[simp] theorem State.updDrv_withheld (p : Nat) (f : Drv → Drv) : (s.updDrv p f).withheld = s.withheld := rfl

/-! ### updZone -/

@[simp] theorem State.updZone_pending (k : Nat) (f : Zone → Zone) : (s.updZone k f).pending = s.pending := rfl
@[simp] theorem State.updZone_rf (k : Nat) (f : Zone → Zone) : (s.updZone k f).rf = s.rf := rfl
@[simp] theorem State.updZone_core (k : Nat) (f : Zone → Zone) : (s.updZone k f).core = s.core := rfl
@[simp] theorem State.updZone_el (k : Nat) (f : Zone → Zone) : (s.updZone k f).el = s.el := rfl
@[simp] theorem State.updZone_prs (k : Nat) (f : Zone → Zone) : (s.updZone k f).prs = s.prs := rfl
@[simp] theorem State.updZone_fnt (k : Nat) (f : Zone → Zone) : (s.updZone k f).fnt = s.fnt := rfl
@[simp] theorem State.updZone_sch (k : Nat) (f : Zone → Zone) : (s.updZone k f).sch = s.sch := rfl
@[simp] theorem State.updZone_dma (k : Nat) (f : Zone → Zone) : (s.updZone k f).dma = s.dma := rfl
@[simp] theorem State.updZone_img (k : Nat) (f : Zone → Zone) : (s.updZone k f).img = s.img := rfl
@[simp] theorem State.updZone_hif (k : Nat) (f : Zone → Zone) : (s.updZone k f).hif = s.hif := rfl
@[simp] theorem State.updZone_sec (k : Nat) (f : Zone → Zone) : (s.updZone k f).sec = s.sec := rfl
@[simp] theorem State.updZone_pins (k : Nat) (f : Zone → Zone) : (s.updZone k f).pins = s.pins := rfl
@[simp] theorem State.updZone_fe (k : Nat) (f : Zone → Zone) : (s.updZone k f).fe = s.fe := rfl
@[simp] theorem State.updZone_conns (k : Nat) (f : Zone → Zone) : (s.updZone k f).conns = s.conns := rfl
@[simp] theorem State.updZone_ctrls (k : Nat) (f : Zone → Zone) : (s.updZone k f).ctrls = s.ctrls := rfl
@[simp] theorem State.updZone_cmds (k : Nat) (f : Zone → Zone) : (s.updZone k f).cmds = s.cmds := rfl
@[simp] theorem State.updZone_units (k : Nat) (f : Zone → Zone) : (s.updZone k f).units = s.units := rfl
@[simp] theorem State.updZone_seq (k : Nat) (f : Zone → Zone) : (s.updZone k f).seq = s.seq := rfl
@[simp] theorem State.updZone_ingress (k : Nat) (f : Zone → Zone) : (s.updZone k f).ingress = s.ingress := rfl
@[simp] theorem State.updZone_reserved (k : Nat) (f : Zone → Zone) : (s.updZone k f).reserved = s.reserved := rfl
@[simp] theorem State.updZone_anaChange (k : Nat) (f : Zone → Zone) : (s.updZone k f).anaChange = s.anaChange := rfl
@[simp] theorem State.updZone_rdUnits (k : Nat) (f : Zone → Zone) : (s.updZone k f).rdUnits = s.rdUnits := rfl
@[simp] theorem State.updZone_wrUnits (k : Nat) (f : Zone → Zone) : (s.updZone k f).wrUnits = s.wrUnits := rfl
@[simp] theorem State.updZone_rdBytes (k : Nat) (f : Zone → Zone) : (s.updZone k f).rdBytes = s.rdBytes := rfl
@[simp] theorem State.updZone_wrBytes (k : Nat) (f : Zone → Zone) : (s.updZone k f).wrBytes = s.wrBytes := rfl
@[simp] theorem State.updZone_mediaErrs (k : Nat) (f : Zone → Zone) : (s.updZone k f).mediaErrs = s.mediaErrs := rfl
@[simp] theorem State.updZone_cs (k : Nat) (f : Zone → Zone) : (s.updZone k f).cs = s.cs := rfl
@[simp] theorem State.updZone_upds (k : Nat) (f : Zone → Zone) : (s.updZone k f).upds = s.upds := rfl
@[simp] theorem State.updZone_sigs (k : Nat) (f : Zone → Zone) : (s.updZone k f).sigs = s.sigs := rfl
@[simp] theorem State.updZone_lost (k : Nat) (f : Zone → Zone) : (s.updZone k f).lost = s.lost := rfl
@[simp] theorem State.updZone_repairs (k : Nat) (f : Zone → Zone) : (s.updZone k f).repairs = s.repairs := rfl
@[simp] theorem State.updZone_walks (k : Nat) (f : Zone → Zone) : (s.updZone k f).walks = s.walks := rfl
@[simp] theorem State.updZone_drvs (k : Nat) (f : Zone → Zone) : (s.updZone k f).drvs = s.drvs := rfl
@[simp] theorem State.updZone_tagNo (k : Nat) (f : Zone → Zone) : (s.updZone k f).tagNo = s.tagNo := rfl
@[simp] theorem State.updZone_cast (k : Nat) (f : Zone → Zone) : (s.updZone k f).cast = s.cast := rfl
@[simp] theorem State.updZone_st0 (k : Nat) (f : Zone → Zone) : (s.updZone k f).st0 = s.st0 := rfl
@[simp] theorem State.updZone_st1 (k : Nat) (f : Zone → Zone) : (s.updZone k f).st1 = s.st1 := rfl
@[simp] theorem State.updZone_stage (k : Nat) (f : Zone → Zone) : (s.updZone k f).stage = s.stage := rfl
@[simp] theorem State.updZone_hostBuf (k : Nat) (f : Zone → Zone) : (s.updZone k f).hostBuf = s.hostBuf := rfl
@[simp] theorem State.updZone_corrHour (k : Nat) (f : Zone → Zone) : (s.updZone k f).corrHour = s.corrHour := rfl
@[simp] theorem State.updZone_out (k : Nat) (f : Zone → Zone) : (s.updZone k f).out = s.out := rfl
@[simp] theorem State.updZone_withheld (k : Nat) (f : Zone → Zone) : (s.updZone k f).withheld = s.withheld := rfl

/-! ### What the updates change -/

@[simp] theorem State.put_rf (F : FieldSpec) (v i : Nat) : (s.put F v i).rf = { s.rf with regs := rput F i v s.rf.regs } := rfl
@[simp] theorem State.raise_rf (F : FieldSpec) (i : Nat) :
    (s.raise F i).rf = { s.rf with regs := rput F i 1 s.rf.regs, fresh := F.key i :: s.rf.fresh } := rfl
@[simp] theorem State.settle_rf (F : FieldSpec) (i : Nat) : (s.settle F i).rf = { s.rf with clearNext := F.key i :: s.rf.clearNext } := rfl
@[simp] theorem State.emit_out (o : Out) : (s.emit o).out = o :: s.out := rfl
@[simp] theorem State.log_el (c r : Nat) (l : List Nat) :
    (s.log c r l).el = { s.el with due := ⟨c, 0, 0, opTimeOf s.core.opImp, s.core.cycles, r, l⟩ :: s.el.due } := rfl
@[simp] theorem State.setCmd_cmds (k : Nat) (c : Cmd) : (s.setCmd k c).cmds = nset k c s.cmds := rfl
@[simp] theorem State.updFe_fe (p : Nat) (f : FePort → FePort) : (s.updFe p f).fe = nset p (f (s.fePort p)) s.fe := rfl
@[simp] theorem State.updSig_sigs (g : Nat) (f : Sig → Sig) : (s.updSig g f).sigs = nset g (f (s.sigSt g)) s.sigs := rfl
@[simp] theorem State.updDrv_drvs (p : Nat) (f : Drv → Drv) : (s.updDrv p f).drvs = nset p (f (s.drivePort p)) s.drvs := rfl

/-! ### Reading a register field after an update -/

/-- A stored value reads back, cut to the width of its field. -/
theorem State.get_put_self {s : State} (h : Canonical s) (F : FieldSpec) (v i : Nat) : (s.put F v i).get F i = v % 2 ^ F.w :=
  rget_rput_self F i v h.regs.1

theorem State.get_put_ne {F G : FieldSpec} {i j : Nat} (h : G.key j ≠ F.key i) (s : State) (v : Nat) : (s.put F v i).get G j = s.get G j :=
  rget_rput_ne h v _

theorem State.get_raise_self {s : State} (h : Canonical s) (F : FieldSpec) (i : Nat) (hw : 0 < F.w) : (s.raise F i).get F i = 1 := by
  have h1 : (s.raise F i).get F i = 1 % 2 ^ F.w := rget_rput_self F i 1 h.regs.1
  rw [h1, Nat.mod_eq_of_lt (Nat.one_lt_two_pow (by omega))]

theorem State.get_raise_ne {F G : FieldSpec} {i j : Nat} (h : G.key j ≠ F.key i) (s : State) : (s.raise F i).get G j = s.get G j :=
  rget_rput_ne h 1 _

/-- A counter counts up to its largest value and stays there. -/
theorem State.get_bump_self {s : State} (h : Canonical s) (F : FieldSpec) (m i : Nat) :
    (s.bump F m i).get F i = min (s.get F i + m) (2 ^ F.w - 1) := by
  have h1 : (s.bump F m i).get F i = min (s.get F i + m) (2 ^ F.w - 1) % 2 ^ F.w := rget_rput_self F i _ h.regs.1
  have h2 : 0 < 2 ^ F.w := Nat.two_pow_pos F.w
  rw [h1, Nat.mod_eq_of_lt (by omega)]

/-- A command acts on a module that has power. -/
theorem whenOn_on {s : State} (f : State → State) (h : s.core.powered = true) : whenOn f s = f s := if_pos h

/-- Without power nothing happens. -/
theorem whenOn_off {s : State} (f : State → State) (h : s.core.powered = false) : whenOn f s = s := if_neg (by simp [h])

end Sys2Proof.Machine
end

