-- ==== Sys2Proof/Laws/Frames.lean ====
section
/-!
SUPPORT. What the shared register operations leave alone, in the terms of `RegsBut`; and how a command's effect is read off its meaning.
-/

namespace Sys2Proof.Machine

variable {ks : List Nat} {s t u : State}

theorem RegsBut.refl (ks : List Nat) (s : State) : RegsBut ks s s := ⟨fun _ _ => rfl, rfl, rfl⟩

theorem RegsBut.same (h : RegsBut ks s t) (e : u.rf = t.rf) : RegsBut ks s u := by
  obtain ⟨a, b, c⟩ := h
  exact ⟨by rwa [e], by rwa [e], by rwa [e]⟩

theorem RegsBut.emit (h : RegsBut ks s t) (o : Out) : RegsBut ks s (t.emit o) := ⟨h.regs, h.latches, h.words⟩
theorem RegsBut.log (h : RegsBut ks s t) (c r : Nat) (l : List Nat) : RegsBut ks s (t.log c r l) := ⟨h.regs, h.latches, h.words⟩
theorem RegsBut.updFe (h : RegsBut ks s t) (p : Nat) (f : FePort → FePort) : RegsBut ks s (t.updFe p f) := ⟨h.regs, h.latches, h.words⟩
theorem RegsBut.updSig (h : RegsBut ks s t) (g : Nat) (f : Sig → Sig) : RegsBut ks s (t.updSig g f) := ⟨h.regs, h.latches, h.words⟩
theorem RegsBut.updDrv (h : RegsBut ks s t) (p : Nat) (f : Drv → Drv) : RegsBut ks s (t.updDrv p f) := ⟨h.regs, h.latches, h.words⟩
theorem RegsBut.setCmd (h : RegsBut ks s t) (k : Nat) (c : Cmd) : RegsBut ks s (t.setCmd k c) := ⟨h.regs, h.latches, h.words⟩

theorem nfind_rput_ne {k i : Nat} {F : FieldSpec} (h : k ≠ F.key i) (v : Nat) (r : Regs) : nfind k (rput F i v r) = nfind k r := by
  unfold rput nput
  split
  · exact nfind_ndel_ne h _
  · exact nfind_nset_ne h _ _

theorem RegsBut.put (h : RegsBut ks s t) (F : FieldSpec) (v i : Nat) (m : F.key i ∈ ks) : RegsBut ks s (t.put F v i) :=
  ⟨fun k hk => (nfind_rput_ne (fun e => hk (by rw [e]; exact m)) v _).trans (h.regs k hk), h.latches, h.words⟩

theorem RegsBut.putB (h : RegsBut ks s t) (F : FieldSpec) (b : Bool) (i : Nat) (m : F.key i ∈ ks) : RegsBut ks s (t.putB F b i) := h.put F _ i m

theorem RegsBut.ask (h : RegsBut ks s t) (F : FieldSpec) (i : Nat) (m : F.key i ∈ ks) : RegsBut ks s (t.ask F i) := h.put F _ i m

theorem RegsBut.bump (h : RegsBut ks s t) (F : FieldSpec) (n i : Nat) (m : F.key i ∈ ks) : RegsBut ks s (t.bump F n i) := h.put F _ i m

theorem RegsBut.raise (h : RegsBut ks s t) (F : FieldSpec) (i : Nat) (m : F.key i ∈ ks) : RegsBut ks s (t.raise F i) :=
  ⟨fun k hk => (nfind_rput_ne (fun e => hk (by rw [e]; exact m)) 1 _).trans (h.regs k hk), h.latches, h.words⟩

theorem RegsBut.settle (h : RegsBut ks s t) (F : FieldSpec) (i : Nat) : RegsBut ks s (t.settle F i) := ⟨h.regs, h.latches, h.words⟩

theorem RegsBut.pulse (h : RegsBut ks s t) (F : FieldSpec) (i : Nat) (m : F.key i ∈ ks) : RegsBut ks s (t.pulse F i) := (h.put F 1 i m).settle F i

theorem RegsBut.ibi (h : RegsBut ks s t) (c : Nat) (m : Reg.Hif.IBI_PENDING.key 0 ∈ ks) : RegsBut ks s (t.ibi c) :=
  ⟨fun k hk => (nfind_rput_ne (fun e => hk (by rw [e]; exact m)) _ _).trans (h.regs k hk), h.latches, h.words⟩

/-! ### Reading register fields through updates -/

/-- The register file is a store in its one form: what reading back a stored field rests on. -/
def Rwf (s : State) : Prop := NMap.wf s.rf.regs

theorem Rwf.live (h : Live s) : Rwf s := h.canon.regs.1

theorem Rwf.same (h : Rwf s) (e : t.rf.regs = s.rf.regs) : Rwf t := by unfold Rwf; rwa [e]

theorem wf_rput (F : FieldSpec) (i v : Nat) {r : Regs} (h : NMap.wf r) : NMap.wf (rput F i v r) := by
  unfold rput nput
  split
  · exact NMap.wf_ndel _ h
  · exact NMap.wf_nset _ _ h

theorem Rwf.put (h : Rwf s) (F : FieldSpec) (v i : Nat) : Rwf (s.put F v i) := wf_rput F i _ h
theorem Rwf.putB (h : Rwf s) (F : FieldSpec) (b : Bool) (i : Nat) : Rwf (s.putB F b i) := wf_rput F i _ h
theorem Rwf.ask (h : Rwf s) (F : FieldSpec) (i : Nat) : Rwf (s.ask F i) := wf_rput F i _ h
theorem Rwf.pulse (h : Rwf s) (F : FieldSpec) (i : Nat) : Rwf (s.pulse F i) := wf_rput F i _ h
theorem Rwf.settle (h : Rwf s) (F : FieldSpec) (i : Nat) : Rwf (s.settle F i) := h
theorem Rwf.bump (h : Rwf s) (F : FieldSpec) (n i : Nat) : Rwf (s.bump F n i) := wf_rput F i _ h
theorem Rwf.raise (h : Rwf s) (F : FieldSpec) (i : Nat) : Rwf (s.raise F i) := wf_rput F i _ h
theorem Rwf.ibi (h : Rwf s) (c : Nat) : Rwf (s.ibi c) := wf_rput _ _ _ h
theorem Rwf.log (h : Rwf s) (c r : Nat) (l : List Nat) : Rwf (s.log c r l) := h
theorem Rwf.emit (h : Rwf s) (o : Out) : Rwf (s.emit o) := h
theorem Rwf.updFe (h : Rwf s) (p : Nat) (f : FePort → FePort) : Rwf (s.updFe p f) := h
theorem Rwf.updSig (h : Rwf s) (g : Nat) (f : Sig → Sig) : Rwf (s.updSig g f) := h
theorem Rwf.updDrv (h : Rwf s) (p : Nat) (f : Drv → Drv) : Rwf (s.updDrv p f) := h
theorem Rwf.setCmd (h : Rwf s) (k : Nat) (c : Cmd) : Rwf (s.setCmd k c) := h

theorem get_put (h : Rwf s) (F G : FieldSpec) (v i j : Nat) : (s.put F v i).get G j = if G.key j = F.key i then v % 2 ^ F.w else s.get G j := by
  split_ifs with e
  · show ngetD _ 0 (nput _ _ _) = _
    rw [e]
    exact ngetD_nput_self _ _ h
  · exact State.get_put_ne e s v

theorem get_put_eq (h : Rwf s) (F : FieldSpec) (v i : Nat) : (s.put F v i).get F i = v % 2 ^ F.w := (get_put h F F v i i).trans (if_pos rfl)
theorem get_put_ne {F G : FieldSpec} {i j : Nat} (h : G.key j ≠ F.key i) (s : State) (v : Nat) : (s.put F v i).get G j = s.get G j :=
  State.get_put_ne h s v

theorem get_putB_eq (h : Rwf s) (F : FieldSpec) (b : Bool) (i : Nat) : (s.putB F b i).get F i = (if b then 1 else 0) % 2 ^ F.w := get_put_eq h F _ i
theorem get_putB_ne {F G : FieldSpec} {i j : Nat} (h : G.key j ≠ F.key i) (s : State) (b : Bool) : (s.putB F b i).get G j = s.get G j :=
  get_put_ne h s _
theorem get_ask_eq (h : Rwf s) (F : FieldSpec) (i : Nat) : (s.ask F i).get F i = 1 % 2 ^ F.w := get_put_eq h F 1 i
theorem get_ask_ne {F G : FieldSpec} {i j : Nat} (h : G.key j ≠ F.key i) (s : State) : (s.ask F i).get G j = s.get G j := get_put_ne h s 1
theorem get_pulse_eq (h : Rwf s) (F : FieldSpec) (i : Nat) : (s.pulse F i).get F i = 1 % 2 ^ F.w := get_put_eq h F 1 i
theorem get_pulse_ne {F G : FieldSpec} {i j : Nat} (h : G.key j ≠ F.key i) (s : State) : (s.pulse F i).get G j = s.get G j := get_put_ne h s 1
theorem get_raise_eq (h : Rwf s) (F : FieldSpec) (i : Nat) : (s.raise F i).get F i = 1 % 2 ^ F.w := get_put_eq h F 1 i
theorem get_raise_ne {F G : FieldSpec} {i j : Nat} (h : G.key j ≠ F.key i) (s : State) : (s.raise F i).get G j = s.get G j := get_put_ne h s 1
theorem get_bump_eq (h : Rwf s) (F : FieldSpec) (n i : Nat) : (s.bump F n i).get F i = min (s.get F i + n) (2 ^ F.w - 1) := by
  have h2 : 0 < 2 ^ F.w := Nat.two_pow_pos F.w
  exact (get_put_eq h F _ i).trans (Nat.mod_eq_of_lt (by omega))
theorem get_bump_ne {F G : FieldSpec} {i j : Nat} (h : G.key j ≠ F.key i) (s : State) (n : Nat) : (s.bump F n i).get G j = s.get G j :=
  get_put_ne h s _
theorem get_ibi_eq (h : Rwf s) (c : Nat) : (s.ibi c).get Reg.Hif.IBI_PENDING =
    (s.get Reg.Hif.IBI_PENDING ||| 2 ^ (c - 1)) % 2 ^ Reg.Hif.IBI_PENDING.w := get_put_eq h Reg.Hif.IBI_PENDING _ 0
theorem get_ibi_ne {G : FieldSpec} {j : Nat} (h : G.key j ≠ Reg.Hif.IBI_PENDING.key 0) (s : State) (c : Nat) : (s.ibi c).get G j = s.get G j :=
  get_put_ne h s _

@[simp] theorem get_settle (s : State) (F G : FieldSpec) (i j : Nat) : (s.settle F i).get G j = s.get G j := rfl
@[simp] theorem get_log (s : State) (c r : Nat) (l : List Nat) (G : FieldSpec) (j : Nat) : (s.log c r l).get G j = s.get G j := rfl
@[simp] theorem get_emit (s : State) (o : Out) (G : FieldSpec) (j : Nat) : (s.emit o).get G j = s.get G j := rfl
@[simp] theorem get_updFe (s : State) (p : Nat) (f : FePort → FePort) (G : FieldSpec) (j : Nat) : (s.updFe p f).get G j = s.get G j := rfl
@[simp] theorem get_updSig (s : State) (g : Nat) (f : Sig → Sig) (G : FieldSpec) (j : Nat) : (s.updSig g f).get G j = s.get G j := rfl
@[simp] theorem get_updDrv (s : State) (p : Nat) (f : Drv → Drv) (G : FieldSpec) (j : Nat) : (s.updDrv p f).get G j = s.get G j := rfl
@[simp] theorem get_setCmd (s : State) (k : Nat) (c : Cmd) (G : FieldSpec) (j : Nat) : (s.setCmd k c).get G j = s.get G j := rfl

/-! ### Reading a port, a signature or a drive port through updates -/

theorem fePort_updFe (s : State) (p q : Nat) (f : FePort → FePort) : (s.updFe p f).fePort q = if q = p then f (s.fePort p) else s.fePort q := by
  split_ifs with h
  · subst h
    exact ngetD_nset_self _ _ _ _
  · exact ngetD_nset_ne h _ _ _
theorem sigSt_updSig (s : State) (p q : Nat) (f : Sig → Sig) : (s.updSig p f).sigSt q = if q = p then f (s.sigSt p) else s.sigSt q := by
  split_ifs with h
  · subst h
    exact ngetD_nset_self _ _ _ _
  · exact ngetD_nset_ne h _ _ _
theorem drivePort_updDrv (s : State) (p q : Nat) (f : Drv → Drv) :
    (s.updDrv p f).drivePort q = if q = p then f (s.drivePort p) else s.drivePort q := by
  split_ifs with h
  · subst h
    exact ngetD_nset_self _ _ _ _
  · exact ngetD_nset_ne h _ _ _
@[simp] theorem fePort_put (s : State) (F : FieldSpec) (v i : Nat) (q : Nat) : (s.put F v i).fePort q = s.fePort q := rfl
@[simp] theorem fePort_putB (s : State) (F : FieldSpec) (b : Bool) (i : Nat) (q : Nat) : (s.putB F b i).fePort q = s.fePort q := rfl
@[simp] theorem fePort_ask (s : State) (F : FieldSpec) (i : Nat) (q : Nat) : (s.ask F i).fePort q = s.fePort q := rfl
@[simp] theorem fePort_pulse (s : State) (F : FieldSpec) (i : Nat) (q : Nat) : (s.pulse F i).fePort q = s.fePort q := rfl
@[simp] theorem fePort_settle (s : State) (F : FieldSpec) (i : Nat) (q : Nat) : (s.settle F i).fePort q = s.fePort q := rfl
@[simp] theorem fePort_raise (s : State) (F : FieldSpec) (i : Nat) (q : Nat) : (s.raise F i).fePort q = s.fePort q := rfl
@[simp] theorem fePort_bump (s : State) (F : FieldSpec) (n i : Nat) (q : Nat) : (s.bump F n i).fePort q = s.fePort q := rfl
@[simp] theorem fePort_ibi (s : State) (c : Nat) (q : Nat) : (s.ibi c).fePort q = s.fePort q := rfl
@[simp] theorem fePort_log (s : State) (c r : Nat) (l : List Nat) (q : Nat) : (s.log c r l).fePort q = s.fePort q := rfl
@[simp] theorem fePort_emit (s : State) (o : Out) (q : Nat) : (s.emit o).fePort q = s.fePort q := rfl
@[simp] theorem fePort_setCmd (s : State) (k : Nat) (c : Cmd) (q : Nat) : (s.setCmd k c).fePort q = s.fePort q := rfl
@[simp] theorem fePort_updSig (s : State) (p : Nat) (f : Sig → Sig) (q : Nat) : (s.updSig p f).fePort q = s.fePort q := rfl
@[simp] theorem fePort_updDrv (s : State) (p : Nat) (f : Drv → Drv) (q : Nat) : (s.updDrv p f).fePort q = s.fePort q := rfl
@[simp] theorem sigSt_put (s : State) (F : FieldSpec) (v i : Nat) (q : Nat) : (s.put F v i).sigSt q = s.sigSt q := rfl
@[simp] theorem sigSt_putB (s : State) (F : FieldSpec) (b : Bool) (i : Nat) (q : Nat) : (s.putB F b i).sigSt q = s.sigSt q := rfl
@[simp] theorem sigSt_ask (s : State) (F : FieldSpec) (i : Nat) (q : Nat) : (s.ask F i).sigSt q = s.sigSt q := rfl
@[simp] theorem sigSt_pulse (s : State) (F : FieldSpec) (i : Nat) (q : Nat) : (s.pulse F i).sigSt q = s.sigSt q := rfl
@[simp] theorem sigSt_settle (s : State) (F : FieldSpec) (i : Nat) (q : Nat) : (s.settle F i).sigSt q = s.sigSt q := rfl
@[simp] theorem sigSt_raise (s : State) (F : FieldSpec) (i : Nat) (q : Nat) : (s.raise F i).sigSt q = s.sigSt q := rfl
@[simp] theorem sigSt_bump (s : State) (F : FieldSpec) (n i : Nat) (q : Nat) : (s.bump F n i).sigSt q = s.sigSt q := rfl
@[simp] theorem sigSt_ibi (s : State) (c : Nat) (q : Nat) : (s.ibi c).sigSt q = s.sigSt q := rfl
@[simp] theorem sigSt_log (s : State) (c r : Nat) (l : List Nat) (q : Nat) : (s.log c r l).sigSt q = s.sigSt q := rfl
@[simp] theorem sigSt_emit (s : State) (o : Out) (q : Nat) : (s.emit o).sigSt q = s.sigSt q := rfl
@[simp] theorem sigSt_setCmd (s : State) (k : Nat) (c : Cmd) (q : Nat) : (s.setCmd k c).sigSt q = s.sigSt q := rfl
@[simp] theorem sigSt_updFe (s : State) (p : Nat) (f : FePort → FePort) (q : Nat) : (s.updFe p f).sigSt q = s.sigSt q := rfl
@[simp] theorem sigSt_updDrv (s : State) (p : Nat) (f : Drv → Drv) (q : Nat) : (s.updDrv p f).sigSt q = s.sigSt q := rfl
@[simp] theorem drivePort_put (s : State) (F : FieldSpec) (v i : Nat) (q : Nat) : (s.put F v i).drivePort q = s.drivePort q := rfl
@[simp] theorem drivePort_putB (s : State) (F : FieldSpec) (b : Bool) (i : Nat) (q : Nat) : (s.putB F b i).drivePort q = s.drivePort q := rfl
@[simp] theorem drivePort_ask (s : State) (F : FieldSpec) (i : Nat) (q : Nat) : (s.ask F i).drivePort q = s.drivePort q := rfl
@[simp] theorem drivePort_pulse (s : State) (F : FieldSpec) (i : Nat) (q : Nat) : (s.pulse F i).drivePort q = s.drivePort q := rfl
@[simp] theorem drivePort_settle (s : State) (F : FieldSpec) (i : Nat) (q : Nat) : (s.settle F i).drivePort q = s.drivePort q := rfl
@[simp] theorem drivePort_raise (s : State) (F : FieldSpec) (i : Nat) (q : Nat) : (s.raise F i).drivePort q = s.drivePort q := rfl
@[simp] theorem drivePort_bump (s : State) (F : FieldSpec) (n i : Nat) (q : Nat) : (s.bump F n i).drivePort q = s.drivePort q := rfl
@[simp] theorem drivePort_ibi (s : State) (c : Nat) (q : Nat) : (s.ibi c).drivePort q = s.drivePort q := rfl
@[simp] theorem drivePort_log (s : State) (c r : Nat) (l : List Nat) (q : Nat) : (s.log c r l).drivePort q = s.drivePort q := rfl
@[simp] theorem drivePort_emit (s : State) (o : Out) (q : Nat) : (s.emit o).drivePort q = s.drivePort q := rfl
@[simp] theorem drivePort_setCmd (s : State) (k : Nat) (c : Cmd) (q : Nat) : (s.setCmd k c).drivePort q = s.drivePort q := rfl
@[simp] theorem drivePort_updFe (s : State) (p : Nat) (f : FePort → FePort) (q : Nat) : (s.updFe p f).drivePort q = s.drivePort q := rfl
@[simp] theorem drivePort_updSig (s : State) (p : Nat) (f : Sig → Sig) (q : Nat) : (s.updSig p f).drivePort q = s.drivePort q := rfl

/-! ### States that agree in every part -/

theorem State.eq_of 
    (h0 : t.pending = s.pending) (h1 : t.rf = s.rf) (h2 : t.core = s.core) (h3 : t.el = s.el) (h4 : t.prs = s.prs) (h5 : t.fnt = s.fnt)
    (h6 : t.sch = s.sch) (h7 : t.dma = s.dma) (h8 : t.img = s.img) (h9 : t.hif = s.hif) (h10 : t.sec = s.sec) (h11 : t.pins = s.pins)
    (h12 : t.fe = s.fe) (h13 : t.conns = s.conns) (h14 : t.ctrls = s.ctrls) (h15 : t.cmds = s.cmds) (h16 : t.units = s.units) (h17 : t.seq = s.seq)
    (h18 : t.ingress = s.ingress) (h19 : t.reserved = s.reserved) (h20 : t.anaChange = s.anaChange) (h21 : t.rdUnits = s.rdUnits) (h22 : t.wrUnits = s.wrUnits) (h23 : t.rdBytes = s.rdBytes)
    (h24 : t.wrBytes = s.wrBytes) (h25 : t.mediaErrs = s.mediaErrs) (h26 : t.zn = s.zn) (h27 : t.cs = s.cs) (h28 : t.upds = s.upds) (h29 : t.sigs = s.sigs)
    (h30 : t.lost = s.lost) (h31 : t.repairs = s.repairs) (h32 : t.walks = s.walks) (h33 : t.drvs = s.drvs) (h34 : t.tagNo = s.tagNo) (h35 : t.cast = s.cast)
    (h36 : t.st0 = s.st0) (h37 : t.st1 = s.st1) (h38 : t.stage = s.stage) (h39 : t.hostBuf = s.hostBuf) (h40 : t.corrHour = s.corrHour) (h41 : t.out = s.out)
    (h42 : t.withheld = s.withheld) : t = s := by
  cases s
  cases t
  simp only at *
  subst_vars
  rfl

/-! ### From a meaning to the effect of its command -/

theorem Gives.intro {c : Instr} {s t : State} {P : State → Prop} (e : exec c s = .next t) (h : P t) : Gives c s P := ⟨t, e, h⟩

theorem Gives.on {c : Instr} {f : State → State} {P : State → Prop} (e : exec c s = .next (whenOn f s)) (hl : Live s) (h : P (f s)) : Gives c s P :=
  ⟨f s, by rw [e, whenOn_on f hl.power], h⟩

end Sys2Proof.Machine
end

