-- ==== Sys2Proof/Laws/Sessions.lean ====
section
/-!
SUPPORT. What closing connections leaves alone (R49), once for every operation that does it.
-/

namespace Sys2Proof.Machine

variable {s t u : State}

theorem ClosesOnly.refl (s : State) : ClosesOnly s s := rfl

theorem ClosesOnly.trans (h : ClosesOnly s t) (k : ClosesOnly t u) : ClosesOnly s u := by
  unfold ClosesOnly at *
  rw [k, h]

theorem ClosesOnly.foldl {β : Type} (f : State → β → State) (l : List β) (hf : ∀ s x, ClosesOnly s (f s x)) (s : State) :
    ClosesOnly s (l.foldl f s) := by
  induction l generalizing s with
  | nil => exact ClosesOnly.refl s
  | cons a l ih => exact (hf s a).trans (ih (f s a))

theorem removeCmd_closes (k : Nat) (s : State) : ClosesOnly s (removeCmd k s) := by
  unfold removeCmd
  split
  · exact ClosesOnly.refl s
  · dsimp only
    split_ifs <;> rfl

theorem closeCmd_closes (s : State) (k : Nat) : ClosesOnly s (closeCmd s k) := by
  unfold closeCmd
  split
  · exact ClosesOnly.refl s
  · dsimp only
    split_ifs
    · rfl
    · exact (removeCmd_closes k s).trans (ClosesOnly.foldl (fun s z => s.updZone z fun x => { x with pend := none }) _ (fun _ _ => rfl) _)
    · exact removeCmd_closes k s

theorem closeOne_closes (i : Nat) (s : State) : ClosesOnly s (closeOne i s) := by
  unfold closeOne
  split
  · exact ClosesOnly.refl s
  · exact (ClosesOnly.foldl closeCmd _ closeCmd_closes s).trans rfl

theorem closeConn_closes (i : Nat) (s : State) : ClosesOnly s (closeConn i s) := by
  unfold closeConn
  split
  · exact ClosesOnly.refl s
  · split_ifs
    · exact (ClosesOnly.foldl _ _ (fun t j => closeOne_closes j t) s).trans rfl
    · exact closeOne_closes i s

theorem closePort_closes (p : Nat) (s : State) : ClosesOnly s (closePort p s) := ClosesOnly.foldl _ _ (fun t i => closeConn_closes i t) s

theorem closeAll_closes (s : State) : ClosesOnly s (closeAll s) := ClosesOnly.foldl _ _ (fun t i => closeConn_closes i t) s

/-! ### Which connections and controllers remain -/

theorem removeCmd_conns (k : Nat) (s : State) : (removeCmd k s).conns = s.conns ∧ (removeCmd k s).ctrls = s.ctrls := by
  unfold removeCmd
  split
  · exact ⟨rfl, rfl⟩
  · dsimp only
    split_ifs <;> exact ⟨rfl, rfl⟩

theorem foldl_part {α β : Type} (g : State → α) (f : State → β → State) (hf : ∀ s x, g (f s x) = g s) (l : List β) (s : State) :
    g (l.foldl f s) = g s := by
  induction l generalizing s with
  | nil => rfl
  | cons a l ih => exact (ih (f s a)).trans (hf s a)

theorem closeCmd_conns (s : State) (k : Nat) : (closeCmd s k).conns = s.conns ∧ (closeCmd s k).ctrls = s.ctrls := by
  unfold closeCmd
  split
  · exact ⟨rfl, rfl⟩
  · dsimp only
    split_ifs
    · exact ⟨rfl, rfl⟩
    · have h := removeCmd_conns k s
      exact ⟨(foldl_part (·.conns) (fun s z => s.updZone z fun x => { x with pend := none }) (fun _ _ => rfl) _ _).trans h.1,
        (foldl_part (·.ctrls) (fun s z => s.updZone z fun x => { x with pend := none }) (fun _ _ => rfl) _ _).trans h.2⟩
    · exact removeCmd_conns k s

theorem closeOne_conns {i : Nat} {c : Conn} (h : nfind i s.conns = some c) :
    (closeOne i s).conns = ndel i s.conns ∧ (closeOne i s).ctrls = s.ctrls := by
  unfold closeOne State.conn
  rw [h]
  exact ⟨congrArg (ndel i) (foldl_part (·.conns) closeCmd (fun s k => (closeCmd_conns s k).1) _ s),
    foldl_part (·.ctrls) closeCmd (fun s k => (closeCmd_conns s k).2) _ s⟩

/-- A connection that is not its controller's admin connection closes alone. -/
theorem closeConn_io {i : Nat} {c : Conn} (h : nfind i s.conns = some c) (hc : ¬(c.connected = true ∧ c.admin = true)) :
    (closeConn i s).conns = ndel i s.conns ∧ (closeConn i s).ctrls = s.ctrls := by
  unfold closeConn State.conn
  rw [h]
  simp only [if_neg hc]
  exact closeOne_conns h

/-- With its admin connection, a controller is gone. -/
theorem closeConn_admin {i : Nat} {c : Conn} (h : nfind i s.conns = some c) (hc : c.connected = true ∧ c.admin = true) :
    (closeConn i s).ctrls = ndel c.cntlid s.ctrls := by
  unfold closeConn State.conn
  rw [h]
  simp only [if_pos hc]
  refine congrArg (ndel c.cntlid) (foldl_part (·.ctrls) (fun s j => closeOne j s) (fun s j => ?_) _ s)
  cases e : nfind j s.conns with
  | none =>
    simp [closeOne, State.conn, e]
  | some d => exact (closeOne_conns e).2

theorem closeConn_closed {i : Nat} {c : Conn} (h : nfind i s.conns = some c) : Closed i c s (closeConn i s) :=
  ⟨closeConn_admin h, closeConn_io h, closeConn_closes i s⟩

end Sys2Proof.Machine
end

