-- ==== Sys2Proof/Laws/Commands.lean ====
section
/-!
SUPPORT. What an admin command does before and after its own effect, once for all of them (R41, R46, R50, Table 2.3).
-/

namespace Sys2Proof.Machine

variable {s : State} {h : CmdHdr} {c : Conn}

/-- A PDU of a free path leaves at once. -/
theorem pdu_free {i : Nat} (hf : FreePath i c s) (o : Out) : s.pdu i o = s.emit o := by
  obtain ⟨h1, h2, h3⟩ := hf
  unfold State.pdu State.conn
  rw [h2, h1]
  simp [transmit, h3]

theorem respond_free {i : Nat} (hf : FreePath i c s) (cid dw0 : Nat) : respond i cid 0 0 dw0 s = s.emit (.resp i cid 0 0 dw0) := by
  simp [respond, pdu_free hf]

/-- A completion of any status leaves at once; an error enters the log of the connection's controller only. -/
theorem respond_parts {i : Nat} (hf : FreePath i c s) (cid sct sc dw0 : Nat) :
    respond i cid sct sc dw0 s = { s with ctrls := (respond i cid sct sc dw0 s).ctrls, out := .resp i cid sct sc dw0 :: s.out } := by
  have h1 := hf.1
  unfold respond
  simp only [pdu_free hf]
  split_ifs
  · rfl
  · unfold logError State.conn
    simp only [State.emit_conns, h1, State.updCtrl]
    split <;> rfl

/-- A free path stays free under what does not touch connections, pairs and ports. -/
theorem FreePath.same {i : Nat} {t : State} (hf : FreePath i c s) (h1 : t.conns = s.conns) (h2 : t.prs = s.prs) (h3 : t.fe = s.fe) : FreePath i c t := by
  obtain ⟨a, b, d⟩ := hf
  refine ⟨by rwa [h1], ?_, ?_⟩
  · unfold heldPdu State.conn State.pair at *
    rw [h1, h2]
    exact b
  · unfold State.fePort at *
    rw [h3]
    exact d

/-- A change of the connection itself that keeps its pair and port keeps the path free. -/
theorem FreePath.updConn {i : Nat} (hf : FreePath i c s) (f : Conn → Conn) (hp : (f c).pair = c.pair) (hq : (f c).port = c.port) :
    FreePath i (f c) (s.updConn i f) := by
  obtain ⟨a, b, d⟩ := hf
  have e : s.updConn i f = { s with conns := nset i (f c) s.conns } := by simp [State.updConn, a]
  rw [e]
  refine ⟨by simp, ?_, ?_⟩
  · unfold heldPdu State.conn at *
    rw [a] at b
    simp only [nfind_nset_self, hp]
    exact b
  · rw [hq]
    exact d

theorem returnBytes_free (hf : FreePath h.conn c s) (offset : Nat) (page : List Nat) :
    returnBytes h offset page s =
      (s.emit (.c2hBytes h.conn h.cid (((page.drop offset).take h.len) ++ List.replicate (h.len - ((page.drop offset).take h.len).length) 0))).emit
        (.resp h.conn h.cid 0 0 0) := by
  simp only [returnBytes, ok]
  rw [pdu_free hf]
  exact respond_free (c := c) (s := s.emit _) (FreePath.same hf rfl rfl rfl) _ _

/-- An admin command that nothing refuses comes to its own effect, its data tagged in class 3 (R319). -/
theorem adminCmd_ready (hr : AdminReady h c s) (implied : Option Nat) (hi : ∀ n, implied = some n → n = h.len) (k : Conn → State → State) :
    adminCmd h implied k s = k c (tag3 h.conn h.len s) := by
  obtain ⟨⟨h1, h2, h3⟩, h4, h5, h6, h7, h8, h9, h10, h11⟩ := hr
  have g : gateStatus .admin true h c s = none := by
    unfold gateStatus State.cmd
    cases ha : c.authReq <;> cases hb : c.authDone <;> simp_all [OnQueue.has]
  have l : checkLen h implied = none := by
    unfold checkLen
    rw [if_neg (by omega), if_neg]
    rintro (a | a)
    · omega
    · cases implied with
      | none => simp at a
      | some n => simp [hi n rfl] at a
  simp only [adminCmd, gated, State.conn, h1, h4, g, h9, l]
  simp

theorem tag3_parts (i n : Nat) (s : State) : tag3 i n s = { s with sch := (tag3 i n s).sch } := by
  unfold tag3
  dsimp only
  split_ifs <;> rfl

/-- A Write, Read or Zone Append that nothing refuses comes to its own effect. -/
theorem ioCmd_ready {x : IoCmd} {zoned : Bool} (hr : IoReady x c zoned s) (kind : Bool → Bool) (hk : kind zoned = true) (k : Conn → State → State) :
    ioCmd x kind k s = k c s := by
  obtain ⟨⟨h1, h2, h3⟩, h4, h5, h6, h7, h8, h9, h10, h11, h12, h13, h14⟩ := hr
  have g : gateStatus .io true x.hdr c s = none := by
    unfold gateStatus State.cmd
    cases ha : c.authReq <;> cases hb : c.authDone <;> simp_all [OnQueue.has]
  have l : checkLen x.hdr (some (x.nlb * wireOf x.pi)) = none := by
    unfold checkLen
    rw [if_neg (by omega), if_neg]
    rintro (a | a)
    · omega
    · simp [h11] at a
  have m : ¬(x.hdr.inCapsule ≠ 0 ∧ x.hdr.inCapsule ≠ x.hdr.len) := by omega
  have r : ¬(x.slba + x.nlb > nsSize s (nsIx x.hdr.nsid)) := by
    show ¬(x.slba + x.nlb > nsSize s (x.hdr.nsid - 1))
    omega
  have z : kind (nsZoned s (nsIx x.hdr.nsid)) = true := by
    show kind (nsZoned s (x.hdr.nsid - 1)) = true
    rw [h10, hk]
  simp only [ioCmd, gated, State.conn, h1, h4, g, h9, l, if_neg m, if_neg r, z]
  simp

/-- A Zone Management Send that nothing refuses comes to the action on its zone. -/
theorem doZoneSend_ready {x : ZoneCmd} {k : Nat} (hr : ZoneReady x c k s) (a : ZAct) :
    doZoneSend a x s =
      (match zoneAct a k (tag3 x.hdr.conn 0 s) with
      | (.fail sc, s) => respond x.hdr.conn x.hdr.cid 1 sc 0 s
      | (.now, s) => respond x.hdr.conn x.hdr.cid 0 0 0 s
      | (.later, s) => s.setCmd (cmdKey x.hdr.conn x.hdr.cid)
          { op := a.op, ns := x.hdr.nsid - 1, slba := x.slba, nlb := 0, pi := none, ord := s.seq, at_ := s.core.imp, zones := [k] }) := by
  obtain ⟨⟨h1, h2, h3⟩, h4, h5, h6, h7, h8, h9, h10, h11, h12, h13, h14, h15, hk, -⟩ := hr
  have g : gateStatus .io true x.hdr c s = none := by
    unfold gateStatus State.cmd
    cases ha : c.authReq <;> cases hb : c.authDone <;> simp_all [OnQueue.has]
  have l : checkLen x.hdr none = none := by
    unfold checkLen
    rw [if_neg (by omega), if_neg]
    rintro (a | a)
    · omega
    · simp at a
  have z : nsZoned s (nsIx x.hdr.nsid) = true := h10
  have e1 : nsSize (tag3 x.hdr.conn 0 s) (nsIx x.hdr.nsid) = nsSize s (x.hdr.nsid - 1) := by rw [tag3_parts]; rfl
  have e2 : zsze (tag3 x.hdr.conn 0 s) (nsIx x.hdr.nsid) = zsze s (x.hdr.nsid - 1) := by rw [tag3_parts]; rfl
  have e3 : zoneKey (nsIx x.hdr.nsid) (x.slba / zsze (tag3 x.hdr.conn 0 s) (nsIx x.hdr.nsid)) = k := by rw [e2, hk]; rfl
  simp only [doZoneSend, gated, State.conn, h1, h4, g, h9, l, z]
  show zoneSend a x c s = _
  simp only [zoneSend, h13, e1, e3, Bool.false_eq_true, if_false]
  rw [if_neg (by omega), e2, if_neg (by omega)]
  rfl

theorem cmdKey_conn {conn cid : Nat} (h : cid < 65536) : cmdKey conn cid / 65536 = conn := by unfold cmdKey; omega
theorem cmdKey_cid {conn cid : Nat} (h : cid < 65536) : cmdKey conn cid % 65536 = cid := by unfold cmdKey; omega

end Sys2Proof.Machine
end

