-- ==== Sys2Proof/Laws/Zones.lean ====
section
/-!
SUPPORT. What closing, filling and saving a zone can change (R70, R73, R79, R120, R122), once for the commands that do so.
-/

namespace Sys2Proof.Machine

variable {s : State}

theorem foldl_cs {α : Type} (f : State → α → State) (hf : ∀ s a, ∃ c, f s a = { s with cs := c }) (l : List α) (s : State) :
    ∃ c, l.foldl f s = { s with cs := c } := by
  induction l generalizing s with
  | nil => exact ⟨s.cs, rfl⟩
  | cons a l ih =>
    obtain ⟨c, hc⟩ := hf s a
    obtain ⟨d, hd⟩ := ih (f s a)
    exact ⟨d, by rw [List.foldl_cons, hd, hc]⟩

theorem updLine_cs (k g n : Nat) (f : Line → Line) (s : State) : ∃ c, updLine k g n f s = { s with cs := c } := by
  unfold updLine
  split
  · exact ⟨_, rfl⟩
  · split
    · exact ⟨_, rfl⟩
    · exact ⟨s.cs, rfl⟩

theorem retainSheet_cs (v : Bool) (g t : Nat) (s : State) : ∃ c, retainSheet v g t s = { s with cs := c } := by
  unfold retainSheet
  dsimp only
  obtain ⟨c1, h1⟩ := foldl_cs _ (fun s i => updLine_cs 0 g (_ + i) _ s) _ s
  rw [h1]
  obtain ⟨c2, h2⟩ := foldl_cs _ (fun s i => updLine_cs 1 g (_ + i) _ s) _ { s with cs := c1 }
  rw [h2]
  obtain ⟨c3, h3⟩ := foldl_cs _ (fun s i => updLine_cs 2 g (_ + i) _ s) _ { s with cs := c2 }
  rw [h3]
  exact ⟨_, rfl⟩

/-- Releasing a galley touches the Case only. -/
theorem unretain_cs (k : Nat) (s : State) : ∃ c, unretain k s = { s with cs := c } := by
  unfold unretain
  split
  · exact retainSheet_cs _ _ _ _
  · exact ⟨s.cs, rfl⟩

/-- Asking for the parity of a partial galley touches its signature only. -/
theorem askPartial_sigs (k : Nat) (s : State) : ∃ g, askPartial k s = { s with sigs := g } := by
  unfold askPartial
  split
  · exact ⟨_, rfl⟩
  · exact ⟨s.sigs, rfl⟩

theorem zoneSaved_off (k : Nat) (h : 0 < s.get Reg.Fount.CEILING) : zoneSaved k s = s := by
  unfold zoneSaved
  rw [if_neg (by omega)]

theorem get_of_rf {s t : State} (h : t.rf = s.rf) (F : FieldSpec) (i : Nat) : t.get F i = s.get F i := by unfold State.get; rw [h]

/-- Closing a zone while the ceiling is above 0. -/
theorem closeZone_on (k : Nat) (h : 0 < s.get Reg.Fount.CEILING) :
    ∃ c g, closeZone k s = { s with cs := c, sigs := g, zn := { s.zn with zones := nset k { s.zone k with st := .closed, slot := none, pend := none } s.zn.zones } } := by
  obtain ⟨c, hc⟩ := unretain_cs k s
  unfold closeZone
  rw [hc]
  obtain ⟨g, hg⟩ := askPartial_sigs k (State.updZone { s with cs := c } k fun z => { z with st := .closed, slot := none, pend := none })
  rw [hg, zoneSaved_off]
  · exact ⟨c, g, rfl⟩
  · exact h

/-- Filling a zone while the ceiling is above 0. -/
theorem fillZone_on (k : Nat) (h : 0 < s.get Reg.Fount.CEILING) :
    ∃ c g, fillZone k s = { s with cs := c, sigs := g, zn := { s.zn with zones := nset k { s.zone k with st := .full, slot := none, pend := none } s.zn.zones } } := by
  obtain ⟨c, hc⟩ := unretain_cs k s
  unfold fillZone
  rw [hc]
  obtain ⟨g, hg⟩ := askPartial_sigs k (State.updZone { s with cs := c } k fun z => { z with st := .full, slot := none, pend := none })
  rw [hg, zoneSaved_off]
  · exact ⟨c, g, rfl⟩
  · exact h

theorem foldl_el {α : Type} (f : State → α → State) (hf : ∀ s a, ∃ e, f s a = { s with el := e }) (l : List α) (s : State) :
    ∃ e, l.foldl f s = { s with el := e } := by
  induction l generalizing s with
  | nil => exact ⟨s.el, rfl⟩
  | cons a l ih =>
    obtain ⟨c, hc⟩ := hf s a
    obtain ⟨d, hd⟩ := ih (f s a)
    exact ⟨d, by rw [List.foldl_cons, hd, hc]⟩

/-- Clearing the hellbox touches its signature and the log only. -/
theorem hbClear_parts (g lo n : Nat) (s : State) : ∃ x e, hbClear g lo n s = { s with sigs := x, el := e } := by
  unfold hbClear
  dsimp only
  split
  · exact ⟨s.sigs, s.el, rfl⟩
  · obtain ⟨e, he⟩ := foldl_el (fun s (e : Nat × Nat × Nat) => s.log 0x5005 (srcSig g) (leBytes 8 (max e.1 lo) ++ leBytes 4 (min (e.1 + e.2.1) (lo + n) - max e.1 lo) ++ [0]))
      (fun s e => ⟨_, rfl⟩) ((s.sigSt g).k.hb.filter fun e => e.1 < lo + n && lo < e.1 + e.2.1)
      (s.updSig g fun x => { x with pendingSet := true, k := { x.k with hb := (s.sigSt g).k.hb.flatMap fun e =>
        if e.1 < lo + n && lo < e.1 + e.2.1 then
          (if e.1 < lo then [(e.1, (lo - e.1, e.2.2))] else []) ++ (if lo + n < e.1 + e.2.1 then [(lo + n, (e.1 + e.2.1 - lo - n, e.2.2))] else [])
        else [e] } })
    exact ⟨_, e, he⟩

theorem giveFrame_cs (f : Nat) (s : State) : ∃ c, giveFrame f s = { s with cs := c } := ⟨_, rfl⟩

theorem settleLine_cs (g n : Nat) (s : State) : ∃ c, settleLine g n s = { s with cs := c } := by
  unfold settleLine
  split
  · exact ⟨s.cs, rfl⟩
  · rename_i x _
    dsimp only
    obtain ⟨c, hc⟩ : ∃ c, (if ((x.cells.any fun c => c.2.shadow.isSome) = true) ∨ x.shFrames.isEmpty = true then s
        else updLine 0 g n (fun x => { x with shFrames := [] }) (giveFrames x.shFrames s)) = { s with cs := c } := by
      split
      · exact ⟨s.cs, rfl⟩
      · obtain ⟨c1, h1⟩ := foldl_cs (fun s f => giveFrame f s) (fun s a => giveFrame_cs a s) x.shFrames s
        obtain ⟨c2, h2⟩ := updLine_cs 0 g n (fun x => { x with shFrames := [] }) (giveFrames x.shFrames s)
        exact ⟨c2, by rw [h2]; unfold giveFrames; rw [h1]⟩
    rw [hc]
    split
    · split
      · exact ⟨_, rfl⟩
      · obtain ⟨c1, h1⟩ := giveFrame_cs _ { s with cs := c }
        obtain ⟨c2, h2⟩ := updLine_cs 0 g n (fun x => { x with duplex := none }) (giveFrame _ { s with cs := c })
        exact ⟨c2, by rw [h2, h1]⟩
    · exact ⟨_, rfl⟩

theorem dropCells_cs (g lo n : Nat) (s : State) : ∃ c, dropCells g lo n s = { s with cs := c } := by
  unfold dropCells
  dsimp only
  obtain ⟨c, hc⟩ := foldl_cs (fun s m => settleLine g m s) (fun s a => settleLine_cs g a s) _ { s with cs := _ }
  exact ⟨c, hc⟩

/-- Resetting a zone while the ceiling is above 0. -/
theorem resetZone_on (k : Nat) (h : 0 < s.get Reg.Fount.CEILING) :
    ∃ c g e, resetZone k s = { s with cs := c, sigs := g, el := e, zn := { s.zn with
      zones := nset k { lastWrite := (s.zone k).lastWrite, resets := (s.zone k).resets, reserved := (s.zone k).reserved } s.zn.zones } } := by
  unfold resetZone
  dsimp only
  obtain ⟨c1, h1⟩ := unretain_cs k s
  rw [h1]
  obtain ⟨c2, h2⟩ := dropCells_cs (nsSig s (k / 2 ^ 32)) (zoneLbn s k) (zsze s (k / 2 ^ 32)) { s with cs := c1 }
  rw [h2]
  obtain ⟨g, e, h3⟩ := hbClear_parts (nsSig s (k / 2 ^ 32)) (zoneLbn s k) (zsze s (k / 2 ^ 32)) { s with cs := c2 }
  rw [h3, zoneSaved_off]
  · exact ⟨c2, g, e, rfl⟩
  · exact h

end Sys2Proof.Machine
end

