-- ==== Sys2Proof/Laws/Case.lean ====
section
/-!
SUPPORT. What the operations of the Case can change (R236 to R249), once for every command that uses them.
-/

namespace Sys2Proof.Machine

/-- What an operation of the Case can change: its store, the register file, the count of free values taken and the order of writes. -/
def CaseOnly (s t : State) : Prop :=
  t = { s with cs := t.cs, rf := t.rf, seq := t.seq, core := { s.core with free := t.core.free } }

variable {s t u : State}

theorem CaseOnly.refl (s : State) : CaseOnly s s := rfl

theorem CaseOnly.trans (h : CaseOnly s t) (k : CaseOnly t u) : CaseOnly s u := by
  unfold CaseOnly at *
  rw [k, h]

theorem CaseOnly.foldl {α : Type} (f : State → α → State) (hf : ∀ t a, CaseOnly t (f t a)) (l : List α) (s : State) : CaseOnly s (l.foldl f s) := by
  induction l generalizing s with
  | nil => exact CaseOnly.refl s
  | cons a l ih => exact (hf s a).trans (ih _)

theorem caseOnly_bump (F : FieldSpec) (n i : Nat) (s : State) : CaseOnly s (s.bump F n i) := rfl
theorem caseOnly_raise (F : FieldSpec) (i : Nat) (s : State) : CaseOnly s (s.raise F i) := rfl
theorem caseOnly_setChan (c : Nat) (x : Chan) (s : State) : CaseOnly s (s.setChan c x) := rfl
theorem caseOnly_takeFrame (c : Nat) (s : State) : CaseOnly s (takeFrame c s).2 := rfl
theorem caseOnly_giveFrame (f : Nat) (s : State) : CaseOnly s (giveFrame f s) := rfl
theorem caseOnly_giveFrames (fs : List Nat) (s : State) : CaseOnly s (giveFrames fs s) := CaseOnly.foldl _ (fun t f => caseOnly_giveFrame f t) fs s

theorem caseOnly_updLine (k g n : Nat) (f : Line → Line) (s : State) : CaseOnly s (updLine k g n f s) := by
  obtain ⟨c, h⟩ := updLine_cs k g n f s
  rw [h]; rfl

theorem caseOnly_takePair (s : State) (x : List Nat × State) (h : takePair s = some x) : CaseOnly s x.2 := by
  unfold takePair at h
  split at h
  · cases h
  · dsimp only at h
    split at h <;> (injection h with h; rw [← h])
    · exact caseOnly_takeFrame _ s
    · exact (caseOnly_takeFrame _ s).trans (caseOnly_takeFrame _ _)

theorem caseOnly_evict (x : Line) (w : Bool) (e : Option Nat) (s t : State) (h : evict x w e s = some t) : CaseOnly s t := by
  unfold evict at h
  split at h
  · cases h
  · injection h with h; rw [← h]; rfl

theorem caseOnly_chooseWay (n : Nat) (s : State) (x : Nat × State) (h : chooseWay n s = some x) : CaseOnly s x.2 := by
  unfold chooseWay at h
  dsimp only at h
  split at h
  · injection h with h; rw [← h]; exact CaseOnly.refl s
  · generalize (if (List.isEmpty _) = true then _ else _ : List Nat) = e at h
    split at h
    · cases h
    · split at h
      · cases h
      · split at h
        · cases h
        · rename_i hv
          injection h with h; rw [← h]
          have h1 := caseOnly_evict _ _ _ _ _ hv
          unfold CaseOnly at h1 ⊢
          rw [h1]
          rfl

theorem caseOnly_newLine (k g n : Nat) (b : Bool) (s t : State) (h : newLine k g n b s = some t) : CaseOnly s t := by
  unfold newLine at h
  split at h
  · cases h
  · rename_i hw
    split at h
    · cases h
    · injection h with h; rw [← h]
      exact ((caseOnly_chooseWay _ _ _ hw).trans (caseOnly_takeFrame _ _)).trans rfl

theorem caseOnly_waitCount (k g n : Nat) (s : State) : CaseOnly s (waitCount k g n s) := by
  unfold waitCount
  dsimp only
  split_ifs <;> rfl

theorem caseOnly_reinstate (k g n : Nat) (s : State) : CaseOnly s (reinstate k g n s) := by
  unfold reinstate
  split
  · exact CaseOnly.refl s
  · split
    · exact CaseOnly.refl s
    · rename_i hw
      exact (caseOnly_chooseWay _ _ _ hw).trans rfl

theorem caseOnly_touch (k g n : Nat) (s : State) : CaseOnly s (touch k g n s) := by
  unfold touch
  split <;> rfl

theorem caseOnly_newLine_or (k g n : Nat) (b : Bool) (s : State) : CaseOnly s ((newLine k g n b s).getD (waitCount k g n s)) := by
  cases h : newLine k g n b s with
  | none => exact caseOnly_waitCount k g n s
  | some t => exact caseOnly_newLine _ _ _ _ _ _ h

theorem caseOnly_fillCell (k g n j : Nat) (v : RdVal) (b : Bool) (s : State) : CaseOnly s (fillCell k g n j v b s) := by
  unfold fillCell
  dsimp only
  refine CaseOnly.trans ?_ (caseOnly_updLine _ _ _ _ _)
  split_ifs
  · exact CaseOnly.refl s
  · exact caseOnly_newLine_or _ _ _ _ s

theorem caseOnly_fillBlock (g l : Nat) (v : RdVal) (b : Bool) (s : State) : CaseOnly s (fillBlock g l v b s) := by
  unfold fillBlock
  split_ifs
  · exact CaseOnly.refl s
  · exact caseOnly_fillCell _ _ _ _ _ _ s

theorem caseOnly_readyLine (g n : Nat) (b : Bool) (s t : State) (h : readyLine g n b s = some t) : CaseOnly s t := by
  unfold readyLine at h
  dsimp only at h
  generalize hr : (if (findTag s 0 g n).isNone = true ∧ ((findEvb s 0 g n).any fun p => !p.2.writeBack) = true then reinstate 0 g n s else s) = r at h
  have h0 : CaseOnly s r := by
    rw [← hr]
    split_ifs
    · exact caseOnly_reinstate _ _ _ s
    · exact CaseOnly.refl s
  refine h0.trans ?_
  clear hr h0
  obtain ⟨a, ha, h⟩ := Option.bind_eq_some_iff.mp h
  have h1 : CaseOnly r a := by
    split_ifs at ha
    · injection ha with ha; rw [← ha]; exact CaseOnly.refl r
    · exact caseOnly_newLine _ _ _ _ _ _ ha
  refine h1.trans ?_
  split at h
  · cases h
  · split at h
    · injection h with h; rw [← h]; exact CaseOnly.refl a
    · split at h
      · split at h
        · cases h
        · rename_i hp
          injection h with h; rw [← h]
          exact ((caseOnly_takePair _ _ hp).trans (caseOnly_giveFrames _ _)).trans (caseOnly_updLine _ _ _ _ _)
      · split at h
        · split at h
          · injection h with h; rw [← h]; exact CaseOnly.refl a
          · cases h
        · injection h with h; rw [← h]
          exact (caseOnly_takeFrame _ _).trans (caseOnly_updLine _ _ _ _ _)

theorem caseOnly_writeCell (g l : Nat) (d : Blk) (nv wt : Bool) (s : State) : CaseOnly s (writeCell g l d nv wt s) := by
  unfold writeCell
  dsimp only
  refine CaseOnly.trans ?_ (caseOnly_updLine _ _ _ _ _)
  split_ifs
  · split
    · rename_i hp
      refine CaseOnly.trans ?_ (caseOnly_updLine _ _ _ _ _)
      exact CaseOnly.trans (t := { s with seq := s.seq + 1 }) rfl (caseOnly_takePair _ _ hp)
    · rfl
  · rfl

theorem caseOnly_putBlock (g : Nat) (b wt : Bool) (s t : State) (x : Nat × Blk) (h : putBlock g b wt s x = some t) : CaseOnly s t := by
  unfold putBlock at h
  obtain ⟨a, ha, h⟩ := Option.map_eq_some_iff.mp h
  rw [← h]
  refine ((caseOnly_readyLine _ _ _ _ _ ha).trans (caseOnly_writeCell g x.1 x.2 false wt a)).trans ?_
  split_ifs
  · exact CaseOnly.refl _
  · exact caseOnly_touch _ _ _ _

theorem caseOnly_putBlocks (g : Nat) (b wt : Bool) (xs : List (Nat × Blk)) (s t : State) (h : putBlocks g b wt xs s = some t) : CaseOnly s t := by
  unfold putBlocks at h
  induction xs generalizing s with
  | nil => injection h with h; rw [← h]; exact CaseOnly.refl s
  | cons a l ih =>
    rw [List.foldlM_cons] at h
    obtain ⟨r, hr, h⟩ := Option.bind_eq_some_iff.mp h
    exact (caseOnly_putBlock _ _ _ _ _ _ hr).trans (ih _ h)

theorem caseOnly_updCells (g t : Nat) (os : List Nat) (f : Cell → Cell) (s : State) : CaseOnly s (updCells g t os f s) :=
  CaseOnly.foldl _ (fun _ _ => caseOnly_updLine _ _ _ _ _) _ s

theorem caseOnly_settleLine (g n : Nat) (s : State) : CaseOnly s (settleLine g n s) := by
  obtain ⟨c, h⟩ := settleLine_cs g n s
  rw [h]; rfl

theorem caseOnly_setFill (v : Bool) (g t p b n : Nat) (s : State) : CaseOnly s (setFill v g t p b n s) := by
  unfold setFill
  split_ifs
  · refine CaseOnly.foldl _ (fun s i => ?_) _ s
    dsimp only
    refine CaseOnly.trans ?_ (caseOnly_updLine _ _ _ _ _)
    split_ifs
    · exact caseOnly_newLine_or _ _ _ _ s
    · exact CaseOnly.refl s
  · exact CaseOnly.refl s

end Sys2Proof.Machine
end

