-- ==== Sys2Proof/Laws/Kept.lean ====
section
/-!
SUPPORT. What every operation but the boundary and a cold reset keeps: the canonical stores, the queue of waiting commands, and
the impression counter. One lemma per operation follows in the files Kept*.
-/

namespace Sys2Proof.Machine

/-- The stores are canonical, the queue is `q`, and the impression counter is `n`. -/
structure Kept (q : List Instr) (n : Nat) (s : State) : Prop where
  canon : Canonical s
  queue : s.pending = q
  imp : s.core.imp = n

variable {q : List Instr} {n : Nat}

/-- A state that agrees on those parts. -/
theorem Kept.same {s t : State} (h : Kept q n s) (h1 : t.rf.regs = s.rf.regs) (h2 : t.rf.latches = s.rf.latches) (h3 : t.stage = s.stage)
    (h4 : t.hostBuf = s.hostBuf) (h5 : t.hif.win4 = s.hif.win4) (h6 : t.hif.win5 = s.hif.win5) (h7 : t.pending = s.pending)
    (h8 : t.core.imp = s.core.imp) : Kept q n t :=
  ⟨⟨h1 ▸ h.canon.regs, h2 ▸ h.canon.latches, h3 ▸ h.canon.stage, h4 ▸ h.canon.hostBuf, h5 ▸ h.canon.win4, h6 ▸ h.canon.win5⟩, h7 ▸ h.queue, h8 ▸ h.imp⟩

/-- An update of other parts. -/
theorem Kept.upd {s : State}
    {pd rf co el pr fn sc dm im hi se pi fe cn ct cm un sq ig re an ru wu rb wb me zn cs up sg lo rp wk dr tg ca s0 s1 st hb ch ou wi}
    (h : Kept q n s) (h1 : rf.regs = s.rf.regs) (h2 : rf.latches = s.rf.latches) (h3 : st = s.stage) (h4 : hb = s.hostBuf)
    (h5 : hi.win4 = s.hif.win4) (h6 : hi.win5 = s.hif.win5) (h7 : pd = s.pending) (h8 : co.imp = s.core.imp) :
    Kept q n (State.mk pd rf co el pr fn sc dm im hi se pi fe cn ct cm un sq ig re an ru wu rb wb me zn cs up sg lo rp wk dr tg ca s0 s1 st hb ch ou wi) :=
  h.same h1 h2 h3 h4 h5 h6 h7 h8

/-- The state of a pair. -/
theorem Kept.pair {α : Type} {x : α × State} {a : α} {t : State} (e : x = (a, t)) (h : Kept q n x.2) : Kept q n t := by
  subst e; exact h

theorem Kept.getD {o : Option State} {s : State} (h1 : ∀ t, o = some t → Kept q n t) (h2 : Kept q n s) : Kept q n (o.getD s) := by
  cases o with
  | none => exact h2
  | some t => exact h1 t rfl

theorem Kept.ite {c : Prop} [Decidable c] {s t : State} (h1 : Kept q n s) (h2 : Kept q n t) : Kept q n (if c then s else t) := by
  split_ifs
  · exact h1
  · exact h2

theorem Kept.foldl {β : Type} (f : State → β → State) (l : List β) {s : State} (h : Kept q n s)
    (hf : ∀ s x, Kept q n s → Kept q n (f s x)) : Kept q n (l.foldl f s) := by
  induction l generalizing s with
  | nil => exact h
  | cons a l ih => exact ih (hf s a h)

end Sys2Proof.Machine
end

