-- ==== Sys2Proof/Laws/KeptOps.lean ====
section
/-!
SUPPORT. What every operation keeps (Laws/Kept.lean): the shared operations, the Case as a cache, and the compared pairs.
-/

namespace Sys2Proof.Machine

variable {q : List Instr} {n : Nat}

theorem State.put_kept (s : State) (F : FieldSpec) (v i : Nat) (h : Kept q n s) : Kept q n (s.put F v i) :=
  ⟨⟨h.canon.regs.rput _ _ _, h.canon.latches, h.canon.stage, h.canon.hostBuf, h.canon.win4, h.canon.win5⟩, h.queue, h.imp⟩

theorem State.raise_kept (s : State) (F : FieldSpec) (i : Nat) (h : Kept q n s) : Kept q n (s.raise F i) :=
  ⟨⟨h.canon.regs.rput _ _ _, h.canon.latches, h.canon.stage, h.canon.hostBuf, h.canon.win4, h.canon.win5⟩, h.queue, h.imp⟩

theorem State.bump_kept (s : State) (F : FieldSpec) (n0 : ℕ) (i : ℕ) (hs : Kept q n s) : Kept q n (State.bump s F n0 i) := by
  unfold State.bump
  refine State.put_kept _ _ _ _ ?_
  assumption

theorem State.putB_kept (s : State) (F : FieldSpec) (b : Bool) (i : ℕ) (hs : Kept q n s) : Kept q n (State.putB s F b i) := by
  unfold State.putB
  refine State.put_kept _ _ _ _ ?_
  assumption

theorem State.ask_kept (s : State) (F : FieldSpec) (i : ℕ) (hs : Kept q n s) : Kept q n (State.ask s F i) := by
  unfold State.ask
  refine State.put_kept _ _ _ _ ?_
  assumption

theorem State.settle_kept (s : State) (F : FieldSpec) (i : ℕ) (hs : Kept q n s) : Kept q n (State.settle s F i) := by
  unfold State.settle
  refine Kept.upd ?_ rfl rfl rfl rfl rfl rfl rfl rfl
  assumption

theorem State.pulse_kept (s : State) (F : FieldSpec) (i : ℕ) (hs : Kept q n s) : Kept q n (State.pulse s F i) := by
  unfold State.pulse
  refine State.settle_kept _ _ _ ?_
  refine State.ask_kept _ _ _ ?_
  assumption

theorem State.draw_kept (s : State) (hs : Kept q n s) : Kept q n (State.draw s).2 := by
  unfold State.draw
  dsimp only
  refine Kept.upd ?_ rfl rfl rfl rfl rfl rfl rfl rfl
  assumption

theorem State.random_kept (s : State) (hs : Kept q n s) : Kept q n (State.random s).2 := by
  unfold State.random
  dsimp only
  refine Kept.upd ?_ rfl rfl rfl rfl rfl rfl rfl rfl
  assumption

theorem State.log_kept (s : State) (code : ℕ) (src : ℕ) (payload : (List ℕ)) (hs : Kept q n s) : Kept q n (State.log s code src payload) := by
  unfold State.log
  refine Kept.upd ?_ rfl rfl rfl rfl rfl rfl rfl rfl
  assumption

theorem faultItem_kept (s : State) (hs : Kept q n s) : Kept q n (faultItem s) := by
  unfold faultItem
  refine Kept.upd ?_ rfl rfl rfl rfl rfl rfl rfl rfl
  assumption

theorem State.emit_kept (s : State) (o : Out) (hs : Kept q n s) : Kept q n (State.emit s o) := by
  unfold State.emit
  refine Kept.upd ?_ rfl rfl rfl rfl rfl rfl rfl rfl
  assumption

theorem State.eachHalf_kept (s : State) (f : HalfSt → HalfSt) (hs : Kept q n s) : Kept q n (State.eachHalf s f) := by
  unfold State.eachHalf
  refine Kept.upd ?_ rfl rfl rfl rfl rfl rfl rfl rfl
  assumption

theorem whenOn_kept (f : State → State) (s : State) (h : Kept q n s) (hk : Kept q n (f s)) : Kept q n (whenOn f s) := by
  unfold whenOn
  exact Kept.ite hk h

theorem State.ibi_kept (s : State) (c : Nat) (h : Kept q n s) : Kept q n (s.ibi c) :=
  ⟨⟨h.canon.regs.rput _ _ _, h.canon.latches, h.canon.stage, h.canon.hostBuf, h.canon.win4, h.canon.win5⟩, h.queue, h.imp⟩

theorem hifErr_kept (F : FieldSpec) (s : State) (hs : Kept q n s) : Kept q n (hifErr F s) := by
  unfold hifErr
  extract_lets s1 s2
  have h1 : Kept q n s1 := by
    refine State.raise_kept _ _ _ ?_
    assumption
  clear_value s1
  refine Kept.upd ?_ rfl rfl rfl rfl rfl rfl rfl rfl
  assumption

theorem State.enter_kept (s : State) (m : ModState) (hs : Kept q n s) : Kept q n (State.enter s m) := by
  unfold State.enter
  extract_lets s1 s2 s3 s4 s5 s6 s7
  have h3 : Kept q n s3 := by
    refine Kept.ite ?_ ?_
    · refine State.put_kept _ _ _ _ ?_
      assumption
    · assumption
  clear_value s3
  have h5 : Kept q n s5 := by
    refine Kept.upd ?_ rfl rfl rfl rfl rfl rfl rfl rfl
    assumption
  clear_value s5
  have h6 : Kept q n s6 := by
    refine State.ibi_kept _ _ ?_
    assumption
  clear_value s6
  have h7 : Kept q n s7 := by
    refine Kept.ite ?_ ?_
    · refine State.ibi_kept _ _ ?_
      assumption
    · assumption
  clear_value s7
  refine State.log_kept _ _ _ _ ?_
  refine State.raise_kept _ _ _ ?_
  assumption

theorem updLine_kept (kind : ℕ) (sig : ℕ) (num : ℕ) (f : Line → Line) (s : State) (hs : Kept q n s) : Kept q n (updLine kind sig num f s) := by
  unfold updLine
  split
  · refine Kept.upd ?_ rfl rfl rfl rfl rfl rfl rfl rfl
    assumption
  · split
    · refine Kept.upd ?_ rfl rfl rfl rfl rfl rfl rfl rfl
      assumption
    · assumption

theorem State.setChan_kept (s : State) (c : ℕ) (x : Chan) (hs : Kept q n s) : Kept q n (State.setChan s c x) := by
  unfold State.setChan
  refine Kept.upd ?_ rfl rfl rfl rfl rfl rfl rfl rfl
  assumption

theorem takeFrame_kept (c : ℕ) (s : State) (hs : Kept q n s) : Kept q n (takeFrame c s).2 := by
  unfold takeFrame
  dsimp only
  refine State.setChan_kept _ _ _ ?_
  refine State.draw_kept _ ?_
  assumption

theorem giveFrame_kept (f : ℕ) (s : State) (hs : Kept q n s) : Kept q n (giveFrame f s) := by
  unfold giveFrame
  extract_lets s1 s2
  refine State.setChan_kept _ _ _ ?_
  assumption

theorem giveFrames_kept (fs : List ℕ) (s : State) (hs : Kept q n s) : Kept q n (giveFrames fs s) := by
  unfold giveFrames
  refine Kept.foldl _ _ ?_ fun s x h => ?_
  · assumption
  · refine giveFrame_kept _ _ ?_
    assumption

theorem takePair_kept (s : State) (hs : Kept q n s) : ∀ a t, takePair s = some (a, t) → Kept q n t := by
  intro a t ht
  unfold takePair at ht
  split at ht
  · cases ht
  · dsimp only at ht
    split at ht <;> cases ht
    · exact takeFrame_kept _ _ hs
    · exact takeFrame_kept _ _ (takeFrame_kept _ _ hs)

theorem evict_kept (x : Line) (writeBack : Bool) (engine : Option Nat) (s : State) (hs : Kept q n s) :
    ∀ t, evict x writeBack engine s = some t → Kept q n t := by
  intro t ht
  unfold evict at ht
  split at ht <;> cases ht
  refine Kept.upd ?_ rfl rfl rfl rfl rfl rfl rfl rfl
  assumption

theorem chooseWay_kept (set : Nat) (s : State) (hs : Kept q n s) : ∀ a t, chooseWay set s = some (a, t) → Kept q n t := by
  intro a t ht
  unfold chooseWay at ht
  extract_lets w keys at_ e e1 e2 top d src s1 at ht
  split at ht
  · cases ht; assumption
  · split at ht
    · cases ht
    · split at ht
      · cases ht
      · have h1 : Kept q n s1 := Kept.upd hs rfl rfl rfl rfl rfl rfl rfl rfl
        clear_value s1
        split at ht <;> cases ht
        refine State.bump_kept _ _ _ _ (Kept.upd ?_ rfl rfl rfl rfl rfl rfl rfl rfl)
        exact evict_kept _ _ _ _ h1 _ (by assumption)

theorem newLine_kept (kind sig num : Nat) (stream : Bool) (s : State) (hs : Kept q n s) :
    ∀ t, newLine kind sig num stream s = some t → Kept q n t := by
  intro t ht
  unfold newLine at ht
  split at ht
  · cases ht
  · split at ht
    · cases ht
    · cases ht
      refine Kept.upd (takeFrame_kept _ _ ?_) rfl rfl rfl rfl rfl rfl rfl rfl
      refine chooseWay_kept _ _ ?_ _ _ (by assumption)
      assumption

theorem waitCount_kept (kind : ℕ) (sig : ℕ) (num : ℕ) (s : State) (hs : Kept q n s) : Kept q n (waitCount kind sig num s) := by
  unfold waitCount
  refine Kept.ite ?_ ?_
  · extract_lets s1
    have h1 : Kept q n s1 := by
      refine State.bump_kept _ _ _ _ ?_
      assumption
    clear_value s1
    refine Kept.ite ?_ ?_
    · refine State.raise_kept _ _ _ ?_
      assumption
    · assumption
  · refine State.bump_kept _ _ _ _ ?_
    assumption

theorem reinstate_kept (kind : ℕ) (sig : ℕ) (num : ℕ) (s : State) (hs : Kept q n s) : Kept q n (reinstate kind sig num s) := by
  unfold reinstate
  split
  · assumption
  · split
    · assumption
    · refine State.bump_kept _ _ _ _ ?_
      refine Kept.upd ?_ rfl rfl rfl rfl rfl rfl rfl rfl
      refine chooseWay_kept _ _ ?_ _ _ (by assumption)
      assumption

theorem touch_kept (kind : ℕ) (sig : ℕ) (num : ℕ) (s : State) (hs : Kept q n s) : Kept q n (touch kind sig num s) := by
  unfold touch
  split
  · refine Kept.upd ?_ rfl rfl rfl rfl rfl rfl rfl rfl
    assumption
  · assumption

theorem fillCell_kept (kind : ℕ) (sig : ℕ) (num : ℕ) (j : ℕ) (v : RdVal) (stream : Bool) (s : State) (hs : Kept q n s) : Kept q n (fillCell kind sig num j v stream s) := by
  unfold fillCell
  extract_lets s1
  have h1 : Kept q n s1 := by
    refine Kept.ite ?_ ?_
    · assumption
    · refine Kept.getD (fun t ht => ?_) ?_
      · refine newLine_kept _ _ _ _ _ ?_ _ (by assumption)
        assumption
      · refine waitCount_kept _ _ _ _ ?_
        assumption
  clear_value s1
  refine updLine_kept _ _ _ _ _ ?_
  assumption

theorem fillBlock_kept (sig : ℕ) (lbn : ℕ) (v : RdVal) (stream : Bool) (s : State) (hs : Kept q n s) : Kept q n (fillBlock sig lbn v stream s) := by
  unfold fillBlock
  refine Kept.ite ?_ ?_
  · assumption
  · refine fillCell_kept _ _ _ _ _ _ _ ?_
    assumption

theorem fillParity_kept (i : Imposition) (kind : ℕ) (t : ℕ) (b : ℕ) (v : Blk) (s : State) (hs : Kept q n s) : Kept q n (fillParity i kind t b v s) := by
  unfold fillParity
  extract_lets s1
  refine fillCell_kept _ _ _ _ _ _ _ ?_
  assumption

theorem readyLine_kept (sig num : Nat) (stream : Bool) (s : State) (hs : Kept q n s) :
    ∀ t, readyLine sig num stream s = some t → Kept q n t := by
  intro t ht
  unfold readyLine at ht
  extract_lets s1 s2 at ht
  have h1 : Kept q n s1 := Kept.ite (reinstate_kept _ _ _ _ hs) hs
  clear_value s1
  obtain ⟨u, hu, ht⟩ := Option.bind_eq_some_iff.mp ht
  have h2 : Kept q n u := by
    unfold s2 at hu
    split at hu
    · cases hu; assumption
    · exact newLine_kept _ _ _ _ _ h1 _ hu
  split at ht
  · cases ht
  · dsimp only at ht
    split at ht
    · cases ht; assumption
    · split at ht
      · split at ht
        · cases ht
        · cases ht
          refine updLine_kept _ _ _ _ _ (giveFrames_kept _ _ ?_)
          exact takePair_kept _ h2 _ _ (by assumption)
      · split at ht
        · split at ht <;> cases ht
          assumption
        · cases ht
          exact updLine_kept _ _ _ _ _ (takeFrame_kept _ _ h2)

theorem writeCell_kept (sig : ℕ) (lbn : ℕ) (data : Blk) (never : Bool) (wt : Bool) (s : State) (hs : Kept q n s) : Kept q n (writeCell sig lbn data never wt s) := by
  unfold writeCell
  extract_lets s1 s2 s3 s4 s5
  have h3 : Kept q n s3 := by
    refine Kept.upd ?_ rfl rfl rfl rfl rfl rfl rfl rfl
    assumption
  clear_value s3
  have h5 : Kept q n s5 := by
    refine Kept.ite ?_ ?_
    · split
      · refine updLine_kept _ _ _ _ _ ?_
        refine takePair_kept _ ?_ _ _ (by assumption)
        assumption
      · assumption
    · assumption
  clear_value s5
  refine updLine_kept _ _ _ _ _ ?_
  assumption

theorem putBlock_kept (sig : Nat) (stream wt : Bool) (s : State) (x : Nat × Blk) (hs : Kept q n s) :
    ∀ t, putBlock sig stream wt s x = some t → Kept q n t := by
  intro t ht
  unfold putBlock at ht
  obtain ⟨u, hu, rfl⟩ := Option.map_eq_some_iff.mp ht
  have h1 := readyLine_kept _ _ _ _ hs _ hu
  have h2 := writeCell_kept sig x.1 x.2 false wt _ h1
  dsimp only
  exact Kept.ite h2 (touch_kept _ _ _ _ h2)

theorem putBlocks_kept (sig : Nat) (stream wt : Bool) (xs : List (Nat × Blk)) (s : State) (hs : Kept q n s) :
    ∀ t, putBlocks sig stream wt xs s = some t → Kept q n t := by
  unfold putBlocks
  induction xs generalizing s with
  | nil => intro t ht; cases ht; exact hs
  | cons x xs ih =>
    intro t ht
    rw [List.foldlM_cons] at ht
    obtain ⟨u, hu, ht⟩ := Option.bind_eq_some_iff.mp ht
    exact ih u (putBlock_kept _ _ _ _ _ hs _ hu) t ht

theorem settleLine_kept (sig : ℕ) (num : ℕ) (s : State) (hs : Kept q n s) : Kept q n (settleLine sig num s) := by
  unfold settleLine
  split
  · assumption
  · extract_lets s1 s2 s3
    have h3 : Kept q n s3 := by
      refine Kept.ite ?_ ?_
      · assumption
      · refine updLine_kept _ _ _ _ _ ?_
        refine giveFrames_kept _ _ ?_
        assumption
    clear_value s3
    split
    · refine Kept.ite ?_ ?_
      · assumption
      · refine updLine_kept _ _ _ _ _ ?_
        refine giveFrame_kept _ _ ?_
        assumption
    · assumption

theorem youngest_kept (ks : List ℕ) (s : State) (hs : Kept q n s) : Kept q n (youngest ks s) := by
  unfold youngest
  refine Kept.upd ?_ rfl rfl rfl rfl rfl rfl rfl rfl
  assumption

theorem stepTouched_kept (s : State) (hs : Kept q n s) : Kept q n (stepTouched s) := by
  unfold stepTouched
  extract_lets s1 s2
  have h1 : Kept q n s1 := by
    refine youngest_kept _ _ ?_
    assumption
  clear_value s1
  refine Kept.upd ?_ rfl rfl rfl rfl rfl rfl rfl rfl
  assumption

theorem doAgeIncrement_kept (s : State) (hs : Kept q n s) : Kept q n (doAgeIncrement s) := by
  unfold doAgeIncrement
  extract_lets s1 s2
  refine Kept.ite ?_ ?_
  · refine youngest_kept _ _ ?_
    refine Kept.upd ?_ rfl rfl rfl rfl rfl rfl rfl rfl
    assumption
  · assumption

theorem reclaimSet_kept (c : ℕ) (set : ℕ) (s : State) (hs : Kept q n s) : Kept q n (reclaimSet c set s) := by
  unfold reclaimSet
  extract_lets s1
  refine Kept.foldl _ _ ?_ fun s x h => ?_
  · assumption
  · extract_lets s2
    split
    · refine Kept.ite ?_ ?_
      · split
        · refine State.bump_kept _ _ _ _ ?_
          refine Kept.upd ?_ rfl rfl rfl rfl rfl rfl rfl rfl
          refine evict_kept _ _ _ _ ?_ _ (by assumption)
          assumption
        · refine State.raise_kept _ _ _ ?_
          assumption
      · assumption
    · assumption

theorem doReclaim_kept (c : ℕ) (s : State) (hs : Kept q n s) : Kept q n (doReclaim c s) := by
  unfold doReclaim
  refine Kept.ite ?_ ?_
  · extract_lets s1 s2 s3 s4 s5
    have h2 : Kept q n s2 := by
      refine Kept.foldl _ _ ?_ fun s x h => ?_
      · assumption
      · refine Kept.ite ?_ ?_
        · refine reclaimSet_kept _ _ _ ?_
          assumption
        · assumption
    clear_value s2
    have h4 : Kept q n s4 := by
      refine Kept.upd ?_ rfl rfl rfl rfl rfl rfl rfl rfl
      assumption
    clear_value s4
    refine State.setChan_kept _ _ _ ?_
    assumption
  · assumption

theorem doEvbDrop_kept (i : ℕ) (s : State) (hs : Kept q n s) : Kept q n (doEvbDrop i s) := by
  unfold doEvbDrop
  split
  · refine Kept.ite ?_ ?_
    · extract_lets s1 s2
      have h1 : Kept q n s1 := by
        refine giveFrames_kept _ _ ?_
        assumption
      clear_value s1
      refine Kept.upd ?_ rfl rfl rfl rfl rfl rfl rfl rfl
      assumption
    · assumption
  · assumption

theorem doProbeGo_kept (s : State) (hs : Kept q n s) : Kept q n (doProbeGo s) := by
  unfold doProbeGo
  extract_lets s1 s2 s3 s4 s5 s6 s7 s8 s9 s10 s11 s12
  have h1 : Kept q n s1 := by
    refine State.pulse_kept _ _ _ ?_
    assumption
  clear_value s1
  have h8 : Kept q n s8 := by
    refine State.put_kept _ _ _ _ ?_
    assumption
  clear_value s8
  have h9 : Kept q n s9 := by
    refine State.put_kept _ _ _ _ ?_
    refine State.put_kept _ _ _ _ ?_
    assumption
  clear_value s9
  have h10 : Kept q n s10 := by
    refine State.putB_kept _ _ _ _ ?_
    refine State.putB_kept _ _ _ _ ?_
    assumption
  clear_value s10
  have h11 : Kept q n s11 := by
    refine State.putB_kept _ _ _ _ ?_
    refine State.putB_kept _ _ _ _ ?_
    assumption
  clear_value s11
  have h12 : Kept q n s12 := by
    refine State.put_kept _ _ _ _ ?_
    refine State.put_kept _ _ _ _ ?_
    assumption
  clear_value s12
  refine State.putB_kept _ _ _ _ ?_
  assumption

theorem doReDuplex_kept (s : State) (hs : Kept q n s) : Kept q n (doReDuplex s) := by
  unfold doReDuplex
  extract_lets s1 s2 s3
  have h2 : Kept q n s2 := by
    refine Kept.foldl _ _ ?_ fun s x h => ?_
    · assumption
    · split
      · extract_lets s4 s5 s6 s7
        have h4 : Kept q n s4.2 := by
          refine takeFrame_kept _ _ ?_
          assumption
        clear_value s4
        have h5 : Kept q n s5 := by
          unfold s5
          assumption
        clear_value s5
        refine Kept.upd ?_ rfl rfl rfl rfl rfl rfl rfl rfl
        assumption
      · assumption
  clear_value s2
  refine Kept.ite ?_ ?_
  · refine State.log_kept _ _ _ _ ?_
    assumption
  · assumption

theorem loseChannel_kept (c : ℕ) (s : State) (hs : Kept q n s) : Kept q n (loseChannel c s) := by
  unfold loseChannel
  extract_lets s1 s2 s3 s4 s5 s6 s7 s8
  have h7 : Kept q n s7 := by
    refine faultItem_kept _ ?_
    refine State.setChan_kept _ _ _ ?_
    assumption
  clear_value s7
  refine State.log_kept _ _ _ _ ?_
  refine Kept.upd ?_ rfl rfl rfl rfl rfl rfl rfl rfl
  assumption

theorem State.setZone_kept (s : State) (k : ℕ) (z : Zone) (hs : Kept q n s) : Kept q n (State.setZone s k z) := by
  unfold State.setZone
  refine Kept.upd ?_ rfl rfl rfl rfl rfl rfl rfl rfl
  assumption

theorem State.updZone_kept (s : State) (k : ℕ) (f : Zone → Zone) (hs : Kept q n s) : Kept q n (State.updZone s k f) := by
  unfold State.updZone
  refine State.setZone_kept _ _ _ ?_
  assumption

theorem State.setSig_kept (s : State) (g : ℕ) (x : Sig) (hs : Kept q n s) : Kept q n (State.setSig s g x) := by
  unfold State.setSig
  refine Kept.upd ?_ rfl rfl rfl rfl rfl rfl rfl rfl
  assumption

theorem State.updSig_kept (s : State) (g : ℕ) (f : Sig → Sig) (hs : Kept q n s) : Kept q n (State.updSig s g f) := by
  unfold State.updSig
  refine State.setSig_kept _ _ _ ?_
  assumption

theorem State.updKeep_kept (s : State) (g : ℕ) (f : SigKeep → SigKeep) (hs : Kept q n s) : Kept q n (State.updKeep s g f) := by
  unfold State.updKeep
  refine State.updSig_kept _ _ _ ?_
  assumption

theorem State.setDrv_kept (s : State) (p : ℕ) (d : Drv) (hs : Kept q n s) : Kept q n (State.setDrv s p d) := by
  unfold State.setDrv
  refine Kept.upd ?_ rfl rfl rfl rfl rfl rfl rfl rfl
  assumption

theorem State.updDrv_kept (s : State) (p : ℕ) (f : Drv → Drv) (hs : Kept q n s) : Kept q n (State.updDrv s p f) := by
  unfold State.updDrv
  refine State.setDrv_kept _ _ _ ?_
  assumption

theorem setMem_kept (g : ℕ) (d : ℕ) (m : Mem) (s : State) (hs : Kept q n s) : Kept q n (setMem g d m s) := by
  unfold setMem
  refine State.updKeep_kept _ _ _ ?_
  assumption

theorem State.setPair_kept (s : State) (p : ℕ) (q0 : Pair) (hs : Kept q n s) : Kept q n (State.setPair s p q0) := by
  unfold State.setPair
  refine Kept.upd ?_ rfl rfl rfl rfl rfl rfl rfl rfl
  assumption

theorem State.setEngine_kept (s : State) (e : ℕ) (q0 : Engine) (hs : Kept q n s) : Kept q n (State.setEngine s e q0) := by
  unfold State.setEngine
  refine Kept.upd ?_ rfl rfl rfl rfl rfl rfl rfl rfl
  assumption

theorem retire_kept (e : ℕ) (cause : ℕ) (s : State) (hs : Kept q n s) : Kept q n (retire e cause s) := by
  unfold retire
  extract_lets s1 s2 s3 s4
  have h2 : Kept q n s2 := by
    refine State.setEngine_kept _ _ _ ?_
    assumption
  clear_value s2
  have h4 : Kept q n s4 := by
    refine Kept.upd ?_ rfl rfl rfl rfl rfl rfl rfl rfl
    assumption
  clear_value s4
  refine State.log_kept _ _ _ _ ?_
  refine State.raise_kept _ _ _ ?_
  assumption

theorem releaseWithheld_kept (s : State) (hs : Kept q n s) : Kept q n (releaseWithheld s) := by
  unfold releaseWithheld
  refine Kept.ite ?_ ?_
  · assumption
  · refine Kept.upd ?_ rfl rfl rfl rfl rfl rfl rfl rfl
    assumption

theorem refill_kept (p : ℕ) (stay : ℕ) (s : State) (hs : Kept q n s) : Kept q n (refill p stay s) := by
  unfold refill
  split
  · extract_lets s1 s2
    refine State.bump_kept _ _ _ _ ?_
    refine State.setPair_kept _ _ _ ?_
    assumption
  · refine State.log_kept _ _ _ _ ?_
    refine State.raise_kept _ _ _ ?_
    refine State.setPair_kept _ _ _ ?_
    assumption

theorem doubleFault_kept (p : ℕ) (s : State) (hs : Kept q n s) : Kept q n (doubleFault p s) := by
  unfold doubleFault
  extract_lets s1 s2 s3 s4 s5
  have h3 : Kept q n s3 := by
    refine State.setPair_kept _ _ _ ?_
    assumption
  clear_value s3
  have h4 : Kept q n s4 := by
    refine State.log_kept _ _ _ _ ?_
    refine State.raise_kept _ _ _ ?_
    assumption
  clear_value s4
  split
  · extract_lets s6
    have h6 : Kept q n s6 := by
      refine State.setPair_kept _ _ _ ?_
      assumption
    clear_value s6
    refine State.log_kept _ _ _ _ ?_
    refine State.raise_kept _ _ _ ?_
    assumption
  · refine Kept.upd ?_ rfl rfl rfl rfl rfl rfl rfl rfl
    assumption

theorem reloaded_kept (p : ℕ) (transient : Bool) (s : State) (hs : Kept q n s) : Kept q n (reloaded p transient s) := by
  unfold reloaded
  refine State.setPair_kept _ _ _ ?_
  assumption

theorem verdict_kept (p : ℕ) (passA : Bool) (passB : Bool) (s : State) (hs : Kept q n s) : Kept q n (verdict p passA passB s) := by
  unfold verdict
  extract_lets s1
  split
  · extract_lets s2 s3 s4 s5 s6
    have h3 : Kept q n s3 := by
      unfold s3
      unfold s2
      refine State.log_kept _ _ _ _ ?_
      assumption
    clear_value s3
    have h6 : Kept q n s6 := by
      refine retire_kept _ _ _ ?_
      assumption
    clear_value s6
    split
    · refine Kept.ite ?_ ?_
      · refine Kept.ite ?_ ?_
        · refine doubleFault_kept _ _ ?_
          assumption
        · refine reloaded_kept _ _ _ ?_
          refine refill_kept _ _ _ ?_
          assumption
      · split
        · extract_lets s7
          refine reloaded_kept _ _ _ ?_
          refine refill_kept _ _ _ ?_
          refine State.setPair_kept _ _ _ ?_
          assumption
        · refine reloaded_kept _ _ _ ?_
          refine State.bump_kept _ _ _ _ ?_
          assumption
    · refine reloaded_kept _ _ _ ?_
      refine refill_kept _ _ _ ?_
      refine retire_kept _ _ _ ?_
      unfold s2
      refine State.log_kept _ _ _ _ ?_
      assumption
    · refine reloaded_kept _ _ _ ?_
      refine refill_kept _ _ _ ?_
      refine retire_kept _ _ _ ?_
      unfold s2
      refine State.log_kept _ _ _ _ ?_
      assumption
    · refine doubleFault_kept _ _ ?_
      refine retire_kept _ _ _ ?_
      refine retire_kept _ _ _ ?_
      unfold s2
      refine State.log_kept _ _ _ _ ?_
      assumption
  · assumption

theorem doSwitchOverVerdict_kept (p : ℕ) (passA : Bool) (passB : Bool) (s : State) (hs : Kept q n s) : Kept q n (doSwitchOverVerdict p passA passB s) := by
  unfold doSwitchOverVerdict
  extract_lets s1
  refine Kept.ite ?_ ?_
  · refine verdict_kept _ _ _ _ ?_
    assumption
  · assumption

theorem charge_kept (p : ℕ) (e : ℕ) (s : State) (hs : Kept q n s) : Kept q n (charge p e s) := by
  unfold charge
  extract_lets s1 s2 s3 s4
  have h3 : Kept q n s3 := by
    refine State.bump_kept _ _ _ _ ?_
    refine State.setEngine_kept _ _ _ ?_
    assumption
  clear_value s3
  refine Kept.ite ?_ ?_
  · refine State.setPair_kept _ _ _ ?_
    refine retire_kept _ _ _ ?_
    assumption
  · assumption

theorem doHeldImpressionRelease_kept (p : ℕ) (sigA : ℕ) (sigB : ℕ) (s : State) (hs : Kept q n s) : Kept q n (doHeldImpressionRelease p sigA sigB s) := by
  unfold doHeldImpressionRelease
  extract_lets s1 s2 s3 s4
  have h2 : Kept q n s2 := by
    refine State.setPair_kept _ _ _ ?_
    assumption
  clear_value s2
  have h3 : Kept q n s3 := by
    refine Kept.ite ?_ ?_
    · split
      · refine charge_kept _ _ _ ?_
        assumption
      · assumption
    · assumption
  clear_value s3
  have h4 : Kept q n s4 := by
    refine Kept.ite ?_ ?_
    · refine Kept.ite ?_ ?_
      · split
        · refine charge_kept _ _ _ ?_
          assumption
        · assumption
      · assumption
    · assumption
  clear_value s4
  refine Kept.ite ?_ ?_
  · refine releaseWithheld_kept _ ?_
    assumption
  · assumption

theorem doAdoptionRelease_kept (p : ℕ) (s : State) (hs : Kept q n s) : Kept q n (doAdoptionRelease p s) := by
  unfold doAdoptionRelease
  extract_lets s1 s2 s3
  have h2 : Kept q n s2 := by
    refine State.setPair_kept _ _ _ ?_
    assumption
  clear_value s2
  have h3 : Kept q n s3 := by
    refine Kept.ite ?_ ?_
    · refine Kept.upd ?_ rfl rfl rfl rfl rfl rfl rfl rfl
      assumption
    · assumption
  clear_value s3
  refine Kept.ite ?_ ?_
  · refine releaseWithheld_kept _ ?_
    assumption
  · assumption

theorem replaceMember_kept (p : ℕ) (s : State) (hs : Kept q n s) : Kept q n (replaceMember p s) := by
  unfold replaceMember
  extract_lets s1 s2
  have h2 : Kept q n s2 := by
    refine State.setPair_kept _ _ _ ?_
    assumption
  clear_value s2
  split
  · refine Kept.ite ?_ ?_
    · assumption
    · extract_lets s3
      clear_value s3
      split
      · extract_lets s4 s5
        have h4 : Kept q n s4 := by
          refine refill_kept _ _ _ ?_
          assumption
        clear_value s4
        refine State.setPair_kept _ _ _ ?_
        assumption
      · assumption
  · assumption

theorem advancePairs_kept (s : State) (hs : Kept q n s) : Kept q n (advancePairs s) := by
  unfold advancePairs
  extract_lets s1 s2
  have h2 : Kept q n s2 := by
    refine Kept.upd ?_ rfl rfl rfl rfl rfl rfl rfl rfl
    assumption
  clear_value s2
  refine Kept.foldl _ _ ?_ fun s x h => ?_
  · assumption
  · refine replaceMember_kept _ _ ?_
    assumption

theorem mismatch_kept (m : Mismatch) (s : State) (hs : Kept q n s) : Kept q n (mismatch m s) := by
  unfold mismatch
  extract_lets s1 s2 s3 s4
  split
  · refine Kept.ite ?_ ?_
    · assumption
    · unfold s4
      extract_lets s5
      have h5 : Kept q n s5 := by
        refine State.setPair_kept _ _ _ ?_
        assumption
      clear_value s5
      refine State.log_kept _ _ _ _ ?_
      refine State.raise_kept _ _ _ ?_
      refine State.bump_kept _ _ _ _ ?_
      refine faultItem_kept _ ?_
      assumption
  · refine Kept.ite ?_ ?_
    · unfold s4
      extract_lets s6
      have h6 : Kept q n s6 := by
        refine State.setPair_kept _ _ _ ?_
        assumption
      clear_value s6
      refine State.log_kept _ _ _ _ ?_
      refine State.raise_kept _ _ _ ?_
      refine State.bump_kept _ _ _ _ ?_
      refine faultItem_kept _ ?_
      assumption
    · assumption
  · refine Kept.ite ?_ ?_
    · refine Kept.ite ?_ ?_
      · refine doubleFault_kept _ _ ?_
        assumption
      · refine State.log_kept _ _ _ _ ?_
        refine State.setPair_kept _ _ _ ?_
        refine faultItem_kept _ ?_
        assumption
    · assumption
  · assumption

theorem lastMismatch_kept (ms : List Mismatch) (s : State) (hs : Kept q n s) : Kept q n (lastMismatch ms s) := by
  unfold lastMismatch
  extract_lets s1
  split
  · assumption
  · refine State.put_kept _ _ _ _ ?_
    refine State.put_kept _ _ _ _ ?_
    refine State.put_kept _ _ _ _ ?_
    assumption

theorem gate_kept (ms : List Mismatch) (s : State) (hs : Kept q n s) : Kept q n (gate ms s) := by
  unfold gate
  extract_lets s1 s2
  have h1 : Kept q n s1 := by
    refine advancePairs_kept _ ?_
    assumption
  clear_value s1
  refine lastMismatch_kept _ _ ?_
  refine Kept.foldl _ _ ?_ fun s x h => ?_
  · assumption
  · refine mismatch_kept _ _ ?_
    assumption

theorem doTransientHourRoll_kept (s : State) (hs : Kept q n s) : Kept q n (doTransientHourRoll s) := by
  unfold doTransientHourRoll
  refine Kept.ite ?_ ?_
  · refine Kept.upd ?_ rfl rfl rfl rfl rfl rfl rfl rfl
    assumption
  · assumption

theorem doSimplexSelfTest_kept (p : ℕ) (pass : Bool) (s : State) (hs : Kept q n s) : Kept q n (doSimplexSelfTest p pass s) := by
  unfold doSimplexSelfTest
  extract_lets s1 s2 s3
  have h2 : Kept q n s2 := by
    refine State.setPair_kept _ _ _ ?_
    assumption
  clear_value s2
  have h3 : Kept q n s3 := by
    unfold s3
    split
    · refine retire_kept _ _ _ ?_
      assumption
    · assumption
  clear_value s3
  refine Kept.ite ?_ ?_
  · refine Kept.ite ?_ ?_
    · assumption
    · refine doubleFault_kept _ _ ?_
      assumption
  · assumption

theorem doSpareSelfTest_kept (e : ℕ) (pass : Bool) (s : State) (hs : Kept q n s) : Kept q n (doSpareSelfTest e pass s) := by
  unfold doSpareSelfTest
  extract_lets s1 s2
  have h2 : Kept q n s2 := by
    refine State.setEngine_kept _ _ _ ?_
    assumption
  clear_value s2
  refine Kept.ite ?_ ?_
  · refine Kept.ite ?_ ?_
    · assumption
    · refine retire_kept _ _ _ ?_
      assumption
  · assumption

theorem doEngineRecordWrite_kept (s : State) (hs : Kept q n s) : Kept q n (doEngineRecordWrite s) := by
  unfold doEngineRecordWrite
  refine Kept.ite ?_ ?_
  · extract_lets s1 s2 s3
    have h2 : Kept q n s2 := by
      refine State.eachHalf_kept _ _ ?_
      assumption
    clear_value s2
    refine State.log_kept _ _ _ _ ?_
    refine Kept.upd ?_ rfl rfl rfl rfl rfl rfl rfl rfl
    assumption
  · assumption

theorem readEngineRecord_kept (s : State) (hs : Kept q n s) : Kept q n (readEngineRecord s) := by
  unfold readEngineRecord
  split
  · extract_lets s1 s2
    refine Kept.upd ?_ rfl rfl rfl rfl rfl rfl rfl rfl
    assumption
  · refine State.log_kept _ _ _ _ ?_
    refine State.raise_kept _ _ _ ?_
    assumption

theorem formPair_kept (taken : List ℕ) (p : ℕ) (ms : ℕ × ℕ) (s : State) (hs : Kept q n s) : Kept q n (formPair taken p ms s) := by
  unfold formPair
  extract_lets s1 s2 s3
  unfold s3
  split
  · extract_lets s4
    refine State.setPair_kept _ _ _ ?_
    assumption
  · refine State.log_kept _ _ _ _ ?_
    refine State.raise_kept _ _ _ ?_
    refine State.setPair_kept _ _ _ ?_
    assumption
  · refine State.setPair_kept _ _ _ ?_
    assumption

theorem formPairs_kept (map : List (ℕ × ℕ)) (s : State) (hs : Kept q n s) : Kept q n (formPairs map s) := by
  unfold formPairs
  extract_lets s1 s2 s3 s4
  have h3 : Kept q n s3 := by
    refine Kept.upd ?_ rfl rfl rfl rfl rfl rfl rfl rfl
    assumption
  clear_value s3
  have h4 : Kept q n s4 := by
    refine Kept.foldl _ _ ?_ fun s x h => ?_
    · assumption
    · refine formPair_kept _ _ _ _ ?_
      assumption
  clear_value s4
  refine Kept.foldl _ _ ?_ fun s x h => ?_
  · assumption
  · refine Kept.ite ?_ ?_
    · refine State.setPair_kept _ _ _ ?_
      assumption
    · assumption

theorem testEngines_kept (failed : List ℕ) (s : State) (hs : Kept q n s) : Kept q n (testEngines failed s) := by
  unfold testEngines
  extract_lets s1
  have h1 : Kept q n s1 := by
    refine Kept.foldl _ _ ?_ fun s x h => ?_
    · assumption
    · extract_lets s2
      refine Kept.ite ?_ ?_
      · refine retire_kept _ _ _ ?_
        refine State.setEngine_kept _ _ _ ?_
        assumption
      · refine State.setEngine_kept _ _ _ ?_
        assumption
  clear_value s1
  refine formPairs_kept _ _ ?_
  assumption

end Sys2Proof.Machine
end

