-- ==== Sys2Proof/Laws/KeptFront.lean ====
section
/-!
SUPPORT. What every operation keeps (Laws/Kept.lean): the front end, the hellbox, the Fount, the scheduler, and write commands.
-/

namespace Sys2Proof.Machine

variable {q : List Instr} {n : Nat}

theorem State.updConn_kept (s : State) (c : ℕ) (f : Conn → Conn) (hs : Kept q n s) : Kept q n (State.updConn s c f) := by
  unfold State.updConn
  split
  · refine Kept.upd ?_ rfl rfl rfl rfl rfl rfl rfl rfl
    assumption
  · assumption

theorem State.setCmd_kept (s : State) (k : ℕ) (c : Cmd) (hs : Kept q n s) : Kept q n (State.setCmd s k c) := by
  unfold State.setCmd
  refine Kept.upd ?_ rfl rfl rfl rfl rfl rfl rfl rfl
  assumption

theorem State.updCmd_kept (s : State) (k : ℕ) (f : Cmd → Cmd) (hs : Kept q n s) : Kept q n (State.updCmd s k f) := by
  unfold State.updCmd
  split
  · refine State.setCmd_kept _ _ _ ?_
    assumption
  · assumption

theorem State.updCtrl_kept (s : State) (c : ℕ) (f : Ctrl → Ctrl) (hs : Kept q n s) : Kept q n (State.updCtrl s c f) := by
  unfold State.updCtrl
  split
  · refine Kept.upd ?_ rfl rfl rfl rfl rfl rfl rfl rfl
    assumption
  · assumption

theorem State.updFe_kept (s : State) (p : ℕ) (f : FePort → FePort) (hs : Kept q n s) : Kept q n (State.updFe s p f) := by
  unfold State.updFe
  refine Kept.upd ?_ rfl rfl rfl rfl rfl rfl rfl rfl
  assumption

theorem transmit_kept (p : ℕ) (o : Out) (s : State) (hs : Kept q n s) : Kept q n (transmit p o s) := by
  unfold transmit
  refine Kept.ite ?_ ?_
  · refine State.updFe_kept _ _ _ ?_
    assumption
  · refine State.emit_kept _ _ ?_
    assumption

theorem State.pdu_kept (s : State) (conn : ℕ) (o : Out) (hs : Kept q n s) : Kept q n (State.pdu s conn o) := by
  unfold State.pdu
  refine Kept.ite ?_ ?_
  · refine Kept.upd ?_ rfl rfl rfl rfl rfl rfl rfl rfl
    assumption
  · split
    · refine transmit_kept _ _ _ ?_
      assumption
    · refine State.emit_kept _ _ ?_
      assumption

theorem sendFrame_kept (p : ℕ) (f : FrameOut) (s : State) (hs : Kept q n s) : Kept q n (sendFrame p f s) := by
  unfold sendFrame
  refine State.updFe_kept _ _ _ ?_
  refine State.bump_kept _ _ _ _ ?_
  refine transmit_kept _ _ _ ?_
  assumption

theorem sendControl_kept (p : ℕ) (f : FrameOut) (s : State) (hs : Kept q n s) : Kept q n (sendControl p f s) := by
  unfold sendControl
  refine State.updFe_kept _ _ _ ?_
  refine State.bump_kept _ _ _ _ ?_
  refine State.emit_kept _ _ ?_
  assumption

theorem logError_kept (conn : ℕ) (cid : ℕ) (sct : ℕ) (sc : ℕ) (lba : ℕ) (ns : ℕ) (s : State) (hs : Kept q n s) : Kept q n (logError conn cid sct sc lba ns s) := by
  unfold logError
  split
  · refine State.updCtrl_kept _ _ _ ?_
    assumption
  · assumption

theorem respond_kept (conn : ℕ) (cid : ℕ) (sct : ℕ) (sc : ℕ) (dw0 : ℕ) (s : State) (hs : Kept q n s) : Kept q n (respond conn cid sct sc dw0 s) := by
  unfold respond
  extract_lets s1
  have h1 : Kept q n s1 := by
    refine State.pdu_kept _ _ _ ?_
    assumption
  clear_value s1
  refine Kept.ite ?_ ?_
  · assumption
  · refine logError_kept _ _ _ _ _ _ _ ?_
    assumption

theorem removeCmd_kept (k : ℕ) (s : State) (hs : Kept q n s) : Kept q n (removeCmd k s) := by
  unfold removeCmd
  split
  · assumption
  · extract_lets s1
    have h1 : Kept q n s1 := by
      refine Kept.upd ?_ rfl rfl rfl rfl rfl rfl rfl rfl
      assumption
    clear_value s1
    refine Kept.ite ?_ ?_
    · refine State.updZone_kept _ _ _ ?_
      assumption
    · assumption

theorem endCmd_kept (k : ℕ) (sct : ℕ) (sc : ℕ) (dw0 : ℕ) (s : State) (hs : Kept q n s) : Kept q n (endCmd k sct sc dw0 s) := by
  unfold endCmd
  split
  · assumption
  · extract_lets s1
    have h1 : Kept q n s1 := by
      refine removeCmd_kept _ _ ?_
      assumption
    clear_value s1
    refine Kept.ite ?_ ?_
    · assumption
    · refine respond_kept _ _ _ _ _ _ ?_
      assumption

theorem endCmdAt_kept (k : ℕ) (sct : ℕ) (sc : ℕ) (lba : ℕ) (s : State) (hs : Kept q n s) : Kept q n (endCmdAt k sct sc lba s) := by
  unfold endCmdAt
  split
  · assumption
  · extract_lets s1
    have h1 : Kept q n s1 := by
      refine removeCmd_kept _ _ ?_
      assumption
    clear_value s1
    refine Kept.ite ?_ ?_
    · assumption
    · refine logError_kept _ _ _ _ _ _ _ ?_
      refine State.pdu_kept _ _ _ ?_
      assumption

theorem notice_kept (bit : ℕ) (who : ℕ → Ctrl → Bool) (s : State) (hs : Kept q n s) : Kept q n (notice bit who s) := by
  unfold notice
  refine Kept.upd ?_ rfl rfl rfl rfl rfl rfl rfl rfl
  assumption

theorem deliverTo_kept (i : ℕ) (s : State) (hs : Kept q n s) : Kept q n (deliverTo i s) := by
  unfold deliverTo
  split
  · assumption
  · extract_lets s1 s2
    have h2 : Kept q n s2 := by
      refine State.updCtrl_kept _ _ _ ?_
      assumption
    clear_value s2
    refine Kept.foldl _ _ ?_ fun s x h => ?_
    · assumption
    · refine endCmd_kept _ _ _ _ _ ?_
      assumption

theorem deliverAll_kept (s : State) (hs : Kept q n s) : Kept q n (deliverAll s) := by
  unfold deliverAll
  refine Kept.foldl _ _ ?_ fun s x h => ?_
  · assumption
  · refine deliverTo_kept _ _ ?_
    assumption

theorem zoneChanged_kept (k : ℕ) (s : State) (hs : Kept q n s) : Kept q n (zoneChanged k s) := by
  unfold zoneChanged
  extract_lets s1 s2
  have h2 : Kept q n s2 := by
    refine notice_kept _ _ _ ?_
    assumption
  clear_value s2
  refine Kept.upd ?_ rfl rfl rfl rfl rfl rfl rfl rfl
  assumption

theorem countZn_kept (off : ℕ) (s : State) (hs : Kept q n s) : Kept q n (countZn off s) := by
  unfold countZn
  refine Kept.upd ?_ rfl rfl rfl rfl rfl rfl rfl rfl
  assumption

theorem useNbr_kept (p : ℕ) (a : NetAddr) (s : State) (hs : Kept q n s) : Kept q n (useNbr p a s) := by
  unfold useNbr
  extract_lets s1
  refine State.updFe_kept _ _ _ ?_
  assumption

theorem silence_kept (k : ℕ) (c : Cmd) (s : State) (hs : Kept q n s) : Kept q n (silence k c s) := by
  unfold silence
  extract_lets s1 s2
  refine Kept.upd ?_ rfl rfl rfl rfl rfl rfl rfl rfl
  assumption

theorem closeCmd_kept (s : State) (k : ℕ) (hs : Kept q n s) : Kept q n (closeCmd s k) := by
  unfold closeCmd
  split
  · assumption
  · extract_lets s1 s2
    have h2 : Kept q n s2 := by
      refine removeCmd_kept _ _ ?_
      assumption
    clear_value s2
    refine Kept.ite ?_ ?_
    · refine silence_kept _ _ _ ?_
      assumption
    · refine Kept.ite ?_ ?_
      · refine Kept.foldl _ _ ?_ fun s x h => ?_
        · assumption
        · refine State.updZone_kept _ _ _ ?_
          assumption
      · assumption

theorem closeOne_kept (i : ℕ) (s : State) (hs : Kept q n s) : Kept q n (closeOne i s) := by
  unfold closeOne
  split
  · assumption
  · extract_lets s1 s2
    have h1 : Kept q n s1 := by
      refine Kept.foldl _ _ ?_ fun s x h => ?_
      · assumption
      · refine closeCmd_kept _ _ ?_
        assumption
    clear_value s1
    refine Kept.upd ?_ rfl rfl rfl rfl rfl rfl rfl rfl
    assumption

theorem closeConn_kept (i : ℕ) (s : State) (hs : Kept q n s) : Kept q n (closeConn i s) := by
  unfold closeConn
  split
  · assumption
  · refine Kept.ite ?_ ?_
    · extract_lets s1
      have h1 : Kept q n s1 := by
        refine Kept.foldl _ _ ?_ fun s x h => ?_
        · assumption
        · refine closeOne_kept _ _ ?_
          assumption
      clear_value s1
      refine Kept.upd ?_ rfl rfl rfl rfl rfl rfl rfl rfl
      assumption
    · refine closeOne_kept _ _ ?_
      assumption

theorem closePort_kept (p : ℕ) (s : State) (hs : Kept q n s) : Kept q n (closePort p s) := by
  unfold closePort
  refine Kept.foldl _ _ ?_ fun s x h => ?_
  · assumption
  · refine closeConn_kept _ _ ?_
    assumption

theorem closeAll_kept (s : State) (hs : Kept q n s) : Kept q n (closeAll s) := by
  unfold closeAll
  refine Kept.foldl _ _ ?_ fun s x h => ?_
  · assumption
  · refine closeConn_kept _ _ ?_
    assumption

theorem terminate_kept (i : ℕ) (fes : ℕ) (fei : ℕ) (s : State) (hs : Kept q n s) : Kept q n (terminate i fes fei s) := by
  unfold terminate
  extract_lets s1
  have h1 : Kept q n s1 := by
    refine State.pdu_kept _ _ _ ?_
    assumption
  clear_value s1
  refine closeConn_kept _ _ ?_
  refine State.log_kept _ _ _ _ ?_
  refine State.raise_kept _ _ _ ?_
  assumption

theorem setLink_kept (p : ℕ) (up : Bool) (s : State) (hs : Kept q n s) : Kept q n (setLink p up s) := by
  unfold setLink
  extract_lets s1
  have h1 : Kept q n s1 := by
    refine State.putB_kept _ _ _ _ ?_
    refine State.putB_kept _ _ _ _ ?_
    assumption
  clear_value s1
  refine State.putB_kept _ _ _ _ ?_
  refine State.putB_kept _ _ _ _ ?_
  assumption

theorem declareLink_kept (p : ℕ) (up : Bool) (s : State) (hs : Kept q n s) : Kept q n (declareLink p up s) := by
  unfold declareLink
  refine State.log_kept _ _ _ _ ?_
  refine State.raise_kept _ _ _ ?_
  refine setLink_kept _ _ _ ?_
  assumption

theorem doLinkUp_kept (p : ℕ) (s : State) (hs : Kept q n s) : Kept q n (doLinkUp p s) := by
  unfold doLinkUp
  refine Kept.ite ?_ ?_
  · extract_lets s1 s2 s3 s4
    have h1 : Kept q n s1 := by
      refine State.putB_kept _ _ _ _ ?_
      refine declareLink_kept _ _ _ ?_
      assumption
    clear_value s1
    have h3 : Kept q n s3 := by
      unfold s3
      split
      · refine sendFrame_kept _ _ _ ?_
        assumption
      · assumption
    clear_value s3
    have h4 : Kept q n s4 := by
      refine Kept.foldl _ _ ?_ fun s x h => ?_
      · assumption
      · refine sendFrame_kept _ _ _ ?_
        assumption
    clear_value s4
    refine State.updFe_kept _ _ _ ?_
    assumption
  · assumption

theorem doLinkLoss_kept (p : ℕ) (s : State) (hs : Kept q n s) : Kept q n (doLinkLoss p s) := by
  unfold doLinkLoss
  refine Kept.ite ?_ ?_
  · refine State.updFe_kept _ _ _ ?_
    refine declareLink_kept _ _ _ ?_
    assumption
  · assumption

theorem doLinkHoldExpired_kept (p : ℕ) (s : State) (hs : Kept q n s) : Kept q n (doLinkHoldExpired p s) := by
  unfold doLinkHoldExpired
  split
  · refine Kept.ite ?_ ?_
    · refine closePort_kept _ _ ?_
      refine State.updFe_kept _ _ _ ?_
      assumption
    · assumption
  · assumption

theorem dropPort_kept (p : ℕ) (s : State) (hs : Kept q n s) : Kept q n (dropPort p s) := by
  unfold dropPort
  extract_lets s1
  have h1 : Kept q n s1 := by
    refine Kept.ite ?_ ?_
    · refine declareLink_kept _ _ _ ?_
      assumption
    · assumption
  clear_value s1
  refine closePort_kept _ _ ?_
  refine State.updFe_kept _ _ _ ?_
  assumption

theorem clearPortCounters_kept (p : ℕ) (s : State) (hs : Kept q n s) : Kept q n (clearPortCounters p s) := by
  unfold clearPortCounters
  refine Kept.foldl _ _ ?_ fun s x h => ?_
  · assumption
  · refine State.put_kept _ _ _ _ ?_
    assumption

theorem doFePortReset_kept (p : ℕ) (s : State) (hs : Kept q n s) : Kept q n (doFePortReset p s) := by
  unfold doFePortReset
  extract_lets s1
  have h1 : Kept q n s1 := by
    refine clearPortCounters_kept _ _ ?_
    refine dropPort_kept _ _ ?_
    refine State.pulse_kept _ _ _ ?_
    assumption
  clear_value s1
  refine State.putB_kept _ _ _ _ ?_
  refine State.putB_kept _ _ _ _ ?_
  refine State.putB_kept _ _ _ _ ?_
  assumption

theorem doPortEnable_kept (p : ℕ) (s : State) (hs : Kept q n s) : Kept q n (doPortEnable p s) := by
  unfold doPortEnable
  refine Kept.ite ?_ ?_
  · assumption
  · extract_lets s1 s2
    have h2 : Kept q n s2 := by
      refine State.putB_kept _ _ _ _ ?_
      refine State.putB_kept _ _ _ _ ?_
      refine State.putB_kept _ _ _ _ ?_
      assumption
    clear_value s2
    refine Kept.ite ?_ ?_
    · refine State.putB_kept _ _ _ _ ?_
      assumption
    · refine State.updFe_kept _ _ _ ?_
      assumption

theorem doPortDisable_kept (p : ℕ) (s : State) (hs : Kept q n s) : Kept q n (doPortDisable p s) := by
  unfold doPortDisable
  refine Kept.ite ?_ ?_
  · refine clearPortCounters_kept _ _ ?_
    refine State.putB_kept _ _ _ _ ?_
    refine dropPort_kept _ _ ?_
    assumption
  · assumption

theorem feOff_kept (s : State) (hs : Kept q n s) : Kept q n (feOff s) := by
  unfold feOff
  refine Kept.foldl _ _ ?_ fun s x h => ?_
  · assumption
  · refine dropPort_kept _ _ ?_
    assumption

theorem dropFrame_kept (p : ℕ) (s : State) (hs : Kept q n s) : Kept q n (dropFrame p s) := by
  unfold dropFrame
  refine State.updFe_kept _ _ _ ?_
  refine State.bump_kept _ _ _ _ ?_
  assumption

theorem xoffCheck_kept (p : ℕ) (s : State) (hs : Kept q n s) : Kept q n (xoffCheck p s) := by
  unfold xoffCheck
  refine Kept.ite ?_ ?_
  · refine State.updFe_kept _ _ _ ?_
    refine State.bump_kept _ _ _ _ ?_
    refine sendControl_kept _ _ _ ?_
    assumption
  · assumption

theorem takePayload_kept (p : ℕ) (s : State) (x2 : FramePayload) (hs : Kept q n s) : Kept q n (takePayload p s x2) := by
  unfold takePayload
  split
  · split
    · refine Kept.ite ?_ ?_
      · assumption
      · refine Kept.ite ?_ ?_
        · refine dropFrame_kept _ _ ?_
          assumption
        · refine State.updConn_kept _ _ _ ?_
          assumption
    · assumption
  · refine Kept.ite ?_ ?_
    · refine terminate_kept _ _ _ _ ?_
      assumption
    · assumption
  · refine dropFrame_kept _ _ ?_
    assumption
  · refine Kept.ite ?_ ?_
    · refine dropFrame_kept _ _ ?_
      assumption
    · assumption
  · refine dropFrame_kept _ _ ?_
    assumption
  · assumption
  · assumption
  · assumption

theorem doFrameReceived_kept (p : ℕ) (f : Frame) (s : State) (hs : Kept q n s) : Kept q n (doFrameReceived p f s) := by
  unfold doFrameReceived
  refine Kept.ite ?_ ?_
  · assumption
  · extract_lets s1
    have h1 : Kept q n s1 := by
      refine State.updFe_kept _ _ _ ?_
      refine State.bump_kept _ _ _ _ ?_
      assumption
    clear_value s1
    refine Kept.ite ?_ ?_
    · refine State.updFe_kept _ _ _ ?_
      refine State.bump_kept _ _ _ _ ?_
      assumption
    · refine Kept.ite ?_ ?_
      · refine dropFrame_kept _ _ ?_
        assumption
      · refine Kept.ite ?_ ?_
        · assumption
        · refine Kept.ite ?_ ?_
          · assumption
          · refine Kept.ite ?_ ?_
            · assumption
            · refine takePayload_kept _ _ _ ?_
              refine xoffCheck_kept _ _ ?_
              refine State.updFe_kept _ _ _ ?_
              assumption

theorem doXoffRefresh_kept (p : ℕ) (s : State) (hs : Kept q n s) : Kept q n (doXoffRefresh p s) := by
  unfold doXoffRefresh
  extract_lets s1
  refine Kept.ite ?_ ?_
  · refine State.updFe_kept _ _ _ ?_
    refine State.bump_kept _ _ _ _ ?_
    refine sendControl_kept _ _ _ ?_
    assumption
  · assumption

theorem doXonSend_kept (p : ℕ) (s : State) (hs : Kept q n s) : Kept q n (doXonSend p s) := by
  unfold doXonSend
  extract_lets s1
  refine Kept.ite ?_ ?_
  · refine State.updFe_kept _ _ _ ?_
    refine sendControl_kept _ _ _ ?_
    assumption
  · assumption

theorem doPfcFrameReceived_kept (p : ℕ) (prio : ℕ) (quanta : ℕ) (s : State) (hs : Kept q n s) : Kept q n (doPfcFrameReceived p prio quanta s) := by
  unfold doPfcFrameReceived
  refine Kept.ite ?_ ?_
  · refine State.updFe_kept _ _ _ ?_
    assumption
  · assumption

theorem doPfcPauseExpired_kept (p : ℕ) (s : State) (hs : Kept q n s) : Kept q n (doPfcPauseExpired p s) := by
  unfold doPfcPauseExpired
  split
  · refine Kept.ite ?_ ?_
    · extract_lets s1
      have h1 : Kept q n s1 := by
        refine State.updFe_kept _ _ _ ?_
        assumption
      clear_value s1
      refine Kept.upd ?_ rfl rfl rfl rfl rfl rfl rfl rfl
      assumption
    · assumption
  · assumption

theorem doArpRequest_kept (p : ℕ) (target : ℕ) (s : State) (hs : Kept q n s) : Kept q n (doArpRequest p target s) := by
  unfold doArpRequest
  refine Kept.ite ?_ ?_
  · refine sendFrame_kept _ _ _ ?_
    assumption
  · assumption

theorem doNeighborSolicitation_kept (p : ℕ) (target : ℕ) (s : State) (hs : Kept q n s) : Kept q n (doNeighborSolicitation p target s) := by
  unfold doNeighborSolicitation
  refine Kept.ite ?_ ?_
  · refine sendFrame_kept _ _ _ ?_
    assumption
  · assumption

theorem doArpReplyClaim_kept (p : ℕ) (addr : ℕ) (s : State) (hs : Kept q n s) : Kept q n (doArpReplyClaim p addr s) := by
  unfold doArpReplyClaim
  refine Kept.ite ?_ ?_
  · refine State.log_kept _ _ _ _ ?_
    refine State.raise_kept _ _ _ ?_
    refine State.putB_kept _ _ _ _ ?_
    assumption
  · assumption

theorem doNeighbourCacheAgeOut_kept (p : ℕ) (a : NetAddr) (s : State) (hs : Kept q n s) : Kept q n (doNeighbourCacheAgeOut p a s) := by
  unfold doNeighbourCacheAgeOut
  refine State.updFe_kept _ _ _ ?_
  assumption

theorem doDuplicateAddressDetectionDone_kept (p : ℕ) (dup : Bool) (s : State) (hs : Kept q n s) : Kept q n (doDuplicateAddressDetectionDone p dup s) := by
  unfold doDuplicateAddressDetectionDone
  split
  · refine Kept.ite ?_ ?_
    · extract_lets s1
      have h1 : Kept q n s1 := by
        refine State.putB_kept _ _ _ _ ?_
        refine State.updFe_kept _ _ _ ?_
        assumption
      clear_value s1
      refine Kept.ite ?_ ?_
      · refine State.log_kept _ _ _ _ ?_
        refine State.raise_kept _ _ _ ?_
        assumption
      · assumption
    · assumption
  · assumption

theorem doEchoRequest_kept (p : ℕ) (a : NetAddr) (n0 : ℕ) (s : State) (hs : Kept q n s) : Kept q n (doEchoRequest p a n0 s) := by
  unfold doEchoRequest
  refine Kept.ite ?_ ?_
  · refine sendFrame_kept _ _ _ ?_
    assumption
  · assumption

theorem doSynReceived_kept (x : Syn) (s : State) (hs : Kept q n s) : Kept q n (doSynReceived x s) := by
  unfold doSynReceived
  extract_lets s1 s2 s3 s4 s5 s6 s7 s8
  have h3 : Kept q n s3 := by
    refine useNbr_kept _ _ _ ?_
    assumption
  clear_value s3
  have h8 : Kept q n s8 := by
    refine Kept.upd ?_ rfl rfl rfl rfl rfl rfl rfl rfl
    assumption
  clear_value s8
  refine Kept.ite ?_ ?_
  · assumption
  · refine Kept.ite ?_ ?_
    · refine sendFrame_kept _ _ _ ?_
      assumption
    · refine Kept.ite ?_ ?_
      · refine State.log_kept _ _ _ _ ?_
        refine State.raise_kept _ _ _ ?_
        refine State.bump_kept _ _ _ _ ?_
        refine sendFrame_kept _ _ _ ?_
        assumption
      · refine sendFrame_kept _ _ _ ?_
        assumption

theorem doRetransmissionTimeout_kept (i : ℕ) (s : State) (hs : Kept q n s) : Kept q n (doRetransmissionTimeout i s) := by
  unfold doRetransmissionTimeout
  split
  · assumption
  · refine Kept.ite ?_ ?_
    · refine closeConn_kept _ _ ?_
      refine sendFrame_kept _ _ _ ?_
      assumption
    · extract_lets s1
      have h1 : Kept q n s1 := by
        refine State.updFe_kept _ _ _ ?_
        refine State.bump_kept _ _ _ _ ?_
        assumption
      clear_value s1
      refine State.updConn_kept _ _ _ ?_
      assumption

theorem doIcreqTimeout_kept (i : ℕ) (s : State) (hs : Kept q n s) : Kept q n (doIcreqTimeout i s) := by
  unfold doIcreqTimeout
  split
  · refine Kept.ite ?_ ?_
    · refine closeConn_kept _ _ ?_
      assumption
    · assumption
  · assumption

theorem doTcpConnectionClosed_kept (i : ℕ) (_reset : Bool) (s : State) (hs : Kept q n s) : Kept q n (doTcpConnectionClosed i _reset s) := by
  unfold doTcpConnectionClosed
  refine closeConn_kept _ _ ?_
  assumption

theorem doH2ctermreq_kept (i : ℕ) (fes : ℕ) (s : State) (hs : Kept q n s) : Kept q n (doH2ctermreq i fes s) := by
  unfold doH2ctermreq
  refine Kept.ite ?_ ?_
  · refine closeConn_kept _ _ ?_
    refine State.log_kept _ _ _ _ ?_
    refine State.raise_kept _ _ _ ?_
    assumption
  · assumption

theorem doAuthFailClose_kept (i : ℕ) (s : State) (hs : Kept q n s) : Kept q n (doAuthFailClose i s) := by
  unfold doAuthFailClose
  split
  · refine Kept.ite ?_ ?_
    · refine closeConn_kept _ _ ?_
      assumption
    · assumption
  · assumption

theorem doKeepAliveExpired_kept (c : ℕ) (s : State) (hs : Kept q n s) : Kept q n (doKeepAliveExpired c s) := by
  unfold doKeepAliveExpired
  split
  · refine Kept.ite ?_ ?_
    · refine closeConn_kept _ _ ?_
      refine State.log_kept _ _ _ _ ?_
      assumption
    · assumption
  · assumption

theorem doConnSel_kept (v : ℕ) (s : State) (hs : Kept q n s) : Kept q n (doConnSel v s) := by
  unfold doConnSel
  extract_lets s1 s2 s3 s4 s5 s6 s7
  have h2 : Kept q n s2 := by
    refine State.put_kept _ _ _ _ ?_
    assumption
  clear_value s2
  have h5 : Kept q n s5 := by
    refine State.putB_kept _ _ _ _ ?_
    refine State.put_kept _ _ _ _ ?_
    refine State.putB_kept _ _ _ _ ?_
    assumption
  clear_value s5
  have h6 : Kept q n s6 := by
    refine State.putB_kept _ _ _ _ ?_
    refine State.putB_kept _ _ _ _ ?_
    refine State.putB_kept _ _ _ _ ?_
    assumption
  clear_value s6
  have h7 : Kept q n s7 := by
    refine State.put_kept _ _ _ _ ?_
    refine State.put_kept _ _ _ _ ?_
    assumption
  clear_value s7
  refine State.put_kept _ _ _ _ ?_
  refine State.put_kept _ _ _ _ ?_
  assumption

theorem doConnDrop_kept (s : State) (hs : Kept q n s) : Kept q n (doConnDrop s) := by
  unfold doConnDrop
  refine closeConn_kept _ _ ?_
  refine State.pulse_kept _ _ _ ?_
  assumption

theorem hbFit_kept (no : Option ℕ) (g : ℕ) (s : State) (hs : Kept q n s) : Kept q n (hbFit no g s) := by
  unfold hbFit
  extract_lets s1
  refine Kept.ite ?_ ?_
  · assumption
  · split
    · assumption
    · extract_lets s2 s3
      have h2 : Kept q n s2 := by
        refine State.updKeep_kept _ _ _ ?_
        assumption
      clear_value s2
      refine State.log_kept _ _ _ _ ?_
      refine State.raise_kept _ _ _ ?_
      assumption

theorem damageZone_kept (k : ℕ) (s : State) (hs : Kept q n s) : Kept q n (damageZone k s) := by
  unfold damageZone
  extract_lets s1 s2 s3 s4 s5 s6
  have h2 : Kept q n s2 := by
    refine State.updZone_kept _ _ _ ?_
    assumption
  clear_value s2
  have h4 : Kept q n s4 := by
    refine Kept.upd ?_ rfl rfl rfl rfl rfl rfl rfl rfl
    assumption
  clear_value s4
  have h5 : Kept q n s5 := by
    refine countZn_kept _ _ ?_
    refine State.updZone_kept _ _ _ ?_
    assumption
  clear_value s5
  have h6 : Kept q n s6 := by
    refine State.raise_kept _ _ _ ?_
    refine zoneChanged_kept _ _ ?_
    assumption
  clear_value s6
  refine Kept.ite ?_ ?_
  · refine Kept.ite ?_ ?_
    · assumption
    · refine State.log_kept _ _ _ _ ?_
      assumption
  · assumption

theorem hbAddRun_kept (g : ℕ) (cause : ℕ) (s : State) (r : ℕ × ℕ) (hs : Kept q n s) : Kept q n (hbAddRun g cause s r) := by
  unfold hbAddRun
  extract_lets s1 s2 s3 s4 s5
  have h1 : Kept q n s1 := by
    refine State.updKeep_kept _ _ _ ?_
    assumption
  clear_value s1
  have h2 : Kept q n s2 := by
    refine hbFit_kept _ _ _ ?_
    refine State.updSig_kept _ _ _ ?_
    assumption
  clear_value s2
  have h3 : Kept q n s3 := by
    refine State.log_kept _ _ _ _ ?_
    refine State.raise_kept _ _ _ ?_
    assumption
  clear_value s3
  have h4 : Kept q n s4 := by
    refine Kept.upd ?_ rfl rfl rfl rfl rfl rfl rfl rfl
    assumption
  clear_value s4
  refine Kept.foldl _ _ ?_ fun s x h => ?_
  · assumption
  · refine damageZone_kept _ _ ?_
    assumption

theorem hbAdd_kept (g : ℕ) (cause : ℕ) (lbns : List ℕ) (s : State) (hs : Kept q n s) : Kept q n (hbAdd g cause lbns s) := by
  unfold hbAdd
  extract_lets s1 s2
  have h2 : Kept q n s2 := by
    refine Kept.foldl _ _ ?_ fun s x h => ?_
    · assumption
    · refine hbAddRun_kept _ _ _ _ ?_
      assumption
  clear_value s2
  refine Kept.foldl _ _ ?_ fun s x h => ?_
  · assumption
  · extract_lets s3
    refine State.updSig_kept _ _ _ ?_
    assumption

theorem hbRemove_kept (g : ℕ) (lbns : List ℕ) (s : State) (hs : Kept q n s) : Kept q n (hbRemove g lbns s) := by
  unfold hbRemove
  extract_lets s1 s2 s3
  have h2 : Kept q n s2 := by
    refine Kept.foldl _ _ ?_ fun s x h => ?_
    · assumption
    · extract_lets s4
      refine hbFit_kept _ _ _ ?_
      refine State.updKeep_kept _ _ _ ?_
      assumption
  clear_value s2
  have h3 : Kept q n s3 := by
    refine Kept.foldl _ _ ?_ fun s x h => ?_
    · assumption
    · refine State.log_kept _ _ _ _ ?_
      assumption
  clear_value s3
  refine Kept.ite ?_ ?_
  · assumption
  · refine State.updSig_kept _ _ _ ?_
    assumption

theorem hbClear_kept (g : ℕ) (lo : ℕ) (n0 : ℕ) (s : State) (hs : Kept q n s) : Kept q n (hbClear g lo n0 s) := by
  unfold hbClear
  extract_lets s1 s2 s3
  have h3 : Kept q n s3 := by
    refine State.updSig_kept _ _ _ ?_
    assumption
  clear_value s3
  refine Kept.ite ?_ ?_
  · assumption
  · refine Kept.foldl _ _ ?_ fun s x h => ?_
    · assumption
    · extract_lets s4
      refine State.log_kept _ _ _ _ ?_
      assumption

theorem doHbSel_kept (g : ℕ) (v : ℕ) (s : State) (hs : Kept q n s) : Kept q n (doHbSel g v s) := by
  unfold doHbSel
  extract_lets s1 s2 s3 s4 s5 s6 s7 s8
  have h2 : Kept q n s2 := by
    refine State.put_kept _ _ _ _ ?_
    assumption
  clear_value s2
  have h5 : Kept q n s5 := by
    refine State.putB_kept _ _ _ _ ?_
    assumption
  clear_value s5
  have h6 : Kept q n s6 := by
    refine State.put_kept _ _ _ _ ?_
    refine State.put_kept _ _ _ _ ?_
    assumption
  clear_value s6
  have h7 : Kept q n s7 := by
    refine State.put_kept _ _ _ _ ?_
    refine State.put_kept _ _ _ _ ?_
    assumption
  clear_value s7
  refine State.put_kept _ _ _ _ ?_
  refine State.putB_kept _ _ _ _ ?_
  assumption

theorem latchGsb_kept (s : State) (hs : Kept q n s) : Kept q n (latchGsb s) := by
  unfold latchGsb
  extract_lets s1
  refine Kept.foldl _ _ ?_ fun s x h => ?_
  · assumption
  · refine State.put_kept _ _ _ _ ?_
    assumption

theorem refreshGsb_kept (s : State) (hs : Kept q n s) : Kept q n (refreshGsb s) := by
  unfold refreshGsb
  extract_lets s1 s2
  have h2 : Kept q n s2 := by
    refine latchGsb_kept _ ?_
    refine Kept.upd ?_ rfl rfl rfl rfl rfl rfl rfl rfl
    assumption
  clear_value s2
  refine State.ibi_kept _ _ ?_
  refine State.put_kept _ _ _ _ ?_
  assumption

theorem takeGsb_kept (bs : List ℕ) (s : State) (hs : Kept q n s) : Kept q n (takeGsb bs s) := by
  unfold takeGsb
  extract_lets s1 s2 s3 s4 s5 s6 s7
  have h3 : Kept q n s3 := by
    refine State.put_kept _ _ _ _ ?_
    assumption
  clear_value s3
  have h4 : Kept q n s4 := by
    refine State.put_kept _ _ _ _ ?_
    assumption
  clear_value s4
  have h5 : Kept q n s5 := by
    refine State.put_kept _ _ _ _ ?_
    assumption
  clear_value s5
  have h7 : Kept q n s7 := by
    refine Kept.upd ?_ rfl rfl rfl rfl rfl rfl rfl rfl
    assumption
  clear_value s7
  refine refreshGsb_kept _ ?_
  refine State.putB_kept _ _ _ _ ?_
  assumption

theorem judgeGsbLoad_kept (s : State) (hs : Kept q n s) : Kept q n (judgeGsbLoad s) := by
  unfold judgeGsbLoad
  extract_lets s1 s2 s3
  have h2 : Kept q n s2 := by
    refine State.settle_kept _ _ _ ?_
    assumption
  clear_value s2
  refine Kept.ite ?_ ?_
  · refine State.log_kept _ _ _ _ ?_
    refine takeGsb_kept _ _ ?_
    refine Kept.upd ?_ rfl rfl rfl rfl rfl rfl rfl rfl
    assumption
  · refine State.log_kept _ _ _ _ ?_
    refine State.raise_kept _ _ _ ?_
    refine Kept.upd ?_ rfl rfl rfl rfl rfl rfl rfl rfl
    assumption

theorem judgeGsbNone_kept (s : State) (hs : Kept q n s) : Kept q n (judgeGsbNone s) := by
  unfold judgeGsbNone
  refine State.log_kept _ _ _ _ ?_
  refine State.settle_kept _ _ _ ?_
  refine Kept.upd ?_ rfl rfl rfl rfl rfl rfl rfl rfl
  assumption

theorem doGsbLoad_kept (s : State) (hs : Kept q n s) : Kept q n (doGsbLoad s) := by
  unfold doGsbLoad
  extract_lets s1
  have h1 : Kept q n s1 := by
    refine State.ask_kept _ _ _ ?_
    assumption
  clear_value s1
  refine Kept.ite ?_ ?_
  · refine judgeGsbLoad_kept _ ?_
    assumption
  · refine Kept.ite ?_ ?_
    · assumption
    · refine State.settle_kept _ _ _ ?_
      assumption

theorem doGsbNone_kept (s : State) (hs : Kept q n s) : Kept q n (doGsbNone s) := by
  unfold doGsbNone
  extract_lets s1
  have h1 : Kept q n s1 := by
    refine State.ask_kept _ _ _ ?_
    assumption
  clear_value s1
  refine Kept.ite ?_ ?_
  · refine judgeGsbNone_kept _ ?_
    assumption
  · refine Kept.ite ?_ ?_
    · assumption
    · refine State.settle_kept _ _ _ ?_
      assumption

theorem takeKeptGsb_kept (s : State) (hs : Kept q n s) : Kept q n (takeKeptGsb s) := by
  unfold takeKeptGsb
  extract_lets s1
  have h1 : Kept q n s1 := by
    refine Kept.ite ?_ ?_
    · refine judgeGsbLoad_kept _ ?_
      assumption
    · assumption
  clear_value s1
  refine Kept.ite ?_ ?_
  · refine judgeGsbNone_kept _ ?_
    assumption
  · assumption

theorem doGsbLatch_kept (s : State) (hs : Kept q n s) : Kept q n (doGsbLatch s) := by
  unfold doGsbLatch
  refine State.pulse_kept _ _ _ ?_
  refine latchGsb_kept _ ?_
  assumption

theorem doGsbRefresh_kept (s : State) (hs : Kept q n s) : Kept q n (doGsbRefresh s) := by
  unfold doGsbRefresh
  refine Kept.ite ?_ ?_
  · refine refreshGsb_kept _ ?_
    assumption
  · assumption

theorem stepCharger_kept (s : State) (hs : Kept q n s) : Kept q n (stepCharger s) := by
  unfold stepCharger
  extract_lets s1 s2
  refine Kept.upd ?_ rfl rfl rfl rfl rfl rfl rfl rfl
  assumption

theorem doEndOfCharge_kept (s : State) (hs : Kept q n s) : Kept q n (doEndOfCharge s) := by
  unfold doEndOfCharge
  split
  · refine Kept.ite ?_ ?_
    · refine stepCharger_kept _ ?_
      refine State.raise_kept _ _ _ ?_
      refine Kept.upd ?_ rfl rfl rfl rfl rfl rfl rfl rfl
      assumption
    · assumption
  · assumption

theorem doChargerFault_kept (s : State) (hs : Kept q n s) : Kept q n (doChargerFault s) := by
  unfold doChargerFault
  refine Kept.ite ?_ ?_
  · extract_lets s1 s2
    have h2 : Kept q n s2 := by
      refine Kept.upd ?_ rfl rfl rfl rfl rfl rfl rfl rfl
      assumption
    clear_value s2
    refine State.log_kept _ _ _ _ ?_
    refine State.raise_kept _ _ _ ?_
    assumption
  · assumption

theorem applyResistance_kept (s : State) (hs : Kept q n s) : Kept q n (applyResistance s) := by
  unfold applyResistance
  refine Kept.ite ?_ ?_
  · extract_lets s1
    refine Kept.ite ?_ ?_
    · assumption
    · refine refreshGsb_kept _ ?_
      refine State.put_kept _ _ _ _ ?_
      assumption
  · assumption

theorem learnResistance_kept (i : ℤ) (v : ℤ) (s : State) (hs : Kept q n s) : Kept q n (learnResistance i v s) := by
  unfold learnResistance
  extract_lets s1 s2 s3
  refine Kept.ite ?_ ?_
  · refine applyResistance_kept _ ?_
    refine Kept.upd ?_ rfl rfl rfl rfl rfl rfl rfl rfl
    assumption
  · assumption

theorem setPackLow_kept (s : State) (hs : Kept q n s) : Kept q n (setPackLow s) := by
  unfold setPackLow
  refine Kept.ite ?_ ?_
  · assumption
  · refine State.log_kept _ _ _ _ ?_
    refine Kept.upd ?_ rfl rfl rfl rfl rfl rfl rfl rfl
    assumption

theorem countCycles_kept (charge : ℤ) (s : State) (hs : Kept q n s) : Kept q n (countCycles charge s) := by
  unfold countCycles
  extract_lets s1 s2
  refine State.put_kept _ _ _ _ ?_
  refine Kept.upd ?_ rfl rfl rfl rfl rfl rfl rfl rfl
  assumption

theorem doGaugeSample_kept (x : GaugeIn) (s : State) (hs : Kept q n s) : Kept q n (doGaugeSample x s) := by
  unfold doGaugeSample
  refine Kept.ite ?_ ?_
  · assumption
  · extract_lets s1 s2 s3 s4 s5 s6 s7 s8 s9 s10 s11 s12 s13
    have h2 : Kept q n s2 := by
      refine State.put_kept _ _ _ _ ?_
      assumption
    clear_value s2
    have h3 : Kept q n s3 := by
      refine State.put_kept _ _ _ _ ?_
      assumption
    clear_value s3
    have h4 : Kept q n s4 := by
      refine State.put_kept _ _ _ _ ?_
      assumption
    clear_value s4
    have h5 : Kept q n s5 := by
      refine State.put_kept _ _ _ _ ?_
      assumption
    clear_value s5
    have h6 : Kept q n s6 := by
      refine State.put_kept _ _ _ _ ?_
      assumption
    clear_value s6
    have h7 : Kept q n s7 := by
      refine countCycles_kept _ _ ?_
      refine learnResistance_kept _ _ _ ?_
      assumption
    clear_value s7
    have h10 : Kept q n s10 := by
      refine Kept.upd ?_ rfl rfl rfl rfl rfl rfl rfl rfl
      assumption
    clear_value s10
    have h12 : Kept q n s12 := by
      refine Kept.upd ?_ rfl rfl rfl rfl rfl rfl rfl rfl
      assumption
    clear_value s12
    have h13 : Kept q n s13 := by
      refine Kept.ite ?_ ?_
      · refine setPackLow_kept _ ?_
        assumption
      · assumption
    clear_value s13
    refine stepCharger_kept _ ?_
    assumption

theorem anchorGauge_kept (s : State) (hs : Kept q n s) : Kept q n (anchorGauge s) := by
  unfold anchorGauge
  extract_lets s1 s2 s3 s4 s5 s6
  have h4 : Kept q n s4 := by
    refine Kept.upd ?_ rfl rfl rfl rfl rfl rfl rfl rfl
    assumption
  clear_value s4
  have h5 : Kept q n s5 := by
    refine Kept.ite ?_ ?_
    · refine Kept.ite ?_ ?_
      · assumption
      · refine refreshGsb_kept _ ?_
        refine State.put_kept _ _ _ _ ?_
        assumption
    · assumption
  clear_value s5
  refine applyResistance_kept _ ?_
  refine Kept.upd ?_ rfl rfl rfl rfl rfl rfl rfl rfl
  assumption

theorem doGaugeReference_kept (s : State) (hs : Kept q n s) : Kept q n (doGaugeReference s) := by
  unfold doGaugeReference
  split
  · refine Kept.ite ?_ ?_
    · extract_lets s1 s2 s3 s4 s5
      have h1 : Kept q n s1 := by
        refine anchorGauge_kept _ ?_
        assumption
      clear_value s1
      have h3 : Kept q n s3 := by
        refine Kept.upd ?_ rfl rfl rfl rfl rfl rfl rfl rfl
        assumption
      clear_value s3
      have h5 : Kept q n s5 := by
        unfold s5
        refine Kept.ite ?_ ?_
        · refine State.settle_kept _ _ _ ?_
          refine Kept.upd ?_ rfl rfl rfl rfl rfl rfl rfl rfl
          assumption
        · assumption
      clear_value s5
      refine stepCharger_kept _ ?_
      refine refreshGsb_kept _ ?_
      assumption
    · assumption
  · assumption

theorem coldAnchor_kept (cell0 : ℕ) (cell1 : ℕ) (s : State) (hs : Kept q n s) : Kept q n (coldAnchor cell0 cell1 s) := by
  unfold coldAnchor
  extract_lets s1 s2 s3 s4
  have h2 : Kept q n s2 := by
    refine State.put_kept _ _ _ _ ?_
    refine State.put_kept _ _ _ _ ?_
    refine State.put_kept _ _ _ _ ?_
    assumption
  clear_value s2
  refine Kept.upd ?_ rfl rfl rfl rfl rfl rfl rfl rfl
  assumption

theorem doGaugeHibernate_kept (s : State) (hs : Kept q n s) : Kept q n (doGaugeHibernate s) := by
  unfold doGaugeHibernate
  split
  · refine Kept.ite ?_ ?_
    · refine Kept.upd ?_ rfl rfl rfl rfl rfl rfl rfl rfl
      assumption
    · assumption
  · assumption

theorem doGaugeWake_kept (s : State) (hs : Kept q n s) : Kept q n (doGaugeWake s) := by
  unfold doGaugeWake
  refine Kept.upd ?_ rfl rfl rfl rfl rfl rfl rfl rfl
  assumption

theorem doHibernationHour_kept (s : State) (hs : Kept q n s) : Kept q n (doHibernationHour s) := by
  unfold doHibernationHour
  refine Kept.ite ?_ ?_
  · refine Kept.upd ?_ rfl rfl rfl rfl rfl rfl rfl rfl
    assumption
  · assumption

theorem doPackLowClear_kept (s : State) (hs : Kept q n s) : Kept q n (doPackLowClear s) := by
  unfold doPackLowClear
  split
  · refine Kept.ite ?_ ?_
    · refine Kept.upd ?_ rfl rfl rfl rfl rfl rfl rfl rfl
      assumption
    · assumption
  · assumption

theorem doCalRest_kept (s : State) (hs : Kept q n s) : Kept q n (doCalRest s) := by
  unfold doCalRest
  extract_lets s1 s2
  have h1 : Kept q n s1 := by
    refine State.ask_kept _ _ _ ?_
    assumption
  clear_value s1
  refine stepCharger_kept _ ?_
  refine Kept.upd ?_ rfl rfl rfl rfl rfl rfl rfl rfl
  assumption

theorem endCalRest_kept (s : State) (hs : Kept q n s) : Kept q n (endCalRest s) := by
  unfold endCalRest
  refine Kept.ite ?_ ?_
  · refine stepCharger_kept _ ?_
    refine State.settle_kept _ _ _ ?_
    refine Kept.upd ?_ rfl rfl rfl rfl rfl rfl rfl rfl
    assumption
  · assumption

theorem doCalRestTimeout_kept (s : State) (hs : Kept q n s) : Kept q n (doCalRestTimeout s) := by
  unfold doCalRestTimeout
  split
  · refine Kept.ite ?_ ?_
    · refine endCalRest_kept _ ?_
      assumption
    · assumption
  · assumption

theorem takeFigures_kept (s : State) (hs : Kept q n s) : Kept q n (takeFigures s) := by
  unfold takeFigures
  extract_lets s1 s2 s3 s4 s5 s6 s7 s8 s9 s10 s11 s12 s13 s14 s15 s16 s17
  have h9 : Kept q n s9 := by
    refine Kept.upd ?_ rfl rfl rfl rfl rfl rfl rfl rfl
    assumption
  clear_value s9
  have h10 : Kept q n s10 := by
    refine State.put_kept _ _ _ _ ?_
    assumption
  clear_value s10
  have h11 : Kept q n s11 := by
    refine State.put_kept _ _ _ _ ?_
    assumption
  clear_value s11
  have h12 : Kept q n s12 := by
    refine State.put_kept _ _ _ _ ?_
    assumption
  clear_value s12
  have h13 : Kept q n s13 := by
    refine State.put_kept _ _ _ _ ?_
    assumption
  clear_value s13
  have h14 : Kept q n s14 := by
    refine State.put_kept _ _ _ _ ?_
    assumption
  clear_value s14
  have h15 : Kept q n s15 := by
    refine State.put_kept _ _ _ _ ?_
    assumption
  clear_value s15
  have h16 : Kept q n s16 := by
    refine State.put_kept _ _ _ _ ?_
    assumption
  clear_value s16
  have h17 : Kept q n s17 := by
    refine State.put_kept _ _ _ _ ?_
    assumption
  clear_value s17
  refine Kept.ite ?_ ?_
  · refine State.log_kept _ _ _ _ ?_
    refine State.raise_kept _ _ _ ?_
    assumption
  · assumption

theorem stepCeiling_kept (s : State) (hs : Kept q n s) : Kept q n (stepCeiling s) := by
  unfold stepCeiling
  extract_lets s1 s2
  have h1 : Kept q n s1 := by
    refine State.put_kept _ _ _ _ ?_
    assumption
  clear_value s1
  have h2 : Kept q n s2 := by
    refine State.put_kept _ _ _ _ ?_
    assumption
  clear_value s2
  refine State.put_kept _ _ _ _ ?_
  assumption

theorem enqueue_kept (it : Item) (s : State) (hs : Kept q n s) : Kept q n (enqueue it s) := by
  unfold enqueue
  refine Kept.upd ?_ rfl rfl rfl rfl rfl rfl rfl rfl
  assumption

theorem stepForme_kept (s : State) (hs : Kept q n s) : Kept q n (stepForme s) := by
  unfold stepForme
  extract_lets s1 s2 s3 s4 s5 s6 s7 s8 s9 s10
  have h3 : Kept q n s3 := by
    refine State.put_kept _ _ _ _ ?_
    assumption
  clear_value s3
  have h4 : Kept q n s4 := by
    refine State.put_kept _ _ _ _ ?_
    assumption
  clear_value s4
  have h5 : Kept q n s5 := by
    refine State.put_kept _ _ _ _ ?_
    assumption
  clear_value s5
  have h6 : Kept q n s6 := by
    refine State.put_kept _ _ _ _ ?_
    assumption
  clear_value s6
  have h7 : Kept q n s7 := by
    refine Kept.foldl _ _ ?_ fun s x h => ?_
    · assumption
    · extract_lets s11 s12 s13
      have h13 : Kept q n s13 := by
        refine State.bump_kept _ _ _ _ ?_
        assumption
      clear_value s13
      refine Kept.ite ?_ ?_
      · refine State.bump_kept _ _ _ _ ?_
        assumption
      · assumption
  clear_value s7
  refine Kept.upd ?_ rfl rfl rfl rfl rfl rfl rfl rfl
  assumption

theorem doMinShareWrite_kept (addr : ℕ) (v : ℕ) (s : State) (hs : Kept q n s) : Kept q n (doMinShareWrite addr v s) := by
  unfold doMinShareWrite
  extract_lets s1 s2 s3 s4 s5 s6
  refine Kept.ite ?_ ?_
  · refine State.log_kept _ _ _ _ ?_
    refine State.raise_kept _ _ _ ?_
    assumption
  · refine State.put_kept _ _ _ _ ?_
    refine State.put_kept _ _ _ _ ?_
    refine State.put_kept _ _ _ _ ?_
    refine State.put_kept _ _ _ _ ?_
    refine State.put_kept _ _ _ _ ?_
    assumption

theorem stepFloors_kept (s : State) (hs : Kept q n s) : Kept q n (stepFloors s) := by
  unfold stepFloors
  split
  · refine Kept.upd ?_ rfl rfl rfl rfl rfl rfl rfl rfl
    assumption
  · extract_lets s1 s2 s3 s4 s5 s6
    refine Kept.upd ?_ rfl rfl rfl rfl rfl rfl rfl rfl
    assumption

theorem setTherm_kept (t : ℕ) (s : State) (hs : Kept q n s) : Kept q n (setTherm t s) := by
  unfold setTherm
  refine Kept.ite ?_ ?_
  · assumption
  · extract_lets s1 s2 s3
    have h3 : Kept q n s3 := by
      refine Kept.upd ?_ rfl rfl rfl rfl rfl rfl rfl rfl
      assumption
    clear_value s3
    refine State.log_kept _ _ _ _ ?_
    refine State.raise_kept _ _ _ ?_
    assumption

theorem stepThermal_kept (sensors : List ℤ) (s : State) (hs : Kept q n s) : Kept q n (stepThermal sensors s) := by
  unfold stepThermal
  extract_lets s1 s2 s3 s4 s5 s6 s7 s8 s9 s10 s11
  have h3 : Kept q n s3 := by
    refine Kept.ite ?_ ?_
    · refine State.log_kept _ _ _ _ ?_
      assumption
    · assumption
  clear_value s3
  have h6 : Kept q n s6 := by
    refine Kept.upd ?_ rfl rfl rfl rfl rfl rfl rfl rfl
    assumption
  clear_value s6
  have h7 : Kept q n s7 := by
    refine State.put_kept _ _ _ _ ?_
    assumption
  clear_value s7
  have h8 : Kept q n s8 := by
    refine stepFloors_kept _ ?_
    assumption
  clear_value s8
  have h11 : Kept q n s11 := by
    refine Kept.upd ?_ rfl rfl rfl rfl rfl rfl rfl rfl
    assumption
  clear_value s11
  refine Kept.ite ?_ ?_
  · refine setTherm_kept _ _ ?_
    assumption
  · assumption

theorem doThermalStepDown_kept (s : State) (hs : Kept q n s) : Kept q n (doThermalStepDown s) := by
  unfold doThermalStepDown
  extract_lets s1 s2 s3
  clear_value s2
  split
  · refine Kept.ite ?_ ?_
    · refine setTherm_kept _ _ ?_
      assumption
    · assumption
  · assumption

theorem doEnclTempWrite_kept (v : ℕ) (s : State) (hs : Kept q n s) : Kept q n (doEnclTempWrite v s) := by
  unfold doEnclTempWrite
  refine State.put_kept _ _ _ _ ?_
  refine Kept.upd ?_ rfl rfl rfl rfl rfl rfl rfl rfl
  assumption

theorem doEnclTempStale_kept (s : State) (hs : Kept q n s) : Kept q n (doEnclTempStale s) := by
  unfold doEnclTempStale
  split
  · refine Kept.ite ?_ ?_
    · refine Kept.upd ?_ rfl rfl rfl rfl rfl rfl rfl rfl
      assumption
    · assumption
  · assumption

theorem stepBoost_kept (s : State) (hs : Kept q n s) : Kept q n (stepBoost s) := by
  unfold stepBoost
  extract_lets s1 s2 s3 s4
  have h4 : Kept q n s4 := by
    refine Kept.upd ?_ rfl rfl rfl rfl rfl rfl rfl rfl
    assumption
  clear_value s4
  refine Kept.ite ?_ ?_
  · refine State.log_kept _ _ _ _ ?_
    refine State.raise_kept _ _ _ ?_
    assumption
  · assumption

theorem State.setFair_kept (s : State) (conn : ℕ) (r : FairRec) (hs : Kept q n s) : Kept q n (State.setFair s conn r) := by
  unfold State.setFair
  refine Kept.upd ?_ rfl rfl rfl rfl rfl rfl rfl rfl
  assumption

theorem tag2_kept (conn : ℕ) (bytes : ℕ) (s : State) (hs : Kept q n s) : Kept q n (tag2 conn bytes s).2 := by
  unfold tag2
  dsimp only
  refine State.setFair_kept _ _ _ ?_
  assumption

theorem tag3_kept (conn : ℕ) (bytes : ℕ) (s : State) (hs : Kept q n s) : Kept q n (tag3 conn bytes s) := by
  unfold tag3
  extract_lets s1 s2 s3 s4 s5 s6
  have h5 : Kept q n s5 := by
    refine State.setFair_kept _ _ _ ?_
    assumption
  clear_value s5
  refine Kept.upd ?_ rfl rfl rfl rfl rfl rfl rfl rfl
  assumption

theorem stepTags_kept (s : State) (hs : Kept q n s) : Kept q n (stepTags s) := by
  unfold stepTags
  extract_lets s1 s2 s3 s4 s5 s6
  have h5 : Kept q n s5 := by
    refine Kept.upd ?_ rfl rfl rfl rfl rfl rfl rfl rfl
    assumption
  clear_value s5
  have h6 : Kept q n s6 := by
    refine State.put_kept _ _ _ _ ?_
    refine State.put_kept _ _ _ _ ?_
    assumption
  clear_value s6
  refine State.put_kept _ _ _ _ ?_
  refine State.put_kept _ _ _ _ ?_
  assumption

theorem countBacklog_kept (s : State) (hs : Kept q n s) : Kept q n (countBacklog s) := by
  unfold countBacklog
  extract_lets s1 s2
  have h2 : Kept q n s2 := by
    refine Kept.foldl _ _ ?_ fun s x h => ?_
    · assumption
    · refine State.setFair_kept _ _ _ ?_
      assumption
  clear_value s2
  refine Kept.foldl _ _ ?_ fun s x h => ?_
  · assumption
  · extract_lets s3
    refine State.setFair_kept _ _ _ ?_
    assumption

theorem doFairWindowEnd_kept (s : State) (hs : Kept q n s) : Kept q n (doFairWindowEnd s) := by
  unfold doFairWindowEnd
  refine Kept.ite ?_ ?_
  · extract_lets s1 s2 s3 s4 s5 s6 s7 s8 s9 s10 s11 s12 s13
    have h8 : Kept q n s8 := by
      refine State.putB_kept _ _ _ _ ?_
      refine State.put_kept _ _ _ _ ?_
      assumption
    clear_value s8
    have h9 : Kept q n s9 := by
      refine State.put_kept _ _ _ _ ?_
      refine State.put_kept _ _ _ _ ?_
      assumption
    clear_value s9
    have h10 : Kept q n s10 := by
      refine State.put_kept _ _ _ _ ?_
      refine State.put_kept _ _ _ _ ?_
      assumption
    clear_value s10
    have h11 : Kept q n s11 := by
      refine State.put_kept _ _ _ _ ?_
      refine State.put_kept _ _ _ _ ?_
      assumption
    clear_value s11
    have h12 : Kept q n s12 := by
      refine State.put_kept _ _ _ _ ?_
      refine State.put_kept _ _ _ _ ?_
      assumption
    clear_value s12
    refine Kept.upd ?_ rfl rfl rfl rfl rfl rfl rfl rfl
    assumption
  · assumption

theorem fairSelWritten_kept (s : State) (hs : Kept q n s) : Kept q n (fairSelWritten s) := by
  unfold fairSelWritten
  extract_lets s1 s2 s3 s4
  have h1 : Kept q n s1 := by
    refine State.putB_kept _ _ _ _ ?_
    refine State.put_kept _ _ _ _ ?_
    assumption
  clear_value s1
  have h2 : Kept q n s2 := by
    refine State.put_kept _ _ _ _ ?_
    refine State.put_kept _ _ _ _ ?_
    assumption
  clear_value s2
  have h3 : Kept q n s3 := by
    refine State.put_kept _ _ _ _ ?_
    refine State.put_kept _ _ _ _ ?_
    assumption
  clear_value s3
  have h4 : Kept q n s4 := by
    refine State.put_kept _ _ _ _ ?_
    refine State.put_kept _ _ _ _ ?_
    assumption
  clear_value s4
  refine State.put_kept _ _ _ _ ?_
  refine State.put_kept _ _ _ _ ?_
  assumption

theorem gated_kept (q0 : OnQueue) (auth : Bool) (h : CmdHdr) (k : Conn → State → State) (s : State) (hk : ∀ y0 s, Kept q n s → Kept q n (k y0 s)) (hs1 : Kept q n s) : Kept q n (gated q0 auth h k s) := by
  unfold gated
  split
  · assumption
  · refine Kept.ite ?_ ?_
    · refine terminate_kept _ _ _ _ ?_
      assumption
    · split
      · refine respond_kept _ _ _ _ _ _ ?_
        assumption
      · refine hk _ _ ?_
        assumption

theorem adminCmd_kept (h : CmdHdr) (implied : Option ℕ) (k : Conn → State → State) (s : State) (hk : ∀ y0 s, Kept q n s → Kept q n (k y0 s)) (hs1 : Kept q n s) : Kept q n (adminCmd h implied k s) := by
  unfold adminCmd
  refine gated_kept _ _ _ _ _ (fun x0 x1 h' => ?_) ?_
  · split
    · refine respond_kept _ _ _ _ _ _ ?_
      assumption
    · refine hk _ _ ?_
      refine tag3_kept _ _ _ ?_
      assumption
  · assumption

theorem ok_kept (h : CmdHdr) (dw0 : ℕ) (s : State) (hs : Kept q n s) : Kept q n (ok h dw0 s) := by
  unfold ok
  refine respond_kept _ _ _ _ _ _ ?_
  assumption

theorem invalidField_kept (h : CmdHdr) (s : State) (hs : Kept q n s) : Kept q n (invalidField h s) := by
  unfold invalidField
  refine respond_kept _ _ _ _ _ _ ?_
  assumption

theorem returnBytes_kept (h : CmdHdr) (offset : ℕ) (page : List ℕ) (s : State) (hs : Kept q n s) : Kept q n (returnBytes h offset page s) := by
  unfold returnBytes
  extract_lets s1
  refine ok_kept _ _ _ ?_
  refine State.pdu_kept _ _ _ ?_
  assumption

theorem doIcreq_kept (x : IcReq) (s : State) (hs : Kept q n s) : Kept q n (doIcreq x s) := by
  unfold doIcreq
  split
  · assumption
  · refine Kept.ite ?_ ?_
    · refine terminate_kept _ _ _ _ ?_
      assumption
    · refine Kept.ite ?_ ?_
      · refine terminate_kept _ _ _ _ ?_
        assumption
      · refine Kept.ite ?_ ?_
        · refine terminate_kept _ _ _ _ ?_
          assumption
        · refine Kept.ite ?_ ?_
          · refine terminate_kept _ _ _ _ ?_
            assumption
          · extract_lets s1
            have h1 : Kept q n s1 := by
              refine State.updConn_kept _ _ _ ?_
              assumption
            clear_value s1
            refine State.pdu_kept _ _ _ ?_
            assumption

theorem connected_kept (x : ConnectCmd) (host : ℕ) (cntlid : ℕ) (s : State) (hs : Kept q n s) : Kept q n (connected x host cntlid s) := by
  unfold connected
  extract_lets s1 s2 s3 s4
  have h3 : Kept q n s3 := by
    refine Kept.ite ?_ ?_
    · refine Kept.upd ?_ rfl rfl rfl rfl rfl rfl rfl rfl
      assumption
    · assumption
  clear_value s3
  have h4 : Kept q n s4 := by
    refine State.updConn_kept _ _ _ ?_
    assumption
  clear_value s4
  refine respond_kept _ _ _ _ _ _ ?_
  assumption

theorem doConnect_kept (x : ConnectCmd) (s : State) (hs : Kept q n s) : Kept q n (doConnect x s) := by
  unfold doConnect
  split
  · assumption
  · refine Kept.ite ?_ ?_
    · refine terminate_kept _ _ _ _ ?_
      assumption
    · refine Kept.ite ?_ ?_
      · refine respond_kept _ _ _ _ _ _ ?_
        assumption
      · refine Kept.ite ?_ ?_
        · refine respond_kept _ _ _ _ _ _ ?_
          assumption
        · refine Kept.ite ?_ ?_
          · refine respond_kept _ _ _ _ _ _ ?_
            assumption
          · split
            · refine respond_kept _ _ _ _ _ _ ?_
              assumption
            · split
              · refine respond_kept _ _ _ _ _ _ ?_
                assumption
              · split
                · refine connected_kept _ _ _ _ ?_
                  assumption
                · refine respond_kept _ _ _ _ _ _ ?_
                  assumption

theorem doPropertySet_kept (h : CmdHdr) (p : Property) (v : CcValue) (s : State) (hs : Kept q n s) : Kept q n (doPropertySet h p v s) := by
  unfold doPropertySet
  refine adminCmd_kept _ _ _ _ (fun x0 x1 h' => ?_) ?_
  · refine Kept.ite ?_ ?_
    · refine invalidField_kept _ _ ?_
      assumption
    · refine ok_kept _ _ _ ?_
      refine State.updCtrl_kept _ _ _ ?_
      assumption
  · assumption

theorem doPropertyGet_kept (h : CmdHdr) (p : Property) (s : State) (hs : Kept q n s) : Kept q n (doPropertyGet h p s) := by
  unfold doPropertyGet
  refine adminCmd_kept _ _ _ _ (fun x0 x1 h' => ?_) ?_
  · split
    · refine ok_kept _ _ _ ?_
      assumption
    · refine ok_kept _ _ _ ?_
      assumption
    · refine ok_kept _ _ _ ?_
      assumption
    · refine ok_kept _ _ _ ?_
      assumption
    · refine invalidField_kept _ _ ?_
      assumption
  · assumption

theorem doShutdownComplete_kept (i : ℕ) (s : State) (hs : Kept q n s) : Kept q n (doShutdownComplete i s) := by
  unfold doShutdownComplete
  split
  · extract_lets s1
    refine Kept.ite ?_ ?_
    · refine State.updCtrl_kept _ _ _ ?_
      assumption
    · assumption
  · assumption

theorem doAuthenticationSend_kept (h : CmdHdr) (msg : ℕ) (s : State) (hs : Kept q n s) : Kept q n (doAuthenticationSend h msg s) := by
  unfold doAuthenticationSend
  refine gated_kept _ _ _ _ _ (fun x0 x1 h' => ?_) ?_
  · extract_lets s1 s2 s3 s4 s5
    have h3 : Kept q n s3 := by
      refine State.updConn_kept _ _ _ ?_
      assumption
    clear_value s3
    have h4 : Kept q n s4 := by
      refine ok_kept _ _ _ ?_
      assumption
    clear_value s4
    have h5 : Kept q n s5 := by
      refine State.log_kept _ _ _ _ ?_
      refine State.raise_kept _ _ _ ?_
      assumption
    clear_value s5
    clear_value s2
    split
    · refine State.updConn_kept _ _ _ ?_
      assumption
    · assumption
    · refine State.updConn_kept _ _ _ ?_
      assumption
  · assumption

theorem doAuthenticationReceive_kept (h : CmdHdr) (s : State) (hs : Kept q n s) : Kept q n (doAuthenticationReceive h s) := by
  unfold doAuthenticationReceive
  refine gated_kept _ _ _ _ _ (fun x0 x1 h' => ?_) ?_
  · split
    · refine returnBytes_kept _ _ _ _ ?_
      refine State.updConn_kept _ _ _ ?_
      assumption
    · refine respond_kept _ _ _ _ _ _ ?_
      assumption
  · assumption

theorem doGetLogPage_kept (h : CmdHdr) (lid : ℕ) (off : ℕ) (s : State) (hs : Kept q n s) : Kept q n (doGetLogPage h lid off s) := by
  unfold doGetLogPage
  refine adminCmd_kept _ _ _ _ (fun x0 x1 h' => ?_) ?_
  · extract_lets s1 s2 s3
    clear_value s1
    split
    · refine invalidField_kept _ _ ?_
      assumption
    · refine Kept.ite ?_ ?_
      · refine returnBytes_kept _ _ _ _ ?_
        assumption
      · refine Kept.ite ?_ ?_
        · refine returnBytes_kept _ _ _ _ ?_
          assumption
        · refine Kept.ite ?_ ?_
          · refine returnBytes_kept _ _ _ _ ?_
            refine State.updCtrl_kept _ _ _ ?_
            assumption
          · refine Kept.ite ?_ ?_
            · refine returnBytes_kept _ _ _ _ ?_
              assumption
            · refine Kept.ite ?_ ?_
              · refine returnBytes_kept _ _ _ _ ?_
                refine State.updCtrl_kept _ _ _ ?_
                assumption
              · refine Kept.ite ?_ ?_
                · refine returnBytes_kept _ _ _ _ ?_
                  assumption
                · refine Kept.ite ?_ ?_
                  · refine returnBytes_kept _ _ _ _ ?_
                    assumption
                  · refine Kept.ite ?_ ?_
                    · refine returnBytes_kept _ _ _ _ ?_
                      assumption
                    · refine Kept.ite ?_ ?_
                      · refine returnBytes_kept _ _ _ _ ?_
                        assumption
                      · refine invalidField_kept _ _ ?_
                        assumption
  · assumption

theorem doIdentify_kept (h : CmdHdr) (cns : ℕ) (csi : ℕ) (s : State) (hs : Kept q n s) : Kept q n (doIdentify h cns csi s) := by
  unfold doIdentify
  refine adminCmd_kept _ _ _ _ (fun x0 x1 h' => ?_) ?_
  · extract_lets s1 s2 s3
    refine Kept.ite ?_ ?_
    · unfold s3
      refine Kept.ite ?_ ?_
      · refine returnBytes_kept _ _ _ _ ?_
        assumption
      · refine respond_kept _ _ _ _ _ _ ?_
        assumption
    · refine Kept.ite ?_ ?_
      · refine returnBytes_kept _ _ _ _ ?_
        assumption
      · refine Kept.ite ?_ ?_
        · refine returnBytes_kept _ _ _ _ ?_
          assumption
        · refine Kept.ite ?_ ?_
          · unfold s3
            refine Kept.ite ?_ ?_
            · refine returnBytes_kept _ _ _ _ ?_
              assumption
            · refine respond_kept _ _ _ _ _ _ ?_
              assumption
          · refine Kept.ite ?_ ?_
            · refine Kept.ite ?_ ?_
              · unfold s3
                refine Kept.ite ?_ ?_
                · refine returnBytes_kept _ _ _ _ ?_
                  assumption
                · refine respond_kept _ _ _ _ _ _ ?_
                  assumption
              · refine Kept.ite ?_ ?_
                · unfold s3
                  refine Kept.ite ?_ ?_
                  · refine returnBytes_kept _ _ _ _ ?_
                    assumption
                  · refine respond_kept _ _ _ _ _ _ ?_
                    assumption
                · refine Kept.ite ?_ ?_
                  · refine invalidField_kept _ _ ?_
                    assumption
                  · refine respond_kept _ _ _ _ _ _ ?_
                    assumption
            · refine Kept.ite ?_ ?_
              · refine Kept.ite ?_ ?_
                · refine returnBytes_kept _ _ _ _ ?_
                  assumption
                · refine invalidField_kept _ _ ?_
                  assumption
              · refine Kept.ite ?_ ?_
                · unfold s3
                  refine Kept.ite ?_ ?_
                  · refine returnBytes_kept _ _ _ _ ?_
                    assumption
                  · refine respond_kept _ _ _ _ _ _ ?_
                    assumption
                · refine invalidField_kept _ _ ?_
                  assumption
  · assumption

theorem doSetFeatures_kept (h : CmdHdr) (fid : ℕ) (save : Bool) (v : ℕ) (s : State) (hs : Kept q n s) : Kept q n (doSetFeatures h fid save v s) := by
  unfold doSetFeatures
  refine adminCmd_kept _ _ _ _ (fun x0 x1 h' => ?_) ?_
  · refine Kept.ite ?_ ?_
    · refine invalidField_kept _ _ ?_
      assumption
    · refine Kept.ite ?_ ?_
      · refine respond_kept _ _ _ _ _ _ ?_
        assumption
      · refine Kept.ite ?_ ?_
        · extract_lets s1 s2
          refine ok_kept _ _ _ ?_
          refine State.updCtrl_kept _ _ _ ?_
          assumption
        · refine Kept.ite ?_ ?_
          · refine ok_kept _ _ _ ?_
            refine State.updCtrl_kept _ _ _ ?_
            assumption
          · refine ok_kept _ _ _ ?_
            refine State.updCtrl_kept _ _ _ ?_
            assumption
  · assumption

theorem doGetFeatures_kept (h : CmdHdr) (fid : ℕ) (s : State) (hs : Kept q n s) : Kept q n (doGetFeatures h fid s) := by
  unfold doGetFeatures
  refine adminCmd_kept _ _ _ _ (fun x0 x1 h' => ?_) ?_
  · split
    · refine invalidField_kept _ _ ?_
      assumption
    · refine Kept.ite ?_ ?_
      · refine ok_kept _ _ _ ?_
        assumption
      · refine Kept.ite ?_ ?_
        · refine ok_kept _ _ _ ?_
          assumption
        · refine Kept.ite ?_ ?_
          · refine ok_kept _ _ _ ?_
            assumption
          · refine invalidField_kept _ _ ?_
            assumption
  · assumption

theorem doAsynchronousEventRequest_kept (h : CmdHdr) (s : State) (hs : Kept q n s) : Kept q n (doAsynchronousEventRequest h s) := by
  unfold doAsynchronousEventRequest
  refine adminCmd_kept _ _ _ _ (fun x0 x1 h' => ?_) ?_
  · split
    · assumption
    · refine Kept.ite ?_ ?_
      · refine respond_kept _ _ _ _ _ _ ?_
        assumption
      · extract_lets s1
        have h1 : Kept q n s1 := by
          refine State.setCmd_kept _ _ _ ?_
          assumption
        clear_value s1
        refine State.updCtrl_kept _ _ _ ?_
        assumption
  · assumption

theorem doKeepAlive_kept (h : CmdHdr) (s : State) (hs : Kept q n s) : Kept q n (doKeepAlive h s) := by
  unfold doKeepAlive
  refine adminCmd_kept _ _ _ _ (fun x0 x1 h' => ?_) ?_
  · refine ok_kept _ _ _ ?_
    refine State.updCtrl_kept _ _ _ ?_
    assumption
  · assumption

theorem doInvalidCommandOpcode_kept (h : CmdHdr) (s : State) (hs : Kept q n s) : Kept q n (doInvalidCommandOpcode h s) := by
  unfold doInvalidCommandOpcode
  split
  · assumption
  · refine Kept.ite ?_ ?_
    · refine terminate_kept _ _ _ _ ?_
      assumption
    · refine Kept.ite ?_ ?_
      · refine respond_kept _ _ _ _ _ _ ?_
        assumption
      · refine respond_kept _ _ _ _ _ _ ?_
        assumption

theorem doSecurityProtocolList_kept (h : CmdHdr) (sp : ℕ) (s : State) (hs : Kept q n s) : Kept q n (doSecurityProtocolList h sp s) := by
  unfold doSecurityProtocolList
  refine adminCmd_kept _ _ _ _ (fun x0 x1 h' => ?_) ?_
  · refine Kept.ite ?_ ?_
    · refine returnBytes_kept _ _ _ _ ?_
      assumption
    · refine invalidField_kept _ _ ?_
      assumption
  · assumption

theorem doNonceRequest_kept (h : CmdHdr) (s : State) (hs : Kept q n s) : Kept q n (doNonceRequest h s) := by
  unfold doNonceRequest
  refine adminCmd_kept _ _ _ _ (fun x0 x1 h' => ?_) ?_
  · refine Kept.ite ?_ ?_
    · refine respond_kept _ _ _ _ _ _ ?_
      assumption
    · extract_lets s1 s2 s3 s4 s5
      have h1 : Kept q n s1.2 := by
        refine State.random_kept _ ?_
        assumption
      clear_value s1
      have h4 : Kept q n s4 := by
        unfold s4
        assumption
      clear_value s4
      refine returnBytes_kept _ _ _ _ ?_
      refine Kept.upd ?_ rfl rfl rfl rfl rfl rfl rfl rfl
      assumption
  · assumption

theorem permitRefused_kept (h : CmdHdr) (x : Permit) (check : ℕ) (sct : ℕ) (sc : ℕ) (s : State) (hs : Kept q n s) : Kept q n (permitRefused h x check sct sc s) := by
  unfold permitRefused
  extract_lets s1 s2
  have h1 : Kept q n s1 := by
    refine countZn_kept _ _ ?_
    assumption
  clear_value s1
  have h2 : Kept q n s2 := by
    refine Kept.ite ?_ ?_
    · refine State.raise_kept _ _ _ ?_
      assumption
    · assumption
  clear_value s2
  refine respond_kept _ _ _ _ _ _ ?_
  refine State.log_kept _ _ _ _ ?_
  assumption

theorem doResetPermit_kept (h : CmdHdr) (x : Permit) (s : State) (hs : Kept q n s) : Kept q n (doResetPermit h x s) := by
  unfold doResetPermit
  refine adminCmd_kept _ _ _ _ (fun x0 x1 h' => ?_) ?_
  · refine Kept.ite ?_ ?_
    · refine invalidField_kept _ _ ?_
      assumption
    · extract_lets s1 s2 s3 s4 s5 s6 s7 s8 s9 s10
      have h3 : Kept q n s3 := by
        refine Kept.upd ?_ rfl rfl rfl rfl rfl rfl rfl rfl
        assumption
      clear_value s3
      have h10 : Kept q n s10 := by
        refine State.setCmd_kept _ _ _ ?_
        assumption
      clear_value s10
      refine Kept.ite ?_ ?_
      · refine permitRefused_kept _ _ _ _ _ _ ?_
        assumption
      · refine Kept.ite ?_ ?_
        · refine permitRefused_kept _ _ _ _ _ _ ?_
          assumption
        · refine Kept.ite ?_ ?_
          · refine permitRefused_kept _ _ _ _ _ _ ?_
            assumption
          · refine Kept.ite ?_ ?_
            · refine permitRefused_kept _ _ _ _ _ _ ?_
              assumption
            · refine Kept.ite ?_ ?_
              · refine permitRefused_kept _ _ _ _ _ _ ?_
                assumption
              · refine Kept.ite ?_ ?_
                · refine permitRefused_kept _ _ _ _ _ _ ?_
                  assumption
                · refine State.updZone_kept _ _ _ ?_
                  assumption
  · assumption

theorem doDamageStatementRequest_kept (h : CmdHdr) (start : ℕ) (chal : ℕ) (s : State) (hs : Kept q n s) : Kept q n (doDamageStatementRequest h start chal s) := by
  unfold doDamageStatementRequest
  refine adminCmd_kept _ _ _ _ (fun x0 x1 h' => ?_) ?_
  · extract_lets s1 s2
    refine Kept.ite ?_ ?_
    · refine ok_kept _ _ _ ?_
      refine State.updCtrl_kept _ _ _ ?_
      assumption
    · refine invalidField_kept _ _ ?_
      assumption
  · assumption

theorem doDamageStatementReceive_kept (h : CmdHdr) (s : State) (hs : Kept q n s) : Kept q n (doDamageStatementReceive h s) := by
  unfold doDamageStatementReceive
  refine adminCmd_kept _ _ _ _ (fun x0 x1 h' => ?_) ?_
  · split
    · refine returnBytes_kept _ _ _ _ ?_
      assumption
    · refine respond_kept _ _ _ _ _ _ ?_
      assumption
  · assumption

theorem zoneSaved_kept (k : ℕ) (s : State) (hs : Kept q n s) : Kept q n (zoneSaved k s) := by
  unfold zoneSaved
  refine Kept.ite ?_ ?_
  · refine State.emit_kept _ _ ?_
    assumption
  · assumption

theorem askPartial_kept (k : ℕ) (s : State) (hs : Kept q n s) : Kept q n (askPartial k s) := by
  unfold askPartial
  split
  · refine State.updSig_kept _ _ _ ?_
    assumption
  · assumption

theorem retainSheet_kept (v : Bool) (g : ℕ) (t : ℕ) (s : State) (hs : Kept q n s) : Kept q n (retainSheet v g t s) := by
  unfold retainSheet
  extract_lets s1 s2
  unfold s2
  refine Kept.foldl _ _ ?_ fun s x h => ?_
  · refine Kept.foldl _ _ ?_ fun s x h => ?_
    · refine Kept.foldl _ _ ?_ fun s x h => ?_
      · assumption
      · refine updLine_kept _ _ _ _ _ ?_
        assumption
    · refine updLine_kept _ _ _ _ _ ?_
      assumption
  · refine updLine_kept _ _ _ _ _ ?_
    assumption

theorem unretain_kept (k : ℕ) (s : State) (hs : Kept q n s) : Kept q n (unretain k s) := by
  unfold unretain
  split
  · refine retainSheet_kept _ _ _ _ ?_
    assumption
  · assumption

theorem closeZone_kept (k : ℕ) (s : State) (hs : Kept q n s) : Kept q n (closeZone k s) := by
  unfold closeZone
  refine zoneSaved_kept _ _ ?_
  refine askPartial_kept _ _ ?_
  refine State.updZone_kept _ _ _ ?_
  refine unretain_kept _ _ ?_
  assumption

theorem fillZone_kept (k : ℕ) (s : State) (hs : Kept q n s) : Kept q n (fillZone k s) := by
  unfold fillZone
  refine zoneSaved_kept _ _ ?_
  refine askPartial_kept _ _ ?_
  refine State.updZone_kept _ _ _ ?_
  refine unretain_kept _ _ ?_
  assumption

theorem openZone_kept (k : ℕ) (st : ZState) (s : State) (hs : Kept q n s) : Kept q n (openZone k st s).2 := by
  unfold openZone
  dsimp only
  split
  · dsimp only
    refine zoneSaved_kept _ _ ?_
    refine State.updZone_kept _ _ _ ?_
    assumption
  · split
    · dsimp only
      refine countZn_kept _ _ ?_
      refine State.raise_kept _ _ _ ?_
      assumption
    · split
      · dsimp only
        refine zoneSaved_kept _ _ ?_
        refine State.updZone_kept _ _ _ ?_
        assumption
      · split
        · dsimp only
          refine countZn_kept _ _ ?_
          refine State.raise_kept _ _ _ ?_
          assumption
        · dsimp only
          refine zoneSaved_kept _ _ ?_
          refine State.updZone_kept _ _ _ ?_
          refine countZn_kept _ _ ?_
          refine State.bump_kept _ _ _ _ ?_
          refine closeZone_kept _ _ ?_
          assumption

theorem dropCells_kept (g : ℕ) (lo : ℕ) (n0 : ℕ) (s : State) (hs : Kept q n s) : Kept q n (dropCells g lo n0 s) := by
  unfold dropCells
  extract_lets s1 s2 s3 s4 s5
  have h5 : Kept q n s5 := by
    refine Kept.upd ?_ rfl rfl rfl rfl rfl rfl rfl rfl
    assumption
  clear_value s5
  refine Kept.foldl _ _ ?_ fun s x h => ?_
  · assumption
  · refine settleLine_kept _ _ _ ?_
    assumption

theorem resetZone_kept (k : ℕ) (s : State) (hs : Kept q n s) : Kept q n (resetZone k s) := by
  unfold resetZone
  extract_lets s1 s2
  have h2 : Kept q n s2 := by
    refine hbClear_kept _ _ _ _ ?_
    refine dropCells_kept _ _ _ _ ?_
    refine unretain_kept _ _ ?_
    assumption
  clear_value s2
  refine zoneSaved_kept _ _ ?_
  refine State.updZone_kept _ _ _ ?_
  assumption

theorem zoneDone_kept (k : ℕ) (ops : List CmdOp) (s : State) (hs : Kept q n s) : Kept q n (zoneDone k ops s) := by
  unfold zoneDone
  extract_lets s1
  refine Kept.foldl _ _ ?_ fun s x h => ?_
  · assumption
  · extract_lets s2
    have h2 : Kept q n s2 := by
      refine State.updCmd_kept _ _ _ ?_
      assumption
    clear_value s2
    refine Kept.ite ?_ ?_
    · refine endCmd_kept _ _ _ _ _ ?_
      assumption
    · assumption

theorem beginSeal_kept (k : ℕ) (auto : Bool) (s : State) (hs : Kept q n s) : Kept q n (beginSeal k auto s) := by
  unfold beginSeal
  refine State.updZone_kept _ _ _ ?_
  assumption

theorem nextUnit_kept (k : ℕ) (s : State) (hs : Kept q n s) : Kept q n (nextUnit k s) := by
  unfold nextUnit
  split
  · assumption
  · extract_lets s1 s2 s3 s4 s5
    have h3 : Kept q n s3.2 := by
      refine tag2_kept _ _ _ ?_
      assumption
    clear_value s3
    have h5 : Kept q n s5 := by
      refine State.updCmd_kept _ _ _ ?_
      assumption
    clear_value s5
    refine Kept.upd ?_ rfl rfl rfl rfl rfl rfl rfl rfl
    assumption

theorem countWritten_kept (blocks : ℕ) (s : State) (hs : Kept q n s) : Kept q n (countWritten blocks s) := by
  unfold countWritten
  extract_lets s1
  refine Kept.upd ?_ rfl rfl rfl rfl rfl rfl rfl rfl
  assumption

theorem countRead_kept (blocks : ℕ) (s : State) (hs : Kept q n s) : Kept q n (countRead blocks s) := by
  unfold countRead
  extract_lets s1
  refine Kept.upd ?_ rfl rfl rfl rfl rfl rfl rfl rfl
  assumption

theorem land_kept (g : Nat) (stream wt : Bool) (xs : List (Nat × Blk)) (s : State) (hs : Kept q n s) :
    ∀ t, land g stream wt xs s = some t → Kept q n t := by
  intro t ht
  unfold land at ht
  obtain ⟨u, hu, rfl⟩ := Option.map_eq_some_iff.mp ht
  refine Kept.foldl _ _ (putBlocks_kept _ _ _ _ _ hs _ hu) fun s x h => ?_
  refine State.updSig_kept _ _ _ ?_
  refine Kept.upd h rfl rfl rfl rfl rfl rfl rfl rfl

theorem storeWrite_kept (k : ℕ) (s : State) (hs : Kept q n s) : Kept q n (storeWrite k s) := by
  unfold storeWrite
  split
  · refine Kept.ite ?_ ?_
    · split
      · refine State.updCmd_kept _ _ _ ?_
        refine land_kept _ _ _ _ _ ?_ _ (by assumption)
        assumption
      · refine State.bump_kept _ _ _ _ ?_
        assumption
    · assumption
  · assumption

theorem dataReady_kept (k : ℕ) (s : State) (hs : Kept q n s) : Kept q n (dataReady k s) := by
  unfold dataReady
  split
  · refine Kept.ite ?_ ?_
    · refine storeWrite_kept _ _ ?_
      refine State.updCmd_kept _ _ _ ?_
      refine countWritten_kept _ _ ?_
      assumption
    · assumption
  · assumption

theorem discardData_kept (k : ℕ) (sct : ℕ) (sc : ℕ) (s : State) (hs : Kept q n s) : Kept q n (discardData k sct sc s) := by
  unfold discardData
  split
  · assumption
  · extract_lets s1 s2 s3
    have h1 : Kept q n s1 := by
      refine Kept.ite ?_ ?_
      · refine State.updZone_kept _ _ _ ?_
        assumption
      · assumption
    clear_value s1
    have h2 : Kept q n s2 := by
      refine Kept.upd ?_ rfl rfl rfl rfl rfl rfl rfl rfl
      assumption
    clear_value s2
    have h3 : Kept q n s3 := by
      refine State.updCmd_kept _ _ _ ?_
      assumption
    clear_value s3
    refine Kept.ite ?_ ?_
    · refine endCmd_kept _ _ _ _ _ ?_
      assumption
    · assumption

theorem ioCmd_kept (x : IoCmd) (kind : Bool → Bool) (k : Conn → State → State) (s : State) (hk : ∀ y0 s, Kept q n s → Kept q n (k y0 s)) (hs1 : Kept q n s) : Kept q n (ioCmd x kind k s) := by
  unfold ioCmd
  refine gated_kept _ _ _ _ _ (fun x0 x1 h' => ?_) ?_
  · extract_lets s1 s2
    clear_value s2
    split
    · refine respond_kept _ _ _ _ _ _ ?_
      assumption
    · refine hk _ _ ?_
      assumption
  · assumption

theorem placeCmd_kept (op : CmdOp) (x : IoCmd) (s : State) (hs : Kept q n s) : Kept q n (placeCmd op x s) := by
  unfold placeCmd
  extract_lets s1 s2 s3
  have h3 : Kept q n s3 := by
    refine Kept.upd ?_ rfl rfl rfl rfl rfl rfl rfl rfl
    assumption
  clear_value s3
  refine State.setCmd_kept _ _ _ ?_
  assumption

theorem capCheck_kept (x : IoCmd) (s : State) (hs : Kept q n s) : Kept q n (capCheck x s) := by
  unfold capCheck
  extract_lets s1
  refine Kept.ite ?_ ?_
  · assumption
  · refine Kept.ite ?_ ?_
    · refine discardData_kept _ _ _ _ ?_
      refine State.log_kept _ _ _ _ ?_
      assumption
    · split
      · refine discardData_kept _ _ _ _ ?_
        assumption
      · assumption

theorem dropSegment_kept (conn : ℕ) (s : State) (hs : Kept q n s) : Kept q n (dropSegment conn s) := by
  unfold dropSegment
  split
  · refine dropFrame_kept _ _ ?_
    assumption
  · assumption

theorem doWrite_kept (x : IoCmd) (s : State) (hs : Kept q n s) : Kept q n (doWrite x s) := by
  unfold doWrite
  refine Kept.ite ?_ ?_
  · refine dropSegment_kept _ _ ?_
    assumption
  · refine ioCmd_kept _ _ _ _ (fun x0 x1 h' => ?_) ?_
    · refine capCheck_kept _ _ ?_
      refine nextUnit_kept _ _ ?_
      refine placeCmd_kept _ _ _ ?_
      assumption
    · assumption

theorem appendTry_kept (k : Nat) (s : State) (hs : Kept q n s) : Kept q n (appendTry k s) := by
  unfold appendTry
  split
  · assumption
  · extract_lets zk z limit
    refine Kept.ite (endCmd_kept _ _ _ _ _ hs) ?_
    refine Kept.ite (State.updCmd_kept _ _ _ hs) ?_
    refine Kept.ite (endCmd_kept _ _ _ _ _ hs) ?_
    refine Kept.ite (endCmd_kept _ _ _ _ _ hs) ?_
    refine Kept.ite (endCmd_kept _ _ _ _ _ hs) ?_
    refine Kept.ite (endCmd_kept _ _ _ _ _ hs) ?_
    have h1 (a : Option Nat) (t : State) (e : (if z.isOpen then (none, s) else openZone zk .implicit s) = (a, t)) : Kept q n t := by
      split at e
      · cases e; assumption
      · exact Kept.pair e (openZone_kept _ _ _ hs)
    split
    · exact endCmd_kept _ _ _ _ _ (h1 _ _ (by assumption))
    · extract_lets s1
      exact nextUnit_kept _ _ (State.updCmd_kept _ _ _ (State.updZone_kept _ _ _ (h1 _ _ (by assumption))))

theorem releaseHeld_kept (zk : ℕ) (s : State) (hs : Kept q n s) : Kept q n (releaseHeld zk s) := by
  unfold releaseHeld
  extract_lets s1
  refine Kept.foldl _ _ ?_ fun s x h => ?_
  · assumption
  · refine appendTry_kept _ _ ?_
    assumption

theorem doZoneAppend_kept (x : IoCmd) (s : State) (hs : Kept q n s) : Kept q n (doZoneAppend x s) := by
  unfold doZoneAppend
  refine Kept.ite ?_ ?_
  · refine dropSegment_kept _ _ ?_
    assumption
  · refine ioCmd_kept _ _ _ _ (fun x0 x1 h' => ?_) ?_
    · refine Kept.ite ?_ ?_
      · refine invalidField_kept _ _ ?_
        assumption
      · refine capCheck_kept _ _ ?_
        refine appendTry_kept _ _ ?_
        refine placeCmd_kept _ _ _ ?_
        assumption
    · assumption

theorem doAdmission_kept (conn : ℕ) (cid : ℕ) (s : State) (hs : Kept q n s) : Kept q n (doAdmission conn cid s) := by
  unfold doAdmission
  extract_lets s1 s2
  split
  · extract_lets s3 s4 s5 s6 s7 s8 s9 s10
    have h6 : Kept q n s6 := by
      refine State.setFair_kept _ _ _ ?_
      assumption
    clear_value s6
    have h8 : Kept q n s8 := by
      refine Kept.upd ?_ rfl rfl rfl rfl rfl rfl rfl rfl
      assumption
    clear_value s8
    have h9 : Kept q n s9 := by
      refine State.updCmd_kept _ _ _ ?_
      assumption
    clear_value s9
    have h10 : Kept q n s10 := by
      refine Kept.upd ?_ rfl rfl rfl rfl rfl rfl rfl rfl
      assumption
    clear_value s10
    refine Kept.ite ?_ ?_
    · assumption
    · refine Kept.ite ?_ ?_
      · refine State.bump_kept _ _ _ _ ?_
        assumption
      · refine Kept.ite ?_ ?_
        · refine dataReady_kept _ _ ?_
          refine enqueue_kept _ _ ?_
          assumption
        · refine Kept.ite ?_ ?_
          · refine nextUnit_kept _ _ ?_
            assumption
          · assumption
  · assumption

theorem doReadyToTransferRelease_kept (conn : ℕ) (cid : ℕ) (s : State) (hs : Kept q n s) : Kept q n (doReadyToTransferRelease conn cid s) := by
  unfold doReadyToTransferRelease
  extract_lets s1
  split
  · extract_lets s2 s3 s4
    have h3 : Kept q n s3 := by
      refine Kept.upd ?_ rfl rfl rfl rfl rfl rfl rfl rfl
      assumption
    clear_value s3
    have h4 : Kept q n s4 := by
      refine State.updCmd_kept _ _ _ ?_
      assumption
    clear_value s4
    refine Kept.ite ?_ ?_
    · assumption
    · refine enqueue_kept _ _ ?_
      refine State.pdu_kept _ _ _ ?_
      assumption
  · assumption

theorem takeData_kept (k : ℕ) (i : ℕ) (n0 : ℕ) (s : State) (hs : Kept q n s) : Kept q n (takeData k i n0 s) := by
  unfold takeData
  split
  · assumption
  · split
    · assumption
    · refine Kept.ite ?_ ?_
      · extract_lets s1
        have h1 : Kept q n s1 := by
          refine State.updCmd_kept _ _ _ ?_
          assumption
        clear_value s1
        refine Kept.upd ?_ rfl rfl rfl rfl rfl rfl rfl rfl
        assumption
      · refine State.updCmd_kept _ _ _ ?_
        assumption

theorem doH2cdata_kept (x : H2cData) (s : State) (hs : Kept q n s) : Kept q n (doH2cdata x s) := by
  unfold doH2cdata
  split
  · assumption
  · extract_lets s1
    refine Kept.ite ?_ ?_
    · refine terminate_kept _ _ _ _ ?_
      assumption
    · refine Kept.ite ?_ ?_
      · refine terminate_kept _ _ _ _ ?_
        assumption
      · refine Kept.ite ?_ ?_
        · refine terminate_kept _ _ _ _ ?_
          assumption
        · refine Kept.ite ?_ ?_
          · refine terminate_kept _ _ _ _ ?_
            assumption
          · split
            · refine terminate_kept _ _ _ _ ?_
              assumption
            · extract_lets s2 s3 s4
              split
              · refine terminate_kept _ _ _ _ ?_
                assumption
              · refine Kept.ite ?_ ?_
                · refine terminate_kept _ _ _ _ ?_
                  assumption
                · extract_lets s5
                  have h5 : Kept q n s5 := by
                    refine takeData_kept _ _ _ _ ?_
                    assumption
                  clear_value s5
                  split
                  · refine Kept.ite ?_ ?_
                    · refine endCmd_kept _ _ _ _ _ ?_
                      assumption
                    · assumption
                  · refine Kept.ite ?_ ?_
                    · refine discardData_kept _ _ _ _ ?_
                      refine State.log_kept _ _ _ _ ?_
                      assumption
                    · split
                      · refine discardData_kept _ _ _ _ ?_
                        assumption
                      · refine dataReady_kept _ _ ?_
                        refine State.updCmd_kept _ _ _ ?_
                        assumption

theorem doAppendAssign_kept (conn : ℕ) (cid : ℕ) (s : State) (hs : Kept q n s) : Kept q n (doAppendAssign conn cid s) := by
  unfold doAppendAssign
  extract_lets s1 s2
  split
  · assumption
  · refine Kept.ite ?_ ?_
    · extract_lets s3 s4 s5
      split
      · refine State.bump_kept _ _ _ _ ?_
        assumption
      · extract_lets s6 s7 s8 s9
        have h6 : Kept q n s6 := by
          refine State.updZone_kept _ _ _ ?_
          refine land_kept _ _ _ _ _ ?_ _ (by assumption)
          assumption
        clear_value s6
        have h7 : Kept q n s7 := by
          refine State.updCmd_kept _ _ _ ?_
          assumption
        clear_value s7
        have h9 : Kept q n s9 := by
          refine Kept.ite ?_ ?_
          · refine askPartial_kept _ _ ?_
            assumption
          · assumption
        clear_value s9
        refine Kept.ite ?_ ?_
        · refine beginSeal_kept _ _ _ ?_
          assumption
        · refine Kept.ite ?_ ?_
          · refine fillZone_kept _ _ ?_
            assumption
          · refine zoneSaved_kept _ _ ?_
            assumption
    · assumption

theorem doWriteCompletionRelease_kept (conn : ℕ) (cid : ℕ) (s : State) (hs : Kept q n s) : Kept q n (doWriteCompletionRelease conn cid s) := by
  unfold doWriteCompletionRelease
  extract_lets s1 s2
  have h2 : Kept q n s2 := by
    refine storeWrite_kept _ _ ?_
    assumption
  clear_value s2
  split
  · refine Kept.ite ?_ ?_
    · refine Kept.ite ?_ ?_
      · assumption
      · refine endCmd_kept _ _ _ _ _ ?_
        assumption
    · assumption
  · assumption

end Sys2Proof.Machine
end

