-- ==== Sys2Proof/Laws/KeptDrives.lean ====
section
/-!
SUPPORT. What every operation keeps (Laws/Kept.lean): drive commands, updates, the Case's error correction, failures, and the write and read paths.
-/

namespace Sys2Proof.Machine

variable {q : List Instr} {n : Nat}

theorem sendCmd_kept (p : ℕ) (tag : ℕ) (c : DrvCmd) (s : State) (hs : Kept q n s) : Kept q n (sendCmd p tag c s) := by
  unfold sendCmd
  refine Kept.foldl _ _ ?_ fun s x h => ?_
  · refine State.updDrv_kept _ _ _ ?_
    assumption
  · refine State.emit_kept _ _ ?_
    assumption

theorem pumpN_kept (p m : Nat) (s : State) (hs : Kept q n s) : Kept q n (pumpN p m s) := by
  induction m generalizing s with
  | zero => exact hs
  | succ m ih =>
    unfold pumpN
    extract_lets s1
    split
    · assumption
    · exact Kept.ite (ih _ (sendCmd_kept _ _ _ _ (State.setDrv_kept _ _ _ hs))) hs

theorem pump_kept (p : ℕ) (s : State) (hs : Kept q n s) : Kept q n (pump p s) := by
  unfold pump
  refine pumpN_kept _ _ _ ?_
  assumption

theorem giveCmd_kept (p : ℕ) (c : DrvCmd) (s : State) (hs : Kept q n s) : Kept q n (giveCmd p c s) := by
  unfold giveCmd
  extract_lets s1
  have h1 : Kept q n s1 := by
    refine Kept.upd ?_ rfl rfl rfl rfl rfl rfl rfl rfl
    assumption
  clear_value s1
  refine pump_kept _ _ ?_
  refine State.updDrv_kept _ _ _ ?_
  assumption

theorem setFill_kept (v : Bool) (g : ℕ) (t : ℕ) (p : ℕ) (b : ℕ) (n0 : ℕ) (s : State) (hs : Kept q n s) : Kept q n (setFill v g t p b n0 s) := by
  unfold setFill
  refine Kept.ite ?_ ?_
  · extract_lets s1
    refine Kept.foldl _ _ ?_ fun s x h => ?_
    · assumption
    · extract_lets s2 s3
      have h3 : Kept q n s3 := by
        refine Kept.ite ?_ ?_
        · refine Kept.getD (fun t ht => ?_) ?_
          · refine newLine_kept _ _ _ _ _ ?_ _ (by assumption)
            assumption
          · refine waitCount_kept _ _ _ _ ?_
            assumption
        · assumption
      clear_value s3
      refine updLine_kept _ _ _ _ _ ?_
      assumption
  · assumption

theorem dropCmd_kept (p : ℕ) (tag : ℕ) (s : State) (hs : Kept q n s) : Kept q n (dropCmd p tag s) := by
  unfold dropCmd
  extract_lets s1 s2
  have h2 : Kept q n s2 := by
    refine State.setDrv_kept _ _ _ ?_
    assumption
  clear_value s2
  split
  · refine Kept.ite ?_ ?_
    · refine setFill_kept _ _ _ _ _ _ _ ?_
      assumption
    · assumption
  · assumption

theorem finishCmd_kept (p : ℕ) (tag : ℕ) (s : State) (hs : Kept q n s) : Kept q n (finishCmd p tag s) := by
  unfold finishCmd
  split
  · refine pump_kept _ _ ?_
    refine State.bump_kept _ _ _ _ ?_
    refine dropCmd_kept _ _ _ ?_
    assumption
  · assumption

theorem finishAll_kept (use : DrvUse) (g : ℕ) (t : ℕ) (pos : Option ℕ) (s : State) (hs : Kept q n s) : Kept q n (finishAll use g t pos s) := by
  unfold finishAll
  extract_lets s1
  refine Kept.foldl _ _ ?_ fun s x h => ?_
  · assumption
  · refine Kept.foldl _ _ ?_ fun s x h => ?_
    · assumption
    · refine Kept.ite ?_ ?_
      · refine finishCmd_kept _ _ _ ?_
        assumption
      · assumption

theorem issueRead_kept (use : DrvUse) (g : ℕ) (t : ℕ) (p : ℕ) (b : ℕ) (n0 : ℕ) (s : State) (hs : Kept q n s) : Kept q n (issueRead use g t p b n0 s) := by
  unfold issueRead
  split
  · assumption
  · extract_lets s1 s2
    have h2 : Kept q n s2 := by
      refine Kept.ite ?_ ?_
      · refine setFill_kept _ _ _ _ _ _ _ ?_
        assumption
      · assumption
    clear_value s2
    refine giveCmd_kept _ _ _ ?_
    assumption

theorem noteMissed_kept (g : ℕ) (t : ℕ) (p : ℕ) (s : State) (hs : Kept q n s) : Kept q n (noteMissed g t p s) := by
  unfold noteMissed
  split
  · assumption
  · extract_lets s1 s2
    refine Kept.ite ?_ ?_
    · refine State.updSig_kept _ _ _ ?_
      refine setMem_kept _ _ _ _ ?_
      assumption
    · assumption

theorem writeAt_kept (use : DrvUse) (g : ℕ) (t : ℕ) (p : ℕ) (at_ : ℕ × ℕ) (blocks : NMap RdVal) (s : State) (hs : Kept q n s) : Kept q n (writeAt use g t p at_ blocks s) := by
  unfold writeAt
  split
  · assumption
  · extract_lets s1 s2
    refine giveCmd_kept _ _ _ ?_
    assumption

theorem issueWrite_kept (use : DrvUse) (g : ℕ) (t : ℕ) (p : ℕ) (blocks : NMap RdVal) (s : State) (hs : Kept q n s) : Kept q n (issueWrite use g t p blocks s).2 := by
  unfold issueWrite
  split
  · dsimp only
    refine noteMissed_kept _ _ _ _ ?_
    assumption
  · dsimp only
    refine writeAt_kept _ _ _ _ _ _ _ ?_
    assumption

theorem addLost_kept (g : ℕ) (t : ℕ) (b : ℕ) (bad : List (ℕ × Bool)) (s : State) (hs : Kept q n s) : Kept q n (addLost g t b bad s) := by
  unfold addLost
  refine Kept.ite ?_ ?_
  · refine Kept.upd ?_ rfl rfl rfl rfl rfl rfl rfl rfl
    assumption
  · refine Kept.upd ?_ rfl rfl rfl rfl rfl rfl rfl rfl
    assumption

theorem failRead_kept (c : DrvCmd) (blocks : List ℕ) (s : State) (hs : Kept q n s) : Kept q n (failRead c blocks s) := by
  unfold failRead
  refine Kept.ite ?_ ?_
  · refine Kept.foldl _ _ ?_ fun s x h => ?_
    · assumption
    · refine addLost_kept _ _ _ _ _ ?_
      assumption
  · assumption

theorem addRepair_kept (g : ℕ) (t : ℕ) (p : ℕ) (b : ℕ) (v : RdVal) (silent : Bool) (s : State) (hs : Kept q n s) : Kept q n (addRepair g t p b v silent s) := by
  unfold addRepair
  extract_lets s1 s2
  have h2 : Kept q n s2 := by
    refine Kept.ite ?_ ?_
    · refine Kept.upd ?_ rfl rfl rfl rfl rfl rfl rfl rfl
      assumption
    · refine Kept.upd ?_ rfl rfl rfl rfl rfl rfl rfl rfl
      assumption
  clear_value s2
  refine Kept.ite ?_ ?_
  · refine updLine_kept _ _ _ _ _ ?_
    assumption
  · assumption

theorem endRepair_kept (r : Repair) (s : State) (hs : Kept q n s) : Kept q n (endRepair r s) := by
  unfold endRepair
  extract_lets s1 s2
  have h1 : Kept q n s1 := by
    refine Kept.upd ?_ rfl rfl rfl rfl rfl rfl rfl rfl
    assumption
  clear_value s1
  refine Kept.ite ?_ ?_
  · refine Kept.foldl _ _ ?_ fun s x h => ?_
    · assumption
    · extract_lets s3
      refine Kept.ite ?_ ?_
      · assumption
      · refine updLine_kept _ _ _ _ _ ?_
        assumption
  · assumption

theorem dropRepairs_kept (g : ℕ) (t : ℕ) (p : ℕ) (bs : List ℕ) (s : State) (hs : Kept q n s) : Kept q n (dropRepairs g t p bs s) := by
  unfold dropRepairs
  refine Kept.foldl _ _ ?_ fun s x h => ?_
  · assumption
  · refine Kept.ite ?_ ?_
    · extract_lets s1
      refine Kept.ite ?_ ?_
      · refine endRepair_kept _ _ ?_
        assumption
      · refine Kept.upd ?_ rfl rfl rfl rfl rfl rfl rfl rfl
        assumption
    · assumption

theorem countSilent_kept (g : ℕ) (d : ℕ) (s : State) (hs : Kept q n s) : Kept q n (countSilent g d s) := by
  unfold countSilent
  extract_lets s1 s2
  refine setMem_kept _ _ _ _ ?_
  assumption

theorem countFix_kept (g : ℕ) (t : ℕ) (p : ℕ) (silent : Bool) (s : State) (hs : Kept q n s) : Kept q n (countFix g t p silent s) := by
  unfold countFix
  refine Kept.ite ?_ ?_
  · refine countSilent_kept _ _ _ ?_
    refine State.bump_kept _ _ _ _ ?_
    assumption
  · refine State.bump_kept _ _ _ _ ?_
    assumption

theorem updCells_kept (g : ℕ) (t : ℕ) (offs : List ℕ) (f : Cell → Cell) (s : State) (hs : Kept q n s) : Kept q n (updCells g t offs f s) := by
  unfold updCells
  extract_lets s1 s2
  refine Kept.foldl _ _ ?_ fun s x h => ?_
  · assumption
  · refine updLine_kept _ _ _ _ _ ?_
    assumption

theorem updReads_kept (id : ℕ) (g : ℕ) (t : ℕ) (reads : List (ℕ × ℕ)) (s : State) (hs : Kept q n s) : Kept q n (updReads id g t reads s) := by
  unfold updReads
  refine Kept.foldl _ _ ?_ fun s x h => ?_
  · assumption
  · extract_lets s1
    clear_value s1
    split
    · assumption
    · extract_lets s2 s3
      refine issueRead_kept _ _ _ _ _ _ _ ?_
      assumption

theorem startUpd_kept (u : Upd) (s : State) (hs : Kept q n s) : Kept q n (startUpd u s) := by
  unfold startUpd
  extract_lets s1 s2 s3 s4
  have h3 : Kept q n s3 := by
    refine Kept.upd ?_ rfl rfl rfl rfl rfl rfl rfl rfl
    assumption
  clear_value s3
  have h4 : Kept q n s4 := by
    refine State.updSig_kept _ _ _ ?_
    assumption
  clear_value s4
  refine updReads_kept _ _ _ _ _ ?_
  refine updCells_kept _ _ _ _ _ ?_
  assumption

theorem settleEvb_kept (s : State) (hs : Kept q n s) : Kept q n (settleEvb s) := by
  unfold settleEvb
  refine Kept.upd ?_ rfl rfl rfl rfl rfl rfl rfl rfl
  assumption

theorem keepGalley_kept (u : Upd) (s : State) (hs : Kept q n s) : Kept q n (keepGalley u s) := by
  unfold keepGalley
  split
  · refine Kept.ite ?_ ?_
    · extract_lets s1
      have h1 : Kept q n s1 := by
        refine Kept.foldl _ _ ?_ fun s x h => ?_
        · assumption
        · refine fillParity_kept _ _ _ _ _ _ ?_
          refine fillParity_kept _ _ _ _ _ _ ?_
          assumption
      clear_value s1
      refine retainSheet_kept _ _ _ _ ?_
      assumption
    · refine retainSheet_kept _ _ _ _ ?_
      assumption
  · assumption

theorem retireUpd_kept (id : ℕ) (s : State) (hs : Kept q n s) : Kept q n (retireUpd id s) := by
  unfold retireUpd
  split
  · assumption
  · extract_lets s1 s2 s3 s4 s5 s6 s7 s8 s9 s10
    have h1 : Kept q n s1 := by
      refine Kept.upd ?_ rfl rfl rfl rfl rfl rfl rfl rfl
      assumption
    clear_value s1
    have h5 : Kept q n s5 := by
      refine Kept.ite ?_ ?_
      · assumption
      · refine updCells_kept _ _ _ _ _ ?_
        assumption
    clear_value s5
    have h6 : Kept q n s6 := by
      refine Kept.ite ?_ ?_
      · assumption
      · refine hbRemove_kept _ _ _ ?_
        assumption
    clear_value s6
    have h7 : Kept q n s7 := by
      refine State.updSig_kept _ _ _ ?_
      assumption
    clear_value s7
    have h8 : Kept q n s8 := by
      unfold s8
      split
      · refine State.bump_kept _ _ _ _ ?_
        assumption
      · refine State.bump_kept _ _ _ _ ?_
        assumption
      · refine State.bump_kept _ _ _ _ ?_
        assumption
      · refine State.bump_kept _ _ _ _ ?_
        assumption
      · refine State.bump_kept _ _ _ _ ?_
        assumption
      · refine State.bump_kept _ _ _ _ ?_
        assumption
      · assumption
    clear_value s8
    have h9 : Kept q n s9 := by
      refine Kept.ite ?_ ?_
      · assumption
      · refine keepGalley_kept _ _ ?_
        assumption
    clear_value s9
    have h10 : Kept q n s10 := by
      refine Kept.foldl _ _ ?_ fun s x h => ?_
      · assumption
      · refine settleLine_kept _ _ _ ?_
        assumption
    clear_value s10
    refine settleEvb_kept _ ?_
    assumption

theorem folioDone_kept (id : ℕ) (pos : ℕ) (s : State) (hs : Kept q n s) : Kept q n (folioDone id pos s) := by
  unfold folioDone
  split
  · assumption
  · extract_lets s1 s2
    have h2 : Kept q n s2 := by
      refine Kept.upd ?_ rfl rfl rfl rfl rfl rfl rfl rfl
      assumption
    clear_value s2
    refine Kept.ite ?_ ?_
    · refine retireUpd_kept _ _ ?_
      assumption
    · assumption

theorem readyUpd_kept (id : ℕ) (s : State) (hs : Kept q n s) : Kept q n (readyUpd id s) := by
  unfold readyUpd
  split
  · assumption
  · extract_lets s1
    have h1 : Kept q n s1 := by
      refine Kept.upd ?_ rfl rfl rfl rfl rfl rfl rfl rfl
      assumption
    clear_value s1
    refine Kept.foldl _ _ ?_ fun s x h => ?_
    · assumption
    · extract_lets s2 s3
      have h2 : Kept q n s2 := by
        refine dropRepairs_kept _ _ _ _ _ ?_
        assumption
      clear_value s2
      have h3 : Kept q n s3.2 := by
        refine issueWrite_kept _ _ _ _ _ _ ?_
        assumption
      clear_value s3
      refine Kept.ite ?_ ?_
      · assumption
      · refine folioDone_kept _ _ _ ?_
        assumption

theorem doReGo_kept (e : ℕ) (s : State) (hs : Kept q n s) : Kept q n (doReGo e s) := by
  unfold doReGo
  extract_lets s1 s2 s3 s4 s5 s6 s7 s8 s9 s10
  have h1 : Kept q n s1 := by
    refine State.pulse_kept _ _ _ ?_
    assumption
  clear_value s1
  have h8 : Kept q n s8 := by
    refine Kept.upd ?_ rfl rfl rfl rfl rfl rfl rfl rfl
    assumption
  clear_value s8
  have h9 : Kept q n s9 := by
    refine State.put_kept _ _ _ _ ?_
    refine State.put_kept _ _ _ _ ?_
    refine State.putB_kept _ _ _ _ ?_
    assumption
  clear_value s9
  have h10 : Kept q n s10 := by
    refine State.put_kept _ _ _ _ ?_
    refine State.put_kept _ _ _ _ ?_
    assumption
  clear_value s10
  refine Kept.ite ?_ ?_
  · refine State.raise_kept _ _ _ ?_
    assumption
  · refine State.put_kept _ _ _ _ ?_
    refine State.put_kept _ _ _ _ ?_
    assumption

theorem logRange_kept (e : ℕ) (r : RangeRun) (outcome : ℕ) (s : State) (hs : Kept q n s) : Kept q n (logRange e r outcome s) := by
  unfold logRange
  refine State.log_kept _ _ _ _ ?_
  assumption

theorem coverLine_kept (e : ℕ) (g : ℕ) (x : Line) (s : State) (hs : Kept q n s) : Kept q n (coverLine e g x s) := by
  unfold coverLine
  extract_lets s1 s2 s3
  have h2 : Kept q n s2 := by
    refine State.updSig_kept _ _ _ ?_
    assumption
  clear_value s2
  refine Kept.upd ?_ rfl rfl rfl rfl rfl rfl rfl rfl
  assumption

theorem evbFull_kept (s : State) (hs : Kept q n s) : Kept q n (evbFull s).2 := by
  unfold evbFull
  dsimp only
  refine State.raise_kept _ _ _ ?_
  assumption

theorem dropLine_kept (e key : Nat) (x : Line) (s : State) (hs : Kept q n s) : ∀ t, dropLine e key x s = some t → Kept q n t := by
  intro t ht
  unfold dropLine at ht
  obtain ⟨u, hu, rfl⟩ := Option.map_eq_some_iff.mp ht
  exact State.bump_kept _ _ _ _ (Kept.upd (evict_kept _ _ _ _ hs _ hu) rfl rfl rfl rfl rfl rfl rfl rfl)

theorem prefetch_kept (e : ℕ) (g : ℕ) (num : ℕ) (s : State) (hs : Kept q n s) : Kept q n (prefetch e g num s) := by
  unfold prefetch
  extract_lets s1 s2 s3 s4 s5
  have h3 : Kept q n s3 := by
    refine Kept.foldl _ _ ?_ fun s x h => ?_
    · assumption
    · extract_lets s6
      clear_value s6
      split
      · assumption
      · extract_lets s7
        refine issueRead_kept _ _ _ _ _ _ _ ?_
        assumption
  clear_value s3
  have h5 : Kept q n s5 := by
    refine Kept.upd ?_ rfl rfl rfl rfl rfl rfl rfl rfl
    assumption
  clear_value s5
  refine Kept.ite ?_ ?_
  · assumption
  · refine State.bump_kept _ _ _ _ ?_
    assumption

theorem discardLine_kept (e key : Nat) (r : RangeRun) (x : Line) (s : State) (hs : Kept q n s) :
    ∀ t, discardLine e key r x s = some t → Kept q n t := by
  intro t ht
  unfold discardLine at ht
  obtain ⟨u, hu, rfl⟩ := Option.map_eq_some_iff.mp ht
  have h1 := State.bump_kept u Reg.Cc.RE_DISCARDED (x.cells.filter fun c => c.2.dirty).length e (dropLine_kept _ _ _ _ hs _ hu)
  dsimp only
  refine Kept.ite h1 (logRange_kept _ _ _ _ (State.raise_kept _ _ _ (Kept.upd h1 rfl rfl rfl rfl rfl rfl rfl rfl)))

theorem rangeLine_kept (e : Nat) (r : RangeRun) (num : Nat) (s : State) (hs : Kept q n s) :
    ∀ t, rangeLine e r num s = some t → Kept q n t := by
  intro t ht
  unfold rangeLine at ht
  dsimp only at ht
  repeat' split at ht
  all_goals first
    | exact dropLine_kept _ _ _ _ hs _ ht
    | exact discardLine_kept _ _ _ _ _ hs _ ht
    | (cases ht; exact coverLine_kept _ _ _ _ hs)
    | (cases ht; exact hs)
    | (cases ht; exact prefetch_kept _ _ _ _ hs)
    | (cases ht; exact State.bump_kept _ _ _ _ (coverLine_kept _ _ _ _ hs))
    | (cases ht; exact State.bump_kept _ _ _ _ hs)
    | cases ht
    | (obtain ⟨u, hu, rfl⟩ := Option.map_eq_some_iff.mp ht
       exact State.bump_kept _ _ _ _ (Kept.upd (evict_kept _ _ _ _ (coverLine_kept _ _ _ _ hs) _ hu) rfl rfl rfl rfl rfl rfl rfl rfl))

theorem updEngine_kept (e : ℕ) (f : RangeRun → RangeRun) (s : State) (hs : Kept q n s) : Kept q n (updEngine e f s) := by
  unfold updEngine
  refine Kept.upd ?_ rfl rfl rfl rfl rfl rfl rfl rfl
  assumption

theorem visitN_kept (e m : Nat) (s : State) (hs : Kept q n s) : Kept q n (visitN e m s) := by
  induction m generalizing s with
  | zero => exact hs
  | succ m ih =>
    unfold visitN
    split
    · assumption
    · refine Kept.ite hs ?_
      extract_lets next
      have hn (t : State) (ht : Kept q n t) : Kept q n (next t) := ih _ (updEngine_kept _ _ _ ht)
      refine Kept.ite (hn _ (State.bump_kept _ _ _ _ (updEngine_kept _ _ _ hs))) ?_
      split
      · exact hn _ (rangeLine_kept _ _ _ _ hs _ (by assumption))
      · exact State.raise_kept _ _ _ hs

theorem doRangeVisit_kept (e : ℕ) (s : State) (hs : Kept q n s) : Kept q n (doRangeVisit e s) := by
  unfold doRangeVisit
  refine Kept.ite ?_ ?_
  · extract_lets s1
    have h1 : Kept q n s1 := by
      refine visitN_kept _ _ _ ?_
      assumption
    clear_value s1
    split
    · refine State.put_kept _ _ _ _ ?_
      refine State.put_kept _ _ _ _ ?_
      assumption
    · assumption
  · assumption

theorem doParkedLineApply_kept (e : ℕ) (num : ℕ) (s : State) (hs : Kept q n s) : Kept q n (doParkedLineApply e num s) := by
  unfold doParkedLineApply
  split
  · refine Kept.ite ?_ ?_
    · split
      · refine updEngine_kept _ _ _ ?_
        refine rangeLine_kept _ _ _ _ ?_ _ (by assumption)
        assumption
      · refine State.raise_kept _ _ _ ?_
        assumption
    · assumption
  · assumption

theorem doRangeComplete_kept (e : ℕ) (s : State) (hs : Kept q n s) : Kept q n (doRangeComplete e s) := by
  unfold doRangeComplete
  split
  · refine Kept.ite ?_ ?_
    · extract_lets s1 s2
      have h2 : Kept q n s2 := by
        refine State.putB_kept _ _ _ _ ?_
        refine Kept.upd ?_ rfl rfl rfl rfl rfl rfl rfl rfl
        assumption
      clear_value s2
      refine logRange_kept _ _ _ _ ?_
      refine State.raise_kept _ _ _ ?_
      assumption
    · assumption
  · assumption

theorem abortRanges_kept (s : State) (hs : Kept q n s) : Kept q n (abortRanges s) := by
  unfold abortRanges
  refine Kept.foldl _ _ ?_ fun s x h => ?_
  · assumption
  · refine logRange_kept _ _ _ _ ?_
    refine State.raise_kept _ _ _ ?_
    refine State.putB_kept _ _ _ _ ?_
    refine Kept.upd ?_ rfl rfl rfl rfl rfl rfl rfl rfl
    assumption

theorem addMap_kept (x : MapEnt) (s : State) (hs : Kept q n s) : Kept q n (addMap x s) := by
  unfold addMap
  refine Kept.ite ?_ ?_
  · refine Kept.upd ?_ rfl rfl rfl rfl rfl rfl rfl rfl
    assumption
  · refine State.log_kept _ _ _ _ ?_
    refine State.raise_kept _ _ _ ?_
    assumption

theorem writeMap_kept (s : State) (hs : Kept q n s) : Kept q n (writeMap s) := by
  unfold writeMap
  extract_lets s1 s2 s3
  have h2 : Kept q n s2 := by
    refine State.eachHalf_kept _ _ ?_
    assumption
  clear_value s2
  refine State.log_kept _ _ _ _ ?_
  refine Kept.upd ?_ rfl rfl rfl rfl rfl rfl rfl rfl
  assumption

theorem doRepairMapWrite_kept (s : State) (hs : Kept q n s) : Kept q n (doRepairMapWrite s) := by
  unfold doRepairMapWrite
  refine Kept.ite ?_ ?_
  · refine writeMap_kept _ ?_
    assumption
  · assumption

theorem showChan_kept (c : ℕ) (s : State) (hs : Kept q n s) : Kept q n (showChan c s) := by
  unfold showChan
  refine State.put_kept _ _ _ _ ?_
  refine State.put_kept _ _ _ _ ?_
  assumption

theorem loseCells_kept (g : ℕ) (num : ℕ) (js : List ℕ) (s : State) (hs : Kept q n s) : Kept q n (loseCells g num js s) := by
  unfold loseCells
  split
  · assumption
  · extract_lets s1 s2 s3 s4 s5
    have h2 : Kept q n s2 := by
      refine updLine_kept _ _ _ _ _ ?_
      assumption
    clear_value s2
    have h5 : Kept q n s5 := by
      refine Kept.upd ?_ rfl rfl rfl rfl rfl rfl rfl rfl
      assumption
    clear_value s5
    refine Kept.ite ?_ ?_
    · assumption
    · refine hbAdd_kept _ _ _ _ ?_
      refine settleLine_kept _ _ _ ?_
      refine State.raise_kept _ _ _ ?_
      assumption

theorem leaveService_kept (c : ℕ) (s : State) (hs : Kept q n s) : Kept q n (leaveService c s) := by
  unfold leaveService
  refine Kept.ite ?_ ?_
  · assumption
  · extract_lets s1 s2 s3 s4 s5 s6 s7
    have h2 : Kept q n s2 := by
      refine showChan_kept _ _ ?_
      refine State.setChan_kept _ _ _ ?_
      assumption
    clear_value s2
    have h3 : Kept q n s3 := by
      refine addMap_kept _ _ ?_
      refine State.raise_kept _ _ _ ?_
      assumption
    clear_value s3
    have h4 : Kept q n s4 := by
      refine loseChannel_kept _ _ ?_
      refine State.log_kept _ _ _ _ ?_
      assumption
    clear_value s4
    have h6 : Kept q n s6 := by
      refine Kept.foldl _ _ ?_ fun s x h => ?_
      · assumption
      · refine loseCells_kept _ _ _ _ ?_
        assumption
    clear_value s6
    refine Kept.ite ?_ ?_
    · refine Kept.upd ?_ rfl rfl rfl rfl rfl rfl rfl rfl
      assumption
    · assumption

theorem markErased_kept (c : ℕ) (dev : ℕ) (s : State) (hs : Kept q n s) : Kept q n (markErased c dev s) := by
  unfold markErased
  extract_lets s1 s2 s3 s4
  have h2 : Kept q n s2 := by
    refine State.log_kept _ _ _ _ ?_
    refine State.raise_kept _ _ _ ?_
    assumption
  clear_value s2
  have h3 : Kept q n s3 := by
    refine addMap_kept _ _ ?_
    assumption
  clear_value s3
  have h4 : Kept q n s4 := by
    refine showChan_kept _ _ ?_
    refine State.setChan_kept _ _ _ ?_
    assumption
  clear_value s4
  refine Kept.ite ?_ ?_
  · assumption
  · refine Kept.ite ?_ ?_
    · refine leaveService_kept _ _ ?_
      assumption
    · refine Kept.ite ?_ ?_
      · refine State.raise_kept _ _ _ ?_
        assumption
      · assumption

theorem moveFrames_kept (c : Nat) (x : Line) (s : State) (hs : Kept q n s) : ∀ a t, moveFrames c x s = some (a, t) → Kept q n t := by
  have hf (no : List Nat) (s : State) (hs : Kept q n s) (a : Nat × State)
      (e : (roomiest s ((List.range 4).filter fun d => d != c && chanDirty s d && !no.contains d)).map (fun d => takeFrame d s) = some a) : Kept q n a.2 := by
    obtain ⟨d, -, rfl⟩ := Option.map_eq_some_iff.mp e
    exact takeFrame_kept _ _ hs
  intro a t ht
  unfold moveFrames at ht
  extract_lets inC fresh others s1 s2 at ht
  have h1 : ∀ r, s1 = some r → Kept q n r.2 := by
    intro r e
    unfold s1 at e
    split at e
    · obtain ⟨y, hy, rfl⟩ := Option.map_eq_some_iff.mp e
      exact giveFrame_kept _ _ (hf _ _ hs _ hy)
    · cases e; exact hs
  clear_value s1
  have h2 : ∀ r, s2 = some r → Kept q n r.2 := by
    intro r e
    unfold s2 at e
    obtain ⟨y, hy, e⟩ := Option.bind_eq_some_iff.mp e
    have h3 := h1 _ hy
    split at e
    · split at e
      · split at e
        · cases e; exact giveFrame_kept _ _ (hf _ _ h3 _ (by assumption))
        · cases e; exact giveFrame_kept _ _ h3
      · cases e; exact h3
    · cases e; exact h3
  clear_value s2
  obtain ⟨r, hr, e⟩ := Option.map_eq_some_iff.mp ht
  have h3 := h2 _ hr
  refine Kept.pair e ?_
  refine foldl_keep (fun r : Line × State => Kept q n r.2) _ _ h3 fun r f h => ?_
  dsimp only
  split
  · split
    · exact giveFrame_kept _ _ (hf _ _ h _ (by assumption))
    · exact h
  · exact h

theorem doCleanOnlyCopy_kept (c : Nat) (s : State) (hs : Kept q n s) : Kept q n (doCleanOnlyCopy c s) := by
  unfold doCleanOnlyCopy
  refine Kept.ite (Kept.foldl _ _ hs fun s x h => ?_) hs
  split
  · refine Kept.ite ?_ h
    split
    · rename_i r e
      exact Kept.upd (moveFrames_kept _ _ _ h r.1 r.2 e) rfl rfl rfl rfl rfl rfl rfl rfl
    · assumption
  · assumption

theorem queueTest_kept (c : ℕ) (w : ℕ) (s : State) (hs : Kept q n s) : Kept q n (queueTest c w s) := by
  unfold queueTest
  extract_lets s1 s2 s3
  refine Kept.ite ?_ ?_
  · assumption
  · refine Kept.ite ?_ ?_
    · refine State.raise_kept _ _ _ ?_
      assumption
    · refine State.setChan_kept _ _ _ ?_
      refine faultItem_kept _ ?_
      assumption

theorem correctedWord_kept (c : ℕ) (w : ℕ) (ds : List ℕ) (s : State) (hs : Kept q n s) : Kept q n (correctedWord c w ds s) := by
  unfold correctedWord
  extract_lets s1 s2 s3
  have h2 : Kept q n s2 := by
    refine State.setChan_kept _ _ _ ?_
    assumption
  clear_value s2
  have h3 : Kept q n s3 := by
    refine State.raise_kept _ _ _ ?_
    refine State.bump_kept _ _ _ _ ?_
    assumption
  clear_value s3
  refine queueTest_kept _ _ _ ?_
  refine State.log_kept _ _ _ _ ?_
  assumption

theorem dropClean_kept (x : Line) (s : State) (hs : Kept q n s) : Kept q n (dropClean x s) := by
  unfold dropClean
  split
  · split
    · refine Kept.upd ?_ rfl rfl rfl rfl rfl rfl rfl rfl
      refine evict_kept _ _ _ _ ?_ _ (by assumption)
      assumption
    · extract_lets s1 s2
      have h1 : Kept q n s1 := by
        refine giveFrames_kept _ _ ?_
        refine State.raise_kept _ _ _ ?_
        assumption
      clear_value s1
      refine Kept.upd ?_ rfl rfl rfl rfl rfl rfl rfl rfl
      assumption
  · assumption

theorem uncorrectableWord_kept (c : ℕ) (w : ℕ) (other : Bool) (h : WordHolds) (s : State) (hs : Kept q n s) : Kept q n (uncorrectableWord c w other h s) := by
  unfold uncorrectableWord
  extract_lets s1 s2 s3 s4 s5 s6 s7 s8 s9 s10 s11 s12
  have h4 : Kept q n s4 := by
    refine State.log_kept _ _ _ _ ?_
    refine State.raise_kept _ _ _ ?_
    refine State.bump_kept _ _ _ _ ?_
    assumption
  clear_value s4
  have h5 : Kept q n s5 := by
    refine queueTest_kept _ _ _ ?_
    assumption
  clear_value s5
  have h6 : Kept q n s6 := by
    unfold s6
    clear_value s2
    split
    · refine Kept.ite ?_ ?_
      · refine dropClean_kept _ _ ?_
        assumption
      · refine Kept.ite ?_ ?_
        · refine loseCells_kept _ _ _ _ ?_
          assumption
        · assumption
    · refine Kept.ite ?_ ?_
      · split
        · refine Kept.upd ?_ rfl rfl rfl rfl rfl rfl rfl rfl
          assumption
        · assumption
      · assumption
    · assumption
  clear_value s6
  have h7 : Kept q n s7 := by
    refine State.raise_kept _ _ _ ?_
    assumption
  clear_value s7
  have h9 : Kept q n s9 := by
    refine Kept.ite ?_ ?_
    · refine Kept.upd ?_ rfl rfl rfl rfl rfl rfl rfl rfl
      assumption
    · assumption
  clear_value s9
  have h12 : Kept q n s12 := by
    refine State.setChan_kept _ _ _ ?_
    assumption
  clear_value s12
  refine Kept.ite ?_ ?_
  · refine leaveService_kept _ _ ?_
    assumption
  · assumption

theorem endScrubLap_kept (c : ℕ) (s : State) (hs : Kept q n s) : Kept q n (endScrubLap c s) := by
  unfold endScrubLap
  extract_lets s1 s2
  have h2 : Kept q n s2 := by
    refine State.put_kept _ _ _ _ ?_
    refine State.put_kept _ _ _ _ ?_
    assumption
  clear_value s2
  refine State.setChan_kept _ _ _ ?_
  assumption

theorem doPatrolScrub_kept (c : ℕ) (r : WordResult) (h : WordHolds) (w : ℕ) (s : State) (hs : Kept q n s) : Kept q n (doPatrolScrub c r h w s) := by
  unfold doPatrolScrub
  refine Kept.ite ?_ ?_
  · extract_lets s1 s2 s3 s4
    have h1 : Kept q n s1 := by
      refine Kept.ite ?_ ?_
      · refine endScrubLap_kept _ _ ?_
        assumption
      · assumption
    clear_value s1
    have h2 : Kept q n s2 := by
      refine State.put_kept _ _ _ _ ?_
      assumption
    clear_value s2
    have h3 : Kept q n s3 := by
      unfold s3
      split
      · assumption
      · extract_lets s5
        refine Kept.ite ?_ ?_
        · assumption
        · refine Kept.ite ?_ ?_
          · refine uncorrectableWord_kept _ _ _ _ _ ?_
            assumption
          · refine correctedWord_kept _ _ _ _ ?_
            assumption
      · refine uncorrectableWord_kept _ _ _ _ _ ?_
        assumption
    clear_value s3
    have h4 : Kept q n s4 := by
      refine Kept.ite ?_ ?_
      · refine State.put_kept _ _ _ _ ?_
        refine endScrubLap_kept _ _ ?_
        assumption
      · assumption
    clear_value s4
    refine State.put_kept _ _ _ _ ?_
    assumption
  · assumption

theorem replaceFrame_kept (c : ℕ) (f : ℕ) (s : State) (hs : Kept q n s) : Kept q n (replaceFrame c f s) := by
  unfold replaceFrame
  extract_lets s1 s2 s3 s4 s5 s6 s7 s8 s9
  have h4 : Kept q n s4 := by
    refine State.setChan_kept _ _ _ ?_
    assumption
  clear_value s4
  have h5 : Kept q n s5.2 := by
    refine takeFrame_kept _ _ ?_
    assumption
  clear_value s5
  have h8 : Kept q n s8 := by
    unfold s8
    assumption
  clear_value s8
  refine Kept.ite ?_ ?_
  · refine Kept.upd ?_ rfl rfl rfl rfl rfl rfl rfl rfl
    assumption
  · assumption

theorem retireFrame_kept (c : ℕ) (dev : ℕ) (t : RowTest) (s : State) (hs : Kept q n s) : Kept q n (retireFrame c dev t s) := by
  unfold retireFrame
  refine Kept.ite ?_ ?_
  · refine markErased_kept _ _ _ ?_
    assumption
  · extract_lets s1 s2 s3 s4 s5
    have h1 : Kept q n s1 := by
      refine replaceFrame_kept _ _ _ ?_
      assumption
    clear_value s1
    have h4 : Kept q n s4 := by
      refine State.setChan_kept _ _ _ ?_
      assumption
    clear_value s4
    have h5 : Kept q n s5 := by
      refine addMap_kept _ _ ?_
      refine State.log_kept _ _ _ _ ?_
      assumption
    clear_value s5
    refine Kept.ite ?_ ?_
    · refine markErased_kept _ _ _ ?_
      assumption
    · assumption

theorem hardRow_kept (c : ℕ) (dev : ℕ) (t : RowTest) (s : State) (hs : Kept q n s) : Kept q n (hardRow c dev t s) := by
  unfold hardRow
  extract_lets s1 s2 s3 s4 s5
  have h3 : Kept q n s3 := by
    refine State.log_kept _ _ _ _ ?_
    assumption
  clear_value s3
  have h5 : Kept q n s5 := by
    refine State.setChan_kept _ _ _ ?_
    assumption
  clear_value s5
  refine Kept.ite ?_ ?_
  · refine addMap_kept _ _ ?_
    assumption
  · refine Kept.ite ?_ ?_
    · refine retireFrame_kept _ _ _ _ ?_
      assumption
    · refine addMap_kept _ _ ?_
      refine State.log_kept _ _ _ _ ?_
      refine State.raise_kept _ _ _ ?_
      assumption

theorem judgeTest_kept (c : ℕ) (t : RowTest) (r : List DevMismatch) (s : State) (hs : Kept q n s) : Kept q n (judgeTest c t r s) := by
  unfold judgeTest
  extract_lets s1
  refine Kept.ite ?_ ?_
  · refine leaveService_kept _ _ ?_
    assumption
  · refine Kept.ite ?_ ?_
    · refine State.log_kept _ _ _ _ ?_
      refine State.bump_kept _ _ _ _ ?_
      assumption
    · refine Kept.foldl _ _ ?_ fun s x h => ?_
      · assumption
      · refine Kept.ite ?_ ?_
        · refine markErased_kept _ _ _ ?_
          refine State.log_kept _ _ _ _ ?_
          assumption
        · refine hardRow_kept _ _ _ _ ?_
          assumption

theorem doCaseSelfTest_kept (c : ℕ) (r : List DevMismatch) (s : State) (hs : Kept q n s) : Kept q n (doCaseSelfTest c r s) := by
  unfold doCaseSelfTest
  extract_lets s1 s2
  split
  · refine Kept.ite ?_ ?_
    · extract_lets s3
      have h3 : Kept q n s3 := by
        refine State.setChan_kept _ _ _ ?_
        assumption
      clear_value s3
      refine judgeTest_kept _ _ _ _ ?_
      assumption
    · assumption
  · refine Kept.ite ?_ ?_
    · assumption
    · refine State.setChan_kept _ _ _ ?_
      assumption
  · assumption

theorem putWin_kept (a : ℕ) (dev : ℕ) (bs : List ℕ) (s : State) (hs : Kept q n s) : Kept q n (putWin a dev bs s) := by
  unfold putWin
  refine Kept.upd ?_ rfl rfl rfl rfl rfl rfl rfl rfl
  assumption

theorem writeWord_kept (a : ℕ) (bs : List ℕ) (s : State) (hs : Kept q n s) : Kept q n (writeWord a bs s) := by
  unfold writeWord
  refine putWin_kept _ _ _ _ ?_
  refine putWin_kept _ _ _ _ ?_
  assumption

theorem flushMerge_kept (i : ℕ) (s : State) (hs : Kept q n s) : Kept q n (flushMerge i s) := by
  unfold flushMerge
  split
  · assumption
  · extract_lets s1 s2 s3 s4
    have h3 : Kept q n s3 := by
      refine writeWord_kept _ _ _ ?_
      assumption
    clear_value s3
    refine Kept.upd ?_ rfl rfl rfl rfl rfl rfl rfl rfl
    assumption

theorem narrowWrite_kept (a : ℕ) (bytes : NMap ℕ) (s : State) (hs : Kept q n s) : Kept q n (narrowWrite a bytes s) := by
  unfold narrowWrite
  split
  · refine Kept.upd ?_ rfl rfl rfl rfl rfl rfl rfl rfl
    assumption
  · extract_lets s1 s2 s3
    have h1 : Kept q n s1 := by
      refine State.raise_kept _ _ _ ?_
      assumption
    clear_value s1
    have h2 : Kept q n s2 := by
      refine Kept.ite ?_ ?_
      · assumption
      · split
        · refine flushMerge_kept _ _ ?_
          assumption
        · assumption
    clear_value s2
    refine Kept.upd ?_ rfl rfl rfl rfl rfl rfl rfl rfl
    assumption

theorem wholeWrite_kept (a : ℕ) (bs : List ℕ) (s : State) (hs : Kept q n s) : Kept q n (wholeWrite a bs s) := by
  unfold wholeWrite
  refine writeWord_kept _ _ _ ?_
  refine Kept.upd ?_ rfl rfl rfl rfl rfl rfl rfl rfl
  assumption

theorem doMergeEntryFlush_kept (i : ℕ) (s : State) (hs : Kept q n s) : Kept q n (doMergeEntryFlush i s) := by
  unfold doMergeEntryFlush
  split
  · refine Kept.ite ?_ ?_
    · refine flushMerge_kept _ _ ?_
      assumption
    · assumption
  · assumption

theorem emptyMerge_kept (s : State) (hs : Kept q n s) : Kept q n (emptyMerge s) := by
  unfold emptyMerge
  refine Kept.foldl _ _ ?_ fun s x h => ?_
  · assumption
  · refine flushMerge_kept _ _ ?_
    assumption

theorem endEccTest_kept (s : State) (hs : Kept q n s) : Kept q n (endEccTest s) := by
  unfold endEccTest
  refine Kept.ite ?_ ?_
  · extract_lets s1 s2 s3
    have h2 : Kept q n s2 := by
      refine State.putB_kept _ _ _ _ ?_
      assumption
    clear_value s2
    refine Kept.upd ?_ rfl rfl rfl rfl rfl rfl rfl rfl
    assumption
  · assumption

theorem doEccTestEn_kept (v : Bool) (s : State) (hs : Kept q n s) : Kept q n (doEccTestEn v s) := by
  unfold doEccTestEn
  refine Kept.ite ?_ ?_
  · refine Kept.ite ?_ ?_
    · refine State.putB_kept _ _ _ _ ?_
      assumption
    · assumption
  · refine endEccTest_kept _ ?_
    assumption

theorem doDevSel_kept (v : ℕ) (s : State) (hs : Kept q n s) : Kept q n (doDevSel v s) := by
  unfold doDevSel
  extract_lets s1 s2 s3 s4 s5 s6 s7
  have h4 : Kept q n s4 := by
    refine State.put_kept _ _ _ _ ?_
    refine State.put_kept _ _ _ _ ?_
    assumption
  clear_value s4
  have h5 : Kept q n s5 := by
    refine Kept.ite ?_ ?_
    · refine State.raise_kept _ _ _ ?_
      assumption
    · assumption
  clear_value s5
  have h7 : Kept q n s7 := by
    refine State.put_kept _ _ _ _ ?_
    assumption
  clear_value s7
  refine State.put_kept _ _ _ _ ?_
  refine State.put_kept _ _ _ _ ?_
  assumption

theorem endCmdOf_kept (missed : Bool) (c : DrvCmd) (s : State) (hs : Kept q n s) : Kept q n (endCmdOf missed c s) := by
  unfold endCmdOf
  refine Kept.ite ?_ ?_
  · extract_lets s1
    have h1 : Kept q n s1 := by
      refine Kept.ite ?_ ?_
      · refine noteMissed_kept _ _ _ _ ?_
        assumption
      · assumption
    clear_value s1
    split
    · refine folioDone_kept _ _ _ ?_
      assumption
    · split
      · refine endRepair_kept _ _ ?_
        assumption
      · assumption
    · assumption
  · split
    · refine failRead_kept _ _ _ ?_
      assumption
    · split
      · refine endRepair_kept _ _ ?_
        assumption
      · assumption
    · assumption

theorem endPortCmds_kept (missed : Bool) (p : ℕ) (s : State) (hs : Kept q n s) : Kept q n (endPortCmds missed p s) := by
  unfold endPortCmds
  extract_lets s1 s2
  refine Kept.foldl _ _ ?_ fun s x h => ?_
  · assumption
  · refine endCmdOf_kept _ _ _ ?_
    refine dropCmd_kept _ _ _ ?_
    assumption

theorem updEnt_kept (g : ℕ) (e : ℕ) (f : FailEnt → FailEnt) (s : State) (hs : Kept q n s) : Kept q n (updEnt g e f s) := by
  unfold updEnt
  split
  · refine State.updSig_kept _ _ _ ?_
    assumption
  · assumption

theorem putEnt_kept (g : ℕ) (e : ℕ) (x : FailEnt) (s : State) (hs : Kept q n s) : Kept q n (putEnt g e x s) := by
  unfold putEnt
  refine State.updSig_kept _ _ _ ?_
  assumption

theorem addWindows_kept (g : ℕ) (b : ℕ) (s : State) (hs : Kept q n s) : Kept q n (addWindows g b s) := by
  unfold addWindows
  extract_lets s1 s2 s3 s4 s5
  have h4 : Kept q n s4 := by
    refine Kept.foldl _ _ ?_ fun s x h => ?_
    · assumption
    · refine updEnt_kept _ _ _ _ ?_
      assumption
  clear_value s4
  have h5 : Kept q n s5 := by
    refine Kept.foldl _ _ ?_ fun s x h => ?_
    · assumption
    · refine Kept.foldl _ _ ?_ fun s x h => ?_
      · assumption
      · refine updEnt_kept _ _ _ _ ?_
        assumption
  clear_value s5
  refine Kept.foldl _ _ ?_ fun s x h => ?_
  · assumption
  · refine Kept.ite ?_ ?_
    · assumption
    · refine State.log_kept _ _ _ _ ?_
      assumption

theorem takeEntry_kept (g : ℕ) (d : ℕ) (cause : ℕ) (s : State) (hs : Kept q n s) : Kept q n (takeEntry g d cause s) := by
  unfold takeEntry
  extract_lets s1 s2 s3 s4 s5 s6 s7
  have h6 : Kept q n s6 := by
    refine setMem_kept _ _ _ _ ?_
    assumption
  clear_value s6
  have h7 : Kept q n s7 := by
    refine Kept.foldl _ _ ?_ fun s x h => ?_
    · assumption
    · extract_lets s8
      refine putEnt_kept _ _ _ _ ?_
      assumption
  clear_value s7
  refine Kept.ite ?_ ?_
  · refine setMem_kept _ _ _ _ ?_
    assumption
  · refine addWindows_kept _ _ _ ?_
    refine Kept.upd ?_ rfl rfl rfl rfl rfl rfl rfl rfl
    assumption

theorem reuse_kept (g : ℕ) (s : State) (hs : Kept q n s) : Kept q n (reuse g s) := by
  unfold reuse
  extract_lets s1 s2 s3 s4
  have h3 : Kept q n s3 := by
    unfold s3
    clear_value s2
    split
    · refine Kept.foldl _ _ ?_ fun s x h => ?_
      · assumption
      · refine updEnt_kept _ _ _ _ ?_
        assumption
    · assumption
  clear_value s3
  refine Kept.foldl _ _ ?_ fun s x h => ?_
  · assumption
  · refine takeEntry_kept _ _ _ _ ?_
    assumption

theorem freeEnt_kept (g : ℕ) (e : ℕ) (s : State) (hs : Kept q n s) : Kept q n (freeEnt g e s) := by
  unfold freeEnt
  refine reuse_kept _ _ ?_
  refine State.updSig_kept _ _ _ ?_
  assumption

theorem addDead_kept (g : ℕ) (d : ℕ) (s : State) (hs : Kept q n s) : Kept q n (addDead g d s) := by
  unfold addDead
  refine Kept.foldl _ _ ?_ fun s x h => ?_
  · assumption
  · refine Kept.ite ?_ ?_
    · assumption
    · extract_lets s1
      refine updEnt_kept _ _ _ _ ?_
      assumption

theorem loseHolder_kept (g : ℕ) (d : ℕ) (s : State) (hs : Kept q n s) : Kept q n (loseHolder g d s) := by
  unfold loseHolder
  refine Kept.ite ?_ ?_
  · refine State.updSig_kept _ _ _ ?_
    assumption
  · assumption

theorem dropDrive_kept (g : ℕ) (d : ℕ) (missed : Bool) (s : State) (hs : Kept q n s) : Kept q n (dropDrive g d missed s) := by
  unfold dropDrive
  refine Kept.ite ?_ ?_
  · assumption
  · extract_lets s1
    refine endPortCmds_kept _ _ _ ?_
    refine State.updDrv_kept _ _ _ ?_
    assumption

theorem replacementFails_kept (g : ℕ) (d : ℕ) (s : State) (hs : Kept q n s) : Kept q n (replacementFails g d s) := by
  unfold replacementFails
  refine Kept.foldl _ _ ?_ fun s x h => ?_
  · refine Kept.upd ?_ rfl rfl rfl rfl rfl rfl rfl rfl
    assumption
  · refine Kept.ite ?_ ?_
    · assumption
    · refine Kept.ite ?_ ?_
      · refine addWindows_kept _ _ _ ?_
        refine updEnt_kept _ _ _ _ ?_
        assumption
      · split
        · extract_lets s1 s2 s3 s4
          have h3 : Kept q n s3 := by
            refine updEnt_kept _ _ _ _ ?_
            assumption
          clear_value s3
          refine Kept.ite ?_ ?_
          · assumption
          · split
            · refine addWindows_kept _ _ _ ?_
              refine putEnt_kept _ _ _ _ ?_
              assumption
            · refine setMem_kept _ _ _ _ ?_
              assumption
        · refine updEnt_kept _ _ _ _ ?_
          assumption

theorem declareNow_kept (g : ℕ) (d : ℕ) (cause : ℕ) (s : State) (hs : Kept q n s) : Kept q n (declareNow g d cause s) := by
  unfold declareNow
  refine Kept.ite ?_ ?_
  · assumption
  · extract_lets s1 s2 s3 s4 s5 s6 s7 s8 s9 s10 s11 s12
    have h5 : Kept q n s5 := by
      refine dropDrive_kept _ _ _ _ ?_
      assumption
    clear_value s5
    have h6 : Kept q n s6 := by
      refine Kept.ite ?_ ?_
      · refine State.emit_kept _ _ ?_
        assumption
      · assumption
    clear_value s6
    have h7 : Kept q n s7 := by
      refine State.updDrv_kept _ _ _ ?_
      assumption
    clear_value s7
    have h8 : Kept q n s8 := by
      refine State.updKeep_kept _ _ _ ?_
      assumption
    clear_value s8
    have h9 : Kept q n s9 := by
      refine State.updSig_kept _ _ _ ?_
      assumption
    clear_value s9
    have h10 : Kept q n s10 := by
      refine loseHolder_kept _ _ _ ?_
      refine addDead_kept _ _ _ ?_
      assumption
    clear_value s10
    have h11 : Kept q n s11 := by
      refine setMem_kept _ _ _ _ ?_
      assumption
    clear_value s11
    have h12 : Kept q n s12 := by
      refine Kept.ite ?_ ?_
      · refine reuse_kept _ _ ?_
        refine replacementFails_kept _ _ _ ?_
        assumption
      · refine takeEntry_kept _ _ _ _ ?_
        refine Kept.upd ?_ rfl rfl rfl rfl rfl rfl rfl rfl
        assumption
    clear_value s12
    refine Kept.ite ?_ ?_
    · assumption
    · refine State.log_kept _ _ _ _ ?_
      refine State.raise_kept _ _ _ ?_
      refine State.updSig_kept _ _ _ ?_
      assumption

theorem declare_kept (g : ℕ) (d : ℕ) (cause : ℕ) (s : State) (hs : Kept q n s) : Kept q n (declare g d cause s) := by
  unfold declare
  refine Kept.ite ?_ ?_
  · assumption
  · refine Kept.ite ?_ ?_
    · refine Kept.ite ?_ ?_
      · assumption
      · refine State.log_kept _ _ _ _ ?_
        refine State.updSig_kept _ _ _ ?_
        assumption
    · refine declareNow_kept _ _ _ _ ?_
      assumption

theorem judgeRetire_kept (g : ℕ) (s : State) (hs : Kept q n s) : Kept q n (judgeRetire g s) := by
  unfold judgeRetire
  extract_lets s1
  refine Kept.ite ?_ ?_
  · assumption
  · refine Kept.foldl _ _ ?_ fun s x h => ?_
    · assumption
    · refine Kept.ite ?_ ?_
      · assumption
      · refine declare_kept _ _ _ _ ?_
        refine State.raise_kept _ _ _ ?_
        assumption

theorem doLinkLossFailTimeout_kept (p : ℕ) (s : State) (hs : Kept q n s) : Kept q n (doLinkLossFailTimeout p s) := by
  unfold doLinkLossFailTimeout
  split
  · extract_lets s1
    refine Kept.ite ?_ ?_
    · refine declare_kept _ _ _ _ ?_
      assumption
    · assumption
  · assumption

theorem doDeferredDeclaration_kept (g : ℕ) (d : ℕ) (s : State) (hs : Kept q n s) : Kept q n (doDeferredDeclaration g d s) := by
  unfold doDeferredDeclaration
  split
  · refine Kept.ite ?_ ?_
    · refine declareNow_kept _ _ _ _ ?_
      assumption
    · assumption
  · assumption

theorem doFailGo_kept (g : ℕ) (s : State) (hs : Kept q n s) : Kept q n (doFailGo g s) := by
  unfold doFailGo
  extract_lets s1 s2 s3
  have h1 : Kept q n s1 := by
    refine State.pulse_kept _ _ _ ?_
    assumption
  clear_value s1
  refine Kept.ite ?_ ?_
  · refine State.log_kept _ _ _ _ ?_
    refine State.raise_kept _ _ _ ?_
    assumption
  · refine declare_kept _ _ _ _ ?_
    assumption

theorem doDestageAgeExpired_kept (g : ℕ) (t : ℕ) (s : State) (hs : Kept q n s) : Kept q n (doDestageAgeExpired g t s) := by
  unfold doDestageAgeExpired
  extract_lets s1
  refine Kept.ite ?_ ?_
  · refine State.updSig_kept _ _ _ ?_
    assumption
  · assumption

theorem doUpdateBegin_kept (g : ℕ) (t : ℕ) (s : State) (hs : Kept q n s) : Kept q n (doUpdateBegin g t s) := by
  unfold doUpdateBegin
  extract_lets s1
  refine Kept.ite ?_ ?_
  · assumption
  · refine Kept.ite ?_ ?_
    · refine startUpd_kept _ _ ?_
      assumption
    · split
      · assumption
      · refine Kept.ite ?_ ?_
        · refine startUpd_kept _ _ ?_
          assumption
        · assumption

theorem settleReads_kept (g : ℕ) (t : ℕ) (rs : List (ℕ × OffDone)) (s : State) (hs : Kept q n s) : Kept q n (settleReads g t rs s) := by
  unfold settleReads
  extract_lets s1 s2 s3 s4 s5
  have h2 : Kept q n s2 := by
    refine Kept.ite ?_ ?_
    · assumption
    · refine hbAdd_kept _ _ _ _ ?_
      assumption
  clear_value s2
  have h3 : Kept q n s3 := by
    refine Kept.foldl _ _ ?_ fun s x h => ?_
    · assumption
    · refine Kept.foldl _ _ ?_ fun s x h => ?_
      · assumption
      · refine addRepair_kept _ _ _ _ _ _ _ ?_
        assumption
  clear_value s3
  refine Kept.foldl _ _ ?_ fun s x h => ?_
  · assumption
  · refine countFix_kept _ _ _ _ _ ?_
    assumption

theorem doUpdateReadsComplete_kept (id : ℕ) (reads : List RdOffset) (s : State) (hs : Kept q n s) : Kept q n (doUpdateReadsComplete id reads s) := by
  unfold doUpdateReadsComplete
  split
  · assumption
  · refine Kept.ite ?_ ?_
    · assumption
    · extract_lets s1 s2 s3 s4 s5 s6 s7 s8
      have h5 : Kept q n s5 := by
        refine Kept.foldl _ _ ?_ fun s x h => ?_
        · assumption
        · refine Kept.foldl _ _ ?_ fun s x h => ?_
          · assumption
          · refine Kept.ite ?_ ?_
            · refine finishCmd_kept _ _ _ ?_
              assumption
            · assumption
      clear_value s5
      have h6 : Kept q n s6 := by
        refine Kept.ite ?_ ?_
        · refine State.updSig_kept _ _ _ ?_
          assumption
        · assumption
      clear_value s6
      have h7 : Kept q n s7 := by
        refine settleReads_kept _ _ _ _ ?_
        assumption
      clear_value s7
      refine Kept.ite ?_ ?_
      · assumption
      · refine judgeRetire_kept _ _ ?_
        refine Kept.upd ?_ rfl rfl rfl rfl rfl rfl rfl rfl
        assumption

theorem doUpdateReady_kept (id : ℕ) (s : State) (hs : Kept q n s) : Kept q n (doUpdateReady id s) := by
  unfold doUpdateReady
  split
  · assumption
  · refine Kept.ite ?_ ?_
    · refine readyUpd_kept _ _ ?_
      assumption
    · assumption

theorem doFolioWriteComplete_kept (id : ℕ) (pos : ℕ) (s : State) (hs : Kept q n s) : Kept q n (doFolioWriteComplete id pos s) := by
  unfold doFolioWriteComplete
  split
  · assumption
  · extract_lets s1
    clear_value s1
    split
    · refine Kept.ite ?_ ?_
      · refine folioDone_kept _ _ _ ?_
        refine finishCmd_kept _ _ _ ?_
        assumption
      · assumption
    · assumption

theorem doFlush_kept (h : CmdHdr) (s : State) (hs : Kept q n s) : Kept q n (doFlush h s) := by
  unfold doFlush
  refine gated_kept _ _ _ _ _ (fun x0 x1 h' => ?_) ?_
  · split
    · refine respond_kept _ _ _ _ _ _ ?_
      assumption
    · extract_lets s1 s2 s3 s4
      have h3 : Kept q n s3 := by
        refine State.setCmd_kept _ _ _ ?_
        assumption
      clear_value s3
      have h4 : Kept q n s4 := by
        refine Kept.upd ?_ rfl rfl rfl rfl rfl rfl rfl rfl
        assumption
      clear_value s4
      refine Kept.foldl _ _ ?_ fun s x h => ?_
      · assumption
      · extract_lets s5 s6
        refine State.updSig_kept _ _ _ ?_
        assumption
  · assumption

theorem doFlushComplete_kept (conn : ℕ) (cid : ℕ) (s : State) (hs : Kept q n s) : Kept q n (doFlushComplete conn cid s) := by
  unfold doFlushComplete
  extract_lets s1
  split
  · refine Kept.ite ?_ ?_
    · extract_lets s2
      refine Kept.ite ?_ ?_
      · refine endCmd_kept _ _ _ _ _ ?_
        assumption
      · refine State.updCmd_kept _ _ _ ?_
        assumption
    · assumption
  · assumption

theorem doBitmapCommit_kept (g : ℕ) (s : State) (hs : Kept q n s) : Kept q n (doBitmapCommit g s) := by
  unfold doBitmapCommit
  extract_lets s1 s2 s3 s4 s5 s6 s7
  have h7 : Kept q n s7 := by
    refine State.setSig_kept _ _ _ ?_
    assumption
  clear_value s7
  refine Kept.ite ?_ ?_
  · refine Kept.foldl _ _ ?_ fun s x h => ?_
    · assumption
    · refine State.emit_kept _ _ ?_
      assumption
  · assumption

theorem doBitmapCommitComplete_kept (g : ℕ) (targets : List ℕ) (s : State) (hs : Kept q n s) : Kept q n (doBitmapCommitComplete g targets s) := by
  unfold doBitmapCommitComplete
  extract_lets s1 s2
  split
  · assumption
  · extract_lets s3 s4 s5 s6 s7
    have h4 : Kept q n s4 := by
      refine Kept.ite ?_ ?_
      · refine Kept.upd ?_ rfl rfl rfl rfl rfl rfl rfl rfl
        assumption
      · assumption
    clear_value s4
    have h5 : Kept q n s5 := by
      refine Kept.ite ?_ ?_
      · refine Kept.upd ?_ rfl rfl rfl rfl rfl rfl rfl rfl
        assumption
      · assumption
    clear_value s5
    have h7 : Kept q n s7 := by
      refine State.updSig_kept _ _ _ ?_
      assumption
    clear_value s7
    refine Kept.ite ?_ ?_
    · refine State.log_kept _ _ _ _ ?_
      assumption
    · refine State.updSig_kept _ _ _ ?_
      assumption

theorem doRegionBitClear_kept (g : ℕ) (r : ℕ) (s : State) (hs : Kept q n s) : Kept q n (doRegionBitClear g r s) := by
  unfold doRegionBitClear
  extract_lets s1 s2 s3
  refine Kept.ite ?_ ?_
  · refine State.setSig_kept _ _ _ ?_
    assumption
  · assumption

theorem doHolderReplace_kept (g : ℕ) (d : ℕ) (s : State) (hs : Kept q n s) : Kept q n (doHolderReplace g d s) := by
  unfold doHolderReplace
  extract_lets s1 s2
  split
  · assumption
  · split
    · refine Kept.ite ?_ ?_
      · refine State.setSig_kept _ _ _ ?_
        assumption
      · assumption
    · refine Kept.ite ?_ ?_
      · extract_lets s3 s4 s5
        have h3 : Kept q n s3 := by
          refine State.setSig_kept _ _ _ ?_
          assumption
        clear_value s3
        have h4 : Kept q n s4 := by
          refine State.emit_kept _ _ ?_
          refine State.raise_kept _ _ _ ?_
          assumption
        clear_value s4
        refine State.log_kept _ _ _ _ ?_
        assumption
      · assumption

theorem writeItem_kept (use : DrvUse) (g : ℕ) (t : ℕ) (ws : List (ℕ × ℕ × RdVal)) (s : State) (hs : Kept q n s) : Kept q n (writeItem use g t ws s) := by
  unfold writeItem
  refine Kept.foldl _ _ ?_ fun s x h => ?_
  · assumption
  · extract_lets s1
    refine issueWrite_kept _ _ _ _ _ _ ?_
    assumption

theorem parityDone_kept (g : ℕ) (t : ℕ) (bs : List ℕ) (s : State) (hs : Kept q n s) : Kept q n (parityDone g t bs s) := by
  unfold parityDone
  refine State.updSig_kept _ _ _ ?_
  assumption

theorem resyncStep_kept (g from_ m : Nat) (s : State) (hs : Kept q n s) : Kept q n (resyncStep g from_ m s) := by
  induction m generalizing s from_ with
  | zero => exact hs
  | succ m ih =>
    unfold resyncStep
    extract_lets x
    split
    · assumption
    · split
      · exact State.setSig_kept _ _ _ hs
      · extract_lets s1
        have h1 : Kept q n s1 := State.setSig_kept _ _ _ hs
        clear_value s1
        exact Kept.ite (State.log_kept _ _ _ _ (State.raise_kept _ _ _ (State.updSig_kept _ _ _ h1))) (ih _ _ h1)

theorem doResyncItem_kept (g : ℕ) (t : ℕ) (reads : List RdOffset) (s : State) (hs : Kept q n s) : Kept q n (doResyncItem g t reads s) := by
  unfold doResyncItem
  extract_lets s1 s2 s3 s4 s5 s6 s7 s8 s9 s10
  have h8 : Kept q n s8 := by
    refine writeItem_kept _ _ _ _ _ ?_
    assumption
  clear_value s8
  have h9 : Kept q n s9 := by
    refine Kept.ite ?_ ?_
    · assumption
    · refine State.bump_kept _ _ _ _ ?_
      assumption
  clear_value s9
  have h10 : Kept q n s10 := by
    refine Kept.ite ?_ ?_
    · assumption
    · refine parityDone_kept _ _ _ _ ?_
      refine State.raise_kept _ _ _ ?_
      refine hbAdd_kept _ _ _ _ ?_
      assumption
  clear_value s10
  refine Kept.ite ?_ ?_
  · assumption
  · refine Kept.ite ?_ ?_
    · refine resyncStep_kept _ _ _ _ ?_
      assumption
    · refine Kept.ite ?_ ?_
      · assumption
      · refine Kept.ite ?_ ?_
        · assumption
        · refine Kept.ite ?_ ?_
          · refine State.updSig_kept _ _ _ ?_
            assumption
          · refine resyncStep_kept _ _ _ _ ?_
            assumption

theorem doStereoHalfLeavesService_kept (h : Half) (s : State) (hs : Kept q n s) : Kept q n (doStereoHalfLeavesService h s) := by
  unfold doStereoHalfLeavesService
  extract_lets s1 s2 s3
  have h3 : Kept q n s3 := by
    unfold s3
    split
    · refine Kept.ite ?_ ?_
      · refine Kept.upd ?_ rfl rfl rfl rfl rfl rfl rfl rfl
        assumption
      · assumption
    · refine Kept.ite ?_ ?_
      · refine Kept.upd ?_ rfl rfl rfl rfl rfl rfl rfl rfl
        assumption
      · assumption
  clear_value s3
  refine Kept.upd ?_ rfl rfl rfl rfl rfl rfl rfl rfl
  assumption

theorem finishRead_kept (k : ℕ) (s : State) (hs : Kept q n s) : Kept q n (finishRead k s) := by
  unfold finishRead
  split
  · assumption
  · refine Kept.ite ?_ ?_
    · extract_lets s1 s2 s3
      have h2 : Kept q n s2 := by
        refine Kept.ite ?_ ?_
        · assumption
        · refine State.pdu_kept _ _ _ ?_
          assumption
      clear_value s2
      have h3 : Kept q n s3 := by
        refine countRead_kept _ _ ?_
        assumption
      clear_value s3
      split
      · refine endCmdAt_kept _ _ _ _ _ ?_
        assumption
      · refine endCmd_kept _ _ _ _ _ ?_
        assumption
    · assumption

theorem feed_kept (g : ℕ) (lbn : ℕ) (v : RdVal) (s : State) (hs : Kept q n s) : Kept q n (feed g lbn v s) := by
  unfold feed
  extract_lets s1 s2 s3
  refine Kept.foldl _ _ ?_ fun s x h => ?_
  · assumption
  · refine finishRead_kept _ _ ?_
    refine State.updCmd_kept _ _ _ ?_
    assumption

theorem countHits_kept (g : ℕ) (miss : List ℕ) (lo : ℕ) (n0 : ℕ) (s : State) (hs : Kept q n s) : Kept q n (countHits g miss lo n0 s) := by
  unfold countHits
  refine Kept.foldl _ _ ?_ fun s x h => ?_
  · assumption
  · extract_lets s1 s2
    have h2 : Kept q n s2 := by
      refine Kept.ite ?_ ?_
      · refine State.bump_kept _ _ _ _ ?_
        assumption
      · refine State.bump_kept _ _ _ _ ?_
        assumption
    clear_value s2
    refine touch_kept _ _ _ _ ?_
    assumption

theorem readFolios_kept (g : ℕ) (ds : List (ℕ × ℕ × ℕ)) (s : State) (hs : Kept q n s) : Kept q n (readFolios g ds s) := by
  unfold readFolios
  refine Kept.foldl _ _ ?_ fun s x h => ?_
  · assumption
  · extract_lets s1
    clear_value s1
    split
    · assumption
    · extract_lets s2
      refine issueRead_kept _ _ _ _ _ _ _ ?_
      assumption

theorem doRead_kept (x : IoCmd) (s : State) (hs : Kept q n s) : Kept q n (doRead x s) := by
  unfold doRead
  refine ioCmd_kept _ _ _ _ (fun x0 x1 h' => ?_) ?_
  · extract_lets s1 s2 s3 s4 s5 s6 s7 s8 s9 s10 s11 s12 s13 s14 s15
    have h11 : Kept q n s11 := by
      refine tag3_kept _ _ _ ?_
      assumption
    clear_value s11
    have h12 : Kept q n s12 := by
      refine State.setCmd_kept _ _ _ ?_
      assumption
    clear_value s12
    have h13 : Kept q n s13 := by
      refine countHits_kept _ _ _ _ _ ?_
      refine Kept.upd ?_ rfl rfl rfl rfl rfl rfl rfl rfl
      assumption
    clear_value s13
    have h14 : Kept q n s14 := by
      refine readFolios_kept _ _ _ ?_
      assumption
    clear_value s14
    have h15 : Kept q n s15 := by
      refine Kept.foldl _ _ ?_ fun s x h => ?_
      · assumption
      · refine addLost_kept _ _ _ _ _ ?_
        assumption
    clear_value s15
    refine Kept.ite ?_ ?_
    · refine respond_kept _ _ _ _ _ _ ?_
      assumption
    · refine finishRead_kept _ _ ?_
      assumption
  · assumption

theorem takeRead_kept (c : DrvCmd) (blocks : List RdBlk) (s : State) (hs : Kept q n s) : Kept q n (takeRead c blocks s) := by
  unfold takeRead
  refine Kept.foldl _ _ ?_ fun s x h => ?_
  · assumption
  · extract_lets s1 s2
    split
    · refine feed_kept _ _ _ _ ?_
      refine fillBlock_kept _ _ _ _ _ ?_
      assumption
    · refine addLost_kept _ _ _ _ _ ?_
      assumption
    · refine addLost_kept _ _ _ _ _ ?_
      assumption

theorem doDriveReadComplete_kept (p : ℕ) (tag : ℕ) (blocks : List RdBlk) (s : State) (hs : Kept q n s) : Kept q n (doDriveReadComplete p tag blocks s) := by
  unfold doDriveReadComplete
  split
  · assumption
  · refine Kept.ite ?_ ?_
    · assumption
    · refine takeRead_kept _ _ _ ?_
      refine finishCmd_kept _ _ _ ?_
      assumption

theorem countRecon_kept (g : ℕ) (lbns : List ℕ) (s : State) (hs : Kept q n s) : Kept q n (countRecon g lbns s) := by
  unfold countRecon
  extract_lets s1
  refine Kept.foldl _ _ ?_ fun s x h => ?_
  · assumption
  · refine State.bump_kept _ _ _ _ ?_
    refine State.updCmd_kept _ _ _ ?_
    assumption

theorem doReadReconstruct_kept (g : ℕ) (t : ℕ) (o : RdOffset) (s : State) (hs : Kept q n s) : Kept q n (doReadReconstruct g t o s) := by
  unfold doReadReconstruct
  split
  · assumption
  · refine Kept.ite ?_ ?_
    · assumption
    · extract_lets s1 s2 s3 s4 s5 s6 s7 s8 s9 s10
      have h6 : Kept q n s6 := by
        refine countRecon_kept _ _ _ ?_
        refine Kept.upd ?_ rfl rfl rfl rfl rfl rfl rfl rfl
        assumption
      clear_value s6
      have h7 : Kept q n s7 := by
        refine hbAdd_kept _ _ _ _ ?_
        assumption
      clear_value s7
      have h8 : Kept q n s8 := by
        refine Kept.foldl _ _ ?_ fun s x h => ?_
        · assumption
        · refine countSilent_kept _ _ _ ?_
          assumption
      clear_value s8
      have h9 : Kept q n s9 := by
        unfold s9
        split
        · extract_lets s11 s12 s13 s14 s15
          have h12 : Kept q n s12 := by
            refine Kept.ite ?_ ?_
            · assumption
            · refine hbAdd_kept _ _ _ _ ?_
              assumption
          clear_value s12
          have h13 : Kept q n s13 := by
            refine Kept.foldl _ _ ?_ fun s x h => ?_
            · assumption
            · refine fillBlock_kept _ _ _ _ _ ?_
              assumption
          clear_value s13
          have h14 : Kept q n s14 := by
            refine Kept.foldl _ _ ?_ fun s x h => ?_
            · assumption
            · refine addRepair_kept _ _ _ _ _ _ _ ?_
              assumption
          clear_value s14
          have h15 : Kept q n s15 := by
            refine Kept.foldl _ _ ?_ fun s x h => ?_
            · assumption
            · refine countFix_kept _ _ _ _ _ ?_
              assumption
          clear_value s15
          refine Kept.foldl _ _ ?_ fun s x h => ?_
          · assumption
          · refine feed_kept _ _ _ _ ?_
            assumption
        · refine Kept.foldl _ _ ?_ fun s x h => ?_
          · assumption
          · refine feed_kept _ _ _ _ ?_
            assumption
      clear_value s9
      have h10 : Kept q n s10 := by
        refine Kept.foldl _ _ ?_ fun s x h => ?_
        · assumption
        · split
          · refine feed_kept _ _ _ _ ?_
            assumption
          · refine feed_kept _ _ _ _ ?_
            assumption
          · assumption
      clear_value s10
      refine Kept.ite ?_ ?_
      · assumption
      · refine judgeRetire_kept _ _ ?_
        assumption

theorem setRepair_kept (r : Repair) (q0 : Repair) (s : State) (hs : Kept q n s) : Kept q n (setRepair r q0 s) := by
  unfold setRepair
  refine Kept.upd ?_ rfl rfl rfl rfl rfl rfl rfl rfl
  assumption

theorem doRepairWrite_kept (g : ℕ) (t : ℕ) (p : ℕ) (between : List (ℕ × RdBlk)) (s : State) (hs : Kept q n s) : Kept q n (doRepairWrite g t p between s) := by
  unfold doRepairWrite
  split
  · assumption
  · extract_lets s1 s2 s3 s4 s5 s6 s7 s8 s9
    have h8 : Kept q n s8 := by
      refine judgeRetire_kept _ _ ?_
      refine countFix_kept _ _ _ _ _ ?_
      assumption
    clear_value s8
    have h9 : Kept q n s9.2 := by
      refine issueWrite_kept _ _ _ _ _ _ ?_
      assumption
    clear_value s9
    refine Kept.ite ?_ ?_
    · assumption
    · refine Kept.ite ?_ ?_
      · assumption
      · split
        · refine addLost_kept _ _ _ _ _ ?_
          assumption
        · split
          · assumption
          · refine Kept.ite ?_ ?_
            · refine setRepair_kept _ _ _ ?_
              assumption
            · refine endRepair_kept _ _ ?_
              assumption

theorem readBackRepair_kept (r : Repair) (s : State) (hs : Kept q n s) : Kept q n (readBackRepair r s) := by
  unfold readBackRepair
  extract_lets s1
  refine issueRead_kept _ _ _ _ _ _ _ ?_
  assumption

theorem doRepairWriteComplete_kept (g : ℕ) (t : ℕ) (p : ℕ) (s : State) (hs : Kept q n s) : Kept q n (doRepairWriteComplete g t p s) := by
  unfold doRepairWriteComplete
  split
  · assumption
  · extract_lets s1
    have h1 : Kept q n s1 := by
      refine finishAll_kept _ _ _ _ _ ?_
      assumption
    clear_value s1
    refine readBackRepair_kept _ _ ?_
    refine setRepair_kept _ _ _ ?_
    assumption

theorem doSelfTestReadback_kept (g : ℕ) (t : ℕ) (p : ℕ) (good : Bool) (s : State) (hs : Kept q n s) : Kept q n (doSelfTestReadback g t p good s) := by
  unfold doSelfTestReadback
  split
  · assumption
  · extract_lets s1 s2 s3 s4 s5 s6
    have h1 : Kept q n s1 := by
      refine finishAll_kept _ _ _ _ _ ?_
      assumption
    clear_value s1
    have h3 : Kept q n s3 := by
      refine Kept.ite ?_ ?_
      · refine State.raise_kept _ _ _ ?_
        assumption
      · assumption
    clear_value s3
    have h4 : Kept q n s4 := by
      refine State.log_kept _ _ _ _ ?_
      assumption
    clear_value s4
    have h5 : Kept q n s5.2 := by
      refine issueWrite_kept _ _ _ _ _ _ ?_
      assumption
    clear_value s5
    have h6 : Kept q n s6 := by
      refine State.log_kept _ _ _ _ ?_
      refine State.raise_kept _ _ _ ?_
      refine endRepair_kept _ _ ?_
      assumption
    clear_value s6
    refine Kept.ite ?_ ?_
    · refine readBackRepair_kept _ _ ?_
      refine setRepair_kept _ _ _ ?_
      assumption
    · refine Kept.ite ?_ ?_
      · refine endRepair_kept _ _ ?_
        assumption
      · refine Kept.ite ?_ ?_
        · refine Kept.ite ?_ ?_
          · refine setRepair_kept _ _ _ ?_
            assumption
          · refine endRepair_kept _ _ ?_
            assumption
        · refine declare_kept _ _ _ _ ?_
          assumption

theorem doCorruptionHourRoll_kept (s : State) (hs : Kept q n s) : Kept q n (doCorruptionHourRoll s) := by
  unfold doCorruptionHourRoll
  refine Kept.ite ?_ ?_
  · refine Kept.upd ?_ rfl rfl rfl rfl rfl rfl rfl rfl
    assumption
  · assumption

theorem endLap_kept (g : ℕ) (s : State) (hs : Kept q n s) : Kept q n (endLap g s) := by
  unfold endLap
  extract_lets s1 s2 s3 s4 s5
  have h5 : Kept q n s5 := by
    refine State.setSig_kept _ _ _ ?_
    assumption
  clear_value s5
  refine State.log_kept _ _ _ _ ?_
  refine State.raise_kept _ _ _ ?_
  refine State.put_kept _ _ _ _ ?_
  assumption

theorem doProofingItem_kept (g : ℕ) (reads : List RdOffset) (s : State) (hs : Kept q n s) : Kept q n (doProofingItem g reads s) := by
  unfold doProofingItem
  refine Kept.ite ?_ ?_
  · assumption
  · extract_lets s1
    have h1 : Kept q n s1 := by
      refine Kept.ite ?_ ?_
      · assumption
      · refine State.log_kept _ _ _ _ ?_
        refine State.updSig_kept _ _ _ ?_
        assumption
    clear_value s1
    split
    · refine endLap_kept _ _ ?_
      assumption
    · refine Kept.ite ?_ ?_
      · assumption
      · extract_lets s2 s3 s4 s5 s6 s7 s8 s9 s10 s11 s12 s13
        have h5 : Kept q n s5 := by
          refine Kept.ite ?_ ?_
          · assumption
          · refine hbAdd_kept _ _ _ _ ?_
            assumption
        clear_value s5
        have h6 : Kept q n s6 := by
          refine Kept.foldl _ _ ?_ fun s x h => ?_
          · assumption
          · refine Kept.ite ?_ ?_
            · refine State.updSig_kept _ _ _ ?_
              assumption
            · assumption
        clear_value s6
        have h7 : Kept q n s7 := by
          refine Kept.foldl _ _ ?_ fun s x h => ?_
          · assumption
          · refine Kept.foldl _ _ ?_ fun s x h => ?_
            · assumption
            · refine addRepair_kept _ _ _ _ _ _ _ ?_
              assumption
        clear_value s7
        have h9 : Kept q n s9 := by
          refine State.bump_kept _ _ _ _ ?_
          assumption
        clear_value s9
        have h12 : Kept q n s12 := by
          refine Kept.foldl _ _ ?_ fun s x h => ?_
          · assumption
          · refine Kept.ite ?_ ?_
            · refine countSilent_kept _ _ _ ?_
              assumption
            · assumption
        clear_value s12
        have h13 : Kept q n s13 := by
          refine judgeRetire_kept _ _ ?_
          refine State.updKeep_kept _ _ _ ?_
          assumption
        clear_value s13
        refine Kept.ite ?_ ?_
        · assumption
        · refine Kept.ite ?_ ?_
          · refine endLap_kept _ _ ?_
            assumption
          · assumption

theorem doCorrSel_kept (g : ℕ) (v : ℕ) (s : State) (hs : Kept q n s) : Kept q n (doCorrSel g v s) := by
  unfold doCorrSel
  extract_lets s1
  refine State.put_kept _ _ _ _ ?_
  refine State.put_kept _ _ _ _ ?_
  refine State.put_kept _ _ _ _ ?_
  assumption

end Sys2Proof.Machine
end

