-- ==== Sys2Proof/Laws/KeptSigs.lean ====
section
/-!
SUPPORT. What every operation keeps (Laws/Kept.lean): rebuild, labels, reshape, drive ports, the image, and the Errata log.
-/

namespace Sys2Proof.Machine

variable {q : List Instr} {n : Nat}

theorem finishWins_kept (g : ℕ) (s : State) (hs : Kept q n s) : Kept q n (finishWins g s) := by
  unfold finishWins
  refine Kept.foldl _ _ ?_ fun s x h => ?_
  · assumption
  · refine Kept.ite ?_ ?_
    · refine updEnt_kept _ _ _ _ ?_
      assumption
    · assumption

theorem endWalk_kept (g : ℕ) (e : ℕ) (s : State) (hs : Kept q n s) : Kept q n (endWalk g e s) := by
  unfold endWalk
  split
  · assumption
  · extract_lets s1 s2 s3 s4
    have h1 : Kept q n s1 := by
      refine State.log_kept _ _ _ _ ?_
      refine State.raise_kept _ _ _ ?_
      assumption
    clear_value s1
    have h2 : Kept q n s2 := by
      refine freeEnt_kept _ _ _ ?_
      assumption
    clear_value s2
    refine Kept.ite ?_ ?_
    · refine Kept.ite ?_ ?_
      · assumption
      · refine setMem_kept _ _ _ _ ?_
        assumption
    · refine updEnt_kept _ _ _ _ ?_
      assumption

theorem endWalks_kept (g : ℕ) (s : State) (hs : Kept q n s) : Kept q n (endWalks g s) := by
  unfold endWalks
  refine Kept.foldl _ _ ?_ fun s x h => ?_
  · assumption
  · split
    · refine Kept.ite ?_ ?_
      · refine endWalk_kept _ _ _ ?_
        assumption
      · assumption
    · assumption

theorem rbSettle_kept (g : ℕ) (t : ℕ) (rs : List (ℕ × RbOff)) (s : State) (hs : Kept q n s) : Kept q n (rbSettle g t rs s) := by
  unfold rbSettle
  extract_lets s1 s2 s3 s4 s5
  have h2 : Kept q n s2 := by
    refine Kept.ite ?_ ?_
    · assumption
    · refine State.log_kept _ _ _ _ ?_
      refine State.raise_kept _ _ _ ?_
      refine State.bump_kept _ _ _ _ ?_
      refine hbAdd_kept _ _ _ _ ?_
      assumption
  clear_value s2
  have h3 : Kept q n s3 := by
    refine Kept.foldl _ _ ?_ fun s x h => ?_
    · assumption
    · refine Kept.foldl _ _ ?_ fun s x h => ?_
      · assumption
      · refine State.bump_kept _ _ _ _ ?_
        refine addRepair_kept _ _ _ _ _ _ _ ?_
        assumption
  clear_value s3
  refine judgeRetire_kept _ _ ?_
  refine Kept.foldl _ _ ?_ fun s x h => ?_
  · assumption
  · refine Kept.ite ?_ ?_
    · refine countSilent_kept _ _ _ ?_
      assumption
    · assumption

theorem startItem_kept (g : ℕ) (t : ℕ) (es : List ℕ) (critical : Bool) (reads : List RdOffset) (s : State) (hs : Kept q n s) : Kept q n (startItem g t es critical reads s) := by
  unfold startItem
  refine Kept.ite ?_ ?_
  · assumption
  · extract_lets s1 s2 s3 s4 s5 s6
    split
    · assumption
    · extract_lets s7 s8 s9
      have h7 : Kept q n s7 := by
        refine rbSettle_kept _ _ _ _ ?_
        assumption
      clear_value s7
      have h8 : Kept q n s8 := by
        refine Kept.foldl _ _ ?_ fun s x h => ?_
        · assumption
        · refine State.log_kept _ _ _ _ ?_
          refine State.raise_kept _ _ _ ?_
          refine updEnt_kept _ _ _ _ ?_
          assumption
      clear_value s8
      have h9 : Kept q n s9 := by
        refine Kept.upd ?_ rfl rfl rfl rfl rfl rfl rfl rfl
        assumption
      clear_value s9
      refine Kept.foldl _ _ ?_ fun s x h => ?_
      · assumption
      · split
        · refine writeAt_kept _ _ _ _ _ _ _ ?_
          assumption
        · assumption

theorem doCriticalItem_kept (g : ℕ) (reads : List RdOffset) (s : State) (hs : Kept q n s) : Kept q n (doCriticalItem g reads s) := by
  unfold doCriticalItem
  refine Kept.ite ?_ ?_
  · assumption
  · extract_lets s1
    have h1 : Kept q n s1 := by
      refine finishWins_kept _ _ ?_
      assumption
    clear_value s1
    split
    · refine startItem_kept _ _ _ _ _ _ ?_
      assumption
    · refine endWalks_kept _ _ ?_
      assumption

theorem doNormalItem_kept (g : ℕ) (reads : List RdOffset) (s : State) (hs : Kept q n s) : Kept q n (doNormalItem g reads s) := by
  unfold doNormalItem
  refine Kept.ite ?_ ?_
  · assumption
  · extract_lets s1 s2
    have h1 : Kept q n s1 := by
      refine finishWins_kept _ _ ?_
      assumption
    clear_value s1
    have h2 : Kept q n s2 := by
      refine endWalks_kept _ _ ?_
      assumption
    clear_value s2
    refine Kept.ite ?_ ?_
    · assumption
    · split
      · refine startItem_kept _ _ _ _ _ _ ?_
        assumption
      · assumption

theorem doRebuildItemComplete_kept (g : ℕ) (t : ℕ) (s : State) (hs : Kept q n s) : Kept q n (doRebuildItemComplete g t s) := by
  unfold doRebuildItemComplete
  split
  · assumption
  · extract_lets s1 s2 s3
    have h2 : Kept q n s2 := by
      refine finishAll_kept _ _ _ _ _ ?_
      refine Kept.upd ?_ rfl rfl rfl rfl rfl rfl rfl rfl
      assumption
    clear_value s2
    have h3 : Kept q n s3 := by
      refine Kept.foldl _ _ ?_ fun s x h => ?_
      · assumption
      · split
        · assumption
        · extract_lets s4
          refine updEnt_kept _ _ _ _ ?_
          assumption
    clear_value s3
    refine endWalks_kept _ _ ?_
    refine finishWins_kept _ _ ?_
    assumption

theorem endCopyback_kept (g : ℕ) (e : ℕ) (s : State) (hs : Kept q n s) : Kept q n (endCopyback g e s) := by
  unfold endCopyback
  split
  · assumption
  · extract_lets s1 s2 s3
    have h1 : Kept q n s1 := by
      refine State.log_kept _ _ _ _ ?_
      refine State.raise_kept _ _ _ ?_
      assumption
    clear_value s1
    have h2 : Kept q n s2 := by
      refine freeEnt_kept _ _ _ ?_
      assumption
    clear_value s2
    refine Kept.ite ?_ ?_
    · assumption
    · refine setMem_kept _ _ _ _ ?_
      assumption

theorem doCopybackItem_kept (g : ℕ) (e : ℕ) (reads : List RdOffset) (s : State) (hs : Kept q n s) : Kept q n (doCopybackItem g e reads s) := by
  unfold doCopybackItem
  extract_lets s1
  split
  · assumption
  · refine Kept.ite ?_ ?_
    · assumption
    · split
      · refine endCopyback_kept _ _ _ ?_
        refine updEnt_kept _ _ _ _ ?_
        assumption
      · extract_lets s2 s3
        refine Kept.ite ?_ ?_
        · assumption
        · split
          · assumption
          · refine Kept.ite ?_ ?_
            · refine Kept.upd ?_ rfl rfl rfl rfl rfl rfl rfl rfl
              assumption
            · extract_lets s4 s5 s6 s7
              have h7 : Kept q n s7 := by
                refine rbSettle_kept _ _ _ _ ?_
                assumption
              clear_value s7
              refine Kept.ite ?_ ?_
              · assumption
              · refine Kept.ite ?_ ?_
                · refine writeAt_kept _ _ _ _ _ _ _ ?_
                  refine Kept.upd ?_ rfl rfl rfl rfl rfl rfl rfl rfl
                  assumption
                · assumption
      · assumption

theorem doCopybackWriteComplete_kept (g : ℕ) (e : ℕ) (s : State) (hs : Kept q n s) : Kept q n (doCopybackWriteComplete g e s) := by
  unfold doCopybackWriteComplete
  split
  · assumption
  · extract_lets s1 s2
    have h1 : Kept q n s1 := by
      refine finishAll_kept _ _ _ _ _ ?_
      refine Kept.upd ?_ rfl rfl rfl rfl rfl rfl rfl rfl
      assumption
    clear_value s1
    have h2 : Kept q n s2 := by
      refine updEnt_kept _ _ _ _ ?_
      assumption
    clear_value s2
    split
    · refine Kept.ite ?_ ?_
      · refine endCopyback_kept _ _ _ ?_
        refine updEnt_kept _ _ _ _ ?_
        assumption
      · assumption
    · assumption

theorem doEntSel_kept (g : ℕ) (v : ℕ) (s : State) (hs : Kept q n s) : Kept q n (doEntSel g v s) := by
  unfold doEntSel
  extract_lets s1 s2 s3 s4 s5 s6 s7 s8 s9 s10 s11 s12 s13 s14 s15 s16
  have h4 : Kept q n s4 := by
    refine State.put_kept _ _ _ _ ?_
    refine State.put_kept _ _ _ _ ?_
    assumption
  clear_value s4
  have h5 : Kept q n s5 := by
    refine State.putB_kept _ _ _ _ ?_
    refine State.putB_kept _ _ _ _ ?_
    assumption
  clear_value s5
  have h6 : Kept q n s6 := by
    refine State.put_kept _ _ _ _ ?_
    refine State.put_kept _ _ _ _ ?_
    assumption
  clear_value s6
  have h7 : Kept q n s7 := by
    refine State.put_kept _ _ _ _ ?_
    refine State.put_kept _ _ _ _ ?_
    assumption
  clear_value s7
  have h9 : Kept q n s9 := by
    unfold s9
    unfold s8
    refine State.put_kept _ _ _ _ ?_
    refine State.put_kept _ _ _ _ ?_
    assumption
  clear_value s9
  have h10 : Kept q n s10 := by
    unfold s10
    unfold s8
    refine State.put_kept _ _ _ _ ?_
    refine State.put_kept _ _ _ _ ?_
    assumption
  clear_value s10
  have h11 : Kept q n s11 := by
    unfold s11
    unfold s8
    refine State.put_kept _ _ _ _ ?_
    refine State.put_kept _ _ _ _ ?_
    assumption
  clear_value s11
  have h12 : Kept q n s12 := by
    unfold s12
    unfold s8
    refine State.put_kept _ _ _ _ ?_
    refine State.put_kept _ _ _ _ ?_
    assumption
  clear_value s12
  have h14 : Kept q n s14 := by
    unfold s14
    unfold s8
    refine State.put_kept _ _ _ _ ?_
    refine State.put_kept _ _ _ _ ?_
    assumption
  clear_value s14
  have h15 : Kept q n s15 := by
    refine State.put_kept _ _ _ _ ?_
    refine State.put_kept _ _ _ _ ?_
    assumption
  clear_value s15
  refine State.put_kept _ _ _ _ ?_
  assumption

theorem writeLabels_kept (g : ℕ) (d : ℕ) (i : Imposition) (target : Option (List ℕ)) (s : State) (hs : Kept q n s) : Kept q n (writeLabels g d i target s) := by
  unfold writeLabels
  extract_lets s1 s2 s3 s4
  have h4 : Kept q n s4 := by
    refine State.emit_kept _ _ ?_
    assumption
  clear_value s4
  refine State.emit_kept _ _ ?_
  assumption

theorem writeAllLabels_kept (g : ℕ) (ds : List ℕ) (i : Imposition) (target : Option (List ℕ)) (s : State) (hs : Kept q n s) : Kept q n (writeAllLabels g ds i target s) := by
  unfold writeAllLabels
  extract_lets s1
  have h1 : Kept q n s1 := by
    refine Kept.foldl _ _ ?_ fun s x h => ?_
    · assumption
    · refine Kept.ite ?_ ?_
      · refine writeLabels_kept _ _ _ _ _ ?_
        assumption
      · assumption
  clear_value s1
  refine State.updSig_kept _ _ _ ?_
  assumption

theorem updRs_kept (g : ℕ) (f : Reshape → Reshape) (s : State) (hs : Kept q n s) : Kept q n (updRs g f s) := by
  unfold updRs
  refine State.updSig_kept _ _ _ ?_
  assumption

theorem updWin_kept (g : ℕ) (f : CopyWin → CopyWin) (s : State) (hs : Kept q n s) : Kept q n (updWin g f s) := by
  unfold updWin
  refine updRs_kept _ _ _ ?_
  assumption

theorem doWindowClaim_kept (g : ℕ) (s : State) (hs : Kept q n s) : Kept q n (doWindowClaim g s) := by
  unfold doWindowClaim
  split
  · extract_lets s1 s2 s3 s4 s5
    have h4 : Kept q n s4 := by
      refine updRs_kept _ _ _ ?_
      assumption
    clear_value s4
    refine Kept.ite ?_ ?_
    · assumption
    · refine Kept.foldl _ _ ?_ fun s x h => ?_
      · assumption
      · refine startUpd_kept _ _ ?_
        assumption
  · assumption

theorem doWindowReadComplete_kept (g : ℕ) (reads : List (ℕ × List RdOffset)) (s : State) (hs : Kept q n s) : Kept q n (doWindowReadComplete g reads s) := by
  unfold doWindowReadComplete
  split
  · assumption
  · refine Kept.ite ?_ ?_
    · assumption
    · extract_lets s1 s2 s3 s4 s5 s6 s7 s8 s9 s10 s11 s12 s13 s14
      have h6 : Kept q n s6 := by
        refine Kept.ite ?_ ?_
        · assumption
        · refine hbAdd_kept _ _ _ _ ?_
          assumption
      clear_value s6
      have h8 : Kept q n s8 := by
        refine Kept.foldl _ _ ?_ fun s x h => ?_
        · assumption
        · refine countFix_kept _ _ _ _ _ ?_
          assumption
      clear_value s8
      have h14 : Kept q n s14 := by
        refine Kept.upd ?_ rfl rfl rfl rfl rfl rfl rfl rfl
        assumption
      clear_value s14
      refine Kept.ite ?_ ?_
      · assumption
      · refine judgeRetire_kept _ _ ?_
        refine updWin_kept _ _ _ ?_
        assumption

theorem winWrite_kept (id : ℕ) (s : State) (hs : Kept q n s) : Kept q n (winWrite id s) := by
  unfold winWrite
  split
  · assumption
  · extract_lets s1
    have h1 : Kept q n s1 := by
      refine Kept.upd ?_ rfl rfl rfl rfl rfl rfl rfl rfl
      assumption
    clear_value s1
    refine Kept.foldl _ _ ?_ fun s x h => ?_
    · assumption
    · extract_lets s2
      refine Kept.ite ?_ ?_
      · refine folioDone_kept _ _ _ ?_
        assumption
      · split
        · refine writeAt_kept _ _ _ _ _ _ _ ?_
          assumption
        · refine folioDone_kept _ _ _ ?_
          refine noteMissed_kept _ _ _ _ ?_
          assumption

theorem doWindowParityComplete_kept (g : ℕ) (s : State) (hs : Kept q n s) : Kept q n (doWindowParityComplete g s) := by
  unfold doWindowParityComplete
  split
  · assumption
  · refine Kept.ite ?_ ?_
    · assumption
    · extract_lets s1 s2 s3
      have h1 : Kept q n s1 := by
        refine Kept.upd ?_ rfl rfl rfl rfl rfl rfl rfl rfl
        assumption
      clear_value s1
      have h2 : Kept q n s2 := by
        refine updWin_kept _ _ _ ?_
        assumption
      clear_value s2
      refine Kept.ite ?_ ?_
      · refine Kept.foldl _ _ ?_ fun s x h => ?_
        · refine updWin_kept _ _ _ ?_
          assumption
        · refine winWrite_kept _ _ ?_
          assumption
      · assumption

theorem sendCkpt_kept (g : ℕ) (c : Ckpt) (s : State) (hs : Kept q n s) : Kept q n (sendCkpt g c s) := by
  unfold sendCkpt
  refine Kept.foldl _ _ ?_ fun s x h => ?_
  · assumption
  · refine State.emit_kept _ _ ?_
    assumption

theorem storeCkpt_kept (g : ℕ) (c : Ckpt) (s : State) (hs : Kept q n s) : Kept q n (storeCkpt g c s) := by
  unfold storeCkpt
  refine State.eachHalf_kept _ _ ?_
  assumption

theorem doWindowWriteComplete_kept (g : ℕ) (s : State) (hs : Kept q n s) : Kept q n (doWindowWriteComplete g s) := by
  unfold doWindowWriteComplete
  split
  · assumption
  · split
    · assumption
    · refine Kept.ite ?_ ?_
      · assumption
      · extract_lets s1 s2
        have h2 : Kept q n s2 := by
          refine Kept.foldl _ _ ?_ fun s x h => ?_
          · assumption
          · extract_lets s3
            refine Kept.foldl _ _ ?_ fun s x h => ?_
            · assumption
            · refine folioDone_kept _ _ _ ?_
              refine finishCmd_kept _ _ _ ?_
              assumption
        clear_value s2
        refine Kept.ite ?_ ?_
        · assumption
        · refine sendCkpt_kept _ _ _ ?_
          refine updWin_kept _ _ _ ?_
          assumption

theorem moveRanges_kept (g : ℕ) (s : State) (hs : Kept q n s) : Kept q n (moveRanges g s) := by
  unfold moveRanges
  split
  · extract_lets s1 s2 s3 s4
    have h4 : Kept q n s4 := by
      refine Kept.foldl _ _ ?_ fun s x h => ?_
      · assumption
      · refine updEnt_kept _ _ _ _ ?_
        assumption
    clear_value s4
    refine Kept.foldl _ _ ?_ fun s x h => ?_
    · assumption
    · refine freeEnt_kept _ _ _ ?_
      assumption
  · assumption

theorem releaseLines_kept (g : Nat) (w : CopyWin) (s : State) (hs : Kept q n s) : ∀ t, releaseLines g w s = some t → Kept q n t := by
  intro t ht
  unfold releaseLines at ht
  dsimp only at ht
  refine putBlocks_kept _ _ _ _ _ ?_ _ ht
  refine Kept.foldl _ _ (Kept.upd hs rfl rfl rfl rfl rfl rfl rfl rfl) fun s x h => ?_
  exact settleLine_kept _ _ _ h

theorem reformGalleys_kept (g : ℕ) (w : CopyWin) (s : State) (hs : Kept q n s) : Kept q n (reformGalleys g w s) := by
  unfold reformGalleys
  refine Kept.foldl _ _ ?_ fun s x h => ?_
  · assumption
  · extract_lets s1
    refine Kept.ite ?_ ?_
    · split
      · extract_lets s2 s3
        have h3 : Kept q n s3 := by
          refine Kept.foldl _ _ ?_ fun s x h => ?_
          · assumption
          · refine fillBlock_kept _ _ _ _ _ ?_
            assumption
        clear_value s3
        refine retainSheet_kept _ _ _ _ ?_
        assumption
      · assumption
    · assumption

theorem finishReshape_kept (g : ℕ) (r : Reshape) (s : State) (hs : Kept q n s) : Kept q n (finishReshape g r s) := by
  unfold finishReshape
  split
  · assumption
  · extract_lets s1 s2 s3 s4 s5 s6 s7 s8 s9 s10 s11 s12 s13 s14 s15 s16 s17 s18
    have h4 : Kept q n s4 := by
      refine State.updSig_kept _ _ _ ?_
      assumption
    clear_value s4
    have h6 : Kept q n s6 := by
      unfold s6
      split
      · refine Kept.upd ?_ rfl rfl rfl rfl rfl rfl rfl rfl
        assumption
      · assumption
    clear_value s6
    have h7 : Kept q n s7 := by
      refine writeAllLabels_kept _ _ _ _ _ ?_
      assumption
    clear_value s7
    have h10 : Kept q n s10 := by
      refine sendCkpt_kept _ _ _ ?_
      refine storeCkpt_kept _ _ _ ?_
      assumption
    clear_value s10
    have h13 : Kept q n s13 := by
      refine State.updSig_kept _ _ _ ?_
      assumption
    clear_value s13
    have h15 : Kept q n s15 := by
      refine Kept.ite ?_ ?_
      · assumption
      · refine State.raise_kept _ _ _ ?_
        refine Kept.foldl _ _ ?_ fun s x h => ?_
        · assumption
        · refine State.updDrv_kept _ _ _ ?_
          refine State.emit_kept _ _ ?_
          assumption
    clear_value s15
    have h17 : Kept q n s17 := by
      refine Kept.upd ?_ rfl rfl rfl rfl rfl rfl rfl rfl
      assumption
    clear_value s17
    have h18 : Kept q n s18 := by
      refine State.eachHalf_kept _ _ ?_
      assumption
    clear_value s18
    refine State.log_kept _ _ _ _ ?_
    refine State.raise_kept _ _ _ ?_
    assumption

theorem doWindowCheckpointDurable_kept (g : ℕ) (s : State) (hs : Kept q n s) : Kept q n (doWindowCheckpointDurable g s) := by
  unfold doWindowCheckpointDurable
  split
  · assumption
  · split
    · assumption
    · refine Kept.ite ?_ ?_
      · assumption
      · extract_lets s1 s2
        have h2 : Kept q n s2 := by
          refine updRs_kept _ _ _ ?_
          refine storeCkpt_kept _ _ _ ?_
          assumption
        clear_value s2
        split
        · refine State.bump_kept _ _ _ _ ?_
          assumption
        · extract_lets s3 s4 s5
          have h3 : Kept q n s3 := by
            refine moveRanges_kept _ _ ?_
            refine reformGalleys_kept _ _ _ ?_
            refine releaseLines_kept _ _ _ ?_ _ (by assumption)
            assumption
          clear_value s3
          have h5 : Kept q n s5 := by
            refine Kept.foldl _ _ ?_ fun s x h => ?_
            · assumption
            · refine declare_kept _ _ _ _ ?_
              assumption
          clear_value s5
          split
          · refine Kept.ite ?_ ?_
            · refine finishReshape_kept _ _ _ ?_
              assumption
            · assumption
          · assumption

theorem beginFormat_kept (p : ℕ) (g : ℕ) (ent : Option ℕ) (d : ℕ) (s : State) (hs : Kept q n s) : Kept q n (beginFormat p g ent d s) := by
  unfold beginFormat
  extract_lets s1 s2
  have h2 : Kept q n s2 := by
    refine State.put_kept _ _ _ _ ?_
    refine State.updDrv_kept _ _ _ ?_
    assumption
  clear_value s2
  refine Kept.ite ?_ ?_
  · assumption
  · refine State.emit_kept _ _ ?_
    assumption

theorem updEntsOf_kept (g : ℕ) (d : ℕ) (f : FailEnt → FailEnt) (s : State) (hs : Kept q n s) : Kept q n (updEntsOf g d f s) := by
  unfold updEntsOf
  refine Kept.foldl _ _ ?_ fun s x h => ?_
  · assumption
  · refine Kept.ite ?_ ?_
    · refine updEnt_kept _ _ _ _ ?_
      assumption
    · assumption

theorem refuseReplacement_kept (g : ℕ) (d : ℕ) (p : ℕ) (reason : ℕ) (s : State) (hs : Kept q n s) : Kept q n (refuseReplacement g d p reason s) := by
  unfold refuseReplacement
  refine State.log_kept _ _ _ _ ?_
  refine State.raise_kept _ _ _ ?_
  assumption

theorem handOver_kept (p : ℕ) (s : State) (hs : Kept q n s) : Kept q n (handOver p s) := by
  unfold handOver
  split
  · assumption
  · split
    · assumption
    · extract_lets s1 s2 s3 s4
      have h4 : Kept q n s4 := by
        refine updEntsOf_kept _ _ _ _ ?_
        assumption
      clear_value s4
      refine Kept.ite ?_ ?_
      · assumption
      · refine Kept.ite ?_ ?_
        · refine refuseReplacement_kept _ _ _ _ _ ?_
          assumption
        · refine Kept.ite ?_ ?_
          · refine refuseReplacement_kept _ _ _ _ _ ?_
            assumption
          · refine Kept.ite ?_ ?_
            · refine beginFormat_kept _ _ _ _ _ ?_
              assumption
            · assumption

theorem formatFails_kept (p : ℕ) (s : State) (hs : Kept q n s) : Kept q n (formatFails p s) := by
  unfold formatFails
  split
  · assumption
  · extract_lets s1 s2 s3
    have h1 : Kept q n s1 := by
      refine State.updDrv_kept _ _ _ ?_
      assumption
    clear_value s1
    have h2 : Kept q n s2 := by
      refine Kept.ite ?_ ?_
      · refine State.emit_kept _ _ ?_
        assumption
      · assumption
    clear_value s2
    have h3 : Kept q n s3 := by
      refine refuseReplacement_kept _ _ _ _ _ ?_
      refine State.log_kept _ _ _ _ ?_
      assumption
    clear_value s3
    refine Kept.ite ?_ ?_
    · refine updEntsOf_kept _ _ _ _ ?_
      assumption
    · refine State.updSig_kept _ _ _ ?_
      assumption

theorem replacementReady_kept (g : ℕ) (d : ℕ) (p : ℕ) (s : State) (hs : Kept q n s) : Kept q n (replacementReady g d p s) := by
  unfold replacementReady
  extract_lets s1 s2 s3 s4
  have h1 : Kept q n s1 := by
    refine State.updDrv_kept _ _ _ ?_
    assumption
  clear_value s1
  have h2 : Kept q n s2 := by
    unfold s2
    split
    · refine writeAllLabels_kept _ _ _ _ _ ?_
      assumption
    · assumption
  clear_value s2
  have h4 : Kept q n s4 := by
    refine setMem_kept _ _ _ _ ?_
    assumption
  clear_value s4
  refine updEntsOf_kept _ _ _ _ ?_
  assumption

theorem doSataFormatItem_kept (p : ℕ) (s : State) (hs : Kept q n s) : Kept q n (doSataFormatItem p s) := by
  unfold doSataFormatItem
  extract_lets s1
  split
  · assumption
  · extract_lets s2 s3 s4 s5
    have h5 : Kept q n s5 := by
      refine State.put_kept _ _ _ _ ?_
      refine State.updDrv_kept _ _ _ ?_
      assumption
    clear_value s5
    refine Kept.ite ?_ ?_
    · assumption
    · refine State.emit_kept _ _ ?_
      assumption

theorem doFormatPoll_kept (p : ℕ) (pct : ℕ) (s : State) (hs : Kept q n s) : Kept q n (doFormatPoll p pct s) := by
  unfold doFormatPoll
  extract_lets s1
  refine Kept.ite ?_ ?_
  · refine State.put_kept _ _ _ _ ?_
    assumption
  · assumption

theorem doFormatComplete_kept (p : ℕ) (s : State) (hs : Kept q n s) : Kept q n (doFormatComplete p s) := by
  unfold doFormatComplete
  extract_lets s1 s2 s3
  have h2 : Kept q n s2 := by
    refine State.emit_kept _ _ ?_
    refine State.emit_kept _ _ ?_
    assumption
  clear_value s2
  have h3 : Kept q n s3 := by
    refine State.log_kept _ _ _ _ ?_
    refine State.raise_kept _ _ _ ?_
    refine State.put_kept _ _ _ _ ?_
    assumption
  clear_value s3
  split
  · assumption
  · refine Kept.ite ?_ ?_
    · assumption
    · refine Kept.ite ?_ ?_
      · refine replacementReady_kept _ _ _ _ ?_
        assumption
      · refine State.updDrv_kept _ _ _ ?_
        assumption

theorem doFormatTimeout_kept (p : ℕ) (s : State) (hs : Kept q n s) : Kept q n (doFormatTimeout p s) := by
  unfold doFormatTimeout
  split
  · refine Kept.ite ?_ ?_
    · refine formatFails_kept _ _ ?_
      assumption
    · assumption
  · assumption

theorem makeAbsent_kept (p : ℕ) (s : State) (hs : Kept q n s) : Kept q n (makeAbsent p s) := by
  unfold makeAbsent
  split
  · assumption
  · extract_lets s1 s2 s3 s4
    have h3 : Kept q n s3 := by
      refine setMem_kept _ _ _ _ ?_
      assumption
    clear_value s3
    have h4 : Kept q n s4 := by
      refine addDead_kept _ _ _ ?_
      refine dropDrive_kept _ _ _ _ ?_
      assumption
    clear_value s4
    refine Kept.ite ?_ ?_
    · refine State.updDrv_kept _ _ _ ?_
      assumption
    · refine Kept.ite ?_ ?_
      · refine Kept.ite ?_ ?_
        · refine declare_kept _ _ _ _ ?_
          refine State.updDrv_kept _ _ _ ?_
          assumption
        · assumption
      · refine Kept.ite ?_ ?_
        · assumption
        · refine State.log_kept _ _ _ _ ?_
          refine State.updSig_kept _ _ _ ?_
          assumption

theorem driveGone_kept (p : ℕ) (s : State) (hs : Kept q n s) : Kept q n (driveGone p s) := by
  unfold driveGone
  extract_lets s1 s2
  have h1 : Kept q n s1 := by
    refine makeAbsent_kept _ _ ?_
    refine formatFails_kept _ _ ?_
    assumption
  clear_value s1
  have h2 : Kept q n s2 := by
    refine endPortCmds_kept _ _ _ ?_
    assumption
  clear_value s2
  refine State.put_kept _ _ _ _ ?_
  refine State.updDrv_kept _ _ _ ?_
  assumption

theorem doPresentWrite_kept (p : ℕ) (v : Bool) (s : State) (hs : Kept q n s) : Kept q n (doPresentWrite p v s) := by
  unfold doPresentWrite
  extract_lets s1 s2 s3
  have h2 : Kept q n s2 := by
    refine State.putB_kept _ _ _ _ ?_
    assumption
  clear_value s2
  have h3 : Kept q n s3 := by
    refine State.updDrv_kept _ _ _ ?_
    assumption
  clear_value s3
  refine Kept.ite ?_ ?_
  · assumption
  · refine Kept.ite ?_ ?_
    · refine Kept.ite ?_ ?_
      · refine State.ibi_kept _ _ ?_
        refine State.put_kept _ _ _ _ ?_
        assumption
      · assumption
    · refine State.updDrv_kept _ _ _ ?_
      refine driveGone_kept _ _ ?_
      refine State.put_kept _ _ _ _ ?_
      assumption

theorem doPwrOnWrite_kept (p : ℕ) (v : Bool) (s : State) (hs : Kept q n s) : Kept q n (doPwrOnWrite p v s) := by
  unfold doPwrOnWrite
  extract_lets s1 s2 s3 s4
  have h2 : Kept q n s2 := by
    refine State.putB_kept _ _ _ _ ?_
    assumption
  clear_value s2
  have h3 : Kept q n s3 := by
    refine State.put_kept _ _ _ _ ?_
    assumption
  clear_value s3
  have h4 : Kept q n s4 := by
    refine driveGone_kept _ _ ?_
    assumption
  clear_value s4
  refine Kept.ite ?_ ?_
  · refine Kept.ite ?_ ?_
    · assumption
    · refine State.updDrv_kept _ _ _ ?_
      assumption
  · refine Kept.ite ?_ ?_
    · assumption
    · refine Kept.ite ?_ ?_
      · refine State.ibi_kept _ _ ?_
        refine State.put_kept _ _ _ _ ?_
        assumption
      · assumption

theorem doAbsentLimitExpired_kept (g : ℕ) (d : ℕ) (s : State) (hs : Kept q n s) : Kept q n (doAbsentLimitExpired g d s) := by
  unfold doAbsentLimitExpired
  extract_lets s1
  split
  · refine Kept.ite ?_ ?_
    · refine declare_kept _ _ _ _ ?_
      assumption
    · assumption
  · assumption

theorem caughtUp_kept (g : ℕ) (d : ℕ) (r : ℕ) (s : State) (hs : Kept q n s) : Kept q n (caughtUp g d r s) := by
  unfold caughtUp
  extract_lets s1 s2 s3
  have h3 : Kept q n s3 := by
    refine State.updSig_kept _ _ _ ?_
    refine setMem_kept _ _ _ _ ?_
    assumption
  clear_value s3
  refine Kept.ite ?_ ?_
  · refine State.log_kept _ _ _ _ ?_
    refine State.raise_kept _ _ _ ?_
    assumption
  · assumption

theorem doCatchupItem_kept (g : ℕ) (d : ℕ) (t : ℕ) (reads : List RdOffset) (s : State) (hs : Kept q n s) : Kept q n (doCatchupItem g d t reads s) := by
  unfold doCatchupItem
  refine Kept.ite ?_ ?_
  · assumption
  · split
    · assumption
    · refine caughtUp_kept _ _ _ _ ?_
      assumption
    · refine Kept.ite ?_ ?_
      · assumption
      · split
        · assumption
        · split
          · assumption
          · extract_lets s1
            refine Kept.ite ?_ ?_
            · unfold s1
              extract_lets s2 s3
              have h3 : Kept q n s3 := by
                refine setMem_kept _ _ _ _ ?_
                assumption
              clear_value s3
              split
              · refine caughtUp_kept _ _ _ _ ?_
                assumption
              · assumption
            · split
              · assumption
              · unfold s1
                extract_lets s4 s5
                have h5 : Kept q n s5 := by
                  refine setMem_kept _ _ _ _ ?_
                  refine writeAt_kept _ _ _ _ _ _ _ ?_
                  refine rbSettle_kept _ _ _ _ ?_
                  assumption
                clear_value s5
                split
                · refine caughtUp_kept _ _ _ _ ?_
                  assumption
                · assumption

theorem tryTest_kept (p : ℕ) (s : State) (hs : Kept q n s) : Kept q n (tryTest p s) := by
  unfold tryTest
  extract_lets s1 s2
  have h2 : Kept q n s2 := by
    refine State.updDrv_kept _ _ _ ?_
    assumption
  clear_value s2
  refine Kept.ite ?_ ?_
  · refine State.emit_kept _ _ ?_
    refine State.bump_kept _ _ _ _ ?_
    refine State.bump_kept _ _ _ _ ?_
    assumption
  · assumption

theorem askTest_kept (p : ℕ) (s : State) (hs : Kept q n s) : Kept q n (askTest p s) := by
  unfold askTest
  refine Kept.ite ?_ ?_
  · assumption
  · refine tryTest_kept _ _ ?_
    refine State.updDrv_kept _ _ _ ?_
    assumption

theorem linkGone_kept (p : ℕ) (s : State) (hs : Kept q n s) : Kept q n (linkGone p s) := by
  unfold linkGone
  extract_lets s1
  have h1 : Kept q n s1 := by
    refine State.raise_kept _ _ _ ?_
    refine State.updDrv_kept _ _ _ ?_
    assumption
  clear_value s1
  split
  · refine Kept.ite ?_ ?_
    · extract_lets s2 s3
      have h3 : Kept q n s3 := by
        refine setMem_kept _ _ _ _ ?_
        assumption
      clear_value s3
      refine endPortCmds_kept _ _ _ ?_
      refine State.updDrv_kept _ _ _ ?_
      assumption
    · refine endPortCmds_kept _ _ _ ?_
      assumption
  · refine endPortCmds_kept _ _ _ ?_
    assumption

theorem doDriveLinkUp_kept (p : ℕ) (r : LinkRate) (s : State) (hs : Kept q n s) : Kept q n (doDriveLinkUp p r s) := by
  unfold doDriveLinkUp
  extract_lets s1 s2 s3 s4 s5 s6 s7
  have h4 : Kept q n s4 := by
    refine State.updDrv_kept _ _ _ ?_
    assumption
  clear_value s4
  have h5 : Kept q n s5 := by
    refine Kept.ite ?_ ?_
    · refine State.settle_kept _ _ _ ?_
      assumption
    · assumption
  clear_value s5
  have h6 : Kept q n s6 := by
    refine State.raise_kept _ _ _ ?_
    assumption
  clear_value s6
  have h7 : Kept q n s7 := by
    refine State.updDrv_kept _ _ _ ?_
    assumption
  clear_value s7
  refine Kept.ite ?_ ?_
  · assumption
  · refine Kept.ite ?_ ?_
    · refine Kept.ite ?_ ?_
      · assumption
      · refine pump_kept _ _ ?_
        refine State.updDrv_kept _ _ _ ?_
        assumption
    · refine State.emit_kept _ _ ?_
      refine State.put_kept _ _ _ _ ?_
      assumption

theorem doDriveLinkLoss_kept (p : ℕ) (s : State) (hs : Kept q n s) : Kept q n (doDriveLinkLoss p s) := by
  unfold doDriveLinkLoss
  extract_lets s1
  refine Kept.ite ?_ ?_
  · assumption
  · refine linkGone_kept _ _ ?_
    assumption

theorem stepRate_kept (p : ℕ) (s : State) (hs : Kept q n s) : Kept q n (stepRate p s) := by
  unfold stepRate
  extract_lets s1 s2 s3 s4
  have h3 : Kept q n s3 := by
    refine State.updDrv_kept _ _ _ ?_
    assumption
  clear_value s3
  have h4 : Kept q n s4 := by
    refine State.updDrv_kept _ _ _ ?_
    assumption
  clear_value s4
  refine Kept.ite ?_ ?_
  · refine linkGone_kept _ _ ?_
    refine Kept.ite ?_ ?_
    · refine State.settle_kept _ _ _ ?_
      assumption
    · assumption
  · refine tryTest_kept _ _ ?_
    refine State.raise_kept _ _ _ ?_
    assumption

theorem doLinkCrcBurst_kept (p : ℕ) (n0 : ℕ) (s : State) (hs : Kept q n s) : Kept q n (doLinkCrcBurst p n0 s) := by
  unfold doLinkCrcBurst
  extract_lets s1 s2
  have h1 : Kept q n s1 := by
    refine State.bump_kept _ _ _ _ ?_
    assumption
  clear_value s1
  refine Kept.ite ?_ ?_
  · assumption
  · refine Kept.ite ?_ ?_
    · refine stepRate_kept _ _ ?_
      assumption
    · refine askTest_kept _ _ ?_
      assumption

theorem doLinkTest_kept (p : ℕ) (s : State) (hs : Kept q n s) : Kept q n (doLinkTest p s) := by
  unfold doLinkTest
  extract_lets s1
  have h1 : Kept q n s1 := by
    refine State.ask_kept _ _ _ ?_
    assumption
  clear_value s1
  refine Kept.ite ?_ ?_
  · refine State.settle_kept _ _ _ ?_
    assumption
  · refine askTest_kept _ _ ?_
    assumption

theorem doLinkSelfTestEnd_kept (p : ℕ) (cv : ℕ) (crc : ℕ) (s : State) (hs : Kept q n s) : Kept q n (doLinkSelfTestEnd p cv crc s) := by
  unfold doLinkSelfTestEnd
  extract_lets s1 s2 s3 s4
  have h2 : Kept q n s2 := by
    refine State.bump_kept _ _ _ _ ?_
    assumption
  clear_value s2
  have h3 : Kept q n s3 := by
    refine State.updDrv_kept _ _ _ ?_
    assumption
  clear_value s3
  have h4 : Kept q n s4 := by
    refine Kept.ite ?_ ?_
    · refine State.settle_kept _ _ _ ?_
      assumption
    · assumption
  clear_value s4
  split
  · assumption
  · refine Kept.ite ?_ ?_
    · assumption
    · refine Kept.ite ?_ ?_
      · refine pump_kept _ _ ?_
        refine State.log_kept _ _ _ _ ?_
        assumption
      · refine stepRate_kept _ _ ?_
        refine State.log_kept _ _ _ _ ?_
        assumption

theorem Canon.portFields (own : FieldSpec → Bool) (p : Nat) (l : List FieldSpec) {r : Regs} (h : Canon r) :
    Canon (l.foldl (fun r F => if own F then Machine.rput F p F.rst r else r) r) := by
  refine Canon.foldl _ _ h fun r F h => ?_
  split_ifs
  · exact h.rput _ _ _
  · exact h

theorem doDrivePortReset_kept (p : Nat) (s : State) (hs : Kept q n s) : Kept q n (doDrivePortReset p s) := by
  unfold doDrivePortReset
  generalize Reg.allFields = l
  extract_lets own reset src s1 s2 x s3
  have h1 : Kept q n s1 :=
    ⟨⟨Canon.portFields own p l hs.canon.regs, NMap.wf_ndel _ (NMap.wf_ndel _ hs.canon.latches), hs.canon.stage, hs.canon.hostBuf, hs.canon.win4, hs.canon.win5⟩, hs.queue, hs.imp⟩
  have h3 : Kept q n s3 := State.updDrv_kept _ _ _ (State.bump_kept _ _ _ _ (State.ask_kept _ _ _ h1))
  exact Kept.ite (State.emit_kept _ _ (State.settle_kept _ _ _ h3)) (State.emit_kept _ _ h3)

theorem doBringupTimeout_kept (p : ℕ) (s : State) (hs : Kept q n s) : Kept q n (doBringupTimeout p s) := by
  unfold doBringupTimeout
  extract_lets s1 s2 s3 s4
  have h3 : Kept q n s3 := by
    refine State.raise_kept _ _ _ ?_
    refine State.updDrv_kept _ _ _ ?_
    assumption
  clear_value s3
  have h4 : Kept q n s4 := by
    refine State.ibi_kept _ _ ?_
    assumption
  clear_value s4
  refine Kept.ite ?_ ?_
  · refine Kept.ite ?_ ?_
    · refine State.log_kept _ _ _ _ ?_
      refine State.raise_kept _ _ _ ?_
      refine State.updDrv_kept _ _ _ ?_
      assumption
    · assumption
  · assumption

theorem memberReturns_kept (p : ℕ) (g : ℕ) (d : ℕ) (s : State) (hs : Kept q n s) : Kept q n (memberReturns p g d s) := by
  unfold memberReturns
  extract_lets s1 s2 s3 s4
  have h2 : Kept q n s2 := by
    refine State.updDrv_kept _ _ _ ?_
    assumption
  clear_value s2
  have h3 : Kept q n s3 := by
    refine setMem_kept _ _ _ _ ?_
    assumption
  clear_value s3
  have h4 : Kept q n s4 := by
    refine State.updSig_kept _ _ _ ?_
    assumption
  clear_value s4
  refine Kept.ite ?_ ?_
  · refine State.log_kept _ _ _ _ ?_
    refine State.raise_kept _ _ _ ?_
    assumption
  · assumption

theorem driveNew_kept (p : ℕ) (s : State) (hs : Kept q n s) : Kept q n (driveNew p s) := by
  unfold driveNew
  refine handOver_kept _ _ ?_
  refine State.updDrv_kept _ _ _ ?_
  assumption

theorem doDriveClassify_kept (p : ℕ) (d : DriveInfo) (a : LabelCopy) (b : LabelCopy) (s : State) (hs : Kept q n s) : Kept q n (doDriveClassify p d a b s) := by
  unfold doDriveClassify
  extract_lets s1 s2 s3 s4 s5 s6 s7
  have h4 : Kept q n s4 := by
    refine State.updDrv_kept _ _ _ ?_
    assumption
  clear_value s4
  have h5 : Kept q n s5 := by
    refine State.put_kept _ _ _ _ ?_
    assumption
  clear_value s5
  have h6 : Kept q n s6 := by
    refine Kept.ite ?_ ?_
    · refine State.settle_kept _ _ _ ?_
      assumption
    · assumption
  clear_value s6
  have h7 : Kept q n s7 := by
    refine State.log_kept _ _ _ _ ?_
    assumption
  clear_value s7
  refine Kept.ite ?_ ?_
  · assumption
  · clear_value s3
    split
    · refine State.raise_kept _ _ _ ?_
      assumption
    · refine driveNew_kept _ _ ?_
      assumption
    · refine driveNew_kept _ _ ?_
      assumption
    · refine State.raise_kept _ _ _ ?_
      assumption
    · clear_value s2
      split
      · extract_lets s8 s9
        have h8 : Kept q n s8 := by
          refine Kept.ite ?_ ?_
          · refine State.updSig_kept _ _ _ ?_
            assumption
          · assumption
        clear_value s8
        have h9 : Kept q n s9 := by
          refine memberReturns_kept _ _ _ _ ?_
          assumption
        clear_value s9
        refine Kept.ite ?_ ?_
        · split
          · extract_lets s10
            refine State.log_kept _ _ _ _ ?_
            refine State.emit_kept _ _ ?_
            assumption
          · assumption
        · assumption
      · assumption
    · clear_value s2
      split
      · extract_lets s11 s12
        have h11 : Kept q n s11 := by
          refine Kept.ite ?_ ?_
          · refine State.updSig_kept _ _ _ ?_
            assumption
          · assumption
        clear_value s11
        have h12 : Kept q n s12 := by
          refine memberReturns_kept _ _ _ _ ?_
          assumption
        clear_value s12
        refine Kept.ite ?_ ?_
        · split
          · extract_lets s13
            refine State.log_kept _ _ _ _ ?_
            refine State.emit_kept _ _ ?_
            assumption
          · assumption
        · assumption
      · assumption
    · refine State.raise_kept _ _ _ ?_
      assumption

theorem doClaim_kept (p : ℕ) (s : State) (hs : Kept q n s) : Kept q n (doClaim p s) := by
  unfold doClaim
  extract_lets s1 s2 s3
  have h2 : Kept q n s2 := by
    refine State.ask_kept _ _ _ ?_
    assumption
  clear_value s2
  have h3 : Kept q n s3 := by
    refine State.log_kept _ _ _ _ ?_
    refine State.updDrv_kept _ _ _ ?_
    assumption
  clear_value s3
  refine Kept.ite ?_ ?_
  · refine driveNew_kept _ _ ?_
    refine State.settle_kept _ _ _ ?_
    assumption
  · assumption

theorem ladderStep_kept (p : ℕ) (step : ℕ) (tags : List ℕ) (s : State) (hs : Kept q n s) : Kept q n (ladderStep p step tags s) := by
  unfold ladderStep
  extract_lets s1
  have h1 : Kept q n s1 := by
    refine State.updDrv_kept _ _ _ ?_
    assumption
  clear_value s1
  split
  · refine Kept.foldl _ _ ?_ fun s x h => ?_
    · assumption
    · refine State.emit_kept _ _ ?_
      assumption
  · refine State.emit_kept _ _ ?_
    assumption
  · refine State.emit_kept _ _ ?_
    refine State.bump_kept _ _ _ _ ?_
    refine State.updDrv_kept _ _ _ ?_
    assumption

theorem startLadder_kept (p : ℕ) (step : ℕ) (tags : List ℕ) (s : State) (hs : Kept q n s) : Kept q n (startLadder p step tags s) := by
  unfold startLadder
  refine ladderStep_kept _ _ _ _ ?_
  refine State.raise_kept _ _ _ ?_
  refine State.bump_kept _ _ _ _ ?_
  assumption

theorem doCommandTimeout_kept (p : ℕ) (tag : ℕ) (s : State) (hs : Kept q n s) : Kept q n (doCommandTimeout p tag s) := by
  unfold doCommandTimeout
  extract_lets s1
  split
  · assumption
  · refine Kept.ite ?_ ?_
    · assumption
    · extract_lets s2
      have h2 : Kept q n s2 := by
        refine State.bump_kept _ _ _ _ ?_
        refine State.updDrv_kept _ _ _ ?_
        assumption
      clear_value s2
      split
      · refine startLadder_kept _ _ _ _ ?_
        assumption
      · extract_lets s3
        have h3 : Kept q n s3 := by
          refine State.updDrv_kept _ _ _ ?_
          assumption
        clear_value s3
        refine Kept.ite ?_ ?_
        · refine State.emit_kept _ _ ?_
          assumption
        · assumption

theorem endLadder_kept (p : ℕ) (l : Ladder) (s : State) (hs : Kept q n s) : Kept q n (endLadder p l s) := by
  unfold endLadder
  extract_lets s1 s2 s3 s4
  have h3 : Kept q n s3 := by
    refine State.updDrv_kept _ _ _ ?_
    assumption
  clear_value s3
  have h4 : Kept q n s4 := by
    refine Kept.foldl _ _ ?_ fun s x h => ?_
    · assumption
    · refine Kept.ite ?_ ?_
      · refine Kept.foldl _ _ ?_ fun s x h => ?_
        · refine State.updDrv_kept _ _ _ ?_
          assumption
        · refine State.emit_kept _ _ ?_
          assumption
      · refine endCmdOf_kept _ _ _ ?_
        refine dropCmd_kept _ _ _ ?_
        assumption
  clear_value s4
  refine tryTest_kept _ _ ?_
  refine pump_kept _ _ ?_
  refine State.log_kept _ _ _ _ ?_
  assumption

theorem doLadderStepSuccess_kept (p : ℕ) (s : State) (hs : Kept q n s) : Kept q n (doLadderStepSuccess p s) := by
  unfold doLadderStepSuccess
  split
  · refine Kept.ite ?_ ?_
    · assumption
    · refine endLadder_kept _ _ _ ?_
      assumption
  · assumption

theorem ladderFails_kept (p : ℕ) (s : State) (hs : Kept q n s) : Kept q n (ladderFails p s) := by
  unfold ladderFails
  extract_lets s1
  have h1 : Kept q n s1 := by
    refine State.log_kept _ _ _ _ ?_
    refine State.updDrv_kept _ _ _ ?_
    assumption
  clear_value s1
  refine Kept.ite ?_ ?_
  · refine formatFails_kept _ _ ?_
    assumption
  · refine Kept.ite ?_ ?_
    · refine endPortCmds_kept _ _ _ ?_
      refine State.updDrv_kept _ _ _ ?_
      assumption
    · split
      · refine Kept.ite ?_ ?_
        · refine declare_kept _ _ _ _ ?_
          assumption
        · refine endPortCmds_kept _ _ _ ?_
          assumption
      · refine endPortCmds_kept _ _ _ ?_
        assumption

theorem doLadderStepTimeout_kept (p : ℕ) (s : State) (hs : Kept q n s) : Kept q n (doLadderStepTimeout p s) := by
  unfold doLadderStepTimeout
  split
  · assumption
  · extract_lets s1
    refine Kept.ite ?_ ?_
    · assumption
    · refine Kept.ite ?_ ?_
      · refine ladderFails_kept _ _ ?_
        assumption
      · refine ladderStep_kept _ _ _ _ ?_
        assumption

theorem doDriveCommandError_kept (p : ℕ) (tag : ℕ) (blocks : List ℕ) (data : List RdBlk) (s : State) (hs : Kept q n s) : Kept q n (doDriveCommandError p tag blocks data s) := by
  unfold doDriveCommandError
  split
  · assumption
  · extract_lets s1 s2 s3 s4
    have h1 : Kept q n s1 := by
      refine State.bump_kept _ _ _ _ ?_
      assumption
    clear_value s1
    have h2 : Kept q n s2 := by
      refine pump_kept _ _ ?_
      refine dropCmd_kept _ _ _ ?_
      assumption
    clear_value s2
    have h4 : Kept q n s4 := by
      refine State.updDrv_kept _ _ _ ?_
      assumption
    clear_value s4
    refine Kept.ite ?_ ?_
    · refine Kept.ite ?_ ?_
      · refine endCmdOf_kept _ _ _ ?_
        assumption
      · refine Kept.ite ?_ ?_
        · refine takeRead_kept _ _ _ ?_
          assumption
        · assumption
    · refine Kept.ite ?_ ?_
      · refine Kept.foldl _ _ ?_ fun s x h => ?_
        · assumption
        · refine State.emit_kept _ _ ?_
          assumption
      · refine Kept.ite ?_ ?_
        · split
          · refine startLadder_kept _ _ _ _ ?_
            assumption
          · refine State.updDrv_kept _ _ _ ?_
            assumption
        · refine ladderFails_kept _ _ ?_
          assumption

theorem doMemberSel_kept (g : ℕ) (v : ℕ) (s : State) (hs : Kept q n s) : Kept q n (doMemberSel g v s) := by
  unfold doMemberSel
  extract_lets s1 s2
  refine State.put_kept _ _ _ _ ?_
  refine State.putB_kept _ _ _ _ ?_
  refine State.put_kept _ _ _ _ ?_
  refine State.put_kept _ _ _ _ ?_
  assumption

theorem doMapGo_kept (g : ℕ) (s : State) (hs : Kept q n s) : Kept q n (doMapGo g s) := by
  unfold doMapGo
  extract_lets s1 s2 s3
  have h1 : Kept q n s1 := by
    refine State.pulse_kept _ _ _ ?_
    assumption
  clear_value s1
  split
  · refine Kept.ite ?_ ?_
    · extract_lets s4 s5
      refine State.put_kept _ _ _ _ ?_
      refine State.put_kept _ _ _ _ ?_
      refine State.put_kept _ _ _ _ ?_
      refine State.put_kept _ _ _ _ ?_
      assumption
    · refine State.put_kept _ _ _ _ ?_
      assumption
  · refine State.put_kept _ _ _ _ ?_
    assumption

theorem chooseCandidate_kept (s : State) (hs : Kept q n s) : Kept q n (chooseCandidate s) := by
  unfold chooseCandidate
  extract_lets s1 s2 s3 s4 s5 s6 s7 s8
  have h6 : Kept q n s6 := by
    refine Kept.upd ?_ rfl rfl rfl rfl rfl rfl rfl rfl
    assumption
  clear_value s6
  have h7 : Kept q n s7 := by
    refine State.putB_kept _ _ _ _ ?_
    refine State.putB_kept _ _ _ _ ?_
    assumption
  clear_value s7
  refine State.put_kept _ _ _ _ ?_
  refine State.put_kept _ _ _ _ ?_
  refine State.putB_kept _ _ _ _ ?_
  assumption

theorem storeImage_kept (m : Img) (retained : NMap Imposition) (s : State) (hs : Kept q n s) : Kept q n (storeImage m retained s) := by
  unfold storeImage
  extract_lets s1 s2 s3 s4 s5 s6
  have h4 : Kept q n s4 := by
    refine Kept.ite ?_ ?_
    · assumption
    · refine State.raise_kept _ _ _ ?_
      assumption
  clear_value s4
  have h5 : Kept q n s5 := by
    refine State.eachHalf_kept _ _ ?_
    assumption
  clear_value s5
  have h6 : Kept q n s6 := by
    refine State.putB_kept _ _ _ _ ?_
    refine State.putB_kept _ _ _ _ ?_
    assumption
  clear_value s6
  refine State.put_kept _ _ _ _ ?_
  refine State.put_kept _ _ _ _ ?_
  assumption

theorem putHash_kept (F : FieldSpec) (h : List ℕ) (s : State) (hs : Kept q n s) : Kept q n (putHash F h s) := by
  unfold putHash
  refine Kept.foldl _ _ ?_ fun s x h => ?_
  · assumption
  · refine State.put_kept _ _ _ _ ?_
    assumption

theorem applyPort_kept (p : ℕ) (x : PortSec) (s : State) (hs : Kept q n s) : Kept q n (applyPort p x s) := by
  unfold applyPort
  extract_lets s1 s2 s3 s4 s5
  have h1 : Kept q n s1 := by
    refine State.put_kept _ _ _ _ ?_
    refine State.put_kept _ _ _ _ ?_
    assumption
  clear_value s1
  have h2 : Kept q n s2 := by
    refine State.put_kept _ _ _ _ ?_
    refine State.putB_kept _ _ _ _ ?_
    assumption
  clear_value s2
  have h3 : Kept q n s3 := by
    refine State.put_kept _ _ _ _ ?_
    refine State.put_kept _ _ _ _ ?_
    assumption
  clear_value s3
  have h4 : Kept q n s4 := by
    refine State.putB_kept _ _ _ _ ?_
    refine State.put_kept _ _ _ _ ?_
    assumption
  clear_value s4
  have h5 : Kept q n s5 := by
    refine State.putB_kept _ _ _ _ ?_
    refine State.put_kept _ _ _ _ ?_
    assumption
  clear_value s5
  refine Kept.foldl _ _ ?_ fun s x h => ?_
  · assumption
  · extract_lets s6
    refine State.put_kept _ _ _ _ ?_
    refine State.put_kept _ _ _ _ ?_
    assumption

theorem applyGeometry_kept (g : ℕ) (i : Option Imposition) (s : State) (hs : Kept q n s) : Kept q n (applyGeometry g i s) := by
  unfold applyGeometry
  split
  · refine State.putB_kept _ _ _ _ ?_
    assumption
  · extract_lets s1 s2 s3 s4
    have h1 : Kept q n s1 := by
      refine State.put_kept _ _ _ _ ?_
      refine State.put_kept _ _ _ _ ?_
      assumption
    clear_value s1
    have h2 : Kept q n s2 := by
      refine State.put_kept _ _ _ _ ?_
      refine State.put_kept _ _ _ _ ?_
      assumption
    clear_value s2
    have h3 : Kept q n s3 := by
      refine State.putB_kept _ _ _ _ ?_
      refine State.putB_kept _ _ _ _ ?_
      assumption
    clear_value s3
    have h4 : Kept q n s4 := by
      refine State.put_kept _ _ _ _ ?_
      refine State.put_kept _ _ _ _ ?_
      assumption
    clear_value s4
    refine State.put_kept _ _ _ _ ?_
    refine State.put_kept _ _ _ _ ?_
    assumption

theorem applyPar_kept (g : ℕ) (region : Bool) (p : SigPar) (s : State) (hs : Kept q n s) : Kept q n (applyPar g region p s) := by
  unfold applyPar
  extract_lets s1 s2 s3 s4 s5 s6 s7
  have h2 : Kept q n s2 := by
    refine Kept.ite ?_ ?_
    · refine State.put_kept _ _ _ _ ?_
      assumption
    · assumption
  clear_value s2
  have h3 : Kept q n s3 := by
    refine State.put_kept _ _ _ _ ?_
    refine State.put_kept _ _ _ _ ?_
    assumption
  clear_value s3
  have h4 : Kept q n s4 := by
    refine State.put_kept _ _ _ _ ?_
    refine State.putB_kept _ _ _ _ ?_
    assumption
  clear_value s4
  have h5 : Kept q n s5 := by
    refine State.put_kept _ _ _ _ ?_
    refine State.put_kept _ _ _ _ ?_
    assumption
  clear_value s5
  have h6 : Kept q n s6 := by
    refine State.put_kept _ _ _ _ ?_
    refine State.put_kept _ _ _ _ ?_
    assumption
  clear_value s6
  have h7 : Kept q n s7 := by
    refine State.put_kept _ _ _ _ ?_
    refine State.put_kept _ _ _ _ ?_
    assumption
  clear_value s7
  refine State.put_kept _ _ _ _ ?_
  refine State.put_kept _ _ _ _ ?_
  assumption

theorem applyNs_kept (n0 : ℕ) (x : Option NsSec) (s : State) (hs : Kept q n s) : Kept q n (applyNs n0 x s) := by
  unfold applyNs
  extract_lets s1 s2 s3
  have h2 : Kept q n s2 := by
    refine State.putB_kept _ _ _ _ ?_
    refine State.putB_kept _ _ _ _ ?_
    assumption
  clear_value s2
  have h3 : Kept q n s3 := by
    refine State.putB_kept _ _ _ _ ?_
    refine State.putB_kept _ _ _ _ ?_
    assumption
  clear_value s3
  refine Kept.ite ?_ ?_
  · refine State.put_kept _ _ _ _ ?_
    refine State.put_kept _ _ _ _ ?_
    assumption
  · refine Kept.ite ?_ ?_
    · refine State.put_kept _ _ _ _ ?_
      refine State.put_kept _ _ _ _ ?_
      assumption
    · assumption

theorem applyNow_kept (m : Img) (s : State) (hs : Kept q n s) : Kept q n (applyNow m s) := by
  unfold applyNow
  extract_lets s1 s2 s3 s4 s5 s6 s7 s8 s9 s10 s11 s12 s13
  have h1 : Kept q n s1 := by
    refine State.put_kept _ _ _ _ ?_
    refine State.put_kept _ _ _ _ ?_
    assumption
  clear_value s1
  have h2 : Kept q n s2 := by
    refine State.put_kept _ _ _ _ ?_
    refine State.put_kept _ _ _ _ ?_
    assumption
  clear_value s2
  have h3 : Kept q n s3 := by
    refine State.putB_kept _ _ _ _ ?_
    refine State.putB_kept _ _ _ _ ?_
    assumption
  clear_value s3
  have h4 : Kept q n s4 := by
    refine State.putB_kept _ _ _ _ ?_
    assumption
  clear_value s4
  have h6 : Kept q n s6 := by
    refine State.put_kept _ _ _ _ ?_
    refine State.put_kept _ _ _ _ ?_
    assumption
  clear_value s6
  have h7 : Kept q n s7 := by
    refine State.put_kept _ _ _ _ ?_
    refine State.put_kept _ _ _ _ ?_
    refine State.put_kept _ _ _ _ ?_
    assumption
  clear_value s7
  have h8 : Kept q n s8 := by
    refine Kept.foldl _ _ ?_ fun s x h => ?_
    · assumption
    · refine State.put_kept _ _ _ _ ?_
      assumption
  clear_value s8
  have h9 : Kept q n s9 := by
    refine State.putB_kept _ _ _ _ ?_
    refine State.putB_kept _ _ _ _ ?_
    assumption
  clear_value s9
  have h10 : Kept q n s10 := by
    refine State.putB_kept _ _ _ _ ?_
    assumption
  clear_value s10
  have h11 : Kept q n s11 := by
    refine Kept.foldl _ _ ?_ fun s x h => ?_
    · assumption
    · refine State.put_kept _ _ _ _ ?_
      assumption
  clear_value s11
  have h12 : Kept q n s12 := by
    refine Kept.foldl _ _ ?_ fun s x h => ?_
    · assumption
    · refine applyPort_kept _ _ _ ?_
      assumption
  clear_value s12
  have h13 : Kept q n s13 := by
    refine Kept.foldl _ _ ?_ fun s x h => ?_
    · assumption
    · refine applyGeometry_kept _ _ _ ?_
      assumption
  clear_value s13
  refine Kept.foldl _ _ ?_ fun s x h => ?_
  · assumption
  · refine applyNs_kept _ _ _ ?_
    assumption

theorem applyDeferred_kept (m : Img) (s : State) (hs : Kept q n s) : Kept q n (applyDeferred m s) := by
  unfold applyDeferred
  extract_lets s1 s2 s3 s4 s5
  have h1 : Kept q n s1 := by
    refine State.put_kept _ _ _ _ ?_
    refine State.put_kept _ _ _ _ ?_
    assumption
  clear_value s1
  have h2 : Kept q n s2 := by
    refine State.put_kept _ _ _ _ ?_
    refine State.put_kept _ _ _ _ ?_
    assumption
  clear_value s2
  have h3 : Kept q n s3 := by
    refine State.put_kept _ _ _ _ ?_
    refine State.putB_kept _ _ _ _ ?_
    assumption
  clear_value s3
  have h5 : Kept q n s5 := by
    refine Kept.upd ?_ rfl rfl rfl rfl rfl rfl rfl rfl
    assumption
  clear_value s5
  refine State.put_kept _ _ _ _ ?_
  assumption

theorem refuseImage_kept (sec : ℕ) (reason : ℕ) (s : State) (hs : Kept q n s) : Kept q n (refuseImage sec reason s) := by
  unfold refuseImage
  extract_lets s1
  have h1 : Kept q n s1 := by
    refine State.put_kept _ _ _ _ ?_
    refine State.put_kept _ _ _ _ ?_
    assumption
  clear_value s1
  refine State.log_kept _ _ _ _ ?_
  refine State.raise_kept _ _ _ ?_
  assumption

theorem endRequest_kept (s : State) (hs : Kept q n s) : Kept q n (endRequest s) := by
  unfold endRequest
  extract_lets s1 s2
  have h2 : Kept q n s2 := by
    refine Kept.upd ?_ rfl rfl rfl rfl rfl rfl rfl rfl
    assumption
  clear_value s2
  refine State.putB_kept _ _ _ _ ?_
  refine State.put_kept _ _ _ _ ?_
  assumption

theorem request_kept (r : ImgReq) (F : FieldSpec) (s : State) (hs : Kept q n s) : Kept q n (request r F s) := by
  unfold request
  extract_lets s1 s2 s3 s4
  have h1 : Kept q n s1 := by
    refine State.pulse_kept _ _ _ ?_
    assumption
  clear_value s1
  have h3 : Kept q n s3 := by
    refine Kept.upd ?_ rfl rfl rfl rfl rfl rfl rfl rfl
    assumption
  clear_value s3
  have h4 : Kept q n s4 := by
    refine State.put_kept _ _ _ _ ?_
    assumption
  clear_value s4
  refine Kept.ite ?_ ?_
  · refine Kept.ite ?_ ?_
    · assumption
    · refine State.putB_kept _ _ _ _ ?_
      assumption
  · refine refuseImage_kept _ _ _ ?_
    assumption

theorem doImgVerify_kept (s : State) (hs : Kept q n s) : Kept q n (doImgVerify s) := by
  unfold doImgVerify
  refine request_kept _ _ _ ?_
  assumption

theorem doImgCommit_kept (s : State) (hs : Kept q n s) : Kept q n (doImgCommit s) := by
  unfold doImgCommit
  refine request_kept _ _ _ ?_
  assumption

theorem doImgConfirm_kept (s : State) (hs : Kept q n s) : Kept q n (doImgConfirm s) := by
  unfold doImgConfirm
  refine request_kept _ _ _ ?_
  assumption

theorem doStageClear_kept (s : State) (hs : Kept q n s) : Kept q n (doStageClear s) := by
  unfold doStageClear
  have h1 := State.pulse_kept s Reg.Img.STAGE_CLEAR 0 hs
  refine Kept.ite h1 ?_
  exact ⟨⟨h1.canon.regs, h1.canon.latches, Canon.nil, h1.canon.hostBuf, h1.canon.win4, h1.canon.win5⟩, h1.queue, h1.imp⟩

theorem abandonCommit_kept (s : State) (hs : Kept q n s) : Kept q n (abandonCommit s) := by
  unfold abandonCommit
  split
  · extract_lets s1
    have h1 : Kept q n s1 := by
      refine State.raise_kept _ _ _ ?_
      refine endRequest_kept _ ?_
      assumption
    clear_value s1
    refine refuseImage_kept _ _ _ ?_
    assumption
  · extract_lets s2
    have h2 : Kept q n s2 := by
      refine State.raise_kept _ _ _ ?_
      refine endRequest_kept _ ?_
      assumption
    clear_value s2
    refine refuseImage_kept _ _ _ ?_
    assumption
  · refine endRequest_kept _ ?_
    assumption
  · assumption

theorem doArbFuseAdvance_kept (s : State) (hs : Kept q n s) : Kept q n (doArbFuseAdvance s) := by
  unfold doArbFuseAdvance
  split
  · extract_lets s1 s2
    have h2 : Kept q n s2 := by
      refine Kept.upd ?_ rfl rfl rfl rfl rfl rfl rfl rfl
      assumption
    clear_value s2
    refine Kept.ite ?_ ?_
    · refine State.raise_kept _ _ _ ?_
      refine State.put_kept _ _ _ _ ?_
      assumption
    · assumption
  · assumption

theorem errDrop_kept (s : State) (hs : Kept q n s) : Kept q n (errDrop s) := by
  unfold errDrop
  refine State.raise_kept _ _ _ ?_
  refine State.bump_kept _ _ _ _ ?_
  assumption

theorem errAppend_kept (r : ErrRec) (s : State) (hs : Kept q n s) : Kept q n (errAppend r s) := by
  unfold errAppend
  extract_lets s1 s2
  refine Kept.ite ?_ ?_
  · refine errDrop_kept _ ?_
    assumption
  · refine Kept.upd ?_ rfl rfl rfl rfl rfl rfl rfl rfl
    assumption

theorem errRepeat_kept (r : ErrRec) (s : State) (hs : Kept q n s) : Kept q n (errRepeat r s) := by
  unfold errRepeat
  split
  · refine Kept.ite ?_ ?_
    · refine Kept.ite ?_ ?_
      · refine Kept.upd ?_ rfl rfl rfl rfl rfl rfl rfl rfl
        assumption
      · refine errAppend_kept _ _ ?_
        assumption
    · refine errAppend_kept _ _ ?_
      assumption
  · refine errAppend_kept _ _ ?_
    assumption

theorem endRateWindow_kept (code : ℕ) (s : State) (hs : Kept q n s) : Kept q n (endRateWindow code s) := by
  unfold endRateWindow
  split
  · assumption
  · refine Kept.ite ?_ ?_
    · assumption
    · extract_lets s1 s2 s3
      have h2 : Kept q n s2 := by
        refine Kept.upd ?_ rfl rfl rfl rfl rfl rfl rfl rfl
        assumption
      clear_value s2
      refine Kept.ite ?_ ?_
      · assumption
      · refine errAppend_kept _ _ ?_
        assumption

theorem errRate_kept (r : ErrRec) (s : State) (hs : Kept q n s) : Kept q n (errRate r s) := by
  unfold errRate
  extract_lets s1 s2
  have h1 : Kept q n s1 := by
    refine endRateWindow_kept _ _ ?_
    assumption
  clear_value s1
  split
  · refine errAppend_kept _ _ ?_
    refine Kept.upd ?_ rfl rfl rfl rfl rfl rfl rfl rfl
    assumption
  · refine Kept.ite ?_ ?_
    · refine errAppend_kept _ _ ?_
      refine Kept.upd ?_ rfl rfl rfl rfl rfl rfl rfl rfl
      assumption
    · refine State.bump_kept _ _ _ _ ?_
      refine Kept.upd ?_ rfl rfl rfl rfl rfl rfl rfl rfl
      assumption

theorem errRecord_kept (s : State) (r : ErrRec) (hs : Kept q n s) : Kept q n (errRecord s r) := by
  unfold errRecord
  extract_lets s1
  refine Kept.ite ?_ ?_
  · refine errAppend_kept _ _ ?_
    assumption
  · refine Kept.ite ?_ ?_
    · refine errRepeat_kept _ _ ?_
      assumption
    · refine Kept.ite ?_ ?_
      · refine errRate_kept _ _ ?_
        assumption
      · refine errAppend_kept _ _ ?_
        assumption

theorem recordEvents_kept (s : State) (hs : Kept q n s) : Kept q n (recordEvents s) := by
  unfold recordEvents
  extract_lets s1 s2
  refine Kept.foldl _ _ ?_ fun s x h => ?_
  · refine Kept.upd ?_ rfl rfl rfl rfl rfl rfl rfl rfl
    assumption
  · refine errRecord_kept _ _ ?_
    assumption

theorem flushOne_kept (s : State) (r : ErrRec) (hs : Kept q n s) : Kept q n (flushOne s r) := by
  unfold flushOne
  refine Kept.ite ?_ ?_
  · extract_lets s1 s2 s3
    have h1 : Kept q n s1 := by
      refine errDrop_kept _ ?_
      assumption
    clear_value s1
    refine Kept.ite ?_ ?_
    · assumption
    · refine State.raise_kept _ _ _ ?_
      refine State.eachHalf_kept _ _ ?_
      assumption
  · extract_lets s4 s5 s6
    have h5 : Kept q n s5 := by
      refine State.eachHalf_kept _ _ ?_
      assumption
    clear_value s5
    refine Kept.upd ?_ rfl rfl rfl rfl rfl rfl rfl rfl
    assumption

theorem flushLog_kept (s : State) (hs : Kept q n s) : Kept q n (flushLog s) := by
  unfold flushLog
  refine Kept.ite ?_ ?_
  · extract_lets s1 s2 s3 s4
    have h3 : Kept q n s3 := by
      refine Kept.upd ?_ rfl rfl rfl rfl rfl rfl rfl rfl
      assumption
    clear_value s3
    refine Kept.ite ?_ ?_
    · assumption
    · refine Kept.foldl _ _ ?_ fun s x h => ?_
      · refine Kept.upd ?_ rfl rfl rfl rfl rfl rfl rfl rfl
        assumption
      · refine flushOne_kept _ _ ?_
        assumption
  · assumption

theorem doErrataFlush_kept (s : State) (hs : Kept q n s) : Kept q n (doErrataFlush s) := by
  unfold doErrataFlush
  refine Kept.ite ?_ ?_
  · refine flushLog_kept _ ?_
    assumption
  · assumption

theorem doLogFlush_kept (s : State) (hs : Kept q n s) : Kept q n (doLogFlush s) := by
  unfold doLogFlush
  extract_lets s1
  have h1 : Kept q n s1 := by
    refine State.pulse_kept _ _ _ ?_
    assumption
  clear_value s1
  refine Kept.ite ?_ ?_
  · refine flushLog_kept _ ?_
    assumption
  · assumption

theorem beginFreeze_kept (s : State) (hs : Kept q n s) : Kept q n (beginFreeze s) := by
  unfold beginFreeze
  refine Kept.ite ?_ ?_
  · extract_lets s1 s2
    have h1 : Kept q n s1 := by
      refine State.putB_kept _ _ _ _ ?_
      refine flushLog_kept _ ?_
      assumption
    clear_value s1
    refine Kept.upd ?_ rfl rfl rfl rfl rfl rfl rfl rfl
    assumption
  · assumption

theorem endFreeze_kept (s : State) (hs : Kept q n s) : Kept q n (endFreeze s) := by
  unfold endFreeze
  extract_lets s1 s2
  have h1 : Kept q n s1 := by
    refine State.putB_kept _ _ _ _ ?_
    refine State.putB_kept _ _ _ _ ?_
    assumption
  clear_value s1
  refine Kept.upd ?_ rfl rfl rfl rfl rfl rfl rfl rfl
  assumption

theorem doFreeze_kept (v : Bool) (s : State) (hs : Kept q n s) : Kept q n (doFreeze v s) := by
  unfold doFreeze
  refine Kept.ite ?_ ?_
  · refine beginFreeze_kept _ ?_
    refine State.putB_kept _ _ _ _ ?_
    assumption
  · refine Kept.ite ?_ ?_
    · refine endFreeze_kept _ ?_
      assumption
    · assumption

theorem doFreezeExpired_kept (s : State) (hs : Kept q n s) : Kept q n (doFreezeExpired s) := by
  unfold doFreezeExpired
  split
  · refine Kept.ite ?_ ?_
    · refine State.log_kept _ _ _ _ ?_
      refine State.raise_kept _ _ _ ?_
      refine endFreeze_kept _ ?_
      assumption
    · assumption
  · assumption

theorem eraseLog_kept (s : State) (hs : Kept q n s) : Kept q n (eraseLog s) := by
  unfold eraseLog
  refine State.eachHalf_kept _ _ ?_
  assumption

theorem doLogClear_kept (s : State) (hs : Kept q n s) : Kept q n (doLogClear s) := by
  unfold doLogClear
  extract_lets s1 s2 s3 s4
  have h1 : Kept q n s1 := by
    refine State.pulse_kept _ _ _ ?_
    assumption
  clear_value s1
  have h3 : Kept q n s3 := by
    refine eraseLog_kept _ ?_
    assumption
  clear_value s3
  refine Kept.ite ?_ ?_
  · refine Kept.upd ?_ rfl rfl rfl rfl rfl rfl rfl rfl
    assumption
  · refine State.raise_kept _ _ _ ?_
    assumption

theorem writeCleared_kept (flags : ℕ) (used : ℕ) (lost : ℕ) (s : State) (hs : Kept q n s) : Kept q n (writeCleared flags used lost s) := by
  unfold writeCleared
  extract_lets s1 s2 s3 s4 s5 s6
  have h5 : Kept q n s5 := by
    refine State.eachHalf_kept _ _ ?_
    assumption
  clear_value s5
  refine Kept.upd ?_ rfl rfl rfl rfl rfl rfl rfl rfl
  assumption

theorem doLogClearComplete_kept (s : State) (hs : Kept q n s) : Kept q n (doLogClearComplete s) := by
  unfold doLogClearComplete
  split
  · assumption
  · extract_lets s1 s2 s3 s4
    have h2 : Kept q n s2 := by
      refine State.put_kept _ _ _ _ ?_
      refine writeCleared_kept _ _ _ _ ?_
      assumption
    clear_value s2
    have h4 : Kept q n s4 := by
      refine Kept.upd ?_ rfl rfl rfl rfl rfl rfl rfl rfl
      assumption
    clear_value s4
    refine State.raise_kept _ _ _ ?_
    refine endFreeze_kept _ ?_
    assumption

theorem clearInterrupted_kept (s : State) (hs : Kept q n s) : Kept q n (clearInterrupted s) := by
  unfold clearInterrupted
  refine writeCleared_kept _ _ _ _ ?_
  refine eraseLog_kept _ ?_
  refine Kept.upd ?_ rfl rfl rfl rfl rfl rfl rfl rfl
  assumption

theorem scanLog_kept (s : State) (hs : Kept q n s) : Kept q n (scanLog s) := by
  unfold scanLog
  refine Kept.ite ?_ ?_
  · extract_lets s1 s2 s3 s4
    refine Kept.ite ?_ ?_
    · refine Kept.upd ?_ rfl rfl rfl rfl rfl rfl rfl rfl
      assumption
    · refine clearInterrupted_kept _ ?_
      assumption
  · assumption

theorem doRateWindowEnd_kept (code : ℕ) (s : State) (hs : Kept q n s) : Kept q n (doRateWindowEnd code s) := by
  unfold doRateWindowEnd
  refine endRateWindow_kept _ _ ?_
  assumption

theorem doAnchorGo_kept (s : State) (hs : Kept q n s) : Kept q n (doAnchorGo s) := by
  unfold doAnchorGo
  extract_lets s1
  refine State.log_kept _ _ _ _ ?_
  refine State.pulse_kept _ _ _ ?_
  assumption

end Sys2Proof.Machine
end

