-- ==== Sys2Proof/Laws/KeptCasts.lean ====
section
/-!
SUPPORT. What every operation keeps (Laws/Kept.lean): resets, DMA, zones, casts, and makeready.
-/

namespace Sys2Proof.Machine

variable {q : List Instr} {n : Nat}

theorem portsOff_kept (s : State) (hs : Kept q n s) : Kept q n (portsOff s) := by
  unfold portsOff
  extract_lets s1 s2 s3 s4 s5 s6 s7 s8
  have h1 : Kept q n s1 := by
    refine closeAll_kept _ ?_
    refine feOff_kept _ ?_
    assumption
  clear_value s1
  have h3 : Kept q n s3 := by
    refine Kept.upd ?_ rfl rfl rfl rfl rfl rfl rfl rfl
    assumption
  clear_value s3
  have h4 : Kept q n s4 := by
    refine Kept.upd ?_ rfl rfl rfl rfl rfl rfl rfl rfl
    assumption
  clear_value s4
  have h5 : Kept q n s5 := by
    refine Kept.upd ?_ rfl rfl rfl rfl rfl rfl rfl rfl
    assumption
  clear_value s5
  have h6 : Kept q n s6 := by
    refine Kept.upd ?_ rfl rfl rfl rfl rfl rfl rfl rfl
    assumption
  clear_value s6
  have h8 : Kept q n s8 := by
    refine Kept.upd ?_ rfl rfl rfl rfl rfl rfl rfl rfl
    assumption
  clear_value s8
  refine State.put_kept _ _ _ _ ?_
  refine State.put_kept _ _ _ _ ?_
  assumption

theorem writeCounters_kept (s : State) (hs : Kept q n s) : Kept q n (writeCounters s) := by
  unfold writeCounters
  refine Kept.ite ?_ ?_
  · extract_lets s1 s2 s3
    have h2 : Kept q n s2 := by
      refine State.eachHalf_kept _ _ ?_
      assumption
    clear_value s2
    refine Kept.upd ?_ rfl rfl rfl rfl rfl rfl rfl rfl
    assumption
  · assumption

theorem doCounterRecordWrite_kept (s : State) (hs : Kept q n s) : Kept q n (doCounterRecordWrite s) := by
  unfold doCounterRecordWrite
  refine Kept.ite ?_ ?_
  · extract_lets s1 s2
    have h1 : Kept q n s1 := by
      refine writeCounters_kept _ ?_
      assumption
    clear_value s1
    refine Kept.upd ?_ rfl rfl rfl rfl rfl rfl rfl rfl
    assumption
  · assumption

theorem powerDown_kept (s : State) (hs : Kept q n s) : Kept q n (powerDown s) := by
  unfold powerDown
  extract_lets s1 s2
  have h1 : Kept q n s1 := by
    refine Kept.ite ?_ ?_
    · assumption
    · refine writeCounters_kept _ ?_
      refine flushLog_kept _ ?_
      refine recordEvents_kept _ ?_
      assumption
  clear_value s1
  refine Kept.upd ?_ rfl rfl rfl rfl rfl rfl rfl rfl
  assumption

theorem abandonRotation_kept (s : State) (hs : Kept q n s) : Kept q n (abandonRotation s) := by
  unfold abandonRotation
  refine Kept.ite ?_ ?_
  · refine State.raise_kept _ _ _ ?_
    refine State.putB_kept _ _ _ _ ?_
    refine Kept.upd ?_ rfl rfl rfl rfl rfl rfl rfl rfl
    assumption
  · assumption

theorem zeroize_kept (s : State) (hs : Kept q n s) : Kept q n (zeroize s) := by
  unfold zeroize
  extract_lets s1 s2 s3 s4 s5
  have h1 : Kept q n s1 := by
    refine abandonRotation_kept _ ?_
    assumption
  clear_value s1
  have h4 : Kept q n s4 := by
    refine Kept.upd ?_ rfl rfl rfl rfl rfl rfl rfl rfl
    assumption
  clear_value s4
  have h5 : Kept q n s5 := by
    refine Kept.foldl _ _ ?_ fun s x h => ?_
    · assumption
    · refine State.put_kept _ _ _ _ ?_
      refine State.put_kept _ _ _ _ ?_
      assumption
  clear_value s5
  refine State.put_kept _ _ _ _ ?_
  refine State.put_kept _ _ _ _ ?_
  refine State.putB_kept _ _ _ _ ?_
  assumption

theorem emptyCase_kept (s : State) (hs : Kept q n s) : Kept q n (emptyCase s) := by
  unfold emptyCase
  refine Kept.upd ?_ rfl rfl rfl rfl rfl rfl rfl rfl
  assumption

theorem beginClear_kept (s : State) (hs : Kept q n s) : Kept q n (beginClear s) := by
  unfold beginClear
  extract_lets s1 s2
  have h1 : Kept q n s1 := by
    refine emptyCase_kept _ ?_
    assumption
  clear_value s1
  refine Kept.upd ?_ rfl rfl rfl rfl rfl rfl rfl rfl
  assumption

theorem startMakeready_kept (k : ResetKind) (m : ModState) (s : State) (hs : Kept q n s) : Kept q n (startMakeready k m s) := by
  unfold startMakeready
  extract_lets from_ src s1 s2
  have h1 : Kept q n s1 := Kept.upd hs rfl rfl rfl rfl rfl rfl rfl rfl
  have h2 : Kept q n s2 := Kept.ite h1 (State.log_kept _ _ _ _ h1)
  clear_value s2
  exact Kept.ite h2 (State.log_kept _ _ _ _ (State.raise_kept _ _ _ (State.ibi_kept _ _ h2)))

theorem resetCore_kept (s : State) (hs : Kept q n s) : Kept q n (resetCore s) :=
  ⟨⟨hs.canon.regs, List.Pairwise.nil, Canon.nil, hs.canon.hostBuf, Canon.nil, Canon.nil⟩, hs.queue, hs.imp⟩

theorem regsReset_kept (k : ResetKind) (s : State) (hs : Kept q n s) : Kept q n (regsReset k s) := by
  unfold regsReset
  have hr : Canon (resetRegs k s.rf.regs) := Canon.resetRegs k hs.canon.regs
  generalize resetRegs k s.rf.regs = r at hr ⊢
  exact ⟨⟨hr, hs.canon.latches, hs.canon.stage, hs.canon.hostBuf, hs.canon.win4, hs.canon.win5⟩, hs.queue, hs.imp⟩

theorem applyReset_kept (k : ResetKind) (s : State) (hs : Kept q n s) : Kept q n (applyReset k s) := by
  unfold applyReset
  extract_lets s1 s2 s3 s4 s5 s6 s7 s8
  have h3 : Kept q n s3 := by
    refine regsReset_kept _ _ ?_
    refine resetCore_kept _ ?_
    refine abandonCommit_kept _ ?_
    assumption
  clear_value s3
  have h6 : Kept q n s6 := by
    refine Kept.ite ?_ ?_
    · refine Kept.upd ?_ rfl rfl rfl rfl rfl rfl rfl rfl
      assumption
    · refine Kept.upd ?_ rfl rfl rfl rfl rfl rfl rfl rfl
      assumption
  clear_value s6
  have h7 : Kept q n s7 := by
    refine Kept.ite ?_ ?_
    · refine State.raise_kept _ _ _ ?_
      assumption
    · assumption
  clear_value s7
  have h8 : Kept q n s8 := by
    refine startMakeready_kept _ _ _ ?_
    assumption
  clear_value s8
  refine Kept.ite ?_ ?_
  · refine writeCounters_kept _ ?_
    assumption
  · assumption

theorem enterSafe_kept (cause : ℕ) (s : State) (hs : Kept q n s) : Kept q n (enterSafe cause s) := by
  unfold enterSafe
  extract_lets s1 s2 s3 s4 s5 s6 s7 s8 s9
  have h1 : Kept q n s1 := by
    refine portsOff_kept _ ?_
    assumption
  clear_value s1
  have h4 : Kept q n s4 := by
    refine Kept.upd ?_ rfl rfl rfl rfl rfl rfl rfl rfl
    assumption
  clear_value s4
  have h5 : Kept q n s5 := by
    refine State.enter_kept _ _ ?_
    assumption
  clear_value s5
  have h6 : Kept q n s6 := by
    refine State.log_kept _ _ _ _ ?_
    assumption
  clear_value s6
  have h7 : Kept q n s7 := by
    refine State.raise_kept _ _ _ ?_
    refine State.put_kept _ _ _ _ ?_
    assumption
  clear_value s7
  have h8 : Kept q n s8 := by
    refine flushLog_kept _ ?_
    assumption
  clear_value s8
  refine writeCounters_kept _ ?_
  refine Kept.upd ?_ rfl rfl rfl rfl rfl rfl rfl rfl
  assumption

theorem eccDecode_kept (a : ℕ) (s : State) (hs : Kept q n s) : Kept q n (eccDecode a s).2 := by
  unfold eccDecode
  dsimp only
  split
  · split
    · dsimp only
      assumption
    · split
      · dsimp only
        refine State.bump_kept _ _ _ _ ?_
        refine State.draw_kept _ ?_
        assumption
      · dsimp only
        refine State.put_kept _ _ _ _ ?_
        refine State.put_kept _ _ _ _ ?_
        refine State.bump_kept _ _ _ _ ?_
        assumption
  · dsimp only
    refine State.bump_kept _ _ _ _ ?_
    refine State.draw_kept _ ?_
    assumption

theorem eccReadN_kept (m a : Nat) (s : State) (hs : Kept q n s) : Kept q n (eccReadN m a s).2 := by
  induction m generalizing a s with
  | zero => exact hs
  | succ m ih => exact ih _ _ (eccDecode_kept _ _ hs)

theorem eccRead_kept (o : ℕ) (n0 : ℕ) (s : State) (hs : Kept q n s) : Kept q n (eccRead o n0 s).2 := by
  unfold eccRead
  dsimp only
  split
  · dsimp only
    refine eccReadN_kept _ _ _ ?_
    assumption
  · split
    · dsimp only
      assumption
    · dsimp only
      assumption

theorem eccStore_kept (m o : Nat) (bs : List Nat) (s : State) (hs : Kept q n s) : Kept q n (eccStore m o bs s) := by
  induction m generalizing o bs s with
  | zero => exact hs
  | succ m ih =>
    unfold eccStore
    refine Kept.ite hs (Kept.ite (ih _ _ _ (putWin_kept _ _ _ _ hs)) (ih _ _ _ ?_))
    exact Kept.ite (putWin_kept _ _ _ _ hs) (Kept.ite (wholeWrite_kept _ _ _ hs) (narrowWrite_kept _ _ _ hs))

theorem dmaRead_kept (a : ℕ) (n0 : ℕ) (s : State) (hs : Kept q n s) : Kept q n (dmaRead a n0 s).2 := by
  unfold dmaRead
  dsimp only
  split
  · refine eccRead_kept _ _ _ ?_
    assumption
  · split
    · dsimp only
      assumption
    · split
      · dsimp only
        assumption
      · dsimp only
        assumption

theorem dmaWrite_kept (a : Nat) (bs : List Nat) (s : State) (hs : Kept q n s) : Kept q n (dmaWrite a bs s) := by
  unfold dmaWrite
  refine Kept.ite (eccStore_kept _ _ _ _ hs) (Kept.ite ?_ ?_)
  · exact ⟨⟨hs.canon.regs, hs.canon.latches, hs.canon.stage.putBytes _ _, hs.canon.hostBuf, hs.canon.win4, hs.canon.win5⟩, hs.queue, hs.imp⟩
  · exact ⟨⟨hs.canon.regs, hs.canon.latches, hs.canon.stage, hs.canon.hostBuf.putBytes _ _, hs.canon.win4, hs.canon.win5⟩, hs.queue, hs.imp⟩

theorem updRun_kept (c : ℕ) (f : DmaRun → DmaRun) (s : State) (hs : Kept q n s) : Kept q n (updRun c f s) := by
  unfold updRun
  split
  · refine Kept.upd ?_ rfl rfl rfl rfl rfl rfl rfl rfl
    assumption
  · assumption

theorem endRun_kept (c : ℕ) (st : ℕ) (s : State) (hs : Kept q n s) : Kept q n (endRun c st s) := by
  unfold endRun
  refine State.put_kept _ _ _ _ ?_
  refine Kept.upd ?_ rfl rfl rfl rfl rfl rfl rfl rfl
  assumption

theorem haltRun_kept (c : ℕ) (st : ℕ) (cause : ℕ) (s : State) (hs : Kept q n s) : Kept q n (haltRun c st cause s) := by
  unfold haltRun
  extract_lets s1
  have h1 : Kept q n s1 := by
    refine State.put_kept _ _ _ _ ?_
    refine endRun_kept _ _ _ ?_
    assumption
  clear_value s1
  refine State.log_kept _ _ _ _ ?_
  refine State.raise_kept _ _ _ ?_
  assumption

theorem abortDma_kept (s : State) (hs : Kept q n s) : Kept q n (abortDma s) := by
  unfold abortDma
  extract_lets s1 s2
  have h1 : Kept q n s1 := by
    refine Kept.foldl _ _ ?_ fun s x h => ?_
    · assumption
    · refine endRun_kept _ _ _ ?_
      assumption
  clear_value s1
  refine Kept.upd ?_ rfl rfl rfl rfl rfl rfl rfl rfl
  assumption

theorem doneBit_kept (c : Nat) (s : State) (hs : Kept q n s) : Kept q n (doneBit c s) :=
  ⟨⟨hs.canon.regs.rput _ _ _, hs.canon.latches, hs.canon.stage, hs.canon.hostBuf, hs.canon.win4, hs.canon.win5⟩, hs.queue, hs.imp⟩

theorem completeDesc_kept (c : ℕ) (d : DmaCur) (s : State) (hs : Kept q n s) : Kept q n (completeDesc c d s) := by
  unfold completeDesc
  extract_lets s1 s2
  have h1 : Kept q n s1 := by
    refine State.bump_kept _ _ _ _ ?_
    assumption
  clear_value s1
  have h2 : Kept q n s2 := by
    refine Kept.ite ?_ ?_
    · refine State.raise_kept _ _ _ ?_
      assumption
    · assumption
  clear_value s2
  refine Kept.ite ?_ ?_
  · refine State.raise_kept _ _ _ ?_
    refine doneBit_kept _ _ ?_
    refine endRun_kept _ _ _ ?_
    assumption
  · refine updRun_kept _ _ _ ?_
    assumption

theorem showDesc_kept (c : ℕ) (a : ℕ) (s : State) (hs : Kept q n s) : Kept q n (showDesc c a s) := by
  unfold showDesc
  refine State.put_kept _ _ _ _ ?_
  refine State.put_kept _ _ _ _ ?_
  assumption

theorem fetchDesc_kept (c : ℕ) (s : State) (hs : Kept q n s) : Kept q n (fetchDesc c s) := by
  unfold fetchDesc
  split
  · assumption
  · refine Kept.ite ?_ ?_
    · extract_lets s1 s2 s3 s4
      have h4 : Kept q n s4 := by
        refine showDesc_kept _ _ _ ?_
        assumption
      clear_value s4
      split
      · refine haltRun_kept _ _ _ _ ?_
        assumption
      · refine updRun_kept _ _ _ ?_
        assumption
    · extract_lets s5 s6 s7
      have h6 : Kept q n s6 := by
        refine showDesc_kept _ _ _ ?_
        assumption
      clear_value s6
      refine Kept.ite ?_ ?_
      · refine haltRun_kept _ _ _ _ ?_
        assumption
      · refine Kept.ite ?_ ?_
        · refine haltRun_kept _ _ _ _ ?_
          assumption
        · refine Kept.ite ?_ ?_
          · refine haltRun_kept _ _ _ _ ?_
            assumption
          · refine Kept.ite ?_ ?_
            · refine haltRun_kept _ _ _ _ ?_
              assumption
            · split
              · refine haltRun_kept _ _ _ _ ?_
                assumption
              · refine updRun_kept _ _ _ ?_
                assumption

theorem moveBytes_kept (c : ℕ) (d : DmaCur) (n0 : ℕ) (s : State) (hs : Kept q n s) : Kept q n (moveBytes c d n0 s).2 := by
  unfold moveBytes
  dsimp only
  refine updRun_kept _ _ _ ?_
  refine Kept.ite ?_ ?_
  · assumption
  · refine State.bump_kept _ _ _ _ ?_
    refine dmaWrite_kept _ _ _ ?_
    refine dmaRead_kept _ _ _ ?_
    assumption

theorem stepRun_kept (c m b : Nat) (s : State) (hs : Kept q n s) : Kept q n (stepRun c m b s) := by
  induction m generalizing b s with
  | zero => exact hs
  | succ m ih =>
    unfold stepRun
    split
    · assumption
    · refine Kept.ite hs ?_
      split
      · exact ih _ _ (fetchDesc_kept _ _ hs)
      · rename_i d _
        have h1 := moveBytes_kept c d b _ hs
        exact Kept.ite (ih _ _ (completeDesc_kept _ _ _ h1)) (ih _ _ h1)

theorem doDmaGo_kept (c : ℕ) (s : State) (hs : Kept q n s) : Kept q n (doDmaGo c s) := by
  unfold doDmaGo
  refine Kept.ite ?_ ?_
  · assumption
  · extract_lets s1 s2 s3 s4
    have h1 : Kept q n s1 := by
      refine State.pulse_kept _ _ _ ?_
      assumption
    clear_value s1
    have h3 : Kept q n s3 := by
      refine State.put_kept _ _ _ _ ?_
      refine State.put_kept _ _ _ _ ?_
      refine State.put_kept _ _ _ _ ?_
      assumption
    clear_value s3
    refine Kept.ite ?_ ?_
    · refine State.log_kept _ _ _ _ ?_
      refine State.raise_kept _ _ _ ?_
      assumption
    · refine Kept.upd ?_ rfl rfl rfl rfl rfl rfl rfl rfl
      assumption

theorem doDmaAbort_kept (c : ℕ) (s : State) (hs : Kept q n s) : Kept q n (doDmaAbort c s) := by
  unfold doDmaAbort
  refine Kept.ite ?_ ?_
  · assumption
  · extract_lets s1
    have h1 : Kept q n s1 := by
      refine State.pulse_kept _ _ _ ?_
      assumption
    clear_value s1
    refine Kept.ite ?_ ?_
    · refine endRun_kept _ _ _ ?_
      assumption
    · assumption

theorem doDmaStep_kept (c : ℕ) (s : State) (hs : Kept q n s) : Kept q n (doDmaStep c s) := by
  unfold doDmaStep
  split
  · refine Kept.ite ?_ ?_
    · refine stepRun_kept _ _ _ _ ?_
      assumption
    · assumption
  · assumption

theorem sharedStop_kept (s : State) (hs : Kept q n s) : Kept q n (sharedStop s) := by
  unfold sharedStop
  extract_lets s1 s2 s3 s4
  have h2 : Kept q n s2 := by
    refine Kept.foldl _ _ ?_ fun s x h => ?_
    · assumption
    · extract_lets s5
      have h5 : Kept q n s5 := by
        refine State.put_kept _ _ _ _ ?_
        refine State.put_kept _ _ _ _ ?_
        assumption
      clear_value s5
      refine updRun_kept _ _ _ ?_
      assumption
  clear_value s2
  have h4 : Kept q n s4 := by
    refine faultItem_kept _ ?_
    refine Kept.upd ?_ rfl rfl rfl rfl rfl rfl rfl rfl
    assumption
  clear_value s4
  refine State.log_kept _ _ _ _ ?_
  refine State.raise_kept _ _ _ ?_
  refine State.bump_kept _ _ _ _ ?_
  assumption

theorem beatFails_kept (c : ℕ) (a : ℕ) (write : Bool) (zero : Bool) (noPrefetch : Bool) (s : State) (hs : Kept q n s) : Kept q n (beatFails c a write zero noPrefetch s) := by
  unfold beatFails
  extract_lets s1
  have h1 : Kept q n s1 := by
    refine State.put_kept _ _ _ _ ?_
    refine State.put_kept _ _ _ _ ?_
    assumption
  clear_value s1
  refine Kept.ite ?_ ?_
  · refine Kept.ite ?_ ?_
    · refine haltRun_kept _ _ _ _ ?_
      assumption
    · refine haltRun_kept _ _ _ _ ?_
      assumption
  · refine Kept.ite ?_ ?_
    · refine haltRun_kept _ _ _ _ ?_
      assumption
    · refine sharedStop_kept _ ?_
      assumption

theorem doBusErrorRetry_kept (c : ℕ) (k : BeatKind) (addr : ℕ) (ok : Bool) (s : State) (hs : Kept q n s) : Kept q n (doBusErrorRetry c k addr ok s) := by
  unfold doBusErrorRetry
  split
  · assumption
  · refine Kept.ite ?_ ?_
    · assumption
    · extract_lets s1 s2 s3 s4 s5 s6
      have h6 : Kept q n s6 := by
        refine updRun_kept _ _ _ ?_
        assumption
      clear_value s6
      refine Kept.ite ?_ ?_
      · refine beatFails_kept _ _ _ _ _ _ ?_
        assumption
      · refine Kept.ite ?_ ?_
        · refine State.bump_kept _ _ _ _ ?_
          refine updRun_kept _ _ _ ?_
          assumption
        · refine Kept.ite ?_ ?_
          · refine beatFails_kept _ _ _ _ _ _ ?_
            assumption
          · assumption

theorem doSharedStopRestart_kept (s : State) (hs : Kept q n s) : Kept q n (doSharedStopRestart s) := by
  unfold doSharedStopRestart
  split
  · refine Kept.ite ?_ ?_
    · extract_lets s1 s2
      have h2 : Kept q n s2 := by
        refine Kept.upd ?_ rfl rfl rfl rfl rfl rfl rfl rfl
        assumption
      clear_value s2
      refine Kept.foldl _ _ ?_ fun s x h => ?_
      · assumption
      · refine Kept.ite ?_ ?_
        · assumption
        · split
          · refine Kept.ite ?_ ?_
            · refine haltRun_kept _ _ _ _ ?_
              assumption
            · refine State.put_kept _ _ _ _ ?_
              refine updRun_kept _ _ _ ?_
              assumption
          · refine State.put_kept _ _ _ _ ?_
            refine updRun_kept _ _ _ ?_
            assumption
    · assumption
  · assumption

theorem zoneEffect_kept (a : ZPend) (k : ℕ) (s : State) (hs : Kept q n s) : Kept q n (zoneEffect a k s) := by
  unfold zoneEffect
  split
  · refine closeZone_kept _ _ ?_
    assumption
  · refine fillZone_kept _ _ ?_
    assumption
  · refine resetZone_kept _ _ ?_
    assumption

theorem zoneAct_kept (a : ZAct) (k : ℕ) (s : State) (hs : Kept q n s) : Kept q n (zoneAct a k s).2 := by
  unfold zoneAct
  dsimp only
  split
  · dsimp only
    assumption
  · split
    · split
      · dsimp only
        assumption
      · dsimp only
        assumption
    · split
      · split
        · dsimp only
          assumption
        · dsimp only
          assumption
      · split
        · split
          · dsimp only
            assumption
          · dsimp only
            assumption
          · dsimp only
            assumption
          · dsimp only
            assumption
          · split
            · dsimp only
              refine Kept.pair (by assumption) (openZone_kept _ _ _ ?_)
              assumption
            · dsimp only
              refine Kept.pair (by assumption) (openZone_kept _ _ _ ?_)
              assumption
        · split
          · dsimp only
            assumption
          · dsimp only
            assumption
          · dsimp only
            assumption
          · dsimp only
            assumption
          · dsimp only
            assumption
          · split
            · dsimp only
              refine zoneEffect_kept _ _ _ ?_
              assumption
            · dsimp only
              refine State.updZone_kept _ _ _ ?_
              assumption
        · split
          · dsimp only
            assumption
          · dsimp only
            assumption
          · dsimp only
            assumption
          · split
            · dsimp only
              refine beginSeal_kept _ _ _ ?_
              assumption
            · split
              · dsimp only
                refine zoneEffect_kept _ _ _ ?_
                assumption
              · dsimp only
                refine State.updZone_kept _ _ _ ?_
                assumption
        · split
          · dsimp only
            assumption
          · split
            · dsimp only
              assumption
            · split
              · dsimp only
                assumption
              · dsimp only
                assumption
              · split
                · dsimp only
                  refine zoneEffect_kept _ _ _ ?_
                  assumption
                · dsimp only
                  refine State.updZone_kept _ _ _ ?_
                  assumption
        · split
          · split
            · dsimp only
              assumption
            · dsimp only
              refine zoneSaved_kept _ _ ?_
              refine zoneChanged_kept _ _ ?_
              refine State.updZone_kept _ _ _ ?_
              assumption
          · dsimp only
            assumption
          · dsimp only
            assumption

theorem zoneActAll_kept (a : ZAct) (m : Nat) (s : State) (hs : Kept q n s) : Kept q n (zoneActAll a m s).2.2 := by
  unfold zoneActAll
  extract_lets ks
  split
  · assumption
  · split
    · assumption
    · split
      · exact countZn_kept _ _ (State.raise_kept _ _ _ hs)
      · refine foldl_keep (fun r : List Nat × State => Kept q n r.2) _ _ hs fun r k h => ?_
        have h1 := zoneAct_kept a k _ h
        split
        · rename_i e; rw [e] at h1; exact h1
        · rename_i e; rw [e] at h1; exact h1

theorem zoneSend_kept (a : ZAct) (x : ZoneCmd) (c : Conn) (s : State) (hs : Kept q n s) : Kept q n (zoneSend a x c s) := by
  unfold zoneSend
  extract_lets h m s1 _ put
  have h1 : Kept q n s1 := tag3_kept _ _ _ hs
  clear_value s1
  have hp (ks : List Nat) (s : State) (hs : Kept q n s) : Kept q n (put ks s) := State.setCmd_kept _ _ _ hs
  clear_value put
  refine Kept.ite ?_ (Kept.ite (respond_kept _ _ _ _ _ _ h1) (Kept.ite (invalidField_kept _ _ h1) ?_))
  · have h2 := zoneActAll_kept a m _ h1
    split <;> rename_i e <;> rw [e] at h2
    · exact respond_kept _ _ _ _ _ _ h2
    · exact ok_kept _ _ _ h2
    · exact hp _ _ h2
  · have h2 := zoneAct_kept a (zoneKey m (x.slba / zsze s1 m)) _ h1
    split <;> rename_i e <;> rw [e] at h2
    · exact respond_kept _ _ _ _ _ _ h2
    · exact ok_kept _ _ _ h2
    · exact hp _ _ h2

theorem doZoneSend_kept (a : ZAct) (x : ZoneCmd) (s : State) (hs : Kept q n s) : Kept q n (doZoneSend a x s) := by
  unfold doZoneSend
  refine gated_kept _ _ _ _ _ (fun x0 x1 h' => ?_) ?_
  · extract_lets s1
    split
    · refine respond_kept _ _ _ _ _ _ ?_
      assumption
    · refine zoneSend_kept _ _ _ _ ?_
      assumption
  · assumption

theorem doZoneActionDeferred_kept (n0 : ℕ) (z : ℕ) (s : State) (hs : Kept q n s) : Kept q n (doZoneActionDeferred n0 z s) := by
  unfold doZoneActionDeferred
  extract_lets s1
  split
  · refine Kept.ite ?_ ?_
    · extract_lets s2 s3
      have h2 : Kept q n s2 := by
        refine zoneEffect_kept _ _ _ ?_
        refine State.updZone_kept _ _ _ ?_
        assumption
      clear_value s2
      refine releaseHeld_kept _ _ ?_
      refine zoneDone_kept _ _ _ ?_
      assumption
    · assumption
  · assumption

theorem queueSeal_kept (k : ℕ) (s : State) (hs : Kept q n s) : Kept q n (queueSeal k s) := by
  unfold queueSeal
  refine Kept.ite ?_ ?_
  · assumption
  · extract_lets s1 s2 s3
    have h3 : Kept q n s3 := by
      refine Kept.upd ?_ rfl rfl rfl rfl rfl rfl rfl rfl
      assumption
    clear_value s3
    refine Kept.ite ?_ ?_
    · refine State.updZone_kept _ _ _ ?_
      assumption
    · assumption

theorem doSealDigest_kept (n0 : ℕ) (z : ℕ) (back : List (ℕ × Option Blk)) (s : State) (hs : Kept q n s) : Kept q n (doSealDigest n0 z back s) := by
  unfold doSealDigest
  extract_lets s1 s2 s3
  split
  · assumption
  · refine Kept.ite ?_ ?_
    · assumption
    · extract_lets s4
      refine Kept.ite ?_ ?_
      · unfold s4
        extract_lets s5 s6
        have h6 : Kept q n s6 := by
          refine State.updZone_kept _ _ _ ?_
          assumption
        clear_value s6
        refine queueSeal_kept _ _ ?_
        assumption
      · split
        · assumption
        · extract_lets s7 s8
          have h8 : Kept q n s8 := by
            refine hbAdd_kept _ _ _ _ ?_
            assumption
          clear_value s8
          unfold s4
          extract_lets s9 s10
          have h10 : Kept q n s10 := by
            refine State.updZone_kept _ _ _ ?_
            assumption
          clear_value s10
          refine queueSeal_kept _ _ ?_
          assumption

theorem nextSeal_kept (s : State) (hs : Kept q n s) : Kept q n (nextSeal s) := by
  unfold nextSeal
  extract_lets s1 s2 s3
  have h3 : Kept q n s3 := by
    unfold s3
    clear_value s1
    split
    · refine Kept.ite ?_ ?_
      · refine Kept.upd ?_ rfl rfl rfl rfl rfl rfl rfl rfl
        assumption
      · assumption
    · assumption
  clear_value s3
  split
  · assumption
  · refine State.updZone_kept _ _ _ ?_
    assumption

theorem doColophonSigned_kept (n0 : ℕ) (z : ℕ) (s : State) (hs : Kept q n s) : Kept q n (doColophonSigned n0 z s) := by
  unfold doColophonSigned
  extract_lets s1
  split
  · refine Kept.ite ?_ ?_
    · split
      · refine State.bump_kept _ _ _ _ ?_
        assumption
      · extract_lets s2 s3 s4 s5 s6 s7 s8 s9 s10 s11
        have h2 : Kept q n s2 := by
          refine askPartial_kept _ _ ?_
          refine unretain_kept _ _ ?_
          refine land_kept _ _ _ _ _ ?_ _ (by assumption)
          assumption
        clear_value s2
        have h4 : Kept q n s4 := by
          refine State.updSig_kept _ _ _ ?_
          assumption
        clear_value s4
        have h5 : Kept q n s5 := by
          refine State.updZone_kept _ _ _ ?_
          assumption
        clear_value s5
        have h6 : Kept q n s6 := by
          refine countZn_kept _ _ ?_
          refine State.bump_kept _ _ _ _ ?_
          assumption
        clear_value s6
        have h7 : Kept q n s7 := by
          refine countZn_kept _ _ ?_
          assumption
        clear_value s7
        have h9 : Kept q n s9 := by
          refine Kept.ite ?_ ?_
          · assumption
          · refine Kept.upd ?_ rfl rfl rfl rfl rfl rfl rfl rfl
            assumption
        clear_value s9
        have h11 : Kept q n s11 := by
          refine nextSeal_kept _ ?_
          refine Kept.upd ?_ rfl rfl rfl rfl rfl rfl rfl rfl
          assumption
        clear_value s11
        refine zoneDone_kept _ _ _ ?_
        refine zoneSaved_kept _ _ ?_
        assumption
    · assumption
  · assumption

theorem doPermitReset_kept (n0 : ℕ) (z : ℕ) (s : State) (hs : Kept q n s) : Kept q n (doPermitReset n0 z s) := by
  unfold doPermitReset
  extract_lets s1 s2 s3 s4 s5 s6 s7
  have h4 : Kept q n s4 := by
    refine resetZone_kept _ _ ?_
    refine State.updZone_kept _ _ _ ?_
    assumption
  clear_value s4
  have h6 : Kept q n s6 := by
    refine Kept.ite ?_ ?_
    · refine Kept.upd ?_ rfl rfl rfl rfl rfl rfl rfl rfl
      assumption
    · assumption
  clear_value s6
  have h7 : Kept q n s7 := by
    refine countZn_kept _ _ ?_
    refine zoneChanged_kept _ _ ?_
    refine State.raise_kept _ _ _ ?_
    assumption
  clear_value s7
  split
  · refine Kept.ite ?_ ?_
    · extract_lets s8
      have h8 : Kept q n s8 := by
        refine State.log_kept _ _ _ _ ?_
        assumption
      clear_value s8
      refine releaseHeld_kept _ _ ?_
      refine endCmd_kept _ _ _ _ _ ?_
      assumption
    · assumption
  · assumption

theorem doReportZones_kept (x : ReportCmd) (s : State) (hs : Kept q n s) : Kept q n (doReportZones x s) := by
  unfold doReportZones
  extract_lets s1 s2
  refine gated_kept _ _ _ _ _ (fun x0 x1 h' => ?_) ?_
  · split
    · refine respond_kept _ _ _ _ _ _ ?_
      assumption
    · refine Kept.ite ?_ ?_
      · refine respond_kept _ _ _ _ _ _ ?_
        assumption
      · extract_lets s3 s4 s5
        refine returnBytes_kept _ _ _ _ ?_
        refine tag3_kept _ _ _ ?_
        assumption
  · assumption

theorem doOztSel_kept (v : ℕ) (s : State) (hs : Kept q n s) : Kept q n (doOztSel v s) := by
  unfold doOztSel
  extract_lets s1 s2 s3 s4 s5 s6 s7 s8 s9 s10 s11
  have h2 : Kept q n s2 := by
    refine State.put_kept _ _ _ _ ?_
    assumption
  clear_value s2
  have h7 : Kept q n s7 := by
    refine State.putB_kept _ _ _ _ ?_
    refine State.putB_kept _ _ _ _ ?_
    refine State.putB_kept _ _ _ _ ?_
    assumption
  clear_value s7
  have h8 : Kept q n s8 := by
    refine State.putB_kept _ _ _ _ ?_
    refine State.putB_kept _ _ _ _ ?_
    assumption
  clear_value s8
  have h9 : Kept q n s9 := by
    refine State.put_kept _ _ _ _ ?_
    refine State.put_kept _ _ _ _ ?_
    assumption
  clear_value s9
  have h10 : Kept q n s10 := by
    refine State.put_kept _ _ _ _ ?_
    refine State.put_kept _ _ _ _ ?_
    assumption
  clear_value s10
  refine State.put_kept _ _ _ _ ?_
  refine State.put_kept _ _ _ _ ?_
  refine State.put_kept _ _ _ _ ?_
  assumption

theorem consume_kept (gen : ℕ) (s : State) (hs : Kept q n s) : Kept q n (consume gen s) := by
  unfold consume
  extract_lets s1 s2
  have h1 : Kept q n s1 := by
    refine State.eachHalf_kept _ _ ?_
    assumption
  clear_value s1
  refine State.raise_kept _ _ _ ?_
  refine Kept.upd ?_ rfl rfl rfl rfl rfl rfl rfl rfl
  assumption

theorem eraseOlder_kept (s : State) (hs : Kept q n s) : Kept q n (eraseOlder s) := by
  unfold eraseOlder
  refine State.eachHalf_kept _ _ ?_
  assumption

theorem showCast_kept (s : State) (hs : Kept q n s) : Kept q n (showCast s) := by
  unfold showCast
  split
  · extract_lets s1 s2
    have h1 : Kept q n s1 := by
      refine State.put_kept _ _ _ _ ?_
      refine State.put_kept _ _ _ _ ?_
      assumption
    clear_value s1
    have h2 : Kept q n s2 := by
      refine State.put_kept _ _ _ _ ?_
      assumption
    clear_value s2
    refine State.put_kept _ _ _ _ ?_
    refine State.put_kept _ _ _ _ ?_
    assumption
  · assumption

theorem assignAll_kept (s : State) (hs : Kept q n s) : Kept q n (assignAll s) := by
  unfold assignAll
  extract_lets s1 s2
  have h2 : Kept q n s2 := by
    refine Kept.foldl _ _ ?_ fun s x h => ?_
    · assumption
    · refine storeWrite_kept _ _ ?_
      assumption
  clear_value s2
  refine Kept.foldl _ _ ?_ fun s x h => ?_
  · assumption
  · refine Kept.foldl _ _ ?_ fun s x h => ?_
    · assumption
    · refine doAppendAssign_kept _ _ _ ?_
      assumption

theorem voidRelease_kept (s : State) (hs : Kept q n s) : Kept q n (voidRelease s) := by
  unfold voidRelease
  extract_lets s1 s2
  have h1 : Kept q n s1 := by
    refine Kept.ite ?_ ?_
    · refine State.raise_kept _ _ _ ?_
      refine State.settle_kept _ _ _ ?_
      assumption
    · assumption
  clear_value s1
  refine Kept.upd ?_ rfl rfl rfl rfl rfl rfl rfl rfl
  assumption

theorem endForCast_kept (s : State) (hs : Kept q n s) : Kept q n (endForCast s) := by
  unfold endForCast
  extract_lets s1 s2 s3
  have h1 : Kept q n s1 := by
    refine State.putB_kept _ _ _ _ ?_
    refine abandonRotation_kept _ ?_
    refine abandonCommit_kept _ ?_
    refine voidRelease_kept _ ?_
    assumption
  clear_value s1
  have h2 : Kept q n s2 := by
    refine Kept.ite ?_ ?_
    · refine endFreeze_kept _ ?_
      assumption
    · assumption
  clear_value s2
  have h3 : Kept q n s3 := by
    refine abortRanges_kept _ ?_
    refine abortDma_kept _ ?_
    assumption
  clear_value s3
  refine Kept.ite ?_ ?_
  · refine endEccTest_kept _ ?_
    assumption
  · assumption

theorem beginCast_kept (causes : ℕ) (s : State) (hs : Kept q n s) : Kept q n (beginCast causes s) := by
  unfold beginCast
  extract_lets s1 s2 s3 s4 s5 s6 s7 s8 s9
  have h1 : Kept q n s1 := by
    refine assignAll_kept _ ?_
    refine endForCast_kept _ ?_
    assumption
  clear_value s1
  have h4 : Kept q n s4 := by
    refine emptyMerge_kept _ ?_
    refine portsOff_kept _ ?_
    assumption
  clear_value s4
  have h5 : Kept q n s5 := by
    refine State.eachHalf_kept _ _ ?_
    assumption
  clear_value s5
  have h6 : Kept q n s6 := by
    refine State.put_kept _ _ _ _ ?_
    assumption
  clear_value s6
  have h9 : Kept q n s9 := by
    refine Kept.upd ?_ rfl rfl rfl rfl rfl rfl rfl rfl
    assumption
  clear_value s9
  refine State.enter_kept _ _ ?_
  assumption

theorem tryCast_kept (s : State) (hs : Kept q n s) : Kept q n (tryCast s) := by
  unfold tryCast
  split
  · refine Kept.ite ?_ ?_
    · assumption
    · refine beginCast_kept _ _ ?_
      assumption
  · assumption

theorem dueCast_kept (bit : ℕ) (s : State) (hs : Kept q n s) : Kept q n (dueCast bit s) := by
  unfold dueCast
  extract_lets s1 s2
  have h1 : Kept q n s1 := by
    refine State.log_kept _ _ _ _ ?_
    assumption
  clear_value s1
  refine Kept.ite ?_ ?_
  · refine Kept.upd ?_ rfl rfl rfl rfl rfl rfl rfl rfl
    assumption
  · refine Kept.upd ?_ rfl rfl rfl rfl rfl rfl rfl rfl
    assumption

theorem settleCore_kept (s : State) (hs : Kept q n s) : Kept q n (settleCore s) := by
  unfold settleCore
  refine Kept.ite ?_ ?_
  · assumption
  · split
    · refine Kept.ite ?_ ?_
      · refine Kept.upd ?_ rfl rfl rfl rfl rfl rfl rfl rfl
        assumption
      · refine Kept.ite ?_ ?_
        · assumption
        · refine Kept.ite ?_ ?_
          · refine tryCast_kept _ ?_
            refine Kept.upd ?_ rfl rfl rfl rfl rfl rfl rfl rfl
            assumption
          · refine enterSafe_kept _ _ ?_
            assumption
    · refine tryCast_kept _ ?_
      assumption

theorem castFor_kept (bits : List ℕ) (s : State) (hs : Kept q n s) : Kept q n (castFor bits s) := by
  unfold castFor
  refine settleCore_kept _ ?_
  refine Kept.foldl _ _ ?_ fun s x h => ?_
  · assumption
  · refine dueCast_kept _ _ ?_
    assumption

theorem closeForRelease_kept (k : ℕ) (s : State) (hs : Kept q n s) : Kept q n (closeForRelease k s) := by
  unfold closeForRelease
  extract_lets s1
  refine Kept.ite ?_ ?_
  · assumption
  · refine Kept.ite ?_ ?_
    · refine State.updZone_kept _ _ _ ?_
      assumption
    · refine closeZone_kept _ _ ?_
      assumption

theorem startRelease_kept (s : State) (hs : Kept q n s) : Kept q n (startRelease s) := by
  unfold startRelease
  extract_lets s1 s2 s3 s4 s5 s6
  have h1 : Kept q n s1 := by
    refine State.enter_kept _ _ ?_
    assumption
  clear_value s1
  have h5 : Kept q n s5 := by
    refine Kept.upd ?_ rfl rfl rfl rfl rfl rfl rfl rfl
    assumption
  clear_value s5
  have h6 : Kept q n s6 := by
    refine Kept.foldl _ _ ?_ fun s x h => ?_
    · assumption
    · refine closeForRelease_kept _ _ ?_
      assumption
  clear_value s6
  refine Kept.foldl _ _ ?_ fun s x h => ?_
  · assumption
  · refine State.updSig_kept _ _ _ ?_
    assumption

theorem beginRelease_kept (s : State) (hs : Kept q n s) : Kept q n (beginRelease s) := by
  unfold beginRelease
  refine Kept.ite ?_ ?_
  · refine castFor_kept _ _ ?_
    assumption
  · refine startRelease_kept _ ?_
    assumption

theorem castOrOff_kept (s : State) (hs : Kept q n s) : Kept q n (castOrOff s) := by
  unfold castOrOff
  refine Kept.ite ?_ ?_
  · refine castFor_kept _ _ ?_
    assumption
  · refine Kept.ite ?_ ?_
    · refine powerDown_kept _ ?_
      assumption
    · assumption

theorem enterHold_kept (s : State) (hs : Kept q n s) : Kept q n (enterHold s) := by
  unfold enterHold
  extract_lets s1 s2 s3
  have h2 : Kept q n s2 := by
    refine endCalRest_kept _ ?_
    refine Kept.upd ?_ rfl rfl rfl rfl rfl rfl rfl rfl
    assumption
  clear_value s2
  have h3 : Kept q n s3 := by
    refine State.enter_kept _ _ ?_
    refine State.log_kept _ _ _ _ ?_
    refine State.raise_kept _ _ _ ?_
    assumption
  clear_value s3
  refine Kept.ite ?_ ?_
  · refine castOrOff_kept _ ?_
    assumption
  · assumption

theorem exitHold_kept (s : State) (hs : Kept q n s) : Kept q n (exitHold s) := by
  unfold exitHold
  extract_lets s1 s2 s3
  have h1 : Kept q n s1 := by
    refine State.enter_kept _ _ ?_
    refine State.log_kept _ _ _ _ ?_
    refine State.raise_kept _ _ _ ?_
    assumption
  clear_value s1
  have h2 : Kept q n s2 := by
    refine Kept.ite ?_ ?_
    · refine State.settle_kept _ _ _ ?_
      assumption
    · assumption
  clear_value s2
  refine Kept.ite ?_ ?_
  · refine beginRelease_kept _ ?_
    refine Kept.upd ?_ rfl rfl rfl rfl rfl rfl rfl rfl
    assumption
  · assumption

theorem noteHealthy_kept (s : State) (hs : Kept q n s) : Kept q n (noteHealthy s) := by
  unfold noteHealthy
  refine Kept.ite ?_ ?_
  · refine Kept.upd ?_ rfl rfl rfl rfl rfl rfl rfl rfl
    assumption
  · assumption

theorem evalHold_kept (s : State) (hs : Kept q n s) : Kept q n (evalHold s) := by
  unfold evalHold
  extract_lets s1 s2 s3
  have h3 : Kept q n s3 := by
    refine endCalRest_kept _ ?_
    refine Kept.upd ?_ rfl rfl rfl rfl rfl rfl rfl rfl
    assumption
  clear_value s3
  split
  · refine Kept.ite ?_ ?_
    · refine enterHold_kept _ ?_
      assumption
    · assumption
  · refine Kept.ite ?_ ?_
    · refine exitHold_kept _ ?_
      assumption
    · assumption
  · refine Kept.ite ?_ ?_
    · refine Kept.ite ?_ ?_
      · refine powerDown_kept _ ?_
        assumption
      · assumption
    · refine Kept.ite ?_ ?_
      · assumption
      · split
        · refine Kept.ite ?_ ?_
          · refine Kept.ite ?_ ?_
            · refine castOrOff_kept _ ?_
              assumption
            · assumption
          · assumption
        · refine Kept.ite ?_ ?_
          · refine Kept.upd ?_ rfl rfl rfl rfl rfl rfl rfl rfl
            assumption
          · assumption
  · refine Kept.ite ?_ ?_
    · refine Kept.ite ?_ ?_
      · refine castFor_kept _ _ ?_
        assumption
      · assumption
    · refine Kept.ite ?_ ?_
      · refine powerDown_kept _ ?_
        assumption
      · assumption
  · refine Kept.ite ?_ ?_
    · refine Kept.ite ?_ ?_
      · refine castFor_kept _ _ ?_
        assumption
      · assumption
    · refine Kept.ite ?_ ?_
      · refine powerDown_kept _ ?_
        assumption
      · assumption
  · refine Kept.ite ?_ ?_
    · refine Kept.ite ?_ ?_
      · refine castFor_kept _ _ ?_
        assumption
      · assumption
    · refine Kept.ite ?_ ?_
      · refine powerDown_kept _ ?_
        assumption
      · assumption
  · refine Kept.ite ?_ ?_
    · refine Kept.ite ?_ ?_
      · refine castFor_kept _ _ ?_
        assumption
      · assumption
    · refine Kept.ite ?_ ?_
      · refine powerDown_kept _ ?_
        assumption
      · assumption
  · refine Kept.ite ?_ ?_
    · refine Kept.ite ?_ ?_
      · refine castFor_kept _ _ ?_
        assumption
      · assumption
    · refine Kept.ite ?_ ?_
      · refine powerDown_kept _ ?_
        assumption
      · assumption
  · refine Kept.ite ?_ ?_
    · refine powerDown_kept _ ?_
      assumption
    · assumption
  · refine Kept.ite ?_ ?_
    · refine powerDown_kept _ ?_
      assumption
    · assumption
  · refine Kept.ite ?_ ?_
    · refine powerDown_kept _ ?_
      assumption
    · assumption
  · refine Kept.ite ?_ ?_
    · refine powerDown_kept _ ?_
      assumption
    · refine noteHealthy_kept _ ?_
      assumption
  · assumption
  · assumption

theorem doRideThroughExpired_kept (s : State) (hs : Kept q n s) : Kept q n (doRideThroughExpired s) := by
  unfold doRideThroughExpired
  extract_lets s1
  refine Kept.ite ?_ ?_
  · assumption
  · split
    · refine Kept.ite ?_ ?_
      · refine castOrOff_kept _ ?_
        assumption
      · assumption
    · refine Kept.ite ?_ ?_
      · refine castOrOff_kept _ ?_
        assumption
      · assumption
    · assumption

theorem State.updInput_kept (s : State) (b : Bool) (f : Input → Input) (hs : Kept q n s) : Kept q n (State.updInput s b f) := by
  unfold State.updInput
  refine Kept.ite ?_ ?_
  · refine Kept.upd ?_ rfl rfl rfl rfl rfl rfl rfl rfl
    assumption
  · refine Kept.upd ?_ rfl rfl rfl rfl rfl rfl rfl rfl
    assumption

theorem sampleInput_kept (b : Bool) (mv : ℕ) (s : State) (hs : Kept q n s) : Kept q n (sampleInput b mv s) := by
  unfold sampleInput
  refine State.put_kept _ _ _ _ ?_
  refine State.updInput_kept _ _ _ ?_
  assumption

theorem loseInput_kept (b : Bool) (s : State) (hs : Kept q n s) : Kept q n (loseInput b s) := by
  unfold loseInput
  extract_lets s1
  have h1 : Kept q n s1 := by
    refine State.updInput_kept _ _ _ ?_
    assumption
  clear_value s1
  refine State.log_kept _ _ _ _ ?_
  refine State.raise_kept _ _ _ ?_
  refine doGaugeWake_kept _ ?_
  assumption

theorem doInputLow_kept (b : Bool) (mv : ℕ) (s : State) (hs : Kept q n s) : Kept q n (doInputLow b mv s) := by
  unfold doInputLow
  refine Kept.ite ?_ ?_
  · extract_lets s1 s2
    have h2 : Kept q n s2 := by
      refine sampleInput_kept _ _ _ ?_
      assumption
    clear_value s2
    refine Kept.ite ?_ ?_
    · assumption
    · refine Kept.ite ?_ ?_
      · refine State.updInput_kept _ _ _ ?_
        assumption
      · refine Kept.ite ?_ ?_
        · refine evalHold_kept _ ?_
          refine loseInput_kept _ _ ?_
          assumption
        · assumption
  · assumption

theorem doInputHealthy_kept (b : Bool) (mv : ℕ) (s : State) (hs : Kept q n s) : Kept q n (doInputHealthy b mv s) := by
  unfold doInputHealthy
  extract_lets s1 s2 s3
  have h3 : Kept q n s3 := by
    refine Kept.upd ?_ rfl rfl rfl rfl rfl rfl rfl rfl
    assumption
  clear_value s3
  refine Kept.ite ?_ ?_
  · refine evalHold_kept _ ?_
    refine State.updInput_kept _ _ _ ?_
    refine sampleInput_kept _ _ _ ?_
    assumption
  · assumption

theorem ignorePf_kept (cause : ℕ) (s : State) (hs : Kept q n s) : Kept q n (ignorePf cause s) := by
  unfold ignorePf
  refine Kept.ite ?_ ?_
  · assumption
  · extract_lets s1 s2
    have h2 : Kept q n s2 := by
      refine State.putB_kept _ _ _ _ ?_
      refine Kept.upd ?_ rfl rfl rfl rfl rfl rfl rfl rfl
      assumption
    clear_value s2
    refine evalHold_kept _ ?_
    refine State.log_kept _ _ _ _ ?_
    refine State.raise_kept _ _ _ ?_
    refine State.put_kept _ _ _ _ ?_
    assumption

theorem pfEdge_kept (level : Bool) (s : State) (hs : Kept q n s) : Kept q n (pfEdge level s) := by
  unfold pfEdge
  extract_lets s1 s2 s3 s4
  have h3 : Kept q n s3 := by
    refine Kept.upd ?_ rfl rfl rfl rfl rfl rfl rfl rfl
    assumption
  clear_value s3
  have h4 : Kept q n s4 := by
    refine noteHealthy_kept _ ?_
    assumption
  clear_value s4
  refine Kept.ite ?_ ?_
  · refine ignorePf_kept _ _ ?_
    assumption
  · assumption

theorem doPwrfail_kept (level : Bool) (s : State) (hs : Kept q n s) : Kept q n (doPwrfail level s) := by
  unfold doPwrfail
  refine Kept.ite ?_ ?_
  · assumption
  · refine evalHold_kept _ ?_
    refine pfEdge_kept _ _ ?_
    assumption

theorem doPwrfailStuck_kept (s : State) (hs : Kept q n s) : Kept q n (doPwrfailStuck s) := by
  unfold doPwrfailStuck
  refine Kept.ite ?_ ?_
  · refine ignorePf_kept _ _ ?_
    assumption
  · assumption

theorem doPwrfailTrusted_kept (s : State) (hs : Kept q n s) : Kept q n (doPwrfailTrusted s) := by
  unfold doPwrfailTrusted
  refine Kept.ite ?_ ?_
  · refine State.put_kept _ _ _ _ ?_
    refine State.putB_kept _ _ _ _ ?_
    refine Kept.upd ?_ rfl rfl rfl rfl rfl rfl rfl rfl
    assumption
  · assumption

theorem drawCastKey_kept (s : State) (hs : Kept q n s) : Kept q n (drawCastKey s) := by
  unfold drawCastKey
  refine Kept.ite ?_ ?_
  · assumption
  · extract_lets s1 s2 s3
    have h1 : Kept q n s1.2 := by
      refine State.random_kept _ ?_
      assumption
    clear_value s1
    have h2 : Kept q n s2 := by
      unfold s2
      assumption
    clear_value s2
    refine Kept.upd ?_ rfl rfl rfl rfl rfl rfl rfl rfl
    assumption

theorem writeCast_kept (s : State) (hs : Kept q n s) : Kept q n (writeCast s) := by
  unfold writeCast
  extract_lets s1 s2 s3 s4 s5 s6 s7
  have h2 : Kept q n s2.2 := by
    refine State.draw_kept _ ?_
    assumption
  clear_value s2
  have h3 : Kept q n s3.2 := by
    refine State.draw_kept _ ?_
    assumption
  clear_value s3
  have h4 : Kept q n s4 := by
    unfold s4
    assumption
  clear_value s4
  have h6 : Kept q n s6 := by
    refine State.eachHalf_kept _ _ ?_
    assumption
  clear_value s6
  have h7 : Kept q n s7 := by
    refine showCast_kept _ ?_
    refine State.raise_kept _ _ _ ?_
    assumption
  clear_value s7
  refine State.log_kept _ _ _ _ ?_
  assumption

theorem tamperResponse_kept (s : State) (hs : Kept q n s) : Kept q n (tamperResponse s) := by
  unfold tamperResponse
  refine beginClear_kept _ ?_
  refine zeroize_kept _ ?_
  refine Kept.upd ?_ rfl rfl rfl rfl rfl rfl rfl rfl
  assumption

theorem enterCastDone_kept (s : State) (hs : Kept q n s) : Kept q n (enterCastDone s) := by
  unfold enterCastDone
  extract_lets s1 s2 s3
  have h1 : Kept q n s1 := by
    refine State.enter_kept _ _ ?_
    assumption
  clear_value s1
  have h2 : Kept q n s2 := by
    refine Kept.ite ?_ ?_
    · refine State.log_kept _ _ _ _ ?_
      refine State.raise_kept _ _ _ ?_
      assumption
    · assumption
  clear_value s2
  have h3 : Kept q n s3 := by
    refine Kept.ite ?_ ?_
    · refine tamperResponse_kept _ ?_
      assumption
    · assumption
  clear_value s3
  refine Kept.ite ?_ ?_
  · refine powerDown_kept _ ?_
    assumption
  · refine noteHealthy_kept _ ?_
    assumption

theorem doCastComplete_kept (s : State) (hs : Kept q n s) : Kept q n (doCastComplete s) := by
  unfold doCastComplete
  refine Kept.ite ?_ ?_
  · extract_lets s1 s2 s3 s4 s5 s6 s7
    have h2 : Kept q n s2 := by
      refine Kept.ite ?_ ?_
      · refine writeCast_kept _ ?_
        assumption
      · assumption
    clear_value s2
    have h3 : Kept q n s3 := by
      unfold s3
      clear_value s1
      split
      · refine consume_kept _ _ ?_
        assumption
      · assumption
    clear_value s3
    have h4 : Kept q n s4 := by
      refine drawCastKey_kept _ ?_
      assumption
    clear_value s4
    have h5 : Kept q n s5 := by
      refine writeCounters_kept _ ?_
      refine Kept.ite ?_ ?_
      · refine writeMap_kept _ ?_
        assumption
      · assumption
    clear_value s5
    have h6 : Kept q n s6 := by
      refine flushLog_kept _ ?_
      refine recordEvents_kept _ ?_
      assumption
    clear_value s6
    split
    · extract_lets s8
      have h8 : Kept q n s8 := by
        refine enterSafe_kept _ _ ?_
        assumption
      clear_value s8
      refine Kept.ite ?_ ?_
      · refine tamperResponse_kept _ ?_
        assumption
      · assumption
    · refine applyReset_kept _ _ ?_
      refine Kept.upd ?_ rfl rfl rfl rfl rfl rfl rfl rfl
      assumption
    · refine enterCastDone_kept _ ?_
      assumption
  · assumption

theorem enterAssemble_kept (s : State) (hs : Kept q n s) : Kept q n (enterAssemble s) := by
  unfold enterAssemble
  extract_lets s1 s2 s3 s4 s5
  have h1 : Kept q n s1 := by
    refine State.enter_kept _ _ ?_
    assumption
  clear_value s1
  have h3 : Kept q n s3 := by
    refine Kept.upd ?_ rfl rfl rfl rfl rfl rfl rfl rfl
    assumption
  clear_value s3
  have h5 : Kept q n s5 := by
    refine Kept.upd ?_ rfl rfl rfl rfl rfl rfl rfl rfl
    assumption
  clear_value s5
  refine Kept.foldl _ _ ?_ fun s x h => ?_
  · assumption
  · refine Kept.ite ?_ ?_
    · refine State.updDrv_kept _ _ _ ?_
      assumption
    · refine makeAbsent_kept _ _ ?_
      assumption

theorem markRestored_kept (gen : ℕ) (s : State) (hs : Kept q n s) : Kept q n (markRestored gen s) := by
  unfold markRestored
  refine Kept.upd ?_ rfl rfl rfl rfl rfl rfl rfl rfl
  assumption

theorem resumeSeals_kept (s : State) (hs : Kept q n s) : Kept q n (resumeSeals s) := by
  unfold resumeSeals
  refine Kept.upd ?_ rfl rfl rfl rfl rfl rfl rfl rfl
  assumption

theorem doResumeFromCase_kept (s : State) (hs : Kept q n s) : Kept q n (doResumeFromCase s) := by
  unfold doResumeFromCase
  extract_lets s1 s2 s3
  refine Kept.ite ?_ ?_
  · refine Kept.upd ?_ rfl rfl rfl rfl rfl rfl rfl rfl
    assumption
  · assumption

theorem recastDone_kept (gen : ℕ) (lost : ℕ) (s : State) (hs : Kept q n s) : Kept q n (recastDone gen lost s) := by
  unfold recastDone
  refine State.log_kept _ _ _ _ ?_
  refine State.raise_kept _ _ _ ?_
  assumption

theorem doSlotEraseComplete_kept (s : State) (hs : Kept q n s) : Kept q n (doSlotEraseComplete s) := by
  unfold doSlotEraseComplete
  refine Kept.ite ?_ hs
  have h1 := eraseOlder_kept s hs
  generalize eraseOlder s = s1 at h1 ⊢
  dsimp only
  refine Kept.ite ?_ ?_
  · exact enterAssemble_kept _ (resumeSeals_kept _ (recastDone_kept _ _ _ (Kept.upd (markRestored_kept _ _ (Kept.upd h1 rfl rfl rfl rfl rfl rfl rfl rfl)) rfl rfl rfl rfl rfl rfl rfl rfl)))
  · exact Kept.upd h1 rfl rfl rfl rfl rfl rfl rfl rfl

theorem restoreLine_kept (x : Line) (s : State) (hs : Kept q n s) : Kept q n (restoreLine x s) := by
  unfold restoreLine
  split
  · assumption
  · rename_i k s0 e0
    have h0 := chooseWay_kept _ _ hs _ _ e0
    split
    · assumption
    · rename_i fs s1 e1
      have h1 := takePair_kept _ h0 _ _ e1
      extract_lets sh s2 y
      have h2 : Kept q n s2 := by
        have hsh : ∀ a t, sh = some (a, t) → Kept q n t := by
          intro a t e
          unfold sh at e
          split at e
          · exact takePair_kept _ h1 _ _ e
          · cases e
        unfold s2
        clear_value sh
        split
        · exact hsh _ _ rfl
        · assumption
      clear_value s2
      exact Kept.upd h2 rfl rfl rfl rfl rfl rfl rfl rfl

theorem castLost_kept (gen : ℕ) (reason : ℕ) (s : State) (hs : Kept q n s) : Kept q n (castLost gen reason s) := by
  unfold castLost
  refine State.log_kept _ _ _ _ ?_
  refine State.raise_kept _ _ _ ?_
  refine Kept.upd ?_ rfl rfl rfl rfl rfl rfl rfl rfl
  assumption

theorem restoreBody_kept (gen : ℕ) (c : CastBody) (s : State) (hs : Kept q n s) : Kept q n (restoreBody gen c s) := by
  unfold restoreBody
  extract_lets s1 s2 s3 s4
  have h4 : Kept q n s4 := by
    refine Kept.upd ?_ rfl rfl rfl rfl rfl rfl rfl rfl
    assumption
  clear_value s4
  refine resumeSeals_kept _ ?_
  refine markRestored_kept _ _ ?_
  refine Kept.foldl _ _ ?_ fun s x h => ?_
  · assumption
  · refine restoreLine_kept _ _ ?_
    assumption

theorem doRecastComplete_kept (lost : List LostBody) (indexOk : Bool) (s : State) (hs : Kept q n s) : Kept q n (doRecastComplete lost indexOk s) := by
  unfold doRecastComplete
  split
  · extract_lets s1 s2 s3 s4 s5 s6 s7 s8
    have h2 : Kept q n s2 := by
      refine State.put_kept _ _ _ _ ?_
      refine State.put_kept _ _ _ _ ?_
      assumption
    clear_value s2
    have h5 : Kept q n s5 := by
      refine restoreBody_kept _ _ _ ?_
      assumption
    clear_value s5
    have h6 : Kept q n s6 := by
      refine Kept.foldl _ _ ?_ fun s x h => ?_
      · assumption
      · split
        · refine State.updSig_kept _ _ _ ?_
          assumption
        · assumption
    clear_value s6
    have h7 : Kept q n s7 := by
      refine Kept.ite ?_ ?_
      · refine castLost_kept _ _ _ ?_
        refine Kept.upd ?_ rfl rfl rfl rfl rfl rfl rfl rfl
        assumption
      · refine Kept.ite ?_ ?_
        · refine castLost_kept _ _ _ ?_
          refine Kept.upd ?_ rfl rfl rfl rfl rfl rfl rfl rfl
          assumption
        · refine Kept.foldl _ _ ?_ fun s x h => ?_
          · assumption
          · refine Kept.ite ?_ ?_
            · refine State.raise_kept _ _ _ ?_
              refine hbAdd_kept _ _ _ _ ?_
              assumption
            · assumption
    clear_value s7
    have h8 : Kept q n s8 := by
      refine enterAssemble_kept _ ?_
      refine recastDone_kept _ _ _ ?_
      assumption
    clear_value s8
    refine Kept.ite ?_ ?_
    · refine Kept.foldl _ _ ?_ fun s x h => ?_
      · assumption
      · refine Kept.ite ?_ ?_
        · refine hbAdd_kept _ _ _ _ ?_
          assumption
        · assumption
    · assumption
  · assumption

theorem doCastConsumed_kept (s : State) (hs : Kept q n s) : Kept q n (doCastConsumed s) := by
  unfold doCastConsumed
  split
  · assumption
  · extract_lets s1
    refine Kept.ite ?_ ?_
    · refine consume_kept _ _ ?_
      assumption
    · assumption

theorem doCastAbandon_kept (s : State) (hs : Kept q n s) : Kept q n (doCastAbandon s) := by
  unfold doCastAbandon
  extract_lets s1
  have h1 : Kept q n s1 := by
    refine State.pulse_kept _ _ _ ?_
    assumption
  clear_value s1
  split
  · refine Kept.ite ?_ ?_
    · refine consume_kept _ _ ?_
      refine castLost_kept _ _ _ ?_
      assumption
    · assumption
  · assumption

theorem doReleaseGo_kept (s : State) (hs : Kept q n s) : Kept q n (doReleaseGo s) := by
  unfold doReleaseGo
  extract_lets s1
  refine Kept.ite ?_ ?_
  · unfold s1
    refine State.raise_kept _ _ _ ?_
    refine State.pulse_kept _ _ _ ?_
    assumption
  · split
    · refine beginRelease_kept _ ?_
      refine State.pulse_kept _ _ _ ?_
      assumption
    · refine State.ask_kept _ _ _ ?_
      assumption
    · refine Kept.ite ?_ ?_
      · refine castFor_kept _ _ ?_
        refine State.pulse_kept _ _ _ ?_
        assumption
      · unfold s1
        refine State.raise_kept _ _ _ ?_
        refine State.pulse_kept _ _ _ ?_
        assumption
    · unfold s1
      refine State.raise_kept _ _ _ ?_
      refine State.pulse_kept _ _ _ ?_
      assumption

theorem doReleaseUpdatesRetired_kept (s : State) (hs : Kept q n s) : Kept q n (doReleaseUpdatesRetired s) := by
  unfold doReleaseUpdatesRetired
  refine Kept.ite ?_ ?_
  · extract_lets s1 s2
    refine Kept.foldl _ _ ?_ fun s x h => ?_
    · refine Kept.upd ?_ rfl rfl rfl rfl rfl rfl rfl rfl
      assumption
    · extract_lets s3
      have h3 : Kept q n s3 := by
        refine State.updSig_kept _ _ _ ?_
        assumption
      clear_value s3
      refine doBitmapCommit_kept _ _ ?_
      refine State.emit_kept _ _ ?_
      assumption
  · assumption

theorem doReleaseComplete_kept (s : State) (hs : Kept q n s) : Kept q n (doReleaseComplete s) := by
  unfold doReleaseComplete
  refine Kept.ite ?_ ?_
  · extract_lets s1 s2 s3 s4
    have h1 : Kept q n s1 := by
      refine closeAll_kept _ ?_
      refine refreshGsb_kept _ ?_
      refine flushLog_kept _ ?_
      refine recordEvents_kept _ ?_
      assumption
    clear_value s1
    have h4 : Kept q n s4 := by
      refine Kept.upd ?_ rfl rfl rfl rfl rfl rfl rfl rfl
      assumption
    clear_value s4
    refine Kept.ite ?_ ?_
    · refine State.enter_kept _ _ ?_
      refine feOff_kept _ ?_
      refine State.putB_kept _ _ _ _ ?_
      assumption
    · refine State.log_kept _ _ _ _ ?_
      refine State.raise_kept _ _ _ ?_
      assumption
  · assumption

/-- A cold reset of an unpowered module starts the impression counter. -/
theorem doColdReset_kept (i : Nat) (s : State) (hs : Kept q n s) :
    Kept q (if !s.core.powered ∨ s.core.mode = .powerQualify then 0 else n) (doColdReset i s) := by
  unfold doColdReset
  split
  · have hc : Canon coldRegs := Canon.coldRegs
    generalize coldRegs = r at hc ⊢
    dsimp only
    refine State.log_kept _ _ _ _ (State.put_kept _ _ _ _ (State.put_kept _ _ _ _ ?_))
    refine ⟨⟨hc, List.Pairwise.nil, Canon.nil, Canon.nil, Canon.nil, Canon.nil⟩, hs.queue, ?_⟩
    unfold coldCounters
    dsimp only
    split <;> rfl
  · exact hs

theorem doFountProbeTimeout_kept (s : State) (hs : Kept q n s) : Kept q n (doFountProbeTimeout s) := by
  unfold doFountProbeTimeout
  refine Kept.ite ?_ ?_
  · refine setPackLow_kept _ ?_
    refine Kept.upd ?_ rfl rfl rfl rfl rfl rfl rfl rfl
    assumption
  · assumption

theorem unfitPack_kept (s : State) (hs : Kept q n s) : Kept q n (unfitPack s) := by
  unfold unfitPack
  refine stepCharger_kept _ ?_
  refine setPackLow_kept _ ?_
  refine Kept.upd ?_ rfl rfl rfl rfl rfl rfl rfl rfl
  assumption

theorem checkPack_kept (s : State) (hs : Kept q n s) : Kept q n (checkPack s) := by
  unfold checkPack
  extract_lets s1 s2
  refine Kept.ite ?_ ?_
  · assumption
  · refine Kept.ite ?_ ?_
    · refine unfitPack_kept _ ?_
      assumption
    · refine Kept.ite ?_ ?_
      · refine Kept.upd ?_ rfl rfl rfl rfl rfl rfl rfl rfl
        assumption
      · assumption

theorem doPrechargeDone_kept (s : State) (hs : Kept q n s) : Kept q n (doPrechargeDone s) := by
  unfold doPrechargeDone
  refine Kept.ite ?_ ?_
  · refine stepCharger_kept _ ?_
    refine Kept.upd ?_ rfl rfl rfl rfl rfl rfl rfl rfl
    assumption
  · assumption

theorem doPrechargeTimeout_kept (s : State) (hs : Kept q n s) : Kept q n (doPrechargeTimeout s) := by
  unfold doPrechargeTimeout
  split
  · refine Kept.ite ?_ ?_
    · refine unfitPack_kept _ ?_
      assumption
    · assumption
  · assumption

theorem enterSelfTest_kept (s : State) (hs : Kept q n s) : Kept q n (enterSelfTest s) := by
  unfold enterSelfTest
  extract_lets s1 s2 s3 s4
  have h1 : Kept q n s1 := by
    refine State.enter_kept _ _ ?_
    assumption
  clear_value s1
  have h2 : Kept q n s2 := by
    refine Kept.ite ?_ ?_
    · refine State.raise_kept _ _ _ ?_
      assumption
    · assumption
  clear_value s2
  have h3 : Kept q n s3 := by
    refine writeCounters_kept _ ?_
    assumption
  clear_value s3
  refine Kept.upd ?_ rfl rfl rfl rfl rfl rfl rfl rfl
  assumption

theorem doPowerQualifyEnd_kept (packId : ℕ) (s : State) (hs : Kept q n s) : Kept q n (doPowerQualifyEnd packId s) := by
  unfold doPowerQualifyEnd
  refine Kept.ite ?_ ?_
  · extract_lets s1 s2 s3 s4
    have h3 : Kept q n s3 := by
      refine Kept.ite ?_ ?_
      · assumption
      · refine Kept.upd ?_ rfl rfl rfl rfl rfl rfl rfl rfl
        assumption
    clear_value s3
    have h4 : Kept q n s4 := by
      refine Kept.ite ?_ ?_
      · refine coldAnchor_kept _ _ _ ?_
        assumption
      · assumption
    clear_value s4
    refine enterSelfTest_kept _ ?_
    refine stepCharger_kept _ ?_
    refine checkPack_kept _ ?_
    assumption
  · assumption

theorem readMap_kept (s : State) (hs : Kept q n s) : Kept q n (readMap s) := by
  unfold readMap
  extract_lets s1 s2 s3 s4 s5 s6
  have h5 : Kept q n s5 := by
    refine Kept.upd ?_ rfl rfl rfl rfl rfl rfl rfl rfl
    assumption
  clear_value s5
  have h6 : Kept q n s6 := by
    refine Kept.foldl _ _ ?_ fun s x h => ?_
    · assumption
    · refine showChan_kept _ _ ?_
      refine State.setChan_kept _ _ _ ?_
      assumption
  clear_value s6
  refine Kept.ite ?_ ?_
  · assumption
  · refine State.log_kept _ _ _ _ ?_
    assumption

theorem decideCasts_kept (s : State) (hs : Kept q n s) : Kept q n (decideCasts s) := by
  unfold decideCasts
  refine Kept.ite ?_ ?_
  · refine showCast_kept _ ?_
    refine castLost_kept _ _ _ ?_
    assumption
  · refine showCast_kept _ ?_
    assumption

theorem showKeyRec_kept (s : State) (hs : Kept q n s) : Kept q n (showKeyRec s) := by
  unfold showKeyRec
  extract_lets s1
  refine State.put_kept _ _ _ _ ?_
  refine State.put_kept _ _ _ _ ?_
  refine State.putB_kept _ _ _ _ ?_
  assumption

theorem readKeyRec_kept (s : State) (hs : Kept q n s) : Kept q n (readKeyRec s) := by
  unfold readKeyRec
  extract_lets s1 s2 s3
  refine showKeyRec_kept _ ?_
  refine Kept.upd ?_ rfl rfl rfl rfl rfl rfl rfl rfl
  assumption

theorem doSelfTestEnd_kept (engines : List ℕ) (channels : List ℕ) (st0Ok : Bool) (st1Ok : Bool) (rngOk : Bool) (s : State) (hs : Kept q n s) : Kept q n (doSelfTestEnd engines channels st0Ok st1Ok rngOk s) := by
  unfold doSelfTestEnd
  refine Kept.ite ?_ ?_
  · extract_lets s1 s2 s3 s4 s5 s6 s7 s8 s9 s10
    have h3 : Kept q n s3 := by
      refine Kept.upd ?_ rfl rfl rfl rfl rfl rfl rfl rfl
      assumption
    clear_value s3
    have h4 : Kept q n s4 := by
      refine testEngines_kept _ _ ?_
      refine readEngineRecord_kept _ ?_
      assumption
    clear_value s4
    have h5 : Kept q n s5 := by
      refine readKeyRec_kept _ ?_
      refine State.put_kept _ _ _ _ ?_
      assumption
    clear_value s5
    have h6 : Kept q n s6 := by
      refine Kept.foldl _ _ ?_ fun s x h => ?_
      · assumption
      · refine Kept.ite ?_ ?_
        · refine leaveService_kept _ _ ?_
          assumption
        · assumption
    clear_value s6
    have h8 : Kept q n s8 := by
      refine Kept.upd ?_ rfl rfl rfl rfl rfl rfl rfl rfl
      assumption
    clear_value s8
    have h9 : Kept q n s9 := by
      refine decideCasts_kept _ ?_
      refine readMap_kept _ ?_
      refine State.enter_kept _ _ ?_
      assumption
    clear_value s9
    refine Kept.ite ?_ ?_
    · refine Kept.upd ?_ rfl rfl rfl rfl rfl rfl rfl rfl
      assumption
    · refine enterSafe_kept _ _ ?_
      assumption
  · assumption

theorem doCaseInitEnd_kept (channels : List ℕ) (s : State) (hs : Kept q n s) : Kept q n (doCaseInitEnd channels s) := by
  unfold doCaseInitEnd
  refine Kept.ite ?_ ?_
  · extract_lets s1 s2 s3 s4 s5 s6
    have h3 : Kept q n s3 := by
      refine Kept.upd ?_ rfl rfl rfl rfl rfl rfl rfl rfl
      assumption
    clear_value s3
    have h4 : Kept q n s4 := by
      refine Kept.foldl _ _ ?_ fun s x h => ?_
      · assumption
      · refine Kept.ite ?_ ?_
        · refine leaveService_kept _ _ ?_
          assumption
        · assumption
    clear_value s4
    have h6 : Kept q n s6 := by
      refine scanLog_kept _ ?_
      refine Kept.upd ?_ rfl rfl rfl rfl rfl rfl rfl rfl
      assumption
    clear_value s6
    refine Kept.ite ?_ ?_
    · refine enterSafe_kept _ _ ?_
      assumption
    · refine chooseCandidate_kept _ ?_
      refine State.enter_kept _ _ ?_
      assumption
  · assumption

theorem startReshape_kept (g : ℕ) (src : Imposition) (dst : Imposition) (z : ℕ) (found : List ℕ) (s : State) (hs : Kept q n s) : Kept q n (startReshape g src dst z found s) := by
  unfold startReshape
  extract_lets s1 s2 s3 s4 s5 s6
  have h2 : Kept q n s2 := by
    refine State.updSig_kept _ _ _ ?_
    assumption
  clear_value s2
  have h4 : Kept q n s4 := by
    refine writeAllLabels_kept _ _ _ _ _ ?_
    assumption
  clear_value s4
  have h5 : Kept q n s5 := by
    refine Kept.foldl _ _ ?_ fun s x h => ?_
    · assumption
    · refine State.updDrv_kept _ _ _ ?_
      assumption
  clear_value s5
  refine State.log_kept _ _ _ _ ?_
  refine sendCkpt_kept _ _ _ ?_
  refine storeCkpt_kept _ _ _ ?_
  assumption

theorem rehost_kept (old : List HostEnt) (new : List HostEnt) (s : State) (hs : Kept q n s) : Kept q n (rehost old new s) := by
  unfold rehost
  extract_lets s1 s2 s3
  have h3 : Kept q n s3 := by
    refine Kept.foldl _ _ ?_ fun s x h => ?_
    · assumption
    · refine closeConn_kept _ _ ?_
      assumption
  clear_value s3
  refine Kept.upd ?_ rfl rfl rfl rfl rfl rfl rfl rfl
  assumption

theorem noticeNs_kept (ns : List ℕ) (s : State) (hs : Kept q n s) : Kept q n (noticeNs ns s) := by
  unfold noticeNs
  refine Kept.ite ?_ ?_
  · assumption
  · extract_lets s1
    have h1 : Kept q n s1 := by
      refine notice_kept _ _ _ ?_
      assumption
    clear_value s1
    refine Kept.upd ?_ rfl rfl rfl rfl rfl rfl rfl rfl
    assumption

theorem applyPortEn_kept (m : Img) (s : State) (hs : Kept q n s) : Kept q n (applyPortEn m s) := by
  unfold applyPortEn
  refine Kept.foldl _ _ ?_ fun s x h => ?_
  · assumption
  · refine Kept.ite ?_ ?_
    · refine doPortEnable_kept _ _ ?_
      assumption
    · refine doPortDisable_kept _ _ ?_
      assumption

theorem placeSigs_kept (m : Img) (waiting : Bool) (s : State) (hs : Kept q n s) : Kept q n (placeSigs m waiting s) := by
  unfold placeSigs
  extract_lets s1
  refine Kept.upd ?_ rfl rfl rfl rfl rfl rfl rfl rfl
  assumption

theorem applyImage_kept (m : Img) (retained : NMap Imposition) (s : State) (hs : Kept q n s) : Kept q n (applyImage m retained s) := by
  unfold applyImage
  extract_lets s1 s2 s3 s4 s5 s6 s7 s8 s9 s10 s11 s12 s13 s14 s15 s16 s17 s18 s19 s20 s21
  have h8 : Kept q n s8 := by
    refine Kept.upd ?_ rfl rfl rfl rfl rfl rfl rfl rfl
    assumption
  clear_value s8
  have h9 : Kept q n s9 := by
    refine Kept.ite ?_ ?_
    · refine applyDeferred_kept _ _ ?_
      assumption
    · refine State.putB_kept _ _ _ _ ?_
      assumption
  clear_value s9
  have h10 : Kept q n s10 := by
    refine placeSigs_kept _ _ _ ?_
    refine applyNow_kept _ _ ?_
    assumption
  clear_value s10
  have h11 : Kept q n s11 := by
    refine Kept.foldl _ _ ?_ fun s x h => ?_
    · assumption
    · refine applyPar_kept _ _ _ _ ?_
      assumption
  clear_value s11
  have h12 : Kept q n s12 := by
    refine Kept.ite ?_ ?_
    · refine formPairs_kept _ _ ?_
      assumption
    · assumption
  clear_value s12
  have h13 : Kept q n s13 := by
    refine Kept.ite ?_ ?_
    · split
      · refine Kept.ite ?_ ?_
        · refine State.raise_kept _ _ _ ?_
          assumption
        · assumption
      · assumption
    · assumption
  clear_value s13
  have h14 : Kept q n s14 := by
    refine applyPortEn_kept _ _ ?_
    assumption
  clear_value s14
  have h15 : Kept q n s15 := by
    unfold s15
    clear_value s2
    split
    · refine Kept.ite ?_ ?_
      · assumption
      · refine noticeNs_kept _ _ ?_
        refine rehost_kept _ _ _ ?_
        assumption
    · assumption
  clear_value s15
  have h16 : Kept q n s16 := by
    refine Kept.ite ?_ ?_
    · refine Kept.foldl _ _ ?_ fun s x h => ?_
      · assumption
      · split
        · refine State.updSig_kept _ _ _ ?_
          assumption
        · assumption
    · refine Kept.foldl _ _ ?_ fun s x h => ?_
      · assumption
      · split
        · refine startReshape_kept _ _ _ _ _ _ ?_
          assumption
        · assumption
  clear_value s16
  have h17 : Kept q n s17 := by
    refine State.put_kept _ _ _ _ ?_
    refine State.put_kept _ _ _ _ ?_
    assumption
  clear_value s17
  have h18 : Kept q n s18 := by
    refine State.raise_kept _ _ _ ?_
    refine putHash_kept _ _ _ ?_
    refine State.bump_kept _ _ _ _ ?_
    assumption
  clear_value s18
  have h19 : Kept q n s19 := by
    refine State.log_kept _ _ _ _ ?_
    assumption
  clear_value s19
  have h21 : Kept q n s21 := by
    refine Kept.ite ?_ ?_
    · refine Kept.upd ?_ rfl rfl rfl rfl rfl rfl rfl rfl
      assumption
    · assumption
  clear_value s21
  refine stepCharger_kept _ ?_
  refine endRequest_kept _ ?_
  assumption

theorem repairCopies_kept (c : ImgCopy) (s : State) (hs : Kept q n s) : Kept q n (repairCopies c s) := by
  unfold repairCopies
  extract_lets s1 s2
  have h2 : Kept q n s2 := by
    refine State.eachHalf_kept _ _ ?_
    assumption
  clear_value s2
  refine Kept.ite ?_ ?_
  · refine State.raise_kept _ _ _ ?_
    refine State.putB_kept _ _ _ _ ?_
    refine State.putB_kept _ _ _ _ ?_
    assumption
  · assumption

theorem doImageJudgeComplete_kept (s : State) (hs : Kept q n s) : Kept q n (doImageJudgeComplete s) := by
  unfold doImageJudgeComplete
  refine Kept.ite ?_ ?_
  · assumption
  · split
    · assumption
    · split
      · extract_lets s1
        have h1 : Kept q n s1 := by
          refine putHash_kept _ _ _ ?_
          assumption
        clear_value s1
        refine Kept.ite ?_ ?_
        · refine refuseImage_kept _ _ _ ?_
          refine endRequest_kept _ ?_
          assumption
        · refine Kept.ite ?_ ?_
          · refine refuseImage_kept _ _ _ ?_
            refine endRequest_kept _ ?_
            assumption
          · refine applyImage_kept _ _ _ ?_
            refine repairCopies_kept _ _ ?_
            refine State.put_kept _ _ _ _ ?_
            assumption
      · refine endRequest_kept _ ?_
        assumption
    · extract_lets s2 s3 s4 s5
      have h4 : Kept q n s4 := by
        refine putHash_kept _ _ _ ?_
        assumption
      clear_value s4
      split
      · refine refuseImage_kept _ _ _ ?_
        refine endRequest_kept _ ?_
        assumption
      · refine Kept.ite ?_ ?_
        · refine State.raise_kept _ _ _ ?_
          refine endRequest_kept _ ?_
          assumption
        · refine State.put_kept _ _ _ _ ?_
          refine Kept.upd ?_ rfl rfl rfl rfl rfl rfl rfl rfl
          assumption

theorem doImageStoreComplete_kept (s : State) (hs : Kept q n s) : Kept q n (doImageStoreComplete s) := by
  unfold doImageStoreComplete
  split
  · assumption
  · extract_lets s1 s2 s3 s4 s5
    refine applyImage_kept _ _ _ ?_
    refine State.put_kept _ _ _ _ ?_
    refine storeImage_kept _ _ _ ?_
    assumption

theorem doKeyWaitExit_kept (s : State) (hs : Kept q n s) : Kept q n (doKeyWaitExit s) := by
  unfold doKeyWaitExit
  refine Kept.ite ?_ ?_
  · extract_lets s1
    have h1 : Kept q n s1 := by
      refine drawCastKey_kept _ ?_
      assumption
    clear_value s1
    refine Kept.ite ?_ ?_
    · refine State.enter_kept _ _ ?_
      refine State.put_kept _ _ _ _ ?_
      assumption
    · refine enterAssemble_kept _ ?_
      assumption
  · assumption

theorem requestReset_kept (k : ResetKind) (s : State) (hs : Kept q n s) : Kept q n (requestReset k s) := by
  unfold requestReset
  extract_lets s1 s2 s3 s4
  refine Kept.ite ?_ ?_
  · assumption
  · refine Kept.ite ?_ ?_
    · refine Kept.upd ?_ rfl rfl rfl rfl rfl rfl rfl rfl
      assumption
    · refine Kept.ite ?_ ?_
      · refine settleCore_kept _ ?_
        refine Kept.upd ?_ rfl rfl rfl rfl rfl rfl rfl rfl
        assumption
      · refine applyReset_kept _ _ ?_
        assumption

theorem doResetNAsserted_kept (s : State) (hs : Kept q n s) : Kept q n (doResetNAsserted s) := by
  unfold doResetNAsserted
  refine Kept.ite ?_ ?_
  · assumption
  · refine requestReset_kept _ _ ?_
    refine Kept.upd ?_ rfl rfl rfl rfl rfl rfl rfl rfl
    assumption

theorem doResetNReleased_kept (s : State) (hs : Kept q n s) : Kept q n (doResetNReleased s) := by
  unfold doResetNReleased
  refine Kept.ite ?_ ?_
  · extract_lets s1 s2 s3
    have h2 : Kept q n s2 := by
      refine Kept.upd ?_ rfl rfl rfl rfl rfl rfl rfl rfl
      assumption
    clear_value s2
    refine Kept.ite ?_ ?_
    · refine State.log_kept _ _ _ _ ?_
      refine Kept.upd ?_ rfl rfl rfl rfl rfl rfl rfl rfl
      assumption
    · assumption
  · assumption

theorem doResetCmd_kept (v : ℕ) (s : State) (hs : Kept q n s) : Kept q n (doResetCmd v s) := by
  unfold doResetCmd
  refine Kept.ite ?_ ?_
  · refine State.raise_kept _ _ _ ?_
    assumption
  · refine Kept.ite ?_ ?_
    · assumption
    · refine requestReset_kept _ _ ?_
      assumption

theorem doMaintGo_kept (s : State) (hs : Kept q n s) : Kept q n (doMaintGo s) := by
  unfold doMaintGo
  extract_lets s1
  have h1 : Kept q n s1 := by
    refine State.pulse_kept _ _ _ ?_
    assumption
  clear_value s1
  split
  · refine State.enter_kept _ _ ?_
    assumption
  · refine Kept.ite ?_ ?_
    · refine State.raise_kept _ _ _ ?_
      assumption
    · refine startRelease_kept _ ?_
      refine State.putB_kept _ _ _ _ ?_
      assumption
  · refine State.raise_kept _ _ _ ?_
    assumption

theorem doMaintExit_kept (s : State) (hs : Kept q n s) : Kept q n (doMaintExit s) := by
  unfold doMaintExit
  extract_lets s1
  have h1 : Kept q n s1 := by
    refine State.pulse_kept _ _ _ ?_
    assumption
  clear_value s1
  refine Kept.ite ?_ ?_
  · refine requestReset_kept _ _ ?_
    refine endEccTest_kept _ ?_
    assumption
  · refine State.raise_kept _ _ _ ?_
    assumption

end Sys2Proof.Machine
end

