-- ==== Sys2Proof/Laws/KeptHost.lean ====
section
/-!
SUPPORT. What every operation keeps (Laws/Kept.lean): assembly, security, inputs, the host interface, and the boundary.
-/

namespace Sys2Proof.Machine

variable {q : List Instr} {n : Nat}

theorem State.setBit_kept (s : State) (F : FieldSpec) (g : ℕ) (v : Bool) (hs : Kept q n s) : Kept q n (State.setBit s F g v) := by
  unfold State.setBit
  refine Kept.ite ?_ ?_
  · refine Kept.ite ?_ ?_
    · assumption
    · refine State.put_kept _ _ _ _ ?_
      assumption
  · refine Kept.ite ?_ ?_
    · refine State.put_kept _ _ _ _ ?_
      assumption
    · assumption

theorem writeKeyRec_kept (r : KeyRec) (s : State) (hs : Kept q n s) : Kept q n (writeKeyRec r s) := by
  unfold writeKeyRec
  extract_lets s1 s2 s3
  have h2 : Kept q n s2 := by
    refine State.eachHalf_kept _ _ ?_
    assumption
  clear_value s2
  refine showKeyRec_kept _ ?_
  refine Kept.upd ?_ rfl rfl rfl rfl rfl rfl rfl rfl
  assumption

theorem createKey_kept (g : ℕ) (s : State) (hs : Kept q n s) : Kept q n (createKey g s) := by
  unfold createKey
  extract_lets s1 s2 s3 s4
  have h2 : Kept q n s2.2 := by
    refine State.random_kept _ ?_
    assumption
  clear_value s2
  have h3 : Kept q n s3.2 := by
    refine State.random_kept _ ?_
    assumption
  clear_value s3
  split
  · refine Kept.ite ?_ ?_
    · assumption
    · extract_lets s5 s6
      have h5 : Kept q n s5 := by
        refine writeKeyRec_kept _ _ ?_
        assumption
      clear_value s5
      refine State.raise_kept _ _ _ ?_
      refine State.setBit_kept _ _ _ _ ?_
      refine Kept.upd ?_ rfl rfl rfl rfl rfl rfl rfl rfl
      assumption
  · assumption

theorem markKey_kept (g : ℕ) (s : State) (hs : Kept q n s) : Kept q n (markKey g s) := by
  unfold markKey
  refine State.setBit_kept _ _ _ _ ?_
  assumption

theorem loseZones_kept (ks : List ℕ) (s : State) (hs : Kept q n s) : Kept q n (loseZones ks s) := by
  unfold loseZones
  refine Kept.ite ?_ ?_
  · assumption
  · refine State.log_kept _ _ _ _ ?_
    refine State.raise_kept _ _ _ ?_
    refine Kept.foldl _ _ ?_ fun s x h => ?_
    · assumption
    · refine zoneChanged_kept _ _ ?_
      refine State.updZone_kept _ _ _ ?_
      assumption

theorem setAside_kept (g : ℕ) (s : State) (hs : Kept q n s) : Kept q n (setAside g s) := by
  unfold setAside
  extract_lets s1 s2 s3 s4 s5
  have h2 : Kept q n s2 := by
    refine hbAdd_kept _ _ _ _ ?_
    assumption
  clear_value s2
  have h4 : Kept q n s4 := by
    refine Kept.upd ?_ rfl rfl rfl rfl rfl rfl rfl rfl
    assumption
  clear_value s4
  have h5 : Kept q n s5 := by
    refine loseZones_kept _ _ ?_
    assumption
  clear_value s5
  refine State.log_kept _ _ _ _ ?_
  refine State.raise_kept _ _ _ ?_
  assumption

theorem rejoin_kept (g : ℕ) (s : State) (hs : Kept q n s) : Kept q n (rejoin g s) := by
  unfold rejoin
  refine Kept.foldl _ _ ?_ fun s x h => ?_
  · assumption
  · extract_lets s1 s2 s3 s4
    have h4 : Kept q n s4 := by
      refine updEntsOf_kept _ _ _ _ ?_
      assumption
    clear_value s4
    refine Kept.ite ?_ ?_
    · refine Kept.ite ?_ ?_
      · refine reuse_kept _ _ ?_
        refine replacementFails_kept _ _ _ ?_
        assumption
      · assumption
    · refine Kept.ite ?_ ?_
      · refine setMem_kept _ _ _ _ ?_
        assumption
      · refine Kept.ite ?_ ?_
        · refine setMem_kept _ _ _ _ ?_
          assumption
        · refine makeAbsent_kept _ _ ?_
          assumption

theorem replay_kept (g : ℕ) (s : State) (hs : Kept q n s) : Kept q n (replay g s) := by
  unfold replay
  extract_lets s1 s2
  have h2 : Kept q n s2 := by
    refine Kept.foldl _ _ ?_ fun s x h => ?_
    · assumption
    · refine Kept.ite ?_ ?_
      · refine winWrite_kept _ _ ?_
        assumption
      · refine readyUpd_kept _ _ ?_
        assumption
  clear_value s2
  refine State.log_kept _ _ _ _ ?_
  assumption

theorem restoreSig_kept (g : ℕ) (x : AsmFound) (s : State) (hs : Kept q n s) : Kept q n (restoreSig g x s) := by
  unfold restoreSig
  extract_lets s1 s2 s3 s4 s5 s6 s7 s8 s9 s10 s11 s12 s13
  have h1 : Kept q n s1 := by
    unfold s1
    split
    · refine State.updSig_kept _ _ _ ?_
      assumption
    · assumption
  clear_value s1
  have h3 : Kept q n s3 := by
    refine State.updSig_kept _ _ _ ?_
    assumption
  clear_value s3
  have h4 : Kept q n s4 := by
    refine State.updSig_kept _ _ _ ?_
    assumption
  clear_value s4
  have h5 : Kept q n s5 := by
    refine Kept.ite ?_ ?_
    · refine setAside_kept _ _ ?_
      assumption
    · assumption
  clear_value s5
  have h7 : Kept q n s7 := by
    refine State.updSig_kept _ _ _ ?_
    assumption
  clear_value s7
  have h8 : Kept q n s8 := by
    refine rejoin_kept _ _ ?_
    assumption
  clear_value s8
  have h9 : Kept q n s9 := by
    refine Kept.ite ?_ ?_
    · refine Kept.foldl _ _ ?_ fun s x h => ?_
      · refine State.raise_kept _ _ _ ?_
        assumption
      · refine declareNow_kept _ _ _ _ ?_
        assumption
    · assumption
  clear_value s9
  have h10 : Kept q n s10 := by
    refine Kept.ite ?_ ?_
    · refine State.raise_kept _ _ _ ?_
      assumption
    · assumption
  clear_value s10
  have h13 : Kept q n s13 := by
    refine State.updSig_kept _ _ _ ?_
    assumption
  clear_value s13
  refine Kept.ite ?_ ?_
  · refine replay_kept _ _ ?_
    refine rejoin_kept _ _ ?_
    assumption
  · refine Kept.ite ?_ ?_
    · assumption
    · refine State.log_kept _ _ _ _ ?_
      assumption

theorem restoreZones_kept (g : ℕ) (x : AsmFound) (s : State) (hs : Kept q n s) : Kept q n (restoreZones g x s) := by
  unfold restoreZones
  extract_lets s1 s2 s3
  have h2 : Kept q n s2 := by
    refine Kept.foldl _ _ ?_ fun s x h => ?_
    · assumption
    · refine State.setZone_kept _ _ _ ?_
      assumption
  clear_value s2
  refine Kept.ite ?_ ?_
  · refine loseZones_kept _ _ ?_
    assumption
  · refine Kept.foldl _ _ ?_ fun s x h => ?_
    · assumption
    · refine State.updZone_kept _ _ _ ?_
      assumption

theorem remakeWindow_kept (g : ℕ) (lo : ℕ) (hi : ℕ) (blocks : NMap RdVal) (s : State) (hs : Kept q n s) : Kept q n (remakeWindow g lo hi blocks s) := by
  unfold remakeWindow
  extract_lets s1 s2 s3 s4
  have h1 : Kept q n s1 := by
    refine updRs_kept _ _ _ ?_
    assumption
  clear_value s1
  have h4 : Kept q n s4 := by
    refine Kept.foldl _ _ ?_ fun s x h => ?_
    · assumption
    · refine startUpd_kept _ _ ?_
      assumption
  clear_value s4
  refine Kept.upd ?_ rfl rfl rfl rfl rfl rfl rfl rfl
  assumption

theorem recoverWindow_kept (g : ℕ) (lo : ℕ) (hi : ℕ) (torn : List TornBlk) (s : State) (hs : Kept q n s) : Kept q n (recoverWindow g lo hi torn s) := by
  unfold recoverWindow
  split
  · extract_lets s1 s2 s3 s4
    have h3 : Kept q n s3 := by
      refine Kept.ite ?_ ?_
      · assumption
      · refine hbAdd_kept _ _ _ _ ?_
        assumption
    clear_value s3
    have h4 : Kept q n s4 := by
      refine remakeWindow_kept _ _ _ _ _ ?_
      assumption
    clear_value s4
    refine State.log_kept _ _ _ _ ?_
    refine State.raise_kept _ _ _ ?_
    assumption
  · assumption

theorem resumeWindow_kept (g : ℕ) (w : CopyWin) (s : State) (hs : Kept q n s) : Kept q n (resumeWindow g w s) := by
  unfold resumeWindow
  refine Kept.ite ?_ ?_
  · refine updWin_kept _ _ _ ?_
    assumption
  · refine Kept.ite ?_ ?_
    · refine remakeWindow_kept _ _ _ _ _ ?_
      assumption
    · assumption

theorem resumeReshape_kept (g : ℕ) (x : AsmFound) (s : State) (hs : Kept q n s) : Kept q n (resumeReshape g x s) := by
  unfold resumeReshape
  split
  · extract_lets s1 s2 s3 s4 s5
    have h5 : Kept q n s5 := by
      refine Kept.ite ?_ ?_
      · refine sendCkpt_kept _ _ _ ?_
        refine storeCkpt_kept _ _ _ ?_
        assumption
      · assumption
    clear_value s5
    refine Kept.ite ?_ ?_
    · unfold s2
      refine State.log_kept _ _ _ _ ?_
      refine State.raise_kept _ _ _ ?_
      split
      · refine resumeWindow_kept _ _ _ ?_
        assumption
      · assumption
    · clear_value s1
      split
      · refine startReshape_kept _ _ _ _ _ _ ?_
        assumption
      · extract_lets s6 s7 s8
        have h7 : Kept q n s7 := by
          unfold s7
          unfold s2
          refine State.log_kept _ _ _ _ ?_
          refine State.raise_kept _ _ _ ?_
          refine State.updSig_kept _ _ _ ?_
          assumption
        clear_value s7
        refine Kept.ite ?_ ?_
        · refine finishReshape_kept _ _ _ ?_
          assumption
        · refine Kept.ite ?_ ?_
          · refine recoverWindow_kept _ _ _ _ _ ?_
            assumption
          · assumption
  · assumption

theorem freshenBmps_kept (g : ℕ) (x : AsmFound) (s : State) (hs : Kept q n s) : Kept q n (freshenBmps g x s) := by
  unfold freshenBmps
  extract_lets s1 s2 s3 s4 s5 s6 s7
  have h6 : Kept q n s6 := by
    refine State.eachHalf_kept _ _ ?_
    assumption
  clear_value s6
  have h7 : Kept q n s7 := by
    refine Kept.ite ?_ ?_
    · refine Kept.foldl _ _ ?_ fun s x h => ?_
      · assumption
      · refine State.emit_kept _ _ ?_
        assumption
    · assumption
  clear_value s7
  refine Kept.ite ?_ ?_
  · assumption
  · refine Kept.ite ?_ ?_
    · assumption
    · refine State.raise_kept _ _ _ ?_
      assumption

theorem enterService_kept (g : ℕ) (x : AsmFound) (s : State) (hs : Kept q n s) : Kept q n (enterService g x s) := by
  unfold enterService
  extract_lets s1 s2 s3 s4 s5 s6 s7 s8
  have h1 : Kept q n s1 := by
    refine resumeReshape_kept _ _ _ ?_
    refine restoreZones_kept _ _ _ ?_
    assumption
  clear_value s1
  have h2 : Kept q n s2 := by
    refine Kept.foldl _ _ ?_ fun s x h => ?_
    · assumption
    · refine updReads_kept _ _ _ _ _ ?_
      assumption
  clear_value s2
  have h4 : Kept q n s4 := by
    refine State.updKeep_kept _ _ _ ?_
    assumption
  clear_value s4
  have h5 : Kept q n s5 := by
    refine State.updSig_kept _ _ _ ?_
    assumption
  clear_value s5
  have h6 : Kept q n s6 := by
    refine State.updSig_kept _ _ _ ?_
    assumption
  clear_value s6
  have h7 : Kept q n s7 := by
    refine freshenBmps_kept _ _ _ ?_
    assumption
  clear_value s7
  have h8 : Kept q n s8 := by
    refine State.setBit_kept _ _ _ _ ?_
    refine State.setBit_kept _ _ _ _ ?_
    assumption
  clear_value s8
  refine Kept.foldl _ _ ?_ fun s x h => ?_
  · assumption
  · refine Kept.ite ?_ ?_
    · refine handOver_kept _ _ ?_
      assumption
    · assumption

theorem doSignatureEnterService_kept (g : ℕ) (x : AsmFound) (s : State) (hs : Kept q n s) : Kept q n (doSignatureEnterService g x s) := by
  unfold doSignatureEnterService
  extract_lets s1
  have h1 : Kept q n s1 := by
    refine Kept.ite ?_ ?_
    · assumption
    · refine Kept.ite ?_ ?_
      · refine restoreSig_kept _ _ _ ?_
        refine markKey_kept _ _ ?_
        assumption
      · assumption
  clear_value s1
  refine Kept.ite ?_ ?_
  · refine enterService_kept _ _ _ ?_
    assumption
  · assumption

theorem sizeNew_kept (g : ℕ) (i : Imposition) (s : State) (hs : Kept q n s) : Kept q n (sizeNew g i s) := by
  unfold sizeNew
  extract_lets s1
  refine State.updSig_kept _ _ _ ?_
  assumption

theorem finishNew_kept (g : ℕ) (i : Imposition) (s : State) (hs : Kept q n s) : Kept q n (finishNew g i s) := by
  unfold finishNew
  extract_lets s1 s2 s3 s4 s5 s6 s7
  have h1 : Kept q n s1 := by
    refine writeAllLabels_kept _ _ _ _ _ ?_
    refine sizeNew_kept _ _ _ ?_
    refine State.updSig_kept _ _ _ ?_
    assumption
  clear_value s1
  have h2 : Kept q n s2 := by
    refine Kept.foldl _ _ ?_ fun s x h => ?_
    · assumption
    · extract_lets s8 s9
      have h9 : Kept q n s9 := by
        refine State.updDrv_kept _ _ _ ?_
        assumption
      clear_value s9
      refine setMem_kept _ _ _ _ ?_
      assumption
  clear_value s2
  have h5 : Kept q n s5 := by
    refine State.updSig_kept _ _ _ ?_
    assumption
  clear_value s5
  have h6 : Kept q n s6 := by
    refine State.eachHalf_kept _ _ ?_
    assumption
  clear_value s6
  have h7 : Kept q n s7 := by
    refine Kept.foldl _ _ ?_ fun s x h => ?_
    · assumption
    · refine State.emit_kept _ _ ?_
      assumption
  clear_value s7
  refine markKey_kept _ _ ?_
  refine createKey_kept _ _ ?_
  assumption

theorem doSignatureCreate_kept (g : ℕ) (s : State) (hs : Kept q n s) : Kept q n (doSignatureCreate g s) := by
  unfold doSignatureCreate
  extract_lets s1
  split
  · assumption
  · refine Kept.ite ?_ ?_
    · assumption
    · refine Kept.ite ?_ ?_
      · refine Kept.ite ?_ ?_
        · refine finishNew_kept _ _ _ ?_
          assumption
        · assumption
      · refine Kept.ite ?_ ?_
        · refine Kept.ite ?_ ?_
          · extract_lets s2
            have h2 : Kept q n s2 := by
              refine State.updSig_kept _ _ _ ?_
              refine sizeNew_kept _ _ _ ?_
              assumption
            clear_value s2
            refine Kept.foldl _ _ ?_ fun s x h => ?_
            · assumption
            · refine Kept.ite ?_ ?_
              · refine beginFormat_kept _ _ _ _ _ ?_
                assumption
              · assumption
          · refine Kept.ite ?_ ?_
            · assumption
            · refine State.raise_kept _ _ _ ?_
              refine State.setBit_kept _ _ _ _ ?_
              refine State.updSig_kept _ _ _ ?_
              assumption
        · assumption

theorem doAsmWaitExpired_kept (s : State) (hs : Kept q n s) : Kept q n (doAsmWaitExpired s) := by
  unfold doAsmWaitExpired
  split
  · refine Kept.ite ?_ ?_
    · refine Kept.upd ?_ rfl rfl rfl rfl rfl rfl rfl rfl
      assumption
    · assumption
  · assumption

theorem doAsmDone_kept (s : State) (hs : Kept q n s) : Kept q n (doAsmDone s) := by
  unfold doAsmDone
  extract_lets s1 s2
  have h1 : Kept q n s1 := by
    refine State.pulse_kept _ _ _ ?_
    assumption
  clear_value s1
  refine Kept.ite ?_ ?_
  · refine Kept.upd ?_ rfl rfl rfl rfl rfl rfl rfl rfl
    assumption
  · assumption

theorem forceSig_kept (g : ℕ) (s : State) (hs : Kept q n s) : Kept q n (forceSig g s) := by
  unfold forceSig
  refine Kept.ite ?_ ?_
  · assumption
  · refine State.raise_kept _ _ _ ?_
    refine Kept.upd ?_ rfl rfl rfl rfl rfl rfl rfl rfl
    assumption

theorem doAsmForce_kept (mask : ℕ) (s : State) (hs : Kept q n s) : Kept q n (doAsmForce mask s) := by
  unfold doAsmForce
  extract_lets s1
  have h1 : Kept q n s1 := by
    refine State.settle_kept _ _ _ ?_
    refine State.put_kept _ _ _ _ ?_
    assumption
  clear_value s1
  refine Kept.foldl _ _ ?_ fun s x h => ?_
  · assumption
  · refine forceSig_kept _ _ ?_
    assumption

theorem holdOut_kept (g : ℕ) (s : State) (hs : Kept q n s) : Kept q n (holdOut g s) := by
  unfold holdOut
  extract_lets s1
  have h1 : Kept q n s1 := by
    refine markKey_kept _ _ ?_
    refine State.raise_kept _ _ _ ?_
    refine State.setBit_kept _ _ _ _ ?_
    refine State.updSig_kept _ _ _ ?_
    assumption
  clear_value s1
  refine Kept.ite ?_ ?_
  · refine State.log_kept _ _ _ _ ?_
    assumption
  · assumption

theorem doAssembleEnd_kept (s : State) (hs : Kept q n s) : Kept q n (doAssembleEnd s) := by
  unfold doAssembleEnd
  extract_lets s1 s2
  have h2 : Kept q n s2 := by
    refine Kept.foldl _ _ ?_ fun s x h => ?_
    · assumption
    · refine holdOut_kept _ _ ?_
      assumption
  clear_value s2
  refine Kept.ite ?_ ?_
  · refine State.raise_kept _ _ _ ?_
    refine State.enter_kept _ _ ?_
    assumption
  · assumption

theorem zeroWords_kept (F : FieldSpec) (s : State) (hs : Kept q n s) : Kept q n (zeroWords F s) := by
  unfold zeroWords
  refine Kept.foldl _ _ ?_ fun s x h => ?_
  · assumption
  · refine State.put_kept _ _ _ _ ?_
    assumption

theorem refuseKek_kept (s : State) (hs : Kept q n s) : Kept q n (refuseKek s) := by
  unfold refuseKek
  refine State.log_kept _ _ _ _ ?_
  refine zeroWords_kept _ _ ?_
  refine State.raise_kept _ _ _ ?_
  assumption

theorem acceptKek_kept (kek : ℕ) (check : ℕ) (keys : NMap ℕ) (s : State) (hs : Kept q n s) : Kept q n (acceptKek kek check keys s) := by
  unfold acceptKek
  extract_lets s1 s2 s3
  have h2 : Kept q n s2 := by
    refine Kept.upd ?_ rfl rfl rfl rfl rfl rfl rfl rfl
    assumption
  clear_value s2
  have h3 : Kept q n s3 := by
    refine Kept.foldl _ _ ?_ fun s x h => ?_
    · assumption
    · refine State.setBit_kept _ _ _ _ ?_
      assumption
  clear_value s3
  refine State.log_kept _ _ _ _ ?_
  refine State.raise_kept _ _ _ ?_
  refine State.putB_kept _ _ _ _ ?_
  assumption

theorem doKekLoad_kept (s : State) (hs : Kept q n s) : Kept q n (doKekLoad s) := by
  unfold doKekLoad
  extract_lets s1 s2 s3 s4
  have h1 : Kept q n s1 := by
    refine State.pulse_kept _ _ _ ?_
    assumption
  clear_value s1
  have h3 : Kept q n s3.2 := by
    refine State.random_kept _ ?_
    assumption
  clear_value s3
  refine Kept.ite ?_ ?_
  · refine zeroWords_kept _ _ ?_
    assumption
  · refine Kept.ite ?_ ?_
    · refine refuseKek_kept _ ?_
      assumption
    · split
      · refine Kept.ite ?_ ?_
        · refine acceptKek_kept _ _ _ _ ?_
          assumption
        · refine acceptKek_kept _ _ _ _ ?_
          refine writeKeyRec_kept _ _ ?_
          assumption
      · split
        · refine refuseKek_kept _ ?_
          assumption
        · refine Kept.ite ?_ ?_
          · refine refuseKek_kept _ ?_
            assumption
          · refine acceptKek_kept _ _ _ _ ?_
            refine Kept.ite ?_ ?_
            · refine writeKeyRec_kept _ _ ?_
              assumption
            · assumption

theorem doKrecImport_kept (s : State) (hs : Kept q n s) : Kept q n (doKrecImport s) := by
  unfold doKrecImport
  extract_lets s1 s2
  have h1 : Kept q n s1 := by
    refine State.pulse_kept _ _ _ ?_
    assumption
  clear_value s1
  split
  · refine Kept.ite ?_ ?_
    · refine Kept.upd ?_ rfl rfl rfl rfl rfl rfl rfl rfl
      assumption
    · refine State.raise_kept _ _ _ ?_
      assumption
  · refine State.raise_kept _ _ _ ?_
    assumption

theorem doKekRotate_kept (s : State) (hs : Kept q n s) : Kept q n (doKekRotate s) := by
  unfold doKekRotate
  extract_lets s1 s2
  have h1 : Kept q n s1 := by
    refine State.pulse_kept _ _ _ ?_
    assumption
  clear_value s1
  refine Kept.ite ?_ ?_
  · refine State.putB_kept _ _ _ _ ?_
    refine Kept.upd ?_ rfl rfl rfl rfl rfl rfl rfl rfl
    assumption
  · refine State.raise_kept _ _ _ ?_
    assumption

theorem doKekRotationComplete_kept (s : State) (hs : Kept q n s) : Kept q n (doKekRotationComplete s) := by
  unfold doKekRotationComplete
  split
  · refine Kept.ite ?_ ?_
    · extract_lets s1 s2 s3 s4
      have h3 : Kept q n s3 := by
        refine writeKeyRec_kept _ _ ?_
        refine writeKeyRec_kept _ _ ?_
        assumption
      clear_value s3
      refine State.raise_kept _ _ _ ?_
      refine State.putB_kept _ _ _ _ ?_
      refine Kept.upd ?_ rfl rfl rfl rfl rfl rfl rfl rfl
      assumption
    · assumption
  · assumption

theorem doSecLoad_kept (s : State) (hs : Kept q n s) : Kept q n (doSecLoad s) := by
  unfold doSecLoad
  extract_lets s1 t c1 c2 s2
  have h1 : Kept q n s1 := State.pulse_kept _ _ _ hs
  clear_value s1
  have h2 : Kept q n s2 :=
    ⟨⟨h1.canon.regs, h1.canon.latches, h1.canon.stage, h1.canon.hostBuf, h1.canon.win4, Canon.nil⟩, h1.queue, h1.imp⟩
  exact State.raise_kept _ _ _ (State.put_kept _ _ _ _ h2)

theorem doRngHealthFail_kept (s : State) (hs : Kept q n s) : Kept q n (doRngHealthFail s) := by
  unfold doRngHealthFail
  refine State.putB_kept _ _ _ _ ?_
  assumption

theorem tamperNow_kept (s : State) (hs : Kept q n s) : Kept q n (tamperNow s) := by
  unfold tamperNow
  extract_lets s1 s2
  have h2 : Kept q n s2 := by
    refine tamperResponse_kept _ ?_
    refine portsOff_kept _ ?_
    refine Kept.upd ?_ rfl rfl rfl rfl rfl rfl rfl rfl
    assumption
  clear_value s2
  refine Kept.ite ?_ ?_
  · assumption
  · refine State.enter_kept _ _ ?_
    assumption

theorem tamperActs_kept (s : State) (hs : Kept q n s) : Kept q n (tamperActs s) := by
  unfold tamperActs
  extract_lets s1 s2 s3 s4
  have h1 : Kept q n s1 := by
    refine State.raise_kept _ _ _ ?_
    refine State.log_kept _ _ _ _ ?_
    assumption
  clear_value s1
  have h3 : Kept q n s3 := by
    refine State.putB_kept _ _ _ _ ?_
    refine Kept.upd ?_ rfl rfl rfl rfl rfl rfl rfl rfl
    assumption
  clear_value s3
  refine Kept.ite ?_ ?_
  · assumption
  · split
    · refine State.putB_kept _ _ _ _ ?_
      refine zeroize_kept _ ?_
      assumption
    · refine State.putB_kept _ _ _ _ ?_
      refine zeroize_kept _ ?_
      assumption
    · refine State.putB_kept _ _ _ _ ?_
      refine zeroize_kept _ ?_
      assumption
    · refine State.putB_kept _ _ _ _ ?_
      refine zeroize_kept _ ?_
      assumption
    · refine State.putB_kept _ _ _ _ ?_
      refine zeroize_kept _ ?_
      assumption
    · refine tamperNow_kept _ ?_
      assumption
    · refine dueCast_kept _ _ ?_
      refine Kept.upd ?_ rfl rfl rfl rfl rfl rfl rfl rfl
      assumption
    · refine Kept.ite ?_ ?_
      · assumption
      · refine tamperResponse_kept _ ?_
        assumption
    · refine tamperResponse_kept _ ?_
      assumption
    · refine Kept.ite ?_ ?_
      · refine settleCore_kept _ ?_
        refine dueCast_kept _ _ ?_
        refine Kept.upd ?_ rfl rfl rfl rfl rfl rfl rfl rfl
        assumption
      · refine tamperNow_kept _ ?_
        assumption

theorem doTamperEdge_kept (s : State) (hs : Kept q n s) : Kept q n (doTamperEdge s) := by
  unfold doTamperEdge
  refine Kept.ite ?_ ?_
  · assumption
  · refine tamperActs_kept _ ?_
    refine Kept.upd ?_ rfl rfl rfl rfl rfl rfl rfl rfl
    assumption

theorem doTamperClearDone_kept (s : State) (hs : Kept q n s) : Kept q n (doTamperClearDone s) := by
  unfold doTamperClearDone
  refine Kept.ite ?_ ?_
  · extract_lets s1 s2
    have h2 : Kept q n s2 := by
      refine State.ibi_kept _ _ ?_
      refine State.putB_kept _ _ _ _ ?_
      refine Kept.upd ?_ rfl rfl rfl rfl rfl rfl rfl rfl
      assumption
    clear_value s2
    split
    · refine Kept.ite ?_ ?_
      · refine State.enter_kept _ _ ?_
        assumption
      · refine powerDown_kept _ ?_
        assumption
    · refine Kept.ite ?_ ?_
      · assumption
      · refine powerDown_kept _ ?_
        assumption
    · assumption
  · assumption

theorem attnActs_kept (s : State) (hs : Kept q n s) : Kept q n (attnActs s) := by
  unfold attnActs
  extract_lets s1 s2
  have h1 : Kept q n s1 := by
    refine State.raise_kept _ _ _ ?_
    assumption
  clear_value s1
  split
  · refine Kept.ite ?_ ?_
    · refine State.raise_kept _ _ _ ?_
      assumption
    · refine beginRelease_kept _ ?_
      assumption
  · refine Kept.upd ?_ rfl rfl rfl rfl rfl rfl rfl rfl
    assumption
  · refine State.raise_kept _ _ _ ?_
    assumption

theorem doAttnEdge_kept (s : State) (hs : Kept q n s) : Kept q n (doAttnEdge s) := by
  unfold doAttnEdge
  refine Kept.ite ?_ ?_
  · assumption
  · refine attnActs_kept _ ?_
    refine Kept.upd ?_ rfl rfl rfl rfl rfl rfl rfl rfl
    assumption

theorem doAttnStuck_kept (s : State) (hs : Kept q n s) : Kept q n (doAttnStuck s) := by
  unfold doAttnStuck
  split
  · refine Kept.ite ?_ ?_
    · refine State.log_kept _ _ _ _ ?_
      refine State.raise_kept _ _ _ ?_
      refine Kept.upd ?_ rfl rfl rfl rfl rfl rfl rfl rfl
      assumption
    · assumption
  · assumption

theorem dropStage_kept (b : Bool) (f : Input → Input) (s : State) (hs : Kept q n s) : Kept q n (dropStage b f s) := by
  unfold dropStage
  extract_lets s1 s2
  have h2 : Kept q n s2 := by
    refine State.updInput_kept _ _ _ ?_
    assumption
  clear_value s2
  refine evalHold_kept _ ?_
  refine Kept.ite ?_ ?_
  · assumption
  · refine loseInput_kept _ _ ?_
    assumption

theorem doInputEnable_kept (b : Bool) (mv : ℕ) (s : State) (hs : Kept q n s) : Kept q n (doInputEnable b mv s) := by
  unfold doInputEnable
  extract_lets s1
  refine Kept.ite ?_ ?_
  · refine State.updInput_kept _ _ _ ?_
    refine sampleInput_kept _ _ _ ?_
    assumption
  · assumption

theorem doInputOvercurrent_kept (b : Bool) (s : State) (hs : Kept q n s) : Kept q n (doInputOvercurrent b s) := by
  unfold doInputOvercurrent
  refine dropStage_kept _ _ _ ?_
  assumption

theorem doInputStageRetry_kept (b : Bool) (s : State) (hs : Kept q n s) : Kept q n (doInputStageRetry b s) := by
  unfold doInputStageRetry
  split
  · refine Kept.ite ?_ ?_
    · refine State.updInput_kept _ _ _ ?_
      assumption
    · assumption
  · assumption

theorem doInputOvervoltage_kept (b : Bool) (mv : ℕ) (s : State) (hs : Kept q n s) : Kept q n (doInputOvervoltage b mv s) := by
  unfold doInputOvervoltage
  refine Kept.ite ?_ ?_
  · refine dropStage_kept _ _ _ ?_
    refine sampleInput_kept _ _ _ ?_
    assumption
  · assumption

theorem doInputStageOff_kept (b : Bool) (mv : ℕ) (s : State) (hs : Kept q n s) : Kept q n (doInputStageOff b mv s) := by
  unfold doInputStageOff
  refine Kept.ite ?_ ?_
  · refine dropStage_kept _ _ _ ?_
    refine sampleInput_kept _ _ _ ?_
    assumption
  · assumption

theorem doBusTakeover_kept (mv : ℕ) (s : State) (hs : Kept q n s) : Kept q n (doBusTakeover mv s) := by
  unfold doBusTakeover
  refine Kept.ite ?_ ?_
  · refine stepCharger_kept _ ?_
    refine Kept.upd ?_ rfl rfl rfl rfl rfl rfl rfl rfl
    assumption
  · assumption

theorem readWord_kept (a : Nat) (s : State) (hs : Kept q n s) : Kept q n (readWord a s).2 := by
  unfold readWord
  split
  · exact hifErr_kept _ _ hs
  · extract_lets v src s1 s2 s3
    have h1 : Kept q n s1 := by
      refine Kept.ite ?_ hs
      exact ⟨⟨hs.canon.regs, NMap.wf_nset _ _ hs.canon.latches, hs.canon.stage, hs.canon.hostBuf, hs.canon.win4, hs.canon.win5⟩, hs.queue, hs.imp⟩
    have h2 : Kept q n s2 := Kept.ite h1 (Kept.foldl _ _ h1 fun s x h => Kept.ite (State.put_kept _ _ _ _ h) h)
    exact Kept.ite (doGaugeWake_kept _ h2) h2

theorem doSnapGo_kept (s : State) (hs : Kept q n s) : Kept q n (doSnapGo s) := by
  unfold doSnapGo
  extract_lets s1 s2 s3 s4 s5 s6 s7
  have h1 : Kept q n s1 := by
    refine State.pulse_kept _ _ _ ?_
    assumption
  clear_value s1
  have h5 : Kept q n s5 := by
    refine State.put_kept _ _ _ _ ?_
    refine State.put_kept _ _ _ _ ?_
    assumption
  clear_value s5
  have h6 : Kept q n s6 := by
    refine State.put_kept _ _ _ _ ?_
    refine State.put_kept _ _ _ _ ?_
    assumption
  clear_value s6
  have h7 : Kept q n s7 := by
    refine State.put_kept _ _ _ _ ?_
    refine State.put_kept _ _ _ _ ?_
    assumption
  clear_value s7
  refine State.put_kept _ _ _ _ ?_
  refine State.put_kept _ _ _ _ ?_
  refine State.put_kept _ _ _ _ ?_
  assumption

theorem winErrors_kept (write : Bool) (s : State) (hs : Kept q n s) : Kept q n (winErrors write s) := by
  unfold winErrors
  extract_lets s1 s2 s3 s4
  have h4 : Kept q n s4 := by
    refine Kept.ite ?_ ?_
    · refine hifErr_kept _ _ ?_
      assumption
    · assumption
  clear_value s4
  refine Kept.ite ?_ ?_
  · refine hifErr_kept _ _ ?_
    assumption
  · assumption

theorem winAdvance_kept (s : State) (hs : Kept q n s) : Kept q n (winAdvance s) := by
  unfold winAdvance
  refine State.put_kept _ _ _ _ ?_
  assumption

theorem apertureWrite_kept (v : Nat) (s : State) (hs : Kept q n s) : Kept q n (apertureWrite v s) := by
  unfold apertureWrite
  refine winAdvance_kept _ (winErrors_kept _ _ (Kept.ite ?_ hs))
  split
  · exact ⟨⟨hs.canon.regs, hs.canon.latches, hs.canon.stage.putBytes _ _, hs.canon.hostBuf, hs.canon.win4, hs.canon.win5⟩, hs.queue, hs.imp⟩
  · exact ⟨⟨hs.canon.regs, hs.canon.latches, hs.canon.stage, hs.canon.hostBuf.putBytes _ _, hs.canon.win4, hs.canon.win5⟩, hs.queue, hs.imp⟩
  · exact ⟨⟨hs.canon.regs, hs.canon.latches, hs.canon.stage, hs.canon.hostBuf, hs.canon.win4.putBytes _ _, hs.canon.win5⟩, hs.queue, hs.imp⟩
  · exact ⟨⟨hs.canon.regs, hs.canon.latches, hs.canon.stage, hs.canon.hostBuf, hs.canon.win4, hs.canon.win5.putBytes _ _⟩, hs.queue, hs.imp⟩
  · assumption

theorem apertureRead_kept (s : State) (hs : Kept q n s) : Kept q n (apertureRead s).2 := by
  unfold apertureRead
  dsimp only
  refine winAdvance_kept _ ?_
  refine winErrors_kept _ _ ?_
  assumption

theorem doWinSel_kept (v : ℕ) (s : State) (hs : Kept q n s) : Kept q n (doWinSel v s) := by
  unfold doWinSel
  extract_lets s1 s2
  have h1 : Kept q n s1 := by
    refine State.put_kept _ _ _ _ ?_
    assumption
  clear_value s1
  refine Kept.upd ?_ rfl rfl rfl rfl rfl rfl rfl rfl
  assumption

theorem doWindowAccess_kept (write : Option ℕ) (s : State) (hs : Kept q n s) : Kept q n (doWindowAccess write s) := by
  unfold doWindowAccess
  split
  · refine apertureWrite_kept _ _ ?_
    assumption
  · refine State.emit_kept _ _ ?_
    refine apertureRead_kept _ ?_
    assumption

theorem hostRead_kept (a : ℕ) (s : State) (hs : Kept q n s) : Kept q n (hostRead a s).2 := by
  unfold hostRead
  split
  · refine apertureRead_kept _ ?_
    assumption
  · refine readWord_kept _ _ ?_
    assumption

theorem clearBits_kept (F : FieldSpec) (i : ℕ) (x : ℕ) (s : State) (hs : Kept q n s) : Kept q n (clearBits F i x s) := by
  unfold clearBits
  extract_lets s1 s2 s3 s4 s5
  have h3 : Kept q n s3 := by
    refine State.put_kept _ _ _ _ ?_
    assumption
  clear_value s3
  refine Kept.ite ?_ ?_
  · refine Kept.upd ?_ rfl rfl rfl rfl rfl rfl rfl rfl
    assumption
  · assumption

theorem storeField_kept (v : ℕ) (s : State) (x : FieldSpec × ℕ) (hs : Kept q n s) : Kept q n (storeField v s x) := by
  unfold storeField
  extract_lets s1 s2 s3
  split
  · refine Kept.ite ?_ ?_
    · refine State.put_kept _ _ _ _ ?_
      assumption
    · refine State.raise_kept _ _ _ ?_
      assumption
  · refine Kept.ite ?_ ?_
    · assumption
    · refine Kept.ite ?_ ?_
      · refine State.put_kept _ _ _ _ ?_
        assumption
      · refine State.raise_kept _ _ _ ?_
        assumption
  · refine State.put_kept _ _ _ _ ?_
    assumption
  · refine clearBits_kept _ _ _ _ ?_
    assumption
  · assumption
  · assumption
  · assumption

theorem landFields_kept (a : ℕ) (v : ℕ) (s : State) (hs : Kept q n s) : Kept q n (landFields a v s) := by
  unfold landFields
  refine Kept.foldl _ _ ?_ fun s x h => ?_
  · assumption
  · refine storeField_kept _ _ _ ?_
    assumption

theorem ifBit_kept (v : ℕ) (j : ℕ) (f : State → State) (s : State) (hk : ∀  s, Kept q n s → Kept q n (f  s)) (hs1 : Kept q n s) : Kept q n (ifBit v j f s) := by
  unfold ifBit
  refine Kept.ite ?_ ?_
  · refine hk _ ?_
    assumption
  · assumption

theorem actGlobal_kept (a : ℕ) (v : ℕ) (s : State) (hs : Kept q n s) : Kept q n (actGlobal a v s) := by
  unfold actGlobal
  refine Kept.ite ?_ ?_
  · refine ifBit_kept _ _ _ _ (fun x0 h' => ?_) ?_
    · refine doAsmDone_kept _ ?_
      assumption
    · refine ifBit_kept _ _ _ _ (fun x0 h' => ?_) ?_
      · refine doMaintExit_kept _ ?_
        assumption
      · refine ifBit_kept _ _ _ _ (fun x0 h' => ?_) ?_
        · refine doMaintGo_kept _ ?_
          assumption
        · assumption
  · refine Kept.ite ?_ ?_
    · refine Kept.ite ?_ ?_
      · assumption
      · refine doAsmForce_kept _ _ ?_
        assumption
    · refine Kept.ite ?_ ?_
      · refine doResetCmd_kept _ _ ?_
        assumption
      · refine Kept.ite ?_ ?_
        · refine ifBit_kept _ _ _ _ (fun x0 h' => ?_) ?_
          · refine State.ask_kept _ _ _ ?_
            assumption
          · assumption
        · refine Kept.ite ?_ ?_
          · refine ifBit_kept _ _ _ _ (fun x0 h' => ?_) ?_
            · refine doStageClear_kept _ ?_
              assumption
            · refine ifBit_kept _ _ _ _ (fun x0 h' => ?_) ?_
              · refine doImgConfirm_kept _ ?_
                assumption
              · refine ifBit_kept _ _ _ _ (fun x0 h' => ?_) ?_
                · refine doImgCommit_kept _ ?_
                  assumption
                · refine ifBit_kept _ _ _ _ (fun x0 h' => ?_) ?_
                  · refine doImgVerify_kept _ ?_
                    assumption
                  · assumption
          · refine Kept.ite ?_ ?_
            · refine ifBit_kept _ _ _ _ (fun x0 h' => ?_) ?_
              · refine doSecLoad_kept _ ?_
                assumption
              · refine ifBit_kept _ _ _ _ (fun x0 h' => ?_) ?_
                · refine doKrecImport_kept _ ?_
                  assumption
                · refine ifBit_kept _ _ _ _ (fun x0 h' => ?_) ?_
                  · refine doKekRotate_kept _ ?_
                    assumption
                  · refine ifBit_kept _ _ _ _ (fun x0 h' => ?_) ?_
                    · refine doKekLoad_kept _ ?_
                      assumption
                    · assumption
            · refine Kept.ite ?_ ?_
              · refine doMinShareWrite_kept _ _ _ ?_
                assumption
              · refine Kept.ite ?_ ?_
                · refine doEnclTempWrite_kept _ _ ?_
                  assumption
                · refine Kept.ite ?_ ?_
                  · refine fairSelWritten_kept _ ?_
                    assumption
                  · assumption

theorem actCase_kept (a : ℕ) (v : ℕ) (s : State) (hs : Kept q n s) : Kept q n (actCase a v s) := by
  unfold actCase
  refine Kept.ite ?_ ?_
  · refine ifBit_kept _ _ _ _ (fun x0 h' => ?_) ?_
    · refine doLogClear_kept _ ?_
      assumption
    · refine ifBit_kept _ _ _ _ (fun x0 h' => ?_) ?_
      · refine doLogFlush_kept _ ?_
        assumption
      · refine doFreeze_kept _ _ ?_
        assumption
  · refine Kept.ite ?_ ?_
    · refine ifBit_kept _ _ _ _ (fun x0 h' => ?_) ?_
      · refine doAnchorGo_kept _ ?_
        assumption
      · assumption
    · refine Kept.ite ?_ ?_
      · refine ifBit_kept _ _ _ _ (fun x0 h' => ?_) ?_
        · refine doReGo_kept _ _ ?_
          assumption
        · assumption
      · refine Kept.ite ?_ ?_
        · refine ifBit_kept _ _ _ _ (fun x0 h' => ?_) ?_
          · refine doReGo_kept _ _ ?_
            assumption
          · assumption
        · refine Kept.ite ?_ ?_
          · refine ifBit_kept _ _ _ _ (fun x0 h' => ?_) ?_
            · refine doProbeGo_kept _ ?_
              assumption
            · assumption
          · refine Kept.ite ?_ ?_
            · refine doEccTestEn_kept _ _ ?_
              assumption
            · refine Kept.ite ?_ ?_
              · refine doDevSel_kept _ _ ?_
                assumption
              · refine Kept.ite ?_ ?_
                · refine ifBit_kept _ _ _ _ (fun x0 h' => ?_) ?_
                  · refine doCalRest_kept _ ?_
                    assumption
                  · refine stepCharger_kept _ ?_
                    assumption
                · refine Kept.ite ?_ ?_
                  · refine ifBit_kept _ _ _ _ (fun x0 h' => ?_) ?_
                    · refine doGsbLatch_kept _ ?_
                      assumption
                    · assumption
                  · refine Kept.ite ?_ ?_
                    · refine ifBit_kept _ _ _ _ (fun x0 h' => ?_) ?_
                      · refine doGsbNone_kept _ ?_
                        assumption
                      · refine ifBit_kept _ _ _ _ (fun x0 h' => ?_) ?_
                        · refine doGsbLoad_kept _ ?_
                          assumption
                        · assumption
                    · refine Kept.ite ?_ ?_
                      · refine ifBit_kept _ _ _ _ (fun x0 h' => ?_) ?_
                        · refine doCastAbandon_kept _ ?_
                          assumption
                        · refine ifBit_kept _ _ _ _ (fun x0 h' => ?_) ?_
                          · refine doReleaseGo_kept _ ?_
                            assumption
                          · assumption
                      · assumption

theorem actSig_kept (g : ℕ) (o : ℕ) (v : ℕ) (s : State) (hs : Kept q n s) : Kept q n (actSig g o v s) := by
  unfold actSig
  refine Kept.ite ?_ ?_
  · refine doMemberSel_kept _ _ _ ?_
    assumption
  · refine Kept.ite ?_ ?_
    · refine ifBit_kept _ _ _ _ (fun x0 h' => ?_) ?_
      · refine doMapGo_kept _ _ ?_
        assumption
      · assumption
    · refine Kept.ite ?_ ?_
      · refine doHbSel_kept _ _ _ ?_
        assumption
      · refine Kept.ite ?_ ?_
        · refine doCorrSel_kept _ _ _ ?_
          assumption
        · refine Kept.ite ?_ ?_
          · refine ifBit_kept _ _ _ _ (fun x0 h' => ?_) ?_
            · refine doFailGo_kept _ _ ?_
              assumption
            · assumption
          · refine Kept.ite ?_ ?_
            · refine doEntSel_kept _ _ _ ?_
              assumption
            · assumption

theorem actDrive_kept (p : ℕ) (v : ℕ) (s : State) (hs : Kept q n s) : Kept q n (actDrive p v s) := by
  unfold actDrive
  extract_lets s1 s2 s3
  have h3 : Kept q n s3 := by
    refine Kept.ite ?_ ?_
    · refine doPresentWrite_kept _ _ _ ?_
      refine doPwrOnWrite_kept _ _ _ ?_
      assumption
    · refine doPwrOnWrite_kept _ _ _ ?_
      refine doPresentWrite_kept _ _ _ ?_
      assumption
  clear_value s3
  refine ifBit_kept _ _ _ _ (fun x0 h' => ?_) ?_
  · refine doClaim_kept _ _ ?_
    assumption
  · refine ifBit_kept _ _ _ _ (fun x0 h' => ?_) ?_
    · refine doLinkTest_kept _ _ ?_
      assumption
    · refine ifBit_kept _ _ _ _ (fun x0 h' => ?_) ?_
      · refine doDrivePortReset_kept _ _ ?_
        assumption
      · assumption

theorem actPort_kept (p : ℕ) (v : ℕ) (s : State) (hs : Kept q n s) : Kept q n (actPort p v s) := by
  unfold actPort
  refine ifBit_kept _ _ _ _ (fun x0 h' => ?_) ?_
  · refine doFePortReset_kept _ _ ?_
    assumption
  · refine Kept.ite ?_ ?_
    · refine doPortEnable_kept _ _ ?_
      assumption
    · refine doPortDisable_kept _ _ ?_
      assumption

theorem wordActions_kept (a : ℕ) (v : ℕ) (s : State) (hs : Kept q n s) : Kept q n (wordActions a v s) := by
  unfold wordActions
  extract_lets s1 s2 s3
  have h3 : Kept q n s3 := by
    refine Kept.ite ?_ ?_
    · refine doGaugeWake_kept _ ?_
      assumption
    · assumption
  clear_value s3
  refine Kept.ite ?_ ?_
  · refine actGlobal_kept _ _ _ ?_
    assumption
  · refine Kept.ite ?_ ?_
    · refine Kept.ite ?_ ?_
      · refine ifBit_kept _ _ _ _ (fun x0 h' => ?_) ?_
        · refine doDmaAbort_kept _ _ ?_
          assumption
        · refine ifBit_kept _ _ _ _ (fun x0 h' => ?_) ?_
          · refine doDmaGo_kept _ _ ?_
            assumption
          · assumption
      · assumption
    · refine Kept.ite ?_ ?_
      · refine actCase_kept _ _ _ ?_
        assumption
      · refine Kept.ite ?_ ?_
        · refine actSig_kept _ _ _ _ ?_
          assumption
        · refine Kept.ite ?_ ?_
          · refine doConnSel_kept _ _ ?_
            assumption
          · refine Kept.ite ?_ ?_
            · refine ifBit_kept _ _ _ _ (fun x0 h' => ?_) ?_
              · refine doConnDrop_kept _ ?_
                assumption
              · assumption
            · refine Kept.ite ?_ ?_
              · refine actPort_kept _ _ _ ?_
                assumption
              · refine Kept.ite ?_ ?_
                · refine actDrive_kept _ _ _ ?_
                  assumption
                · refine Kept.ite ?_ ?_
                  · refine doOztSel_kept _ _ ?_
                    assumption
                  · refine Kept.ite ?_ ?_
                    · refine doWinSel_kept _ _ ?_
                      assumption
                    · assumption

theorem landList_kept (a : ℕ) (v : ℕ) (s : State) (hs : Kept q n s) : Kept q n (landList a v s) := by
  unfold landList
  refine Kept.ite ?_ ?_
  · assumption
  · refine landFields_kept _ _ _ ?_
    assumption

theorem landWord_kept (a : ℕ) (v : ℕ) (s : State) (hs : Kept q n s) : Kept q n (landWord a v s) := by
  unfold landWord
  refine Kept.ite ?_ ?_
  · refine apertureWrite_kept _ _ ?_
    assumption
  · refine Kept.ite ?_ ?_
    · refine hifErr_kept _ _ ?_
      assumption
    · refine Kept.ite ?_ ?_
      · assumption
      · refine wordActions_kept _ _ _ ?_
        refine landList_kept _ _ _ ?_
        assumption

theorem finishSnap_kept (s : State) (hs : Kept q n s) : Kept q n (finishSnap s) := by
  unfold finishSnap
  refine Kept.ite ?_ ?_
  · refine doSnapGo_kept _ ?_
    assumption
  · assumption

theorem doRegisterWrite_kept (a : ℕ) (v : ℕ) (s : State) (hs : Kept q n s) : Kept q n (doRegisterWrite a v s) := by
  unfold doRegisterWrite
  refine Kept.ite ?_ ?_
  · assumption
  · refine Kept.ite ?_ ?_
    · refine hifErr_kept _ _ ?_
      assumption
    · refine finishSnap_kept _ ?_
      refine landWord_kept _ _ _ ?_
      assumption

theorem onBus_kept (f : State → State) (s : State) (hk : ∀  s, Kept q n s → Kept q n (f  s)) (hs1 : Kept q n s) : Kept q n (onBus f s) := by
  unfold onBus
  refine Kept.ite ?_ ?_
  · refine hk _ ?_
    assumption
  · assumption

theorem onAddr_kept (f : State → State) (s : State) (hk : ∀  s, Kept q n s → Kept q n (f  s)) (hs1 : Kept q n s) : Kept q n (onAddr f s) := by
  unfold onAddr
  refine Kept.ite ?_ ?_
  · refine hk _ ?_
    assumption
  · assumption

theorem doEntdaa_kept (a : ℕ) (s : State) (hs : Kept q n s) : Kept q n (doEntdaa a s) := by
  unfold doEntdaa
  refine Kept.ite ?_ ?_
  · assumption
  · refine State.put_kept _ _ _ _ ?_
    refine State.emit_kept _ _ ?_
    assumption

theorem refuseStatic_kept (s : State) (hs : Kept q n s) : Kept q n (refuseStatic s) := by
  unfold refuseStatic
  refine State.emit_kept _ _ ?_
  refine hifErr_kept _ _ ?_
  assumption

theorem doSetdasa_kept (a : ℕ) (s : State) (hs : Kept q n s) : Kept q n (doSetdasa a s) := by
  unfold doSetdasa
  refine Kept.ite ?_ ?_
  · refine refuseStatic_kept _ ?_
    assumption
  · refine State.put_kept _ _ _ _ ?_
    assumption

theorem doSetnewda_kept (a : ℕ) (s : State) (hs : Kept q n s) : Kept q n (doSetnewda a s) := by
  unfold doSetnewda
  refine State.put_kept _ _ _ _ ?_
  assumption

theorem doRstdaa_kept (s : State) (hs : Kept q n s) : Kept q n (doRstdaa s) := by
  unfold doRstdaa
  refine State.put_kept _ _ _ _ ?_
  assumption

theorem doGetpid_kept (s : State) (hs : Kept q n s) : Kept q n (doGetpid s) := by
  unfold doGetpid
  refine State.emit_kept _ _ ?_
  assumption

theorem doGetbcr_kept (s : State) (hs : Kept q n s) : Kept q n (doGetbcr s) := by
  unfold doGetbcr
  refine State.emit_kept _ _ ?_
  assumption

theorem doGetdcr_kept (s : State) (hs : Kept q n s) : Kept q n (doGetdcr s) := by
  unfold doGetdcr
  refine State.emit_kept _ _ ?_
  assumption

theorem doGetstatus_kept (s : State) (hs : Kept q n s) : Kept q n (doGetstatus s) := by
  unfold doGetstatus
  refine State.emit_kept _ _ ?_
  refine Kept.upd ?_ rfl rfl rfl rfl rfl rfl rfl rfl
  assumption

theorem doEnec_kept (bits : ℕ) (s : State) (hs : Kept q n s) : Kept q n (doEnec bits s) := by
  unfold doEnec
  refine Kept.ite ?_ ?_
  · refine State.putB_kept _ _ _ _ ?_
    assumption
  · assumption

theorem doDisec_kept (bits : ℕ) (s : State) (hs : Kept q n s) : Kept q n (doDisec bits s) := by
  unfold doDisec
  refine Kept.ite ?_ ?_
  · refine State.putB_kept _ _ _ _ ?_
    assumption
  · assumption

theorem doSetmwl_kept (v : ℕ) (s : State) (hs : Kept q n s) : Kept q n (doSetmwl v s) := by
  unfold doSetmwl
  refine State.put_kept _ _ _ _ ?_
  assumption

theorem doGetmwl_kept (s : State) (hs : Kept q n s) : Kept q n (doGetmwl s) := by
  unfold doGetmwl
  refine State.emit_kept _ _ ?_
  assumption

theorem doSetmrl_kept (v : ℕ) (s : State) (hs : Kept q n s) : Kept q n (doSetmrl v s) := by
  unfold doSetmrl
  refine State.put_kept _ _ _ _ ?_
  assumption

theorem doGetmrl_kept (s : State) (hs : Kept q n s) : Kept q n (doGetmrl s) := by
  unfold doGetmrl
  refine State.emit_kept _ _ ?_
  assumption

theorem doGetmxds_kept (s : State) (hs : Kept q n s) : Kept q n (doGetmxds s) := by
  unfold doGetmxds
  refine State.emit_kept _ _ ?_
  assumption

theorem doRstact_kept (a : ℕ) (s : State) (hs : Kept q n s) : Kept q n (doRstact a s) := by
  unfold doRstact
  refine Kept.ite ?_ ?_
  · refine Kept.upd ?_ rfl rfl rfl rfl rfl rfl rfl rfl
    assumption
  · refine State.emit_kept _ _ ?_
    assumption

theorem doTargetResetPattern_kept (s : State) (hs : Kept q n s) : Kept q n (doTargetResetPattern s) := by
  unfold doTargetResetPattern
  refine Kept.ite ?_ ?_
  · extract_lets s1 s2 s3 s4
    have h3 : Kept q n s3 := by
      refine Kept.upd ?_ rfl rfl rfl rfl rfl rfl rfl rfl
      assumption
    clear_value s3
    refine Kept.ite ?_ ?_
    · refine Kept.upd ?_ rfl rfl rfl rfl rfl rfl rfl rfl
      assumption
    · refine Kept.ite ?_ ?_
      · refine requestReset_kept _ _ ?_
        assumption
      · assumption
  · assumption

theorem doCccUnsupported_kept (direct : Bool) (s : State) (hs : Kept q n s) : Kept q n (doCccUnsupported direct s) := by
  unfold doCccUnsupported
  refine Kept.ite ?_ ?_
  · refine State.emit_kept _ _ ?_
    assumption
  · assumption

theorem doEnthdr0_kept (s : State) (hs : Kept q n s) : Kept q n (doEnthdr0 s) := by
  unfold doEnthdr0
  refine Kept.upd ?_ rfl rfl rfl rfl rfl rfl rfl rfl
  assumption

theorem doEnthdrUnsupported_kept (s : State) (hs : Kept q n s) : Kept q n (doEnthdrUnsupported s) := by
  unfold doEnthdrUnsupported
  refine Kept.upd ?_ rfl rfl rfl rfl rfl rfl rfl rfl
  assumption

theorem doHdrExit_kept (s : State) (hs : Kept q n s) : Kept q n (doHdrExit s) := by
  unfold doHdrExit
  refine Kept.ite ?_ ?_
  · refine Kept.upd ?_ rfl rfl rfl rfl rfl rfl rfl rfl
    assumption
  · assumption

theorem queueWords_kept (a : ℕ) (ws : List ℕ) (s : State) (hs : Kept q n s) : Kept q n (queueWords a ws s) := by
  unfold queueWords
  refine Kept.upd ?_ rfl rfl rfl rfl rfl rfl rfl rfl
  assumption

theorem busWrite_kept (a : ℕ) (data : List ℕ) (s : State) (hs : Kept q n s) : Kept q n (busWrite a data s) := by
  unfold busWrite
  refine Kept.ite ?_ ?_
  · refine hifErr_kept _ _ ?_
    assumption
  · extract_lets s1 s2 s3 s4 s5
    have h3 : Kept q n s3 := by
      refine Kept.ite ?_ ?_
      · refine hifErr_kept _ _ ?_
        assumption
      · assumption
    clear_value s3
    have h4 : Kept q n s4 := by
      refine Kept.ite ?_ ?_
      · assumption
      · refine hifErr_kept _ _ ?_
        assumption
    clear_value s4
    refine queueWords_kept _ _ _ ?_
    refine Kept.upd ?_ rfl rfl rfl rfl rfl rfl rfl rfl
    assumption

theorem doPrivateWrite_kept (bs : List ℕ) (s : State) (hs : Kept q n s) : Kept q n (doPrivateWrite bs s) := by
  unfold doPrivateWrite
  split
  · refine busWrite_kept _ _ _ ?_
    assumption
  · refine hifErr_kept _ _ ?_
    assumption

theorem readWords_kept (m : Nat) (s : State) (hs : Kept q n s) : Kept q n (readWords m s).2 := by
  induction m generalizing s with
  | zero => exact hs
  | succ m ih => exact ih _ (Kept.upd (hostRead_kept _ _ hs) rfl rfl rfl rfl rfl rfl rfl rfl)

theorem busRead_kept (n0 : ℕ) (s : State) (hs : Kept q n s) : Kept q n (busRead n0 s) := by
  unfold busRead
  extract_lets s1 s2
  have h2 : Kept q n s2.2 := by
    refine readWords_kept _ _ ?_
    assumption
  clear_value s2
  refine State.emit_kept _ _ ?_
  assumption

theorem doHdrWrite_kept (hs0 : List ℕ) (s : State) (hs : Kept q n s) : Kept q n (doHdrWrite hs0 s) := by
  unfold doHdrWrite
  split
  · refine busWrite_kept _ _ _ ?_
    assumption
  · refine hifErr_kept _ _ ?_
    assumption

theorem doHdrPointer_kept (hs0 : List ℕ) (s : State) (hs : Kept q n s) : Kept q n (doHdrPointer hs0 s) := by
  unfold doHdrPointer
  split
  · refine busWrite_kept _ _ _ ?_
    assumption
  · refine hifErr_kept _ _ ?_
    assumption

theorem onHdr_kept (f : State → State) (s : State) (hk : ∀  s, Kept q n s → Kept q n (f  s)) (hs1 : Kept q n s) : Kept q n (onHdr f s) := by
  unfold onHdr
  refine Kept.ite ?_ ?_
  · refine hk _ ?_
    assumption
  · assumption

theorem doLegacy_kept (bs : List ℕ) (n0 : ℕ) (s : State) (hs : Kept q n s) : Kept q n (doLegacy bs n0 s) := by
  unfold doLegacy
  refine Kept.ite ?_ ?_
  · refine refuseStatic_kept _ ?_
    assumption
  · extract_lets s1
    have h1 : Kept q n s1 := by
      refine Kept.ite ?_ ?_
      · assumption
      · refine doPrivateWrite_kept _ _ ?_
        assumption
    clear_value s1
    refine Kept.ite ?_ ?_
    · assumption
    · refine busRead_kept _ _ ?_
      assumption

theorem raiseIbi_kept (c : ℕ) (ack : Bool) (s : State) (hs : Kept q n s) : Kept q n (raiseIbi c ack s) := by
  unfold raiseIbi
  refine Kept.ite ?_ ?_
  · refine State.emit_kept _ _ ?_
    refine Kept.upd ?_ rfl rfl rfl rfl rfl rfl rfl rfl
    assumption
  · refine hifErr_kept _ _ ?_
    refine Kept.upd ?_ rfl rfl rfl rfl rfl rfl rfl rfl
    assumption

theorem doIbiRequest_kept (ack : Bool) (s : State) (hs : Kept q n s) : Kept q n (doIbiRequest ack s) := by
  unfold doIbiRequest
  split
  · refine Kept.ite ?_ ?_
    · refine raiseIbi_kept _ _ _ ?_
      assumption
    · assumption
  · assumption

theorem doIbiRetry_kept (ack : Bool) (s : State) (hs : Kept q n s) : Kept q n (doIbiRetry ack s) := by
  unfold doIbiRetry
  split
  · refine Kept.ite ?_ ?_
    · refine raiseIbi_kept _ _ _ ?_
      assumption
    · assumption
  · refine Kept.upd ?_ rfl rfl rfl rfl rfl rfl rfl rfl
    assumption
  · assumption

theorem tick_kept (s : State) (hs : Kept q n s) : Kept q (n + 1) (tick s) :=
  ⟨⟨Canon.foldl _ _ hs.canon.regs fun _ _ h => h.ndel _, hs.canon.latches, hs.canon.stage, hs.canon.hostBuf, hs.canon.win4, hs.canon.win5⟩, hs.queue,
    congrArg (· + 1) hs.imp⟩

theorem stepCalReq_kept (s : State) (hs : Kept q n s) : Kept q n (stepCalReq s) := by
  unfold stepCalReq
  refine Kept.ite ?_ ?_
  · refine State.log_kept _ _ _ _ ?_
    assumption
  · assumption

theorem overrun_kept (s : State) (o : Overrun) (hs : Kept q n s) : Kept q n (overrun s o) := by
  unfold overrun
  refine enqueue_kept _ _ ?_
  refine State.log_kept _ _ _ _ ?_
  refine faultItem_kept _ ?_
  assumption

theorem samplePins_kept (x : PinSample) (s : State) (hs : Kept q n s) : Kept q n (samplePins x s) := by
  unfold samplePins
  extract_lets s1 s2 s3 s4 s5 s6 s7 s8
  have h3 : Kept q n s3 := by
    refine Kept.upd ?_ rfl rfl rfl rfl rfl rfl rfl rfl
    assumption
  clear_value s3
  have h4 : Kept q n s4 := by
    refine Kept.ite ?_ ?_
    · refine Kept.ite ?_ ?_
      · refine doResetNAsserted_kept _ ?_
        assumption
      · refine doResetNReleased_kept _ ?_
        assumption
    · assumption
  clear_value s4
  have h5 : Kept q n s5 := by
    refine Kept.ite ?_ ?_
    · refine doPwrfail_kept _ _ ?_
      assumption
    · assumption
  clear_value s5
  have h7 : Kept q n s7 := by
    refine Kept.ite ?_ ?_
    · refine Kept.ite ?_ ?_
      · refine doTamperEdge_kept _ ?_
        assumption
      · refine Kept.upd ?_ rfl rfl rfl rfl rfl rfl rfl rfl
        assumption
    · assumption
  clear_value s7
  refine Kept.ite ?_ ?_
  · refine Kept.ite ?_ ?_
    · refine Kept.upd ?_ rfl rfl rfl rfl rfl rfl rfl rfl
      assumption
    · assumption
  · refine Kept.ite ?_ ?_
    · refine Kept.ite ?_ ?_
      · refine doAttnEdge_kept _ ?_
        assumption
      · refine Kept.upd ?_ rfl rfl rfl rfl rfl rfl rfl rfl
        assumption
    · assumption

theorem landWrites_kept (s : State) (hs : Kept q n s) : Kept q n (landWrites s) := by
  unfold landWrites
  extract_lets s1 s2 s3
  have h3 : Kept q n s3 := by
    refine Kept.upd ?_ rfl rfl rfl rfl rfl rfl rfl rfl
    assumption
  clear_value s3
  refine Kept.ite ?_ ?_
  · refine Kept.foldl _ _ ?_ fun s x h => ?_
    · assumption
    · refine Kept.ite ?_ ?_
      · refine landWord_kept _ _ _ ?_
        assumption
      · assumption
  · assumption

theorem stepHold_kept (s : State) (hs : Kept q n s) : Kept q n (stepHold s) := by
  unfold stepHold
  extract_lets s1 s2
  have h1 : Kept q n s1 := by
    refine evalHold_kept _ ?_
    assumption
  clear_value s1
  have h2 : Kept q n s2 := by
    refine Kept.ite ?_ ?_
    · refine castOrOff_kept _ ?_
      assumption
    · assumption
  clear_value s2
  refine Kept.ite ?_ ?_
  · refine doRideThroughExpired_kept _ ?_
    assumption
  · assumption

theorem stepThermalCast_kept (sensors : List ℤ) (s : State) (hs : Kept q n s) : Kept q n (stepThermalCast sensors s) := by
  unfold stepThermalCast
  extract_lets s1 s2 s3
  have h2 : Kept q n s2 := by
    refine stepThermal_kept _ _ ?_
    assumption
  clear_value s2
  refine Kept.ite ?_ ?_
  · split
    · refine Kept.upd ?_ rfl rfl rfl rfl rfl rfl rfl rfl
      assumption
    · refine Kept.upd ?_ rfl rfl rfl rfl rfl rfl rfl rfl
      assumption
    · refine Kept.upd ?_ rfl rfl rfl rfl rfl rfl rfl rfl
      assumption
    · refine Kept.upd ?_ rfl rfl rfl rfl rfl rfl rfl rfl
      assumption
    · refine Kept.upd ?_ rfl rfl rfl rfl rfl rfl rfl rfl
      assumption
    · refine Kept.upd ?_ rfl rfl rfl rfl rfl rfl rfl rfl
      assumption
    · assumption
    · assumption
    · refine castFor_kept _ _ ?_
      assumption
  · assumption

theorem stepBudgets_kept (s : State) (hs : Kept q n s) : Kept q n (stepBudgets s) := by
  unfold stepBudgets
  extract_lets s1
  have h1 : Kept q n s1 := by
    refine stepBoost_kept _ ?_
    refine stepCeiling_kept _ ?_
    refine State.put_kept _ _ _ _ ?_
    assumption
  clear_value s1
  refine countBacklog_kept _ ?_
  refine stepTags_kept _ ?_
  refine stepForme_kept _ ?_
  assumption

theorem stepHealth_kept (g : ℕ) (s : State) (hs : Kept q n s) : Kept q n (stepHealth g s) := by
  unfold stepHealth
  extract_lets s1 s2 s3
  have h2 : Kept q n s2 := by
    refine State.put_kept _ _ _ _ ?_
    refine State.put_kept _ _ _ _ ?_
    assumption
  clear_value s2
  have h3 : Kept q n s3 := by
    refine State.put_kept _ _ _ _ ?_
    refine State.put_kept _ _ _ _ ?_
    assumption
  clear_value s3
  refine Kept.ite ?_ ?_
  · refine State.updSig_kept _ _ _ ?_
    assumption
  · assumption

theorem stepProof_kept (g : ℕ) (s : State) (hs : Kept q n s) : Kept q n (stepProof g s) := by
  unfold stepProof
  extract_lets s1
  refine Kept.ite ?_ ?_
  · refine State.raise_kept _ _ _ ?_
    assumption
  · assumption

theorem stepReshape_kept (g : ℕ) (s : State) (hs : Kept q n s) : Kept q n (stepReshape g s) := by
  unfold stepReshape
  split
  · extract_lets s1
    refine Kept.ite ?_ ?_
    · refine State.log_kept _ _ _ _ ?_
      refine updRs_kept _ _ _ ?_
      assumption
    · assumption
  · assumption

theorem stepScrub_kept (c : ℕ) (s : State) (hs : Kept q n s) : Kept q n (stepScrub c s) := by
  unfold stepScrub
  refine Kept.ite ?_ ?_
  · assumption
  · extract_lets s1 s2
    have h2 : Kept q n s2 := by
      refine State.put_kept _ _ _ _ ?_
      assumption
    clear_value s2
    refine Kept.ite ?_ ?_
    · refine State.raise_kept _ _ _ ?_
      assumption
    · assumption

theorem stepAna_kept (s : State) (hs : Kept q n s) : Kept q n (stepAna s) := by
  unfold stepAna
  extract_lets s1 s2 s3
  have h2 : Kept q n s2 := by
    refine Kept.upd ?_ rfl rfl rfl rfl rfl rfl rfl rfl
    assumption
  clear_value s2
  have h3 : Kept q n s3 := by
    refine Kept.foldl _ _ ?_ fun s x h => ?_
    · assumption
    · extract_lets s4
      have h4 : Kept q n s4 := by
        refine State.updFe_kept _ _ _ ?_
        assumption
      clear_value s4
      refine Kept.foldl _ _ ?_ fun s x h => ?_
      · assumption
      · refine State.log_kept _ _ _ _ ?_
        assumption
  clear_value s3
  refine Kept.ite ?_ ?_
  · assumption
  · refine State.raise_kept _ _ _ ?_
    refine notice_kept _ _ _ ?_
    assumption

theorem stepWarnings_kept (s : State) (hs : Kept q n s) : Kept q n (stepWarnings s) := by
  unfold stepWarnings
  extract_lets s1 s2
  have h2 : Kept q n s2 := by
    refine Kept.foldl _ _ ?_ fun s x h => ?_
    · assumption
    · refine notice_kept _ _ _ ?_
      assumption
  clear_value s2
  refine Kept.upd ?_ rfl rfl rfl rfl rfl rfl rfl rfl
  assumption

theorem stepLink_kept (p : ℕ) (s : State) (hs : Kept q n s) : Kept q n (stepLink p s) := by
  unfold stepLink
  refine Kept.ite ?_ ?_
  · extract_lets s1 s2 s3 s4 s5
    have h1 : Kept q n s1.2 := by
      refine State.draw_kept _ ?_
      assumption
    clear_value s1
    have h2 : Kept q n s2.2 := by
      refine State.draw_kept _ ?_
      assumption
    clear_value s2
    have h3 : Kept q n s3.2 := by
      refine State.draw_kept _ ?_
      assumption
    clear_value s3
    have h4 : Kept q n s4.2 := by
      refine State.draw_kept _ ?_
      assumption
    clear_value s4
    have h5 : Kept q n s5 := by
      refine State.bump_kept _ _ _ _ ?_
      refine State.bump_kept _ _ _ _ ?_
      refine State.bump_kept _ _ _ _ ?_
      assumption
    clear_value s5
    refine State.updFe_kept _ _ _ ?_
    assumption
  · assumption

theorem stepApplied_kept (s : State) (hs : Kept q n s) : Kept q n (stepApplied s) := by
  unfold stepApplied
  refine Kept.ite ?_ ?_
  · refine takeKeptGsb_kept _ ?_
    refine State.enter_kept _ _ ?_
    refine Kept.upd ?_ rfl rfl rfl rfl rfl rfl rfl rfl
    assumption
  · assumption

theorem stepSummary_kept (s : State) (hs : Kept q n s) : Kept q n (stepSummary s) := by
  unfold stepSummary
  extract_lets s1 s2 s3 s4 s5
  have h5 : Kept q n s5 := by
    refine Kept.upd ?_ rfl rfl rfl rfl rfl rfl rfl rfl
    assumption
  clear_value s5
  refine Kept.ite ?_ ?_
  · refine State.ibi_kept _ _ ?_
    assumption
  · assumption

theorem whenFree_kept (f : State → State) (s : State) (hk : ∀  s, Kept q n s → Kept q n (f  s)) (hs1 : Kept q n s) : Kept q n (whenFree f s) := by
  unfold whenFree
  refine Kept.ite ?_ ?_
  · refine hk _ ?_
    assumption
  · assumption

theorem stepUnits_kept (s : State) (hs : Kept q n s) : Kept q n (stepUnits s) := by
  unfold stepUnits
  extract_lets s1 s2 s3 s4 s5
  have h2 : Kept q n s2 := by
    refine Kept.foldl _ _ ?_ fun s x h => ?_
    · assumption
    · refine Kept.ite ?_ ?_
      · refine stepReshape_kept _ _ ?_
        refine stepProof_kept _ _ ?_
        refine stepHealth_kept _ _ ?_
        assumption
      · assumption
  clear_value s2
  have h3 : Kept q n s3 := by
    refine Kept.foldl _ _ ?_ fun s x h => ?_
    · assumption
    · refine stepScrub_kept _ _ ?_
      assumption
  clear_value s3
  have h4 : Kept q n s4 := by
    refine Kept.foldl _ _ ?_ fun s x h => ?_
    · assumption
    · refine tryTest_kept _ _ ?_
      assumption
  clear_value s4
  have h5 : Kept q n s5 := by
    refine Kept.foldl _ _ ?_ fun s x h => ?_
    · assumption
    · refine stepLink_kept _ _ ?_
      assumption
  clear_value s5
  refine stepWarnings_kept _ ?_
  refine stepAna_kept _ ?_
  assumption

/-- A boundary advances the impression counter by one. -/
theorem doImpressionBoundary_kept (x : BoundaryIn) (s : State) (hs : Kept q n s) : Kept q (n + 1) (doImpressionBoundary x s) := by
  unfold doImpressionBoundary
  extract_lets s1 s2 s3 s4 s5 s6 s7 s8
  have h1 : Kept q (n + 1) s1 := deliverAll_kept _ (gate_kept _ _ (stepTouched_kept _ (stepCalReq_kept _ (tick_kept _ hs))))
  clear_value s1
  have h2 : Kept q (n + 1) s2 := Kept.foldl _ _ h1 fun s x h => overrun_kept _ _ h
  clear_value s2
  have h3 : Kept q (n + 1) s3 := landWrites_kept _ (samplePins_kept _ _ h2)
  clear_value s3
  have h4 : Kept q (n + 1) s4 := whenFree_kept _ _ (fun _ h => stepHold_kept _ (takeFigures_kept _ h)) h3
  clear_value s4
  have h5 : Kept q (n + 1) s5 := whenFree_kept _ _ (fun _ h => stepThermalCast_kept _ _ h) h4
  clear_value s5
  have h6 : Kept q (n + 1) s6 := whenFree_kept _ _ (fun _ h => stepUnits_kept _ (stepBudgets_kept _ h)) h5
  clear_value s6
  have h7 : Kept q (n + 1) s7 := whenFree_kept _ _ (fun _ h => settleCore_kept _ (stepApplied_kept _ (beginFreeze_kept _ (stepCharger_kept _ h)))) h6
  clear_value s7
  have h8 : Kept q (n + 1) s8 := whenOn_kept _ _ h7 (finishSnap_kept _ (stepSummary_kept _ h7))
  exact recordEvents_kept _ h8

end Sys2Proof.Machine
end

