-- ==== Sys2Proof/Laws/KeptExec.lean ====
section
/-!
SUPPORT. What every command but IMPRESSION_BOUNDARY and COLD_RESET keeps (Laws/Kept.lean): one lemma per meaning.
-/

namespace Sys2Proof.Machine

variable {q : List Instr} {n : Nat}

theorem execAgeIncrement_kept (s : State) (hs : Kept q n s) : ∀ t', (execAgeIncrement s) = .next t' → Kept q n t' := by
  intro t ht; cases ht; exact whenOn_kept _ _ hs (doAgeIncrement_kept _ hs)

theorem execReclaim_kept (c : ChIx) (s : State) (hs : Kept q n s) : ∀ t', (execReclaim c s) = .next t' → Kept q n t' := by
  intro t ht; cases ht; exact whenOn_kept _ _ hs (doReclaim_kept _ _ hs)

theorem execEvbDrop_kept (i : ℕ) (s : State) (hs : Kept q n s) : ∀ t', (execEvbDrop i s) = .next t' → Kept q n t' := by
  intro t ht; cases ht; exact whenOn_kept _ _ hs (doEvbDrop_kept _ _ hs)

theorem execReDuplex_kept (s : State) (hs : Kept q n s) : ∀ t', (execReDuplex s) = .next t' → Kept q n t' := by
  intro t ht; cases ht; exact whenOn_kept _ _ hs (doReDuplex_kept _ hs)

theorem execProbeGo_kept (s : State) (hs : Kept q n s) : ∀ t', (execProbeGo s) = .next t' → Kept q n t' := by
  intro t ht; cases ht; exact whenOn_kept _ _ hs (doProbeGo_kept _ hs)

theorem execTransientHourRoll_kept (s : State) (hs : Kept q n s) : ∀ t', (execTransientHourRoll s) = .next t' → Kept q n t' := by
  intro t ht; cases ht; exact whenOn_kept _ _ hs (doTransientHourRoll_kept _ hs)

theorem execSpareSelfTest_kept (e : Fin 33) (pass : Bool) (s : State) (hs : Kept q n s) : ∀ t', (execSpareSelfTest e pass s) = .next t' → Kept q n t' := by
  intro t ht; cases ht; exact whenOn_kept _ _ hs (doSpareSelfTest_kept _ _ _ hs)

theorem execEngineRecordWrite_kept (s : State) (hs : Kept q n s) : ∀ t', (execEngineRecordWrite s) = .next t' → Kept q n t' := by
  intro t ht; cases ht; exact whenOn_kept _ _ hs (doEngineRecordWrite_kept _ hs)

theorem execFrameReceived_kept (p : FePortIx) (f : Frame) (s : State) (hs : Kept q n s) : ∀ t', (execFrameReceived p f s) = .next t' → Kept q n t' := by
  intro t ht; cases ht; exact whenOn_kept _ _ hs (doFrameReceived_kept _ _ _ hs)

theorem execXoffRefresh_kept (p : FePortIx) (s : State) (hs : Kept q n s) : ∀ t', (execXoffRefresh p s) = .next t' → Kept q n t' := by
  intro t ht; cases ht; exact whenOn_kept _ _ hs (doXoffRefresh_kept _ _ hs)

theorem execXonSend_kept (p : FePortIx) (s : State) (hs : Kept q n s) : ∀ t', (execXonSend p s) = .next t' → Kept q n t' := by
  intro t ht; cases ht; exact whenOn_kept _ _ hs (doXonSend_kept _ _ hs)

theorem execPfcFrameReceived_kept (p : FePortIx) (prio : ℕ) (q0 : ℕ) (s : State) (hs : Kept q n s) : ∀ t', (execPfcFrameReceived p prio q0 s) = .next t' → Kept q n t' := by
  intro t ht; cases ht; exact whenOn_kept _ _ hs (doPfcFrameReceived_kept _ _ _ _ hs)

theorem execPfcPauseExpired_kept (p : FePortIx) (s : State) (hs : Kept q n s) : ∀ t', (execPfcPauseExpired p s) = .next t' → Kept q n t' := by
  intro t ht; cases ht; exact whenOn_kept _ _ hs (doPfcPauseExpired_kept _ _ hs)

theorem execArpRequest_kept (p : FePortIx) (a : ℕ) (s : State) (hs : Kept q n s) : ∀ t', (execArpRequest p a s) = .next t' → Kept q n t' := by
  intro t ht; cases ht; exact whenOn_kept _ _ hs (doArpRequest_kept _ _ _ hs)

theorem execNeighborSolicitation_kept (p : FePortIx) (a : ℕ) (s : State) (hs : Kept q n s) : ∀ t', (execNeighborSolicitation p a s) = .next t' → Kept q n t' := by
  intro t ht; cases ht; exact whenOn_kept _ _ hs (doNeighborSolicitation_kept _ _ _ hs)

theorem execArpReplyClaim_kept (p : FePortIx) (a : ℕ) (s : State) (hs : Kept q n s) : ∀ t', (execArpReplyClaim p a s) = .next t' → Kept q n t' := by
  intro t ht; cases ht; exact whenOn_kept _ _ hs (doArpReplyClaim_kept _ _ _ hs)

theorem execNeighbourCacheAgeOut_kept (p : FePortIx) (a : NetAddr) (s : State) (hs : Kept q n s) : ∀ t', (execNeighbourCacheAgeOut p a s) = .next t' → Kept q n t' := by
  intro t ht; cases ht; exact whenOn_kept _ _ hs (doNeighbourCacheAgeOut_kept _ _ _ hs)

theorem execDuplicateAddressDetectionDone_kept (p : FePortIx) (d : Bool) (s : State) (hs : Kept q n s) : ∀ t', (execDuplicateAddressDetectionDone p d s) = .next t' → Kept q n t' := by
  intro t ht; cases ht; exact whenOn_kept _ _ hs (doDuplicateAddressDetectionDone_kept _ _ _ hs)

theorem execEchoRequest_kept (p : FePortIx) (a : NetAddr) (n0 : ℕ) (s : State) (hs : Kept q n s) : ∀ t', (execEchoRequest p a n0 s) = .next t' → Kept q n t' := by
  intro t ht; cases ht; exact whenOn_kept _ _ hs (doEchoRequest_kept _ _ _ _ hs)

theorem execSynReceived_kept (x : Syn) (s : State) (hs : Kept q n s) : ∀ t', (execSynReceived x s) = .next t' → Kept q n t' := by
  intro t ht; cases ht; exact whenOn_kept _ _ hs (doSynReceived_kept _ _ hs)

theorem execRetransmissionTimeout_kept (i : ℕ) (s : State) (hs : Kept q n s) : ∀ t', (execRetransmissionTimeout i s) = .next t' → Kept q n t' := by
  intro t ht; cases ht; exact whenOn_kept _ _ hs (doRetransmissionTimeout_kept _ _ hs)

theorem execIcreqTimeout_kept (i : ℕ) (s : State) (hs : Kept q n s) : ∀ t', (execIcreqTimeout i s) = .next t' → Kept q n t' := by
  intro t ht; cases ht; exact whenOn_kept _ _ hs (doIcreqTimeout_kept _ _ hs)

theorem execTcpConnectionClosed_kept (i : ℕ) (r : Bool) (s : State) (hs : Kept q n s) : ∀ t', (execTcpConnectionClosed i r s) = .next t' → Kept q n t' := by
  intro t ht; cases ht; exact whenOn_kept _ _ hs (doTcpConnectionClosed_kept _ _ _ hs)

theorem execH2ctermreq_kept (i : ℕ) (fes : ℕ) (s : State) (hs : Kept q n s) : ∀ t', (execH2ctermreq i fes s) = .next t' → Kept q n t' := by
  intro t ht; cases ht; exact whenOn_kept _ _ hs (doH2ctermreq_kept _ _ _ hs)

theorem execAuthFailClose_kept (i : ℕ) (s : State) (hs : Kept q n s) : ∀ t', (execAuthFailClose i s) = .next t' → Kept q n t' := by
  intro t ht; cases ht; exact whenOn_kept _ _ hs (doAuthFailClose_kept _ _ hs)

theorem execKeepAliveExpired_kept (c : ℕ) (s : State) (hs : Kept q n s) : ∀ t', (execKeepAliveExpired c s) = .next t' → Kept q n t' := by
  intro t ht; cases ht; exact whenOn_kept _ _ hs (doKeepAliveExpired_kept _ _ hs)

theorem execLinkUp_kept (p : FePortIx) (s : State) (hs : Kept q n s) : ∀ t', (execLinkUp p s) = .next t' → Kept q n t' := by
  intro t ht; cases ht; exact whenOn_kept _ _ hs (doLinkUp_kept _ _ hs)

theorem execLinkLoss_kept (p : FePortIx) (s : State) (hs : Kept q n s) : ∀ t', (execLinkLoss p s) = .next t' → Kept q n t' := by
  intro t ht; cases ht; exact whenOn_kept _ _ hs (doLinkLoss_kept _ _ hs)

theorem execLinkHoldExpired_kept (p : FePortIx) (s : State) (hs : Kept q n s) : ∀ t', (execLinkHoldExpired p s) = .next t' → Kept q n t' := by
  intro t ht; cases ht; exact whenOn_kept _ _ hs (doLinkHoldExpired_kept _ _ hs)

theorem execFePortReset_kept (p : FePortIx) (s : State) (hs : Kept q n s) : ∀ t', (execFePortReset p s) = .next t' → Kept q n t' := by
  intro t ht; cases ht; exact whenOn_kept _ _ hs (doFePortReset_kept _ _ hs)

theorem execPortEnable_kept (p : FePortIx) (s : State) (hs : Kept q n s) : ∀ t', (execPortEnable p s) = .next t' → Kept q n t' := by
  intro t ht; cases ht; exact whenOn_kept _ _ hs (doPortEnable_kept _ _ hs)

theorem execPortDisable_kept (p : FePortIx) (s : State) (hs : Kept q n s) : ∀ t', (execPortDisable p s) = .next t' → Kept q n t' := by
  intro t ht; cases ht; exact whenOn_kept _ _ hs (doPortDisable_kept _ _ hs)

theorem execConnSel_kept (v : RegWord) (s : State) (hs : Kept q n s) : ∀ t', (execConnSel v s) = .next t' → Kept q n t' := by
  intro t ht; cases ht; exact whenOn_kept _ _ hs (doConnSel_kept _ _ hs)

theorem execConnDrop_kept (s : State) (hs : Kept q n s) : ∀ t', (execConnDrop s) = .next t' → Kept q n t' := by
  intro t ht; cases ht; exact whenOn_kept _ _ hs (doConnDrop_kept _ hs)

theorem execHbSel_kept (g : SigIx) (v : RegWord) (s : State) (hs : Kept q n s) : ∀ t', (execHbSel g v s) = .next t' → Kept q n t' := by
  intro t ht; cases ht; exact whenOn_kept _ _ hs (doHbSel_kept _ _ _ hs)

theorem execGaugeSample_kept (x : GaugeIn) (s : State) (hs : Kept q n s) : ∀ t', (execGaugeSample x s) = .next t' → Kept q n t' := by
  intro t ht; cases ht; exact whenOn_kept _ _ hs (doGaugeSample_kept _ _ hs)

theorem execGaugeHibernate_kept (s : State) (hs : Kept q n s) : ∀ t', (execGaugeHibernate s) = .next t' → Kept q n t' := by
  intro t ht; cases ht; exact whenOn_kept _ _ hs (doGaugeHibernate_kept _ hs)

theorem execGaugeWake_kept (s : State) (hs : Kept q n s) : ∀ t', (execGaugeWake s) = .next t' → Kept q n t' := by
  intro t ht; cases ht; exact whenOn_kept _ _ hs (doGaugeWake_kept _ hs)

theorem execHibernationHour_kept (s : State) (hs : Kept q n s) : ∀ t', (execHibernationHour s) = .next t' → Kept q n t' := by
  intro t ht; cases ht; exact whenOn_kept _ _ hs (doHibernationHour_kept _ hs)

theorem execGaugeReference_kept (s : State) (hs : Kept q n s) : ∀ t', (execGaugeReference s) = .next t' → Kept q n t' := by
  intro t ht; cases ht; exact whenOn_kept _ _ hs (doGaugeReference_kept _ hs)

theorem execEndOfCharge_kept (s : State) (hs : Kept q n s) : ∀ t', (execEndOfCharge s) = .next t' → Kept q n t' := by
  intro t ht; cases ht; exact whenOn_kept _ _ hs (doEndOfCharge_kept _ hs)

theorem execChargerFault_kept (s : State) (hs : Kept q n s) : ∀ t', (execChargerFault s) = .next t' → Kept q n t' := by
  intro t ht; cases ht; exact whenOn_kept _ _ hs (doChargerFault_kept _ hs)

theorem execPackLowClear_kept (s : State) (hs : Kept q n s) : ∀ t', (execPackLowClear s) = .next t' → Kept q n t' := by
  intro t ht; cases ht; exact whenOn_kept _ _ hs (doPackLowClear_kept _ hs)

theorem execCalRest_kept (s : State) (hs : Kept q n s) : ∀ t', (execCalRest s) = .next t' → Kept q n t' := by
  intro t ht; cases ht; exact whenOn_kept _ _ hs (doCalRest_kept _ hs)

theorem execCalRestTimeout_kept (s : State) (hs : Kept q n s) : ∀ t', (execCalRestTimeout s) = .next t' → Kept q n t' := by
  intro t ht; cases ht; exact whenOn_kept _ _ hs (doCalRestTimeout_kept _ hs)

theorem execGsbRefresh_kept (s : State) (hs : Kept q n s) : ∀ t', (execGsbRefresh s) = .next t' → Kept q n t' := by
  intro t ht; cases ht; exact whenOn_kept _ _ hs (doGsbRefresh_kept _ hs)

theorem execGsbLatch_kept (s : State) (hs : Kept q n s) : ∀ t', (execGsbLatch s) = .next t' → Kept q n t' := by
  intro t ht; cases ht; exact whenOn_kept _ _ hs (doGsbLatch_kept _ hs)

theorem execGsbLoad_kept (s : State) (hs : Kept q n s) : ∀ t', (execGsbLoad s) = .next t' → Kept q n t' := by
  intro t ht; cases ht; exact whenOn_kept _ _ hs (doGsbLoad_kept _ hs)

theorem execGsbNone_kept (s : State) (hs : Kept q n s) : ∀ t', (execGsbNone s) = .next t' → Kept q n t' := by
  intro t ht; cases ht; exact whenOn_kept _ _ hs (doGsbNone_kept _ hs)

theorem execThermalStepDown_kept (s : State) (hs : Kept q n s) : ∀ t', (execThermalStepDown s) = .next t' → Kept q n t' := by
  intro t ht; cases ht; exact whenOn_kept _ _ hs (doThermalStepDown_kept _ hs)

theorem execEnclTempWrite_kept (v : RegWord) (s : State) (hs : Kept q n s) : ∀ t', (execEnclTempWrite v s) = .next t' → Kept q n t' := by
  intro t ht; cases ht; exact whenOn_kept _ _ hs (doEnclTempWrite_kept _ _ hs)

theorem execEnclTempStale_kept (s : State) (hs : Kept q n s) : ∀ t', (execEnclTempStale s) = .next t' → Kept q n t' := by
  intro t ht; cases ht; exact whenOn_kept _ _ hs (doEnclTempStale_kept _ hs)

theorem execMinShareWrite_kept (a : RegAddr) (v : RegWord) (s : State) (hs : Kept q n s) : ∀ t', (execMinShareWrite a v s) = .next t' → Kept q n t' := by
  intro t ht; cases ht; exact whenOn_kept _ _ hs (doMinShareWrite_kept _ _ _ hs)

theorem execFairWindowEnd_kept (s : State) (hs : Kept q n s) : ∀ t', (execFairWindowEnd s) = .next t' → Kept q n t' := by
  intro t ht; cases ht; exact whenOn_kept _ _ hs (doFairWindowEnd_kept _ hs)

theorem execIcreq_kept (x : IcReq) (s : State) (hs : Kept q n s) : ∀ t', (execIcreq x s) = .next t' → Kept q n t' := by
  intro t ht; cases ht; exact whenOn_kept _ _ hs (doIcreq_kept _ _ hs)

theorem execConnect_kept (x : ConnectCmd) (s : State) (hs : Kept q n s) : ∀ t', (execConnect x s) = .next t' → Kept q n t' := by
  intro t ht; cases ht; exact whenOn_kept _ _ hs (doConnect_kept _ _ hs)

theorem execPropertySet_kept (h : CmdHdr) (p : Property) (v : CcValue) (s : State) (hs : Kept q n s) : ∀ t', (execPropertySet h p v s) = .next t' → Kept q n t' := by
  intro t ht; cases ht; exact whenOn_kept _ _ hs (doPropertySet_kept _ _ _ _ hs)

theorem execPropertyGet_kept (h : CmdHdr) (p : Property) (s : State) (hs : Kept q n s) : ∀ t', (execPropertyGet h p s) = .next t' → Kept q n t' := by
  intro t ht; cases ht; exact whenOn_kept _ _ hs (doPropertyGet_kept _ _ _ hs)

theorem execShutdownComplete_kept (i : ℕ) (s : State) (hs : Kept q n s) : ∀ t', (execShutdownComplete i s) = .next t' → Kept q n t' := by
  intro t ht; cases ht; exact whenOn_kept _ _ hs (doShutdownComplete_kept _ _ hs)

theorem execAuthenticationSend_kept (h : CmdHdr) (m : ℕ) (s : State) (hs : Kept q n s) : ∀ t', (execAuthenticationSend h m s) = .next t' → Kept q n t' := by
  intro t ht; cases ht; exact whenOn_kept _ _ hs (doAuthenticationSend_kept _ _ _ hs)

theorem execAuthenticationReceive_kept (h : CmdHdr) (s : State) (hs : Kept q n s) : ∀ t', (execAuthenticationReceive h s) = .next t' → Kept q n t' := by
  intro t ht; cases ht; exact whenOn_kept _ _ hs (doAuthenticationReceive_kept _ _ hs)

theorem execGetLogPage_kept (h : CmdHdr) (lid : ℕ) (off : ℕ) (s : State) (hs : Kept q n s) : ∀ t', (execGetLogPage h lid off s) = .next t' → Kept q n t' := by
  intro t ht; cases ht; exact whenOn_kept _ _ hs (doGetLogPage_kept _ _ _ _ hs)

theorem execIdentify_kept (h : CmdHdr) (cns : ℕ) (csi : ℕ) (s : State) (hs : Kept q n s) : ∀ t', (execIdentify h cns csi s) = .next t' → Kept q n t' := by
  intro t ht; cases ht; exact whenOn_kept _ _ hs (doIdentify_kept _ _ _ _ hs)

theorem execSetFeatures_kept (h : CmdHdr) (fid : ℕ) (save : Bool) (v : ℕ) (s : State) (hs : Kept q n s) : ∀ t', (execSetFeatures h fid save v s) = .next t' → Kept q n t' := by
  intro t ht; cases ht; exact whenOn_kept _ _ hs (doSetFeatures_kept _ _ _ _ _ hs)

theorem execGetFeatures_kept (h : CmdHdr) (fid : ℕ) (s : State) (hs : Kept q n s) : ∀ t', (execGetFeatures h fid s) = .next t' → Kept q n t' := by
  intro t ht; cases ht; exact whenOn_kept _ _ hs (doGetFeatures_kept _ _ _ hs)

theorem execAsynchronousEventRequest_kept (h : CmdHdr) (s : State) (hs : Kept q n s) : ∀ t', (execAsynchronousEventRequest h s) = .next t' → Kept q n t' := by
  intro t ht; cases ht; exact whenOn_kept _ _ hs (doAsynchronousEventRequest_kept _ _ hs)

theorem execKeepAlive_kept (h : CmdHdr) (s : State) (hs : Kept q n s) : ∀ t', (execKeepAlive h s) = .next t' → Kept q n t' := by
  intro t ht; cases ht; exact whenOn_kept _ _ hs (doKeepAlive_kept _ _ hs)

theorem execInvalidCommandOpcode_kept (h : CmdHdr) (_admin : Bool) (_op : ℕ) (s : State) (hs : Kept q n s) : ∀ t', (execInvalidCommandOpcode h _admin _op s) = .next t' → Kept q n t' := by
  intro t ht; cases ht; exact whenOn_kept _ _ hs (doInvalidCommandOpcode_kept _ _ hs)

theorem execSecurityProtocolList_kept (h : CmdHdr) (sp : ℕ) (s : State) (hs : Kept q n s) : ∀ t', (execSecurityProtocolList h sp s) = .next t' → Kept q n t' := by
  intro t ht; cases ht; exact whenOn_kept _ _ hs (doSecurityProtocolList_kept _ _ _ hs)

theorem execNonceRequest_kept (h : CmdHdr) (s : State) (hs : Kept q n s) : ∀ t', (execNonceRequest h s) = .next t' → Kept q n t' := by
  intro t ht; cases ht; exact whenOn_kept _ _ hs (doNonceRequest_kept _ _ hs)

theorem execResetPermit_kept (h : CmdHdr) (x : Permit) (s : State) (hs : Kept q n s) : ∀ t', (execResetPermit h x s) = .next t' → Kept q n t' := by
  intro t ht; cases ht; exact whenOn_kept _ _ hs (doResetPermit_kept _ _ _ hs)

theorem execDamageStatementRequest_kept (h : CmdHdr) (z : ℕ) (c : ℕ) (s : State) (hs : Kept q n s) : ∀ t', (execDamageStatementRequest h z c s) = .next t' → Kept q n t' := by
  intro t ht; cases ht; exact whenOn_kept _ _ hs (doDamageStatementRequest_kept _ _ _ _ hs)

theorem execDamageStatementReceive_kept (h : CmdHdr) (s : State) (hs : Kept q n s) : ∀ t', (execDamageStatementReceive h s) = .next t' → Kept q n t' := by
  intro t ht; cases ht; exact whenOn_kept _ _ hs (doDamageStatementReceive_kept _ _ hs)

theorem execWrite_kept (x : IoCmd) (s : State) (hs : Kept q n s) : ∀ t', (execWrite x s) = .next t' → Kept q n t' := by
  intro t ht; cases ht; exact whenOn_kept _ _ hs (doWrite_kept _ _ hs)

theorem execZoneAppend_kept (x : IoCmd) (s : State) (hs : Kept q n s) : ∀ t', (execZoneAppend x s) = .next t' → Kept q n t' := by
  intro t ht; cases ht; exact whenOn_kept _ _ hs (doZoneAppend_kept _ _ hs)

theorem execAdmission_kept (c : ℕ) (i : ℕ) (s : State) (hs : Kept q n s) : ∀ t', (execAdmission c i s) = .next t' → Kept q n t' := by
  intro t ht; cases ht; exact whenOn_kept _ _ hs (doAdmission_kept _ _ _ hs)

theorem execReadyToTransferRelease_kept (c : ℕ) (i : ℕ) (s : State) (hs : Kept q n s) : ∀ t', (execReadyToTransferRelease c i s) = .next t' → Kept q n t' := by
  intro t ht; cases ht; exact whenOn_kept _ _ hs (doReadyToTransferRelease_kept _ _ _ hs)

theorem execH2cdata_kept (x : H2cData) (s : State) (hs : Kept q n s) : ∀ t', (execH2cdata x s) = .next t' → Kept q n t' := by
  intro t ht; cases ht; exact whenOn_kept _ _ hs (doH2cdata_kept _ _ hs)

theorem execAppendAssign_kept (c : ℕ) (i : ℕ) (s : State) (hs : Kept q n s) : ∀ t', (execAppendAssign c i s) = .next t' → Kept q n t' := by
  intro t ht; cases ht; exact whenOn_kept _ _ hs (doAppendAssign_kept _ _ _ hs)

theorem execWriteCompletionRelease_kept (c : ℕ) (i : ℕ) (s : State) (hs : Kept q n s) : ∀ t', (execWriteCompletionRelease c i s) = .next t' → Kept q n t' := by
  intro t ht; cases ht; exact whenOn_kept _ _ hs (doWriteCompletionRelease_kept _ _ _ hs)

theorem execReGo_kept (e : Fin 2) (s : State) (hs : Kept q n s) : ∀ t', (execReGo e s) = .next t' → Kept q n t' := by
  intro t ht; cases ht; exact whenOn_kept _ _ hs (doReGo_kept _ _ hs)

theorem execRangeVisit_kept (e : Fin 2) (s : State) (hs : Kept q n s) : ∀ t', (execRangeVisit e s) = .next t' → Kept q n t' := by
  intro t ht; cases ht; exact whenOn_kept _ _ hs (doRangeVisit_kept _ _ hs)

theorem execParkedLineApply_kept (e : Fin 2) (l : ℕ) (s : State) (hs : Kept q n s) : ∀ t', (execParkedLineApply e l s) = .next t' → Kept q n t' := by
  intro t ht; cases ht; exact whenOn_kept _ _ hs (doParkedLineApply_kept _ _ _ hs)

theorem execRangeComplete_kept (e : Fin 2) (s : State) (hs : Kept q n s) : ∀ t', (execRangeComplete e s) = .next t' → Kept q n t' := by
  intro t ht; cases ht; exact whenOn_kept _ _ hs (doRangeComplete_kept _ _ hs)

theorem execCleanOnlyCopy_kept (c : ChIx) (s : State) (hs : Kept q n s) : ∀ t', (execCleanOnlyCopy c s) = .next t' → Kept q n t' := by
  intro t ht; cases ht; exact whenOn_kept _ _ hs (doCleanOnlyCopy_kept _ _ hs)

theorem execMergeEntryFlush_kept (i : ℕ) (s : State) (hs : Kept q n s) : ∀ t', (execMergeEntryFlush i s) = .next t' → Kept q n t' := by
  intro t ht; cases ht; exact whenOn_kept _ _ hs (doMergeEntryFlush_kept _ _ hs)

theorem execRepairMapWrite_kept (s : State) (hs : Kept q n s) : ∀ t', (execRepairMapWrite s) = .next t' → Kept q n t' := by
  intro t ht; cases ht; exact whenOn_kept _ _ hs (doRepairMapWrite_kept _ hs)

theorem execEccTestEn_kept (v : Bool) (s : State) (hs : Kept q n s) : ∀ t', (execEccTestEn v s) = .next t' → Kept q n t' := by
  intro t ht; cases ht; exact whenOn_kept _ _ hs (doEccTestEn_kept _ _ hs)

theorem execDevSel_kept (v : RegWord) (s : State) (hs : Kept q n s) : ∀ t', (execDevSel v s) = .next t' → Kept q n t' := by
  intro t ht; cases ht; exact whenOn_kept _ _ hs (doDevSel_kept _ _ hs)

theorem execLinkLossFailTimeout_kept (p : DrvPortIx) (s : State) (hs : Kept q n s) : ∀ t', (execLinkLossFailTimeout p s) = .next t' → Kept q n t' := by
  intro t ht; cases ht; exact whenOn_kept _ _ hs (doLinkLossFailTimeout_kept _ _ hs)

theorem execDeferredDeclaration_kept (g : SigIx) (d : ℕ) (s : State) (hs : Kept q n s) : ∀ t', (execDeferredDeclaration g d s) = .next t' → Kept q n t' := by
  intro t ht; cases ht; exact whenOn_kept _ _ hs (doDeferredDeclaration_kept _ _ _ hs)

theorem execFailGo_kept (g : SigIx) (s : State) (hs : Kept q n s) : ∀ t', (execFailGo g s) = .next t' → Kept q n t' := by
  intro t ht; cases ht; exact whenOn_kept _ _ hs (doFailGo_kept _ _ hs)

theorem execDestageAgeExpired_kept (x : SheetId) (s : State) (hs : Kept q n s) : ∀ t', (execDestageAgeExpired x s) = .next t' → Kept q n t' := by
  intro t ht; cases ht; exact whenOn_kept _ _ hs (doDestageAgeExpired_kept _ _ _ hs)

theorem execUpdateBegin_kept (x : SheetId) (s : State) (hs : Kept q n s) : ∀ t', (execUpdateBegin x s) = .next t' → Kept q n t' := by
  intro t ht; cases ht; exact whenOn_kept _ _ hs (doUpdateBegin_kept _ _ _ hs)

theorem execUpdateReadsComplete_kept (u : ℕ) (r : List RdOffset) (s : State) (hs : Kept q n s) : ∀ t', (execUpdateReadsComplete u r s) = .next t' → Kept q n t' := by
  intro t ht; cases ht; exact whenOn_kept _ _ hs (doUpdateReadsComplete_kept _ _ _ hs)

theorem execUpdateReady_kept (u : ℕ) (s : State) (hs : Kept q n s) : ∀ t', (execUpdateReady u s) = .next t' → Kept q n t' := by
  intro t ht; cases ht; exact whenOn_kept _ _ hs (doUpdateReady_kept _ _ hs)

theorem execFolioWriteComplete_kept (u : ℕ) (p : ℕ) (s : State) (hs : Kept q n s) : ∀ t', (execFolioWriteComplete u p s) = .next t' → Kept q n t' := by
  intro t ht; cases ht; exact whenOn_kept _ _ hs (doFolioWriteComplete_kept _ _ _ hs)

theorem execFlush_kept (h : CmdHdr) (s : State) (hs : Kept q n s) : ∀ t', (execFlush h s) = .next t' → Kept q n t' := by
  intro t ht; cases ht; exact whenOn_kept _ _ hs (doFlush_kept _ _ hs)

theorem execFlushComplete_kept (c : ℕ) (i : ℕ) (s : State) (hs : Kept q n s) : ∀ t', (execFlushComplete c i s) = .next t' → Kept q n t' := by
  intro t ht; cases ht; exact whenOn_kept _ _ hs (doFlushComplete_kept _ _ _ hs)

theorem execBitmapCommit_kept (g : SigIx) (s : State) (hs : Kept q n s) : ∀ t', (execBitmapCommit g s) = .next t' → Kept q n t' := by
  intro t ht; cases ht; exact whenOn_kept _ _ hs (doBitmapCommit_kept _ _ hs)

theorem execBitmapCommitComplete_kept (g : SigIx) (ts : List ℕ) (s : State) (hs : Kept q n s) : ∀ t', (execBitmapCommitComplete g ts s) = .next t' → Kept q n t' := by
  intro t ht; cases ht; exact whenOn_kept _ _ hs (doBitmapCommitComplete_kept _ _ _ hs)

theorem execRegionBitClear_kept (g : SigIx) (r : ℕ) (s : State) (hs : Kept q n s) : ∀ t', (execRegionBitClear g r s) = .next t' → Kept q n t' := by
  intro t ht; cases ht; exact whenOn_kept _ _ hs (doRegionBitClear_kept _ _ _ hs)

theorem execHolderReplace_kept (g : SigIx) (d : ℕ) (s : State) (hs : Kept q n s) : ∀ t', (execHolderReplace g d s) = .next t' → Kept q n t' := by
  intro t ht; cases ht; exact whenOn_kept _ _ hs (doHolderReplace_kept _ _ _ hs)

theorem execResyncItem_kept (x : SheetId) (r : List RdOffset) (s : State) (hs : Kept q n s) : ∀ t', (execResyncItem x r s) = .next t' → Kept q n t' := by
  intro t ht; cases ht; exact whenOn_kept _ _ hs (doResyncItem_kept _ _ _ _ hs)

theorem execStereoHalfLeavesService_kept (h : Half) (s : State) (hs : Kept q n s) : ∀ t', (execStereoHalfLeavesService h s) = .next t' → Kept q n t' := by
  intro t ht; cases ht; exact whenOn_kept _ _ hs (doStereoHalfLeavesService_kept _ _ hs)

theorem execRead_kept (x : IoCmd) (s : State) (hs : Kept q n s) : ∀ t', (execRead x s) = .next t' → Kept q n t' := by
  intro t ht; cases ht; exact whenOn_kept _ _ hs (doRead_kept _ _ hs)

theorem execDriveReadComplete_kept (p : DrvPortIx) (t : ℕ) (bs : List RdBlk) (s : State) (hs : Kept q n s) : ∀ t', (execDriveReadComplete p t bs s) = .next t' → Kept q n t' := by
  intro t ht; cases ht; exact whenOn_kept _ _ hs (doDriveReadComplete_kept _ _ _ _ hs)

theorem execReadReconstruct_kept (x : SheetId) (o : RdOffset) (s : State) (hs : Kept q n s) : ∀ t', (execReadReconstruct x o s) = .next t' → Kept q n t' := by
  intro t ht; cases ht; exact whenOn_kept _ _ hs (doReadReconstruct_kept _ _ _ _ hs)

theorem execRepairWrite_kept (x : SheetId) (p : ℕ) (bs : List (ℕ × RdBlk)) (s : State) (hs : Kept q n s) : ∀ t', (execRepairWrite x p bs s) = .next t' → Kept q n t' := by
  intro t ht; cases ht; exact whenOn_kept _ _ hs (doRepairWrite_kept _ _ _ _ _ hs)

theorem execRepairWriteComplete_kept (x : SheetId) (p : ℕ) (s : State) (hs : Kept q n s) : ∀ t', (execRepairWriteComplete x p s) = .next t' → Kept q n t' := by
  intro t ht; cases ht; exact whenOn_kept _ _ hs (doRepairWriteComplete_kept _ _ _ _ hs)

theorem execSelfTestReadback_kept (x : SheetId) (p : ℕ) (v : Bool) (s : State) (hs : Kept q n s) : ∀ t', (execSelfTestReadback x p v s) = .next t' → Kept q n t' := by
  intro t ht; cases ht; exact whenOn_kept _ _ hs (doSelfTestReadback_kept _ _ _ _ _ hs)

theorem execCorruptionHourRoll_kept (s : State) (hs : Kept q n s) : ∀ t', (execCorruptionHourRoll s) = .next t' → Kept q n t' := by
  intro t ht; cases ht; exact whenOn_kept _ _ hs (doCorruptionHourRoll_kept _ hs)

theorem execProofingItem_kept (g : SigIx) (r : List RdOffset) (s : State) (hs : Kept q n s) : ∀ t', (execProofingItem g r s) = .next t' → Kept q n t' := by
  intro t ht; cases ht; exact whenOn_kept _ _ hs (doProofingItem_kept _ _ _ hs)

theorem execCorrSel_kept (g : SigIx) (v : RegWord) (s : State) (hs : Kept q n s) : ∀ t', (execCorrSel g v s) = .next t' → Kept q n t' := by
  intro t ht; cases ht; exact whenOn_kept _ _ hs (doCorrSel_kept _ _ _ hs)

theorem execCriticalItem_kept (g : SigIx) (r : List RdOffset) (s : State) (hs : Kept q n s) : ∀ t', (execCriticalItem g r s) = .next t' → Kept q n t' := by
  intro t ht; cases ht; exact whenOn_kept _ _ hs (doCriticalItem_kept _ _ _ hs)

theorem execNormalItem_kept (g : SigIx) (r : List RdOffset) (s : State) (hs : Kept q n s) : ∀ t', (execNormalItem g r s) = .next t' → Kept q n t' := by
  intro t ht; cases ht; exact whenOn_kept _ _ hs (doNormalItem_kept _ _ _ hs)

theorem execRebuildItemComplete_kept (x : SheetId) (s : State) (hs : Kept q n s) : ∀ t', (execRebuildItemComplete x s) = .next t' → Kept q n t' := by
  intro t ht; cases ht; exact whenOn_kept _ _ hs (doRebuildItemComplete_kept _ _ _ hs)

theorem execCopybackItem_kept (g : SigIx) (e : ℕ) (r : List RdOffset) (s : State) (hs : Kept q n s) : ∀ t', (execCopybackItem g e r s) = .next t' → Kept q n t' := by
  intro t ht; cases ht; exact whenOn_kept _ _ hs (doCopybackItem_kept _ _ _ _ hs)

theorem execCopybackWriteComplete_kept (g : SigIx) (e : ℕ) (s : State) (hs : Kept q n s) : ∀ t', (execCopybackWriteComplete g e s) = .next t' → Kept q n t' := by
  intro t ht; cases ht; exact whenOn_kept _ _ hs (doCopybackWriteComplete_kept _ _ _ hs)

theorem execEntSel_kept (g : SigIx) (v : RegWord) (s : State) (hs : Kept q n s) : ∀ t', (execEntSel g v s) = .next t' → Kept q n t' := by
  intro t ht; cases ht; exact whenOn_kept _ _ hs (doEntSel_kept _ _ _ hs)

theorem execWindowClaim_kept (g : SigIx) (s : State) (hs : Kept q n s) : ∀ t', (execWindowClaim g s) = .next t' → Kept q n t' := by
  intro t ht; cases ht; exact whenOn_kept _ _ hs (doWindowClaim_kept _ _ hs)

theorem execWindowReadComplete_kept (g : SigIx) (r : List (ℕ × List RdOffset)) (s : State) (hs : Kept q n s) : ∀ t', (execWindowReadComplete g r s) = .next t' → Kept q n t' := by
  intro t ht; cases ht; exact whenOn_kept _ _ hs (doWindowReadComplete_kept _ _ _ hs)

theorem execWindowParityComplete_kept (g : SigIx) (s : State) (hs : Kept q n s) : ∀ t', (execWindowParityComplete g s) = .next t' → Kept q n t' := by
  intro t ht; cases ht; exact whenOn_kept _ _ hs (doWindowParityComplete_kept _ _ hs)

theorem execWindowWriteComplete_kept (g : SigIx) (s : State) (hs : Kept q n s) : ∀ t', (execWindowWriteComplete g s) = .next t' → Kept q n t' := by
  intro t ht; cases ht; exact whenOn_kept _ _ hs (doWindowWriteComplete_kept _ _ hs)

theorem execWindowCheckpointDurable_kept (g : SigIx) (s : State) (hs : Kept q n s) : ∀ t', (execWindowCheckpointDurable g s) = .next t' → Kept q n t' := by
  intro t ht; cases ht; exact whenOn_kept _ _ hs (doWindowCheckpointDurable_kept _ _ hs)

theorem execDriveLinkUp_kept (p : DrvPortIx) (r : LinkRate) (s : State) (hs : Kept q n s) : ∀ t', (execDriveLinkUp p r s) = .next t' → Kept q n t' := by
  intro t ht; cases ht; exact whenOn_kept _ _ hs (doDriveLinkUp_kept _ _ _ hs)

theorem execDriveClassify_kept (p : DrvPortIx) (d : DriveInfo) (a : LabelCopy) (b : LabelCopy) (s : State) (hs : Kept q n s) : ∀ t', (execDriveClassify p d a b s) = .next t' → Kept q n t' := by
  intro t ht; cases ht; exact whenOn_kept _ _ hs (doDriveClassify_kept _ _ _ _ _ hs)

theorem execBringupTimeout_kept (p : DrvPortIx) (s : State) (hs : Kept q n s) : ∀ t', (execBringupTimeout p s) = .next t' → Kept q n t' := by
  intro t ht; cases ht; exact whenOn_kept _ _ hs (doBringupTimeout_kept _ _ hs)

theorem execCommandTimeout_kept (p : DrvPortIx) (t : ℕ) (s : State) (hs : Kept q n s) : ∀ t', (execCommandTimeout p t s) = .next t' → Kept q n t' := by
  intro t ht; cases ht; exact whenOn_kept _ _ hs (doCommandTimeout_kept _ _ _ hs)

theorem execLadderStepTimeout_kept (p : DrvPortIx) (s : State) (hs : Kept q n s) : ∀ t', (execLadderStepTimeout p s) = .next t' → Kept q n t' := by
  intro t ht; cases ht; exact whenOn_kept _ _ hs (doLadderStepTimeout_kept _ _ hs)

theorem execLadderStepSuccess_kept (p : DrvPortIx) (s : State) (hs : Kept q n s) : ∀ t', (execLadderStepSuccess p s) = .next t' → Kept q n t' := by
  intro t ht; cases ht; exact whenOn_kept _ _ hs (doLadderStepSuccess_kept _ _ hs)

theorem execDriveCommandError_kept (p : DrvPortIx) (t : ℕ) (bs : List ℕ) (ds : List RdBlk) (s : State) (hs : Kept q n s) : ∀ t', (execDriveCommandError p t bs ds s) = .next t' → Kept q n t' := by
  intro t ht; cases ht; exact whenOn_kept _ _ hs (doDriveCommandError_kept _ _ _ _ _ hs)

theorem execLinkCrcBurst_kept (p : DrvPortIx) (n0 : ℕ) (s : State) (hs : Kept q n s) : ∀ t', (execLinkCrcBurst p n0 s) = .next t' → Kept q n t' := by
  intro t ht; cases ht; exact whenOn_kept _ _ hs (doLinkCrcBurst_kept _ _ _ hs)

theorem execLinkTest_kept (p : DrvPortIx) (s : State) (hs : Kept q n s) : ∀ t', (execLinkTest p s) = .next t' → Kept q n t' := by
  intro t ht; cases ht; exact whenOn_kept _ _ hs (doLinkTest_kept _ _ hs)

theorem execLinkSelfTestEnd_kept (p : DrvPortIx) (v : ℕ) (c : ℕ) (s : State) (hs : Kept q n s) : ∀ t', (execLinkSelfTestEnd p v c s) = .next t' → Kept q n t' := by
  intro t ht; cases ht; exact whenOn_kept _ _ hs (doLinkSelfTestEnd_kept _ _ _ _ hs)

theorem execDriveLinkLoss_kept (p : DrvPortIx) (s : State) (hs : Kept q n s) : ∀ t', (execDriveLinkLoss p s) = .next t' → Kept q n t' := by
  intro t ht; cases ht; exact whenOn_kept _ _ hs (doDriveLinkLoss_kept _ _ hs)

theorem execPresentWrite_kept (p : DrvPortIx) (v : Bool) (s : State) (hs : Kept q n s) : ∀ t', (execPresentWrite p v s) = .next t' → Kept q n t' := by
  intro t ht; cases ht; exact whenOn_kept _ _ hs (doPresentWrite_kept _ _ _ hs)

theorem execPwrOnWrite_kept (p : DrvPortIx) (v : Bool) (s : State) (hs : Kept q n s) : ∀ t', (execPwrOnWrite p v s) = .next t' → Kept q n t' := by
  intro t ht; cases ht; exact whenOn_kept _ _ hs (doPwrOnWrite_kept _ _ _ hs)

theorem execClaim_kept (p : DrvPortIx) (s : State) (hs : Kept q n s) : ∀ t', (execClaim p s) = .next t' → Kept q n t' := by
  intro t ht; cases ht; exact whenOn_kept _ _ hs (doClaim_kept _ _ hs)

theorem execDrivePortReset_kept (p : DrvPortIx) (s : State) (hs : Kept q n s) : ∀ t', (execDrivePortReset p s) = .next t' → Kept q n t' := by
  intro t ht; cases ht; exact whenOn_kept _ _ hs (doDrivePortReset_kept _ _ hs)

theorem execAbsentLimitExpired_kept (g : SigIx) (d : ℕ) (s : State) (hs : Kept q n s) : ∀ t', (execAbsentLimitExpired g d s) = .next t' → Kept q n t' := by
  intro t ht; cases ht; exact whenOn_kept _ _ hs (doAbsentLimitExpired_kept _ _ _ hs)

theorem execCatchupItem_kept (g : SigIx) (d : ℕ) (t : ℕ) (r : List RdOffset) (s : State) (hs : Kept q n s) : ∀ t', (execCatchupItem g d t r s) = .next t' → Kept q n t' := by
  intro t ht; cases ht; exact whenOn_kept _ _ hs (doCatchupItem_kept _ _ _ _ _ hs)

theorem execSataFormatItem_kept (p : DrvPortIx) (s : State) (hs : Kept q n s) : ∀ t', (execSataFormatItem p s) = .next t' → Kept q n t' := by
  intro t ht; cases ht; exact whenOn_kept _ _ hs (doSataFormatItem_kept _ _ hs)

theorem execFormatPoll_kept (p : DrvPortIx) (n0 : ℕ) (s : State) (hs : Kept q n s) : ∀ t', (execFormatPoll p n0 s) = .next t' → Kept q n t' := by
  intro t ht; cases ht; exact whenOn_kept _ _ hs (doFormatPoll_kept _ _ _ hs)

theorem execFormatComplete_kept (p : DrvPortIx) (s : State) (hs : Kept q n s) : ∀ t', (execFormatComplete p s) = .next t' → Kept q n t' := by
  intro t ht; cases ht; exact whenOn_kept _ _ hs (doFormatComplete_kept _ _ hs)

theorem execFormatTimeout_kept (p : DrvPortIx) (s : State) (hs : Kept q n s) : ∀ t', (execFormatTimeout p s) = .next t' → Kept q n t' := by
  intro t ht; cases ht; exact whenOn_kept _ _ hs (doFormatTimeout_kept _ _ hs)

theorem execMemberSel_kept (g : SigIx) (v : RegWord) (s : State) (hs : Kept q n s) : ∀ t', (execMemberSel g v s) = .next t' → Kept q n t' := by
  intro t ht; cases ht; exact whenOn_kept _ _ hs (doMemberSel_kept _ _ _ hs)

theorem execMapGo_kept (g : SigIx) (s : State) (hs : Kept q n s) : ∀ t', (execMapGo g s) = .next t' → Kept q n t' := by
  intro t ht; cases ht; exact whenOn_kept _ _ hs (doMapGo_kept _ _ hs)

theorem execImgVerify_kept (s : State) (hs : Kept q n s) : ∀ t', (execImgVerify s) = .next t' → Kept q n t' := by
  intro t ht; cases ht; exact whenOn_kept _ _ hs (doImgVerify_kept _ hs)

theorem execImgCommit_kept (s : State) (hs : Kept q n s) : ∀ t', (execImgCommit s) = .next t' → Kept q n t' := by
  intro t ht; cases ht; exact whenOn_kept _ _ hs (doImgCommit_kept _ hs)

theorem execImgConfirm_kept (s : State) (hs : Kept q n s) : ∀ t', (execImgConfirm s) = .next t' → Kept q n t' := by
  intro t ht; cases ht; exact whenOn_kept _ _ hs (doImgConfirm_kept _ hs)

theorem execStageClear_kept (s : State) (hs : Kept q n s) : ∀ t', (execStageClear s) = .next t' → Kept q n t' := by
  intro t ht; cases ht; exact whenOn_kept _ _ hs (doStageClear_kept _ hs)

theorem execArbFuseAdvance_kept (s : State) (hs : Kept q n s) : ∀ t', (execArbFuseAdvance s) = .next t' → Kept q n t' := by
  intro t ht; cases ht; exact whenOn_kept _ _ hs (doArbFuseAdvance_kept _ hs)

theorem execErrataFlush_kept (s : State) (hs : Kept q n s) : ∀ t', (execErrataFlush s) = .next t' → Kept q n t' := by
  intro t ht; cases ht; exact whenOn_kept _ _ hs (doErrataFlush_kept _ hs)

theorem execLogFlush_kept (s : State) (hs : Kept q n s) : ∀ t', (execLogFlush s) = .next t' → Kept q n t' := by
  intro t ht; cases ht; exact whenOn_kept _ _ hs (doLogFlush_kept _ hs)

theorem execFreeze_kept (v : Bool) (s : State) (hs : Kept q n s) : ∀ t', (execFreeze v s) = .next t' → Kept q n t' := by
  intro t ht; cases ht; exact whenOn_kept _ _ hs (doFreeze_kept _ _ hs)

theorem execFreezeExpired_kept (s : State) (hs : Kept q n s) : ∀ t', (execFreezeExpired s) = .next t' → Kept q n t' := by
  intro t ht; cases ht; exact whenOn_kept _ _ hs (doFreezeExpired_kept _ hs)

theorem execLogClear_kept (s : State) (hs : Kept q n s) : ∀ t', (execLogClear s) = .next t' → Kept q n t' := by
  intro t ht; cases ht; exact whenOn_kept _ _ hs (doLogClear_kept _ hs)

theorem execLogClearComplete_kept (s : State) (hs : Kept q n s) : ∀ t', (execLogClearComplete s) = .next t' → Kept q n t' := by
  intro t ht; cases ht; exact whenOn_kept _ _ hs (doLogClearComplete_kept _ hs)

theorem execRateWindowEnd_kept (code : ℕ) (s : State) (hs : Kept q n s) : ∀ t', (execRateWindowEnd code s) = .next t' → Kept q n t' := by
  intro t ht; cases ht; exact whenOn_kept _ _ hs (doRateWindowEnd_kept _ _ hs)

theorem execAnchorGo_kept (s : State) (hs : Kept q n s) : ∀ t', (execAnchorGo s) = .next t' → Kept q n t' := by
  intro t ht; cases ht; exact whenOn_kept _ _ hs (doAnchorGo_kept _ hs)

theorem execDmaGo_kept (c : Fin 64) (s : State) (hs : Kept q n s) : ∀ t', (execDmaGo c s) = .next t' → Kept q n t' := by
  intro t ht; cases ht; exact whenOn_kept _ _ hs (doDmaGo_kept _ _ hs)

theorem execDmaAbort_kept (c : Fin 64) (s : State) (hs : Kept q n s) : ∀ t', (execDmaAbort c s) = .next t' → Kept q n t' := by
  intro t ht; cases ht; exact whenOn_kept _ _ hs (doDmaAbort_kept _ _ hs)

theorem execDmaStep_kept (c : Fin 64) (s : State) (hs : Kept q n s) : ∀ t', (execDmaStep c s) = .next t' → Kept q n t' := by
  intro t ht; cases ht; exact whenOn_kept _ _ hs (doDmaStep_kept _ _ hs)

theorem execBusErrorRetry_kept (c : Fin 64) (k : BeatKind) (a : ℕ) (ok : Bool) (s : State) (hs : Kept q n s) : ∀ t', (execBusErrorRetry c k a ok s) = .next t' → Kept q n t' := by
  intro t ht; cases ht; exact whenOn_kept _ _ hs (doBusErrorRetry_kept _ _ _ _ _ hs)

theorem execSharedStopRestart_kept (s : State) (hs : Kept q n s) : ∀ t', (execSharedStopRestart s) = .next t' → Kept q n t' := by
  intro t ht; cases ht; exact whenOn_kept _ _ hs (doSharedStopRestart_kept _ hs)

theorem execZoneOpen_kept (x : ZoneCmd) (s : State) (hs : Kept q n s) : ∀ t', (execZoneOpen x s) = .next t' → Kept q n t' := by
  intro t ht; cases ht; exact whenOn_kept _ _ hs (doZoneSend_kept _ _ _ hs)

theorem execZoneClose_kept (x : ZoneCmd) (s : State) (hs : Kept q n s) : ∀ t', (execZoneClose x s) = .next t' → Kept q n t' := by
  intro t ht; cases ht; exact whenOn_kept _ _ hs (doZoneSend_kept _ _ _ hs)

theorem execZoneFinish_kept (x : ZoneCmd) (s : State) (hs : Kept q n s) : ∀ t', (execZoneFinish x s) = .next t' → Kept q n t' := by
  intro t ht; cases ht; exact whenOn_kept _ _ hs (doZoneSend_kept _ _ _ hs)

theorem execZoneReset_kept (x : ZoneCmd) (s : State) (hs : Kept q n s) : ∀ t', (execZoneReset x s) = .next t' → Kept q n t' := by
  intro t ht; cases ht; exact whenOn_kept _ _ hs (doZoneSend_kept _ _ _ hs)

theorem execZoneOffline_kept (x : ZoneCmd) (s : State) (hs : Kept q n s) : ∀ t', (execZoneOffline x s) = .next t' → Kept q n t' := by
  intro t ht; cases ht; exact whenOn_kept _ _ hs (doZoneSend_kept _ _ _ hs)

theorem execZoneActionDeferred_kept (n0 : NsIx) (z : ℕ) (s : State) (hs : Kept q n s) : ∀ t', (execZoneActionDeferred n0 z s) = .next t' → Kept q n t' := by
  intro t ht; cases ht; exact whenOn_kept _ _ hs (doZoneActionDeferred_kept _ _ _ hs)

theorem execSealDigest_kept (n0 : NsIx) (z : ℕ) (b : List (ℕ × Option Blk)) (s : State) (hs : Kept q n s) : ∀ t', (execSealDigest n0 z b s) = .next t' → Kept q n t' := by
  intro t ht; cases ht; exact whenOn_kept _ _ hs (doSealDigest_kept _ _ _ _ hs)

theorem execColophonSigned_kept (n0 : NsIx) (z : ℕ) (s : State) (hs : Kept q n s) : ∀ t', (execColophonSigned n0 z s) = .next t' → Kept q n t' := by
  intro t ht; cases ht; exact whenOn_kept _ _ hs (doColophonSigned_kept _ _ _ hs)

theorem execPermitReset_kept (n0 : NsIx) (z : ℕ) (s : State) (hs : Kept q n s) : ∀ t', (execPermitReset n0 z s) = .next t' → Kept q n t' := by
  intro t ht; cases ht; exact whenOn_kept _ _ hs (doPermitReset_kept _ _ _ hs)

theorem execReportZones_kept (x : ReportCmd) (s : State) (hs : Kept q n s) : ∀ t', (execReportZones x s) = .next t' → Kept q n t' := by
  intro t ht; cases ht; exact whenOn_kept _ _ hs (doReportZones_kept _ _ hs)

theorem execOztSel_kept (v : RegWord) (s : State) (hs : Kept q n s) : ∀ t', (execOztSel v s) = .next t' → Kept q n t' := by
  intro t ht; cases ht; exact whenOn_kept _ _ hs (doOztSel_kept _ _ hs)

theorem execInputLow_kept (b : Bool) (mv : ℕ) (s : State) (hs : Kept q n s) : ∀ t', (execInputLow b mv s) = .next t' → Kept q n t' := by
  intro t ht; cases ht; exact whenOn_kept _ _ hs (doInputLow_kept _ _ _ hs)

theorem execInputHealthy_kept (b : Bool) (mv : ℕ) (s : State) (hs : Kept q n s) : ∀ t', (execInputHealthy b mv s) = .next t' → Kept q n t' := by
  intro t ht; cases ht; exact whenOn_kept _ _ hs (doInputHealthy_kept _ _ _ hs)

theorem execRideThroughExpired_kept (s : State) (hs : Kept q n s) : ∀ t', (execRideThroughExpired s) = .next t' → Kept q n t' := by
  intro t ht; cases ht; exact whenOn_kept _ _ hs (doRideThroughExpired_kept _ hs)

theorem execPwrfailAsserted_kept (s : State) (hs : Kept q n s) : ∀ t', (execPwrfailAsserted s) = .next t' → Kept q n t' := by
  intro t ht; cases ht; exact whenOn_kept _ _ hs (doPwrfail_kept _ _ hs)

theorem execPwrfailDeasserted_kept (s : State) (hs : Kept q n s) : ∀ t', (execPwrfailDeasserted s) = .next t' → Kept q n t' := by
  intro t ht; cases ht; exact whenOn_kept _ _ hs (doPwrfail_kept _ _ hs)

theorem execPwrfailStuck_kept (s : State) (hs : Kept q n s) : ∀ t', (execPwrfailStuck s) = .next t' → Kept q n t' := by
  intro t ht; cases ht; exact whenOn_kept _ _ hs (doPwrfailStuck_kept _ hs)

theorem execPwrfailTrusted_kept (s : State) (hs : Kept q n s) : ∀ t', (execPwrfailTrusted s) = .next t' → Kept q n t' := by
  intro t ht; cases ht; exact whenOn_kept _ _ hs (doPwrfailTrusted_kept _ hs)

theorem execCastComplete_kept (s : State) (hs : Kept q n s) : ∀ t', (execCastComplete s) = .next t' → Kept q n t' := by
  intro t ht; cases ht; exact whenOn_kept _ _ hs (doCastComplete_kept _ hs)

theorem execResumeFromCase_kept (s : State) (hs : Kept q n s) : ∀ t', (execResumeFromCase s) = .next t' → Kept q n t' := by
  intro t ht; cases ht; exact whenOn_kept _ _ hs (doResumeFromCase_kept _ hs)

theorem execSlotEraseComplete_kept (s : State) (hs : Kept q n s) : ∀ t', (execSlotEraseComplete s) = .next t' → Kept q n t' := by
  intro t ht; cases ht; exact whenOn_kept _ _ hs (doSlotEraseComplete_kept _ hs)

theorem execRecastComplete_kept (lost : List LostBody) (ok : Bool) (s : State) (hs : Kept q n s) : ∀ t', (execRecastComplete lost ok s) = .next t' → Kept q n t' := by
  intro t ht; cases ht; exact whenOn_kept _ _ hs (doRecastComplete_kept _ _ _ hs)

theorem execCastConsumed_kept (s : State) (hs : Kept q n s) : ∀ t', (execCastConsumed s) = .next t' → Kept q n t' := by
  intro t ht; cases ht; exact whenOn_kept _ _ hs (doCastConsumed_kept _ hs)

theorem execCastAbandon_kept (s : State) (hs : Kept q n s) : ∀ t', (execCastAbandon s) = .next t' → Kept q n t' := by
  intro t ht; cases ht; exact whenOn_kept _ _ hs (doCastAbandon_kept _ hs)

theorem execReleaseGo_kept (s : State) (hs : Kept q n s) : ∀ t', (execReleaseGo s) = .next t' → Kept q n t' := by
  intro t ht; cases ht; exact whenOn_kept _ _ hs (doReleaseGo_kept _ hs)

theorem execReleaseUpdatesRetired_kept (s : State) (hs : Kept q n s) : ∀ t', (execReleaseUpdatesRetired s) = .next t' → Kept q n t' := by
  intro t ht; cases ht; exact whenOn_kept _ _ hs (doReleaseUpdatesRetired_kept _ hs)

theorem execReleaseComplete_kept (s : State) (hs : Kept q n s) : ∀ t', (execReleaseComplete s) = .next t' → Kept q n t' := by
  intro t ht; cases ht; exact whenOn_kept _ _ hs (doReleaseComplete_kept _ hs)

theorem execSwitchOverVerdict_kept (p : Fin 14) (a : Bool) (b : Bool) (s : State) (hs : Kept q n s) : ∀ t', (execSwitchOverVerdict p a b s) = .next t' → Kept q n t' := by
  intro t ht; cases ht; exact whenOn_kept _ _ hs (settleCore_kept _ (doSwitchOverVerdict_kept _ _ _ _ hs))

theorem execHeldImpressionRelease_kept (p : Fin 14) (a : ℕ) (b : ℕ) (s : State) (hs : Kept q n s) : ∀ t', (execHeldImpressionRelease p a b s) = .next t' → Kept q n t' := by
  intro t ht; cases ht; exact whenOn_kept _ _ hs (settleCore_kept _ (doHeldImpressionRelease_kept _ _ _ _ hs))

theorem execAdoptionRelease_kept (p : Fin 14) (s : State) (hs : Kept q n s) : ∀ t', (execAdoptionRelease p s) = .next t' → Kept q n t' := by
  intro t ht; cases ht; exact whenOn_kept _ _ hs (settleCore_kept _ (doAdoptionRelease_kept _ _ hs))

theorem execSimplexSelfTest_kept (p : Fin 14) (pass : Bool) (s : State) (hs : Kept q n s) : ∀ t', (execSimplexSelfTest p pass s) = .next t' → Kept q n t' := by
  intro t ht; cases ht; exact whenOn_kept _ _ hs (settleCore_kept _ (doSimplexSelfTest_kept _ _ _ hs))

theorem execPatrolScrub_kept (c : ChIx) (r : WordResult) (h : WordHolds) (w : ℕ) (s : State) (hs : Kept q n s) : ∀ t', (execPatrolScrub c r h w s) = .next t' → Kept q n t' := by
  intro t ht; cases ht; exact whenOn_kept _ _ hs (settleCore_kept _ (doPatrolScrub_kept _ _ _ _ _ hs))

theorem execCaseSelfTest_kept (c : ChIx) (r : List DevMismatch) (s : State) (hs : Kept q n s) : ∀ t', (execCaseSelfTest c r s) = .next t' → Kept q n t' := by
  intro t ht; cases ht; exact whenOn_kept _ _ hs (settleCore_kept _ (doCaseSelfTest_kept _ _ _ hs))

theorem execImageJudgeComplete_kept (s : State) (hs : Kept q n s) : ∀ t', (execImageJudgeComplete s) = .next t' → Kept q n t' := by
  intro t ht; cases ht; exact whenOn_kept _ _ hs (doImageJudgeComplete_kept _ hs)

theorem execImageStoreComplete_kept (s : State) (hs : Kept q n s) : ∀ t', (execImageStoreComplete s) = .next t' → Kept q n t' := by
  intro t ht; cases ht; exact whenOn_kept _ _ hs (doImageStoreComplete_kept _ hs)

theorem execFountProbeTimeout_kept (s : State) (hs : Kept q n s) : ∀ t', (execFountProbeTimeout s) = .next t' → Kept q n t' := by
  intro t ht; cases ht; exact whenOn_kept _ _ hs (doFountProbeTimeout_kept _ hs)

theorem execPowerQualifyEnd_kept (packId : ℕ) (s : State) (hs : Kept q n s) : ∀ t', (execPowerQualifyEnd packId s) = .next t' → Kept q n t' := by
  intro t ht; cases ht; exact whenOn_kept _ _ hs (doPowerQualifyEnd_kept _ _ hs)

theorem execPrechargeDone_kept (s : State) (hs : Kept q n s) : ∀ t', (execPrechargeDone s) = .next t' → Kept q n t' := by
  intro t ht; cases ht; exact whenOn_kept _ _ hs (doPrechargeDone_kept _ hs)

theorem execPrechargeTimeout_kept (s : State) (hs : Kept q n s) : ∀ t', (execPrechargeTimeout s) = .next t' → Kept q n t' := by
  intro t ht; cases ht; exact whenOn_kept _ _ hs (doPrechargeTimeout_kept _ hs)

theorem execSelfTestEnd_kept (es : List ℕ) (cs : List ℕ) (a : Bool) (b : Bool) (r : Bool) (s : State) (hs : Kept q n s) : ∀ t', (execSelfTestEnd es cs a b r s) = .next t' → Kept q n t' := by
  intro t ht; cases ht; exact whenOn_kept _ _ hs (doSelfTestEnd_kept _ _ _ _ _ _ hs)

theorem execCaseInitEnd_kept (cs : List ℕ) (s : State) (hs : Kept q n s) : ∀ t', (execCaseInitEnd cs s) = .next t' → Kept q n t' := by
  intro t ht; cases ht; exact whenOn_kept _ _ hs (doCaseInitEnd_kept _ _ hs)

theorem execKeyWaitExit_kept (s : State) (hs : Kept q n s) : ∀ t', (execKeyWaitExit s) = .next t' → Kept q n t' := by
  intro t ht; cases ht; exact whenOn_kept _ _ hs (doKeyWaitExit_kept _ hs)

theorem execMaintGo_kept (s : State) (hs : Kept q n s) : ∀ t', (execMaintGo s) = .next t' → Kept q n t' := by
  intro t ht; cases ht; exact whenOn_kept _ _ hs (doMaintGo_kept _ hs)

theorem execMaintExit_kept (s : State) (hs : Kept q n s) : ∀ t', (execMaintExit s) = .next t' → Kept q n t' := by
  intro t ht; cases ht; exact whenOn_kept _ _ hs (doMaintExit_kept _ hs)

theorem execResetNAsserted_kept (s : State) (hs : Kept q n s) : ∀ t', (execResetNAsserted s) = .next t' → Kept q n t' := by
  intro t ht; cases ht; exact whenOn_kept _ _ hs (doResetNAsserted_kept _ hs)

theorem execResetNReleased_kept (s : State) (hs : Kept q n s) : ∀ t', (execResetNReleased s) = .next t' → Kept q n t' := by
  intro t ht; cases ht; exact whenOn_kept _ _ hs (doResetNReleased_kept _ hs)

theorem execResetCmd_kept (v : BitVec 16) (s : State) (hs : Kept q n s) : ∀ t', (execResetCmd v s) = .next t' → Kept q n t' := by
  intro t ht; cases ht; exact whenOn_kept _ _ hs (doResetCmd_kept _ _ hs)

theorem execCounterRecordWrite_kept (s : State) (hs : Kept q n s) : ∀ t', (execCounterRecordWrite s) = .next t' → Kept q n t' := by
  intro t ht; cases ht; exact whenOn_kept _ _ hs (doCounterRecordWrite_kept _ hs)

theorem execSignatureCreate_kept (g : SigIx) (s : State) (hs : Kept q n s) : ∀ t', (execSignatureCreate g s) = .next t' → Kept q n t' := by
  intro t ht; cases ht; exact whenOn_kept _ _ hs (doSignatureCreate_kept _ _ hs)

theorem execSignatureEnterService_kept (g : SigIx) (x : AsmFound) (s : State) (hs : Kept q n s) : ∀ t', (execSignatureEnterService g x s) = .next t' → Kept q n t' := by
  intro t ht; cases ht; exact whenOn_kept _ _ hs (doSignatureEnterService_kept _ _ _ hs)

theorem execAsmWaitExpired_kept (s : State) (hs : Kept q n s) : ∀ t', (execAsmWaitExpired s) = .next t' → Kept q n t' := by
  intro t ht; cases ht; exact whenOn_kept _ _ hs (doAsmWaitExpired_kept _ hs)

theorem execAsmDone_kept (s : State) (hs : Kept q n s) : ∀ t', (execAsmDone s) = .next t' → Kept q n t' := by
  intro t ht; cases ht; exact whenOn_kept _ _ hs (doAsmDone_kept _ hs)

theorem execAsmForce_kept (m : BitVec 16) (s : State) (hs : Kept q n s) : ∀ t', (execAsmForce m s) = .next t' → Kept q n t' := by
  intro t ht; cases ht; exact whenOn_kept _ _ hs (doAsmForce_kept _ _ hs)

theorem execAssembleEnd_kept (s : State) (hs : Kept q n s) : ∀ t', (execAssembleEnd s) = .next t' → Kept q n t' := by
  intro t ht; cases ht; exact whenOn_kept _ _ hs (doAssembleEnd_kept _ hs)

theorem execKekLoad_kept (s : State) (hs : Kept q n s) : ∀ t', (execKekLoad s) = .next t' → Kept q n t' := by
  intro t ht; cases ht; exact whenOn_kept _ _ hs (doKekLoad_kept _ hs)

theorem execKrecImport_kept (s : State) (hs : Kept q n s) : ∀ t', (execKrecImport s) = .next t' → Kept q n t' := by
  intro t ht; cases ht; exact whenOn_kept _ _ hs (doKrecImport_kept _ hs)

theorem execKekRotate_kept (s : State) (hs : Kept q n s) : ∀ t', (execKekRotate s) = .next t' → Kept q n t' := by
  intro t ht; cases ht; exact whenOn_kept _ _ hs (doKekRotate_kept _ hs)

theorem execKekRotationComplete_kept (s : State) (hs : Kept q n s) : ∀ t', (execKekRotationComplete s) = .next t' → Kept q n t' := by
  intro t ht; cases ht; exact whenOn_kept _ _ hs (doKekRotationComplete_kept _ hs)

theorem execSecLoad_kept (s : State) (hs : Kept q n s) : ∀ t', (execSecLoad s) = .next t' → Kept q n t' := by
  intro t ht; cases ht; exact whenOn_kept _ _ hs (doSecLoad_kept _ hs)

theorem execRngHealthFail_kept (s : State) (hs : Kept q n s) : ∀ t', (execRngHealthFail s) = .next t' → Kept q n t' := by
  intro t ht; cases ht; exact whenOn_kept _ _ hs (doRngHealthFail_kept _ hs)

theorem execTamperEdge_kept (s : State) (hs : Kept q n s) : ∀ t', (execTamperEdge s) = .next t' → Kept q n t' := by
  intro t ht; cases ht; exact whenOn_kept _ _ hs (doTamperEdge_kept _ hs)

theorem execTamperClearDone_kept (s : State) (hs : Kept q n s) : ∀ t', (execTamperClearDone s) = .next t' → Kept q n t' := by
  intro t ht; cases ht; exact whenOn_kept _ _ hs (doTamperClearDone_kept _ hs)

theorem execAttnEdge_kept (s : State) (hs : Kept q n s) : ∀ t', (execAttnEdge s) = .next t' → Kept q n t' := by
  intro t ht; cases ht; exact whenOn_kept _ _ hs (doAttnEdge_kept _ hs)

theorem execAttnStuck_kept (s : State) (hs : Kept q n s) : ∀ t', (execAttnStuck s) = .next t' → Kept q n t' := by
  intro t ht; cases ht; exact whenOn_kept _ _ hs (doAttnStuck_kept _ hs)

theorem execInputEnable_kept (b : Bool) (mv : ℕ) (s : State) (hs : Kept q n s) : ∀ t', (execInputEnable b mv s) = .next t' → Kept q n t' := by
  intro t ht; cases ht; exact whenOn_kept _ _ hs (doInputEnable_kept _ _ _ hs)

theorem execInputOvercurrent_kept (b : Bool) (s : State) (hs : Kept q n s) : ∀ t', (execInputOvercurrent b s) = .next t' → Kept q n t' := by
  intro t ht; cases ht; exact whenOn_kept _ _ hs (doInputOvercurrent_kept _ _ hs)

theorem execInputStageRetry_kept (b : Bool) (s : State) (hs : Kept q n s) : ∀ t', (execInputStageRetry b s) = .next t' → Kept q n t' := by
  intro t ht; cases ht; exact whenOn_kept _ _ hs (doInputStageRetry_kept _ _ hs)

theorem execInputOvervoltage_kept (b : Bool) (mv : ℕ) (s : State) (hs : Kept q n s) : ∀ t', (execInputOvervoltage b mv s) = .next t' → Kept q n t' := by
  intro t ht; cases ht; exact whenOn_kept _ _ hs (doInputOvervoltage_kept _ _ _ hs)

theorem execInputStageOff_kept (b : Bool) (mv : ℕ) (s : State) (hs : Kept q n s) : ∀ t', (execInputStageOff b mv s) = .next t' → Kept q n t' := by
  intro t ht; cases ht; exact whenOn_kept _ _ hs (doInputStageOff_kept _ _ _ hs)

theorem execBusTakeover_kept (mv : ℕ) (s : State) (hs : Kept q n s) : ∀ t', (execBusTakeover mv s) = .next t' → Kept q n t' := by
  intro t ht; cases ht; exact whenOn_kept _ _ hs (doBusTakeover_kept _ _ hs)

theorem execSnapGo_kept (s : State) (hs : Kept q n s) : ∀ t', (execSnapGo s) = .next t' → Kept q n t' := by
  intro t ht; cases ht; exact whenOn_kept _ _ hs (doSnapGo_kept _ hs)

theorem execRegisterWrite_kept (a : RegAddr) (v : RegWord) (s : State) (hs : Kept q n s) : ∀ t', (execRegisterWrite a v s) = .next t' → Kept q n t' := by
  intro t ht; cases ht; exact whenOn_kept _ _ hs (doRegisterWrite_kept _ _ _ hs)

theorem execWinSel_kept (v : RegWord) (s : State) (hs : Kept q n s) : ∀ t', (execWinSel v s) = .next t' → Kept q n t' := by
  intro t ht; cases ht; exact whenOn_kept _ _ hs (doWinSel_kept _ _ hs)

theorem execWindowAccess_kept (w : Option RegWord) (s : State) (hs : Kept q n s) : ∀ t', (execWindowAccess w s) = .next t' → Kept q n t' := by
  intro t ht; cases ht; exact whenOn_kept _ _ hs (doWindowAccess_kept _ _ hs)

theorem execEntdaa_kept (a : ℕ) (s : State) (hs : Kept q n s) : ∀ t', (execEntdaa a s) = .next t' → Kept q n t' := by
  intro t ht; cases ht; exact onBus_kept _ _ (fun _ h => doEntdaa_kept _ _ h) hs

theorem execSetdasa_kept (a : ℕ) (s : State) (hs : Kept q n s) : ∀ t', (execSetdasa a s) = .next t' → Kept q n t' := by
  intro t ht; cases ht; exact onBus_kept _ _ (fun _ h => doSetdasa_kept _ _ h) hs

theorem execSetnewda_kept (a : ℕ) (s : State) (hs : Kept q n s) : ∀ t', (execSetnewda a s) = .next t' → Kept q n t' := by
  intro t ht; cases ht; exact onAddr_kept _ _ (fun _ h => doSetnewda_kept _ _ h) hs

theorem execRstdaa_kept (s : State) (hs : Kept q n s) : ∀ t', (execRstdaa s) = .next t' → Kept q n t' := by
  intro t ht; cases ht; exact onBus_kept _ _ (fun _ h => doRstdaa_kept _ h) hs

theorem execGetpid_kept (s : State) (hs : Kept q n s) : ∀ t', (execGetpid s) = .next t' → Kept q n t' := by
  intro t ht; cases ht; exact onAddr_kept _ _ (fun _ h => doGetpid_kept _ h) hs

theorem execGetbcr_kept (s : State) (hs : Kept q n s) : ∀ t', (execGetbcr s) = .next t' → Kept q n t' := by
  intro t ht; cases ht; exact onAddr_kept _ _ (fun _ h => doGetbcr_kept _ h) hs

theorem execGetdcr_kept (s : State) (hs : Kept q n s) : ∀ t', (execGetdcr s) = .next t' → Kept q n t' := by
  intro t ht; cases ht; exact onAddr_kept _ _ (fun _ h => doGetdcr_kept _ h) hs

theorem execGetstatus_kept (s : State) (hs : Kept q n s) : ∀ t', (execGetstatus s) = .next t' → Kept q n t' := by
  intro t ht; cases ht; exact onAddr_kept _ _ (fun _ h => doGetstatus_kept _ h) hs

theorem execEnec_kept (b : ℕ) (s : State) (hs : Kept q n s) : ∀ t', (execEnec b s) = .next t' → Kept q n t' := by
  intro t ht; cases ht; exact onBus_kept _ _ (fun _ h => doEnec_kept _ _ h) hs

theorem execDisec_kept (b : ℕ) (s : State) (hs : Kept q n s) : ∀ t', (execDisec b s) = .next t' → Kept q n t' := by
  intro t ht; cases ht; exact onBus_kept _ _ (fun _ h => doDisec_kept _ _ h) hs

theorem execSetmwl_kept (v : ℕ) (s : State) (hs : Kept q n s) : ∀ t', (execSetmwl v s) = .next t' → Kept q n t' := by
  intro t ht; cases ht; exact onBus_kept _ _ (fun _ h => doSetmwl_kept _ _ h) hs

theorem execGetmwl_kept (s : State) (hs : Kept q n s) : ∀ t', (execGetmwl s) = .next t' → Kept q n t' := by
  intro t ht; cases ht; exact onAddr_kept _ _ (fun _ h => doGetmwl_kept _ h) hs

theorem execSetmrl_kept (v : ℕ) (s : State) (hs : Kept q n s) : ∀ t', (execSetmrl v s) = .next t' → Kept q n t' := by
  intro t ht; cases ht; exact onBus_kept _ _ (fun _ h => doSetmrl_kept _ _ h) hs

theorem execGetmrl_kept (s : State) (hs : Kept q n s) : ∀ t', (execGetmrl s) = .next t' → Kept q n t' := by
  intro t ht; cases ht; exact onAddr_kept _ _ (fun _ h => doGetmrl_kept _ h) hs

theorem execGetmxds_kept (s : State) (hs : Kept q n s) : ∀ t', (execGetmxds s) = .next t' → Kept q n t' := by
  intro t ht; cases ht; exact onAddr_kept _ _ (fun _ h => doGetmxds_kept _ h) hs

theorem execRstact_kept (a : ℕ) (s : State) (hs : Kept q n s) : ∀ t', (execRstact a s) = .next t' → Kept q n t' := by
  intro t ht; cases ht; exact onBus_kept _ _ (fun _ h => doRstact_kept _ _ h) hs

theorem execTargetResetPattern_kept (s : State) (hs : Kept q n s) : ∀ t', (execTargetResetPattern s) = .next t' → Kept q n t' := by
  intro t ht; cases ht; exact whenOn_kept _ _ hs (doTargetResetPattern_kept _ hs)

theorem execCccUnsupported_kept (_code : ℕ) (d : Bool) (s : State) (hs : Kept q n s) : ∀ t', (execCccUnsupported _code d s) = .next t' → Kept q n t' := by
  intro t ht; cases ht; exact onBus_kept _ _ (fun _ h => doCccUnsupported_kept _ _ h) hs

theorem execEnthdr0_kept (s : State) (hs : Kept q n s) : ∀ t', (execEnthdr0 s) = .next t' → Kept q n t' := by
  intro t ht; cases ht; exact onBus_kept _ _ (fun _ h => doEnthdr0_kept _ h) hs

theorem execEnthdrUnsupported_kept (_n : ℕ) (s : State) (hs : Kept q n s) : ∀ t', (execEnthdrUnsupported _n s) = .next t' → Kept q n t' := by
  intro t ht; cases ht; exact onBus_kept _ _ (fun _ h => doEnthdrUnsupported_kept _ h) hs

theorem execHdrExit_kept (s : State) (hs : Kept q n s) : ∀ t', (execHdrExit s) = .next t' → Kept q n t' := by
  intro t ht; cases ht; exact whenOn_kept _ _ hs (doHdrExit_kept _ hs)

theorem execPrivateWrite_kept (bs : List (BitVec 8)) (s : State) (hs : Kept q n s) : ∀ t', (execPrivateWrite bs s) = .next t' → Kept q n t' := by
  intro t ht; cases ht; exact onAddr_kept _ _ (fun _ h => doPrivateWrite_kept _ _ h) hs

theorem execPrivateRead_kept (n0 : ℕ) (s : State) (hs : Kept q n s) : ∀ t', (execPrivateRead n0 s) = .next t' → Kept q n t' := by
  intro t ht; cases ht; exact onAddr_kept _ _ (fun _ h => busRead_kept _ _ h) hs

theorem execHdrDdrWrite_kept (hs0 : List (BitVec 16)) (s : State) (hs : Kept q n s) : ∀ t', (execHdrDdrWrite hs0 s) = .next t' → Kept q n t' := by
  intro t ht; cases ht; exact onHdr_kept _ _ (fun _ h => doHdrWrite_kept _ _ h) hs

theorem execHdrDdrSetPointer_kept (hs0 : List (BitVec 16)) (s : State) (hs : Kept q n s) : ∀ t', (execHdrDdrSetPointer hs0 s) = .next t' → Kept q n t' := by
  intro t ht; cases ht; exact onHdr_kept _ _ (fun _ h => doHdrPointer_kept _ _ h) hs

theorem execHdrDdrRead_kept (n0 : ℕ) (s : State) (hs : Kept q n s) : ∀ t', (execHdrDdrRead n0 s) = .next t' → Kept q n t' := by
  intro t ht; cases ht; exact onHdr_kept _ _ (fun _ h => busRead_kept _ _ h) hs

theorem execLegacyI2cTransfer_kept (bs : List (BitVec 8)) (n0 : ℕ) (s : State) (hs : Kept q n s) : ∀ t', (execLegacyI2cTransfer bs n0 s) = .next t' → Kept q n t' := by
  intro t ht; cases ht; exact onBus_kept _ _ (fun _ h => doLegacy_kept _ _ _ h) hs

theorem execIbiRequest_kept (a : Bool) (s : State) (hs : Kept q n s) : ∀ t', (execIbiRequest a s) = .next t' → Kept q n t' := by
  intro t ht; cases ht; exact whenOn_kept _ _ hs (doIbiRequest_kept _ _ hs)

theorem execIbiRetry_kept (a : Bool) (s : State) (hs : Kept q n s) : ∀ t', (execIbiRetry a s) = .next t' → Kept q n t' := by
  intro t ht; cases ht; exact whenOn_kept _ _ hs (doIbiRetry_kept _ _ hs)

end Sys2Proof.Machine
end

