-- ==== Sys2Proof/Laws/Plane.lean ====
section
/-!
SUPPORT. What the operations of the data plane can change (`PlaneOnly`), one lemma per operation.
-/

namespace Sys2Proof.Machine

theorem PlaneOnly.refl (s : State) : PlaneOnly s s := rfl

theorem PlaneOnly.trans {s0 s t : State} (h : PlaneOnly s0 s) (k : PlaneOnly s t) : PlaneOnly s0 t := by
  unfold PlaneOnly at *
  rw [k, h]

variable {s0 : State}

/-- A change of the parts that may change. -/
theorem PlaneOnly.upd {s t : State} (h : PlaneOnly s0 s) (e : PlaneOnly s t) : PlaneOnly s0 t := h.trans e

theorem PlaneOnly.pair {α : Type} {x : α × State} {a : α} {t : State} (e : x = (a, t)) (h : PlaneOnly s0 x.2) : PlaneOnly s0 t := by
  subst e; exact h

theorem PlaneOnly.getD {o : Option State} {s : State} (h1 : ∀ t, o = some t → PlaneOnly s0 t) (h2 : PlaneOnly s0 s) : PlaneOnly s0 (o.getD s) := by
  cases o with
  | none => exact h2
  | some t => exact h1 t rfl

theorem PlaneOnly.ite {c : Prop} [Decidable c] {s t : State} (h1 : PlaneOnly s0 s) (h2 : PlaneOnly s0 t) : PlaneOnly s0 (if c then s else t) := by
  split_ifs
  · exact h1
  · exact h2

theorem PlaneOnly.foldl {β : Type} (f : State → β → State) (l : List β) {s : State} (h : PlaneOnly s0 s)
    (hf : ∀ s x, PlaneOnly s0 s → PlaneOnly s0 (f s x)) : PlaneOnly s0 (l.foldl f s) := by
  induction l generalizing s with
  | nil => exact h
  | cons a l ih => exact ih (hf s a h)

theorem State.put_plane (s : State) (F : FieldSpec) (v i : Nat) (h : PlaneOnly s0 s) : PlaneOnly s0 (s.put F v i) := h.trans rfl

theorem State.raise_plane (s : State) (F : FieldSpec) (i : Nat) (h : PlaneOnly s0 s) : PlaneOnly s0 (s.raise F i) := h.trans rfl

theorem State.bump_plane (s : State) (F : FieldSpec) (n0 : ℕ) (i : ℕ) (hs : PlaneOnly s0 s) : PlaneOnly s0 (State.bump s F n0 i) := by
  unfold State.bump
  refine State.put_plane _ _ _ _ ?_
  assumption

theorem State.putB_plane (s : State) (F : FieldSpec) (b : Bool) (i : ℕ) (hs : PlaneOnly s0 s) : PlaneOnly s0 (State.putB s F b i) := by
  unfold State.putB
  refine State.put_plane _ _ _ _ ?_
  assumption

theorem State.ask_plane (s : State) (F : FieldSpec) (i : ℕ) (hs : PlaneOnly s0 s) : PlaneOnly s0 (State.ask s F i) := by
  unfold State.ask
  refine State.put_plane _ _ _ _ ?_
  assumption

theorem State.settle_plane (s : State) (F : FieldSpec) (i : ℕ) (hs : PlaneOnly s0 s) : PlaneOnly s0 (State.settle s F i) := by
  unfold State.settle
  refine PlaneOnly.upd ?_ rfl
  assumption

theorem State.pulse_plane (s : State) (F : FieldSpec) (i : ℕ) (hs : PlaneOnly s0 s) : PlaneOnly s0 (State.pulse s F i) := by
  unfold State.pulse
  refine State.settle_plane _ _ _ ?_
  refine State.ask_plane _ _ _ ?_
  assumption

theorem State.draw_plane (s : State) (hs : PlaneOnly s0 s) : PlaneOnly s0 (State.draw s).2 := by
  unfold State.draw
  dsimp only
  refine PlaneOnly.upd ?_ rfl
  assumption

theorem State.log_plane (s : State) (code : ℕ) (src : ℕ) (payload : (List ℕ)) (hs : PlaneOnly s0 s) : PlaneOnly s0 (State.log s code src payload) := by
  unfold State.log
  refine PlaneOnly.upd ?_ rfl
  assumption

theorem faultItem_plane (s : State) (hs : PlaneOnly s0 s) : PlaneOnly s0 (faultItem s) := by
  unfold faultItem
  refine PlaneOnly.upd ?_ rfl
  assumption

theorem State.emit_plane (s : State) (o : Out) (hs : PlaneOnly s0 s) : PlaneOnly s0 (State.emit s o) := by
  unfold State.emit
  refine PlaneOnly.upd ?_ rfl
  assumption

theorem whenOn_plane (f : State → State) (s : State) (h : PlaneOnly s0 s) (hk : PlaneOnly s0 (f s)) : PlaneOnly s0 (whenOn f s) := by
  unfold whenOn
  exact PlaneOnly.ite hk h

theorem State.ibi_plane (s : State) (c : Nat) (h : PlaneOnly s0 s) : PlaneOnly s0 (s.ibi c) := h.trans rfl

theorem updLine_plane (kind : ℕ) (sig : ℕ) (num : ℕ) (f : Line → Line) (s : State) (hs : PlaneOnly s0 s) : PlaneOnly s0 (updLine kind sig num f s) := by
  unfold updLine
  split
  · refine PlaneOnly.upd ?_ rfl
    assumption
  · split
    · refine PlaneOnly.upd ?_ rfl
      assumption
    · assumption

theorem State.setChan_plane (s : State) (c : ℕ) (x : Chan) (hs : PlaneOnly s0 s) : PlaneOnly s0 (State.setChan s c x) := by
  unfold State.setChan
  refine PlaneOnly.upd ?_ rfl
  assumption

theorem takeFrame_plane (c : ℕ) (s : State) (hs : PlaneOnly s0 s) : PlaneOnly s0 (takeFrame c s).2 := by
  unfold takeFrame
  dsimp only
  refine State.setChan_plane _ _ _ ?_
  refine State.draw_plane _ ?_
  assumption

theorem giveFrame_plane (f : ℕ) (s : State) (hs : PlaneOnly s0 s) : PlaneOnly s0 (giveFrame f s) := by
  unfold giveFrame
  extract_lets s1 s2
  refine State.setChan_plane _ _ _ ?_
  assumption

theorem giveFrames_plane (fs : List ℕ) (s : State) (hs : PlaneOnly s0 s) : PlaneOnly s0 (giveFrames fs s) := by
  unfold giveFrames
  refine PlaneOnly.foldl _ _ ?_ fun s x h => ?_
  · assumption
  · refine giveFrame_plane _ _ ?_
    assumption

theorem takePair_plane (s : State) (hs : PlaneOnly s0 s) : ∀ a t, takePair s = some (a, t) → PlaneOnly s0 t := by
  intro a t ht
  unfold takePair at ht
  split at ht
  · cases ht
  · dsimp only at ht
    split at ht <;> cases ht
    · exact takeFrame_plane _ _ hs
    · exact takeFrame_plane _ _ (takeFrame_plane _ _ hs)

theorem evict_plane (x : Line) (writeBack : Bool) (engine : Option Nat) (s : State) (hs : PlaneOnly s0 s) :
    ∀ t, evict x writeBack engine s = some t → PlaneOnly s0 t := by
  intro t ht
  unfold evict at ht
  split at ht <;> cases ht
  refine PlaneOnly.upd ?_ rfl
  assumption

theorem chooseWay_plane (set : Nat) (s : State) (hs : PlaneOnly s0 s) : ∀ a t, chooseWay set s = some (a, t) → PlaneOnly s0 t := by
  intro a t ht
  unfold chooseWay at ht
  extract_lets w keys at_ e e1 e2 top d src s1 at ht
  split at ht
  · cases ht; assumption
  · split at ht
    · cases ht
    · split at ht
      · cases ht
      · have h1 : PlaneOnly s0 s1 := PlaneOnly.upd hs rfl
        clear_value s1
        split at ht <;> cases ht
        refine State.bump_plane _ _ _ _ (PlaneOnly.upd ?_ rfl)
        exact evict_plane _ _ _ _ h1 _ (by assumption)

theorem newLine_plane (kind sig num : Nat) (stream : Bool) (s : State) (hs : PlaneOnly s0 s) :
    ∀ t, newLine kind sig num stream s = some t → PlaneOnly s0 t := by
  intro t ht
  unfold newLine at ht
  split at ht
  · cases ht
  · split at ht
    · cases ht
    · cases ht
      refine PlaneOnly.upd (takeFrame_plane _ _ ?_) rfl
      refine chooseWay_plane _ _ ?_ _ _ (by assumption)
      assumption

theorem waitCount_plane (kind : ℕ) (sig : ℕ) (num : ℕ) (s : State) (hs : PlaneOnly s0 s) : PlaneOnly s0 (waitCount kind sig num s) := by
  unfold waitCount
  refine PlaneOnly.ite ?_ ?_
  · extract_lets s1
    have h1 : PlaneOnly s0 s1 := by
      refine State.bump_plane _ _ _ _ ?_
      assumption
    clear_value s1
    refine PlaneOnly.ite ?_ ?_
    · refine State.raise_plane _ _ _ ?_
      assumption
    · assumption
  · refine State.bump_plane _ _ _ _ ?_
    assumption

theorem reinstate_plane (kind : ℕ) (sig : ℕ) (num : ℕ) (s : State) (hs : PlaneOnly s0 s) : PlaneOnly s0 (reinstate kind sig num s) := by
  unfold reinstate
  split
  · assumption
  · split
    · assumption
    · refine State.bump_plane _ _ _ _ ?_
      refine PlaneOnly.upd ?_ rfl
      refine chooseWay_plane _ _ ?_ _ _ (by assumption)
      assumption

theorem touch_plane (kind : ℕ) (sig : ℕ) (num : ℕ) (s : State) (hs : PlaneOnly s0 s) : PlaneOnly s0 (touch kind sig num s) := by
  unfold touch
  split
  · refine PlaneOnly.upd ?_ rfl
    assumption
  · assumption

theorem fillCell_plane (kind : ℕ) (sig : ℕ) (num : ℕ) (j : ℕ) (v : RdVal) (stream : Bool) (s : State) (hs : PlaneOnly s0 s) : PlaneOnly s0 (fillCell kind sig num j v stream s) := by
  unfold fillCell
  extract_lets s1
  have h1 : PlaneOnly s0 s1 := by
    refine PlaneOnly.ite ?_ ?_
    · assumption
    · refine PlaneOnly.getD (fun t ht => ?_) ?_
      · refine newLine_plane _ _ _ _ _ ?_ _ (by assumption)
        assumption
      · refine waitCount_plane _ _ _ _ ?_
        assumption
  clear_value s1
  refine updLine_plane _ _ _ _ _ ?_
  assumption

theorem fillBlock_plane (sig : ℕ) (lbn : ℕ) (v : RdVal) (stream : Bool) (s : State) (hs : PlaneOnly s0 s) : PlaneOnly s0 (fillBlock sig lbn v stream s) := by
  unfold fillBlock
  refine PlaneOnly.ite ?_ ?_
  · assumption
  · refine fillCell_plane _ _ _ _ _ _ _ ?_
    assumption

theorem fillParity_plane (i : Imposition) (kind : ℕ) (t : ℕ) (b : ℕ) (v : Blk) (s : State) (hs : PlaneOnly s0 s) : PlaneOnly s0 (fillParity i kind t b v s) := by
  unfold fillParity
  extract_lets s1
  refine fillCell_plane _ _ _ _ _ _ _ ?_
  assumption

theorem readyLine_plane (sig num : Nat) (stream : Bool) (s : State) (hs : PlaneOnly s0 s) :
    ∀ t, readyLine sig num stream s = some t → PlaneOnly s0 t := by
  intro t ht
  unfold readyLine at ht
  extract_lets s1 s2 at ht
  have h1 : PlaneOnly s0 s1 := PlaneOnly.ite (reinstate_plane _ _ _ _ hs) hs
  clear_value s1
  obtain ⟨u, hu, ht⟩ := Option.bind_eq_some_iff.mp ht
  have h2 : PlaneOnly s0 u := by
    unfold s2 at hu
    split at hu
    · cases hu; assumption
    · exact newLine_plane _ _ _ _ _ h1 _ hu
  split at ht
  · cases ht
  · dsimp only at ht
    split at ht
    · cases ht; assumption
    · split at ht
      · split at ht
        · cases ht
        · cases ht
          refine updLine_plane _ _ _ _ _ (giveFrames_plane _ _ ?_)
          exact takePair_plane _ h2 _ _ (by assumption)
      · split at ht
        · split at ht <;> cases ht
          assumption
        · cases ht
          exact updLine_plane _ _ _ _ _ (takeFrame_plane _ _ h2)

theorem writeCell_plane (sig : ℕ) (lbn : ℕ) (data : Blk) (never : Bool) (wt : Bool) (s : State) (hs : PlaneOnly s0 s) : PlaneOnly s0 (writeCell sig lbn data never wt s) := by
  unfold writeCell
  extract_lets s1 s2 s3 s4 s5
  have h3 : PlaneOnly s0 s3 := by
    refine PlaneOnly.upd ?_ rfl
    assumption
  clear_value s3
  have h5 : PlaneOnly s0 s5 := by
    refine PlaneOnly.ite ?_ ?_
    · split
      · refine updLine_plane _ _ _ _ _ ?_
        refine takePair_plane _ ?_ _ _ (by assumption)
        assumption
      · assumption
    · assumption
  clear_value s5
  refine updLine_plane _ _ _ _ _ ?_
  assumption

theorem putBlock_plane (sig : Nat) (stream wt : Bool) (s : State) (x : Nat × Blk) (hs : PlaneOnly s0 s) :
    ∀ t, putBlock sig stream wt s x = some t → PlaneOnly s0 t := by
  intro t ht
  unfold putBlock at ht
  obtain ⟨u, hu, rfl⟩ := Option.map_eq_some_iff.mp ht
  have h1 := readyLine_plane _ _ _ _ hs _ hu
  have h2 := writeCell_plane sig x.1 x.2 false wt _ h1
  dsimp only
  exact PlaneOnly.ite h2 (touch_plane _ _ _ _ h2)

theorem putBlocks_plane (sig : Nat) (stream wt : Bool) (xs : List (Nat × Blk)) (s : State) (hs : PlaneOnly s0 s) :
    ∀ t, putBlocks sig stream wt xs s = some t → PlaneOnly s0 t := by
  unfold putBlocks
  induction xs generalizing s with
  | nil => intro t ht; cases ht; exact hs
  | cons x xs ih =>
    intro t ht
    rw [List.foldlM_cons] at ht
    obtain ⟨u, hu, ht⟩ := Option.bind_eq_some_iff.mp ht
    exact ih u (putBlock_plane _ _ _ _ _ hs _ hu) t ht

theorem settleLine_plane (sig : ℕ) (num : ℕ) (s : State) (hs : PlaneOnly s0 s) : PlaneOnly s0 (settleLine sig num s) := by
  unfold settleLine
  split
  · assumption
  · extract_lets s1 s2 s3
    have h3 : PlaneOnly s0 s3 := by
      refine PlaneOnly.ite ?_ ?_
      · assumption
      · refine updLine_plane _ _ _ _ _ ?_
        refine giveFrames_plane _ _ ?_
        assumption
    clear_value s3
    split
    · refine PlaneOnly.ite ?_ ?_
      · assumption
      · refine updLine_plane _ _ _ _ _ ?_
        refine giveFrame_plane _ _ ?_
        assumption
    · assumption

theorem youngest_plane (ks : List ℕ) (s : State) (hs : PlaneOnly s0 s) : PlaneOnly s0 (youngest ks s) := by
  unfold youngest
  refine PlaneOnly.upd ?_ rfl
  assumption

theorem stepTouched_plane (s : State) (hs : PlaneOnly s0 s) : PlaneOnly s0 (stepTouched s) := by
  unfold stepTouched
  extract_lets s1 s2
  have h1 : PlaneOnly s0 s1 := by
    refine youngest_plane _ _ ?_
    assumption
  clear_value s1
  refine PlaneOnly.upd ?_ rfl
  assumption

theorem doAgeIncrement_plane (s : State) (hs : PlaneOnly s0 s) : PlaneOnly s0 (doAgeIncrement s) := by
  unfold doAgeIncrement
  extract_lets s1 s2
  refine PlaneOnly.ite ?_ ?_
  · refine youngest_plane _ _ ?_
    refine PlaneOnly.upd ?_ rfl
    assumption
  · assumption

theorem reclaimSet_plane (c : ℕ) (set : ℕ) (s : State) (hs : PlaneOnly s0 s) : PlaneOnly s0 (reclaimSet c set s) := by
  unfold reclaimSet
  extract_lets s1
  refine PlaneOnly.foldl _ _ ?_ fun s x h => ?_
  · assumption
  · extract_lets s2
    split
    · refine PlaneOnly.ite ?_ ?_
      · split
        · refine State.bump_plane _ _ _ _ ?_
          refine PlaneOnly.upd ?_ rfl
          refine evict_plane _ _ _ _ ?_ _ (by assumption)
          assumption
        · refine State.raise_plane _ _ _ ?_
          assumption
      · assumption
    · assumption

theorem doReclaim_plane (c : ℕ) (s : State) (hs : PlaneOnly s0 s) : PlaneOnly s0 (doReclaim c s) := by
  unfold doReclaim
  refine PlaneOnly.ite ?_ ?_
  · extract_lets s1 s2 s3 s4 s5
    have h2 : PlaneOnly s0 s2 := by
      refine PlaneOnly.foldl _ _ ?_ fun s x h => ?_
      · assumption
      · refine PlaneOnly.ite ?_ ?_
        · refine reclaimSet_plane _ _ _ ?_
          assumption
        · assumption
    clear_value s2
    have h4 : PlaneOnly s0 s4 := by
      refine PlaneOnly.upd ?_ rfl
      assumption
    clear_value s4
    refine State.setChan_plane _ _ _ ?_
    assumption
  · assumption

theorem doEvbDrop_plane (i : ℕ) (s : State) (hs : PlaneOnly s0 s) : PlaneOnly s0 (doEvbDrop i s) := by
  unfold doEvbDrop
  split
  · refine PlaneOnly.ite ?_ ?_
    · extract_lets s1 s2
      have h1 : PlaneOnly s0 s1 := by
        refine giveFrames_plane _ _ ?_
        assumption
      clear_value s1
      refine PlaneOnly.upd ?_ rfl
      assumption
    · assumption
  · assumption

theorem doProbeGo_plane (s : State) (hs : PlaneOnly s0 s) : PlaneOnly s0 (doProbeGo s) := by
  unfold doProbeGo
  extract_lets s1 s2 s3 s4 s5 s6 s7 s8 s9 s10 s11 s12
  have h1 : PlaneOnly s0 s1 := by
    refine State.pulse_plane _ _ _ ?_
    assumption
  clear_value s1
  have h8 : PlaneOnly s0 s8 := by
    refine State.put_plane _ _ _ _ ?_
    assumption
  clear_value s8
  have h9 : PlaneOnly s0 s9 := by
    refine State.put_plane _ _ _ _ ?_
    refine State.put_plane _ _ _ _ ?_
    assumption
  clear_value s9
  have h10 : PlaneOnly s0 s10 := by
    refine State.putB_plane _ _ _ _ ?_
    refine State.putB_plane _ _ _ _ ?_
    assumption
  clear_value s10
  have h11 : PlaneOnly s0 s11 := by
    refine State.putB_plane _ _ _ _ ?_
    refine State.putB_plane _ _ _ _ ?_
    assumption
  clear_value s11
  have h12 : PlaneOnly s0 s12 := by
    refine State.put_plane _ _ _ _ ?_
    refine State.put_plane _ _ _ _ ?_
    assumption
  clear_value s12
  refine State.putB_plane _ _ _ _ ?_
  assumption

theorem doReDuplex_plane (s : State) (hs : PlaneOnly s0 s) : PlaneOnly s0 (doReDuplex s) := by
  unfold doReDuplex
  extract_lets s1 s2 s3
  have h2 : PlaneOnly s0 s2 := by
    refine PlaneOnly.foldl _ _ ?_ fun s x h => ?_
    · assumption
    · split
      · extract_lets s4 s5 s6 s7
        have h4 : PlaneOnly s0 s4.2 := by
          refine takeFrame_plane _ _ ?_
          assumption
        clear_value s4
        have h5 : PlaneOnly s0 s5 := by
          unfold s5
          assumption
        clear_value s5
        refine PlaneOnly.upd ?_ rfl
        assumption
      · assumption
  clear_value s2
  refine PlaneOnly.ite ?_ ?_
  · refine State.log_plane _ _ _ _ ?_
    assumption
  · assumption

theorem loseChannel_plane (c : ℕ) (s : State) (hs : PlaneOnly s0 s) : PlaneOnly s0 (loseChannel c s) := by
  unfold loseChannel
  extract_lets s1 s2 s3 s4 s5 s6 s7 s8
  have h7 : PlaneOnly s0 s7 := by
    refine faultItem_plane _ ?_
    refine State.setChan_plane _ _ _ ?_
    assumption
  clear_value s7
  refine State.log_plane _ _ _ _ ?_
  refine PlaneOnly.upd ?_ rfl
  assumption

theorem State.setZone_plane (s : State) (k : ℕ) (z : Zone) (hs : PlaneOnly s0 s) : PlaneOnly s0 (State.setZone s k z) := by
  unfold State.setZone
  refine PlaneOnly.upd ?_ rfl
  assumption

theorem State.updZone_plane (s : State) (k : ℕ) (f : Zone → Zone) (hs : PlaneOnly s0 s) : PlaneOnly s0 (State.updZone s k f) := by
  unfold State.updZone
  refine State.setZone_plane _ _ _ ?_
  assumption

theorem State.setSig_plane (s : State) (g : ℕ) (x : Sig) (hs : PlaneOnly s0 s) : PlaneOnly s0 (State.setSig s g x) := by
  unfold State.setSig
  refine PlaneOnly.upd ?_ rfl
  assumption

theorem State.updSig_plane (s : State) (g : ℕ) (f : Sig → Sig) (hs : PlaneOnly s0 s) : PlaneOnly s0 (State.updSig s g f) := by
  unfold State.updSig
  refine State.setSig_plane _ _ _ ?_
  assumption

theorem State.updKeep_plane (s : State) (g : ℕ) (f : SigKeep → SigKeep) (hs : PlaneOnly s0 s) : PlaneOnly s0 (State.updKeep s g f) := by
  unfold State.updKeep
  refine State.updSig_plane _ _ _ ?_
  assumption

theorem State.setDrv_plane (s : State) (p : ℕ) (d : Drv) (hs : PlaneOnly s0 s) : PlaneOnly s0 (State.setDrv s p d) := by
  unfold State.setDrv
  refine PlaneOnly.upd ?_ rfl
  assumption

theorem State.updDrv_plane (s : State) (p : ℕ) (f : Drv → Drv) (hs : PlaneOnly s0 s) : PlaneOnly s0 (State.updDrv s p f) := by
  unfold State.updDrv
  refine State.setDrv_plane _ _ _ ?_
  assumption

theorem setMem_plane (g : ℕ) (d : ℕ) (m : Mem) (s : State) (hs : PlaneOnly s0 s) : PlaneOnly s0 (setMem g d m s) := by
  unfold setMem
  refine State.updKeep_plane _ _ _ ?_
  assumption

theorem lastMismatch_plane (ms : List Mismatch) (s : State) (hs : PlaneOnly s0 s) : PlaneOnly s0 (lastMismatch ms s) := by
  unfold lastMismatch
  extract_lets s1
  split
  · assumption
  · refine State.put_plane _ _ _ _ ?_
    refine State.put_plane _ _ _ _ ?_
    refine State.put_plane _ _ _ _ ?_
    assumption

theorem State.updCtrl_plane (s : State) (c : ℕ) (f : Ctrl → Ctrl) (hs : PlaneOnly s0 s) : PlaneOnly s0 (State.updCtrl s c f) := by
  unfold State.updCtrl
  split
  · refine PlaneOnly.upd ?_ rfl
    assumption
  · assumption

theorem logError_plane (conn : ℕ) (cid : ℕ) (sct : ℕ) (sc : ℕ) (lba : ℕ) (ns : ℕ) (s : State) (hs : PlaneOnly s0 s) : PlaneOnly s0 (logError conn cid sct sc lba ns s) := by
  unfold logError
  split
  · refine State.updCtrl_plane _ _ _ ?_
    assumption
  · assumption

theorem notice_plane (bit : ℕ) (who : ℕ → Ctrl → Bool) (s : State) (hs : PlaneOnly s0 s) : PlaneOnly s0 (notice bit who s) := by
  unfold notice
  refine PlaneOnly.upd ?_ rfl
  assumption

theorem zoneChanged_plane (k : ℕ) (s : State) (hs : PlaneOnly s0 s) : PlaneOnly s0 (zoneChanged k s) := by
  unfold zoneChanged
  extract_lets s1 s2
  have h2 : PlaneOnly s0 s2 := by
    refine notice_plane _ _ _ ?_
    assumption
  clear_value s2
  refine PlaneOnly.upd ?_ rfl
  assumption

theorem countZn_plane (off : ℕ) (s : State) (hs : PlaneOnly s0 s) : PlaneOnly s0 (countZn off s) := by
  unfold countZn
  refine PlaneOnly.upd ?_ rfl
  assumption

theorem setLink_plane (p : ℕ) (up : Bool) (s : State) (hs : PlaneOnly s0 s) : PlaneOnly s0 (setLink p up s) := by
  unfold setLink
  extract_lets s1
  have h1 : PlaneOnly s0 s1 := by
    refine State.putB_plane _ _ _ _ ?_
    refine State.putB_plane _ _ _ _ ?_
    assumption
  clear_value s1
  refine State.putB_plane _ _ _ _ ?_
  refine State.putB_plane _ _ _ _ ?_
  assumption

theorem declareLink_plane (p : ℕ) (up : Bool) (s : State) (hs : PlaneOnly s0 s) : PlaneOnly s0 (declareLink p up s) := by
  unfold declareLink
  refine State.log_plane _ _ _ _ ?_
  refine State.raise_plane _ _ _ ?_
  refine setLink_plane _ _ _ ?_
  assumption

theorem clearPortCounters_plane (p : ℕ) (s : State) (hs : PlaneOnly s0 s) : PlaneOnly s0 (clearPortCounters p s) := by
  unfold clearPortCounters
  refine PlaneOnly.foldl _ _ ?_ fun s x h => ?_
  · assumption
  · refine State.put_plane _ _ _ _ ?_
    assumption

theorem doArpReplyClaim_plane (p : ℕ) (addr : ℕ) (s : State) (hs : PlaneOnly s0 s) : PlaneOnly s0 (doArpReplyClaim p addr s) := by
  unfold doArpReplyClaim
  refine PlaneOnly.ite ?_ ?_
  · refine State.log_plane _ _ _ _ ?_
    refine State.raise_plane _ _ _ ?_
    refine State.putB_plane _ _ _ _ ?_
    assumption
  · assumption

theorem doConnSel_plane (v : ℕ) (s : State) (hs : PlaneOnly s0 s) : PlaneOnly s0 (doConnSel v s) := by
  unfold doConnSel
  extract_lets s1 s2 s3 s4 s5 s6 s7
  have h2 : PlaneOnly s0 s2 := by
    refine State.put_plane _ _ _ _ ?_
    assumption
  clear_value s2
  have h5 : PlaneOnly s0 s5 := by
    refine State.putB_plane _ _ _ _ ?_
    refine State.put_plane _ _ _ _ ?_
    refine State.putB_plane _ _ _ _ ?_
    assumption
  clear_value s5
  have h6 : PlaneOnly s0 s6 := by
    refine State.putB_plane _ _ _ _ ?_
    refine State.putB_plane _ _ _ _ ?_
    refine State.putB_plane _ _ _ _ ?_
    assumption
  clear_value s6
  have h7 : PlaneOnly s0 s7 := by
    refine State.put_plane _ _ _ _ ?_
    refine State.put_plane _ _ _ _ ?_
    assumption
  clear_value s7
  refine State.put_plane _ _ _ _ ?_
  refine State.put_plane _ _ _ _ ?_
  assumption

theorem hbFit_plane (no : Option ℕ) (g : ℕ) (s : State) (hs : PlaneOnly s0 s) : PlaneOnly s0 (hbFit no g s) := by
  unfold hbFit
  extract_lets s1
  refine PlaneOnly.ite ?_ ?_
  · assumption
  · split
    · assumption
    · extract_lets s2 s3
      have h2 : PlaneOnly s0 s2 := by
        refine State.updKeep_plane _ _ _ ?_
        assumption
      clear_value s2
      refine State.log_plane _ _ _ _ ?_
      refine State.raise_plane _ _ _ ?_
      assumption

theorem damageZone_plane (k : ℕ) (s : State) (hs : PlaneOnly s0 s) : PlaneOnly s0 (damageZone k s) := by
  unfold damageZone
  extract_lets s1 s2 s3 s4 s5 s6
  have h2 : PlaneOnly s0 s2 := by
    refine State.updZone_plane _ _ _ ?_
    assumption
  clear_value s2
  have h4 : PlaneOnly s0 s4 := by
    refine PlaneOnly.upd ?_ rfl
    assumption
  clear_value s4
  have h5 : PlaneOnly s0 s5 := by
    refine countZn_plane _ _ ?_
    refine State.updZone_plane _ _ _ ?_
    assumption
  clear_value s5
  have h6 : PlaneOnly s0 s6 := by
    refine State.raise_plane _ _ _ ?_
    refine zoneChanged_plane _ _ ?_
    assumption
  clear_value s6
  refine PlaneOnly.ite ?_ ?_
  · refine PlaneOnly.ite ?_ ?_
    · assumption
    · refine State.log_plane _ _ _ _ ?_
      assumption
  · assumption

theorem hbAddRun_plane (g : ℕ) (cause : ℕ) (s : State) (r : ℕ × ℕ) (hs : PlaneOnly s0 s) : PlaneOnly s0 (hbAddRun g cause s r) := by
  unfold hbAddRun
  extract_lets s1 s2 s3 s4 s5
  have h1 : PlaneOnly s0 s1 := by
    refine State.updKeep_plane _ _ _ ?_
    assumption
  clear_value s1
  have h2 : PlaneOnly s0 s2 := by
    refine hbFit_plane _ _ _ ?_
    refine State.updSig_plane _ _ _ ?_
    assumption
  clear_value s2
  have h3 : PlaneOnly s0 s3 := by
    refine State.log_plane _ _ _ _ ?_
    refine State.raise_plane _ _ _ ?_
    assumption
  clear_value s3
  have h4 : PlaneOnly s0 s4 := by
    refine PlaneOnly.upd ?_ rfl
    assumption
  clear_value s4
  refine PlaneOnly.foldl _ _ ?_ fun s x h => ?_
  · assumption
  · refine damageZone_plane _ _ ?_
    assumption

theorem hbAdd_plane (g : ℕ) (cause : ℕ) (lbns : List ℕ) (s : State) (hs : PlaneOnly s0 s) : PlaneOnly s0 (hbAdd g cause lbns s) := by
  unfold hbAdd
  extract_lets s1 s2
  have h2 : PlaneOnly s0 s2 := by
    refine PlaneOnly.foldl _ _ ?_ fun s x h => ?_
    · assumption
    · refine hbAddRun_plane _ _ _ _ ?_
      assumption
  clear_value s2
  refine PlaneOnly.foldl _ _ ?_ fun s x h => ?_
  · assumption
  · extract_lets s3
    refine State.updSig_plane _ _ _ ?_
    assumption

theorem hbRemove_plane (g : ℕ) (lbns : List ℕ) (s : State) (hs : PlaneOnly s0 s) : PlaneOnly s0 (hbRemove g lbns s) := by
  unfold hbRemove
  extract_lets s1 s2 s3
  have h2 : PlaneOnly s0 s2 := by
    refine PlaneOnly.foldl _ _ ?_ fun s x h => ?_
    · assumption
    · extract_lets s4
      refine hbFit_plane _ _ _ ?_
      refine State.updKeep_plane _ _ _ ?_
      assumption
  clear_value s2
  have h3 : PlaneOnly s0 s3 := by
    refine PlaneOnly.foldl _ _ ?_ fun s x h => ?_
    · assumption
    · refine State.log_plane _ _ _ _ ?_
      assumption
  clear_value s3
  refine PlaneOnly.ite ?_ ?_
  · assumption
  · refine State.updSig_plane _ _ _ ?_
    assumption

theorem hbClear_plane (g : ℕ) (lo : ℕ) (n0 : ℕ) (s : State) (hs : PlaneOnly s0 s) : PlaneOnly s0 (hbClear g lo n0 s) := by
  unfold hbClear
  extract_lets s1 s2 s3
  have h3 : PlaneOnly s0 s3 := by
    refine State.updSig_plane _ _ _ ?_
    assumption
  clear_value s3
  refine PlaneOnly.ite ?_ ?_
  · assumption
  · refine PlaneOnly.foldl _ _ ?_ fun s x h => ?_
    · assumption
    · extract_lets s4
      refine State.log_plane _ _ _ _ ?_
      assumption

theorem doHbSel_plane (g : ℕ) (v : ℕ) (s : State) (hs : PlaneOnly s0 s) : PlaneOnly s0 (doHbSel g v s) := by
  unfold doHbSel
  extract_lets s1 s2 s3 s4 s5 s6 s7 s8
  have h2 : PlaneOnly s0 s2 := by
    refine State.put_plane _ _ _ _ ?_
    assumption
  clear_value s2
  have h5 : PlaneOnly s0 s5 := by
    refine State.putB_plane _ _ _ _ ?_
    assumption
  clear_value s5
  have h6 : PlaneOnly s0 s6 := by
    refine State.put_plane _ _ _ _ ?_
    refine State.put_plane _ _ _ _ ?_
    assumption
  clear_value s6
  have h7 : PlaneOnly s0 s7 := by
    refine State.put_plane _ _ _ _ ?_
    refine State.put_plane _ _ _ _ ?_
    assumption
  clear_value s7
  refine State.put_plane _ _ _ _ ?_
  refine State.putB_plane _ _ _ _ ?_
  assumption

theorem latchGsb_plane (s : State) (hs : PlaneOnly s0 s) : PlaneOnly s0 (latchGsb s) := by
  unfold latchGsb
  extract_lets s1
  refine PlaneOnly.foldl _ _ ?_ fun s x h => ?_
  · assumption
  · refine State.put_plane _ _ _ _ ?_
    assumption

theorem doGsbLatch_plane (s : State) (hs : PlaneOnly s0 s) : PlaneOnly s0 (doGsbLatch s) := by
  unfold doGsbLatch
  refine State.pulse_plane _ _ _ ?_
  refine latchGsb_plane _ ?_
  assumption

theorem stepCeiling_plane (s : State) (hs : PlaneOnly s0 s) : PlaneOnly s0 (stepCeiling s) := by
  unfold stepCeiling
  extract_lets s1 s2
  have h1 : PlaneOnly s0 s1 := by
    refine State.put_plane _ _ _ _ ?_
    assumption
  clear_value s1
  have h2 : PlaneOnly s0 s2 := by
    refine State.put_plane _ _ _ _ ?_
    assumption
  clear_value s2
  refine State.put_plane _ _ _ _ ?_
  assumption

theorem doMinShareWrite_plane (addr : ℕ) (v : ℕ) (s : State) (hs : PlaneOnly s0 s) : PlaneOnly s0 (doMinShareWrite addr v s) := by
  unfold doMinShareWrite
  extract_lets s1 s2 s3 s4 s5 s6
  refine PlaneOnly.ite ?_ ?_
  · refine State.log_plane _ _ _ _ ?_
    refine State.raise_plane _ _ _ ?_
    assumption
  · refine State.put_plane _ _ _ _ ?_
    refine State.put_plane _ _ _ _ ?_
    refine State.put_plane _ _ _ _ ?_
    refine State.put_plane _ _ _ _ ?_
    refine State.put_plane _ _ _ _ ?_
    assumption

theorem fairSelWritten_plane (s : State) (hs : PlaneOnly s0 s) : PlaneOnly s0 (fairSelWritten s) := by
  unfold fairSelWritten
  extract_lets s1 s2 s3 s4
  have h1 : PlaneOnly s0 s1 := by
    refine State.putB_plane _ _ _ _ ?_
    refine State.put_plane _ _ _ _ ?_
    assumption
  clear_value s1
  have h2 : PlaneOnly s0 s2 := by
    refine State.put_plane _ _ _ _ ?_
    refine State.put_plane _ _ _ _ ?_
    assumption
  clear_value s2
  have h3 : PlaneOnly s0 s3 := by
    refine State.put_plane _ _ _ _ ?_
    refine State.put_plane _ _ _ _ ?_
    assumption
  clear_value s3
  have h4 : PlaneOnly s0 s4 := by
    refine State.put_plane _ _ _ _ ?_
    refine State.put_plane _ _ _ _ ?_
    assumption
  clear_value s4
  refine State.put_plane _ _ _ _ ?_
  refine State.put_plane _ _ _ _ ?_
  assumption

theorem doShutdownComplete_plane (i : ℕ) (s : State) (hs : PlaneOnly s0 s) : PlaneOnly s0 (doShutdownComplete i s) := by
  unfold doShutdownComplete
  split
  · extract_lets s1
    refine PlaneOnly.ite ?_ ?_
    · refine State.updCtrl_plane _ _ _ ?_
      assumption
    · assumption
  · assumption

theorem zoneSaved_plane (k : ℕ) (s : State) (hs : PlaneOnly s0 s) : PlaneOnly s0 (zoneSaved k s) := by
  unfold zoneSaved
  refine PlaneOnly.ite ?_ ?_
  · refine State.emit_plane _ _ ?_
    assumption
  · assumption

theorem askPartial_plane (k : ℕ) (s : State) (hs : PlaneOnly s0 s) : PlaneOnly s0 (askPartial k s) := by
  unfold askPartial
  split
  · refine State.updSig_plane _ _ _ ?_
    assumption
  · assumption

theorem retainSheet_plane (v : Bool) (g : ℕ) (t : ℕ) (s : State) (hs : PlaneOnly s0 s) : PlaneOnly s0 (retainSheet v g t s) := by
  unfold retainSheet
  extract_lets s1 s2
  unfold s2
  refine PlaneOnly.foldl _ _ ?_ fun s x h => ?_
  · refine PlaneOnly.foldl _ _ ?_ fun s x h => ?_
    · refine PlaneOnly.foldl _ _ ?_ fun s x h => ?_
      · assumption
      · refine updLine_plane _ _ _ _ _ ?_
        assumption
    · refine updLine_plane _ _ _ _ _ ?_
      assumption
  · refine updLine_plane _ _ _ _ _ ?_
    assumption

theorem unretain_plane (k : ℕ) (s : State) (hs : PlaneOnly s0 s) : PlaneOnly s0 (unretain k s) := by
  unfold unretain
  split
  · refine retainSheet_plane _ _ _ _ ?_
    assumption
  · assumption

theorem closeZone_plane (k : ℕ) (s : State) (hs : PlaneOnly s0 s) : PlaneOnly s0 (closeZone k s) := by
  unfold closeZone
  refine zoneSaved_plane _ _ ?_
  refine askPartial_plane _ _ ?_
  refine State.updZone_plane _ _ _ ?_
  refine unretain_plane _ _ ?_
  assumption

theorem fillZone_plane (k : ℕ) (s : State) (hs : PlaneOnly s0 s) : PlaneOnly s0 (fillZone k s) := by
  unfold fillZone
  refine zoneSaved_plane _ _ ?_
  refine askPartial_plane _ _ ?_
  refine State.updZone_plane _ _ _ ?_
  refine unretain_plane _ _ ?_
  assumption

theorem openZone_plane (k : ℕ) (st : ZState) (s : State) (hs : PlaneOnly s0 s) : PlaneOnly s0 (openZone k st s).2 := by
  unfold openZone
  dsimp only
  split
  · dsimp only
    refine zoneSaved_plane _ _ ?_
    refine State.updZone_plane _ _ _ ?_
    assumption
  · split
    · dsimp only
      refine countZn_plane _ _ ?_
      refine State.raise_plane _ _ _ ?_
      assumption
    · split
      · dsimp only
        refine zoneSaved_plane _ _ ?_
        refine State.updZone_plane _ _ _ ?_
        assumption
      · split
        · dsimp only
          refine countZn_plane _ _ ?_
          refine State.raise_plane _ _ _ ?_
          assumption
        · dsimp only
          refine zoneSaved_plane _ _ ?_
          refine State.updZone_plane _ _ _ ?_
          refine countZn_plane _ _ ?_
          refine State.bump_plane _ _ _ _ ?_
          refine closeZone_plane _ _ ?_
          assumption

theorem dropCells_plane (g : ℕ) (lo : ℕ) (n0 : ℕ) (s : State) (hs : PlaneOnly s0 s) : PlaneOnly s0 (dropCells g lo n0 s) := by
  unfold dropCells
  extract_lets s1 s2 s3 s4 s5
  have h5 : PlaneOnly s0 s5 := by
    refine PlaneOnly.upd ?_ rfl
    assumption
  clear_value s5
  refine PlaneOnly.foldl _ _ ?_ fun s x h => ?_
  · assumption
  · refine settleLine_plane _ _ _ ?_
    assumption

theorem resetZone_plane (k : ℕ) (s : State) (hs : PlaneOnly s0 s) : PlaneOnly s0 (resetZone k s) := by
  unfold resetZone
  extract_lets s1 s2
  have h2 : PlaneOnly s0 s2 := by
    refine hbClear_plane _ _ _ _ ?_
    refine dropCells_plane _ _ _ _ ?_
    refine unretain_plane _ _ ?_
    assumption
  clear_value s2
  refine zoneSaved_plane _ _ ?_
  refine State.updZone_plane _ _ _ ?_
  assumption

theorem beginSeal_plane (k : ℕ) (auto : Bool) (s : State) (hs : PlaneOnly s0 s) : PlaneOnly s0 (beginSeal k auto s) := by
  unfold beginSeal
  refine State.updZone_plane _ _ _ ?_
  assumption

theorem land_plane (g : Nat) (stream wt : Bool) (xs : List (Nat × Blk)) (s : State) (hs : PlaneOnly s0 s) :
    ∀ t, land g stream wt xs s = some t → PlaneOnly s0 t := by
  intro t ht
  unfold land at ht
  obtain ⟨u, hu, rfl⟩ := Option.map_eq_some_iff.mp ht
  refine PlaneOnly.foldl _ _ (putBlocks_plane _ _ _ _ _ hs _ hu) fun s x h => ?_
  refine State.updSig_plane _ _ _ ?_
  refine PlaneOnly.upd h rfl

theorem sendCmd_plane (p : ℕ) (tag : ℕ) (c : DrvCmd) (s : State) (hs : PlaneOnly s0 s) : PlaneOnly s0 (sendCmd p tag c s) := by
  unfold sendCmd
  refine PlaneOnly.foldl _ _ ?_ fun s x h => ?_
  · refine State.updDrv_plane _ _ _ ?_
    assumption
  · refine State.emit_plane _ _ ?_
    assumption

theorem pumpN_plane (p m : Nat) (s : State) (hs : PlaneOnly s0 s) : PlaneOnly s0 (pumpN p m s) := by
  induction m generalizing s with
  | zero => exact hs
  | succ m ih =>
    unfold pumpN
    extract_lets s1
    split
    · assumption
    · exact PlaneOnly.ite (ih _ (sendCmd_plane _ _ _ _ (State.setDrv_plane _ _ _ hs))) hs

theorem pump_plane (p : ℕ) (s : State) (hs : PlaneOnly s0 s) : PlaneOnly s0 (pump p s) := by
  unfold pump
  refine pumpN_plane _ _ _ ?_
  assumption

theorem giveCmd_plane (p : ℕ) (c : DrvCmd) (s : State) (hs : PlaneOnly s0 s) : PlaneOnly s0 (giveCmd p c s) := by
  unfold giveCmd
  extract_lets s1
  have h1 : PlaneOnly s0 s1 := by
    refine PlaneOnly.upd ?_ rfl
    assumption
  clear_value s1
  refine pump_plane _ _ ?_
  refine State.updDrv_plane _ _ _ ?_
  assumption

theorem setFill_plane (v : Bool) (g : ℕ) (t : ℕ) (p : ℕ) (b : ℕ) (n0 : ℕ) (s : State) (hs : PlaneOnly s0 s) : PlaneOnly s0 (setFill v g t p b n0 s) := by
  unfold setFill
  refine PlaneOnly.ite ?_ ?_
  · extract_lets s1
    refine PlaneOnly.foldl _ _ ?_ fun s x h => ?_
    · assumption
    · extract_lets s2 s3
      have h3 : PlaneOnly s0 s3 := by
        refine PlaneOnly.ite ?_ ?_
        · refine PlaneOnly.getD (fun t ht => ?_) ?_
          · refine newLine_plane _ _ _ _ _ ?_ _ (by assumption)
            assumption
          · refine waitCount_plane _ _ _ _ ?_
            assumption
        · assumption
      clear_value s3
      refine updLine_plane _ _ _ _ _ ?_
      assumption
  · assumption

theorem dropCmd_plane (p : ℕ) (tag : ℕ) (s : State) (hs : PlaneOnly s0 s) : PlaneOnly s0 (dropCmd p tag s) := by
  unfold dropCmd
  extract_lets s1 s2
  have h2 : PlaneOnly s0 s2 := by
    refine State.setDrv_plane _ _ _ ?_
    assumption
  clear_value s2
  split
  · refine PlaneOnly.ite ?_ ?_
    · refine setFill_plane _ _ _ _ _ _ _ ?_
      assumption
    · assumption
  · assumption

theorem finishCmd_plane (p : ℕ) (tag : ℕ) (s : State) (hs : PlaneOnly s0 s) : PlaneOnly s0 (finishCmd p tag s) := by
  unfold finishCmd
  split
  · refine pump_plane _ _ ?_
    refine State.bump_plane _ _ _ _ ?_
    refine dropCmd_plane _ _ _ ?_
    assumption
  · assumption

theorem finishAll_plane (use : DrvUse) (g : ℕ) (t : ℕ) (pos : Option ℕ) (s : State) (hs : PlaneOnly s0 s) : PlaneOnly s0 (finishAll use g t pos s) := by
  unfold finishAll
  extract_lets s1
  refine PlaneOnly.foldl _ _ ?_ fun s x h => ?_
  · assumption
  · refine PlaneOnly.foldl _ _ ?_ fun s x h => ?_
    · assumption
    · refine PlaneOnly.ite ?_ ?_
      · refine finishCmd_plane _ _ _ ?_
        assumption
      · assumption

theorem issueRead_plane (use : DrvUse) (g : ℕ) (t : ℕ) (p : ℕ) (b : ℕ) (n0 : ℕ) (s : State) (hs : PlaneOnly s0 s) : PlaneOnly s0 (issueRead use g t p b n0 s) := by
  unfold issueRead
  split
  · assumption
  · extract_lets s1 s2
    have h2 : PlaneOnly s0 s2 := by
      refine PlaneOnly.ite ?_ ?_
      · refine setFill_plane _ _ _ _ _ _ _ ?_
        assumption
      · assumption
    clear_value s2
    refine giveCmd_plane _ _ _ ?_
    assumption

theorem noteMissed_plane (g : ℕ) (t : ℕ) (p : ℕ) (s : State) (hs : PlaneOnly s0 s) : PlaneOnly s0 (noteMissed g t p s) := by
  unfold noteMissed
  split
  · assumption
  · extract_lets s1 s2
    refine PlaneOnly.ite ?_ ?_
    · refine State.updSig_plane _ _ _ ?_
      refine setMem_plane _ _ _ _ ?_
      assumption
    · assumption

theorem writeAt_plane (use : DrvUse) (g : ℕ) (t : ℕ) (p : ℕ) (at_ : ℕ × ℕ) (blocks : NMap RdVal) (s : State) (hs : PlaneOnly s0 s) : PlaneOnly s0 (writeAt use g t p at_ blocks s) := by
  unfold writeAt
  split
  · assumption
  · extract_lets s1 s2
    refine giveCmd_plane _ _ _ ?_
    assumption

theorem issueWrite_plane (use : DrvUse) (g : ℕ) (t : ℕ) (p : ℕ) (blocks : NMap RdVal) (s : State) (hs : PlaneOnly s0 s) : PlaneOnly s0 (issueWrite use g t p blocks s).2 := by
  unfold issueWrite
  split
  · dsimp only
    refine noteMissed_plane _ _ _ _ ?_
    assumption
  · dsimp only
    refine writeAt_plane _ _ _ _ _ _ _ ?_
    assumption

theorem addLost_plane (g : ℕ) (t : ℕ) (b : ℕ) (bad : List (ℕ × Bool)) (s : State) (hs : PlaneOnly s0 s) : PlaneOnly s0 (addLost g t b bad s) := by
  unfold addLost
  refine PlaneOnly.ite ?_ ?_
  · refine PlaneOnly.upd ?_ rfl
    assumption
  · refine PlaneOnly.upd ?_ rfl
    assumption

theorem failRead_plane (c : DrvCmd) (blocks : List ℕ) (s : State) (hs : PlaneOnly s0 s) : PlaneOnly s0 (failRead c blocks s) := by
  unfold failRead
  refine PlaneOnly.ite ?_ ?_
  · refine PlaneOnly.foldl _ _ ?_ fun s x h => ?_
    · assumption
    · refine addLost_plane _ _ _ _ _ ?_
      assumption
  · assumption

theorem addRepair_plane (g : ℕ) (t : ℕ) (p : ℕ) (b : ℕ) (v : RdVal) (silent : Bool) (s : State) (hs : PlaneOnly s0 s) : PlaneOnly s0 (addRepair g t p b v silent s) := by
  unfold addRepair
  extract_lets s1 s2
  have h2 : PlaneOnly s0 s2 := by
    refine PlaneOnly.ite ?_ ?_
    · refine PlaneOnly.upd ?_ rfl
      assumption
    · refine PlaneOnly.upd ?_ rfl
      assumption
  clear_value s2
  refine PlaneOnly.ite ?_ ?_
  · refine updLine_plane _ _ _ _ _ ?_
    assumption
  · assumption

theorem endRepair_plane (r : Repair) (s : State) (hs : PlaneOnly s0 s) : PlaneOnly s0 (endRepair r s) := by
  unfold endRepair
  extract_lets s1 s2
  have h1 : PlaneOnly s0 s1 := by
    refine PlaneOnly.upd ?_ rfl
    assumption
  clear_value s1
  refine PlaneOnly.ite ?_ ?_
  · refine PlaneOnly.foldl _ _ ?_ fun s x h => ?_
    · assumption
    · extract_lets s3
      refine PlaneOnly.ite ?_ ?_
      · assumption
      · refine updLine_plane _ _ _ _ _ ?_
        assumption
  · assumption

theorem dropRepairs_plane (g : ℕ) (t : ℕ) (p : ℕ) (bs : List ℕ) (s : State) (hs : PlaneOnly s0 s) : PlaneOnly s0 (dropRepairs g t p bs s) := by
  unfold dropRepairs
  refine PlaneOnly.foldl _ _ ?_ fun s x h => ?_
  · assumption
  · refine PlaneOnly.ite ?_ ?_
    · extract_lets s1
      refine PlaneOnly.ite ?_ ?_
      · refine endRepair_plane _ _ ?_
        assumption
      · refine PlaneOnly.upd ?_ rfl
        assumption
    · assumption

theorem countSilent_plane (g : ℕ) (d : ℕ) (s : State) (hs : PlaneOnly s0 s) : PlaneOnly s0 (countSilent g d s) := by
  unfold countSilent
  extract_lets s1 s2
  refine setMem_plane _ _ _ _ ?_
  assumption

theorem countFix_plane (g : ℕ) (t : ℕ) (p : ℕ) (silent : Bool) (s : State) (hs : PlaneOnly s0 s) : PlaneOnly s0 (countFix g t p silent s) := by
  unfold countFix
  refine PlaneOnly.ite ?_ ?_
  · refine countSilent_plane _ _ _ ?_
    refine State.bump_plane _ _ _ _ ?_
    assumption
  · refine State.bump_plane _ _ _ _ ?_
    assumption

theorem updCells_plane (g : ℕ) (t : ℕ) (offs : List ℕ) (f : Cell → Cell) (s : State) (hs : PlaneOnly s0 s) : PlaneOnly s0 (updCells g t offs f s) := by
  unfold updCells
  extract_lets s1 s2
  refine PlaneOnly.foldl _ _ ?_ fun s x h => ?_
  · assumption
  · refine updLine_plane _ _ _ _ _ ?_
    assumption

theorem updReads_plane (id : ℕ) (g : ℕ) (t : ℕ) (reads : List (ℕ × ℕ)) (s : State) (hs : PlaneOnly s0 s) : PlaneOnly s0 (updReads id g t reads s) := by
  unfold updReads
  refine PlaneOnly.foldl _ _ ?_ fun s x h => ?_
  · assumption
  · extract_lets s1
    clear_value s1
    split
    · assumption
    · extract_lets s2 s3
      refine issueRead_plane _ _ _ _ _ _ _ ?_
      assumption

theorem startUpd_plane (u : Upd) (s : State) (hs : PlaneOnly s0 s) : PlaneOnly s0 (startUpd u s) := by
  unfold startUpd
  extract_lets s1 s2 s3 s4
  have h3 : PlaneOnly s0 s3 := by
    refine PlaneOnly.upd ?_ rfl
    assumption
  clear_value s3
  have h4 : PlaneOnly s0 s4 := by
    refine State.updSig_plane _ _ _ ?_
    assumption
  clear_value s4
  refine updReads_plane _ _ _ _ _ ?_
  refine updCells_plane _ _ _ _ _ ?_
  assumption

theorem settleEvb_plane (s : State) (hs : PlaneOnly s0 s) : PlaneOnly s0 (settleEvb s) := by
  unfold settleEvb
  refine PlaneOnly.upd ?_ rfl
  assumption

theorem keepGalley_plane (u : Upd) (s : State) (hs : PlaneOnly s0 s) : PlaneOnly s0 (keepGalley u s) := by
  unfold keepGalley
  split
  · refine PlaneOnly.ite ?_ ?_
    · extract_lets s1
      have h1 : PlaneOnly s0 s1 := by
        refine PlaneOnly.foldl _ _ ?_ fun s x h => ?_
        · assumption
        · refine fillParity_plane _ _ _ _ _ _ ?_
          refine fillParity_plane _ _ _ _ _ _ ?_
          assumption
      clear_value s1
      refine retainSheet_plane _ _ _ _ ?_
      assumption
    · refine retainSheet_plane _ _ _ _ ?_
      assumption
  · assumption

theorem retireUpd_plane (id : ℕ) (s : State) (hs : PlaneOnly s0 s) : PlaneOnly s0 (retireUpd id s) := by
  unfold retireUpd
  split
  · assumption
  · extract_lets s1 s2 s3 s4 s5 s6 s7 s8 s9 s10
    have h1 : PlaneOnly s0 s1 := by
      refine PlaneOnly.upd ?_ rfl
      assumption
    clear_value s1
    have h5 : PlaneOnly s0 s5 := by
      refine PlaneOnly.ite ?_ ?_
      · assumption
      · refine updCells_plane _ _ _ _ _ ?_
        assumption
    clear_value s5
    have h6 : PlaneOnly s0 s6 := by
      refine PlaneOnly.ite ?_ ?_
      · assumption
      · refine hbRemove_plane _ _ _ ?_
        assumption
    clear_value s6
    have h7 : PlaneOnly s0 s7 := by
      refine State.updSig_plane _ _ _ ?_
      assumption
    clear_value s7
    have h8 : PlaneOnly s0 s8 := by
      unfold s8
      split
      · refine State.bump_plane _ _ _ _ ?_
        assumption
      · refine State.bump_plane _ _ _ _ ?_
        assumption
      · refine State.bump_plane _ _ _ _ ?_
        assumption
      · refine State.bump_plane _ _ _ _ ?_
        assumption
      · refine State.bump_plane _ _ _ _ ?_
        assumption
      · refine State.bump_plane _ _ _ _ ?_
        assumption
      · assumption
    clear_value s8
    have h9 : PlaneOnly s0 s9 := by
      refine PlaneOnly.ite ?_ ?_
      · assumption
      · refine keepGalley_plane _ _ ?_
        assumption
    clear_value s9
    have h10 : PlaneOnly s0 s10 := by
      refine PlaneOnly.foldl _ _ ?_ fun s x h => ?_
      · assumption
      · refine settleLine_plane _ _ _ ?_
        assumption
    clear_value s10
    refine settleEvb_plane _ ?_
    assumption

theorem folioDone_plane (id : ℕ) (pos : ℕ) (s : State) (hs : PlaneOnly s0 s) : PlaneOnly s0 (folioDone id pos s) := by
  unfold folioDone
  split
  · assumption
  · extract_lets s1 s2
    have h2 : PlaneOnly s0 s2 := by
      refine PlaneOnly.upd ?_ rfl
      assumption
    clear_value s2
    refine PlaneOnly.ite ?_ ?_
    · refine retireUpd_plane _ _ ?_
      assumption
    · assumption

theorem readyUpd_plane (id : ℕ) (s : State) (hs : PlaneOnly s0 s) : PlaneOnly s0 (readyUpd id s) := by
  unfold readyUpd
  split
  · assumption
  · extract_lets s1
    have h1 : PlaneOnly s0 s1 := by
      refine PlaneOnly.upd ?_ rfl
      assumption
    clear_value s1
    refine PlaneOnly.foldl _ _ ?_ fun s x h => ?_
    · assumption
    · extract_lets s2 s3
      have h2 : PlaneOnly s0 s2 := by
        refine dropRepairs_plane _ _ _ _ _ ?_
        assumption
      clear_value s2
      have h3 : PlaneOnly s0 s3.2 := by
        refine issueWrite_plane _ _ _ _ _ _ ?_
        assumption
      clear_value s3
      refine PlaneOnly.ite ?_ ?_
      · assumption
      · refine folioDone_plane _ _ _ ?_
        assumption

theorem doReGo_plane (e : ℕ) (s : State) (hs : PlaneOnly s0 s) : PlaneOnly s0 (doReGo e s) := by
  unfold doReGo
  extract_lets s1 s2 s3 s4 s5 s6 s7 s8 s9 s10
  have h1 : PlaneOnly s0 s1 := by
    refine State.pulse_plane _ _ _ ?_
    assumption
  clear_value s1
  have h8 : PlaneOnly s0 s8 := by
    refine PlaneOnly.upd ?_ rfl
    assumption
  clear_value s8
  have h9 : PlaneOnly s0 s9 := by
    refine State.put_plane _ _ _ _ ?_
    refine State.put_plane _ _ _ _ ?_
    refine State.putB_plane _ _ _ _ ?_
    assumption
  clear_value s9
  have h10 : PlaneOnly s0 s10 := by
    refine State.put_plane _ _ _ _ ?_
    refine State.put_plane _ _ _ _ ?_
    assumption
  clear_value s10
  refine PlaneOnly.ite ?_ ?_
  · refine State.raise_plane _ _ _ ?_
    assumption
  · refine State.put_plane _ _ _ _ ?_
    refine State.put_plane _ _ _ _ ?_
    assumption

theorem logRange_plane (e : ℕ) (r : RangeRun) (outcome : ℕ) (s : State) (hs : PlaneOnly s0 s) : PlaneOnly s0 (logRange e r outcome s) := by
  unfold logRange
  refine State.log_plane _ _ _ _ ?_
  assumption

theorem coverLine_plane (e : ℕ) (g : ℕ) (x : Line) (s : State) (hs : PlaneOnly s0 s) : PlaneOnly s0 (coverLine e g x s) := by
  unfold coverLine
  extract_lets s1 s2 s3
  have h2 : PlaneOnly s0 s2 := by
    refine State.updSig_plane _ _ _ ?_
    assumption
  clear_value s2
  refine PlaneOnly.upd ?_ rfl
  assumption

theorem evbFull_plane (s : State) (hs : PlaneOnly s0 s) : PlaneOnly s0 (evbFull s).2 := by
  unfold evbFull
  dsimp only
  refine State.raise_plane _ _ _ ?_
  assumption

theorem dropLine_plane (e key : Nat) (x : Line) (s : State) (hs : PlaneOnly s0 s) : ∀ t, dropLine e key x s = some t → PlaneOnly s0 t := by
  intro t ht
  unfold dropLine at ht
  obtain ⟨u, hu, rfl⟩ := Option.map_eq_some_iff.mp ht
  exact State.bump_plane _ _ _ _ (PlaneOnly.upd (evict_plane _ _ _ _ hs _ hu) rfl)

theorem prefetch_plane (e : ℕ) (g : ℕ) (num : ℕ) (s : State) (hs : PlaneOnly s0 s) : PlaneOnly s0 (prefetch e g num s) := by
  unfold prefetch
  extract_lets s1 s2 s3 s4 s5
  have h3 : PlaneOnly s0 s3 := by
    refine PlaneOnly.foldl _ _ ?_ fun s x h => ?_
    · assumption
    · extract_lets s6
      clear_value s6
      split
      · assumption
      · extract_lets s7
        refine issueRead_plane _ _ _ _ _ _ _ ?_
        assumption
  clear_value s3
  have h5 : PlaneOnly s0 s5 := by
    refine PlaneOnly.upd ?_ rfl
    assumption
  clear_value s5
  refine PlaneOnly.ite ?_ ?_
  · assumption
  · refine State.bump_plane _ _ _ _ ?_
    assumption

theorem discardLine_plane (e key : Nat) (r : RangeRun) (x : Line) (s : State) (hs : PlaneOnly s0 s) :
    ∀ t, discardLine e key r x s = some t → PlaneOnly s0 t := by
  intro t ht
  unfold discardLine at ht
  obtain ⟨u, hu, rfl⟩ := Option.map_eq_some_iff.mp ht
  have h1 := State.bump_plane u Reg.Cc.RE_DISCARDED (x.cells.filter fun c => c.2.dirty).length e (dropLine_plane _ _ _ _ hs _ hu)
  dsimp only
  refine PlaneOnly.ite h1 (logRange_plane _ _ _ _ (State.raise_plane _ _ _ (PlaneOnly.upd h1 rfl)))

theorem rangeLine_plane (e : Nat) (r : RangeRun) (num : Nat) (s : State) (hs : PlaneOnly s0 s) :
    ∀ t, rangeLine e r num s = some t → PlaneOnly s0 t := by
  intro t ht
  unfold rangeLine at ht
  dsimp only at ht
  repeat' split at ht
  all_goals first
    | exact dropLine_plane _ _ _ _ hs _ ht
    | exact discardLine_plane _ _ _ _ _ hs _ ht
    | (cases ht; exact coverLine_plane _ _ _ _ hs)
    | (cases ht; exact hs)
    | (cases ht; exact prefetch_plane _ _ _ _ hs)
    | (cases ht; exact State.bump_plane _ _ _ _ (coverLine_plane _ _ _ _ hs))
    | (cases ht; exact State.bump_plane _ _ _ _ hs)
    | cases ht
    | (obtain ⟨u, hu, rfl⟩ := Option.map_eq_some_iff.mp ht
       exact State.bump_plane _ _ _ _ (PlaneOnly.upd (evict_plane _ _ _ _ (coverLine_plane _ _ _ _ hs) _ hu) rfl))

theorem updEngine_plane (e : ℕ) (f : RangeRun → RangeRun) (s : State) (hs : PlaneOnly s0 s) : PlaneOnly s0 (updEngine e f s) := by
  unfold updEngine
  refine PlaneOnly.upd ?_ rfl
  assumption

theorem visitN_plane (e m : Nat) (s : State) (hs : PlaneOnly s0 s) : PlaneOnly s0 (visitN e m s) := by
  induction m generalizing s with
  | zero => exact hs
  | succ m ih =>
    unfold visitN
    split
    · assumption
    · refine PlaneOnly.ite hs ?_
      extract_lets next
      have hn (t : State) (ht : PlaneOnly s0 t) : PlaneOnly s0 (next t) := ih _ (updEngine_plane _ _ _ ht)
      refine PlaneOnly.ite (hn _ (State.bump_plane _ _ _ _ (updEngine_plane _ _ _ hs))) ?_
      split
      · exact hn _ (rangeLine_plane _ _ _ _ hs _ (by assumption))
      · exact State.raise_plane _ _ _ hs

theorem doRangeVisit_plane (e : ℕ) (s : State) (hs : PlaneOnly s0 s) : PlaneOnly s0 (doRangeVisit e s) := by
  unfold doRangeVisit
  refine PlaneOnly.ite ?_ ?_
  · extract_lets s1
    have h1 : PlaneOnly s0 s1 := by
      refine visitN_plane _ _ _ ?_
      assumption
    clear_value s1
    split
    · refine State.put_plane _ _ _ _ ?_
      refine State.put_plane _ _ _ _ ?_
      assumption
    · assumption
  · assumption

theorem doParkedLineApply_plane (e : ℕ) (num : ℕ) (s : State) (hs : PlaneOnly s0 s) : PlaneOnly s0 (doParkedLineApply e num s) := by
  unfold doParkedLineApply
  split
  · refine PlaneOnly.ite ?_ ?_
    · split
      · refine updEngine_plane _ _ _ ?_
        refine rangeLine_plane _ _ _ _ ?_ _ (by assumption)
        assumption
      · refine State.raise_plane _ _ _ ?_
        assumption
    · assumption
  · assumption

theorem doRangeComplete_plane (e : ℕ) (s : State) (hs : PlaneOnly s0 s) : PlaneOnly s0 (doRangeComplete e s) := by
  unfold doRangeComplete
  split
  · refine PlaneOnly.ite ?_ ?_
    · extract_lets s1 s2
      have h2 : PlaneOnly s0 s2 := by
        refine State.putB_plane _ _ _ _ ?_
        refine PlaneOnly.upd ?_ rfl
        assumption
      clear_value s2
      refine logRange_plane _ _ _ _ ?_
      refine State.raise_plane _ _ _ ?_
      assumption
    · assumption
  · assumption

theorem abortRanges_plane (s : State) (hs : PlaneOnly s0 s) : PlaneOnly s0 (abortRanges s) := by
  unfold abortRanges
  refine PlaneOnly.foldl _ _ ?_ fun s x h => ?_
  · assumption
  · refine logRange_plane _ _ _ _ ?_
    refine State.raise_plane _ _ _ ?_
    refine State.putB_plane _ _ _ _ ?_
    refine PlaneOnly.upd ?_ rfl
    assumption

theorem addMap_plane (x : MapEnt) (s : State) (hs : PlaneOnly s0 s) : PlaneOnly s0 (addMap x s) := by
  unfold addMap
  refine PlaneOnly.ite ?_ ?_
  · refine PlaneOnly.upd ?_ rfl
    assumption
  · refine State.log_plane _ _ _ _ ?_
    refine State.raise_plane _ _ _ ?_
    assumption

theorem showChan_plane (c : ℕ) (s : State) (hs : PlaneOnly s0 s) : PlaneOnly s0 (showChan c s) := by
  unfold showChan
  refine State.put_plane _ _ _ _ ?_
  refine State.put_plane _ _ _ _ ?_
  assumption

theorem loseCells_plane (g : ℕ) (num : ℕ) (js : List ℕ) (s : State) (hs : PlaneOnly s0 s) : PlaneOnly s0 (loseCells g num js s) := by
  unfold loseCells
  split
  · assumption
  · extract_lets s1 s2 s3 s4 s5
    have h2 : PlaneOnly s0 s2 := by
      refine updLine_plane _ _ _ _ _ ?_
      assumption
    clear_value s2
    have h5 : PlaneOnly s0 s5 := by
      refine PlaneOnly.upd ?_ rfl
      assumption
    clear_value s5
    refine PlaneOnly.ite ?_ ?_
    · assumption
    · refine hbAdd_plane _ _ _ _ ?_
      refine settleLine_plane _ _ _ ?_
      refine State.raise_plane _ _ _ ?_
      assumption

theorem moveFrames_plane (c : Nat) (x : Line) (s : State) (hs : PlaneOnly s0 s) : ∀ a t, moveFrames c x s = some (a, t) → PlaneOnly s0 t := by
  have hf (no : List Nat) (s : State) (hs : PlaneOnly s0 s) (a : Nat × State)
      (e : (roomiest s ((List.range 4).filter fun d => d != c && chanDirty s d && !no.contains d)).map (fun d => takeFrame d s) = some a) : PlaneOnly s0 a.2 := by
    obtain ⟨d, -, rfl⟩ := Option.map_eq_some_iff.mp e
    exact takeFrame_plane _ _ hs
  intro a t ht
  unfold moveFrames at ht
  extract_lets inC fresh others s1 s2 at ht
  have h1 : ∀ r, s1 = some r → PlaneOnly s0 r.2 := by
    intro r e
    unfold s1 at e
    split at e
    · obtain ⟨y, hy, rfl⟩ := Option.map_eq_some_iff.mp e
      exact giveFrame_plane _ _ (hf _ _ hs _ hy)
    · cases e; exact hs
  clear_value s1
  have h2 : ∀ r, s2 = some r → PlaneOnly s0 r.2 := by
    intro r e
    unfold s2 at e
    obtain ⟨y, hy, e⟩ := Option.bind_eq_some_iff.mp e
    have h3 := h1 _ hy
    split at e
    · split at e
      · split at e
        · cases e; exact giveFrame_plane _ _ (hf _ _ h3 _ (by assumption))
        · cases e; exact giveFrame_plane _ _ h3
      · cases e; exact h3
    · cases e; exact h3
  clear_value s2
  obtain ⟨r, hr, e⟩ := Option.map_eq_some_iff.mp ht
  have h3 := h2 _ hr
  refine PlaneOnly.pair e ?_
  refine foldl_keep (fun r : Line × State => PlaneOnly s0 r.2) _ _ h3 fun r f h => ?_
  dsimp only
  split
  · split
    · exact giveFrame_plane _ _ (hf _ _ h _ (by assumption))
    · exact h
  · exact h

theorem doCleanOnlyCopy_plane (c : Nat) (s : State) (hs : PlaneOnly s0 s) : PlaneOnly s0 (doCleanOnlyCopy c s) := by
  unfold doCleanOnlyCopy
  refine PlaneOnly.ite (PlaneOnly.foldl _ _ hs fun s x h => ?_) hs
  split
  · refine PlaneOnly.ite ?_ h
    split
    · rename_i r e
      exact PlaneOnly.upd (moveFrames_plane _ _ _ h r.1 r.2 e) rfl
    · assumption
  · assumption

theorem queueTest_plane (c : ℕ) (w : ℕ) (s : State) (hs : PlaneOnly s0 s) : PlaneOnly s0 (queueTest c w s) := by
  unfold queueTest
  extract_lets s1 s2 s3
  refine PlaneOnly.ite ?_ ?_
  · assumption
  · refine PlaneOnly.ite ?_ ?_
    · refine State.raise_plane _ _ _ ?_
      assumption
    · refine State.setChan_plane _ _ _ ?_
      refine faultItem_plane _ ?_
      assumption

theorem correctedWord_plane (c : ℕ) (w : ℕ) (ds : List ℕ) (s : State) (hs : PlaneOnly s0 s) : PlaneOnly s0 (correctedWord c w ds s) := by
  unfold correctedWord
  extract_lets s1 s2 s3
  have h2 : PlaneOnly s0 s2 := by
    refine State.setChan_plane _ _ _ ?_
    assumption
  clear_value s2
  have h3 : PlaneOnly s0 s3 := by
    refine State.raise_plane _ _ _ ?_
    refine State.bump_plane _ _ _ _ ?_
    assumption
  clear_value s3
  refine queueTest_plane _ _ _ ?_
  refine State.log_plane _ _ _ _ ?_
  assumption

theorem dropClean_plane (x : Line) (s : State) (hs : PlaneOnly s0 s) : PlaneOnly s0 (dropClean x s) := by
  unfold dropClean
  split
  · split
    · refine PlaneOnly.upd ?_ rfl
      refine evict_plane _ _ _ _ ?_ _ (by assumption)
      assumption
    · extract_lets s1 s2
      have h1 : PlaneOnly s0 s1 := by
        refine giveFrames_plane _ _ ?_
        refine State.raise_plane _ _ _ ?_
        assumption
      clear_value s1
      refine PlaneOnly.upd ?_ rfl
      assumption
  · assumption

theorem endScrubLap_plane (c : ℕ) (s : State) (hs : PlaneOnly s0 s) : PlaneOnly s0 (endScrubLap c s) := by
  unfold endScrubLap
  extract_lets s1 s2
  have h2 : PlaneOnly s0 s2 := by
    refine State.put_plane _ _ _ _ ?_
    refine State.put_plane _ _ _ _ ?_
    assumption
  clear_value s2
  refine State.setChan_plane _ _ _ ?_
  assumption

theorem replaceFrame_plane (c : ℕ) (f : ℕ) (s : State) (hs : PlaneOnly s0 s) : PlaneOnly s0 (replaceFrame c f s) := by
  unfold replaceFrame
  extract_lets s1 s2 s3 s4 s5 s6 s7 s8 s9
  have h4 : PlaneOnly s0 s4 := by
    refine State.setChan_plane _ _ _ ?_
    assumption
  clear_value s4
  have h5 : PlaneOnly s0 s5.2 := by
    refine takeFrame_plane _ _ ?_
    assumption
  clear_value s5
  have h8 : PlaneOnly s0 s8 := by
    unfold s8
    assumption
  clear_value s8
  refine PlaneOnly.ite ?_ ?_
  · refine PlaneOnly.upd ?_ rfl
    assumption
  · assumption

theorem putWin_plane (a : ℕ) (dev : ℕ) (bs : List ℕ) (s : State) (hs : PlaneOnly s0 s) : PlaneOnly s0 (putWin a dev bs s) := by
  unfold putWin
  refine PlaneOnly.upd ?_ rfl
  assumption

theorem writeWord_plane (a : ℕ) (bs : List ℕ) (s : State) (hs : PlaneOnly s0 s) : PlaneOnly s0 (writeWord a bs s) := by
  unfold writeWord
  refine putWin_plane _ _ _ _ ?_
  refine putWin_plane _ _ _ _ ?_
  assumption

theorem flushMerge_plane (i : ℕ) (s : State) (hs : PlaneOnly s0 s) : PlaneOnly s0 (flushMerge i s) := by
  unfold flushMerge
  split
  · assumption
  · extract_lets s1 s2 s3 s4
    have h3 : PlaneOnly s0 s3 := by
      refine writeWord_plane _ _ _ ?_
      assumption
    clear_value s3
    refine PlaneOnly.upd ?_ rfl
    assumption

theorem narrowWrite_plane (a : ℕ) (bytes : NMap ℕ) (s : State) (hs : PlaneOnly s0 s) : PlaneOnly s0 (narrowWrite a bytes s) := by
  unfold narrowWrite
  split
  · refine PlaneOnly.upd ?_ rfl
    assumption
  · extract_lets s1 s2 s3
    have h1 : PlaneOnly s0 s1 := by
      refine State.raise_plane _ _ _ ?_
      assumption
    clear_value s1
    have h2 : PlaneOnly s0 s2 := by
      refine PlaneOnly.ite ?_ ?_
      · assumption
      · split
        · refine flushMerge_plane _ _ ?_
          assumption
        · assumption
    clear_value s2
    refine PlaneOnly.upd ?_ rfl
    assumption

theorem wholeWrite_plane (a : ℕ) (bs : List ℕ) (s : State) (hs : PlaneOnly s0 s) : PlaneOnly s0 (wholeWrite a bs s) := by
  unfold wholeWrite
  refine writeWord_plane _ _ _ ?_
  refine PlaneOnly.upd ?_ rfl
  assumption

theorem doMergeEntryFlush_plane (i : ℕ) (s : State) (hs : PlaneOnly s0 s) : PlaneOnly s0 (doMergeEntryFlush i s) := by
  unfold doMergeEntryFlush
  split
  · refine PlaneOnly.ite ?_ ?_
    · refine flushMerge_plane _ _ ?_
      assumption
    · assumption
  · assumption

theorem emptyMerge_plane (s : State) (hs : PlaneOnly s0 s) : PlaneOnly s0 (emptyMerge s) := by
  unfold emptyMerge
  refine PlaneOnly.foldl _ _ ?_ fun s x h => ?_
  · assumption
  · refine flushMerge_plane _ _ ?_
    assumption

theorem endEccTest_plane (s : State) (hs : PlaneOnly s0 s) : PlaneOnly s0 (endEccTest s) := by
  unfold endEccTest
  refine PlaneOnly.ite ?_ ?_
  · extract_lets s1 s2 s3
    have h2 : PlaneOnly s0 s2 := by
      refine State.putB_plane _ _ _ _ ?_
      assumption
    clear_value s2
    refine PlaneOnly.upd ?_ rfl
    assumption
  · assumption

theorem doEccTestEn_plane (v : Bool) (s : State) (hs : PlaneOnly s0 s) : PlaneOnly s0 (doEccTestEn v s) := by
  unfold doEccTestEn
  refine PlaneOnly.ite ?_ ?_
  · refine PlaneOnly.ite ?_ ?_
    · refine State.putB_plane _ _ _ _ ?_
      assumption
    · assumption
  · refine endEccTest_plane _ ?_
    assumption

theorem doDevSel_plane (v : ℕ) (s : State) (hs : PlaneOnly s0 s) : PlaneOnly s0 (doDevSel v s) := by
  unfold doDevSel
  extract_lets s1 s2 s3 s4 s5 s6 s7
  have h4 : PlaneOnly s0 s4 := by
    refine State.put_plane _ _ _ _ ?_
    refine State.put_plane _ _ _ _ ?_
    assumption
  clear_value s4
  have h5 : PlaneOnly s0 s5 := by
    refine PlaneOnly.ite ?_ ?_
    · refine State.raise_plane _ _ _ ?_
      assumption
    · assumption
  clear_value s5
  have h7 : PlaneOnly s0 s7 := by
    refine State.put_plane _ _ _ _ ?_
    assumption
  clear_value s7
  refine State.put_plane _ _ _ _ ?_
  refine State.put_plane _ _ _ _ ?_
  assumption

theorem endCmdOf_plane (missed : Bool) (c : DrvCmd) (s : State) (hs : PlaneOnly s0 s) : PlaneOnly s0 (endCmdOf missed c s) := by
  unfold endCmdOf
  refine PlaneOnly.ite ?_ ?_
  · extract_lets s1
    have h1 : PlaneOnly s0 s1 := by
      refine PlaneOnly.ite ?_ ?_
      · refine noteMissed_plane _ _ _ _ ?_
        assumption
      · assumption
    clear_value s1
    split
    · refine folioDone_plane _ _ _ ?_
      assumption
    · split
      · refine endRepair_plane _ _ ?_
        assumption
      · assumption
    · assumption
  · split
    · refine failRead_plane _ _ _ ?_
      assumption
    · split
      · refine endRepair_plane _ _ ?_
        assumption
      · assumption
    · assumption

theorem endPortCmds_plane (missed : Bool) (p : ℕ) (s : State) (hs : PlaneOnly s0 s) : PlaneOnly s0 (endPortCmds missed p s) := by
  unfold endPortCmds
  extract_lets s1 s2
  refine PlaneOnly.foldl _ _ ?_ fun s x h => ?_
  · assumption
  · refine endCmdOf_plane _ _ _ ?_
    refine dropCmd_plane _ _ _ ?_
    assumption

theorem updEnt_plane (g : ℕ) (e : ℕ) (f : FailEnt → FailEnt) (s : State) (hs : PlaneOnly s0 s) : PlaneOnly s0 (updEnt g e f s) := by
  unfold updEnt
  split
  · refine State.updSig_plane _ _ _ ?_
    assumption
  · assumption

theorem putEnt_plane (g : ℕ) (e : ℕ) (x : FailEnt) (s : State) (hs : PlaneOnly s0 s) : PlaneOnly s0 (putEnt g e x s) := by
  unfold putEnt
  refine State.updSig_plane _ _ _ ?_
  assumption

theorem addWindows_plane (g : ℕ) (b : ℕ) (s : State) (hs : PlaneOnly s0 s) : PlaneOnly s0 (addWindows g b s) := by
  unfold addWindows
  extract_lets s1 s2 s3 s4 s5
  have h4 : PlaneOnly s0 s4 := by
    refine PlaneOnly.foldl _ _ ?_ fun s x h => ?_
    · assumption
    · refine updEnt_plane _ _ _ _ ?_
      assumption
  clear_value s4
  have h5 : PlaneOnly s0 s5 := by
    refine PlaneOnly.foldl _ _ ?_ fun s x h => ?_
    · assumption
    · refine PlaneOnly.foldl _ _ ?_ fun s x h => ?_
      · assumption
      · refine updEnt_plane _ _ _ _ ?_
        assumption
  clear_value s5
  refine PlaneOnly.foldl _ _ ?_ fun s x h => ?_
  · assumption
  · refine PlaneOnly.ite ?_ ?_
    · assumption
    · refine State.log_plane _ _ _ _ ?_
      assumption

theorem takeEntry_plane (g : ℕ) (d : ℕ) (cause : ℕ) (s : State) (hs : PlaneOnly s0 s) : PlaneOnly s0 (takeEntry g d cause s) := by
  unfold takeEntry
  extract_lets s1 s2 s3 s4 s5 s6 s7
  have h6 : PlaneOnly s0 s6 := by
    refine setMem_plane _ _ _ _ ?_
    assumption
  clear_value s6
  have h7 : PlaneOnly s0 s7 := by
    refine PlaneOnly.foldl _ _ ?_ fun s x h => ?_
    · assumption
    · extract_lets s8
      refine putEnt_plane _ _ _ _ ?_
      assumption
  clear_value s7
  refine PlaneOnly.ite ?_ ?_
  · refine setMem_plane _ _ _ _ ?_
    assumption
  · refine addWindows_plane _ _ _ ?_
    refine PlaneOnly.upd ?_ rfl
    assumption

theorem reuse_plane (g : ℕ) (s : State) (hs : PlaneOnly s0 s) : PlaneOnly s0 (reuse g s) := by
  unfold reuse
  extract_lets s1 s2 s3 s4
  have h3 : PlaneOnly s0 s3 := by
    unfold s3
    clear_value s2
    split
    · refine PlaneOnly.foldl _ _ ?_ fun s x h => ?_
      · assumption
      · refine updEnt_plane _ _ _ _ ?_
        assumption
    · assumption
  clear_value s3
  refine PlaneOnly.foldl _ _ ?_ fun s x h => ?_
  · assumption
  · refine takeEntry_plane _ _ _ _ ?_
    assumption

theorem freeEnt_plane (g : ℕ) (e : ℕ) (s : State) (hs : PlaneOnly s0 s) : PlaneOnly s0 (freeEnt g e s) := by
  unfold freeEnt
  refine reuse_plane _ _ ?_
  refine State.updSig_plane _ _ _ ?_
  assumption

theorem addDead_plane (g : ℕ) (d : ℕ) (s : State) (hs : PlaneOnly s0 s) : PlaneOnly s0 (addDead g d s) := by
  unfold addDead
  refine PlaneOnly.foldl _ _ ?_ fun s x h => ?_
  · assumption
  · refine PlaneOnly.ite ?_ ?_
    · assumption
    · extract_lets s1
      refine updEnt_plane _ _ _ _ ?_
      assumption

theorem loseHolder_plane (g : ℕ) (d : ℕ) (s : State) (hs : PlaneOnly s0 s) : PlaneOnly s0 (loseHolder g d s) := by
  unfold loseHolder
  refine PlaneOnly.ite ?_ ?_
  · refine State.updSig_plane _ _ _ ?_
    assumption
  · assumption

theorem dropDrive_plane (g : ℕ) (d : ℕ) (missed : Bool) (s : State) (hs : PlaneOnly s0 s) : PlaneOnly s0 (dropDrive g d missed s) := by
  unfold dropDrive
  refine PlaneOnly.ite ?_ ?_
  · assumption
  · extract_lets s1
    refine endPortCmds_plane _ _ _ ?_
    refine State.updDrv_plane _ _ _ ?_
    assumption

theorem replacementFails_plane (g : ℕ) (d : ℕ) (s : State) (hs : PlaneOnly s0 s) : PlaneOnly s0 (replacementFails g d s) := by
  unfold replacementFails
  refine PlaneOnly.foldl _ _ ?_ fun s x h => ?_
  · refine PlaneOnly.upd ?_ rfl
    assumption
  · refine PlaneOnly.ite ?_ ?_
    · assumption
    · refine PlaneOnly.ite ?_ ?_
      · refine addWindows_plane _ _ _ ?_
        refine updEnt_plane _ _ _ _ ?_
        assumption
      · split
        · extract_lets s1 s2 s3 s4
          have h3 : PlaneOnly s0 s3 := by
            refine updEnt_plane _ _ _ _ ?_
            assumption
          clear_value s3
          refine PlaneOnly.ite ?_ ?_
          · assumption
          · split
            · refine addWindows_plane _ _ _ ?_
              refine putEnt_plane _ _ _ _ ?_
              assumption
            · refine setMem_plane _ _ _ _ ?_
              assumption
        · refine updEnt_plane _ _ _ _ ?_
          assumption

theorem declareNow_plane (g : ℕ) (d : ℕ) (cause : ℕ) (s : State) (hs : PlaneOnly s0 s) : PlaneOnly s0 (declareNow g d cause s) := by
  unfold declareNow
  refine PlaneOnly.ite ?_ ?_
  · assumption
  · extract_lets s1 s2 s3 s4 s5 s6 s7 s8 s9 s10 s11 s12
    have h5 : PlaneOnly s0 s5 := by
      refine dropDrive_plane _ _ _ _ ?_
      assumption
    clear_value s5
    have h6 : PlaneOnly s0 s6 := by
      refine PlaneOnly.ite ?_ ?_
      · refine State.emit_plane _ _ ?_
        assumption
      · assumption
    clear_value s6
    have h7 : PlaneOnly s0 s7 := by
      refine State.updDrv_plane _ _ _ ?_
      assumption
    clear_value s7
    have h8 : PlaneOnly s0 s8 := by
      refine State.updKeep_plane _ _ _ ?_
      assumption
    clear_value s8
    have h9 : PlaneOnly s0 s9 := by
      refine State.updSig_plane _ _ _ ?_
      assumption
    clear_value s9
    have h10 : PlaneOnly s0 s10 := by
      refine loseHolder_plane _ _ _ ?_
      refine addDead_plane _ _ _ ?_
      assumption
    clear_value s10
    have h11 : PlaneOnly s0 s11 := by
      refine setMem_plane _ _ _ _ ?_
      assumption
    clear_value s11
    have h12 : PlaneOnly s0 s12 := by
      refine PlaneOnly.ite ?_ ?_
      · refine reuse_plane _ _ ?_
        refine replacementFails_plane _ _ _ ?_
        assumption
      · refine takeEntry_plane _ _ _ _ ?_
        refine PlaneOnly.upd ?_ rfl
        assumption
    clear_value s12
    refine PlaneOnly.ite ?_ ?_
    · assumption
    · refine State.log_plane _ _ _ _ ?_
      refine State.raise_plane _ _ _ ?_
      refine State.updSig_plane _ _ _ ?_
      assumption

theorem declare_plane (g : ℕ) (d : ℕ) (cause : ℕ) (s : State) (hs : PlaneOnly s0 s) : PlaneOnly s0 (declare g d cause s) := by
  unfold declare
  refine PlaneOnly.ite ?_ ?_
  · assumption
  · refine PlaneOnly.ite ?_ ?_
    · refine PlaneOnly.ite ?_ ?_
      · assumption
      · refine State.log_plane _ _ _ _ ?_
        refine State.updSig_plane _ _ _ ?_
        assumption
    · refine declareNow_plane _ _ _ _ ?_
      assumption

theorem judgeRetire_plane (g : ℕ) (s : State) (hs : PlaneOnly s0 s) : PlaneOnly s0 (judgeRetire g s) := by
  unfold judgeRetire
  extract_lets s1
  refine PlaneOnly.ite ?_ ?_
  · assumption
  · refine PlaneOnly.foldl _ _ ?_ fun s x h => ?_
    · assumption
    · refine PlaneOnly.ite ?_ ?_
      · assumption
      · refine declare_plane _ _ _ _ ?_
        refine State.raise_plane _ _ _ ?_
        assumption

theorem doLinkLossFailTimeout_plane (p : ℕ) (s : State) (hs : PlaneOnly s0 s) : PlaneOnly s0 (doLinkLossFailTimeout p s) := by
  unfold doLinkLossFailTimeout
  split
  · extract_lets s1
    refine PlaneOnly.ite ?_ ?_
    · refine declare_plane _ _ _ _ ?_
      assumption
    · assumption
  · assumption

theorem doDeferredDeclaration_plane (g : ℕ) (d : ℕ) (s : State) (hs : PlaneOnly s0 s) : PlaneOnly s0 (doDeferredDeclaration g d s) := by
  unfold doDeferredDeclaration
  split
  · refine PlaneOnly.ite ?_ ?_
    · refine declareNow_plane _ _ _ _ ?_
      assumption
    · assumption
  · assumption

theorem doFailGo_plane (g : ℕ) (s : State) (hs : PlaneOnly s0 s) : PlaneOnly s0 (doFailGo g s) := by
  unfold doFailGo
  extract_lets s1 s2 s3
  have h1 : PlaneOnly s0 s1 := by
    refine State.pulse_plane _ _ _ ?_
    assumption
  clear_value s1
  refine PlaneOnly.ite ?_ ?_
  · refine State.log_plane _ _ _ _ ?_
    refine State.raise_plane _ _ _ ?_
    assumption
  · refine declare_plane _ _ _ _ ?_
    assumption

theorem doDestageAgeExpired_plane (g : ℕ) (t : ℕ) (s : State) (hs : PlaneOnly s0 s) : PlaneOnly s0 (doDestageAgeExpired g t s) := by
  unfold doDestageAgeExpired
  extract_lets s1
  refine PlaneOnly.ite ?_ ?_
  · refine State.updSig_plane _ _ _ ?_
    assumption
  · assumption

theorem doUpdateBegin_plane (g : ℕ) (t : ℕ) (s : State) (hs : PlaneOnly s0 s) : PlaneOnly s0 (doUpdateBegin g t s) := by
  unfold doUpdateBegin
  extract_lets s1
  refine PlaneOnly.ite ?_ ?_
  · assumption
  · refine PlaneOnly.ite ?_ ?_
    · refine startUpd_plane _ _ ?_
      assumption
    · split
      · assumption
      · refine PlaneOnly.ite ?_ ?_
        · refine startUpd_plane _ _ ?_
          assumption
        · assumption

theorem settleReads_plane (g : ℕ) (t : ℕ) (rs : List (ℕ × OffDone)) (s : State) (hs : PlaneOnly s0 s) : PlaneOnly s0 (settleReads g t rs s) := by
  unfold settleReads
  extract_lets s1 s2 s3 s4 s5
  have h2 : PlaneOnly s0 s2 := by
    refine PlaneOnly.ite ?_ ?_
    · assumption
    · refine hbAdd_plane _ _ _ _ ?_
      assumption
  clear_value s2
  have h3 : PlaneOnly s0 s3 := by
    refine PlaneOnly.foldl _ _ ?_ fun s x h => ?_
    · assumption
    · refine PlaneOnly.foldl _ _ ?_ fun s x h => ?_
      · assumption
      · refine addRepair_plane _ _ _ _ _ _ _ ?_
        assumption
  clear_value s3
  refine PlaneOnly.foldl _ _ ?_ fun s x h => ?_
  · assumption
  · refine countFix_plane _ _ _ _ _ ?_
    assumption

theorem doUpdateReadsComplete_plane (id : ℕ) (reads : List RdOffset) (s : State) (hs : PlaneOnly s0 s) : PlaneOnly s0 (doUpdateReadsComplete id reads s) := by
  unfold doUpdateReadsComplete
  split
  · assumption
  · refine PlaneOnly.ite ?_ ?_
    · assumption
    · extract_lets s1 s2 s3 s4 s5 s6 s7 s8
      have h5 : PlaneOnly s0 s5 := by
        refine PlaneOnly.foldl _ _ ?_ fun s x h => ?_
        · assumption
        · refine PlaneOnly.foldl _ _ ?_ fun s x h => ?_
          · assumption
          · refine PlaneOnly.ite ?_ ?_
            · refine finishCmd_plane _ _ _ ?_
              assumption
            · assumption
      clear_value s5
      have h6 : PlaneOnly s0 s6 := by
        refine PlaneOnly.ite ?_ ?_
        · refine State.updSig_plane _ _ _ ?_
          assumption
        · assumption
      clear_value s6
      have h7 : PlaneOnly s0 s7 := by
        refine settleReads_plane _ _ _ _ ?_
        assumption
      clear_value s7
      refine PlaneOnly.ite ?_ ?_
      · assumption
      · refine judgeRetire_plane _ _ ?_
        refine PlaneOnly.upd ?_ rfl
        assumption

theorem doUpdateReady_plane (id : ℕ) (s : State) (hs : PlaneOnly s0 s) : PlaneOnly s0 (doUpdateReady id s) := by
  unfold doUpdateReady
  split
  · assumption
  · refine PlaneOnly.ite ?_ ?_
    · refine readyUpd_plane _ _ ?_
      assumption
    · assumption

theorem doFolioWriteComplete_plane (id : ℕ) (pos : ℕ) (s : State) (hs : PlaneOnly s0 s) : PlaneOnly s0 (doFolioWriteComplete id pos s) := by
  unfold doFolioWriteComplete
  split
  · assumption
  · extract_lets s1
    clear_value s1
    split
    · refine PlaneOnly.ite ?_ ?_
      · refine folioDone_plane _ _ _ ?_
        refine finishCmd_plane _ _ _ ?_
        assumption
      · assumption
    · assumption

theorem doBitmapCommit_plane (g : ℕ) (s : State) (hs : PlaneOnly s0 s) : PlaneOnly s0 (doBitmapCommit g s) := by
  unfold doBitmapCommit
  extract_lets s1 s2 s3 s4 s5 s6 s7
  have h7 : PlaneOnly s0 s7 := by
    refine State.setSig_plane _ _ _ ?_
    assumption
  clear_value s7
  refine PlaneOnly.ite ?_ ?_
  · refine PlaneOnly.foldl _ _ ?_ fun s x h => ?_
    · assumption
    · refine State.emit_plane _ _ ?_
      assumption
  · assumption

theorem doRegionBitClear_plane (g : ℕ) (r : ℕ) (s : State) (hs : PlaneOnly s0 s) : PlaneOnly s0 (doRegionBitClear g r s) := by
  unfold doRegionBitClear
  extract_lets s1 s2 s3
  refine PlaneOnly.ite ?_ ?_
  · refine State.setSig_plane _ _ _ ?_
    assumption
  · assumption

theorem doHolderReplace_plane (g : ℕ) (d : ℕ) (s : State) (hs : PlaneOnly s0 s) : PlaneOnly s0 (doHolderReplace g d s) := by
  unfold doHolderReplace
  extract_lets s1 s2
  split
  · assumption
  · split
    · refine PlaneOnly.ite ?_ ?_
      · refine State.setSig_plane _ _ _ ?_
        assumption
      · assumption
    · refine PlaneOnly.ite ?_ ?_
      · extract_lets s3 s4 s5
        have h3 : PlaneOnly s0 s3 := by
          refine State.setSig_plane _ _ _ ?_
          assumption
        clear_value s3
        have h4 : PlaneOnly s0 s4 := by
          refine State.emit_plane _ _ ?_
          refine State.raise_plane _ _ _ ?_
          assumption
        clear_value s4
        refine State.log_plane _ _ _ _ ?_
        assumption
      · assumption

theorem writeItem_plane (use : DrvUse) (g : ℕ) (t : ℕ) (ws : List (ℕ × ℕ × RdVal)) (s : State) (hs : PlaneOnly s0 s) : PlaneOnly s0 (writeItem use g t ws s) := by
  unfold writeItem
  refine PlaneOnly.foldl _ _ ?_ fun s x h => ?_
  · assumption
  · extract_lets s1
    refine issueWrite_plane _ _ _ _ _ _ ?_
    assumption

theorem parityDone_plane (g : ℕ) (t : ℕ) (bs : List ℕ) (s : State) (hs : PlaneOnly s0 s) : PlaneOnly s0 (parityDone g t bs s) := by
  unfold parityDone
  refine State.updSig_plane _ _ _ ?_
  assumption

theorem resyncStep_plane (g from_ m : Nat) (s : State) (hs : PlaneOnly s0 s) : PlaneOnly s0 (resyncStep g from_ m s) := by
  induction m generalizing s from_ with
  | zero => exact hs
  | succ m ih =>
    unfold resyncStep
    extract_lets x
    split
    · assumption
    · split
      · exact State.setSig_plane _ _ _ hs
      · extract_lets s1
        have h1 : PlaneOnly s0 s1 := State.setSig_plane _ _ _ hs
        clear_value s1
        exact PlaneOnly.ite (State.log_plane _ _ _ _ (State.raise_plane _ _ _ (State.updSig_plane _ _ _ h1))) (ih _ _ h1)

theorem doResyncItem_plane (g : ℕ) (t : ℕ) (reads : List RdOffset) (s : State) (hs : PlaneOnly s0 s) : PlaneOnly s0 (doResyncItem g t reads s) := by
  unfold doResyncItem
  extract_lets s1 s2 s3 s4 s5 s6 s7 s8 s9 s10
  have h8 : PlaneOnly s0 s8 := by
    refine writeItem_plane _ _ _ _ _ ?_
    assumption
  clear_value s8
  have h9 : PlaneOnly s0 s9 := by
    refine PlaneOnly.ite ?_ ?_
    · assumption
    · refine State.bump_plane _ _ _ _ ?_
      assumption
  clear_value s9
  have h10 : PlaneOnly s0 s10 := by
    refine PlaneOnly.ite ?_ ?_
    · assumption
    · refine parityDone_plane _ _ _ _ ?_
      refine State.raise_plane _ _ _ ?_
      refine hbAdd_plane _ _ _ _ ?_
      assumption
  clear_value s10
  refine PlaneOnly.ite ?_ ?_
  · assumption
  · refine PlaneOnly.ite ?_ ?_
    · refine resyncStep_plane _ _ _ _ ?_
      assumption
    · refine PlaneOnly.ite ?_ ?_
      · assumption
      · refine PlaneOnly.ite ?_ ?_
        · assumption
        · refine PlaneOnly.ite ?_ ?_
          · refine State.updSig_plane _ _ _ ?_
            assumption
          · refine resyncStep_plane _ _ _ _ ?_
            assumption

theorem countHits_plane (g : ℕ) (miss : List ℕ) (lo : ℕ) (n0 : ℕ) (s : State) (hs : PlaneOnly s0 s) : PlaneOnly s0 (countHits g miss lo n0 s) := by
  unfold countHits
  refine PlaneOnly.foldl _ _ ?_ fun s x h => ?_
  · assumption
  · extract_lets s1 s2
    have h2 : PlaneOnly s0 s2 := by
      refine PlaneOnly.ite ?_ ?_
      · refine State.bump_plane _ _ _ _ ?_
        assumption
      · refine State.bump_plane _ _ _ _ ?_
        assumption
    clear_value s2
    refine touch_plane _ _ _ _ ?_
    assumption

theorem readFolios_plane (g : ℕ) (ds : List (ℕ × ℕ × ℕ)) (s : State) (hs : PlaneOnly s0 s) : PlaneOnly s0 (readFolios g ds s) := by
  unfold readFolios
  refine PlaneOnly.foldl _ _ ?_ fun s x h => ?_
  · assumption
  · extract_lets s1
    clear_value s1
    split
    · assumption
    · extract_lets s2
      refine issueRead_plane _ _ _ _ _ _ _ ?_
      assumption

theorem setRepair_plane (r : Repair) (q0 : Repair) (s : State) (hs : PlaneOnly s0 s) : PlaneOnly s0 (setRepair r q0 s) := by
  unfold setRepair
  refine PlaneOnly.upd ?_ rfl
  assumption

theorem doRepairWrite_plane (g : ℕ) (t : ℕ) (p : ℕ) (between : List (ℕ × RdBlk)) (s : State) (hs : PlaneOnly s0 s) : PlaneOnly s0 (doRepairWrite g t p between s) := by
  unfold doRepairWrite
  split
  · assumption
  · extract_lets s1 s2 s3 s4 s5 s6 s7 s8 s9
    have h8 : PlaneOnly s0 s8 := by
      refine judgeRetire_plane _ _ ?_
      refine countFix_plane _ _ _ _ _ ?_
      assumption
    clear_value s8
    have h9 : PlaneOnly s0 s9.2 := by
      refine issueWrite_plane _ _ _ _ _ _ ?_
      assumption
    clear_value s9
    refine PlaneOnly.ite ?_ ?_
    · assumption
    · refine PlaneOnly.ite ?_ ?_
      · assumption
      · split
        · refine addLost_plane _ _ _ _ _ ?_
          assumption
        · split
          · assumption
          · refine PlaneOnly.ite ?_ ?_
            · refine setRepair_plane _ _ _ ?_
              assumption
            · refine endRepair_plane _ _ ?_
              assumption

theorem readBackRepair_plane (r : Repair) (s : State) (hs : PlaneOnly s0 s) : PlaneOnly s0 (readBackRepair r s) := by
  unfold readBackRepair
  extract_lets s1
  refine issueRead_plane _ _ _ _ _ _ _ ?_
  assumption

theorem doRepairWriteComplete_plane (g : ℕ) (t : ℕ) (p : ℕ) (s : State) (hs : PlaneOnly s0 s) : PlaneOnly s0 (doRepairWriteComplete g t p s) := by
  unfold doRepairWriteComplete
  split
  · assumption
  · extract_lets s1
    have h1 : PlaneOnly s0 s1 := by
      refine finishAll_plane _ _ _ _ _ ?_
      assumption
    clear_value s1
    refine readBackRepair_plane _ _ ?_
    refine setRepair_plane _ _ _ ?_
    assumption

theorem doSelfTestReadback_plane (g : ℕ) (t : ℕ) (p : ℕ) (good : Bool) (s : State) (hs : PlaneOnly s0 s) : PlaneOnly s0 (doSelfTestReadback g t p good s) := by
  unfold doSelfTestReadback
  split
  · assumption
  · extract_lets s1 s2 s3 s4 s5 s6
    have h1 : PlaneOnly s0 s1 := by
      refine finishAll_plane _ _ _ _ _ ?_
      assumption
    clear_value s1
    have h3 : PlaneOnly s0 s3 := by
      refine PlaneOnly.ite ?_ ?_
      · refine State.raise_plane _ _ _ ?_
        assumption
      · assumption
    clear_value s3
    have h4 : PlaneOnly s0 s4 := by
      refine State.log_plane _ _ _ _ ?_
      assumption
    clear_value s4
    have h5 : PlaneOnly s0 s5.2 := by
      refine issueWrite_plane _ _ _ _ _ _ ?_
      assumption
    clear_value s5
    have h6 : PlaneOnly s0 s6 := by
      refine State.log_plane _ _ _ _ ?_
      refine State.raise_plane _ _ _ ?_
      refine endRepair_plane _ _ ?_
      assumption
    clear_value s6
    refine PlaneOnly.ite ?_ ?_
    · refine readBackRepair_plane _ _ ?_
      refine setRepair_plane _ _ _ ?_
      assumption
    · refine PlaneOnly.ite ?_ ?_
      · refine endRepair_plane _ _ ?_
        assumption
      · refine PlaneOnly.ite ?_ ?_
        · refine PlaneOnly.ite ?_ ?_
          · refine setRepair_plane _ _ _ ?_
            assumption
          · refine endRepair_plane _ _ ?_
            assumption
        · refine declare_plane _ _ _ _ ?_
          assumption

theorem endLap_plane (g : ℕ) (s : State) (hs : PlaneOnly s0 s) : PlaneOnly s0 (endLap g s) := by
  unfold endLap
  extract_lets s1 s2 s3 s4 s5
  have h5 : PlaneOnly s0 s5 := by
    refine State.setSig_plane _ _ _ ?_
    assumption
  clear_value s5
  refine State.log_plane _ _ _ _ ?_
  refine State.raise_plane _ _ _ ?_
  refine State.put_plane _ _ _ _ ?_
  assumption

theorem doProofingItem_plane (g : ℕ) (reads : List RdOffset) (s : State) (hs : PlaneOnly s0 s) : PlaneOnly s0 (doProofingItem g reads s) := by
  unfold doProofingItem
  refine PlaneOnly.ite ?_ ?_
  · assumption
  · extract_lets s1
    have h1 : PlaneOnly s0 s1 := by
      refine PlaneOnly.ite ?_ ?_
      · assumption
      · refine State.log_plane _ _ _ _ ?_
        refine State.updSig_plane _ _ _ ?_
        assumption
    clear_value s1
    split
    · refine endLap_plane _ _ ?_
      assumption
    · refine PlaneOnly.ite ?_ ?_
      · assumption
      · extract_lets s2 s3 s4 s5 s6 s7 s8 s9 s10 s11 s12 s13
        have h5 : PlaneOnly s0 s5 := by
          refine PlaneOnly.ite ?_ ?_
          · assumption
          · refine hbAdd_plane _ _ _ _ ?_
            assumption
        clear_value s5
        have h6 : PlaneOnly s0 s6 := by
          refine PlaneOnly.foldl _ _ ?_ fun s x h => ?_
          · assumption
          · refine PlaneOnly.ite ?_ ?_
            · refine State.updSig_plane _ _ _ ?_
              assumption
            · assumption
        clear_value s6
        have h7 : PlaneOnly s0 s7 := by
          refine PlaneOnly.foldl _ _ ?_ fun s x h => ?_
          · assumption
          · refine PlaneOnly.foldl _ _ ?_ fun s x h => ?_
            · assumption
            · refine addRepair_plane _ _ _ _ _ _ _ ?_
              assumption
        clear_value s7
        have h9 : PlaneOnly s0 s9 := by
          refine State.bump_plane _ _ _ _ ?_
          assumption
        clear_value s9
        have h12 : PlaneOnly s0 s12 := by
          refine PlaneOnly.foldl _ _ ?_ fun s x h => ?_
          · assumption
          · refine PlaneOnly.ite ?_ ?_
            · refine countSilent_plane _ _ _ ?_
              assumption
            · assumption
        clear_value s12
        have h13 : PlaneOnly s0 s13 := by
          refine judgeRetire_plane _ _ ?_
          refine State.updKeep_plane _ _ _ ?_
          assumption
        clear_value s13
        refine PlaneOnly.ite ?_ ?_
        · assumption
        · refine PlaneOnly.ite ?_ ?_
          · refine endLap_plane _ _ ?_
            assumption
          · assumption

theorem doCorrSel_plane (g : ℕ) (v : ℕ) (s : State) (hs : PlaneOnly s0 s) : PlaneOnly s0 (doCorrSel g v s) := by
  unfold doCorrSel
  extract_lets s1
  refine State.put_plane _ _ _ _ ?_
  refine State.put_plane _ _ _ _ ?_
  refine State.put_plane _ _ _ _ ?_
  assumption

theorem finishWins_plane (g : ℕ) (s : State) (hs : PlaneOnly s0 s) : PlaneOnly s0 (finishWins g s) := by
  unfold finishWins
  refine PlaneOnly.foldl _ _ ?_ fun s x h => ?_
  · assumption
  · refine PlaneOnly.ite ?_ ?_
    · refine updEnt_plane _ _ _ _ ?_
      assumption
    · assumption

theorem endWalk_plane (g : ℕ) (e : ℕ) (s : State) (hs : PlaneOnly s0 s) : PlaneOnly s0 (endWalk g e s) := by
  unfold endWalk
  split
  · assumption
  · extract_lets s1 s2 s3 s4
    have h1 : PlaneOnly s0 s1 := by
      refine State.log_plane _ _ _ _ ?_
      refine State.raise_plane _ _ _ ?_
      assumption
    clear_value s1
    have h2 : PlaneOnly s0 s2 := by
      refine freeEnt_plane _ _ _ ?_
      assumption
    clear_value s2
    refine PlaneOnly.ite ?_ ?_
    · refine PlaneOnly.ite ?_ ?_
      · assumption
      · refine setMem_plane _ _ _ _ ?_
        assumption
    · refine updEnt_plane _ _ _ _ ?_
      assumption

theorem endWalks_plane (g : ℕ) (s : State) (hs : PlaneOnly s0 s) : PlaneOnly s0 (endWalks g s) := by
  unfold endWalks
  refine PlaneOnly.foldl _ _ ?_ fun s x h => ?_
  · assumption
  · split
    · refine PlaneOnly.ite ?_ ?_
      · refine endWalk_plane _ _ _ ?_
        assumption
      · assumption
    · assumption

theorem rbSettle_plane (g : ℕ) (t : ℕ) (rs : List (ℕ × RbOff)) (s : State) (hs : PlaneOnly s0 s) : PlaneOnly s0 (rbSettle g t rs s) := by
  unfold rbSettle
  extract_lets s1 s2 s3 s4 s5
  have h2 : PlaneOnly s0 s2 := by
    refine PlaneOnly.ite ?_ ?_
    · assumption
    · refine State.log_plane _ _ _ _ ?_
      refine State.raise_plane _ _ _ ?_
      refine State.bump_plane _ _ _ _ ?_
      refine hbAdd_plane _ _ _ _ ?_
      assumption
  clear_value s2
  have h3 : PlaneOnly s0 s3 := by
    refine PlaneOnly.foldl _ _ ?_ fun s x h => ?_
    · assumption
    · refine PlaneOnly.foldl _ _ ?_ fun s x h => ?_
      · assumption
      · refine State.bump_plane _ _ _ _ ?_
        refine addRepair_plane _ _ _ _ _ _ _ ?_
        assumption
  clear_value s3
  refine judgeRetire_plane _ _ ?_
  refine PlaneOnly.foldl _ _ ?_ fun s x h => ?_
  · assumption
  · refine PlaneOnly.ite ?_ ?_
    · refine countSilent_plane _ _ _ ?_
      assumption
    · assumption

theorem startItem_plane (g : ℕ) (t : ℕ) (es : List ℕ) (critical : Bool) (reads : List RdOffset) (s : State) (hs : PlaneOnly s0 s) : PlaneOnly s0 (startItem g t es critical reads s) := by
  unfold startItem
  refine PlaneOnly.ite ?_ ?_
  · assumption
  · extract_lets s1 s2 s3 s4 s5 s6
    split
    · assumption
    · extract_lets s7 s8 s9
      have h7 : PlaneOnly s0 s7 := by
        refine rbSettle_plane _ _ _ _ ?_
        assumption
      clear_value s7
      have h8 : PlaneOnly s0 s8 := by
        refine PlaneOnly.foldl _ _ ?_ fun s x h => ?_
        · assumption
        · refine State.log_plane _ _ _ _ ?_
          refine State.raise_plane _ _ _ ?_
          refine updEnt_plane _ _ _ _ ?_
          assumption
      clear_value s8
      have h9 : PlaneOnly s0 s9 := by
        refine PlaneOnly.upd ?_ rfl
        assumption
      clear_value s9
      refine PlaneOnly.foldl _ _ ?_ fun s x h => ?_
      · assumption
      · split
        · refine writeAt_plane _ _ _ _ _ _ _ ?_
          assumption
        · assumption

theorem doCriticalItem_plane (g : ℕ) (reads : List RdOffset) (s : State) (hs : PlaneOnly s0 s) : PlaneOnly s0 (doCriticalItem g reads s) := by
  unfold doCriticalItem
  refine PlaneOnly.ite ?_ ?_
  · assumption
  · extract_lets s1
    have h1 : PlaneOnly s0 s1 := by
      refine finishWins_plane _ _ ?_
      assumption
    clear_value s1
    split
    · refine startItem_plane _ _ _ _ _ _ ?_
      assumption
    · refine endWalks_plane _ _ ?_
      assumption

theorem doNormalItem_plane (g : ℕ) (reads : List RdOffset) (s : State) (hs : PlaneOnly s0 s) : PlaneOnly s0 (doNormalItem g reads s) := by
  unfold doNormalItem
  refine PlaneOnly.ite ?_ ?_
  · assumption
  · extract_lets s1 s2
    have h1 : PlaneOnly s0 s1 := by
      refine finishWins_plane _ _ ?_
      assumption
    clear_value s1
    have h2 : PlaneOnly s0 s2 := by
      refine endWalks_plane _ _ ?_
      assumption
    clear_value s2
    refine PlaneOnly.ite ?_ ?_
    · assumption
    · split
      · refine startItem_plane _ _ _ _ _ _ ?_
        assumption
      · assumption

theorem doRebuildItemComplete_plane (g : ℕ) (t : ℕ) (s : State) (hs : PlaneOnly s0 s) : PlaneOnly s0 (doRebuildItemComplete g t s) := by
  unfold doRebuildItemComplete
  split
  · assumption
  · extract_lets s1 s2 s3
    have h2 : PlaneOnly s0 s2 := by
      refine finishAll_plane _ _ _ _ _ ?_
      refine PlaneOnly.upd ?_ rfl
      assumption
    clear_value s2
    have h3 : PlaneOnly s0 s3 := by
      refine PlaneOnly.foldl _ _ ?_ fun s x h => ?_
      · assumption
      · split
        · assumption
        · extract_lets s4
          refine updEnt_plane _ _ _ _ ?_
          assumption
    clear_value s3
    refine endWalks_plane _ _ ?_
    refine finishWins_plane _ _ ?_
    assumption

theorem endCopyback_plane (g : ℕ) (e : ℕ) (s : State) (hs : PlaneOnly s0 s) : PlaneOnly s0 (endCopyback g e s) := by
  unfold endCopyback
  split
  · assumption
  · extract_lets s1 s2 s3
    have h1 : PlaneOnly s0 s1 := by
      refine State.log_plane _ _ _ _ ?_
      refine State.raise_plane _ _ _ ?_
      assumption
    clear_value s1
    have h2 : PlaneOnly s0 s2 := by
      refine freeEnt_plane _ _ _ ?_
      assumption
    clear_value s2
    refine PlaneOnly.ite ?_ ?_
    · assumption
    · refine setMem_plane _ _ _ _ ?_
      assumption

theorem doCopybackItem_plane (g : ℕ) (e : ℕ) (reads : List RdOffset) (s : State) (hs : PlaneOnly s0 s) : PlaneOnly s0 (doCopybackItem g e reads s) := by
  unfold doCopybackItem
  extract_lets s1
  split
  · assumption
  · refine PlaneOnly.ite ?_ ?_
    · assumption
    · split
      · refine endCopyback_plane _ _ _ ?_
        refine updEnt_plane _ _ _ _ ?_
        assumption
      · extract_lets s2 s3
        refine PlaneOnly.ite ?_ ?_
        · assumption
        · split
          · assumption
          · refine PlaneOnly.ite ?_ ?_
            · refine PlaneOnly.upd ?_ rfl
              assumption
            · extract_lets s4 s5 s6 s7
              have h7 : PlaneOnly s0 s7 := by
                refine rbSettle_plane _ _ _ _ ?_
                assumption
              clear_value s7
              refine PlaneOnly.ite ?_ ?_
              · assumption
              · refine PlaneOnly.ite ?_ ?_
                · refine writeAt_plane _ _ _ _ _ _ _ ?_
                  refine PlaneOnly.upd ?_ rfl
                  assumption
                · assumption
      · assumption

theorem doCopybackWriteComplete_plane (g : ℕ) (e : ℕ) (s : State) (hs : PlaneOnly s0 s) : PlaneOnly s0 (doCopybackWriteComplete g e s) := by
  unfold doCopybackWriteComplete
  split
  · assumption
  · extract_lets s1 s2
    have h1 : PlaneOnly s0 s1 := by
      refine finishAll_plane _ _ _ _ _ ?_
      refine PlaneOnly.upd ?_ rfl
      assumption
    clear_value s1
    have h2 : PlaneOnly s0 s2 := by
      refine updEnt_plane _ _ _ _ ?_
      assumption
    clear_value s2
    split
    · refine PlaneOnly.ite ?_ ?_
      · refine endCopyback_plane _ _ _ ?_
        refine updEnt_plane _ _ _ _ ?_
        assumption
      · assumption
    · assumption

theorem doEntSel_plane (g : ℕ) (v : ℕ) (s : State) (hs : PlaneOnly s0 s) : PlaneOnly s0 (doEntSel g v s) := by
  unfold doEntSel
  extract_lets s1 s2 s3 s4 s5 s6 s7 s8 s9 s10 s11 s12 s13 s14 s15 s16
  have h4 : PlaneOnly s0 s4 := by
    refine State.put_plane _ _ _ _ ?_
    refine State.put_plane _ _ _ _ ?_
    assumption
  clear_value s4
  have h5 : PlaneOnly s0 s5 := by
    refine State.putB_plane _ _ _ _ ?_
    refine State.putB_plane _ _ _ _ ?_
    assumption
  clear_value s5
  have h6 : PlaneOnly s0 s6 := by
    refine State.put_plane _ _ _ _ ?_
    refine State.put_plane _ _ _ _ ?_
    assumption
  clear_value s6
  have h7 : PlaneOnly s0 s7 := by
    refine State.put_plane _ _ _ _ ?_
    refine State.put_plane _ _ _ _ ?_
    assumption
  clear_value s7
  have h9 : PlaneOnly s0 s9 := by
    unfold s9
    unfold s8
    refine State.put_plane _ _ _ _ ?_
    refine State.put_plane _ _ _ _ ?_
    assumption
  clear_value s9
  have h10 : PlaneOnly s0 s10 := by
    unfold s10
    unfold s8
    refine State.put_plane _ _ _ _ ?_
    refine State.put_plane _ _ _ _ ?_
    assumption
  clear_value s10
  have h11 : PlaneOnly s0 s11 := by
    unfold s11
    unfold s8
    refine State.put_plane _ _ _ _ ?_
    refine State.put_plane _ _ _ _ ?_
    assumption
  clear_value s11
  have h12 : PlaneOnly s0 s12 := by
    unfold s12
    unfold s8
    refine State.put_plane _ _ _ _ ?_
    refine State.put_plane _ _ _ _ ?_
    assumption
  clear_value s12
  have h14 : PlaneOnly s0 s14 := by
    unfold s14
    unfold s8
    refine State.put_plane _ _ _ _ ?_
    refine State.put_plane _ _ _ _ ?_
    assumption
  clear_value s14
  have h15 : PlaneOnly s0 s15 := by
    refine State.put_plane _ _ _ _ ?_
    refine State.put_plane _ _ _ _ ?_
    assumption
  clear_value s15
  refine State.put_plane _ _ _ _ ?_
  assumption

theorem writeLabels_plane (g : ℕ) (d : ℕ) (i : Imposition) (target : Option (List ℕ)) (s : State) (hs : PlaneOnly s0 s) : PlaneOnly s0 (writeLabels g d i target s) := by
  unfold writeLabels
  extract_lets s1 s2 s3 s4
  have h4 : PlaneOnly s0 s4 := by
    refine State.emit_plane _ _ ?_
    assumption
  clear_value s4
  refine State.emit_plane _ _ ?_
  assumption

theorem writeAllLabels_plane (g : ℕ) (ds : List ℕ) (i : Imposition) (target : Option (List ℕ)) (s : State) (hs : PlaneOnly s0 s) : PlaneOnly s0 (writeAllLabels g ds i target s) := by
  unfold writeAllLabels
  extract_lets s1
  have h1 : PlaneOnly s0 s1 := by
    refine PlaneOnly.foldl _ _ ?_ fun s x h => ?_
    · assumption
    · refine PlaneOnly.ite ?_ ?_
      · refine writeLabels_plane _ _ _ _ _ ?_
        assumption
      · assumption
  clear_value s1
  refine State.updSig_plane _ _ _ ?_
  assumption

theorem updRs_plane (g : ℕ) (f : Reshape → Reshape) (s : State) (hs : PlaneOnly s0 s) : PlaneOnly s0 (updRs g f s) := by
  unfold updRs
  refine State.updSig_plane _ _ _ ?_
  assumption

theorem updWin_plane (g : ℕ) (f : CopyWin → CopyWin) (s : State) (hs : PlaneOnly s0 s) : PlaneOnly s0 (updWin g f s) := by
  unfold updWin
  refine updRs_plane _ _ _ ?_
  assumption

theorem doWindowClaim_plane (g : ℕ) (s : State) (hs : PlaneOnly s0 s) : PlaneOnly s0 (doWindowClaim g s) := by
  unfold doWindowClaim
  split
  · extract_lets s1 s2 s3 s4 s5
    have h4 : PlaneOnly s0 s4 := by
      refine updRs_plane _ _ _ ?_
      assumption
    clear_value s4
    refine PlaneOnly.ite ?_ ?_
    · assumption
    · refine PlaneOnly.foldl _ _ ?_ fun s x h => ?_
      · assumption
      · refine startUpd_plane _ _ ?_
        assumption
  · assumption

theorem doWindowReadComplete_plane (g : ℕ) (reads : List (ℕ × List RdOffset)) (s : State) (hs : PlaneOnly s0 s) : PlaneOnly s0 (doWindowReadComplete g reads s) := by
  unfold doWindowReadComplete
  split
  · assumption
  · refine PlaneOnly.ite ?_ ?_
    · assumption
    · extract_lets s1 s2 s3 s4 s5 s6 s7 s8 s9 s10 s11 s12 s13 s14
      have h6 : PlaneOnly s0 s6 := by
        refine PlaneOnly.ite ?_ ?_
        · assumption
        · refine hbAdd_plane _ _ _ _ ?_
          assumption
      clear_value s6
      have h8 : PlaneOnly s0 s8 := by
        refine PlaneOnly.foldl _ _ ?_ fun s x h => ?_
        · assumption
        · refine countFix_plane _ _ _ _ _ ?_
          assumption
      clear_value s8
      have h14 : PlaneOnly s0 s14 := by
        refine PlaneOnly.upd ?_ rfl
        assumption
      clear_value s14
      refine PlaneOnly.ite ?_ ?_
      · assumption
      · refine judgeRetire_plane _ _ ?_
        refine updWin_plane _ _ _ ?_
        assumption

theorem winWrite_plane (id : ℕ) (s : State) (hs : PlaneOnly s0 s) : PlaneOnly s0 (winWrite id s) := by
  unfold winWrite
  split
  · assumption
  · extract_lets s1
    have h1 : PlaneOnly s0 s1 := by
      refine PlaneOnly.upd ?_ rfl
      assumption
    clear_value s1
    refine PlaneOnly.foldl _ _ ?_ fun s x h => ?_
    · assumption
    · extract_lets s2
      refine PlaneOnly.ite ?_ ?_
      · refine folioDone_plane _ _ _ ?_
        assumption
      · split
        · refine writeAt_plane _ _ _ _ _ _ _ ?_
          assumption
        · refine folioDone_plane _ _ _ ?_
          refine noteMissed_plane _ _ _ _ ?_
          assumption

theorem doWindowParityComplete_plane (g : ℕ) (s : State) (hs : PlaneOnly s0 s) : PlaneOnly s0 (doWindowParityComplete g s) := by
  unfold doWindowParityComplete
  split
  · assumption
  · refine PlaneOnly.ite ?_ ?_
    · assumption
    · extract_lets s1 s2 s3
      have h1 : PlaneOnly s0 s1 := by
        refine PlaneOnly.upd ?_ rfl
        assumption
      clear_value s1
      have h2 : PlaneOnly s0 s2 := by
        refine updWin_plane _ _ _ ?_
        assumption
      clear_value s2
      refine PlaneOnly.ite ?_ ?_
      · refine PlaneOnly.foldl _ _ ?_ fun s x h => ?_
        · refine updWin_plane _ _ _ ?_
          assumption
        · refine winWrite_plane _ _ ?_
          assumption
      · assumption

theorem sendCkpt_plane (g : ℕ) (c : Ckpt) (s : State) (hs : PlaneOnly s0 s) : PlaneOnly s0 (sendCkpt g c s) := by
  unfold sendCkpt
  refine PlaneOnly.foldl _ _ ?_ fun s x h => ?_
  · assumption
  · refine State.emit_plane _ _ ?_
    assumption

theorem doWindowWriteComplete_plane (g : ℕ) (s : State) (hs : PlaneOnly s0 s) : PlaneOnly s0 (doWindowWriteComplete g s) := by
  unfold doWindowWriteComplete
  split
  · assumption
  · split
    · assumption
    · refine PlaneOnly.ite ?_ ?_
      · assumption
      · extract_lets s1 s2
        have h2 : PlaneOnly s0 s2 := by
          refine PlaneOnly.foldl _ _ ?_ fun s x h => ?_
          · assumption
          · extract_lets s3
            refine PlaneOnly.foldl _ _ ?_ fun s x h => ?_
            · assumption
            · refine folioDone_plane _ _ _ ?_
              refine finishCmd_plane _ _ _ ?_
              assumption
        clear_value s2
        refine PlaneOnly.ite ?_ ?_
        · assumption
        · refine sendCkpt_plane _ _ _ ?_
          refine updWin_plane _ _ _ ?_
          assumption

theorem moveRanges_plane (g : ℕ) (s : State) (hs : PlaneOnly s0 s) : PlaneOnly s0 (moveRanges g s) := by
  unfold moveRanges
  split
  · extract_lets s1 s2 s3 s4
    have h4 : PlaneOnly s0 s4 := by
      refine PlaneOnly.foldl _ _ ?_ fun s x h => ?_
      · assumption
      · refine updEnt_plane _ _ _ _ ?_
        assumption
    clear_value s4
    refine PlaneOnly.foldl _ _ ?_ fun s x h => ?_
    · assumption
    · refine freeEnt_plane _ _ _ ?_
      assumption
  · assumption

theorem releaseLines_plane (g : Nat) (w : CopyWin) (s : State) (hs : PlaneOnly s0 s) : ∀ t, releaseLines g w s = some t → PlaneOnly s0 t := by
  intro t ht
  unfold releaseLines at ht
  dsimp only at ht
  refine putBlocks_plane _ _ _ _ _ ?_ _ ht
  refine PlaneOnly.foldl _ _ (PlaneOnly.upd hs rfl) fun s x h => ?_
  exact settleLine_plane _ _ _ h

theorem reformGalleys_plane (g : ℕ) (w : CopyWin) (s : State) (hs : PlaneOnly s0 s) : PlaneOnly s0 (reformGalleys g w s) := by
  unfold reformGalleys
  refine PlaneOnly.foldl _ _ ?_ fun s x h => ?_
  · assumption
  · extract_lets s1
    refine PlaneOnly.ite ?_ ?_
    · split
      · extract_lets s2 s3
        have h3 : PlaneOnly s0 s3 := by
          refine PlaneOnly.foldl _ _ ?_ fun s x h => ?_
          · assumption
          · refine fillBlock_plane _ _ _ _ _ ?_
            assumption
        clear_value s3
        refine retainSheet_plane _ _ _ _ ?_
        assumption
      · assumption
    · assumption

theorem beginFormat_plane (p : ℕ) (g : ℕ) (ent : Option ℕ) (d : ℕ) (s : State) (hs : PlaneOnly s0 s) : PlaneOnly s0 (beginFormat p g ent d s) := by
  unfold beginFormat
  extract_lets s1 s2
  have h2 : PlaneOnly s0 s2 := by
    refine State.put_plane _ _ _ _ ?_
    refine State.updDrv_plane _ _ _ ?_
    assumption
  clear_value s2
  refine PlaneOnly.ite ?_ ?_
  · assumption
  · refine State.emit_plane _ _ ?_
    assumption

theorem updEntsOf_plane (g : ℕ) (d : ℕ) (f : FailEnt → FailEnt) (s : State) (hs : PlaneOnly s0 s) : PlaneOnly s0 (updEntsOf g d f s) := by
  unfold updEntsOf
  refine PlaneOnly.foldl _ _ ?_ fun s x h => ?_
  · assumption
  · refine PlaneOnly.ite ?_ ?_
    · refine updEnt_plane _ _ _ _ ?_
      assumption
    · assumption

theorem refuseReplacement_plane (g : ℕ) (d : ℕ) (p : ℕ) (reason : ℕ) (s : State) (hs : PlaneOnly s0 s) : PlaneOnly s0 (refuseReplacement g d p reason s) := by
  unfold refuseReplacement
  refine State.log_plane _ _ _ _ ?_
  refine State.raise_plane _ _ _ ?_
  assumption

theorem handOver_plane (p : ℕ) (s : State) (hs : PlaneOnly s0 s) : PlaneOnly s0 (handOver p s) := by
  unfold handOver
  split
  · assumption
  · split
    · assumption
    · extract_lets s1 s2 s3 s4
      have h4 : PlaneOnly s0 s4 := by
        refine updEntsOf_plane _ _ _ _ ?_
        assumption
      clear_value s4
      refine PlaneOnly.ite ?_ ?_
      · assumption
      · refine PlaneOnly.ite ?_ ?_
        · refine refuseReplacement_plane _ _ _ _ _ ?_
          assumption
        · refine PlaneOnly.ite ?_ ?_
          · refine refuseReplacement_plane _ _ _ _ _ ?_
            assumption
          · refine PlaneOnly.ite ?_ ?_
            · refine beginFormat_plane _ _ _ _ _ ?_
              assumption
            · assumption

theorem formatFails_plane (p : ℕ) (s : State) (hs : PlaneOnly s0 s) : PlaneOnly s0 (formatFails p s) := by
  unfold formatFails
  split
  · assumption
  · extract_lets s1 s2 s3
    have h1 : PlaneOnly s0 s1 := by
      refine State.updDrv_plane _ _ _ ?_
      assumption
    clear_value s1
    have h2 : PlaneOnly s0 s2 := by
      refine PlaneOnly.ite ?_ ?_
      · refine State.emit_plane _ _ ?_
        assumption
      · assumption
    clear_value s2
    have h3 : PlaneOnly s0 s3 := by
      refine refuseReplacement_plane _ _ _ _ _ ?_
      refine State.log_plane _ _ _ _ ?_
      assumption
    clear_value s3
    refine PlaneOnly.ite ?_ ?_
    · refine updEntsOf_plane _ _ _ _ ?_
      assumption
    · refine State.updSig_plane _ _ _ ?_
      assumption

theorem replacementReady_plane (g : ℕ) (d : ℕ) (p : ℕ) (s : State) (hs : PlaneOnly s0 s) : PlaneOnly s0 (replacementReady g d p s) := by
  unfold replacementReady
  extract_lets s1 s2 s3 s4
  have h1 : PlaneOnly s0 s1 := by
    refine State.updDrv_plane _ _ _ ?_
    assumption
  clear_value s1
  have h2 : PlaneOnly s0 s2 := by
    unfold s2
    split
    · refine writeAllLabels_plane _ _ _ _ _ ?_
      assumption
    · assumption
  clear_value s2
  have h4 : PlaneOnly s0 s4 := by
    refine setMem_plane _ _ _ _ ?_
    assumption
  clear_value s4
  refine updEntsOf_plane _ _ _ _ ?_
  assumption

theorem doSataFormatItem_plane (p : ℕ) (s : State) (hs : PlaneOnly s0 s) : PlaneOnly s0 (doSataFormatItem p s) := by
  unfold doSataFormatItem
  extract_lets s1
  split
  · assumption
  · extract_lets s2 s3 s4 s5
    have h5 : PlaneOnly s0 s5 := by
      refine State.put_plane _ _ _ _ ?_
      refine State.updDrv_plane _ _ _ ?_
      assumption
    clear_value s5
    refine PlaneOnly.ite ?_ ?_
    · assumption
    · refine State.emit_plane _ _ ?_
      assumption

theorem doFormatPoll_plane (p : ℕ) (pct : ℕ) (s : State) (hs : PlaneOnly s0 s) : PlaneOnly s0 (doFormatPoll p pct s) := by
  unfold doFormatPoll
  extract_lets s1
  refine PlaneOnly.ite ?_ ?_
  · refine State.put_plane _ _ _ _ ?_
    assumption
  · assumption

theorem doFormatComplete_plane (p : ℕ) (s : State) (hs : PlaneOnly s0 s) : PlaneOnly s0 (doFormatComplete p s) := by
  unfold doFormatComplete
  extract_lets s1 s2 s3
  have h2 : PlaneOnly s0 s2 := by
    refine State.emit_plane _ _ ?_
    refine State.emit_plane _ _ ?_
    assumption
  clear_value s2
  have h3 : PlaneOnly s0 s3 := by
    refine State.log_plane _ _ _ _ ?_
    refine State.raise_plane _ _ _ ?_
    refine State.put_plane _ _ _ _ ?_
    assumption
  clear_value s3
  split
  · assumption
  · refine PlaneOnly.ite ?_ ?_
    · assumption
    · refine PlaneOnly.ite ?_ ?_
      · refine replacementReady_plane _ _ _ _ ?_
        assumption
      · refine State.updDrv_plane _ _ _ ?_
        assumption

theorem doFormatTimeout_plane (p : ℕ) (s : State) (hs : PlaneOnly s0 s) : PlaneOnly s0 (doFormatTimeout p s) := by
  unfold doFormatTimeout
  split
  · refine PlaneOnly.ite ?_ ?_
    · refine formatFails_plane _ _ ?_
      assumption
    · assumption
  · assumption

theorem makeAbsent_plane (p : ℕ) (s : State) (hs : PlaneOnly s0 s) : PlaneOnly s0 (makeAbsent p s) := by
  unfold makeAbsent
  split
  · assumption
  · extract_lets s1 s2 s3 s4
    have h3 : PlaneOnly s0 s3 := by
      refine setMem_plane _ _ _ _ ?_
      assumption
    clear_value s3
    have h4 : PlaneOnly s0 s4 := by
      refine addDead_plane _ _ _ ?_
      refine dropDrive_plane _ _ _ _ ?_
      assumption
    clear_value s4
    refine PlaneOnly.ite ?_ ?_
    · refine State.updDrv_plane _ _ _ ?_
      assumption
    · refine PlaneOnly.ite ?_ ?_
      · refine PlaneOnly.ite ?_ ?_
        · refine declare_plane _ _ _ _ ?_
          refine State.updDrv_plane _ _ _ ?_
          assumption
        · assumption
      · refine PlaneOnly.ite ?_ ?_
        · assumption
        · refine State.log_plane _ _ _ _ ?_
          refine State.updSig_plane _ _ _ ?_
          assumption

theorem driveGone_plane (p : ℕ) (s : State) (hs : PlaneOnly s0 s) : PlaneOnly s0 (driveGone p s) := by
  unfold driveGone
  extract_lets s1 s2
  have h1 : PlaneOnly s0 s1 := by
    refine makeAbsent_plane _ _ ?_
    refine formatFails_plane _ _ ?_
    assumption
  clear_value s1
  have h2 : PlaneOnly s0 s2 := by
    refine endPortCmds_plane _ _ _ ?_
    assumption
  clear_value s2
  refine State.put_plane _ _ _ _ ?_
  refine State.updDrv_plane _ _ _ ?_
  assumption

theorem doPresentWrite_plane (p : ℕ) (v : Bool) (s : State) (hs : PlaneOnly s0 s) : PlaneOnly s0 (doPresentWrite p v s) := by
  unfold doPresentWrite
  extract_lets s1 s2 s3
  have h2 : PlaneOnly s0 s2 := by
    refine State.putB_plane _ _ _ _ ?_
    assumption
  clear_value s2
  have h3 : PlaneOnly s0 s3 := by
    refine State.updDrv_plane _ _ _ ?_
    assumption
  clear_value s3
  refine PlaneOnly.ite ?_ ?_
  · assumption
  · refine PlaneOnly.ite ?_ ?_
    · refine PlaneOnly.ite ?_ ?_
      · refine State.ibi_plane _ _ ?_
        refine State.put_plane _ _ _ _ ?_
        assumption
      · assumption
    · refine State.updDrv_plane _ _ _ ?_
      refine driveGone_plane _ _ ?_
      refine State.put_plane _ _ _ _ ?_
      assumption

theorem doPwrOnWrite_plane (p : ℕ) (v : Bool) (s : State) (hs : PlaneOnly s0 s) : PlaneOnly s0 (doPwrOnWrite p v s) := by
  unfold doPwrOnWrite
  extract_lets s1 s2 s3 s4
  have h2 : PlaneOnly s0 s2 := by
    refine State.putB_plane _ _ _ _ ?_
    assumption
  clear_value s2
  have h3 : PlaneOnly s0 s3 := by
    refine State.put_plane _ _ _ _ ?_
    assumption
  clear_value s3
  have h4 : PlaneOnly s0 s4 := by
    refine driveGone_plane _ _ ?_
    assumption
  clear_value s4
  refine PlaneOnly.ite ?_ ?_
  · refine PlaneOnly.ite ?_ ?_
    · assumption
    · refine State.updDrv_plane _ _ _ ?_
      assumption
  · refine PlaneOnly.ite ?_ ?_
    · assumption
    · refine PlaneOnly.ite ?_ ?_
      · refine State.ibi_plane _ _ ?_
        refine State.put_plane _ _ _ _ ?_
        assumption
      · assumption

theorem doAbsentLimitExpired_plane (g : ℕ) (d : ℕ) (s : State) (hs : PlaneOnly s0 s) : PlaneOnly s0 (doAbsentLimitExpired g d s) := by
  unfold doAbsentLimitExpired
  extract_lets s1
  split
  · refine PlaneOnly.ite ?_ ?_
    · refine declare_plane _ _ _ _ ?_
      assumption
    · assumption
  · assumption

theorem caughtUp_plane (g : ℕ) (d : ℕ) (r : ℕ) (s : State) (hs : PlaneOnly s0 s) : PlaneOnly s0 (caughtUp g d r s) := by
  unfold caughtUp
  extract_lets s1 s2 s3
  have h3 : PlaneOnly s0 s3 := by
    refine State.updSig_plane _ _ _ ?_
    refine setMem_plane _ _ _ _ ?_
    assumption
  clear_value s3
  refine PlaneOnly.ite ?_ ?_
  · refine State.log_plane _ _ _ _ ?_
    refine State.raise_plane _ _ _ ?_
    assumption
  · assumption

theorem doCatchupItem_plane (g : ℕ) (d : ℕ) (t : ℕ) (reads : List RdOffset) (s : State) (hs : PlaneOnly s0 s) : PlaneOnly s0 (doCatchupItem g d t reads s) := by
  unfold doCatchupItem
  refine PlaneOnly.ite ?_ ?_
  · assumption
  · split
    · assumption
    · refine caughtUp_plane _ _ _ _ ?_
      assumption
    · refine PlaneOnly.ite ?_ ?_
      · assumption
      · split
        · assumption
        · split
          · assumption
          · extract_lets s1
            refine PlaneOnly.ite ?_ ?_
            · unfold s1
              extract_lets s2 s3
              have h3 : PlaneOnly s0 s3 := by
                refine setMem_plane _ _ _ _ ?_
                assumption
              clear_value s3
              split
              · refine caughtUp_plane _ _ _ _ ?_
                assumption
              · assumption
            · split
              · assumption
              · unfold s1
                extract_lets s4 s5
                have h5 : PlaneOnly s0 s5 := by
                  refine setMem_plane _ _ _ _ ?_
                  refine writeAt_plane _ _ _ _ _ _ _ ?_
                  refine rbSettle_plane _ _ _ _ ?_
                  assumption
                clear_value s5
                split
                · refine caughtUp_plane _ _ _ _ ?_
                  assumption
                · assumption

theorem tryTest_plane (p : ℕ) (s : State) (hs : PlaneOnly s0 s) : PlaneOnly s0 (tryTest p s) := by
  unfold tryTest
  extract_lets s1 s2
  have h2 : PlaneOnly s0 s2 := by
    refine State.updDrv_plane _ _ _ ?_
    assumption
  clear_value s2
  refine PlaneOnly.ite ?_ ?_
  · refine State.emit_plane _ _ ?_
    refine State.bump_plane _ _ _ _ ?_
    refine State.bump_plane _ _ _ _ ?_
    assumption
  · assumption

theorem askTest_plane (p : ℕ) (s : State) (hs : PlaneOnly s0 s) : PlaneOnly s0 (askTest p s) := by
  unfold askTest
  refine PlaneOnly.ite ?_ ?_
  · assumption
  · refine tryTest_plane _ _ ?_
    refine State.updDrv_plane _ _ _ ?_
    assumption

theorem linkGone_plane (p : ℕ) (s : State) (hs : PlaneOnly s0 s) : PlaneOnly s0 (linkGone p s) := by
  unfold linkGone
  extract_lets s1
  have h1 : PlaneOnly s0 s1 := by
    refine State.raise_plane _ _ _ ?_
    refine State.updDrv_plane _ _ _ ?_
    assumption
  clear_value s1
  split
  · refine PlaneOnly.ite ?_ ?_
    · extract_lets s2 s3
      have h3 : PlaneOnly s0 s3 := by
        refine setMem_plane _ _ _ _ ?_
        assumption
      clear_value s3
      refine endPortCmds_plane _ _ _ ?_
      refine State.updDrv_plane _ _ _ ?_
      assumption
    · refine endPortCmds_plane _ _ _ ?_
      assumption
  · refine endPortCmds_plane _ _ _ ?_
    assumption

theorem doDriveLinkUp_plane (p : ℕ) (r : LinkRate) (s : State) (hs : PlaneOnly s0 s) : PlaneOnly s0 (doDriveLinkUp p r s) := by
  unfold doDriveLinkUp
  extract_lets s1 s2 s3 s4 s5 s6 s7
  have h4 : PlaneOnly s0 s4 := by
    refine State.updDrv_plane _ _ _ ?_
    assumption
  clear_value s4
  have h5 : PlaneOnly s0 s5 := by
    refine PlaneOnly.ite ?_ ?_
    · refine State.settle_plane _ _ _ ?_
      assumption
    · assumption
  clear_value s5
  have h6 : PlaneOnly s0 s6 := by
    refine State.raise_plane _ _ _ ?_
    assumption
  clear_value s6
  have h7 : PlaneOnly s0 s7 := by
    refine State.updDrv_plane _ _ _ ?_
    assumption
  clear_value s7
  refine PlaneOnly.ite ?_ ?_
  · assumption
  · refine PlaneOnly.ite ?_ ?_
    · refine PlaneOnly.ite ?_ ?_
      · assumption
      · refine pump_plane _ _ ?_
        refine State.updDrv_plane _ _ _ ?_
        assumption
    · refine State.emit_plane _ _ ?_
      refine State.put_plane _ _ _ _ ?_
      assumption

theorem doDriveLinkLoss_plane (p : ℕ) (s : State) (hs : PlaneOnly s0 s) : PlaneOnly s0 (doDriveLinkLoss p s) := by
  unfold doDriveLinkLoss
  extract_lets s1
  refine PlaneOnly.ite ?_ ?_
  · assumption
  · refine linkGone_plane _ _ ?_
    assumption

theorem stepRate_plane (p : ℕ) (s : State) (hs : PlaneOnly s0 s) : PlaneOnly s0 (stepRate p s) := by
  unfold stepRate
  extract_lets s1 s2 s3 s4
  have h3 : PlaneOnly s0 s3 := by
    refine State.updDrv_plane _ _ _ ?_
    assumption
  clear_value s3
  have h4 : PlaneOnly s0 s4 := by
    refine State.updDrv_plane _ _ _ ?_
    assumption
  clear_value s4
  refine PlaneOnly.ite ?_ ?_
  · refine linkGone_plane _ _ ?_
    refine PlaneOnly.ite ?_ ?_
    · refine State.settle_plane _ _ _ ?_
      assumption
    · assumption
  · refine tryTest_plane _ _ ?_
    refine State.raise_plane _ _ _ ?_
    assumption

theorem doLinkCrcBurst_plane (p : ℕ) (n0 : ℕ) (s : State) (hs : PlaneOnly s0 s) : PlaneOnly s0 (doLinkCrcBurst p n0 s) := by
  unfold doLinkCrcBurst
  extract_lets s1 s2
  have h1 : PlaneOnly s0 s1 := by
    refine State.bump_plane _ _ _ _ ?_
    assumption
  clear_value s1
  refine PlaneOnly.ite ?_ ?_
  · assumption
  · refine PlaneOnly.ite ?_ ?_
    · refine stepRate_plane _ _ ?_
      assumption
    · refine askTest_plane _ _ ?_
      assumption

theorem doLinkTest_plane (p : ℕ) (s : State) (hs : PlaneOnly s0 s) : PlaneOnly s0 (doLinkTest p s) := by
  unfold doLinkTest
  extract_lets s1
  have h1 : PlaneOnly s0 s1 := by
    refine State.ask_plane _ _ _ ?_
    assumption
  clear_value s1
  refine PlaneOnly.ite ?_ ?_
  · refine State.settle_plane _ _ _ ?_
    assumption
  · refine askTest_plane _ _ ?_
    assumption

theorem doLinkSelfTestEnd_plane (p : ℕ) (cv : ℕ) (crc : ℕ) (s : State) (hs : PlaneOnly s0 s) : PlaneOnly s0 (doLinkSelfTestEnd p cv crc s) := by
  unfold doLinkSelfTestEnd
  extract_lets s1 s2 s3 s4
  have h2 : PlaneOnly s0 s2 := by
    refine State.bump_plane _ _ _ _ ?_
    assumption
  clear_value s2
  have h3 : PlaneOnly s0 s3 := by
    refine State.updDrv_plane _ _ _ ?_
    assumption
  clear_value s3
  have h4 : PlaneOnly s0 s4 := by
    refine PlaneOnly.ite ?_ ?_
    · refine State.settle_plane _ _ _ ?_
      assumption
    · assumption
  clear_value s4
  split
  · assumption
  · refine PlaneOnly.ite ?_ ?_
    · assumption
    · refine PlaneOnly.ite ?_ ?_
      · refine pump_plane _ _ ?_
        refine State.log_plane _ _ _ _ ?_
        assumption
      · refine stepRate_plane _ _ ?_
        refine State.log_plane _ _ _ _ ?_
        assumption

theorem doBringupTimeout_plane (p : ℕ) (s : State) (hs : PlaneOnly s0 s) : PlaneOnly s0 (doBringupTimeout p s) := by
  unfold doBringupTimeout
  extract_lets s1 s2 s3 s4
  have h3 : PlaneOnly s0 s3 := by
    refine State.raise_plane _ _ _ ?_
    refine State.updDrv_plane _ _ _ ?_
    assumption
  clear_value s3
  have h4 : PlaneOnly s0 s4 := by
    refine State.ibi_plane _ _ ?_
    assumption
  clear_value s4
  refine PlaneOnly.ite ?_ ?_
  · refine PlaneOnly.ite ?_ ?_
    · refine State.log_plane _ _ _ _ ?_
      refine State.raise_plane _ _ _ ?_
      refine State.updDrv_plane _ _ _ ?_
      assumption
    · assumption
  · assumption

theorem memberReturns_plane (p : ℕ) (g : ℕ) (d : ℕ) (s : State) (hs : PlaneOnly s0 s) : PlaneOnly s0 (memberReturns p g d s) := by
  unfold memberReturns
  extract_lets s1 s2 s3 s4
  have h2 : PlaneOnly s0 s2 := by
    refine State.updDrv_plane _ _ _ ?_
    assumption
  clear_value s2
  have h3 : PlaneOnly s0 s3 := by
    refine setMem_plane _ _ _ _ ?_
    assumption
  clear_value s3
  have h4 : PlaneOnly s0 s4 := by
    refine State.updSig_plane _ _ _ ?_
    assumption
  clear_value s4
  refine PlaneOnly.ite ?_ ?_
  · refine State.log_plane _ _ _ _ ?_
    refine State.raise_plane _ _ _ ?_
    assumption
  · assumption

theorem driveNew_plane (p : ℕ) (s : State) (hs : PlaneOnly s0 s) : PlaneOnly s0 (driveNew p s) := by
  unfold driveNew
  refine handOver_plane _ _ ?_
  refine State.updDrv_plane _ _ _ ?_
  assumption

theorem doDriveClassify_plane (p : ℕ) (d : DriveInfo) (a : LabelCopy) (b : LabelCopy) (s : State) (hs : PlaneOnly s0 s) : PlaneOnly s0 (doDriveClassify p d a b s) := by
  unfold doDriveClassify
  extract_lets s1 s2 s3 s4 s5 s6 s7
  have h4 : PlaneOnly s0 s4 := by
    refine State.updDrv_plane _ _ _ ?_
    assumption
  clear_value s4
  have h5 : PlaneOnly s0 s5 := by
    refine State.put_plane _ _ _ _ ?_
    assumption
  clear_value s5
  have h6 : PlaneOnly s0 s6 := by
    refine PlaneOnly.ite ?_ ?_
    · refine State.settle_plane _ _ _ ?_
      assumption
    · assumption
  clear_value s6
  have h7 : PlaneOnly s0 s7 := by
    refine State.log_plane _ _ _ _ ?_
    assumption
  clear_value s7
  refine PlaneOnly.ite ?_ ?_
  · assumption
  · clear_value s3
    split
    · refine State.raise_plane _ _ _ ?_
      assumption
    · refine driveNew_plane _ _ ?_
      assumption
    · refine driveNew_plane _ _ ?_
      assumption
    · refine State.raise_plane _ _ _ ?_
      assumption
    · clear_value s2
      split
      · extract_lets s8 s9
        have h8 : PlaneOnly s0 s8 := by
          refine PlaneOnly.ite ?_ ?_
          · refine State.updSig_plane _ _ _ ?_
            assumption
          · assumption
        clear_value s8
        have h9 : PlaneOnly s0 s9 := by
          refine memberReturns_plane _ _ _ _ ?_
          assumption
        clear_value s9
        refine PlaneOnly.ite ?_ ?_
        · split
          · extract_lets s10
            refine State.log_plane _ _ _ _ ?_
            refine State.emit_plane _ _ ?_
            assumption
          · assumption
        · assumption
      · assumption
    · clear_value s2
      split
      · extract_lets s11 s12
        have h11 : PlaneOnly s0 s11 := by
          refine PlaneOnly.ite ?_ ?_
          · refine State.updSig_plane _ _ _ ?_
            assumption
          · assumption
        clear_value s11
        have h12 : PlaneOnly s0 s12 := by
          refine memberReturns_plane _ _ _ _ ?_
          assumption
        clear_value s12
        refine PlaneOnly.ite ?_ ?_
        · split
          · extract_lets s13
            refine State.log_plane _ _ _ _ ?_
            refine State.emit_plane _ _ ?_
            assumption
          · assumption
        · assumption
      · assumption
    · refine State.raise_plane _ _ _ ?_
      assumption

theorem doClaim_plane (p : ℕ) (s : State) (hs : PlaneOnly s0 s) : PlaneOnly s0 (doClaim p s) := by
  unfold doClaim
  extract_lets s1 s2 s3
  have h2 : PlaneOnly s0 s2 := by
    refine State.ask_plane _ _ _ ?_
    assumption
  clear_value s2
  have h3 : PlaneOnly s0 s3 := by
    refine State.log_plane _ _ _ _ ?_
    refine State.updDrv_plane _ _ _ ?_
    assumption
  clear_value s3
  refine PlaneOnly.ite ?_ ?_
  · refine driveNew_plane _ _ ?_
    refine State.settle_plane _ _ _ ?_
    assumption
  · assumption

theorem ladderStep_plane (p : ℕ) (step : ℕ) (tags : List ℕ) (s : State) (hs : PlaneOnly s0 s) : PlaneOnly s0 (ladderStep p step tags s) := by
  unfold ladderStep
  extract_lets s1
  have h1 : PlaneOnly s0 s1 := by
    refine State.updDrv_plane _ _ _ ?_
    assumption
  clear_value s1
  split
  · refine PlaneOnly.foldl _ _ ?_ fun s x h => ?_
    · assumption
    · refine State.emit_plane _ _ ?_
      assumption
  · refine State.emit_plane _ _ ?_
    assumption
  · refine State.emit_plane _ _ ?_
    refine State.bump_plane _ _ _ _ ?_
    refine State.updDrv_plane _ _ _ ?_
    assumption

theorem startLadder_plane (p : ℕ) (step : ℕ) (tags : List ℕ) (s : State) (hs : PlaneOnly s0 s) : PlaneOnly s0 (startLadder p step tags s) := by
  unfold startLadder
  refine ladderStep_plane _ _ _ _ ?_
  refine State.raise_plane _ _ _ ?_
  refine State.bump_plane _ _ _ _ ?_
  assumption

theorem doCommandTimeout_plane (p : ℕ) (tag : ℕ) (s : State) (hs : PlaneOnly s0 s) : PlaneOnly s0 (doCommandTimeout p tag s) := by
  unfold doCommandTimeout
  extract_lets s1
  split
  · assumption
  · refine PlaneOnly.ite ?_ ?_
    · assumption
    · extract_lets s2
      have h2 : PlaneOnly s0 s2 := by
        refine State.bump_plane _ _ _ _ ?_
        refine State.updDrv_plane _ _ _ ?_
        assumption
      clear_value s2
      split
      · refine startLadder_plane _ _ _ _ ?_
        assumption
      · extract_lets s3
        have h3 : PlaneOnly s0 s3 := by
          refine State.updDrv_plane _ _ _ ?_
          assumption
        clear_value s3
        refine PlaneOnly.ite ?_ ?_
        · refine State.emit_plane _ _ ?_
          assumption
        · assumption

theorem endLadder_plane (p : ℕ) (l : Ladder) (s : State) (hs : PlaneOnly s0 s) : PlaneOnly s0 (endLadder p l s) := by
  unfold endLadder
  extract_lets s1 s2 s3 s4
  have h3 : PlaneOnly s0 s3 := by
    refine State.updDrv_plane _ _ _ ?_
    assumption
  clear_value s3
  have h4 : PlaneOnly s0 s4 := by
    refine PlaneOnly.foldl _ _ ?_ fun s x h => ?_
    · assumption
    · refine PlaneOnly.ite ?_ ?_
      · refine PlaneOnly.foldl _ _ ?_ fun s x h => ?_
        · refine State.updDrv_plane _ _ _ ?_
          assumption
        · refine State.emit_plane _ _ ?_
          assumption
      · refine endCmdOf_plane _ _ _ ?_
        refine dropCmd_plane _ _ _ ?_
        assumption
  clear_value s4
  refine tryTest_plane _ _ ?_
  refine pump_plane _ _ ?_
  refine State.log_plane _ _ _ _ ?_
  assumption

theorem doLadderStepSuccess_plane (p : ℕ) (s : State) (hs : PlaneOnly s0 s) : PlaneOnly s0 (doLadderStepSuccess p s) := by
  unfold doLadderStepSuccess
  split
  · refine PlaneOnly.ite ?_ ?_
    · assumption
    · refine endLadder_plane _ _ _ ?_
      assumption
  · assumption

theorem ladderFails_plane (p : ℕ) (s : State) (hs : PlaneOnly s0 s) : PlaneOnly s0 (ladderFails p s) := by
  unfold ladderFails
  extract_lets s1
  have h1 : PlaneOnly s0 s1 := by
    refine State.log_plane _ _ _ _ ?_
    refine State.updDrv_plane _ _ _ ?_
    assumption
  clear_value s1
  refine PlaneOnly.ite ?_ ?_
  · refine formatFails_plane _ _ ?_
    assumption
  · refine PlaneOnly.ite ?_ ?_
    · refine endPortCmds_plane _ _ _ ?_
      refine State.updDrv_plane _ _ _ ?_
      assumption
    · split
      · refine PlaneOnly.ite ?_ ?_
        · refine declare_plane _ _ _ _ ?_
          assumption
        · refine endPortCmds_plane _ _ _ ?_
          assumption
      · refine endPortCmds_plane _ _ _ ?_
        assumption

theorem doLadderStepTimeout_plane (p : ℕ) (s : State) (hs : PlaneOnly s0 s) : PlaneOnly s0 (doLadderStepTimeout p s) := by
  unfold doLadderStepTimeout
  split
  · assumption
  · extract_lets s1
    refine PlaneOnly.ite ?_ ?_
    · assumption
    · refine PlaneOnly.ite ?_ ?_
      · refine ladderFails_plane _ _ ?_
        assumption
      · refine ladderStep_plane _ _ _ _ ?_
        assumption

theorem doMemberSel_plane (g : ℕ) (v : ℕ) (s : State) (hs : PlaneOnly s0 s) : PlaneOnly s0 (doMemberSel g v s) := by
  unfold doMemberSel
  extract_lets s1 s2
  refine State.put_plane _ _ _ _ ?_
  refine State.putB_plane _ _ _ _ ?_
  refine State.put_plane _ _ _ _ ?_
  refine State.put_plane _ _ _ _ ?_
  assumption

theorem doMapGo_plane (g : ℕ) (s : State) (hs : PlaneOnly s0 s) : PlaneOnly s0 (doMapGo g s) := by
  unfold doMapGo
  extract_lets s1 s2 s3
  have h1 : PlaneOnly s0 s1 := by
    refine State.pulse_plane _ _ _ ?_
    assumption
  clear_value s1
  split
  · refine PlaneOnly.ite ?_ ?_
    · extract_lets s4 s5
      refine State.put_plane _ _ _ _ ?_
      refine State.put_plane _ _ _ _ ?_
      refine State.put_plane _ _ _ _ ?_
      refine State.put_plane _ _ _ _ ?_
      assumption
    · refine State.put_plane _ _ _ _ ?_
      assumption
  · refine State.put_plane _ _ _ _ ?_
    assumption

theorem putHash_plane (F : FieldSpec) (h : List ℕ) (s : State) (hs : PlaneOnly s0 s) : PlaneOnly s0 (putHash F h s) := by
  unfold putHash
  refine PlaneOnly.foldl _ _ ?_ fun s x h => ?_
  · assumption
  · refine State.put_plane _ _ _ _ ?_
    assumption

theorem applyPort_plane (p : ℕ) (x : PortSec) (s : State) (hs : PlaneOnly s0 s) : PlaneOnly s0 (applyPort p x s) := by
  unfold applyPort
  extract_lets s1 s2 s3 s4 s5
  have h1 : PlaneOnly s0 s1 := by
    refine State.put_plane _ _ _ _ ?_
    refine State.put_plane _ _ _ _ ?_
    assumption
  clear_value s1
  have h2 : PlaneOnly s0 s2 := by
    refine State.put_plane _ _ _ _ ?_
    refine State.putB_plane _ _ _ _ ?_
    assumption
  clear_value s2
  have h3 : PlaneOnly s0 s3 := by
    refine State.put_plane _ _ _ _ ?_
    refine State.put_plane _ _ _ _ ?_
    assumption
  clear_value s3
  have h4 : PlaneOnly s0 s4 := by
    refine State.putB_plane _ _ _ _ ?_
    refine State.put_plane _ _ _ _ ?_
    assumption
  clear_value s4
  have h5 : PlaneOnly s0 s5 := by
    refine State.putB_plane _ _ _ _ ?_
    refine State.put_plane _ _ _ _ ?_
    assumption
  clear_value s5
  refine PlaneOnly.foldl _ _ ?_ fun s x h => ?_
  · assumption
  · extract_lets s6
    refine State.put_plane _ _ _ _ ?_
    refine State.put_plane _ _ _ _ ?_
    assumption

theorem applyGeometry_plane (g : ℕ) (i : Option Imposition) (s : State) (hs : PlaneOnly s0 s) : PlaneOnly s0 (applyGeometry g i s) := by
  unfold applyGeometry
  split
  · refine State.putB_plane _ _ _ _ ?_
    assumption
  · extract_lets s1 s2 s3 s4
    have h1 : PlaneOnly s0 s1 := by
      refine State.put_plane _ _ _ _ ?_
      refine State.put_plane _ _ _ _ ?_
      assumption
    clear_value s1
    have h2 : PlaneOnly s0 s2 := by
      refine State.put_plane _ _ _ _ ?_
      refine State.put_plane _ _ _ _ ?_
      assumption
    clear_value s2
    have h3 : PlaneOnly s0 s3 := by
      refine State.putB_plane _ _ _ _ ?_
      refine State.putB_plane _ _ _ _ ?_
      assumption
    clear_value s3
    have h4 : PlaneOnly s0 s4 := by
      refine State.put_plane _ _ _ _ ?_
      refine State.put_plane _ _ _ _ ?_
      assumption
    clear_value s4
    refine State.put_plane _ _ _ _ ?_
    refine State.put_plane _ _ _ _ ?_
    assumption

theorem applyPar_plane (g : ℕ) (region : Bool) (p : SigPar) (s : State) (hs : PlaneOnly s0 s) : PlaneOnly s0 (applyPar g region p s) := by
  unfold applyPar
  extract_lets s1 s2 s3 s4 s5 s6 s7
  have h2 : PlaneOnly s0 s2 := by
    refine PlaneOnly.ite ?_ ?_
    · refine State.put_plane _ _ _ _ ?_
      assumption
    · assumption
  clear_value s2
  have h3 : PlaneOnly s0 s3 := by
    refine State.put_plane _ _ _ _ ?_
    refine State.put_plane _ _ _ _ ?_
    assumption
  clear_value s3
  have h4 : PlaneOnly s0 s4 := by
    refine State.put_plane _ _ _ _ ?_
    refine State.putB_plane _ _ _ _ ?_
    assumption
  clear_value s4
  have h5 : PlaneOnly s0 s5 := by
    refine State.put_plane _ _ _ _ ?_
    refine State.put_plane _ _ _ _ ?_
    assumption
  clear_value s5
  have h6 : PlaneOnly s0 s6 := by
    refine State.put_plane _ _ _ _ ?_
    refine State.put_plane _ _ _ _ ?_
    assumption
  clear_value s6
  have h7 : PlaneOnly s0 s7 := by
    refine State.put_plane _ _ _ _ ?_
    refine State.put_plane _ _ _ _ ?_
    assumption
  clear_value s7
  refine State.put_plane _ _ _ _ ?_
  refine State.put_plane _ _ _ _ ?_
  assumption

theorem applyNs_plane (n0 : ℕ) (x : Option NsSec) (s : State) (hs : PlaneOnly s0 s) : PlaneOnly s0 (applyNs n0 x s) := by
  unfold applyNs
  extract_lets s1 s2 s3
  have h2 : PlaneOnly s0 s2 := by
    refine State.putB_plane _ _ _ _ ?_
    refine State.putB_plane _ _ _ _ ?_
    assumption
  clear_value s2
  have h3 : PlaneOnly s0 s3 := by
    refine State.putB_plane _ _ _ _ ?_
    refine State.putB_plane _ _ _ _ ?_
    assumption
  clear_value s3
  refine PlaneOnly.ite ?_ ?_
  · refine State.put_plane _ _ _ _ ?_
    refine State.put_plane _ _ _ _ ?_
    assumption
  · refine PlaneOnly.ite ?_ ?_
    · refine State.put_plane _ _ _ _ ?_
      refine State.put_plane _ _ _ _ ?_
      assumption
    · assumption

theorem applyNow_plane (m : Img) (s : State) (hs : PlaneOnly s0 s) : PlaneOnly s0 (applyNow m s) := by
  unfold applyNow
  extract_lets s1 s2 s3 s4 s5 s6 s7 s8 s9 s10 s11 s12 s13
  have h1 : PlaneOnly s0 s1 := by
    refine State.put_plane _ _ _ _ ?_
    refine State.put_plane _ _ _ _ ?_
    assumption
  clear_value s1
  have h2 : PlaneOnly s0 s2 := by
    refine State.put_plane _ _ _ _ ?_
    refine State.put_plane _ _ _ _ ?_
    assumption
  clear_value s2
  have h3 : PlaneOnly s0 s3 := by
    refine State.putB_plane _ _ _ _ ?_
    refine State.putB_plane _ _ _ _ ?_
    assumption
  clear_value s3
  have h4 : PlaneOnly s0 s4 := by
    refine State.putB_plane _ _ _ _ ?_
    assumption
  clear_value s4
  have h6 : PlaneOnly s0 s6 := by
    refine State.put_plane _ _ _ _ ?_
    refine State.put_plane _ _ _ _ ?_
    assumption
  clear_value s6
  have h7 : PlaneOnly s0 s7 := by
    refine State.put_plane _ _ _ _ ?_
    refine State.put_plane _ _ _ _ ?_
    refine State.put_plane _ _ _ _ ?_
    assumption
  clear_value s7
  have h8 : PlaneOnly s0 s8 := by
    refine PlaneOnly.foldl _ _ ?_ fun s x h => ?_
    · assumption
    · refine State.put_plane _ _ _ _ ?_
      assumption
  clear_value s8
  have h9 : PlaneOnly s0 s9 := by
    refine State.putB_plane _ _ _ _ ?_
    refine State.putB_plane _ _ _ _ ?_
    assumption
  clear_value s9
  have h10 : PlaneOnly s0 s10 := by
    refine State.putB_plane _ _ _ _ ?_
    assumption
  clear_value s10
  have h11 : PlaneOnly s0 s11 := by
    refine PlaneOnly.foldl _ _ ?_ fun s x h => ?_
    · assumption
    · refine State.put_plane _ _ _ _ ?_
      assumption
  clear_value s11
  have h12 : PlaneOnly s0 s12 := by
    refine PlaneOnly.foldl _ _ ?_ fun s x h => ?_
    · assumption
    · refine applyPort_plane _ _ _ ?_
      assumption
  clear_value s12
  have h13 : PlaneOnly s0 s13 := by
    refine PlaneOnly.foldl _ _ ?_ fun s x h => ?_
    · assumption
    · refine applyGeometry_plane _ _ _ ?_
      assumption
  clear_value s13
  refine PlaneOnly.foldl _ _ ?_ fun s x h => ?_
  · assumption
  · refine applyNs_plane _ _ _ ?_
    assumption

theorem refuseImage_plane (sec : ℕ) (reason : ℕ) (s : State) (hs : PlaneOnly s0 s) : PlaneOnly s0 (refuseImage sec reason s) := by
  unfold refuseImage
  extract_lets s1
  have h1 : PlaneOnly s0 s1 := by
    refine State.put_plane _ _ _ _ ?_
    refine State.put_plane _ _ _ _ ?_
    assumption
  clear_value s1
  refine State.log_plane _ _ _ _ ?_
  refine State.raise_plane _ _ _ ?_
  assumption

theorem errDrop_plane (s : State) (hs : PlaneOnly s0 s) : PlaneOnly s0 (errDrop s) := by
  unfold errDrop
  refine State.raise_plane _ _ _ ?_
  refine State.bump_plane _ _ _ _ ?_
  assumption

theorem errAppend_plane (r : ErrRec) (s : State) (hs : PlaneOnly s0 s) : PlaneOnly s0 (errAppend r s) := by
  unfold errAppend
  extract_lets s1 s2
  refine PlaneOnly.ite ?_ ?_
  · refine errDrop_plane _ ?_
    assumption
  · refine PlaneOnly.upd ?_ rfl
    assumption

theorem errRepeat_plane (r : ErrRec) (s : State) (hs : PlaneOnly s0 s) : PlaneOnly s0 (errRepeat r s) := by
  unfold errRepeat
  split
  · refine PlaneOnly.ite ?_ ?_
    · refine PlaneOnly.ite ?_ ?_
      · refine PlaneOnly.upd ?_ rfl
        assumption
      · refine errAppend_plane _ _ ?_
        assumption
    · refine errAppend_plane _ _ ?_
      assumption
  · refine errAppend_plane _ _ ?_
    assumption

theorem endRateWindow_plane (code : ℕ) (s : State) (hs : PlaneOnly s0 s) : PlaneOnly s0 (endRateWindow code s) := by
  unfold endRateWindow
  split
  · assumption
  · refine PlaneOnly.ite ?_ ?_
    · assumption
    · extract_lets s1 s2 s3
      have h2 : PlaneOnly s0 s2 := by
        refine PlaneOnly.upd ?_ rfl
        assumption
      clear_value s2
      refine PlaneOnly.ite ?_ ?_
      · assumption
      · refine errAppend_plane _ _ ?_
        assumption

theorem errRate_plane (r : ErrRec) (s : State) (hs : PlaneOnly s0 s) : PlaneOnly s0 (errRate r s) := by
  unfold errRate
  extract_lets s1 s2
  have h1 : PlaneOnly s0 s1 := by
    refine endRateWindow_plane _ _ ?_
    assumption
  clear_value s1
  split
  · refine errAppend_plane _ _ ?_
    refine PlaneOnly.upd ?_ rfl
    assumption
  · refine PlaneOnly.ite ?_ ?_
    · refine errAppend_plane _ _ ?_
      refine PlaneOnly.upd ?_ rfl
      assumption
    · refine State.bump_plane _ _ _ _ ?_
      refine PlaneOnly.upd ?_ rfl
      assumption

theorem errRecord_plane (s : State) (r : ErrRec) (hs : PlaneOnly s0 s) : PlaneOnly s0 (errRecord s r) := by
  unfold errRecord
  extract_lets s1
  refine PlaneOnly.ite ?_ ?_
  · refine errAppend_plane _ _ ?_
    assumption
  · refine PlaneOnly.ite ?_ ?_
    · refine errRepeat_plane _ _ ?_
      assumption
    · refine PlaneOnly.ite ?_ ?_
      · refine errRate_plane _ _ ?_
        assumption
      · refine errAppend_plane _ _ ?_
        assumption

theorem recordEvents_plane (s : State) (hs : PlaneOnly s0 s) : PlaneOnly s0 (recordEvents s) := by
  unfold recordEvents
  extract_lets s1 s2
  refine PlaneOnly.foldl _ _ ?_ fun s x h => ?_
  · refine PlaneOnly.upd ?_ rfl
    assumption
  · refine errRecord_plane _ _ ?_
    assumption

theorem endFreeze_plane (s : State) (hs : PlaneOnly s0 s) : PlaneOnly s0 (endFreeze s) := by
  unfold endFreeze
  extract_lets s1 s2
  have h1 : PlaneOnly s0 s1 := by
    refine State.putB_plane _ _ _ _ ?_
    refine State.putB_plane _ _ _ _ ?_
    assumption
  clear_value s1
  refine PlaneOnly.upd ?_ rfl
  assumption

theorem doFreezeExpired_plane (s : State) (hs : PlaneOnly s0 s) : PlaneOnly s0 (doFreezeExpired s) := by
  unfold doFreezeExpired
  split
  · refine PlaneOnly.ite ?_ ?_
    · refine State.log_plane _ _ _ _ ?_
      refine State.raise_plane _ _ _ ?_
      refine endFreeze_plane _ ?_
      assumption
    · assumption
  · assumption

theorem doRateWindowEnd_plane (code : ℕ) (s : State) (hs : PlaneOnly s0 s) : PlaneOnly s0 (doRateWindowEnd code s) := by
  unfold doRateWindowEnd
  refine endRateWindow_plane _ _ ?_
  assumption

theorem doAnchorGo_plane (s : State) (hs : PlaneOnly s0 s) : PlaneOnly s0 (doAnchorGo s) := by
  unfold doAnchorGo
  extract_lets s1
  refine State.log_plane _ _ _ _ ?_
  refine State.pulse_plane _ _ _ ?_
  assumption

theorem eccDecode_plane (a : ℕ) (s : State) (hs : PlaneOnly s0 s) : PlaneOnly s0 (eccDecode a s).2 := by
  unfold eccDecode
  dsimp only
  split
  · split
    · dsimp only
      assumption
    · split
      · dsimp only
        refine State.bump_plane _ _ _ _ ?_
        refine State.draw_plane _ ?_
        assumption
      · dsimp only
        refine State.put_plane _ _ _ _ ?_
        refine State.put_plane _ _ _ _ ?_
        refine State.bump_plane _ _ _ _ ?_
        assumption
  · dsimp only
    refine State.bump_plane _ _ _ _ ?_
    refine State.draw_plane _ ?_
    assumption

theorem eccReadN_plane (m a : Nat) (s : State) (hs : PlaneOnly s0 s) : PlaneOnly s0 (eccReadN m a s).2 := by
  induction m generalizing a s with
  | zero => exact hs
  | succ m ih => exact ih _ _ (eccDecode_plane _ _ hs)

theorem eccRead_plane (o : ℕ) (n0 : ℕ) (s : State) (hs : PlaneOnly s0 s) : PlaneOnly s0 (eccRead o n0 s).2 := by
  unfold eccRead
  dsimp only
  split
  · dsimp only
    refine eccReadN_plane _ _ _ ?_
    assumption
  · split
    · dsimp only
      assumption
    · dsimp only
      assumption

theorem eccStore_plane (m o : Nat) (bs : List Nat) (s : State) (hs : PlaneOnly s0 s) : PlaneOnly s0 (eccStore m o bs s) := by
  induction m generalizing o bs s with
  | zero => exact hs
  | succ m ih =>
    unfold eccStore
    refine PlaneOnly.ite hs (PlaneOnly.ite (ih _ _ _ (putWin_plane _ _ _ _ hs)) (ih _ _ _ ?_))
    exact PlaneOnly.ite (putWin_plane _ _ _ _ hs) (PlaneOnly.ite (wholeWrite_plane _ _ _ hs) (narrowWrite_plane _ _ _ hs))

theorem dmaRead_plane (a : ℕ) (n0 : ℕ) (s : State) (hs : PlaneOnly s0 s) : PlaneOnly s0 (dmaRead a n0 s).2 := by
  unfold dmaRead
  dsimp only
  split
  · refine eccRead_plane _ _ _ ?_
    assumption
  · split
    · dsimp only
      assumption
    · split
      · dsimp only
        assumption
      · dsimp only
        assumption

theorem doneBit_plane (c : Nat) (s : State) (hs : PlaneOnly s0 s) : PlaneOnly s0 (doneBit c s) := hs.trans rfl

theorem showDesc_plane (c : ℕ) (a : ℕ) (s : State) (hs : PlaneOnly s0 s) : PlaneOnly s0 (showDesc c a s) := by
  unfold showDesc
  refine State.put_plane _ _ _ _ ?_
  refine State.put_plane _ _ _ _ ?_
  assumption

theorem zoneEffect_plane (a : ZPend) (k : ℕ) (s : State) (hs : PlaneOnly s0 s) : PlaneOnly s0 (zoneEffect a k s) := by
  unfold zoneEffect
  split
  · refine closeZone_plane _ _ ?_
    assumption
  · refine fillZone_plane _ _ ?_
    assumption
  · refine resetZone_plane _ _ ?_
    assumption

theorem zoneAct_plane (a : ZAct) (k : ℕ) (s : State) (hs : PlaneOnly s0 s) : PlaneOnly s0 (zoneAct a k s).2 := by
  unfold zoneAct
  dsimp only
  split
  · dsimp only
    assumption
  · split
    · split
      · dsimp only
        assumption
      · dsimp only
        assumption
    · split
      · split
        · dsimp only
          assumption
        · dsimp only
          assumption
      · split
        · split
          · dsimp only
            assumption
          · dsimp only
            assumption
          · dsimp only
            assumption
          · dsimp only
            assumption
          · split
            · dsimp only
              refine PlaneOnly.pair (by assumption) (openZone_plane _ _ _ ?_)
              assumption
            · dsimp only
              refine PlaneOnly.pair (by assumption) (openZone_plane _ _ _ ?_)
              assumption
        · split
          · dsimp only
            assumption
          · dsimp only
            assumption
          · dsimp only
            assumption
          · dsimp only
            assumption
          · dsimp only
            assumption
          · split
            · dsimp only
              refine zoneEffect_plane _ _ _ ?_
              assumption
            · dsimp only
              refine State.updZone_plane _ _ _ ?_
              assumption
        · split
          · dsimp only
            assumption
          · dsimp only
            assumption
          · dsimp only
            assumption
          · split
            · dsimp only
              refine beginSeal_plane _ _ _ ?_
              assumption
            · split
              · dsimp only
                refine zoneEffect_plane _ _ _ ?_
                assumption
              · dsimp only
                refine State.updZone_plane _ _ _ ?_
                assumption
        · split
          · dsimp only
            assumption
          · split
            · dsimp only
              assumption
            · split
              · dsimp only
                assumption
              · dsimp only
                assumption
              · split
                · dsimp only
                  refine zoneEffect_plane _ _ _ ?_
                  assumption
                · dsimp only
                  refine State.updZone_plane _ _ _ ?_
                  assumption
        · split
          · split
            · dsimp only
              assumption
            · dsimp only
              refine zoneSaved_plane _ _ ?_
              refine zoneChanged_plane _ _ ?_
              refine State.updZone_plane _ _ _ ?_
              assumption
          · dsimp only
            assumption
          · dsimp only
            assumption

theorem zoneActAll_plane (a : ZAct) (m : Nat) (s : State) (hs : PlaneOnly s0 s) : PlaneOnly s0 (zoneActAll a m s).2.2 := by
  unfold zoneActAll
  extract_lets ks
  split
  · assumption
  · split
    · assumption
    · split
      · exact countZn_plane _ _ (State.raise_plane _ _ _ hs)
      · refine foldl_keep (fun r : List Nat × State => PlaneOnly s0 r.2) _ _ hs fun r k h => ?_
        have h1 := zoneAct_plane a k _ h
        split
        · rename_i e; rw [e] at h1; exact h1
        · rename_i e; rw [e] at h1; exact h1

theorem queueSeal_plane (k : ℕ) (s : State) (hs : PlaneOnly s0 s) : PlaneOnly s0 (queueSeal k s) := by
  unfold queueSeal
  refine PlaneOnly.ite ?_ ?_
  · assumption
  · extract_lets s1 s2 s3
    have h3 : PlaneOnly s0 s3 := by
      refine PlaneOnly.upd ?_ rfl
      assumption
    clear_value s3
    refine PlaneOnly.ite ?_ ?_
    · refine State.updZone_plane _ _ _ ?_
      assumption
    · assumption

theorem doSealDigest_plane (n0 : ℕ) (z : ℕ) (back : List (ℕ × Option Blk)) (s : State) (hs : PlaneOnly s0 s) : PlaneOnly s0 (doSealDigest n0 z back s) := by
  unfold doSealDigest
  extract_lets s1 s2 s3
  split
  · assumption
  · refine PlaneOnly.ite ?_ ?_
    · assumption
    · extract_lets s4
      refine PlaneOnly.ite ?_ ?_
      · unfold s4
        extract_lets s5 s6
        have h6 : PlaneOnly s0 s6 := by
          refine State.updZone_plane _ _ _ ?_
          assumption
        clear_value s6
        refine queueSeal_plane _ _ ?_
        assumption
      · split
        · assumption
        · extract_lets s7 s8
          have h8 : PlaneOnly s0 s8 := by
            refine hbAdd_plane _ _ _ _ ?_
            assumption
          clear_value s8
          unfold s4
          extract_lets s9 s10
          have h10 : PlaneOnly s0 s10 := by
            refine State.updZone_plane _ _ _ ?_
            assumption
          clear_value s10
          refine queueSeal_plane _ _ ?_
          assumption

theorem nextSeal_plane (s : State) (hs : PlaneOnly s0 s) : PlaneOnly s0 (nextSeal s) := by
  unfold nextSeal
  extract_lets s1 s2 s3
  have h3 : PlaneOnly s0 s3 := by
    unfold s3
    clear_value s1
    split
    · refine PlaneOnly.ite ?_ ?_
      · refine PlaneOnly.upd ?_ rfl
        assumption
      · assumption
    · assumption
  clear_value s3
  split
  · assumption
  · refine State.updZone_plane _ _ _ ?_
    assumption

theorem doOztSel_plane (v : ℕ) (s : State) (hs : PlaneOnly s0 s) : PlaneOnly s0 (doOztSel v s) := by
  unfold doOztSel
  extract_lets s1 s2 s3 s4 s5 s6 s7 s8 s9 s10 s11
  have h2 : PlaneOnly s0 s2 := by
    refine State.put_plane _ _ _ _ ?_
    assumption
  clear_value s2
  have h7 : PlaneOnly s0 s7 := by
    refine State.putB_plane _ _ _ _ ?_
    refine State.putB_plane _ _ _ _ ?_
    refine State.putB_plane _ _ _ _ ?_
    assumption
  clear_value s7
  have h8 : PlaneOnly s0 s8 := by
    refine State.putB_plane _ _ _ _ ?_
    refine State.putB_plane _ _ _ _ ?_
    assumption
  clear_value s8
  have h9 : PlaneOnly s0 s9 := by
    refine State.put_plane _ _ _ _ ?_
    refine State.put_plane _ _ _ _ ?_
    assumption
  clear_value s9
  have h10 : PlaneOnly s0 s10 := by
    refine State.put_plane _ _ _ _ ?_
    refine State.put_plane _ _ _ _ ?_
    assumption
  clear_value s10
  refine State.put_plane _ _ _ _ ?_
  refine State.put_plane _ _ _ _ ?_
  refine State.put_plane _ _ _ _ ?_
  assumption

theorem showCast_plane (s : State) (hs : PlaneOnly s0 s) : PlaneOnly s0 (showCast s) := by
  unfold showCast
  split
  · extract_lets s1 s2
    have h1 : PlaneOnly s0 s1 := by
      refine State.put_plane _ _ _ _ ?_
      refine State.put_plane _ _ _ _ ?_
      assumption
    clear_value s1
    have h2 : PlaneOnly s0 s2 := by
      refine State.put_plane _ _ _ _ ?_
      assumption
    clear_value s2
    refine State.put_plane _ _ _ _ ?_
    refine State.put_plane _ _ _ _ ?_
    assumption
  · assumption

theorem closeForRelease_plane (k : ℕ) (s : State) (hs : PlaneOnly s0 s) : PlaneOnly s0 (closeForRelease k s) := by
  unfold closeForRelease
  extract_lets s1
  refine PlaneOnly.ite ?_ ?_
  · assumption
  · refine PlaneOnly.ite ?_ ?_
    · refine State.updZone_plane _ _ _ ?_
      assumption
    · refine closeZone_plane _ _ ?_
      assumption

theorem resumeSeals_plane (s : State) (hs : PlaneOnly s0 s) : PlaneOnly s0 (resumeSeals s) := by
  unfold resumeSeals
  refine PlaneOnly.upd ?_ rfl
  assumption

theorem recastDone_plane (gen : ℕ) (lost : ℕ) (s : State) (hs : PlaneOnly s0 s) : PlaneOnly s0 (recastDone gen lost s) := by
  unfold recastDone
  refine State.log_plane _ _ _ _ ?_
  refine State.raise_plane _ _ _ ?_
  assumption

theorem readMap_plane (s : State) (hs : PlaneOnly s0 s) : PlaneOnly s0 (readMap s) := by
  unfold readMap
  extract_lets s1 s2 s3 s4 s5 s6
  have h5 : PlaneOnly s0 s5 := by
    refine PlaneOnly.upd ?_ rfl
    assumption
  clear_value s5
  have h6 : PlaneOnly s0 s6 := by
    refine PlaneOnly.foldl _ _ ?_ fun s x h => ?_
    · assumption
    · refine showChan_plane _ _ ?_
      refine State.setChan_plane _ _ _ ?_
      assumption
  clear_value s6
  refine PlaneOnly.ite ?_ ?_
  · assumption
  · refine State.log_plane _ _ _ _ ?_
    assumption

theorem showKeyRec_plane (s : State) (hs : PlaneOnly s0 s) : PlaneOnly s0 (showKeyRec s) := by
  unfold showKeyRec
  extract_lets s1
  refine State.put_plane _ _ _ _ ?_
  refine State.put_plane _ _ _ _ ?_
  refine State.putB_plane _ _ _ _ ?_
  assumption

theorem noticeNs_plane (ns : List ℕ) (s : State) (hs : PlaneOnly s0 s) : PlaneOnly s0 (noticeNs ns s) := by
  unfold noticeNs
  refine PlaneOnly.ite ?_ ?_
  · assumption
  · extract_lets s1
    have h1 : PlaneOnly s0 s1 := by
      refine notice_plane _ _ _ ?_
      assumption
    clear_value s1
    refine PlaneOnly.upd ?_ rfl
    assumption

theorem placeSigs_plane (m : Img) (waiting : Bool) (s : State) (hs : PlaneOnly s0 s) : PlaneOnly s0 (placeSigs m waiting s) := by
  unfold placeSigs
  extract_lets s1
  refine PlaneOnly.upd ?_ rfl
  assumption

theorem State.setBit_plane (s : State) (F : FieldSpec) (g : ℕ) (v : Bool) (hs : PlaneOnly s0 s) : PlaneOnly s0 (State.setBit s F g v) := by
  unfold State.setBit
  refine PlaneOnly.ite ?_ ?_
  · refine PlaneOnly.ite ?_ ?_
    · assumption
    · refine State.put_plane _ _ _ _ ?_
      assumption
  · refine PlaneOnly.ite ?_ ?_
    · refine State.put_plane _ _ _ _ ?_
      assumption
    · assumption

theorem markKey_plane (g : ℕ) (s : State) (hs : PlaneOnly s0 s) : PlaneOnly s0 (markKey g s) := by
  unfold markKey
  refine State.setBit_plane _ _ _ _ ?_
  assumption

theorem loseZones_plane (ks : List ℕ) (s : State) (hs : PlaneOnly s0 s) : PlaneOnly s0 (loseZones ks s) := by
  unfold loseZones
  refine PlaneOnly.ite ?_ ?_
  · assumption
  · refine State.log_plane _ _ _ _ ?_
    refine State.raise_plane _ _ _ ?_
    refine PlaneOnly.foldl _ _ ?_ fun s x h => ?_
    · assumption
    · refine zoneChanged_plane _ _ ?_
      refine State.updZone_plane _ _ _ ?_
      assumption

theorem setAside_plane (g : ℕ) (s : State) (hs : PlaneOnly s0 s) : PlaneOnly s0 (setAside g s) := by
  unfold setAside
  extract_lets s1 s2 s3 s4 s5
  have h2 : PlaneOnly s0 s2 := by
    refine hbAdd_plane _ _ _ _ ?_
    assumption
  clear_value s2
  have h4 : PlaneOnly s0 s4 := by
    refine PlaneOnly.upd ?_ rfl
    assumption
  clear_value s4
  have h5 : PlaneOnly s0 s5 := by
    refine loseZones_plane _ _ ?_
    assumption
  clear_value s5
  refine State.log_plane _ _ _ _ ?_
  refine State.raise_plane _ _ _ ?_
  assumption

theorem rejoin_plane (g : ℕ) (s : State) (hs : PlaneOnly s0 s) : PlaneOnly s0 (rejoin g s) := by
  unfold rejoin
  refine PlaneOnly.foldl _ _ ?_ fun s x h => ?_
  · assumption
  · extract_lets s1 s2 s3 s4
    have h4 : PlaneOnly s0 s4 := by
      refine updEntsOf_plane _ _ _ _ ?_
      assumption
    clear_value s4
    refine PlaneOnly.ite ?_ ?_
    · refine PlaneOnly.ite ?_ ?_
      · refine reuse_plane _ _ ?_
        refine replacementFails_plane _ _ _ ?_
        assumption
      · assumption
    · refine PlaneOnly.ite ?_ ?_
      · refine setMem_plane _ _ _ _ ?_
        assumption
      · refine PlaneOnly.ite ?_ ?_
        · refine setMem_plane _ _ _ _ ?_
          assumption
        · refine makeAbsent_plane _ _ ?_
          assumption

theorem replay_plane (g : ℕ) (s : State) (hs : PlaneOnly s0 s) : PlaneOnly s0 (replay g s) := by
  unfold replay
  extract_lets s1 s2
  have h2 : PlaneOnly s0 s2 := by
    refine PlaneOnly.foldl _ _ ?_ fun s x h => ?_
    · assumption
    · refine PlaneOnly.ite ?_ ?_
      · refine winWrite_plane _ _ ?_
        assumption
      · refine readyUpd_plane _ _ ?_
        assumption
  clear_value s2
  refine State.log_plane _ _ _ _ ?_
  assumption

theorem restoreSig_plane (g : ℕ) (x : AsmFound) (s : State) (hs : PlaneOnly s0 s) : PlaneOnly s0 (restoreSig g x s) := by
  unfold restoreSig
  extract_lets s1 s2 s3 s4 s5 s6 s7 s8 s9 s10 s11 s12 s13
  have h1 : PlaneOnly s0 s1 := by
    unfold s1
    split
    · refine State.updSig_plane _ _ _ ?_
      assumption
    · assumption
  clear_value s1
  have h3 : PlaneOnly s0 s3 := by
    refine State.updSig_plane _ _ _ ?_
    assumption
  clear_value s3
  have h4 : PlaneOnly s0 s4 := by
    refine State.updSig_plane _ _ _ ?_
    assumption
  clear_value s4
  have h5 : PlaneOnly s0 s5 := by
    refine PlaneOnly.ite ?_ ?_
    · refine setAside_plane _ _ ?_
      assumption
    · assumption
  clear_value s5
  have h7 : PlaneOnly s0 s7 := by
    refine State.updSig_plane _ _ _ ?_
    assumption
  clear_value s7
  have h8 : PlaneOnly s0 s8 := by
    refine rejoin_plane _ _ ?_
    assumption
  clear_value s8
  have h9 : PlaneOnly s0 s9 := by
    refine PlaneOnly.ite ?_ ?_
    · refine PlaneOnly.foldl _ _ ?_ fun s x h => ?_
      · refine State.raise_plane _ _ _ ?_
        assumption
      · refine declareNow_plane _ _ _ _ ?_
        assumption
    · assumption
  clear_value s9
  have h10 : PlaneOnly s0 s10 := by
    refine PlaneOnly.ite ?_ ?_
    · refine State.raise_plane _ _ _ ?_
      assumption
    · assumption
  clear_value s10
  have h13 : PlaneOnly s0 s13 := by
    refine State.updSig_plane _ _ _ ?_
    assumption
  clear_value s13
  refine PlaneOnly.ite ?_ ?_
  · refine replay_plane _ _ ?_
    refine rejoin_plane _ _ ?_
    assumption
  · refine PlaneOnly.ite ?_ ?_
    · assumption
    · refine State.log_plane _ _ _ _ ?_
      assumption

theorem restoreZones_plane (g : ℕ) (x : AsmFound) (s : State) (hs : PlaneOnly s0 s) : PlaneOnly s0 (restoreZones g x s) := by
  unfold restoreZones
  extract_lets s1 s2 s3
  have h2 : PlaneOnly s0 s2 := by
    refine PlaneOnly.foldl _ _ ?_ fun s x h => ?_
    · assumption
    · refine State.setZone_plane _ _ _ ?_
      assumption
  clear_value s2
  refine PlaneOnly.ite ?_ ?_
  · refine loseZones_plane _ _ ?_
    assumption
  · refine PlaneOnly.foldl _ _ ?_ fun s x h => ?_
    · assumption
    · refine State.updZone_plane _ _ _ ?_
      assumption

theorem remakeWindow_plane (g : ℕ) (lo : ℕ) (hi : ℕ) (blocks : NMap RdVal) (s : State) (hs : PlaneOnly s0 s) : PlaneOnly s0 (remakeWindow g lo hi blocks s) := by
  unfold remakeWindow
  extract_lets s1 s2 s3 s4
  have h1 : PlaneOnly s0 s1 := by
    refine updRs_plane _ _ _ ?_
    assumption
  clear_value s1
  have h4 : PlaneOnly s0 s4 := by
    refine PlaneOnly.foldl _ _ ?_ fun s x h => ?_
    · assumption
    · refine startUpd_plane _ _ ?_
      assumption
  clear_value s4
  refine PlaneOnly.upd ?_ rfl
  assumption

theorem recoverWindow_plane (g : ℕ) (lo : ℕ) (hi : ℕ) (torn : List TornBlk) (s : State) (hs : PlaneOnly s0 s) : PlaneOnly s0 (recoverWindow g lo hi torn s) := by
  unfold recoverWindow
  split
  · extract_lets s1 s2 s3 s4
    have h3 : PlaneOnly s0 s3 := by
      refine PlaneOnly.ite ?_ ?_
      · assumption
      · refine hbAdd_plane _ _ _ _ ?_
        assumption
    clear_value s3
    have h4 : PlaneOnly s0 s4 := by
      refine remakeWindow_plane _ _ _ _ _ ?_
      assumption
    clear_value s4
    refine State.log_plane _ _ _ _ ?_
    refine State.raise_plane _ _ _ ?_
    assumption
  · assumption

theorem resumeWindow_plane (g : ℕ) (w : CopyWin) (s : State) (hs : PlaneOnly s0 s) : PlaneOnly s0 (resumeWindow g w s) := by
  unfold resumeWindow
  refine PlaneOnly.ite ?_ ?_
  · refine updWin_plane _ _ _ ?_
    assumption
  · refine PlaneOnly.ite ?_ ?_
    · refine remakeWindow_plane _ _ _ _ _ ?_
      assumption
    · assumption

theorem sizeNew_plane (g : ℕ) (i : Imposition) (s : State) (hs : PlaneOnly s0 s) : PlaneOnly s0 (sizeNew g i s) := by
  unfold sizeNew
  extract_lets s1
  refine State.updSig_plane _ _ _ ?_
  assumption

theorem holdOut_plane (g : ℕ) (s : State) (hs : PlaneOnly s0 s) : PlaneOnly s0 (holdOut g s) := by
  unfold holdOut
  extract_lets s1
  have h1 : PlaneOnly s0 s1 := by
    refine markKey_plane _ _ ?_
    refine State.raise_plane _ _ _ ?_
    refine State.setBit_plane _ _ _ _ ?_
    refine State.updSig_plane _ _ _ ?_
    assumption
  clear_value s1
  refine PlaneOnly.ite ?_ ?_
  · refine State.log_plane _ _ _ _ ?_
    assumption
  · assumption

theorem zeroWords_plane (F : FieldSpec) (s : State) (hs : PlaneOnly s0 s) : PlaneOnly s0 (zeroWords F s) := by
  unfold zeroWords
  refine PlaneOnly.foldl _ _ ?_ fun s x h => ?_
  · assumption
  · refine State.put_plane _ _ _ _ ?_
    assumption

theorem refuseKek_plane (s : State) (hs : PlaneOnly s0 s) : PlaneOnly s0 (refuseKek s) := by
  unfold refuseKek
  refine State.log_plane _ _ _ _ ?_
  refine zeroWords_plane _ _ ?_
  refine State.raise_plane _ _ _ ?_
  assumption

theorem doRngHealthFail_plane (s : State) (hs : PlaneOnly s0 s) : PlaneOnly s0 (doRngHealthFail s) := by
  unfold doRngHealthFail
  refine State.putB_plane _ _ _ _ ?_
  assumption

theorem doSnapGo_plane (s : State) (hs : PlaneOnly s0 s) : PlaneOnly s0 (doSnapGo s) := by
  unfold doSnapGo
  extract_lets s1 s2 s3 s4 s5 s6 s7
  have h1 : PlaneOnly s0 s1 := by
    refine State.pulse_plane _ _ _ ?_
    assumption
  clear_value s1
  have h5 : PlaneOnly s0 s5 := by
    refine State.put_plane _ _ _ _ ?_
    refine State.put_plane _ _ _ _ ?_
    assumption
  clear_value s5
  have h6 : PlaneOnly s0 s6 := by
    refine State.put_plane _ _ _ _ ?_
    refine State.put_plane _ _ _ _ ?_
    assumption
  clear_value s6
  have h7 : PlaneOnly s0 s7 := by
    refine State.put_plane _ _ _ _ ?_
    refine State.put_plane _ _ _ _ ?_
    assumption
  clear_value s7
  refine State.put_plane _ _ _ _ ?_
  refine State.put_plane _ _ _ _ ?_
  refine State.put_plane _ _ _ _ ?_
  assumption

theorem winAdvance_plane (s : State) (hs : PlaneOnly s0 s) : PlaneOnly s0 (winAdvance s) := by
  unfold winAdvance
  refine State.put_plane _ _ _ _ ?_
  assumption

theorem ifBit_plane (v : ℕ) (j : ℕ) (f : State → State) (s : State) (hk : ∀  s, PlaneOnly s0 s → PlaneOnly s0 (f  s)) (hs1 : PlaneOnly s0 s) : PlaneOnly s0 (ifBit v j f s) := by
  unfold ifBit
  refine PlaneOnly.ite ?_ ?_
  · refine hk _ ?_
    assumption
  · assumption

theorem actSig_plane (g : ℕ) (o : ℕ) (v : ℕ) (s : State) (hs : PlaneOnly s0 s) : PlaneOnly s0 (actSig g o v s) := by
  unfold actSig
  refine PlaneOnly.ite ?_ ?_
  · refine doMemberSel_plane _ _ _ ?_
    assumption
  · refine PlaneOnly.ite ?_ ?_
    · refine ifBit_plane _ _ _ _ (fun x0 h' => ?_) ?_
      · refine doMapGo_plane _ _ ?_
        assumption
      · assumption
    · refine PlaneOnly.ite ?_ ?_
      · refine doHbSel_plane _ _ _ ?_
        assumption
      · refine PlaneOnly.ite ?_ ?_
        · refine doCorrSel_plane _ _ _ ?_
          assumption
        · refine PlaneOnly.ite ?_ ?_
          · refine ifBit_plane _ _ _ _ (fun x0 h' => ?_) ?_
            · refine doFailGo_plane _ _ ?_
              assumption
            · assumption
          · refine PlaneOnly.ite ?_ ?_
            · refine doEntSel_plane _ _ _ ?_
              assumption
            · assumption

theorem finishSnap_plane (s : State) (hs : PlaneOnly s0 s) : PlaneOnly s0 (finishSnap s) := by
  unfold finishSnap
  refine PlaneOnly.ite ?_ ?_
  · refine doSnapGo_plane _ ?_
    assumption
  · assumption

theorem onBus_plane (f : State → State) (s : State) (hk : ∀  s, PlaneOnly s0 s → PlaneOnly s0 (f  s)) (hs1 : PlaneOnly s0 s) : PlaneOnly s0 (onBus f s) := by
  unfold onBus
  refine PlaneOnly.ite ?_ ?_
  · refine hk _ ?_
    assumption
  · assumption

theorem onAddr_plane (f : State → State) (s : State) (hk : ∀  s, PlaneOnly s0 s → PlaneOnly s0 (f  s)) (hs1 : PlaneOnly s0 s) : PlaneOnly s0 (onAddr f s) := by
  unfold onAddr
  refine PlaneOnly.ite ?_ ?_
  · refine hk _ ?_
    assumption
  · assumption

theorem doEntdaa_plane (a : ℕ) (s : State) (hs : PlaneOnly s0 s) : PlaneOnly s0 (doEntdaa a s) := by
  unfold doEntdaa
  refine PlaneOnly.ite ?_ ?_
  · assumption
  · refine State.put_plane _ _ _ _ ?_
    refine State.emit_plane _ _ ?_
    assumption

theorem doSetnewda_plane (a : ℕ) (s : State) (hs : PlaneOnly s0 s) : PlaneOnly s0 (doSetnewda a s) := by
  unfold doSetnewda
  refine State.put_plane _ _ _ _ ?_
  assumption

theorem doRstdaa_plane (s : State) (hs : PlaneOnly s0 s) : PlaneOnly s0 (doRstdaa s) := by
  unfold doRstdaa
  refine State.put_plane _ _ _ _ ?_
  assumption

theorem doGetpid_plane (s : State) (hs : PlaneOnly s0 s) : PlaneOnly s0 (doGetpid s) := by
  unfold doGetpid
  refine State.emit_plane _ _ ?_
  assumption

theorem doGetbcr_plane (s : State) (hs : PlaneOnly s0 s) : PlaneOnly s0 (doGetbcr s) := by
  unfold doGetbcr
  refine State.emit_plane _ _ ?_
  assumption

theorem doGetdcr_plane (s : State) (hs : PlaneOnly s0 s) : PlaneOnly s0 (doGetdcr s) := by
  unfold doGetdcr
  refine State.emit_plane _ _ ?_
  assumption

theorem doEnec_plane (bits : ℕ) (s : State) (hs : PlaneOnly s0 s) : PlaneOnly s0 (doEnec bits s) := by
  unfold doEnec
  refine PlaneOnly.ite ?_ ?_
  · refine State.putB_plane _ _ _ _ ?_
    assumption
  · assumption

theorem doDisec_plane (bits : ℕ) (s : State) (hs : PlaneOnly s0 s) : PlaneOnly s0 (doDisec bits s) := by
  unfold doDisec
  refine PlaneOnly.ite ?_ ?_
  · refine State.putB_plane _ _ _ _ ?_
    assumption
  · assumption

theorem doSetmwl_plane (v : ℕ) (s : State) (hs : PlaneOnly s0 s) : PlaneOnly s0 (doSetmwl v s) := by
  unfold doSetmwl
  refine State.put_plane _ _ _ _ ?_
  assumption

theorem doGetmwl_plane (s : State) (hs : PlaneOnly s0 s) : PlaneOnly s0 (doGetmwl s) := by
  unfold doGetmwl
  refine State.emit_plane _ _ ?_
  assumption

theorem doSetmrl_plane (v : ℕ) (s : State) (hs : PlaneOnly s0 s) : PlaneOnly s0 (doSetmrl v s) := by
  unfold doSetmrl
  refine State.put_plane _ _ _ _ ?_
  assumption

theorem doGetmrl_plane (s : State) (hs : PlaneOnly s0 s) : PlaneOnly s0 (doGetmrl s) := by
  unfold doGetmrl
  refine State.emit_plane _ _ ?_
  assumption

theorem doGetmxds_plane (s : State) (hs : PlaneOnly s0 s) : PlaneOnly s0 (doGetmxds s) := by
  unfold doGetmxds
  refine State.emit_plane _ _ ?_
  assumption

theorem doCccUnsupported_plane (direct : Bool) (s : State) (hs : PlaneOnly s0 s) : PlaneOnly s0 (doCccUnsupported direct s) := by
  unfold doCccUnsupported
  refine PlaneOnly.ite ?_ ?_
  · refine State.emit_plane _ _ ?_
    assumption
  · assumption

theorem queueWords_plane (a : ℕ) (ws : List ℕ) (s : State) (hs : PlaneOnly s0 s) : PlaneOnly s0 (queueWords a ws s) := by
  unfold queueWords
  refine PlaneOnly.upd ?_ rfl
  assumption

theorem onHdr_plane (f : State → State) (s : State) (hk : ∀  s, PlaneOnly s0 s → PlaneOnly s0 (f  s)) (hs1 : PlaneOnly s0 s) : PlaneOnly s0 (onHdr f s) := by
  unfold onHdr
  refine PlaneOnly.ite ?_ ?_
  · refine hk _ ?_
    assumption
  · assumption

theorem stepCalReq_plane (s : State) (hs : PlaneOnly s0 s) : PlaneOnly s0 (stepCalReq s) := by
  unfold stepCalReq
  refine PlaneOnly.ite ?_ ?_
  · refine State.log_plane _ _ _ _ ?_
    assumption
  · assumption

theorem stepHealth_plane (g : ℕ) (s : State) (hs : PlaneOnly s0 s) : PlaneOnly s0 (stepHealth g s) := by
  unfold stepHealth
  extract_lets s1 s2 s3
  have h2 : PlaneOnly s0 s2 := by
    refine State.put_plane _ _ _ _ ?_
    refine State.put_plane _ _ _ _ ?_
    assumption
  clear_value s2
  have h3 : PlaneOnly s0 s3 := by
    refine State.put_plane _ _ _ _ ?_
    refine State.put_plane _ _ _ _ ?_
    assumption
  clear_value s3
  refine PlaneOnly.ite ?_ ?_
  · refine State.updSig_plane _ _ _ ?_
    assumption
  · assumption

theorem stepProof_plane (g : ℕ) (s : State) (hs : PlaneOnly s0 s) : PlaneOnly s0 (stepProof g s) := by
  unfold stepProof
  extract_lets s1
  refine PlaneOnly.ite ?_ ?_
  · refine State.raise_plane _ _ _ ?_
    assumption
  · assumption

theorem stepReshape_plane (g : ℕ) (s : State) (hs : PlaneOnly s0 s) : PlaneOnly s0 (stepReshape g s) := by
  unfold stepReshape
  split
  · extract_lets s1
    refine PlaneOnly.ite ?_ ?_
    · refine State.log_plane _ _ _ _ ?_
      refine updRs_plane _ _ _ ?_
      assumption
    · assumption
  · assumption

theorem stepScrub_plane (c : ℕ) (s : State) (hs : PlaneOnly s0 s) : PlaneOnly s0 (stepScrub c s) := by
  unfold stepScrub
  refine PlaneOnly.ite ?_ ?_
  · assumption
  · extract_lets s1 s2
    have h2 : PlaneOnly s0 s2 := by
      refine State.put_plane _ _ _ _ ?_
      assumption
    clear_value s2
    refine PlaneOnly.ite ?_ ?_
    · refine State.raise_plane _ _ _ ?_
      assumption
    · assumption

theorem stepWarnings_plane (s : State) (hs : PlaneOnly s0 s) : PlaneOnly s0 (stepWarnings s) := by
  unfold stepWarnings
  extract_lets s1 s2
  have h2 : PlaneOnly s0 s2 := by
    refine PlaneOnly.foldl _ _ ?_ fun s x h => ?_
    · assumption
    · refine notice_plane _ _ _ ?_
      assumption
  clear_value s2
  refine PlaneOnly.upd ?_ rfl
  assumption

theorem whenFree_plane (f : State → State) (s : State) (hk : ∀  s, PlaneOnly s0 s → PlaneOnly s0 (f  s)) (hs1 : PlaneOnly s0 s) : PlaneOnly s0 (whenFree f s) := by
  unfold whenFree
  refine PlaneOnly.ite ?_ ?_
  · refine hk _ ?_
    assumption
  · assumption

end Sys2Proof.Machine
end

