-- ==== Sys2Proof/Laws/Wire.lean ====
section
/-!
SUPPORT. What the operations that move blocks between the Case and the drives can change (`WireOnly`), one lemma per operation.
-/

namespace Sys2Proof.Machine

/-- Register fields, the Case, the order of writes, the drive ports and what leaves by them, and the free values taken. -/
def WireOnly (s0 s : State) : Prop :=
  s = { s0 with rf := s.rf, cs := s.cs, seq := s.seq, drvs := s.drvs, out := s.out, tagNo := s.tagNo, core := { s0.core with free := s.core.free } }

theorem WireOnly.refl (s : State) : WireOnly s s := rfl

theorem WireOnly.trans {s0 s t : State} (h : WireOnly s0 s) (k : WireOnly s t) : WireOnly s0 t := by
  unfold WireOnly at *
  rw [k, h]

variable {s0 : State}

/-- A change of the parts that may change. -/
theorem WireOnly.upd {s t : State} (h : WireOnly s0 s) (e : WireOnly s t) : WireOnly s0 t := h.trans e

theorem WireOnly.pair {α : Type} {x : α × State} {a : α} {t : State} (e : x = (a, t)) (h : WireOnly s0 x.2) : WireOnly s0 t := by
  subst e; exact h

theorem WireOnly.getD {o : Option State} {s : State} (h1 : ∀ t, o = some t → WireOnly s0 t) (h2 : WireOnly s0 s) : WireOnly s0 (o.getD s) := by
  cases o with
  | none => exact h2
  | some t => exact h1 t rfl

theorem WireOnly.ite {c : Prop} [Decidable c] {s t : State} (h1 : WireOnly s0 s) (h2 : WireOnly s0 t) : WireOnly s0 (if c then s else t) := by
  split_ifs
  · exact h1
  · exact h2

theorem WireOnly.foldl {β : Type} (f : State → β → State) (l : List β) {s : State} (h : WireOnly s0 s)
    (hf : ∀ s x, WireOnly s0 s → WireOnly s0 (f s x)) : WireOnly s0 (l.foldl f s) := by
  induction l generalizing s with
  | nil => exact h
  | cons a l ih => exact ih (hf s a h)

theorem State.put_wire (s : State) (F : FieldSpec) (v i : Nat) (h : WireOnly s0 s) : WireOnly s0 (s.put F v i) := h.trans rfl

theorem State.raise_wire (s : State) (F : FieldSpec) (i : Nat) (h : WireOnly s0 s) : WireOnly s0 (s.raise F i) := h.trans rfl

theorem State.bump_wire (s : State) (F : FieldSpec) (n0 : ℕ) (i : ℕ) (hs : WireOnly s0 s) : WireOnly s0 (State.bump s F n0 i) := by
  unfold State.bump
  refine State.put_wire _ _ _ _ ?_
  assumption

theorem State.putB_wire (s : State) (F : FieldSpec) (b : Bool) (i : ℕ) (hs : WireOnly s0 s) : WireOnly s0 (State.putB s F b i) := by
  unfold State.putB
  refine State.put_wire _ _ _ _ ?_
  assumption

theorem State.ask_wire (s : State) (F : FieldSpec) (i : ℕ) (hs : WireOnly s0 s) : WireOnly s0 (State.ask s F i) := by
  unfold State.ask
  refine State.put_wire _ _ _ _ ?_
  assumption

theorem State.settle_wire (s : State) (F : FieldSpec) (i : ℕ) (hs : WireOnly s0 s) : WireOnly s0 (State.settle s F i) := by
  unfold State.settle
  refine WireOnly.upd ?_ rfl
  assumption

theorem State.pulse_wire (s : State) (F : FieldSpec) (i : ℕ) (hs : WireOnly s0 s) : WireOnly s0 (State.pulse s F i) := by
  unfold State.pulse
  refine State.settle_wire _ _ _ ?_
  refine State.ask_wire _ _ _ ?_
  assumption

theorem State.draw_wire (s : State) (hs : WireOnly s0 s) : WireOnly s0 (State.draw s).2 := by
  unfold State.draw
  dsimp only
  refine WireOnly.upd ?_ rfl
  assumption

theorem State.emit_wire (s : State) (o : Out) (hs : WireOnly s0 s) : WireOnly s0 (State.emit s o) := by
  unfold State.emit
  refine WireOnly.upd ?_ rfl
  assumption

theorem whenOn_wire (f : State → State) (s : State) (h : WireOnly s0 s) (hk : WireOnly s0 (f s)) : WireOnly s0 (whenOn f s) := by
  unfold whenOn
  exact WireOnly.ite hk h

theorem State.ibi_wire (s : State) (c : Nat) (h : WireOnly s0 s) : WireOnly s0 (s.ibi c) := h.trans rfl

theorem updLine_wire (kind : ℕ) (sig : ℕ) (num : ℕ) (f : Line → Line) (s : State) (hs : WireOnly s0 s) : WireOnly s0 (updLine kind sig num f s) := by
  unfold updLine
  split
  · refine WireOnly.upd ?_ rfl
    assumption
  · split
    · refine WireOnly.upd ?_ rfl
      assumption
    · assumption

theorem State.setChan_wire (s : State) (c : ℕ) (x : Chan) (hs : WireOnly s0 s) : WireOnly s0 (State.setChan s c x) := by
  unfold State.setChan
  refine WireOnly.upd ?_ rfl
  assumption

theorem takeFrame_wire (c : ℕ) (s : State) (hs : WireOnly s0 s) : WireOnly s0 (takeFrame c s).2 := by
  unfold takeFrame
  dsimp only
  refine State.setChan_wire _ _ _ ?_
  refine State.draw_wire _ ?_
  assumption

theorem giveFrame_wire (f : ℕ) (s : State) (hs : WireOnly s0 s) : WireOnly s0 (giveFrame f s) := by
  unfold giveFrame
  extract_lets s1 s2
  refine State.setChan_wire _ _ _ ?_
  assumption

theorem giveFrames_wire (fs : List ℕ) (s : State) (hs : WireOnly s0 s) : WireOnly s0 (giveFrames fs s) := by
  unfold giveFrames
  refine WireOnly.foldl _ _ ?_ fun s x h => ?_
  · assumption
  · refine giveFrame_wire _ _ ?_
    assumption

theorem takePair_wire (s : State) (hs : WireOnly s0 s) : ∀ a t, takePair s = some (a, t) → WireOnly s0 t := by
  intro a t ht
  unfold takePair at ht
  split at ht
  · cases ht
  · dsimp only at ht
    split at ht <;> cases ht
    · exact takeFrame_wire _ _ hs
    · exact takeFrame_wire _ _ (takeFrame_wire _ _ hs)

theorem evict_wire (x : Line) (writeBack : Bool) (engine : Option Nat) (s : State) (hs : WireOnly s0 s) :
    ∀ t, evict x writeBack engine s = some t → WireOnly s0 t := by
  intro t ht
  unfold evict at ht
  split at ht <;> cases ht
  refine WireOnly.upd ?_ rfl
  assumption

theorem chooseWay_wire (set : Nat) (s : State) (hs : WireOnly s0 s) : ∀ a t, chooseWay set s = some (a, t) → WireOnly s0 t := by
  intro a t ht
  unfold chooseWay at ht
  extract_lets w keys at_ e e1 e2 top d src s1 at ht
  split at ht
  · cases ht; assumption
  · split at ht
    · cases ht
    · split at ht
      · cases ht
      · have h1 : WireOnly s0 s1 := WireOnly.upd hs rfl
        clear_value s1
        split at ht <;> cases ht
        refine State.bump_wire _ _ _ _ (WireOnly.upd ?_ rfl)
        exact evict_wire _ _ _ _ h1 _ (by assumption)

theorem newLine_wire (kind sig num : Nat) (stream : Bool) (s : State) (hs : WireOnly s0 s) :
    ∀ t, newLine kind sig num stream s = some t → WireOnly s0 t := by
  intro t ht
  unfold newLine at ht
  split at ht
  · cases ht
  · split at ht
    · cases ht
    · cases ht
      refine WireOnly.upd (takeFrame_wire _ _ ?_) rfl
      refine chooseWay_wire _ _ ?_ _ _ (by assumption)
      assumption

theorem waitCount_wire (kind : ℕ) (sig : ℕ) (num : ℕ) (s : State) (hs : WireOnly s0 s) : WireOnly s0 (waitCount kind sig num s) := by
  unfold waitCount
  refine WireOnly.ite ?_ ?_
  · extract_lets s1
    have h1 : WireOnly s0 s1 := by
      refine State.bump_wire _ _ _ _ ?_
      assumption
    clear_value s1
    refine WireOnly.ite ?_ ?_
    · refine State.raise_wire _ _ _ ?_
      assumption
    · assumption
  · refine State.bump_wire _ _ _ _ ?_
    assumption

theorem reinstate_wire (kind : ℕ) (sig : ℕ) (num : ℕ) (s : State) (hs : WireOnly s0 s) : WireOnly s0 (reinstate kind sig num s) := by
  unfold reinstate
  split
  · assumption
  · split
    · assumption
    · refine State.bump_wire _ _ _ _ ?_
      refine WireOnly.upd ?_ rfl
      refine chooseWay_wire _ _ ?_ _ _ (by assumption)
      assumption

theorem touch_wire (kind : ℕ) (sig : ℕ) (num : ℕ) (s : State) (hs : WireOnly s0 s) : WireOnly s0 (touch kind sig num s) := by
  unfold touch
  split
  · refine WireOnly.upd ?_ rfl
    assumption
  · assumption

theorem fillCell_wire (kind : ℕ) (sig : ℕ) (num : ℕ) (j : ℕ) (v : RdVal) (stream : Bool) (s : State) (hs : WireOnly s0 s) : WireOnly s0 (fillCell kind sig num j v stream s) := by
  unfold fillCell
  extract_lets s1
  have h1 : WireOnly s0 s1 := by
    refine WireOnly.ite ?_ ?_
    · assumption
    · refine WireOnly.getD (fun t ht => ?_) ?_
      · refine newLine_wire _ _ _ _ _ ?_ _ (by assumption)
        assumption
      · refine waitCount_wire _ _ _ _ ?_
        assumption
  clear_value s1
  refine updLine_wire _ _ _ _ _ ?_
  assumption

theorem fillBlock_wire (sig : ℕ) (lbn : ℕ) (v : RdVal) (stream : Bool) (s : State) (hs : WireOnly s0 s) : WireOnly s0 (fillBlock sig lbn v stream s) := by
  unfold fillBlock
  refine WireOnly.ite ?_ ?_
  · assumption
  · refine fillCell_wire _ _ _ _ _ _ _ ?_
    assumption

theorem fillParity_wire (i : Imposition) (kind : ℕ) (t : ℕ) (b : ℕ) (v : Blk) (s : State) (hs : WireOnly s0 s) : WireOnly s0 (fillParity i kind t b v s) := by
  unfold fillParity
  extract_lets s1
  refine fillCell_wire _ _ _ _ _ _ _ ?_
  assumption

theorem readyLine_wire (sig num : Nat) (stream : Bool) (s : State) (hs : WireOnly s0 s) :
    ∀ t, readyLine sig num stream s = some t → WireOnly s0 t := by
  intro t ht
  unfold readyLine at ht
  extract_lets s1 s2 at ht
  have h1 : WireOnly s0 s1 := WireOnly.ite (reinstate_wire _ _ _ _ hs) hs
  clear_value s1
  obtain ⟨u, hu, ht⟩ := Option.bind_eq_some_iff.mp ht
  have h2 : WireOnly s0 u := by
    unfold s2 at hu
    split at hu
    · cases hu; assumption
    · exact newLine_wire _ _ _ _ _ h1 _ hu
  split at ht
  · cases ht
  · dsimp only at ht
    split at ht
    · cases ht; assumption
    · split at ht
      · split at ht
        · cases ht
        · cases ht
          refine updLine_wire _ _ _ _ _ (giveFrames_wire _ _ ?_)
          exact takePair_wire _ h2 _ _ (by assumption)
      · split at ht
        · split at ht <;> cases ht
          assumption
        · cases ht
          exact updLine_wire _ _ _ _ _ (takeFrame_wire _ _ h2)

theorem writeCell_wire (sig : ℕ) (lbn : ℕ) (data : Blk) (never : Bool) (wt : Bool) (s : State) (hs : WireOnly s0 s) : WireOnly s0 (writeCell sig lbn data never wt s) := by
  unfold writeCell
  extract_lets s1 s2 s3 s4 s5
  have h3 : WireOnly s0 s3 := by
    refine WireOnly.upd ?_ rfl
    assumption
  clear_value s3
  have h5 : WireOnly s0 s5 := by
    refine WireOnly.ite ?_ ?_
    · split
      · refine updLine_wire _ _ _ _ _ ?_
        refine takePair_wire _ ?_ _ _ (by assumption)
        assumption
      · assumption
    · assumption
  clear_value s5
  refine updLine_wire _ _ _ _ _ ?_
  assumption

theorem putBlock_wire (sig : Nat) (stream wt : Bool) (s : State) (x : Nat × Blk) (hs : WireOnly s0 s) :
    ∀ t, putBlock sig stream wt s x = some t → WireOnly s0 t := by
  intro t ht
  unfold putBlock at ht
  obtain ⟨u, hu, rfl⟩ := Option.map_eq_some_iff.mp ht
  have h1 := readyLine_wire _ _ _ _ hs _ hu
  have h2 := writeCell_wire sig x.1 x.2 false wt _ h1
  dsimp only
  exact WireOnly.ite h2 (touch_wire _ _ _ _ h2)

theorem putBlocks_wire (sig : Nat) (stream wt : Bool) (xs : List (Nat × Blk)) (s : State) (hs : WireOnly s0 s) :
    ∀ t, putBlocks sig stream wt xs s = some t → WireOnly s0 t := by
  unfold putBlocks
  induction xs generalizing s with
  | nil => intro t ht; cases ht; exact hs
  | cons x xs ih =>
    intro t ht
    rw [List.foldlM_cons] at ht
    obtain ⟨u, hu, ht⟩ := Option.bind_eq_some_iff.mp ht
    exact ih u (putBlock_wire _ _ _ _ _ hs _ hu) t ht

theorem settleLine_wire (sig : ℕ) (num : ℕ) (s : State) (hs : WireOnly s0 s) : WireOnly s0 (settleLine sig num s) := by
  unfold settleLine
  split
  · assumption
  · extract_lets s1 s2 s3
    have h3 : WireOnly s0 s3 := by
      refine WireOnly.ite ?_ ?_
      · assumption
      · refine updLine_wire _ _ _ _ _ ?_
        refine giveFrames_wire _ _ ?_
        assumption
    clear_value s3
    split
    · refine WireOnly.ite ?_ ?_
      · assumption
      · refine updLine_wire _ _ _ _ _ ?_
        refine giveFrame_wire _ _ ?_
        assumption
    · assumption

theorem youngest_wire (ks : List ℕ) (s : State) (hs : WireOnly s0 s) : WireOnly s0 (youngest ks s) := by
  unfold youngest
  refine WireOnly.upd ?_ rfl
  assumption

theorem stepTouched_wire (s : State) (hs : WireOnly s0 s) : WireOnly s0 (stepTouched s) := by
  unfold stepTouched
  extract_lets s1 s2
  have h1 : WireOnly s0 s1 := by
    refine youngest_wire _ _ ?_
    assumption
  clear_value s1
  refine WireOnly.upd ?_ rfl
  assumption

theorem doAgeIncrement_wire (s : State) (hs : WireOnly s0 s) : WireOnly s0 (doAgeIncrement s) := by
  unfold doAgeIncrement
  extract_lets s1 s2
  refine WireOnly.ite ?_ ?_
  · refine youngest_wire _ _ ?_
    refine WireOnly.upd ?_ rfl
    assumption
  · assumption

theorem reclaimSet_wire (c : ℕ) (set : ℕ) (s : State) (hs : WireOnly s0 s) : WireOnly s0 (reclaimSet c set s) := by
  unfold reclaimSet
  extract_lets s1
  refine WireOnly.foldl _ _ ?_ fun s x h => ?_
  · assumption
  · extract_lets s2
    split
    · refine WireOnly.ite ?_ ?_
      · split
        · refine State.bump_wire _ _ _ _ ?_
          refine WireOnly.upd ?_ rfl
          refine evict_wire _ _ _ _ ?_ _ (by assumption)
          assumption
        · refine State.raise_wire _ _ _ ?_
          assumption
      · assumption
    · assumption

theorem doReclaim_wire (c : ℕ) (s : State) (hs : WireOnly s0 s) : WireOnly s0 (doReclaim c s) := by
  unfold doReclaim
  refine WireOnly.ite ?_ ?_
  · extract_lets s1 s2 s3 s4 s5
    have h2 : WireOnly s0 s2 := by
      refine WireOnly.foldl _ _ ?_ fun s x h => ?_
      · assumption
      · refine WireOnly.ite ?_ ?_
        · refine reclaimSet_wire _ _ _ ?_
          assumption
        · assumption
    clear_value s2
    have h4 : WireOnly s0 s4 := by
      refine WireOnly.upd ?_ rfl
      assumption
    clear_value s4
    refine State.setChan_wire _ _ _ ?_
    assumption
  · assumption

theorem doEvbDrop_wire (i : ℕ) (s : State) (hs : WireOnly s0 s) : WireOnly s0 (doEvbDrop i s) := by
  unfold doEvbDrop
  split
  · refine WireOnly.ite ?_ ?_
    · extract_lets s1 s2
      have h1 : WireOnly s0 s1 := by
        refine giveFrames_wire _ _ ?_
        assumption
      clear_value s1
      refine WireOnly.upd ?_ rfl
      assumption
    · assumption
  · assumption

theorem doProbeGo_wire (s : State) (hs : WireOnly s0 s) : WireOnly s0 (doProbeGo s) := by
  unfold doProbeGo
  extract_lets s1 s2 s3 s4 s5 s6 s7 s8 s9 s10 s11 s12
  have h1 : WireOnly s0 s1 := by
    refine State.pulse_wire _ _ _ ?_
    assumption
  clear_value s1
  have h8 : WireOnly s0 s8 := by
    refine State.put_wire _ _ _ _ ?_
    assumption
  clear_value s8
  have h9 : WireOnly s0 s9 := by
    refine State.put_wire _ _ _ _ ?_
    refine State.put_wire _ _ _ _ ?_
    assumption
  clear_value s9
  have h10 : WireOnly s0 s10 := by
    refine State.putB_wire _ _ _ _ ?_
    refine State.putB_wire _ _ _ _ ?_
    assumption
  clear_value s10
  have h11 : WireOnly s0 s11 := by
    refine State.putB_wire _ _ _ _ ?_
    refine State.putB_wire _ _ _ _ ?_
    assumption
  clear_value s11
  have h12 : WireOnly s0 s12 := by
    refine State.put_wire _ _ _ _ ?_
    refine State.put_wire _ _ _ _ ?_
    assumption
  clear_value s12
  refine State.putB_wire _ _ _ _ ?_
  assumption

theorem State.setDrv_wire (s : State) (p : ℕ) (d : Drv) (hs : WireOnly s0 s) : WireOnly s0 (State.setDrv s p d) := by
  unfold State.setDrv
  refine WireOnly.upd ?_ rfl
  assumption

theorem State.updDrv_wire (s : State) (p : ℕ) (f : Drv → Drv) (hs : WireOnly s0 s) : WireOnly s0 (State.updDrv s p f) := by
  unfold State.updDrv
  refine State.setDrv_wire _ _ _ ?_
  assumption

theorem lastMismatch_wire (ms : List Mismatch) (s : State) (hs : WireOnly s0 s) : WireOnly s0 (lastMismatch ms s) := by
  unfold lastMismatch
  extract_lets s1
  split
  · assumption
  · refine State.put_wire _ _ _ _ ?_
    refine State.put_wire _ _ _ _ ?_
    refine State.put_wire _ _ _ _ ?_
    assumption

theorem setLink_wire (p : ℕ) (up : Bool) (s : State) (hs : WireOnly s0 s) : WireOnly s0 (setLink p up s) := by
  unfold setLink
  extract_lets s1
  have h1 : WireOnly s0 s1 := by
    refine State.putB_wire _ _ _ _ ?_
    refine State.putB_wire _ _ _ _ ?_
    assumption
  clear_value s1
  refine State.putB_wire _ _ _ _ ?_
  refine State.putB_wire _ _ _ _ ?_
  assumption

theorem clearPortCounters_wire (p : ℕ) (s : State) (hs : WireOnly s0 s) : WireOnly s0 (clearPortCounters p s) := by
  unfold clearPortCounters
  refine WireOnly.foldl _ _ ?_ fun s x h => ?_
  · assumption
  · refine State.put_wire _ _ _ _ ?_
    assumption

theorem doConnSel_wire (v : ℕ) (s : State) (hs : WireOnly s0 s) : WireOnly s0 (doConnSel v s) := by
  unfold doConnSel
  extract_lets s1 s2 s3 s4 s5 s6 s7
  have h2 : WireOnly s0 s2 := by
    refine State.put_wire _ _ _ _ ?_
    assumption
  clear_value s2
  have h5 : WireOnly s0 s5 := by
    refine State.putB_wire _ _ _ _ ?_
    refine State.put_wire _ _ _ _ ?_
    refine State.putB_wire _ _ _ _ ?_
    assumption
  clear_value s5
  have h6 : WireOnly s0 s6 := by
    refine State.putB_wire _ _ _ _ ?_
    refine State.putB_wire _ _ _ _ ?_
    refine State.putB_wire _ _ _ _ ?_
    assumption
  clear_value s6
  have h7 : WireOnly s0 s7 := by
    refine State.put_wire _ _ _ _ ?_
    refine State.put_wire _ _ _ _ ?_
    assumption
  clear_value s7
  refine State.put_wire _ _ _ _ ?_
  refine State.put_wire _ _ _ _ ?_
  assumption

theorem doHbSel_wire (g : ℕ) (v : ℕ) (s : State) (hs : WireOnly s0 s) : WireOnly s0 (doHbSel g v s) := by
  unfold doHbSel
  extract_lets s1 s2 s3 s4 s5 s6 s7 s8
  have h2 : WireOnly s0 s2 := by
    refine State.put_wire _ _ _ _ ?_
    assumption
  clear_value s2
  have h5 : WireOnly s0 s5 := by
    refine State.putB_wire _ _ _ _ ?_
    assumption
  clear_value s5
  have h6 : WireOnly s0 s6 := by
    refine State.put_wire _ _ _ _ ?_
    refine State.put_wire _ _ _ _ ?_
    assumption
  clear_value s6
  have h7 : WireOnly s0 s7 := by
    refine State.put_wire _ _ _ _ ?_
    refine State.put_wire _ _ _ _ ?_
    assumption
  clear_value s7
  refine State.put_wire _ _ _ _ ?_
  refine State.putB_wire _ _ _ _ ?_
  assumption

theorem latchGsb_wire (s : State) (hs : WireOnly s0 s) : WireOnly s0 (latchGsb s) := by
  unfold latchGsb
  extract_lets s1
  refine WireOnly.foldl _ _ ?_ fun s x h => ?_
  · assumption
  · refine State.put_wire _ _ _ _ ?_
    assumption

theorem doGsbLatch_wire (s : State) (hs : WireOnly s0 s) : WireOnly s0 (doGsbLatch s) := by
  unfold doGsbLatch
  refine State.pulse_wire _ _ _ ?_
  refine latchGsb_wire _ ?_
  assumption

theorem stepCeiling_wire (s : State) (hs : WireOnly s0 s) : WireOnly s0 (stepCeiling s) := by
  unfold stepCeiling
  extract_lets s1 s2
  have h1 : WireOnly s0 s1 := by
    refine State.put_wire _ _ _ _ ?_
    assumption
  clear_value s1
  have h2 : WireOnly s0 s2 := by
    refine State.put_wire _ _ _ _ ?_
    assumption
  clear_value s2
  refine State.put_wire _ _ _ _ ?_
  assumption

theorem fairSelWritten_wire (s : State) (hs : WireOnly s0 s) : WireOnly s0 (fairSelWritten s) := by
  unfold fairSelWritten
  extract_lets s1 s2 s3 s4
  have h1 : WireOnly s0 s1 := by
    refine State.putB_wire _ _ _ _ ?_
    refine State.put_wire _ _ _ _ ?_
    assumption
  clear_value s1
  have h2 : WireOnly s0 s2 := by
    refine State.put_wire _ _ _ _ ?_
    refine State.put_wire _ _ _ _ ?_
    assumption
  clear_value s2
  have h3 : WireOnly s0 s3 := by
    refine State.put_wire _ _ _ _ ?_
    refine State.put_wire _ _ _ _ ?_
    assumption
  clear_value s3
  have h4 : WireOnly s0 s4 := by
    refine State.put_wire _ _ _ _ ?_
    refine State.put_wire _ _ _ _ ?_
    assumption
  clear_value s4
  refine State.put_wire _ _ _ _ ?_
  refine State.put_wire _ _ _ _ ?_
  assumption

theorem zoneSaved_wire (k : ℕ) (s : State) (hs : WireOnly s0 s) : WireOnly s0 (zoneSaved k s) := by
  unfold zoneSaved
  refine WireOnly.ite ?_ ?_
  · refine State.emit_wire _ _ ?_
    assumption
  · assumption

theorem retainSheet_wire (v : Bool) (g : ℕ) (t : ℕ) (s : State) (hs : WireOnly s0 s) : WireOnly s0 (retainSheet v g t s) := by
  unfold retainSheet
  extract_lets s1 s2
  unfold s2
  refine WireOnly.foldl _ _ ?_ fun s x h => ?_
  · refine WireOnly.foldl _ _ ?_ fun s x h => ?_
    · refine WireOnly.foldl _ _ ?_ fun s x h => ?_
      · assumption
      · refine updLine_wire _ _ _ _ _ ?_
        assumption
    · refine updLine_wire _ _ _ _ _ ?_
      assumption
  · refine updLine_wire _ _ _ _ _ ?_
    assumption

theorem unretain_wire (k : ℕ) (s : State) (hs : WireOnly s0 s) : WireOnly s0 (unretain k s) := by
  unfold unretain
  split
  · refine retainSheet_wire _ _ _ _ ?_
    assumption
  · assumption

theorem dropCells_wire (g : ℕ) (lo : ℕ) (n0 : ℕ) (s : State) (hs : WireOnly s0 s) : WireOnly s0 (dropCells g lo n0 s) := by
  unfold dropCells
  extract_lets s1 s2 s3 s4 s5
  have h5 : WireOnly s0 s5 := by
    refine WireOnly.upd ?_ rfl
    assumption
  clear_value s5
  refine WireOnly.foldl _ _ ?_ fun s x h => ?_
  · assumption
  · refine settleLine_wire _ _ _ ?_
    assumption

theorem sendCmd_wire (p : ℕ) (tag : ℕ) (c : DrvCmd) (s : State) (hs : WireOnly s0 s) : WireOnly s0 (sendCmd p tag c s) := by
  unfold sendCmd
  refine WireOnly.foldl _ _ ?_ fun s x h => ?_
  · refine State.updDrv_wire _ _ _ ?_
    assumption
  · refine State.emit_wire _ _ ?_
    assumption

theorem pumpN_wire (p m : Nat) (s : State) (hs : WireOnly s0 s) : WireOnly s0 (pumpN p m s) := by
  induction m generalizing s with
  | zero => exact hs
  | succ m ih =>
    unfold pumpN
    extract_lets s1
    split
    · assumption
    · exact WireOnly.ite (ih _ (sendCmd_wire _ _ _ _ (State.setDrv_wire _ _ _ hs))) hs

theorem pump_wire (p : ℕ) (s : State) (hs : WireOnly s0 s) : WireOnly s0 (pump p s) := by
  unfold pump
  refine pumpN_wire _ _ _ ?_
  assumption

theorem giveCmd_wire (p : ℕ) (c : DrvCmd) (s : State) (hs : WireOnly s0 s) : WireOnly s0 (giveCmd p c s) := by
  unfold giveCmd
  extract_lets s1
  have h1 : WireOnly s0 s1 := by
    refine WireOnly.upd ?_ rfl
    assumption
  clear_value s1
  refine pump_wire _ _ ?_
  refine State.updDrv_wire _ _ _ ?_
  assumption

theorem setFill_wire (v : Bool) (g : ℕ) (t : ℕ) (p : ℕ) (b : ℕ) (n0 : ℕ) (s : State) (hs : WireOnly s0 s) : WireOnly s0 (setFill v g t p b n0 s) := by
  unfold setFill
  refine WireOnly.ite ?_ ?_
  · extract_lets s1
    refine WireOnly.foldl _ _ ?_ fun s x h => ?_
    · assumption
    · extract_lets s2 s3
      have h3 : WireOnly s0 s3 := by
        refine WireOnly.ite ?_ ?_
        · refine WireOnly.getD (fun t ht => ?_) ?_
          · refine newLine_wire _ _ _ _ _ ?_ _ (by assumption)
            assumption
          · refine waitCount_wire _ _ _ _ ?_
            assumption
        · assumption
      clear_value s3
      refine updLine_wire _ _ _ _ _ ?_
      assumption
  · assumption

theorem dropCmd_wire (p : ℕ) (tag : ℕ) (s : State) (hs : WireOnly s0 s) : WireOnly s0 (dropCmd p tag s) := by
  unfold dropCmd
  extract_lets s1 s2
  have h2 : WireOnly s0 s2 := by
    refine State.setDrv_wire _ _ _ ?_
    assumption
  clear_value s2
  split
  · refine WireOnly.ite ?_ ?_
    · refine setFill_wire _ _ _ _ _ _ _ ?_
      assumption
    · assumption
  · assumption

theorem finishCmd_wire (p : ℕ) (tag : ℕ) (s : State) (hs : WireOnly s0 s) : WireOnly s0 (finishCmd p tag s) := by
  unfold finishCmd
  split
  · refine pump_wire _ _ ?_
    refine State.bump_wire _ _ _ _ ?_
    refine dropCmd_wire _ _ _ ?_
    assumption
  · assumption

theorem finishAll_wire (use : DrvUse) (g : ℕ) (t : ℕ) (pos : Option ℕ) (s : State) (hs : WireOnly s0 s) : WireOnly s0 (finishAll use g t pos s) := by
  unfold finishAll
  extract_lets s1
  refine WireOnly.foldl _ _ ?_ fun s x h => ?_
  · assumption
  · refine WireOnly.foldl _ _ ?_ fun s x h => ?_
    · assumption
    · refine WireOnly.ite ?_ ?_
      · refine finishCmd_wire _ _ _ ?_
        assumption
      · assumption

theorem issueRead_wire (use : DrvUse) (g : ℕ) (t : ℕ) (p : ℕ) (b : ℕ) (n0 : ℕ) (s : State) (hs : WireOnly s0 s) : WireOnly s0 (issueRead use g t p b n0 s) := by
  unfold issueRead
  split
  · assumption
  · extract_lets s1 s2
    have h2 : WireOnly s0 s2 := by
      refine WireOnly.ite ?_ ?_
      · refine setFill_wire _ _ _ _ _ _ _ ?_
        assumption
      · assumption
    clear_value s2
    refine giveCmd_wire _ _ _ ?_
    assumption

theorem writeAt_wire (use : DrvUse) (g : ℕ) (t : ℕ) (p : ℕ) (at_ : ℕ × ℕ) (blocks : NMap RdVal) (s : State) (hs : WireOnly s0 s) : WireOnly s0 (writeAt use g t p at_ blocks s) := by
  unfold writeAt
  split
  · assumption
  · extract_lets s1 s2
    refine giveCmd_wire _ _ _ ?_
    assumption

theorem updCells_wire (g : ℕ) (t : ℕ) (offs : List ℕ) (f : Cell → Cell) (s : State) (hs : WireOnly s0 s) : WireOnly s0 (updCells g t offs f s) := by
  unfold updCells
  extract_lets s1 s2
  refine WireOnly.foldl _ _ ?_ fun s x h => ?_
  · assumption
  · refine updLine_wire _ _ _ _ _ ?_
    assumption

theorem updReads_wire (id : ℕ) (g : ℕ) (t : ℕ) (reads : List (ℕ × ℕ)) (s : State) (hs : WireOnly s0 s) : WireOnly s0 (updReads id g t reads s) := by
  unfold updReads
  refine WireOnly.foldl _ _ ?_ fun s x h => ?_
  · assumption
  · extract_lets s1
    clear_value s1
    split
    · assumption
    · extract_lets s2 s3
      refine issueRead_wire _ _ _ _ _ _ _ ?_
      assumption

theorem settleEvb_wire (s : State) (hs : WireOnly s0 s) : WireOnly s0 (settleEvb s) := by
  unfold settleEvb
  refine WireOnly.upd ?_ rfl
  assumption

theorem keepGalley_wire (u : Upd) (s : State) (hs : WireOnly s0 s) : WireOnly s0 (keepGalley u s) := by
  unfold keepGalley
  split
  · refine WireOnly.ite ?_ ?_
    · extract_lets s1
      have h1 : WireOnly s0 s1 := by
        refine WireOnly.foldl _ _ ?_ fun s x h => ?_
        · assumption
        · refine fillParity_wire _ _ _ _ _ _ ?_
          refine fillParity_wire _ _ _ _ _ _ ?_
          assumption
      clear_value s1
      refine retainSheet_wire _ _ _ _ ?_
      assumption
    · refine retainSheet_wire _ _ _ _ ?_
      assumption
  · assumption

theorem doReGo_wire (e : ℕ) (s : State) (hs : WireOnly s0 s) : WireOnly s0 (doReGo e s) := by
  unfold doReGo
  extract_lets s1 s2 s3 s4 s5 s6 s7 s8 s9 s10
  have h1 : WireOnly s0 s1 := by
    refine State.pulse_wire _ _ _ ?_
    assumption
  clear_value s1
  have h8 : WireOnly s0 s8 := by
    refine WireOnly.upd ?_ rfl
    assumption
  clear_value s8
  have h9 : WireOnly s0 s9 := by
    refine State.put_wire _ _ _ _ ?_
    refine State.put_wire _ _ _ _ ?_
    refine State.putB_wire _ _ _ _ ?_
    assumption
  clear_value s9
  have h10 : WireOnly s0 s10 := by
    refine State.put_wire _ _ _ _ ?_
    refine State.put_wire _ _ _ _ ?_
    assumption
  clear_value s10
  refine WireOnly.ite ?_ ?_
  · refine State.raise_wire _ _ _ ?_
    assumption
  · refine State.put_wire _ _ _ _ ?_
    refine State.put_wire _ _ _ _ ?_
    assumption

theorem evbFull_wire (s : State) (hs : WireOnly s0 s) : WireOnly s0 (evbFull s).2 := by
  unfold evbFull
  dsimp only
  refine State.raise_wire _ _ _ ?_
  assumption

theorem dropLine_wire (e key : Nat) (x : Line) (s : State) (hs : WireOnly s0 s) : ∀ t, dropLine e key x s = some t → WireOnly s0 t := by
  intro t ht
  unfold dropLine at ht
  obtain ⟨u, hu, rfl⟩ := Option.map_eq_some_iff.mp ht
  exact State.bump_wire _ _ _ _ (WireOnly.upd (evict_wire _ _ _ _ hs _ hu) rfl)

theorem prefetch_wire (e : ℕ) (g : ℕ) (num : ℕ) (s : State) (hs : WireOnly s0 s) : WireOnly s0 (prefetch e g num s) := by
  unfold prefetch
  extract_lets s1 s2 s3 s4 s5
  have h3 : WireOnly s0 s3 := by
    refine WireOnly.foldl _ _ ?_ fun s x h => ?_
    · assumption
    · extract_lets s6
      clear_value s6
      split
      · assumption
      · extract_lets s7
        refine issueRead_wire _ _ _ _ _ _ _ ?_
        assumption
  clear_value s3
  have h5 : WireOnly s0 s5 := by
    refine WireOnly.upd ?_ rfl
    assumption
  clear_value s5
  refine WireOnly.ite ?_ ?_
  · assumption
  · refine State.bump_wire _ _ _ _ ?_
    assumption

theorem updEngine_wire (e : ℕ) (f : RangeRun → RangeRun) (s : State) (hs : WireOnly s0 s) : WireOnly s0 (updEngine e f s) := by
  unfold updEngine
  refine WireOnly.upd ?_ rfl
  assumption

theorem showChan_wire (c : ℕ) (s : State) (hs : WireOnly s0 s) : WireOnly s0 (showChan c s) := by
  unfold showChan
  refine State.put_wire _ _ _ _ ?_
  refine State.put_wire _ _ _ _ ?_
  assumption

theorem moveFrames_wire (c : Nat) (x : Line) (s : State) (hs : WireOnly s0 s) : ∀ a t, moveFrames c x s = some (a, t) → WireOnly s0 t := by
  have hf (no : List Nat) (s : State) (hs : WireOnly s0 s) (a : Nat × State)
      (e : (roomiest s ((List.range 4).filter fun d => d != c && chanDirty s d && !no.contains d)).map (fun d => takeFrame d s) = some a) : WireOnly s0 a.2 := by
    obtain ⟨d, -, rfl⟩ := Option.map_eq_some_iff.mp e
    exact takeFrame_wire _ _ hs
  intro a t ht
  unfold moveFrames at ht
  extract_lets inC fresh others s1 s2 at ht
  have h1 : ∀ r, s1 = some r → WireOnly s0 r.2 := by
    intro r e
    unfold s1 at e
    split at e
    · obtain ⟨y, hy, rfl⟩ := Option.map_eq_some_iff.mp e
      exact giveFrame_wire _ _ (hf _ _ hs _ hy)
    · cases e; exact hs
  clear_value s1
  have h2 : ∀ r, s2 = some r → WireOnly s0 r.2 := by
    intro r e
    unfold s2 at e
    obtain ⟨y, hy, e⟩ := Option.bind_eq_some_iff.mp e
    have h3 := h1 _ hy
    split at e
    · split at e
      · split at e
        · cases e; exact giveFrame_wire _ _ (hf _ _ h3 _ (by assumption))
        · cases e; exact giveFrame_wire _ _ h3
      · cases e; exact h3
    · cases e; exact h3
  clear_value s2
  obtain ⟨r, hr, e⟩ := Option.map_eq_some_iff.mp ht
  have h3 := h2 _ hr
  refine WireOnly.pair e ?_
  refine foldl_keep (fun r : Line × State => WireOnly s0 r.2) _ _ h3 fun r f h => ?_
  dsimp only
  split
  · split
    · exact giveFrame_wire _ _ (hf _ _ h _ (by assumption))
    · exact h
  · exact h

theorem doCleanOnlyCopy_wire (c : Nat) (s : State) (hs : WireOnly s0 s) : WireOnly s0 (doCleanOnlyCopy c s) := by
  unfold doCleanOnlyCopy
  refine WireOnly.ite (WireOnly.foldl _ _ hs fun s x h => ?_) hs
  split
  · refine WireOnly.ite ?_ h
    split
    · rename_i r e
      exact WireOnly.upd (moveFrames_wire _ _ _ h r.1 r.2 e) rfl
    · assumption
  · assumption

theorem dropClean_wire (x : Line) (s : State) (hs : WireOnly s0 s) : WireOnly s0 (dropClean x s) := by
  unfold dropClean
  split
  · split
    · refine WireOnly.upd ?_ rfl
      refine evict_wire _ _ _ _ ?_ _ (by assumption)
      assumption
    · extract_lets s1 s2
      have h1 : WireOnly s0 s1 := by
        refine giveFrames_wire _ _ ?_
        refine State.raise_wire _ _ _ ?_
        assumption
      clear_value s1
      refine WireOnly.upd ?_ rfl
      assumption
  · assumption

theorem endScrubLap_wire (c : ℕ) (s : State) (hs : WireOnly s0 s) : WireOnly s0 (endScrubLap c s) := by
  unfold endScrubLap
  extract_lets s1 s2
  have h2 : WireOnly s0 s2 := by
    refine State.put_wire _ _ _ _ ?_
    refine State.put_wire _ _ _ _ ?_
    assumption
  clear_value s2
  refine State.setChan_wire _ _ _ ?_
  assumption

theorem replaceFrame_wire (c : ℕ) (f : ℕ) (s : State) (hs : WireOnly s0 s) : WireOnly s0 (replaceFrame c f s) := by
  unfold replaceFrame
  extract_lets s1 s2 s3 s4 s5 s6 s7 s8 s9
  have h4 : WireOnly s0 s4 := by
    refine State.setChan_wire _ _ _ ?_
    assumption
  clear_value s4
  have h5 : WireOnly s0 s5.2 := by
    refine takeFrame_wire _ _ ?_
    assumption
  clear_value s5
  have h8 : WireOnly s0 s8 := by
    unfold s8
    assumption
  clear_value s8
  refine WireOnly.ite ?_ ?_
  · refine WireOnly.upd ?_ rfl
    assumption
  · assumption

theorem putWin_wire (a : ℕ) (dev : ℕ) (bs : List ℕ) (s : State) (hs : WireOnly s0 s) : WireOnly s0 (putWin a dev bs s) := by
  unfold putWin
  refine WireOnly.upd ?_ rfl
  assumption

theorem writeWord_wire (a : ℕ) (bs : List ℕ) (s : State) (hs : WireOnly s0 s) : WireOnly s0 (writeWord a bs s) := by
  unfold writeWord
  refine putWin_wire _ _ _ _ ?_
  refine putWin_wire _ _ _ _ ?_
  assumption

theorem flushMerge_wire (i : ℕ) (s : State) (hs : WireOnly s0 s) : WireOnly s0 (flushMerge i s) := by
  unfold flushMerge
  split
  · assumption
  · extract_lets s1 s2 s3 s4
    have h3 : WireOnly s0 s3 := by
      refine writeWord_wire _ _ _ ?_
      assumption
    clear_value s3
    refine WireOnly.upd ?_ rfl
    assumption

theorem narrowWrite_wire (a : ℕ) (bytes : NMap ℕ) (s : State) (hs : WireOnly s0 s) : WireOnly s0 (narrowWrite a bytes s) := by
  unfold narrowWrite
  split
  · refine WireOnly.upd ?_ rfl
    assumption
  · extract_lets s1 s2 s3
    have h1 : WireOnly s0 s1 := by
      refine State.raise_wire _ _ _ ?_
      assumption
    clear_value s1
    have h2 : WireOnly s0 s2 := by
      refine WireOnly.ite ?_ ?_
      · assumption
      · split
        · refine flushMerge_wire _ _ ?_
          assumption
        · assumption
    clear_value s2
    refine WireOnly.upd ?_ rfl
    assumption

theorem wholeWrite_wire (a : ℕ) (bs : List ℕ) (s : State) (hs : WireOnly s0 s) : WireOnly s0 (wholeWrite a bs s) := by
  unfold wholeWrite
  refine writeWord_wire _ _ _ ?_
  refine WireOnly.upd ?_ rfl
  assumption

theorem doMergeEntryFlush_wire (i : ℕ) (s : State) (hs : WireOnly s0 s) : WireOnly s0 (doMergeEntryFlush i s) := by
  unfold doMergeEntryFlush
  split
  · refine WireOnly.ite ?_ ?_
    · refine flushMerge_wire _ _ ?_
      assumption
    · assumption
  · assumption

theorem emptyMerge_wire (s : State) (hs : WireOnly s0 s) : WireOnly s0 (emptyMerge s) := by
  unfold emptyMerge
  refine WireOnly.foldl _ _ ?_ fun s x h => ?_
  · assumption
  · refine flushMerge_wire _ _ ?_
    assumption

theorem endEccTest_wire (s : State) (hs : WireOnly s0 s) : WireOnly s0 (endEccTest s) := by
  unfold endEccTest
  refine WireOnly.ite ?_ ?_
  · extract_lets s1 s2 s3
    have h2 : WireOnly s0 s2 := by
      refine State.putB_wire _ _ _ _ ?_
      assumption
    clear_value s2
    refine WireOnly.upd ?_ rfl
    assumption
  · assumption

theorem doEccTestEn_wire (v : Bool) (s : State) (hs : WireOnly s0 s) : WireOnly s0 (doEccTestEn v s) := by
  unfold doEccTestEn
  refine WireOnly.ite ?_ ?_
  · refine WireOnly.ite ?_ ?_
    · refine State.putB_wire _ _ _ _ ?_
      assumption
    · assumption
  · refine endEccTest_wire _ ?_
    assumption

theorem doDevSel_wire (v : ℕ) (s : State) (hs : WireOnly s0 s) : WireOnly s0 (doDevSel v s) := by
  unfold doDevSel
  extract_lets s1 s2 s3 s4 s5 s6 s7
  have h4 : WireOnly s0 s4 := by
    refine State.put_wire _ _ _ _ ?_
    refine State.put_wire _ _ _ _ ?_
    assumption
  clear_value s4
  have h5 : WireOnly s0 s5 := by
    refine WireOnly.ite ?_ ?_
    · refine State.raise_wire _ _ _ ?_
      assumption
    · assumption
  clear_value s5
  have h7 : WireOnly s0 s7 := by
    refine State.put_wire _ _ _ _ ?_
    assumption
  clear_value s7
  refine State.put_wire _ _ _ _ ?_
  refine State.put_wire _ _ _ _ ?_
  assumption

theorem countHits_wire (g : ℕ) (miss : List ℕ) (lo : ℕ) (n0 : ℕ) (s : State) (hs : WireOnly s0 s) : WireOnly s0 (countHits g miss lo n0 s) := by
  unfold countHits
  refine WireOnly.foldl _ _ ?_ fun s x h => ?_
  · assumption
  · extract_lets s1 s2
    have h2 : WireOnly s0 s2 := by
      refine WireOnly.ite ?_ ?_
      · refine State.bump_wire _ _ _ _ ?_
        assumption
      · refine State.bump_wire _ _ _ _ ?_
        assumption
    clear_value s2
    refine touch_wire _ _ _ _ ?_
    assumption

theorem readFolios_wire (g : ℕ) (ds : List (ℕ × ℕ × ℕ)) (s : State) (hs : WireOnly s0 s) : WireOnly s0 (readFolios g ds s) := by
  unfold readFolios
  refine WireOnly.foldl _ _ ?_ fun s x h => ?_
  · assumption
  · extract_lets s1
    clear_value s1
    split
    · assumption
    · extract_lets s2
      refine issueRead_wire _ _ _ _ _ _ _ ?_
      assumption

theorem readBackRepair_wire (r : Repair) (s : State) (hs : WireOnly s0 s) : WireOnly s0 (readBackRepair r s) := by
  unfold readBackRepair
  extract_lets s1
  refine issueRead_wire _ _ _ _ _ _ _ ?_
  assumption

theorem doCorrSel_wire (g : ℕ) (v : ℕ) (s : State) (hs : WireOnly s0 s) : WireOnly s0 (doCorrSel g v s) := by
  unfold doCorrSel
  extract_lets s1
  refine State.put_wire _ _ _ _ ?_
  refine State.put_wire _ _ _ _ ?_
  refine State.put_wire _ _ _ _ ?_
  assumption

theorem doEntSel_wire (g : ℕ) (v : ℕ) (s : State) (hs : WireOnly s0 s) : WireOnly s0 (doEntSel g v s) := by
  unfold doEntSel
  extract_lets s1 s2 s3 s4 s5 s6 s7 s8 s9 s10 s11 s12 s13 s14 s15 s16
  have h4 : WireOnly s0 s4 := by
    refine State.put_wire _ _ _ _ ?_
    refine State.put_wire _ _ _ _ ?_
    assumption
  clear_value s4
  have h5 : WireOnly s0 s5 := by
    refine State.putB_wire _ _ _ _ ?_
    refine State.putB_wire _ _ _ _ ?_
    assumption
  clear_value s5
  have h6 : WireOnly s0 s6 := by
    refine State.put_wire _ _ _ _ ?_
    refine State.put_wire _ _ _ _ ?_
    assumption
  clear_value s6
  have h7 : WireOnly s0 s7 := by
    refine State.put_wire _ _ _ _ ?_
    refine State.put_wire _ _ _ _ ?_
    assumption
  clear_value s7
  have h9 : WireOnly s0 s9 := by
    unfold s9
    unfold s8
    refine State.put_wire _ _ _ _ ?_
    refine State.put_wire _ _ _ _ ?_
    assumption
  clear_value s9
  have h10 : WireOnly s0 s10 := by
    unfold s10
    unfold s8
    refine State.put_wire _ _ _ _ ?_
    refine State.put_wire _ _ _ _ ?_
    assumption
  clear_value s10
  have h11 : WireOnly s0 s11 := by
    unfold s11
    unfold s8
    refine State.put_wire _ _ _ _ ?_
    refine State.put_wire _ _ _ _ ?_
    assumption
  clear_value s11
  have h12 : WireOnly s0 s12 := by
    unfold s12
    unfold s8
    refine State.put_wire _ _ _ _ ?_
    refine State.put_wire _ _ _ _ ?_
    assumption
  clear_value s12
  have h14 : WireOnly s0 s14 := by
    unfold s14
    unfold s8
    refine State.put_wire _ _ _ _ ?_
    refine State.put_wire _ _ _ _ ?_
    assumption
  clear_value s14
  have h15 : WireOnly s0 s15 := by
    refine State.put_wire _ _ _ _ ?_
    refine State.put_wire _ _ _ _ ?_
    assumption
  clear_value s15
  refine State.put_wire _ _ _ _ ?_
  assumption

theorem writeLabels_wire (g : ℕ) (d : ℕ) (i : Imposition) (target : Option (List ℕ)) (s : State) (hs : WireOnly s0 s) : WireOnly s0 (writeLabels g d i target s) := by
  unfold writeLabels
  extract_lets s1 s2 s3 s4
  have h4 : WireOnly s0 s4 := by
    refine State.emit_wire _ _ ?_
    assumption
  clear_value s4
  refine State.emit_wire _ _ ?_
  assumption

theorem sendCkpt_wire (g : ℕ) (c : Ckpt) (s : State) (hs : WireOnly s0 s) : WireOnly s0 (sendCkpt g c s) := by
  unfold sendCkpt
  refine WireOnly.foldl _ _ ?_ fun s x h => ?_
  · assumption
  · refine State.emit_wire _ _ ?_
    assumption

theorem releaseLines_wire (g : Nat) (w : CopyWin) (s : State) (hs : WireOnly s0 s) : ∀ t, releaseLines g w s = some t → WireOnly s0 t := by
  intro t ht
  unfold releaseLines at ht
  dsimp only at ht
  refine putBlocks_wire _ _ _ _ _ ?_ _ ht
  refine WireOnly.foldl _ _ (WireOnly.upd hs rfl) fun s x h => ?_
  exact settleLine_wire _ _ _ h

theorem reformGalleys_wire (g : ℕ) (w : CopyWin) (s : State) (hs : WireOnly s0 s) : WireOnly s0 (reformGalleys g w s) := by
  unfold reformGalleys
  refine WireOnly.foldl _ _ ?_ fun s x h => ?_
  · assumption
  · extract_lets s1
    refine WireOnly.ite ?_ ?_
    · split
      · extract_lets s2 s3
        have h3 : WireOnly s0 s3 := by
          refine WireOnly.foldl _ _ ?_ fun s x h => ?_
          · assumption
          · refine fillBlock_wire _ _ _ _ _ ?_
            assumption
        clear_value s3
        refine retainSheet_wire _ _ _ _ ?_
        assumption
      · assumption
    · assumption

theorem beginFormat_wire (p : ℕ) (g : ℕ) (ent : Option ℕ) (d : ℕ) (s : State) (hs : WireOnly s0 s) : WireOnly s0 (beginFormat p g ent d s) := by
  unfold beginFormat
  extract_lets s1 s2
  have h2 : WireOnly s0 s2 := by
    refine State.put_wire _ _ _ _ ?_
    refine State.updDrv_wire _ _ _ ?_
    assumption
  clear_value s2
  refine WireOnly.ite ?_ ?_
  · assumption
  · refine State.emit_wire _ _ ?_
    assumption

theorem doSataFormatItem_wire (p : ℕ) (s : State) (hs : WireOnly s0 s) : WireOnly s0 (doSataFormatItem p s) := by
  unfold doSataFormatItem
  extract_lets s1
  split
  · assumption
  · extract_lets s2 s3 s4 s5
    have h5 : WireOnly s0 s5 := by
      refine State.put_wire _ _ _ _ ?_
      refine State.updDrv_wire _ _ _ ?_
      assumption
    clear_value s5
    refine WireOnly.ite ?_ ?_
    · assumption
    · refine State.emit_wire _ _ ?_
      assumption

theorem doFormatPoll_wire (p : ℕ) (pct : ℕ) (s : State) (hs : WireOnly s0 s) : WireOnly s0 (doFormatPoll p pct s) := by
  unfold doFormatPoll
  extract_lets s1
  refine WireOnly.ite ?_ ?_
  · refine State.put_wire _ _ _ _ ?_
    assumption
  · assumption

theorem tryTest_wire (p : ℕ) (s : State) (hs : WireOnly s0 s) : WireOnly s0 (tryTest p s) := by
  unfold tryTest
  extract_lets s1 s2
  have h2 : WireOnly s0 s2 := by
    refine State.updDrv_wire _ _ _ ?_
    assumption
  clear_value s2
  refine WireOnly.ite ?_ ?_
  · refine State.emit_wire _ _ ?_
    refine State.bump_wire _ _ _ _ ?_
    refine State.bump_wire _ _ _ _ ?_
    assumption
  · assumption

theorem askTest_wire (p : ℕ) (s : State) (hs : WireOnly s0 s) : WireOnly s0 (askTest p s) := by
  unfold askTest
  refine WireOnly.ite ?_ ?_
  · assumption
  · refine tryTest_wire _ _ ?_
    refine State.updDrv_wire _ _ _ ?_
    assumption

theorem doDriveLinkUp_wire (p : ℕ) (r : LinkRate) (s : State) (hs : WireOnly s0 s) : WireOnly s0 (doDriveLinkUp p r s) := by
  unfold doDriveLinkUp
  extract_lets s1 s2 s3 s4 s5 s6 s7
  have h4 : WireOnly s0 s4 := by
    refine State.updDrv_wire _ _ _ ?_
    assumption
  clear_value s4
  have h5 : WireOnly s0 s5 := by
    refine WireOnly.ite ?_ ?_
    · refine State.settle_wire _ _ _ ?_
      assumption
    · assumption
  clear_value s5
  have h6 : WireOnly s0 s6 := by
    refine State.raise_wire _ _ _ ?_
    assumption
  clear_value s6
  have h7 : WireOnly s0 s7 := by
    refine State.updDrv_wire _ _ _ ?_
    assumption
  clear_value s7
  refine WireOnly.ite ?_ ?_
  · assumption
  · refine WireOnly.ite ?_ ?_
    · refine WireOnly.ite ?_ ?_
      · assumption
      · refine pump_wire _ _ ?_
        refine State.updDrv_wire _ _ _ ?_
        assumption
    · refine State.emit_wire _ _ ?_
      refine State.put_wire _ _ _ _ ?_
      assumption

theorem doLinkTest_wire (p : ℕ) (s : State) (hs : WireOnly s0 s) : WireOnly s0 (doLinkTest p s) := by
  unfold doLinkTest
  extract_lets s1
  have h1 : WireOnly s0 s1 := by
    refine State.ask_wire _ _ _ ?_
    assumption
  clear_value s1
  refine WireOnly.ite ?_ ?_
  · refine State.settle_wire _ _ _ ?_
    assumption
  · refine askTest_wire _ _ ?_
    assumption

theorem ladderStep_wire (p : ℕ) (step : ℕ) (tags : List ℕ) (s : State) (hs : WireOnly s0 s) : WireOnly s0 (ladderStep p step tags s) := by
  unfold ladderStep
  extract_lets s1
  have h1 : WireOnly s0 s1 := by
    refine State.updDrv_wire _ _ _ ?_
    assumption
  clear_value s1
  split
  · refine WireOnly.foldl _ _ ?_ fun s x h => ?_
    · assumption
    · refine State.emit_wire _ _ ?_
      assumption
  · refine State.emit_wire _ _ ?_
    assumption
  · refine State.emit_wire _ _ ?_
    refine State.bump_wire _ _ _ _ ?_
    refine State.updDrv_wire _ _ _ ?_
    assumption

theorem startLadder_wire (p : ℕ) (step : ℕ) (tags : List ℕ) (s : State) (hs : WireOnly s0 s) : WireOnly s0 (startLadder p step tags s) := by
  unfold startLadder
  refine ladderStep_wire _ _ _ _ ?_
  refine State.raise_wire _ _ _ ?_
  refine State.bump_wire _ _ _ _ ?_
  assumption

theorem doCommandTimeout_wire (p : ℕ) (tag : ℕ) (s : State) (hs : WireOnly s0 s) : WireOnly s0 (doCommandTimeout p tag s) := by
  unfold doCommandTimeout
  extract_lets s1
  split
  · assumption
  · refine WireOnly.ite ?_ ?_
    · assumption
    · extract_lets s2
      have h2 : WireOnly s0 s2 := by
        refine State.bump_wire _ _ _ _ ?_
        refine State.updDrv_wire _ _ _ ?_
        assumption
      clear_value s2
      split
      · refine startLadder_wire _ _ _ _ ?_
        assumption
      · extract_lets s3
        have h3 : WireOnly s0 s3 := by
          refine State.updDrv_wire _ _ _ ?_
          assumption
        clear_value s3
        refine WireOnly.ite ?_ ?_
        · refine State.emit_wire _ _ ?_
          assumption
        · assumption

theorem doMemberSel_wire (g : ℕ) (v : ℕ) (s : State) (hs : WireOnly s0 s) : WireOnly s0 (doMemberSel g v s) := by
  unfold doMemberSel
  extract_lets s1 s2
  refine State.put_wire _ _ _ _ ?_
  refine State.putB_wire _ _ _ _ ?_
  refine State.put_wire _ _ _ _ ?_
  refine State.put_wire _ _ _ _ ?_
  assumption

theorem doMapGo_wire (g : ℕ) (s : State) (hs : WireOnly s0 s) : WireOnly s0 (doMapGo g s) := by
  unfold doMapGo
  extract_lets s1 s2 s3
  have h1 : WireOnly s0 s1 := by
    refine State.pulse_wire _ _ _ ?_
    assumption
  clear_value s1
  split
  · refine WireOnly.ite ?_ ?_
    · extract_lets s4 s5
      refine State.put_wire _ _ _ _ ?_
      refine State.put_wire _ _ _ _ ?_
      refine State.put_wire _ _ _ _ ?_
      refine State.put_wire _ _ _ _ ?_
      assumption
    · refine State.put_wire _ _ _ _ ?_
      assumption
  · refine State.put_wire _ _ _ _ ?_
    assumption

theorem putHash_wire (F : FieldSpec) (h : List ℕ) (s : State) (hs : WireOnly s0 s) : WireOnly s0 (putHash F h s) := by
  unfold putHash
  refine WireOnly.foldl _ _ ?_ fun s x h => ?_
  · assumption
  · refine State.put_wire _ _ _ _ ?_
    assumption

theorem applyPort_wire (p : ℕ) (x : PortSec) (s : State) (hs : WireOnly s0 s) : WireOnly s0 (applyPort p x s) := by
  unfold applyPort
  extract_lets s1 s2 s3 s4 s5
  have h1 : WireOnly s0 s1 := by
    refine State.put_wire _ _ _ _ ?_
    refine State.put_wire _ _ _ _ ?_
    assumption
  clear_value s1
  have h2 : WireOnly s0 s2 := by
    refine State.put_wire _ _ _ _ ?_
    refine State.putB_wire _ _ _ _ ?_
    assumption
  clear_value s2
  have h3 : WireOnly s0 s3 := by
    refine State.put_wire _ _ _ _ ?_
    refine State.put_wire _ _ _ _ ?_
    assumption
  clear_value s3
  have h4 : WireOnly s0 s4 := by
    refine State.putB_wire _ _ _ _ ?_
    refine State.put_wire _ _ _ _ ?_
    assumption
  clear_value s4
  have h5 : WireOnly s0 s5 := by
    refine State.putB_wire _ _ _ _ ?_
    refine State.put_wire _ _ _ _ ?_
    assumption
  clear_value s5
  refine WireOnly.foldl _ _ ?_ fun s x h => ?_
  · assumption
  · extract_lets s6
    refine State.put_wire _ _ _ _ ?_
    refine State.put_wire _ _ _ _ ?_
    assumption

theorem applyGeometry_wire (g : ℕ) (i : Option Imposition) (s : State) (hs : WireOnly s0 s) : WireOnly s0 (applyGeometry g i s) := by
  unfold applyGeometry
  split
  · refine State.putB_wire _ _ _ _ ?_
    assumption
  · extract_lets s1 s2 s3 s4
    have h1 : WireOnly s0 s1 := by
      refine State.put_wire _ _ _ _ ?_
      refine State.put_wire _ _ _ _ ?_
      assumption
    clear_value s1
    have h2 : WireOnly s0 s2 := by
      refine State.put_wire _ _ _ _ ?_
      refine State.put_wire _ _ _ _ ?_
      assumption
    clear_value s2
    have h3 : WireOnly s0 s3 := by
      refine State.putB_wire _ _ _ _ ?_
      refine State.putB_wire _ _ _ _ ?_
      assumption
    clear_value s3
    have h4 : WireOnly s0 s4 := by
      refine State.put_wire _ _ _ _ ?_
      refine State.put_wire _ _ _ _ ?_
      assumption
    clear_value s4
    refine State.put_wire _ _ _ _ ?_
    refine State.put_wire _ _ _ _ ?_
    assumption

theorem applyPar_wire (g : ℕ) (region : Bool) (p : SigPar) (s : State) (hs : WireOnly s0 s) : WireOnly s0 (applyPar g region p s) := by
  unfold applyPar
  extract_lets s1 s2 s3 s4 s5 s6 s7
  have h2 : WireOnly s0 s2 := by
    refine WireOnly.ite ?_ ?_
    · refine State.put_wire _ _ _ _ ?_
      assumption
    · assumption
  clear_value s2
  have h3 : WireOnly s0 s3 := by
    refine State.put_wire _ _ _ _ ?_
    refine State.put_wire _ _ _ _ ?_
    assumption
  clear_value s3
  have h4 : WireOnly s0 s4 := by
    refine State.put_wire _ _ _ _ ?_
    refine State.putB_wire _ _ _ _ ?_
    assumption
  clear_value s4
  have h5 : WireOnly s0 s5 := by
    refine State.put_wire _ _ _ _ ?_
    refine State.put_wire _ _ _ _ ?_
    assumption
  clear_value s5
  have h6 : WireOnly s0 s6 := by
    refine State.put_wire _ _ _ _ ?_
    refine State.put_wire _ _ _ _ ?_
    assumption
  clear_value s6
  have h7 : WireOnly s0 s7 := by
    refine State.put_wire _ _ _ _ ?_
    refine State.put_wire _ _ _ _ ?_
    assumption
  clear_value s7
  refine State.put_wire _ _ _ _ ?_
  refine State.put_wire _ _ _ _ ?_
  assumption

theorem applyNs_wire (n0 : ℕ) (x : Option NsSec) (s : State) (hs : WireOnly s0 s) : WireOnly s0 (applyNs n0 x s) := by
  unfold applyNs
  extract_lets s1 s2 s3
  have h2 : WireOnly s0 s2 := by
    refine State.putB_wire _ _ _ _ ?_
    refine State.putB_wire _ _ _ _ ?_
    assumption
  clear_value s2
  have h3 : WireOnly s0 s3 := by
    refine State.putB_wire _ _ _ _ ?_
    refine State.putB_wire _ _ _ _ ?_
    assumption
  clear_value s3
  refine WireOnly.ite ?_ ?_
  · refine State.put_wire _ _ _ _ ?_
    refine State.put_wire _ _ _ _ ?_
    assumption
  · refine WireOnly.ite ?_ ?_
    · refine State.put_wire _ _ _ _ ?_
      refine State.put_wire _ _ _ _ ?_
      assumption
    · assumption

theorem applyNow_wire (m : Img) (s : State) (hs : WireOnly s0 s) : WireOnly s0 (applyNow m s) := by
  unfold applyNow
  extract_lets s1 s2 s3 s4 s5 s6 s7 s8 s9 s10 s11 s12 s13
  have h1 : WireOnly s0 s1 := by
    refine State.put_wire _ _ _ _ ?_
    refine State.put_wire _ _ _ _ ?_
    assumption
  clear_value s1
  have h2 : WireOnly s0 s2 := by
    refine State.put_wire _ _ _ _ ?_
    refine State.put_wire _ _ _ _ ?_
    assumption
  clear_value s2
  have h3 : WireOnly s0 s3 := by
    refine State.putB_wire _ _ _ _ ?_
    refine State.putB_wire _ _ _ _ ?_
    assumption
  clear_value s3
  have h4 : WireOnly s0 s4 := by
    refine State.putB_wire _ _ _ _ ?_
    assumption
  clear_value s4
  have h6 : WireOnly s0 s6 := by
    refine State.put_wire _ _ _ _ ?_
    refine State.put_wire _ _ _ _ ?_
    assumption
  clear_value s6
  have h7 : WireOnly s0 s7 := by
    refine State.put_wire _ _ _ _ ?_
    refine State.put_wire _ _ _ _ ?_
    refine State.put_wire _ _ _ _ ?_
    assumption
  clear_value s7
  have h8 : WireOnly s0 s8 := by
    refine WireOnly.foldl _ _ ?_ fun s x h => ?_
    · assumption
    · refine State.put_wire _ _ _ _ ?_
      assumption
  clear_value s8
  have h9 : WireOnly s0 s9 := by
    refine State.putB_wire _ _ _ _ ?_
    refine State.putB_wire _ _ _ _ ?_
    assumption
  clear_value s9
  have h10 : WireOnly s0 s10 := by
    refine State.putB_wire _ _ _ _ ?_
    assumption
  clear_value s10
  have h11 : WireOnly s0 s11 := by
    refine WireOnly.foldl _ _ ?_ fun s x h => ?_
    · assumption
    · refine State.put_wire _ _ _ _ ?_
      assumption
  clear_value s11
  have h12 : WireOnly s0 s12 := by
    refine WireOnly.foldl _ _ ?_ fun s x h => ?_
    · assumption
    · refine applyPort_wire _ _ _ ?_
      assumption
  clear_value s12
  have h13 : WireOnly s0 s13 := by
    refine WireOnly.foldl _ _ ?_ fun s x h => ?_
    · assumption
    · refine applyGeometry_wire _ _ _ ?_
      assumption
  clear_value s13
  refine WireOnly.foldl _ _ ?_ fun s x h => ?_
  · assumption
  · refine applyNs_wire _ _ _ ?_
    assumption

theorem errDrop_wire (s : State) (hs : WireOnly s0 s) : WireOnly s0 (errDrop s) := by
  unfold errDrop
  refine State.raise_wire _ _ _ ?_
  refine State.bump_wire _ _ _ _ ?_
  assumption

theorem eccDecode_wire (a : ℕ) (s : State) (hs : WireOnly s0 s) : WireOnly s0 (eccDecode a s).2 := by
  unfold eccDecode
  dsimp only
  split
  · split
    · dsimp only
      assumption
    · split
      · dsimp only
        refine State.bump_wire _ _ _ _ ?_
        refine State.draw_wire _ ?_
        assumption
      · dsimp only
        refine State.put_wire _ _ _ _ ?_
        refine State.put_wire _ _ _ _ ?_
        refine State.bump_wire _ _ _ _ ?_
        assumption
  · dsimp only
    refine State.bump_wire _ _ _ _ ?_
    refine State.draw_wire _ ?_
    assumption

theorem eccReadN_wire (m a : Nat) (s : State) (hs : WireOnly s0 s) : WireOnly s0 (eccReadN m a s).2 := by
  induction m generalizing a s with
  | zero => exact hs
  | succ m ih => exact ih _ _ (eccDecode_wire _ _ hs)

theorem eccRead_wire (o : ℕ) (n0 : ℕ) (s : State) (hs : WireOnly s0 s) : WireOnly s0 (eccRead o n0 s).2 := by
  unfold eccRead
  dsimp only
  split
  · dsimp only
    refine eccReadN_wire _ _ _ ?_
    assumption
  · split
    · dsimp only
      assumption
    · dsimp only
      assumption

theorem eccStore_wire (m o : Nat) (bs : List Nat) (s : State) (hs : WireOnly s0 s) : WireOnly s0 (eccStore m o bs s) := by
  induction m generalizing o bs s with
  | zero => exact hs
  | succ m ih =>
    unfold eccStore
    refine WireOnly.ite hs (WireOnly.ite (ih _ _ _ (putWin_wire _ _ _ _ hs)) (ih _ _ _ ?_))
    exact WireOnly.ite (putWin_wire _ _ _ _ hs) (WireOnly.ite (wholeWrite_wire _ _ _ hs) (narrowWrite_wire _ _ _ hs))

theorem dmaRead_wire (a : ℕ) (n0 : ℕ) (s : State) (hs : WireOnly s0 s) : WireOnly s0 (dmaRead a n0 s).2 := by
  unfold dmaRead
  dsimp only
  split
  · refine eccRead_wire _ _ _ ?_
    assumption
  · split
    · dsimp only
      assumption
    · split
      · dsimp only
        assumption
      · dsimp only
        assumption

theorem doneBit_wire (c : Nat) (s : State) (hs : WireOnly s0 s) : WireOnly s0 (doneBit c s) := hs.trans rfl

theorem showDesc_wire (c : ℕ) (a : ℕ) (s : State) (hs : WireOnly s0 s) : WireOnly s0 (showDesc c a s) := by
  unfold showDesc
  refine State.put_wire _ _ _ _ ?_
  refine State.put_wire _ _ _ _ ?_
  assumption

theorem doOztSel_wire (v : ℕ) (s : State) (hs : WireOnly s0 s) : WireOnly s0 (doOztSel v s) := by
  unfold doOztSel
  extract_lets s1 s2 s3 s4 s5 s6 s7 s8 s9 s10 s11
  have h2 : WireOnly s0 s2 := by
    refine State.put_wire _ _ _ _ ?_
    assumption
  clear_value s2
  have h7 : WireOnly s0 s7 := by
    refine State.putB_wire _ _ _ _ ?_
    refine State.putB_wire _ _ _ _ ?_
    refine State.putB_wire _ _ _ _ ?_
    assumption
  clear_value s7
  have h8 : WireOnly s0 s8 := by
    refine State.putB_wire _ _ _ _ ?_
    refine State.putB_wire _ _ _ _ ?_
    assumption
  clear_value s8
  have h9 : WireOnly s0 s9 := by
    refine State.put_wire _ _ _ _ ?_
    refine State.put_wire _ _ _ _ ?_
    assumption
  clear_value s9
  have h10 : WireOnly s0 s10 := by
    refine State.put_wire _ _ _ _ ?_
    refine State.put_wire _ _ _ _ ?_
    assumption
  clear_value s10
  refine State.put_wire _ _ _ _ ?_
  refine State.put_wire _ _ _ _ ?_
  refine State.put_wire _ _ _ _ ?_
  assumption

theorem showCast_wire (s : State) (hs : WireOnly s0 s) : WireOnly s0 (showCast s) := by
  unfold showCast
  split
  · extract_lets s1 s2
    have h1 : WireOnly s0 s1 := by
      refine State.put_wire _ _ _ _ ?_
      refine State.put_wire _ _ _ _ ?_
      assumption
    clear_value s1
    have h2 : WireOnly s0 s2 := by
      refine State.put_wire _ _ _ _ ?_
      assumption
    clear_value s2
    refine State.put_wire _ _ _ _ ?_
    refine State.put_wire _ _ _ _ ?_
    assumption
  · assumption

theorem showKeyRec_wire (s : State) (hs : WireOnly s0 s) : WireOnly s0 (showKeyRec s) := by
  unfold showKeyRec
  extract_lets s1
  refine State.put_wire _ _ _ _ ?_
  refine State.put_wire _ _ _ _ ?_
  refine State.putB_wire _ _ _ _ ?_
  assumption

theorem State.setBit_wire (s : State) (F : FieldSpec) (g : ℕ) (v : Bool) (hs : WireOnly s0 s) : WireOnly s0 (State.setBit s F g v) := by
  unfold State.setBit
  refine WireOnly.ite ?_ ?_
  · refine WireOnly.ite ?_ ?_
    · assumption
    · refine State.put_wire _ _ _ _ ?_
      assumption
  · refine WireOnly.ite ?_ ?_
    · refine State.put_wire _ _ _ _ ?_
      assumption
    · assumption

theorem markKey_wire (g : ℕ) (s : State) (hs : WireOnly s0 s) : WireOnly s0 (markKey g s) := by
  unfold markKey
  refine State.setBit_wire _ _ _ _ ?_
  assumption

theorem zeroWords_wire (F : FieldSpec) (s : State) (hs : WireOnly s0 s) : WireOnly s0 (zeroWords F s) := by
  unfold zeroWords
  refine WireOnly.foldl _ _ ?_ fun s x h => ?_
  · assumption
  · refine State.put_wire _ _ _ _ ?_
    assumption

theorem doRngHealthFail_wire (s : State) (hs : WireOnly s0 s) : WireOnly s0 (doRngHealthFail s) := by
  unfold doRngHealthFail
  refine State.putB_wire _ _ _ _ ?_
  assumption

theorem doSnapGo_wire (s : State) (hs : WireOnly s0 s) : WireOnly s0 (doSnapGo s) := by
  unfold doSnapGo
  extract_lets s1 s2 s3 s4 s5 s6 s7
  have h1 : WireOnly s0 s1 := by
    refine State.pulse_wire _ _ _ ?_
    assumption
  clear_value s1
  have h5 : WireOnly s0 s5 := by
    refine State.put_wire _ _ _ _ ?_
    refine State.put_wire _ _ _ _ ?_
    assumption
  clear_value s5
  have h6 : WireOnly s0 s6 := by
    refine State.put_wire _ _ _ _ ?_
    refine State.put_wire _ _ _ _ ?_
    assumption
  clear_value s6
  have h7 : WireOnly s0 s7 := by
    refine State.put_wire _ _ _ _ ?_
    refine State.put_wire _ _ _ _ ?_
    assumption
  clear_value s7
  refine State.put_wire _ _ _ _ ?_
  refine State.put_wire _ _ _ _ ?_
  refine State.put_wire _ _ _ _ ?_
  assumption

theorem winAdvance_wire (s : State) (hs : WireOnly s0 s) : WireOnly s0 (winAdvance s) := by
  unfold winAdvance
  refine State.put_wire _ _ _ _ ?_
  assumption

theorem ifBit_wire (v : ℕ) (j : ℕ) (f : State → State) (s : State) (hk : ∀  s, WireOnly s0 s → WireOnly s0 (f  s)) (hs1 : WireOnly s0 s) : WireOnly s0 (ifBit v j f s) := by
  unfold ifBit
  refine WireOnly.ite ?_ ?_
  · refine hk _ ?_
    assumption
  · assumption


theorem finishSnap_wire (s : State) (hs : WireOnly s0 s) : WireOnly s0 (finishSnap s) := by
  unfold finishSnap
  refine WireOnly.ite ?_ ?_
  · refine doSnapGo_wire _ ?_
    assumption
  · assumption

theorem onBus_wire (f : State → State) (s : State) (hk : ∀  s, WireOnly s0 s → WireOnly s0 (f  s)) (hs1 : WireOnly s0 s) : WireOnly s0 (onBus f s) := by
  unfold onBus
  refine WireOnly.ite ?_ ?_
  · refine hk _ ?_
    assumption
  · assumption

theorem onAddr_wire (f : State → State) (s : State) (hk : ∀  s, WireOnly s0 s → WireOnly s0 (f  s)) (hs1 : WireOnly s0 s) : WireOnly s0 (onAddr f s) := by
  unfold onAddr
  refine WireOnly.ite ?_ ?_
  · refine hk _ ?_
    assumption
  · assumption

theorem doEntdaa_wire (a : ℕ) (s : State) (hs : WireOnly s0 s) : WireOnly s0 (doEntdaa a s) := by
  unfold doEntdaa
  refine WireOnly.ite ?_ ?_
  · assumption
  · refine State.put_wire _ _ _ _ ?_
    refine State.emit_wire _ _ ?_
    assumption

theorem doSetnewda_wire (a : ℕ) (s : State) (hs : WireOnly s0 s) : WireOnly s0 (doSetnewda a s) := by
  unfold doSetnewda
  refine State.put_wire _ _ _ _ ?_
  assumption

theorem doRstdaa_wire (s : State) (hs : WireOnly s0 s) : WireOnly s0 (doRstdaa s) := by
  unfold doRstdaa
  refine State.put_wire _ _ _ _ ?_
  assumption

theorem doGetpid_wire (s : State) (hs : WireOnly s0 s) : WireOnly s0 (doGetpid s) := by
  unfold doGetpid
  refine State.emit_wire _ _ ?_
  assumption

theorem doGetbcr_wire (s : State) (hs : WireOnly s0 s) : WireOnly s0 (doGetbcr s) := by
  unfold doGetbcr
  refine State.emit_wire _ _ ?_
  assumption

theorem doGetdcr_wire (s : State) (hs : WireOnly s0 s) : WireOnly s0 (doGetdcr s) := by
  unfold doGetdcr
  refine State.emit_wire _ _ ?_
  assumption

theorem doEnec_wire (bits : ℕ) (s : State) (hs : WireOnly s0 s) : WireOnly s0 (doEnec bits s) := by
  unfold doEnec
  refine WireOnly.ite ?_ ?_
  · refine State.putB_wire _ _ _ _ ?_
    assumption
  · assumption

theorem doDisec_wire (bits : ℕ) (s : State) (hs : WireOnly s0 s) : WireOnly s0 (doDisec bits s) := by
  unfold doDisec
  refine WireOnly.ite ?_ ?_
  · refine State.putB_wire _ _ _ _ ?_
    assumption
  · assumption

theorem doSetmwl_wire (v : ℕ) (s : State) (hs : WireOnly s0 s) : WireOnly s0 (doSetmwl v s) := by
  unfold doSetmwl
  refine State.put_wire _ _ _ _ ?_
  assumption

theorem doGetmwl_wire (s : State) (hs : WireOnly s0 s) : WireOnly s0 (doGetmwl s) := by
  unfold doGetmwl
  refine State.emit_wire _ _ ?_
  assumption

theorem doSetmrl_wire (v : ℕ) (s : State) (hs : WireOnly s0 s) : WireOnly s0 (doSetmrl v s) := by
  unfold doSetmrl
  refine State.put_wire _ _ _ _ ?_
  assumption

theorem doGetmrl_wire (s : State) (hs : WireOnly s0 s) : WireOnly s0 (doGetmrl s) := by
  unfold doGetmrl
  refine State.emit_wire _ _ ?_
  assumption

theorem doGetmxds_wire (s : State) (hs : WireOnly s0 s) : WireOnly s0 (doGetmxds s) := by
  unfold doGetmxds
  refine State.emit_wire _ _ ?_
  assumption

theorem doCccUnsupported_wire (direct : Bool) (s : State) (hs : WireOnly s0 s) : WireOnly s0 (doCccUnsupported direct s) := by
  unfold doCccUnsupported
  refine WireOnly.ite ?_ ?_
  · refine State.emit_wire _ _ ?_
    assumption
  · assumption

theorem queueWords_wire (a : ℕ) (ws : List ℕ) (s : State) (hs : WireOnly s0 s) : WireOnly s0 (queueWords a ws s) := by
  unfold queueWords
  refine WireOnly.upd ?_ rfl
  assumption

theorem onHdr_wire (f : State → State) (s : State) (hk : ∀  s, WireOnly s0 s → WireOnly s0 (f  s)) (hs1 : WireOnly s0 s) : WireOnly s0 (onHdr f s) := by
  unfold onHdr
  refine WireOnly.ite ?_ ?_
  · refine hk _ ?_
    assumption
  · assumption

theorem stepProof_wire (g : ℕ) (s : State) (hs : WireOnly s0 s) : WireOnly s0 (stepProof g s) := by
  unfold stepProof
  extract_lets s1
  refine WireOnly.ite ?_ ?_
  · refine State.raise_wire _ _ _ ?_
    assumption
  · assumption

theorem stepScrub_wire (c : ℕ) (s : State) (hs : WireOnly s0 s) : WireOnly s0 (stepScrub c s) := by
  unfold stepScrub
  refine WireOnly.ite ?_ ?_
  · assumption
  · extract_lets s1 s2
    have h2 : WireOnly s0 s2 := by
      refine State.put_wire _ _ _ _ ?_
      assumption
    clear_value s2
    refine WireOnly.ite ?_ ?_
    · refine State.raise_wire _ _ _ ?_
      assumption
    · assumption

theorem whenFree_wire (f : State → State) (s : State) (hk : ∀  s, WireOnly s0 s → WireOnly s0 (f  s)) (hs1 : WireOnly s0 s) : WireOnly s0 (whenFree f s) := by
  unfold whenFree
  refine WireOnly.ite ?_ ?_
  · refine hk _ ?_
    assumption
  · assumption

end Sys2Proof.Machine
end

