-- ==== Sys2Proof/WellFormed.lean ====
section
/-!
DEFINITION. Which commands are well formed: every operand lies within the width that the spec gives what it stands for.
The meanings are total; a command that is not well formed names something that cannot reach the module.
-/

namespace Sys2Proof

/-- A connection index (R45). -/
def wfConn (c : Nat) : Bool := c < 4096

/-- A command identifier. -/
def wfCid (c : Nat) : Bool := c < 65536

/-- A block of 4 096 bytes. -/
def wfBlk (b : Blk) : Bool := b < 2 ^ 32768

/-- Check fields and tags of one block (R59). -/
def wfTags (guard app ref : Nat) : Bool := guard < 65536 && app < 65536 && ref < 2 ^ 32

def RxBlk.wf (b : RxBlk) : Bool := wfBlk b.data && wfTags b.guard b.app b.ref
def RdBlk.wf (b : RdBlk) : Bool := wfBlk b.raw && wfTags b.guard b.app b.ref
def CmdHdr.wf (h : CmdHdr) : Bool := wfConn h.conn && wfCid h.cid && h.nsid < 2 ^ 32
def IoCmd.wf (x : IoCmd) : Bool := x.hdr.wf && x.slba < 2 ^ 64 && 1 ≤ x.nlb && x.nlb ≤ 65536 && x.blocks.all RxBlk.wf

/-- The reads of a sheet: a position is below 32, and a block offset below the largest folio (Table 4.1). -/
def RdOffset.wf (o : RdOffset) : Bool := o.offset < 256 && o.got.all fun p => p.pos < 32 && p.blk.wf

/-- A register address is a whole word's (R6). -/
def wfAddr (a : RegAddr) : Bool := a.toNat % 4 == 0

/-- A signed reading in a 16-bit register. -/
def wfI16 (v : Int) : Bool := -32768 ≤ v && v ≤ 32767

/-- Well-formed commands. -/
def Instr.wf : Instr → Bool
  | .impressionBoundary x => x.sensors.length == 8 && x.sensors.all wfI16
  | .registerWrite a _ => wfAddr a
  | .minShareWrite a _ => wfAddr a
  | .frameReceived _ f => 0 < f.len
  | .pfcFrameReceived _ prio q => prio < 8 && q < 65536
  | .retransmissionTimeout c => wfConn c
  | .icreqTimeout c => wfConn c
  | .icreq x => wfConn x.conn
  | .h2ctermreq c fes => wfConn c && fes < 65536
  | .h2cdata x => wfConn x.conn && wfCid x.cid && x.blocks.all RxBlk.wf
  | .connect x => wfConn x.conn && wfCid x.cid
  | .propertySet h _ _ => h.wf
  | .propertyGet h _ => h.wf
  | .authenticationSend h _ => h.wf
  | .authenticationReceive h => h.wf
  | .authFailClose c => wfConn c
  | .getLogPage h lid _ => h.wf && lid < 256
  | .identify h cns csi => h.wf && cns < 256 && csi < 256
  | .setFeatures h fid _ v => h.wf && fid < 256 && v < 2 ^ 32
  | .getFeatures h fid => h.wf && fid < 256
  | .asynchronousEventRequest h => h.wf
  | .keepAlive h => h.wf
  | .securityProtocolList h sp => h.wf && sp < 256
  | .nonceRequest h => h.wf
  | .resetPermit h x => h.wf && x.nonce < 2 ^ 128
  | .damageStatementRequest h _ c => h.wf && c < 2 ^ 128
  | .damageStatementReceive h => h.wf
  | .flush h => h.wf
  | .flushComplete c i => wfConn c && wfCid i
  | .write x => x.wf
  | .read x => x.wf
  | .reportZones x => x.hdr.wf
  | .zoneOpen x => x.hdr.wf
  | .zoneClose x => x.hdr.wf
  | .zoneFinish x => x.hdr.wf
  | .zoneReset x => x.hdr.wf
  | .zoneOffline x => x.hdr.wf
  | .zoneAppend x => x.wf
  | .invalidCommandOpcode h _ op => h.wf && op < 256
  | .admission _ i => wfCid i
  | .readyToTransferRelease _ i => wfCid i
  | .writeCompletionRelease _ i => wfCid i
  | .appendAssign _ i => wfCid i
  | .updateReadsComplete _ r => r.all RdOffset.wf
  | .folioWriteComplete _ p => p < 32
  | .resyncItem _ r => r.all RdOffset.wf
  | .sealDigest _ _ bs => bs.all fun b => b.2.all wfBlk
  | .proofingItem _ r => r.all RdOffset.wf
  | .criticalItem _ r => r.all RdOffset.wf
  | .normalItem _ r => r.all RdOffset.wf
  | .copybackItem _ e r => e < 8 && r.all RdOffset.wf
  | .copybackWriteComplete _ e => e < 8
  | .catchupItem _ m _ r => m < 128 && r.all RdOffset.wf
  | .readReconstruct _ o => o.wf
  | .repairWrite _ p bs => p < 32 && bs.all fun b => b.1 < 256 && b.2.wf
  | .repairWriteComplete _ p => p < 32
  | .selfTestReadback _ p _ => p < 32
  | .windowReadComplete _ rs => rs.all fun r => r.2.all RdOffset.wf
  | .evbDrop i => i < 64
  | .mergeEntryFlush i => i < 64
  | .patrolScrub _ r _ w => w < 2 ^ 32 && (match r with | .corrected ds => ds.all (· < 20) | _ => true)
  | .caseSelfTest _ r => r.all fun d => d.dev < 20
  | .gaugeSample x => x.cell0Mv < 65536 && x.cell1Mv < 65536 && wfI16 x.tempDc
  | .inputLow _ mv => mv < 65536
  | .inputHealthy _ mv => mv < 65536
  | .rateWindowEnd c => c < 65536
  | .entdaa a => a < 128
  | .setdasa a => a < 128
  | .setnewda a => a < 128
  | .enthdrUnsupported n => n < 8
  | .driveCommandError _ _ _ bs => bs.all RdBlk.wf
  | .driveReadComplete _ _ bs => bs.all RdBlk.wf
  | .tcpConnectionClosed c _ => wfConn c
  | _ => true

end Sys2Proof
end

