-- ==== Sys2Proof/Tests/Slice0.lean ====
section
/-!
SUPPORT. Tests of the model, and for each statement with premises a state and operands that meet them together.
-/

set_option linter.unusedVariables false

namespace Sys2Proof.Machine

theorem live_of {s : State} (h : s.core.powered = true ∧ Canon s.rf.regs ∧ NMap.wf s.rf.latches ∧ Canon s.stage ∧ Canon s.hostBuf ∧ Canon s.hif.win4 ∧ Canon s.hif.win5) : Live s :=
  ⟨h.1, h.2.1, h.2.2.1, h.2.2.2.1, h.2.2.2.2.1, h.2.2.2.2.2.1, h.2.2.2.2.2.2⟩
def regsOf (l : List (FieldSpec × Nat × Nat)) : RegFile := { regs := l.foldl (fun r x => rput x.1 x.2.1 x.2.2 r) [] }

/-- A small image: no host, one signature's worth of nothing. -/
def imgW : Img := { len := 0, counter := 0, serial := 0, keyXy := [], ways := 16, casts := 4, agePeriod := 1, margin := 0, ride := 0, dmaCh := 16, hostCh := 1, shares := [], policy := 0, pairMap := none, fleet := none, subNqn := [110], nvmePort := 4420, feBits := 0, pfcPrio := 0, anaPref := [], ports := [], hosts := [⟨[104], false, 1, 1⟩], imps := [], pars := [], nss := [], ucode := 0, ucodeVer := 0, hash := [] }
def connW : Conn := { port := 2, srcAddr := 77, srcPort := 50000, dstAddr := 9, dstPort := 4420, ip6 := false, wscale := true, sack := true, tstamp := true, openedAt := 0, pair := 12 }
def adminW : Conn := { connW with icDone := true, connected := true, admin := true, cntlid := 1 }
def ctrlW : Ctrl := { host := 0, admin := 3, port := 2 }
def stW : State := { conns := [(3, adminW)], ctrls := [(1, ctrlW)], img := { eff := some imgW } }

/-- A signature of three drives, one data position; sheets of 32 blocks. -/
def impW : Imposition := { sig := 0, n := 3, k := 1, s := 0, folio := 0, packed := false, cSheet := 1, cSpare := 0, cStride := 1, meta_ := 0, identity := 5, members := [⟨0, 0⟩, ⟨1, 0⟩, ⟨2, 0⟩], table := [[(0, 0), (1, 0), (2, 0)]], hash := [] }
/-- Namespace 1 conventional (8 sheets), namespace 2 zoned with evidence (4 zones of a sheet). -/
def imgZ : Img := { imgW with imps := [(0, impW)], nss := [(0, ⟨false, false, 0, 0, 0, 8, 0⟩), (1, ⟨true, true, 0, 1, 8, 4, 0⟩)], hosts := [⟨[104], false, 1, 3⟩] }
def ioW : Conn := { connW with icDone := true, connected := true, cntlid := 1, qid := 1 }
/-- An admin queue (connection 3) and an I/O queue (connection 4) of one controller, and a signature reached through port 2. -/
def stZ : State := { stW with conns := [(3, adminW), (4, ioW)], img := { eff := some imgZ }, fe := [(2, { ana := [(0, 1)] })] }

def lineW (n : Nat) : Line := { kind := 0, sig := 0, num := n, primary := 0, duplex := some 131072 }
def cmdW : Cmd := { op := .write, ns := 0, slba := 0, nlb := 8, pi := some ⟨true, false, false, false, 0, 0, 0⟩, ord := 0, at_ := 0 }
def appendW : Cmd := { cmdW with op := .append, ns := 1, nlb := 1, ready := true, blocks := [(0, 7)], zones := [2 ^ 32] }
/-- An append whose data is whole, to an open zone with no evidence protection. -/
def apW : State := { stZ with img := { eff := some { imgZ with nss := [(1, ⟨true, false, 0, 1, 8, 4, 0⟩)] } }, rf := regsOf [(Reg.Fount.CEILING, 0, 8)], cs := { tags := [(2, lineW 2)] }, zn := { zones := [(2 ^ 32, { st := .explicit, reserved := 1 })] }, cmds := [(4 * 65536 + 9, appendW)] }

def drvW : Drv := { qdepth := 4, inService := true, identified := true }
/-- The drives of the signature in service. -/
def stD : State := { stZ with drvs := [(0, drvW), (1, drvW), (2, drvW)], core := { mode := .pressRun } }
/-- Line 0 of the signature holds block 0. -/
def heldW : Line := { lineW 0 with cells := [(0, { data := 7 })] }
def readW : Cmd := { op := .read, ns := 0, slba := 0, nlb := 1, pi := some ⟨true, false, false, false, 0, 0, 0⟩, ord := 0, at_ := 0, begun := true, need := [0] }
def fgW : DrvCmd := { write := false, use := .fg, sig := 0, sheet := 0, pos := 0, b0 := 0, n := 1, lba := 0, at_ := 0 }

end Sys2Proof.Machine

open Sys2Proof Sys2Proof.Machine

/-! ### Each check of well-formedness refuses an ill-formed command -/

theorem test_wf_boundary_sensors : Instr.wf (.impressionBoundary ⟨⟨false, false, false, false⟩, [250], [], []⟩) = false := rfl
theorem test_wf_boundary_sensor_range : Instr.wf (.impressionBoundary ⟨⟨false, false, false, false⟩, [0, 0, 0, 0, 0, 0, 0, 32768], [], []⟩) = false := rfl
theorem test_wf_register_write : Instr.wf (.registerWrite 0x010006 1) = false := rfl
theorem test_wf_min_share_write : Instr.wf (.minShareWrite 0x110002 1) = false := rfl
theorem test_wf_frame_received : Instr.wf (.frameReceived 0 ⟨0, true, false, none, .other, .other⟩) = false := rfl
theorem test_wf_pfc_priority : Instr.wf (.pfcFrameReceived 0 8 1) = false := rfl
theorem test_wf_pfc_quanta : Instr.wf (.pfcFrameReceived 0 0 65536) = false := rfl
theorem test_wf_retransmission : Instr.wf (.retransmissionTimeout 4096) = false := rfl
theorem test_wf_icreq_timeout : Instr.wf (.icreqTimeout 4096) = false := rfl
theorem test_wf_icreq : Instr.wf (.icreq ⟨4096, 0, 0, false, false, 0, true⟩) = false := rfl
theorem test_wf_h2ctermreq_conn : Instr.wf (.h2ctermreq 4096 1) = false := rfl
theorem test_wf_h2ctermreq_fes : Instr.wf (.h2ctermreq 0 65536) = false := rfl
theorem test_wf_h2cdata_conn : Instr.wf (.h2cdata ⟨4096, 0, 0, 0, true, true, true, true, []⟩) = false := rfl
theorem test_wf_h2cdata_cid : Instr.wf (.h2cdata ⟨0, 65536, 0, 0, true, true, true, true, []⟩) = false := rfl
theorem test_wf_h2cdata_guard : Instr.wf (.h2cdata ⟨0, 0, 0, 0, true, true, true, true, [⟨0, 65536, 0, 0⟩]⟩) = false := by decide +kernel
theorem test_wf_connect : Instr.wf (.connect ⟨0, 65536, 0, [], [], 0, 0, 0, 0⟩) = false := rfl
theorem test_wf_property_set : Instr.wf (.propertySet ⟨4096, 0, 1, 0, 0⟩ .cc ⟨true, 0, 0, 0, 0, 0, 0⟩) = false := rfl
theorem test_wf_property_get : Instr.wf (.propertyGet ⟨4096, 0, 1, 0, 0⟩ .cap) = false := rfl
theorem test_wf_authentication_receive : Instr.wf (.authenticationReceive ⟨4096, 0, 1, 0, 0⟩) = false := rfl
theorem test_wf_auth_fail_close : Instr.wf (.authFailClose 4096) = false := rfl
theorem test_wf_get_log_page : Instr.wf (.getLogPage ⟨0, 0, 1, 0, 0⟩ 256 0) = false := rfl
theorem test_wf_identify_cns : Instr.wf (.identify ⟨0, 0, 1, 0, 0⟩ 256 0) = false := rfl
theorem test_wf_identify_csi : Instr.wf (.identify ⟨0, 0, 1, 0, 0⟩ 0 256) = false := rfl
theorem test_wf_set_features_fid : Instr.wf (.setFeatures ⟨0, 0, 1, 0, 0⟩ 256 false 0) = false := rfl
theorem test_wf_set_features_value : Instr.wf (.setFeatures ⟨0, 0, 1, 0, 0⟩ 0 false 4294967296) = false := rfl
theorem test_wf_get_features : Instr.wf (.getFeatures ⟨0, 0, 1, 0, 0⟩ 256) = false := rfl
theorem test_wf_event_request : Instr.wf (.asynchronousEventRequest ⟨4096, 0, 1, 0, 0⟩) = false := rfl
theorem test_wf_keep_alive : Instr.wf (.keepAlive ⟨4096, 0, 1, 0, 0⟩) = false := rfl
theorem test_wf_security_list : Instr.wf (.securityProtocolList ⟨0, 0, 1, 0, 0⟩ 256) = false := rfl
theorem test_wf_nonce_request : Instr.wf (.nonceRequest ⟨4096, 0, 1, 0, 0⟩) = false := rfl
theorem test_wf_reset_permit : Instr.wf (.resetPermit ⟨0, 0, 1, 0, 0⟩ ⟨0, true, true, 1, 0, 0, 2 ^ 128, 0, 0, 0⟩) = false := rfl
theorem test_wf_damage_request : Instr.wf (.damageStatementRequest ⟨0, 0, 1, 0, 0⟩ 0 (2 ^ 128)) = false := rfl
theorem test_wf_damage_receive : Instr.wf (.damageStatementReceive ⟨4096, 0, 1, 0, 0⟩) = false := rfl
theorem test_wf_flush : Instr.wf (.flush ⟨4096, 0, 1, 0, 0⟩) = false := rfl
theorem test_wf_flush_complete : Instr.wf (.flushComplete 0 65536) = false := rfl
theorem test_wf_header_nsid : Instr.wf (.flush ⟨0, 0, 4294967296, 0, 0⟩) = false := rfl
theorem test_wf_write_blocks : Instr.wf (.write ⟨⟨0, 0, 1, 0, 0⟩, 0, 0, ⟨true, false, false, false, 0, 0, 0⟩, true, []⟩) = false := rfl
theorem test_wf_write_lba : Instr.wf (.write ⟨⟨0, 0, 1, 0, 0⟩, (2 ^ 64), 1, ⟨true, false, false, false, 0, 0, 0⟩, true, []⟩) = false := rfl
theorem test_wf_read_blocks : Instr.wf (.read ⟨⟨0, 0, 1, 0, 0⟩, 0, 65537, ⟨true, false, false, false, 0, 0, 0⟩, true, []⟩) = false := rfl
theorem test_wf_append_ref : Instr.wf (.zoneAppend ⟨⟨0, 0, 1, 0, 0⟩, 0, 1, ⟨true, false, false, false, 0, 0, 0⟩, true, [⟨0, 0, 0, 4294967296⟩]⟩) = false := by decide +kernel
theorem test_wf_report_zones : Instr.wf (.reportZones ⟨⟨4096, 0, 1, 0, 0⟩, 0, 0, 1⟩) = false := rfl
theorem test_wf_zone_open : Instr.wf (.zoneOpen ⟨⟨4096, 0, 1, 0, 0⟩, 0, false⟩) = false := rfl
theorem test_wf_zone_close : Instr.wf (.zoneClose ⟨⟨4096, 0, 1, 0, 0⟩, 0, false⟩) = false := rfl
theorem test_wf_zone_finish : Instr.wf (.zoneFinish ⟨⟨4096, 0, 1, 0, 0⟩, 0, false⟩) = false := rfl
theorem test_wf_zone_reset : Instr.wf (.zoneReset ⟨⟨4096, 0, 1, 0, 0⟩, 0, false⟩) = false := rfl
theorem test_wf_zone_offline : Instr.wf (.zoneOffline ⟨⟨4096, 0, 1, 0, 0⟩, 0, false⟩) = false := rfl
theorem test_wf_invalid_opcode : Instr.wf (.invalidCommandOpcode ⟨0, 0, 1, 0, 0⟩ true 256) = false := rfl
theorem test_wf_admission : Instr.wf (.admission 0 65536) = false := rfl
theorem test_wf_r2t_release : Instr.wf (.readyToTransferRelease 0 65536) = false := rfl
theorem test_wf_write_release : Instr.wf (.writeCompletionRelease 0 65536) = false := rfl
theorem test_wf_append_assign : Instr.wf (.appendAssign 0 65536) = false := rfl
theorem test_wf_update_reads : Instr.wf (.updateReadsComplete 0 [⟨256, []⟩]) = false := rfl
theorem test_wf_folio_write : Instr.wf (.folioWriteComplete 0 32) = false := rfl
theorem test_wf_resync : Instr.wf (.resyncItem ⟨0, 0⟩ [⟨256, []⟩]) = false := rfl
theorem test_wf_seal_digest : Instr.wf (.sealDigest 0 0 [(0, some (2 ^ 32768))]) = false := by decide +kernel
theorem test_wf_proofing : Instr.wf (.proofingItem 0 [⟨256, []⟩]) = false := rfl
theorem test_wf_critical : Instr.wf (.criticalItem 0 [⟨256, []⟩]) = false := rfl
theorem test_wf_normal : Instr.wf (.normalItem 0 [⟨0, [⟨32, ⟨true, 0, 0, 0, 0⟩⟩]⟩]) = false := by decide +kernel
theorem test_wf_copyback : Instr.wf (.copybackItem 0 8 []) = false := rfl
theorem test_wf_copyback_write : Instr.wf (.copybackWriteComplete 0 8) = false := rfl
theorem test_wf_catchup : Instr.wf (.catchupItem 0 128 0 []) = false := rfl
theorem test_wf_reconstruct : Instr.wf (.readReconstruct ⟨0, 0⟩ ⟨256, []⟩) = false := rfl
theorem test_wf_repair_write : Instr.wf (.repairWrite ⟨0, 0⟩ 32 []) = false := rfl
theorem test_wf_repair_write_complete : Instr.wf (.repairWriteComplete ⟨0, 0⟩ 32) = false := rfl
theorem test_wf_readback : Instr.wf (.selfTestReadback ⟨0, 0⟩ 32 true) = false := rfl
theorem test_wf_window_read : Instr.wf (.windowReadComplete 0 [(0, [⟨256, []⟩])]) = false := rfl
theorem test_wf_evb_drop : Instr.wf (.evbDrop 64) = false := rfl
theorem test_wf_merge_flush : Instr.wf (.mergeEntryFlush 64) = false := rfl
theorem test_wf_patrol_device : Instr.wf (.patrolScrub 0 (.corrected [20]) .nothing 0) = false := rfl
theorem test_wf_patrol_word : Instr.wf (.patrolScrub 0 .clean .nothing 4294967296) = false := rfl
theorem test_wf_case_self_test : Instr.wf (.caseSelfTest 0 [⟨20, true, true⟩]) = false := rfl
theorem test_wf_gauge_cell : Instr.wf (.gaugeSample ⟨0, 65536, 0, 0, 0⟩) = false := rfl
theorem test_wf_gauge_temperature : Instr.wf (.gaugeSample ⟨0, 0, 0, -32769, 0⟩) = false := rfl
theorem test_wf_input_low : Instr.wf (.inputLow false 65536) = false := rfl
theorem test_wf_input_healthy : Instr.wf (.inputHealthy false 65536) = false := rfl
theorem test_wf_rate_window : Instr.wf (.rateWindowEnd 65536) = false := rfl
theorem test_wf_entdaa : Instr.wf (.entdaa 128) = false := rfl
theorem test_wf_setdasa : Instr.wf (.setdasa 128) = false := rfl
theorem test_wf_setnewda : Instr.wf (.setnewda 128) = false := rfl
theorem test_wf_enthdr : Instr.wf (.enthdrUnsupported 8) = false := rfl
theorem test_wf_drive_error : Instr.wf (.driveCommandError 0 0 [] [⟨true, 2 ^ 32768, 0, 0, 0⟩]) = false := by decide +kernel
theorem test_wf_drive_read : Instr.wf (.driveReadComplete 0 0 [⟨true, 0, 0, 65536, 0⟩]) = false := by decide +kernel
theorem test_wf_tcp_closed : Instr.wf (.tcpConnectionClosed 4096 false) = false := rfl
theorem test_wf_accepts : Instr.wf (.write ⟨⟨0, 0, 1, 0, 0⟩, 0, 65536, ⟨true, false, false, false, 0, 0, 0⟩, true, []⟩) = true := rfl

/-! ### Small values worked out by hand from the spec -/

/-- R101: multiplication by g = 0x02 in GF(2^8) with the polynomial 0x11D takes 0x80 to 0x1D. -/
theorem test_gf_reduces : gfMul 2 0x80 = 0x1D := by decide
/-- R471: the module is in POWER_QUALIFY at reset, and an MAINT_GO there is refused (R397). -/
theorem test_maint_refused_at_reset : (doMaintGo State.reset).core.mode = .powerQualify := rfl
/-- An empty queue idles. -/
theorem test_idle : step State.reset = .next State.reset := rfl


/-! ### Witnesses: the premises of each statement can be met -/

theorem witness_StepRunsTheFrontCommand : ∃ s : State, s.pending = [] := ⟨State.reset, rfl⟩

theorem witness_EveryCommandAnswersANextState : ∃ (c : Instr) (s : State), s.core.powered = false ∧ ∀ i, c ≠ .coldReset i :=
  ⟨.attnEdge, { core := { powered := false } }, rfl, (fun _ h => by cases h)⟩

theorem witness_StepKeepsTheStoresCanonical : ∃ s t : State, Canonical s ∧ step s = .next t ∧ s.pending ≠ [] :=
  ⟨{ stD with pending := [.attnEdge] }, _, (live_of (s := { stD with pending := [.attnEdge] }) (by decide)).canon, rfl, nofun⟩

theorem witness_CommandsLeaveTheQueueAlone : ∃ (c : Instr) (s t : State), Canonical s ∧ exec c s = .next t :=
  ⟨.attnEdge, stD, _, (live_of (s := stD) (by decide)).canon, rfl⟩

theorem witness_ImpressionCounterMovesAtBoundaries :
    (∃ (x : BoundaryIn) (s t : State), Live s ∧ exec (.impressionBoundary x) s = .next t) ∧
    (∃ (i : Nat) (s t : State), Canonical s ∧ exec (.coldReset i) s = .next t) ∧
    (∃ (c : Instr) (s t : State), Canonical s ∧ (∀ x, c ≠ .impressionBoundary x) ∧ (∀ i, c ≠ .coldReset i) ∧ exec c s = .next t) :=
  ⟨⟨⟨⟨false, false, false, false⟩, [], [], []⟩, stD, _, live_of (by decide), rfl⟩, ⟨0, stD, _, (live_of (s := stD) (by decide)).canon, rfl⟩,
   ⟨.attnEdge, stD, _, (live_of (s := stD) (by decide)).canon, (fun _ h => by cases h), (fun _ h => by cases h), rfl⟩⟩

theorem witness_PackLowRule :
    (∃ (s : State) (x : GaugeIn), Live s ∧ s.fnt.hibernating = false ∧ s.fnt.absent = false) ∧
    (∃ (s : State), Live s ∧ s.fnt.packLow = true) ∧
    (∃ (s : State), Live s) ∧
    (∃ (s : State) (a : Nat), Live s ∧ s.fnt.voltOkAt = some a ∧ s.fnt.packLow = true ∧ s.fnt.absent = false ∧ s.fnt.unfit = false ∧ 125000 ≤ s.since a) ∧
    (∃ (s : State), Live s ∧ (∀ a, s.fnt.voltOkAt = some a → s.since a < 125000)) :=
  ⟨⟨stD, ⟨0, 1900, 1899, 250, 0⟩, live_of (by decide), by decide, by decide⟩,
   ⟨{ stD with fnt := { packLow := true } }, live_of (by decide), by decide⟩,
   ⟨stD, live_of (by decide)⟩,
   ⟨{ stD with core := { imp := 125000 }, fnt := { voltOkAt := some 0, packLow := true } }, 0, live_of (by decide), by decide, by decide, by decide, by decide, by decide⟩,
   ⟨stD, live_of (by decide), by intro a h; cases h⟩⟩

theorem witness_DigestsFollowTheICReq :
    (∃ (s : State) (x : IcReq) (c : Conn), Live s ∧ FreePath x.conn c s ∧ c.icDone = false ∧ x.pfv = 0 ∧ x.headerOk = true ∧ x.hpda ≤ 31 ∧ (s.get Reg.Fe.REQ_HDGST = 0 ∨ x.hdgst = true) ∧ (s.get Reg.Fe.REQ_DDGST = 0 ∨ x.ddgst = true)) ∧
    (∃ (s : State) (x : IcReq) (c : Conn), Live s ∧ FreePath x.conn c s ∧ c.icDone = false ∧ x.pfv = 0 ∧ x.headerOk = true ∧ x.hpda ≤ 31 ∧ (s.get Reg.Fe.REQ_HDGST = 1 ∧ x.hdgst = false ∨ s.get Reg.Fe.REQ_DDGST = 1 ∧ x.ddgst = false)) :=
  ⟨⟨{ conns := [(3, connW)] }, ⟨3, 0, 31, true, false, 15, true⟩, connW, live_of (by decide), by decide, by decide, by decide, by decide, by decide, by decide, by decide⟩,
   ⟨{ conns := [(3, connW)], rf := regsOf [(Reg.Fe.REQ_DDGST, 0, 1)] }, ⟨3, 0, 31, true, false, 15, true⟩, connW, live_of (by decide), by decide, by decide, by decide, by decide, by decide, by decide⟩⟩

theorem witness_FlowControlFrames :
    (∃ (s : State) (p : FePortIx) (f : Frame), Live s ∧ s.get Reg.FeP.LINK_UP p = 1 ∧ f.fcsOk = true ∧ f.len ≤ 9216 ∧ f.lengthField = false ∧ f.dest ≠ .other ∧ f.vlan = none ∧ s.get Reg.FeP.VLAN_EN p = 0 ∧ f.payload = .other ∧ (s.fePort p).fifo + f.len ≤ 65536 ∧ 49152 < (s.fePort p).fifo + f.len ∧ s.get Reg.Fe.PFC_EN = 1 ∧ (s.fePort p).xoff = false) ∧
    (∃ (s : State) (p : FePortIx), Live s ∧ (s.fePort p).xoff = true ∧ 16384 < (s.fePort p).fifo ∧ 2048 * 512 ≤ s.since (s.fePort p).xoffAt * 400000) ∧
    (∃ (s : State) (p : FePortIx), Live s ∧ (s.fePort p).xoff = true ∧ (s.fePort p).fifo < 16384) ∧
    (∃ (s : State) (p : FePortIx) (prio quanta : Nat), Live s ∧ s.get Reg.FeP.LINK_UP p = 1 ∧ s.get Reg.Fe.PFC_EN = 1 ∧ s.get Reg.Fe.PFC_PRIO = prio) ∧
    (∃ (s : State) (p : FePortIx) (since quanta : Nat), Live s ∧ (s.fePort p).pause = some (since, quanta) ∧ quanta * 512 ≤ s.since since * 400000) :=
  ⟨⟨{ rf := regsOf [(Reg.FeP.LINK_UP, 2, 1), (Reg.Fe.PFC_EN, 0, 1)], fe := [(2, { fifo := 40000 })] }, 2, ⟨9216, true, false, none, .ownMac, .other⟩, live_of (by decide), by decide, by decide, by decide, by decide, by decide, by decide, by decide, by decide, by decide, by decide, by decide, by decide⟩,
   ⟨{ fe := [(3, { xoff := true, fifo := 16385 })], core := { imp := 3 } }, 3, live_of (by decide), by decide, by decide, by decide⟩,
   ⟨{ fe := [(0, { xoff := true, fifo := 16383 })] }, 0, live_of (by decide), by decide, by decide⟩,
   ⟨{ rf := regsOf [(Reg.FeP.LINK_UP, 15, 1), (Reg.Fe.PFC_EN, 0, 1), (Reg.Fe.PFC_PRIO, 0, 3)] }, 15, 3, 65535, live_of (by decide), by decide, by decide, by decide⟩,
   ⟨{ core := { imp := 1 }, fe := [(1, { pause := some (0, 781) })] }, 1, 0, 781, live_of (by decide), by decide, by decide⟩⟩

theorem witness_FrameReception :
    (∃ (s : State) (p : FePortIx) (f : Frame), Live s ∧ s.get Reg.FeP.LINK_UP p = 0) ∧
    (∃ (s : State) (p : FePortIx) (f : Frame), Live s ∧ s.get Reg.FeP.LINK_UP p = 1 ∧ f.fcsOk = false) ∧
    (∃ (s : State) (p : FePortIx) (f : Frame), Live s ∧ s.get Reg.FeP.LINK_UP p = 1 ∧ f.fcsOk = true ∧ (9216 < f.len ∨ f.lengthField = true ∨ f.dest = .other)) ∧
    (∃ (s : State) (p : FePortIx) (f : Frame), Live s ∧ s.get Reg.FeP.LINK_UP p = 1 ∧ f.fcsOk = true ∧ f.len ≤ 9216 ∧ f.lengthField = false ∧ f.dest ≠ .other ∧ s.get Reg.FeP.VLAN_EN p = 1 ∧ f.vlan ≠ some (s.get Reg.FeP.VLAN_ID p)) ∧
    (∃ (s : State) (p : FePortIx) (f : Frame), Live s ∧ s.get Reg.FeP.LINK_UP p = 1 ∧ f.fcsOk = true ∧ f.len ≤ 9216 ∧ f.lengthField = false ∧ f.dest ≠ .other ∧ s.get Reg.FeP.VLAN_EN p = 1 ∧ f.vlan = some (s.get Reg.FeP.VLAN_ID p) ∧ (f.payload = .icmpOther ∨ f.payload = .other) ∧ (s.fePort p).fifo + f.len ≤ 49152) :=
  ⟨⟨{}, 0, ⟨64, true, false, none, .ownMac, .other⟩, live_of (by decide), by decide⟩,
   ⟨{ rf := regsOf [(Reg.FeP.LINK_UP, 1, 1)] }, 1, ⟨64, false, false, none, .ownMac, .other⟩, live_of (by decide), by decide, by decide⟩,
   ⟨{ rf := regsOf [(Reg.FeP.LINK_UP, 1, 1)] }, 1, ⟨9217, true, false, none, .ownMac, .other⟩, live_of (by decide), by decide, by decide, by decide⟩,
   ⟨{ rf := regsOf [(Reg.FeP.LINK_UP, 1, 1), (Reg.FeP.VLAN_EN, 1, 1), (Reg.FeP.VLAN_ID, 1, 7)] }, 1, ⟨64, true, false, some 8, .ownMac, .other⟩, live_of (by decide), by decide, by decide, by decide, by decide, by decide, by decide, by decide⟩,
   ⟨{ rf := regsOf [(Reg.FeP.LINK_UP, 1, 1), (Reg.FeP.VLAN_EN, 1, 1), (Reg.FeP.VLAN_ID, 1, 7)], fe := [(1, { fifo := 39936 })] }, 1, ⟨9216, true, false, some 7, .ownMac, .other⟩, live_of (by decide), by decide, by decide, by decide, by decide, by decide, by decide, by decide, by decide, by decide⟩⟩

theorem witness_AddressReplies :
    (∃ (s : State) (p : FePortIx) (a : Nat), Live s ∧ s.get Reg.FeP.LINK_UP p = 1 ∧ (s.fePort p).ip4 = some a ∧ (s.fePort p).pause = none) ∧
    (∃ (s : State) (p : FePortIx) (a : Nat), Live s ∧ s.get Reg.FeP.LINK_UP p = 1 ∧ a ∈ (s.fePort p).ip6 ∧ (s.fePort p).dadAt = none ∧ s.get Reg.FeP.DUP_ADDR6 p = 0 ∧ (s.fePort p).pause = none) ∧
    (∃ (s : State) (p : FePortIx) (a n : Nat), Live s ∧ s.get Reg.FeP.LINK_UP p = 1 ∧ (s.fePort p).ip4 = some a ∧ n ≤ 1024 ∧ (s.fePort p).pause = none) ∧
    (∃ (s : State) (p : FePortIx) (a : NetAddr) (n : Nat), Live s ∧ 1024 < n) ∧
    (∃ (s : State) (p : FePortIx) (a : Nat), Live s ∧ s.get Reg.FeP.LINK_UP p = 1 ∧ (s.fePort p).ip4 = some a) ∧
    (∃ (s : State) (p : FePortIx) (a : NetAddr), Live s) ∧
    (∃ (s : State) (p : FePortIx) (began : Nat), Live s ∧ (s.fePort p).dadAt = some began ∧ 125000 ≤ s.since began) ∧
    (∃ (s : State) (p : FePortIx) (began : Nat), Live s ∧ (s.fePort p).dadAt = some began ∧ 125000 ≤ s.since began) :=
  ⟨⟨{ rf := regsOf [(Reg.FeP.LINK_UP, 4, 1)], fe := [(4, { ip4 := some 9 })] }, 4, 9, live_of (by decide), by decide, by decide, by decide⟩,
   ⟨{ rf := regsOf [(Reg.FeP.LINK_UP, 4, 1)], fe := [(4, { ip6 := [8, 9] })] }, 4, 9, live_of (by decide), by decide, by decide, by decide, by decide, by decide⟩,
   ⟨{ rf := regsOf [(Reg.FeP.LINK_UP, 4, 1)], fe := [(4, { ip4 := some 9 })] }, 4, 9, 1024, live_of (by decide), by decide, by decide, by decide, by decide⟩,
   ⟨{}, 0, .ip4 0, 1025, live_of (by decide), by decide⟩,
   ⟨{ rf := regsOf [(Reg.FeP.LINK_UP, 4, 1)], fe := [(4, { ip4 := some 9 })] }, 4, 9, live_of (by decide), by decide, by decide⟩,
   ⟨{}, 0, .ip4 0, live_of (by decide)⟩,
   ⟨{ core := { imp := 125000 }, fe := [(4, { dadAt := some 0 })] }, 4, 0, live_of (by decide), by decide, by decide⟩,
   ⟨{ core := { imp := 125000 }, fe := [(4, { dadAt := some 0 })] }, 4, 0, live_of (by decide), by decide, by decide⟩⟩

theorem witness_LinkChanges :
    (∃ (s : State) (p : FePortIx), Live s ∧ (s.core.mode = .assemble ∨ s.core.mode = .pressRun ∨ s.core.mode = .hold ∨ s.core.mode = .release) ∧ s.get Reg.FeP.PORT_EN p = 1 ∧ s.get Reg.FeP.LINK_UP p = 0 ∧ (s.fePort p).pause = none ∧ (s.fePort p).ip4 = none) ∧
    (∃ (s : State) (p : FePortIx) (a : Nat), Live s ∧ (s.core.mode = .assemble ∨ s.core.mode = .pressRun ∨ s.core.mode = .hold ∨ s.core.mode = .release) ∧ s.get Reg.FeP.PORT_EN p = 1 ∧ s.get Reg.FeP.LINK_UP p = 0 ∧ (s.fePort p).pause = none ∧ (s.fePort p).ip4 = some a) ∧
    (∃ (s : State) (p : FePortIx), Live s ∧ s.get Reg.FeP.LINK_UP p = 1) ∧
    (∃ (s : State) (p : FePortIx) (lost : Nat), Live s ∧ (s.fePort p).lostAt = some lost ∧ 125 * s.get Reg.FeP.HOLD_MS p ≤ s.since lost) ∧
    (∃ (s : State) (p : FePortIx) (lost : Nat), Live s ∧ (s.fePort p).lostAt = some lost ∧ s.since lost < 125 * s.get Reg.FeP.HOLD_MS p) :=
  ⟨⟨{ core := { mode := .pressRun }, rf := regsOf [(Reg.FeP.PORT_EN, 15, 1)], fe := [(15, { ip6 := [5] })] }, 15, live_of (by decide), by decide, by decide, by decide, by decide, by decide⟩,
   ⟨{ core := { mode := .pressRun }, rf := regsOf [(Reg.FeP.PORT_EN, 15, 1)], fe := [(15, { ip6 := [5], ip4 := some 9 })] }, 15, 9, live_of (by decide), by decide, by decide, by decide, by decide, by decide⟩,
   ⟨{ rf := regsOf [(Reg.FeP.LINK_UP, 15, 1)] }, 15, live_of (by decide), by decide⟩,
   ⟨{ rf := regsOf [(Reg.FeP.HOLD_MS, 15, 1)], core := { imp := 125 }, fe := [(15, { lostAt := some 0 })] }, 15, 0, live_of (by decide), by decide, by decide⟩,
   ⟨{ rf := regsOf [(Reg.FeP.HOLD_MS, 15, 1)], core := { imp := 124 }, fe := [(15, { lostAt := some 0 })] }, 15, 0, live_of (by decide), by decide, by decide⟩⟩

theorem witness_ConnectionsOpen :
    (∃ (s : State) (x : Syn), Live s ∧ s.get Reg.FeP.LINK_UP x.port = 1 ∧ ownsAddr s x.port (if x.ip6 then .ip6 x.dstAddr else .ip4 x.dstAddr) = true ∧ (s.fePort x.port).pause = none ∧ (s.core.mode = .pressRun ∨ s.core.mode = .hold) ∧ x.dstPort = s.get Reg.Fe.NVME_PORT ∧ s.conns.length < 4096 ∧ (s.conns.any fun c => c.2.srcAddr == x.srcAddr && c.2.srcPort == x.srcPort && c.2.dstAddr == x.dstAddr && c.2.dstPort == x.dstPort && c.2.ip6 == x.ip6) = false) ∧
    (∃ (s : State) (x : Syn), Live s ∧ s.get Reg.FeP.LINK_UP x.port = 1 ∧ ownsAddr s x.port (if x.ip6 then .ip6 x.dstAddr else .ip4 x.dstAddr) = true ∧ (s.fePort x.port).pause = none ∧ (s.core.mode ≠ .pressRun ∧ s.core.mode ≠ .hold ∨ x.dstPort ≠ s.get Reg.Fe.NVME_PORT)) ∧
    (∃ (s : State) (x : Syn), Live s ∧ s.get Reg.FeP.LINK_UP x.port = 1 ∧ ownsAddr s x.port (if x.ip6 then .ip6 x.dstAddr else .ip4 x.dstAddr) = true ∧ (s.fePort x.port).pause = none ∧ (s.core.mode = .pressRun ∨ s.core.mode = .hold) ∧ x.dstPort = s.get Reg.Fe.NVME_PORT ∧ (4096 ≤ s.conns.length ∨ (s.conns.any fun c => c.2.srcAddr == x.srcAddr && c.2.srcPort == x.srcPort && c.2.dstAddr == x.dstAddr && c.2.dstPort == x.dstPort && c.2.ip6 == x.ip6) = true)) :=
  ⟨⟨{ core := { mode := .pressRun }, rf := regsOf [(Reg.FeP.LINK_UP, 2, 1), (Reg.Fe.NVME_PORT, 0, 4420)], fe := [(2, { ip4 := some 9 })] }, ⟨2, 77, 50000, 9, 4420, false, true, true, true⟩, live_of (by decide), by decide, by decide, by decide, by decide, by decide, by decide, by decide⟩,
   ⟨{ core := { mode := .pressRun }, rf := regsOf [(Reg.FeP.LINK_UP, 2, 1), (Reg.Fe.NVME_PORT, 0, 4420)], fe := [(2, { ip4 := some 9 })] }, ⟨2, 77, 50000, 9, 80, false, true, true, true⟩, live_of (by decide), by decide, by decide, by decide, by decide⟩,
   ⟨{ core := { mode := .pressRun }, rf := regsOf [(Reg.FeP.LINK_UP, 2, 1), (Reg.Fe.NVME_PORT, 0, 4420)], fe := [(2, { ip4 := some 9 })], conns := [(0, { port := 2, srcAddr := 77, srcPort := 50000, dstAddr := 9, dstPort := 4420, ip6 := false, wscale := true, sack := true, tstamp := true, openedAt := 0, pair := 12 })] }, ⟨2, 77, 50000, 9, 4420, false, true, true, true⟩, live_of (by decide), by decide, by decide, by decide, by decide, by decide, by decide⟩⟩

theorem witness_ConnectionsClose :
    (∃ (s : State) (i : Nat) (c : Conn), Live s ∧ nfind i s.conns = some c ∧ c.retx < 10) ∧
    (∃ (s : State) (i : Nat) (c : Conn), Live s ∧ nfind i s.conns = some c ∧ 10 ≤ c.retx ∧ (s.fePort c.port).pause = none) ∧
    (∃ (s : State) (i : Nat) (c : Conn), Live s ∧ nfind i s.conns = some c ∧ c.icDone = false ∧ 250000 ≤ s.since c.openedAt) ∧
    (∃ (s : State) (i : Nat) (c : Conn) (r : Bool), Live s ∧ nfind i s.conns = some c) ∧
    (∃ (s : State) (i fes : Nat) (c : Conn), Live s ∧ nfind i s.conns = some c) ∧
    (∃ (s : State) (i failed : Nat) (c : Conn), Live s ∧ nfind i s.conns = some c ∧ c.authFailAt = some failed ∧ 125000 ≤ s.since failed) ∧
    (∃ (s : State) (k : Nat) (x : Ctrl) (c : Conn), Live s ∧ nfind k s.ctrls = some x ∧ 0 < x.kato ∧ 125 * x.kato ≤ s.since x.kaAt ∧ nfind x.admin s.conns = some c) ∧
    (∃ (s : State) (c : Conn), Live s ∧ nfind (s.get Reg.Fe.CONN_SEL) s.conns = some c) :=
  ⟨⟨{ core := { imp := 1000000 }, conns := [(4095, { port := 2, srcAddr := 77, srcPort := 50000, dstAddr := 9, dstPort := 4420, ip6 := false, wscale := true, sack := true, tstamp := true, openedAt := 0, pair := 12, retx := 9 })] }, 4095, { port := 2, srcAddr := 77, srcPort := 50000, dstAddr := 9, dstPort := 4420, ip6 := false, wscale := true, sack := true, tstamp := true, openedAt := 0, pair := 12, retx := 9 }, live_of (by decide), by decide, by decide⟩,
   ⟨{ core := { imp := 1000000 }, conns := [(4095, { port := 2, srcAddr := 77, srcPort := 50000, dstAddr := 9, dstPort := 4420, ip6 := false, wscale := true, sack := true, tstamp := true, openedAt := 0, pair := 12, retx := 10 })] }, 4095, { port := 2, srcAddr := 77, srcPort := 50000, dstAddr := 9, dstPort := 4420, ip6 := false, wscale := true, sack := true, tstamp := true, openedAt := 0, pair := 12, retx := 10 }, live_of (by decide), by decide, by decide, by decide⟩,
   ⟨{ core := { imp := 1000000 }, conns := [(4095, { port := 2, srcAddr := 77, srcPort := 50000, dstAddr := 9, dstPort := 4420, ip6 := false, wscale := true, sack := true, tstamp := true, openedAt := 0, pair := 12 })] }, 4095, { port := 2, srcAddr := 77, srcPort := 50000, dstAddr := 9, dstPort := 4420, ip6 := false, wscale := true, sack := true, tstamp := true, openedAt := 0, pair := 12 }, live_of (by decide), by decide, by decide, by decide⟩,
   ⟨{ core := { imp := 1000000 }, conns := [(4095, { port := 2, srcAddr := 77, srcPort := 50000, dstAddr := 9, dstPort := 4420, ip6 := false, wscale := true, sack := true, tstamp := true, openedAt := 0, pair := 12 })] }, 4095, { port := 2, srcAddr := 77, srcPort := 50000, dstAddr := 9, dstPort := 4420, ip6 := false, wscale := true, sack := true, tstamp := true, openedAt := 0, pair := 12 }, false, live_of (by decide), by decide⟩,
   ⟨{ core := { imp := 1000000 }, conns := [(4095, { port := 2, srcAddr := 77, srcPort := 50000, dstAddr := 9, dstPort := 4420, ip6 := false, wscale := true, sack := true, tstamp := true, openedAt := 0, pair := 12 })] }, 4095, 2, { port := 2, srcAddr := 77, srcPort := 50000, dstAddr := 9, dstPort := 4420, ip6 := false, wscale := true, sack := true, tstamp := true, openedAt := 0, pair := 12 }, live_of (by decide), by decide⟩,
   ⟨{ core := { imp := 1000000 }, conns := [(4095, { port := 2, srcAddr := 77, srcPort := 50000, dstAddr := 9, dstPort := 4420, ip6 := false, wscale := true, sack := true, tstamp := true, openedAt := 0, pair := 12, authFailAt := some 875000 })] }, 4095, 875000, { port := 2, srcAddr := 77, srcPort := 50000, dstAddr := 9, dstPort := 4420, ip6 := false, wscale := true, sack := true, tstamp := true, openedAt := 0, pair := 12, authFailAt := some 875000 }, live_of (by decide), by decide, by decide, by decide⟩,
   ⟨{ core := { imp := 1000000 }, conns := [(4095, { port := 2, srcAddr := 77, srcPort := 50000, dstAddr := 9, dstPort := 4420, ip6 := false, wscale := true, sack := true, tstamp := true, openedAt := 0, pair := 12, connected := true, admin := true, cntlid := 1 })], ctrls := [(1, { host := 0, admin := 4095, port := 2, kato := 8000 })] }, 1, { host := 0, admin := 4095, port := 2, kato := 8000 }, { port := 2, srcAddr := 77, srcPort := 50000, dstAddr := 9, dstPort := 4420, ip6 := false, wscale := true, sack := true, tstamp := true, openedAt := 0, pair := 12, connected := true, admin := true, cntlid := 1 }, live_of (by decide), by decide, by decide, by decide, by decide⟩,
   ⟨{ conns := [(0, { port := 2, srcAddr := 77, srcPort := 50000, dstAddr := 9, dstPort := 4420, ip6 := false, wscale := true, sack := true, tstamp := true, openedAt := 0, pair := 12 })] }, { port := 2, srcAddr := 77, srcPort := 50000, dstAddr := 9, dstPort := 4420, ip6 := false, wscale := true, sack := true, tstamp := true, openedAt := 0, pair := 12 }, live_of (by decide), by decide⟩⟩

theorem witness_PortEnableAndReset :
    (∃ (s : State) (p : FePortIx), Live s ∧ s.get Reg.FeP.PORT_EN p = 0 ∧ 1280 ≤ s.get Reg.FeP.MTU p ∧ s.get Reg.FeP.MTU p ≤ 9194 ∧ s.get Reg.FeP.IP4_EN p = 1 ∧ s.get Reg.FeP.IP6_EN p = 0) ∧
    (∃ (s : State) (p : FePortIx), Live s ∧ s.get Reg.FeP.PORT_EN p = 0 ∧ (s.get Reg.FeP.MTU p < 1280 ∨ 9194 < s.get Reg.FeP.MTU p ∨ s.get Reg.FeP.IP4_EN p = 0 ∧ s.get Reg.FeP.IP6_EN p = 0)) ∧
    (∃ (s : State) (p : FePortIx), Live s ∧ s.get Reg.FeP.PORT_EN p = 1) ∧
    (∃ (s : State) (p : FePortIx), Live s) :=
  ⟨⟨{ rf := regsOf [(Reg.FeP.MTU, 15, 1280), (Reg.FeP.IP4_EN, 15, 1)] }, 15, live_of (by decide), by decide, by decide, by decide, by decide, by decide⟩,
   ⟨{ rf := regsOf [(Reg.FeP.MTU, 15, 1279), (Reg.FeP.IP4_EN, 15, 1)] }, 15, live_of (by decide), by decide, by decide⟩,
   ⟨{ rf := regsOf [(Reg.FeP.PORT_EN, 15, 1), (Reg.FeP.LINK_UP, 15, 1)] }, 15, live_of (by decide), by decide⟩,
   ⟨{ rf := regsOf [(Reg.FeP.PORT_EN, 15, 1), (Reg.FeP.LINK_UP, 15, 1)] }, 15, live_of (by decide)⟩⟩

theorem witness_ConnectionSnapshot :
    (∃ (s : State) (v : RegWord) (c : Conn), Live s ∧ v.toNat < 4096 ∧ nfind v.toNat s.conns = some c ∧ c.port < 16 ∧ c.cntlid < 65536) ∧
    (∃ (s : State) (v : RegWord), Live s ∧ nfind (v.toNat % 4096) s.conns = none) :=
  ⟨⟨{ conns := [(4095, { port := 2, srcAddr := 77, srcPort := 50000, dstAddr := 9, dstPort := 4420, ip6 := false, wscale := true, sack := true, tstamp := true, openedAt := 0, pair := 12 })] }, 4095, { port := 2, srcAddr := 77, srcPort := 50000, dstAddr := 9, dstPort := 4420, ip6 := false, wscale := true, sack := true, tstamp := true, openedAt := 0, pair := 12 }, live_of (by decide), by decide, by decide, by decide, by decide⟩,
   ⟨{}, 4096, live_of (by decide), by decide⟩⟩

theorem witness_ConnectEstablishesControllers :
    (∃ (s : State) (x : IcReq) (c : Conn), Live s ∧ FreePath x.conn c s ∧ c.icDone = false ∧ x.pfv = 0 ∧ x.headerOk = true ∧ x.hpda ≤ 31 ∧ (s.get Reg.Fe.REQ_HDGST = 0 ∨ x.hdgst = true) ∧ (s.get Reg.Fe.REQ_DDGST = 0 ∨ x.ddgst = true)) ∧
    (∃ (s : State) (x : IcReq) (c : Conn), Live s ∧ FreePath x.conn c s ∧ c.icDone = true) ∧
    (∃ (s : State) (x : ConnectCmd) (c : Conn) (host i : Nat), Live s ∧ FreePath x.conn c s ∧ c.icDone = true ∧ c.connected = false ∧ x.recfmt = 0 ∧ hostIx s x.hostNqn = some host ∧ connectBad x host s = none ∧ x.qid = 0 ∧ s.ctrls.length < 256 ∧ freeCntlid s = some i) ∧
    (∃ (s : State) (x : ConnectCmd) (c : Conn) (host : Nat), Live s ∧ FreePath x.conn c s ∧ c.icDone = true ∧ c.connected = false ∧ x.recfmt = 0 ∧ hostIx s x.hostNqn = some host ∧ connectBad x host s = none ∧ x.qid ≠ 0) :=
  ⟨⟨{ conns := [(3, connW)] }, ⟨3, 0, 31, true, false, 15, true⟩, connW, live_of (by decide), by decide, by decide, by decide, by decide, by decide, by decide, by decide⟩,
   ⟨{ conns := [(3, adminW)] }, ⟨3, 0, 31, true, false, 15, true⟩, adminW, live_of (by decide), by decide, by decide⟩,
   ⟨{ conns := [(3, { connW with icDone := true })], img := { eff := some imgW } }, ⟨3, 0, 0, [104], [110], 0xFFFF, 0, 31, 8000⟩, { connW with icDone := true }, 0, 1, live_of (by decide), by decide, by decide, by decide, by decide, by decide, by decide, by decide, by decide, by decide⟩,
   ⟨{ conns := [(3, { connW with icDone := true })], ctrls := [(1, ctrlW)], img := { eff := some imgW } }, ⟨3, 0, 0, [104], [110], 1, 64, 127, 8000⟩, { connW with icDone := true }, 0, live_of (by decide), by decide, by decide, by decide, by decide, by decide, by decide, by decide⟩⟩

theorem witness_ControllerProperties :
    (∃ (s : State) (h : CmdHdr) (c : Conn) (x : Ctrl) (v : CcValue), Live s ∧ AdminReady h c s ∧ nfind c.cntlid s.ctrls = some x) ∧
    (∃ (s : State) (h : CmdHdr) (c : Conn) (x : Ctrl), Live s ∧ AdminReady h c s ∧ nfind c.cntlid s.ctrls = some x) ∧
    (∃ (s : State) (h : CmdHdr) (c : Conn) (x : Ctrl), Live s ∧ AdminReady h c s ∧ nfind c.cntlid s.ctrls = some x) ∧
    (∃ (s : State) (h : CmdHdr) (c : Conn) (x : Ctrl), Live s ∧ AdminReady h c s ∧ nfind c.cntlid s.ctrls = some x) ∧
    (∃ (s : State) (h : CmdHdr) (c : Conn) (x : Ctrl), Live s ∧ AdminReady h c s ∧ nfind c.cntlid s.ctrls = some x) ∧
    (∃ (s : State) (i : Nat) (x : Ctrl), Live s ∧ nfind i s.ctrls = some x ∧ x.shst = 1 ∧ (∀ p ∈ s.cmds, p.2.silent = true ∨ p.2.op = .aer ∨ ∀ c, nfind (p.1 / 65536) s.conns = some c → c.cntlid ≠ i)) ∧
    (∃ (s : State) (h : CmdHdr) (c : Conn) (x : Ctrl), Live s ∧ AdminReady h c s ∧ nfind c.cntlid s.ctrls = some x) :=
  ⟨⟨stW, ⟨3, 7, 0, 0, 0⟩, adminW, ctrlW, ⟨true, 6, 0, 0, 0, 6, 4⟩, live_of (by decide), by decide, by decide⟩,
   ⟨stW, ⟨3, 7, 0, 0, 0⟩, adminW, ctrlW, live_of (by decide), by decide, by decide⟩,
   ⟨stW, ⟨3, 7, 0, 0, 0⟩, adminW, ctrlW, live_of (by decide), by decide, by decide⟩,
   ⟨stW, ⟨3, 7, 0, 0, 0⟩, adminW, ctrlW, live_of (by decide), by decide, by decide⟩,
   ⟨stW, ⟨3, 7, 0, 0, 0⟩, adminW, ctrlW, live_of (by decide), by decide, by decide⟩,
   ⟨{ ctrls := [(1, { ctrlW with shst := 1 })] }, 1, { ctrlW with shst := 1 }, live_of (by decide), by decide, by decide, by decide⟩,
   ⟨stW, ⟨3, 7, 0, 0, 0⟩, adminW, ctrlW, live_of (by decide), by decide, by decide⟩⟩

theorem witness_FeaturesAndEvents :
    (∃ (s : State) (h : CmdHdr) (c : Conn) (x : Ctrl) (v : Nat), Live s ∧ AdminReady h c s ∧ nfind c.cntlid s.ctrls = some x) ∧
    (∃ (s : State) (h : CmdHdr) (c : Conn) (x : Ctrl) (v : Nat), Live s ∧ AdminReady h c s ∧ nfind c.cntlid s.ctrls = some x) ∧
    (∃ (s : State) (h : CmdHdr) (c : Conn) (x : Ctrl) (v : Nat), Live s ∧ AdminReady h c s ∧ nfind c.cntlid s.ctrls = some x) ∧
    (∃ (s : State) (h : CmdHdr) (c : Conn) (fid v : Nat), Live s ∧ AdminReady h c s ∧ (fid = 0x07 ∨ fid = 0x0B ∨ fid = 0x0F)) ∧
    (∃ (s : State) (h : CmdHdr) (c : Conn) (x : Ctrl), Live s ∧ AdminReady h c s ∧ nfind c.cntlid s.ctrls = some x) ∧
    (∃ (s : State) (h : CmdHdr) (c : Conn) (x : Ctrl), Live s ∧ AdminReady h c s ∧ nfind c.cntlid s.ctrls = some x) ∧
    (∃ (s : State) (h : CmdHdr) (c : Conn) (x : Ctrl), Live s ∧ AdminReady h c s ∧ nfind c.cntlid s.ctrls = some x) ∧
    (∃ (s : State) (h : CmdHdr) (c : Conn) (x : Ctrl), Live s ∧ AdminReady h c s ∧ nfind c.cntlid s.ctrls = some x ∧ x.aers.length < 4) :=
  ⟨⟨stW, ⟨3, 7, 0, 0, 0⟩, adminW, ctrlW, 8000, live_of (by decide), by decide, by decide⟩,
   ⟨stW, ⟨3, 7, 0, 0, 0⟩, adminW, ctrlW, 8000, live_of (by decide), by decide, by decide⟩,
   ⟨stW, ⟨3, 7, 0, 0, 0⟩, adminW, ctrlW, 8000, live_of (by decide), by decide, by decide⟩,
   ⟨stW, ⟨3, 7, 0, 0, 0⟩, adminW, 0x0F, 1, live_of (by decide), by decide, by decide⟩,
   ⟨stW, ⟨3, 7, 0, 0, 0⟩, adminW, ctrlW, live_of (by decide), by decide, by decide⟩,
   ⟨stW, ⟨3, 7, 0, 0, 0⟩, adminW, ctrlW, live_of (by decide), by decide, by decide⟩,
   ⟨stW, ⟨3, 7, 0, 0, 0⟩, adminW, ctrlW, live_of (by decide), by decide, by decide⟩,
   ⟨{ stW with ctrls := [(1, { ctrlW with aers := [1, 2, 3] })] }, ⟨3, 7, 0, 0, 0⟩, adminW, { ctrlW with aers := [1, 2, 3] }, live_of (by decide), by decide, by decide, by decide⟩⟩

theorem witness_Authentication :
    (∃ (s : State) (h : CmdHdr) (c : Conn) (msg : Nat), Live s ∧ FreePath h.conn c s ∧ c.icDone = true ∧ c.connected = true ∧ nfind (cmdKey h.conn h.cid) s.cmds = none ∧ secretsOf s c.host = none) ∧
    (∃ (s : State) (h : CmdHdr) (c : Conn) (msg : Nat) (x : Secret), Live s ∧ FreePath h.conn c s ∧ c.icDone = true ∧ c.connected = true ∧ nfind (cmdKey h.conn h.cid) s.cmds = none ∧ secretsOf s c.host = some x) ∧
    (∃ (s : State) (h : CmdHdr) (c : Conn) (m : Nat), Live s ∧ FreePath h.conn c s ∧ c.icDone = true ∧ c.connected = true ∧ nfind (cmdKey h.conn h.cid) s.cmds = none ∧ c.authMsg = some m) :=
  ⟨⟨stW, ⟨3, 7, 0, 0, 0⟩, adminW, 5, live_of (by decide), by decide, by decide, by decide, by decide, by decide⟩,
   ⟨{ stW with sec := { secrets := [(0, ⟨1, 8, 2, 8⟩)] } }, ⟨3, 7, 0, 0, 0⟩, adminW, 5, ⟨1, 8, 2, 8⟩, live_of (by decide), by decide, by decide, by decide, by decide, by decide⟩,
   ⟨{ stW with conns := [(3, { adminW with authMsg := some 77 })] }, ⟨3, 7, 0, 16, 0⟩, { adminW with authMsg := some 77 }, 77, live_of (by decide), by decide, by decide, by decide, by decide, by decide⟩⟩

theorem witness_LogPagesAndIdentify :
    (∃ (s : State) (h : CmdHdr) (c : Conn) (x : Ctrl) (off : Nat), Live s ∧ AdminReady h c s ∧ nfind c.cntlid s.ctrls = some x) ∧
    (∃ (s : State) (h : CmdHdr) (c : Conn) (x : Ctrl) (off : Nat), Live s ∧ AdminReady h c s ∧ nfind c.cntlid s.ctrls = some x) ∧
    (∃ (s : State) (h : CmdHdr) (c : Conn) (x : Ctrl) (off : Nat), Live s ∧ AdminReady h c s ∧ nfind c.cntlid s.ctrls = some x) ∧
    (∃ (s : State) (h : CmdHdr) (c : Conn) (x : Ctrl) (off : Nat), Live s ∧ AdminReady h c s ∧ nfind c.cntlid s.ctrls = some x ∧ 1 ≤ h.nsid ∧ h.nsid < 0xFFFFFFFF) ∧
    (∃ (s : State) (h : CmdHdr) (c : Conn) (x : Ctrl) (off : Nat), Live s ∧ AdminReady h c s ∧ nfind c.cntlid s.ctrls = some x) ∧
    (∃ (s : State) (h : CmdHdr) (c : Conn) (csi : Nat), Live s ∧ AdminReady h c s ∧ h.len = 4096) ∧
    (∃ (s : State) (h : CmdHdr) (c : Conn) (cns csi : Nat), Live s ∧ AdminReady h c s ∧ h.len = 4096 ∧ 8 < cns) ∧
    (∃ (s : State) (h : CmdHdr) (c : Conn), Live s ∧ AdminReady h c s) ∧
    (∃ (s : State) (h : CmdHdr) (c : Conn) (sp : Nat), Live s ∧ AdminReady h c s ∧ sp ≠ 0) ∧
    (∃ (s : State) (h : CmdHdr) (c : Conn) (admin : Bool) (op : Nat), Live s ∧ FreePath h.conn c s ∧ c.icDone = true ∧ c.connected = true) :=
  ⟨⟨stW, ⟨3, 7, 0, 512, 0⟩, adminW, ctrlW, 0, live_of (by decide), by decide, by decide⟩,
   ⟨stW, ⟨3, 7, 0, 512, 0⟩, adminW, ctrlW, 0, live_of (by decide), by decide, by decide⟩,
   ⟨{ stW with ctrls := [(1, { ctrlW with changedNs := [2] })] }, ⟨3, 7, 0, 4096, 0⟩, adminW, { ctrlW with changedNs := [2] }, 0, live_of (by decide), by decide, by decide⟩,
   ⟨stZ, ⟨3, 7, 2, 4096, 0⟩, adminW, ctrlW, 0, live_of (by decide), by decide, by decide, by decide, by decide⟩,
   ⟨stW, ⟨3, 7, 0, 512, 0⟩, adminW, ctrlW, 0, live_of (by decide), by decide, by decide⟩,
   ⟨stW, ⟨3, 7, 0, 4096, 0⟩, adminW, 0, live_of (by decide), by decide, by decide⟩,
   ⟨stW, ⟨3, 7, 0, 4096, 0⟩, adminW, 9, 0, live_of (by decide), by decide, by decide, by decide⟩,
   ⟨stW, ⟨3, 7, 0, 512, 0⟩, adminW, live_of (by decide), by decide⟩,
   ⟨stW, ⟨3, 7, 0, 512, 0⟩, adminW, 1, live_of (by decide), by decide, by decide⟩,
   ⟨stW, ⟨3, 7, 0, 0, 0⟩, adminW, true, 0x80, live_of (by decide), by decide, by decide, by decide⟩⟩

theorem witness_PermitsAndDamageStatements :
    (∃ (s : State) (h : CmdHdr) (c : Conn), Live s ∧ AdminReady h c s ∧ h.len = 16 ∧ s.get Reg.Sec.RNG_FAIL = 0) ∧
    (∃ (s : State) (h : CmdHdr) (c : Conn), Live s ∧ AdminReady h c s ∧ h.len = 16 ∧ s.get Reg.Sec.RNG_FAIL = 1) ∧
    (∃ (s : State) (h : CmdHdr) (c : Conn) (x : Permit), Live s ∧ AdminReady h c s ∧ x.len = 160 ∧ x.magicOk = true ∧ x.versionOk = true ∧ 1 ≤ x.nsid ∧ nsEvidence s (x.nsid - 1) = true ∧ x.zoneStart % zsze s (x.nsid - 1) = 0 ∧ x.zoneStart / zsze s (x.nsid - 1) < zoneCount s (x.nsid - 1) ∧ x.serial = leValue serialBytes ∧ x.nonce ∈ s.zn.nonces ∧ (s.zone (zoneKey (x.nsid - 1) (x.zoneStart / zsze s (x.nsid - 1)))).permit = none ∧ (s.zone (zoneKey (x.nsid - 1) (x.zoneStart / zsze s (x.nsid - 1)))).st ≠ .empty ∧ (s.zone (zoneKey (x.nsid - 1) (x.zoneStart / zsze s (x.nsid - 1)))).st ≠ .offline) ∧
    (∃ (s : State) (h : CmdHdr) (c : Conn) (x : Ctrl) (start chal : Nat), Live s ∧ AdminReady h c s ∧ nfind c.cntlid s.ctrls = some x ∧ h.len = 32 ∧ 1 ≤ h.nsid ∧ nsZoned s (h.nsid - 1) = true ∧ start % zsze s (h.nsid - 1) = 0 ∧ start / zsze s (h.nsid - 1) < zoneCount s (h.nsid - 1) ∧ (s.zone (zoneKey (h.nsid - 1) (start / zsze s (h.nsid - 1)))).sealed = true) ∧
    (∃ (s : State) (h : CmdHdr) (c : Conn) (x : Ctrl) (n z chal : Nat), Live s ∧ AdminReady h c s ∧ nfind c.cntlid s.ctrls = some x ∧ h.len = 4096 ∧ x.dmg = some (n, z, chal)) :=
  ⟨⟨stW, ⟨3, 7, 0, 16, 0⟩, adminW, live_of (by decide), by decide, by decide, by decide⟩,
   ⟨{ stW with rf := regsOf [(Reg.Sec.RNG_FAIL, 0, 1)] }, ⟨3, 7, 0, 16, 0⟩, adminW, live_of (by decide), by decide, by decide, by decide⟩,
   ⟨{ stZ with zn := { nonces := [9], zones := [(2 ^ 32, { st := .full })] } }, ⟨3, 7, 0, 160, 0⟩, adminW, ⟨160, true, true, 2, 0, leValue serialBytes, 9, 0, 1, 1⟩, live_of (by decide), by decide, by decide, by decide, by decide, by decide, by decide, by decide, by decide, rfl, by decide, by decide, by decide, by decide⟩,
   ⟨{ stZ with zn := { zones := [(2 ^ 32 + 3, { st := .full, sealed := true })] } }, ⟨3, 7, 2, 32, 32⟩, adminW, ctrlW, 96, 5, live_of (by decide), by decide, by decide, by decide, by decide, by decide, by decide, by decide, by decide⟩,
   ⟨{ stZ with ctrls := [(1, { ctrlW with dmg := some (1, 3, 5) })] }, ⟨3, 7, 0, 4096, 0⟩, adminW, { ctrlW with dmg := some (1, 3, 5) }, 1, 3, 5, live_of (by decide), by decide, by decide, by decide, by decide⟩⟩

theorem witness_WriteIntake :
    (∃ (s : State) (x : IoCmd) (c : Conn), Live s ∧ IoReady x c false s ∧ x.hdr.inCapsule = 0) ∧
    (∃ (s : State) (x : IoCmd) (c : Conn), Live s ∧ FreePath x.hdr.conn c s ∧ c.icDone = true ∧ c.connected = true ∧ c.admin = false ∧ nfind (cmdKey x.hdr.conn x.hdr.cid) s.cmds = none ∧ c.authReq = false ∧ checkNs false x.hdr c s = none ∧ nsZoned s (x.hdr.nsid - 1) = false ∧ x.hdr.len = x.nlb * wireOf x.pi ∧ x.hdr.len ≤ 1048576 ∧ x.hdr.inCapsule = 0 ∧ nsSize s (x.hdr.nsid - 1) < x.slba + x.nlb) ∧
    (∃ (s : State) (x : IoCmd) (c : Conn), Live s ∧ IoReady x c true s ∧ x.hdr.inCapsule = 0 ∧ x.slba % zsze s (x.hdr.nsid - 1) = 0 ∧ (s.zone (zoneKey (x.hdr.nsid - 1) (x.slba / zsze s (x.hdr.nsid - 1)))).st = .explicit ∧ (s.zone (zoneKey (x.hdr.nsid - 1) (x.slba / zsze s (x.hdr.nsid - 1)))).sealing = none ∧ (s.zone (zoneKey (x.hdr.nsid - 1) (x.slba / zsze s (x.hdr.nsid - 1)))).pend = none ∧ (s.zone (zoneKey (x.hdr.nsid - 1) (x.slba / zsze s (x.hdr.nsid - 1)))).permit = none ∧ (s.zone (zoneKey (x.hdr.nsid - 1) (x.slba / zsze s (x.hdr.nsid - 1)))).fill + (s.zone (zoneKey (x.hdr.nsid - 1) (x.slba / zsze s (x.hdr.nsid - 1)))).reserved + x.nlb ≤ zsze s (x.hdr.nsid - 1) - (if nsEvidence s (x.hdr.nsid - 1) then 1 else 0)) ∧
    (∃ (s : State) (x : IoCmd) (c : Conn), Live s ∧ IoReady x c true s ∧ x.hdr.inCapsule = 0 ∧ x.slba % zsze s (x.hdr.nsid - 1) = 0 ∧ (s.zone (zoneKey (x.hdr.nsid - 1) (x.slba / zsze s (x.hdr.nsid - 1)))).st = .explicit ∧ (s.zone (zoneKey (x.hdr.nsid - 1) (x.slba / zsze s (x.hdr.nsid - 1)))).sealing = none ∧ (s.zone (zoneKey (x.hdr.nsid - 1) (x.slba / zsze s (x.hdr.nsid - 1)))).pend = none ∧ (s.zone (zoneKey (x.hdr.nsid - 1) (x.slba / zsze s (x.hdr.nsid - 1)))).permit = none ∧ zsze s (x.hdr.nsid - 1) - (if nsEvidence s (x.hdr.nsid - 1) then 1 else 0) < (s.zone (zoneKey (x.hdr.nsid - 1) (x.slba / zsze s (x.hdr.nsid - 1)))).fill + (s.zone (zoneKey (x.hdr.nsid - 1) (x.slba / zsze s (x.hdr.nsid - 1)))).reserved + x.nlb ∧ x.hdr.cid < 65536) :=
  ⟨⟨stZ, ⟨⟨4, 9, 1, 32768, 0⟩, 248, 8, ⟨true, false, false, false, 0, 0, 0⟩, true, []⟩, ioW, live_of (by decide), by decide, by decide⟩,
   ⟨stZ, ⟨⟨4, 9, 1, 32768, 0⟩, 249, 8, ⟨true, false, false, false, 0, 0, 0⟩, true, []⟩, ioW, live_of (by decide), by decide, by decide, by decide, by decide, by decide, by decide, by decide, by decide, by decide, by decide, by decide, by decide⟩,
   ⟨{ stZ with zn := { zones := [(2 ^ 32 + 1, { st := .explicit, fill := 22 })] } }, ⟨⟨4, 9, 2, 36864, 0⟩, 32, 9, ⟨true, false, false, false, 0, 0, 0⟩, true, []⟩, ioW, live_of (by decide), by decide, by decide, by decide, by decide, by decide, by decide, by decide, by decide⟩,
   ⟨{ stZ with zn := { zones := [(2 ^ 32 + 1, { st := .explicit, fill := 23 })] } }, ⟨⟨4, 9, 2, 36864, 0⟩, 32, 9, ⟨true, false, false, false, 0, 0, 0⟩, true, []⟩, ioW, live_of (by decide), by decide, by decide, by decide, by decide, by decide, by decide, by decide, by decide, by decide⟩⟩

theorem witness_WriteProgress :
    (∃ (s : State) (conn cid : Nat) (u : AdmUnit) (c : Cmd), Live s ∧ s.units.find? (fun v => v.cmd == cmdKey conn cid) = some u ∧ nfind (cmdKey conn cid) s.cmds = some c ∧ (s.core.mode = .pressRun ∨ s.core.mode = .hold) ∧ heldBack s u = false ∧ (s.units.all fun v => v == u || heldBack s v || unitLe u v) = true ∧ roomFor (c.wt || writeThrough s) u.blocks s = true ∧ framesFor c u.blocks s = true ∧ c.inCap = false ∧ c.adm + u.blocks = c.nlb) ∧
    (∃ (s : State) (conn cid : Nat), Live s ∧ s.core.mode ≠ .pressRun ∧ s.core.mode ≠ .hold) ∧
    (∃ (s : State) (conn cid : Nat) (x : Conn) (c : Cmd) (n : Nat), Live s ∧ FreePath conn x s ∧ nfind (cmdKey conn cid) s.cmds = some c ∧ n = min (c.adm - c.asked) (if c.wire = 4104 then 31 else 32) ∧ 0 < n ∧ c.inCap = false ∧ c.bad = none ∧ c.r2ts.length < min 4 (x.maxR2t + 1) ∧ s.ingress + s.reserved + n * c.wire ≤ 3145728) ∧
    (∃ (s : State) (x : H2cData) (cn : Conn) (c : Cmd) (first len got : Nat), Live s ∧ nfind x.conn s.conns = some cn ∧ cn.icDone = true ∧ x.inSequence = true ∧ x.headerOk = true ∧ cn.hdgst = false ∧ cn.ddgst = false ∧ x.len ≤ 131072 ∧ nfind (cmdKey x.conn x.cid) s.cmds = some c ∧ c.r2ts = [(first, len, got)] ∧ 0 < c.wire ∧ x.offset = (first + got) * c.wire ∧ x.len = x.blocks.length * c.wire ∧ 0 < x.blocks.length ∧ got + x.blocks.length < len ∧ c.bad = none ∧ (c.pi.bind fun pi => piFail pi (first + got) x.blocks) = none ∧ c.got + x.blocks.length < c.nlb) ∧
    (∃ (s : State) (conn cid : Nat) (c : Cmd) (at_ : Nat), Live s ∧ cid < 65536 ∧ nfind (cmdKey conn cid) s.cmds = some c ∧ c.op = .write ∧ c.storedAt = some at_ ∧ c.wt = false ∧ c.silent = false ∧ c.r2ts = [] ∧ c.inCap = false ∧ heldPdu s conn = false ∧ (∃ x, nfind conn s.conns = some x ∧ (s.fePort x.port).pause = none)) ∧
    (∃ (s : State) (conn cid : Nat) (c : Cmd) (u : State), Live s ∧ nfind (cmdKey conn cid) s.cmds = some c ∧ c.op = .append ∧ c.ready = true ∧ c.assigned = none ∧ c.wt = false ∧ nextToAssign (cmdKey conn cid) c s = true ∧ nsEvidence s c.ns = false ∧ land (nsSig s c.ns) true c.wt (c.blocks.map fun b => (zoneLbn s (c.zone s) + (s.zone (c.zone s)).fill + b.1, b.2)) s = some u ∧ u.zn = s.zn ∧ u.img = s.img ∧ u.cmds = s.cmds ∧ u.rf = s.rf ∧ (s.zone (c.zone s)).fill + c.nlb < zsze s c.ns ∧ 0 < s.get Reg.Fount.CEILING) :=
  ⟨⟨{ stZ with core := { mode := .pressRun }, rf := regsOf [(Reg.Fount.CEILING, 0, 8), (Reg.FeP.LINK_UP, 2, 1)], cs := { tags := [(0, lineW 0)] }, units := [⟨4 * 65536 + 9, 4, 2, 8, 0, false⟩], cmds := [(4 * 65536 + 9, cmdW)] }, 4, 9, ⟨4 * 65536 + 9, 4, 2, 8, 0, false⟩, cmdW, live_of (by decide), by decide, by decide, by decide, by decide, by decide, by decide, by decide, by decide, by decide⟩,
   ⟨{}, 0, 0, live_of (by decide), by decide, by decide⟩,
   ⟨{ stZ with cmds := [(4 * 65536 + 9, { op := .write, ns := 0, slba := 0, nlb := 40, pi := some ⟨true, false, false, false, 0, 0, 0⟩, ord := 0, at_ := 0, adm := 40 })] }, 4, 9, ioW, { op := .write, ns := 0, slba := 0, nlb := 40, pi := some ⟨true, false, false, false, 0, 0, 0⟩, ord := 0, at_ := 0, adm := 40 }, 32, live_of (by decide), by decide, by decide, by decide, by decide, by decide, by decide, by decide, by decide⟩,
   ⟨{ stZ with cmds := [(4 * 65536 + 9, { op := .write, ns := 0, slba := 0, nlb := 40, pi := some ⟨true, false, false, false, 0, 0, 0⟩, ord := 0, at_ := 0, adm := 40, asked := 32, r2ts := [(0, 32, 30)], got := 30 })] }, ⟨4, 9, 30 * 4096, 4096, true, true, true, true, [⟨1, 0, 0, 0⟩]⟩, ioW, { op := .write, ns := 0, slba := 0, nlb := 40, pi := some ⟨true, false, false, false, 0, 0, 0⟩, ord := 0, at_ := 0, adm := 40, asked := 32, r2ts := [(0, 32, 30)], got := 30 }, 0, 32, 30, live_of (by decide), by decide, by decide, by decide, by decide, by decide, by decide, by decide, by decide, by decide, by decide, by decide, by decide, by decide, by decide, by decide, by decide, by decide⟩,
   ⟨{ stZ with cmds := [(4 * 65536 + 9, { op := .write, ns := 0, slba := 0, nlb := 40, pi := some ⟨true, false, false, false, 0, 0, 0⟩, ord := 0, at_ := 0, adm := 40, storedAt := some 0 })] }, 4, 9, { op := .write, ns := 0, slba := 0, nlb := 40, pi := some ⟨true, false, false, false, 0, 0, 0⟩, ord := 0, at_ := 0, adm := 40, storedAt := some 0 }, 0, live_of (by decide), by decide, by decide, by decide, by decide, by decide, by decide, by decide, by decide, by decide, ⟨ioW, by decide⟩⟩,
   ⟨apW, 4, 9, appendW, (land 0 true false [(256, 7)] apW).getD {}, live_of (by decide), by decide, by decide, by decide, by decide, by decide, by decide, by decide, rfl, rfl, rfl, rfl, rfl, by decide, by decide⟩⟩

theorem witness_ZoneActions :
    (∃ (s : State) (x : ZoneCmd) (c : Conn) (k : Nat), Live s ∧ ZoneReady x c k s ∧ 0 < s.get Reg.Fount.CEILING ∧ (s.zone k).st = .closed ∧ openZones s < 65536) ∧
    (∃ (s : State) (x : ZoneCmd) (c : Conn) (k : Nat), Live s ∧ ZoneReady x c k s ∧ 0 < s.get Reg.Fount.CEILING ∧ (s.zone k).isOpen = true ∧ (s.zone k).reserved = 0) ∧
    (∃ (s : State) (x : ZoneCmd) (c : Conn) (k : Nat), Live s ∧ ZoneReady x c k s ∧ 0 < s.get Reg.Fount.CEILING ∧ (s.zone k).isActive = true ∧ (s.zone k).reserved = 0 ∧ nsEvidence s (k / 2 ^ 32) = false) ∧
    (∃ (s : State) (x : ZoneCmd) (c : Conn) (k : Nat), Live s ∧ ZoneReady x c k s ∧ (s.zone k).st ≠ .readOnly ∧ (s.zone k).st ≠ .offline ∧ (s.zone k).st ≠ .full ∧ nsEvidence s (k / 2 ^ 32) = true) ∧
    (∃ (s : State) (x : ZoneCmd) (c : Conn) (k : Nat), Live s ∧ ZoneReady x c k s ∧ 0 < s.get Reg.Fount.CEILING ∧ ((s.zone k).st = .full ∨ (s.zone k).isActive = true) ∧ (s.zone k).reserved = 0 ∧ nsEvidence s (k / 2 ^ 32) = false) ∧
    (∃ (s : State) (x : ZoneCmd) (c : Conn) (k : Nat), Live s ∧ ZoneReady x c k s ∧ (s.zone k).st ≠ .empty ∧ nsEvidence s (k / 2 ^ 32) = true) ∧
    (∃ (s : State) (x : ZoneCmd) (c : Conn) (k : Nat), Live s ∧ ZoneReady x c k s ∧ 0 < s.get Reg.Fount.CEILING ∧ (s.zone k).st = .readOnly ∧ nsEvidence s (k / 2 ^ 32) = false) :=
  ⟨⟨{ stZ with rf := regsOf [(Reg.Fount.CEILING, 0, 8)], zn := { zones := [(2 ^ 32 + 1, { st := .closed, fill := 3 })] } }, ⟨⟨4, 9, 2, 0, 0⟩, 32, false⟩, ioW, 2 ^ 32 + 1, live_of (by decide), by decide, by decide, by decide, by decide⟩,
   ⟨{ stZ with rf := regsOf [(Reg.Fount.CEILING, 0, 8)], zn := { zones := [(2 ^ 32 + 1, { st := .implicit, fill := 3, slot := some 0 })] } }, ⟨⟨4, 9, 2, 0, 0⟩, 32, false⟩, ioW, 2 ^ 32 + 1, live_of (by decide), by decide, by decide, by decide, by decide⟩,
   ⟨{ stZ with rf := regsOf [(Reg.Fount.CEILING, 0, 8)], img := { eff := some { imgZ with nss := [(1, ⟨true, false, 0, 1, 8, 4, 0⟩)] } }, zn := { zones := [(2 ^ 32 + 1, { st := .implicit, fill := 3, slot := some 0 })] } }, ⟨⟨4, 9, 2, 0, 0⟩, 32, false⟩, ioW, 2 ^ 32 + 1, live_of (by decide), by decide, by decide, by decide, by decide, by decide⟩,
   ⟨{ stZ with rf := regsOf [(Reg.Fount.CEILING, 0, 8)], zn := { zones := [(2 ^ 32 + 1, { st := .implicit, fill := 3, slot := some 0 })] } }, ⟨⟨4, 9, 2, 0, 0⟩, 32, false⟩, ioW, 2 ^ 32 + 1, live_of (by decide), by decide, by decide, by decide, by decide, by decide⟩,
   ⟨{ stZ with rf := regsOf [(Reg.Fount.CEILING, 0, 8)], img := { eff := some { imgZ with nss := [(1, ⟨true, false, 0, 1, 8, 4, 0⟩)] } }, zn := { zones := [(2 ^ 32 + 1, { st := .full, fill := 24 })] } }, ⟨⟨4, 9, 2, 0, 0⟩, 32, false⟩, ioW, 2 ^ 32 + 1, live_of (by decide), by decide, by decide, by decide, by decide, by decide⟩,
   ⟨{ stZ with rf := regsOf [(Reg.Fount.CEILING, 0, 8)], zn := { zones := [(2 ^ 32 + 1, { st := .full, fill := 24 })] } }, ⟨⟨4, 9, 2, 0, 0⟩, 32, false⟩, ioW, 2 ^ 32 + 1, live_of (by decide), by decide, by decide, by decide⟩,
   ⟨{ stZ with rf := regsOf [(Reg.Fount.CEILING, 0, 8)], img := { eff := some { imgZ with nss := [(1, ⟨true, false, 0, 1, 8, 4, 0⟩)] } }, zn := { zones := [(2 ^ 32 + 1, { st := .readOnly, fill := 24 })] } }, ⟨⟨4, 9, 2, 0, 0⟩, 32, false⟩, ioW, 2 ^ 32 + 1, live_of (by decide), by decide, by decide, by decide, by decide⟩⟩

theorem witness_ZoneActionsWhenIdle :
    (∃ (s : State) (n : NsIx) (z conn cid : Nat) (c : Cmd) (x : Conn) (p : ZPend), Live s ∧ (s.zone (zoneKey n.val z)).pend = some p ∧ (s.zone (zoneKey n.val z)).reserved = 0 ∧ 0 < s.get Reg.Fount.CEILING ∧ s.cmds = [(cmdKey conn cid, c)] ∧ c.zones = [zoneKey n.val z] ∧ c.silent = false ∧ c.inCap = false ∧ c.r2ts = [] ∧ cid < 65536 ∧ FreePath conn x s ∧ ((p = .close ∧ c.op = .close) ∨ (p = .finish ∧ c.op = .finish))) ∧
    (∃ (s : State) (n : NsIx) (z conn cid : Nat) (c : Cmd) (x : Conn) (p : ZPend), Live s ∧ (s.zone (zoneKey n.val z)).pend = some p ∧ (s.zone (zoneKey n.val z)).reserved = 0 ∧ 0 < s.get Reg.Fount.CEILING ∧ s.cmds = [(cmdKey conn cid, c)] ∧ c.zones = [zoneKey n.val z] ∧ c.silent = false ∧ c.inCap = false ∧ c.r2ts = [] ∧ cid < 65536 ∧ FreePath conn x s ∧ p = .reset ∧ c.op = .reset) ∧
    (∃ (s : State) (n : NsIx) (z : Nat), Live s ∧ 0 < (s.zone (zoneKey n.val z)).reserved) :=
  ⟨⟨{ stZ with cmds := [(4 * 65536 + 9, { op := .close, ns := 1, slba := 32, nlb := 0, pi := none, ord := 0, at_ := 0, zones := [2 ^ 32 + 1] })], rf := regsOf [(Reg.Fount.CEILING, 0, 8)], img := { eff := some { imgZ with nss := [(1, ⟨true, true, 0, 1, 8, 4, 0⟩)] } }, zn := { zones := [(2 ^ 32 + 1, { st := .explicit, fill := 3, slot := some 0, pend := some .close })] } }, 1, 1, 4, 9, { op := .close, ns := 1, slba := 32, nlb := 0, pi := none, ord := 0, at_ := 0, zones := [2 ^ 32 + 1] }, ioW, .close, live_of (by decide), by decide, by decide, by decide, by decide, by decide, by decide, by decide, by decide, by decide, by decide, by decide⟩,
   ⟨{ stZ with cmds := [(4 * 65536 + 9, { op := .reset, ns := 1, slba := 32, nlb := 0, pi := none, ord := 0, at_ := 0, zones := [2 ^ 32 + 1] })], rf := regsOf [(Reg.Fount.CEILING, 0, 8)], img := { eff := some { imgZ with nss := [(1, ⟨true, false, 0, 1, 8, 4, 0⟩)] } }, zn := { zones := [(2 ^ 32 + 1, { st := .explicit, fill := 3, slot := some 0, pend := some .reset })] } }, 1, 1, 4, 9, { op := .reset, ns := 1, slba := 32, nlb := 0, pi := none, ord := 0, at_ := 0, zones := [2 ^ 32 + 1] }, ioW, .reset, live_of (by decide), by decide, by decide, by decide, by decide, by decide, by decide, by decide, by decide, by decide, by decide, by decide, by decide⟩,
   ⟨{ stZ with rf := regsOf [(Reg.Fount.CEILING, 0, 8)], img := { eff := some { imgZ with nss := [(1, ⟨true, false, 0, 1, 8, 4, 0⟩)] } }, zn := { zones := [(2 ^ 32 + 1, { st := .explicit, fill := 3, reserved := 1, pend := some .reset })] } }, 1, 1, live_of (by decide), by decide⟩⟩

theorem witness_ZoneSealsAndPermits :
    (∃ (s : State) (n : NsIx) (z : Nat) (back : List (Nat × Option Blk)) (y : Seal), Live s ∧ (s.zone (zoneKey n.val z)).sealing = some y ∧ y.final = false ∧ (s.zone (zoneKey n.val z)).reserved = 0 ∧ zoneDamage s (zoneKey n.val z) = [] ∧ s.zn.signQ.length < 64) ∧
    (∃ (s : State) (n : NsIx) (z : Nat) (y : Seal) (a : Nat) (u : State), Live s ∧ s.zn.signQ = [zoneKey n.val z] ∧ (s.zone (zoneKey n.val z)).sealing = some y ∧ y.final = true ∧ y.signAt = some a ∧ 40 ≤ s.since a ∧ 0 < s.get Reg.Fount.CEILING ∧ y.bad = [] ∧ land (nsSig s n.val) true (writeThrough s) [(zoneLbn s (zoneKey n.val z) + zsze s n.val - 1, blkOf (colophon s (zoneKey n.val z) y))] s = some u ∧ u.zn = s.zn ∧ u.img = s.img ∧ u.cmds = s.cmds ∧ u.rf = s.rf ∧ ((∀ e ∈ s.cmds, e.2.op ≠ .finish)) ∧ ((∀ e ∈ s.zn.zones, e.1 ≠ zoneKey n.val z → e.2.sealing = none)) ∧ NMap.wf s.zn.zones) ∧
    (∃ (s : State) (n : NsIx) (z conn cid nonce : Nat) (c : Cmd) (x : Conn), Live s ∧ (s.zone (zoneKey n.val z)).permit = some (nonce, cmdKey conn cid) ∧ (s.zone (zoneKey n.val z)).reserved = 0 ∧ (s.zone (zoneKey n.val z)).sealing = none ∧ 0 < s.get Reg.Fount.CEILING ∧ nfind (cmdKey conn cid) s.cmds = some c ∧ c.op = .permit ∧ c.silent = false ∧ c.inCap = false ∧ c.r2ts = [] ∧ cid < 65536 ∧ FreePath conn x s ∧ ((∀ e ∈ s.cmds, e.2.held = false))) :=
  ⟨⟨{ stZ with rf := regsOf [(Reg.Fount.CEILING, 0, 8)], img := { eff := some { imgZ with nss := [(1, ⟨true, true, 0, 1, 8, 4, 0⟩)] } }, zn := { zones := [(2 ^ 32 + 1, { st := .explicit, fill := 31, slot := some 0, sealing := some { auto := true } })] } }, 1, 1, [], { auto := true }, live_of (by decide), by decide, by decide, by decide, by decide, by decide⟩,
   ⟨{ stZ with core := { imp := 40 }, cs := { tags := [(2, lineW 2)] }, rf := regsOf [(Reg.Fount.CEILING, 0, 8)], img := { eff := some { imgZ with nss := [(1, ⟨true, true, 0, 1, 8, 4, 0⟩)] } }, zn := { zones := [(2 ^ 32 + 1, { st := .explicit, fill := 31, slot := some 0, sealing := some { auto := true, final := true, signAt := some 0 } })], signQ := [2 ^ 32 + 1] } }, 1, 1, { auto := true, final := true, signAt := some 0 }, 0, _, live_of (by decide), by decide, by decide, by decide, by decide, by decide, by decide, by decide, rfl, rfl, rfl, rfl, rfl, by decide, by decide, by decide⟩,
   ⟨{ stZ with cmds := [(4 * 65536 + 9, { op := .permit, ns := 1, slba := 32, nlb := 0, pi := none, ord := 0, at_ := 0 })], rf := regsOf [(Reg.Fount.CEILING, 0, 8)], img := { eff := some { imgZ with nss := [(1, ⟨true, true, 0, 1, 8, 4, 0⟩)] } }, zn := { zones := [(2 ^ 32 + 1, { st := .full, fill := 31, permit := some (5, 4 * 65536 + 9) })] } }, 1, 1, 4, 9, 5, { op := .permit, ns := 1, slba := 32, nlb := 0, pi := none, ord := 0, at_ := 0 }, ioW, live_of (by decide), by decide, by decide, by decide, by decide, by decide, by decide, by decide, by decide, by decide, by decide, by decide, by decide⟩⟩

theorem witness_ZoneReportsAndSnapshot :
    (∃ (s : State) (x : ReportCmd) (c : Conn), Live s ∧ FreePath x.hdr.conn c s ∧ c.icDone = true ∧ c.connected = true ∧ c.admin = false ∧ nfind (cmdKey x.hdr.conn x.hdr.cid) s.cmds = none ∧ ((c.authReq = true → c.authDone = true)) ∧ checkNs false x.hdr c s = none ∧ nsZoned s (x.hdr.nsid - 1) = true ∧ x.hdr.len ≤ 1048576 ∧ x.hdr.inCapsule ≤ 8192 ∧ x.slba < nsSize s (x.hdr.nsid - 1)) ∧
    (∃ (s : State) (x : ReportCmd) (c : Conn), Live s ∧ FreePath x.hdr.conn c s ∧ c.icDone = true ∧ c.connected = true ∧ c.admin = false ∧ nfind (cmdKey x.hdr.conn x.hdr.cid) s.cmds = none ∧ ((c.authReq = true → c.authDone = true)) ∧ checkNs false x.hdr c s = none ∧ nsZoned s (x.hdr.nsid - 1) = true ∧ x.hdr.len ≤ 1048576 ∧ x.hdr.inCapsule ≤ 8192 ∧ nsSize s (x.hdr.nsid - 1) ≤ x.slba) ∧
    (∃ (s : State) (v : RegWord) (k : Nat) (z : Zone), Live s ∧ s.zn.zones.find? (fun p => p.2.slot == some (v.toNat % 65536)) = some (k, z)) ∧
    (∃ (s : State) (v : RegWord), Live s ∧ s.zn.zones.find? (fun p => p.2.slot == some (v.toNat % 65536)) = none) :=
  ⟨⟨stZ, ⟨⟨4, 9, 2, 128, 0⟩, 32, 0, 1⟩, ioW, live_of (by decide), by decide, by decide, by decide, by decide, by decide, by decide, by decide, by decide, by decide, by decide, by decide⟩,
   ⟨stZ, ⟨⟨4, 9, 2, 128, 0⟩, 128, 0, 1⟩, ioW, live_of (by decide), by decide, by decide, by decide, by decide, by decide, by decide, by decide, by decide, by decide, by decide, by decide⟩,
   ⟨{ stZ with zn := { zones := [(2 ^ 32 + 1, { st := .implicit, slot := some 3 })] } }, 3, 2 ^ 32 + 1, { st := .implicit, slot := some 3 }, live_of (by decide), by decide⟩,
   ⟨{ stZ with zn := { zones := [(2 ^ 32 + 1, { st := .implicit, slot := some 3 })] } }, 4, live_of (by decide), by decide⟩⟩

theorem witness_ReadsServed :
    (∃ (s : State) (x : IoCmd) (c : Conn) (v : Nat → RdVal), Live s ∧ IoReady x c false s ∧ x.hdr.cid < 65536 ∧ (∀ j < x.nlb, readFrom s (nsSig s (x.hdr.nsid - 1)) (nsStart s (x.hdr.nsid - 1) + x.slba + j) = .found (v j) ∧ (v j).lost = false)) ∧
    (∃ (s : State) (x : IoCmd) (c : Conn) (t0 p0 b0 : Nat), Live s ∧ IoReady x c false s ∧ 0 < x.nlb ∧ (∀ j < x.nlb, readFrom s (nsSig s (x.hdr.nsid - 1)) (nsStart s (x.hdr.nsid - 1) + x.slba + j) = .drive t0 p0 (b0 + j))) ∧
    (∃ (s : State) (p : DrvPortIx) (tag conn cid : Nat) (b : RdBlk) (k : DrvCmd) (c : Cmd) (x : Conn) (v : RdVal), Live s ∧ nfind tag (s.drivePort p.val).cmds = some k ∧ (s.drivePort p.val).queue = [] ∧ k.write = false ∧ k.use = .fg ∧ k.n = 1 ∧ verify s k.sig k.sheet k.pos k.b0 b = .good v ∧ v.lost = false ∧ inHb s k.sig (lbnAt s k.sig k.sheet k.pos k.b0) = false ∧ s.cmds = [(cmdKey conn cid, c)] ∧ c.op = .read ∧ c.nlb = 1 ∧ c.need = [k.sig * 2 ^ 48 + lbnAt s k.sig k.sheet k.pos k.b0] ∧ lbnAt s k.sig k.sheet k.pos k.b0 = nsStart s c.ns + c.slba ∧ c.silent = false ∧ c.inCap = false ∧ c.r2ts = [] ∧ cid < 65536 ∧ FreePath conn x s) ∧
    (∃ (s : State) (x : SheetId) (o : RdOffset) (l : LostOff) (vs : List PosVal) (p conn cid : Nat) (y : List Blk × Blk × Blk) (c : Cmd) (cn : Conn), Live s ∧ s.lost.find? (fun z => z.sig == x.sig.val && z.sheet == x.sheet && z.off == o.offset) = some l ∧ resyncWaits s x.sig.val x.sheet = false ∧ vs = lookAt s x.sig.val x.sheet l.off l.bad o.got ∧ owedPos vs = [] ∧ lostData vs = [p] ∧ badPos vs = [(p, false)] ∧ solveAt true vs = some y ∧ (s.sigSt x.sig.val).k.hbUnknown = false ∧ (s.sigSt x.sig.val).k.mems = [] ∧ inHb s x.sig.val (lbnAt s x.sig.val x.sheet p l.off) = false ∧ s.cmds = [(cmdKey conn cid, c)] ∧ c.op = .read ∧ c.asked = 0 ∧ c.nlb = 1 ∧ c.need = [x.sig.val * 2 ^ 48 + lbnAt s x.sig.val x.sheet p l.off] ∧ lbnAt s x.sig.val x.sheet p l.off = nsStart s c.ns + c.slba ∧ c.silent = false ∧ c.inCap = false ∧ c.r2ts = [] ∧ cid < 65536 ∧ FreePath conn cn s) :=
  ⟨⟨{ stD with cs := { tags := [(0, heldW)] } }, ⟨⟨4, 9, 1, 4096, 0⟩, 0, 1, ⟨true, false, false, false, 0, 0, 0⟩, true, []⟩, ioW, fun _ => ⟨7, false, false⟩, live_of (by decide), by decide, by decide, by decide⟩,
   ⟨stD, ⟨⟨4, 9, 1, 8192, 0⟩, 0, 2, ⟨true, false, false, false, 0, 0, 0⟩, true, []⟩, ioW, 0, 0, 0, live_of (by decide), by decide, by decide, by decide⟩,
   ⟨{ stD with drvs := [(0, { drvW with cmds := [(5, fgW)] })], cmds := [(4 * 65536 + 9, readW)] }, 0, 5, 4, 9, ⟨true, 0, 0, 0xFFFF, 0⟩, fgW, readW, ioW, ⟨0, true, false⟩, live_of (by decide), by decide, by decide, by decide, by decide, by decide, by decide, by decide, by decide, by decide, by decide, by decide, by decide, by decide, by decide, by decide, by decide, by decide, by decide⟩,
   ⟨{ stD with drvs := [(0, drvW), (1, drvW)], lost := [⟨0, 0, 0, [(0, false)]⟩], cmds := [(4 * 65536 + 9, readW)] }, ⟨0, 0⟩, ⟨0, [⟨1, ⟨true, 0, 0, 0xFFFF, 0⟩⟩]⟩, ⟨0, 0, 0, [(0, false)]⟩, [.bad false, .good 0 true, .gone], 0, 4, 9, ((solveAt true [.bad false, .good 0 true, .gone]).get (by decide)), readW, ioW, live_of (by decide), by decide, by decide, rfl, by decide, by decide, by decide, (Option.some_get _).symm, by decide, by decide, by decide, by decide, by decide, by decide, by decide, by decide, by decide, by decide, by decide, by decide, by decide, by decide⟩⟩

theorem witness_SignatureSnapshots :
    (∃ (s : State) (g : SigIx) (v : RegWord) (i : Imposition) (m : Member), Live s ∧ impOf s g.val = some i ∧ v.toNat % 128 < i.n ∧ i.members[v.toNat % 128]? = some m) ∧
    (∃ (s : State) (g : SigIx) (v : RegWord) (i : Imposition), Live s ∧ impOf s g.val = some i ∧ i.n ≤ v.toNat % 128) ∧
    (∃ (s : State) (g : SigIx) (i : Imposition) (t0 p0 : Nat), Live s ∧ impOf s g.val = some i ∧ t0 = (s.get Reg.Sig.MAP_SHEET_LO g.val + 2 ^ 32 * s.get Reg.Sig.MAP_SHEET_HI g.val) ∧ p0 = (s.get Reg.Sig.MAP_POS g.val) ∧ t0 < (s.sigSt g.val).sheets ∧ p0 < i.w) ∧
    (∃ (s : State) (g : SigIx) (i : Imposition) (t0 p0 : Nat), Live s ∧ impOf s g.val = some i ∧ t0 = (s.get Reg.Sig.MAP_SHEET_LO g.val + 2 ^ 32 * s.get Reg.Sig.MAP_SHEET_HI g.val) ∧ p0 = (s.get Reg.Sig.MAP_POS g.val) ∧ ((s.sigSt g.val).sheets ≤ t0 ∨ i.w ≤ p0)) ∧
    (∃ (s : State) (g : SigIx) (v : RegWord) (a m c : Nat), Live s ∧ (s.sigSt g.val).k.hb[v.toNat % 65536]? = some (a, m, c)) ∧
    (∃ (s : State) (g : SigIx) (v : RegWord), Live s ∧ (s.sigSt g.val).k.hb[v.toNat % 65536]? = none) ∧
    (∃ (s : State) (g : SigIx) (v : RegWord), Live s) ∧
    (∃ (s : State) (g : SigIx) (v : RegWord) (e : FailEnt), Live s ∧ nfind (v.toNat % 8) (s.sigSt g.val).k.ents = some e) ∧
    (∃ (s : State) (g : SigIx) (v : RegWord), Live s ∧ nfind (v.toNat % 8) (s.sigSt g.val).k.ents = none) ∧
    (∃ (s : State) (v : RegWord) (c w : Nat), Live s ∧ c = v.toNat % 4 ∧ w = v.toNat / 256 % 32 ∧ w ≤ 19) ∧
    (∃ (s : State) (v : RegWord), Live s ∧ 19 < v.toNat / 256 % 32) :=
  ⟨⟨stZ, 0, 2, impW, ⟨2, 0⟩, live_of (by decide), by decide, by decide, by decide⟩,
   ⟨stZ, 0, 3, impW, live_of (by decide), by decide, by decide⟩,
   ⟨{ stZ with sigs := [(0, { sheets := 24 })] }, 0, impW, 0, 0, live_of (by decide), by decide, by decide, by decide, by decide, by decide⟩,
   ⟨{ stZ with sigs := [(0, { sheets := 0 })] }, 0, impW, 0, 0, live_of (by decide), by decide, by decide, by decide, by decide⟩,
   ⟨{ stZ with sigs := [(0, { k := { hb := [(9, (2, 3))] } })] }, 0, 0, 9, 2, 3, live_of (by decide), by decide⟩,
   ⟨stZ, 0, 7, live_of (by decide), by decide⟩,
   ⟨stZ, 0, 7, live_of (by decide)⟩,
   ⟨{ stZ with sigs := [(0, { k := { ents := [(2, { drive := 1, cause := 4, st := .rebuild, low := 0, high := 24, n := 3 })] } })] }, 0, 2, { drive := 1, cause := 4, st := .rebuild, low := 0, high := 24, n := 3 }, live_of (by decide), by decide⟩,
   ⟨stZ, 0, 2, live_of (by decide), by decide⟩,
   ⟨stZ, 19 * 256 + 2, 2, 19, live_of (by decide), by decide, by decide, by decide⟩,
   ⟨stZ, 20 * 256, live_of (by decide), by decide⟩⟩

theorem witness_FlushAndItsEnd :
    (∃ (s : State) (h : CmdHdr) (c : Conn), Live s ∧ FreePath h.conn c s ∧ c.icDone = true ∧ c.connected = true ∧ c.admin = false ∧ nfind (cmdKey h.conn h.cid) s.cmds = none ∧ ((c.authReq = true → c.authDone = true)) ∧ h.nsid ≠ 0xFFFFFFFF ∧ checkNs false h c s = none ∧ h.len = 0 ∧ h.inCapsule ≤ 8192) ∧
    (∃ (s : State) (conn cid : Nat) (c : Cmd) (x : Conn), Live s ∧ nfind (cmdKey conn cid) s.cmds = some c ∧ c.op = .flush ∧ c.at_ < s.core.imp ∧ ((∀ b ∈ c.need, stillDirty s c.ord b = false)) ∧ c.silent = false ∧ c.inCap = false ∧ c.r2ts = [] ∧ cid < 65536 ∧ FreePath conn x s) ∧
    (∃ (s : State) (conn cid : Nat) (c : Cmd) (b : Nat), Live s ∧ nfind (cmdKey conn cid) s.cmds = some c ∧ c.op = .flush ∧ c.at_ < s.core.imp ∧ b ∈ c.need ∧ stillDirty s c.ord b = true) ∧
    (∃ (s : State) (conn cid : Nat) (c : Cmd), Live s ∧ nfind (cmdKey conn cid) s.cmds = some c ∧ s.core.imp ≤ c.at_) :=
  ⟨⟨stZ, ⟨4, 9, 1, 0, 0⟩, ioW, live_of (by decide), by decide, by decide, by decide, by decide, by decide, by decide, by decide, by decide, by decide, by decide⟩,
   ⟨{ stZ with core := { imp := 5 }, cmds := [(4 * 65536 + 9, { op := .flush, ns := 0, slba := 0, nlb := 0, pi := none, ord := 3, at_ := 0, need := [0] })] }, 4, 9, { op := .flush, ns := 0, slba := 0, nlb := 0, pi := none, ord := 3, at_ := 0, need := [0] }, ioW, live_of (by decide), by decide, by decide, by decide, by decide, by decide, by decide, by decide, by decide, by decide⟩,
   ⟨{ stZ with core := { imp := 5 }, cs := { tags := [(0, { lineW 0 with cells := [(0, { data := 7, dirty := true })] })] }, cmds := [(4 * 65536 + 9, { op := .flush, ns := 0, slba := 0, nlb := 0, pi := none, ord := 3, at_ := 0, need := [0, 1] })] }, 4, 9, { op := .flush, ns := 0, slba := 0, nlb := 0, pi := none, ord := 3, at_ := 0, need := [0, 1] }, 0, live_of (by decide), by decide, by decide, by decide, by decide, by decide⟩,
   ⟨{ stZ with cmds := [(4 * 65536 + 9, { op := .flush, ns := 0, slba := 0, nlb := 0, pi := none, ord := 3, at_ := 0 })] }, 4, 9, { op := .flush, ns := 0, slba := 0, nlb := 0, pi := none, ord := 3, at_ := 0 }, live_of (by decide), by decide, by decide⟩⟩

theorem witness_RepairsAndScrubbing :
    (∃ (s : State) (x : SheetId) (p : Nat) (r : Repair) (b : Nat) (v : RdVal) (a : Nat × Nat), Live s ∧ repairOf s x.sig.val x.sheet p (· == 0) = some r ∧ r.blocks = [(b, v)] ∧ r.silent = false ∧ r ∈ s.repairs ∧ sheetBusy s x.sig.val x.sheet = false ∧ (s.lost.any fun y => y.sig == x.sig.val && y.sheet == x.sheet && y.bad.any fun z => z.1 == p) = false ∧ drivesRun s.core.mode = true ∧ locate s x.sig.val x.sheet p false = some a ∧ (s.sigSt x.sig.val).k.mems = []) ∧
    (∃ (s : State) (x : SheetId) (p : Nat) (r : Repair), Live s ∧ repairOf s x.sig.val x.sheet p (· == 1) = some r) ∧
    (∃ (s : State) (x : SheetId) (p : Nat) (r : Repair), Live s ∧ repairOf s x.sig.val x.sheet p (fun n => n == 2 || n == 3) = some r ∧ r.stage = 2) ∧
    (∃ (s : State) (x : SheetId) (p : Nat) (r : Repair), Live s ∧ repairOf s x.sig.val x.sheet p (fun n => n == 2 || n == 3) = some r ∧ r.stage = 3) ∧
    (∃ (s : State), Live s ∧ s.corrHour < s.core.opImp / 450000000) ∧
    (∃ (s : State), Live s ∧ s.core.opImp / 450000000 ≤ s.corrHour) ∧
    (∃ (s : State) (g : SigIx) (r : List RdOffset), Live s ∧ proofRuns s g.val = true ∧ (s.sigSt g.val).lapOpen = true ∧ nextProof s g.val = none) :=
  ⟨⟨{ stD with repairs := [{ sig := 0, sheet := 0, pos := 0, blocks := [(3, ⟨9, false, false⟩)], stage := 0, tries := 0 }] }, ⟨0, 0⟩, 0, { sig := 0, sheet := 0, pos := 0, blocks := [(3, ⟨9, false, false⟩)], stage := 0, tries := 0 }, 3, ⟨9, false, false⟩, (0, 0), live_of (by decide), by decide, by decide, by decide, by decide, by decide, by decide, by decide, by decide, by decide⟩,
   ⟨{ stD with repairs := [{ sig := 0, sheet := 0, pos := 0, blocks := [(3, ⟨9, false, false⟩)], stage := 1, tries := 1 }] }, ⟨0, 0⟩, 0, { sig := 0, sheet := 0, pos := 0, blocks := [(3, ⟨9, false, false⟩)], stage := 1, tries := 1 }, live_of (by decide), by decide⟩,
   ⟨{ stD with repairs := [{ sig := 0, sheet := 0, pos := 0, blocks := [(3, ⟨9, false, false⟩)], stage := 2, tries := 1 }] }, ⟨0, 0⟩, 0, { sig := 0, sheet := 0, pos := 0, blocks := [(3, ⟨9, false, false⟩)], stage := 2, tries := 1 }, live_of (by decide), by decide, by decide⟩,
   ⟨{ stD with repairs := [{ sig := 0, sheet := 0, pos := 0, blocks := [(3, ⟨9, false, false⟩)], stage := 3, tries := 1 }] }, ⟨0, 0⟩, 0, { sig := 0, sheet := 0, pos := 0, blocks := [(3, ⟨9, false, false⟩)], stage := 3, tries := 1 }, live_of (by decide), by decide, by decide⟩,
   ⟨{ stD with core := { opImp := 450000000 } }, live_of (by decide), by decide⟩,
   ⟨stD, live_of (by decide), by decide⟩,
   ⟨{ stD with sigs := [(0, { inService := true, lapOpen := true, sheets := 3, k := { proofPos := 3 } })], rf := regsOf [(Reg.Sig.PROOF_EN, 0, 1)] }, 0, [], live_of (by decide), by decide, by decide, by decide⟩⟩

theorem witness_GaugeSamplesAndReferences :
    (∃ (s : State) (x : GaugeIn), Live s ∧ s.fnt.hibernating = false ∧ s.fnt.absent = false ∧ s.fnt.oneKhz = false ∧ 1900 ≤ x.cell0Mv ∧ 1900 ≤ x.cell1Mv) ∧
    (∃ (s : State) (a : Nat), Live s ∧ s.fnt.restAt = some a ∧ 7500000 ≤ s.since a ∧ s.fnt.hibernating = false) ∧
    (∃ (s : State), Live s) ∧
    (∃ (s : State), Live s ∧ s.fnt.hibernating = true ∧ 450000000 ≤ s.since s.fnt.hibAt) ∧
    (∃ (s : State) (a : Nat), Live s ∧ s.fnt.restAt = some a ∧ 225000000 ≤ s.since a ∧ s.fnt.socV - s.fnt.anchor < 4 / 10 ∧ -(4 / 10) < s.fnt.socV - s.fnt.anchor ∧ s.fnt.rVals = [] ∧ s.fnt.calAt = none) ∧
    (∃ (s : State), Live s ∧ 450000000 ≤ s.core.opImp - s.fnt.gsbAt) ∧
    (∃ (s : State), Live s) ∧
    (∃ (s : State), Live s ∧ s.core.mode = .keyWait ∧ gsbValid (s.ask Reg.Fount.GSB_LOAD) (gsbIn (s.ask Reg.Fount.GSB_LOAD)) = false) ∧
    (∃ (s : State), Live s ∧ s.core.mode = .keyWait ∧ gsbValid (s.ask Reg.Fount.GSB_LOAD) (gsbIn (s.ask Reg.Fount.GSB_LOAD)) = true) ∧
    (∃ (s : State), Live s ∧ s.core.mode = .keyWait) :=
  ⟨⟨stD, ⟨120, 2400, 2410, 251, 15⟩, live_of (by decide), by decide, by decide, by decide, by decide, by decide⟩,
   ⟨{ stD with core := { imp := 7500000 }, fnt := { restAt := some 0 } }, 0, live_of (by decide), by decide, by decide, by decide⟩,
   ⟨stD, live_of (by decide)⟩,
   ⟨{ stD with core := { imp := 450000000 }, fnt := { hibernating := true } }, live_of (by decide), by decide, by decide⟩,
   ⟨{ stD with core := { imp := 225000000 }, fnt := { restAt := some 0 } }, 0, live_of (by decide), by decide, by decide, by show (0 : Rat) - 0 < 4 / 10; norm_num, by show -(4 / 10) < (0 : Rat) - 0; norm_num, by decide, by decide⟩,
   ⟨{ stD with core := { opImp := 450000000 } }, live_of (by decide), by decide⟩,
   ⟨stD, live_of (by decide)⟩,
   ⟨{ stD with core := { mode := .keyWait } }, live_of (by decide), by decide, by decide⟩,
   ⟨{ stD with core := { mode := .keyWait }, fnt := { packId := some 7 }, rf := regsOf [(Reg.Fount.GSB_IN, 0, 1196769607), (Reg.Fount.GSB_IN, 1, 1), (Reg.Fount.GSB_IN, 2, 7), (Reg.Fount.GSB_IN, 4, 4680000), (Reg.Fount.GSB_IN, 5, 197208), (Reg.Fount.GSB_IN, 15, 3515793143)] }, live_of (by decide), by decide, by decide +kernel⟩,
   ⟨{ stD with core := { mode := .keyWait } }, live_of (by decide), by decide⟩⟩

theorem witness_ChargerAndPackLow :
    (∃ (s : State) (a : Nat), Live s ∧ s.fnt.eocAt = some a ∧ s.fnt.chg = 2 ∧ 37500000 ≤ s.since a) ∧
    (∃ (s : State), Live s ∧ (2800 < s.get Reg.Fount.CELL0_V ∨ 2800 < s.get Reg.Fount.CELL1_V) ∧ s.fnt.faulted = false) ∧
    (∃ (s : State) (a : Nat), Live s ∧ s.fnt.voltOkAt = some a ∧ s.fnt.packLow = true ∧ s.fnt.absent = false ∧ s.fnt.unfit = false ∧ 125000 ≤ s.since a) ∧
    (∃ (s : State), Live s) ∧
    (∃ (s : State) (a : Nat), Live s ∧ s.fnt.calAt = some a ∧ 300000000 ≤ s.since a) ∧
    (∃ (s : State) (mv : Nat), Live s ∧ mv < 11500 ∧ s.fnt.absent = false) :=
  ⟨⟨{ stD with core := { imp := 37500000 }, fnt := { eocAt := some 0, chg := 2 } }, 0, live_of (by decide), by decide, by decide, by decide⟩,
   ⟨{ stD with rf := regsOf [(Reg.Fount.CELL0_V, 0, 2801)] }, live_of (by decide), by decide, by decide⟩,
   ⟨{ stD with core := { imp := 125000 }, fnt := { voltOkAt := some 0, packLow := true } }, 0, live_of (by decide), by decide, by decide, by decide, by decide, by decide⟩,
   ⟨stD, live_of (by decide)⟩,
   ⟨{ stD with core := { imp := 300000000 }, fnt := { calAt := some 0 } }, 0, live_of (by decide), by decide, by decide⟩,
   ⟨stD, 11000, live_of (by decide), by decide, by decide⟩⟩

theorem witness_InputStagesAndHold :
    (∃ (s : State) (b : Bool) (mv : Nat), Live s ∧ 8800 < mv ∧ (s.input b).faultAt = none ∧ (s.input b).latched = false) ∧
    (∃ (s : State) (b : Bool), Live s ∧ s.core.mode = .pressRun ∧ s.pins.fPf = false ∧ (s.input (!b)).low < 2 ∧ (s.input b).low < 2) ∧
    (∃ (s : State) (b : Bool) (a : Nat), Live s ∧ (s.input b).faultAt = some a ∧ 125000 ≤ s.since a) ∧
    (∃ (s : State) (b : Bool) (mv : Nat), Live s ∧ 64000 < mv ∧ s.core.mode = .pressRun ∧ s.pins.fPf = false ∧ (s.input (!b)).low < 2 ∧ (s.input b).low < 2) ∧
    (∃ (s : State) (b : Bool) (mv : Nat), Live s ∧ mv < 7500 ∧ s.core.mode = .pressRun ∧ s.pins.fPf = false ∧ (s.input (!b)).low < 2 ∧ (s.input b).low < 2) ∧
    (∃ (s : State) (b : Bool) (mv : Nat), Live s ∧ mv < 8500 ∧ (s.input b).low = 0) ∧
    (∃ (s : State) (b : Bool) (mv : Nat), Live s ∧ mv < 8500 ∧ (s.input b).low = 1 ∧ (s.input b).lowAt < s.core.imp ∧ s.core.mode = .pressRun ∧ s.pins.fPf = false ∧ (s.input (!b)).low < 2) ∧
    (∃ (s : State) (b : Bool) (mv : Nat), Live s ∧ 9000 ≤ mv ∧ (s.input b).faultAt = none ∧ (s.input b).latched = false ∧ s.core.mode = .pressRun ∧ s.pins.fPf = false) ∧
    (∃ (s : State), Live s ∧ s.core.mode = .pressRun ∧ s.cast.due = none ∧ s.pins.fPf = false ∧ s.pins.pfIgnored = false ∧ (s.pins.pfEdges.filter fun t => s.since t < 125000).length < 15 ∧ s.get Reg.Fount.RIDE_MS ≠ 0 ∧ s.fnt.calAt = none) ∧
    (∃ (s : State), Live s ∧ s.core.mode = .hold ∧ s.cast.due = none ∧ s.pins.fPf = true ∧ s.pins.pfIgnored = false ∧ (s.pins.pfEdges.filter fun t => s.since t < 125000).length < 15 ∧ inputsLost s = false ∧ anyHealthy s = true ∧ s.get Reg.Cast.RELEASE_GO = 0 ∧ s.cast.attn = false) ∧
    (∃ (s : State), Live s ∧ s.core.mode = .castDone ∧ s.pins.fPf = true ∧ s.pins.pfIgnored = false ∧ anyHealthy s = true ∧ 7500000 ≤ s.since (max s.pins.pfSince s.core.entered)) ∧
    (∃ (s : State), Live s ∧ s.pins.pfIgnored = true ∧ s.pins.fPf = false ∧ 125000 ≤ s.since s.pins.pfSince) :=
  ⟨⟨stD, true, 9000, live_of (by decide), by decide, by decide, by decide⟩,
   ⟨{ stD with fnt := { inA := { low := 0 }, inB := { low := 0 } } }, false, live_of (by decide), by decide, by decide, by decide, by decide⟩,
   ⟨{ stD with core := { imp := 125000 }, fnt := { inA := { faultAt := some 0 } } }, false, 0, live_of (by decide), by decide, by decide⟩,
   ⟨{ stD with fnt := { inA := { low := 0 }, inB := { low := 0 } } }, true, 65000, live_of (by decide), by decide, by decide, by decide, by decide, by decide⟩,
   ⟨{ stD with fnt := { inA := { low := 0 }, inB := { low := 0 } } }, true, 7000, live_of (by decide), by decide, by decide, by decide, by decide, by decide⟩,
   ⟨{ stD with fnt := { inA := { low := 0 }, inB := { low := 0 } } }, true, 8000, live_of (by decide), by decide, by decide⟩,
   ⟨{ stD with core := { imp := 5, mode := .pressRun }, fnt := { inA := { low := 0 }, inB := { low := 1 } } }, true, 8000, live_of (by decide), by decide, by decide, by decide, by decide, by decide, by decide⟩,
   ⟨stD, true, 9500, live_of (by decide), by decide, by decide, by decide, by decide, by decide⟩,
   ⟨{ stD with fnt := { inA := { low := 0 }, inB := { low := 0 } }, rf := regsOf [(Reg.Fount.RIDE_MS, 0, 100)] }, live_of (by decide), by decide, by decide, by decide, by decide, by decide, by decide, by decide⟩,
   ⟨{ stD with core := { mode := .hold, imp := 9 }, pins := { fPf := true }, fnt := { inA := { low := 0, healthy := true }, inB := { low := 0 } } }, live_of (by decide), by decide, by decide, by decide, by decide, by decide, by decide, by decide, by decide, by decide⟩,
   ⟨{ stD with core := { mode := .castDone, imp := 7500000 }, pins := { fPf := true }, fnt := { inA := { healthy := true } } }, live_of (by decide), by decide, by decide, by decide, by decide, by decide⟩,
   ⟨{ stD with core := { imp := 125000 }, pins := { pfIgnored := true } }, live_of (by decide), by decide, by decide, by decide⟩⟩

theorem witness_CommonCommandCodes :
    (∃ (s : State) (a : Nat), Live s ∧ sdrOn s = true ∧ hasAddr s = false) ∧
    (∃ (s : State) (a : Nat), Live s ∧ sdrOn s = true ∧ hasAddr s = false) ∧
    (∃ (s : State) (a : Nat), Live s ∧ sdrOn s = true ∧ hasAddr s = true) ∧
    (∃ (s : State) (a : Nat), Live s ∧ sdrOn s = true ∧ hasAddr s = true) ∧
    (∃ (s : State), Live s ∧ sdrOn s = true) ∧
    (∃ (s : State), Live s ∧ sdrOn s = true ∧ hasAddr s = true) ∧
    (∃ (s : State), Live s ∧ sdrOn s = true ∧ hasAddr s = true) ∧
    (∃ (s : State), Live s ∧ sdrOn s = true ∧ hasAddr s = true) ∧
    (∃ (s : State), Live s ∧ sdrOn s = true ∧ hasAddr s = true) ∧
    (∃ (s : State), Live s ∧ sdrOn s = true ∧ hasAddr s = true) ∧
    (∃ (s : State), Live s ∧ sdrOn s = true ∧ hasAddr s = true) ∧
    (∃ (s : State), Live s ∧ sdrOn s = true ∧ hasAddr s = true) ∧
    (∃ (s : State) (bits : Nat), Live s ∧ sdrOn s = true) ∧
    (∃ (s : State) (bits : Nat), Live s ∧ sdrOn s = true) ∧
    (∃ (s : State) (v : Nat), Live s ∧ sdrOn s = true) ∧
    (∃ (s : State) (v : Nat), Live s ∧ sdrOn s = true) ∧
    (∃ (s : State) (a : Nat), Live s ∧ sdrOn s = true ∧ a ≤ 2) ∧
    (∃ (s : State) (a : Nat), Live s ∧ sdrOn s = true ∧ 2 < a) ∧
    (∃ (s : State) (code : Nat), Live s ∧ sdrOn s = true) ∧
    (∃ (s : State) (code : Nat), Live s) ∧
    (∃ (s : State), Live s ∧ sdrOn s = true) ∧
    (∃ (s : State) (n : Nat), Live s ∧ sdrOn s = true) :=
  ⟨⟨{ stD with core := { mode := .pressRun } }, 9, live_of (by decide), by decide, by decide⟩,
   ⟨{ stD with core := { mode := .pressRun } }, 9, live_of (by decide), by decide, by decide⟩,
   ⟨{ stD with core := { mode := .pressRun }, rf := regsOf [(Reg.Hif.DYN_ADDR, 0, 9), (Reg.Hif.IBI_ENABLED, 0, 1), (Reg.Hif.MWL, 0, 256), (Reg.Hif.MRL, 0, 64)] }, 9, live_of (by decide), by decide, by decide⟩,
   ⟨{ stD with core := { mode := .pressRun }, rf := regsOf [(Reg.Hif.DYN_ADDR, 0, 9), (Reg.Hif.IBI_ENABLED, 0, 1), (Reg.Hif.MWL, 0, 256), (Reg.Hif.MRL, 0, 64)] }, 9, live_of (by decide), by decide, by decide⟩,
   ⟨{ stD with core := { mode := .pressRun }, rf := regsOf [(Reg.Hif.DYN_ADDR, 0, 9), (Reg.Hif.IBI_ENABLED, 0, 1), (Reg.Hif.MWL, 0, 256), (Reg.Hif.MRL, 0, 64)] }, live_of (by decide), by decide⟩,
   ⟨{ stD with core := { mode := .pressRun }, rf := regsOf [(Reg.Hif.DYN_ADDR, 0, 9), (Reg.Hif.IBI_ENABLED, 0, 1), (Reg.Hif.MWL, 0, 256), (Reg.Hif.MRL, 0, 64)] }, live_of (by decide), by decide, by decide⟩,
   ⟨{ stD with core := { mode := .pressRun }, rf := regsOf [(Reg.Hif.DYN_ADDR, 0, 9), (Reg.Hif.IBI_ENABLED, 0, 1), (Reg.Hif.MWL, 0, 256), (Reg.Hif.MRL, 0, 64)] }, live_of (by decide), by decide, by decide⟩,
   ⟨{ stD with core := { mode := .pressRun }, rf := regsOf [(Reg.Hif.DYN_ADDR, 0, 9), (Reg.Hif.IBI_ENABLED, 0, 1), (Reg.Hif.MWL, 0, 256), (Reg.Hif.MRL, 0, 64)] }, live_of (by decide), by decide, by decide⟩,
   ⟨{ stD with core := { mode := .pressRun }, rf := regsOf [(Reg.Hif.DYN_ADDR, 0, 9), (Reg.Hif.IBI_ENABLED, 0, 1), (Reg.Hif.MWL, 0, 256), (Reg.Hif.MRL, 0, 64)] }, live_of (by decide), by decide, by decide⟩,
   ⟨{ stD with core := { mode := .pressRun }, rf := regsOf [(Reg.Hif.DYN_ADDR, 0, 9), (Reg.Hif.IBI_ENABLED, 0, 1), (Reg.Hif.MWL, 0, 256), (Reg.Hif.MRL, 0, 64)] }, live_of (by decide), by decide, by decide⟩,
   ⟨{ stD with core := { mode := .pressRun }, rf := regsOf [(Reg.Hif.DYN_ADDR, 0, 9), (Reg.Hif.IBI_ENABLED, 0, 1), (Reg.Hif.MWL, 0, 256), (Reg.Hif.MRL, 0, 64)] }, live_of (by decide), by decide, by decide⟩,
   ⟨{ stD with core := { mode := .pressRun }, rf := regsOf [(Reg.Hif.DYN_ADDR, 0, 9), (Reg.Hif.IBI_ENABLED, 0, 1), (Reg.Hif.MWL, 0, 256), (Reg.Hif.MRL, 0, 64)] }, live_of (by decide), by decide, by decide⟩,
   ⟨{ stD with core := { mode := .pressRun }, rf := regsOf [(Reg.Hif.DYN_ADDR, 0, 9), (Reg.Hif.IBI_ENABLED, 0, 1), (Reg.Hif.MWL, 0, 256), (Reg.Hif.MRL, 0, 64)] }, 1, live_of (by decide), by decide⟩,
   ⟨{ stD with core := { mode := .pressRun }, rf := regsOf [(Reg.Hif.DYN_ADDR, 0, 9), (Reg.Hif.IBI_ENABLED, 0, 1), (Reg.Hif.MWL, 0, 256), (Reg.Hif.MRL, 0, 64)] }, 1, live_of (by decide), by decide⟩,
   ⟨{ stD with core := { mode := .pressRun }, rf := regsOf [(Reg.Hif.DYN_ADDR, 0, 9), (Reg.Hif.IBI_ENABLED, 0, 1), (Reg.Hif.MWL, 0, 256), (Reg.Hif.MRL, 0, 64)] }, 5000, live_of (by decide), by decide⟩,
   ⟨{ stD with core := { mode := .pressRun }, rf := regsOf [(Reg.Hif.DYN_ADDR, 0, 9), (Reg.Hif.IBI_ENABLED, 0, 1), (Reg.Hif.MWL, 0, 256), (Reg.Hif.MRL, 0, 64)] }, 5000, live_of (by decide), by decide⟩,
   ⟨{ stD with core := { mode := .pressRun }, rf := regsOf [(Reg.Hif.DYN_ADDR, 0, 9), (Reg.Hif.IBI_ENABLED, 0, 1), (Reg.Hif.MWL, 0, 256), (Reg.Hif.MRL, 0, 64)] }, 2, live_of (by decide), by decide, by decide⟩,
   ⟨{ stD with core := { mode := .pressRun }, rf := regsOf [(Reg.Hif.DYN_ADDR, 0, 9), (Reg.Hif.IBI_ENABLED, 0, 1), (Reg.Hif.MWL, 0, 256), (Reg.Hif.MRL, 0, 64)] }, 3, live_of (by decide), by decide, by decide⟩,
   ⟨{ stD with core := { mode := .pressRun }, rf := regsOf [(Reg.Hif.DYN_ADDR, 0, 9), (Reg.Hif.IBI_ENABLED, 0, 1), (Reg.Hif.MWL, 0, 256), (Reg.Hif.MRL, 0, 64)] }, 0x99, live_of (by decide), by decide⟩,
   ⟨{ stD with core := { mode := .pressRun }, rf := regsOf [(Reg.Hif.DYN_ADDR, 0, 9), (Reg.Hif.IBI_ENABLED, 0, 1), (Reg.Hif.MWL, 0, 256), (Reg.Hif.MRL, 0, 64)] }, 0x19, live_of (by decide)⟩,
   ⟨{ stD with core := { mode := .pressRun }, rf := regsOf [(Reg.Hif.DYN_ADDR, 0, 9), (Reg.Hif.IBI_ENABLED, 0, 1), (Reg.Hif.MWL, 0, 256), (Reg.Hif.MRL, 0, 64)] }, live_of (by decide), by decide⟩,
   ⟨{ stD with core := { mode := .pressRun }, rf := regsOf [(Reg.Hif.DYN_ADDR, 0, 9), (Reg.Hif.IBI_ENABLED, 0, 1), (Reg.Hif.MWL, 0, 256), (Reg.Hif.MRL, 0, 64)] }, 1, live_of (by decide), by decide⟩⟩

theorem witness_RegisterTransfers :
    (∃ (s : State) (bs : List (BitVec 8)) (a b c : Nat) (data ws : List Nat), Live s ∧ sdrOn s = true ∧ hasAddr s = true ∧ bs.map BitVec.toNat = a :: b :: c :: data ∧ beValue [a, b, c] % 4 = 0 ∧ data.length ≤ s.get Reg.Hif.MWL - 3 ∧ wordsOf data = (ws, 0)) ∧
    (∃ (s : State) (bs : List (BitVec 8)) (a b c : Nat) (data : List Nat), Live s ∧ sdrOn s = true ∧ hasAddr s = true ∧ bs.map BitVec.toNat = a :: b :: c :: data ∧ beValue [a, b, c] % 4 ≠ 0) ∧
    (∃ (s : State) (w : Nat) (u : State), Live s ∧ sdrOn s = true ∧ hasAddr s = true ∧ 4 ≤ s.get Reg.Hif.MRL ∧ hostRead s.hif.ptr s = (w, u)) ∧
    (∃ (s : State) (hs : List (BitVec 16)) (a b : Nat) (data ws : List Nat), Live s ∧ s.hostUp = true ∧ s.hif.hdr = true ∧ hasAddr s = true ∧ hs.map BitVec.toNat = a :: b :: data ∧ (a * 256 + b / 256) % 4 = 0 ∧ (data.take (data.length / 2 * 2)).length * 2 ≤ s.get Reg.Hif.MWL - 3 ∧ wordsOf ((data.take (data.length / 2 * 2)).flatMap (msbBytes 2)) = (ws, 0)) ∧
    (∃ (s : State) (hs : List (BitVec 16)) (a b : Nat) (data : List Nat), Live s ∧ s.hostUp = true ∧ s.hif.hdr = true ∧ hasAddr s = true ∧ hs.map BitVec.toNat = a :: b :: data ∧ (a * 256 + b / 256) % 4 = 0) ∧
    (∃ (s : State) (w : Nat) (u : State), Live s ∧ s.hostUp = true ∧ s.hif.hdr = true ∧ hasAddr s = true ∧ 4 ≤ s.get Reg.Hif.MRL ∧ hostRead s.hif.ptr s = (w, u)) ∧
    (∃ (s : State), Live s ∧ s.hostUp = true) ∧
    (∃ (s : State), Live s ∧ s.hostUp = true ∧ s.hif.rstact = 1) ∧
    (∃ (s : State) (bs : List (BitVec 8)) (n : Nat), Live s ∧ sdrOn s = true ∧ hasAddr s = true) ∧
    (∃ (s : State) (bs : List (BitVec 8)) (a b c : Nat) (data ws : List Nat), Live s ∧ sdrOn s = true ∧ hasAddr s = false ∧ bs.map BitVec.toNat = a :: b :: c :: data ∧ beValue [a, b, c] % 4 = 0 ∧ data.length ≤ s.get Reg.Hif.MWL - 3 ∧ wordsOf data = (ws, 0)) ∧
    (∃ (s : State) (c : Nat), Live s ∧ wantedIbi s = some c ∧ mayRequest s = true ∧ s.hif.nackAt = none) ∧
    (∃ (s : State) (c : Nat), Live s ∧ wantedIbi s = some c ∧ mayRequest s = true ∧ s.hif.nackAt = none) ∧
    (∃ (s : State) (c a : Nat), Live s ∧ wantedIbi s = some c ∧ mayRequest s = true ∧ s.hif.nackAt = some a ∧ 125 ≤ s.since a) ∧
    (∃ (s : State) (v : RegWord), Live s) ∧
    (∃ (s : State) (v : RegWord), Live s ∧ s.get Reg.Win.WIN_SEL = 1 ∧ winAt s < 262144) ∧
    (∃ (s : State), Live s ∧ s.get Reg.Win.WIN_SEL = 1 ∧ winAt s < 262144) ∧
    (∃ (s : State) (a : RegAddr) (v : RegWord), Live s ∧ s.hostUp = true ∧ a.toNat % 4 ≠ 0) ∧
    (∃ (s : State) (v : RegWord), Live s ∧ s.hostUp = true ∧ s.get Reg.Glb.SNAP_GO = 0) ∧
    (∃ (s : State) (x : BoundaryIn), Live s) :=
  ⟨⟨{ stD with core := { mode := .pressRun }, rf := regsOf [(Reg.Hif.DYN_ADDR, 0, 9), (Reg.Hif.IBI_ENABLED, 0, 1), (Reg.Hif.MWL, 0, 256), (Reg.Hif.MRL, 0, 64), (Reg.Win.WIN_SEL, 0, 1), (Reg.Hif.IBI_PENDING, 0, 4), (Reg.Hif.IBI_MASK, 0, 31)] }, [0, 1, 0, 1, 2, 3, 4], 0, 1, 0, [1, 2, 3, 4], [16909060], live_of (by decide), by decide, by decide, by decide, by decide, by decide, by decide⟩,
   ⟨{ stD with core := { mode := .pressRun }, rf := regsOf [(Reg.Hif.DYN_ADDR, 0, 9), (Reg.Hif.IBI_ENABLED, 0, 1), (Reg.Hif.MWL, 0, 256), (Reg.Hif.MRL, 0, 64), (Reg.Win.WIN_SEL, 0, 1), (Reg.Hif.IBI_PENDING, 0, 4), (Reg.Hif.IBI_MASK, 0, 31)] }, [0, 1, 1], 0, 1, 1, [], live_of (by decide), by decide, by decide, by decide, by decide⟩,
   ⟨{ stD with core := { mode := .pressRun }, rf := regsOf [(Reg.Hif.DYN_ADDR, 0, 9), (Reg.Hif.IBI_ENABLED, 0, 1), (Reg.Hif.MWL, 0, 256), (Reg.Hif.MRL, 0, 64), (Reg.Win.WIN_SEL, 0, 1), (Reg.Hif.IBI_PENDING, 0, 4), (Reg.Hif.IBI_MASK, 0, 31)] }, (hostRead 0 { stD with core := { mode := .pressRun }, rf := regsOf [(Reg.Hif.DYN_ADDR, 0, 9), (Reg.Hif.IBI_ENABLED, 0, 1), (Reg.Hif.MWL, 0, 256), (Reg.Hif.MRL, 0, 64), (Reg.Win.WIN_SEL, 0, 1), (Reg.Hif.IBI_PENDING, 0, 4), (Reg.Hif.IBI_MASK, 0, 31)] }).1, (hostRead 0 { stD with core := { mode := .pressRun }, rf := regsOf [(Reg.Hif.DYN_ADDR, 0, 9), (Reg.Hif.IBI_ENABLED, 0, 1), (Reg.Hif.MWL, 0, 256), (Reg.Hif.MRL, 0, 64), (Reg.Win.WIN_SEL, 0, 1), (Reg.Hif.IBI_PENDING, 0, 4), (Reg.Hif.IBI_MASK, 0, 31)] }).2, live_of (by decide), by decide, by decide, by decide, Prod.mk.eta.symm⟩,
   ⟨{ stD with hif := { hdr := true, ptr := 256 }, core := { mode := .pressRun }, rf := regsOf [(Reg.Hif.DYN_ADDR, 0, 9), (Reg.Hif.IBI_ENABLED, 0, 1), (Reg.Hif.MWL, 0, 256), (Reg.Hif.MRL, 0, 64), (Reg.Win.WIN_SEL, 0, 1), (Reg.Hif.IBI_PENDING, 0, 4), (Reg.Hif.IBI_MASK, 0, 31)] }, [1, 0, 258, 772], 1, 0, [258, 772], [16909060], live_of (by decide), by decide, by decide, by decide, by decide, by decide, by decide, by decide⟩,
   ⟨{ stD with hif := { hdr := true, ptr := 256 }, core := { mode := .pressRun }, rf := regsOf [(Reg.Hif.DYN_ADDR, 0, 9), (Reg.Hif.IBI_ENABLED, 0, 1), (Reg.Hif.MWL, 0, 256), (Reg.Hif.MRL, 0, 64), (Reg.Win.WIN_SEL, 0, 1), (Reg.Hif.IBI_PENDING, 0, 4), (Reg.Hif.IBI_MASK, 0, 31)] }, [1, 0], 1, 0, [], live_of (by decide), by decide, by decide, by decide, by decide, by decide⟩,
   ⟨{ stD with hif := { hdr := true, ptr := 256 }, core := { mode := .pressRun }, rf := regsOf [(Reg.Hif.DYN_ADDR, 0, 9), (Reg.Hif.IBI_ENABLED, 0, 1), (Reg.Hif.MWL, 0, 256), (Reg.Hif.MRL, 0, 64), (Reg.Win.WIN_SEL, 0, 1), (Reg.Hif.IBI_PENDING, 0, 4), (Reg.Hif.IBI_MASK, 0, 31)] }, (hostRead 256 { stD with hif := { hdr := true, ptr := 256 }, core := { mode := .pressRun }, rf := regsOf [(Reg.Hif.DYN_ADDR, 0, 9), (Reg.Hif.IBI_ENABLED, 0, 1), (Reg.Hif.MWL, 0, 256), (Reg.Hif.MRL, 0, 64), (Reg.Win.WIN_SEL, 0, 1), (Reg.Hif.IBI_PENDING, 0, 4), (Reg.Hif.IBI_MASK, 0, 31)] }).1, (hostRead 256 { stD with hif := { hdr := true, ptr := 256 }, core := { mode := .pressRun }, rf := regsOf [(Reg.Hif.DYN_ADDR, 0, 9), (Reg.Hif.IBI_ENABLED, 0, 1), (Reg.Hif.MWL, 0, 256), (Reg.Hif.MRL, 0, 64), (Reg.Win.WIN_SEL, 0, 1), (Reg.Hif.IBI_PENDING, 0, 4), (Reg.Hif.IBI_MASK, 0, 31)] }).2, live_of (by decide), by decide, by decide, by decide, by decide, Prod.mk.eta.symm⟩,
   ⟨{ stD with hif := { hdr := true, ptr := 256 }, core := { mode := .pressRun }, rf := regsOf [(Reg.Hif.DYN_ADDR, 0, 9), (Reg.Hif.IBI_ENABLED, 0, 1), (Reg.Hif.MWL, 0, 256), (Reg.Hif.MRL, 0, 64), (Reg.Win.WIN_SEL, 0, 1), (Reg.Hif.IBI_PENDING, 0, 4), (Reg.Hif.IBI_MASK, 0, 31)] }, live_of (by decide), by decide⟩,
   ⟨{ stD with hif := { hdr := true, rstact := 1 }, core := { mode := .pressRun }, rf := regsOf [(Reg.Hif.DYN_ADDR, 0, 9), (Reg.Hif.IBI_ENABLED, 0, 1), (Reg.Hif.MWL, 0, 256), (Reg.Hif.MRL, 0, 64), (Reg.Win.WIN_SEL, 0, 1), (Reg.Hif.IBI_PENDING, 0, 4), (Reg.Hif.IBI_MASK, 0, 31)] }, live_of (by decide), by decide, by decide⟩,
   ⟨{ stD with core := { mode := .pressRun }, rf := regsOf [(Reg.Hif.DYN_ADDR, 0, 9), (Reg.Hif.IBI_ENABLED, 0, 1), (Reg.Hif.MWL, 0, 256), (Reg.Hif.MRL, 0, 64), (Reg.Win.WIN_SEL, 0, 1), (Reg.Hif.IBI_PENDING, 0, 4), (Reg.Hif.IBI_MASK, 0, 31)] }, [0, 1, 0], 0, live_of (by decide), by decide, by decide⟩,
   ⟨{ stD with core := { mode := .pressRun }, rf := regsOf [(Reg.Hif.MWL, 0, 256)] }, [0, 1, 0, 1, 2, 3, 4], 0, 1, 0, [1, 2, 3, 4], [16909060], live_of (by decide), by decide, by decide, by decide, by decide, by decide, by decide⟩,
   ⟨{ stD with core := { mode := .pressRun }, rf := regsOf [(Reg.Hif.DYN_ADDR, 0, 9), (Reg.Hif.IBI_ENABLED, 0, 1), (Reg.Hif.MWL, 0, 256), (Reg.Hif.MRL, 0, 64), (Reg.Win.WIN_SEL, 0, 1), (Reg.Hif.IBI_PENDING, 0, 4), (Reg.Hif.IBI_MASK, 0, 31)] }, 3, live_of (by decide), by decide, by decide, by decide⟩,
   ⟨{ stD with core := { mode := .pressRun }, rf := regsOf [(Reg.Hif.DYN_ADDR, 0, 9), (Reg.Hif.IBI_ENABLED, 0, 1), (Reg.Hif.MWL, 0, 256), (Reg.Hif.MRL, 0, 64), (Reg.Win.WIN_SEL, 0, 1), (Reg.Hif.IBI_PENDING, 0, 4), (Reg.Hif.IBI_MASK, 0, 31)] }, 3, live_of (by decide), by decide, by decide, by decide⟩,
   ⟨{ stD with hif := { nackAt := some 0 }, core := { imp := 125, mode := .pressRun }, rf := regsOf [(Reg.Hif.DYN_ADDR, 0, 9), (Reg.Hif.IBI_ENABLED, 0, 1), (Reg.Hif.MWL, 0, 256), (Reg.Hif.MRL, 0, 64), (Reg.Win.WIN_SEL, 0, 1), (Reg.Hif.IBI_PENDING, 0, 4), (Reg.Hif.IBI_MASK, 0, 31)] }, 3, 0, live_of (by decide), by decide, by decide, by decide, by decide⟩,
   ⟨{ stD with core := { mode := .pressRun }, rf := regsOf [(Reg.Hif.DYN_ADDR, 0, 9), (Reg.Hif.IBI_ENABLED, 0, 1), (Reg.Hif.MWL, 0, 256), (Reg.Hif.MRL, 0, 64), (Reg.Win.WIN_SEL, 0, 1), (Reg.Hif.IBI_PENDING, 0, 4), (Reg.Hif.IBI_MASK, 0, 31)] }, 3, live_of (by decide)⟩,
   ⟨{ stD with core := { mode := .pressRun }, rf := regsOf [(Reg.Hif.DYN_ADDR, 0, 9), (Reg.Hif.IBI_ENABLED, 0, 1), (Reg.Hif.MWL, 0, 256), (Reg.Hif.MRL, 0, 64), (Reg.Win.WIN_SEL, 0, 1), (Reg.Hif.IBI_PENDING, 0, 4), (Reg.Hif.IBI_MASK, 0, 31)] }, 3, live_of (by decide), by decide, by decide⟩,
   ⟨{ stD with core := { mode := .pressRun }, rf := regsOf [(Reg.Hif.DYN_ADDR, 0, 9), (Reg.Hif.IBI_ENABLED, 0, 1), (Reg.Hif.MWL, 0, 256), (Reg.Hif.MRL, 0, 64), (Reg.Win.WIN_SEL, 0, 1), (Reg.Hif.IBI_PENDING, 0, 4), (Reg.Hif.IBI_MASK, 0, 31)] }, live_of (by decide), by decide, by decide⟩,
   ⟨{ stD with core := { mode := .pressRun }, rf := regsOf [(Reg.Hif.DYN_ADDR, 0, 9), (Reg.Hif.IBI_ENABLED, 0, 1), (Reg.Hif.MWL, 0, 256), (Reg.Hif.MRL, 0, 64), (Reg.Win.WIN_SEL, 0, 1), (Reg.Hif.IBI_PENDING, 0, 4), (Reg.Hif.IBI_MASK, 0, 31)] }, 1, 0, live_of (by decide), by decide, by decide⟩,
   ⟨{ stD with core := { mode := .pressRun }, rf := regsOf [(Reg.Hif.DYN_ADDR, 0, 9), (Reg.Hif.IBI_ENABLED, 0, 1), (Reg.Hif.MWL, 0, 256), (Reg.Hif.MRL, 0, 64), (Reg.Win.WIN_SEL, 0, 1), (Reg.Hif.IBI_PENDING, 0, 4), (Reg.Hif.IBI_MASK, 0, 31)] }, 5, live_of (by decide), by decide, by decide⟩,
   ⟨{ stD with core := { mode := .pressRun }, rf := regsOf [(Reg.Hif.DYN_ADDR, 0, 9), (Reg.Hif.IBI_ENABLED, 0, 1), (Reg.Hif.MWL, 0, 256), (Reg.Hif.MRL, 0, 64), (Reg.Win.WIN_SEL, 0, 1), (Reg.Hif.IBI_PENDING, 0, 4), (Reg.Hif.IBI_MASK, 0, 31)] }, ⟨⟨false, false, false, false⟩, [], [], []⟩, live_of (by decide)⟩⟩

theorem witness_ErrataLogKeeping :
    (∃ (s : State) (r : ErrRec), Live s ∧ s.halfOk = true ∧ s.get Reg.El.FROZEN = 0 ∧ s.el.clearAt = none ∧ 125000 ≤ s.since s.el.lastFlush ∧ s.el.buf = [r] ∧ s.get Reg.El.EL_FULL = 0 ∧ roundUp s.el.logEnd 4096 + r.len ≤ logLimit) ∧
    (∃ (s : State) (r : ErrRec), Live s ∧ s.halfOk = true ∧ s.get Reg.El.FROZEN = 0 ∧ s.el.clearAt = none ∧ s.el.buf = [r] ∧ s.get Reg.El.EL_FULL = 0 ∧ roundUp s.el.logEnd 4096 + r.len ≤ logLimit) ∧
    (∃ (s : State), Live s ∧ s.halfOk = true ∧ s.get Reg.El.FROZEN = 0 ∧ s.el.buf = []) ∧
    (∃ (s : State), Live s ∧ s.get Reg.El.FREEZE = 1) ∧
    (∃ (s : State) (a : Nat), Live s ∧ s.el.freezeAt = some a ∧ s.get Reg.El.FROZEN = 1 ∧ 37500000 ≤ s.since a) ∧
    (∃ (s : State), Live s ∧ s.get Reg.El.LOG_CLEAR_OK = 1 ∧ s.img.committed = true ∧ s.get Reg.El.FROZEN = 1) ∧
    (∃ (s : State), Live s ∧ (s.get Reg.El.LOG_CLEAR_OK = 0 ∨ s.img.committed = false ∨ s.get Reg.El.FROZEN = 0)) ∧
    (∃ (s : State) (a : Nat) (r : ErrRec), Live s ∧ s.el.clearAt = some a ∧ r = ⟨0x0006, 0, 0, opTimeOf s.core.opImp, s.core.cycles, 0, leBytes 4 s.el.clearUsed ++ leBytes 4 (s.get Reg.El.ERRATA_LOST) ++ leBytes 4 (max s.st0.log.clears s.st1.log.clears + 1)⟩) ∧
    (∃ (s : State) (code : Nat) (w : RateWin), Live s ∧ nfind code s.el.wins = some w ∧ s.get Reg.El.RATE_WINDOW * 7500000 ≤ s.since w.start ∧ w.dropped = 0) ∧
    (∃ (s : State) (code : Nat) (w : RateWin) (r : ErrRec), Live s ∧ nfind code s.el.wins = some w ∧ s.get Reg.El.RATE_WINDOW * 7500000 ≤ s.since w.start ∧ w.dropped ≠ 0 ∧ s.get Reg.El.FROZEN = 0 ∧ r = ⟨code, 1, 0, opTimeOf (s.core.opImp - s.since w.start + s.get Reg.El.RATE_WINDOW * 7500000), s.core.cycles, w.lastSrc, leBytes 4 w.dropped ++ leBytes 4 (opTimeOf (s.core.opImp - s.since w.start))⟩ ∧ s.el.used + r.len ≤ 65536) ∧
    (∃ (s : State), Live s) :=
  ⟨⟨{ stD with core := { imp := 125000 }, st0 := { log := { hdrOk := true } }, st1 := { ok := false }, el := { buf := [⟨0x1001, 0, 0, 0, 0, 0, []⟩] } }, ⟨0x1001, 0, 0, 0, 0, 0, []⟩, live_of (by decide), by decide, by decide, by decide, by decide, by decide, by decide, by decide⟩,
   ⟨{ stD with core := { imp := 125000 }, st0 := { log := { hdrOk := true } }, st1 := { ok := false }, el := { buf := [⟨0x1001, 0, 0, 0, 0, 0, []⟩] } }, ⟨0x1001, 0, 0, 0, 0, 0, []⟩, live_of (by decide), by decide, by decide, by decide, by decide, by decide, by decide⟩,
   ⟨{ stD with core := { imp := 125000 }, st0 := { log := { hdrOk := true } }, st1 := { ok := false } }, live_of (by decide), by decide, by decide, by decide⟩,
   ⟨{ stD with rf := regsOf [(Reg.El.FREEZE, 0, 1), (Reg.El.FROZEN, 0, 1)] }, live_of (by decide), by decide⟩,
   ⟨{ stD with core := { imp := 37500000 }, el := { freezeAt := some 0 }, rf := regsOf [(Reg.El.FREEZE, 0, 1), (Reg.El.FROZEN, 0, 1)] }, 0, live_of (by decide), by decide, by decide, by decide⟩,
   ⟨{ stD with img := { eff := some imgZ, committed := true }, rf := regsOf [(Reg.El.LOG_CLEAR_OK, 0, 1), (Reg.El.FROZEN, 0, 1)] }, live_of (by decide), by decide, by decide, by decide⟩,
   ⟨stD, live_of (by decide), by decide⟩,
   ⟨{ stD with el := { clearAt := some 0 } }, 0, ⟨0x0006, 0, 0, 0, 1, 0, leBytes 4 0 ++ leBytes 4 0 ++ leBytes 4 1⟩, live_of (by decide), by decide, by decide⟩,
   ⟨{ stD with core := { imp := 9 }, el := { wins := [(0x8004, ⟨0, 1, 0, 0⟩)] } }, 0x8004, ⟨0, 1, 0, 0⟩, live_of (by decide), by decide, by decide, by decide⟩,
   ⟨{ stD with core := { imp := 9 }, el := { wins := [(0x8004, ⟨9, 1, 2, 0⟩)] } }, 0x8004, ⟨9, 1, 2, 0⟩, ⟨0x8004, 1, 0, 0, 1, 0, leBytes 4 2 ++ leBytes 4 0⟩, live_of (by decide), by decide, by decide, by decide, by decide, by decide, by decide⟩,
   ⟨stD, live_of (by decide)⟩⟩

theorem witness_DmaChannelsAndSnapshots :
    (∃ (s : State) (c : Fin 64), Live s ∧ hostChannel s c.val = true ∧ nfind c.val s.dma.runs = none ∧ s.core.mode = .pressRun) ∧
    (∃ (s : State) (c : Fin 64), Live s ∧ hostChannel s c.val = true ∧ (nfind c.val s.dma.runs).isSome = true) ∧
    (∃ (s : State) (c : Fin 64), Live s ∧ hostChannel s c.val = true ∧ (nfind c.val s.dma.runs).isSome = true) ∧
    (∃ (s : State) (c : Fin 64) (r : DmaRun) (d : DmaCur), Live s ∧ s.dma.runs = [(c.val, r)] ∧ r.started < s.core.imp ∧ r.restart = false ∧ r.retry = none ∧ r.cur = some d ∧ d.left = d.len ∧ 0 < d.len ∧ d.len ≤ 262144 ∧ d.last = true ∧ d.irq = false ∧ dmaTarget d.src = 6 ∧ dmaTarget d.dst = 6 ∧ d.overlaps = false ∧ (∀ b ∈ beatsOf d.src d.len, beatBad s false b = false) ∧ (∀ b ∈ beatsOf d.dst d.len, beatBad s true b = false)) ∧
    (∃ (s : State) (c : Fin 64) (r : DmaRun) (a n : Nat), Live s ∧ nfind c.val s.dma.runs = some r ∧ r.restart = false ∧ r.retry = some (a, false, n) ∧ n < s.get Reg.Dma.RETRY_COUNT ∧ beatBad s false a = false) ∧
    (∃ (s : State) (a c : Nat) (r : DmaRun) (d : DmaCur), Live s ∧ s.dma.sharedAt = some a ∧ a < s.core.imp ∧ s.dma.runs = [(c, r)] ∧ r.restart = true ∧ r.cur = some d ∧ d.overlaps = false) ∧
    (∃ (s : State), Live s) ∧
    (∃ (s : State), Live s ∧ s.core.mode ≠ .powerQualify ∧ 7500000 ≤ s.since s.core.ctrAt ∧ s.halfOk = true) :=
  ⟨⟨stD, 15, live_of (by decide), by decide, by decide, by decide⟩,
   ⟨{ stD with core := { mode := .pressRun, imp := 3 }, dma := { runs := [(15, { cur := some ⟨0, 6 * 2 ^ 60, 6 * 2 ^ 60 + 128, 4, 4, true, false, 0⟩ })] }, hostBuf := [(1, 7)] }, 15, live_of (by decide), by decide, by decide⟩,
   ⟨{ stD with core := { mode := .pressRun, imp := 3 }, dma := { runs := [(15, { cur := some ⟨0, 6 * 2 ^ 60, 6 * 2 ^ 60 + 128, 4, 4, true, false, 0⟩ })] }, hostBuf := [(1, 7)] }, 15, live_of (by decide), by decide, by decide⟩,
   ⟨{ stD with core := { mode := .pressRun, imp := 3 }, dma := { runs := [(15, { cur := some ⟨0, 6 * 2 ^ 60, 6 * 2 ^ 60 + 128, 4, 4, true, false, 0⟩ })] }, hostBuf := [(1, 7)] }, 15, { cur := some ⟨0, 6 * 2 ^ 60, 6 * 2 ^ 60 + 128, 4, 4, true, false, 0⟩ }, ⟨0, 6 * 2 ^ 60, 6 * 2 ^ 60 + 128, 4, 4, true, false, 0⟩, live_of (by decide), by decide, by decide, by decide, by decide, by decide, by decide, by decide, by decide, by decide, by decide, by decide, by decide, by decide, by decide, by decide⟩,
   ⟨{ stD with core := { mode := .pressRun, imp := 3 }, dma := { runs := [(15, { retry := some (6 * 2 ^ 60, false, 0), cur := some ⟨0, 6 * 2 ^ 60, 6 * 2 ^ 60 + 128, 4, 4, true, false, 0⟩ })] }, rf := regsOf [(Reg.Dma.RETRY_COUNT, 0, 3)], hostBuf := [(1, 7)] }, 15, { retry := some (6 * 2 ^ 60, false, 0), cur := some ⟨0, 6 * 2 ^ 60, 6 * 2 ^ 60 + 128, 4, 4, true, false, 0⟩ }, 6 * 2 ^ 60, 0, live_of (by decide), by decide, by decide, by decide, by decide, by decide⟩,
   ⟨{ stD with core := { mode := .pressRun, imp := 3 }, dma := { sharedAt := some 0, runs := [(15, { restart := true, cur := some ⟨0, 6 * 2 ^ 60, 6 * 2 ^ 60 + 128, 4, 4, true, false, 0⟩ })] }, hostBuf := [(1, 7)] }, 0, 15, { restart := true, cur := some ⟨0, 6 * 2 ^ 60, 6 * 2 ^ 60 + 128, 4, 4, true, false, 0⟩ }, ⟨0, 6 * 2 ^ 60, 6 * 2 ^ 60 + 128, 4, 4, true, false, 0⟩, live_of (by decide), by decide, by decide, by decide, by decide, by decide, by decide⟩,
   ⟨stD, live_of (by decide)⟩,
   ⟨{ stD with core := { mode := .pressRun, imp := 7500000 } }, live_of (by decide), by decide, by decide, by decide⟩⟩

theorem witness_KeysSecretsAndTamper :
    (∃ (s : State), Live s ∧ s.core.mode = .keyWait ∧ s.get Reg.Sec.KEK_OK = 0 ∧ s.get Reg.Sec.RNG_FAIL = 0 ∧ s.sec.tamperAt ≠ some s.core.imp ∧ s.sec.rec_ = none ∧ s.sec.imported = none) ∧
    (∃ (s : State), Live s ∧ s.core.mode ≠ .keyWait ∧ s.sec.tamperAt ≠ some s.core.imp) ∧
    (∃ (s : State), Live s ∧ s.core.mode = .keyWait ∧ s.get Reg.Sec.KEK_OK = 0) ∧
    (∃ (s : State), Live s ∧ (s.core.mode = .pressRun ∨ s.core.mode = .maintenance) ∧ s.get Reg.Sec.KEK_OK = 1 ∧ pendingSlot s = none ∧ s.sec.rotating = none ∧ s.sec.rec_.isSome = true) ∧
    (∃ (s : State) (new at_ old : Nat) (r : KeyRec), Live s ∧ s.sec.rotating = some (new, at_) ∧ s.sec.kek = some old ∧ s.sec.rec_ = some r ∧ s.halfOk = true) ∧
    (∃ (s : State), Live s) ∧
    (∃ (s : State), Live s) ∧
    (∃ (s : State), Live s ∧ s.pins.fTamper = false ∧ s.core.held = false ∧ s.core.mode = .keyWait ∧ s.sec.rotating = none) ∧
    (∃ (s : State), Live s ∧ s.sec.clearing.isSome = true ∧ s.core.mode = .maintenance ∧ anyHealthy s = true) ∧
    (∃ (s : State), Live s ∧ s.pins.fAttn = false ∧ s.core.mode = .hold) ∧
    (∃ (s : State) (a : Nat), Live s ∧ s.pins.attnAt = some a ∧ s.pins.fAttn = true ∧ 1250000 ≤ s.since a) :=
  ⟨⟨{ stD with core := { mode := .keyWait } }, live_of (by decide), by decide, by decide, by decide, by decide, by decide, by decide⟩,
   ⟨stD, live_of (by decide), by decide, by decide⟩,
   ⟨{ stD with core := { mode := .keyWait } }, live_of (by decide), by decide, by decide⟩,
   ⟨{ stD with rf := regsOf [(Reg.Sec.KEK_OK, 0, 1), (Reg.Sec.KEK_NEW, 7, 5)], sec := { kek := some 4, rec_ := some ⟨1, 2, 3, []⟩ } }, live_of (by decide), by decide, by decide, by decide, by decide, by decide⟩,
   ⟨{ stD with rf := regsOf [(Reg.Sec.KEK_OK, 0, 1), (Reg.Sec.KEK_NEW, 7, 5)], sec := { rotating := some (5, 0), kek := some 4, rec_ := some ⟨1, 2, 3, []⟩ } }, 5, 0, 4, ⟨1, 2, 3, []⟩, live_of (by decide), by decide, by decide, by decide, by decide⟩,
   ⟨stD, live_of (by decide)⟩,
   ⟨stD, live_of (by decide)⟩,
   ⟨{ stD with core := { mode := .keyWait } }, live_of (by decide), by decide, by decide, by decide, by decide⟩,
   ⟨{ stD with core := { mode := .maintenance }, fnt := { inA := { healthy := true } }, sec := { clearing := some 0 } }, live_of (by decide), by decide, by decide, by decide⟩,
   ⟨{ stD with core := { mode := .hold } }, live_of (by decide), by decide, by decide⟩,
   ⟨{ stD with core := { imp := 1250000 }, pins := { fAttn := true, attnAt := some 0 } }, 0, live_of (by decide), by decide, by decide, by decide⟩⟩

theorem witness_MakereadyStates :
    (∃ (s : State) (i : Nat), Canonical s ∧ (s.core.powered = false ∨ s.core.mode = .powerQualify)) ∧
    (∃ (s : State), Live s ∧ s.core.mode = .powerQualify ∧ s.core.held = false ∧ s.core.probed = false ∧ 5000 ≤ s.since s.core.entered ∧ s.fnt.packLow = false) ∧
    (∃ (s : State) (a : Nat), Live s ∧ s.fnt.precharge = some a ∧ 3800 ≤ s.get Reg.Fount.PACK_V) ∧
    (∃ (s : State) (a : Nat), Live s ∧ s.fnt.precharge = some a ∧ 900000000 ≤ s.since a ∧ s.get Reg.Fount.PACK_V ≤ 3000 ∧ s.fnt.packLow = false) ∧
    (∃ (s : State) (n : Nat), Live s ∧ s.core.mode = .powerQualify ∧ anyHealthy s = true ∧ s.core.held = false ∧ s.pins.fReset = false) ∧
    (∃ (s : State) (es : List Nat) (a b : Bool), Live s ∧ s.core.mode = .selfTest ∧ [0, 1, 2].all (fun k => typeAlive (testEngines es (readEngineRecord { s with st0 := { s.st0 with ok := a }, st1 := { s.st1 with ok := b } })) k) = true) ∧
    (∃ (s : State) (es : List Nat) (cs : List Nat) (a b : Bool), Live s ∧ s.core.mode = .selfTest) ∧
    (∃ (s : State), Live s ∧ s.core.mode = .caseInit ∧ s.cast.eraseAt = none ∧ (∃ c < 4, (s.chan c).st < 3)) ∧
    (∃ (s : State), Live s ∧ s.core.mode = .keyWait ∧ s.get Reg.Sec.KEK_OK = 1 ∧ s.get Reg.Sec.RNG_FAIL = 0 ∧ s.fnt.gsbTaken = true ∧ castImgDiff s = false ∧ castKeyFail s = false ∧ (pendingSlot s).isSome = true) :=
  ⟨⟨{ stD with core := { powered := false } }, 7, ⟨(live_of (s := stD) (by decide)).canon.regs, (live_of (s := stD) (by decide)).canon.latches, (live_of (s := stD) (by decide)).canon.stage, (live_of (s := stD) (by decide)).canon.hostBuf, (live_of (s := stD) (by decide)).canon.win4, (live_of (s := stD) (by decide)).canon.win5⟩, Or.inl rfl⟩,
   ⟨{ stD with core := { imp := 5000 } }, live_of (by decide), by decide, by decide, by decide, by decide, by decide⟩,
   ⟨{ stD with fnt := { precharge := some 0 }, rf := regsOf [(Reg.Fount.PACK_V, 0, 3800)] }, 0, live_of (by decide), by decide, by decide⟩,
   ⟨{ stD with core := { imp := 900000000 }, fnt := { precharge := some 0 } }, 0, live_of (by decide), by decide, by decide, by decide, by decide⟩,
   ⟨{ stD with core := {}, fnt := { inA := { healthy := true } } }, 9, live_of (by decide), by decide, by decide, by decide, by decide⟩,
   ⟨{ core := { mode := .selfTest } }, [], true, false, live_of (by decide), by decide, by decide +kernel⟩,
   ⟨{ core := { mode := .selfTest } }, [], [], true, false, live_of (by decide), by decide⟩,
   ⟨{ core := { mode := .caseInit } }, live_of (by decide), by decide, by decide, ⟨0, by decide, by decide⟩⟩,
   ⟨{ core := { mode := .keyWait }, fnt := { gsbTaken := true }, rf := regsOf [(Reg.Sec.KEK_OK, 0, 1)], st0 := { slots := [(0, { ok := true, gen := 1 })] } }, live_of (by decide), by decide, by decide, by decide, by decide, by decide, by decide, by decide⟩⟩

theorem witness_MaintenanceAndResets :
    (∃ (s : State), Live s ∧ s.core.mode = .keyWait) ∧
    (∃ (s : State), Live s ∧ s.core.mode = .pressRun ∧ s.cast.due = none ∧ s.zn.zones = [] ∧ dirtySheets ((s.pulse Reg.Glb.MAINT_GO).putB Reg.Glb.MAINT_PENDING true) = []) ∧
    (∃ (s : State), Live s ∧ s.core.mode ≠ .keyWait ∧ s.core.mode ≠ .pressRun) ∧
    (∃ (s : State), Live s ∧ s.core.mode ≠ .maintenance) ∧
    (∃ (s : State), Live s ∧ s.core.mode = .maintenance ∧ s.core.held = false ∧ s.pins.fReset = false ∧ castContent (endEccTest (s.pulse Reg.Glb.MAINT_EXIT)) = false) ∧
    (∃ (s : State) (v : BitVec 16), Live s ∧ v ≠ 0x5752) ∧
    (∃ (s : State), Live s ∧ (s.core.mode = .safe ∨ s.core.mode = .keyWait ∨ s.core.mode = .imageWait) ∧ s.core.held = false ∧ s.pins.fReset = false) ∧
    (∃ (s : State), Live s ∧ s.core.mode = .powerQualify) ∧
    (∃ (s : State), Live s ∧ s.pins.fReset = false ∧ s.core.held = false ∧ (s.core.mode = .safe ∨ s.core.mode = .keyWait ∨ s.core.mode = .imageWait)) ∧
    (∃ (s : State), Live s ∧ s.pins.fReset = true ∧ s.core.held = true) :=
  ⟨⟨{ stD with core := { mode := .keyWait } }, live_of (by decide), by decide⟩,
   ⟨stD, live_of (by decide), by decide, by decide, by decide, by decide +kernel⟩,
   ⟨{ stD with core := { mode := .hold } }, live_of (by decide), by decide, by decide⟩,
   ⟨stD, live_of (by decide), by decide⟩,
   ⟨{ stD with core := { mode := .maintenance } }, live_of (by decide), by decide, by decide, by decide, by decide +kernel⟩,
   ⟨stD, 0x5753, live_of (by decide), by decide⟩,
   ⟨{ stD with core := { mode := .safe } }, live_of (by decide), by decide, by decide, by decide⟩,
   ⟨{ stD with core := {} }, live_of (by decide), by decide⟩,
   ⟨{ stD with core := { mode := .safe } }, live_of (by decide), by decide, by decide, by decide⟩,
   ⟨{ stD with core := { mode := .powerQualify, held := true }, pins := { fReset := true } }, live_of (by decide), by decide, by decide⟩⟩

theorem witness_ImageRequests :
    (∃ (s : State), Live s ∧ (s.core.mode = .imageWait ∨ s.core.mode = .pressRun ∨ s.core.mode = .hold ∨ s.core.mode = .maintenance) ∧ s.img.req = none) ∧
    (∃ (s : State), Live s ∧ (s.core.mode = .imageWait ∨ s.core.mode = .pressRun ∨ s.core.mode = .hold ∨ s.core.mode = .maintenance) ∧ s.img.req = none) ∧
    (∃ (s : State), Live s ∧ s.core.mode = .imageWait ∧ s.img.cand.isSome = true ∧ s.img.req = none) ∧
    (∃ (s : State), Live s ∧ s.img.req.isSome = true) ∧
    (∃ (s : State), Live s ∧ s.get Reg.Img.STAGE_LOCKED = 0) ∧
    (∃ (s : State), Live s ∧ s.get Reg.Img.STAGE_LOCKED = 1) ∧
    (∃ (s : State), Live s ∧ s.core.mode ≠ .imageWait ∧ s.img.storing = none ∧ s.img.req = some .verify) ∧
    (∃ (s : State), Live s ∧ s.core.mode ≠ .imageWait ∧ s.img.storing = none ∧ s.img.req = some .commit) ∧
    (∃ (s : State) (m : Img), Live s ∧ s.img.storing = some m) ∧
    (∃ (s : State) (c a : Nat), Live s ∧ s.img.fuseTo = some (c, a) ∧ s.get Reg.Img.ARB_FUSE < c) :=
  ⟨⟨stD, live_of (by decide), by decide, by decide⟩,
   ⟨stD, live_of (by decide), by decide, by decide⟩,
   ⟨{ stD with core := { mode := .imageWait }, img := { cand := some ⟨true, 1, imgW, []⟩ } }, live_of (by decide), by decide, by decide, by decide⟩,
   ⟨{ stD with img := { req := some .verify } }, live_of (by decide), by decide⟩,
   ⟨{ stD with stage := [(5, 7)] }, live_of (by decide), by decide⟩,
   ⟨{ stD with rf := regsOf [(Reg.Img.STAGE_LOCKED, 0, 1)], stage := [(5, 7)] }, live_of (by decide), by decide⟩,
   ⟨{ stD with img := { req := some .verify } }, live_of (by decide), by decide, by decide, by decide⟩,
   ⟨{ stD with img := { req := some .commit } }, live_of (by decide), by decide, by decide, by decide⟩,
   ⟨{ stD with img := { storing := some imgW, req := some .commit, cur := some imgZ, eff := some imgZ } }, imgW, live_of (by decide), by decide⟩,
   ⟨{ stD with img := { fuseTo := some (3, 0) } }, 3, 0, live_of (by decide), by decide, by decide⟩⟩

theorem witness_AssembleAndSignatures :
    (∃ (s : State) (a : Nat), Live s ∧ s.core.asmAt = some a ∧ s.core.mode = .assemble ∧ s.get Reg.Glb.ASM_WAIT * 125000 ≤ s.since a) ∧
    (∃ (s : State), Live s ∧ s.core.mode = .assemble) ∧
    (∃ (s : State) (g : SigIx), Live s ∧ (s.sigSt g.val).inService = false ∧ (impOf s g.val).isSome = true ∧ runsC5 s.core.mode = true ∧ waitOver s g.val = true ∧ capacityOk s g.val = true ∧ isNewSig s g.val = false) ∧
    (∃ (s : State) (g : SigIx) (x : AsmFound), Live s ∧ (s.sigSt g.val).entering = true ∧ s.core.mode = .pressRun ∧ (s.upds.any fun u => u.2.sig == g.val && u.2.st == .ready) = false) ∧
    (∃ (s : State) (g : SigIx) (i : Imposition), Live s ∧ impOf s g.val = some i ∧ (s.sigSt g.val).inService = false ∧ (s.sigSt g.val).entering = false ∧ (s.sigSt g.val).creating = false ∧ s.core.mode = .pressRun ∧ waitOver s g.val = true ∧ isNewSig s g.val = true ∧ i.members.all (fitNew s g.val i) = true) ∧
    (∃ (s : State) (m : Img), Live s ∧ s.core.mode = .assemble ∧ s.cast.due = none ∧ s.img.eff = some m ∧ (m.imps.map (·.1)).all (fun g => (s.sigSt g).inService) = true) :=
  ⟨⟨{ stD with core := { mode := .assemble, asmAt := some 0 } }, 0, live_of (by decide), by decide, by decide, by decide⟩,
   ⟨{ stD with core := { mode := .assemble } }, live_of (by decide), by decide⟩,
   ⟨{ stD with core := { mode := .assemble, asmOver := true }, drvs := [(0, { drvW with label := some { crcOk := true, gen := 1, sigIdentity := 5, sigIndex := 0, driveIndex := 0, bMin := 0, driveId := 0, reshape := false, payloadHash := 0 } }), (1, drvW), (2, drvW)], sigs := [(0, { bMin := 40000 })] }, 0, live_of (by decide), by decide, by decide, by decide, by decide, by decide, by decide⟩,
   ⟨{ stD with sigs := [(0, { entering := true })] }, 0, ⟨[], [], [], []⟩, live_of (by decide), by decide, by decide, by decide⟩,
   ⟨{ stD with drvs := [(0, { drvW with isNew := true, row := 2, blocks := 40000 }), (1, { drvW with isNew := true, row := 2, blocks := 40000 }), (2, { drvW with isNew := true, row := 3, blocks := 40000 })] }, 0, impW, live_of (by decide), by decide, by decide, by decide, by decide, by decide, by decide, by decide, by decide⟩,
   ⟨{ stD with core := { mode := .assemble }, sigs := [(0, { inService := true })] }, imgZ, live_of (by decide), by decide, by decide, by decide, by decide⟩⟩

theorem witness_CastsAndRecasts :
    (∃ (s : State), Live s ∧ s.core.mode = .hold ∧ s.cast.due = none ∧ s.get Reg.Fount.RIDE_MS * 125 ≤ s.since s.fnt.holdAt ∧ s.switching = false ∧ s.core.safeDue = none ∧ NMap.wf s.conns) ∧
    (∃ (s : State), Live s ∧ s.core.mode = .cast ∧ s.core.safeDue = none ∧ s.core.resetDue = none ∧ s.sec.tamperCast = false ∧ anyHealthy s = true ∧ s.halfOk = true) ∧
    (∃ (s : State) (a : Nat), Live s ∧ s.core.mode = .castDone ∧ (s.cast.causes = 1 ∨ s.cast.causes = 2 ∨ s.cast.causes = 3) ∧ s.cast.healthyAt = some a ∧ 125000 ≤ s.since a ∧ s.cast.resuming = false ∧ s.cast.eraseAt = none ∧ s.sec.clearing = none ∧ s.sec.wasTampered = false) ∧
    (∃ (s : State), Live s ∧ s.cast.eraseAt.isSome = true ∧ s.cast.resuming = false) ∧
    (∃ (s : State), Live s ∧ s.cast.eraseAt.isSome = true ∧ s.cast.resuming = true ∧ s.core.mode = .castDone) ∧
    (∃ (s : State) (x : CastSlot), Live s ∧ s.core.mode = .recast ∧ pendingSlot s = some x) ∧
    (∃ (s : State) (g : Nat), Live s ∧ s.cast.restored = some g ∧ (s.core.mode = .pressRun ∨ s.core.mode = .hold) ∧ (allLines s).any (fun x => x.cells.any fun c => c.2.dirty || c.2.shadow.isSome) = false ∧ (s.upds.any fun u => u.2.restored) = false) ∧
    (∃ (s : State) (x : CastSlot), Live s ∧ pendingSlot s = some x ∧ 1 ≤ s.core.mode.code ∧ s.core.mode.code ≤ 4) ∧
    (∃ (s : State), Live s ∧ (pendingSlot s = none ∨ ¬(1 ≤ s.core.mode.code ∧ s.core.mode.code ≤ 4))) :=
  ⟨⟨{ stD with core := { mode := .hold, imp := 5 } }, live_of (by decide), by decide, by decide, by decide, by decide, by decide, by decide⟩,
   ⟨{ stD with core := { mode := .cast }, cast := { causes := 1 }, fnt := { inA := { healthy := true } } }, live_of (by decide), by decide, by decide, by decide, by decide, by decide, by decide⟩,
   ⟨{ stD with core := { mode := .castDone, imp := 125000 }, cast := { causes := 3, healthyAt := some 0 } }, 0, live_of (by decide), by decide, by decide, by decide, by decide, by decide, by decide, by decide, by decide⟩,
   ⟨{ stD with cast := { eraseAt := some 0 } }, live_of (by decide), by decide, by decide⟩,
   ⟨{ stD with core := { mode := .castDone }, cast := { eraseAt := some 0, resuming := true } }, live_of (by decide), by decide, by decide, by decide⟩,
   ⟨{ stD with core := { mode := .recast }, st0 := { slots := [(0, { ok := true, gen := 3 })] } }, { ok := true, gen := 3 }, live_of (by decide), by decide, by decide⟩,
   ⟨{ stD with cast := { restored := some 3 } }, 3, live_of (by decide), by decide, by decide, by decide, by decide⟩,
   ⟨{ stD with core := { mode := .keyWait }, st0 := { slots := [(0, { ok := true, gen := 3 })] } }, { ok := true, gen := 3 }, live_of (by decide), by decide, by decide, by decide⟩,
   ⟨stD, live_of (by decide), by decide⟩⟩

theorem witness_Releases :
    (∃ (s : State), Live s ∧ s.core.mode = .pressRun ∧ s.cast.due = none ∧ s.get Reg.Cast.RELEASE_FAST = 0 ∧ s.zn.zones = [] ∧ dirtySheets s = []) ∧
    (∃ (s : State), Live s ∧ s.core.mode = .hold ∧ s.cast.due = none) ∧
    (∃ (s : State), Live s ∧ s.core.mode ≠ .pressRun ∧ s.core.mode ≠ .hold ∧ s.core.mode ≠ .release) ∧
    (∃ (s : State), Live s ∧ s.core.mode = .release ∧ s.cast.final = false ∧ releaseIdle s = true) ∧
    (∃ (s : State), Live s ∧ s.core.mode = .release ∧ s.cast.final = true ∧ s.core.released = false ∧ (s.sigs.any fun p => p.2.inService && (p.2.commit.isSome || p.2.pendingSet)) = false ∧ s.get Reg.Glb.MAINT_PENDING = 0 ∧ NMap.wf s.conns) ∧
    (∃ (s : State), Live s ∧ s.core.mode = .release ∧ s.cast.final = true ∧ s.core.released = false ∧ (s.sigs.any fun p => p.2.inService && (p.2.commit.isSome || p.2.pendingSet)) = false ∧ s.get Reg.Glb.MAINT_PENDING = 1 ∧ NMap.wf s.conns) :=
  ⟨⟨stD, live_of (by decide), by decide, by decide, by decide, by decide, by decide +kernel⟩,
   ⟨{ stD with core := { mode := .hold } }, live_of (by decide), by decide, by decide⟩,
   ⟨{ stD with core := { mode := .maintenance } }, live_of (by decide), by decide, by decide, by decide⟩,
   ⟨{ stD with core := { mode := .release }, sigs := [(0, { inService := true })] }, live_of (by decide), by decide, by decide, by decide +kernel⟩,
   ⟨{ stD with core := { mode := .release }, cast := { final := true } }, live_of (by decide), by decide, by decide, by decide, by decide, by decide, by decide⟩,
   ⟨{ stD with core := { mode := .release }, cast := { final := true }, rf := regsOf [(Reg.Glb.MAINT_PENDING, 0, 1)] }, live_of (by decide), by decide, by decide, by decide, by decide, by decide, by decide⟩⟩

theorem witness_SchedulerInputs :
    (∃ (s : State) (v : RegWord), Live s ∧ v.toNat % 128 + v.toNat / 256 % 128 + v.toNat / 65536 % 128 + v.toNat / 16777216 % 128 + s.get Reg.Mu.MIN_C6 ≤ 100 ∧ s.get Reg.Mu.MIN_C6 < 128) ∧
    (∃ (s : State) (v : RegWord), Live s ∧ 100 < v.toNat % 128 + v.toNat / 256 % 128 + v.toNat / 65536 % 128 + v.toNat / 16777216 % 128 + s.get Reg.Mu.MIN_C6) ∧
    (∃ (s : State) (v : RegWord), Live s) ∧
    (∃ (s : State) (a : Nat), Live s ∧ s.sch.enclAt = some a ∧ 7500000 ≤ s.since a) ∧
    (∃ (s : State) (k a : Nat), Live s ∧ s.sch.therm = k ∧ 0 < k ∧ (if k = 1 then s.sch.cool1 else if k = 2 then s.sch.cool2 else s.sch.cool3) = some a ∧ 125000 ≤ s.since a ∧ (s.sch.floor2 = true → 2 < k) ∧ (s.sch.floor1 = true → 1 < k) ∧ s.sch.thermAt < s.core.imp) ∧
    (∃ (s : State) (r : FairRec), Live s ∧ s.core.imp % 1024 = 0 ∧ 0 < s.core.imp ∧ s.fairOf (s.get Reg.Mu.FAIR_SEL) = r) :=
  ⟨⟨stD, 0x14141414, live_of (by decide), by decide, by decide⟩,
   ⟨stD, 0x1A191919, live_of (by decide), by decide⟩,
   ⟨stD, 250, live_of (by decide)⟩,
   ⟨{ stD with core := { imp := 7500000 }, sch := { enclAt := some 0, floor1 := true } }, 0, live_of (by decide), by decide, by decide⟩,
   ⟨{ stD with core := { imp := 125000 }, sch := { therm := 3, cool3 := some 0, floor2 := true, floor1 := true } }, 3, 0, live_of (by decide), by decide, by decide, by decide, by decide, by decide, by decide, by decide⟩,
   ⟨{ stD with core := { imp := 1024 }, sch := { fair := [(0, { adm2 := 7 })] } }, { adm2 := 7 }, live_of (by decide), by decide, by decide, by decide⟩⟩

theorem witness_PairsAndEngines :
    (∃ (s : State) (p : Fin 14) (a b : Nat), Live s ∧ (s.pair p.val).st = .switching ∧ (s.pair p.val).step = 3 ∧ (s.pair p.val).verdict = false ∧ (s.pair p.val).a = some a ∧ (s.pair p.val).b = some b ∧ (s.pair p.val).again = false ∧ (s.pair p.val).replace = none ∧ s.core.safeDue = none ∧ s.cast.due = none) ∧
    (∃ (s : State) (p : Fin 14) (a b : Nat), Live s ∧ (s.pair p.val).st = .switching ∧ (s.pair p.val).step = 3 ∧ (s.pair p.val).verdict = false ∧ (s.pair p.val).a = some a ∧ (s.pair p.val).b = some b ∧ a ≠ b ∧ s.core.safeDue = none ∧ s.cast.due = none) ∧
    (∃ (s : State) (p : Fin 14), Live s ∧ (s.pair p.val).st = .switching ∧ (s.pair p.val).step = 5 ∧ (s.pair p.val).verdict = true ∧ (s.pair p.val).transient = false ∧ s.core.safeDue = none ∧ s.cast.due = none) ∧
    (∃ (s : State) (p : Fin 14), Live s ∧ (s.pair p.val).dying = true ∧ (s.pair p.val).step = 8 ∧ s.core.safeDue = none ∧ s.cast.due = none) ∧
    (∃ (s : State) (p : Fin 14), Live s ∧ (s.pair p.val).st = .simplex ∧ 125000 ≤ s.since (s.pair p.val).lastTest ∧ s.core.safeDue = none ∧ s.cast.due = none) ∧
    (∃ (s : State) (e : Fin 33), Live s ∧ (s.engine e.val).retired = false ∧ isMember s e.val = false ∧ 125000 ≤ s.since (s.engine e.val).lastTest) ∧
    (∃ (s : State) (e : Fin 33), Live s ∧ (s.engine e.val).retired = false ∧ isMember s e.val = false ∧ 125000 ≤ s.since (s.engine e.val).lastTest) ∧
    (∃ (s : State), Live s ∧ s.prs.hourAt < s.core.opImp / 450000000) ∧
    (∃ (s : State), Live s ∧ s.prs.recDue = true ∧ s.halfOk = true) ∧
    (∃ (s : State), Live s ∧ s.st0.ok = true ∧ s.core.mode ≠ .cast) ∧
    (∃ (s : State), Live s ∧ s.st1.ok = true ∧ s.core.mode ≠ .cast) :=
  ⟨⟨{ stD with prs := { pairs := [(3, { st := .switching, step := 3, a := some 8, b := some 9 })] } }, 3, 8, 9, live_of (by decide), by decide, by decide, by decide, by decide, by decide, by decide, by decide, by decide, by decide⟩,
   ⟨{ stD with prs := { pairs := [(3, { st := .switching, step := 3, a := some 8, b := some 9 })] } }, 3, 8, 9, live_of (by decide), by decide, by decide, by decide, by decide, by decide, by decide, by decide, by decide⟩,
   ⟨{ stD with prs := { pairs := [(3, { st := .switching, step := 5, a := some 8, b := some 9, verdict := true })] }, withheld := [.icResp 1 true true] }, 3, live_of (by decide), by decide, by decide, by decide, by decide, by decide, by decide⟩,
   ⟨{ stD with prs := { pairs := [(3, { st := .dead, step := 8, dying := true, adopter := some 4 })] }, withheld := [.icResp 1 true true] }, 3, live_of (by decide), by decide, by decide, by decide, by decide⟩,
   ⟨{ stD with core := { imp := 125000 }, prs := { pairs := [(3, { st := .simplex, a := some 8 })] } }, 3, live_of (by decide), by decide, by decide, by decide, by decide⟩,
   ⟨{ stD with core := { imp := 125000 } }, 7, live_of (by decide), by decide, by decide, by decide⟩,
   ⟨{ stD with core := { imp := 125000 } }, 7, live_of (by decide), by decide, by decide, by decide⟩,
   ⟨{ stD with core := { opImp := 450000000 } }, live_of (by decide), by decide⟩,
   ⟨{ stD with prs := { recDue := true } }, live_of (by decide), by decide, by decide⟩,
   ⟨stD, live_of (by decide), by decide, by decide⟩,
   ⟨stD, live_of (by decide), by decide, by decide⟩⟩

theorem witness_CaseAsACache :
    (∃ (s : State), Live s ∧ 0 < s.get Reg.Cc.AGE_PERIOD ∧ s.core.imp % s.get Reg.Cc.AGE_PERIOD = 0 ∧ s.cs.agedAt ≠ some s.core.imp) ∧
    (∃ (s : State), Live s ∧ s.cs.agedAt = some s.core.imp) ∧
    (∃ (s : State) (c : ChIx) (k : Nat) (x : Line), Live s ∧ (s.chan c.val).st ≤ 2 ∧ freeFrames s c.val < 256 ∧ s.cs.tags = [(k, x)] ∧ x.eligible = true ∧ x.age = 3 ∧ x.retain = false ∧ x.primary / 131072 = c.val ∧ s.cs.evb.length < 64 ∧ (∃ j, j < 64 ∧ k / caseWays s = (s.cs.reclaimAt + j) % caseSets s)) ∧
    (∃ (s : State) (c : ChIx), Live s ∧ (s.chan c.val).st ≤ 2 ∧ 512 ≤ freeFrames s c.val ∧ (s.chan c.val).reclaim = true) ∧
    (∃ (s : State) (i : Nat) (e : EvbEnt), Live s ∧ nfind i s.cs.evb = some e ∧ e.writeBack = false ∧ e.at_ < s.core.imp ∧ e.line.fillPending = false) ∧
    (∃ (s : State) (i : Nat) (e : EvbEnt), Live s ∧ nfind i s.cs.evb = some e ∧ e.at_ = s.core.imp) ∧
    (∃ (s : State) (k d : Nat) (x : Line), Live s ∧ (s.cs.tags.filter fun p => p.2.dirty && p.2.duplex.isNone && chanDirty s (p.2.primary / 131072)) = [(k, x)] ∧ roomiest s ((List.range 4).filter fun c => c != x.primary / 131072 && chanDirty s c) = some d ∧ 2 ≤ ((List.range 4).filter fun q => chanDirty s q).length) ∧
    (∃ (s : State) (k : Nat) (x : Line), Live s ∧ findTag s (s.get Reg.Cc.PROBE_KIND) (s.get Reg.Cc.PROBE_SIG) (s.get Reg.Cc.PROBE_LINE_LO + 2 ^ 32 * s.get Reg.Cc.PROBE_LINE_HI) = some (k, x) ∧ findEvb s (s.get Reg.Cc.PROBE_KIND) (s.get Reg.Cc.PROBE_SIG) (s.get Reg.Cc.PROBE_LINE_LO + 2 ^ 32 * s.get Reg.Cc.PROBE_LINE_HI) = none) ∧
    (∃ (s : State) (i : Nat) (e : EvbEnt), Live s ∧ findTag s (s.get Reg.Cc.PROBE_KIND) (s.get Reg.Cc.PROBE_SIG) (s.get Reg.Cc.PROBE_LINE_LO + 2 ^ 32 * s.get Reg.Cc.PROBE_LINE_HI) = none ∧ findEvb s (s.get Reg.Cc.PROBE_KIND) (s.get Reg.Cc.PROBE_SIG) (s.get Reg.Cc.PROBE_LINE_LO + 2 ^ 32 * s.get Reg.Cc.PROBE_LINE_HI) = some (i, e)) ∧
    (∃ (s : State), Live s ∧ findTag s (s.get Reg.Cc.PROBE_KIND) (s.get Reg.Cc.PROBE_SIG) (s.get Reg.Cc.PROBE_LINE_LO + 2 ^ 32 * s.get Reg.Cc.PROBE_LINE_HI) = none ∧ findEvb s (s.get Reg.Cc.PROBE_KIND) (s.get Reg.Cc.PROBE_SIG) (s.get Reg.Cc.PROBE_LINE_LO + 2 ^ 32 * s.get Reg.Cc.PROBE_LINE_HI) = none) :=
  ⟨⟨{ stD with rf := regsOf [(Reg.Cc.AGE_PERIOD, 0, 64)], core := { imp := 128 }, cs := { tags := [(0, heldW), (1, { lineW 1 with age := 3 })], touchedLast := [0] } }, live_of (by decide), by decide, by decide, by decide⟩,
   ⟨{ stD with cs := { agedAt := some 0 } }, live_of (by decide), by decide⟩,
   ⟨{ stD with cs := { tags := [(0, { heldW with age := 3, duplex := none })], chans := [(0, { used := List.range 130800 })] } }, 0, 0, { heldW with age := 3, duplex := none }, live_of (by decide), by decide, by simp [freeFrames, State.chan, ngetD, nfind], by decide, by decide, by decide, by decide, by decide, by decide, ⟨0, by decide⟩⟩,
   ⟨{ stD with cs := { chans := [(2, { reclaim := true })] } }, 2, live_of (by decide), by decide, by decide, by decide⟩,
   ⟨{ stD with core := { imp := 5 }, cs := { evb := [(4, ⟨heldW, false, 4, none⟩)], chans := [(0, { used := [3, 0] }), (1, { used := [0] })] } }, 4, ⟨heldW, false, 4, none⟩, live_of (by decide), by decide, by decide, by decide, by decide⟩,
   ⟨{ stD with cs := { evb := [(4, ⟨heldW, false, 0, none⟩)] } }, 4, ⟨heldW, false, 0, none⟩, live_of (by decide), by decide, by decide⟩,
   ⟨{ stD with cs := { tags := [(0, { heldW with duplex := none, cells := [(0, { data := 7, dirty := true })] })] } }, 0, 1, { heldW with duplex := none, cells := [(0, { data := 7, dirty := true })] }, live_of (by decide), by decide, by decide, by decide⟩,
   ⟨{ stD with cs := { tags := [(0, { heldW with age := 2, pin := true })] } }, 0, { heldW with age := 2, pin := true }, live_of (by decide), by decide, by decide⟩,
   ⟨{ stD with cs := { evb := [(4, ⟨heldW, true, 0, none⟩)] } }, 4, ⟨heldW, true, 0, none⟩, live_of (by decide), by decide, by decide⟩,
   ⟨stD, live_of (by decide), by decide, by decide⟩⟩

theorem witness_RangeEngines :
    (∃ (s : State) (e : Fin 2) (i : Imposition), Live s ∧ (s.core.mode = .pressRun ∨ s.core.mode = .maintenance) ∧ nfind e.val s.cs.engines = none ∧ (s.sigSt (s.get Reg.Cc.RE_SIG e.val)).inService = true ∧ impOf s (s.get Reg.Cc.RE_SIG e.val) = some i ∧ 0 < (s.get Reg.Cc.RE_COUNT_LO e.val + 2 ^ 32 * s.get Reg.Cc.RE_COUNT_HI e.val) ∧ (s.get Reg.Cc.RE_START_LO e.val + 2 ^ 32 * s.get Reg.Cc.RE_START_HI e.val) + (s.get Reg.Cc.RE_COUNT_LO e.val + 2 ^ 32 * s.get Reg.Cc.RE_COUNT_HI e.val) ≤ (s.sigSt (s.get Reg.Cc.RE_SIG e.val)).sheets * i.sheetBlocks ∧ s.get Reg.Cc.RE_OP e.val < 4) ∧
    (∃ (s : State) (e : Fin 2), Live s ∧ s.core.mode ≠ .pressRun ∧ s.core.mode ≠ .maintenance) ∧
    (∃ (s : State) (e : Fin 2) (r : RangeRun) (k : Nat) (x : Line), Live s ∧ s.core.mode = .pressRun ∧ nfind e.val s.cs.engines = some r ∧ r.op = 1 ∧ r.pos = r.last ∧ r.parked.length < 16 ∧ lineBusy s r.sig r.pos = false ∧ findTag s 0 r.sig r.pos = some (k, x) ∧ x.dirty = false ∧ (x.cells.any fun c => c.2.upd.isSome || c.2.shadow.isSome) = false ∧ x.pin = false ∧ x.retain = false ∧ s.cs.evb.length < 64 ∧ (s.cs.evb.filter fun p => p.2.engine.isSome).length < 32) ∧
    (∃ (s : State) (e : Fin 2) (r : RangeRun), Live s ∧ s.core.mode = .pressRun ∧ nfind e.val s.cs.engines = some r ∧ r.pos = r.last ∧ r.parked.length < 16 ∧ lineBusy s r.sig r.pos = true) ∧
    (∃ (s : State) (e : Fin 2) (l : Nat) (r : RangeRun) (k : Nat) (x : Line), Live s ∧ s.core.mode = .pressRun ∧ nfind e.val s.cs.engines = some r ∧ r.op = 1 ∧ r.parked.contains l = true ∧ lineBusy s r.sig l = false ∧ findTag s 0 r.sig l = some (k, x) ∧ x.dirty = false ∧ (x.cells.any fun c => c.2.upd.isSome || c.2.shadow.isSome) = false ∧ x.pin = false ∧ x.retain = false ∧ s.cs.evb.length < 64 ∧ (s.cs.evb.filter fun p => p.2.engine.isSome).length < 32) ∧
    (∃ (s : State) (e : Fin 2) (r : RangeRun), Live s ∧ nfind e.val s.cs.engines = some r ∧ rangeOver s e.val r = true) :=
  ⟨⟨{ stD with sigs := [(0, { inService := true, sheets := 12 })], rf := regsOf [(Reg.Cc.RE_COUNT_LO, 1, 200), (Reg.Cc.RE_START_LO, 1, 130), (Reg.Cc.RE_LINES, 1, 9), (Reg.Cc.RE_OP, 1, 2)] }, 1, impW, live_of (by decide), by decide, by decide, by decide, by decide, by decide, by decide, by decide⟩,
   ⟨{ stD with core := { mode := .hold } }, 0, live_of (by decide), by decide, by decide⟩,
   ⟨{ stD with cs := { tags := [(0, heldW)], engines := [(0, { op := 1, sig := 0, first := 0, last := 0, start := 0, count := 5, pos := 0 })] } }, 0, { op := 1, sig := 0, first := 0, last := 0, start := 0, count := 5, pos := 0 }, 0, heldW, live_of (by decide), by decide, by decide, by decide, by decide, by decide, by decide, by decide, by decide, by decide, by decide, by decide, by decide, by decide⟩,
   ⟨{ stD with cs := { tags := [(0, { heldW with fillPending := true })], engines := [(1, { op := 1, sig := 0, first := 0, last := 0, start := 0, count := 5, pos := 0 })] } }, 1, { op := 1, sig := 0, first := 0, last := 0, start := 0, count := 5, pos := 0 }, live_of (by decide), by decide, by decide, by decide, by decide, by decide⟩,
   ⟨{ stD with cs := { tags := [(0, heldW)], engines := [(0, { op := 1, sig := 0, first := 0, last := 0, start := 0, count := 5, pos := 1, parked := [0] })] } }, 0, 0, { op := 1, sig := 0, first := 0, last := 0, start := 0, count := 5, pos := 1, parked := [0] }, 0, heldW, live_of (by decide), by decide, by decide, by decide, by decide, by decide, by decide, by decide, by decide, by decide, by decide, by decide, by decide⟩,
   ⟨{ stD with cs := { engines := [(1, { op := 1, sig := 0, first := 0, last := 0, start := 0, count := 5, pos := 1 })] }, rf := regsOf [(Reg.Cc.RE_BUSY, 1, 1)] }, 1, { op := 1, sig := 0, first := 0, last := 0, start := 0, count := 5, pos := 1 }, live_of (by decide), by decide, by decide⟩⟩

theorem witness_CaseUpkeep :
    (∃ (s : State) (c : ChIx) (h : WordHolds) (w : Nat), Live s ∧ s.get Reg.Ecc.SCRUB_EN = 1 ∧ (s.chan c.val).st ≤ 2 ∧ s.core.mode ≠ .cast ∧ s.core.mode ≠ .castDone ∧ scrubSkips s c.val w = false ∧ s.get Reg.Ecc.SCRUB_POS c.val ≤ wordFrame w ∧ w < 2 ^ 32 - 16 ∧ s.core.safeDue = none ∧ s.cast.due = none) ∧
    (∃ (s : State) (c : ChIx) (h : WordHolds) (w : Nat), Live s ∧ s.get Reg.Ecc.SCRUB_EN = 1 ∧ (s.chan c.val).st ≤ 2 ∧ s.core.mode ≠ .cast ∧ s.core.mode ≠ .castDone ∧ scrubSkips s c.val w = false ∧ wordFrame w < s.get Reg.Ecc.SCRUB_POS c.val ∧ w < 2 ^ 32 - 16 ∧ s.core.safeDue = none ∧ s.cast.due = none) ∧
    (∃ (s : State) (c : ChIx) (r : RowTest) (q : List RowTest) (a : Nat), Live s ∧ (s.chan c.val).queue = r :: q ∧ (s.chan c.val).testAt = some a ∧ (s.chan c.val).st ≤ 2 ∧ 2 ≤ s.since a ∧ s.core.mode = .pressRun ∧ s.core.safeDue = none ∧ s.cast.due = none) ∧
    (∃ (s : State) (c : ChIx) (k n d : Nat) (x : Line), Live s ∧ (s.chan c.val).st = 2 ∧ s.cs.tags = [(k, x)] ∧ x.dirty = true ∧ x.primary / 131072 = c.val ∧ x.duplex = some d ∧ d / 131072 ≠ c.val ∧ x.shFrames = [] ∧ roomiest s ((List.range 4).filter fun q => q != c.val && chanDirty s q && !([d / 131072].contains q)) = some n) ∧
    (∃ (s : State) (i : Nat) (m : MergeEnt) (old : List Nat), Live s ∧ nfind i s.cs.merge = some m ∧ 4 ≤ s.since m.at_ ∧ decodedWord s m.word = some old ∧ NMap.wf s.cs.win) ∧
    (∃ (s : State) (i : Nat) (m : MergeEnt), Live s ∧ nfind i s.cs.merge = some m ∧ s.since m.at_ = 0) ∧
    (∃ (s : State), Live s ∧ s.core.mode = .maintenance) ∧
    (∃ (s : State), Live s ∧ s.core.mode ≠ .maintenance) ∧
    (∃ (s : State), Live s ∧ s.get Reg.Ecc.ECC_TEST_EN = 1) ∧
    (∃ (s : State), Live s ∧ s.cs.mapDue = true ∧ s.halfOk = true) ∧
    (∃ (s : State), Live s ∧ s.cs.mapDue = false) :=
  ⟨⟨{ stD with core := { mode := .pressRun, imp := 1000 }, rf := regsOf [(Reg.Ecc.SCRUB_EN, 0, 1)] }, 2, .nothing, 40000, live_of (by decide), by decide, by decide, by decide, by decide, by decide, by decide, by decide, by decide, by decide⟩,
   ⟨{ stD with core := { mode := .pressRun, imp := 1000 }, rf := regsOf [(Reg.Ecc.SCRUB_EN, 0, 1), (Reg.Ecc.SCRUB_POS, 2, 50)] }, 2, .nothing, 40000, live_of (by decide), by decide, by decide, by decide, by decide, by decide, by decide, by decide, by decide, by decide⟩,
   ⟨{ stD with core := { mode := .pressRun, imp := 9 }, cs := { chans := [(1, { queue := [⟨5, 0⟩, ⟨9, 1⟩], testAt := some 7 })] } }, 1, ⟨5, 0⟩, [⟨9, 1⟩], 7, live_of (by decide), by decide, by decide, by decide, by decide, by decide, by decide, by decide⟩,
   ⟨{ stD with cs := { tags := [(0, { heldW with cells := [(0, { data := 7, dirty := true })] })], chans := [(0, { st := 2, used := [0] }), (1, { used := [0] })] } }, 0, 0, 2, 131072, { heldW with cells := [(0, { data := 7, dirty := true })] }, live_of (by decide), by decide, by decide, by decide, by decide, by decide, by decide, by decide, by decide⟩,
   ⟨{ stD with core := { imp := 9 }, cs := { merge := [(3, ⟨5, [(2, 7)], 4⟩)] } }, 3, ⟨5, [(2, 7)], 4⟩, List.replicate 16 0, live_of (by decide), by decide, by decide, by decide +kernel, by decide⟩,
   ⟨{ stD with cs := { merge := [(3, ⟨5, [(2, 7)], 0⟩)] } }, 3, ⟨5, [(2, 7)], 0⟩, live_of (by decide), by decide, by decide⟩,
   ⟨{ stD with core := { mode := .maintenance } }, live_of (by decide), by decide⟩,
   ⟨stD, live_of (by decide), by decide⟩,
   ⟨{ stD with rf := regsOf [(Reg.Ecc.ECC_TEST_EN, 0, 1)], cs := { win := [(5, 7)] } }, live_of (by decide), by decide⟩,
   ⟨{ stD with cs := { mapDue := true, map := [⟨4, 0, 3, 0xFF, 0⟩] } }, live_of (by decide), by decide, by decide⟩,
   ⟨stD, live_of (by decide), by decide⟩⟩
end

section
/-!
SUPPORT. What exec and step do as a whole: they always answer, without power they do nothing, and what every one of them keeps
(Laws/Kept.lean) gathered from the meanings into one lemma about exec. The scope obligations follow from these.
-/

namespace Sys2Proof.Machine

/-! ### The module answers every command, and does nothing without power -/

/-- No meaning ends in a fault or a refusal. -/
theorem exec_answers (c : Instr) (s : State) : ∃ t, exec c s = .next t := by
  cases c <;> exact ⟨_, rfl⟩

section Unpowered
variable {s : State}

/-- A module without power does not serve its host. -/
theorem hostUp_off (h : s.core.powered = false) : s.hostUp = false := by simp [State.hostUp, h]

theorem onBus_off (f : State → State) (h : s.core.powered = false) : onBus f s = s := if_neg (by simp [sdrOn, hostUp_off h])

theorem onAddr_off (f : State → State) (h : s.core.powered = false) : onAddr f s = s := if_neg (by simp [sdrOn, hostUp_off h])

theorem onHdr_off (f : State → State) (h : s.core.powered = false) : onHdr f s = s := if_neg (by simp [hostUp_off h])

/-- Only a cold reset reaches a module without power: every other meaning acts through one of the four guards. -/
theorem exec_off (h : s.core.powered = false) (c : Instr) (hc : ∀ i, c ≠ .coldReset i) : exec c s = .next s := by
  cases c with
  | coldReset i => exact absurd rfl (hc i)
  | entdaa | setdasa | rstdaa | enec | disec | setmwl | setmrl | rstact | cccUnsupported | enthdr0 | enthdrUnsupported | legacyI2cTransfer =>
    exact congrArg Host.Outcome.next (onBus_off _ h)
  | setnewda | getpid | getbcr | getdcr | getstatus | getmwl | getmrl | getmxds | privateWrite | privateRead =>
    exact congrArg Host.Outcome.next (onAddr_off _ h)
  | hdrDdrWrite | hdrDdrSetPointer | hdrDdrRead => exact congrArg Host.Outcome.next (onHdr_off _ h)
  | _ => exact congrArg Host.Outcome.next (whenOn_off _ h)

end Unpowered

/-! ### What every command keeps -/

section Keeps
variable {q : List Instr} {n : Nat} {s t : State}

/-- A boundary of a module with power counts one impression. -/
theorem exec_impressionBoundary_kept (x : BoundaryIn) (hp : s.core.powered = true) (hs : Kept q n s)
    (ht : exec (.impressionBoundary x) s = .next t) : Kept q (n + 1) t := by
  have hk : Kept q (n + 1) (whenOn (doImpressionBoundary x) s) := by
    rw [whenOn_on _ hp]
    exact doImpressionBoundary_kept x s hs
  cases ht
  exact hk

/-- A cold reset that starts the timebase starts the impression counter. -/
theorem exec_coldReset_kept (i : Nat) (hs : Kept q n s) (ht : exec (.coldReset i) s = .next t) :
    Kept q (if !s.core.powered ∨ s.core.mode = .powerQualify then 0 else n) t := by
  cases ht
  exact doColdReset_kept i s hs

/-- Every other command keeps the impression counter too. -/
theorem exec_kept (c : Instr) (hb : ∀ x, c ≠ .impressionBoundary x) (hc : ∀ i, c ≠ .coldReset i) (hs : Kept q n s)
    (ht : exec c s = .next t) : Kept q n t := by
  cases c with
  | impressionBoundary x => exact absurd rfl (hb x)
  | coldReset i => exact absurd rfl (hc i)
  | registerWrite addr word => exact execRegisterWrite_kept addr word s hs t ht
  | frameReceived p f => exact execFrameReceived_kept p f s hs t ht
  | xoffRefresh p => exact execXoffRefresh_kept p s hs t ht
  | xonSend p => exact execXonSend_kept p s hs t ht
  | pfcFrameReceived p prio quanta => exact execPfcFrameReceived_kept p prio quanta s hs t ht
  | arpRequest p target => exact execArpRequest_kept p target s hs t ht
  | neighborSolicitation p target => exact execNeighborSolicitation_kept p target s hs t ht
  | arpReplyClaim p addr => exact execArpReplyClaim_kept p addr s hs t ht
  | neighbourCacheAgeOut p a => exact execNeighbourCacheAgeOut_kept p a s hs t ht
  | duplicateAddressDetectionDone p duplicate => exact execDuplicateAddressDetectionDone_kept p duplicate s hs t ht
  | echoRequest p a bytes => exact execEchoRequest_kept p a bytes s hs t ht
  | synReceived x => exact execSynReceived_kept x s hs t ht
  | retransmissionTimeout conn => exact execRetransmissionTimeout_kept conn s hs t ht
  | icreqTimeout conn => exact execIcreqTimeout_kept conn s hs t ht
  | icreq x => exact execIcreq_kept x s hs t ht
  | h2ctermreq conn fes => exact execH2ctermreq_kept conn fes s hs t ht
  | h2cdata x => exact execH2cdata_kept x s hs t ht
  | connect x => exact execConnect_kept x s hs t ht
  | propertySet h prop v => exact execPropertySet_kept h prop v s hs t ht
  | propertyGet h prop => exact execPropertyGet_kept h prop s hs t ht
  | shutdownComplete cntlid => exact execShutdownComplete_kept cntlid s hs t ht
  | authenticationSend h msg => exact execAuthenticationSend_kept h msg s hs t ht
  | authenticationReceive h => exact execAuthenticationReceive_kept h s hs t ht
  | authFailClose conn => exact execAuthFailClose_kept conn s hs t ht
  | getLogPage h lid offset => exact execGetLogPage_kept h lid offset s hs t ht
  | identify h cns csi => exact execIdentify_kept h cns csi s hs t ht
  | setFeatures h fid save value => exact execSetFeatures_kept h fid save value s hs t ht
  | getFeatures h fid => exact execGetFeatures_kept h fid s hs t ht
  | asynchronousEventRequest h => exact execAsynchronousEventRequest_kept h s hs t ht
  | keepAlive h => exact execKeepAlive_kept h s hs t ht
  | keepAliveExpired cntlid => exact execKeepAliveExpired_kept cntlid s hs t ht
  | securityProtocolList h protocol => exact execSecurityProtocolList_kept h protocol s hs t ht
  | nonceRequest h => exact execNonceRequest_kept h s hs t ht
  | resetPermit h x => exact execResetPermit_kept h x s hs t ht
  | damageStatementRequest h zoneStart challenge => exact execDamageStatementRequest_kept h zoneStart challenge s hs t ht
  | damageStatementReceive h => exact execDamageStatementReceive_kept h s hs t ht
  | flush h => exact execFlush_kept h s hs t ht
  | flushComplete conn cid => exact execFlushComplete_kept conn cid s hs t ht
  | write x => exact execWrite_kept x s hs t ht
  | read x => exact execRead_kept x s hs t ht
  | reportZones x => exact execReportZones_kept x s hs t ht
  | zoneOpen x => exact execZoneOpen_kept x s hs t ht
  | zoneClose x => exact execZoneClose_kept x s hs t ht
  | zoneFinish x => exact execZoneFinish_kept x s hs t ht
  | zoneReset x => exact execZoneReset_kept x s hs t ht
  | zoneOffline x => exact execZoneOffline_kept x s hs t ht
  | zoneActionDeferred ns zone => exact execZoneActionDeferred_kept ns zone s hs t ht
  | zoneAppend x => exact execZoneAppend_kept x s hs t ht
  | invalidCommandOpcode h admin opcode => exact execInvalidCommandOpcode_kept h admin opcode s hs t ht
  | admission conn cid => exact execAdmission_kept conn cid s hs t ht
  | readyToTransferRelease conn cid => exact execReadyToTransferRelease_kept conn cid s hs t ht
  | writeCompletionRelease conn cid => exact execWriteCompletionRelease_kept conn cid s hs t ht
  | appendAssign conn cid => exact execAppendAssign_kept conn cid s hs t ht
  | sealDigest ns zone back => exact execSealDigest_kept ns zone back s hs t ht
  | colophonSigned ns zone => exact execColophonSigned_kept ns zone s hs t ht
  | permitReset ns zone => exact execPermitReset_kept ns zone s hs t ht
  | oztSel v => exact execOztSel_kept v s hs t ht
  | connSel v => exact execConnSel_kept v s hs t ht
  | linkLoss p => exact execLinkLoss_kept p s hs t ht
  | linkUp p => exact execLinkUp_kept p s hs t ht
  | linkHoldExpired p => exact execLinkHoldExpired_kept p s hs t ht
  | fePortReset p => exact execFePortReset_kept p s hs t ht
  | portEnable p => exact execPortEnable_kept p s hs t ht
  | memberSel g v => exact execMemberSel_kept g v s hs t ht
  | mapGo g => exact execMapGo_kept g s hs t ht
  | destageAgeExpired x => exact execDestageAgeExpired_kept x s hs t ht
  | updateBegin x => exact execUpdateBegin_kept x s hs t ht
  | updateReadsComplete update reads => exact execUpdateReadsComplete_kept update reads s hs t ht
  | updateReady update => exact execUpdateReady_kept update s hs t ht
  | folioWriteComplete update pos => exact execFolioWriteComplete_kept update pos s hs t ht
  | bitmapCommit g => exact execBitmapCommit_kept g s hs t ht
  | bitmapCommitComplete g targets => exact execBitmapCommitComplete_kept g targets s hs t ht
  | regionBitClear g region => exact execRegionBitClear_kept g region s hs t ht
  | holderReplace g holder => exact execHolderReplace_kept g holder s hs t ht
  | resyncItem x reads => exact execResyncItem_kept x reads s hs t ht
  | readReconstruct x o => exact execReadReconstruct_kept x o s hs t ht
  | repairWrite x pos between => exact execRepairWrite_kept x pos between s hs t ht
  | repairWriteComplete x pos => exact execRepairWriteComplete_kept x pos s hs t ht
  | selfTestReadback x pos verified => exact execSelfTestReadback_kept x pos verified s hs t ht
  | proofingItem g reads => exact execProofingItem_kept g reads s hs t ht
  | hbSel g v => exact execHbSel_kept g v s hs t ht
  | corrSel g v => exact execCorrSel_kept g v s hs t ht
  | linkLossFailTimeout p => exact execLinkLossFailTimeout_kept p s hs t ht
  | deferredDeclaration g member => exact execDeferredDeclaration_kept g member s hs t ht
  | failGo g => exact execFailGo_kept g s hs t ht
  | criticalItem g reads => exact execCriticalItem_kept g reads s hs t ht
  | normalItem g reads => exact execNormalItem_kept g reads s hs t ht
  | rebuildItemComplete x => exact execRebuildItemComplete_kept x s hs t ht
  | formatComplete p => exact execFormatComplete_kept p s hs t ht
  | copybackItem g entry reads => exact execCopybackItem_kept g entry reads s hs t ht
  | copybackWriteComplete g entry => exact execCopybackWriteComplete_kept g entry s hs t ht
  | entSel g v => exact execEntSel_kept g v s hs t ht
  | windowClaim g => exact execWindowClaim_kept g s hs t ht
  | windowReadComplete g reads => exact execWindowReadComplete_kept g reads s hs t ht
  | windowParityComplete g => exact execWindowParityComplete_kept g s hs t ht
  | windowWriteComplete g => exact execWindowWriteComplete_kept g s hs t ht
  | windowCheckpointDurable g => exact execWindowCheckpointDurable_kept g s hs t ht
  | driveLinkUp p rate => exact execDriveLinkUp_kept p rate s hs t ht
  | driveClassify p d a b => exact execDriveClassify_kept p d a b s hs t ht
  | bringupTimeout p => exact execBringupTimeout_kept p s hs t ht
  | commandTimeout p tag => exact execCommandTimeout_kept p tag s hs t ht
  | ladderStepTimeout p => exact execLadderStepTimeout_kept p s hs t ht
  | ladderStepSuccess p => exact execLadderStepSuccess_kept p s hs t ht
  | driveCommandError p tag blocks data => exact execDriveCommandError_kept p tag blocks data s hs t ht
  | linkCrcBurst p errors => exact execLinkCrcBurst_kept p errors s hs t ht
  | linkTest p => exact execLinkTest_kept p s hs t ht
  | linkSelfTestEnd p codeViolations crcErrors => exact execLinkSelfTestEnd_kept p codeViolations crcErrors s hs t ht
  | driveLinkLoss p => exact execDriveLinkLoss_kept p s hs t ht
  | presentWrite p v => exact execPresentWrite_kept p v s hs t ht
  | pwrOnWrite p v => exact execPwrOnWrite_kept p v s hs t ht
  | claim p => exact execClaim_kept p s hs t ht
  | drivePortReset p => exact execDrivePortReset_kept p s hs t ht
  | absentLimitExpired g member => exact execAbsentLimitExpired_kept g member s hs t ht
  | catchupItem g member sheet reads => exact execCatchupItem_kept g member sheet reads s hs t ht
  | signatureCreate g => exact execSignatureCreate_kept g s hs t ht
  | sataFormatItem p => exact execSataFormatItem_kept p s hs t ht
  | formatPoll p pct => exact execFormatPoll_kept p pct s hs t ht
  | formatTimeout p => exact execFormatTimeout_kept p s hs t ht
  | reclaim c => exact execReclaim_kept c s hs t ht
  | evbDrop slot => exact execEvbDrop_kept slot s hs t ht
  | reGo e => exact execReGo_kept e s hs t ht
  | rangeVisit e => exact execRangeVisit_kept e s hs t ht
  | parkedLineApply e line => exact execParkedLineApply_kept e line s hs t ht
  | rangeComplete e => exact execRangeComplete_kept e s hs t ht
  | patrolScrub c r h word => exact execPatrolScrub_kept c r h word s hs t ht
  | caseSelfTest c r => exact execCaseSelfTest_kept c r s hs t ht
  | cleanOnlyCopy c => exact execCleanOnlyCopy_kept c s hs t ht
  | mergeEntryFlush slot => exact execMergeEntryFlush_kept slot s hs t ht
  | eccTestEn v => exact execEccTestEn_kept v s hs t ht
  | devSel v => exact execDevSel_kept v s hs t ht
  | gaugeSample x => exact execGaugeSample_kept x s hs t ht
  | inputLow b mv => exact execInputLow_kept b mv s hs t ht
  | inputHealthy b mv => exact execInputHealthy_kept b mv s hs t ht
  | recastComplete lost indexOk => exact execRecastComplete_kept lost indexOk s hs t ht
  | enclTempWrite v => exact execEnclTempWrite_kept v s hs t ht
  | minShareWrite addr v => exact execMinShareWrite_kept addr v s hs t ht
  | switchOverVerdict pair passA passB => exact execSwitchOverVerdict_kept pair passA passB s hs t ht
  | heldImpressionRelease pair sigA sigB => exact execHeldImpressionRelease_kept pair sigA sigB s hs t ht
  | adoptionRelease pair => exact execAdoptionRelease_kept pair s hs t ht
  | simplexSelfTest pair pass => exact execSimplexSelfTest_kept pair pass s hs t ht
  | spareSelfTest engine pass => exact execSpareSelfTest_kept engine pass s hs t ht
  | dmaGo c => exact execDmaGo_kept c s hs t ht
  | dmaAbort c => exact execDmaAbort_kept c s hs t ht
  | dmaStep c => exact execDmaStep_kept c s hs t ht
  | busErrorRetry c k addr ok => exact execBusErrorRetry_kept c k addr ok s hs t ht
  | freeze v => exact execFreeze_kept v s hs t ht
  | rateWindowEnd code => exact execRateWindowEnd_kept code s hs t ht
  | powerQualifyEnd packId => exact execPowerQualifyEnd_kept packId s hs t ht
  | selfTestEnd failedEngines failedChannels st0Ok st1Ok rngOk => exact execSelfTestEnd_kept failedEngines failedChannels st0Ok st1Ok rngOk s hs t ht
  | caseInitEnd failedChannels => exact execCaseInitEnd_kept failedChannels s hs t ht
  | signatureEnterService g x => exact execSignatureEnterService_kept g x s hs t ht
  | asmForce mask => exact execAsmForce_kept mask s hs t ht
  | resetCmd v => exact execResetCmd_kept v s hs t ht
  | entdaa addr => exact execEntdaa_kept addr s hs t ht
  | setdasa addr => exact execSetdasa_kept addr s hs t ht
  | setnewda addr => exact execSetnewda_kept addr s hs t ht
  | enec bits => exact execEnec_kept bits s hs t ht
  | disec bits => exact execDisec_kept bits s hs t ht
  | setmwl v => exact execSetmwl_kept v s hs t ht
  | setmrl v => exact execSetmrl_kept v s hs t ht
  | rstact action => exact execRstact_kept action s hs t ht
  | cccUnsupported code direct => exact execCccUnsupported_kept code direct s hs t ht
  | enthdrUnsupported n => exact execEnthdrUnsupported_kept n s hs t ht
  | privateWrite bytes => exact execPrivateWrite_kept bytes s hs t ht
  | privateRead bytes => exact execPrivateRead_kept bytes s hs t ht
  | hdrDdrWrite halves => exact execHdrDdrWrite_kept halves s hs t ht
  | hdrDdrSetPointer halves => exact execHdrDdrSetPointer_kept halves s hs t ht
  | hdrDdrRead words => exact execHdrDdrRead_kept words s hs t ht
  | legacyI2cTransfer bytes readBytes => exact execLegacyI2cTransfer_kept bytes readBytes s hs t ht
  | ibiRequest ack => exact execIbiRequest_kept ack s hs t ht
  | ibiRetry ack => exact execIbiRetry_kept ack s hs t ht
  | winSel v => exact execWinSel_kept v s hs t ht
  | windowAccess write => exact execWindowAccess_kept write s hs t ht
  | inputEnable b mv => exact execInputEnable_kept b mv s hs t ht
  | inputOvercurrent b => exact execInputOvercurrent_kept b s hs t ht
  | inputStageRetry b => exact execInputStageRetry_kept b s hs t ht
  | inputOvervoltage b mv => exact execInputOvervoltage_kept b mv s hs t ht
  | inputStageOff b mv => exact execInputStageOff_kept b mv s hs t ht
  | busTakeover busMv => exact execBusTakeover_kept busMv s hs t ht
  | driveReadComplete p tag blocks => exact execDriveReadComplete_kept p tag blocks s hs t ht
  | stereoHalfLeavesService h => exact execStereoHalfLeavesService_kept h s hs t ht
  | portDisable p => exact execPortDisable_kept p s hs t ht
  | tcpConnectionClosed conn reset => exact execTcpConnectionClosed_kept conn reset s hs t ht
  | pfcPauseExpired p => exact execPfcPauseExpired_kept p s hs t ht
  | connDrop => exact execConnDrop_kept s hs t ht
  | corruptionHourRoll => exact execCorruptionHourRoll_kept s hs t ht
  | ageIncrement => exact execAgeIncrement_kept s hs t ht
  | reDuplex => exact execReDuplex_kept s hs t ht
  | probeGo => exact execProbeGo_kept s hs t ht
  | repairMapWrite => exact execRepairMapWrite_kept s hs t ht
  | gaugeHibernate => exact execGaugeHibernate_kept s hs t ht
  | gaugeWake => exact execGaugeWake_kept s hs t ht
  | hibernationHour => exact execHibernationHour_kept s hs t ht
  | gaugeReference => exact execGaugeReference_kept s hs t ht
  | endOfCharge => exact execEndOfCharge_kept s hs t ht
  | chargerFault => exact execChargerFault_kept s hs t ht
  | packLowClear => exact execPackLowClear_kept s hs t ht
  | calRest => exact execCalRest_kept s hs t ht
  | calRestTimeout => exact execCalRestTimeout_kept s hs t ht
  | gsbRefresh => exact execGsbRefresh_kept s hs t ht
  | gsbLatch => exact execGsbLatch_kept s hs t ht
  | gsbLoad => exact execGsbLoad_kept s hs t ht
  | gsbNone => exact execGsbNone_kept s hs t ht
  | rideThroughExpired => exact execRideThroughExpired_kept s hs t ht
  | pwrfailAsserted => exact execPwrfailAsserted_kept s hs t ht
  | pwrfailStuck => exact execPwrfailStuck_kept s hs t ht
  | pwrfailTrusted => exact execPwrfailTrusted_kept s hs t ht
  | castComplete => exact execCastComplete_kept s hs t ht
  | resumeFromCase => exact execResumeFromCase_kept s hs t ht
  | slotEraseComplete => exact execSlotEraseComplete_kept s hs t ht
  | castConsumed => exact execCastConsumed_kept s hs t ht
  | castAbandon => exact execCastAbandon_kept s hs t ht
  | releaseGo => exact execReleaseGo_kept s hs t ht
  | releaseUpdatesRetired => exact execReleaseUpdatesRetired_kept s hs t ht
  | releaseComplete => exact execReleaseComplete_kept s hs t ht
  | thermalStepDown => exact execThermalStepDown_kept s hs t ht
  | enclTempStale => exact execEnclTempStale_kept s hs t ht
  | fairWindowEnd => exact execFairWindowEnd_kept s hs t ht
  | transientHourRoll => exact execTransientHourRoll_kept s hs t ht
  | engineRecordWrite => exact execEngineRecordWrite_kept s hs t ht
  | sharedStopRestart => exact execSharedStopRestart_kept s hs t ht
  | errataFlush => exact execErrataFlush_kept s hs t ht
  | logFlush => exact execLogFlush_kept s hs t ht
  | freezeExpired => exact execFreezeExpired_kept s hs t ht
  | logClear => exact execLogClear_kept s hs t ht
  | logClearComplete => exact execLogClearComplete_kept s hs t ht
  | anchorGo => exact execAnchorGo_kept s hs t ht
  | imgVerify => exact execImgVerify_kept s hs t ht
  | imgCommit => exact execImgCommit_kept s hs t ht
  | imgConfirm => exact execImgConfirm_kept s hs t ht
  | stageClear => exact execStageClear_kept s hs t ht
  | imageJudgeComplete => exact execImageJudgeComplete_kept s hs t ht
  | imageStoreComplete => exact execImageStoreComplete_kept s hs t ht
  | arbFuseAdvance => exact execArbFuseAdvance_kept s hs t ht
  | fountProbeTimeout => exact execFountProbeTimeout_kept s hs t ht
  | prechargeDone => exact execPrechargeDone_kept s hs t ht
  | prechargeTimeout => exact execPrechargeTimeout_kept s hs t ht
  | keyWaitExit => exact execKeyWaitExit_kept s hs t ht
  | asmWaitExpired => exact execAsmWaitExpired_kept s hs t ht
  | asmDone => exact execAsmDone_kept s hs t ht
  | assembleEnd => exact execAssembleEnd_kept s hs t ht
  | maintGo => exact execMaintGo_kept s hs t ht
  | maintExit => exact execMaintExit_kept s hs t ht
  | resetNAsserted => exact execResetNAsserted_kept s hs t ht
  | resetNReleased => exact execResetNReleased_kept s hs t ht
  | snapGo => exact execSnapGo_kept s hs t ht
  | counterRecordWrite => exact execCounterRecordWrite_kept s hs t ht
  | rstdaa => exact execRstdaa_kept s hs t ht
  | getpid => exact execGetpid_kept s hs t ht
  | getbcr => exact execGetbcr_kept s hs t ht
  | getdcr => exact execGetdcr_kept s hs t ht
  | getstatus => exact execGetstatus_kept s hs t ht
  | getmwl => exact execGetmwl_kept s hs t ht
  | getmrl => exact execGetmrl_kept s hs t ht
  | getmxds => exact execGetmxds_kept s hs t ht
  | targetResetPattern => exact execTargetResetPattern_kept s hs t ht
  | enthdr0 => exact execEnthdr0_kept s hs t ht
  | hdrExit => exact execHdrExit_kept s hs t ht
  | tamperEdge => exact execTamperEdge_kept s hs t ht
  | tamperClearDone => exact execTamperClearDone_kept s hs t ht
  | attnEdge => exact execAttnEdge_kept s hs t ht
  | attnStuck => exact execAttnStuck_kept s hs t ht
  | kekLoad => exact execKekLoad_kept s hs t ht
  | kekRotate => exact execKekRotate_kept s hs t ht
  | kekRotationComplete => exact execKekRotationComplete_kept s hs t ht
  | krecImport => exact execKrecImport_kept s hs t ht
  | secLoad => exact execSecLoad_kept s hs t ht
  | rngHealthFail => exact execRngHealthFail_kept s hs t ht
  | pwrfailDeasserted => exact execPwrfailDeasserted_kept s hs t ht

/-- Every command keeps the stores canonical and the queue as it is; what it makes of the impression counter is another matter. -/
theorem exec_kept_some (c : Instr) (hs : Kept q n s) (ht : exec c s = .next t) : ∃ m, Kept q m t := by
  by_cases hb : ∃ x, c = .impressionBoundary x
  · obtain ⟨x, rfl⟩ := hb
    cases hp : s.core.powered with
    | true => exact ⟨n + 1, exec_impressionBoundary_kept x hp hs ht⟩
    | false =>
      rw [exec_off hp _ fun _ e => by cases e] at ht
      cases ht
      exact ⟨n, hs⟩
  · by_cases hc : ∃ i, c = .coldReset i
    · obtain ⟨i, rfl⟩ := hc
      exact ⟨_, exec_coldReset_kept i hs ht⟩
    · exact ⟨n, exec_kept c (fun x e => hb ⟨x, e⟩) (fun i e => hc ⟨i, e⟩) hs ht⟩

/-- A state with canonical stores, seen as what the laws of Kept start from. -/
theorem Canonical.kept (h : Canonical s) : Kept s.pending s.core.imp s := ⟨h, rfl, rfl⟩

/-- Taking the front command from the queue leaves the stores alone. -/
theorem Canonical.setPending (h : Canonical s) (rest : List Instr) : Canonical { s with pending := rest } :=
  ⟨h.regs, h.latches, h.stage, h.hostBuf, h.win4, h.win5⟩

theorem exec_canonical (c : Instr) (h : Canonical s) (ht : exec c s = .next t) : Canonical t := by
  obtain ⟨_, hk⟩ := exec_kept_some c h.kept ht
  exact hk.canon

theorem step_canonical (h : Canonical s) (ht : step s = .next t) : Canonical t := by
  unfold step at ht
  split at ht
  · cases ht
    exact h
  · exact exec_canonical _ (h.setPending _) ht

end Keeps

/-- The stores of a cold reset: the register fields at their reset values, everything else empty. -/
theorem State.reset_canonical : Canonical State.reset := by
  have hr : Canon coldRegs := Canon.coldRegs
  unfold State.reset
  -- kept opaque: checking the parts must not compute the table of reset values
  generalize coldRegs = r at hr ⊢
  exact ⟨hr, List.Pairwise.nil, Canon.nil, Canon.nil, Canon.nil, Canon.nil⟩

/-! ### The scope obligations -/

/-- Settles O2: no meaning stops, and without power only a cold reset passes the guards of the meanings. -/
theorem everyCommandAnswersANextState : Obligations.EveryCommandAnswersANextState := by
  unfold Obligations.EveryCommandAnswersANextState
  exact ⟨exec_answers, fun c s h hc => exec_off h c hc⟩

/-- Settles O3: the stores by the laws of the reset values, the other parts by the defaults of State. -/
theorem resetIsCanonical : Obligations.ResetIsCanonical := by
  unfold Obligations.ResetIsCanonical
  exact ⟨State.reset_canonical, rfl, rfl, rfl, rfl, rfl, rfl, rfl, rfl, rfl, rfl⟩

/-- Settles O4: each command keeps the stores canonical, and an idle step changes nothing. -/
theorem stepKeepsTheStoresCanonical : Obligations.StepKeepsTheStoresCanonical := by
  unfold Obligations.StepKeepsTheStoresCanonical
  intro s t h ht
  exact step_canonical h ht

/-- Settles O6: a boundary counts one, a cold reset that starts the timebase counts from 0, and the rest keep the counter. -/
theorem impressionCounterMovesAtBoundaries : Obligations.ImpressionCounterMovesAtBoundaries := by
  unfold Obligations.ImpressionCounterMovesAtBoundaries
  refine ⟨rfl, fun x s t h ht => ?_, fun i s t h ht => ?_, fun c s t h hb hc ht => ?_⟩
  · exact (exec_impressionBoundary_kept x h.power h.canon.kept ht).imp
  · simpa using (exec_coldReset_kept i h.kept ht).imp
  · exact (exec_kept c hb hc h.kept ht).imp

end Sys2Proof.Machine
end

section
/-!
SUPPORT. The queue of waiting commands: what a step takes from it, that no word of bits adds to it, and that no command edits it.
-/

namespace Sys2Proof.Machine

variable {s t : State}

/-- An empty queue idles (the model's choice, log entry 1). -/
theorem step_of_pending_nil (h : s.pending = []) : step s = .next s := by
  simp only [step, h]

/-- A step takes the front command off the queue before it runs it. -/
theorem step_of_pending_cons {c : Instr} {rest : List Instr} (h : s.pending = c :: rest) :
    step s = exec c { s with pending := rest } := by
  simp only [step, h]

@[simp] theorem decodeTableWord_eq_none (nbits w : Nat) : decodeTableWord nbits w = none := rfl

/-- Since no word spells a command, none reaches the queue by a fetched word. -/
@[simp] theorem State.withFetchWord_eq_self (s : State) (nbits w : Nat) : s.withFetchWord nbits w = s := by
  simp only [State.withFetchWord, decodeTableWord_eq_none]

/-- The queue is one of the parts that every command keeps. -/
theorem exec_pending (c : Instr) (h : Canonical s) (ht : exec c s = .next t) : t.pending = s.pending := by
  obtain ⟨_, hk⟩ := exec_kept_some c h.kept ht
  exact hk.queue

/-- Settles O1: the two cases of the queue, and the table that decodes no word. -/
theorem stepRunsTheFrontCommand : Obligations.StepRunsTheFrontCommand := by
  unfold Obligations.StepRunsTheFrontCommand
  refine ⟨fun c rest s => ?_, fun s h => ?_, fun s nbits w => ?_⟩
  · exact step_of_pending_cons (s := { s with pending := c :: rest }) rfl
  · exact step_of_pending_nil h
  · exact ⟨decodeTableWord_eq_none nbits w, s.withFetchWord_eq_self nbits w⟩

/-- Settles O5: the queue is among what every command keeps, the boundary and a cold reset included. -/
theorem commandsLeaveTheQueueAlone : Obligations.CommandsLeaveTheQueueAlone := by
  unfold Obligations.CommandsLeaveTheQueueAlone
  intro c s t h ht
  exact exec_pending c h ht

end Sys2Proof.Machine
end

section
/-!
SUPPORT. The front-end ports: fields of different places, frames that leave, frames that arrive, and the neighbour cache (R31 to R40).
-/

namespace Sys2Proof.Machine

variable {s : State} {p : Nat}

/-! ### Fields that lie at different places -/

/-- Two fields of one kind of block, at one occurrence. -/
theorem key_ne_of_place {F G : FieldSpec} (i : Nat) (hs : F.s1 = G.s1 ∧ F.s2 = G.s2 ∧ F.n2 = G.n2 := by decide)
    (hp : G.base * 32 + G.lo ≠ F.base * 32 + F.lo := by decide) : G.key i ≠ F.key i := by
  obtain ⟨h1, h2, h3⟩ := hs
  unfold FieldSpec.key FieldSpec.addr
  rw [h1, h2, h3]
  omega

/-- A single field that lies below a block of fields. -/
theorem key_ne_of_below {F G : FieldSpec} (i : Nat) (hp : G.base * 32 + G.lo < F.base * 32 + F.lo := by decide) : G.key 0 ≠ F.key i := by
  unfold FieldSpec.key FieldSpec.addr
  simp only [Nat.zero_div, Nat.zero_mod, Nat.zero_mul, Nat.add_zero]
  have h1 := Nat.zero_le (i / F.n2 * F.s1)
  have h2 := Nat.zero_le (i % F.n2 * F.s2)
  omega

/-! ### What the operations of a port change -/

/-- The register fields, the ports, and what leaves the module; every other part is as before. -/
def PortOnly (s t : State) : Prop := t = { s with rf := t.rf, fe := t.fe, out := t.out }

theorem PortOnly.trans {s t u : State} (h : PortOnly s t) (k : PortOnly t u) : PortOnly s u := by
  unfold PortOnly at *
  rw [k, h]

theorem PortOnly.refl (s : State) : PortOnly s s := rfl
theorem PortOnly.emit {t : State} (h : PortOnly s t) (o : Out) : PortOnly s (t.emit o) := h.trans rfl
theorem PortOnly.bump {t : State} (h : PortOnly s t) (F : FieldSpec) (n i : Nat) : PortOnly s (t.bump F n i) := h.trans rfl
theorem PortOnly.updFe {t : State} (h : PortOnly s t) (q : Nat) (g : FePort → FePort) : PortOnly s (t.updFe q g) := h.trans rfl

theorem PortOnly.raise {t : State} (h : PortOnly s t) (F : FieldSpec) (i : Nat) : PortOnly s (t.raise F i) := h.trans rfl

/-- An event that arises after a port's operation enters the Errata log beside it. -/
theorem PortOnly.log {t : State} (h : PortOnly s t) (c r : Nat) (l : List Nat) :
    t.log c r l = { s with rf := (t.log c r l).rf, el := (t.log c r l).el, fe := (t.log c r l).fe, out := (t.log c r l).out } := by
  unfold PortOnly at h
  rw [h]
  rfl

/-- Where nothing leaves, the register fields and the ports are all that changes. -/
theorem PortOnly.quiet {t : State} (h : PortOnly s t) (ho : t.out = s.out) : t = { s with rf := t.rf, fe := t.fe } := by
  unfold PortOnly at h
  rwa [ho] at h

theorem fePort_of_fe {t : State} (h : t.fe = s.fe) (q : Nat) : t.fePort q = s.fePort q := by
  unfold State.fePort
  rw [h]

/-! ### Frames that leave -/

/-- While no pause holds the port, every frame leaves as a flow-control frame does. -/
theorem sendFrame_unpaused (h : (s.fePort p).pause = none) (f : FrameOut) : sendFrame p f s = sendControl p f s := by
  unfold sendFrame sendControl transmit
  rw [h]
  rfl

@[simp] theorem sendControl_out (f : FrameOut) : (sendControl p f s).out = .frame p f :: s.out := by
  rw [sendControl, State.updFe_out, State.bump_out, State.emit_out]

theorem PortOnly.sendControl {t : State} (h : PortOnly s t) (f : FrameOut) : PortOnly s (sendControl p f t) := ((h.emit _).bump _ _ _).updFe _ _

theorem Rwf.sendControl (h : Rwf s) (f : FrameOut) : Rwf (sendControl p f s) := ((h.emit _).bump _ _ _).updFe _ _

theorem get_sendControl_tx (h : Rwf s) (f : FrameOut) :
    (sendControl p f s).get Reg.FeP.TX_FRAMES p = min (s.get Reg.FeP.TX_FRAMES p + 1) (2 ^ Reg.FeP.TX_FRAMES.w - 1) := by
  unfold sendControl
  rw [get_updFe, get_bump_eq (h.emit _), get_emit]

theorem get_sendControl_ne {G : FieldSpec} {j : Nat} (h : G.key j ≠ Reg.FeP.TX_FRAMES.key p) (f : FrameOut) : (sendControl p f s).get G j = s.get G j := by
  unfold sendControl
  rw [get_updFe, get_bump_ne h, get_emit]

theorem RegsBut.sendControl {ks : List Nat} {t : State} (h : RegsBut ks s t) (f : FrameOut) (m : Reg.FeP.TX_FRAMES.key p ∈ ks) :
    RegsBut ks s (sendControl p f t) := ((h.emit _).bump _ _ _ m).updFe _ _

theorem fePort_sendControl (f : FrameOut) (q : Nat) :
    (sendControl p f s).fePort q = if q = p then { s.fePort p with tx := (s.fePort p).tx + 1 } else s.fePort q := fePort_updFe _ _ _ _

/-! ### Frames that arrive (R32 to R34) -/

/-- The frame is counted in RX_FRAMES and in the port's log page. -/
def rxCounted (p : Nat) (s : State) : State := (s.bump Reg.FeP.RX_FRAMES 1 p).updFe p fun x => { x with rx := x.rx + 1 }

/-- The frame is counted, and its bytes are in the receive FIFO. -/
def rxTaken (p n : Nat) (s : State) : State := (rxCounted p s).updFe p fun x => { x with fifo := x.fifo + n }

theorem Rwf.rxCounted (h : Rwf s) : Rwf (rxCounted p s) := (h.bump _ _ _).updFe _ _

theorem get_rxCounted_rx (h : Rwf s) :
    (rxCounted p s).get Reg.FeP.RX_FRAMES p = min (s.get Reg.FeP.RX_FRAMES p + 1) (2 ^ Reg.FeP.RX_FRAMES.w - 1) := by
  unfold rxCounted
  rw [get_updFe, get_bump_eq h]

theorem get_rxCounted_ne {G : FieldSpec} {j : Nat} (h : G.key j ≠ Reg.FeP.RX_FRAMES.key p) : (rxCounted p s).get G j = s.get G j := by
  unfold rxCounted
  rw [get_updFe, get_bump_ne h]

theorem RegsBut.rxCounted {ks : List Nat} {t : State} (h : RegsBut ks s t) (m : Reg.FeP.RX_FRAMES.key p ∈ ks) : RegsBut ks s (rxCounted p t) :=
  (h.bump _ _ _ m).updFe _ _

theorem fePort_rxCounted (q : Nat) : (rxCounted p s).fePort q = if q = p then { s.fePort p with rx := (s.fePort p).rx + 1 } else s.fePort q :=
  fePort_updFe _ _ _ _

theorem get_rxTaken_rx (h : Rwf s) (n : Nat) :
    (rxTaken p n s).get Reg.FeP.RX_FRAMES p = min (s.get Reg.FeP.RX_FRAMES p + 1) (2 ^ Reg.FeP.RX_FRAMES.w - 1) := by
  unfold rxTaken
  rw [get_updFe, get_rxCounted_rx h]

theorem get_rxTaken_ne {G : FieldSpec} {j : Nat} (h : G.key j ≠ Reg.FeP.RX_FRAMES.key p) (n : Nat) : (rxTaken p n s).get G j = s.get G j := by
  unfold rxTaken
  rw [get_updFe, get_rxCounted_ne h]

/-- A counted frame that is counted once more, as an error or a drop. -/
theorem fePort_rxCounted_bump (F : FieldSpec) (g : FePort → FePort) (q : Nat) :
    (((rxCounted p s).bump F 1 p).updFe p g).fePort q = if q = p then g { s.fePort p with rx := (s.fePort p).rx + 1 } else s.fePort q := by
  rw [fePort_updFe, fePort_bump, fePort_bump, fePort_rxCounted, fePort_rxCounted, if_pos rfl]
  split_ifs <;> rfl

theorem fePort_rxTaken (n q : Nat) :
    (rxTaken p n s).fePort q = if q = p then { s.fePort p with rx := (s.fePort p).rx + 1, fifo := (s.fePort p).fifo + n } else s.fePort q := by
  unfold rxTaken
  rw [fePort_updFe, fePort_rxCounted, fePort_rxCounted, if_pos rfl]
  split_ifs <;> rfl

@[simp] theorem rxCounted_out : (rxCounted p s).out = s.out := by rw [rxCounted, State.updFe_out, State.bump_out]

@[simp] theorem rxTaken_out (n : Nat) : (rxTaken p n s).out = s.out := by rw [rxTaken, State.updFe_out, rxCounted_out]

theorem portOnly_rxCounted : PortOnly s (rxCounted p s) := ((PortOnly.refl s).bump _ _ _).updFe _ _
theorem portOnly_rxTaken (n : Nat) : PortOnly s (rxTaken p n s) := portOnly_rxCounted.updFe _ _

theorem portUp_iff : s.portUp p = true ↔ s.get Reg.FeP.LINK_UP p ≠ 0 := by simp [State.portUp, State.bit]

variable {f : Frame}

/-- A port whose link is down takes no frame. -/
theorem doFrameReceived_down (hu : s.get Reg.FeP.LINK_UP p = 0) : doFrameReceived p f s = s := by
  simp [doFrameReceived, State.portUp, State.bit, hu]

section LinkUp
variable (hu : s.get Reg.FeP.LINK_UP p = 1)
include hu

theorem doFrameReceived_badFcs (hf : f.fcsOk = false) :
    doFrameReceived p f s = ((rxCounted p s).bump Reg.FeP.FCS_ERR 1 p).updFe p fun x => { x with fcs := x.fcs + 1 } := by
  simp [doFrameReceived, rxCounted, State.portUp, State.bit, hu, hf]

theorem doFrameReceived_unfit (hf : f.fcsOk = true) (hd : 9216 < f.len ∨ f.lengthField = true ∨ f.dest = .other) :
    doFrameReceived p f s = dropFrame p (rxCounted p s) := by
  simp [doFrameReceived, rxCounted, State.portUp, State.bit, hu, hf, hd]

variable (hf : f.fcsOk = true) (hl : f.len ≤ 9216) (hn : f.lengthField = false) (hd : f.dest ≠ .other)
include hf hl hn hd

theorem doFrameReceived_otherVlan (hv : vlanOk (rxCounted p s) p f.vlan = false) : doFrameReceived p f s = rxCounted p s := by
  unfold rxCounted at *
  simp [doFrameReceived, State.portUp, State.bit, hu, hf, hl, hn, hd, hv]

/-- A frame of no further meaning is counted, taken into the FIFO, and may call for XOFF. -/
theorem doFrameReceived_taken (hv : vlanOk (rxCounted p s) p f.vlan = true) (hp : f.payload = .icmpOther ∨ f.payload = .other)
    (hr : (s.fePort p).fifo + f.len ≤ 65536) : doFrameReceived p f s = xoffCheck p (rxTaken p f.len s) := by
  have hr' : ¬((rxCounted p s).fePort p).fifo + f.len > 65536 := by
    rw [fePort_rxCounted, if_pos rfl]
    exact Nat.not_lt.mpr hr
  unfold rxTaken
  unfold rxCounted at *
  rcases hp with hp | hp <;>
    simp [doFrameReceived, State.portUp, State.bit, hu, hf, hl, hn, hd, hv, hp, hr', takePayload]

end LinkUp

theorem xoffCheck_below (h : (s.fePort p).fifo ≤ 49152) : xoffCheck p s = s := by
  unfold xoffCheck
  rw [if_neg]
  rintro ⟨-, h1, -⟩
  omega

theorem xoffCheck_above (hp : s.get Reg.Fe.PFC_EN = 1) (h : 49152 < (s.fePort p).fifo) (hx : (s.fePort p).xoff = false) :
    xoffCheck p s = ((sendControl p .xoff s).bump Reg.FeP.PFC_SENT 1 p).updFe p fun x => { x with xoff := true, xoffAt := s.core.imp } := by
  unfold xoffCheck
  rw [if_pos ⟨by simp [State.bit, hp], h, by simp [hx]⟩]

theorem vlanOk_tagged (he : s.get Reg.FeP.VLAN_EN p = 1) (v : Option Nat) :
    vlanOk (rxCounted p s) p v = decide (v = some (s.get Reg.FeP.VLAN_ID p)) := by
  unfold vlanOk State.bit
  rw [get_rxCounted_ne (G := Reg.FeP.VLAN_EN) (key_ne_of_place p), get_rxCounted_ne (G := Reg.FeP.VLAN_ID) (key_ne_of_place p), he]
  exact Bool.beq_eq_decide_eq _ _

theorem vlanOk_untagged (he : s.get Reg.FeP.VLAN_EN p = 0) : vlanOk (rxCounted p s) p none = true := by
  unfold vlanOk State.bit
  rw [get_rxCounted_ne (G := Reg.FeP.VLAN_EN) (key_ne_of_place p), he]
  rfl

/-- Settles O10: each kind of frame ends at its own step of reception. -/
theorem frameReception : Obligations.FrameReception := by
  unfold Obligations.FrameReception
  refine ⟨fun s p f hl hu => ?_, fun s p f hl hu hf => ?_, fun s p f hl hu hf hd => ?_, fun s p f hl hu hf hn ht hd he hv => ?_,
    fun s p f hl hu hf hn ht hd he hv hp hr => ?_⟩
  · show Host.Outcome.next (whenOn (doFrameReceived p f) s) = .next s
    rw [whenOn_on _ hl.power, doFrameReceived_down hu]
  · refine Gives.on rfl hl ?_
    rw [doFrameReceived_badFcs hu hf]
    have hk : Reg.FeP.FCS_ERR.key p ≠ Reg.FeP.RX_FRAMES.key p := key_ne_of_place p
    refine ⟨?_, ?_, ?_, fun q hq => ?_, ?_, ((portOnly_rxCounted.bump _ _ _).updFe _ _).quiet ?_⟩
    · rw [get_updFe, get_bump_ne hk.symm, get_rxCounted_rx (.live hl)]
    · rw [get_updFe, get_bump_eq (Rwf.live hl).rxCounted, get_rxCounted_ne hk]
    · rw [fePort_rxCounted_bump, if_pos rfl]
    · rw [fePort_rxCounted_bump, if_neg hq]
    · exact (((RegsBut.refl _ s).rxCounted (by simp)).bump _ _ _ (by simp)).updFe _ _
    · rw [State.updFe_out, State.bump_out, rxCounted_out]
  · refine Gives.on rfl hl ?_
    rw [doFrameReceived_unfit hu hf hd]
    have hk : Reg.FeP.RX_DROP.key p ≠ Reg.FeP.RX_FRAMES.key p := key_ne_of_place p
    unfold dropFrame
    refine ⟨?_, ?_, ?_, fun q hq => ?_, ?_, ((portOnly_rxCounted.bump _ _ _).updFe _ _).quiet ?_⟩
    · rw [get_updFe, get_bump_ne hk.symm, get_rxCounted_rx (.live hl)]
    · rw [get_updFe, get_bump_eq (Rwf.live hl).rxCounted, get_rxCounted_ne hk]
    · rw [fePort_rxCounted_bump, if_pos rfl]
    · rw [fePort_rxCounted_bump, if_neg hq]
    · exact (((RegsBut.refl _ s).rxCounted (by simp)).bump _ _ _ (by simp)).updFe _ _
    · rw [State.updFe_out, State.bump_out, rxCounted_out]
  · refine Gives.on rfl hl ?_
    rw [doFrameReceived_otherVlan hu hf hn ht hd (by simp [vlanOk_tagged he, hv])]
    refine ⟨get_rxCounted_rx (.live hl), ?_, fun q hq => ?_, (RegsBut.refl _ s).rxCounted (by simp), portOnly_rxCounted.quiet (by simp)⟩
    · simp [fePort_rxCounted]
    · simp [fePort_rxCounted, hq]
  · refine Gives.on rfl hl ?_
    rw [doFrameReceived_taken hu hf hn ht hd (by simp [vlanOk_tagged he, hv]) hp (by omega), xoffCheck_below (by simpa [fePort_rxTaken] using hr)]
    refine ⟨get_rxTaken_rx (.live hl) _, ?_, fun q hq => ?_, ((RegsBut.refl _ s).rxCounted (by simp)).updFe _ _,
      (portOnly_rxTaken _).quiet (rxTaken_out _)⟩
    · simp [fePort_rxTaken]
    · simp [fePort_rxTaken, hq]

/-- What an XOFF frame changes: it counts as sent and as flow control, and its time is noted. -/
theorem fePort_xoffSent (g : FePort → FePort) (q : Nat) :
    (((sendControl p .xoff s).bump Reg.FeP.PFC_SENT 1 p).updFe p g).fePort q =
      if q = p then g { s.fePort p with tx := (s.fePort p).tx + 1 } else s.fePort q := by
  rw [fePort_updFe, fePort_bump, fePort_bump, fePort_sendControl, fePort_sendControl, if_pos rfl]
  split_ifs <;> rfl

theorem portOnly_xoffSent (g : FePort → FePort) : PortOnly s (((sendControl p .xoff s).bump Reg.FeP.PFC_SENT 1 p).updFe p g) :=
  (((PortOnly.refl s).sendControl _).bump _ _ _).updFe _ _

/-- At the end of a pause, what it held leaves. -/
theorem doPfcPauseExpired_over {a n : Nat} (hp : (s.fePort p).pause = some (a, n)) (ht : n * 512 ≤ s.since a * 400000) :
    doPfcPauseExpired p s = { s with fe := nset p { s.fePort p with pause := none, txq := [] } s.fe, out := (s.fePort p).txq ++ s.out } := by
  unfold doPfcPauseExpired
  rw [hp]
  exact if_pos ht

/-- Settles O9: each of the flow-control commands by the equation of its meaning. -/
theorem flowControlFrames : Obligations.FlowControlFrames := by
  unfold Obligations.FlowControlFrames
  have hk (p : Nat) : Reg.FeP.PFC_SENT.key p ≠ Reg.FeP.TX_FRAMES.key p := key_ne_of_place p
  refine ⟨fun s p f hl hu hf hn ht hd hv he hp hr hx hc ho => ?_, fun s p hl hx hf ht => ?_, fun s p hl hx hf => ?_,
    fun s p prio quanta hl hu he hp => ?_, fun s p since quanta hl hp ht => ?_⟩
  · refine Gives.on rfl hl ?_
    have hrx : Reg.FeP.RX_FRAMES.key p ≠ Reg.FeP.TX_FRAMES.key p := key_ne_of_place p
    have hrs : Reg.FeP.RX_FRAMES.key p ≠ Reg.FeP.PFC_SENT.key p := key_ne_of_place p
    have hpf : (rxTaken p f.len s).get Reg.Fe.PFC_EN = 1 := (get_rxTaken_ne (key_ne_of_below p) _).trans hc
    have hw : Rwf (rxTaken p f.len s) := (Rwf.live hl).rxCounted.updFe _ _
    rw [doFrameReceived_taken hu hf hn ht hd (by rw [hv]; exact vlanOk_untagged he) (.inr hp) hr,
      xoffCheck_above hpf (by simpa [fePort_rxTaken] using hx) (by simpa [fePort_rxTaken] using ho)]
    refine ⟨?_, ?_, ?_, ?_, ?_, fun q hq => ?_, ?_, (portOnly_rxTaken f.len).trans (portOnly_xoffSent _)⟩
    · rw [State.updFe_out, State.bump_out, sendControl_out, rxTaken_out]
    · rw [get_updFe, get_bump_ne hrs, get_sendControl_ne hrx]
      exact get_rxTaken_rx (.live hl) _
    · rw [get_updFe, get_bump_ne (hk p).symm, get_sendControl_tx hw, get_rxTaken_ne hrx.symm]
    · rw [get_updFe, get_bump_eq (hw.sendControl _), get_sendControl_ne (hk p), get_rxTaken_ne hrs.symm]
    · rw [fePort_xoffSent, if_pos rfl, fePort_rxTaken, if_pos rfl]
      rfl
    · rw [fePort_xoffSent, if_neg hq, fePort_rxTaken, if_neg hq]
    · exact ((((RegsBut.refl _ s).rxCounted (by simp)).updFe _ _).sendControl _ (by simp)).bump _ _ _ (by simp) |>.updFe _ _
  · refine Gives.on rfl hl ?_
    have e : doXoffRefresh p s = ((sendControl p .xoff s).bump Reg.FeP.PFC_SENT 1 p).updFe p fun x => { x with xoffAt := s.core.imp } :=
      if_pos ⟨hx, hf, ht⟩
    rw [e]
    refine ⟨?_, ?_, ?_, ?_, fun q hq => ?_, ?_, portOnly_xoffSent _⟩
    · rw [State.updFe_out, State.bump_out, sendControl_out]
    · rw [get_updFe, get_bump_ne (hk p).symm, get_sendControl_tx (.live hl)]
    · rw [get_updFe, get_bump_eq ((Rwf.live hl).sendControl _), get_sendControl_ne (hk p)]
    · rw [fePort_xoffSent, if_pos rfl]
    · rw [fePort_xoffSent, if_neg hq]
    · exact (((RegsBut.refl _ s).sendControl _ (by simp)).bump _ _ _ (by simp)).updFe _ _
  · refine Gives.on rfl hl ?_
    have e : doXonSend p s = (sendControl p .xon s).updFe p fun x => { x with xoff := false } := if_pos ⟨hx, hf⟩
    rw [e]
    refine ⟨?_, ?_, ?_, fun q hq => ?_, ((RegsBut.refl _ s).sendControl _ (by simp)).updFe _ _,
      ((PortOnly.refl s).sendControl _).updFe _ _⟩
    · rw [State.updFe_out, sendControl_out]
    · rw [get_updFe, get_sendControl_tx (.live hl)]
    · simp [fePort_updFe, fePort_sendControl]
    · simp [fePort_updFe, fePort_sendControl, hq]
  · refine Gives.on rfl hl ?_
    have e : doPfcFrameReceived p prio quanta s = s.updFe p fun x => { x with pause := some (s.core.imp, quanta) } :=
      if_pos ⟨portUp_iff.mpr (by omega), by simp [State.bit, he], hp.symm⟩
    rw [e]
    refine ⟨?_, fun q hq => ?_, rfl⟩
    · simp [fePort_updFe]
    · simp [fePort_updFe, hq]
  · refine Gives.on rfl hl ?_
    rw [doPfcPauseExpired_over hp ht]
    refine ⟨rfl, ngetD_nset_self _ _ _ _, fun q hq => ngetD_nset_ne hq _ _ _, rfl⟩

end Sys2Proof.Machine
end

section
/-!
SUPPORT. Connections: a SYN on a port that listens (R38, R40, R65), and the ICReq (R42, R43).
-/

namespace Sys2Proof.Machine

variable {s : State}

/-! ### The next hop enters the neighbour cache (R36) -/

/-- Using a neighbour changes only the neighbour cache of its port. -/
theorem useNbr_eq (p : Nat) (a : NetAddr) (s : State) : ∃ l, useNbr p a s = s.updFe p fun x => { x with nbrs := l } := ⟨_, rfl⟩

theorem pause_useNbr (p : Nat) (a : NetAddr) (s : State) : ((useNbr p a s).fePort p).pause = (s.fePort p).pause := by
  obtain ⟨l, hl⟩ := useNbr_eq p a s
  rw [hl, fePort_updFe, if_pos rfl]

theorem fePort_useNbr_ne {p q : Nat} (h : q ≠ p) (a : NetAddr) (s : State) : (useNbr p a s).fePort q = s.fePort q := by
  obtain ⟨l, hl⟩ := useNbr_eq p a s
  rw [hl, fePort_updFe, if_neg h]

theorem useNbr_parts (p : Nat) (a : NetAddr) (s : State) : useNbr p a s = { s with fe := (useNbr p a s).fe } := rfl

/-! ### SYN_RECEIVED -/

/-- The address that a SYN is for. -/
def synDst (x : Syn) : NetAddr := if x.ip6 then .ip6 x.dstAddr else .ip4 x.dstAddr

/-- A connection has the four-tuple of a SYN already. -/
def synHeld (x : Syn) (s : State) : Bool :=
  s.conns.any fun c => c.2.srcAddr == x.srcAddr && c.2.srcPort == x.srcPort && c.2.dstAddr == x.dstAddr && c.2.dstPort == x.dstPort && c.2.ip6 == x.ip6

/-- The state in which a SYN is answered: its sender is in the neighbour cache. -/
def synSeen (x : Syn) (s : State) : State := useNbr x.port (nextHop s x.port x.ip6 x.srcAddr) s

/-- The connection that a SYN opens. -/
def synConn (x : Syn) (s : State) : Conn :=
  { port := x.port, srcAddr := x.srcAddr, srcPort := x.srcPort, dstAddr := x.dstAddr, dstPort := x.dstPort, ip6 := x.ip6, wscale := x.wscale,
    sack := x.sack, tstamp := x.tstamp, openedAt := s.core.imp, pair := 12 + nfresh s.conns 0 % 2 }

/-- The connection is in the table and has its fairness record; the SYN-ACK has yet to leave. -/
def synOpened (x : Syn) (s : State) : State :=
  { synSeen x s with
    conns := nset (nfresh s.conns 0) (synConn x s) s.conns
    sch := { s.sch with fair := nset (nfresh s.conns 0) { openAt := s.core.imp } s.sch.fair } }

variable {x : Syn}

theorem feAccepts_iff {m : ModState} : feAccepts m = true ↔ m = .pressRun ∨ m = .hold := by simp [feAccepts]

/-- What the first guard of SYN_RECEIVED asks. -/
theorem synGuard (hu : s.get Reg.FeP.LINK_UP x.port = 1) (ha : ownsAddr s x.port (synDst x) = true) :
    ¬((!s.portUp x.port) = true ∨ (!ownsAddr s x.port (if x.ip6 then .ip6 x.dstAddr else .ip4 x.dstAddr)) = true) := by
  have h1 : s.portUp x.port = true := portUp_iff.mpr (by omega)
  have h2 : ownsAddr s x.port (if x.ip6 then .ip6 x.dstAddr else .ip4 x.dstAddr) = true := ha
  simp [h1, h2]

section Answered
variable (hu : s.get Reg.FeP.LINK_UP x.port = 1) (ha : ownsAddr s x.port (synDst x) = true) (hp : (s.fePort x.port).pause = none)
include hu ha hp

theorem doSynReceived_elsewhere (h : s.core.mode ≠ .pressRun ∧ s.core.mode ≠ .hold ∨ x.dstPort ≠ s.get Reg.Fe.NVME_PORT) :
    doSynReceived x s = sendControl x.port (.rst none) (synSeen x s) := by
  have hpx : ((synSeen x s).fePort x.port).pause = none := (pause_useNbr _ _ _).trans hp
  rw [← sendFrame_unpaused hpx]
  unfold doSynReceived
  dsimp only
  rw [if_neg (synGuard hu ha), if_pos]
  · rfl
  · show (!feAccepts s.core.mode) = true ∨ x.dstPort ≠ s.get Reg.Fe.NVME_PORT
    simpa [feAccepts] using h

variable (hm : s.core.mode = .pressRun ∨ s.core.mode = .hold) (hd : x.dstPort = s.get Reg.Fe.NVME_PORT)
include hm hd

theorem doSynReceived_limit (h : 4096 ≤ s.conns.length ∨ synHeld x s = true) :
    doSynReceived x s =
      (((sendControl x.port (.rst none) (synSeen x s)).bump Reg.Fe.CONN_REFUSED).raise Reg.Fe.CONN_LIMIT).log 0x8003 x.port := by
  have hpx : ((synSeen x s).fePort x.port).pause = none := (pause_useNbr _ _ _).trans hp
  rw [← sendFrame_unpaused hpx]
  unfold doSynReceived
  dsimp only
  rw [if_neg (synGuard hu ha), if_neg, if_pos]
  · rfl
  · exact h
  · show ¬((!feAccepts s.core.mode) = true ∨ x.dstPort ≠ s.get Reg.Fe.NVME_PORT)
    simp [feAccepts_iff.mpr hm, hd]

theorem doSynReceived_opens (hn : s.conns.length < 4096) (hf : synHeld x s = false) :
    doSynReceived x s =
      sendControl x.port (.synAck (nfresh s.conns 0) (s.get Reg.FeP.MTU x.port - (if x.ip6 then 60 else 40))) (synOpened x s) := by
  have hpx : ((synOpened x s).fePort x.port).pause = none := (pause_useNbr _ _ _).trans hp
  rw [← sendFrame_unpaused hpx]
  unfold doSynReceived
  dsimp only
  rw [if_neg (synGuard hu ha), if_neg, if_neg]
  · rfl
  · show ¬(s.conns.length ≥ 4096 ∨ synHeld x s = true)
    simp [hf, hn]
  · show ¬((!feAccepts s.core.mode) = true ∨ x.dstPort ≠ s.get Reg.Fe.NVME_PORT)
    simp [feAccepts_iff.mpr hm, hd]

end Answered

theorem RegsBut.synSeen {ks : List Nat} {t : State} (h : RegsBut ks s t) : RegsBut ks s (synSeen x t) := h.same rfl
theorem RegsBut.synOpened {ks : List Nat} {t : State} (h : RegsBut ks s t) : RegsBut ks s (synOpened x t) := h.same rfl
theorem Rwf.synSeen (h : Rwf s) : Rwf (synSeen x s) := h.same rfl
theorem Rwf.synOpened (h : Rwf s) : Rwf (synOpened x s) := h.same rfl
theorem get_synSeen (F : FieldSpec) (i : Nat) : (synSeen x s).get F i = s.get F i := rfl
theorem get_synOpened (F : FieldSpec) (i : Nat) : (synOpened x s).get F i = s.get F i := rfl

theorem fePort_answered_ne {q : Nat} (h : q ≠ x.port) (f : FrameOut) {u : State} (hu : u.fe = (synSeen x s).fe) :
    (sendControl x.port f u).fePort q = s.fePort q := by
  rw [fePort_sendControl, if_neg h, fePort_of_fe hu]
  exact fePort_useNbr_ne h _ _

/-- An answer changes the port only; what else `u` has changed stays. -/
theorem sendControl_parts (p : Nat) (f : FrameOut) (u : State) :
    sendControl p f u = { u with rf := (sendControl p f u).rf, fe := (sendControl p f u).fe, out := (sendControl p f u).out } :=
  (PortOnly.refl u).sendControl f

theorem portOnly_synSeen : PortOnly s (synSeen x s) := useNbr_parts _ _ _

/-- Settles O13: the three answers to a SYN. -/
theorem connectionsOpen : Obligations.ConnectionsOpen := by
  unfold Obligations.ConnectionsOpen
  refine ⟨fun s x hl hu ha hp hm hd hn hf => ?_, fun s x hl hu ha hp h => ?_, fun s x hl hu ha hp hm hd h => ?_⟩
  · refine Gives.on rfl hl ?_
    rw [doSynReceived_opens hu ha hp hm hd hn hf]
    refine ⟨⟨synConn x s, rfl, rfl, rfl, rfl, rfl, rfl, rfl, rfl, rfl, rfl⟩, sendControl_out _, ?_, ?_, fun q hq => fePort_answered_ne hq _ rfl, ?_⟩
    · rw [get_sendControl_tx (Rwf.live hl).synOpened, get_synOpened]
    · exact (RegsBut.refl _ s).synOpened.sendControl _ (by simp)
    · rw [sendControl_parts]
      rfl
  · refine Gives.on rfl hl ?_
    rw [doSynReceived_elsewhere hu ha hp h]
    refine ⟨sendControl_out _, rfl, ?_, ?_, fun q hq => fePort_answered_ne hq _ rfl, portOnly_synSeen.sendControl _⟩
    · rw [get_sendControl_tx (Rwf.live hl).synSeen, get_synSeen]
    · exact (RegsBut.refl _ s).synSeen.sendControl _ (by simp)
  · refine Gives.on rfl hl ?_
    have hw : Rwf (sendControl x.port (.rst none) (synSeen x s)) := (Rwf.live hl).synSeen.sendControl _
    rw [doSynReceived_limit hu ha hp hm hd h]
    refine ⟨?_, rfl, ?_, ?_, ?_, ?_, fun q hq => ?_, ?_⟩
    · rw [State.log_out, State.raise_out, State.bump_out, sendControl_out]
      rfl
    · rw [get_log, get_raise_ne (by decide), get_bump_eq hw, get_sendControl_ne (key_ne_of_below _), get_synSeen]
    · rw [get_log, get_raise_eq (hw.bump _ _ _)]
      rfl
    · rfl
    · exact ((((RegsBut.refl _ s).synSeen.sendControl _ (by simp)).bump _ _ _ (by simp)).raise _ _ (by simp)).log _ _ _
    · rw [fePort_log, fePort_raise, fePort_bump]
      exact fePort_answered_ne hq _ rfl
    · exact (((portOnly_synSeen.sendControl _).bump _ _ _).raise _ _).log _ _ _

/-! ### The ICReq (R42, R43) -/

/-- A protocol fault: the C2HTermReq leaves by a free path, the fault is recorded, and the connection closes. -/
theorem terminate_closes {i : Nat} {c : Conn} (hf : FreePath i c s) (fes fei : Nat) :
    (terminate i fes fei s).out = .c2hTerm i fes fei :: s.out ∧
      Closed i c { s with rf := (terminate i fes fei s).rf, el := (terminate i fes fei s).el, out := (terminate i fes fei s).out } (terminate i fes fei s) := by
  have e : terminate i fes fei s = closeConn i (((s.emit (.c2hTerm i fes fei)).raise Reg.Fe.PROTO_TERM).log 0x9001 i (leBytes 2 fes)) := by
    unfold terminate
    rw [pdu_free hf]
  rw [e]
  generalize hu : ((s.emit (.c2hTerm i fes fei)).raise Reg.Fe.PROTO_TERM).log 0x9001 i (leBytes 2 fes) = u
  have hconn : nfind i u.conns = some c := by
    rw [← hu]
    exact hf.1
  have hout : u.out = .c2hTerm i fes fei :: s.out := by rw [← hu]; rfl
  have hs : u = { s with rf := u.rf, el := u.el, out := u.out } := by rw [← hu]; rfl
  have hc := closeConn_closed hconn
  have hk : ClosesOnly u (closeConn i u) := closeConn_closes i u
  have hrf : (closeConn i u).rf = u.rf := by rw [hk]
  have hel : (closeConn i u).el = u.el := by rw [hk]
  have ho : (closeConn i u).out = u.out := by rw [hk]
  rw [ho, hrf, hel, ← hs]
  exact ⟨hout, hc⟩

/-- A digest is required, and the ICReq does not request it. -/
def digestMissing (x : IcReq) (s : State) : Prop :=
  (s.bit Reg.Fe.REQ_HDGST = true ∧ (!x.hdgst) = true) ∨ (s.bit Reg.Fe.REQ_DDGST = true ∧ (!x.ddgst) = true)

/-- The connection after an ICReq that passes. -/
def icAgreed (x : IcReq) (c : Conn) : Conn := { c with icDone := true, hdgst := x.hdgst, ddgst := x.ddgst, hpda := x.hpda, maxR2t := x.maxR2t }

section Icreq
variable {x : IcReq} {c : Conn}
variable (hf : FreePath x.conn c s) (hi : c.icDone = false) (hv : x.pfv = 0) (hh : x.headerOk = true) (ha : x.hpda ≤ 31)
include hf hi hv hh ha

theorem doIcreq_refuses (hd : digestMissing x s) : doIcreq x s = terminate x.conn fesUnsupported 0 s := by
  unfold doIcreq State.conn
  rw [hf.1]
  dsimp only
  rw [if_neg (by simp [hi]), if_neg (by simp [hv]), if_neg (by simp [hh, ha])]
  exact if_pos hd

theorem doIcreq_agrees (hd : ¬digestMissing x s) :
    doIcreq x s = (s.updConn x.conn (icAgreed x)).emit (.icResp x.conn x.hdgst x.ddgst) := by
  rw [← pdu_free (hf.updConn (icAgreed x) rfl rfl)]
  unfold doIcreq State.conn
  rw [hf.1]
  dsimp only
  rw [if_neg (by simp [hi]), if_neg (by simp [hv]), if_neg (by simp [hh, ha])]
  exact if_neg hd

end Icreq

/-- Settles O8: the digest check is the last of the ICReq's checks. -/
theorem digestsFollowTheICReq : Obligations.DigestsFollowTheICReq := by
  unfold Obligations.DigestsFollowTheICReq
  refine ⟨fun s x c hl hf hi hv hh ha h1 h2 => ?_, fun s x c hl hf hi hv hh ha h => ?_⟩
  · refine Gives.on rfl hl ?_
    have hd : ¬digestMissing x s := by
      rintro (⟨h, h'⟩ | ⟨h, h'⟩)
      · rcases h1 with h1 | h1 <;> simp [State.bit, h1] at h h'
      · rcases h2 with h2 | h2 <;> simp [State.bit, h2] at h h'
    rw [doIcreq_agrees hf hi hv hh ha hd]
    exact ⟨icAgreed x c, (hf.updConn (icAgreed x) rfl rfl).1, rfl, rfl⟩
  · refine Gives.on rfl hl ?_
    have hd : digestMissing x s := by
      rcases h with ⟨h1, h2⟩ | ⟨h1, h2⟩
      · exact .inl ⟨by simp [State.bit, h1], by simp [h2]⟩
      · exact .inr ⟨by simp [State.bit, h1], by simp [h2]⟩
    rw [doIcreq_refuses hf hi hv hh ha hd]
    exact terminate_closes hf fesUnsupported 0

end Sys2Proof.Machine
end

section
/-!
SUPPORT. Admin commands that come to their own effect: what they find, and how they end (R48, R54, R86 to R88, R423, R475).
-/

namespace Sys2Proof.Machine

variable {s : State} {h : CmdHdr} {c : Conn} {x : Ctrl}

/-- The effect of an admin command that nothing refuses: its data is tagged in class 3, so only the scheduler differs before its own effect. -/
theorem Gives.admin {i : Instr} {P : State → Prop} {implied : Option Nat} {k : Conn → State → State} (e : exec i s = .next (whenOn (adminCmd h implied k) s))
    (hl : Live s) (hr : AdminReady h c s) (hi : ∀ n, implied = some n → n = h.len)
    (hk : ∀ m, ∃ t, k c { s with sch := m } = t ∧ P t) : Gives i s P := by
  obtain ⟨t, ht, hp⟩ := hk (tag3 h.conn h.len s).sch
  refine ⟨t, ?_, hp⟩
  rw [e, whenOn_on _ hl.power, adminCmd_ready hr implied hi, tag3_parts, ht]

/-- It completes with status 0. -/
theorem ok_tagged (hr : AdminReady h c s) (m : Sched) (dw0 : Nat) :
    ok h dw0 { s with sch := m } = { s with sch := m, out := .resp h.conn h.cid 0 0 dw0 :: s.out } :=
  respond_free (hr.1.same (t := { s with sch := m }) rfl rfl rfl) _ _

/-- A change of the controller on which a command arrives. -/
theorem updCtrl_of_find {i : Nat} (hx : nfind i s.ctrls = some x) (f : Ctrl → Ctrl) : s.updCtrl i f = { s with ctrls := nset i (f x) s.ctrls } := by
  unfold State.updCtrl
  rw [hx]

/-- It changes its controller and completes with status 0. -/
theorem ok_updCtrl (hr : AdminReady h c s) (hx : nfind c.cntlid s.ctrls = some x) (m : Sched) (f : Ctrl → Ctrl) (dw0 : Nat) :
    ok h dw0 (({ s with sch := m } : State).updCtrl c.cntlid f) =
      { s with sch := m, ctrls := nset c.cntlid (f x) s.ctrls, out := .resp h.conn h.cid 0 0 dw0 :: s.out } := by
  rw [updCtrl_of_find (s := { s with sch := m }) hx]
  exact respond_free (hr.1.same (t := { s with sch := m, ctrls := nset c.cntlid (f x) s.ctrls }) rfl rfl rfl) _ _

/-- Its bytes are returned, and it completes with status 0. -/
theorem returnBytes_tagged (hr : AdminReady h c s) {t : State} (h1 : t.conns = s.conns) (h2 : t.prs = s.prs) (h3 : t.fe = s.fe) (page : List Nat) :
    returnBytes h 0 page t =
      { t with out := .resp h.conn h.cid 0 0 0 :: .c2hBytes h.conn h.cid ((page.drop 0).take h.len ++ List.replicate (h.len - ((page.drop 0).take h.len).length) 0) :: t.out } :=
  returnBytes_free (hr.1.same h1 h2 h3) 0 page

/-- Any other completion leaves too, and enters the error log of a controller. -/
theorem respond_tagged (hr : AdminReady h c s) {t : State} (h1 : t.conns = s.conns) (h2 : t.prs = s.prs) (h3 : t.fe = s.fe) (sct sc dw0 : Nat) :
    ∃ l, respond h.conn h.cid sct sc dw0 t = { t with ctrls := l, out := .resp h.conn h.cid sct sc dw0 :: t.out } :=
  ⟨_, respond_parts (hr.1.same h1 h2 h3) h.cid sct sc dw0⟩

/-! ### Properties, shutdown and keep-alive -/

/-- What a write of CC makes of a controller (R475). -/
def ccWritten (v : CcValue) (s : State) (x : Ctrl) : Ctrl :=
  { x with
    rdy0 := if x.cc.en = v.en then x.rdy0 else x.rdy s
    enAt := if x.cc.en = v.en then x.enAt else s.core.imp
    cfs := if v.en then x.cfs || !ccAccepted v else false
    shst := if v.shn % 4 ≠ 0 ∧ x.cc.shn = 0 then 1 else x.shst
    cc := v }

/-- A command of the controller other than an event request keeps a shutdown from its end. -/
theorem doShutdownComplete_idle {i : Nat} (hx : nfind i s.ctrls = some x) (h1 : x.shst = 1)
    (hi : ∀ p ∈ s.cmds, p.2.silent = true ∨ p.2.op = .aer ∨ ∀ c, nfind (p.1 / 65536) s.conns = some c → c.cntlid ≠ i) :
    doShutdownComplete i s = { s with ctrls := nset i { x with shst := 2 } s.ctrls } := by
  have hb : (s.cmds.any fun p => !p.2.silent && p.2.op != .aer && (s.conn (p.1 / 65536)).any fun c => c.cntlid == i) = false := by
    rw [List.any_eq_false]
    intro p hp
    rcases hi p hp with h | h | h
    · simp [h]
    · simp [h]
    · cases e : nfind (p.1 / 65536) s.conns with
      | none => simp [State.conn, e]
      | some c => simp [State.conn, e, h c e]
  unfold doShutdownComplete
  rw [hx]
  dsimp only
  rw [hb, if_pos ⟨h1, rfl⟩, updCtrl_of_find hx]

/-- What PROPERTY_GET returns for a property of Table 2.7a. -/
def propertyWord (s : State) (x : Ctrl) : Property → Nat
  | .cap => capValue
  | .vs => 0x00020000
  | .cc => ccWord x.cc
  | .csts => cstsWord s x
  | .other => 0

theorem propertyGet_gives (hl : Live s) (hr : AdminReady h c s) (hx : nfind c.cntlid s.ctrls = some x) (p : Property) (hp : p ≠ .other) :
    Gives (.propertyGet h p) s fun t => Completes h 0 0 (propertyWord s x p) [] s t ∧ t = { s with sch := t.sch, out := t.out } := by
  refine Gives.admin rfl hl hr (by simp) fun m => ⟨{ s with sch := m, out := .resp h.conn h.cid 0 0 (propertyWord s x p) :: s.out }, ?_, rfl, rfl⟩
  rw [← ok_tagged hr m]
  dsimp only
  rw [hx]
  cases p with
  | cap | vs | cc | csts => rfl
  | other => exact absurd rfl hp

/-- Settles O18: each property command acts on the controller of its connection only. -/
theorem controllerProperties : Obligations.ControllerProperties := by
  unfold Obligations.ControllerProperties
  refine ⟨fun s h c x v hl hr hx => ?_, fun s h c x hl hr hx => ?_, fun s h c x hl hr hx => ?_, fun s h c x hl hr hx => ?_,
    fun s h c x hl hr hx => ?_, fun s i x hl hx h1 hi => ?_, fun s h c x hl hr hx => ?_⟩
  · refine Gives.admin rfl hl hr (by simp) fun m => ⟨_, (if_neg (by simp)).trans (ok_updCtrl hr hx m (ccWritten v { s with sch := m }) 0), ?_⟩
    exact ⟨⟨_, nfind_nset_self _ _ _, rfl, rfl, rfl, rfl⟩, fun j hj => nfind_nset_ne hj _ _, rfl, rfl⟩
  · exact propertyGet_gives hl hr hx .cap (by simp)
  · exact propertyGet_gives hl hr hx .vs (by simp)
  · exact propertyGet_gives hl hr hx .cc (by simp)
  · exact propertyGet_gives hl hr hx .csts (by simp)
  · refine Gives.on rfl hl ?_
    rw [doShutdownComplete_idle hx h1 hi]
    exact ⟨nfind_nset_self _ _ _, fun j hj => nfind_nset_ne hj _ _, rfl⟩
  · refine Gives.admin rfl hl hr (by simp) fun m => ⟨_, ok_updCtrl hr hx m (fun x => { x with kaAt := s.core.imp }) 0, ?_⟩
    exact ⟨nfind_nset_self _ _ _, fun j hj => nfind_nset_ne hj _ _, rfl, rfl⟩

/-! ### Nonces, permits and damage statements (R54, R86 to R88) -/

@[simp] theorem leBytes_length (n v : Nat) : (leBytes n v).length = n := by simp [leBytes]

/-- A page of the requested length is returned as it is. -/
theorem page_exact {n : Nat} {page : List Nat} (hp : page.length = n) :
    (page.drop 0).take n ++ List.replicate (n - ((page.drop 0).take n).length) 0 = page := by
  simp [← hp]

/-- The zone that a permit names. -/
def permitZone (s : State) (x : Permit) : Nat := zoneKey (x.nsid - 1) (x.zoneStart / zsze s (x.nsid - 1))

/-- The key under which permits are verified, that of the fleet. -/
def permitVerifies (s : State) (x : Permit) : Bool :=
  Config.ecdsaP384Verify (((imgOf s).bind (·.fleet)).getD 0) (Config.sha384 (permitHead x)) x.sigR x.sigS

/-- A permit that passes checks 1 to 3 of R87. -/
structure PermitFresh (s : State) (x : Permit) : Prop where
  form : x.len = 160 ∧ x.magicOk = true ∧ x.versionOk = true
  nsid : 1 ≤ x.nsid
  evidence : nsEvidence s (x.nsid - 1) = true
  start : x.zoneStart % zsze s (x.nsid - 1) = 0
  zone : x.zoneStart / zsze s (x.nsid - 1) < zoneCount s (x.nsid - 1)
  serial : x.serial = leValue serialBytes
  nonce : x.nonce ∈ s.zn.nonces

/-- The command that waits for PERMIT_RESET (R88). -/
def permitCmd (x : Permit) (s : State) : Cmd :=
  { op := .permit, ns := x.nsid - 1, slba := x.zoneStart, nlb := 0, pi := none, ord := s.seq, at_ := s.core.imp, begun := true, nonce := x.nonce,
    zones := [permitZone s x] }

/-- The nonce that a request returns (R423). -/
def nextNonce (s : State) : Nat := Config.drbg s.core.rngCount % 2 ^ 128

/-- The nonce is drawn and kept with the last 64. -/
def nonceDrawn (m : Sched) (s : State) : State :=
  { s with
    core := { s.core with rngCount := s.core.rngCount + 1 }
    sch := m
    zn := { s.zn with nonces := (s.zn.nonces ++ [nextNonce s]).drop ((s.zn.nonces ++ [nextNonce s]).length - 64) } }

/-- A permit has consumed its nonce. -/
def nonceSpent (m : Sched) (x : Permit) (s : State) : State := { s with sch := m, zn := { s.zn with nonces := s.zn.nonces.erase x.nonce } }

/-- A permit that verifies waits on its zone. -/
def permitWaits (m : Sched) (h : CmdHdr) (x : Permit) (s : State) : State :=
  ((nonceSpent m x s).setCmd (cmdKey h.conn h.cid) (permitCmd x s)).updZone (permitZone s x) fun z => { z with permit := some (x.nonce, cmdKey h.conn h.cid) }

/-- A permit whose signature fails is counted and recorded. -/
def permitFails (m : Sched) (x : Permit) (s : State) : State :=
  ((countZn 48 (nonceSpent m x s)).raise Reg.Zn.PERMIT_FAIL).log 0xA002 (x.nsid - 1) (leBytes 8 x.zoneStart ++ [4])

section Permit
variable {x : Permit}

theorem PermitFresh.named (hf : PermitFresh s x) :
    (decide (x.nsid ≥ 1) && nsEvidence s (x.nsid - 1) && decide (x.zoneStart % zsze s (x.nsid - 1) = 0) &&
      decide (x.zoneStart / zsze s (x.nsid - 1) < zoneCount s (x.nsid - 1))) = true := by
  simp [hf.nsid, hf.evidence, hf.start, hf.zone]

/-- A fresh permit for a zone that can be reset is decided by its signature (R87). -/
theorem resetPermit_gives {P : State → Prop} (hl : Live s) (hr : AdminReady h c s) (hf : PermitFresh s x)
    (hz : (s.zone (permitZone s x)).permit = none) (he : (s.zone (permitZone s x)).st ≠ .empty) (ho : (s.zone (permitZone s x)).st ≠ .offline)
    (hp : ∀ m, P (if permitVerifies s x then permitWaits m h x s else respond h.conn h.cid 2 0x86 0 (permitFails m x s))) : Gives (.resetPermit h x) s P := by
  refine Gives.admin rfl hl hr (by simp) fun m => ⟨_, ?_, hp m⟩
  dsimp only
  rw [if_neg (by simp [hf.form])]
  -- the checks of R87 in their order: the zone, the serial, the nonce, the signature, a permit that waits, the state of the zone
  refine (if_neg (ne_true_of_eq_false (by rw [Bool.not_eq_false']; exact hf.named))).trans ?_
  rw [if_neg (by simp [hf.serial]), if_neg (by simpa using hf.nonce)]
  cases hv : permitVerifies s x with
  | false => exact if_pos (by rw [Bool.not_eq_true']; exact hv)
  | true =>
    refine (if_neg (by rw [Bool.not_eq_true', Bool.not_eq_false]; exact hv)).trans ((if_neg ?_).trans ((if_neg ?_).trans rfl))
    · show ¬(s.zone (permitZone s x)).permit.isSome = true
      simp [hz]
    · exact not_or.mpr ⟨he, ho⟩

/-- A permit that fails its signature check sets PERMIT_FAIL. -/
theorem get_permitFails (hw : Rwf s) (m : Sched) : (permitFails m x s).get Reg.Zn.PERMIT_FAIL = 1 :=
  get_raise_eq (hw.same (t := countZn 48 (nonceSpent m x s)) rfl) Reg.Zn.PERMIT_FAIL 0

theorem regsBut_permitFails (m : Sched) : RegsBut [Reg.Zn.PERMIT_FAIL.key 0] s (permitFails m x s) :=
  (((RegsBut.refl _ s).same (u := countZn 48 (nonceSpent m x s)) rfl).raise _ _ (by simp)).log _ _ _

end Permit

/-- Settles O22: each security command by what it does once nothing refuses it. -/
theorem permitsAndDamageStatements : Obligations.PermitsAndDamageStatements := by
  unfold Obligations.PermitsAndDamageStatements
  refine ⟨fun s h c hl hr hn hg => ?_, fun s h c hl hr hn hg => ?_, fun s h c x hl hr h1 h2 h3 h4 h5 h6 h7 h8 h9 hp he ho => ?_,
    fun s h c x start chal hl hr hx hn h1 hz ha hb hs => ?_, fun s h c x n z chal hl hr hx hn hd => ?_⟩
  · have hb : ¬s.bit Reg.Sec.RNG_FAIL = true := by simp [State.bit, hg]
    refine Gives.admin rfl hl hr (by simp [hn]) fun m =>
      ⟨_, (if_neg hb).trans (returnBytes_tagged (t := nonceDrawn m s) hr rfl rfl rfl (leBytes 16 (nextNonce s))), ?_⟩
    rw [hn, page_exact (leBytes_length _ _)]
    refine ⟨?_, rfl, rfl, rfl, rfl⟩
    show (s.zn.nonces ++ [nextNonce s]).drop ((s.zn.nonces ++ [nextNonce s]).length - 64) = _
    rw [List.length_append]
    rfl
  · have hb : s.bit Reg.Sec.RNG_FAIL = true := by simp [State.bit, hg]
    refine Gives.admin rfl hl hr (by simp [hn]) fun m => ?_
    obtain ⟨l, e⟩ := respond_tagged (t := { s with sch := m }) hr rfl rfl rfl 0 0x06 0
    exact ⟨_, (if_pos hb).trans e, rfl, rfl⟩
  · refine resetPermit_gives hl hr ⟨⟨h1, h2, h3⟩, h4, h5, h6, h7, h8, h9⟩ hp he ho fun m => ?_
    show _ ∧ (permitVerifies s x = true → _) ∧ (permitVerifies s x = false → _)
    cases hv : permitVerifies s x with
    | true =>
      rw [if_pos rfl]
      refine ⟨rfl, fun _ => ⟨?_, ⟨permitCmd x s, nfind_nset_self _ _ _, rfl, rfl⟩, rfl⟩, fun e => absurd e (by simp)⟩
      exact ngetD_nset_self _ _ _ _
    | false =>
      rw [if_neg (by simp)]
      obtain ⟨l, e⟩ := respond_tagged (t := permitFails m x s) hr rfl rfl rfl 2 0x86 0
      rw [e]
      refine ⟨rfl, fun e => absurd e (by simp), fun _ => ⟨?_, rfl, rfl, ngetD_nset_self _ _ _ _, ?_, rfl⟩⟩
      · exact get_permitFails (.live hl) m
      · exact (regsBut_permitFails m).same rfl
  · refine Gives.admin rfl hl hr (by simp [hn]) fun m =>
      ⟨_, (if_pos ?_).trans (ok_updCtrl hr hx m (fun x => { x with dmg := some (h.nsid - 1, start / zsze s (h.nsid - 1), chal) }) 0), ?_⟩
    · exact ⟨hz, h1, ha, hb, hs⟩
    · exact ⟨nfind_nset_self _ _ _, fun j hj => nfind_nset_ne hj _ _, rfl, rfl⟩
  · refine Gives.admin rfl hl hr (by simp [hn]) fun m =>
      ⟨_, Eq.trans ?_ (returnBytes_tagged (t := { s with sch := m }) hr rfl rfl rfl (damageStatement s n z chal)), rfl, rfl⟩
    dsimp only
    rw [hx]
    dsimp only [Option.bind_some]
    rw [hd]
    rfl

end Sys2Proof.Machine
end

section
/-!
SUPPORT. Reads: what a Read looks up, how one ends whose blocks are all found, and how a block that arrives ends the Read that waits for it
(R61, R134, R152 to R157).
-/

namespace Sys2Proof.Machine

variable {s t : State}

/-! ### Stores of named values -/

/-- What was put under a free key is taken off again. -/
theorem ndel_nset_of_none {α : Type} {k : Nat} {m : NMap α} (h : nfind k m = none) (v : α) : ndel k (nset k v m) = m := by
  induction m with
  | nil => simp [nset, ndel]
  | cons e m ih =>
    obtain ⟨j, w⟩ := e
    have hj : j ≠ k := by
      rintro rfl
      simp [nfind] at h
    have hm : nfind k m = none := by simpa [nfind, hj] using h
    unfold nset
    split_ifs with h1 h2
    · simp [ndel]
    · exact absurd h2.symm hj
    · simp [ndel, hj, ih hm]

/-- A table of a function reads as the function. -/
theorem nfind_map_of_mem {α : Type} {l : List Nat} {j : Nat} (h : j ∈ l) (f : Nat → α) : nfind j (l.map fun i => (i, f i)) = some (f j) := by
  induction l with
  | nil => simp at h
  | cons i l ih =>
    rw [List.map_cons, nfind_cons]
    split_ifs with e
    · rw [e]
    · exact ih ((List.mem_cons.mp h).resolve_left fun c => e c.symm)

/-! ### The end of a Read -/

/-- What the end of a Read changes: the commands and what they hold, the data read in all, and what leaves the module. -/
def EndsRead (s t : State) : Prop :=
  t = { s with cmds := t.cmds, units := t.units, ingress := t.ingress, reserved := t.reserved, rdBytes := t.rdBytes, rdUnits := t.rdUnits, out := t.out }

theorem EndsRead.eq (h : EndsRead s t) :
    t = { s with cmds := t.cmds, units := t.units, ingress := t.ingress, reserved := t.reserved, rdBytes := t.rdBytes, rdUnits := t.rdUnits, out := t.out } := h

theorem EndsRead.trans {u : State} (h : EndsRead s t) (k : EndsRead t u) : EndsRead s u := by
  unfold EndsRead at *
  rw [k, h]

/-- The blocks that a Read returns. -/
def Cmd.wires (c : Cmd) : List WireBlk := (List.range c.nlb).map fun j => wireBlk c (c.slba + j) (ngetD j ⟨0, true, false⟩ c.found)

/-- A Read is gone, and with it what it held. -/
def readGone (k : Nat) (c : Cmd) (s : State) : State :=
  { s with cmds := ndel k s.cmds, units := s.units.filter fun u => u.cmd != k, ingress := s.ingress - c.capBytes, reserved := s.reserved - c.r2tBytes }

theorem endsRead_emit (s : State) (o : Out) : EndsRead s (s.emit o) := rfl
theorem endsRead_countRead (n : Nat) (s : State) : EndsRead s (countRead n s) := rfl
theorem endsRead_readGone (k : Nat) (c : Cmd) (s : State) : EndsRead s (readGone k c s) := rfl

/-- A Read has no reserved length in a zone. -/
theorem removeCmd_read {k : Nat} {c : Cmd} (hc : nfind k s.cmds = some c) (hop : c.op = .read) : removeCmd k s = readGone k c s := by
  unfold removeCmd State.cmd
  rw [hc]
  simp [hop, readGone]

/-- It completes with status 0 on a free path. -/
theorem endCmd_read {conn cid : Nat} {c : Cmd} {x : Conn} (hc : nfind (cmdKey conn cid) s.cmds = some c) (hop : c.op = .read) (hs : c.silent = false)
    (hcid : cid < 65536) (hf : FreePath conn x s) :
    endCmd (cmdKey conn cid) 0 0 0 s = (readGone (cmdKey conn cid) c s).emit (.resp conn cid 0 0 0) := by
  unfold endCmd
  rw [State.cmd, hc]
  simp only [hs, removeCmd_read hc hop, cmdKey_conn hcid, cmdKey_cid hcid, Bool.false_eq_true, if_false]
  exact respond_free (hf.same (t := readGone (cmdKey conn cid) c s) rfl rfl rfl) _ _

/-- A Read whose blocks are all found, none of them lost, returns them and completes. -/
theorem finishRead_served {conn cid : Nat} {c : Cmd} {x : Conn} (hc : nfind (cmdKey conn cid) s.cmds = some c) (hop : c.op = .read)
    (hneed : c.need = []) (hs : c.silent = false) (hcid : cid < 65536) (hf : FreePath conn x s)
    (hl : ∀ j < c.nlb, (ngetD j ⟨0, true, false⟩ c.found).lost = false) :
    EndsRead s (finishRead (cmdKey conn cid) s) ∧ (finishRead (cmdKey conn cid) s).cmds = ndel (cmdKey conn cid) s.cmds ∧
      (finishRead (cmdKey conn cid) s).out = .resp conn cid 0 0 0 :: .c2hData conn cid c.wires :: s.out := by
  have hnone : ((List.range c.nlb).find? fun j => (ngetD j ⟨0, true, false⟩ c.found).lost) = none :=
    List.find?_eq_none.mpr fun j hj => by simp [hl j (List.mem_range.mp hj)]
  have e : finishRead (cmdKey conn cid) s = endCmd (cmdKey conn cid) 0 0 0 (countRead c.nlb (s.emit (.c2hData conn cid c.wires))) := by
    unfold finishRead
    rw [State.cmd, hc]
    simp only [hop, hneed, hs, hnone, cmdKey_conn hcid, cmdKey_cid hcid, pdu_free hf, List.isEmpty_nil, and_self, if_true, Bool.false_eq_true, if_false]
    rfl
  rw [e, endCmd_read (s := countRead c.nlb (s.emit (.c2hData conn cid c.wires))) hc hop hs hcid (hf.same rfl rfl rfl)]
  exact ⟨(((endsRead_emit s _).trans (endsRead_countRead _ _)).trans (endsRead_readGone _ _ _)).trans (endsRead_emit _ _), rfl, rfl⟩

/-- One that still needs a block stays as it is. -/
theorem finishRead_waits {k : Nat} {c : Cmd} (hc : nfind k s.cmds = some c) (hneed : c.need ≠ []) : finishRead k s = s := by
  unfold finishRead
  rw [State.cmd, hc]
  simp [hneed]

/-! ### A block for the one outstanding Read -/

/-- The one outstanding command is a Read of one block, which lies at an address outside the hellbox. -/
structure LoneRead (g lbn conn cid : Nat) (c : Cmd) (x : Conn) (s : State) : Prop where
  cmds : s.cmds = [(cmdKey conn cid, c)]
  op : c.op = .read
  nlb : c.nlb = 1
  need : c.need = [g * 2 ^ 48 + lbn]
  place : lbn = nsStart s c.ns + c.slba
  silent : c.silent = false
  cid : cid < 65536
  path : FreePath conn x s
  hb : inHb s g lbn = false

variable {g lbn conn cid : Nat} {c : Cmd} {x : Conn}

/-- The Read with its block found. -/
def readFed (conn cid : Nat) (c : Cmd) (v : RdVal) (s : State) : State :=
  { s with cmds := [(cmdKey conn cid, { c with need := [], found := nset 0 v c.found })] }

theorem LoneRead.feed_eq (h : LoneRead g lbn conn cid c x s) (v : RdVal) : feed g lbn v s = finishRead (cmdKey conn cid) (readFed conn cid c v s) := by
  have hk : (s.cmds.filter fun p => p.2.op == .read && p.2.need.contains (g * 2 ^ 48 + lbn)).map (·.1) = [cmdKey conn cid] := by
    simp [h.cmds, h.op, h.need]
  have hi : lbn - nsStart s c.ns - c.slba = 0 := by rw [h.place]; omega
  have hu : (s.updCmd (cmdKey conn cid) fun c =>
      { c with need := c.need.erase (g * 2 ^ 48 + lbn), found := nset (lbn - nsStart s c.ns - c.slba) v c.found }) = readFed conn cid c v s := by
    unfold State.updCmd
    rw [h.cmds, nfind_cons, if_pos rfl]
    simp only [hi, h.need, List.erase_cons_head, State.setCmd, h.cmds, readFed, nset, lt_irrefl, if_false, if_true]
  unfold feed
  simp only [h.hb, hk, Bool.false_eq_true, if_false, List.foldl_cons, List.foldl_nil]
  rw [hu]

/-- The block completes it. -/
theorem LoneRead.feed (h : LoneRead g lbn conn cid c x s) {v : RdVal} (hv : v.lost = false) :
    EndsRead s (feed g lbn v s) ∧ (feed g lbn v s).cmds = [] ∧
      (feed g lbn v s).out = .resp conn cid 0 0 0 :: .c2hData conn cid [wireBlk c c.slba v] :: s.out := by
  have hl : ∀ j < c.nlb, (ngetD j ⟨0, true, false⟩ (nset 0 v c.found)).lost = false := by
    intro j hj
    obtain rfl : j = 0 := by rw [h.nlb] at hj; omega
    simpa using hv
  obtain ⟨h1, h2, h3⟩ := finishRead_served (s := readFed conn cid c v s) (c := { c with need := [], found := nset 0 v c.found })
    (by simp [readFed, nfind]) h.op rfl h.silent h.cid (h.path.same rfl rfl rfl) hl
  rw [h.feed_eq]
  refine ⟨EndsRead.trans (t := readFed conn cid c v s) rfl h1, by rw [h2]; simp [readFed, ndel], ?_⟩
  rw [h3]
  simp [Cmd.wires, h.nlb, wireBlk, readFed]

/-! ### The lookups of a Read -/

/-- What a Read looks up: each of its blocks, and where it lies. -/
def readSrc (x : IoCmd) (s : State) : List (Nat × ReadFrom) :=
  (List.range x.nlb).map fun j => (j, readFrom s (nsSig s (x.hdr.nsid - 1)) (nsStart s (x.hdr.nsid - 1) + x.slba + j))

def foundOf (src : List (Nat × ReadFrom)) : NMap RdVal := src.filterMap fun y => match y.2 with | .found v => some (y.1, v) | _ => none
def needOf (lo : Nat) (src : List (Nat × ReadFrom)) : List Nat := src.filterMap fun y => match y.2 with | .found _ => none | _ => some (lo + y.1)
def drivesOf (src : List (Nat × ReadFrom)) : List (Nat × Nat × Nat) := src.filterMap fun y => match y.2 with | .drive t p b => some (t, p, b) | _ => none
def lostOf (src : List (Nat × ReadFrom)) : List (Nat × Nat × Nat) := src.filterMap fun y => match y.2 with | .lost t p b => some (t, p, b) | _ => none

/-- The Read as it takes its place among the commands. -/
def readCmd (x : IoCmd) (src : List (Nat × ReadFrom)) (s : State) : Cmd :=
  { op := .read, ns := x.hdr.nsid - 1, slba := x.slba, nlb := x.nlb, pi := some x.pi, ord := s.seq, at_ := s.core.imp, wire := wireOf x.pi, begun := true
    need := (needOf (nsStart s (x.hdr.nsid - 1) + x.slba) src).map fun l => nsSig s (x.hdr.nsid - 1) * 2 ^ 48 + l, found := foundOf src }

def readBegun (m : Sched) (x : IoCmd) (src : List (Nat × ReadFrom)) (s : State) : State :=
  { s with sch := m, seq := s.seq + 1, cmds := nset (cmdKey x.hdr.conn x.hdr.cid) (readCmd x src s) s.cmds }

/-- A Read that nothing refuses, none of its blocks lost on the drives, counts its lookups, asks the drives, and may end at once. -/
theorem doRead_ready {x : IoCmd} {c : Conn} (hr : IoReady x c false s) {src : List (Nat × ReadFrom)} (hs : readSrc x s = src) (hl : lostOf src = []) :
    ∃ m, doRead x s = finishRead (cmdKey x.hdr.conn x.hdr.cid) (readFolios (nsSig s (x.hdr.nsid - 1)) (drivesOf src)
      (countHits (nsSig s (x.hdr.nsid - 1)) (needOf (nsStart s (x.hdr.nsid - 1) + x.slba) src) (nsStart s (x.hdr.nsid - 1) + x.slba) x.nlb (readBegun m x src s))) := by
  have hz : nsZoned s (nsIx x.hdr.nsid) = false := by obtain ⟨-, -, -, -, -, -, -, h, -⟩ := hr; exact h
  refine ⟨(tag3 x.hdr.conn (x.nlb * wireOf x.pi) s).sch, ?_⟩
  subst hs
  unfold doRead
  rw [ioCmd_ready hr _ rfl]
  simp only [hz, Bool.false_and, Bool.false_eq_true, if_false]
  rw [tag3_parts]
  show finishRead _ (List.foldl _ _ (lostOf (readSrc x s))) = _
  rw [hl]
  rfl

theorem caseOnly_countHits (g : Nat) (ms : List Nat) (lo n : Nat) (s : State) : CaseOnly s (countHits g ms lo n s) :=
  CaseOnly.foldl _ (fun t _ => CaseOnly.trans (by split_ifs <;> rfl) (caseOnly_touch _ _ _ _)) _ s

theorem touch_rf (k g n : Nat) (s : State) : (touch k g n s).rf = s.rf := by
  unfold touch
  split <;> rfl

/-- Only the counters of lookups change among the registers. -/
theorem RegsBut.countHits {ks : List Nat} (h : RegsBut ks s t) (hh : Reg.Cc.HITS.key 0 ∈ ks) (hm : Reg.Cc.MISSES.key 0 ∈ ks) (g : Nat) (ms : List Nat) (lo n : Nat) :
    RegsBut ks s (countHits g ms lo n t) := by
  refine foldl_keep (RegsBut ks s) _ _ h fun t i ht => RegsBut.same ?_ (touch_rf _ _ _ _)
  split_ifs
  · exact ht.bump _ _ _ hm
  · exact ht.bump _ _ _ hh

theorem readFolios_nil (g : Nat) (s : State) : readFolios g [] s = s := rfl

theorem CaseOnly.eq (h : CaseOnly s t) : t = { s with cs := t.cs, rf := t.rf, seq := t.seq, core := { s.core with free := t.core.free } } := h

theorem WireOnly.eq (h : WireOnly s t) :
    t = { s with rf := t.rf, cs := t.cs, seq := t.seq, drvs := t.drvs, out := t.out, tagNo := t.tagNo, core := { s.core with free := t.core.free } } := h

/-- Operations of the Case leave the path of a connection free. -/
theorem FreePath.caseOnly {i : Nat} {c : Conn} (hf : FreePath i c s) (h : CaseOnly s t) : FreePath i c t :=
  hf.same (by rw [h.eq]) (by rw [h.eq]) (by rw [h.eq])

/-- One block as it was found goes to the initiator as it is kept. -/
theorem wireBlk_found (c : Cmd) (n : Nat) {v : RdVal} (hv : v.lost = false) :
    wireBlk c n v = if v.never then ⟨0, 0, 0xFFFF, n % 2 ^ 32⟩ else ⟨v.data, guardOf v.data, (c.pi.map (·.lbat)).getD 0, n % 2 ^ 32⟩ := by
  simp [wireBlk, hv]

/-! ### Reads whose blocks are all found, and all on drives -/

/-- The lookups of a Read whose blocks are all found. -/
def allFound (n : Nat) (v : Nat → RdVal) : List (Nat × ReadFrom) := (List.range n).map fun j => (j, .found (v j))

theorem foundOf_allFound (n : Nat) (v : Nat → RdVal) : foundOf (allFound n v) = (List.range n).map fun j => (j, v j) := by
  simp [foundOf, allFound, List.filterMap_map]

theorem needOf_allFound (lo n : Nat) (v : Nat → RdVal) : needOf lo (allFound n v) = [] := by simp [needOf, allFound]
theorem drivesOf_allFound (n : Nat) (v : Nat → RdVal) : drivesOf (allFound n v) = [] := by simp [drivesOf, allFound]
theorem lostOf_allFound (n : Nat) (v : Nat → RdVal) : lostOf (allFound n v) = [] := by simp [lostOf, allFound]

/-- The lookups of a Read whose blocks all lie on drives. -/
def allOnDrives (n t p b : Nat) : List (Nat × ReadFrom) := (List.range n).map fun j => (j, .drive t p (b + j))

theorem needOf_allOnDrives (lo n t p b : Nat) : needOf lo (allOnDrives n t p b) = (List.range n).map fun j => lo + j := by
  simp [needOf, allOnDrives, List.filterMap_map]

theorem lostOf_allOnDrives (n t p b : Nat) : lostOf (allOnDrives n t p b) = [] := by simp [lostOf, allOnDrives]

/-- A Read of blocks that are all found, none of them lost, returns them and is gone again. -/
theorem doRead_found {x : IoCmd} {c : Conn} {v : Nat → RdVal} (hr : IoReady x c false s) (hcid : x.hdr.cid < 65536)
    (hv : ∀ j < x.nlb, readFrom s (nsSig s (x.hdr.nsid - 1)) (nsStart s (x.hdr.nsid - 1) + x.slba + j) = .found (v j) ∧ (v j).lost = false) :
    ∃ (m : Sched) (w : State), CaseOnly (readBegun m x (allFound x.nlb v) s) w ∧ RegsBut [Reg.Cc.HITS.key 0, Reg.Cc.MISSES.key 0] s w ∧ EndsRead w (doRead x s) ∧
      (doRead x s).cmds = s.cmds ∧ (doRead x s).out = .resp x.hdr.conn x.hdr.cid 0 0 0 :: .c2hData x.hdr.conn x.hdr.cid (readCmd x (allFound x.nlb v) s).wires :: s.out := by
  have hsrc : readSrc x s = allFound x.nlb v := List.map_congr_left fun j hj => by rw [(hv j (List.mem_range.mp hj)).1]
  obtain ⟨m, e⟩ := doRead_ready hr hsrc (lostOf_allFound _ _)
  rw [drivesOf_allFound, readFolios_nil] at e
  obtain ⟨hf, -, -, -, hfree, -⟩ := hr
  have hc := caseOnly_countHits (nsSig s (x.hdr.nsid - 1)) (needOf (nsStart s (x.hdr.nsid - 1) + x.slba) (allFound x.nlb v)) (nsStart s (x.hdr.nsid - 1) + x.slba) x.nlb
    (readBegun m x (allFound x.nlb v) s)
  have hb : RegsBut [Reg.Cc.HITS.key 0, Reg.Cc.MISSES.key 0] s (readBegun m x (allFound x.nlb v) s) := (RegsBut.refl _ s).same rfl
  have hw := hb.countHits (by simp) (by simp) (nsSig s (x.hdr.nsid - 1)) (needOf (nsStart s (x.hdr.nsid - 1) + x.slba) (allFound x.nlb v))
    (nsStart s (x.hdr.nsid - 1) + x.slba) x.nlb
  generalize countHits _ _ _ _ _ = w at e hc hw
  have hcmds : w.cmds = nset (cmdKey x.hdr.conn x.hdr.cid) (readCmd x (allFound x.nlb v) s) s.cmds := by rw [hc.eq]; rfl
  have hout : w.out = s.out := by rw [hc.eq]; rfl
  have hfw : FreePath x.hdr.conn c w := FreePath.caseOnly (hf.same (t := readBegun m x (allFound x.nlb v) s) rfl rfl rfl) hc
  obtain ⟨h1, h2, h3⟩ := finishRead_served (s := w) (c := readCmd x (allFound x.nlb v) s) (by rw [hcmds, nfind_nset_self]) rfl
    (by rw [readCmd, needOf_allFound]; rfl) rfl hcid hfw (fun j hj => by
      have hj : j < x.nlb := hj
      rw [readCmd, foundOf_allFound, ngetD, nfind_map_of_mem (List.mem_range.mpr hj)]
      exact (hv j hj).2)
  rw [e]
  refine ⟨m, w, hc, hw, h1, ?_, ?_⟩
  · rw [h2, hcmds, ndel_nset_of_none hfree]
  · rw [h3, hout]

/-- The blocks it returns, in order. -/
theorem readCmd_wires (x : IoCmd) {v : Nat → RdVal} {j : Nat} (hj : j < x.nlb) (hv : (v j).lost = false) :
    (readCmd x (allFound x.nlb v) s).wires[j]? =
      some (if (v j).never then ⟨0, 0, 0xFFFF, (x.slba + j) % 2 ^ 32⟩ else ⟨(v j).data, guardOf (v j).data, x.pi.lbat, (x.slba + j) % 2 ^ 32⟩) := by
  have hg : ngetD j ⟨0, true, false⟩ (readCmd x (allFound x.nlb v) s).found = v j := by
    rw [readCmd, foundOf_allFound, ngetD, nfind_map_of_mem (List.mem_range.mpr hj)]
    rfl
  have hn : (readCmd x (allFound x.nlb v) s).nlb = x.nlb := rfl
  rw [Cmd.wires, List.getElem?_map, hn, List.getElem?_range hj, Option.map_some, hg, wireBlk_found _ _ hv]
  rfl

/-- A Read whose blocks all lie on drives waits for every one of them. -/
theorem doRead_drives {x : IoCmd} {c : Conn} {t0 p0 b0 : Nat} (hr : IoReady x c false s) (hn : 0 < x.nlb)
    (hv : ∀ j < x.nlb, readFrom s (nsSig s (x.hdr.nsid - 1)) (nsStart s (x.hdr.nsid - 1) + x.slba + j) = .drive t0 p0 (b0 + j)) :
    ∃ m, WireOnly (readBegun m x (allOnDrives x.nlb t0 p0 b0) s) (doRead x s) := by
  have hsrc : readSrc x s = allOnDrives x.nlb t0 p0 b0 := List.map_congr_left fun j hj => by rw [hv j (List.mem_range.mp hj)]
  obtain ⟨m, e⟩ := doRead_ready hr hsrc (lostOf_allOnDrives _ _ _ _)
  have hw := readFolios_wire (nsSig s (x.hdr.nsid - 1)) (drivesOf (allOnDrives x.nlb t0 p0 b0)) _ (countHits_wire (nsSig s (x.hdr.nsid - 1))
    (needOf (nsStart s (x.hdr.nsid - 1) + x.slba) (allOnDrives x.nlb t0 p0 b0)) (nsStart s (x.hdr.nsid - 1) + x.slba) x.nlb _
    (WireOnly.refl (readBegun m x (allOnDrives x.nlb t0 p0 b0) s)))
  generalize readFolios _ _ _ = w at e hw
  have hcmds : w.cmds = nset (cmdKey x.hdr.conn x.hdr.cid) (readCmd x (allOnDrives x.nlb t0 p0 b0) s) s.cmds := by rw [hw.eq]; rfl
  refine ⟨m, ?_⟩
  rw [e, finishRead_waits (c := readCmd x (allOnDrives x.nlb t0 p0 b0) s) (by rw [hcmds, nfind_nset_self])]
  · exact hw
  · rw [readCmd, needOf_allOnDrives]
    simpa using Nat.ne_of_gt hn

end Sys2Proof.Machine
end

section
/-!
SUPPORT. A block that a drive returns, or that is reconstructed, and the Read that waits for it (R61, R150, R153 to R157).
-/

namespace Sys2Proof.Machine

variable {s t : State} {g lbn conn cid : Nat} {c : Cmd} {x : Conn}

/-- What a lone Read needs of the state. -/
theorem LoneRead.same (h : LoneRead g lbn conn cid c x s) (hc : t.cmds = s.cmds) (h1 : t.conns = s.conns) (h2 : t.prs = s.prs) (h3 : t.fe = s.fe)
    (hn : nsStart t c.ns = nsStart s c.ns) (hh : inHb t g lbn = inHb s g lbn) : LoneRead g lbn conn cid c x t where
  cmds := hc.trans h.cmds
  op := h.op
  nlb := h.nlb
  need := h.need
  place := by rw [hn, h.place]
  silent := h.silent
  cid := h.cid
  path := h.path.same h1 h2 h3
  hb := by rw [hh, h.hb]

theorem LoneRead.caseOnly (h : LoneRead g lbn conn cid c x s) (e : CaseOnly s t) : LoneRead g lbn conn cid c x t :=
  h.same (by rw [e.eq]) (by rw [e.eq]) (by rw [e.eq]) (by rw [e.eq]) (by rw [e.eq]; rfl) (by rw [e.eq]; rfl)

/-! ### A drive read that completes -/

/-- A drive port with one command less, and none that waits. -/
def drvDone (p tag : Nat) (s : State) : State := s.setDrv p { s.drivePort p with cmds := ndel tag (s.drivePort p).cmds, queue := [] }

/-- The end of a command behind which none waits takes it from its port, and else only from what the Case fills. -/
theorem finishCmd_alone {p tag : Nat} {k : DrvCmd} (hk : nfind tag (s.drivePort p).cmds = some k) (hq : (s.drivePort p).queue = []) :
    CaseOnly (drvDone p tag s) (finishCmd p tag s) := by
  have hd : CaseOnly (drvDone p tag s) (dropCmd p tag s) := by
    unfold dropCmd
    simp only [hk, hq, List.filter_nil]
    split_ifs
    · exact caseOnly_setFill _ _ _ _ _ _ _
    · exact CaseOnly.refl _
  have hb : CaseOnly (drvDone p tag s) ((dropCmd p tag s).bump (if k.write then Reg.Drv.WRITE_CMDS else Reg.Drv.READ_CMDS) 1 p) := hd.trans (caseOnly_bump _ _ _ _)
  have e : finishCmd p tag s = pump p ((dropCmd p tag s).bump (if k.write then Reg.Drv.WRITE_CMDS else Reg.Drv.READ_CMDS) 1 p) := by
    unfold finishCmd
    rw [hk]
  generalize State.bump _ _ _ _ = w at e hb
  have hqw : (w.drivePort p).queue = [] := by
    rw [hb.eq]
    show (ngetD p {} (nset p _ s.drvs)).queue = []
    rw [ngetD_nset_self]
  rw [e, pump, hqw]
  exact hb

/-- The one block of a read, when it is good, fills the Case and goes to the Reads that need it. -/
theorem takeRead_good {k : DrvCmd} {b : RdBlk} {v : RdVal} (hn : k.n = 1) (hv : verify s k.sig k.sheet k.pos k.b0 b = .good v) :
    takeRead k [b] s = feed k.sig (lbnAt s k.sig k.sheet k.pos k.b0) v (fillBlock k.sig (lbnAt s k.sig k.sheet k.pos k.b0) v false s) := by
  simp [takeRead, hn, hv]

/-- A drive read that brings the block of the one outstanding Read completes that Read. -/
theorem doDriveReadComplete_serves {p tag : Nat} {k : DrvCmd} {b : RdBlk} {v : RdVal} (hk : nfind tag (s.drivePort p).cmds = some k)
    (hq : (s.drivePort p).queue = []) (hw : k.write = false) (hu : k.use = .fg) (hn : k.n = 1) (hv : verify s k.sig k.sheet k.pos k.b0 b = .good v)
    (hl : v.lost = false) (hr : LoneRead k.sig (lbnAt s k.sig k.sheet k.pos k.b0) conn cid c x s) :
    ∃ w, CaseOnly (drvDone p tag s) w ∧ EndsRead w (doDriveReadComplete p tag [b] s) ∧ (doDriveReadComplete p tag [b] s).cmds = [] ∧
      (doDriveReadComplete p tag [b] s).out = .resp conn cid 0 0 0 :: .c2hData conn cid [wireBlk c c.slba v] :: s.out := by
  have hf := finishCmd_alone hk hq
  have e : doDriveReadComplete p tag [b] s = takeRead k [b] (finishCmd p tag s) := by simp [doDriveReadComplete, hk, hw, hu, hn]
  generalize finishCmd p tag s = f at e hf
  have hlf : lbnAt f k.sig k.sheet k.pos k.b0 = lbnAt s k.sig k.sheet k.pos k.b0 := by rw [hf.eq]; rfl
  have hvf : verify f k.sig k.sheet k.pos k.b0 b = .good v := by rw [← hv, hf.eq]; rfl
  rw [takeRead_good hn hvf, hlf] at e
  have hc := hf.trans (caseOnly_fillBlock k.sig (lbnAt s k.sig k.sheet k.pos k.b0) v false f)
  generalize fillBlock _ _ _ _ _ = w at e hc
  have hrw : LoneRead k.sig (lbnAt s k.sig k.sheet k.pos k.b0) conn cid c x w := (hr.same (t := drvDone p tag s) rfl rfl rfl rfl rfl rfl).caseOnly hc
  have ho : w.out = s.out := by rw [hc.eq]; rfl
  obtain ⟨h1, h2, h3⟩ := hrw.feed hl
  rw [e]
  exact ⟨w, hc, h1, h2, by rw [h3, ho]⟩

/-! ### A lost block that is reconstructed -/

/-- The Read is counted as one that needed a reconstruction. -/
def reconAsked (g conn cid : Nat) (c : Cmd) (s : State) : State :=
  ({ s with cmds := [(cmdKey conn cid, { c with asked := 1 })] } : State).bump Reg.Sig.RECON_READS 1 g

theorem countRecon_lone (h : LoneRead g lbn conn cid c x s) (ha : c.asked = 0) : countRecon g [lbn] s = reconAsked g conn cid c s := by
  have hk : (s.cmds.filter fun p => p.2.op == .read && p.2.asked == 0 && [lbn].any fun l => p.2.need.contains (g * 2 ^ 48 + l)).map (·.1) = [cmdKey conn cid] := by
    simp [h.cmds, h.op, h.need, ha]
  have hu : (s.updCmd (cmdKey conn cid) fun c => { c with asked := 1 }) = { s with cmds := [(cmdKey conn cid, { c with asked := 1 })] } := by
    unfold State.updCmd
    rw [h.cmds, nfind_cons, if_pos rfl]
    simp only [State.setCmd, h.cmds, nset, lt_irrefl, if_false, if_true]
  unfold countRecon
  simp only [hk, List.foldl_cons, List.foldl_nil]
  rw [hu]
  rfl

theorem LoneRead.reconAsked (h : LoneRead g lbn conn cid c x s) : LoneRead g lbn conn cid { c with asked := 1 } x (reconAsked g conn cid c s) where
  cmds := rfl
  op := h.op
  nlb := h.nlb
  need := h.need
  place := h.place
  silent := h.silent
  cid := h.cid
  path := h.path.same rfl rfl rfl
  hb := h.hb

/-- A repair touches the Case beside the repairs. -/
theorem addRepair_parts (g t p b : Nat) (v : RdVal) (z : Bool) (s : State) : ∃ r q, addRepair g t p b v z s = { s with repairs := r, cs := q } := by
  have pinned (u : State) : ∃ q, (if p < sheetK u g t then updLine 0 g (lbnAt u g t p b / 128) (fun x => { x with pin := true }) u else u) = { u with cs := q } := by
    split_ifs
    · exact updLine_cs _ _ _ _ _
    · exact ⟨u.cs, rfl⟩
  unfold addRepair
  extract_lets is s1
  obtain ⟨q, h⟩ := pinned s1
  refine ⟨s1.repairs, q, h.trans ?_⟩
  unfold s1
  split_ifs <;> rfl

/-- No Read waits. -/
theorem feed_idle (h : s.cmds = []) (g lbn : Nat) (v : RdVal) : feed g lbn v s = s := by simp [feed, h]

/-- No member is counted. -/
theorem judgeRetire_idle (h : (s.sigSt g).k.mems = []) : judgeRetire g s = s := by
  unfold judgeRetire
  simp [h]

/-- The one lost data block of an offset enters the Case and the repairs. -/
def blockRestored (g t p b : Nat) (vs : List PosVal) (y : List Blk × Blk × Blk) (n : Nat) (s : State) : State :=
  addRepair g t p b ⟨solvedAt y p, p ≥ n && allNever vs, false⟩ false (fillBlock g (lbnAt s g t p b) ⟨solvedAt y p, false, false⟩ false s)

/-- The restored state: the Case, the repairs, and the registers. -/
def Restores (s t : State) : Prop := t = { s with cs := t.cs, rf := t.rf, seq := t.seq, core := { s.core with free := t.core.free }, repairs := t.repairs }

theorem Restores.eq (h : Restores s t) : t = { s with cs := t.cs, rf := t.rf, seq := t.seq, core := { s.core with free := t.core.free }, repairs := t.repairs } := h

theorem restores_blockRestored (g t p b : Nat) (vs : List PosVal) (y : List Blk × Blk × Blk) (n : Nat) (s : State) : Restores s (blockRestored g t p b vs y n s) := by
  unfold blockRestored
  have hc := caseOnly_fillBlock g (lbnAt s g t p b) ⟨solvedAt y p, false, false⟩ false s
  generalize fillBlock _ _ _ _ _ = w at hc
  obtain ⟨r, q, h⟩ := addRepair_parts g t p b ⟨solvedAt y p, p ≥ n && allNever vs, false⟩ false w
  unfold Restores
  rw [h, hc.eq]

theorem LoneRead.restores (h : LoneRead g lbn conn cid c x s) (e : Restores s t) : LoneRead g lbn conn cid c x t :=
  h.same (by rw [e.eq]) (by rw [e.eq]) (by rw [e.eq]) (by rw [e.eq]) (by rw [e.eq]; rfl) (by rw [e.eq]; rfl)

/-- A lost offset of which every other position is known: its one data block is lost, and solved. -/
structure SolvedLoss (g t : Nat) (o : RdOffset) (l : LostOff) (vs : List PosVal) (p : Nat) (y : List Blk × Blk × Blk) (s : State) : Prop where
  found : (s.lost.find? fun z => z.sig == g && z.sheet == t && z.off == o.offset) = some l
  synced : resyncWaits s g t = false
  looked : vs = lookAt s g t l.off l.bad o.got
  owed : owedPos vs = []
  lost : lostData vs = [p]
  bad : badPos vs = [(p, false)]
  solved : solveAt true vs = some y
  known : (s.sigSt g).k.hbUnknown = false

/-- The offset is lost no more, and its block restored; the Read that waits for it is counted. -/
def lossRestored (g t p conn cid : Nat) (l : LostOff) (vs : List PosVal) (y : List Blk × Blk × Blk) (c : Cmd) (s : State) : State :=
  blockRestored g t p l.off vs y (sheetK s g t) (reconAsked g conn cid c { s with lost := s.lost.erase l })

variable {t p : Nat} {o : RdOffset} {l : LostOff} {vs : List PosVal} {y : List Blk × Blk × Blk}

/-- The blocks found meanwhile are for no one, and no member is counted. -/
theorem SolvedLoss.doReadReconstruct_eq (h : SolvedLoss g t o l vs p y s) (hr : LoneRead g (lbnAt s g t p l.off) conn cid c x s) (ha : c.asked = 0) {f : State}
    (hf : feed g (lbnAt s g t p l.off) ⟨solvedAt y p, false, false⟩ (lossRestored g t p conn cid l vs y c s) = f) (hc : f.cmds = [])
    (hm : (f.sigSt g).k.mems = []) : doReadReconstruct g t o s = f := by
  have hz : unknownZeros (reconAsked g conn cid c { s with lost := s.lost.erase l }) g vs y = [] := by
    unfold unknownZeros
    show (if (s.sigSt g).k.hbUnknown = true then _ else _) = _
    rw [h.known, if_neg Bool.false_ne_true]
  have hq := countRecon_lone (hr.same (t := { s with lost := s.lost.erase l }) rfl rfl rfl rfl rfl rfl) ha
  have hfix : (List.range (sheetK s g t)).foldl (fun u q => match vs.getD q .gone with
      | .good d n => feed g (lbnAt s g t q l.off) ⟨d, n, false⟩ u
      | .zero => feed g (lbnAt s g t q l.off) ⟨0, true, false⟩ u
      | _ => u) f = f := by
    refine foldl_keep (· = f) _ _ rfl fun u q hu => ?_
    subst hu
    split
    · exact feed_idle hc _ _ _
    · exact feed_idle hc _ _ _
    · rfl
  unfold lossRestored blockRestored at hf
  unfold doReadReconstruct
  simp only [h.found, h.synced, ← h.looked, h.owed, h.lost, h.bad, h.solved, hq, hz, List.map_cons, List.map_nil, List.isEmpty_nil, Bool.not_true,
    Bool.false_eq_true, if_false, if_true, List.contains_nil, Bool.not_false, List.filter_cons_of_pos, List.filter_nil, List.foldl_cons, List.foldl_nil]
  refine Eq.trans (congrArg (judgeRetire g) (Eq.trans ?_ hfix)) (judgeRetire_idle hm)
  subst hf
  rfl

/-- The one outstanding Read, which waits for the block, completes with it. -/
theorem SolvedLoss.serves (h : SolvedLoss g t o l vs p y s) (hr : LoneRead g (lbnAt s g t p l.off) conn cid c x s) (ha : c.asked = 0)
    (hm : (s.sigSt g).k.mems = []) :
    ∃ w, Restores (reconAsked g conn cid c { s with lost := s.lost.erase l }) w ∧ EndsRead w (doReadReconstruct g t o s) ∧
      (doReadReconstruct g t o s).cmds = [] ∧
      (doReadReconstruct g t o s).out = .resp conn cid 0 0 0 :: .c2hData conn cid [wireBlk c c.slba ⟨solvedAt y p, false, false⟩] :: s.out := by
  have hw : Restores (reconAsked g conn cid c { s with lost := s.lost.erase l }) (lossRestored g t p conn cid l vs y c s) := restores_blockRestored _ _ _ _ _ _ _ _
  have hrw := (hr.same (t := { s with lost := s.lost.erase l }) rfl rfl rfl rfl rfl rfl).reconAsked.restores hw
  have ho : (lossRestored g t p conn cid l vs y c s).out = s.out := by rw [hw.eq]; rfl
  have hs : (lossRestored g t p conn cid l vs y c s).sigs = s.sigs := by rw [hw.eq]; rfl
  obtain ⟨h1, h2, h3⟩ := hrw.feed (v := ⟨solvedAt y p, false, false⟩) rfl
  have e := h.doReadReconstruct_eq hr ha rfl h2 (by rw [State.sigSt, h1.eq]; show (ngetD g {} (lossRestored _ _ _ _ _ _ _ _ _ _).sigs).k.mems = []; rw [hs]; exact hm)
  rw [e]
  refine ⟨_, hw, h1, h2, ?_⟩
  rw [h3, ho]
  rfl

/-- Settles O29: a Read of found blocks passes its lookups and ends at once; one of blocks on drives waits; a block from a drive or from a
reconstruction passes the Case and ends the one Read that waits for it. -/
theorem readsServed : Obligations.ReadsServed := by
  unfold Obligations.ReadsServed
  refine ⟨?found, ?drives, ?driveRead, ?reconstruct⟩
  case found =>
    intro s x c v hl hr hcid hv
    obtain ⟨m, w, hc, hb, he, hcmds, hout⟩ := doRead_found hr hcid hv
    refine Gives.on (f := doRead x) rfl hl ⟨⟨_, hout, ?_, fun j hj => readCmd_wires x hj (hv j hj).2⟩, hcmds, hb.same (by rw [he.eq]), ?_, ?_, ?_, ?_⟩
    · simp [Cmd.wires, readCmd]
    all_goals rw [he.eq, hc.eq]; rfl
  case drives =>
    intro s x c t0 p0 b0 hl hr hn hv
    obtain ⟨m, hw⟩ := doRead_drives hr hn hv
    have hcmds : (doRead x s).cmds = nset (cmdKey x.hdr.conn x.hdr.cid) (readCmd x (allOnDrives x.nlb t0 p0 b0) s) s.cmds := by rw [hw.eq]; rfl
    refine Gives.on (f := doRead x) rfl hl ⟨⟨_, by rw [hcmds, nfind_nset_self], rfl, rfl, rfl, ?_⟩, fun j hj => by rw [hcmds, nfind_nset_ne hj], ?_, ?_, ?_, ?_⟩
    · rw [readCmd, needOf_allOnDrives, List.map_map]
      rfl
    all_goals rw [hw.eq]; rfl
  case driveRead =>
    intro s p tag conn cid b k c x v hl hk hq hw hu hn hv hlost hh hcmds hop hnlb hneed hplace hs _ _ hcid hf
    obtain ⟨w, hc, he, h1, h2⟩ := doDriveReadComplete_serves hk hq hw hu hn hv hlost ⟨hcmds, hop, hnlb, hneed, hplace, hs, hcid, hf, hh⟩
    refine Gives.on (f := doDriveReadComplete p.val tag [b]) rfl hl ⟨h1, ?_, ?_, ?_, ?_, ?_⟩
    · rw [h2, wireBlk_found _ _ hlost]
    all_goals rw [he.eq, hc.eq]; rfl
  case reconstruct =>
    intro s x o l vs p conn cid y c cn hl hfind hwait hlook howed hlost hbad hsolve hknown hmems hh hcmds hop hasked hnlb hneed hplace hs _ _ hcid hf
    have hloss : SolvedLoss x.sig.val x.sheet o l vs p y s := ⟨hfind, hwait, hlook, howed, hlost, hbad, hsolve, hknown⟩
    obtain ⟨w, hr, he, h1, h2⟩ := hloss.serves ⟨hcmds, hop, hnlb, hneed, hplace, hs, hcid, hf, hh⟩ hasked hmems
    refine Gives.on (f := doReadReconstruct x.sig.val x.sheet o) rfl hl ⟨?_, h1, ?_, ?_, ?_⟩
    · rw [he.eq, hr.eq]
      rfl
    · rw [h2, wireBlk_found _ _ rfl]
      rfl
    all_goals rw [he.eq, hr.eq]; rfl

end Sys2Proof.Machine
end

section
/-!
SUPPORT. Actions on one zone (Table 3.2): what each comes to on a zone with nothing in progress, and how the commands that wait for a zone end
(R70, R73, R78, R80, R82).
-/

namespace Sys2Proof.Machine

variable {s t : State} {k : Nat}

/-! ### The zone that an update changes -/

theorem zone_updZone_self (k : Nat) (f : Zone → Zone) (s : State) : (s.updZone k f).zone k = f (s.zone k) := ngetD_nset_self _ _ _ _

theorem zone_updZone_ne {j : Nat} (h : j ≠ k) (f : Zone → Zone) (s : State) : (s.updZone k f).zone j = s.zone j := ngetD_nset_ne h _ _ _

/-- Resetting a zone without a reserved length, while the ceiling is above 0. -/
theorem resetZone_unreserved (h : 0 < s.get Reg.Fount.CEILING) (hr : (s.zone k).reserved = 0) :
    ∃ c g e, resetZone k s = { s with cs := c, sigs := g, el := e, zn := { s.zn with
      zones := nset k { lastWrite := (s.zone k).lastWrite, resets := (s.zone k).resets } s.zn.zones } } := by
  obtain ⟨c, g, e, hz⟩ := resetZone_on k h
  exact ⟨c, g, e, by rw [hz, hr]⟩

/-! ### One action on an idle zone -/

theorem Zone.isOpen_iff {z : Zone} : z.isOpen = true ↔ z.st = .implicit ∨ z.st = .explicit := by simp [Zone.isOpen]

theorem Zone.isActive_iff {z : Zone} : z.isActive = true ↔ z.st = .implicit ∨ z.st = .explicit ∨ z.st = .closed := by
  simp [Zone.isActive, Zone.isOpen, or_assoc]

/-- No permit, no seal and no action waits on a zone. -/
structure ZoneIdle (s : State) (k : Nat) : Prop where
  permit : (s.zone k).permit = none
  sealing : (s.zone k).sealing = none
  pend : (s.zone k).pend = none

/-- The zone as Open leaves it, in the free entry of the table. -/
def zoneOpened (k : Nat) (s : State) : State :=
  s.updZone k fun z => { z with st := .explicit, slot := some (freeSlot s), key := nsSig s (k / 2 ^ 32) }

/-- The zone as Offline leaves it, reported as changed. -/
def zoneOfflined (k : Nat) (s : State) : State := zoneChanged k (s.updZone k fun z => { z with st := .offline, slot := none })

theorem zoneAct_open (hi : ZoneIdle s k) (hs : (s.zone k).st = .closed) (hn : openZones s < 65536) (hc : 0 < s.get Reg.Fount.CEILING) :
    zoneAct .open_ k s = (.now, zoneOpened k s) := by
  have ho : openZone k .explicit s = (none, zoneOpened k s) := by
    have hz : zoneSaved k (zoneOpened k s) = zoneOpened k s := zoneSaved_off k hc
    simp only [zoneOpened] at hz
    simp [-Nat.reducePow, openZone, Zone.isOpen, zoneOpened, hs, hn, hz]
  simp [-Nat.reducePow, zoneAct, hi.permit, hi.sealing, hi.pend, hs, ho]

theorem zoneAct_close (hi : ZoneIdle s k) (ho : (s.zone k).isOpen = true) (hr : (s.zone k).reserved = 0) : zoneAct .close k s = (.now, closeZone k s) := by
  rcases Zone.isOpen_iff.mp ho with hs | hs <;> simp [-Nat.reducePow, zoneAct, hi.permit, hi.sealing, hi.pend, hs, hr, zoneEffect]

theorem zoneAct_finish (hi : ZoneIdle s k) (ha : (s.zone k).isActive = true) (hr : (s.zone k).reserved = 0) (he : nsEvidence s (k / 2 ^ 32) = false) :
    zoneAct .finish k s = (.now, fillZone k s) := by
  rcases Zone.isActive_iff.mp ha with hs | hs | hs <;> simp [-Nat.reducePow, zoneAct, hi.permit, hi.sealing, hi.pend, hs, hr, he, zoneEffect]

theorem zoneAct_finish_evidence (hi : ZoneIdle s k) (h1 : (s.zone k).st ≠ .readOnly) (h2 : (s.zone k).st ≠ .offline) (h3 : (s.zone k).st ≠ .full)
    (he : nsEvidence s (k / 2 ^ 32) = true) : zoneAct .finish k s = (.later, beginSeal k false s) := by
  cases hs : (s.zone k).st with
  | readOnly => exact absurd hs h1
  | offline => exact absurd hs h2
  | full => exact absurd hs h3
  | empty | implicit | explicit | closed => simp [-Nat.reducePow, zoneAct, hi.permit, hi.sealing, hi.pend, hs, he]

theorem zoneAct_reset (hi : ZoneIdle s k) (ha : (s.zone k).st = .full ∨ (s.zone k).isActive = true) (hr : (s.zone k).reserved = 0)
    (he : nsEvidence s (k / 2 ^ 32) = false) : zoneAct .reset k s = (.now, resetZone k s) := by
  rw [Zone.isActive_iff] at ha
  rcases ha with hs | hs | hs | hs <;> simp [-Nat.reducePow, zoneAct, hi.permit, hi.sealing, hi.pend, hs, hr, he, zoneEffect]

theorem zoneAct_reset_evidence (hi : ZoneIdle s k) (hs : (s.zone k).st ≠ .empty) (he : nsEvidence s (k / 2 ^ 32) = true) :
    zoneAct .reset k s = (.fail 0xBF, s) := by
  simp [-Nat.reducePow, zoneAct, hi.permit, hi.sealing, hi.pend, hs, he]

theorem zoneAct_offline (hi : ZoneIdle s k) (hs : (s.zone k).st = .readOnly) (he : nsEvidence s (k / 2 ^ 32) = false) (hc : 0 < s.get Reg.Fount.CEILING) :
    zoneAct .offline k s = (.now, zoneOfflined k s) := by
  have hz : zoneSaved k (zoneOfflined k s) = zoneOfflined k s := zoneSaved_off k hc
  simp only [zoneOfflined] at hz
  simp [-Nat.reducePow, zoneAct, hi.permit, hi.sealing, hi.pend, hs, he, zoneOfflined, hz]

/-! ### A Zone Management Send that nothing refuses -/

section Send
variable {x : ZoneCmd} {c : Conn} {i : Instr} {a : ZAct} {P : State → Prop}

theorem ZoneReady.idle (hr : ZoneReady x c k s) (m : Sched) : ZoneIdle { s with sch := m } k := by
  obtain ⟨_, _, _, _, _, _, _, _, _, _, _, _, _, _, h1, h2, h3⟩ := hr
  exact ⟨h1, h2, h3⟩

theorem PlaneOnly.freePath {i : Nat} (h : PlaneOnly s t) (hf : FreePath i c s) : FreePath i c t :=
  hf.same (by rw [h]) (by rw [h]) (by rw [h])

/-- One whose action is done at once completes with 0/0. -/
theorem Gives.zoneNow (e : exec i s = .next (whenOn (doZoneSend a x) s)) (hl : Live s) (hr : ZoneReady x c k s)
    (hz : ∀ m, ∃ t, zoneAct a k { s with sch := m } = (.now, t) ∧ P (t.emit (.resp x.hdr.conn x.hdr.cid 0 0 0))) : Gives i s P := by
  obtain ⟨t, ht, hp⟩ := hz (tag3 x.hdr.conn 0 s).sch
  have hf : FreePath x.hdr.conn c t := by
    have hp : PlaneOnly { s with sch := (tag3 x.hdr.conn 0 s).sch } t := by
      have := zoneAct_plane (s0 := { s with sch := (tag3 x.hdr.conn 0 s).sch }) a k { s with sch := (tag3 x.hdr.conn 0 s).sch } rfl
      rwa [ht] at this
    exact hp.freePath (hr.1.same rfl rfl rfl)
  refine ⟨_, ?_, hp⟩
  rw [e, whenOn_on _ hl.power, doZoneSend_ready hr, tag3_parts, ht]
  exact congrArg _ (respond_free hf _ _)

/-- One whose action has to wait becomes an outstanding command of its zone. -/
theorem Gives.zoneLater (e : exec i s = .next (whenOn (doZoneSend a x) s)) (hl : Live s) (hr : ZoneReady x c k s)
    (hz : ∀ m, ∃ t, zoneAct a k { s with sch := m } = (.later, t) ∧ P (t.setCmd (cmdKey x.hdr.conn x.hdr.cid)
      { op := a.op, ns := x.hdr.nsid - 1, slba := x.slba, nlb := 0, pi := none, ord := t.seq, at_ := t.core.imp, zones := [k] })) : Gives i s P := by
  obtain ⟨t, ht, hp⟩ := hz (tag3 x.hdr.conn 0 s).sch
  refine ⟨_, ?_, hp⟩
  rw [e, whenOn_on _ hl.power, doZoneSend_ready hr, tag3_parts, ht]

/-- One whose action is refused completes with the status of the refusal, and its zone stays as it is. -/
theorem Gives.zoneFail {sc : Nat} (e : exec i s = .next (whenOn (doZoneSend a x) s)) (hl : Live s) (hr : ZoneReady x c k s)
    (hz : ∀ m, zoneAct a k { s with sch := m } = (.fail sc, { s with sch := m }))
    (hp : ∀ m l, P { s with sch := m, ctrls := l, out := .resp x.hdr.conn x.hdr.cid 1 sc 0 :: s.out }) : Gives i s P := by
  have hf : FreePath x.hdr.conn c { s with sch := (tag3 x.hdr.conn 0 s).sch } := hr.1.same rfl rfl rfl
  refine ⟨_, ?_, hp (tag3 x.hdr.conn 0 s).sch (respond x.hdr.conn x.hdr.cid 1 sc 0 { s with sch := (tag3 x.hdr.conn 0 s).sch }).ctrls⟩
  rw [e, whenOn_on _ hl.power, doZoneSend_ready hr, tag3_parts, hz]
  exact congrArg _ (respond_parts hf _ _ _ _)

end Send

/-! ### Commands that wait for a zone -/

/-- A command that keeps nothing but its units: no data in the ingress buffer, none asked for, and no reserved length of an append. -/
structure QuietCmd (c : Cmd) : Prop where
  op : c.op ≠ .append
  silent : c.silent = false
  inCap : c.inCap = false
  r2ts : c.r2ts = []

/-- A command is gone with its units. -/
def cmdGone (k : Nat) (s : State) : State := { s with cmds := ndel k s.cmds, units := s.units.filter fun u => u.cmd != k }

/-- It is gone, and completed with 0/0. -/
def cmdEnded (conn cid : Nat) (s : State) : State := (cmdGone (cmdKey conn cid) s).emit (.resp conn cid 0 0 0)

section Waiting
variable {conn cid : Nat} {c : Cmd} {x : Conn}

theorem QuietCmd.endCmd (hq : QuietCmd c) (hc : nfind (cmdKey conn cid) s.cmds = some c) (hcid : cid < 65536) (hf : FreePath conn x s) :
    endCmd (cmdKey conn cid) 0 0 0 s = cmdEnded conn cid s := by
  have hb : c.capBytes = 0 := by simp [Cmd.capBytes, hq.inCap]
  have hr : c.r2tBytes = 0 := by simp [Cmd.r2tBytes, hq.r2ts]
  unfold Machine.endCmd removeCmd State.cmd
  simp only [hc, hq.op, hq.silent, hb, hr, cmdKey_conn hcid, cmdKey_cid hcid, false_and, if_false, Bool.false_eq_true, Nat.sub_zero]
  exact respond_free (hf.same (t := cmdGone (cmdKey conn cid) s) rfl rfl rfl) _ _

/-- The one outstanding command waits for a zone, and for no other. -/
structure LoneWait (k conn cid : Nat) (c : Cmd) (x : Conn) (s : State) : Prop where
  cmds : s.cmds = [(cmdKey conn cid, c)]
  zones : c.zones = [k]
  quiet : QuietCmd c
  cid : cid < 65536
  path : FreePath conn x s

/-- The command waits for no zone any more. -/
def waitsNoMore (k : Nat) (c : Cmd) (s : State) : State := { s with cmds := [(k, { c with zones := [] })] }

/-- It ends with the action on its zone. -/
theorem LoneWait.zoneDone (h : LoneWait k conn cid c x s) : zoneDone k [c.op] s = cmdEnded conn cid s := by
  have hk : (s.cmds.filter fun p => [c.op].contains p.2.op && p.2.zones.contains k).map (·.1) = [cmdKey conn cid] := by simp [h.cmds, h.zones]
  have hu : (s.updCmd (cmdKey conn cid) fun x => { x with zones := x.zones.erase k }) = waitsNoMore (cmdKey conn cid) c s := by
    simp [State.updCmd, State.setCmd, h.cmds, nfind, nset, h.zones, waitsNoMore]
  have hc : nfind (cmdKey conn cid) (waitsNoMore (cmdKey conn cid) c s).cmds = some { c with zones := [] } := if_pos rfl
  have hq : QuietCmd { c with zones := [] } := ⟨h.quiet.op, h.quiet.silent, h.quiet.inCap, h.quiet.r2ts⟩
  unfold Machine.zoneDone
  rw [hk, List.foldl_cons, List.foldl_nil]
  dsimp only
  rw [hu, if_pos (by simp [State.cmd, hc]), hq.endCmd hc h.cid (h.path.same (t := waitsNoMore _ c s) rfl rfl rfl)]
  simp [cmdEnded, cmdGone, waitsNoMore, h.cmds, ndel]

theorem zoneDone_none {ops : List CmdOp} (h : ∀ e ∈ s.cmds, e.2.op ∉ ops) : zoneDone k ops s = s := by
  have hk : (s.cmds.filter fun p => ops.contains p.2.op && p.2.zones.contains k) = [] :=
    List.filter_eq_nil_iff.mpr fun e he => by simp [h e he]
  unfold zoneDone
  rw [hk]
  rfl

/-- No append waits for the zone. -/
theorem releaseHeld_none (h : ∀ e ∈ s.cmds, e.2.held = false) : releaseHeld k s = s := by
  have hk : (s.cmds.filter fun p => p.2.op == .append && p.2.held && p.2.zone s == k) = [] :=
    List.filter_eq_nil_iff.mpr fun e he => by simp [h e he]
  unfold releaseHeld
  rw [hk]
  rfl

end Waiting

/-- The command kind whose action waits. -/
def ZPend.op : ZPend → CmdOp
  | .close => .close
  | .finish => .finish
  | .reset => .reset

theorem ZPend.op_ne_append (p : ZPend) : p.op ≠ .append := by cases p <;> simp [ZPend.op]

/-- The action of a zone no longer waits. -/
def pendCleared (k : Nat) (s : State) : State := s.updZone k fun z => { z with pend := none }

theorem zone_pendCleared (k : Nat) (s : State) : (pendCleared k s).zone k = { s.zone k with pend := none } := zone_updZone_self _ _ _

/-- A zone after a Close or a Finish that waited. -/
def zoneLeft (p : ZPend) (z : Zone) : Zone := { z with st := if p = .close then .closed else .full, slot := none, pend := none }

theorem zoneEffect_left {p : ZPend} (hp : p ≠ .reset) (hc : 0 < s.get Reg.Fount.CEILING) : ∃ cs g, zoneEffect p k (pendCleared k s) =
    { s with cs := cs, sigs := g, zn := { s.zn with zones := nset k (zoneLeft p (s.zone k)) (pendCleared k s).zn.zones } } := by
  cases p with
  | close =>
    obtain ⟨cs, g, h⟩ := closeZone_on (s := pendCleared k s) k hc
    rw [zone_pendCleared] at h
    exact ⟨cs, g, h⟩
  | finish =>
    obtain ⟨cs, g, h⟩ := fillZone_on (s := pendCleared k s) k hc
    rw [zone_pendCleared] at h
    exact ⟨cs, g, h⟩
  | reset => exact absurd rfl hp

section Deferred
variable {n z conn cid : Nat} {c : Cmd} {x : Conn} {p : ZPend}

/-- The action that waited takes effect, and the one command that waited ends. -/
theorem doZoneActionDeferred_ends {u : State} (hp : (s.zone (zoneKey n z)).pend = some p) (hr : (s.zone (zoneKey n z)).reserved = 0) (hop : c.op = p.op)
    (hu : zoneEffect p (zoneKey n z) (pendCleared (zoneKey n z) s) = u) (hw : LoneWait (zoneKey n z) conn cid c x u) :
    doZoneActionDeferred n z s = cmdEnded conn cid u := by
  have hd : doZoneActionDeferred n z s = releaseHeld (zoneKey n z) (zoneDone (zoneKey n z) [p.op] u) := by
    unfold doZoneActionDeferred
    dsimp only
    rw [hp]
    dsimp only
    rw [if_pos hr, ← hu]
    cases p <;> rfl
  rw [hd, ← hop, hw.zoneDone]
  exact releaseHeld_none (by simp [cmdEnded, cmdGone, hw.cmds, ndel])

theorem doZoneActionDeferred_reserved (hr : 0 < (s.zone (zoneKey n z)).reserved) : doZoneActionDeferred n z s = s := by
  unfold doZoneActionDeferred
  dsimp only
  split
  · exact if_neg (by omega)
  · rfl

end Deferred

/-- Settles O25: each action by what it comes to on an idle zone, and the completion that follows. -/
theorem zoneActions : Obligations.ZoneActions := by
  unfold Obligations.ZoneActions
  refine ⟨?opens, ?closes, ?finishes, ?seals, ?resets, ?refused, ?offlines⟩
  case opens =>
    intro s x c k hl hr hc hs hn
    exact Gives.zoneNow rfl hl hr fun m => ⟨_, zoneAct_open (hr.idle m) hs hn hc, rfl, ngetD_nset_self _ _ _ _, fun j hj => ngetD_nset_ne hj _ _ _, rfl⟩
  case closes =>
    intro s x c k hl hr hc ho hz
    refine Gives.zoneNow rfl hl hr fun m => ?_
    obtain ⟨cs, g, h⟩ := closeZone_on (s := { s with sch := m }) k hc
    exact ⟨_, (zoneAct_close (hr.idle m) ho hz).trans (congrArg (Prod.mk ZDone.now) h), rfl, ngetD_nset_self _ _ _ _, fun j hj => ngetD_nset_ne hj _ _ _, rfl⟩
  case finishes =>
    intro s x c k hl hr hc ha hz he
    refine Gives.zoneNow rfl hl hr fun m => ?_
    obtain ⟨cs, g, h⟩ := fillZone_on (s := { s with sch := m }) k hc
    exact ⟨_, (zoneAct_finish (hr.idle m) ha hz he).trans (congrArg (Prod.mk ZDone.now) h), rfl, ngetD_nset_self _ _ _ _, fun j hj => ngetD_nset_ne hj _ _ _, rfl⟩
  case seals =>
    intro s x c k hl hr h1 h2 h3 he
    exact Gives.zoneLater rfl hl hr fun m => ⟨_, zoneAct_finish_evidence (hr.idle m) h1 h2 h3 he, rfl, ngetD_nset_self _ _ _ _,
      fun j hj => ngetD_nset_ne hj _ _ _, ⟨_, nfind_nset_self _ _ _, rfl, rfl⟩, fun j hj => nfind_nset_ne hj _ _, rfl⟩
  case resets =>
    intro s x c k hl hr hc ha hz he
    refine Gives.zoneNow rfl hl hr fun m => ?_
    obtain ⟨cs, g, e, h⟩ := resetZone_unreserved (s := { s with sch := m }) hc hz
    exact ⟨_, (zoneAct_reset (hr.idle m) ha hz he).trans (congrArg (Prod.mk ZDone.now) h), rfl, ngetD_nset_self _ _ _ _, fun j hj => ngetD_nset_ne hj _ _ _, rfl⟩
  case refused =>
    intro s x c k hl hr hs he
    exact Gives.zoneFail rfl hl hr (fun m => zoneAct_reset_evidence (hr.idle m) hs he) fun m l => ⟨rfl, rfl, rfl⟩
  case offlines =>
    intro s x c k hl hr hc hs he
    exact Gives.zoneNow rfl hl hr fun m => ⟨_, zoneAct_offline (hr.idle m) hs he hc, rfl, ngetD_nset_self _ _ _ _, fun j hj => ngetD_nset_ne hj _ _ _, rfl⟩

/-- Settles O26: the effect of the action that waited, and the end of the one command that waits for its zone. -/
theorem zoneActionsWhenIdle : Obligations.ZoneActionsWhenIdle := by
  unfold Obligations.ZoneActionsWhenIdle
  refine ⟨?leaves, ?resets, ?reserved⟩
  case leaves =>
    intro s n z conn cid c x p hl hp hr hc hcmds hz hs hi hr2 hcid hf hop
    have hpo : p ≠ .reset ∧ c.op = p.op := by
      rcases hop with ⟨rfl, h⟩ | ⟨rfl, h⟩ <;> exact ⟨by simp, h⟩
    obtain ⟨cs, g, h⟩ := zoneEffect_left (k := zoneKey n.val z) hpo.1 hc
    refine Gives.on (f := doZoneActionDeferred n.val z) rfl hl ?_
    rw [doZoneActionDeferred_ends hp hr hpo.2 h ⟨hcmds, hz, ⟨hpo.2 ▸ p.op_ne_append, hs, hi, hr2⟩, hcid, hf.same rfl rfl rfl⟩]
    refine ⟨ngetD_nset_self _ _ _ _, fun j hj => (ngetD_nset_ne hj _ _ _).trans (zone_updZone_ne hj _ _), ?_, rfl, rfl⟩
    simp [cmdEnded, cmdGone, hcmds, ndel]
  case resets =>
    intro s n z conn cid c x p hl hp hr hc hcmds hz hs hi hr2 hcid hf hpr hop
    subst hpr
    obtain ⟨cs, g, e, h⟩ := resetZone_unreserved (s := pendCleared (zoneKey n.val z) s) hc (by rw [zone_pendCleared]; exact hr)
    rw [zone_pendCleared] at h
    refine Gives.on (f := doZoneActionDeferred n.val z) rfl hl ?_
    rw [doZoneActionDeferred_ends hp hr hop h ⟨hcmds, hz, ⟨hop ▸ ZPend.op_ne_append .reset, hs, hi, hr2⟩, hcid, hf.same rfl rfl rfl⟩]
    refine ⟨ngetD_nset_self _ _ _ _, fun j hj => (ngetD_nset_ne hj _ _ _).trans (zone_updZone_ne hj _ _), ?_, rfl, rfl⟩
    simp [cmdEnded, cmdGone, pendCleared, hcmds, ndel]
  case reserved =>
    intro s n z hl hr
    exact congrArg Host.Outcome.next ((whenOn_on _ hl.power).trans (doZoneActionDeferred_reserved hr))

end Sys2Proof.Machine
end

section
/-!
SUPPORT. Seals and authorised resets (R82, R84 to R86, R88): the digest and the place in the signing queue, the colophon, and the zone that an
accepted permit resets.
-/

namespace Sys2Proof.Machine

variable {s u : State} {k n z : Nat} {y : Seal}

/-! ### The digest of a seal -/

/-- The seal of an undamaged zone once its digest is taken (R82 step 3). -/
def sealDigested (s : State) (k : Nat) (y : Seal) : Seal :=
  { y with
    final := true
    op := if y.op = 0 then opTimeOf s.core.opImp else y.op
    cycles := if y.cycles = 0 then s.core.cycles else y.cycles
    digest := shaFinish (if (s.zone k).sha.isEmpty then shaInit else (s.zone k).sha) [] (4096 * (s.zone k).fill)
    bad := [] }

/-- A zone joins the signing queue. -/
def sealQueued (k : Nat) (s : State) : State := { s with zn := { s.zn with signQ := s.zn.signQ ++ [k] } }

/-- The signing of a zone's seal begins. -/
def signBegins (k : Nat) (s : State) : State := s.updZone k fun z => { z with sealing := z.sealing.map fun x => { x with signAt := some s.core.imp } }

/-- The digest of a seal is taken. -/
def digestTaken (k : Nat) (y : Seal) (s : State) : State := s.updZone k fun z => { z with sealing := some (sealDigested s k y) }

theorem queueSeal_idle (h : s.zn.signQ = []) : queueSeal k s = signBegins k (sealQueued k s) := by simp [queueSeal, signBegins, sealQueued, h]

theorem queueSeal_busy (h : s.zn.signQ.length < 64) (hq : s.zn.signQ ≠ []) : queueSeal k s = sealQueued k s := by
  unfold queueSeal
  rw [if_neg (by omega)]
  simp [sealQueued, hq]

theorem doSealDigest_undamaged {back : List (Nat × Option Blk)} (hs : (s.zone (zoneKey n z)).sealing = some y) (hy : y.final = false)
    (hr : (s.zone (zoneKey n z)).reserved = 0) (hd : zoneDamage s (zoneKey n z) = []) :
    doSealDigest n z back s = queueSeal (zoneKey n z) (digestTaken (zoneKey n z) y s) := by
  unfold doSealDigest
  dsimp only
  rw [hs]
  dsimp only
  rw [if_neg (by simp [hy, hr]), hd]
  rfl

theorem zone_digestTaken (k : Nat) (y : Seal) (s : State) : (digestTaken k y s).zone k = { s.zone k with sealing := some (sealDigested s k y) } :=
  zone_updZone_self _ _ _

theorem zone_digestTaken_ne {j : Nat} (h : j ≠ k) (y : Seal) (s : State) : (digestTaken k y s).zone j = s.zone j := zone_updZone_ne h _ _

/-- The seal whose digest is taken begins to be signed. -/
theorem zone_signBegins_digestTaken (k : Nat) (y : Seal) (s : State) : (signBegins k (sealQueued k (digestTaken k y s))).zone k =
    { s.zone k with sealing := some { sealDigested s k y with signAt := some s.core.imp } } := by
  have h : (sealQueued k (digestTaken k y s)).zone k = _ := zone_digestTaken k y s
  rw [signBegins, zone_updZone_self, h]
  rfl

/-! ### The colophon -/

/-- A zone with its colophon in place. -/
def zoneSealed (z : Zone) : Zone := { z with st := .full, slot := none, sealing := none, sealed := true, sealBad := false }

/-- Nothing waits to be signed. -/
def signQEmptied (s : State) : State := { s with zn := { s.zn with signQ := [] } }

/-- The seal of a zone is complete and counted, the only one in the signing queue. -/
def sealCounted (k : Nat) (s : State) : State := signQEmptied (countZn 16 ((s.updZone k zoneSealed).bump Reg.Zn.SEALS))

theorem zone_sealCounted_self (k : Nat) (s : State) : (sealCounted k s).zone k = zoneSealed (s.zone k) := zone_updZone_self _ _ _
theorem zone_sealCounted_ne {j : Nat} (h : j ≠ k) (s : State) : (sealCounted k s).zone j = s.zone j := zone_updZone_ne h _ _
theorem get_sealCounted_seals (h : Rwf s) (k : Nat) : (sealCounted k s).get Reg.Zn.SEALS = min (s.get Reg.Zn.SEALS + 1) (2 ^ Reg.Zn.SEALS.w - 1) :=
  get_bump_eq (s := s.updZone k zoneSealed) h Reg.Zn.SEALS 1 0
theorem get_sealCounted_ne {G : FieldSpec} {j : Nat} (h : G.key j ≠ Reg.Zn.SEALS.key 0) (k : Nat) (s : State) : (sealCounted k s).get G j = s.get G j :=
  get_bump_ne h (s.updZone k zoneSealed) 1
theorem RegsBut.sealCounted {ks : List Nat} {t : State} (h : RegsBut ks s t) (m : Reg.Zn.SEALS.key 0 ∈ ks) (k : Nat) : RegsBut ks s (sealCounted k t) :=
  ((h.same (u := t.updZone k zoneSealed) rfl).bump Reg.Zn.SEALS 1 0 m).same rfl

/-- No zone waits for a place in an empty signing queue. -/
theorem nextSeal_none (hq : s.zn.signQ = []) (h : ∀ e ∈ s.zn.zones, e.2.sealing = none) : nextSeal s = s := by
  have hw : (s.zn.zones.find? fun p => (p.2.sealing.any fun y => y.final) && !s.zn.signQ.contains p.1) = none :=
    List.find?_eq_none.mpr fun e he => by simp [h e he]
  unfold nextSeal
  dsimp only
  rw [hw]
  dsimp only
  rw [hq]

/-- Storing a zone that is under no seal leaves none under a seal, where no other is. -/
theorem sealing_none_nset {m : NMap Zone} (hw : NMap.wf m) (h : ∀ e ∈ m, e.1 ≠ k → e.2.sealing = none) {v : Zone} (hv : v.sealing = none) :
    ∀ e ∈ nset k v m, e.2.sealing = none := by
  intro e he
  by_cases hk : e.1 = k
  · have hf := nfind_of_mem (NMap.wf_nset k v hw) he
    rw [hk, nfind_nset_self] at hf
    rw [← Option.some.inj hf, hv]
  · rcases mem_nset he with rfl | hm
    · exact absurd rfl hk
    · exact h e hm hk

/-- The sheet of the colophon is to be written. -/
def colophonAsked (n k : Nat) (s : State) : State :=
  s.updSig (nsSig s n) fun x => { x with rank2 := addTo (sheetOfLbn s (nsSig s n) (zoneLbn s k + zsze s n - 1)) x.rank2 }

/-- The galley of the zone is over, and its colophon is to be written (step 5 of R82). -/
def colophonPlaced (n k : Nat) (s : State) : State := colophonAsked n k (askPartial k (unretain k s))

theorem colophonPlaced_parts (n k : Nat) (s : State) : ∃ c g, colophonPlaced n k s = { s with cs := c, sigs := g } := by
  obtain ⟨c, hc⟩ := unretain_cs k s
  obtain ⟨g, hg⟩ := askPartial_sigs k { s with cs := c }
  unfold colophonPlaced
  rw [hc, hg]
  exact ⟨c, _, rfl⟩

/-- A signed seal of an undamaged zone whose colophon block the Case takes. -/
theorem doColophonSigned_lands {a : Nat} (hq : s.zn.signQ = [zoneKey n z]) (hs : (s.zone (zoneKey n z)).sealing = some y) (hf : y.final = true)
    (ha : y.signAt = some a) (ht : 40 ≤ s.since a) (hb : y.bad = [])
    (hu : land (nsSig s n) true (writeThrough s) [(zoneLbn s (zoneKey n z) + zsze s n - 1, blkOf (colophon s (zoneKey n z) y))] s = some u) :
    doColophonSigned n z s = zoneDone (zoneKey n z) [.finish] (zoneSaved (zoneKey n z) (nextSeal (sealCounted (zoneKey n z) (colophonPlaced n (zoneKey n z) u)))) := by
  unfold doColophonSigned
  dsimp only
  rw [hq, hs]
  dsimp only
  rw [if_pos (by simp [hf, ha, ht]), hu, hb]
  rfl

/-! ### The authorised reset -/

/-- The reset of a zone is counted. -/
def resetCounted (k : Nat) (s : State) : State := s.updZone k fun z => { z with resets := (z.resets + 1) % 65536 }

/-- Whether a zone is on the page of damaged sealed zones of its namespace. -/
def listedDamaged (z : Zone) : Bool := z.sealed && (z.sealBad || z.later)

/-- The page of damaged sealed zones loses a zone it listed. -/
def zoneUnlisted (listed : Bool) (n : Nat) (s : State) : State :=
  if listed then { s with zn := { s.zn with dszGen := nset n (ngetD n 0 s.zn.dszGen + 1) s.zn.dszGen } } else s

/-- The authorised reset is counted, raised and recorded with its nonce. -/
def resetReported (n k nonce : Nat) (s : State) : State :=
  (countZn 40 (zoneChanged k (s.raise Reg.Zn.AUTH_RESET))).log 0xA003 n (leBytes 4 (n + 1) ++ leBytes 8 (zoneStart s k) ++ leBytes 16 nonce)

theorem zoneStart_of_img {t : State} (h : t.img = s.img) (k : Nat) : zoneStart t k = zoneStart s k := by
  unfold zoneStart zsze nsImp nsOf impOf imgOf
  rw [h]

theorem resetReported_due (n k nonce : Nat) (s : State) : (resetReported n k nonce s).el.due =
    ⟨0xA003, 0, 0, opTimeOf s.core.opImp, s.core.cycles, n, leBytes 4 (n + 1) ++ leBytes 8 (zoneStart s k) ++ leBytes 16 nonce⟩ :: s.el.due := rfl

theorem zoneUnlisted_parts (b : Bool) (n : Nat) (s : State) : ∃ d, zoneUnlisted b n s = { s with zn := { s.zn with dszGen := d } } := by
  cases b with
  | false => exact ⟨_, rfl⟩
  | true => exact ⟨_, rfl⟩

/-- What the reset of a zone by a permit changes before it is reported. -/
theorem permitReset_parts (hc : 0 < s.get Reg.Fount.CEILING) (hr : (s.zone k).reserved = 0) (b : Bool) (n : Nat) :
    ∃ cs g el d, zoneUnlisted b n (resetZone k (resetCounted k s)) = { s with cs := cs, sigs := g, el := el, zn := { s.zn with
      zones := nset k { lastWrite := (s.zone k).lastWrite, resets := ((s.zone k).resets + 1) % 65536 } (resetCounted k s).zn.zones, dszGen := d } } := by
  have hz : (resetCounted k s).zone k = { s.zone k with resets := ((s.zone k).resets + 1) % 65536 } := zone_updZone_self _ _ _
  obtain ⟨cs, g, el, h⟩ := resetZone_unreserved (s := resetCounted k s) (k := k) hc (by rw [hz]; exact hr)
  obtain ⟨d, hd⟩ := zoneUnlisted_parts b n (resetZone k (resetCounted k s))
  rw [hz] at h
  rw [hd, h]
  exact ⟨cs, g, el, d, rfl⟩

/-- An accepted permit resets its zone, and its command ends. -/
theorem doPermitReset_ends {nonce conn cid : Nat} {c : Cmd} {x : Conn} {v : State} (hp : (s.zone (zoneKey n z)).permit = some (nonce, cmdKey conn cid))
    (hr : (s.zone (zoneKey n z)).reserved = 0) (hs : (s.zone (zoneKey n z)).sealing = none)
    (hv : zoneUnlisted (listedDamaged (s.zone (zoneKey n z))) n (resetZone (zoneKey n z) (resetCounted (zoneKey n z) s)) = v)
    (hq : QuietCmd c) (hc : nfind (cmdKey conn cid) v.cmds = some c) (hcid : cid < 65536) (hf : FreePath conn x v) (hh : ∀ e ∈ v.cmds, e.2.held = false) :
    doPermitReset n z s = cmdEnded conn cid (resetReported n (zoneKey n z) nonce v) := by
  have hd : doPermitReset n z s = releaseHeld (zoneKey n z) (endCmd (cmdKey conn cid) 0 0 0 (resetReported n (zoneKey n z) nonce v)) := by
    unfold doPermitReset
    dsimp only
    rw [hp]
    dsimp only
    rw [if_pos (by simp [hr, hs]), ← hv]
    unfold resetReported zoneUnlisted resetCounted
    rfl
  rw [hd, hq.endCmd (s := resetReported n (zoneKey n z) nonce v) hc hcid (hf.same rfl rfl rfl)]
  exact releaseHeld_none fun e he => hh e (mem_ndel he)

/-- Settles O27: the digest joins the signing queue, the signed colophon ends its seal, and an accepted permit resets its zone. -/
theorem zoneSealsAndPermits : Obligations.ZoneSealsAndPermits := by
  unfold Obligations.ZoneSealsAndPermits
  refine ⟨?digest, ?colophon, ?permit⟩
  case digest =>
    intro s n z back y hl hs hy hr hd hq
    refine Gives.on (f := doSealDigest n.val z back) rfl hl ?_
    rw [doSealDigest_undamaged hs hy hr hd]
    by_cases he : s.zn.signQ = []
    · rw [queueSeal_idle (s := digestTaken _ y s) he]
      refine ⟨⟨_, zone_signBegins_digestTaken _ y s, rfl, rfl, rfl, rfl, fun _ => rfl⟩, fun j hj => ?_, rfl, rfl⟩
      exact (zone_updZone_ne hj _ _).trans (zone_digestTaken_ne hj y s)
    · rw [queueSeal_busy (s := digestTaken _ y s) hq he]
      exact ⟨⟨_, zone_digestTaken _ y s, rfl, rfl, rfl, rfl, fun h => absurd h he⟩, fun j hj => zone_digestTaken_ne hj y s, rfl, rfl⟩
  case colophon =>
    intro s n z y a u hl hq hs hf ha ht hc hb hu hzn himg hcmds hrf hfin hother hwf
    obtain ⟨cs, g, hp⟩ := colophonPlaced_parts n.val (zoneKey n.val z) u
    obtain ⟨v, hv, hvzn, hvcmds, hvrf⟩ : ∃ v, v = colophonPlaced n.val (zoneKey n.val z) u ∧ v.zn = s.zn ∧ v.cmds = s.cmds ∧ v.rf = s.rf :=
      ⟨_, rfl, by rw [hp]; exact ⟨hzn, hcmds, hrf⟩⟩
    have hzone : ∀ j, v.zone j = s.zone j := fun j => by rw [State.zone, hvzn, State.zone]
    have hnext : nextSeal (sealCounted (zoneKey n.val z) v) = sealCounted (zoneKey n.val z) v := by
      refine nextSeal_none rfl (sealing_none_nset (m := v.zn.zones) ?_ ?_ rfl)
      · rw [hvzn]
        exact hwf
      · rw [hvzn]
        exact hother
    have hceil : 0 < (sealCounted (zoneKey n.val z) v).get Reg.Fount.CEILING := by
      rw [get_sealCounted_ne (by decide), get_of_rf hvrf]
      exact hc
    have hdone : zoneDone (zoneKey n.val z) [.finish] (sealCounted (zoneKey n.val z) v) = sealCounted (zoneKey n.val z) v := by
      refine zoneDone_none (s := sealCounted (zoneKey n.val z) v) fun e he => ?_
      simpa using hfin e (hvcmds ▸ he)
    refine Gives.on (f := doColophonSigned n.val z) rfl hl ?_
    rw [doColophonSigned_lands hq hs hf ha ht hb hu, ← hv, hnext, zoneSaved_off _ hceil, hdone]
    refine ⟨?_, fun j hj => ?_, rfl, ?_, ?_, ?_, ?_⟩
    · rw [zone_sealCounted_self, hzone]
      rfl
    · rw [zone_sealCounted_ne hj, hzone]
    · rw [get_sealCounted_seals ((Rwf.live hl).same (by rw [hvrf])), get_of_rf hvrf]
    · rw [← hvzn]
      exact ngetD_nset_self _ _ _ _
    · exact ((RegsBut.refl _ s).same hvrf).sealCounted (by simp) _
    · rw [hv, hp]
      rfl
  case permit =>
    intro s n z conn cid nonce c x hl hp hr hs hc hcmd hop hsil hi hr2 hcid hf hheld
    obtain ⟨cs, g, el, d, hv⟩ := permitReset_parts hc hr (listedDamaged (s.zone (zoneKey n.val z))) n.val
    refine Gives.on (f := doPermitReset n.val z) rfl hl ?_
    rw [doPermitReset_ends hp hr hs hv ⟨by simp [hop], hsil, hi, hr2⟩ hcmd hcid (hf.same rfl rfl rfl) hheld]
    refine ⟨ngetD_nset_self _ _ _ _, fun j hj => (ngetD_nset_ne hj _ _ _).trans (zone_updZone_ne hj _ _), rfl, rfl, ?_, ?_, ngetD_nset_self _ _ _ _,
      ⟨_, _, resetReported_due _ _ _ _, zoneStart_of_img rfl _⟩, rfl⟩
    · exact get_raise_eq (.live hl) Reg.Zn.AUTH_RESET 0
    · exact ((RegsBut.refl _ s).raise Reg.Zn.AUTH_RESET 0 (by simp)).same rfl

end Sys2Proof.Machine
end

section
/-!
SUPPORT. Report Zones and the snapshot of the open-zone table (R73, R90): the page that a report returns, and the fields that OZT_SEL stores.
-/

namespace Sys2Proof.Machine

variable {s : State} {x : ReportCmd} {c : Conn}

/-! ### Report Zones -/

/-- A Report Zones that meets nothing to refuse it before its own checks. -/
structure ReportReady (x : ReportCmd) (c : Conn) (s : State) : Prop where
  path : FreePath x.hdr.conn c s
  icDone : c.icDone = true
  connected : c.connected = true
  io : c.admin = false
  fresh : nfind (cmdKey x.hdr.conn x.hdr.cid) s.cmds = none
  auth : c.authReq = true → c.authDone = true
  ns : checkNs false x.hdr c s = none
  zoned : nsZoned s (x.hdr.nsid - 1) = true
  len : x.hdr.len ≤ 1048576
  inCapsule : x.hdr.inCapsule ≤ 8192

/-- The zones that a report counts: from that of its LBA on, those that pass its filter. -/
def reportedZones (s : State) (x : ReportCmd) : List Nat :=
  ((List.range (zoneCount s (x.hdr.nsid - 1) - x.slba / zsze s (x.hdr.nsid - 1))).map fun j => x.slba / zsze s (x.hdr.nsid - 1) + j).filter fun z =>
    x.stateFilter == 0 || (s.zone (zoneKey (x.hdr.nsid - 1) z)).st.filter == x.stateFilter

/-- The descriptor of a zone of namespace `n` (log entry 20). -/
def zoneDescriptor (s : State) (n z : Nat) : List Nat :=
  [2, (s.zone (zoneKey n z)).st.code * 16, 0, 0, 0, 0, 0, 0] ++ leBytes 8 (zsze s n) ++ leBytes 8 (z * zsze s n) ++
    leBytes 8 (z * zsze s n + (s.zone (zoneKey n z)).fill) ++ List.replicate 32 0

/-- What a report returns before it is cut to the requested length. -/
def reportPage (s : State) (x : ReportCmd) : List Nat :=
  leBytes 8 (reportedZones s x).length ++ List.replicate 56 0 ++ ((reportedZones s x).take x.maxZones).flatMap (zoneDescriptor s (x.hdr.nsid - 1))

/-- Nothing refuses it before its own checks (R46, R50, R51, Table 2.3). -/
theorem ReportReady.doReportZones_eq (h : ReportReady x c s) : doReportZones x s =
    if x.slba ≥ nsSize s (x.hdr.nsid - 1) then respond x.hdr.conn x.hdr.cid 0 0x80 0 s
    else returnBytes x.hdr 0 (reportPage s x) (tag3 x.hdr.conn x.hdr.len s) := by
  have g : gateStatus .io true x.hdr c s = none := by
    have ha : ¬(c.authReq = true ∧ c.authDone = false) := fun e => by simp [h.auth e.1] at e
    simpa [gateStatus, OnQueue.has, State.cmd, h.connected, h.io, h.fresh] using ha
  have l : checkLen x.hdr none = none := by
    have := h.len
    have := h.inCapsule
    unfold checkLen
    rw [if_neg (by omega), if_neg (by simp; omega)]
  have z : nsZoned s (nsIx x.hdr.nsid) = true := h.zoned
  simp only [doReportZones, gated, State.conn, h.path.1, h.icDone, g, h.ns, l, z]
  rfl

/-- From an LBA inside the namespace it returns its page, and zeros beyond its end. -/
theorem ReportReady.doReportZones_inside (h : ReportReady x c s) (hn : x.slba < nsSize s (x.hdr.nsid - 1)) : ∃ m, doReportZones x s =
    { s with sch := m, out := .resp x.hdr.conn x.hdr.cid 0 0 0 ::
      .c2hBytes x.hdr.conn x.hdr.cid ((reportPage s x).take x.hdr.len ++ List.replicate (x.hdr.len - ((reportPage s x).take x.hdr.len).length) 0) :: s.out } := by
  rw [h.doReportZones_eq, if_neg (by omega), tag3_parts]
  exact ⟨_, returnBytes_free (s := { s with sch := (tag3 x.hdr.conn x.hdr.len s).sch }) (h.path.same rfl rfl rfl) 0 _⟩

/-- From one beyond it, it completes with LBA Out of Range. -/
theorem ReportReady.doReportZones_beyond (h : ReportReady x c s) (hn : nsSize s (x.hdr.nsid - 1) ≤ x.slba) : ∃ l, doReportZones x s =
    { s with ctrls := l, out := .resp x.hdr.conn x.hdr.cid 0 0x80 0 :: s.out } := by
  rw [h.doReportZones_eq, if_pos hn]
  exact ⟨_, respond_parts h.path _ _ _ _⟩

/-! ### Several register fields stored in turn -/

/-- Single register fields stored in turn. -/
def putFields (l : List (FieldSpec × Nat)) (s : State) : State := l.foldl (fun s p => s.put p.1 p.2) s

theorem putFields_parts (l : List (FieldSpec × Nat)) (s : State) : putFields l s = { s with rf := (putFields l s).rf } := by
  induction l generalizing s with
  | nil => rfl
  | cons p l ih => exact ih (s.put p.1 p.2)

theorem RegsBut.putFields {ks : List Nat} {t : State} (h : RegsBut ks s t) (l : List (FieldSpec × Nat)) (hl : ∀ p ∈ l, p.1.key 0 ∈ ks) :
    RegsBut ks s (putFields l t) := by
  induction l generalizing t with
  | nil => exact h
  | cons p l ih => exact ih (h.put p.1 p.2 0 (hl p (by simp))) fun q hq => hl q (by simp [hq])

theorem get_putFields_ne {F : FieldSpec} {l : List (FieldSpec × Nat)} (h : ∀ p ∈ l, F.key 0 ≠ p.1.key 0) (s : State) : (putFields l s).get F = s.get F := by
  induction l generalizing s with
  | nil => rfl
  | cons p l ih => exact (ih (fun q hq => h q (by simp [hq])) _).trans (get_put_ne (h p (by simp)) s p.2)

/-- Fields under different keys read back what was stored, cut to their widths. -/
theorem get_putFields {l : List (FieldSpec × Nat)} (hw : Rwf s) (hk : (l.map fun p => p.1.key 0).Nodup) :
    ∀ p ∈ l, (putFields l s).get p.1 = p.2 % 2 ^ p.1.w := by
  induction l generalizing s with
  | nil => simp
  | cons q l ih =>
    obtain ⟨hq, hk⟩ := List.nodup_cons.mp hk
    intro p hp
    rcases List.mem_cons.mp hp with rfl | hp
    · exact (get_putFields_ne (fun r hr e => hq (List.mem_map.mpr ⟨r, hr, e.symm⟩)) _).trans (get_put_eq hw _ _ 0)
    · exact ih (hw.put q.1 q.2 0) hk p hp

/-! ### The snapshot -/

/-- What OZT_SEL latches of an entry of the open-zone table, or of one not in use, with the fields it goes to. -/
def oztFields (s : State) (i : Nat) (e : Option (Nat × Zone)) : List (FieldSpec × Nat) :=
  let f (g : Nat → Zone → Nat) : Nat := (e.map fun p => g p.1 p.2).getD 0
  let b (g : Nat → Zone → Bool) : Nat := if e.any fun p => g p.1 p.2 then 1 else 0
  let wp := f fun k z => zoneStart s k + z.fill
  [(Reg.Zn.OZT_SEL, i), (Reg.Zn.OZT_VALID, if e.isSome then 1 else 0), (Reg.Zn.IMPLICIT, b fun _ z => z.st == .implicit),
    (Reg.Zn.OZT_EVID, b fun k _ => nsEvidence s (k / 2 ^ 32)), (Reg.Zn.SEAL_PENDING, b fun _ z => z.sealing.isSome), (Reg.Zn.DAMAGED, b fun _ z => z.damaged),
    (Reg.Zn.NS_INDEX, f fun k _ => k / 2 ^ 32), (Reg.Zn.ZONE_INDEX, f fun k _ => k % 2 ^ 32), (Reg.Zn.WP_LO, wp % 2 ^ 32), (Reg.Zn.WP_HI, wp / 2 ^ 32),
    (Reg.Zn.GALLEY_FILL, f fun k z => z.fill % max 1 (sheetSpan s (nsSig s (k / 2 ^ 32)) 0).2), (Reg.Zn.LAST_WRITE, f fun _ z => z.lastWrite % 2 ^ 32),
    (Reg.Zn.RESERVED_NLB, f fun _ z => z.reserved)]

/-- The register fields of the snapshot. -/
def oztKeys : List Nat :=
  [Reg.Zn.OZT_SEL.key 0, Reg.Zn.OZT_VALID.key 0, Reg.Zn.IMPLICIT.key 0, Reg.Zn.OZT_EVID.key 0, Reg.Zn.SEAL_PENDING.key 0, Reg.Zn.DAMAGED.key 0,
    Reg.Zn.NS_INDEX.key 0, Reg.Zn.ZONE_INDEX.key 0, Reg.Zn.WP_LO.key 0, Reg.Zn.WP_HI.key 0, Reg.Zn.GALLEY_FILL.key 0, Reg.Zn.LAST_WRITE.key 0,
    Reg.Zn.RESERVED_NLB.key 0]

theorem oztFields_keys (s : State) (i : Nat) (e : Option (Nat × Zone)) : (oztFields s i e).map (fun p => p.1.key 0) = oztKeys := rfl

theorem oztKeys_nodup : oztKeys.Nodup := by decide

theorem zoneStart_put (F : FieldSpec) (v i k : Nat) (s : State) : zoneStart (s.put F v i) k = zoneStart s k := rfl
theorem nsEvidence_put (F : FieldSpec) (v i n : Nat) (s : State) : nsEvidence (s.put F v i) n = nsEvidence s n := rfl
theorem nsSig_put (F : FieldSpec) (v i n : Nat) (s : State) : nsSig (s.put F v i) n = nsSig s n := rfl
theorem sheetSpan_put (F : FieldSpec) (v i g t : Nat) (s : State) : sheetSpan (s.put F v i) g t = sheetSpan s g t := rfl

theorem doOztSel_eq (v : Nat) (s : State) :
    doOztSel v s = putFields (oztFields s (v % 65536) (s.zn.zones.find? fun p => p.2.slot == some (v % 65536))) s := by
  simp only [doOztSel, State.putB, zoneStart_put, nsEvidence_put, nsSig_put, sheetSpan_put, State.put_zn, putFields, oztFields, List.foldl_cons, List.foldl_nil]
  rfl

/-- The snapshot as it reads back, each value cut to the width of its field, and what it leaves alone. -/
theorem oztLatched (hw : Rwf s) (i : Nat) (e : Option (Nat × Zone)) : ∃ t, putFields (oztFields s i e) s = t ∧
    (∀ p ∈ oztFields s i e, t.get p.1 = p.2 % 2 ^ p.1.w) ∧ RegsBut oztKeys s t ∧ t = { s with rf := t.rf } := by
  refine ⟨_, rfl, get_putFields hw ?_, (RegsBut.refl _ s).putFields _ fun p hp => ?_, putFields_parts _ _⟩
  · rw [oztFields_keys]
    exact oztKeys_nodup
  · rw [← oztFields_keys s i e]
    exact List.mem_map_of_mem hp

/-- A bit fits its field. -/
theorem bit_mod_two (b : Bool) : (if b then 1 else 0) % 2 ^ 1 = if b then 1 else 0 := by cases b <;> rfl

/-- Settles O28: the page of a report, and the fields of the snapshot one after the other. -/
theorem zoneReportsAndSnapshot : Obligations.ZoneReportsAndSnapshot := by
  unfold Obligations.ZoneReportsAndSnapshot
  refine ⟨?inside, ?beyond, ?entry, ?unused⟩
  case inside =>
    intro s x c hl h1 h2 h3 h4 h5 h6 h7 h8 h9 h10 hn
    obtain ⟨m, e⟩ := (ReportReady.mk h1 h2 h3 h4 h5 h6 h7 h8 h9 h10).doReportZones_inside hn
    refine Gives.on (f := doReportZones x) rfl hl ?_
    rw [e]
    exact ⟨⟨_, reportPage s x, rfl, rfl, rfl⟩, rfl⟩
  case beyond =>
    intro s x c hl h1 h2 h3 h4 h5 h6 h7 h8 h9 h10 hn
    obtain ⟨l, e⟩ := (ReportReady.mk h1 h2 h3 h4 h5 h6 h7 h8 h9 h10).doReportZones_beyond hn
    refine Gives.on (f := doReportZones x) rfl hl ?_
    rw [e]
    exact ⟨rfl, rfl⟩
  case entry =>
    intro s v k z hl he
    refine Gives.on (f := doOztSel v.toNat) rfl hl ?_
    rw [doOztSel_eq, he]
    obtain ⟨t, ht, hg, hb, hp⟩ := oztLatched (Rwf.live hl) (v.toNat % 65536) (some (k, z))
    rw [ht]
    simp only [oztFields, List.forall_mem_cons] at hg
    obtain ⟨hsel, hvalid, himp, hevid, hseal, hdam, hns, hzone, hlo, hhi, -, hlast, hres, -⟩ := hg
    exact ⟨⟨hvalid, hsel.trans (Nat.mod_mod _ _), hns, hzone, himp.trans (bit_mod_two _), hevid.trans (bit_mod_two _), hseal.trans (bit_mod_two _),
      hdam.trans (bit_mod_two _), hlo.trans (Nat.mod_mod _ _), hhi, hlast.trans (Nat.mod_mod _ _), hres⟩, hb, hp⟩
  case unused =>
    intro s v hl he
    refine Gives.on (f := doOztSel v.toNat) rfl hl ?_
    rw [doOztSel_eq, he]
    obtain ⟨t, ht, hg, hb, hp⟩ := oztLatched (Rwf.live hl) (v.toNat % 65536) none
    rw [ht]
    simp only [oztFields, List.forall_mem_cons] at hg
    obtain ⟨hsel, hvalid, himp, hevid, hseal, hdam, hns, hzone, hlo, hhi, hfill, hlast, hres, -⟩ := hg
    exact ⟨⟨hsel.trans (Nat.mod_mod _ _), hvalid, himp, hevid, hseal, hdam, hns, hzone, hlo, hhi.trans (by simp), hfill, hlast, hres⟩, hb, hp⟩

end Sys2Proof.Machine
end

section
/-!
SUPPORT. The snapshots of a signature and of the devices of a channel (R97, R99, R174, R200, R275, R440): each command stores a row of register
fields at one occurrence.
-/

namespace Sys2Proof.Machine

variable {s u : State} {ks : List Nat} {i : Nat} {Fs : List FieldSpec} {vs : List Nat}

/-! ### A row of fields stored at one occurrence -/

/-- Occurrence i of a field, as a single field of its own (R437). -/
def FieldSpec.only (F : FieldSpec) (i : Nat) : FieldSpec := { F with base := F.addr i, s1 := 0, s2 := 0 }

theorem key_only (F : FieldSpec) (i : Nat) : (F.only i).key 0 = F.key i := rfl

theorem put_only (s : State) (F : FieldSpec) (v i : Nat) : s.put (F.only i) v = s.put F v i := rfl

/-- Occurrence i of the fields listed takes the values listed, one after the other. -/
def latchAt (i : Nat) (Fs : List FieldSpec) (vs : List Nat) (s : State) : State := putFields ((Fs.zip vs).map fun p => (p.1.only i, p.2)) s

/-- Fields of one kind of block that lie at different places in it. -/
abbrev Apart (Fs : List FieldSpec) : Prop :=
  Fs.Pairwise fun G F => (F.s1 = G.s1 ∧ F.s2 = G.s2 ∧ F.n2 = G.n2) ∧ G.base * 32 + G.lo ≠ F.base * 32 + F.lo

theorem Apart.keys_nodup (h : Apart Fs) (i : Nat) : (Fs.map (·.key i)).Nodup :=
  List.pairwise_map.mpr (h.imp fun e => key_ne_of_place i e.1 e.2)

theorem latchAt_parts (i : Nat) (Fs : List FieldSpec) (vs : List Nat) (s : State) : latchAt i Fs vs s = { s with rf := (latchAt i Fs vs s).rf } :=
  putFields_parts _ _

theorem latchAt_cons (i : Nat) (F : FieldSpec) (v : Nat) (s : State) : latchAt i (F :: Fs) (v :: vs) s = latchAt i Fs vs (s.put F v i) :=
  congrArg (latchAt i Fs vs) (put_only s F v i)

theorem latchAt_nil (i : Nat) (s : State) : latchAt i [] [] s = s := rfl

/-- Each field reads back its value, cut to its width. -/
theorem get_latchAt (hw : Rwf s) (hd : Apart Fs) (hv : Fs.length ≤ vs.length) (i : Nat) :
    ∀ p ∈ Fs.zip vs, (latchAt i Fs vs s).get p.1 i = p.2 % 2 ^ p.1.w := by
  have hk : (((Fs.zip vs).map fun p => (p.1.only i, p.2)).map fun p => p.1.key 0).Nodup := by
    have e : ((Fs.zip vs).map fun p => (p.1.only i, p.2)).map (fun p => p.1.key 0) = ((Fs.zip vs).map Prod.fst).map (·.key i) := by
      simp only [List.map_map, Function.comp_def, key_only]
    rw [e, List.map_fst_zip hv]
    exact hd.keys_nodup i
  intro p hp
  exact get_putFields hw hk (p.1.only i, p.2) (List.mem_map.mpr ⟨p, hp, rfl⟩)

theorem get_latchAt_ne {G : FieldSpec} (h : ∀ F ∈ Fs, G.key 0 ≠ F.key i) (vs : List Nat) (s : State) : (latchAt i Fs vs s).get G = s.get G := by
  refine get_putFields_ne (fun p hp => ?_) s
  obtain ⟨q, hq, rfl⟩ := List.mem_map.mp hp
  exact h q.1 (List.of_mem_zip hq).1

theorem RegsBut.latchAt (h : RegsBut ks s u) (hk : ∀ F ∈ Fs, F.key i ∈ ks) (vs : List Nat) : RegsBut ks s (latchAt i Fs vs u) := by
  refine h.putFields _ fun p hp => ?_
  obtain ⟨q, hq, rfl⟩ := List.mem_map.mp hp
  exact hk q.1 (List.of_mem_zip hq).1

theorem Rwf.putFields (h : Rwf s) (l : List (FieldSpec × Nat)) : Rwf (putFields l s) := by
  induction l generalizing s with
  | nil => exact h
  | cons p l ih => exact ih (h.put p.1 p.2 0)

theorem Rwf.latchAt (h : Rwf s) (i : Nat) (Fs : List FieldSpec) (vs : List Nat) : Rwf (latchAt i Fs vs s) := h.putFields _

/-- A command that stores a row of fields and does nothing else. -/
theorem Gives.latch {c : Instr} {f : State → State} {P : State → Prop} (e : exec c s = .next (whenOn f s)) (hl : Live s)
    (hf : f s = latchAt i Fs vs s) (hd : Apart Fs) (hv : Fs.length ≤ vs.length)
    (h : ∀ t, (∀ p ∈ Fs.zip vs, t.get p.1 i = p.2 % 2 ^ p.1.w) → RegsBut (Fs.map (·.key i)) s t → t = { s with rf := t.rf } → P t) : Gives c s P := by
  refine Gives.on e hl ?_
  rw [hf]
  exact h _ (get_latchAt (.live hl) hd hv i) ((RegsBut.refl _ s).latchAt (fun F hF => List.mem_map_of_mem hF) vs) (latchAt_parts i Fs vs s)

/-! ### MEMBER_SEL (R114) -/

/-- The fields that MEMBER_SEL stores. -/
def memberFields : List FieldSpec := [Reg.Sig.MEMBER_SEL, Reg.Sig.MEMBER_PORT, Reg.Sig.MEMBER_VALID, Reg.Sig.MEMBER_BASE]

/-- What they show of member d, or where there is none. -/
def memberValues (d : Nat) (m : Option Member) : List Nat :=
  [d, (m.map (·.port)).getD 0, if m.isSome then 1 else 0, (m.map (·.base)).getD 0]

/-- Member d of a signature. -/
def selectedMember (s : State) (g d : Nat) : Option Member := (impOf s g).bind fun i => if d < i.n then i.members[d]? else none

theorem memberFields_apart : Apart memberFields := by decide

theorem doMemberSel_eq (g v : Nat) (s : State) :
    doMemberSel g v s = latchAt g memberFields (memberValues (v % 128) (selectedMember s g (v % 128))) s := by
  simp only [doMemberSel, State.putB, memberFields, memberValues, selectedMember, latchAt_cons, latchAt_nil]
  rfl

theorem selectedMember_of_lt {g d : Nat} {x : Imposition} (hx : impOf s g = some x) (hd : d < x.n) : selectedMember s g d = x.members[d]? := by
  simp [selectedMember, hx, hd]

theorem selectedMember_of_ge {g d : Nat} {x : Imposition} (hx : impOf s g = some x) (hd : x.n ≤ d) : selectedMember s g d = none := by
  simp [selectedMember, hx, Nat.not_lt.mpr hd]

/-! ### MAP_GO (R97, R99, R114) -/

/-- The fields in which MAP_GO shows a place. -/
def placeFields : List FieldSpec := [Reg.Sig.MAP_DRIVE, Reg.Sig.MAP_VALID, Reg.Sig.MAP_LBA_LO, Reg.Sig.MAP_LBA_HI]

/-- What they show of the folio at position p of sheet t. -/
def placeValues (x : Imposition) (t p : Nat) : List Nat :=
  let d := x.driveAt t p
  let l := x.lbaOf d (x.dataPos t p)
  [d, 1, l % 2 ^ 32, l / 2 ^ 32]

theorem placeFields_apart : Apart placeFields := by decide

/-- The sheet that MAP_GO looks up. -/
def mapSheet (s : State) (g : Nat) : Nat := s.get Reg.Sig.MAP_SHEET_LO g + 2 ^ 32 * s.get Reg.Sig.MAP_SHEET_HI g

theorem mapSheet_pulse (s : State) (g : Nat) : mapSheet (s.pulse Reg.Sig.MAP_GO g) g = mapSheet s g := by
  unfold mapSheet
  rw [get_pulse_ne (key_ne_of_place g), get_pulse_ne (key_ne_of_place g)]

/-- The one test of MAP_GO, on the words as they stood before it. -/
theorem doMapGo_eq {g : Nat} {x : Imposition} (hx : impOf s g = some x) : doMapGo g s =
    if mapSheet s g < (s.sigSt g).sheets ∧ s.get Reg.Sig.MAP_POS g < x.w then
      latchAt g placeFields (placeValues x (mapSheet s g) (s.get Reg.Sig.MAP_POS g)) (s.pulse Reg.Sig.MAP_GO g)
    else (s.pulse Reg.Sig.MAP_GO g).put Reg.Sig.MAP_VALID 0 g := by
  have hp : (s.pulse Reg.Sig.MAP_GO g).get Reg.Sig.MAP_POS g = s.get Reg.Sig.MAP_POS g := get_pulse_ne (key_ne_of_place g) s
  have hi : impOf (s.pulse Reg.Sig.MAP_GO g) g = some x := hx
  rw [← mapSheet_pulse, ← hp]
  unfold doMapGo
  dsimp only
  rw [hi]
  simp only [placeFields, placeValues, latchAt_cons, latchAt_nil]
  rfl

/-! ### HB_SEL (R174) -/

/-- The fields that HB_SEL stores. -/
def hbFields : List FieldSpec :=
  [Reg.Sig.HB_SEL, Reg.Sig.HB_VALID, Reg.Sig.HB_START_LO, Reg.Sig.HB_START_HI, Reg.Sig.HB_COUNT, Reg.Sig.HB_CAUSE, Reg.Sig.HB_META, Reg.Sig.HB_NS]

/-- What they show of extent n, which lies in the given area, or of one that is not listed. -/
def hbValues (n : Nat) (e : Option (Nat × Nat × Nat)) (area : Nat) : List Nat :=
  [n, if e.isSome then 1 else 0, (e.map (·.1)).getD 0 % 2 ^ 32, (e.map (·.1)).getD 0 / 2 ^ 32, (e.map (·.2.1)).getD 0, (e.map (·.2.2)).getD 0,
    if area == 0 then 1 else 0, area - 1]

/-- The area of an extent (0 is the metadata area); 1 where there is none. -/
def extentArea (s : State) (g : Nat) (e : Option (Nat × Nat × Nat)) : Nat := if e.isSome then hbArea s g ((e.map (·.1)).getD 0) else 1

theorem hbFields_apart : Apart hbFields := by decide

theorem hbArea_put (F : FieldSpec) (v i g a : Nat) (s : State) : hbArea (s.put F v i) g a = hbArea s g a := rfl

theorem doHbSel_eq (g v : Nat) (s : State) : doHbSel g v s =
    latchAt g hbFields (hbValues (v % 65536) (s.sigSt g).k.hb[v % 65536]? (extentArea s g (s.sigSt g).k.hb[v % 65536]?)) s := by
  simp only [doHbSel, State.putB, sigSt_put, hbArea_put, hbFields, hbValues, extentArea, latchAt_cons, latchAt_nil]
  rfl

theorem hbArea_eq_zero_iff (s : State) (g a : Nat) : hbArea s g a = 0 ↔ nsOfLbn s g a = none := by
  unfold hbArea
  cases nsOfLbn s g a <;> simp

theorem hbArea_of_ns {g a n : Nat} (h : nsOfLbn s g a = some n) : hbArea s g a = n + 1 := by simp [hbArea, h]

/-! ### CORR_SEL (R174) -/

/-- The fields that CORR_SEL stores. -/
def corrFields : List FieldSpec := [Reg.Sig.CORR_SEL, Reg.Sig.CORR_24H, Reg.Sig.CORR_TOTAL]

theorem corrFields_apart : Apart corrFields := by decide

theorem doCorrSel_eq (g v : Nat) (s : State) : doCorrSel g v s =
    latchAt g corrFields [v % 128, min 255 (memOf s g (v % 128)).buckets.sum, (memOf s g (v % 128)).silent] s := by
  simp only [doCorrSel, corrFields, latchAt_cons, latchAt_nil]
  rfl

/-! ### ENT_SEL (R200) -/

/-- The fields that ENT_SEL stores. -/
def entFields : List FieldSpec :=
  [Reg.Sig.ENT_SEL, Reg.Sig.ENT_STATE, Reg.Sig.ENT_REPL, Reg.Sig.ENT_DIRECT, Reg.Sig.ENT_LEVEL, Reg.Sig.ENT_CAUSE, Reg.Sig.ENT_DRIVE,
    Reg.Sig.ENT_WINDOWS, Reg.Sig.ENT_LOW_LO, Reg.Sig.ENT_LOW_HI, Reg.Sig.ENT_HIGH_LO, Reg.Sig.ENT_HIGH_HI, Reg.Sig.ENT_N_LO, Reg.Sig.ENT_N_HI,
    Reg.Sig.ENT_Y_LO, Reg.Sig.ENT_Y_HI, Reg.Sig.ENT_TODO_LO, Reg.Sig.ENT_TODO_HI, Reg.Sig.ENT_UNPLACED, Reg.Sig.ENT_DECLARED, Reg.Sig.ENT_ETA]

/-- What they show of entry n with so many folios to do, or of a free one. -/
def entValues (now n : Nat) (e : Option FailEnt) (todo : Nat) : List Nat :=
  let f (h : FailEnt → Nat) : Nat := (e.map h).getD 0
  let rate := f fun x => (recent now x.doneAt).length
  [n, f fun x => x.st.code, if e.any (·.repl) then 1 else 0, if e.any (·.direct) then 1 else 0, f fun x => x.level.getD 7, f (·.cause), f (·.drive),
    f fun x => x.wins.length, f (·.low) % 2 ^ 32, f (·.low) / 2 ^ 32, f (·.high) % 2 ^ 32, f (·.high) / 2 ^ 32, f (·.n) % 2 ^ 32, f (·.n) / 2 ^ 32,
    f (·.y) % 2 ^ 32, f (·.y) / 2 ^ 32, todo % 2 ^ 32, todo / 2 ^ 32, min (2 ^ 32 - 1) (f (·.unplaced)), f (·.declared),
    if e.isSome then (if rate = 0 then 2 ^ 32 - 1 else min (2 ^ 32 - 1) (todo * 60 / rate)) else 0]

theorem entFields_apart : Apart entFields := by decide

theorem entTodo_put (F : FieldSpec) (v i g : Nat) (s : State) : entTodo (s.put F v i) g = entTodo s g := rfl

theorem doEntSel_eq (g v : Nat) (s : State) : doEntSel g v s =
    latchAt g entFields (entValues s.core.imp (v % 8) (nfind (v % 8) (s.sigSt g).k.ents) (((nfind (v % 8) (s.sigSt g).k.ents).map (entTodo s g)).getD 0)) s := by
  simp only [doEntSel, State.putB, State.put_core, entTodo_put, entFields, entValues, latchAt_cons, latchAt_nil]
  rfl

/-! ### DEV_SEL (R275, R440) -/

/-- The fields that select a device. -/
def devSelFields : List FieldSpec := [Reg.Ecc.DEV_SEL_CH, Reg.Ecc.DEV_SEL]

/-- The fields that show its counts. -/
def devCountFields : List FieldSpec := [Reg.Ecc.DEV_CE, Reg.Ecc.DEV_ROWS, Reg.Ecc.DEV_RETIRED]

/-- The counts of device d of a channel. -/
def devCounts (x : Chan) (d : Nat) : List Nat := [ngetD d 0 x.devCe, (x.ppr.filter fun k => k / 8 == d).length, ngetD d 0 x.devRet]

theorem devFields_apart : Apart (devSelFields ++ devCountFields) := by decide

theorem doDevSel_taken {v : Nat} (h : v / 256 % 32 ≤ 19) (s : State) : doDevSel v s =
    latchAt 0 (devSelFields ++ devCountFields) (v % 4 :: v / 256 % 32 :: devCounts (s.chan (v % 4)) (v / 256 % 32)) s := by
  unfold doDevSel
  dsimp only
  rw [if_neg (by omega), if_neg (by omega)]
  rfl

theorem doDevSel_rejected {v : Nat} (h : 19 < v / 256 % 32) (s : State) : doDevSel v s =
    latchAt 0 devCountFields (devCounts (s.chan (v % 4)) (s.get Reg.Ecc.DEV_SEL))
      ((latchAt 0 devSelFields [v % 4, s.get Reg.Ecc.DEV_SEL] s).raise Reg.Glb.VALUE_REJ) := by
  unfold doDevSel
  dsimp only
  rw [if_pos h, if_pos h]
  rfl

/-! ### The statement -/

/-- A value cut off at a bound that fits its field is stored whole. -/
theorem min_mod_of_lt {a b n : Nat} (h : a < n) : min a b % n = min a b := Nat.mod_eq_of_lt (by omega)

/-- Settles O30: every command but MAP_GO and a rejected DEV_SEL stores one row of fields and nothing else. -/
theorem signatureSnapshots : Obligations.SignatureSnapshots := by
  unfold Obligations.SignatureSnapshots
  refine ⟨?member, ?noMember, ?place, ?noPlace, ?extent, ?noExtent, ?corr, ?entry, ?freeEntry, ?device, ?noDevice⟩
  case member =>
    intro s g v x m hl hx hd hm
    refine Gives.latch rfl hl (doMemberSel_eq g v.toNat s) memberFields_apart le_rfl fun t hg hb hp => ?_
    rw [selectedMember_of_lt hx hd, hm] at hg
    simp only [memberFields, memberValues, List.zip_cons_cons, List.forall_mem_cons] at hg
    obtain ⟨hsel, hport, hvalid, hbase, -⟩ := hg
    exact ⟨hsel.trans (Nat.mod_mod _ _), hport, hvalid, hbase, hb, hp⟩
  case noMember =>
    intro s g v x hl hx hd
    refine Gives.latch rfl hl (doMemberSel_eq g v.toNat s) memberFields_apart le_rfl fun t hg hb hp => ?_
    rw [selectedMember_of_ge hx hd] at hg
    simp only [memberFields, memberValues, List.zip_cons_cons, List.forall_mem_cons] at hg
    obtain ⟨hsel, hport, hvalid, hbase, -⟩ := hg
    exact ⟨hsel.trans (Nat.mod_mod _ _), hport, hvalid, hbase, hb, hp⟩
  case place =>
    rintro s g x _ _ hl hx rfl rfl ht hpos
    refine Gives.on (f := doMapGo g) rfl hl ?_
    rw [doMapGo_eq hx, if_pos ⟨ht, hpos⟩]
    have hg := get_latchAt ((Rwf.live hl).pulse Reg.Sig.MAP_GO g) placeFields_apart
      (vs := placeValues x (mapSheet s g) (s.get Reg.Sig.MAP_POS g)) le_rfl g
    simp only [placeFields, placeValues, List.zip_cons_cons, List.forall_mem_cons] at hg
    obtain ⟨hdrive, hvalid, hlo, hhi, -⟩ := hg
    exact ⟨hvalid, hdrive, hlo.trans (Nat.mod_mod _ _), hhi, ((RegsBut.refl _ s).pulse _ _ (by simp)).latchAt (by simp [placeFields]) _,
      latchAt_parts _ _ _ _⟩
  case noPlace =>
    rintro s g x _ _ hl hx rfl rfl hn
    refine Gives.on (f := doMapGo g) rfl hl ?_
    have hn' : ¬(mapSheet s g < (s.sigSt g).sheets ∧ s.get Reg.Sig.MAP_POS g < x.w) := by
      unfold mapSheet
      omega
    rw [doMapGo_eq hx, if_neg hn']
    exact ⟨get_put_eq ((Rwf.live hl).pulse _ _) _ _ _, ((RegsBut.refl _ s).pulse _ _ (by simp)).put _ _ _ (by simp), rfl⟩
  case extent =>
    intro s g v a m c hl he
    refine Gives.latch rfl hl (doHbSel_eq g v.toNat s) hbFields_apart le_rfl fun t hg hb hp => ?_
    rw [he] at hg
    simp only [hbFields, hbValues, List.zip_cons_cons, List.forall_mem_cons] at hg
    obtain ⟨hsel, hvalid, hlo, hhi, hcount, hcause, hmeta, hns, -⟩ := hg
    refine ⟨hsel.trans (Nat.mod_mod _ _), hvalid, hlo.trans (Nat.mod_mod _ _), hhi, hcount, hcause, ?_, fun n hn => ?_, hb, hp⟩
    · refine hmeta.trans ((bit_mod_two _).trans ?_)
      exact if_congr (beq_iff_eq.trans (hbArea_eq_zero_iff s g a)) rfl rfl
    · rw [hns]
      exact congrArg (fun k => (k - 1) % 2 ^ Reg.Sig.HB_NS.w) (hbArea_of_ns hn)
  case noExtent =>
    intro s g v hl he
    refine Gives.latch rfl hl (doHbSel_eq g v.toNat s) hbFields_apart le_rfl fun t hg hb hp => ?_
    rw [he] at hg
    simp only [hbFields, hbValues, List.zip_cons_cons, List.forall_mem_cons] at hg
    obtain ⟨-, hvalid, hlo, hhi, hcount, -⟩ := hg
    exact ⟨hvalid, hlo, hhi, hcount, hb, hp⟩
  case corr =>
    intro s g v hl
    refine Gives.latch rfl hl (doCorrSel_eq g v.toNat s) corrFields_apart le_rfl fun t hg hb hp => ?_
    simp only [corrFields, List.zip_cons_cons, List.forall_mem_cons] at hg
    obtain ⟨hsel, hday, htotal, -⟩ := hg
    exact ⟨hsel.trans (Nat.mod_mod _ _), hday.trans (min_mod_of_lt (by decide)), htotal, hb, hp⟩
  case entry =>
    intro s g v e hl he
    refine Gives.latch rfl hl (doEntSel_eq g v.toNat s) entFields_apart le_rfl fun t hg hb hp => ?_
    rw [he] at hg
    simp only [entFields, entValues, List.zip_cons_cons, List.forall_mem_cons] at hg
    obtain ⟨hsel, hstate, -, -, -, hcause, hdrive, -, hlow, -, hhigh, -, hn, -, hy, -, -, -, hunplaced, -⟩ := hg
    exact ⟨hsel.trans (Nat.mod_mod _ _), hstate, hcause, hdrive, hlow.trans (Nat.mod_mod _ _), hhigh.trans (Nat.mod_mod _ _),
      hn.trans (Nat.mod_mod _ _), hy.trans (Nat.mod_mod _ _), hunplaced.trans (min_mod_of_lt (by decide)), hb, hp⟩
  case freeEntry =>
    intro s g v hl he
    refine Gives.latch rfl hl (doEntSel_eq g v.toNat s) entFields_apart le_rfl fun t hg hb hp => ?_
    rw [he] at hg
    simp only [entFields, entValues, List.zip_cons_cons, List.forall_mem_cons] at hg
    obtain ⟨-, hstate, -, -, -, -, hdrive, -, hlow, -, hhigh, -, hn, -, -, -, htodo, -⟩ := hg
    exact ⟨hstate, hdrive, hlow, hhigh, hn, htodo, hb, hp⟩
  case device =>
    rintro s v _ _ hl rfl rfl hw
    refine Gives.latch rfl hl (doDevSel_taken hw s) devFields_apart le_rfl fun t hg hb hp => ?_
    simp only [devSelFields, devCountFields, devCounts, List.cons_append, List.nil_append, List.zip_cons_cons, List.forall_mem_cons] at hg
    obtain ⟨hch, hsel, hce, -, hretired, -⟩ := hg
    exact ⟨hch.trans (Nat.mod_mod _ _), hsel.trans (Nat.mod_mod _ _), hce, hretired, hb, hp⟩
  case noDevice =>
    intro s v hl hw
    refine Gives.on (f := doDevSel v.toNat) rfl hl ?_
    rw [doDevSel_rejected hw]
    have hs : Apart devSelFields := by decide
    have hg := get_latchAt (.live hl) hs (vs := [v.toNat % 4, s.get Reg.Ecc.DEV_SEL]) le_rfl 0
    simp only [devSelFields, List.zip_cons_cons, List.forall_mem_cons] at hg
    obtain ⟨-, hsel, -⟩ := hg
    refine ⟨?_, ?_, ?_, latchAt_parts _ _ _ _⟩
    · rw [get_latchAt_ne (by decide), get_raise_ne (by decide)]
      exact hsel
    · rw [get_latchAt_ne (by decide)]
      exact get_raise_eq ((Rwf.live hl).latchAt _ _ _) _ _
    · exact (((RegsBut.refl _ s).latchAt (by simp [devSelFields]) _).raise _ _ (by simp)).latchAt (by simp [devCountFields]) _

end Sys2Proof.Machine
end

section
/-!
SUPPORT. Flush: the command that waits with the blocks it covers, and how it ends (R135, R208).
-/

namespace Sys2Proof.Machine

variable {s : State} {h : CmdHdr} {c : Conn}

/-- The blocks of a namespace that a Flush covers: those not yet on the drives, and those of a copy window. -/
def flushCovers (s : State) (n : Nat) : List Nat := flushNeeds s n ++ flushWindow s n

/-- A Flush of one namespace as it takes its place among the commands. -/
def flushCmd (h : CmdHdr) (s : State) : Cmd :=
  { op := .flush, ns := h.nsid - 1, slba := 0, nlb := 0, pi := none, ord := s.seq, at_ := s.core.imp, need := flushCovers s (h.nsid - 1) }

/-- The Flush is outstanding, and the order of writes has moved on past it. -/
def flushTaken (h : CmdHdr) (s : State) : State :=
  { s with cmds := nset (cmdKey h.conn h.cid) (flushCmd h s) s.cmds, seq := s.seq + 1 }

/-- An I/O command of a connected, authenticated host under a free command identifier passes the checks before its own (R46, R50, Table 2.3). -/
theorem gateStatus_io_none (hcon : c.connected = true) (hadm : c.admin = false) (hfree : nfind (cmdKey h.conn h.cid) s.cmds = none)
    (hauth : c.authReq = true → c.authDone = true) : gateStatus .io true h c s = none := by
  unfold gateStatus State.cmd
  simp only [hcon, hadm, hfree, OnQueue.has]
  simpa using hauth

/-- A length that agrees with the one implied, within the bounds of the port, is in order (Table 2.3, checks 5 and 6). -/
theorem checkLen_none {n : Nat} (hlen : h.len = n) (hn : n ≤ 1048576) (hcap : h.inCapsule ≤ 8192) : checkLen h (some n) = none := by
  unfold checkLen
  rw [if_neg (by omega), if_neg]
  rintro (hc | hi)
  · omega
  · simp [hlen] at hi

/-- A Flush that nothing refuses stays outstanding; the sheets of what it covers rise in rank, which only the signatures show. -/
theorem doFlush_ready (hf : FreePath h.conn c s) (hic : c.icDone = true) (hgate : gateStatus .io true h c s = none) (hns : h.nsid ≠ 0xFFFFFFFF)
    (hchk : checkNs false h c s = none) (hlen : h.len = 0) (hcap : h.inCapsule ≤ 8192) :
    ∃ g, doFlush h s = { flushTaken h s with sigs := g } := by
  obtain ⟨hconn, -, -⟩ := hf
  unfold doFlush gated State.conn
  simp only [hconn, hic, hgate, if_neg hns, hchk, checkLen_none hlen (Nat.zero_le _) hcap, List.flatMap_cons, List.flatMap_nil, List.append_nil]
  exact ⟨_, foldl_keep (fun t : State => t = { flushTaken h s with sigs := t.sigs }) _ _ rfl fun t x ht => by rw [ht]; rfl⟩

/-- At a later impression a Flush whose blocks have all reached the drives ends. -/
theorem doFlushComplete_done {conn cid : Nat} {k : Cmd} (hk : nfind (cmdKey conn cid) s.cmds = some k) (hop : k.op = .flush) (hat : k.at_ < s.core.imp)
    (hclean : ∀ b ∈ k.need, stillDirty s k.ord b = false) : doFlushComplete conn cid s = endCmd (cmdKey conn cid) 0 0 0 s := by
  have hleft : (k.need.filter fun b => stillDirty s k.ord b) = [] := List.filter_eq_nil_iff.mpr fun b hb => by simp [hclean b hb]
  unfold doFlushComplete State.cmd
  simp only [hk, hop, gt_iff_lt, hat, and_self, if_true, hleft, List.isEmpty_nil]

/-- Otherwise it keeps those that have not. -/
theorem doFlushComplete_waits {conn cid : Nat} {k : Cmd} {b : Nat} (hk : nfind (cmdKey conn cid) s.cmds = some k) (hop : k.op = .flush)
    (hat : k.at_ < s.core.imp) (hb : b ∈ k.need) (hd : stillDirty s k.ord b = true) :
    doFlushComplete conn cid s = s.setCmd (cmdKey conn cid) { k with need := k.need.filter fun a => stillDirty s k.ord a } := by
  have hleft : (k.need.filter fun a => stillDirty s k.ord a).isEmpty = false :=
    List.isEmpty_eq_false_iff_exists_mem.mpr ⟨b, List.mem_filter.mpr ⟨hb, hd⟩⟩
  unfold doFlushComplete State.cmd State.updCmd
  simp only [hk, hop, gt_iff_lt, hat, and_self, if_true, hleft, Bool.false_eq_true, if_false]

/-- At the impression in which a Flush came it stays as it is. -/
theorem doFlushComplete_early {conn cid : Nat} {k : Cmd} (hk : nfind (cmdKey conn cid) s.cmds = some k) (hat : s.core.imp ≤ k.at_) :
    doFlushComplete conn cid s = s := by
  unfold doFlushComplete State.cmd
  simp only [hk]
  exact if_neg fun e => by omega

/-- Settles O31: the Flush as it takes its place, and the three answers to FLUSH_COMPLETE by what its blocks have come to. -/
theorem flushAndItsEnd : Obligations.FlushAndItsEnd := by
  unfold Obligations.FlushAndItsEnd
  refine ⟨?begins, ?ends, ?waits, ?early⟩
  case begins =>
    intro s h c hl hf hic hcon hadm hfree hauth hns hchk hlen hcap
    obtain ⟨g, e⟩ := doFlush_ready hf hic (gateStatus_io_none hcon hadm hfree hauth) hns hchk hlen hcap
    refine Gives.on (f := doFlush h) rfl hl ?_
    rw [e]
    exact ⟨⟨flushCmd h s, nfind_nset_self _ _ _, rfl, rfl, rfl, rfl⟩, fun j hj => nfind_nset_ne hj _ _, rfl⟩
  case ends =>
    intro s conn cid k x hl hk hop hat hclean hs hi hr hcid hf
    have hq : QuietCmd k := ⟨by simp [hop], hs, hi, hr⟩
    refine Gives.on (f := doFlushComplete conn cid) rfl hl ?_
    rw [doFlushComplete_done hk hop hat hclean, hq.endCmd hk hcid hf]
    exact ⟨rfl, rfl, rfl⟩
  case waits =>
    intro s conn cid k b hl hk hop hat hb hd
    refine Gives.on (f := doFlushComplete conn cid) rfl hl ?_
    rw [doFlushComplete_waits hk hop hat hb hd]
    exact ⟨nfind_nset_self _ _ _, fun j hj => nfind_nset_ne hj _ _, rfl⟩
  case early =>
    intro s conn cid k hl hk hat
    exact congrArg Host.Outcome.next ((whenOn_on _ hl.power).trans (doFlushComplete_early hk hat))

end Sys2Proof.Machine
end

section
/-!
SUPPORT. ASSEMBLE: its wait and its end, how a signature comes into service, and how a new one begins (R229, R394 to R396).
-/

namespace Sys2Proof.Machine

variable {s t : State} {g : Nat}

/-! ### One bit of a field of bits -/

/-- Numbers that differ by one bit's weight read differently there, also when cut to a width that holds the bit. -/
theorem bit_of_differ {a b g w : Nat} (hg : g < w) (hab : a = 2 ^ g + b ∨ b = 2 ^ g + a) : a % 2 ^ w / 2 ^ g % 2 = (!b.testBit g).toNat := by
  rw [← Nat.toNat_testBit, Nat.testBit_mod_two_pow, decide_eq_true hg, Bool.true_and]
  rcases hab with rfl | rfl
  · rw [Nat.testBit_two_pow_add_eq]
  · rw [Nat.testBit_two_pow_add_eq, Bool.not_not]

/-- The bit reads as it was stored. -/
theorem get_setBit_bit (h : Rwf s) {F : FieldSpec} (hg : g < F.w) (v : Bool) : (s.setBit F g v).get F / 2 ^ g % 2 = v.toNat := by
  have bit : (s.get F).testBit g = decide (s.get F / 2 ^ g % 2 = 1) := Nat.testBit_eq_decide_div_mod_eq
  unfold State.setBit
  split_ifs with h1 hv hv
  · rw [h1, hv]
    rfl
  · have hle : 2 ^ g ≤ s.get F := Nat.le_of_not_lt fun hlt => by simp [Nat.div_eq_of_lt hlt] at h1
    rw [get_put_eq h, bit_of_differ hg (Or.inr (by omega : s.get F = 2 ^ g + (s.get F - 2 ^ g))), bit, decide_eq_true h1, Bool.eq_false_of_not_eq_true hv]
    rfl
  · rw [get_put_eq h, bit_of_differ hg (Or.inl (Nat.add_comm (s.get F) _)), bit, decide_eq_false h1, hv]
    rfl
  · rw [Bool.eq_false_of_not_eq_true hv]
    exact Nat.mod_two_ne_one.mp h1

theorem get_setBit_ne {F G : FieldSpec} (hk : G.key 0 ≠ F.key 0) (v : Bool) : (s.setBit F g v).get G = s.get G := by
  unfold State.setBit
  split_ifs
  · rfl
  · exact get_put_ne hk _ _
  · exact get_put_ne hk _ _
  · rfl

theorem setBit_parts (s : State) (F : FieldSpec) (g : Nat) (v : Bool) : s.setBit F g v = { s with rf := (s.setBit F g v).rf } := by
  unfold State.setBit
  split_ifs <;> rfl

theorem Rwf.setBit (h : Rwf s) (F : FieldSpec) (g : Nat) (v : Bool) : Rwf (s.setBit F g v) := by
  unfold State.setBit
  split_ifs
  · exact h
  · exact h.put _ _ _
  · exact h.put _ _ _
  · exact h

/-! ### The module state stays -/

section Mode
variable {m : ModState}

/-- The data plane leaves the module state alone. -/
theorem PlaneOnly.mode (h : PlaneOnly s t) (hs : s.core.mode = m) : t.core.mode = m := by
  rw [h]
  exact hs

/-- Checkpoints are kept in the halves, and sent to the drives. -/
theorem sendCkpt_storeCkpt_mode (c : Ckpt) (hs : s.core.mode = m) : (sendCkpt g c (storeCkpt g c s)).core.mode = m :=
  (sendCkpt_plane (s0 := storeCkpt g c s) g c _ (PlaneOnly.refl _)).mode hs

theorem startReshape_mode (src dst : Imposition) (z : Nat) (found : List Nat) (hs : s.core.mode = m) : (startReshape g src dst z found s).core.mode = m := by
  unfold startReshape
  extract_lets r s1 both s2 s3 c
  have h2 : s2.core.mode = m := (writeAllLabels_plane (s0 := s1) _ _ _ _ _ (PlaneOnly.refl _)).mode hs
  have h3 : s3.core.mode = m := foldl_keep (fun u : State => u.core.mode = m) _ _ h2 fun _ _ hu => hu
  exact sendCkpt_storeCkpt_mode c h3

theorem finishReshape_mode (r : Reshape) (hs : s.core.mode = m) : (finishReshape g r s).core.mode = m := by
  unfold finishReshape
  split
  · exact hs
  · extract_lets per bs bMin s1 img s2 s3 c0 c s4 dst conv s5 gone s6
    have h2 : s2.core.mode = m := by
      unfold s2
      split <;> exact hs
    have h3 : s3.core.mode = m := (writeAllLabels_plane (s0 := s2) _ _ _ _ _ (PlaneOnly.refl _)).mode h2
    have h5 : s5.core.mode = m := sendCkpt_storeCkpt_mode (s := s3) c h3
    have h6 : s6.core.mode = m := by
      unfold s6
      split_ifs
      · exact h5
      · exact foldl_keep (fun u : State => u.core.mode = m) _ _ h5 fun _ _ hu => hu
    exact h6

theorem resumeReshape_mode (x : AsmFound) (hs : s.core.mode = m) : (resumeReshape g x s).core.mode = m := by
  unfold resumeReshape
  split
  · extract_lets best told later s1 s2
    have h2 : s2.core.mode = m := by
      unfold s2
      split_ifs
      · exact sendCkpt_storeCkpt_mode _ hs
      · exact hs
    have told_mode (u : State) : (told u).core.mode = u.core.mode := rfl
    clear_value s2 told
    split_ifs
    · rw [told_mode]
      split
      · exact (resumeWindow_plane (s0 := s2) _ _ _ (PlaneOnly.refl _)).mode h2
      · exact h2
    · clear_value best
      split
      · exact startReshape_mode _ _ _ _ hs
      · extract_lets r s3 w
        have h3 : s3.core.mode = m := (told_mode _).trans hs
        clear_value s3
        split_ifs
        · exact finishReshape_mode _ h3
        · exact (recoverWindow_plane (s0 := s3) _ _ _ _ _ (PlaneOnly.refl _)).mode h3
        · exact h3
  · exact hs

end Mode

/-! ### A signature comes into service (R394) -/

/-- Outputs that leave one after the other change nothing else. -/
theorem foldl_emit_parts (ds : List Nat) (f : State → Nat → Out) (s : State) :
    ds.foldl (fun s d => s.emit (f s d)) s = { s with out := (ds.foldl (fun s d => s.emit (f s d)) s).out } :=
  foldl_keep (fun t : State => t = { s with out := t.out }) _ _ rfl fun t d ht => by rw [ht]; rfl

/-- What sending the newest bitmap can change: the registers, the halves, and what leaves the module. -/
theorem freshenBmps_parts (g : Nat) (x : AsmFound) (s : State) :
    freshenBmps g x s = { s with rf := (freshenBmps g x s).rf, out := (freshenBmps g x s).out, st0 := (freshenBmps g x s).st0, st1 := (freshenBmps g x s).st1 } := by
  unfold freshenBmps
  extract_lets k hs has short c s1 s2
  have h2 : s2 = { s1 with out := s2.out } := by
    unfold s2
    split_ifs
    · exact foldl_emit_parts hs (fun s d => .drvBitmap (memPort s g d) (k.gen % 2) k.gen) s1
    · rfl
  split_ifs
  · rfl
  · rfl
  · rw [h2]
    rfl

/-- A signature with its zones, its reshape and its reads restored, and its hellbox cut to what exists. -/
def restoredFor (g : Nat) (x : AsmFound) (s : State) : State :=
  let s := resumeReshape g x (restoreZones g x s)
  let s := (s.upds.filter fun u => u.2.sig == g && u.2.st == .prep && u.2.kind != .window).foldl (fun s u => updReads u.1 g u.2.sheet u.2.reads s) s
  let held (l : Nat) : Bool := (nsOfLbn s g l).isSome || (impOf s g).any fun i => decide (l < i.meta_ * i.sheetBlocks)
  s.updKeep g fun k => { k with hb := k.hb.filter fun e => held e.1 }

/-- It is marked as in service, its holders chosen, its bitmap sent. -/
def sigMarked (g : Nat) (x : AsmFound) (s : State) : State :=
  let s := s.updSig g fun y => { y with inService := true, entering := false, heldOut := false, isNew := false, enterAt := s.core.imp, lastCommit := s.core.imp }
  freshenBmps g x (s.updSig g fun y => { y with holders := pickHolders s g [], holdLost := [] })

/-- Its bits are shown. -/
def bitsShown (g : Nat) (s : State) : State := (s.setBit Reg.Glb.SIG_IN_SERVICE g true).setBit Reg.Glb.SIG_HELD g false

/-- New drives go to the entries that wait for them. -/
def handOvers (ps : List Nat) (s : State) : State :=
  ps.foldl (fun s p => if (s.drivePort p).isNew && (s.drivePort p).identified then handOver p s else s) s

theorem enterService_eq (g : Nat) (x : AsmFound) (s : State) : enterService g x s =
    handOvers ((membersOf (bitsShown g (sigMarked g x (restoredFor g x s))) g).map (·.port)) (bitsShown g (sigMarked g x (restoredFor g x s))) := rfl

/-- The signature is in service, and the registers show it. -/
structure Stands (g : Nat) (s : State) : Prop where
  inService : (s.sigSt g).inService = true
  entering : (s.sigSt g).entering = false
  shown : s.get Reg.Glb.SIG_IN_SERVICE / 2 ^ g % 2 = 1
  free : s.get Reg.Glb.SIG_HELD / 2 ^ g % 2 = 0

theorem Stands.same (h : Stands g s) (hs : t.sigSt g = s.sigSt g) (hi : t.get Reg.Glb.SIG_IN_SERVICE = s.get Reg.Glb.SIG_IN_SERVICE)
    (hh : t.get Reg.Glb.SIG_HELD = s.get Reg.Glb.SIG_HELD) : Stands g t :=
  ⟨hs ▸ h.inService, hs ▸ h.entering, hi ▸ h.shown, hh ▸ h.free⟩

/-- A change of a signature that keeps it in service. -/
theorem Stands.updSig (h : Stands g s) (j : Nat) {f : Sig → Sig} (hi : ∀ x, (f x).inService = x.inService) (he : ∀ x, (f x).entering = x.entering) :
    Stands g (s.updSig j f) := by
  have hs : ((s.updSig j f).sigSt g).inService = (s.sigSt g).inService ∧ ((s.updSig j f).sigSt g).entering = (s.sigSt g).entering := by
    rw [sigSt_updSig]
    split_ifs with hj
    · rw [hi, he, hj]
      exact ⟨rfl, rfl⟩
    · exact ⟨rfl, rfl⟩
  exact ⟨hs.1.trans h.inService, hs.2.trans h.entering, h.shown, h.free⟩

/-- A change of entries leaves a signature where it stands. -/
theorem Stands.updEnt (h : Stands g s) (j e : Nat) (f : FailEnt → FailEnt) : Stands g (updEnt j e f s) := by
  unfold Machine.updEnt
  split
  · exact h.updSig j (fun _ => rfl) fun _ => rfl
  · exact h

theorem Stands.updEntsOf (h : Stands g s) (j d : Nat) (f : FailEnt → FailEnt) : Stands g (updEntsOf j d f s) :=
  foldl_keep (Stands g) _ _ h fun t e ht => by
    split_ifs
    · exact ht.updEnt _ _ _
    · exact ht

theorem Stands.refuseReplacement (h : Stands g s) (j d p reason : Nat) : Stands g (refuseReplacement j d p reason s) :=
  h.same rfl (get_raise_ne (key_ne_of_below j) _) (get_raise_ne (key_ne_of_below j) _)

theorem Stands.beginFormat (h : Stands g s) (p j : Nat) (ent : Option Nat) (d : Nat) : Stands g (beginFormat p j ent d s) := by
  unfold Machine.beginFormat
  extract_lets sata s1
  have h1 : Stands g s1 := h.same rfl (get_put_ne (key_ne_of_below p) _ _) (get_put_ne (key_ne_of_below p) _ _)
  split_ifs
  · exact h1
  · exact h1.same rfl rfl rfl

theorem Stands.handOver (h : Stands g s) (p : Nat) : Stands g (handOver p s) := by
  unfold Machine.handOver
  split
  · exact h
  · split
    · exact h
    · extract_lets x es base s1
      split_ifs
      · exact h
      · exact h.refuseReplacement _ _ _ _
      · exact h.refuseReplacement _ _ _ _
      · exact (h.updEntsOf _ _ _).beginFormat _ _ _ _
      · exact h

theorem Stands.handOvers (h : Stands g s) (ps : List Nat) : Stands g (handOvers ps s) :=
  foldl_keep (Stands g) _ _ h fun t p ht => by
    split_ifs
    · exact ht.handOver p
    · exact ht

theorem sigMarked_sigSt (g : Nat) (x : AsmFound) (s : State) : ((sigMarked g x s).sigSt g).inService = true ∧ ((sigMarked g x s).sigSt g).entering = false := by
  unfold sigMarked
  rw [freshenBmps_parts]
  constructor <;> simp [State.sigSt, State.updSig, State.setSig]

theorem Stands.of_marked (hg : g < 16) (x : AsmFound) (hr : Rwf (sigMarked g x s)) : Stands g (bitsShown g (sigMarked g x s)) := by
  obtain ⟨hi, he⟩ := sigMarked_sigSt g x s
  have hs : (bitsShown g (sigMarked g x s)).sigSt g = (sigMarked g x s).sigSt g := by
    unfold bitsShown
    rw [setBit_parts, setBit_parts]
    rfl
  refine ⟨hs ▸ hi, hs ▸ he, ?_, get_setBit_bit (hr.setBit _ _ _) hg false⟩
  unfold bitsShown
  rw [get_setBit_ne (by decide)]
  exact get_setBit_bit hr hg true

/-- The registers stay canonical on the way into service. -/
theorem restoredFor_kept {q : List Instr} {n : Nat} (g : Nat) (x : AsmFound) (hs : Kept q n s) : Kept q n (restoredFor g x s) := by
  unfold restoredFor
  refine State.updKeep_kept _ _ _ (Kept.foldl _ _ ?_ fun t u ht => ?_)
  · exact resumeReshape_kept _ _ _ (restoreZones_kept _ _ _ hs)
  · exact updReads_kept _ _ _ _ _ ht

theorem sigMarked_kept {q : List Instr} {n : Nat} (g : Nat) (x : AsmFound) (hs : Kept q n s) : Kept q n (sigMarked g x s) :=
  freshenBmps_kept _ _ _ (State.updSig_kept _ _ _ (State.updSig_kept _ _ _ hs))

theorem enterService_stands (hg : g < 16) (x : AsmFound) (hs : Canonical s) : Stands g (enterService g x s) := by
  rw [enterService_eq]
  exact (Stands.of_marked hg x (sigMarked_kept g x (restoredFor_kept g x hs.kept)).canon.regs.1).handOvers _

theorem handOvers_plane (ps : List Nat) (s : State) : PlaneOnly s (handOvers ps s) :=
  PlaneOnly.foldl _ _ (PlaneOnly.refl s) fun _ _ h => PlaneOnly.ite (handOver_plane _ _ h) h

theorem bitsShown_plane (g : Nat) (s : State) : PlaneOnly s (bitsShown g s) := State.setBit_plane _ _ _ _ (State.setBit_plane _ _ _ _ (PlaneOnly.refl s))

theorem enterService_mode (g : Nat) (x : AsmFound) (s : State) : (enterService g x s).core.mode = s.core.mode := by
  have hz : (resumeReshape g x (restoreZones g x s)).core.mode = s.core.mode :=
    resumeReshape_mode x ((restoreZones_plane (s0 := s) g x s (PlaneOnly.refl s)).mode rfl)
  have hr : (restoredFor g x s).core.mode = s.core.mode :=
    (PlaneOnly.foldl _ _ (PlaneOnly.refl (resumeReshape g x (restoreZones g x s))) fun _ _ h => updReads_plane _ _ _ _ _ h).mode hz
  have hm : (sigMarked g x (restoredFor g x s)).core.mode = s.core.mode := by
    unfold sigMarked
    rw [freshenBmps_parts]
    exact hr
  rw [enterService_eq]
  exact (handOvers_plane _ _).mode ((bitsShown_plane _ _).mode hm)

/-- A signature that is entering, with no READY update left, is in service from this boundary. -/
theorem doSignatureEnterService_entering (x : AsmFound) (he : (s.sigSt g).entering = true) (hm : runsC5 s.core.mode = true)
    (hu : (s.upds.any fun u => u.2.sig == g && u.2.st == .ready) = false) : doSignatureEnterService g x s = enterService g x s := by
  unfold doSignatureEnterService
  simp only [he, if_true, hm, hu, Bool.not_false, and_self]

/-! ### A new signature (R229) -/

/-- A format touches its drive port, the registers, and what leaves the module. -/
theorem beginFormat_parts (p j : Nat) (ent : Option Nat) (d : Nat) (s : State) :
    beginFormat p j ent d s = { s with rf := (beginFormat p j ent d s).rf, drvs := (beginFormat p j ent d s).drvs, out := (beginFormat p j ent d s).out } := by
  unfold beginFormat
  dsimp only
  split_ifs <;> rfl

/-- The signature is being created, and takes its size from its members. -/
def creationBegun (g : Nat) (i : Imposition) (s : State) : State := (sizeNew g i s).updSig g fun y => { y with creating := true, isNew := true }

theorem creationBegun_self (g : Nat) (i : Imposition) (s : State) :
    ((creationBegun g i s).sigSt g).creating = true ∧ ((creationBegun g i s).sigSt g).isNew = true := by
  unfold creationBegun
  rw [sigSt_updSig, if_pos rfl]
  exact ⟨rfl, rfl⟩

theorem creationBegun_ne {j : Nat} (hj : j ≠ g) (i : Imposition) (s : State) : (creationBegun g i s).sigSt j = s.sigSt j := by
  unfold creationBegun sizeNew
  dsimp only
  rw [sigSt_updSig, if_neg hj, sigSt_updSig, if_neg hj]

/-- In PRESS_RUN a new signature whose members are all fit begins its creation, and the formats of its members. -/
theorem doSignatureCreate_begins {i : Imposition} (hi : impOf s g = some i) (hs : (s.sigSt g).inService = false) (he : (s.sigSt g).entering = false)
    (hc : (s.sigSt g).creating = false) (hm : s.core.mode = .pressRun) (hw : waitOver s g = true) (hn : isNewSig s g = true)
    (hf : i.members.all (fitNew s g i) = true) :
    doSignatureCreate g s = { creationBegun g i s with rf := (doSignatureCreate g s).rf, drvs := (doSignatureCreate g s).drvs, out := (doSignatureCreate g s).out } := by
  have e : doSignatureCreate g s = (List.range i.n).foldl (fun s d =>
      if (s.drivePort (i.portOf d)).fmt.isNone then beginFormat (i.portOf d) g none d s else s) (creationBegun g i s) := by
    unfold doSignatureCreate
    simp only [hi, hs, he, hc, hm, hw, hn, hf, Bool.false_eq_true, or_self, if_false, and_self, if_true]
    rfl
  rw [e]
  refine foldl_keep (fun t : State => t = { creationBegun g i s with rf := t.rf, drvs := t.drvs, out := t.out }) _ _ rfl fun t d ht => ?_
  dsimp only
  split_ifs
  · rw [beginFormat_parts, ht]
  · exact ht

/-! ### The wait, the force, and the end of ASSEMBLE (R394 to R396) -/

/-- What the host writes into ASM_FORCE has no part in the wait for a signature. -/
theorem waitOver_asmForce (v j : Nat) : waitOver ((s.put Reg.Glb.ASM_FORCE v).settle Reg.Glb.ASM_FORCE) j = waitOver s j := by
  have hp (p : Nat) : identifying ((s.put Reg.Glb.ASM_FORCE v).settle Reg.Glb.ASM_FORCE) p = identifying s p := by
    have h1 : (s.put Reg.Glb.ASM_FORCE v).get Reg.Drv.PRESENT p = s.get Reg.Drv.PRESENT p := get_put_ne (key_ne_of_below p).symm _ _
    have h2 : (s.put Reg.Glb.ASM_FORCE v).get Reg.Drv.PWR_ON p = s.get Reg.Drv.PWR_ON p := get_put_ne (key_ne_of_below p).symm _ _
    simp only [identifying, State.bit, get_settle, h1, h2, drivePort_settle, drivePort_put]
  unfold waitOver
  simp only [hp]
  rfl

/-- A signature out of service whose wait is over, that has the capacity and is not new, is forced. -/
theorem forceSig_forced (hs : (s.sigSt g).inService = false) (hi : (impOf s g).isSome = true) (hm : runsC5 s.core.mode = true) (hw : waitOver s g = true)
    (hc : capacityOk s g = true) (hn : isNewSig s g = false) :
    forceSig g s = ({ s with core.forced := addTo g s.core.forced } : State).raise Reg.Glb.ASM_FORCED := by
  have hi : (impOf s g).isNone = false := by simp [← Option.not_isSome, hi]
  unfold forceSig
  simp only [hs, hi, hm, hw, hc, hn, Bool.not_true, Bool.false_eq_true, or_self, if_false]

/-- The one bit of a mask of one signature. -/
theorem bits_of_mask (g : SigIx) : ((List.range 16).filter fun j => (BitVec.ofNat 16 (2 ^ g.val)).toNat / 2 ^ j % 2 == 1) = [g.val] := by
  revert g
  decide

theorem mask_toNat (g : SigIx) : (BitVec.ofNat 16 (2 ^ g.val)).toNat = 2 ^ g.val := by
  revert g
  decide

/-- The bit of a signature is asked for. -/
def forceAsked (g : Nat) (s : State) : State := (s.put Reg.Glb.ASM_FORCE (2 ^ g)).settle Reg.Glb.ASM_FORCE

/-- The signature is marked as forced. -/
def sigForced (g : Nat) (s : State) : State := ({ forceAsked g s with core.forced := addTo g s.core.forced } : State).raise Reg.Glb.ASM_FORCED

/-- ASM_FORCE of one signature that can be forced. -/
theorem doAsmForce_forces (g : SigIx) (hs : (s.sigSt g.val).inService = false) (hi : (impOf s g.val).isSome = true) (hm : runsC5 s.core.mode = true)
    (hw : waitOver s g.val = true) (hc : capacityOk s g.val = true) (hn : isNewSig s g.val = false) :
    doAsmForce (BitVec.ofNat 16 (2 ^ g.val)).toNat s = sigForced g.val s := by
  have e : doAsmForce (BitVec.ofNat 16 (2 ^ g.val)).toNat s = forceSig g.val (forceAsked g.val s) := by
    unfold doAsmForce
    rw [bits_of_mask, mask_toNat]
    rfl
  rw [e, forceSig_forced (s := forceAsked g.val s) hs hi hm ((waitOver_asmForce _ _).trans hw) hc hn]
  rfl

theorem get_sigForced (hr : Rwf s) (hg : g < 16) : (sigForced g s).get Reg.Glb.ASM_FORCED = 1 ∧ (sigForced g s).get Reg.Glb.ASM_FORCE = 2 ^ g := by
  have ha : Rwf (forceAsked g s) := hr.put _ _ _
  have hlt : 2 ^ g < 2 ^ Reg.Glb.ASM_FORCE.w := Nat.pow_lt_pow_right Nat.one_lt_two hg
  refine ⟨get_raise_eq (s := { forceAsked g s with core.forced := addTo g s.core.forced }) ha Reg.Glb.ASM_FORCED 0, ?_⟩
  unfold sigForced
  rw [get_raise_ne (by decide)]
  exact (get_put_eq hr Reg.Glb.ASM_FORCE (2 ^ g) 0).trans (Nat.mod_eq_of_lt hlt)

theorem regsBut_sigForced {ks : List Nat} (ha : Reg.Glb.ASM_FORCE.key 0 ∈ ks) (hf : Reg.Glb.ASM_FORCED.key 0 ∈ ks) (g : Nat) (s : State) :
    RegsBut ks s (sigForced g s) := by
  have h : RegsBut ks s (forceAsked g s) := ((RegsBut.refl ks s).put _ _ _ ha).settle _ _
  exact (h.same (u := { forceAsked g s with core.forced := addTo g s.core.forced }) rfl).raise _ _ hf

/-- Once every signature is in service none is held out, and PRESS_RUN is entered. -/
theorem doAssembleEnd_enters {m : Img} (hm : s.core.mode = .assemble) (hc : s.cast.due = none) (hi : s.img.eff = some m)
    (ha : (m.imps.map (·.1)).all (fun g => (s.sigSt g).inService) = true) : doAssembleEnd s = (s.enter .pressRun).raise Reg.Glb.MAKEREADY_DONE := by
  have hall := List.all_eq_true.mp ha
  have hend : ((m.imps.map (·.1)).all fun g => (s.sigSt g).inService || heldNow s g) = true := List.all_eq_true.mpr fun g hg => by simp [hall g hg]
  have hout : ((m.imps.map (·.1)).filter fun g => !(s.sigSt g).inService) = [] := List.filter_eq_nil_iff.mpr fun g hg => by simp [hall g hg]
  unfold doAssembleEnd
  simp only [imgOf, hi, Option.map_some, Option.getD_some, hm, hc, Option.isNone_none, hend, hout, and_self, if_true, List.foldl_nil]

/-- The registers as ASSEMBLE is left for PRESS_RUN: its time is kept, and the change of state shown (R387, R403). -/
def pressRunShown (s : State) : State := ((s.put Reg.Glb.MR_TIME (impMs (s.since s.core.entered)) 6).ibi 1).raise Reg.Glb.STATE_CHANGE

theorem enter_pressRun_of_assemble (hm : s.core.mode = .assemble) : s.enter .pressRun =
    ({ pressRunShown s with core := { s.core with mode := .pressRun, prev := .assemble, entered := s.core.imp } } : State).log 0x0002 0 [6, 7] := by
  unfold State.enter
  rw [hm]
  rfl

theorem Rwf.pressRunShown (h : Rwf s) : Rwf (pressRunShown s) := ((h.put _ _ _).ibi _).raise _ _

theorem get_pressRunShown (h : Rwf s) : (pressRunShown s).get Reg.Glb.STATE_CHANGE = 1 := get_raise_eq ((h.put _ _ _).ibi _) _ _

theorem regsBut_pressRunShown {ks : List Nat} (h6 : Reg.Glb.MR_TIME.key 6 ∈ ks) (hi : Reg.Hif.IBI_PENDING.key 0 ∈ ks) (hc : Reg.Glb.STATE_CHANGE.key 0 ∈ ks)
    (s : State) : RegsBut ks s (pressRunShown s) := (((RegsBut.refl ks s).put _ _ _ h6).ibi _ hi).raise _ _ hc

/-- Settles O44: each command by the equation of its meaning; a signature that comes into service stands, whatever new drives are handed over. -/
theorem assembleAndSignatures : Obligations.AssembleAndSignatures := by
  unfold Obligations.AssembleAndSignatures
  refine ⟨?expires, ?done, ?force, ?enters, ?creates, ?ends⟩
  case expires =>
    intro s a hl ha hm hw
    refine Gives.on (f := doAsmWaitExpired) rfl hl ?_
    unfold doAsmWaitExpired
    simp only [ha, hm, ge_iff_le, hw, and_self, if_true]
  case done =>
    intro s hl hm
    refine Gives.on (f := doAsmDone) rfl hl ?_
    have e : doAsmDone s = { s.pulse Reg.Glb.ASM_DONE with core := { s.core with asmOver := true } } := if_pos hm
    rw [e]
    exact ⟨rfl, ((RegsBut.refl _ s).pulse Reg.Glb.ASM_DONE 0 (by simp)).same rfl, rfl⟩
  case force =>
    intro s g hl hs hi hm hw hc hn
    refine Gives.on (f := doAsmForce _) rfl hl ?_
    obtain ⟨hf, hv⟩ := get_sigForced (.live hl) g.isLt
    rw [doAsmForce_forces g hs hi hm hw hc hn]
    exact ⟨rfl, hf, hv, regsBut_sigForced (by simp) (by simp) g.val s, rfl⟩
  case enters =>
    intro s g x hl he hm hu
    refine Gives.on (f := doSignatureEnterService g.val x) rfl hl ?_
    rw [doSignatureEnterService_entering x he (by rw [hm]; rfl) hu]
    obtain ⟨hi, hn, hs, hh⟩ := enterService_stands g.isLt x hl.canon
    exact ⟨hi, hn, hs, hh, enterService_mode g.val x s⟩
  case creates =>
    intro s g i hl hi hs he hc hm hw hn hf
    refine Gives.on (f := doSignatureCreate g.val) rfl hl ?_
    obtain ⟨hcr, hnew⟩ := creationBegun_self g.val i s
    rw [doSignatureCreate_begins hi hs he hc hm hw hn hf]
    exact ⟨hcr, hnew, fun j hj => creationBegun_ne hj i s, rfl, rfl⟩
  case ends =>
    intro s m hl hm hc hi ha
    refine Gives.on (f := doAssembleEnd) rfl hl ?_
    have hr : Rwf (pressRunShown s) := (Rwf.live hl).pressRunShown
    have hb := (regsBut_pressRunShown (ks := [Reg.Glb.MR_TIME.key 6, Reg.Hif.IBI_PENDING.key 0, Reg.Glb.STATE_CHANGE.key 0, Reg.Glb.MAKEREADY_DONE.key 0])
      (by simp) (by simp) (by simp) s).raise Reg.Glb.MAKEREADY_DONE 0 (by simp)
    have hd : ((pressRunShown s).raise Reg.Glb.MAKEREADY_DONE).get Reg.Glb.STATE_CHANGE = 1 :=
      (get_raise_ne (by decide) _).trans (get_pressRunShown (.live hl))
    rw [doAssembleEnd_enters hm hc hi ha, enter_pressRun_of_assemble hm]
    exact ⟨rfl, get_raise_eq hr Reg.Glb.MAKEREADY_DONE 0, hd, rfl, hb.same rfl, rfl⟩

end Sys2Proof.Machine
end

section
/-!
SUPPORT. The repair of a folio (R158 to R160), the hour that rolls the corruption counts (R161), and the end of a proofing lap (R173).
-/

namespace Sys2Proof.Machine

variable {s t : State} {g sh p : Nat} {r : Repair}

/-! ### A command given to a drive port -/

/-- The drive ports, what leaves by them, and the tags taken. -/
def DrivesOnly (s t : State) : Prop := t = { s with drvs := t.drvs, out := t.out, tagNo := t.tagNo }

theorem DrivesOnly.eq (h : DrivesOnly s t) : t = { s with drvs := t.drvs, out := t.out, tagNo := t.tagNo } := h

theorem DrivesOnly.trans {u : State} (h : DrivesOnly s t) (k : DrivesOnly t u) : DrivesOnly s u := by
  unfold DrivesOnly at *
  rw [k, h]

theorem drivesOnly_sendCmd (q tag : Nat) (c : DrvCmd) (s : State) : DrivesOnly s (sendCmd q tag c s) :=
  foldl_keep (DrivesOnly s) _ _ rfl fun _ _ h => h.trans rfl

theorem drivesOnly_pumpN (q n : Nat) (s : State) : DrivesOnly s (pumpN q n s) := by
  induction n generalizing s with
  | zero => rfl
  | succ n ih =>
    unfold pumpN
    dsimp only
    split
    · rfl
    next tag c w _ =>
      split_ifs
      · exact (DrivesOnly.trans (t := s.setDrv q { s.drivePort q with queue := w }) rfl (drivesOnly_sendCmd q tag c _)).trans (ih _)
      · rfl

theorem drivesOnly_giveCmd (q : Nat) (c : DrvCmd) (s : State) : DrivesOnly s (giveCmd q c s) :=
  DrivesOnly.trans (t := ({ s with tagNo := s.tagNo + 1 } : State).updDrv q fun d => { d with queue := d.queue ++ [(s.tagNo + 1, c)] }) rfl
    (drivesOnly_pumpN _ _ _)

theorem drivesOnly_writeAt (use : DrvUse) (g sh p : Nat) (a : Nat × Nat) (bs : NMap RdVal) (s : State) : DrivesOnly s (writeAt use g sh p a bs s) := by
  cases bs with
  | nil => rfl
  | cons b bs => exact drivesOnly_giveCmd _ _ s

/-! ### The write of a repair (R158, R159) -/

/-- On an idle sheet a repair of one block has no blocks in between to verify: its event counts, and the block is written. -/
theorem doRepairWrite_one {b : Nat} {v : RdVal} {a : Nat × Nat} (hr : repairOf s g sh p (· == 0) = some r) (hb : r.blocks = [(b, v)])
    (hs : r.silent = false) (hbusy : sheetBusy s g sh = false)
    (hwait : (s.lost.any fun y => y.sig == g && y.sheet == sh && y.bad.any fun z => z.1 == p) = false) (hrun : drivesRun s.core.mode = true)
    (ha : locate s g sh p false = some a) (hm : (s.sigSt g).k.mems = []) (between : List (Nat × RdBlk)) :
    doRepairWrite g sh p between s =
      setRepair r { r with stage := 1, tries := r.tries + 1 } (writeAt .repair g sh p a r.blocks (s.bump Reg.Sig.MEDIUM_FIX 1 g)) := by
  have hcount : judgeRetire g (countFix g sh p r.silent s) = s.bump Reg.Sig.MEDIUM_FIX 1 g := by
    rw [hs]
    exact judgeRetire_idle hm
  have hr' : repairOf (s.bump Reg.Sig.MEDIUM_FIX 1 g) g sh p (· == 0) = some r := hr
  have ha' : locate (s.bump Reg.Sig.MEDIUM_FIX 1 g) g sh p false = some a := ha
  unfold doRepairWrite
  simp only [hr, hbusy, hwait, hrun, hcount, hr', issueWrite, ha', hb, List.map_cons, List.map_nil, List.headD_cons, List.foldl_cons, List.foldl_nil,
    max_self, Nat.sub_self, List.range_zero, List.filter_nil, List.any_nil, List.find?_nil, Bool.not_true, Bool.false_eq_true, or_self, if_false, if_true]

/-! ### Its completion and the targeted self-test (R160) -/

/-- A repair that moves on to a stage and is read back is replaced among the repairs. -/
theorem repairs_readBackRepair (q : Repair) (h : WireOnly s t) :
    (readBackRepair r (setRepair r q t)).repairs = s.repairs.map fun x => if x == r then q else x := by
  rw [(readBackRepair_wire r _ (WireOnly.refl _)).eq, h.eq]
  rfl

theorem doRepairWriteComplete_begins (hr : repairOf s g sh p (· == 1) = some r) :
    doRepairWriteComplete g sh p s = readBackRepair r (setRepair r { r with stage := 2 } (finishAll .repair g sh (some p) s)) := by
  unfold doRepairWriteComplete
  rw [hr]

theorem doSelfTestReadback_first (hr : repairOf s g sh p (fun n => n == 2 || n == 3) = some r) (h2 : r.stage = 2) :
    doSelfTestReadback g sh p true s = readBackRepair r (setRepair r { r with stage := 3 } (finishAll .repair g sh (some p) s)) := by
  unfold doSelfTestReadback
  rw [hr]
  exact if_pos ⟨rfl, h2⟩

/-- A repair that passed: a silent failure raises its event, and the log takes the repair. -/
def repairPassed (g sh p : Nat) (r : Repair) (s : State) : State :=
  (if r.silent then s.raise Reg.Sig.SILENT_CORR g else s).log (if r.silent then 0x5001 else 0x5002) (srcSig g (servedBy s g sh p))
    (leBytes 8 (sh % srcBit) ++ [p] ++ leBytes 2 r.blocks.length)

theorem doSelfTestReadback_second (hr : repairOf s g sh p (fun n => n == 2 || n == 3) = some r) (h3 : r.stage = 3) :
    doSelfTestReadback g sh p true s = endRepair r (repairPassed g sh p r (finishAll .repair g sh (some p) s)) := by
  unfold doSelfTestReadback
  rw [hr]
  exact (if_neg fun h => absurd (h3.symm.trans h.2) (by decide)).trans (if_pos rfl)

/-- The end of a repair takes it off, and else unpins lines of the Case. -/
theorem endRepair_parts (r : Repair) (s : State) : ∃ c, endRepair r s = { s with repairs := s.repairs.erase r, cs := c } := by
  unfold endRepair
  dsimp only
  split_ifs
  · refine foldl_cs _ (fun u n => ?_) _ { s with repairs := s.repairs.erase r }
    split_ifs
    · exact ⟨u.cs, rfl⟩
    · exact updLine_cs _ _ _ _ _
  · exact ⟨s.cs, rfl⟩

theorem endRepair_repairs (r : Repair) (s : State) : (endRepair r s).repairs = s.repairs.erase r := by
  obtain ⟨c, hc⟩ := endRepair_parts r s
  rw [hc]

theorem endRepair_rf (r : Repair) (s : State) : (endRepair r s).rf = s.rf := by
  obtain ⟨c, hc⟩ := endRepair_parts r s
  rw [hc]

theorem endRepair_el (r : Repair) (s : State) : (endRepair r s).el = s.el := by
  obtain ⟨c, hc⟩ := endRepair_parts r s
  rw [hc]

theorem repairPassed_repairs : (repairPassed g sh p r s).repairs = s.repairs := by
  unfold repairPassed
  split_ifs <;> rfl

theorem repairPassed_due : (repairPassed g sh p r s).el.due = ⟨if r.silent then 0x5001 else 0x5002, 0, 0, opTimeOf s.core.opImp, s.core.cycles,
    srcSig g (servedBy s g sh p), leBytes 8 (sh % srcBit) ++ [p] ++ leBytes 2 r.blocks.length⟩ :: s.el.due := by
  unfold repairPassed
  split_ifs <;> rfl

theorem get_repairPassed (h : Rwf s) (hs : r.silent = true) : (repairPassed g sh p r s).get Reg.Sig.SILENT_CORR g = 1 := by
  unfold repairPassed
  rw [get_log, if_pos hs]
  exact get_raise_eq h _ _

theorem rwf_finishAll (h : Canonical s) (use : DrvUse) (g sh : Nat) (o : Option Nat) : Rwf (finishAll use g sh o s) :=
  (finishAll_kept use g sh o s h.kept).canon.regs.1

/-! ### The hour of the corruption counts (R161) -/

theorem nfind_nmapv {α : Type} (f : Nat → α → α) (k : Nat) (m : NMap α) : nfind k (nmapv f m) = (nfind k m).map (f k) := by
  induction m with
  | nil => rfl
  | cons e m ih =>
    obtain ⟨j, v⟩ := e
    show nfind k ((j, f j v) :: nmapv f m) = _
    rw [nfind_cons, nfind_cons, ih]
    split_ifs with h
    · rw [h]; rfl
    · rfl

/-- A change that leaves the default as it is changes what is read. -/
theorem ngetD_nmapv {α : Type} (f : Nat → α → α) {k : Nat} {d : α} (hd : f k d = d) (m : NMap α) : ngetD k d (nmapv f m) = f k (ngetD k d m) := by
  unfold ngetD
  rw [nfind_nmapv]
  cases nfind k m with
  | none => exact hd.symm
  | some v => rfl

/-- A member an hour on: an empty bucket comes first, and the oldest of 24 falls away. -/
def Mem.rolled (m : Mem) : Mem := { m with buckets := if m.buckets.isEmpty then [] else (0 :: m.buckets).take 24 }

/-- A signature an hour on. -/
def Sig.rolled (x : Sig) : Sig := { x with k := { x.k with mems := nmapv (fun _ => Mem.rolled) x.k.mems } }

/-- The module an hour on. -/
def hourRolled (s : State) : State := { s with corrHour := s.corrHour + 1, sigs := nmapv (fun _ => Sig.rolled) s.sigs }

theorem doCorruptionHourRoll_due (h : s.corrHour < s.core.opImp / 450000000) : doCorruptionHourRoll s = hourRolled s := if_pos h

theorem doCorruptionHourRoll_early (h : s.core.opImp / 450000000 ≤ s.corrHour) : doCorruptionHourRoll s = s := if_neg (Nat.not_lt.mpr h)

theorem memOf_hourRolled (s : State) (g d : Nat) : memOf (hourRolled s) g d = (memOf s g d).rolled := by
  have hsig : (hourRolled s).sigSt g = (s.sigSt g).rolled := ngetD_nmapv (fun _ => Sig.rolled) rfl s.sigs
  unfold memOf
  rw [hsig]
  exact ngetD_nmapv (fun _ => Mem.rolled) rfl (s.sigSt g).k.mems

theorem Mem.rolled_buckets {m : Mem} {b : Nat} {bs : List Nat} (h : m.buckets = b :: bs) : m.rolled.buckets = (0 :: b :: bs).take 24 := by
  unfold Mem.rolled
  rw [h]
  rfl

/-! ### The end of a proofing lap (R173) -/

/-- A pass in an open lap that finds no further sheet ends the lap. -/
theorem doProofingItem_ends (hp : proofRuns s g = true) (ho : (s.sigSt g).lapOpen = true) (hn : nextProof s g = none) (reads : List RdOffset) :
    doProofingItem g reads s = endLap g s := by
  unfold doProofingItem
  simp only [hp, ho, hn, Bool.not_true, Bool.false_eq_true, if_false, if_true]

/-- A signature whose lap ends at a time: the next lap starts at sheet 0. -/
def Sig.lapEnded (now : Nat) (x : Sig) : Sig :=
  { x with pendingClear := true, lapOpen := false, k := { x.k with proofPos := 0, lapStart := now, lapCount := (x.k.lapCount + 1) % 65536, hbUnknown := false } }

theorem sigSt_endLap (g h : Nat) (s : State) : (endLap g s).sigSt h = if h = g then (s.sigSt g).lapEnded (opTimeOf s.core.opImp) else s.sigSt h :=
  sigSt_updSig s g h (Sig.lapEnded (opTimeOf s.core.opImp))

theorem endLap_parts (g : Nat) (s : State) : endLap g s = { s with rf := (endLap g s).rf, sigs := (endLap g s).sigs, el := (endLap g s).el } := rfl

theorem get_endLap_done (h : Rwf s) : (endLap g s).get Reg.Sig.PROOF_DONE g = 1 := by
  unfold endLap
  dsimp only
  rw [get_log]
  exact get_raise_eq (Rwf.put (h.updSig g (Sig.lapEnded (opTimeOf s.core.opImp))) _ _ _) _ _

theorem get_endLap_lastLap (h : Rwf s) :
    (endLap g s).get Reg.Sig.LAST_LAP g = (opTimeOf s.core.opImp - (s.sigSt g).k.lapStart) % 2 ^ Reg.Sig.LAST_LAP.w := by
  unfold endLap
  dsimp only
  rw [get_log, get_raise_ne (key_ne_of_place g)]
  exact get_put_eq (h.updSig g (Sig.lapEnded (opTimeOf s.core.opImp))) _ _ _

theorem regsBut_endLap (g : Nat) (s : State) : RegsBut [Reg.Sig.PROOF_DONE.key g, Reg.Sig.LAST_LAP.key g] s (endLap g s) :=
  ((((RegsBut.refl _ s).updSig g (Sig.lapEnded (opTimeOf s.core.opImp))).put Reg.Sig.LAST_LAP _ g (by simp)).raise Reg.Sig.PROOF_DONE g (by simp)).log _ _ _

/-- Settles O32: each command of a repair by the stage it finds; the hour by what it makes of one member; the lap by the pass that finds no sheet. -/
theorem repairsAndScrubbing : Obligations.RepairsAndScrubbing := by
  unfold Obligations.RepairsAndScrubbing
  refine ⟨?write, ?complete, ?first, ?second, ?hour, ?early, ?lap⟩
  case write =>
    intro s x p r b v a hl hr hb hs _ hbusy hwait hrun ha hm
    have hplane := doRepairWrite_plane x.sig.val x.sheet p [] s (PlaneOnly.refl s)
    refine Gives.on (f := doRepairWrite x.sig.val x.sheet p []) rfl hl ?_
    rw [doRepairWrite_one hr hb hs hbusy hwait hrun ha hm] at hplane ⊢
    have hw := drivesOnly_writeAt .repair x.sig.val x.sheet p a r.blocks (s.bump Reg.Sig.MEDIUM_FIX 1 x.sig.val)
    generalize writeAt _ _ _ _ _ _ _ = w at hplane hw
    have hrf : w.rf = (s.bump Reg.Sig.MEDIUM_FIX 1 x.sig.val).rf := by rw [hw.eq]
    refine ⟨?_, ?_, ((RegsBut.refl _ s).bump Reg.Sig.MEDIUM_FIX 1 x.sig.val (by simp)).same hrf, hplane⟩
    · show w.get Reg.Sig.MEDIUM_FIX x.sig.val = _
      rw [get_of_rf hrf]
      exact get_bump_eq (.live hl) _ _ _
    · rw [hw.eq]
      rfl
  case complete =>
    intro s x p r hl hr
    have hplane := doRepairWriteComplete_plane x.sig.val x.sheet p s (PlaneOnly.refl s)
    refine Gives.on (f := doRepairWriteComplete x.sig.val x.sheet p) rfl hl ⟨?_, hplane⟩
    rw [doRepairWriteComplete_begins hr]
    exact repairs_readBackRepair _ (finishAll_wire _ _ _ _ s (.refl s))
  case first =>
    intro s x p r hl hr h2
    have hplane := doSelfTestReadback_plane x.sig.val x.sheet p true s (PlaneOnly.refl s)
    refine Gives.on (f := doSelfTestReadback x.sig.val x.sheet p true) rfl hl ⟨?_, hplane⟩
    rw [doSelfTestReadback_first hr h2]
    exact repairs_readBackRepair _ (finishAll_wire _ _ _ _ s (.refl s))
  case second =>
    intro s x p r hl hr h3
    have hplane := doSelfTestReadback_plane x.sig.val x.sheet p true s (PlaneOnly.refl s)
    have hf := finishAll_wire .repair x.sig.val x.sheet (some p) s (.refl s)
    have hrwf := rwf_finishAll hl.canon .repair x.sig.val x.sheet (some p)
    refine Gives.on (f := doSelfTestReadback x.sig.val x.sheet p true) rfl hl ?_
    rw [doSelfTestReadback_second hr h3] at hplane ⊢
    generalize finishAll _ _ _ _ _ = f at hplane hf hrwf
    refine ⟨?_, fun hs => ?_, ⟨servedBy f x.sig.val x.sheet p, f.el.due, ?_⟩, hplane⟩
    · rw [endRepair_repairs, repairPassed_repairs, hf.eq]
    · rw [get_of_rf (endRepair_rf _ _), get_repairPassed hrwf hs]
    · rw [endRepair_el, repairPassed_due, hf.eq]
      rfl
  case hour =>
    intro s hl h
    refine Gives.on (f := doCorruptionHourRoll) rfl hl ?_
    rw [doCorruptionHourRoll_due h]
    refine ⟨rfl, fun g d b bs hb => ?_, rfl⟩
    rw [memOf_hourRolled]
    exact Mem.rolled_buckets hb
  case early =>
    intro s hl h
    exact congrArg Host.Outcome.next ((whenOn_on _ hl.power).trans (doCorruptionHourRoll_early h))
  case lap =>
    intro s g reads hl hp ho hn
    refine Gives.on (f := doProofingItem g.val reads) rfl hl ?_
    rw [doProofingItem_ends hp ho hn]
    exact ⟨(sigSt_endLap _ _ s).trans (if_pos rfl), get_endLap_done (.live hl), get_endLap_lastLap (.live hl),
      fun h hh => (sigSt_endLap _ h s).trans (if_neg hh), regsBut_endLap _ s, endLap_parts _ s⟩

end Sys2Proof.Machine
end

section
/-!
SUPPORT. The Case as a cache (R243 to R248, R255): what ages a line, what the reclaimer and a drop do with a victim, the second frame of a dirty line,
and what a probe shows.
-/

namespace Sys2Proof.Machine

variable {s t : State} {c d k : Nat} {x : Line}

/-! ### Ages (R245) -/

theorem nmapv_nmapv {α : Type} (f g : Nat → α → α) (m : NMap α) : nmapv g (nmapv f m) = nmapv (fun k x => g k (f k x)) m := List.map_map

/-- A line at the end of a period: young where it was touched last, and older by 1 elsewhere. -/
def agedLine (touched : List Nat) (k : Nat) (x : Line) : Line := { x with age := if touched.contains k then 0 else min 3 (x.age + 1) }

theorem youngest_of_aged (touched : List Nat) (k : Nat) (x : Line) :
    (if touched.contains k then { x with age := 0 } else { x with age := min 3 (x.age + 1) }) = agedLine touched k x := by
  unfold agedLine
  split_ifs <;> rfl

theorem doAgeIncrement_due (hp : 0 < s.get Reg.Cc.AGE_PERIOD) (hm : s.core.imp % s.get Reg.Cc.AGE_PERIOD = 0) (hn : s.cs.agedAt ≠ some s.core.imp) :
    doAgeIncrement s = { s with cs := { s.cs with agedAt := some s.core.imp, tags := nmapv (agedLine s.cs.touchedLast) s.cs.tags } } := by
  refine (if_pos ⟨hp, hm, hn⟩).trans ?_
  simp only [youngest, nmapv_nmapv, youngest_of_aged]

theorem doAgeIncrement_done (h : s.cs.agedAt = some s.core.imp) : doAgeIncrement s = s := if_neg fun e => e.2.2 h

/-! ### Victims (R244, R247, R248) -/

/-- The eviction buffer takes a line while it has room, for a range engine as for the reclaimer. -/
theorem evict_room {o : Option Nat} (x : Line) (w : Bool) (h : s.cs.evb.length < 64)
    (ho : o.isSome = true → (s.cs.evb.filter fun p => p.2.engine.isSome).length < 32) :
    evict x w o s = some { s with cs.evb := nset (nfresh s.cs.evb 0) ⟨x, w, s.core.imp, o⟩ s.cs.evb } := by
  refine if_neg fun e => ?_
  rcases e with e | ⟨e, e'⟩
  · omega
  · have := ho e
    omega

/-- A fold whose every step does nothing or one fixed thing, and nothing after that, does it or does nothing. -/
theorem foldl_once_or {β γ : Type} {f : β → γ → β} {a b : β} (hf : ∀ y, f a y = a ∨ f a y = b) (hb : ∀ y, f b y = b) (l : List γ) :
    l.foldl f a = a ∨ l.foldl f a = b := by
  induction l with
  | nil => exact .inl rfl
  | cons y l ih =>
    rw [List.foldl_cons]
    rcases hf y with e | e <;> rw [e]
    · exact ih
    · exact .inr (List.foldl_fixed' hb l)

/-- It does it where one of its steps does. -/
theorem foldl_once {β γ : Type} {f : β → γ → β} {a b : β} (hf : ∀ y, f a y = a ∨ f a y = b) (hb : ∀ y, f b y = b) {l : List γ}
    (hx : ∃ y ∈ l, f a y = b) : l.foldl f a = b := by
  obtain ⟨y, hy, e⟩ := hx
  obtain ⟨l₁, l₂, rfl⟩ := List.append_of_mem hy
  rw [List.foldl_append, List.foldl_cons]
  have hy : f (l₁.foldl f a) y = b := by
    rcases foldl_once_or hf hb l₁ with h | h <;> rw [h]
    · exact e
    · exact hb y
  rw [hy, List.foldl_fixed' hb]

/-- One line in the tag store, and the reclaimer of channel c may take it. -/
structure LoneVictim (c k : Nat) (x : Line) (s : State) : Prop where
  alone : s.cs.tags = [(k, x)]
  eligible : x.eligible = true
  old : x.age = 3
  loose : x.retain = false
  home : x.primary / 131072 = c
  room : s.cs.evb.length < 64

/-- The one line leaves its set as a drop, and counts as a victim. -/
def lineTaken (x : Line) (s : State) : State :=
  ({ s with cs.tags := [], cs.evb := nset (nfresh s.cs.evb 0) ⟨x, false, s.core.imp, none⟩ s.cs.evb } : State).bump Reg.Cc.VICTIMS

/-- The walk of a set at the tag entry j (R244). -/
def reclaimWay (c j : Nat) (s : State) : State :=
  match nfind j s.cs.tags with
  | some x =>
    if x.eligible ∧ x.age = 3 ∧ !x.retain ∧ x.primary / 131072 = c then
      match evict x false none s with
      | some s => ({ s with cs.tags := ndel j s.cs.tags } : State).bump Reg.Cc.VICTIMS
      | none => s.raise Reg.Cc.EVB_FULL
    else s
  | none => s

theorem reclaimSet_eq (c set : Nat) (s : State) :
    reclaimSet c set s = (List.range (caseWays s)).foldl (fun t i => reclaimWay c (set * caseWays s + i) t) s := rfl

theorem reclaimWay_free {j : Nat} (h : nfind j s.cs.tags = none) : reclaimWay c j s = s := by
  unfold reclaimWay
  rw [h]

theorem reclaimSet_empty (h : s.cs.tags = []) (set : Nat) : reclaimSet c set s = s :=
  List.foldl_fixed' (fun _ => reclaimWay_free (by rw [h, nfind_nil])) _

theorem LoneVictim.reclaimWay (h : LoneVictim c k x s) : Machine.reclaimWay c k s = lineTaken x s := by
  have hf : nfind k s.cs.tags = some x := by simp [h.alone, nfind_cons]
  have hk : ndel k s.cs.tags = [] := by simp [h.alone, ndel]
  unfold Machine.reclaimWay
  rw [hf]
  dsimp only
  rw [if_pos ⟨h.eligible, h.old, by rw [h.loose]; rfl, h.home⟩, evict_room x false h.room (by simp)]
  dsimp only
  rw [hk]
  rfl

theorem LoneVictim.reclaimWay_or (h : LoneVictim c k x s) (j : Nat) : Machine.reclaimWay c j s = s ∨ Machine.reclaimWay c j s = lineTaken x s := by
  by_cases e : k = j
  · exact e ▸ .inr h.reclaimWay
  · exact .inl (reclaimWay_free (by rw [h.alone, nfind_cons, if_neg e, nfind_nil]))

theorem reclaimWay_lineTaken (x : Line) (s : State) (j : Nat) : Machine.reclaimWay c j (lineTaken x s) = lineTaken x s := reclaimWay_free rfl

theorem LoneVictim.reclaimSet_or (h : LoneVictim c k x s) (set : Nat) : reclaimSet c set s = s ∨ reclaimSet c set s = lineTaken x s := by
  rw [reclaimSet_eq]
  exact foldl_once_or (fun _ => h.reclaimWay_or _) (fun _ => reclaimWay_lineTaken x s _) _

/-- The walk reaches the line in its own set. -/
theorem LoneVictim.reclaimSet_own (h : LoneVictim c k x s) : reclaimSet c (k / caseWays s) s = lineTaken x s := by
  rw [reclaimSet_eq]
  refine foldl_once (fun _ => h.reclaimWay_or _) (fun _ => reclaimWay_lineTaken x s _) ⟨k % caseWays s, ?_, ?_⟩
  · exact List.mem_range.mpr (Nat.mod_lt _ (Nat.two_pow_pos _))
  · rw [Nat.div_add_mod']
    exact h.reclaimWay

/-- One pass of the reclaimer over 64 sets. -/
def reclaimWalk (c : Nat) (s : State) : State :=
  (List.range 64).foldl (fun t i => if freeFrames t c < 512 then reclaimSet c ((t.cs.reclaimAt + i) % caseSets s) t else t) s

/-- A pass ends: the pointer has moved on, and the channel is marked. -/
theorem doReclaim_runs (hc : (s.chan c).st ≤ 2) (h : freeFrames s c < 256 ∨ (s.chan c).reclaim = true) :
    doReclaim c s = ({ reclaimWalk c s with cs.reclaimAt := ((reclaimWalk c s).cs.reclaimAt + 64) % caseSets s } : State).setChan c
      { (reclaimWalk c s).chan c with reclaim := decide (freeFrames (reclaimWalk c s) c < 512) } := by
  unfold doReclaim reclaimWalk
  generalize List.range 64 = sets
  exact if_pos ⟨hc, h⟩

/-- At 512 free frames nothing is taken. -/
theorem reclaimWalk_rests (h : 512 ≤ freeFrames s c) : reclaimWalk c s = s := List.foldl_fixed' (fun _ => if_neg (by omega)) _

theorem freeFrames_lineTaken (x : Line) (s : State) (c : Nat) : freeFrames (lineTaken x s) c = freeFrames s c := rfl

/-- Below it, the walk takes the one line where its set is among the 64. -/
theorem LoneVictim.reclaimWalk (h : LoneVictim c k x s) (hfree : freeFrames s c < 512)
    (hj : ∃ j < 64, k / caseWays s = (s.cs.reclaimAt + j) % caseSets s) : Machine.reclaimWalk c s = lineTaken x s := by
  obtain ⟨j, hj, e⟩ := hj
  refine foldl_once (fun i => ?_) (fun i => ?_) ⟨j, List.mem_range.mpr hj, ?_⟩
  · rw [if_pos hfree]
    exact h.reclaimSet_or _
  · rw [freeFrames_lineTaken, if_pos hfree]
    exact reclaimSet_empty rfl _
  · rw [if_pos hfree, ← e]
    exact h.reclaimSet_own

/-! ### A drop gives its frames back (R248) -/

/-- The frames in use of channel d once a list of frames is given back. -/
def usedAfter (d : Nat) (fs used : List Nat) : List Nat := fs.foldl (fun u f => if f / 131072 = d then u.erase (f % 131072) else u) used

theorem chan_setChan (s : State) (c d : Nat) (y : Chan) : (s.setChan c y).chan d = if d = c then y else s.chan d := by
  split_ifs with h
  · subst h
    exact ngetD_nset_self _ _ _ _
  · exact ngetD_nset_ne h _ _ _

theorem chan_giveFrame (f : Nat) (s : State) (d : Nat) : (giveFrame f s).chan d = { s.chan d with used := usedAfter d [f] (s.chan d).used } := by
  refine (chan_setChan _ _ _ _).trans ?_
  unfold usedAfter
  rw [List.foldl_cons, List.foldl_nil]
  by_cases h : d = f / 131072
  · rw [if_pos h, if_pos h.symm, h]
  · rw [if_neg h, if_neg (Ne.symm h)]

theorem chan_giveFrames (fs : List Nat) (s : State) (d : Nat) : (giveFrames fs s).chan d = { s.chan d with used := usedAfter d fs (s.chan d).used } := by
  induction fs generalizing s with
  | nil => rfl
  | cons f fs ih =>
    refine (ih (giveFrame f s)).trans ?_
    rw [chan_giveFrame]
    rfl

theorem giveFrames_parts (fs : List Nat) (s : State) : giveFrames fs s = { s with cs := { s.cs with chans := (giveFrames fs s).cs.chans } } :=
  foldl_keep (fun t : State => t = { s with cs := { s.cs with chans := t.cs.chans } }) _ fs rfl fun t f ht => by
    rw [ht]
    rfl

/-- The frames that a line holds. -/
def Line.frames (x : Line) : List Nat := [x.primary] ++ x.duplex.toList ++ x.shFrames

theorem doEvbDrop_leaves {i : Nat} {e : EvbEnt} (hi : nfind i s.cs.evb = some e) (hw : e.writeBack = false) (ha : e.at_ < s.core.imp)
    (hp : e.line.fillPending = false) : doEvbDrop i s = { giveFrames e.line.frames s with cs.evb := ndel i s.cs.evb } := by
  unfold doEvbDrop
  rw [hi]
  exact if_pos ⟨by rw [hw]; rfl, ha, by rw [hp]; rfl⟩

/-- In the impression that it entered the buffer in, it stays there. -/
theorem doEvbDrop_stays {i : Nat} {e : EvbEnt} (hi : nfind i s.cs.evb = some e) (ha : e.at_ = s.core.imp) : doEvbDrop i s = s := by
  unfold doEvbDrop
  rw [hi]
  exact if_neg fun h => absurd h.2.1 (by omega)

/-! ### A second frame (R243) -/

/-- The dirty lines that hold one frame, in a channel that can hold dirty data. -/
def singleLines (s : State) : NMap Line := s.cs.tags.filter fun p => p.2.dirty && p.2.duplex.isNone && chanDirty s (p.2.primary / 131072)

/-- The only such line gets its second frame in the roomiest other channel, and that is recorded. -/
theorem doReDuplex_one (h : singleLines s = [(k, x)])
    (hd : roomiest s ((List.range 4).filter fun c => c != x.primary / 131072 && chanDirty s c) = some d)
    (h2 : 2 ≤ ((List.range 4).filter fun q => chanDirty s q).length) :
    doReDuplex s = ({ (takeFrame d s).2 with cs.tags := nset k { x with duplex := some (takeFrame d s).1 } s.cs.tags } : State).log 0x4008 noDev [0, 1, 0, 0, 0] := by
  unfold singleLines at h
  unfold doReDuplex
  rw [h]
  simp only [List.foldl_cons, List.foldl_nil, hd]
  have hn : leBytes 4 1 = [1, 0, 0, 0] := by decide
  rw [if_pos ⟨by simp, h2⟩, List.length_singleton, hn]
  rfl

/-! ### The probe (R255) -/

/-- The line number that the probe registers name. -/
def probeLine (s : State) : Nat := s.get Reg.Cc.PROBE_LINE_LO + 2 ^ 32 * s.get Reg.Cc.PROBE_LINE_HI

/-- The set of that line, its tag entry, and its entry of the eviction buffer. -/
def probeSet (s : State) : Nat := lineSet s (s.get Reg.Cc.PROBE_KIND) (s.get Reg.Cc.PROBE_SIG) (probeLine s)
def probeTag (s : State) : Option (Nat × Line) := findTag s (s.get Reg.Cc.PROBE_KIND) (s.get Reg.Cc.PROBE_SIG) (probeLine s)
def probeEvb (s : State) : Option (Nat × EvbEnt) := findEvb s (s.get Reg.Cc.PROBE_KIND) (s.get Reg.Cc.PROBE_SIG) (probeLine s)

/-- The fields in which a probe shows what it finds. -/
def probeFields : List FieldSpec :=
  [Reg.Cc.PROBE_SET, Reg.Cc.PROBE_WAY, Reg.Cc.PROBE_AGE, Reg.Cc.PROBE_HIT, Reg.Cc.PROBE_DIRTY, Reg.Cc.PROBE_EVB, Reg.Cc.PROBE_PIN, Reg.Cc.PROBE_FRAME,
    Reg.Cc.PROBE_DUPLEX, Reg.Cc.PROBE_DUP_VALID]

/-- What they show of a line in a set of so many ways, held in a tag entry or in the eviction buffer. -/
def probeValues (set ways : Nat) (hit : Option (Nat × Line)) (held : Option Line) : List Nat :=
  let x := hit.map (·.2) <|> held
  let b (v : Bool) : Nat := if v then 1 else 0
  [set, (hit.map fun p => p.1 % ways).getD 0, (x.map (·.age)).getD 0, b hit.isSome, b (x.any Line.dirty), b held.isSome, b (x.any fun x => x.pin || x.retain),
    (x.map (·.primary)).getD 0, (x.bind (·.duplex)).getD 0, b (x.any fun x => x.duplex.isSome && x.dirty)]

theorem probeFields_apart : Apart probeFields := by decide

theorem caseWays_of_get (h : t.get Reg.Cc.WAYS_CODE = s.get Reg.Cc.WAYS_CODE) : caseWays t = caseWays s := by
  unfold caseWays
  rw [h]

theorem lineSet_of_get (h : t.get Reg.Cc.WAYS_CODE = s.get Reg.Cc.WAYS_CODE) (kind sig l : Nat) : lineSet t kind sig l = lineSet s kind sig l := by
  unfold lineSet caseSets
  rw [caseWays_of_get h]

theorem findTag_of_get (h : t.get Reg.Cc.WAYS_CODE = s.get Reg.Cc.WAYS_CODE) (hc : t.cs = s.cs) (kind sig l : Nat) : findTag t kind sig l = findTag s kind sig l := by
  unfold findTag
  rw [caseWays_of_get h, lineSet_of_get h, hc]

/-- The request bit names no line. -/
theorem doProbeGo_eq (s : State) : doProbeGo s =
    latchAt 0 probeFields (probeValues (probeSet s) (caseWays s) (probeTag s) ((probeEvb s).map fun p => p.2.line)) (s.pulse Reg.Cc.PROBE_GO) := by
  have hw : (s.pulse Reg.Cc.PROBE_GO).get Reg.Cc.WAYS_CODE = s.get Reg.Cc.WAYS_CODE := get_pulse_ne (by decide) s
  have hw' (v : Nat) : ((s.pulse Reg.Cc.PROBE_GO).put Reg.Cc.PROBE_SET v).get Reg.Cc.WAYS_CODE = s.get Reg.Cc.WAYS_CODE :=
    (get_put_ne (by decide) _ v).trans hw
  have hk : (s.pulse Reg.Cc.PROBE_GO).get Reg.Cc.PROBE_KIND = s.get Reg.Cc.PROBE_KIND := get_pulse_ne (by decide) s
  have hg : (s.pulse Reg.Cc.PROBE_GO).get Reg.Cc.PROBE_SIG = s.get Reg.Cc.PROBE_SIG := get_pulse_ne (by decide) s
  have hlo : (s.pulse Reg.Cc.PROBE_GO).get Reg.Cc.PROBE_LINE_LO = s.get Reg.Cc.PROBE_LINE_LO := get_pulse_ne (by decide) s
  have hhi : (s.pulse Reg.Cc.PROBE_GO).get Reg.Cc.PROBE_LINE_HI = s.get Reg.Cc.PROBE_LINE_HI := get_pulse_ne (by decide) s
  simp only [doProbeGo, hk, hg, hlo, hhi, findTag_of_get hw rfl, lineSet_of_get hw, caseWays_of_get (hw' _), State.putB, probeFields, probeValues,
    latchAt_cons, latchAt_nil]
  rfl

/-- A probe stores its row of fields and nothing else but its request bit. -/
theorem Gives.probe {P : State → Prop} (hl : Live s) {tag : Option (Nat × Line)} {held : Option (Nat × EvbEnt)} (ht : probeTag s = tag) (he : probeEvb s = held)
    (h : ∀ t, (∀ p ∈ probeFields.zip (probeValues (probeSet s) (caseWays s) tag (held.map fun p => p.2.line)), t.get p.1 = p.2 % 2 ^ p.1.w) →
      RegsBut (Reg.Cc.PROBE_GO.key 0 :: probeFields.map (·.key 0)) s t → t = { s with rf := t.rf } → P t) : Gives .probeGo s P := by
  refine Gives.on (f := doProbeGo) rfl hl ?_
  rw [doProbeGo_eq, ht, he]
  refine h _ (get_latchAt ((Rwf.live hl).pulse _ _) probeFields_apart le_rfl 0) ?_ (latchAt_parts _ _ _ _)
  exact ((RegsBut.refl _ s).pulse _ _ (by simp)).latchAt (fun F hF => List.mem_cons_of_mem _ (List.mem_map_of_mem hF)) _

/-- Settles O49: each command by the case that its guard meets. -/
theorem caseAsACache : Obligations.CaseAsACache := by
  unfold Obligations.CaseAsACache
  refine ⟨?ages, ?aged, ?reclaims, ?rests, ?drops, ?stays, ?duplex, ?hit, ?evicted, ?absent⟩
  case ages =>
    intro s hl hp hm hn
    exact Gives.on (f := doAgeIncrement) rfl hl (doAgeIncrement_due hp hm hn)
  case aged =>
    intro s hl h
    exact congrArg Host.Outcome.next ((whenOn_on _ hl.power).trans (doAgeIncrement_done h))
  case reclaims =>
    intro s c k x hl hc hfree halone helig hold hret hhome hroom hj
    have hv : LoneVictim c.val k x s := ⟨halone, helig, hold, hret, hhome, hroom⟩
    refine Gives.on (f := doReclaim c.val) rfl hl ?_
    rw [doReclaim_runs hc (.inl hfree), hv.reclaimWalk (by omega) hj, freeFrames_lineTaken, decide_eq_true (by omega : freeFrames s c.val < 512)]
    exact ⟨rfl, get_bump_eq (.same (.live hl) rfl) _ _ _, (((RegsBut.refl _ s).same rfl).bump Reg.Cc.VICTIMS 1 0 (by simp)).same rfl, rfl⟩
  case rests =>
    intro s c hl hc hfree hrec
    refine Gives.on (f := doReclaim c.val) rfl hl ?_
    rw [doReclaim_runs hc (.inr hrec), reclaimWalk_rests hfree, decide_eq_false (by omega : ¬freeFrames s c.val < 512)]
    rfl
  case drops =>
    intro s i e hl hi hw ha hp
    refine Gives.on (f := doEvbDrop i) rfl hl ?_
    rw [doEvbDrop_leaves hi hw ha hp]
    refine ⟨rfl, fun d => chan_giveFrames e.line.frames s d, ?_⟩
    rw [giveFrames_parts]
  case stays =>
    intro s i e hl hi ha
    exact congrArg Host.Outcome.next ((whenOn_on _ hl.power).trans (doEvbDrop_stays hi ha))
  case duplex =>
    intro s k d x hl h hd h2
    refine Gives.on (f := doReDuplex) rfl hl ?_
    rw [doReDuplex_one h hd h2]
    exact ⟨rfl, rfl, rfl, rfl⟩
  case hit =>
    intro s k x hl ht he
    refine Gives.probe hl ht he fun t hg hb hp => ?_
    simp only [probeFields, probeValues, List.zip_cons_cons, List.forall_mem_cons] at hg
    obtain ⟨hset, hway, hage, hhit, hdirty, hevb, hpin, hframe, hduplex, hvalid, -⟩ := hg
    exact ⟨hhit, hevb, hset, hway, hage, hdirty.trans (bit_mod_two _), hpin.trans (bit_mod_two _), hframe, hduplex, hvalid.trans (bit_mod_two _), hb, hp⟩
  case evicted =>
    intro s i e hl ht he
    refine Gives.probe hl ht he fun t hg hb hp => ?_
    simp only [probeFields, probeValues, List.zip_cons_cons, List.forall_mem_cons] at hg
    obtain ⟨hset, hway, hage, hhit, hdirty, hevb, -, hframe, -, -, -⟩ := hg
    exact ⟨hhit, hevb, hset, hway, hage, hdirty.trans (bit_mod_two _), hframe, hb, hp⟩
  case absent =>
    intro s hl ht he
    refine Gives.probe hl ht he fun t hg hb hp => ?_
    simp only [probeFields, probeValues, List.zip_cons_cons, List.forall_mem_cons] at hg
    obtain ⟨-, -, -, hhit, hdirty, hevb, hpin, -, -, hvalid, -⟩ := hg
    exact ⟨hhit, hevb, hdirty, hpin, hvalid, hb, hp⟩

end Sys2Proof.Machine
end

section
/-!
SUPPORT. The range engines (R250 to R254): how an operation starts, what a visit does with a clean line and with one in a transfer, the lines that wait,
and the end.
-/

namespace Sys2Proof.Machine

variable {s t u : State} {e k l n : Nat} {r : RangeRun} {x : Line}

theorem RegsBut.setCase {ks : List Nat} (h : RegsBut ks s t) (c : Case) : RegsBut ks s { t with cs := c } := h.same rfl

/-- Only the register file, the Case and the Errata log change. -/
def RangeOnly (s t : State) : Prop := t = { s with rf := t.rf, cs := t.cs, el := t.el }

theorem RangeOnly.trans (h : RangeOnly s t) (h' : RangeOnly t u) : RangeOnly s u := by
  unfold RangeOnly at *
  rw [h', h]

theorem RangeOnly.putB (h : RangeOnly s t) (F : FieldSpec) (b : Bool) (i : Nat) : RangeOnly s (t.putB F b i) := h.trans rfl
theorem RangeOnly.raise (h : RangeOnly s t) (F : FieldSpec) (i : Nat) : RangeOnly s (t.raise F i) := h.trans rfl
theorem RangeOnly.logRange (h : RangeOnly s t) (e n : Nat) (r : RangeRun) : RangeOnly s (logRange e r n t) := h.trans rfl

/-- Where nothing is recorded, the log stays too. -/
theorem RangeOnly.quiet (h : RangeOnly s t) (hel : t.el = s.el) : t = { s with rf := t.rf, cs := t.cs } := by
  rw [RangeOnly, hel] at h
  exact h

/-! ### The start (R251) -/

/-- The first block and the number of blocks that the registers of an engine name. -/
def rangeStart (s : State) (e : Nat) : Nat := s.get Reg.Cc.RE_START_LO e + 2 ^ 32 * s.get Reg.Cc.RE_START_HI e
def rangeCount (s : State) (e : Nat) : Nat := s.get Reg.Cc.RE_COUNT_LO e + 2 ^ 32 * s.get Reg.Cc.RE_COUNT_HI e

/-- The operation that those registers name. -/
def rangeNamed (s : State) (e : Nat) : RangeRun :=
  ⟨s.get Reg.Cc.RE_OP e, s.get Reg.Cc.RE_SIG e, rangeStart s e / 128, (rangeStart s e + rangeCount s e - 1) / 128, rangeStart s e, rangeCount s e,
    rangeStart s e / 128, [], [], [], false⟩

/-- The fields that the start of an operation stores. -/
def rangeFields : List FieldSpec :=
  [Reg.Cc.RE_BUSY, Reg.Cc.RE_LINES, Reg.Cc.RE_SKIPPED, Reg.Cc.RE_WAITS, Reg.Cc.RE_DISCARDED, Reg.Cc.RE_POS_LO, Reg.Cc.RE_POS_HI]

theorem rangeFields_apart : Apart rangeFields := by decide

/-- The request bit is no operand. -/
theorem rangeOperands_pulse (s : State) (e : Nat) : ∀ F ∈ [Reg.Cc.RE_SIG, Reg.Cc.RE_OP, Reg.Cc.RE_START_LO, Reg.Cc.RE_START_HI, Reg.Cc.RE_COUNT_LO, Reg.Cc.RE_COUNT_HI],
    (s.pulse Reg.Cc.RE_GO e).get F e = s.get F e := by
  simp only [List.forall_mem_cons, List.not_mem_nil, false_implies, implies_true, and_true]
  exact ⟨get_pulse_ne (key_ne_of_place e) s, get_pulse_ne (key_ne_of_place e) s, get_pulse_ne (key_ne_of_place e) s, get_pulse_ne (key_ne_of_place e) s,
    get_pulse_ne (key_ne_of_place e) s, get_pulse_ne (key_ne_of_place e) s⟩

/-- What R251 refuses an operation for. -/
def rangeRefused (s : State) (e : Nat) : Bool :=
  (nfind e s.cs.engines).isSome || !(s.core.mode == .pressRun || s.core.mode == .maintenance) || !(s.sigSt (s.get Reg.Cc.RE_SIG e)).inService ||
    rangeCount s e == 0 ||
    decide (rangeStart s e + rangeCount s e > (s.sigSt (s.get Reg.Cc.RE_SIG e)).sheets * ((impOf s (s.get Reg.Cc.RE_SIG e)).map (·.sheetBlocks)).getD 0) ||
    decide (s.get Reg.Cc.RE_OP e > 4) || (s.get Reg.Cc.RE_OP e == 4 && !s.bit Reg.Cc.DISCARD_OK)

/-- The operation begins at its first line, with its counts at zero. -/
def rangeBegun (e : Nat) (s : State) : State :=
  latchAt e rangeFields [1, 0, 0, 0, 0, rangeStart s e / 128 % 2 ^ 32, rangeStart s e / 128 / 2 ^ 32]
    { s.pulse Reg.Cc.RE_GO e with cs.engines := nset e (rangeNamed s e) s.cs.engines }

theorem doReGo_eq (e : Nat) (s : State) : doReGo e s = if rangeRefused s e then (s.pulse Reg.Cc.RE_GO e).raise Reg.Cc.RE_REFUSED else rangeBegun e s := by
  have ho := rangeOperands_pulse s e
  simp only [List.forall_mem_cons] at ho
  obtain ⟨hsig, hop, hslo, hshi, hclo, hchi, -⟩ := ho
  have hok : (s.pulse Reg.Cc.RE_GO e).bit Reg.Cc.DISCARD_OK = s.bit Reg.Cc.DISCARD_OK := by
    unfold State.bit
    rw [get_pulse_ne (key_ne_of_below e)]
  unfold doReGo
  simp only [hsig, hop, hslo, hshi, hclo, hchi, hok, rangeBegun, rangeFields, latchAt_cons, latchAt_nil]
  rfl

/-- What R251 asks of an operation other than a discard. -/
structure RangeFits (s : State) (e : Nat) (i : Imposition) : Prop where
  mode : s.core.mode = .pressRun ∨ s.core.mode = .maintenance
  idle : nfind e s.cs.engines = none
  inService : (s.sigSt (s.get Reg.Cc.RE_SIG e)).inService = true
  imposed : impOf s (s.get Reg.Cc.RE_SIG e) = some i
  nonempty : 0 < rangeCount s e
  inside : rangeStart s e + rangeCount s e ≤ (s.sigSt (s.get Reg.Cc.RE_SIG e)).sheets * i.sheetBlocks
  op : s.get Reg.Cc.RE_OP e < 4

theorem RangeFits.not_refused {i : Imposition} (h : RangeFits s e i) : rangeRefused s e = false := by
  have hmode : (s.core.mode == .pressRun || s.core.mode == .maintenance) = true := by simpa using h.mode
  simp [rangeRefused, h.idle, hmode, h.inService, h.imposed, h.nonempty.ne', h.inside, h.op.le, h.op.ne]

/-- Elsewhere than in PRESS_RUN and MAINTENANCE every operation is refused. -/
theorem rangeRefused_of_mode (h1 : s.core.mode ≠ .pressRun) (h2 : s.core.mode ≠ .maintenance) (e : Nat) : rangeRefused s e = true := by
  simp [rangeRefused, h1, h2]

/-! ### Clean lines leave (R248, R252) -/

/-- A clean line of tag entry k leaves its set as a drop for an engine, and counts. -/
def lineDropped (e k : Nat) (x : Line) (s : State) : State :=
  ({ s with cs.tags := ndel k s.cs.tags, cs.evb := nset (nfresh s.cs.evb 0) ⟨x, false, s.core.imp, some e⟩ s.cs.evb } : State).bump Reg.Cc.RE_LINES 1 e

theorem get_lineDropped (hw : Rwf s) (e k : Nat) (x : Line) :
    (lineDropped e k x s).get Reg.Cc.RE_LINES e = min (s.get Reg.Cc.RE_LINES e + 1) (2 ^ Reg.Cc.RE_LINES.w - 1) := get_bump_eq (hw.same rfl) _ _ _

theorem RegsBut.lineDropped {ks : List Nat} (h : RegsBut ks s t) (m : Reg.Cc.RE_LINES.key e ∈ ks) (k : Nat) (x : Line) :
    RegsBut ks s (lineDropped e k x t) := (h.setCase _).bump _ _ _ m

theorem rangeOnly_lineDropped (e k : Nat) (x : Line) (s : State) : RangeOnly s (lineDropped e k x s) := rfl

/-- A line that an invalidation drops: present in tag entry k, clean, free of updates and of what holds it, while the eviction buffer has room. -/
structure Droppable (g l k : Nat) (x : Line) (s : State) : Prop where
  found : findTag s 0 g l = some (k, x)
  clean : x.dirty = false
  still : (x.cells.any fun c => c.2.upd.isSome || c.2.shadow.isSome) = false
  unpinned : x.pin = false
  loose : x.retain = false
  room : s.cs.evb.length < 64
  engineRoom : (s.cs.evb.filter fun p => p.2.engine.isSome).length < 32

theorem Droppable.dropLine {g : Nat} (h : Droppable g l k x s) (e : Nat) : Machine.dropLine e k x s = some (lineDropped e k x s) := by
  unfold Machine.dropLine
  rw [evict_room x false h.room fun _ => h.engineRoom]
  rfl

/-- An invalidation drops it. -/
theorem Droppable.rangeLine (h : Droppable r.sig l k x s) (hop : r.op = 1) : Machine.rangeLine e r l s = some (lineDropped e k x s) := by
  unfold Machine.rangeLine
  simp [h.found, h.clean, h.still, h.unpinned, h.loose, hop, h.dropLine]

/-! ### Visits (R250, R253) -/

theorem engine_updEngine (f : RangeRun → RangeRun) (h : nfind e s.cs.engines = some r) : nfind e (updEngine e f s).cs.engines = some (f r) := by
  unfold updEngine
  rw [nfind_nmapv, h]
  simp

theorem updEngine_updEngine (f g : RangeRun → RangeRun) (e : Nat) (s : State) : updEngine e g (updEngine e f s) = updEngine e (g ∘ f) s := by
  unfold updEngine
  simp only [nmapv_nmapv]
  congr! 4 with i y
  by_cases h : i = e <;> simp [h]

theorem rangeOnly_updEngine (e : Nat) (f : RangeRun → RangeRun) (s : State) : RangeOnly s (updEngine e f s) := rfl

/-- An engine that has visited its lines visits no more. -/
theorem visitN_over (h : nfind e s.cs.engines = some r) (hp : r.last < r.pos) (n : Nat) : visitN e n s = s := by
  cases n with
  | zero => rfl
  | succ n =>
    unfold visitN
    rw [h]
    exact if_pos (.inl hp)

/-- A line in no transfer is acted on, and the engine goes on to the next. -/
theorem visitN_acts (h : nfind e s.cs.engines = some r) (hp : r.pos ≤ r.last) (hpark : r.parked.length < 16) (hb : lineBusy s r.sig r.pos = false)
    (ht : rangeLine e r r.pos s = some t) (n : Nat) : visitN e (n + 1) s = visitN e n (updEngine e (fun y => { y with pos := y.pos + 1 }) t) := by
  conv_lhs => unfold visitN
  rw [h]
  dsimp only
  rw [if_neg (by omega), if_neg (by simp [hb]), ht]

/-- A line in a transfer is parked and counts as a wait, and the engine goes on to the next. -/
def lineParked (e l : Nat) (s : State) : State :=
  (updEngine e (fun y => { y with parked := y.parked ++ [l], pos := y.pos + 1 }) s).bump Reg.Cc.RE_WAITS 1 e

theorem get_lineParked (hw : Rwf s) (e l : Nat) :
    (lineParked e l s).get Reg.Cc.RE_WAITS e = min (s.get Reg.Cc.RE_WAITS e + 1) (2 ^ Reg.Cc.RE_WAITS.w - 1) := get_bump_eq (hw.same rfl) _ _ _

theorem RegsBut.lineParked {ks : List Nat} (h : RegsBut ks s t) (m : Reg.Cc.RE_WAITS.key e ∈ ks) (l : Nat) : RegsBut ks s (lineParked e l t) :=
  (h.setCase _).bump _ _ _ m

theorem rangeOnly_lineParked (e l : Nat) (s : State) : RangeOnly s (lineParked e l s) := (rangeOnly_updEngine _ _ s).trans rfl

theorem visitN_parks (h : nfind e s.cs.engines = some r) (hp : r.pos ≤ r.last) (hpark : r.parked.length < 16) (hb : lineBusy s r.sig r.pos = true)
    (n : Nat) : visitN e (n + 1) s = visitN e n (lineParked e r.pos s) := by
  conv_lhs => unfold visitN
  rw [h]
  dsimp only
  rw [if_neg (by omega), if_pos hb]
  exact congrArg (fun t : State => visitN e n (t.bump Reg.Cc.RE_WAITS 1 e)) (updEngine_updEngine _ _ e s)

/-- The position of an engine is shown. -/
def posShown (e n : Nat) (s : State) : State := (s.put Reg.Cc.RE_POS_LO (n % 2 ^ 32) e).put Reg.Cc.RE_POS_HI (n / 2 ^ 32) e

theorem get_posShown (hw : Rwf s) (e n : Nat) :
    (posShown e n s).get Reg.Cc.RE_POS_LO e = n % 2 ^ 32 ∧ (posShown e n s).get Reg.Cc.RE_POS_HI e = n / 2 ^ 32 % 2 ^ 32 :=
  ⟨(get_put_ne (key_ne_of_place e) _ _).trans ((get_put_eq hw _ _ _).trans (Nat.mod_mod _ _)), get_put_eq (hw.put _ _ _) _ _ _⟩

theorem get_posShown_ne {F : FieldSpec} (hlo : F.key e ≠ Reg.Cc.RE_POS_LO.key e) (hhi : F.key e ≠ Reg.Cc.RE_POS_HI.key e) (n : Nat) (s : State) :
    (posShown e n s).get F e = s.get F e := (get_put_ne hhi _ _).trans (get_put_ne hlo _ _)

theorem RegsBut.posShown {ks : List Nat} (h : RegsBut ks s t) (hlo : Reg.Cc.RE_POS_LO.key e ∈ ks) (hhi : Reg.Cc.RE_POS_HI.key e ∈ ks) (n : Nat) :
    RegsBut ks s (posShown e n t) := (h.put _ _ _ hlo).put _ _ _ hhi

theorem rangeOnly_posShown (e n : Nat) (s : State) : RangeOnly s (posShown e n s) := rfl

/-- The last visit of an operation: whatever it makes of its line, the position is shown and no other line is visited. -/
theorem doRangeVisit_last (hm : s.core.mode = .pressRun) (hu : nfind e u.cs.engines = some r) (hp : r.last < r.pos)
    (hv : visitN e 64 s = visitN e 63 u) : doRangeVisit e s = posShown e r.pos u := by
  unfold doRangeVisit
  rw [if_pos (.inl hm)]
  dsimp only
  rw [hv, visitN_over hu hp, hu]
  rfl

/-! ### Lines that waited (R253) -/

theorem doParkedLineApply_acts (h : nfind e s.cs.engines = some r) (hl : r.parked.contains l = true) (hb : lineBusy s r.sig l = false)
    (hm : s.core.mode = .pressRun) (ht : rangeLine e r l s = some t) :
    doParkedLineApply e l s = updEngine e (fun y => { y with parked := y.parked.erase l }) t := by
  unfold doParkedLineApply
  rw [h]
  dsimp only
  rw [if_pos ⟨hl, by simp [hb], .inl hm⟩, ht]

/-! ### The end (R254) -/

/-- The event bit of an engine. -/
abbrev doneField (e : Nat) : FieldSpec := if e = 0 then Reg.Cc.RE0_DONE else Reg.Cc.RE1_DONE

theorem one_mod_doneField (e : Nat) : 1 % 2 ^ (doneField e).w = 1 := by
  unfold doneField
  split <;> rfl

theorem busy_ne_done (e : Nat) : Reg.Cc.RE_BUSY.key e ≠ (doneField e).key 0 := by
  unfold doneField
  split
  · exact (key_ne_of_below e).symm
  · exact (key_ne_of_below e).symm

theorem doRangeComplete_over (h : nfind e s.cs.engines = some r) (ho : rangeOver s e r = true) : doRangeComplete e s =
    logRange e r 0 ((({ s with cs.engines := ndel e s.cs.engines } : State).putB Reg.Cc.RE_BUSY false e).raise (doneField e)) := by
  unfold doRangeComplete
  rw [h]
  exact if_pos ho

/-- Settles O50: the start by what R251 asks, a visit and a parked line by what their line is, and the end. -/
theorem rangeEngines : Obligations.RangeEngines := by
  unfold Obligations.RangeEngines
  refine ⟨?starts, ?refused, ?drops, ?parks, ?applies, ?ends⟩
  case starts =>
    intro s e i hl hm hidle hserv himp hn hin hop
    have hfit : RangeFits s e.val i := ⟨hm, hidle, hserv, himp, hn, hin, hop⟩
    refine Gives.on (f := doReGo e.val) rfl hl ?_
    rw [doReGo_eq, hfit.not_refused, if_neg (by simp)]
    have hw : Rwf { s.pulse Reg.Cc.RE_GO e.val with cs.engines := nset e.val (rangeNamed s e.val) s.cs.engines } := (Rwf.live hl).pulse Reg.Cc.RE_GO e.val
    have hg := get_latchAt hw rangeFields_apart (vs := [1, 0, 0, 0, 0, rangeStart s e.val / 128 % 2 ^ 32, rangeStart s e.val / 128 / 2 ^ 32]) le_rfl e.val
    simp only [rangeFields, List.zip_cons_cons, List.forall_mem_cons] at hg
    obtain ⟨hbusy, hlines, hskip, hwaits, hdisc, hlo, hhi, -⟩ := hg
    refine ⟨?_, hbusy, hlines, hskip, hwaits, hdisc, hlo.trans (Nat.mod_mod _ _), hhi, ?_, ?_⟩
    · rw [rangeBegun, latchAt_parts]
      rfl
    · exact (((RegsBut.refl _ s).pulse _ _ (by simp)).setCase _).latchAt (by simp [rangeFields]) _
    · rw [rangeBegun, latchAt_parts]
      rfl
  case refused =>
    intro s e hl h1 h2
    refine Gives.on (f := doReGo e.val) rfl hl ?_
    rw [doReGo_eq, rangeRefused_of_mode h1 h2, if_pos rfl]
    exact ⟨get_raise_eq ((Rwf.live hl).pulse _ _) _ _, ((RegsBut.refl _ s).pulse _ _ (by simp)).raise _ _ (by simp), rfl⟩
  case drops =>
    intro s e r k x hl hm hr hop hpos hpark hb hf hclean hstill hpin hret hroom heng
    have hd : Droppable r.sig r.pos k x s := ⟨hf, hclean, hstill, hpin, hret, hroom, heng⟩
    refine Gives.on (f := doRangeVisit e.val) rfl hl ?_
    have hu := engine_updEngine (s := lineDropped e.val k x s) (fun y => { y with pos := y.pos + 1 }) hr
    rw [doRangeVisit_last hm hu (Nat.lt_succ_of_le hpos.ge) (visitN_acts hr hpos.le hpark hb (hd.rangeLine hop) 63)]
    have hw : Rwf (lineDropped e.val k x s) := Rwf.bump (.same (.live hl) rfl) _ _ _
    obtain ⟨hlo, hhi⟩ := get_posShown (s := updEngine e.val (fun y => { y with pos := y.pos + 1 }) (lineDropped e.val k x s)) hw e.val (r.pos + 1)
    refine ⟨rfl, ?_, hlo, hhi, ?_, (((rangeOnly_lineDropped _ _ _ s).trans (rangeOnly_updEngine _ _ _)).trans (rangeOnly_posShown _ _ _)).quiet rfl⟩
    · rw [get_posShown_ne (key_ne_of_place _) (key_ne_of_place _)]
      exact get_lineDropped (.live hl) _ _ _
    · exact (((RegsBut.refl _ s).lineDropped (by simp) _ _).setCase _).posShown (by simp) (by simp) _
  case parks =>
    intro s e r hl hm hr hpos hpark hb
    refine Gives.on (f := doRangeVisit e.val) rfl hl ?_
    have hu : nfind e.val (lineParked e.val r.pos s).cs.engines = some { r with parked := r.parked ++ [r.pos], pos := r.pos + 1 } := engine_updEngine _ hr
    rw [doRangeVisit_last hm hu (Nat.lt_succ_of_le hpos.ge) (visitN_parks hr hpos.le hpark hb 63)]
    obtain ⟨hlo, hhi⟩ := get_posShown (s := lineParked e.val r.pos s) (Rwf.bump (.same (.live hl) rfl) _ _ _) e.val (r.pos + 1)
    refine ⟨rfl, ?_, hlo, hhi, ?_, ((rangeOnly_lineParked _ _ s).trans (rangeOnly_posShown _ _ _)).quiet rfl⟩
    · rw [get_posShown_ne (key_ne_of_place _) (key_ne_of_place _)]
      exact get_lineParked (.live hl) _ _
    · exact ((RegsBut.refl _ s).lineParked (by simp) _).posShown (by simp) (by simp) _
  case applies =>
    intro s e l r k x hl hm hr hop hin hb hf hclean hstill hpin hret hroom heng
    have hd : Droppable r.sig l k x s := ⟨hf, hclean, hstill, hpin, hret, hroom, heng⟩
    refine Gives.on (f := doParkedLineApply e.val l) rfl hl ?_
    rw [doParkedLineApply_acts hr hin hb hm (hd.rangeLine hop)]
    exact ⟨rfl, get_lineDropped (.live hl) _ _ _, ((RegsBut.refl _ s).lineDropped (by simp) _ _).setCase _, rfl⟩
  case ends =>
    intro s e r hl hr ho
    refine Gives.on (f := doRangeComplete e.val) rfl hl ?_
    rw [doRangeComplete_over hr ho]
    have hw : Rwf { s with cs.engines := ndel e.val s.cs.engines } := .same (.live hl) rfl
    refine ⟨rfl, (get_raise_ne (busy_ne_done _) _).trans (get_putB_eq hw _ _ _),
      (get_raise_eq (hw.putB _ _ _) _ _).trans (one_mod_doneField _), rfl, ?_, ?_⟩
    · exact ((((RegsBut.refl _ s).setCase _).putB _ _ _ (by simp)).raise _ _ (by simp [doneField])).log _ _ _
    · have hcs : RangeOnly s { s with cs.engines := ndel e.val s.cs.engines } := rfl
      exact ((hcs.putB _ _ _).raise _ _).logRange _ _ _

end Sys2Proof.Machine
end

section
/-!
SUPPORT. The upkeep of the Case (R261, R263, R266 to R274): the scrubber and its laps, a row test without a mismatch, the lines of a clean-only channel,
the merge buffer over the test window, the end of test mode, and a new generation of the repair map.
-/

namespace Sys2Proof.Machine

variable {s t : State} {a c k n w : Nat} {x : Line} {m : MergeEnt} {old : List Nat}

/-! ### Commands that settle what waits -/

/-- With no SAFE entry and no cast due, nothing waits at the boundary. -/
theorem settleCore_quiet (hsafe : s.core.safeDue = none) (hdue : s.cast.due = none) : settleCore s = s := by
  unfold settleCore tryCast
  rw [hsafe, hdue]
  exact ite_self s

/-- A meaning that makes nothing due is all that its command does. -/
theorem Gives.settled {i : Instr} {f : State → State} {P : State → Prop} (e : exec i s = .next (whenOn (fun s => settleCore (f s)) s)) (hl : Live s)
    (hsafe : (f s).core.safeDue = none) (hdue : (f s).cast.due = none) (h : P (f s)) : Gives i s P :=
  Gives.on e hl (by rwa [settleCore_quiet hsafe hdue])

/-! ### The patrol scrubber (R266) -/

/-- The scrubber of a channel is at work, and a word is one that it reads. -/
structure ScrubReads (c w : Nat) (s : State) : Prop where
  on : s.get Reg.Ecc.SCRUB_EN = 1
  inService : (s.chan c).st ≤ 2
  notCast : s.core.mode ≠ .cast
  notCastDone : s.core.mode ≠ .castDone
  read : scrubSkips s c w = false

/-- The frame of a word and the time of the lap are shown. -/
def scrubShown (c w : Nat) (s : State) : State :=
  (s.put Reg.Ecc.SCRUB_POS (wordFrame w) c).put Reg.Ecc.SCRUB_ELAPSED (impMs (s.since (s.chan c).lapAt)) c

/-- A clean word before the last burst of a channel. -/
theorem ScrubReads.clean (hr : ScrubReads c w s) (hw : w < 2 ^ 32 - 16) (h : WordHolds) :
    doPatrolScrub c .clean h w s = scrubShown c w (if wordFrame w < s.get Reg.Ecc.SCRUB_POS c then endScrubLap c s else s) := by
  have hen : s.bit Reg.Ecc.SCRUB_EN = true := by simp [State.bit, hr.on]
  unfold doPatrolScrub
  rw [if_pos ⟨hen, hr.inService, hr.notCast, hr.notCastDone, by simp [hr.read]⟩]
  dsimp only
  rw [if_neg (Nat.not_le.mpr hw)]
  rfl

/-- The frame of such a word fits its field. -/
theorem wordFrame_mod (hw : w < 2 ^ 32 - 16) : wordFrame w % 2 ^ Reg.Ecc.SCRUB_POS.w = wordFrame w :=
  Nat.mod_eq_of_lt (by show w / 32768 < 2 ^ 17; omega)

theorem get_scrubShown_pos (hs : Rwf s) (hw : w < 2 ^ 32 - 16) (c : Nat) : (scrubShown c w s).get Reg.Ecc.SCRUB_POS c = wordFrame w :=
  (get_put_ne (key_ne_of_place c) _ _).trans ((get_put_eq hs _ _ _).trans (wordFrame_mod hw))

theorem get_scrubShown_elapsed (hs : Rwf s) (c w : Nat) :
    (scrubShown c w s).get Reg.Ecc.SCRUB_ELAPSED c = impMs (s.since (s.chan c).lapAt) % 2 ^ Reg.Ecc.SCRUB_ELAPSED.w := get_put_eq (hs.put _ _ _) _ _ _

theorem get_scrubShown_ne {F : FieldSpec} (hp : F.key c ≠ Reg.Ecc.SCRUB_POS.key c) (he : F.key c ≠ Reg.Ecc.SCRUB_ELAPSED.key c) (w : Nat) (s : State) :
    (scrubShown c w s).get F c = s.get F c := (get_put_ne he _ _).trans (get_put_ne hp _ _)

theorem RegsBut.scrubShown {ks : List Nat} (h : RegsBut ks s t) (hp : Reg.Ecc.SCRUB_POS.key c ∈ ks) (he : Reg.Ecc.SCRUB_ELAPSED.key c ∈ ks) (w : Nat) :
    RegsBut ks s (scrubShown c w t) := (h.put _ _ _ hp).put _ _ _ he

theorem Rwf.endScrubLap (h : Rwf s) (c : Nat) : Rwf (endScrubLap c s) := ((h.put _ _ _).put _ _ _).same rfl

theorem get_endScrubLap (h : Rwf s) (c : Nat) :
    (endScrubLap c s).get Reg.Ecc.SCRUB_LAST_LAP c = impMs (s.since (s.chan c).lapAt) % 2 ^ 32 ∧
      (endScrubLap c s).get Reg.Ecc.SCRUB_LAPS c = (s.get Reg.Ecc.SCRUB_LAPS c + 1) % 2 ^ 32 :=
  ⟨(get_put_ne (key_ne_of_place c) _ _).trans (get_put_eq h _ _ _), get_put_eq (h.put _ _ _) _ _ _⟩

theorem chan_endScrubLap (c : Nat) (s : State) (d : Nat) :
    (endScrubLap c s).chan d = if d = c then { s.chan c with lapAt := s.core.imp } else s.chan d := chan_setChan _ _ _ _

/-- A lap that has just begun has lasted no time. -/
theorem lap_begun (c : Nat) (s : State) : impMs ((endScrubLap c s).since ((endScrubLap c s).chan c).lapAt) = 0 := by
  rw [chan_endScrubLap, if_pos rfl]
  show (s.core.imp - s.core.imp) / 125 = 0
  rw [Nat.sub_self]

theorem RegsBut.endScrubLap {ks : List Nat} (h : RegsBut ks s t) (hl : Reg.Ecc.SCRUB_LAST_LAP.key c ∈ ks) (hn : Reg.Ecc.SCRUB_LAPS.key c ∈ ks) :
    RegsBut ks s (endScrubLap c t) := ((h.put _ _ _ hl).put _ _ _ hn).same rfl

/-! ### Self-tests (R268, R269) -/

/-- The test of the first row of a channel's queue ends, and that of the next begins. -/
def rowTested (c : Nat) (q : List RowTest) (s : State) : State :=
  s.setChan c { s.chan c with queue := q, testAt := if q.isEmpty then none else some s.core.imp }

/-- A test without a mismatch counts as a transient. -/
theorem judgeTest_nil (c : Nat) (r : RowTest) (s : State) :
    judgeTest c r [] s = (s.bump Reg.Ecc.TRANSIENTS 1 c).log 0x4003 (noDev + (c * 131072 + r.row)) [0] := rfl

theorem doCaseSelfTest_ends {r : RowTest} {q : List RowTest} (hq : (s.chan c).queue = r :: q) (ha : (s.chan c).testAt = some a)
    (hst : (s.chan c).st ≤ 2) (ht : 2 ≤ s.since a) (hm : s.core.mode = .pressRun) (bad : List DevMismatch) :
    doCaseSelfTest c bad s = judgeTest c r bad (rowTested c q s) := by
  have hcast : (q.isEmpty || (s.core.mode == .cast || s.core.mode == .castDone)) = q.isEmpty := by simp [hm]
  unfold doCaseSelfTest
  dsimp only
  rw [hq, ha]
  dsimp only
  rw [if_pos ⟨hst, ht⟩, hcast]
  rfl

/-! ### Lines leave a clean-only channel (R261) -/

/-- The roomiest channel is one of those asked for. -/
theorem roomiest_mem {cs : List Nat} {d : Nat} (h : roomiest s cs = some d) : d ∈ cs := by
  have hmem : ∀ e ∈ roomiest s cs, e ∈ cs := by
    refine List.foldlRecOn (motive := fun b : Option Nat => ∀ e ∈ b, e ∈ cs) cs _ (by simp) fun b hb q hq => ?_
    split
    · exact hb
    · cases b with
      | none => simpa using hq
      | some b =>
        dsimp only
        split
        · simpa using hq
        · exact hb
  exact hmem d h

/-- A line whose primary frame alone lies in channel c, and whose duplex frame lies in another. -/
structure PrimaryIn (c d : Nat) (x : Line) : Prop where
  primary : x.primary / 131072 = c
  duplex : x.duplex = some d
  apart : d / 131072 ≠ c
  noShadow : x.shFrames = []

/-- The channels that can take a frame of that line. -/
def dirtyRoom (s : State) (c d : Nat) : List Nat := (List.range 4).filter fun q => q != c && chanDirty s q && !([d / 131072].contains q)

theorem ne_of_roomiest_dirtyRoom {d : Nat} (h : roomiest s (dirtyRoom s c d) = some n) : n ≠ c := by
  have hn := (List.mem_filter.mp (roomiest_mem h)).2
  simp only [Bool.and_eq_true, bne_iff_ne] at hn
  obtain ⟨⟨hne, -⟩, -⟩ := hn
  exact hne

/-- Its primary frame moves to the roomiest of them. -/
def primaryMoved (n : Nat) (x : Line) (s : State) : Line × State :=
  ({ x with primary := (takeFrame n s).1 }, giveFrame x.primary (takeFrame n s).2)

theorem PrimaryIn.moveFrames {d : Nat} (h : PrimaryIn c d x) (hn : roomiest s (dirtyRoom s c d) = some n) :
    moveFrames c x s = some (primaryMoved n x s) := by
  have hc : (x.primary / 131072 == c) = true := by simp [h.primary]
  have hd : (d / 131072 == c) = false := by simp [h.apart]
  have hothers : ([x.primary] ++ [d]).filter (fun f => !(f / 131072 == c)) = [d] := by simp [hc, hd]
  unfold dirtyRoom at hn
  unfold Machine.moveFrames
  rw [h.duplex, h.noShadow, Option.toList_some]
  dsimp only
  rw [if_pos hc, hothers, List.map_singleton, hn]
  simp only [Option.map_some, Option.bind_some, hd, Bool.false_eq_true, if_false, List.foldl_nil]
  rw [primaryMoved, h.duplex, h.noShadow]

theorem PrimaryIn.doCleanOnlyCopy {d : Nat} (h : PrimaryIn c d x) (hst : (s.chan c).st = 2) (htags : s.cs.tags = [(k, x)]) (hd : x.dirty = true)
    (hn : roomiest s (dirtyRoom s c d) = some n) :
    doCleanOnlyCopy c s = { (primaryMoved n x s).2 with cs.tags := [(k, (primaryMoved n x s).1)] } := by
  have hset : nset k (primaryMoved n x s).1 (primaryMoved n x s).2.cs.tags = [(k, (primaryMoved n x s).1)] := by
    show nset k _ s.cs.tags = _
    simp [htags, nset]
  unfold Machine.doCleanOnlyCopy
  rw [if_pos hst, htags, List.foldl_cons, List.foldl_nil, htags, nfind_cons, if_pos rfl]
  dsimp only
  rw [hd, Bool.true_or, if_pos rfl, h.moveFrames hn]
  dsimp only
  rw [hset]

theorem chan_takeFrame_ne {q : Nat} (h : q ≠ n) : (takeFrame n s).2.chan q = s.chan q := (chan_setChan _ _ _ _).trans (if_neg h)

theorem chan_primaryMoved (n : Nat) (x : Line) (s : State) (q : Nat) : (primaryMoved n x s).2.chan q =
    { (takeFrame n s).2.chan q with used := usedAfter q [x.primary] ((takeFrame n s).2.chan q).used } := chan_giveFrame _ _ _

/-! ### Words of the test window (R257, R265) -/

theorem wf_nput (k v : Nat) {m : NMap Nat} (h : NMap.wf m) : NMap.wf (nput k v m) := by
  unfold nput
  split
  · exact NMap.wf_ndel _ h
  · exact NMap.wf_nset _ _ h

theorem wf_putWin (a dev : Nat) (bs : List Nat) (h : NMap.wf s.cs.win) : NMap.wf (putWin a dev bs s).cs.win :=
  foldl_keep NMap.wf _ _ h fun _ _ h => wf_nput _ _ h

/-- Storing one more symbol. -/
theorem putWin_concat (a dev : Nat) (bs : List Nat) (v : Nat) (s : State) : putWin a dev (bs ++ [v]) s =
    { putWin a dev bs s with cs.win := nput (a * 20 + dev + bs.length) (v % 256) (putWin a dev bs s).cs.win } := by
  unfold putWin
  rw [List.length_append, List.length_singleton, List.range_succ, List.zip_append (List.length_range), List.foldl_append]
  rfl

theorem putWin_append (a dev : Nat) (bs cs : List Nat) (s : State) : putWin a dev (bs ++ cs) s = putWin a (dev + bs.length) cs (putWin a dev bs s) := by
  induction cs using List.reverseRecOn with
  | nil =>
    rw [List.append_nil]
    rfl
  | append_singleton cs v ih =>
    rw [← List.append_assoc, putWin_concat, putWin_concat, ih, List.length_append, Nat.add_assoc, Nat.add_assoc, Nat.add_assoc]

/-- A symbol of the window after a store: the one stored there, or the one that was there. -/
theorem ngetD_putWin (h : NMap.wf s.cs.win) (a dev : Nat) (bs : List Nat) (k : Nat) : ngetD k 0 (putWin a dev bs s).cs.win =
    if a * 20 + dev ≤ k ∧ k < a * 20 + dev + bs.length then bs.getD (k - (a * 20 + dev)) 0 % 256 else ngetD k 0 s.cs.win := by
  induction bs using List.reverseRecOn with
  | nil =>
    rw [if_neg (by simp)]
    rfl
  | append_singleton bs v ih =>
    rw [putWin_concat]
    dsimp only
    by_cases hk : k = a * 20 + dev + bs.length
    · subst hk
      rw [ngetD_nput_self _ _ (wf_putWin a dev bs h), if_pos (by simp)]
      simp
    · rw [ngetD_nput_ne hk, ih, List.length_append, List.length_singleton]
      by_cases hin : a * 20 + dev ≤ k ∧ k < a * 20 + dev + bs.length
      · rw [if_pos hin, if_pos (by omega), List.getD_append _ _ _ _ (by omega)]
      · rw [if_neg hin, if_neg (by omega)]

/-- A word stored whole reads back. -/
theorem winWord_putWin_same (h : NMap.wf s.cs.win) {ws : List Nat} (hl : ws.length = 20) (a : Nat) : winWord (putWin a 0 ws s) a = ws.map (· % 256) := by
  refine List.ext_getElem (by simp [winWord, hl]) fun d hd hd' => ?_
  have hd20 : d < ws.length := by simpa using hd'
  simp only [winWord, List.getElem_map, List.getElem_range]
  rw [ngetD_putWin h, if_pos (by omega), Nat.add_zero, Nat.add_sub_cancel_left, List.getD_eq_getElem _ _ hd20]

/-- Every other word stays. -/
theorem winWord_putWin_ne (h : NMap.wf s.cs.win) {ws : List Nat} (hl : ws.length = 20) {b : Nat} (hb : b ≠ a) :
    winWord (putWin a 0 ws s) b = winWord s b := by
  refine List.map_congr_left fun d hd => ?_
  have hd20 := List.mem_range.mp hd
  rw [ngetD_putWin h, if_neg (by omega)]

theorem rsCheck_length (data : List Nat) : (rsCheck data).length = 4 := by
  unfold rsCheck
  rw [List.length_reverse]
  exact foldl_keep (fun r : List Nat => r.length = 4) rsStep _ rfl fun _ _ _ => rfl

/-- A word of 16 bytes is stored as 20 symbols. -/
theorem writeWord_eq {bs : List Nat} (hl : bs.length = 16) (a : Nat) (s : State) : writeWord a bs s = putWin a 0 (bs ++ rsCheck bs) s := by
  rw [putWin_append, hl]
  rfl

theorem codeWord_length {bs : List Nat} (hl : bs.length = 16) : (bs ++ rsCheck bs).length = 20 := by rw [List.length_append, hl, rsCheck_length]

/-! ### The merge buffer (R263) -/

/-- The bytes of an entry over those that its word holds. -/
def mergedBytes (m : MergeEnt) (old : List Nat) : List Nat := (List.range 16).map fun j => (nfind j m.bytes).getD (old.getD j 0)

theorem mergedBytes_length (m : MergeEnt) (old : List Nat) : (mergedBytes m old).length = 16 := by simp [mergedBytes]

theorem doMergeEntryFlush_old {i : Nat} (hi : nfind i s.cs.merge = some m) (ht : 4 ≤ s.since m.at_) (hold : decodedWord s m.word = some old) :
    doMergeEntryFlush i s = { writeWord m.word (mergedBytes m old) s with cs.merge := ndel i s.cs.merge } := by
  unfold doMergeEntryFlush flushMerge
  rw [hi]
  dsimp only
  rw [if_pos (.inr ht), hold]
  rfl

/-- In the impression of its write an entry stays. -/
theorem doMergeEntryFlush_new {i : Nat} (hi : nfind i s.cs.merge = some m) (ht : s.since m.at_ = 0) : doMergeEntryFlush i s = s := by
  unfold doMergeEntryFlush
  rw [hi]
  exact if_neg (by omega)

/-! ### Test mode (R273, R274) -/

theorem doEccTestEn_begins (h : s.core.mode = .maintenance) : doEccTestEn true s = s.putB Reg.Ecc.ECC_TEST_EN true := if_pos h

theorem doEccTestEn_elsewhere (h : s.core.mode ≠ .maintenance) : doEccTestEn true s = s := if_neg h

/-- Whether a symbol of the window lies in a channel in service. -/
def symbolInService (s : State) (k : Nat) : Bool := decide ((s.chan (k / 20 / 2 ^ 20)).st ≤ 2)

/-- What the end of test mode leaves of the window and of the merge buffer. -/
def testEnded (s : State) : State :=
  { s.putB Reg.Ecc.ECC_TEST_EN false with
    cs.win := s.cs.win.filter fun p => !symbolInService s p.1, cs.merge := s.cs.merge.filter fun p => !symbolInService s (p.2.word * 20) }

theorem doEccTestEn_ends (h : s.get Reg.Ecc.ECC_TEST_EN = 1) : doEccTestEn false s = testEnded s := by
  have hen : s.bit Reg.Ecc.ECC_TEST_EN = true := by simp [State.bit, h]
  exact if_pos hen

theorem nfind_filter_key {α : Type} (p : Nat → Bool) (k : Nat) (m : NMap α) : nfind k (m.filter fun e => p e.1) = if p k then nfind k m else none := by
  induction m with
  | nil => simp
  | cons e m ih =>
    obtain ⟨j, v⟩ := e
    rw [List.filter_cons, nfind_cons]
    by_cases hj : j = k
    · subst hj
      by_cases hp : p j = true
      · simp [hp, nfind_cons]
      · simp [hp, ih]
    · rw [if_neg hj, ← ih]
      split
      · rw [nfind_cons, if_neg hj]
      · rfl

theorem ngetD_testEnded (s : State) (k : Nat) : ngetD k 0 (testEnded s).cs.win = if symbolInService s k then 0 else ngetD k 0 s.cs.win := by
  unfold testEnded ngetD
  dsimp only
  rw [nfind_filter_key fun j => !symbolInService s j]
  cases symbolInService s k <;> rfl

theorem symbolInService_word (s : State) (a : Nat) {d : Nat} (hd : d < 20) : symbolInService s (a * 20 + d) = decide ((s.chan (a / 2 ^ 20)).st ≤ 2) := by
  have hword : (a * 20 + d) / 20 = a := by omega
  unfold symbolInService
  rw [hword]

theorem winWord_testEnded_inService (h : (s.chan (a / 2 ^ 20)).st ≤ 2) : winWord (testEnded s) a = List.replicate 20 0 := by
  refine List.eq_replicate_iff.mpr ⟨by simp [winWord], fun v hv => ?_⟩
  obtain ⟨d, hd, rfl⟩ := List.mem_map.mp hv
  rw [ngetD_testEnded, symbolInService_word s a (List.mem_range.mp hd), decide_eq_true h, if_pos rfl]

theorem winWord_testEnded_out (h : 2 < (s.chan (a / 2 ^ 20)).st) : winWord (testEnded s) a = winWord s a := by
  refine List.map_congr_left fun d hd => ?_
  rw [ngetD_testEnded, symbolInService_word s a (List.mem_range.mp hd), decide_eq_false (Nat.not_le.mpr h), if_neg Bool.false_ne_true]

/-! ### The repair map (R272) -/

theorem doRepairMapWrite_due (hd : s.cs.mapDue = true) (hh : s.halfOk = true) : doRepairMapWrite s = writeMap s := if_pos ⟨hd, hh⟩

theorem doRepairMapWrite_unchanged (hd : s.cs.mapDue = false) : doRepairMapWrite s = s := if_neg (by simp [hd])

/-- Settles O51: the scrubber by whether its lap ends, then each task of upkeep by what it makes of the Case. -/
theorem caseUpkeep : Obligations.CaseUpkeep := by
  unfold Obligations.CaseUpkeep
  refine ⟨?scrubs, ?laps, ?transient, ?moves, ?merges, ?waits, ?begins, ?elsewhere, ?ends, ?writes, ?unchanged⟩
  case scrubs =>
    intro s c h w hl hen hst hm1 hm2 hskip hpos hw hsafe hdue
    have hr : ScrubReads c.val w s := ⟨hen, hst, hm1, hm2, hskip⟩
    have hd : doPatrolScrub c.val .clean h w s = scrubShown c.val w s := by rw [hr.clean hw, if_neg (Nat.not_lt.mpr hpos)]
    refine Gives.settled (f := doPatrolScrub c.val .clean h w) rfl hl (by rw [hd]; exact hsafe) (by rw [hd]; exact hdue) ?_
    rw [hd]
    exact ⟨get_scrubShown_pos (.live hl) hw _, get_scrubShown_elapsed (.live hl) _ _, (RegsBut.refl _ s).scrubShown (by simp) (by simp) _, rfl⟩
  case laps =>
    intro s c h w hl hen hst hm1 hm2 hskip hpos hw hsafe hdue
    have hr : ScrubReads c.val w s := ⟨hen, hst, hm1, hm2, hskip⟩
    have hd : doPatrolScrub c.val .clean h w s = scrubShown c.val w (endScrubLap c.val s) := by rw [hr.clean hw, if_pos hpos]
    refine Gives.settled (f := doPatrolScrub c.val .clean h w) rfl hl (by rw [hd]; exact hsafe) (by rw [hd]; exact hdue) ?_
    rw [hd]
    have hwf : Rwf (endScrubLap c.val s) := (Rwf.live hl).endScrubLap _
    obtain ⟨hlast, hlaps⟩ := get_endScrubLap (.live hl) c.val
    have hchan := chan_endScrubLap c.val s
    refine ⟨get_scrubShown_pos hwf hw _, ?_, ?_, ?_, (hchan _).trans (if_pos rfl), fun d hne => (hchan d).trans (if_neg hne), rfl, ?_, rfl⟩
    · rw [get_scrubShown_elapsed hwf, lap_begun, Nat.zero_mod]
    · rw [get_scrubShown_ne (key_ne_of_place _) (key_ne_of_place _), hlast]
    · rw [get_scrubShown_ne (key_ne_of_place _) (key_ne_of_place _), hlaps]
    · exact ((RegsBut.refl _ s).endScrubLap (by simp) (by simp)).scrubShown (by simp) (by simp) _
  case transient =>
    intro s c r q a hl hq ha hst ht hm hsafe hdue
    have hd := (doCaseSelfTest_ends hq ha hst ht hm []).trans (judgeTest_nil _ _ _)
    refine Gives.settled (f := doCaseSelfTest c.val []) rfl hl (by rw [hd]; exact hsafe) (by rw [hd]; exact hdue) ?_
    rw [hd]
    have hchan := chan_setChan s c.val
    exact ⟨(hchan _ _).trans (if_pos rfl), fun d hne => (hchan d _).trans (if_neg hne), get_bump_eq (.same (.live hl) rfl) _ _ _, rfl,
      (((RegsBut.refl _ s).setCase _).bump _ _ _ (by simp)).log _ _ _, rfl⟩
  case moves =>
    intro s c k n d x hl hst htags hdirty hprim hdup hapart hsh hn
    have hx : PrimaryIn c.val d x := ⟨hprim, hdup, hapart, hsh⟩
    have hnc : n ≠ c.val := ne_of_roomiest_dirtyRoom hn
    refine Gives.on (f := doCleanOnlyCopy c.val) rfl hl ?_
    rw [hx.doCleanOnlyCopy hst htags hdirty hn]
    have hchan := chan_primaryMoved n x s
    refine ⟨rfl, (hchan _).trans ?_, (hchan _).trans ?_, fun q hqc hqn => (hchan q).trans ?_, rfl, rfl⟩
    · rw [chan_takeFrame_ne hnc.symm]
      simp [usedAfter, hprim]
    · simp [usedAfter, hprim, hnc.symm]
    · rw [chan_takeFrame_ne hqn]
      simp [usedAfter, hprim, Ne.symm hqc]
  case merges =>
    intro s i m old hl hi ht hold hwin
    refine Gives.on (f := doMergeEntryFlush i) rfl hl ?_
    have hlen := codeWord_length (mergedBytes_length m old)
    rw [doMergeEntryFlush_old hi ht hold, writeWord_eq (mergedBytes_length m old)]
    exact ⟨winWord_putWin_same hwin hlen _, fun b hb => winWord_putWin_ne hwin hlen hb, rfl⟩
  case waits =>
    intro s i m hl hi ht
    exact congrArg Host.Outcome.next ((whenOn_on _ hl.power).trans (doMergeEntryFlush_new hi ht))
  case begins =>
    intro s hl hm
    refine Gives.on (f := doEccTestEn true) rfl hl ?_
    rw [doEccTestEn_begins hm]
    exact ⟨get_putB_eq (.live hl) _ _ _, (RegsBut.refl _ s).putB _ _ _ (by simp), rfl⟩
  case elsewhere =>
    intro s hl hm
    exact congrArg Host.Outcome.next ((whenOn_on _ hl.power).trans (doEccTestEn_elsewhere hm))
  case ends =>
    intro s hl hen
    refine Gives.on (f := doEccTestEn false) rfl hl ?_
    rw [doEccTestEn_ends hen]
    exact ⟨get_putB_eq (.live hl) _ _ _, fun a _ hst => winWord_testEnded_inService hst, fun a hst => winWord_testEnded_out hst,
      ((RegsBut.refl _ s).putB _ _ _ (by simp)).setCase _, rfl⟩
  case writes =>
    intro s hl hd hh
    refine Gives.on (f := doRepairMapWrite) rfl hl ?_
    rw [doRepairMapWrite_due hd hh]
    exact ⟨rfl, rfl, rfl, rfl, rfl⟩
  case unchanged =>
    intro s hl hd
    exact congrArg Host.Outcome.next ((whenOn_on _ hl.power).trans (doRepairMapWrite_unchanged hd))

end Sys2Proof.Machine
end

section
/-!
SUPPORT. The Fount gauge and its charger: the gauge state block, samples, references, PACK_LOW, and what ends or stops a charge (R276 to R286, R456).
-/

namespace Sys2Proof.Machine

variable {s t : State} {ks : List Nat}

/-! ### A change of the gauge's own data -/

theorem Rwf.setFnt (h : Rwf s) (f : Fount) : Rwf { s with fnt := f } := h
theorem RegsBut.setFnt (h : RegsBut ks s t) (f : Fount) : RegsBut ks s { t with fnt := f } := ⟨h.regs, h.latches, h.words⟩
theorem get_setFnt (s : State) (f : Fount) (F : FieldSpec) (i : Nat) : ({ s with fnt := f } : State).get F i = s.get F i := rfl

/-! ### The gauge state block (R286) -/

/-- The words of the present block, with the occurrences of GSB_OUT they go to. -/
def gsbFields (s : State) : List (FieldSpec × Nat) := (List.range 16).map fun w => (Reg.Fount.GSB_OUT.only w, wordOf (gsbBytes s) w)

/-- The keys of GSB_OUT. -/
def gsbKeys : List Nat := (List.range 16).map Reg.Fount.GSB_OUT.key

theorem gsbFields_keys (s : State) : (gsbFields s).map (fun p => p.1.key 0) = gsbKeys := by
  simp only [gsbFields, List.map_map, Function.comp_def, key_only]
  rfl

theorem gsbKeys_nodup : gsbKeys.Nodup := by decide

theorem mem_gsbKeys {p : FieldSpec × Nat} (hp : p ∈ gsbFields s) : p.1.key 0 ∈ gsbKeys := by
  rw [← gsbFields_keys s]
  exact List.mem_map_of_mem hp

theorem latchGsb_eq (s : State) : latchGsb s = putFields (gsbFields s) s := by
  simp only [latchGsb, putFields, gsbFields, List.foldl_map, put_only]

theorem latchGsb_parts (s : State) : latchGsb s = { s with rf := (latchGsb s).rf } := by
  rw [latchGsb_eq]
  exact putFields_parts _ s

theorem get_latchGsb_out (hw : Rwf s) {w : Nat} (h : w < 16) : (latchGsb s).get Reg.Fount.GSB_OUT w = wordOf (gsbBytes s) w % 2 ^ 32 := by
  have hd : ((gsbFields s).map fun p => p.1.key 0).Nodup := by
    rw [gsbFields_keys]
    exact gsbKeys_nodup
  rw [latchGsb_eq]
  exact get_putFields hw hd (Reg.Fount.GSB_OUT.only w, wordOf (gsbBytes s) w) (List.mem_map.mpr ⟨w, List.mem_range.mpr h, rfl⟩)

theorem get_latchGsb_ne {F : FieldSpec} (h : F.key 0 ∉ gsbKeys) (s : State) : (latchGsb s).get F = s.get F := by
  rw [latchGsb_eq]
  exact get_putFields_ne (fun p hp e => h (e ▸ mem_gsbKeys hp)) s

theorem Rwf.latchGsb (h : Rwf s) : Rwf (latchGsb s) := by
  rw [latchGsb_eq]
  exact h.putFields _

theorem RegsBut.latchGsb (h : RegsBut ks s t) (hk : gsbKeys ⊆ ks) : RegsBut ks s (latchGsb t) := by
  rw [latchGsb_eq]
  exact h.putFields _ fun p hp => hk (mem_gsbKeys hp)

/-- The keys that a refresh of GSB_OUT stores under. -/
def refreshKeys : List Nat := gsbKeys ++ [Reg.Fount.GSB_SEQ.key 0, Reg.Hif.IBI_PENDING.key 0]

/-- The state at whose refresh the time of the block is now. -/
def gsbDated (s : State) : State := { s with fnt := { s.fnt with gsbAt := s.core.opImp } }

theorem Rwf.gsbDated (h : Rwf s) : Rwf (gsbDated s) := h
theorem get_gsbDated (s : State) (F : FieldSpec) : (gsbDated s).get F = s.get F := rfl

theorem refreshGsb_eq (s : State) :
    refreshGsb s = ((latchGsb (gsbDated s)).put Reg.Fount.GSB_SEQ ((latchGsb (gsbDated s)).get Reg.Fount.GSB_SEQ + 1)).ibi 4 := rfl

theorem refreshGsb_parts (s : State) : refreshGsb s = { s with rf := (refreshGsb s).rf, fnt := { s.fnt with gsbAt := s.core.opImp } } := by
  have h := latchGsb_parts (gsbDated s)
  rw [refreshGsb_eq]
  generalize latchGsb (gsbDated s) = u at h ⊢
  rw [h]
  rfl

theorem refreshGsb_fnt (s : State) : (refreshGsb s).fnt = { s.fnt with gsbAt := s.core.opImp } := by rw [refreshGsb_parts]

theorem get_refreshGsb_ne {F : FieldSpec} (h : F.key 0 ∉ refreshKeys) (s : State) : (refreshGsb s).get F = s.get F := by
  simp only [refreshKeys, List.mem_append, List.mem_cons, List.not_mem_nil, or_false, not_or] at h
  obtain ⟨hout, hseq, hibi⟩ := h
  rw [refreshGsb_eq, get_ibi_ne hibi, get_put_ne hseq, get_latchGsb_ne hout, get_gsbDated]

theorem get_refreshGsb_seq (hw : Rwf s) : (refreshGsb s).get Reg.Fount.GSB_SEQ = (s.get Reg.Fount.GSB_SEQ + 1) % 2 ^ Reg.Fount.GSB_SEQ.w := by
  rw [refreshGsb_eq, get_ibi_ne (by decide), get_put_eq hw.gsbDated.latchGsb, get_latchGsb_ne (by decide), get_gsbDated]

theorem get_refreshGsb_out (hw : Rwf s) {w : Nat} (h : w < 16) : (refreshGsb s).get Reg.Fount.GSB_OUT w = wordOf (gsbBytes s) w % 2 ^ 32 := by
  have hs : ∀ w < 16, Reg.Fount.GSB_OUT.key w ≠ Reg.Fount.GSB_SEQ.key 0 ∧ Reg.Fount.GSB_OUT.key w ≠ Reg.Hif.IBI_PENDING.key 0 := by decide
  rw [refreshGsb_eq, get_ibi_ne (hs w h).2, get_put_ne (hs w h).1, get_latchGsb_out hw.gsbDated h]
  rfl

theorem RegsBut.refreshGsb (h : RegsBut ks s t) (hk : refreshKeys ⊆ ks) : RegsBut ks s (refreshGsb t) := by
  rw [refreshGsb_eq]
  exact (((h.setFnt _).latchGsb fun _ hx => hk (List.mem_append_left _ hx)).put _ _ _ (hk (by simp [refreshKeys]))).ibi _ (hk (by simp [refreshKeys]))

theorem doGsbLatch_parts (s : State) : doGsbLatch s = { s with rf := (doGsbLatch s).rf } := by
  have h := latchGsb_parts s
  unfold doGsbLatch
  generalize latchGsb s = u at h ⊢
  rw [h]
  rfl

theorem doGsbRefresh_due (h : 450000000 ≤ s.core.opImp - s.fnt.gsbAt) : doGsbRefresh s = refreshGsb s := if_pos h

/-- The registers that a valid block restores (R286). -/
def gsbRestored (bs : List Nat) (s : State) : State :=
  ((s.put Reg.Fount.Q_LEARNED (leValue ((bs.drop 16).take 4))).put Reg.Fount.R_LEARNED (leValue ((bs.drop 20).take 2))).put
    Reg.Fount.CYCLE_COUNT (leValue ((bs.drop 22).take 2))

/-- The module as it takes a valid block, before its refresh. -/
def gsbTakenFrom (bs : List Nat) (s : State) : State :=
  ({ gsbRestored bs s with fnt := { s.fnt with
    refAge := leValue ((bs.drop 24).take 4) * 3515625 / 8, restored := true, capLearned := s.fnt.capLearned || leValue ((bs.drop 6).take 2) % 2 == 1
    resLearned := s.fnt.resLearned || leValue ((bs.drop 6).take 2) / 2 % 2 == 1, rVals := [] } } : State).putB Reg.Fount.GSB_RESTORED true

theorem takeGsb_eq (bs : List Nat) (s : State) : takeGsb bs s = refreshGsb (gsbTakenFrom bs s) := rfl

theorem Rwf.gsbRestored (h : Rwf s) (bs : List Nat) : Rwf (gsbRestored bs s) := ((h.put _ _ _).put _ _ _).put _ _ _

theorem get_gsbRestored (hw : Rwf s) (bs : List Nat) :
    (gsbRestored bs s).get Reg.Fount.Q_LEARNED = leValue ((bs.drop 16).take 4) % 2 ^ Reg.Fount.Q_LEARNED.w ∧
      (gsbRestored bs s).get Reg.Fount.R_LEARNED = leValue ((bs.drop 20).take 2) % 2 ^ Reg.Fount.R_LEARNED.w :=
  ⟨(get_put_ne (by decide) _ _).trans ((get_put_ne (by decide) _ _).trans (get_put_eq hw _ _ _)),
    (get_put_ne (by decide) _ _).trans (get_put_eq (hw.put _ _ _) _ _ _)⟩

theorem get_takeGsb (hw : Rwf s) (bs : List Nat) :
    (takeGsb bs s).get Reg.Fount.Q_LEARNED = leValue ((bs.drop 16).take 4) % 2 ^ Reg.Fount.Q_LEARNED.w ∧
      (takeGsb bs s).get Reg.Fount.R_LEARNED = leValue ((bs.drop 20).take 2) % 2 ^ Reg.Fount.R_LEARNED.w ∧
      (takeGsb bs s).get Reg.Fount.GSB_RESTORED = 1 := by
  obtain ⟨hq, hr⟩ := get_gsbRestored hw bs
  refine ⟨?_, ?_, ?_⟩
  · rw [takeGsb_eq, get_refreshGsb_ne (by decide), gsbTakenFrom, get_putB_ne (by decide), get_setFnt, hq]
  · rw [takeGsb_eq, get_refreshGsb_ne (by decide), gsbTakenFrom, get_putB_ne (by decide), get_setFnt, hr]
  · rw [takeGsb_eq, get_refreshGsb_ne (by decide), gsbTakenFrom, get_putB_eq ((hw.gsbRestored bs).setFnt _)]
    rfl

/-- Taking a block changes registers and the gauge: the block counts as restored, and the values of resistance begin anew. -/
theorem takeGsb_parts (bs : List Nat) (s : State) : ∃ (r : RegFile) (f : Fount), f.restored = true ∧ f.gsbTaken = s.fnt.gsbTaken ∧ f.rVals = [] ∧
    takeGsb bs s = { s with rf := r, fnt := f } := by
  refine ⟨(refreshGsb (gsbTakenFrom bs s)).rf, { (gsbTakenFrom bs s).fnt with gsbAt := s.core.opImp }, rfl, rfl, rfl, ?_⟩
  rw [takeGsb_eq, refreshGsb_parts]
  rfl

/-- GSB_LOAD as it stands in KEY_WAIT when its block is judged (R286). -/
def gsbAsked (s : State) : State := (s.ask Reg.Fount.GSB_LOAD).settle Reg.Fount.GSB_LOAD

theorem Rwf.gsbAsked (h : Rwf s) : Rwf (gsbAsked s) := (h.ask _ _).settle _ _
theorem RegsBut.gsbAsked (h : RegsBut ks s t) (hk : Reg.Fount.GSB_LOAD.key 0 ∈ ks) : RegsBut ks s (gsbAsked t) := (h.ask _ _ hk).settle _ _

/-- A block that is taken in KEY_WAIT, with the time at which it was saved. -/
def gsbLoading (bs : List Nat) (s : State) : State := { gsbAsked s with fnt := { s.fnt with gsbTaken := true, gsbKey := gsbTime bs } }

theorem Rwf.gsbLoading (h : Rwf s) (bs : List Nat) : Rwf (gsbLoading bs s) := h.gsbAsked.setFnt _

theorem doGsbLoad_invalid (hm : s.core.mode = .keyWait)
    (hv : gsbValid (s.ask Reg.Fount.GSB_LOAD) (gsbIn (s.ask Reg.Fount.GSB_LOAD)) = false) : doGsbLoad s =
      (({ gsbAsked s with fnt := { s.fnt with gsbTaken := true } } : State).raise Reg.Fount.GSB_INVALID).log 0x100B 0 [1] := by
  have hj : gsbValid (gsbAsked s) (gsbIn (s.ask Reg.Fount.GSB_LOAD)) = false := hv
  unfold doGsbLoad
  simp only [State.ask_core, hm, beq_self_eq_true, if_true]
  exact if_neg (by rw [Bool.not_eq_true]; exact hj)

theorem doGsbLoad_valid (hm : s.core.mode = .keyWait)
    (hv : gsbValid (s.ask Reg.Fount.GSB_LOAD) (gsbIn (s.ask Reg.Fount.GSB_LOAD)) = true) : doGsbLoad s =
      (takeGsb (gsbIn (s.ask Reg.Fount.GSB_LOAD)) (gsbLoading (gsbIn (s.ask Reg.Fount.GSB_LOAD)) s)).log 0x100B 0 [0] := by
  have hj : gsbValid (gsbAsked s) (gsbIn (s.ask Reg.Fount.GSB_LOAD)) = true := hv
  unfold doGsbLoad
  simp only [State.ask_core, hm, beq_self_eq_true, if_true]
  exact if_pos hj

theorem doGsbNone_keyWait (hm : s.core.mode = .keyWait) : doGsbNone s =
    ((({ s.ask Reg.Fount.GSB_NONE with fnt := { s.fnt with gsbTaken := true } } : State).settle Reg.Fount.GSB_NONE).log 0x100B 0 [2]) := by
  unfold doGsbNone
  simp only [State.ask_core, hm, beq_self_eq_true, if_true]
  rfl

/-! ### The charger (R276, R277) -/

theorem stepCharger_eq (s : State) : stepCharger s =
    { s with fnt := { s.fnt with chg := chargerState s, eocAt := if chargerState s = 2 then s.fnt.eocAt else none } } := rfl

/-- The charger's state rests on the gauge, the module state, the image, and four register fields. -/
theorem chargerState_congr (hf : t.fnt = s.fnt) (hc : t.core = s.core) (hi : t.img = s.img)
    (hr : ∀ F ∈ [Reg.Fount.PACK_T, Reg.Fount.PACK_V, Reg.Fount.CHG_EN, Reg.Fount.Q_LEARNED], t.get F = s.get F) : chargerState t = chargerState s := by
  simp only [List.forall_mem_cons] at hr
  obtain ⟨ht, hv, he, hq, -⟩ := hr
  unfold chargerState chargerMay anyHealthy socC State.bit
  rw [hf, hc, hi, ht, hv, he, hq]

/-- A charger that carries the bus does not charge (R456). -/
theorem chargerState_carries (h : s.fnt.carries = true) : chargerState s = 0 ∨ chargerState s = 6 := by
  have hm : chargerMay s = false := by simp [chargerMay, h]
  unfold chargerState
  simp only [hm, Bool.not_false, if_true]
  split_ifs
  · exact .inr rfl
  · exact .inl rfl

theorem doEndOfCharge_over {a : Nat} (he : s.fnt.eocAt = some a) (hc : s.fnt.chg = 2) (ht : 37500000 ≤ s.since a) : doEndOfCharge s =
    stepCharger (({ s with fnt := { s.fnt with chg := 3, eocAt := none } } : State).raise Reg.Fount.CHG_DONE) := by
  unfold doEndOfCharge
  rw [he]
  exact if_pos ⟨hc, ht⟩

theorem doChargerFault_over (hv : 2800 < s.get Reg.Fount.CELL0_V ∨ 2800 < s.get Reg.Fount.CELL1_V) (hf : s.fnt.faulted = false) : doChargerFault s =
    (({ s with fnt := { s.fnt with faulted := true, chg := 6, eocAt := none } } : State).raise Reg.Fount.CHG_FAULT).log 0x100C 0
      (leBytes 2 (s.get Reg.Fount.CELL0_V) ++ leBytes 2 (s.get Reg.Fount.CELL1_V)) := if_pos ⟨hv, by rw [hf]; rfl⟩

theorem doCalRestTimeout_over {a : Nat} (hc : s.fnt.calAt = some a) (ht : 300000000 ≤ s.since a) : doCalRestTimeout s =
    stepCharger (({ s with fnt := { s.fnt with calAt := none } } : State).settle Reg.Fount.CAL_REST) := by
  unfold doCalRestTimeout endCalRest
  rw [hc]
  exact if_pos ht

theorem doBusTakeover_takes {mv : Nat} (hv : mv < 11500) (ha : s.fnt.absent = false) : doBusTakeover mv s =
    stepCharger { s with fnt := { s.fnt with carries := true } } := if_pos ⟨hv, by rw [ha]; rfl⟩

/-! ### Samples (R278, R281, R284) -/

theorem applyResistance_no_values (h : s.fnt.rVals = []) : applyResistance s = s := if_neg (by simp [h])

theorem applyResistance_packLow (s : State) : (applyResistance s).fnt.packLow = s.fnt.packLow := by
  unfold applyResistance
  extract_lets r
  split_ifs
  · rfl
  · rw [refreshGsb_parts]
    rfl
  · rfl

theorem learnResistance_packLow (i v : Int) (s : State) : (learnResistance i v s).fnt.packLow = s.fnt.packLow := by
  unfold learnResistance
  extract_lets di r
  split_ifs
  · exact applyResistance_packLow _
  · rfl

theorem learnResistance_unless_oneKhz (h : s.fnt.oneKhz = false) (i v : Int) : learnResistance i v s = s := if_neg (by simp [h])

theorem setPackLow_packLow (s : State) : (setPackLow s).fnt.packLow = true := by
  unfold setPackLow
  split_ifs with h
  · exact h
  · rfl

/-- What a sample shows, with the register fields it goes to. -/
def sampleFields (x : GaugeIn) : List (FieldSpec × Nat) :=
  [(Reg.Fount.PACK_V, x.cell0Mv + x.cell1Mv), (Reg.Fount.CELL0_V, x.cell0Mv), (Reg.Fount.CELL1_V, x.cell1Mv), (Reg.Fount.PACK_T, toTwos 16 x.tempDc),
    (Reg.Fount.PACK_I, toTwos 32 x.currentMa)]

/-- The registers of a sample are stored, a resistance may be learned from it, and its discharge counts. -/
def sampleStored (x : GaugeIn) (s : State) : State :=
  countCycles x.chargeMc (learnResistance x.currentMa ((x.cell0Mv + x.cell1Mv : Nat) : Int) (putFields (sampleFields x) s))

/-- The gauge takes a sample: its charge counts, and it may begin a rest or the end of a charge. -/
def sampleTaken (x : GaugeIn) (s : State) : State :=
  { s with fnt := { s.fnt with
    counted := s.fnt.counted + ((x.chargeMc : Int) : Rat)
    socV := socOfOcv (((x.cell0Mv + x.cell1Mv : Nat) : Rat) / 1000 - ((x.currentMa : Int) : Rat) / 1000 * rLearned s)
    lastI := x.currentMa, lastV := ((x.cell0Mv + x.cell1Mv : Nat) : Int), sampled := s.core.imp, oneKhz := decide (magn x.currentMa > 100)
    restAt := if magn x.currentMa < 2 then (s.fnt.restAt <|> some s.core.imp) else none
    eocAt := if s.fnt.chg = 2 ∧ magn x.currentMa < 26 then (s.fnt.eocAt <|> some s.core.imp) else none } }

/-- A sample shows a low pack (R284). -/
abbrev LowSample (x : GaugeIn) : Prop := x.cell0Mv < 1900 ∨ x.cell1Mv < 1900 ∨ x.cell0Mv + x.cell1Mv < 3800

theorem doGaugeSample_eq (hh : s.fnt.hibernating = false) (ha : s.fnt.absent = false) (x : GaugeIn) : doGaugeSample x s =
    stepCharger (if LowSample x then setPackLow (sampleTaken x (sampleStored x s)) else sampleTaken x (sampleStored x s)) := if_neg (by simp [hh, ha])

theorem sampleTaken_packLow (x : GaugeIn) (s : State) : (sampleTaken x (sampleStored x s)).fnt.packLow = s.fnt.packLow := learnResistance_packLow _ _ _

theorem doGaugeSample_packLow (hh : s.fnt.hibernating = false) (ha : s.fnt.absent = false) (x : GaugeIn) :
    (doGaugeSample x s).fnt.packLow = (s.fnt.packLow || decide (LowSample x)) := by
  rw [doGaugeSample_eq hh ha]
  show (ite _ _ _ : State).fnt.packLow = _
  split_ifs with h
  · rw [setPackLow_packLow, decide_eq_true h, Bool.or_true]
  · rw [sampleTaken_packLow, decide_eq_false h, Bool.or_false]

/-- A sample that shows no low pack and from which no resistance is learned. -/
theorem doGaugeSample_plain (hh : s.fnt.hibernating = false) (ha : s.fnt.absent = false) (hk : s.fnt.oneKhz = false) {x : GaugeIn} (hx : ¬LowSample x) :
    doGaugeSample x s = stepCharger (sampleTaken x (countCycles x.chargeMc (putFields (sampleFields x) s))) := by
  rw [doGaugeSample_eq hh ha, if_neg hx, sampleStored, learnResistance_unless_oneKhz (s := putFields (sampleFields x) s) hk]

theorem sampleFields_nodup (x : GaugeIn) : ((sampleFields x).map fun p => p.1.key 0).Nodup :=
  (by decide : [Reg.Fount.PACK_V.key 0, Reg.Fount.CELL0_V.key 0, Reg.Fount.CELL1_V.key 0, Reg.Fount.PACK_T.key 0, Reg.Fount.PACK_I.key 0].Nodup)

theorem sampleFields_not_cycles (x : GaugeIn) : ∀ p ∈ sampleFields x, p.1.key 0 ≠ Reg.Fount.CYCLE_COUNT.key 0 := by
  simp only [sampleFields, List.forall_mem_cons]
  exact ⟨by decide, by decide, by decide, by decide, by decide, by simp⟩

theorem countCycles_eq (c : Int) (s : State) :
    ∃ f n, countCycles c s = ({ s with fnt := { s.fnt with cycMc := f } } : State).put Reg.Fount.CYCLE_COUNT n := ⟨_, _, rfl⟩

/-- A sample in the registers and in the gauge: what it shows reads back, whatever its discharge counts. -/
theorem sampleCounted (hw : Rwf s) (x : GaugeIn) (c : Int) : ∃ u, countCycles c (putFields (sampleFields x) s) = u ∧
    (∀ p ∈ sampleFields x, u.get p.1 = p.2 % 2 ^ p.1.w) ∧
    RegsBut [Reg.Fount.PACK_V.key 0, Reg.Fount.CELL0_V.key 0, Reg.Fount.CELL1_V.key 0, Reg.Fount.PACK_T.key 0, Reg.Fount.PACK_I.key 0,
      Reg.Fount.CYCLE_COUNT.key 0] s u ∧
    u = { s with rf := u.rf, fnt := { s.fnt with cycMc := u.fnt.cycMc } } := by
  obtain ⟨f, n, hu⟩ := countCycles_eq c (putFields (sampleFields x) s)
  refine ⟨_, hu, fun p hp => ?_, ?_, ?_⟩
  · rw [get_put_ne (sampleFields_not_cycles x p hp), get_setFnt, get_putFields hw (sampleFields_nodup x) p hp]
  · exact ((((RegsBut.refl _ s).putFields _ (by simp [sampleFields])).setFnt _).put _ _ _ (by simp))
  · rw [putFields_parts]
    rfl

/-! ### Hibernation and references (R279, R281) -/

theorem doGaugeHibernate_quiet {a : Nat} (hr : s.fnt.restAt = some a) (ht : 7500000 ≤ s.since a) (hh : s.fnt.hibernating = false) :
    doGaugeHibernate s = { s with fnt := { s.fnt with hibernating := true, hibAt := s.core.imp } } := by
  unfold doGaugeHibernate
  rw [hr]
  exact if_pos ⟨ht, by rw [hh]; rfl⟩

theorem doHibernationHour_due (hh : s.fnt.hibernating = true) (ht : 450000000 ≤ s.since s.fnt.hibAt) : doHibernationHour s =
    { s with fnt := { s.fnt with counted := s.fnt.counted - ((s.get Reg.Fount.Q_LEARNED : Nat) : Rat) / 24000, hibAt := s.fnt.hibAt + 450000000 } } :=
  if_pos ⟨hh, ht⟩

/-- A reference near the last one learns no capacity. -/
theorem anchorGauge_near (hl : s.fnt.socV - s.fnt.anchor < 4 / 10) (hg : -(4 / 10) < s.fnt.socV - s.fnt.anchor) (hr : s.fnt.rVals = []) :
    anchorGauge s = { s with fnt := { s.fnt with anchor := s.fnt.socV, counted := 0 } } := by
  unfold anchorGauge
  simp only [if_neg (not_or.mpr ⟨not_le.mpr hl, not_le.mpr hg⟩)]
  exact applyResistance_no_values hr

/-- The gauge at a reference from which no capacity is learned: SoC_c becomes SoC_v, and the age begins anew. -/
def referenceTaken (s : State) : State :=
  { s with fnt := { s.fnt with anchor := s.fnt.socV, counted := 0, refAge := 0, disagree := false, restAt := some s.core.imp } }

theorem Rwf.referenceTaken (h : Rwf s) : Rwf (referenceTaken s) := h
theorem RegsBut.referenceTaken (h : RegsBut ks s t) : RegsBut ks s (referenceTaken t) := h.setFnt _

theorem doGaugeReference_near {a : Nat} (ha : s.fnt.restAt = some a) (ht : 225000000 ≤ s.since a) (hl : s.fnt.socV - s.fnt.anchor < 4 / 10)
    (hg : -(4 / 10) < s.fnt.socV - s.fnt.anchor) (hr : s.fnt.rVals = []) (hc : s.fnt.calAt = none) :
    doGaugeReference s = stepCharger (refreshGsb (referenceTaken s)) := by
  have hrest : (referenceTaken s).fnt.calAt = none := hc
  unfold doGaugeReference
  simp only [ha, ge_iff_le, ht, if_true, anchorGauge_near hl hg hr]
  show stepCharger (refreshGsb (if (referenceTaken s).fnt.calAt.isSome then _ else referenceTaken s)) = _
  rw [hrest, Option.isSome_none, if_neg Bool.false_ne_true]

/-! ### The figures of step 4, the ceiling of step 7, and the end of PACK_LOW (R284) -/

theorem takeFigures_fnt (s : State) : ∃ fig d, (takeFigures s).fnt =
    { s.fnt with fig := fig, disagree := d, voltOkAt := if fig.eVolt > 0 then (s.fnt.voltOkAt <|> some s.core.imp) else none } := by
  unfold takeFigures
  extract_lets
  split_ifs
  · exact ⟨_, _, rfl⟩
  · exact ⟨_, _, rfl⟩

theorem ceilingOf_packLow (h : s.fnt.packLow = true) : ceilingOf s = 0 := if_pos (by simp [ceilingHeld, h])

theorem doPackLowClear_over {a : Nat} (hv : s.fnt.voltOkAt = some a) (hp : s.fnt.packLow = true) (ha : s.fnt.absent = false) (hu : s.fnt.unfit = false)
    (ht : 125000 ≤ s.since a) : doPackLowClear s = { s with fnt := { s.fnt with packLow := false, voltOkAt := none } } := by
  unfold doPackLowClear
  rw [hv]
  exact if_pos ⟨hp, by rw [ha]; rfl, by rw [hu]; rfl, ht⟩

theorem doPackLowClear_early (h : ∀ a, s.fnt.voltOkAt = some a → s.since a < 125000) : doPackLowClear s = s := by
  unfold doPackLowClear
  split
  case h_1 a ha => exact if_neg fun hc => absurd hc.2.2.2 (not_le.mpr (h a ha))
  case h_2 => rfl

/-- Settles O7: each sample by what it shows, the ceiling by what holds it at 0, and the two ends of PACK_LOW_CLEAR. -/
theorem packLowRule : Obligations.PackLowRule := by
  unfold Obligations.PackLowRule
  refine ⟨?sample, ?ceiling, ?since, ?clears, ?early⟩
  case sample =>
    intro s x hl hh ha
    refine Gives.on (f := doGaugeSample x) rfl hl ?_
    rw [doGaugeSample_packLow hh ha, Bool.decide_or, Bool.decide_or, Bool.or_assoc, Bool.or_assoc]
  case ceiling =>
    intro s hl hp
    have hw : Rwf s := .live hl
    refine (get_put_eq ((hw.put _ _ _).put _ _ _) _ _ _).trans ?_
    rw [ceilingOf_packLow (s := (s.put _ _ _).put _ _ _) hp, Nat.zero_mod]
  case since =>
    intro s _
    obtain ⟨fig, d, hf⟩ := takeFigures_fnt s
    rw [hf]
    cases s.fnt.voltOkAt <;> rfl
  case clears =>
    intro s a hl hv hp ha hu ht
    refine Gives.on (f := doPackLowClear) rfl hl ?_
    rw [doPackLowClear_over hv hp ha hu ht]
    exact ⟨rfl, rfl⟩
  case early =>
    intro s hl h
    exact congrArg Host.Outcome.next ((whenOn_on _ hl.power).trans (doPackLowClear_early h))

/-- Settles O33: each command of the gauge by the equation of its meaning, and the block by what its latch and its refresh store. -/
theorem gaugeSamplesAndReferences : Obligations.GaugeSamplesAndReferences := by
  unfold Obligations.GaugeSamplesAndReferences
  refine ⟨?sample, ?hibernates, ?wakes, ?hour, ?reference, ?refresh, ?latch, ?invalid, ?valid, ?none_⟩
  case sample =>
    intro s x hl hh ha hk h0 h1
    refine Gives.on (f := doGaugeSample x) rfl hl ?_
    rw [doGaugeSample_plain hh ha hk (by omega)]
    obtain ⟨u, hu, hg, hb, hp⟩ := sampleCounted (.live hl) x x.chargeMc
    simp only [sampleFields, List.forall_mem_cons] at hg
    obtain ⟨hv, hc0, hc1, ht, hi, -⟩ := hg
    rw [hu, stepCharger_eq]
    have hcounted : u.fnt.counted = s.fnt.counted := by rw [hp]
    have himp : u.core.imp = s.core.imp := by rw [hp]
    have hlow : u.fnt.packLow = s.fnt.packLow := by rw [hp]
    have hanchor : u.fnt.anchor = s.fnt.anchor := by rw [hp]
    refine ⟨hv, hc0, hc1, ht, hi, congrArg (· + (x.chargeMc : Rat)) hcounted, rfl, himp, hlow, hanchor, (hb.setFnt _).setFnt _, ?_⟩
    rw [hp]
    rfl
  case hibernates =>
    intro s a hl hr ht hh
    exact Gives.on (f := doGaugeHibernate) rfl hl (doGaugeHibernate_quiet hr ht hh)
  case wakes =>
    intro s hl
    exact Gives.on (f := doGaugeWake) rfl hl rfl
  case hour =>
    intro s hl hh ht
    exact Gives.on (f := doHibernationHour) rfl hl (doHibernationHour_due hh ht)
  case reference =>
    intro s a hl ha ht hlt hgt hr hc
    refine Gives.on (f := doGaugeReference) rfl hl ?_
    rw [doGaugeReference_near ha ht hlt hgt hr hc, stepCharger_eq]
    have hw : Rwf (referenceTaken s) := Rwf.referenceTaken (.live hl)
    have hfnt := refreshGsb_fnt (referenceTaken s)
    have hparts := refreshGsb_parts (referenceTaken s)
    have hq := get_refreshGsb_ne (F := Reg.Fount.Q_LEARNED) (by decide) (referenceTaken s)
    have hseq := get_refreshGsb_seq hw
    have hregs := (RegsBut.refl refreshKeys s).referenceTaken.refreshGsb (List.Subset.refl _)
    generalize refreshGsb (referenceTaken s) = v at hfnt hparts hq hseq hregs ⊢
    refine ⟨congrArg Fount.anchor hfnt, congrArg Fount.counted hfnt, congrArg Fount.refAge hfnt, congrArg Fount.disagree hfnt, hq, hseq, hregs.setFnt _, ?_⟩
    rw [hparts]
    rfl
  case refresh =>
    intro s hl ht
    refine Gives.on (f := doGsbRefresh) rfl hl ?_
    rw [doGsbRefresh_due ht]
    have hw : Rwf s := .live hl
    exact ⟨get_refreshGsb_seq hw, fun w h => get_refreshGsb_out hw h, refreshGsb_fnt s, (RegsBut.refl _ s).refreshGsb fun _ h => h,
      by rw [refreshGsb_parts]⟩
  case latch =>
    intro s hl
    refine Gives.on (f := doGsbLatch) rfl hl ?_
    have hw : Rwf s := .live hl
    have hk : ∀ w < 16, Reg.Fount.GSB_OUT.key w ≠ Reg.Fount.GSB_LATCH.key 0 := by decide
    exact ⟨fun w h => (get_pulse_ne (hk w h) _).trans (get_latchGsb_out hw h), get_pulse_eq hw.latchGsb _ _,
      (get_pulse_ne (by decide) _).trans (get_latchGsb_ne (by decide) s), ((RegsBut.refl _ s).latchGsb (List.subset_append_left _ _)).pulse _ _ (by simp),
      doGsbLatch_parts s⟩
  case invalid =>
    intro s hl hm hv
    refine Gives.on (f := doGsbLoad) rfl hl ?_
    rw [doGsbLoad_invalid hm hv]
    have hw : Rwf s := .live hl
    exact ⟨get_raise_eq (hw.gsbAsked.setFnt _) _ _, rfl, rfl,
      ((((RegsBut.refl _ s).gsbAsked (by simp)).setFnt _).raise Reg.Fount.GSB_INVALID 0 (by simp)).log _ _ _, rfl⟩
  case valid =>
    intro s hl hm hv
    refine Gives.on (f := doGsbLoad) rfl hl ?_
    rw [doGsbLoad_valid hm hv]
    generalize gsbIn (s.ask Reg.Fount.GSB_LOAD) = bs
    have hw : Rwf (gsbLoading bs s) := Rwf.gsbLoading (.live hl) bs
    obtain ⟨hq, hr, hres⟩ := get_takeGsb hw bs
    obtain ⟨r, f, hrestored, htaken, hvals, hp⟩ := takeGsb_parts bs (gsbLoading bs s)
    rw [hp] at hq hr hres ⊢
    exact ⟨hq, hr, hres, hrestored, htaken, hvals, rfl, rfl⟩
  case none_ =>
    intro s hl hm
    refine Gives.on (f := doGsbNone) rfl hl ?_
    rw [doGsbNone_keyWait hm]
    exact ⟨rfl, rfl, ((((RegsBut.refl _ s).ask Reg.Fount.GSB_NONE 0 (by simp)).setFnt _).settle _ _).log _ _ _, rfl⟩

/-- Settles O34: each command by the equation of its meaning; the charger's next state is the one its conditions give. -/
theorem chargerAndPackLow : Obligations.ChargerAndPackLow := by
  unfold Obligations.ChargerAndPackLow
  refine ⟨?done, ?fault, ?clears, ?rest, ?timeout, ?takeover⟩
  case done =>
    intro s a hl he hc ht
    refine Gives.on (f := doEndOfCharge) rfl hl ?_
    rw [doEndOfCharge_over he hc ht, stepCharger_eq]
    have hw : Rwf s := .live hl
    have hch : chargerState (({ s with fnt := { s.fnt with chg := 3, eocAt := none } } : State).raise Reg.Fount.CHG_DONE) =
        chargerState { s with fnt := { s.fnt with chg := 3, eocAt := none } } :=
      chargerState_congr rfl rfl rfl fun F hF => get_raise_ne (by revert F; decide) _
    refine ⟨get_raise_eq (hw.same rfl) _ _, ?_, ?_, rfl⟩
    · rw [hch]
      simp only [State.raise_fnt, ite_self]
    · exact (((RegsBut.refl _ s).setFnt _).raise Reg.Fount.CHG_DONE 0 (by simp)).setFnt _
  case fault =>
    intro s hl hv hf
    refine Gives.on (f := doChargerFault) rfl hl ?_
    rw [doChargerFault_over hv hf]
    have hw : Rwf s := .live hl
    exact ⟨get_raise_eq (hw.same rfl) _ _, rfl, rfl, (((RegsBut.refl _ s).setFnt _).raise Reg.Fount.CHG_FAULT 0 (by simp)).log _ _ _, rfl⟩
  case clears =>
    intro s a hl hv hp ha hu ht
    exact Gives.on (f := doPackLowClear) rfl hl (doPackLowClear_over hv hp ha hu ht)
  case rest =>
    intro s hl
    refine Gives.on (f := doCalRest) rfl hl ?_
    exact ⟨get_ask_eq (.live hl) Reg.Fount.CAL_REST 0, rfl, rfl, ((RegsBut.refl _ s).ask Reg.Fount.CAL_REST 0 (by simp)).same rfl, rfl⟩
  case timeout =>
    intro s a hl hc ht
    refine Gives.on (f := doCalRestTimeout) rfl hl ?_
    rw [doCalRestTimeout_over hc ht]
    exact ⟨rfl, List.mem_cons_self, ⟨fun _ _ => rfl, rfl, rfl⟩, rfl⟩
  case takeover =>
    intro s mv hl hv ha
    refine Gives.on (f := doBusTakeover mv) rfl hl ?_
    rw [doBusTakeover_takes hv ha]
    exact ⟨rfl, chargerState_carries rfl, rfl⟩

end Sys2Proof.Machine
end

section
/-!
SUPPORT. The input stages, the input monitor, PWRFAIL_N, and how HOLD is entered and left (R292 to R294, R300, R454, R455, R466).
-/

namespace Sys2Proof.Machine

variable {s t u : State} {ks : List Nat} {b : Bool}

/-! ### One input -/

/-- The field that shows an input's voltage, and the event bit of its loss. -/
def voltsField (b : Bool) : FieldSpec := if b then Reg.Fount.IN_B_V else Reg.Fount.IN_A_V
def lostField (b : Bool) : FieldSpec := if b then Reg.Fount.INPUT_B_LOST else Reg.Fount.INPUT_A_LOST

theorem voltsField_w (b : Bool) : (voltsField b).w = 16 := by cases b <;> rfl
theorem lostField_w (b : Bool) : (lostField b).w = 1 := by cases b <;> rfl
theorem voltsField_key_ne (b : Bool) : (voltsField b).key 0 ≠ (lostField b).key 0 := by cases b <;> decide

theorem updInput_parts (b : Bool) (f : Input → Input) (s : State) : s.updInput b f = { s with fnt := (s.updInput b f).fnt } := by cases b <;> rfl
theorem input_updInput (b : Bool) (f : Input → Input) (s : State) : (s.updInput b f).input b = f (s.input b) := by cases b <;> rfl
theorem input_updInput_other (b : Bool) (f : Input → Input) (s : State) : (s.updInput b f).input (!b) = s.input (!b) := by cases b <;> rfl
theorem updInput_updInput (b : Bool) (f g : Input → Input) (s : State) : (s.updInput b f).updInput b g = s.updInput b (g ∘ f) := by cases b <;> rfl
theorem updInput_put (b : Bool) (f : Input → Input) (F : FieldSpec) (v : Nat) (s : State) : (s.put F v).updInput b f = (s.updInput b f).put F v := by
  cases b <;> rfl
theorem updInput_rf (b : Bool) (f : Input → Input) (s : State) : (s.updInput b f).rf = s.rf := by cases b <;> rfl

theorem Rwf.updInput (h : Rwf s) (b : Bool) (f : Input → Input) : Rwf (s.updInput b f) := h.same (by rw [updInput_rf])
theorem RegsBut.updInput (h : RegsBut ks s t) (b : Bool) (f : Input → Input) : RegsBut ks s (t.updInput b f) := h.same (updInput_rf b f t)

/-! ### A sample of the monitor -/

theorem sampleInput_eq (b : Bool) (mv : Nat) (s : State) : sampleInput b mv s =
    (s.updInput b fun x => { x with mv := mv }).put (voltsField b) (min mv 65535) := rfl

/-- A change of an input at a sample is one change beside its register. -/
theorem sampleInput_updInput (b : Bool) (mv : Nat) (f : Input → Input) (s : State) : (sampleInput b mv s).updInput b f =
    (s.updInput b fun x => f { x with mv := mv }).put (voltsField b) (min mv 65535) := by
  rw [sampleInput_eq, updInput_put, updInput_updInput]
  rfl

theorem volts_fit (b : Bool) (mv : Nat) : min mv 65535 % 2 ^ (voltsField b).w = min mv 65535 := by
  rw [voltsField_w]
  exact Nat.mod_eq_of_lt (by omega)

/-- The module after a sample that changes its input by `f`: the voltage is shown, and the input alone is changed. -/
theorem sampled (hw : Rwf s) (hk : (voltsField b).key 0 ∈ ks) (f : Input → Input) (mv : Nat) :
    ∃ t, (s.updInput b f).put (voltsField b) (min mv 65535) = t ∧ Rwf t ∧ t.get (voltsField b) = min mv 65535 ∧ RegsBut ks s t ∧
      t.input b = f (s.input b) ∧ t.input (!b) = s.input (!b) ∧ t = { s with rf := t.rf, fnt := t.fnt } := by
  have hu : Rwf (s.updInput b f) := hw.updInput b f
  refine ⟨_, rfl, hu.put _ _ _, (get_put_eq hu _ _ _).trans (volts_fit b mv), ((RegsBut.refl _ s).updInput b f).put _ _ _ hk, input_updInput b f s,
    input_updInput_other b f s, ?_⟩
  rw [updInput_parts]
  rfl

/-! ### The Hold condition in PRESS_RUN (R292, R293) -/

/-- One input that is not low is enough: the module has not lost its inputs. -/
theorem inputsLost_of_low_lt (c : Bool) (h : (s.input c).low < 2) : inputsLost s = false := by
  cases c
  · exact Bool.and_eq_false_iff.mpr (.inl (decide_eq_false (Nat.not_le.mpr h)))
  · exact Bool.and_eq_false_iff.mpr (.inr (decide_eq_false (Nat.not_le.mpr h)))

theorem holdCond_eq_false (hi : inputsLost s = false) (hp : s.pins.fPf = false) : holdCond s = false := by
  rw [holdCond, hi, hp]
  rfl

theorem evalHold_runs (hm : s.core.mode = .pressRun) (hc : holdCond s = false) : evalHold s = s := by
  unfold evalHold
  rw [hm, hc]
  exact if_neg fun h => Bool.false_ne_true h.1

/-! ### An input is lost (R292, R454) -/

theorem loseInput_eq (b : Bool) (s : State) : loseInput b s =
    ((doGaugeWake (s.updInput b fun x => { x with low := 2, healthy := false })).raise (lostField b)).log 0x1001 (if b then 1 else 0) := rfl

/-- The other input stands in PRESS_RUN, and PWRFAIL_N asks for nothing: the loss of this input is no Hold condition. -/
structure OtherStands (b : Bool) (s : State) : Prop where
  runs : s.core.mode = .pressRun
  quiet : s.pins.fPf = false
  other : (s.input (!b)).low < 2

theorem OtherStands.updInput (h : OtherStands b s) (f : Input → Input) : OtherStands b (s.updInput b f) := by
  cases b <;> exact ⟨h.runs, h.quiet, h.other⟩

theorem OtherStands.sampleInput (h : OtherStands b s) (mv : Nat) : OtherStands b (sampleInput b mv s) := by
  cases b <;> exact ⟨h.runs, h.quiet, h.other⟩

theorem OtherStands.loseInput (h : OtherStands b s) : OtherStands b (loseInput b s) := by
  cases b <;> exact ⟨h.runs, h.quiet, h.other⟩

theorem OtherStands.evalHold (h : OtherStands b s) : evalHold s = s :=
  evalHold_runs h.runs (holdCond_eq_false (inputsLost_of_low_lt (!b) h.other) h.quiet)

/-- What the loss of an input reports and what it leaves alone, from a state that only a sample or a stage has changed. -/
theorem loseInput_reports {y : Input} (hw : Rwf u) (hk : (lostField b).key 0 ∈ ks) (hr : RegsBut ks s u) (hp : u = { s with rf := u.rf, fnt := u.fnt })
    (hy : { u.input b with low := 2, healthy := false } = y) (ho : u.input (!b) = s.input (!b)) :
    (loseInput b u).get (lostField b) = 1 ∧ (loseInput b u).fnt.hibernating = false ∧ (loseInput b u).input b = y ∧
      (loseInput b u).input (!b) = s.input (!b) ∧ (loseInput b u).core = s.core ∧
      (loseInput b u).el.due = ⟨0x1001, 0, 0, opTimeOf s.core.opImp, s.core.cycles, (if b then 1 else 0), []⟩ :: s.el.due ∧ RegsBut ks s (loseInput b u) ∧
      loseInput b u = { s with rf := (loseInput b u).rf, fnt := (loseInput b u).fnt, el := (loseInput b u).el } := by
  have hi : Rwf (doGaugeWake (u.updInput b fun x => { x with low := 2, healthy := false })) := Rwf.setFnt (hw.updInput b _) _
  have hlost : (loseInput b u).get (lostField b) = 1 := by
    rw [loseInput_eq, get_log, get_raise_eq hi, lostField_w]
    rfl
  have hregs : RegsBut ks s (loseInput b u) := (((hr.updInput b _).setFnt _).raise _ _ hk).log _ _ _
  refine ⟨hlost, rfl, ?_, ?_, ?_, ?_, hregs, ?_⟩
  · rw [← hy]
    cases b <;> rfl
  · rw [← ho]
    cases b <;> rfl
  · rw [hp]
    cases b <;> rfl
  · rw [hp]
    cases b <;> rfl
  · rw [hp]
    cases b <;> rfl

/-- A stage disconnects while the other input stands: its input is lost, without Hold. -/
theorem OtherStands.dropStage (h : OtherStands b s) (hb : (s.input b).low < 2) (f : Input → Input) :
    dropStage b f s = Machine.loseInput b (s.updInput b fun x => { f x with on := false, healthy := false }) := by
  have hlost : decide ((s.input b).low ≥ 2) = false := decide_eq_false (Nat.not_le.mpr hb)
  unfold Machine.dropStage
  simp only [hlost, Bool.false_eq_true, if_false]
  exact (h.updInput _).loseInput.evalHold

/-- A stage disconnects at a sample of its input. -/
theorem OtherStands.dropStage_sampled (h : OtherStands b s) (hb : (s.input b).low < 2) (f : Input → Input) (mv : Nat) :
    Machine.dropStage b f (Machine.sampleInput b mv s) =
      Machine.loseInput b ((s.updInput b fun x => { f { x with mv := mv } with on := false, healthy := false }).put (voltsField b) (min mv 65535)) := by
  have hown : ((Machine.sampleInput b mv s).input b).low = (s.input b).low := by cases b <;> rfl
  rw [(h.sampleInput mv).dropStage (by rw [hown]; exact hb), sampleInput_updInput]

/-- The voltage shown at a sample stays shown when its input is lost. -/
theorem get_loseInput_volts (b : Bool) (u : State) : (loseInput b u).get (voltsField b) = u.get (voltsField b) := by
  rw [loseInput_eq, get_log, get_raise_ne (voltsField_key_ne b)]
  cases b <;> rfl

/-! ### The monitor's reports (R292, R455, R466) -/

theorem doInputLow_first {mv : Nat} (hv : mv < 8500) (hl : (s.input b).low = 0) : doInputLow b mv s =
    (s.updInput b fun x => { x with mv := mv, low := 1, lowAt := s.core.imp }).put (voltsField b) (min mv 65535) := by
  have himp : (sampleInput b mv s).core = s.core := by cases b <;> rfl
  unfold doInputLow
  simp only [if_pos hv, hl, himp, if_neg (show ¬0 ≥ 2 by decide), if_true]
  exact sampleInput_updInput b mv _ s

theorem OtherStands.doInputLow_second {mv : Nat} (h : OtherStands b s) (hv : mv < 8500) (hl : (s.input b).low = 1) (ht : (s.input b).lowAt < s.core.imp) :
    doInputLow b mv s = Machine.loseInput b (Machine.sampleInput b mv s) := by
  have hcore : (Machine.sampleInput b mv s).core = s.core := by cases b <;> rfl
  unfold doInputLow
  simp only [if_pos hv, hl, hcore, if_neg (show ¬1 ≥ 2 by decide), if_neg (show ¬1 = 0 by decide), gt_iff_lt, if_pos ht]
  exact (h.sampleInput mv).loseInput.evalHold

/-- The module as an input becomes healthy: the charger carries the bus no more. -/
def busRelieved (s : State) : State := { s with fnt := { s.fnt with carries := false } }

theorem input_busRelieved (c : Bool) (s : State) : (busRelieved s).input c = s.input c := by cases c <;> rfl

theorem doInputHealthy_runs {mv : Nat} (hv : 9000 ≤ mv) (hf : (s.input b).faultAt = none) (hl : (s.input b).latched = false) (hm : s.core.mode = .pressRun)
    (hp : s.pins.fPf = false) : doInputHealthy b mv s =
      ((busRelieved s).updInput b fun x => { x with mv := mv, low := 0, healthy := true }).put (voltsField b) (min mv 65535) := by
  have hx : doInputHealthy b mv s = evalHold ((sampleInput b mv (busRelieved s)).updInput b fun x => { x with low := 0, healthy := true }) :=
    if_pos ⟨hv, by rw [hf]; rfl, by rw [hl]; rfl⟩
  rw [hx, sampleInput_updInput]
  refine evalHold_runs ?_ (holdCond_eq_false (inputsLost_of_low_lt b ?_) ?_)
  · cases b <;> exact hm
  · cases b <;> exact Nat.zero_lt_two
  · cases b <;> exact hp

theorem doInputEnable_on {mv : Nat} (hv : 8800 < mv) (hf : (s.input b).faultAt = none) (hl : (s.input b).latched = false) : doInputEnable b mv s =
    (s.updInput b fun x => { x with mv := mv, on := true, latched := false }).put (voltsField b) (min mv 65535) := by
  have hx : doInputEnable b mv s = (sampleInput b mv s).updInput b fun x => { x with on := true, latched := false } :=
    if_pos ⟨hv, by rw [hf]; rfl, .inl (by rw [hl]; rfl)⟩
  exact hx.trans (sampleInput_updInput b mv _ s)

theorem doInputStageRetry_over {a : Nat} (hf : (s.input b).faultAt = some a) (ht : 125000 ≤ s.since a) :
    doInputStageRetry b s = s.updInput b fun x => { x with faultAt := none, on := true } := by
  unfold doInputStageRetry
  rw [hf]
  exact if_pos ht

theorem put_parts (F : FieldSpec) (v : Nat) (s : State) : s.put F v = { s with rf := (s.put F v).rf } := rfl

/-! ### A change between the running states (R387, R415) -/

theorem Rwf.setCore (h : Rwf s) (c : Core) : Rwf { s with core := c } := h
theorem RegsBut.setCore (h : RegsBut ks s t) (c : Core) : RegsBut ks s { t with core := c } := ⟨h.regs, h.latches, h.words⟩

/-- The registers that show a change of the module state. -/
def changeShown (s : State) : State := (s.ibi 1).raise Reg.Glb.STATE_CHANGE

theorem Rwf.changeShown (h : Rwf s) : Rwf (changeShown s) := (h.ibi _).raise _ _
theorem get_changeShown (h : Rwf s) : (changeShown s).get Reg.Glb.STATE_CHANGE = 1 := get_raise_eq (h.ibi _) _ _
theorem get_changeShown_ne {F : FieldSpec} (hi : F.key 0 ≠ Reg.Hif.IBI_PENDING.key 0) (hc : F.key 0 ≠ Reg.Glb.STATE_CHANGE.key 0) (s : State) :
    (changeShown s).get F = s.get F := (get_raise_ne hc _).trans (get_ibi_ne hi _ _)
theorem RegsBut.changeShown (h : RegsBut ks s t) (hi : Reg.Hif.IBI_PENDING.key 0 ∈ ks) (hc : Reg.Glb.STATE_CHANGE.key 0 ∈ ks) : RegsBut ks s (changeShown t) :=
  (h.ibi _ hi).raise _ _ hc

/-- Another state takes the place of one that is not of makeready. -/
def stateChanged (a m : ModState) (s : State) : State :=
  ({ changeShown s with core := { s.core with prev := a, mode := m, entered := s.core.imp } } : State).log 0x0002 0 [a.code, m.code]

theorem enter_running {a m : ModState} (ha : s.core.mode = a) (h7 : 7 ≤ a.code) (hm : m ≠ .keyWait) : s.enter m = stateChanged a m s := by
  unfold State.enter
  simp only [ha, if_neg (Nat.not_lt.mpr h7), if_neg hm]
  rfl

theorem Rwf.stateChanged (h : Rwf s) (a m : ModState) : Rwf (stateChanged a m s) := (h.changeShown.setCore _).log _ _ _
theorem get_stateChanged (h : Rwf s) (a m : ModState) : (stateChanged a m s).get Reg.Glb.STATE_CHANGE = 1 := get_changeShown h
theorem get_stateChanged_ne {F : FieldSpec} (hi : F.key 0 ≠ Reg.Hif.IBI_PENDING.key 0) (hc : F.key 0 ≠ Reg.Glb.STATE_CHANGE.key 0) (a m : ModState) (s : State) :
    (stateChanged a m s).get F = s.get F := get_changeShown_ne hi hc s
theorem RegsBut.stateChanged (h : RegsBut ks s t) (hi : Reg.Hif.IBI_PENDING.key 0 ∈ ks) (hc : Reg.Glb.STATE_CHANGE.key 0 ∈ ks) (a m : ModState) :
    RegsBut ks s (stateChanged a m t) := ((h.changeShown hi hc).setCore _).log _ _ _

/-! ### PWRFAIL_N and HOLD (R292 to R294, R300) -/

/-- An edge of PWRFAIL_N is noted. -/
def pfNoted (level : Bool) (s : State) : State :=
  { s with pins := { s.pins with
    fPf := level, pfEdges := s.core.imp :: s.pins.pfEdges.filter fun t => s.since t < 125000, pfSince := s.core.imp } }

theorem Rwf.pfNoted (h : Rwf s) (level : Bool) : Rwf (pfNoted level s) := h
theorem RegsBut.pfNoted (h : RegsBut ks s t) (level : Bool) : RegsBut ks s (pfNoted level t) := ⟨h.regs, h.latches, h.words⟩

theorem noteHealthy_elsewhere (h : s.core.mode ≠ .castDone) : noteHealthy s = s := if_neg h

theorem noteHealthy_parts (s : State) : ∃ c, noteHealthy s = { s with cast := c } := by
  unfold noteHealthy
  split
  · exact ⟨_, rfl⟩
  · exact ⟨s.cast, rfl⟩

/-- An edge that is no chatter, of a level that changes. -/
theorem doPwrfail_edge {level : Bool} (hl : s.pins.fPf ≠ level) (hm : s.core.mode ≠ .castDone)
    (hn : (s.pins.pfEdges.filter fun t => s.since t < 125000).length < 15) : doPwrfail level s = evalHold (pfNoted level s) := by
  have he : pfEdge level s = pfNoted level s := by
    have hq : noteHealthy (pfNoted level s) = pfNoted level s := noteHealthy_elsewhere hm
    show (if _ then _ else noteHealthy (pfNoted level s)) = _
    rw [hq]
    exact if_neg (by rw [List.length_cons]; omega)
  rw [doPwrfail, if_neg hl, he]

theorem evalHold_enters (hm : s.core.mode = .pressRun) (hd : s.cast.due = none) (hc : holdCond s = true) : evalHold s = enterHold s := by
  unfold evalHold
  rw [hm, hc, hd]
  rfl

theorem evalHold_leaves (hm : s.core.mode = .hold) (hd : s.cast.due = none) (hc : holdCond s = false) (hh : anyHealthy s = true) : evalHold s = exitHold s := by
  unfold evalHold
  rw [hm, hc, hd, hh]
  rfl

/-- HOLD is entered: its time and the ceiling are kept, and it is reported. -/
def holdEntered (s : State) : State :=
  (({ s with fnt := { s.fnt with holdAt := s.core.imp, holdCeil := s.get Reg.Fount.CEILING } } : State).raise Reg.Fount.HOLD_ENTERED).log 0x1002 0
    (leBytes 4 (s.get Reg.Fount.CEILING))

theorem Rwf.holdEntered (h : Rwf s) : Rwf (holdEntered s) := ((h.setFnt _).raise _ _).log _ _ _
theorem get_holdEntered (h : Rwf s) : (holdEntered s).get Reg.Fount.HOLD_ENTERED = 1 := get_raise_eq (h.setFnt _) _ _
theorem get_holdEntered_ne {F : FieldSpec} (h : F.key 0 ≠ Reg.Fount.HOLD_ENTERED.key 0) (s : State) : (holdEntered s).get F = s.get F := get_raise_ne h _
theorem RegsBut.holdEntered (h : RegsBut ks s t) (hk : Reg.Fount.HOLD_ENTERED.key 0 ∈ ks) : RegsBut ks s (holdEntered t) := ((h.setFnt _).raise _ _ hk).log _ _ _

theorem endCalRest_idle (h : s.fnt.calAt = none) : endCalRest s = s := if_neg (by rw [h]; exact Bool.false_ne_true)

theorem enterHold_rides (hm : s.core.mode = .pressRun) (hc : s.fnt.calAt = none) (hr : s.get Reg.Fount.RIDE_MS ≠ 0) :
    enterHold s = stateChanged .pressRun .hold (holdEntered s) := by
  have hride : (stateChanged .pressRun .hold (holdEntered s)).get Reg.Fount.RIDE_MS = s.get Reg.Fount.RIDE_MS :=
    (get_stateChanged_ne (by decide) (by decide) _ _ _).trans (get_holdEntered_ne (by decide) s)
  have he : (holdEntered s).enter .hold = stateChanged .pressRun .hold (holdEntered s) := enter_running hm (by decide) (by decide)
  unfold enterHold
  rw [endCalRest_idle (s := { s with fnt := { s.fnt with holdAt := s.core.imp, holdCeil := s.get Reg.Fount.CEILING } }) hc]
  show (if ((holdEntered s).enter .hold).get Reg.Fount.RIDE_MS = 0 then _ else (holdEntered s).enter .hold) = _
  rw [he]
  exact if_neg (by rw [hride]; exact hr)

/-- HOLD is left: its length is reported. -/
def holdLeft (s : State) : State := (s.raise Reg.Fount.HOLD_RETURNED).log 0x1003 0 (leBytes 4 (s.since s.fnt.holdAt))

theorem Rwf.holdLeft (h : Rwf s) : Rwf (holdLeft s) := (h.raise _ _).log _ _ _
theorem get_holdLeft (h : Rwf s) : (holdLeft s).get Reg.Fount.HOLD_RETURNED = 1 := get_raise_eq h _ _
theorem get_holdLeft_ne {F : FieldSpec} (h : F.key 0 ≠ Reg.Fount.HOLD_RETURNED.key 0) (s : State) : (holdLeft s).get F = s.get F := get_raise_ne h s
theorem RegsBut.holdLeft (h : RegsBut ks s t) (hk : Reg.Fount.HOLD_RETURNED.key 0 ∈ ks) : RegsBut ks s (holdLeft t) := (h.raise _ _ hk).log _ _ _

theorem exitHold_runs (hm : s.core.mode = .hold) (hg : s.get Reg.Cast.RELEASE_GO = 0) (ha : s.cast.attn = false) :
    exitHold s = stateChanged .hold .pressRun (holdLeft s) := by
  have hgo : (stateChanged .hold .pressRun (holdLeft s)).get Reg.Cast.RELEASE_GO = 0 :=
    (get_stateChanged_ne (by decide) (by decide) _ _ _).trans ((get_holdLeft_ne (by decide) s).trans hg)
  have he : (holdLeft s).enter .pressRun = stateChanged .hold .pressRun (holdLeft s) := enter_running hm (by decide) (by decide)
  show (if ((holdLeft s).enter .pressRun).bit Reg.Cast.RELEASE_GO ∨ ((holdLeft s).enter .pressRun).cast.attn then _ else (holdLeft s).enter .pressRun) = _
  rw [he]
  refine if_neg (not_or.mpr ⟨?_, ?_⟩)
  · rw [State.bit, hgo]
    decide
  · exact ne_true_of_eq_false ha

/-- PWRFAIL_N is ignored for a cause, and says so. -/
def pfIgnoring (cause : Nat) (s : State) : State :=
  (((({ s with pins := { s.pins with pfIgnored := true } } : State).putB Reg.Fount.PF_IGNORED true).put Reg.Fount.PF_STUCK_CAUSE cause).raise
    Reg.Fount.PWRFAIL_STUCK).log 0x100D 0 [cause]

theorem get_pfIgnoring (hw : Rwf s) {cause : Nat} (hc : cause < 4) : (pfIgnoring cause s).get Reg.Fount.PF_IGNORED = 1 ∧
    (pfIgnoring cause s).get Reg.Fount.PF_STUCK_CAUSE = cause ∧ (pfIgnoring cause s).get Reg.Fount.PWRFAIL_STUCK = 1 := by
  have h1 : Rwf ({ s with pins := { s.pins with pfIgnored := true } } : State) := hw
  refine ⟨?_, ?_, ?_⟩
  · exact (get_raise_ne (by decide) _).trans ((get_put_ne (by decide) _ _).trans (get_putB_eq h1 _ _ _))
  · exact (get_raise_ne (by decide) _).trans ((get_put_eq (h1.putB _ _ _) _ _ _).trans (Nat.mod_eq_of_lt hc))
  · exact get_raise_eq ((h1.putB _ _ _).put _ _ _) _ _

theorem regsBut_pfIgnoring (s : State) (cause : Nat) :
    RegsBut [Reg.Fount.PF_IGNORED.key 0, Reg.Fount.PF_STUCK_CAUSE.key 0, Reg.Fount.PWRFAIL_STUCK.key 0] s (pfIgnoring cause s) := by
  have h : RegsBut [Reg.Fount.PF_IGNORED.key 0, Reg.Fount.PF_STUCK_CAUSE.key 0, Reg.Fount.PWRFAIL_STUCK.key 0] s
      { s with pins := { s.pins with pfIgnored := true } } := (RegsBut.refl _ s).same rfl
  exact (((h.putB _ _ _ (by simp)).put _ _ _ (by simp)).raise _ _ (by simp)).log _ _ _

theorem evalHold_castDone (hm : s.core.mode = .castDone) (hh : anyHealthy s = true) : evalHold s = noteHealthy s := by
  unfold evalHold
  rw [hm]
  exact if_neg (by rw [hh]; simp)

theorem doPwrfailStuck_ignores (hm : s.core.mode = .castDone) (hp : s.pins.fPf = true) (hi : s.pins.pfIgnored = false) (hh : anyHealthy s = true)
    (ht : 7500000 ≤ s.since (max s.pins.pfSince s.core.entered)) : ∃ c, doPwrfailStuck s = { pfIgnoring 1 s with cast := c } := by
  have hx : doPwrfailStuck s = noteHealthy (pfIgnoring 1 s) := by
    unfold doPwrfailStuck ignorePf
    rw [if_pos ⟨hm, hp, hh, ht⟩, if_neg (by rw [hi]; exact Bool.false_ne_true)]
    exact evalHold_castDone (s := pfIgnoring 1 s) hm hh
  rw [hx]
  exact noteHealthy_parts _

theorem doPwrfailTrusted_trusts (hi : s.pins.pfIgnored = true) (hp : s.pins.fPf = false) (ht : 125000 ≤ s.since s.pins.pfSince) : doPwrfailTrusted s =
    (({ s with pins := { s.pins with pfIgnored := false } } : State).putB Reg.Fount.PF_IGNORED false).put Reg.Fount.PF_STUCK_CAUSE 0 :=
  if_pos ⟨hi, by rw [hp]; rfl, ht⟩

/-- Settles O35: a stage or an input by what it makes of its input alone, the loss of one input by what it reports, and the edges of PWRFAIL_N
by what they do to HOLD. -/
theorem inputStagesAndHold : Obligations.InputStagesAndHold := by
  unfold Obligations.InputStagesAndHold
  refine ⟨?enable, ?overcurrent, ?retry, ?overvoltage, ?off, ?first, ?second, ?healthy, ?asserted, ?deasserted, ?stuck, ?trusted⟩
  case enable =>
    intro s b mv hl hv hf hla
    refine Gives.on (f := doInputEnable b mv) rfl hl ?_
    rw [doInputEnable_on hv hf hla]
    obtain ⟨t, ht, -, hg, hr, -⟩ := sampled (b := b) (.live hl) List.mem_cons_self (fun x => { x with mv := mv, on := true, latched := false }) mv
    rw [← ht] at hg hr
    exact ⟨hg, hr, put_parts _ _ _⟩
  case overcurrent =>
    intro s b hl hm hp ho hb
    refine Gives.on (f := doInputOvercurrent b) rfl hl ?_
    rw [doInputOvercurrent, OtherStands.dropStage ⟨hm, hp, ho⟩ hb]
    exact loseInput_reports (Rwf.updInput (.live hl) b _) List.mem_cons_self ((RegsBut.refl _ s).updInput b _) (by rw [updInput_parts])
      (by rw [input_updInput]) (input_updInput_other b _ s)
  case retry =>
    intro s b a hl hf ht
    exact Gives.on (f := doInputStageRetry b) rfl hl (doInputStageRetry_over hf ht)
  case overvoltage =>
    intro s b mv hl hv hm hp ho hb
    refine Gives.on (f := doInputOvervoltage b mv) rfl hl ?_
    rw [doInputOvervoltage, if_pos hv, OtherStands.dropStage_sampled ⟨hm, hp, ho⟩ hb]
    obtain ⟨t, ht, hw, hg, hr, hy, hother, hparts⟩ := sampled (b := b) (.live hl) (List.mem_cons_of_mem _ List.mem_cons_self)
      (fun x => { x with mv := mv, latched := true, on := false, healthy := false }) mv
    rw [ht]
    exact ⟨(get_loseInput_volts b t).trans hg, loseInput_reports hw List.mem_cons_self hr hparts (by rw [hy]) hother⟩
  case off =>
    intro s b mv hl hv hm hp ho hb
    refine Gives.on (f := doInputStageOff b mv) rfl hl ?_
    rw [doInputStageOff, if_pos hv, OtherStands.dropStage_sampled ⟨hm, hp, ho⟩ hb]
    obtain ⟨t, ht, hw, hg, hr, hy, hother, hparts⟩ := sampled (b := b) (.live hl) (List.mem_cons_of_mem _ List.mem_cons_self)
      (fun x => { x with mv := mv, on := false, healthy := false }) mv
    rw [ht]
    exact ⟨(get_loseInput_volts b t).trans hg, loseInput_reports hw List.mem_cons_self hr hparts (by rw [hy]) hother⟩
  case first =>
    intro s b mv hl hv hlow
    refine Gives.on (f := doInputLow b mv) rfl hl ?_
    rw [doInputLow_first hv hlow]
    obtain ⟨t, ht, -, hg, hr, -⟩ := sampled (b := b) (.live hl) List.mem_cons_self (fun x => { x with mv := mv, low := 1, lowAt := s.core.imp }) mv
    rw [← ht] at hg hr
    exact ⟨hg, hr, put_parts _ _ _⟩
  case second =>
    intro s b mv hl hv hlow hat hm hp ho
    refine Gives.on (f := doInputLow b mv) rfl hl ?_
    rw [OtherStands.doInputLow_second ⟨hm, hp, ho⟩ hv hlow hat, sampleInput_eq]
    obtain ⟨t, ht, hw, hg, hr, hy, hother, hparts⟩ := sampled (b := b) (.live hl) (List.mem_cons_of_mem _ List.mem_cons_self)
      (fun x => { x with mv := mv }) mv
    rw [ht]
    exact ⟨(get_loseInput_volts b t).trans hg, loseInput_reports hw List.mem_cons_self hr hparts (by rw [hy]) hother⟩
  case healthy =>
    intro s b mv hl hv hf hla hm hp
    refine Gives.on (f := doInputHealthy b mv) rfl hl ?_
    rw [doInputHealthy_runs hv hf hla hm hp]
    have hw : Rwf (busRelieved s) := Rwf.setFnt (.live hl) _
    obtain ⟨t, ht, -, hg, hr, hy, hother, hparts⟩ := sampled (b := b) hw List.mem_cons_self (fun x => { x with mv := mv, low := 0, healthy := true }) mv
    have hcarries : ((busRelieved s).updInput b fun x => { x with mv := mv, low := 0, healthy := true }).fnt.carries = false := by cases b <;> rfl
    rw [input_busRelieved] at hy hother
    rw [← ht] at hg hr hy hother hparts
    exact ⟨hg, ⟨hr.regs, hr.latches, hr.words⟩, hy, hother, hcarries, hparts⟩
  case asserted =>
    intro s hl hm hd hp hi hn hr hc
    refine Gives.on (f := doPwrfail true) rfl hl ?_
    have hcond : holdCond (pfNoted true s) = true := by simp [holdCond, pfNoted, hi]
    rw [doPwrfail_edge (by rw [hp]; decide) (by rw [hm]; decide) hn, evalHold_enters (s := pfNoted true s) hm hd hcond, enterHold_rides (s := pfNoted true s) hm hc hr]
    have hw : Rwf (pfNoted true s) := Rwf.pfNoted (.live hl) true
    refine ⟨rfl, ?_, get_stateChanged hw.holdEntered _ _, rfl, rfl, rfl, ?_, rfl⟩
    · exact (get_stateChanged_ne (by decide) (by decide) _ _ _).trans (get_holdEntered hw)
    · exact (((RegsBut.refl _ s).pfNoted true).holdEntered (by simp)).stateChanged (by simp) (by simp) _ _
  case deasserted =>
    intro s hl hm hd hp hi hn hlost hh hg ha
    refine Gives.on (f := doPwrfail false) rfl hl ?_
    have hcond : holdCond (pfNoted false s) = false := holdCond_eq_false hlost rfl
    rw [doPwrfail_edge (by rw [hp]; decide) (by rw [hm]; decide) hn, evalHold_leaves (s := pfNoted false s) hm hd hcond hh, exitHold_runs (s := pfNoted false s) hm hg ha]
    have hw : Rwf (pfNoted false s) := Rwf.pfNoted (.live hl) false
    refine ⟨rfl, ?_, get_stateChanged hw.holdLeft _ _, rfl, rfl, ?_, rfl⟩
    · exact (get_stateChanged_ne (by decide) (by decide) _ _ _).trans (get_holdLeft hw)
    · exact (((RegsBut.refl _ s).pfNoted false).holdLeft (by simp)).stateChanged (by simp) (by simp) _ _
  case stuck =>
    intro s hl hm hp hi hh ht
    refine Gives.on (f := doPwrfailStuck) rfl hl ?_
    obtain ⟨c, hx⟩ := doPwrfailStuck_ignores hm hp hi hh ht
    obtain ⟨hig, hca, hst⟩ := get_pfIgnoring (cause := 1) (Rwf.live hl) (by decide)
    rw [hx]
    exact ⟨rfl, hig, hca, hst, rfl, rfl, (regsBut_pfIgnoring s 1).same rfl, rfl⟩
  case trusted =>
    intro s hl hi hp ht
    refine Gives.on (f := doPwrfailTrusted) rfl hl ?_
    rw [doPwrfailTrusted_trusts hi hp ht]
    have hw : Rwf { s with pins := { s.pins with pfIgnored := false } } := Rwf.same (s := s) (.live hl) rfl
    have hb : RegsBut [Reg.Fount.PF_IGNORED.key 0, Reg.Fount.PF_STUCK_CAUSE.key 0] s { s with pins := { s.pins with pfIgnored := false } } :=
      (RegsBut.refl _ s).same rfl
    exact ⟨rfl, (get_put_ne (by decide) _ _).trans (get_putB_eq hw _ _ _), get_put_eq (hw.putB _ _ _) _ _ _,
      (hb.putB _ _ _ (by simp)).put _ _ _ (by simp), rfl⟩

end Sys2Proof.Machine
end

section
/-!
SUPPORT. Releases: how RELEASE_GO is taken or refused, the final commit, what recording and flushing the log changes, the close of every
connection, and the end of a release (R305, R306, R397).
-/

namespace Sys2Proof.Machine

variable {s t u : State} {ks : List Nat}

/-! ### RELEASE_GO (R306) -/

/-- A release of a module with nothing open and nothing dirty, as it begins. -/
def releaseBegun (s : State) : State :=
  { stateChanged .pressRun .release s with
    core := { s.core with prev := .pressRun, mode := .release, entered := s.core.imp, released := false }
    cast := { s.cast with final := false }, fnt := { s.fnt with relHold := none } }

theorem startRelease_clean (hm : s.core.mode = .pressRun) (hz : s.zn.zones = []) (hd : dirtySheets s = []) : startRelease s = releaseBegun s := by
  have hdirty : dirtySheets (releaseBegun s) = [] := hd
  unfold startRelease
  rw [enter_running hm (by decide) (by decide)]
  change (dirtySheets ((s.zn.zones.map (·.1)).foldl (fun s k => closeForRelease k s) (releaseBegun s))).foldl
    (fun s x => s.updSig x.1 fun y => { y with rank2 := addTo x.2 y.rank2 })
    ((s.zn.zones.map (·.1)).foldl (fun s k => closeForRelease k s) (releaseBegun s)) = releaseBegun s
  rw [hz, List.map_nil, List.foldl_nil, hdirty, List.foldl_nil]

theorem doReleaseGo_runs (hm : s.core.mode = .pressRun) (hc : s.cast.due = none) (hf : s.get Reg.Cast.RELEASE_FAST = 0) :
    doReleaseGo s = startRelease (s.pulse Reg.Cast.RELEASE_GO) := by
  have hfast : (s.pulse Reg.Cast.RELEASE_GO).bit Reg.Cast.RELEASE_FAST = false := by
    rw [State.bit, get_pulse_ne (by decide), hf]
    rfl
  unfold doReleaseGo beginRelease
  rw [hc, hm, hfast]
  rfl

theorem doReleaseGo_hold (hm : s.core.mode = .hold) (hc : s.cast.due = none) : doReleaseGo s = s.ask Reg.Cast.RELEASE_GO := by
  unfold doReleaseGo
  rw [hc, hm]
  rfl

theorem doReleaseGo_refused (h1 : s.core.mode ≠ .pressRun) (h2 : s.core.mode ≠ .hold) (h3 : s.core.mode ≠ .release) :
    doReleaseGo s = (s.pulse Reg.Cast.RELEASE_GO).raise Reg.Cast.RELEASE_REFUSED := by
  unfold doReleaseGo
  extract_lets refuse
  split
  · rfl
  · split
    case h_1 h => exact absurd h h1
    case h_2 h => exact absurd h h2
    case h_3 h => exact absurd h h3
    case h_4 => rfl

/-! ### The final commit (R142) -/

theorem doBitmapCommit_parts (g : Nat) (s : State) : doBitmapCommit g s = { s with sigs := (doBitmapCommit g s).sigs, out := (doBitmapCommit g s).out } := by
  unfold doBitmapCommit
  extract_lets x
  split_ifs
  · rw [foldl_emit_parts]
    rfl
  · rfl

theorem doReleaseUpdatesRetired_asks (hm : s.core.mode = .release) (hf : s.cast.final = false) (hi : releaseIdle s = true) :
    (doReleaseUpdatesRetired s).cast = { s.cast with final := true } ∧ (doReleaseUpdatesRetired s).core = s.core ∧
      (doReleaseUpdatesRetired s).cs = s.cs ∧ (doReleaseUpdatesRetired s).conns = s.conns := by
  unfold doReleaseUpdatesRetired
  rw [if_pos ⟨hm, by rw [hf]; rfl, hi⟩]
  refine foldl_keep (fun t : State => t.cast = { s.cast with final := true } ∧ t.core = s.core ∧ t.cs = s.cs ∧ t.conns = s.conns) _ _ ⟨rfl, rfl, rfl, rfl⟩
    fun t g ht => ?_
  rw [doBitmapCommit_parts]
  exact ht

/-! ### The Errata log at the end of a release -/

/-- A field that is not among those that can change reads as before. -/
theorem RegsBut.get (h : RegsBut ks s t) {F : FieldSpec} (hk : F.key 0 ∉ ks) : t.get F = s.get F :=
  congrArg (fun o : Option Nat => o.getD 0) (h.regs _ hk)

/-- The counts and event bits of the log. -/
def logKeys : List Nat := [Reg.El.ERRATA_LOST.key 0, Reg.El.EL_LOST.key 0, Reg.El.SUPPRESSED.key 0, Reg.El.EL_FULL.key 0]

/-- Recording and flushing: the log, its counts and event bits, and the halves of the Stereo store; every other part is as before. -/
structure LogOnly (s t : State) : Prop where
  parts : t = { s with rf := t.rf, el := t.el, st0 := t.st0, st1 := t.st1 }
  regs : RegsBut logKeys s t

theorem LogOnly.refl (s : State) : LogOnly s s := ⟨rfl, RegsBut.refl _ s⟩

theorem LogOnly.setEl (h : LogOnly s t) (e : Errata) : LogOnly s { t with el := e } :=
  ⟨by rw [h.parts], h.regs.same rfl⟩

theorem LogOnly.bump (h : LogOnly s t) {F : FieldSpec} (hk : F.key 0 ∈ logKeys) : LogOnly s (t.bump F) :=
  ⟨by rw [h.parts]; rfl, h.regs.bump _ _ _ hk⟩

theorem LogOnly.raise (h : LogOnly s t) {F : FieldSpec} (hk : F.key 0 ∈ logKeys) : LogOnly s (t.raise F) :=
  ⟨by rw [h.parts]; rfl, h.regs.raise _ _ hk⟩

theorem LogOnly.eachHalf (h : LogOnly s t) (f : HalfSt → HalfSt) : LogOnly s (t.eachHalf f) :=
  ⟨by rw [h.parts]; rfl, h.regs.same rfl⟩

theorem LogOnly.errDrop (h : LogOnly s t) : LogOnly s (errDrop t) := (h.bump (by simp [logKeys])).raise (by simp [logKeys])

theorem LogOnly.errAppend (h : LogOnly s t) (r : ErrRec) : LogOnly s (errAppend r t) := by
  unfold Machine.errAppend
  extract_lets r'
  split_ifs
  · exact h.errDrop
  · exact h.setEl _

theorem LogOnly.errRepeat (h : LogOnly s t) (r : ErrRec) : LogOnly s (errRepeat r t) := by
  unfold Machine.errRepeat
  split
  · split_ifs
    · exact h.setEl _
    · exact h.errAppend _
    · exact h.errAppend r
  · exact h.errAppend r

theorem LogOnly.endRateWindow (h : LogOnly s t) (code : Nat) : LogOnly s (endRateWindow code t) := by
  unfold Machine.endRateWindow
  split
  · exact h
  · split_ifs
    · exact h
    · exact h.setEl _
    · exact (h.setEl _).errAppend _

theorem LogOnly.errRate (h : LogOnly s t) (r : ErrRec) : LogOnly s (errRate r t) := by
  have hw := h.endRateWindow r.code
  unfold Machine.errRate
  extract_lets v
  split
  · exact (hw.setEl _).errAppend r
  · split_ifs
    · exact (hw.setEl _).errAppend r
    · exact (hw.setEl _).bump (by simp [logKeys])

theorem LogOnly.errRecord (h : LogOnly s t) (r : ErrRec) : LogOnly s (errRecord t r) := by
  unfold Machine.errRecord
  extract_lets c
  split_ifs
  · exact h.errAppend r
  · exact h.errRepeat r
  · exact h.errRate r
  · exact h.errAppend r

theorem LogOnly.recordEvents (h : LogOnly s t) : LogOnly s (recordEvents t) :=
  foldl_keep (LogOnly s) _ _ (h.setEl _) fun _ r ht => ht.errRecord r

theorem LogOnly.flushOne (h : LogOnly s t) (r : ErrRec) : LogOnly s (flushOne t r) := by
  unfold Machine.flushOne
  split
  · extract_lets v full rec
    split_ifs
    · exact h.errDrop
    · exact (h.errDrop.eachHalf _).raise (by simp [logKeys])
  · exact (h.eachHalf _).setEl _

theorem LogOnly.flushLog (h : LogOnly s t) : LogOnly s (flushLog t) := by
  unfold Machine.flushLog
  split_ifs
  · extract_lets recs v
    split_ifs
    · exact h.setEl _
    · exact foldl_keep (LogOnly s) _ _ ((h.setEl _).setEl _) fun _ r ht => ht.flushOne r
  · exact h

/-! ### Every connection closes (R49) -/

/-- Connection `i` is gone from a table, and none is new in it. -/
structure Gone (i : Nat) (m m' : NMap Conn) : Prop where
  wf : NMap.wf m'
  self : nfind i m' = none
  old : ∀ j, nfind j m = none → nfind j m' = none

theorem mem_of_nfind {α : Type} {k : Nat} {v : α} {m : NMap α} (h : nfind k m = some v) : (k, v) ∈ m := by
  induction m with
  | nil => cases h
  | cons e m ih =>
    rw [nfind_cons] at h
    split_ifs at h with he
    · cases h
      exact he ▸ List.mem_cons_self
    · exact List.mem_cons_of_mem _ (ih h)

theorem closeOne_gone (hw : NMap.wf s.conns) (i : Nat) : Gone i s.conns (closeOne i s).conns := by
  cases hi : nfind i s.conns with
  | none =>
    have e : closeOne i s = s := by simp [closeOne, State.conn, hi]
    rw [e]
    exact ⟨hw, hi, fun _ h => h⟩
  | some c =>
    obtain ⟨hc, -⟩ := closeOne_conns hi
    refine ⟨by rw [hc]; exact NMap.wf_ndel i hw, by rw [hc]; exact nfind_ndel_self i hw, fun j hj => ?_⟩
    rw [hc, nfind_ndel_ne (by rintro rfl; rw [hi] at hj; cases hj), hj]

/-- Closing several connections, one after the other, keeps the order of the table and brings none back. -/
theorem foldl_none_new {f : State → Nat → State} (hf : ∀ u i, NMap.wf u.conns → Gone i u.conns (f u i).conns) (l : List Nat) (hw : NMap.wf s.conns) :
    NMap.wf (l.foldl f s).conns ∧ ∀ j, nfind j s.conns = none → nfind j (l.foldl f s).conns = none := by
  induction l generalizing s with
  | nil => exact ⟨hw, fun _ h => h⟩
  | cons a l ih =>
    obtain ⟨hwf, -, hold⟩ := hf s a hw
    obtain ⟨h1, h2⟩ := ih hwf
    exact ⟨h1, fun j hj => h2 j (hold j hj)⟩

/-- Closing several connections, one after the other, leaves none of them. -/
theorem foldl_gone {f : State → Nat → State} (hf : ∀ u i, NMap.wf u.conns → Gone i u.conns (f u i).conns) {l : List Nat} {i : Nat} (hi : i ∈ l)
    (hw : NMap.wf s.conns) : Gone i s.conns (l.foldl f s).conns := by
  obtain ⟨hwf, hold⟩ := foldl_none_new hf l hw
  refine ⟨hwf, ?_, hold⟩
  obtain ⟨l1, l2, rfl⟩ := List.append_of_mem hi
  obtain ⟨h1, -⟩ := foldl_none_new hf l1 hw
  obtain ⟨h2, hself, -⟩ := hf (l1.foldl f s) i h1
  rw [List.foldl_append, List.foldl_cons]
  exact (foldl_none_new hf l2 h2).2 i hself

theorem closeConn_gone (hw : NMap.wf s.conns) (i : Nat) : Gone i s.conns (closeConn i s).conns := by
  cases hi : nfind i s.conns with
  | none =>
    have e : closeConn i s = s := by simp [closeConn, State.conn, hi]
    rw [e]
    exact ⟨hw, hi, fun _ h => h⟩
  | some c =>
    unfold closeConn State.conn
    rw [hi]
    dsimp only
    split_ifs with hc
    · have hmem : i ∈ (s.conns.filter fun p => p.2.connected && p.2.cntlid == c.cntlid).map (·.1) :=
        List.mem_map.mpr ⟨(i, c), List.mem_filter.mpr ⟨mem_of_nfind hi, by simp [hc.1]⟩, rfl⟩
      exact foldl_gone (fun u j h => closeOne_gone h j) hmem hw
    · exact closeOne_gone hw i

theorem nil_of_nfind_none {α : Type} {m : NMap α} (h : ∀ j, nfind j m = none) : m = [] := by
  cases m with
  | nil => rfl
  | cons e m =>
    have he := h e.1
    rw [nfind_cons, if_pos rfl] at he
    cases he

theorem closeAll_conns (hw : NMap.wf s.conns) : (closeAll s).conns = [] := by
  have hf : ∀ (u : State) (i : Nat), NMap.wf u.conns → Gone i u.conns (closeConn i u).conns := fun u i h => closeConn_gone h i
  refine nil_of_nfind_none fun j => ?_
  cases hj : nfind j s.conns with
  | none => exact (foldl_none_new hf _ hw).2 j hj
  | some c =>
    have hmem : j ∈ s.conns.map (·.1) := List.mem_map.mpr ⟨(j, c), mem_of_nfind hj, rfl⟩
    exact (foldl_gone hf hmem hw).self

/-! ### The front end goes off (Table 1.7) -/

/-- The ports go off once no connection is left: the connections stay gone, and the module state, the Case and the signatures stay. -/
structure PortsOff (s t : State) : Prop where
  conns : t.conns = []
  wf : Rwf t
  core : t.core = s.core
  cs : t.cs = s.cs
  sigs : t.sigs = s.sigs
  maint : t.get Reg.Glb.MAINT_PENDING = s.get Reg.Glb.MAINT_PENDING

theorem PortsOff.declareLink (h : PortsOff s t) (p : Nat) : PortsOff s (declareLink p false t) := by
  have hw : Rwf (Machine.declareLink p false t) := ((((h.wf.putB _ _ p).putB _ _ p).putB _ _ p).putB _ _ p).raise _ _
  refine ⟨h.conns, hw, h.core, h.cs, h.sigs, ?_⟩
  unfold Machine.declareLink setLink
  rw [get_log, get_raise_ne (by decide), get_putB_ne (key_ne_of_below p), get_putB_ne (key_ne_of_below p), get_putB_ne (key_ne_of_below p),
    get_putB_ne (key_ne_of_below p), h.maint]

theorem closePort_none (h : s.conns = []) (p : Nat) : closePort p s = s := by
  unfold closePort
  rw [h]
  rfl

theorem PortsOff.dropPort (h : PortsOff s t) (p : Nat) : PortsOff s (dropPort p t) := by
  have hd : PortsOff s (if t.portUp p then Machine.declareLink p false t else t) := by
    split_ifs
    · exact h.declareLink p
    · exact h
  unfold Machine.dropPort
  generalize (if t.portUp p then Machine.declareLink p false t else t) = u at hd
  dsimp only
  rw [closePort_none (s := u.updFe p _) hd.conns]
  exact ⟨hd.conns, hd.wf, hd.core, hd.cs, hd.sigs, hd.maint⟩

theorem feOff_portsOff (hw : Rwf s) (hc : s.conns = []) : PortsOff s (feOff s) :=
  foldl_keep (PortsOff s) _ _ ⟨hc, hw, rfl, rfl, rfl, rfl⟩ fun _ p ht => ht.dropPort p

/-! ### The end of a release (R305, R397) -/

/-- The log is flushed, the block refreshed, and every connection closed (R305 steps 4 and 5). -/
def releaseClosed (s : State) : State := closeAll (refreshGsb (flushLog (recordEvents s)))

theorem releaseClosed_portsOff (hl : Live s) (hw : NMap.wf s.conns) : PortsOff s (releaseClosed s) := by
  have hlog : LogOnly s (flushLog (recordEvents s)) := (LogOnly.refl s).recordEvents.flushLog
  have hkept := closeAll_kept _ (refreshGsb_kept _ (flushLog_kept _ (recordEvents_kept _ hl.canon.kept)))
  have hwf : Rwf (releaseClosed s) := hkept.canon.regs.1
  have hclose : ClosesOnly (refreshGsb (flushLog (recordEvents s))) (releaseClosed s) := closeAll_closes _
  have hnone : NMap.wf (refreshGsb (flushLog (recordEvents s))).conns → (releaseClosed s).conns = [] := closeAll_conns
  have hparts := refreshGsb_parts (flushLog (recordEvents s))
  have hmaint := get_refreshGsb_ne (F := Reg.Glb.MAINT_PENDING) (by decide) (flushLog (recordEvents s))
  generalize refreshGsb (flushLog (recordEvents s)) = v at hclose hnone hparts hmaint
  generalize releaseClosed s = u at hclose hnone hwf ⊢
  generalize flushLog (recordEvents s) = w at hlog hparts hmaint
  have hc : v.conns = s.conns ∧ v.core = s.core ∧ v.cs = s.cs ∧ v.sigs = s.sigs := by
    rw [hparts, hlog.parts]
    exact ⟨rfl, rfl, rfl, rfl⟩
  obtain ⟨hconns, hcore, hcs, hsigs⟩ := hc
  refine ⟨hnone (by rw [hconns]; exact hw), hwf, by rw [hclose]; exact hcore, by rw [hclose]; exact hcs, by rw [hclose]; exact hsigs, ?_⟩
  have hrf : u.rf = v.rf := by rw [hclose]
  calc u.get Reg.Glb.MAINT_PENDING
    _ = v.get Reg.Glb.MAINT_PENDING := by rw [State.get, hrf]; rfl
    _ = w.get Reg.Glb.MAINT_PENDING := hmaint
    _ = s.get Reg.Glb.MAINT_PENDING := hlog.regs.get (by decide)

theorem doReleaseComplete_done (hm : s.core.mode = .release) (hf : s.cast.final = true) (hr : s.core.released = false)
    (hs : (s.sigs.any fun p => p.2.inService && (p.2.commit.isSome || p.2.pendingSet)) = false) : doReleaseComplete s =
      if (releaseClosed s).bit Reg.Glb.MAINT_PENDING then (feOff ((releaseClosed s).putB Reg.Glb.MAINT_PENDING false)).enter .maintenance
      else (({ releaseClosed s with core := { (releaseClosed s).core with released := true }, fnt := { (releaseClosed s).fnt with relHold := none } } :
        State).raise Reg.Cast.RELEASE_DONE).log 0x100E 0 [0] := if_pos ⟨hm, hf, by rw [hr]; rfl, by rw [hs]; rfl⟩

/-- Settles O46: RELEASE_GO by the module state; the final commit by what asking for it keeps; and the end of a release by whether MAINTENANCE waits. -/
theorem releases : Obligations.Releases := by
  unfold Obligations.Releases
  refine ⟨?begins, ?held, ?refused, ?retired, ?done, ?maintenance⟩
  case begins =>
    intro s hl hm hc hf hz hd
    refine Gives.on (f := doReleaseGo) rfl hl ?_
    rw [doReleaseGo_runs hm hc hf, startRelease_clean (s := s.pulse Reg.Cast.RELEASE_GO) hm hz hd]
    have hw : Rwf (s.pulse Reg.Cast.RELEASE_GO) := Rwf.pulse (.live hl) Reg.Cast.RELEASE_GO 0
    have hchange := get_stateChanged hw .pressRun .release
    have hregs : RegsBut [Reg.Cast.RELEASE_GO.key 0, Reg.Hif.IBI_PENDING.key 0, Reg.Glb.STATE_CHANGE.key 0] s
        (stateChanged .pressRun .release (s.pulse Reg.Cast.RELEASE_GO)) :=
      ((RegsBut.refl _ s).pulse Reg.Cast.RELEASE_GO 0 (by simp)).stateChanged (by simp) (by simp) .pressRun .release
    exact ⟨rfl, rfl, rfl, hchange, rfl, ⟨hregs.regs, hregs.latches, hregs.words⟩, rfl⟩
  case held =>
    intro s hl hm hc
    refine Gives.on (f := doReleaseGo) rfl hl ?_
    rw [doReleaseGo_hold hm hc]
    exact ⟨get_ask_eq (.live hl) _ _, (RegsBut.refl _ s).ask _ _ (by simp), rfl⟩
  case refused =>
    intro s hl h1 h2 h3
    refine Gives.on (f := doReleaseGo) rfl hl ?_
    rw [doReleaseGo_refused h1 h2 h3]
    exact ⟨get_raise_eq (Rwf.pulse (.live hl) Reg.Cast.RELEASE_GO 0) Reg.Cast.RELEASE_REFUSED 0,
      ((RegsBut.refl _ s).pulse Reg.Cast.RELEASE_GO 0 (by simp)).raise Reg.Cast.RELEASE_REFUSED 0 (by simp), rfl⟩
  case retired =>
    intro s hl hm hf hi
    refine Gives.on (f := doReleaseUpdatesRetired) rfl hl ?_
    obtain ⟨hcast, hcore, hcs, hconns⟩ := doReleaseUpdatesRetired_asks hm hf hi
    exact ⟨hcast, by rw [hcore, hm], hcs, hconns⟩
  case done =>
    intro s hl hm hf hr hs hp hw
    refine Gives.on (f := doReleaseComplete) rfl hl ?_
    have hu := releaseClosed_portsOff hl hw
    rw [doReleaseComplete_done hm hf hr hs]
    generalize releaseClosed s = u at hu ⊢
    rw [State.bit, hu.maint, hp, if_neg (by decide)]
    exact ⟨by rw [← hu.core]; rfl, get_raise_eq (hu.wf.same rfl) _ _, hu.conns, rfl, hu.cs, hu.sigs⟩
  case maintenance =>
    intro s hl hm hf hr hs hp hw
    refine Gives.on (f := doReleaseComplete) rfl hl ?_
    have hu := releaseClosed_portsOff hl hw
    rw [doReleaseComplete_done hm hf hr hs]
    generalize releaseClosed s = u at hu ⊢
    have hv : PortsOff (u.putB Reg.Glb.MAINT_PENDING false) (feOff (u.putB Reg.Glb.MAINT_PENDING false)) := feOff_portsOff (hu.wf.putB _ _ _) hu.conns
    have hmaint := hv.maint.trans (get_putB_eq hu.wf _ _ _)
    have hcore : (feOff (u.putB Reg.Glb.MAINT_PENDING false)).core = s.core := hv.core.trans hu.core
    generalize feOff (u.putB Reg.Glb.MAINT_PENDING false) = v at hv hmaint hcore ⊢
    have henter : v.enter .maintenance = stateChanged .release .maintenance v := enter_running (by rw [hcore, hm]) (by decide) (by decide)
    rw [State.bit, hu.maint, hp, if_pos (by decide), henter]
    exact ⟨rfl, rfl, (get_stateChanged_ne (by decide) (by decide) _ _ _).trans hmaint, get_stateChanged hv.wf _ _, hv.conns, hv.cs.trans hu.cs,
      hv.sigs.trans hu.sigs⟩

end Sys2Proof.Machine
end

section
/-!
SUPPORT. What changes the scheduler from outside its queue: minimum shares (R311), the inlet temperature and the thermal state (R316, R317), and the
end of a fairness window (R321).
-/

namespace Sys2Proof.Machine

variable {s t : State} {ks : List Nat}

/-! ### A change of the scheduler's own data -/

theorem Rwf.setSch (h : Rwf s) (m : Sched) : Rwf { s with sch := m } := h
theorem RegsBut.setSch (h : RegsBut ks s t) (m : Sched) : RegsBut ks s { t with sch := m } := h.same rfl
theorem get_setSch (s : State) (m : Sched) (F : FieldSpec) (i : Nat) : ({ s with sch := m } : State).get F i = s.get F i := rfl

/-! ### Minimum shares (R311) -/

/-- The sum of the shares, where `v` is written to the word of MIN_C2 to MIN_C5 and MIN_C6 is `m6`. -/
def shareSum (v m6 : Nat) : Nat := v % 128 + v / 256 % 128 + v / 65536 % 128 + v / 16777216 % 128 + m6

/-- The shares that such a write stores. -/
def shareFields (v m6 : Nat) : List (FieldSpec × Nat) :=
  [(Reg.Mu.MIN_C2, v % 128), (Reg.Mu.MIN_C3, v / 256 % 128), (Reg.Mu.MIN_C4, v / 65536 % 128), (Reg.Mu.MIN_C5, v / 16777216 % 128), (Reg.Mu.MIN_C6, m6)]

/-- The keys of the shares. -/
def shareKeys : List Nat := [Reg.Mu.MIN_C2.key 0, Reg.Mu.MIN_C3.key 0, Reg.Mu.MIN_C4.key 0, Reg.Mu.MIN_C5.key 0, Reg.Mu.MIN_C6.key 0]

theorem shareFields_keys (v m6 : Nat) : (shareFields v m6).map (fun p => p.1.key 0) = shareKeys := rfl

theorem shareKeys_nodup : shareKeys.Nodup := by decide

/-- A write to the word of MIN_C2 to MIN_C5 leaves MIN_C6 at its value, which counts in the sum. -/
theorem doMinShareWrite_firstWord (v : Nat) (s : State) : doMinShareWrite 0x04000C v s =
    if 100 < shareSum v (s.get Reg.Mu.MIN_C6) then (s.raise Reg.Mu.SHARE_REJ).log 0x2003 0 (leBytes 4 v)
    else putFields (shareFields v (s.get Reg.Mu.MIN_C6)) s := by
  have hshift : v / 2 ^ 0 = v := Nat.div_one v
  have hother : (0x04000C : Nat) ≠ 0x040010 := by decide
  simp only [doMinShareWrite, if_true, if_neg hother, hshift]
  rfl

theorem doMinShareWrite_stores {v : Nat} (h : shareSum v (s.get Reg.Mu.MIN_C6) ≤ 100) :
    doMinShareWrite 0x04000C v s = putFields (shareFields v (s.get Reg.Mu.MIN_C6)) s := (doMinShareWrite_firstWord v s).trans (if_neg (Nat.not_lt.mpr h))

theorem doMinShareWrite_rejects {v : Nat} (h : 100 < shareSum v (s.get Reg.Mu.MIN_C6)) :
    doMinShareWrite 0x04000C v s = (s.raise Reg.Mu.SHARE_REJ).log 0x2003 0 (leBytes 4 v) := (doMinShareWrite_firstWord v s).trans (if_pos h)

/-- Every share stored reads back, cut to its width. -/
theorem get_shares (hw : Rwf s) (v m6 : Nat) : ∀ p ∈ shareFields v m6, (putFields (shareFields v m6) s).get p.1 = p.2 % 2 ^ p.1.w :=
  get_putFields hw (by rw [shareFields_keys]; exact shareKeys_nodup)

theorem RegsBut.shares (h : RegsBut ks s t) (hk : shareKeys ⊆ ks) (v m6 : Nat) : RegsBut ks s (Machine.putFields (shareFields v m6) t) :=
  h.putFields _ fun _ hp => hk (shareFields_keys v m6 ▸ List.mem_map_of_mem hp)

/-! ### The inlet temperature (R317) -/

theorem doEnclTempStale_lifts {a : Nat} (ha : s.sch.enclAt = some a) (h : 7500000 ≤ s.since a) : doEnclTempStale s =
    { s with sch := { s.sch with enclAt := none, floor1 := false, floor2 := false, enclLow1 := none, enclLow2 := none } } := by
  unfold doEnclTempStale
  rw [ha]
  exact if_pos h

/-! ### The thermal state (R316, R317) -/

/-- The module as its thermal state becomes `k`. -/
def thermChanged (k : Nat) (s : State) : State :=
  (({ s with sch := { s.sch with therm := k, thermAt := s.core.imp } } : State).raise Reg.Mu.THERM_CHANGE).log 0x2001 0
    ([s.sch.therm, k] ++ leBytes 2 (toTwos 16 s.sch.junction))

theorem setTherm_of_ne {k : Nat} (h : k ≠ s.sch.therm) : setTherm k s = thermChanged k s := if_neg h

/-- Where the span of cool readings of the present state began. -/
def coolFrom (s : State) (k : Nat) : Option Nat := if k = 1 then s.sch.cool1 else if k = 2 then s.sch.cool2 else s.sch.cool3

/-- The thermal state that the inlet floors hold at the least. -/
def thermFloor (s : State) : Nat := if s.sch.floor2 then 2 else if s.sch.floor1 then 1 else 0

theorem thermFloor_lt {k : Nat} (h0 : 0 < k) (h2 : s.sch.floor2 = true → 2 < k) (h1 : s.sch.floor1 = true → 1 < k) : thermFloor s < k := by
  unfold thermFloor
  split_ifs with hf2 hf1
  · exact h2 hf2
  · exact h1 hf1
  · exact h0

theorem doThermalStepDown_steps {a : Nat} (h0 : 0 < s.sch.therm) (hc : coolFrom s s.sch.therm = some a) (ha : 125000 ≤ s.since a)
    (hf : thermFloor s < s.sch.therm) (hat : s.sch.thermAt < s.core.imp) : doThermalStepDown s = thermChanged (s.sch.therm - 1) s := by
  unfold coolFrom at hc
  unfold doThermalStepDown
  dsimp only
  rw [hc]
  exact (if_pos ⟨h0, ha, hf, hat⟩).trans (setTherm_of_ne (by omega))

/-! ### The end of a fairness window (R321) -/

/-- Whether the connection stood over the whole window that ends now. -/
def stoodWindow (c : Nat) (r : FairRec) (s : State) : Bool := (nfind c s.conns).isSome && decide (r.openAt + 1024 ≤ s.core.imp)

/-- The lower bound of a class, for weight `w` among the weights `sum` and `total` bytes admitted. -/
def fairBound (w sum total : Nat) : Int := (if sum = 0 then 0 else ((w * total / sum : Nat) : Int)) - 1048576

/-- The weights of the connections whose records satisfy `awaits`, added. -/
def weightsOf (awaits : FairRec → Bool) (s : State) : Nat := ((s.sch.fair.filter fun p => awaits p.2).map fun p => weightOf s p.1).sum

/-- The figures of connection `c` at the end of a window, each with its register field. -/
def fairFigures (c : Nat) (r : FairRec) (s : State) : List (FieldSpec × Nat) :=
  [(Reg.Mu.FAIR_WEIGHT, weightOf s c), (Reg.Mu.FAIR_VALID, if stoodWindow c r s then 1 else 0), (Reg.Mu.FAIR_ADMIT_C2, r.adm2), (Reg.Mu.FAIR_ADMIT_C3, r.adm3),
   (Reg.Mu.FAIR_BACKLOG_C2, r.back2), (Reg.Mu.FAIR_BACKLOG_C3, r.back3),
   (Reg.Mu.FAIR_BOUND_C2, toTwos 32 (fairBound (weightOf s c) (weightsOf (·.await2) s) s.sch.total2)),
   (Reg.Mu.FAIR_BOUND_C3, toTwos 32 (fairBound (weightOf s c) (weightsOf (·.await3) s) s.sch.total3)),
   (Reg.Mu.FAIR_FIN_LO, r.fin2 % 2 ^ 32), (Reg.Mu.FAIR_FIN_HI, r.fin2 / 2 ^ 32)]

theorem fairFigures_keys_nodup (c : Nat) (r : FairRec) (s : State) : ((fairFigures c r s).map fun p => p.1.key 0).Nodup := by
  have hk : [Reg.Mu.FAIR_WEIGHT.key 0, Reg.Mu.FAIR_VALID.key 0, Reg.Mu.FAIR_ADMIT_C2.key 0, Reg.Mu.FAIR_ADMIT_C3.key 0, Reg.Mu.FAIR_BACKLOG_C2.key 0,
    Reg.Mu.FAIR_BACKLOG_C3.key 0, Reg.Mu.FAIR_BOUND_C2.key 0, Reg.Mu.FAIR_BOUND_C3.key 0, Reg.Mu.FAIR_FIN_LO.key 0, Reg.Mu.FAIR_FIN_HI.key 0].Nodup := by
    decide
  exact hk

/-- The module once these figures are latched. -/
def fairLatched (c : Nat) (r : FairRec) (s : State) : State := putFields (fairFigures c r s) s

theorem fairLatched_parts (c : Nat) (r : FairRec) (s : State) : fairLatched c r s = { s with rf := (fairLatched c r s).rf } := putFields_parts _ _

theorem get_fairLatched (hw : Rwf s) (c : Nat) (r : FairRec) : ∀ p ∈ fairFigures c r s, (fairLatched c r s).get p.1 = p.2 % 2 ^ p.1.w :=
  get_putFields hw (fairFigures_keys_nodup c r s)

theorem get_fairLatched_valid (hw : Rwf s) (c : Nat) (r : FairRec) :
    (fairLatched c r s).get Reg.Mu.FAIR_VALID = if (nfind c s.conns).isSome ∧ r.openAt + 1024 ≤ s.core.imp then 1 else 0 := by
  have hv := get_fairLatched hw c r (Reg.Mu.FAIR_VALID, if stoodWindow c r s then 1 else 0) (by simp [fairFigures])
  exact hv.trans ((bit_mod_two _).trans (by simp [stoodWindow]))

/-- The scheduler as a new window begins: the counts of every connection and the totals at 0. -/
def windowBegun (m : Sched) : Sched :=
  { m with
    fair := nmapv (fun _ x => { x with adm2 := 0, adm3 := 0, back2 := 0, back3 := 0, await2 := false, await3 := false }) m.fair
    total2 := 0
    total3 := 0 }

/-- At the end of a window the selected connection's figures are latched, and the counts begin anew. -/
theorem doFairWindowEnd_ends (ha : s.core.imp % 1024 = 0) (h0 : 0 < s.core.imp) : doFairWindowEnd s =
    { fairLatched (s.get Reg.Mu.FAIR_SEL) (s.fairOf (s.get Reg.Mu.FAIR_SEL)) s with sch := windowBegun s.sch } := if_pos ⟨ha, h0⟩

/-- Settles O47: each input by the equation of its command; the shares and the figures read back as the rows of fields that they are. -/
theorem schedulerInputs : Obligations.SchedulerInputs := by
  unfold Obligations.SchedulerInputs
  refine ⟨?stored, ?rejected, ?inlet, ?stale, ?cooled, ?window⟩
  case stored =>
    intro s v hl hsum h6
    refine Gives.on (f := doMinShareWrite 0x04000C v.toNat) rfl hl ?_
    rw [doMinShareWrite_stores hsum]
    have hg := get_shares (.live hl) v.toNat (s.get Reg.Mu.MIN_C6)
    have hr := (RegsBut.refl shareKeys s).shares (List.Subset.refl _) v.toNat (s.get Reg.Mu.MIN_C6)
    have hp := putFields_parts (shareFields v.toNat (s.get Reg.Mu.MIN_C6)) s
    generalize putFields (shareFields v.toNat (s.get Reg.Mu.MIN_C6)) s = t at hg hr hp ⊢
    simp only [shareFields, List.forall_mem_cons] at hg
    obtain ⟨g2, g3, g4, g5, g6, -⟩ := hg
    exact ⟨g2.trans (Nat.mod_mod _ _), g3.trans (Nat.mod_mod _ _), g4.trans (Nat.mod_mod _ _), g5.trans (Nat.mod_mod _ _),
      g6.trans (Nat.mod_eq_of_lt h6), hr, hp⟩
  case rejected =>
    intro s v hl hsum
    refine Gives.on (f := doMinShareWrite 0x04000C v.toNat) rfl hl ?_
    rw [doMinShareWrite_rejects hsum]
    exact ⟨get_raise_eq (.live hl) _ _, rfl, ((RegsBut.refl _ s).raise _ _ (by simp)).log _ _ _, rfl⟩
  case inlet =>
    intro s v hl
    refine Gives.on (f := doEnclTempWrite v.toNat) rfl hl ?_
    exact ⟨rfl, get_put_eq (Rwf.setSch (.live hl) _) _ _ _, ((RegsBut.refl _ s).setSch _).put _ _ _ (by simp), rfl⟩
  case stale =>
    intro s a hl ha h
    exact Gives.on (f := doEnclTempStale) rfl hl (doEnclTempStale_lifts ha h)
  case cooled =>
    intro s k a hl hk h0 hc ha h2 h1 hat
    subst hk
    refine Gives.on (f := doThermalStepDown) rfl hl ?_
    rw [doThermalStepDown_steps h0 hc ha (thermFloor_lt h0 h2 h1) hat]
    exact ⟨rfl, get_raise_eq (Rwf.setSch (.live hl) _) _ _, rfl, (((RegsBut.refl _ s).setSch _).raise _ _ (by simp)).log _ _ _, rfl⟩
  case window =>
    intro s r hl ha h0 hr
    refine Gives.on (f := doFairWindowEnd) rfl hl ?_
    rw [doFairWindowEnd_ends ha h0, hr]
    have hg := get_fairLatched (.live hl) (s.get Reg.Mu.FAIR_SEL) r
    have hvalid := get_fairLatched_valid (.live hl) (s.get Reg.Mu.FAIR_SEL) r
    have hp := fairLatched_parts (s.get Reg.Mu.FAIR_SEL) r s
    simp only [fairFigures, List.forall_mem_cons] at hg
    obtain ⟨hweight, -, h2, h3, -⟩ := hg
    exact ⟨(get_setSch _ _ _ _).trans hweight, (get_setSch _ _ _ _).trans hvalid, (get_setSch _ _ _ _).trans h2, (get_setSch _ _ _ _).trans h3, rfl, rfl, rfl,
      by rw [hp]⟩

end Sys2Proof.Machine
end

section
/-!
SUPPORT. The I3C target's common command codes: commands of the bus and commands of the dynamic address, fields stored alone, and the
refusal of the static address (R404 to R407).
-/

namespace Sys2Proof.Machine

variable {s : State}

/-! ### Who hears what (R404, R408) -/

/-- A code that every target hears, on a bus in SDR mode. -/
theorem Gives.onBus {c : Instr} {f : State → State} {P : State → Prop} (e : exec c s = .next (onBus f s)) (hs : sdrOn s = true) (h : P (f s)) :
    Gives c s P := ⟨f s, by rw [e, Machine.onBus, if_pos hs], h⟩

/-- A code sent to the dynamic address that the module holds. -/
theorem Gives.onAddr {c : Instr} {f : State → State} {P : State → Prop} (e : exec c s = .next (onAddr f s)) (hs : sdrOn s = true)
    (ha : hasAddr s = true) (h : P (f s)) : Gives c s P := ⟨f s, by rw [e, Machine.onAddr, if_pos ⟨hs, ha⟩], h⟩

/-- What the bus hears without effect has none in any mode. -/
theorem onBus_of_fixed {f : State → State} (h : f s = s) : onBus f s = s := by
  unfold onBus
  split
  · exact h
  · rfl

/-! ### Fields stored alone -/

/-- A value that fits its field is all that a store changes. -/
theorem put_fits (hw : Rwf s) {F : FieldSpec} {v : Nat} (hv : v < 2 ^ F.w) :
    (s.put F v).get F = v ∧ RegsBut [F.key 0] s (s.put F v) ∧ s.put F v = { s with rf := (s.put F v).rf } :=
  ⟨(get_put_eq hw F v 0).trans (Nat.mod_eq_of_lt hv), (RegsBut.refl _ s).put F v 0 List.mem_cons_self, rfl⟩

/-- The same of a store that is made only under a condition. -/
theorem putIf_fits (hw : Rwf s) {F : FieldSpec} {v : Nat} (hv : v < 2 ^ F.w) (c : Prop) [Decidable c] :
    (if c then s.put F v else s).get F = (if c then v else s.get F) ∧ RegsBut [F.key 0] s (if c then s.put F v else s) ∧
      (if c then s.put F v else s) = { s with rf := (if c then s.put F v else s).rf } := by
  split_ifs
  · exact put_fits hw hv
  · exact ⟨rfl, RegsBut.refl _ s, rfl⟩

/-- A dynamic address is a number of 7 bits. -/
theorem addr_fits (a : Nat) : a % 128 < 2 ^ Reg.Hif.DYN_ADDR.w := Nat.mod_lt a (by decide)

theorem clampTo_fits {lo hi n : Nat} (hlo : lo < n) (hhi : hi < n) (v : Nat) : clampTo lo hi v < n :=
  max_lt hlo (lt_of_le_of_lt (min_le_left hi v) hhi)

/-! ### The static address (R405) -/

theorem refuseStatic_reports (hw : Rwf s) :
    (refuseStatic s).get Reg.Hif.LEGACY_REFUSED = 1 ∧ RegsBut [Reg.Hif.LEGACY_REFUSED.key 0] s (refuseStatic s) := by
  have hr : RegsBut [Reg.Hif.LEGACY_REFUSED.key 0] s (s.raise Reg.Hif.LEGACY_REFUSED) := (RegsBut.refl _ s).raise _ _ List.mem_cons_self
  exact ⟨get_raise_eq hw _ _, hr.same rfl⟩

theorem doEntdaa_takes (h : hasAddr s = false) (a : Nat) : doEntdaa a s =
    (s.emit (.ccc 0x07 (msbBytes 6 (pidOf s) ++ [0x0E, 0x00]))).put Reg.Hif.DYN_ADDR (a % 128) := if_neg (ne_true_of_eq_false h)

theorem doSetdasa_takes (h : hasAddr s = false) (a : Nat) : doSetdasa a s = s.put Reg.Hif.DYN_ADDR (a % 128) := if_neg (ne_true_of_eq_false h)

theorem doSetdasa_refused (h : hasAddr s = true) (a : Nat) : doSetdasa a s = refuseStatic s := if_pos h

/-- Settles O36: each code by who hears it and by what its meaning does: it stores one field, sends an answer, or changes the target's own state. -/
theorem commonCommandCodes : Obligations.CommonCommandCodes := by
  unfold Obligations.CommonCommandCodes
  refine ⟨?entdaa, ?setdasa, ?refused, ?setnewda, ?rstdaa, ?getpid, ?getbcr, ?getdcr, ?getmwl, ?getmrl, ?getmxds, ?getstatus, ?enec, ?disec, ?setmwl,
    ?setmrl, ?rstact, ?rstactOther, ?direct, ?broadcast, ?enthdr0, ?enthdrOther⟩
  case entdaa =>
    intro s a hl hs ha
    refine Gives.onBus (f := doEntdaa a) rfl hs ?_
    rw [doEntdaa_takes ha]
    obtain ⟨hg, hr, -⟩ := put_fits (Rwf.emit (.live hl) (.ccc 0x07 (msbBytes 6 (pidOf s) ++ [0x0E, 0x00]))) (addr_fits a)
    exact ⟨hg, rfl, ⟨hr.regs, hr.latches, hr.words⟩, rfl⟩
  case setdasa =>
    intro s a hl hs ha
    refine Gives.onBus (f := doSetdasa a) rfl hs ?_
    rw [doSetdasa_takes ha]
    exact put_fits (.live hl) (addr_fits a)
  case refused =>
    intro s a hl hs ha
    refine Gives.onBus (f := doSetdasa a) rfl hs ?_
    rw [doSetdasa_refused ha]
    obtain ⟨hg, hr⟩ := refuseStatic_reports (.live hl)
    exact ⟨hg, rfl, rfl, hr, rfl⟩
  case setnewda =>
    intro s a hl hs ha
    exact Gives.onAddr (f := doSetnewda a) rfl hs ha (put_fits (.live hl) (addr_fits a))
  case rstdaa =>
    intro s hl hs
    exact Gives.onBus (f := doRstdaa) rfl hs (put_fits (.live hl) (by decide))
  case getpid =>
    intro s hl hs ha
    exact Gives.onAddr (f := doGetpid) rfl hs ha rfl
  case getbcr =>
    intro s hl hs ha
    exact Gives.onAddr (f := doGetbcr) rfl hs ha rfl
  case getdcr =>
    intro s hl hs ha
    exact Gives.onAddr (f := doGetdcr) rfl hs ha rfl
  case getmwl =>
    intro s hl hs ha
    exact Gives.onAddr (f := doGetmwl) rfl hs ha rfl
  case getmrl =>
    intro s hl hs ha
    exact Gives.onAddr (f := doGetmrl) rfl hs ha rfl
  case getmxds =>
    intro s hl hs ha
    exact Gives.onAddr (f := doGetmxds) rfl hs ha rfl
  case getstatus =>
    intro s hl hs ha
    exact Gives.onAddr (f := doGetstatus) rfl hs ha rfl
  case enec =>
    intro s bits hl hs
    exact Gives.onBus (f := doEnec bits) rfl hs (putIf_fits (.live hl) (by decide) (bits % 2 = 1))
  case disec =>
    intro s bits hl hs
    exact Gives.onBus (f := doDisec bits) rfl hs (putIf_fits (.live hl) (by decide) (bits % 2 = 1))
  case setmwl =>
    intro s v hl hs
    exact Gives.onBus (f := doSetmwl v) rfl hs (put_fits (.live hl) (clampTo_fits (by decide) (by decide) v))
  case setmrl =>
    intro s v hl hs
    exact Gives.onBus (f := doSetmrl v) rfl hs (put_fits (.live hl) (clampTo_fits (by decide) (by decide) v))
  case rstact =>
    intro s a hl hs ha
    exact Gives.onBus (f := doRstact a) rfl hs (if_pos ha)
  case rstactOther =>
    intro s a hl hs ha
    exact Gives.onBus (f := doRstact a) rfl hs (if_neg (Nat.not_le.mpr ha))
  case direct =>
    intro s code hl hs
    exact Gives.onBus (f := doCccUnsupported true) rfl hs rfl
  case broadcast =>
    intro s code hl
    exact congrArg Host.Outcome.next (onBus_of_fixed (f := doCccUnsupported false) rfl)
  case enthdr0 =>
    intro s hl hs
    exact Gives.onBus (f := doEnthdr0) rfl hs rfl
  case enthdrOther =>
    intro s n hl hs
    exact Gives.onBus (f := doEnthdrUnsupported) rfl hs rfl

end Sys2Proof.Machine
end

section
/-!
SUPPORT. The Errata log between boundaries: flushes, freezes, clears, rate windows and anchors (R356, R357, R364, R365, R367, R368).
-/

namespace Sys2Proof.Machine

variable {s t : State} {ks : List Nat} {r : ErrRec}

theorem Rwf.setEl (h : Rwf s) (e : Errata) : Rwf { s with el := e } := h
theorem RegsBut.setEl (h : RegsBut ks s t) (e : Errata) : RegsBut ks s { t with el := e } := h.same rfl

/-- A bit that reads 0, as the conditions of the model test it. -/
theorem bit_of_get_zero {F : FieldSpec} {i : Nat} (h : s.get F i = 0) : s.bit F i = false := by rw [State.bit, h]; rfl

/-- A bit that reads 1. -/
theorem bit_of_get_one {F : FieldSpec} {i : Nat} (h : s.get F i = 1) : s.bit F i = true := by rw [State.bit, h]; rfl

/-! ### Flushes (R356, R357) -/

/-- One record stands at the next page of the record area of every half in service, and the buffer is empty. -/
def pageFlushed (r : ErrRec) (s : State) : State :=
  { s.eachHalf fun h => { h with log.recs := nset (roundUp s.el.logEnd 4096) r h.log.recs } with
    el := { s.el with buf := [], lastFlush := s.core.imp, flushDue := false, logEnd := roundUp s.el.logEnd 4096 + r.len } }

theorem flushOne_appends (hf : s.get Reg.El.EL_FULL = 0) (hr : s.el.logEnd + r.len ≤ logLimit) : flushOne s r =
    { s.eachHalf fun h => { h with log.recs := nset s.el.logEnd r h.log.recs } with el := { s.el with logEnd := s.el.logEnd + r.len } } :=
  if_neg (not_or.mpr ⟨ne_true_of_eq_false (bit_of_get_zero hf), Nat.not_lt.mpr hr⟩)

theorem flushLog_one (hh : s.halfOk = true) (hb : s.el.buf = [r]) (hf : s.get Reg.El.EL_FULL = 0)
    (hr : roundUp s.el.logEnd 4096 + r.len ≤ logLimit) : flushLog s = pageFlushed r s := by
  unfold flushLog
  rw [if_pos hh, hb]
  exact flushOne_appends hf hr

theorem flushLog_empty (hh : s.halfOk = true) (hb : s.el.buf = []) : flushLog s =
    { s with el := { s.el with lastFlush := s.core.imp, flushDue := false } } := by
  unfold flushLog
  rw [if_pos hh, hb]
  exact congrArg (fun b => { s with el := { s.el with buf := b, lastFlush := s.core.imp, flushDue := false } }) hb.symm

theorem flushWanted_by_age (hh : s.halfOk = true) (hf : s.get Reg.El.FROZEN = 0) (hc : s.el.clearAt = none)
    (ht : 125000 ≤ s.since s.el.lastFlush) : flushWanted s = true := by
  simp [flushWanted, hh, bit_of_get_zero hf, hc, ht]

theorem doLogFlush_flushes (hh : s.halfOk = true) (hf : s.get Reg.El.FROZEN = 0) (hc : s.el.clearAt = none) :
    doLogFlush s = flushLog (s.pulse Reg.El.LOG_FLUSH) := by
  have hbit : (s.pulse Reg.El.LOG_FLUSH).bit Reg.El.FROZEN = false := bit_of_get_zero ((get_pulse_ne (by decide) s).trans hf)
  have hhalf : (s.pulse Reg.El.LOG_FLUSH).halfOk = true := hh
  unfold doLogFlush
  exact if_pos (by simp [hbit, hhalf, hc])

/-! ### Freezes (R365) -/

/-- A freeze of an empty log has begun. -/
def freezeBegun (s : State) : State :=
  { (s.putB Reg.El.FREEZE true).putB Reg.El.FROZEN true with
    el := { s.el with lastFlush := s.core.imp, flushDue := false, freezeAt := some s.core.imp } }

theorem doFreeze_begins (hw : Rwf s) (hh : s.halfOk = true) (hf : s.get Reg.El.FROZEN = 0) (hb : s.el.buf = []) : doFreeze true s = freezeBegun s := by
  have hfreeze : (s.putB Reg.El.FREEZE true).bit Reg.El.FREEZE = true := bit_of_get_one (get_putB_eq hw _ _ _)
  have hfrozen : (s.putB Reg.El.FREEZE true).bit Reg.El.FROZEN = false := bit_of_get_zero ((get_putB_ne (by decide) s _).trans hf)
  have hhalf : (s.putB Reg.El.FREEZE true).halfOk = true := hh
  show beginFreeze (s.putB Reg.El.FREEZE true) = _
  unfold beginFreeze
  rw [if_pos (by simp [hfreeze, hfrozen, hhalf]), flushLog_empty hhalf hb]
  rfl

theorem doFreeze_ends (hf : s.get Reg.El.FREEZE = 1) : doFreeze false s = endFreeze s := by
  show (if s.bit Reg.El.FREEZE || s.bit Reg.El.FROZEN then endFreeze s else s) = _
  rw [bit_of_get_one hf]
  rfl

theorem get_endFreeze (hw : Rwf s) : (endFreeze s).get Reg.El.FREEZE = 0 ∧ (endFreeze s).get Reg.El.FROZEN = 0 :=
  ⟨(get_putB_ne (by decide) _ _).trans (get_putB_eq hw _ _ _), get_putB_eq (hw.putB _ _ _) _ _ _⟩

theorem get_endFreeze_ne {F : FieldSpec} (h : F.key 0 ≠ Reg.El.FREEZE.key 0) (h' : F.key 0 ≠ Reg.El.FROZEN.key 0) (s : State) :
    (endFreeze s).get F = s.get F := (get_putB_ne h' _ _).trans (get_putB_ne h _ _)

theorem Rwf.endFreeze (h : Rwf s) : Rwf (endFreeze s) := ((h.putB _ _ _).putB _ _ _).setEl _

theorem RegsBut.endFreeze (h : RegsBut ks s t) (hf : Reg.El.FREEZE.key 0 ∈ ks) (hz : Reg.El.FROZEN.key 0 ∈ ks) : RegsBut ks s (endFreeze t) :=
  ((h.putB _ _ _ hf).putB _ _ _ hz).setEl _

theorem doFreezeExpired_over {a : Nat} (ha : s.el.freezeAt = some a) (hf : s.get Reg.El.FROZEN = 1) (ht : 37500000 ≤ s.since a) :
    doFreezeExpired s = ((endFreeze s).raise Reg.El.FREEZE_EXPIRED).log 0x0007 0 := by
  unfold doFreezeExpired
  rw [ha]
  exact if_pos ⟨bit_of_get_one hf, ht⟩

/-! ### Clears (R367) -/

/-- A clear is taken: the region of every half in service is being erased. -/
def clearBegun (s : State) : State :=
  { eraseLog (s.pulse Reg.El.LOG_CLEAR) with el := { s.el with clearAt := some s.core.imp, clearUsed := roundUp s.el.logEnd 4096 } }

/-- The bits that permit a clear read as before once LOG_CLEAR is written. -/
theorem bit_pulse_logClear {F : FieldSpec} (h : F.key 0 ≠ Reg.El.LOG_CLEAR.key 0) (s : State) : (s.pulse Reg.El.LOG_CLEAR).bit F = s.bit F := by
  unfold State.bit
  rw [get_pulse_ne h]

theorem doLogClear_begins (ho : s.get Reg.El.LOG_CLEAR_OK = 1) (hc : s.img.committed = true) (hf : s.get Reg.El.FROZEN = 1) :
    doLogClear s = clearBegun s := by
  unfold doLogClear
  refine if_pos ⟨?_, hc, ?_⟩
  · rw [bit_pulse_logClear (by decide), bit_of_get_one ho]
  · rw [bit_pulse_logClear (by decide), bit_of_get_one hf]

theorem doLogClear_refused (h : s.get Reg.El.LOG_CLEAR_OK = 0 ∨ s.img.committed = false ∨ s.get Reg.El.FROZEN = 0) :
    doLogClear s = (s.pulse Reg.El.LOG_CLEAR).raise Reg.El.CLEAR_REFUSED := by
  unfold doLogClear
  refine if_neg ?_
  rintro ⟨ho, hc, hf⟩
  rw [bit_pulse_logClear (by decide)] at ho hf
  rcases h with h | h | h
  · exact ne_true_of_eq_false (bit_of_get_zero h) ho
  · exact ne_true_of_eq_false h hc
  · exact ne_true_of_eq_false (bit_of_get_zero h) hf

/-- The log of every half in service stands cleared, and no more clear is in progress. -/
def logCleared (s : State) : State :=
  { (writeCleared 0 s.el.clearUsed (s.get Reg.El.ERRATA_LOST) s).put Reg.El.ERRATA_LOST 0 with
    el := { (writeCleared 0 s.el.clearUsed (s.get Reg.El.ERRATA_LOST) s).el with clearAt := none } }

theorem doLogClearComplete_ends {a : Nat} (ha : s.el.clearAt = some a) : doLogClearComplete s = (endFreeze (logCleared s)).raise Reg.El.EL_CLEARED := by
  unfold doLogClearComplete
  rw [ha]
  rfl

theorem Rwf.logCleared (h : Rwf s) : Rwf (logCleared s) := Rwf.put (s := writeCleared 0 s.el.clearUsed (s.get Reg.El.ERRATA_LOST) s) h _ _ _
theorem get_logCleared (hw : Rwf s) : (logCleared s).get Reg.El.ERRATA_LOST = 0 :=
  get_put_eq (s := writeCleared 0 s.el.clearUsed (s.get Reg.El.ERRATA_LOST) s) hw _ _ _
theorem regsBut_logCleared (h : Reg.El.ERRATA_LOST.key 0 ∈ ks) : RegsBut ks s (logCleared s) := by
  have hr : RegsBut ks s (s.put Reg.El.ERRATA_LOST 0) := (RegsBut.refl _ s).put _ _ _ h
  exact hr.same rfl

/-! ### Rate windows (R364) -/

theorem errAppend_fits (hf : s.get Reg.El.FROZEN = 0) (hu : s.el.used + r.len ≤ 65536) :
    errAppend r s = { s with el := { s.el with buf := s.el.buf ++ [r] } } := by
  unfold errAppend
  rw [bit_of_get_zero hf]
  exact if_neg (Nat.not_lt.mpr hu)

/-- The record of the events that a window of a code left out. -/
def suppressionRec (code : Nat) (w : RateWin) (s : State) : ErrRec :=
  ⟨code, 1, 0, opTimeOf (s.core.opImp - s.since w.start + rateWindow s), s.core.cycles, w.lastSrc,
    leBytes 4 w.dropped ++ leBytes 4 (opTimeOf (s.core.opImp - s.since w.start))⟩

/-- The window of a code is over. -/
def windowOver (code : Nat) (s : State) : State := { s with el := { s.el with wins := ndel code s.el.wins } }

theorem endRateWindow_over {code : Nat} {w : RateWin} (hw : nfind code s.el.wins = some w) (ht : rateWindow s ≤ s.since w.start) :
    endRateWindow code s = if w.dropped = 0 then windowOver code s else errAppend (suppressionRec code w s) (windowOver code s) := by
  unfold endRateWindow
  rw [hw]
  exact if_neg (Nat.not_lt.mpr ht)

/-- Settles O38: each command by what its meaning makes of the log, and the fields it stores read back. -/
theorem errataLogKeeping : Obligations.ErrataLogKeeping := by
  unfold Obligations.ErrataLogKeeping
  refine ⟨?aged, ?asked, ?freeze, ?thaw, ?expired, ?clear, ?refused, ?cleared, ?quiet, ?suppressed, ?anchor⟩
  case aged =>
    intro s r hl hh hf hc ht hb he hr
    refine Gives.on (f := doErrataFlush) rfl hl ?_
    rw [doErrataFlush, if_pos (flushWanted_by_age hh hf hc ht), flushLog_one hh hb he hr]
    exact ⟨rfl, rfl, rfl, rfl⟩
  case asked =>
    intro s r hl hh hf hc hb he hr
    refine Gives.on (f := doLogFlush) rfl hl ?_
    rw [doLogFlush_flushes hh hf hc, flushLog_one (s := s.pulse Reg.El.LOG_FLUSH) hh hb ((get_pulse_ne (by decide) s).trans he) hr]
    exact ⟨rfl, rfl, rfl, ((RegsBut.refl _ s).pulse Reg.El.LOG_FLUSH 0 (by simp)).same rfl, rfl⟩
  case freeze =>
    intro s hl hh hf hb
    refine Gives.on (f := doFreeze true) rfl hl ?_
    have hw : Rwf s := .live hl
    rw [doFreeze_begins hw hh hf hb]
    have hr : RegsBut [Reg.El.FREEZE.key 0, Reg.El.FROZEN.key 0] s ((s.putB Reg.El.FREEZE true).putB Reg.El.FROZEN true) :=
      ((RegsBut.refl _ s).putB _ _ _ (by simp)).putB _ _ _ (by simp)
    exact ⟨(get_putB_ne (by decide) _ _).trans (get_putB_eq hw _ _ _), get_putB_eq (hw.putB _ _ _) _ _ _, rfl, hr.setEl _, rfl⟩
  case thaw =>
    intro s hl hf
    refine Gives.on (f := doFreeze false) rfl hl ?_
    rw [doFreeze_ends hf]
    obtain ⟨h1, h2⟩ := get_endFreeze (.live hl)
    exact ⟨h1, h2, rfl, (RegsBut.refl _ s).endFreeze (by simp) (by simp), rfl⟩
  case expired =>
    intro s a hl ha hf ht
    refine Gives.on (f := doFreezeExpired) rfl hl ?_
    rw [doFreezeExpired_over ha hf ht]
    have hw : Rwf s := .live hl
    obtain ⟨h1, h2⟩ := get_endFreeze hw
    exact ⟨(get_raise_ne (by decide) _).trans h1, (get_raise_ne (by decide) _).trans h2, get_raise_eq hw.endFreeze _ _, rfl,
      (((RegsBut.refl _ s).endFreeze (by simp) (by simp)).raise _ _ (by simp)).log _ _ _, rfl⟩
  case clear =>
    intro s hl ho hc hf
    refine Gives.on (f := doLogClear) rfl hl ?_
    rw [doLogClear_begins ho hc hf]
    exact ⟨get_pulse_eq (.live hl) _ _, rfl, rfl, rfl, ((RegsBut.refl _ s).pulse Reg.El.LOG_CLEAR 0 (by simp)).same rfl, rfl⟩
  case refused =>
    intro s hl h
    refine Gives.on (f := doLogClear) rfl hl ?_
    rw [doLogClear_refused h]
    exact ⟨get_raise_eq ((Rwf.live hl).pulse _ _) _ _, ((RegsBut.refl _ s).pulse _ _ (by simp)).raise _ _ (by simp), rfl⟩
  case cleared =>
    intro s a r hl ha hr
    subst hr
    refine Gives.on (f := doLogClearComplete) rfl hl ?_
    rw [doLogClearComplete_ends ha]
    have hw : Rwf (logCleared s) := (Rwf.live hl).logCleared
    obtain ⟨h1, h2⟩ := get_endFreeze hw
    exact ⟨(get_raise_ne (by decide) _).trans h1, (get_raise_ne (by decide) _).trans h2, get_raise_eq hw.endFreeze _ _,
      (get_raise_ne (by decide) _).trans ((get_endFreeze_ne (by decide) (by decide) _).trans (get_logCleared (.live hl))), rfl, rfl, rfl,
      ((regsBut_logCleared (by simp)).endFreeze (by simp) (by simp)).raise _ _ (by simp), rfl⟩
  case quiet =>
    intro s code w hl hw ht hd
    refine Gives.on (f := doRateWindowEnd code) rfl hl ?_
    exact (endRateWindow_over hw ht).trans (if_pos hd)
  case suppressed =>
    intro s code w r hl hw ht hd hf hr hu
    subst hr
    refine Gives.on (f := doRateWindowEnd code) rfl hl ?_
    exact (endRateWindow_over hw ht).trans ((if_neg hd).trans (errAppend_fits (s := windowOver code s) hf hu))
  case anchor =>
    intro s hl
    refine Gives.on (f := doAnchorGo) rfl hl ?_
    exact ⟨get_pulse_eq (.live hl) _ _, rfl, ((RegsBut.refl _ s).pulse _ _ (by simp)).log _ _ _, rfl⟩

end Sys2Proof.Machine
end

section
/-!
SUPPORT. Requests for MAINTENANCE and for resets: what a reset of kind M or W leaves of the module, and which requests are taken (R397, R398,
R400 to R402, R418, R445).
-/

namespace Sys2Proof.Machine

variable {s : State}

/-! ### What the parts of a reset change -/

/-- A request of the image that a reset abandons, with its report, is all that changes. -/
theorem abandonCommit_parts (s : State) : ∃ rf el img, abandonCommit s = { s with rf := rf, el := el, img := img } := by
  refine ⟨(abandonCommit s).rf, (abandonCommit s).el, (abandonCommit s).img, ?_⟩
  unfold abandonCommit
  split <;> rfl

theorem writeCounters_parts (s : State) : ∃ g st0 st1, writeCounters s = { s with core := { s.core with ctrGen := g }, st0 := st0, st1 := st1 } := by
  refine ⟨(writeCounters s).core.ctrGen, (writeCounters s).st0, (writeCounters s).st1, ?_⟩
  unfold writeCounters
  split <;> rfl

/-- The module state and its history as a makeready of a kind begins. -/
def makereadyCore (k : ResetKind) (m : ModState) (c : Core) : Core := { c with prev := c.mode, mode := m, entered := c.imp, lastReset := k }

theorem startMakeready_parts (k : ResetKind) (m : ModState) (s : State) :
    ∃ rf el, startMakeready k m s = { s with rf := rf, el := el, core := makereadyCore k m s.core } := by
  refine ⟨(startMakeready k m s).rf, (startMakeready k m s).el, ?_⟩
  unfold startMakeready
  dsimp only
  split_ifs <;> rfl

/-- A field raised or left alone. -/
theorem raiseIf_parts (b : Bool) (F : FieldSpec) (s : State) : ∃ rf, (if b then s.raise F else s) = { s with rf := rf } := by
  cases b <;> exact ⟨_, rfl⟩

/-! ### What a reset leaves (R400, Table 18.4) -/

/-- The module as a warm reset has cleared it, with the mode of the bus and the read pointer that stay. -/
def warmCleared (bus : Hif) (s : State) : State :=
  { s with core := { s.core with ctrAt := s.core.imp }, hif := { s.hif with hdr := bus.hdr, hdrOther := bus.hdrOther, ptr := bus.ptr } }

/-- The module as a module reset has cleared it: it is held while RESET_N is asserted. -/
def moduleCleared (s : State) : State := { s with core := { s.core with held := s.pins.fReset, probed := s.fnt.absent } }

theorem applyReset_warm_eq (s : State) : applyReset .warm s = writeCounters (startMakeready .warm .selfTest
    (if s.core.resetCast then (warmCleared s.hif (regsReset .warm (resetCore (abandonCommit s)))).raise Reg.Glb.RESET_CAST
      else warmCleared s.hif (regsReset .warm (resetCore (abandonCommit s))))) := by
  unfold applyReset warmCleared
  simp only [reduceCtorEq, ↓reduceIte]

theorem applyReset_module_eq (s : State) : applyReset .module s = startMakeready .module .powerQualify
    (if s.core.resetCast then (moduleCleared (regsReset .module (resetCore (abandonCommit s)))).raise Reg.Glb.RESET_CAST
      else moduleCleared (regsReset .module (resetCore (abandonCommit s)))) := by
  unfold applyReset moduleCleared
  simp only [reduceCtorEq, ↓reduceIte]

/-- What is cleared, whatever a reset abandons. -/
theorem cleared_parts (k : ResetKind) (s : State) : ∃ rf el, regsReset k (resetCore (abandonCommit s)) = { resetCore s with rf := rf, el := el } := by
  obtain ⟨rf, el, img, h⟩ := abandonCommit_parts s
  rw [h]
  exact ⟨_, _, rfl⟩

theorem makereadyBegun_parts (k : ResetKind) (m : ModState) (b : Bool) (F : FieldSpec) (s : State) :
    ∃ rf el, startMakeready k m (if b then s.raise F else s) = { s with rf := rf, el := el, core := makereadyCore k m s.core } := by
  obtain ⟨rf, hr⟩ := raiseIf_parts b F s
  rw [hr]
  exact startMakeready_parts k m { s with rf := rf }

/-- A warm reset begins makeready at SELF_TEST. -/
theorem applyReset_warm (s : State) : ∃ rf el st0 st1 g, applyReset .warm s =
    { warmCleared s.hif (resetCore s) with
      rf := rf, el := el, st0 := st0, st1 := st1
      core := { makereadyCore .warm .selfTest (warmCleared s.hif (resetCore s)).core with ctrGen := g } } := by
  obtain ⟨rf, el, hc⟩ := cleared_parts .warm s
  obtain ⟨rf', el', hm⟩ := makereadyBegun_parts .warm .selfTest s.core.resetCast Reg.Glb.RESET_CAST
    (warmCleared s.hif { resetCore s with rf := rf, el := el })
  rw [applyReset_warm_eq, hc, hm]
  obtain ⟨g, st0, st1, hw⟩ := writeCounters_parts { warmCleared s.hif (resetCore s) with
    rf := rf', el := el', core := makereadyCore .warm .selfTest (warmCleared s.hif (resetCore s)).core }
  exact ⟨_, _, _, _, _, hw⟩

/-- A module reset begins it at POWER_QUALIFY. -/
theorem applyReset_module (s : State) : ∃ rf el, applyReset .module s =
    { moduleCleared (resetCore s) with rf := rf, el := el, core := makereadyCore .module .powerQualify (moduleCleared (resetCore s)).core } := by
  obtain ⟨rf, el, hc⟩ := cleared_parts .module s
  rw [applyReset_module_eq, hc]
  exact makereadyBegun_parts .module .powerQualify s.core.resetCast Reg.Glb.RESET_CAST (moduleCleared { resetCore s with rf := rf, el := el })

/-- A warm reset has begun: SELF_TEST, the operating time, the host buffer, the queue and what left stay, and the work is gone. -/
def WarmBegun (s t : State) : Prop :=
  t.core.mode = .selfTest ∧ t.core.lastReset = .warm ∧ t.core.entered = s.core.imp ∧ t.core.opImp = s.core.opImp ∧ t.conns = [] ∧ t.ctrls = [] ∧
    t.cmds = [] ∧ t.units = [] ∧ t.upds = [] ∧ t.sigs = [] ∧ t.drvs = [] ∧ t.cs = {} ∧ t.sec = {} ∧ t.img = {} ∧ t.dma = {} ∧ t.cast = {} ∧
    t.stage = [] ∧ t.hostBuf = s.hostBuf ∧ t.pins = { s.pins with pfIgnored := false } ∧ t.pending = s.pending ∧ t.out = s.out

theorem applyReset_warmBegun (s : State) : WarmBegun s (applyReset .warm s) := by
  obtain ⟨rf, el, st0, st1, g, h⟩ := applyReset_warm s
  rw [h]
  exact ⟨rfl, rfl, rfl, rfl, rfl, rfl, rfl, rfl, rfl, rfl, rfl, rfl, rfl, rfl, rfl, rfl, rfl, rfl, rfl, rfl, rfl⟩

/-! ### Which requests take effect at once (R399, R401, R402) -/

/-- The states in which a reset casts first what the Case holds. -/
def castingModes : List ModState := [.pressRun, .hold, .release, .assemble, .maintenance]

theorem requestReset_now {k : ResetKind} (hh : s.core.held = false) (hr : k = .warm → s.pins.fReset = false) (hm : s.core.mode ≠ .cast)
    (hn : s.core.mode ∈ castingModes → castContent s = false) : requestReset k s = applyReset k s := by
  unfold requestReset
  extract_lets m wins
  have hheld : ¬(s.core.held = true ∨ (k = .warm ∧ s.pins.fReset = true)) := by
    rintro (h | ⟨hk, h⟩)
    · exact ne_true_of_eq_false hh h
    · exact ne_true_of_eq_false (hr hk) h
  rw [if_neg hheld, if_neg hm]
  refine if_neg ?_
  rintro ⟨hmode, hcast, -⟩
  exact ne_true_of_eq_false (hn (by simpa [castingModes] using hmode)) hcast

/-- In SAFE and in the waits of makeready a reset takes effect at once. -/
theorem requestReset_waiting {k : ResetKind} (hm : s.core.mode = .safe ∨ s.core.mode = .keyWait ∨ s.core.mode = .imageWait) (hh : s.core.held = false)
    (hr : k = .warm → s.pins.fReset = false) : requestReset k s = applyReset k s := by
  have hc : s.core.mode ≠ .cast ∧ s.core.mode ∉ castingModes := by
    rcases hm with hm | hm | hm <;> rw [hm] <;> decide
  exact requestReset_now hh hr hc.1 fun h => absurd h hc.2

/-! ### MAINT_GO, MAINT_EXIT, RESET_CMD and RESET_N (R397, R398, R418, R445) -/

/-- MAINTENANCE is entered from KEY_WAIT, which was left as a state of makeready with its time kept (R403). -/
def maintenanceEntered (s : State) : State :=
  stateChanged .keyWait .maintenance ((s.pulse Reg.Glb.MAINT_GO).put Reg.Glb.MR_TIME (impMs (s.since s.core.entered)) 4)

theorem doMaintGo_keyWait (hm : s.core.mode = .keyWait) : doMaintGo s = maintenanceEntered s := by
  have hp : (s.pulse Reg.Glb.MAINT_GO).core.mode = .keyWait := hm
  unfold doMaintGo State.enter
  simp only [hp]
  rfl

/-- A release for maintenance is asked for. -/
def maintenancePending (s : State) : State := (s.pulse Reg.Glb.MAINT_GO).putB Reg.Glb.MAINT_PENDING true

theorem doMaintGo_pressRun (hm : s.core.mode = .pressRun) (hd : s.cast.due = none) : doMaintGo s = startRelease (maintenancePending s) := by
  have hp : (s.pulse Reg.Glb.MAINT_GO).core.mode = .pressRun := hm
  have hc : (s.pulse Reg.Glb.MAINT_GO).cast.due = none := hd
  unfold doMaintGo
  simp only [hp, hc]
  rfl

theorem doMaintGo_refused (h1 : s.core.mode ≠ .keyWait) (h2 : s.core.mode ≠ .pressRun) :
    doMaintGo s = (s.pulse Reg.Glb.MAINT_GO).raise Reg.Glb.MAINT_REFUSED := by
  unfold doMaintGo
  dsimp only
  split
  case h_1 h => exact absurd h h1
  case h_2 h => exact absurd h h2
  case h_3 => rfl

theorem endEccTest_parts (s : State) : ∃ rf cs, endEccTest s = { s with rf := rf, cs := cs } := by
  refine ⟨(endEccTest s).rf, (endEccTest s).cs, ?_⟩
  unfold endEccTest
  split <;> rfl

theorem doMaintExit_resets (hm : s.core.mode = .maintenance) (hh : s.core.held = false) (hr : s.pins.fReset = false)
    (hc : castContent (endEccTest (s.pulse Reg.Glb.MAINT_EXIT)) = false) : doMaintExit s = applyReset .warm (endEccTest (s.pulse Reg.Glb.MAINT_EXIT)) := by
  have hx : doMaintExit s = requestReset .warm (endEccTest (s.pulse Reg.Glb.MAINT_EXIT)) := if_pos hm
  rw [hx]
  obtain ⟨rf, cs, he⟩ := endEccTest_parts (s.pulse Reg.Glb.MAINT_EXIT)
  have hcore : (endEccTest (s.pulse Reg.Glb.MAINT_EXIT)).core = s.core := by rw [he]; rfl
  have hpins : (endEccTest (s.pulse Reg.Glb.MAINT_EXIT)).pins = s.pins := by rw [he]; rfl
  exact requestReset_now (by rwa [hcore]) (fun _ => by rwa [hpins]) (by rw [hcore, hm]; decide) fun _ => hc

/-- A RESET_CMD of another value is rejected. -/
theorem doResetCmd_rejects {v : Nat} (h : v ≠ 0x5752) : doResetCmd v s = s.raise Reg.Glb.VALUE_REJ := if_pos h

/-- Settles O42: the requests by the states that take them, and a reset by what it leaves. -/
theorem maintenanceAndResets : Obligations.MaintenanceAndResets := by
  unfold Obligations.MaintenanceAndResets
  refine ⟨?keyWait, ?pressRun, ?refused, ?outside, ?exit, ?rejected, ?warm, ?unpowered, ?asserted, ?released⟩
  case keyWait =>
    intro s hl hm
    refine Gives.on (f := doMaintGo) rfl hl ?_
    rw [doMaintGo_keyWait hm]
    refine ⟨rfl, get_stateChanged ((Rwf.pulse (.live hl) _ _).put _ _ _) _ _, rfl, ?_, rfl⟩
    exact (((RegsBut.refl _ s).pulse _ _ (by simp)).put _ _ _ (by simp)).stateChanged (by simp) (by simp) _ _
  case pressRun =>
    intro s hl hm hd hz hs
    refine Gives.on (f := doMaintGo) rfl hl ?_
    have hw : Rwf (maintenancePending s) := (Rwf.pulse (.live hl) _ _).putB _ _ _
    rw [doMaintGo_pressRun hm hd, startRelease_clean (s := maintenancePending s) hm hz hs]
    refine ⟨rfl, rfl, rfl, ?_, get_stateChanged hw .pressRun .release, ?_⟩
    · exact (get_stateChanged_ne (by decide) (by decide) .pressRun .release _).trans (get_putB_eq (Rwf.pulse (.live hl) _ _) _ _ _)
    · exact ((((RegsBut.refl _ s).pulse _ _ (by simp)).putB _ _ _ (by simp)).stateChanged (by simp) (by simp) .pressRun .release).same rfl
  case refused =>
    intro s hl h1 h2
    refine Gives.on (f := doMaintGo) rfl hl ?_
    rw [doMaintGo_refused h1 h2]
    exact ⟨get_raise_eq (Rwf.pulse (.live hl) _ _) _ _, ((RegsBut.refl _ s).pulse _ _ (by simp)).raise _ _ (by simp), rfl⟩
  case outside =>
    intro s hl hm
    refine Gives.on (f := doMaintExit) rfl hl ?_
    have hx : doMaintExit s = (s.pulse Reg.Glb.MAINT_EXIT).raise Reg.Glb.MAINT_REFUSED := if_neg hm
    rw [hx]
    exact ⟨get_raise_eq (Rwf.pulse (.live hl) _ _) _ _, ((RegsBut.refl _ s).pulse _ _ (by simp)).raise _ _ (by simp), rfl⟩
  case exit =>
    intro s hl hm hh hr hc
    refine Gives.on (f := doMaintExit) rfl hl ?_
    rw [doMaintExit_resets hm hh hr hc]
    obtain ⟨rf, cs, he⟩ := endEccTest_parts (s.pulse Reg.Glb.MAINT_EXIT)
    rw [he]
    exact applyReset_warmBegun _
  case rejected =>
    intro s v hl hv
    refine Gives.on (f := doResetCmd v.toNat) rfl hl ?_
    rw [doResetCmd_rejects fun h => hv (BitVec.eq_of_toNat_eq h)]
    exact ⟨get_raise_eq (.live hl) _ _, (RegsBut.refl _ s).raise _ _ (by simp), rfl⟩
  case warm =>
    intro s hl hm hh hr
    refine Gives.on (f := doResetCmd 0x5752) rfl hl ?_
    have hp : s.core.mode ≠ .powerQualify := by rcases hm with hm | hm | hm <;> rw [hm] <;> decide
    have hx : doResetCmd 0x5752 s = requestReset .warm s := (if_neg (not_not.mpr rfl)).trans (if_neg hp)
    rw [hx, requestReset_waiting hm hh fun _ => hr]
    exact applyReset_warmBegun s
  case unpowered =>
    intro s hl hm
    have hx : doResetCmd 0x5752 s = s := (if_neg (not_not.mpr rfl)).trans (if_pos hm)
    exact congrArg Host.Outcome.next ((whenOn_on _ hl.power).trans hx)
  case asserted =>
    intro s hl hr hh hm
    refine Gives.on (f := doResetNAsserted) rfl hl ?_
    have hx : doResetNAsserted s = requestReset .module { s with pins := { s.pins with fReset := true } } := if_neg (ne_true_of_eq_false hr)
    rw [hx, requestReset_waiting (s := { s with pins := { s.pins with fReset := true } }) hm hh (fun h => by cases h)]
    obtain ⟨rf, el, ha⟩ := applyReset_module { s with pins := { s.pins with fReset := true } }
    rw [ha]
    exact ⟨rfl, rfl, rfl, rfl, rfl, rfl, rfl, rfl, rfl, rfl, rfl, rfl, rfl, rfl⟩
  case released =>
    intro s hl hr hh
    refine Gives.on (f := doResetNReleased) rfl hl ?_
    have hx : doResetNReleased s =
        ({ s with pins := { s.pins with fReset := false }, core := { s.core with held := false, entered := s.core.imp } } : State).log 0x0001 0 [1] :=
      (if_pos hr).trans (if_pos hh)
    rw [hx]
    exact ⟨rfl, rfl, rfl, rfl⟩

end Sys2Proof.Machine
end

section
/-!
SUPPORT. Host DMA channels: how a run starts, ends and retries, and the step that moves a whole descriptor between ranges of the host buffer; the
snapshot of the counters and the counter record (R342, R347 to R353, R444, R446).
-/

namespace Sys2Proof.Machine

variable {s t : State} {ks : List Nat} {c : Nat} {r : DmaRun} {d : DmaCur}

theorem Rwf.setDma (h : Rwf s) (m : Dma) : Rwf { s with dma := m } := h
theorem RegsBut.setDma (h : RegsBut ks s t) (m : Dma) : RegsBut ks s { t with dma := m } := h.same rfl

/-! ### GO and ABORT (R347, R349) -/

/-- A run of a channel begins at the descriptor pointer. -/
def runBegun (c : Nat) (s : State) : State :=
  { (((s.pulse Reg.Dma.GO c).put Reg.Dma.BYTES_DONE 0 c).put Reg.Dma.DESC_INDEX 0 c).put Reg.Dma.CH_STATUS 1 c with
    dma := { s.dma with
      runs := nset c { nextDesc := s.get Reg.Dma.DESC_PTR_LO c + 2 ^ 32 * s.get Reg.Dma.DESC_PTR_HI c, started := s.core.imp } s.dma.runs } }

theorem doDmaGo_host (hc : hostChannel s c = true) : doDmaGo c s =
    if goRefused (s.pulse Reg.Dma.GO c) c (s.get Reg.Dma.DESC_PTR_LO c + 2 ^ 32 * s.get Reg.Dma.DESC_PTR_HI c) then
      ((s.pulse Reg.Dma.GO c).raise Reg.Dma.GO_REFUSED).log 0xB003 c
    else runBegun c s := by
  have hlo : (s.pulse Reg.Dma.GO c).get Reg.Dma.DESC_PTR_LO c = s.get Reg.Dma.DESC_PTR_LO c := get_pulse_ne (key_ne_of_place c) s
  have hhi : (s.pulse Reg.Dma.GO c).get Reg.Dma.DESC_PTR_HI c = s.get Reg.Dma.DESC_PTR_HI c := get_pulse_ne (key_ne_of_place c) s
  unfold doDmaGo
  dsimp only
  rw [hc, hlo, hhi]
  rfl

theorem goRefused_idle (hn : nfind c s.dma.runs = none) (hm : s.core.mode = .pressRun) (a : Nat) : goRefused s c a = false := by
  simp [goRefused, hn, hm]

theorem goRefused_running (hr : (nfind c s.dma.runs).isSome = true) (a : Nat) : goRefused s c a = true := by
  simp [goRefused, hr]

theorem get_runBegun (hw : Rwf s) (c : Nat) : (runBegun c s).get Reg.Dma.CH_STATUS c = 1 ∧ (runBegun c s).get Reg.Dma.BYTES_DONE c = 0 ∧
    (runBegun c s).get Reg.Dma.DESC_INDEX c = 0 := by
  have hg : Rwf (s.pulse Reg.Dma.GO c) := hw.pulse _ _
  refine ⟨get_put_eq ((hg.put _ _ _).put _ _ _) _ _ _, ?_, ?_⟩
  · exact (get_put_ne (key_ne_of_place c) _ _).trans ((get_put_ne (key_ne_of_place c) _ _).trans (get_put_eq hg _ _ _))
  · exact (get_put_ne (key_ne_of_place c) _ _).trans (get_put_eq (hg.put _ _ _) _ _ _)

theorem doDmaAbort_running (hc : hostChannel s c = true) (hr : (nfind c s.dma.runs).isSome = true) :
    doDmaAbort c s = endRun c 7 (s.pulse Reg.Dma.ABORT c) := by
  have hp : (nfind c (s.pulse Reg.Dma.ABORT c).dma.runs).isSome = true := hr
  unfold doDmaAbort
  rw [hc]
  exact if_pos hp

theorem get_endRun (hw : Rwf s) (c st : Nat) : (endRun c st s).get Reg.Dma.CH_STATUS c = st % 2 ^ Reg.Dma.CH_STATUS.w :=
  get_put_eq (s := { s with dma := { s.dma with runs := ndel c s.dma.runs } }) hw _ _ _

theorem get_endRun_ne {F : FieldSpec} {i : Nat} (h : F.key i ≠ Reg.Dma.CH_STATUS.key c) (st : Nat) (s : State) : (endRun c st s).get F i = s.get F i :=
  get_put_ne (s := { s with dma := { s.dma with runs := ndel c s.dma.runs } }) h _

theorem Rwf.endRun (h : Rwf s) (c st : Nat) : Rwf (endRun c st s) := Rwf.put (s := { s with dma := { s.dma with runs := ndel c s.dma.runs } }) h _ _ _

theorem RegsBut.endRun (h : RegsBut ks s t) (hk : Reg.Dma.CH_STATUS.key c ∈ ks) (st : Nat) : RegsBut ks s (endRun c st t) :=
  (h.setDma { t.dma with runs := ndel c t.dma.runs }).put _ _ _ hk

/-! ### A step that moves a whole descriptor (R342, R348, R350) -/

/-- A descriptor, none of it moved yet, from one range of the host buffer to another that it does not overlap; every beat answers. -/
structure BufferCopy (d : DmaCur) (s : State) : Prop where
  fresh : d.left = d.len
  nonempty : 0 < d.len
  fits : d.len ≤ 262144
  src : dmaTarget d.src = 6
  dst : dmaTarget d.dst = 6
  apart : d.overlaps = false
  reads : ∀ b ∈ beatsOf d.src d.len, beatBad s false b = false
  writes : ∀ b ∈ beatsOf d.dst d.len, beatBad s true b = false

/-- The bytes of a range of the host buffer. -/
def bufferBytes (a n : Nat) (s : State) : List Nat := (List.range n).map fun i => ngetD (dmaOffset a + i) 0 s.hostBuf

/-- The bytes of a descriptor stand at its destination, and are counted. -/
def copied (c : Nat) (d : DmaCur) (s : State) : State :=
  ({ s with hostBuf := putBytes (dmaOffset d.dst) (bufferBytes d.src d.len s) s.hostBuf } : State).bump Reg.Dma.BYTES_DONE d.len c

theorem Rwf.copied (h : Rwf s) (c : Nat) (d : DmaCur) : Rwf (copied c d s) := wf_rput _ _ _ h

theorem get_copied_bytes (hw : Rwf s) (c : Nat) (d : DmaCur) :
    (copied c d s).get Reg.Dma.BYTES_DONE c = min (s.get Reg.Dma.BYTES_DONE c + d.len) (2 ^ 32 - 1) :=
  get_bump_eq (s := { s with hostBuf := putBytes (dmaOffset d.dst) (bufferBytes d.src d.len s) s.hostBuf }) (hw.same rfl) _ _ _

theorem get_copied_ne {F : FieldSpec} (h : F.key c ≠ Reg.Dma.BYTES_DONE.key c) (d : DmaCur) (s : State) : (copied c d s).get F c = s.get F c :=
  get_bump_ne (s := { s with hostBuf := putBytes (dmaOffset d.dst) (bufferBytes d.src d.len s) s.hostBuf }) h d.len

theorem RegsBut.copied (h : RegsBut ks s t) (hk : Reg.Dma.BYTES_DONE.key c ∈ ks) (d : DmaCur) : RegsBut ks s (copied c d t) :=
  (h.same (u := { t with hostBuf := putBytes (dmaOffset d.dst) (bufferBytes d.src d.len t) t.hostBuf }) rfl).bump _ _ _ hk

theorem beatLimit_good {w : Bool} {a n : Nat} (h : ∀ b ∈ beatsOf a n, beatBad s w b = false) : beatLimit s w false a n = (n, none) := by
  have hf : (beatsOf a n).find? (fun b => beatBad s w b) = none := List.find?_eq_none.mpr fun b hb => ne_true_of_eq_false (h b hb)
  unfold beatLimit
  dsimp only
  rw [if_neg Bool.false_ne_true, hf]

theorem dmaRead_buffer {a : Nat} (h : dmaTarget a = 6) (n : Nat) (s : State) : dmaRead a n s = (bufferBytes a n s, s) := by
  unfold dmaRead
  rw [h]
  rfl

theorem dmaWrite_buffer {a : Nat} (h : dmaTarget a = 6) (bs : List Nat) (s : State) :
    dmaWrite a bs s = { s with hostBuf := putBytes (dmaOffset a) bs s.hostBuf } := by
  unfold dmaWrite
  rw [h]
  rfl

/-- All bytes move in one piece, and no beat is left for a retry. -/
theorem BufferCopy.moveBytes (h : BufferCopy d s) (c : Nat) : moveBytes c d 262144 s =
    (d.len, updRun c (fun r => { r with cur := some { d with left := 0 }, retry := none }) (copied c d s)) := by
  have hdown : d.down = false := by rw [DmaCur.down, h.apart]; rfl
  have hpiece : min d.len 262144 = d.len := min_eq_left h.fits
  unfold Machine.moveBytes
  simp only [hpiece, hdown, h.fresh, Nat.sub_self, Nat.add_zero, Bool.false_eq_true, if_false, beatLimit_good h.reads, beatLimit_good h.writes, min_self,
    dmaRead_buffer h.src, dmaWrite_buffer h.dst, if_neg (Nat.ne_of_gt h.nonempty), le_refl, if_true]
  rfl

/-- The last descriptor of a run completes: the run is done. -/
def runDone (c : Nat) (s : State) : State := (doneBit c (endRun c 2 (s.bump Reg.Dma.DESC_INDEX 1 c))).raise Reg.Dma.HOST_DONE

theorem completeDesc_last (hl : d.last = true) (hi : d.irq = false) (c : Nat) (s : State) : completeDesc c d s = runDone c s := by
  unfold completeDesc
  rw [hl, hi]
  rfl

theorem stepRun_over (h : nfind c s.dma.runs = none) (n b : Nat) : stepRun c n b s = s := by
  cases n with
  | zero => rfl
  | succ n => rw [stepRun, h]

theorem updRun_of_find (h : nfind c s.dma.runs = some r) (f : DmaRun → DmaRun) :
    updRun c f s = { s with dma := { s.dma with runs := nset c (f r) s.dma.runs } } := by
  unfold updRun
  rw [h]

theorem updRun_only (h : s.dma.runs = [(c, r)]) (f : DmaRun → DmaRun) : updRun c f s = { s with dma := { s.dma with runs := [(c, f r)] } } := by
  have hf : nfind c s.dma.runs = some r := by rw [h]; exact if_pos rfl
  have hs : nset c (f r) [(c, r)] = [(c, f r)] := by simp [nset]
  rw [updRun_of_find hf, h, hs]

/-- A step of the only run, whose last descriptor it moves. -/
theorem BufferCopy.doDmaStep (h : BufferCopy d s) (hr : s.dma.runs = [(c, r)]) (hst : r.started < s.core.imp) (hre : r.restart = false)
    (hry : r.retry = none) (hcur : r.cur = some d) (hl : d.last = true) (hi : d.irq = false) : doDmaStep c s =
    runDone c { copied c d s with dma := { s.dma with runs := [(c, { r with cur := some { d with left := 0 }, retry := none })] } } := by
  have hf : nfind c s.dma.runs = some r := by rw [hr]; exact if_pos rfl
  have hgo : ¬(r.retry.isSome = true ∨ 262144 = 0) := by rw [hry]; decide
  have hover : nfind c (runDone c { copied c d s with
      dma := { s.dma with runs := [(c, { r with cur := some { d with left := 0 }, retry := none })] } }).dma.runs = none := by
    show nfind c (ndel c [(c, _)]) = none
    simp [ndel]
  unfold Machine.doDmaStep
  rw [hf]
  refine (if_pos ⟨hst, by rw [hre]; rfl⟩).trans ?_
  rw [stepRun, hf]
  dsimp only
  rw [if_neg hgo, hcur]
  dsimp only
  rw [h.moveBytes, updRun_only (s := copied c d s) hr, if_pos h.fresh, completeDesc_last hl hi]
  exact stepRun_over hover _ _

theorem get_doneBit_ne {F : FieldSpec} {i : Nat} (h : F.key i ≠ Reg.Dma.HOST_DONE_MASK.key 0) (c : Nat) (s : State) : (doneBit c s).get F i = s.get F i :=
  get_put_ne h s (s.get Reg.Dma.HOST_DONE_MASK ||| 2 ^ (c + s.dma.hosts - s.dma.channels))

theorem Rwf.doneBit (h : Rwf s) (c : Nat) : Rwf (doneBit c s) := wf_rput _ _ _ h

theorem RegsBut.doneBit (h : RegsBut ks s t) (hk : Reg.Dma.HOST_DONE_MASK.key 0 ∈ ks) (c : Nat) : RegsBut ks s (doneBit c t) := by
  have hp := h.put Reg.Dma.HOST_DONE_MASK (t.get Reg.Dma.HOST_DONE_MASK ||| 2 ^ (c + t.dma.hosts - t.dma.channels)) 0 hk
  exact ⟨hp.regs, hp.latches, hp.words⟩

/-- The fields of a channel read past the bits that tell of its end. -/
theorem get_doneShown {F : FieldSpec} (h : Reg.Dma.HOST_DONE_MASK.key 0 ≠ F.key c) (h' : Reg.Dma.HOST_DONE.key 0 ≠ F.key c) (s : State) :
    ((doneBit c s).raise Reg.Dma.HOST_DONE).get F c = s.get F c := (get_raise_ne h'.symm _).trans (get_doneBit_ne h.symm c s)

theorem get_runDone (hw : Rwf s) (c : Nat) : (runDone c s).get Reg.Dma.CH_STATUS c = 2 ∧ (runDone c s).get Reg.Dma.HOST_DONE = 1 ∧
    (runDone c s).get Reg.Dma.BYTES_DONE c = s.get Reg.Dma.BYTES_DONE c ∧
    (runDone c s).get Reg.Dma.DESC_INDEX c = min (s.get Reg.Dma.DESC_INDEX c + 1) 8191 := by
  have hb : Rwf (s.bump Reg.Dma.DESC_INDEX 1 c) := hw.bump _ _ _
  refine ⟨?_, get_raise_eq ((hb.endRun c 2).doneBit c) _ _, ?_, ?_⟩
  · exact (get_doneShown (key_ne_of_below c) (key_ne_of_below c) _).trans (get_endRun hb c 2)
  · exact (get_doneShown (key_ne_of_below c) (key_ne_of_below c) _).trans
      ((get_endRun_ne (key_ne_of_place c) 2 _).trans (get_bump_ne (key_ne_of_place c) s 1))
  · exact (get_doneShown (key_ne_of_below c) (key_ne_of_below c) _).trans ((get_endRun_ne (key_ne_of_place c) 2 _).trans (get_bump_eq hw _ _ _))

theorem RegsBut.runDone (h : RegsBut ks s t) (hstatus : Reg.Dma.CH_STATUS.key c ∈ ks) (hindex : Reg.Dma.DESC_INDEX.key c ∈ ks)
    (hdone : Reg.Dma.HOST_DONE.key 0 ∈ ks) (hmask : Reg.Dma.HOST_DONE_MASK.key 0 ∈ ks) : RegsBut ks s (runDone c t) :=
  (((h.bump _ _ _ hindex).endRun hstatus 2).doneBit hmask c).raise _ _ hdone

/-! ### Retries and shared stops (R352, R353) -/

/-- A retry of a failed read beat succeeds: it is counted, and the run goes on. -/
theorem doBusErrorRetry_good {a n : Nat} (hf : nfind c s.dma.runs = some r) (hre : r.restart = false) (hry : r.retry = some (a, false, n))
    (hn : n < s.get Reg.Dma.RETRY_COUNT) (hb : beatBad s false a = false) : doBusErrorRetry c .read a true s =
    ({ s with dma := { s.dma with runs := nset c { r with retry := none } (nset c { r with retry := some (a, false, n + 1) } s.dma.runs) } } : State).bump
      Reg.Dma.BUS_ERRORS := by
  unfold doBusErrorRetry
  rw [hf]
  dsimp only
  rw [if_neg (ne_true_of_eq_false hre), hry]
  dsimp only [Option.getD_some]
  rw [if_neg (Nat.not_le.mpr hn)]
  simp only [hb, Bool.not_false, Bool.and_self, if_true]
  rw [updRun_of_find hf, updRun_of_find (r := { r with retry := some (a, false, n + 1) }) (nfind_nset_self _ _ _)]

theorem doSharedStopRestart_restarts {a : Nat} (hs : s.dma.sharedAt = some a) (ha : a < s.core.imp) (hr : s.dma.runs = [(c, r)]) (hre : r.restart = true)
    (hcur : r.cur = some d) (ho : d.overlaps = false) : doSharedStopRestart s =
    ({ s with dma := { s.dma with
      sharedAt := none, runs := [(c, { r with restart := false, noPrefetch := true, cur := some { d with left := d.len } })] } } : State).put
      Reg.Dma.CH_STATUS 1 c := by
  unfold doSharedStopRestart
  rw [hs]
  refine (if_pos ha).trans ?_
  dsimp only
  rw [hr, List.foldl_cons, List.foldl_nil]
  dsimp only
  rw [hre, if_neg (by decide), hcur]
  dsimp only
  rw [if_neg (ne_true_of_eq_false ho), updRun_only (r := r) rfl]

/-! ### The snapshot and the counter record (R444, R446) -/

/-- What SNAP_GO latches, with the fields it goes to. -/
def snapFields (s : State) : List (FieldSpec × Nat) :=
  [(Reg.Glb.SNAP_IMP_LO, s.core.imp % 2 ^ 32), (Reg.Glb.SNAP_IMP_HI, s.core.imp / 2 ^ 32), (Reg.Glb.SNAP_OP_TIME, opTimeOf s.core.opImp),
   (Reg.Glb.SNAP_CYCLES, s.core.cycles), (Reg.Glb.SNAP_DIRTY, s.dirty), (Reg.Glb.SNAP_CEILING, s.get Reg.Fount.CEILING),
   (Reg.Glb.SNAP_SUM0, sum0 (s.pulse Reg.Glb.SNAP_GO)), (Reg.Glb.SNAP_SUM1, sum1 (s.pulse Reg.Glb.SNAP_GO)),
   (Reg.Glb.SNAP_STATUS, wordValue (s.pulse Reg.Glb.SNAP_GO) 0x000110)]

/-- The fields of the snapshot. -/
def snapKeys : List Nat :=
  [Reg.Glb.SNAP_IMP_LO.key 0, Reg.Glb.SNAP_IMP_HI.key 0, Reg.Glb.SNAP_OP_TIME.key 0, Reg.Glb.SNAP_CYCLES.key 0, Reg.Glb.SNAP_DIRTY.key 0,
    Reg.Glb.SNAP_CEILING.key 0, Reg.Glb.SNAP_SUM0.key 0, Reg.Glb.SNAP_SUM1.key 0, Reg.Glb.SNAP_STATUS.key 0]

theorem snapFields_keys (s : State) : (snapFields s).map (fun p => p.1.key 0) = snapKeys := rfl

theorem snapKeys_nodup : snapKeys.Nodup := by decide

theorem dirty_put (F : FieldSpec) (v i : Nat) (s : State) : (s.put F v i).dirty = s.dirty := rfl
theorem dirty_pulse (F : FieldSpec) (i : Nat) (s : State) : (s.pulse F i).dirty = s.dirty := rfl

theorem doSnapGo_eq (s : State) : doSnapGo s = putFields (snapFields s) (s.pulse Reg.Glb.SNAP_GO) := by
  have hceil : ((((((s.pulse Reg.Glb.SNAP_GO).put Reg.Glb.SNAP_IMP_LO (s.core.imp % 2 ^ 32)).put Reg.Glb.SNAP_IMP_HI (s.core.imp / 2 ^ 32)).put
      Reg.Glb.SNAP_OP_TIME (opTimeOf s.core.opImp)).put Reg.Glb.SNAP_CYCLES s.core.cycles)).get Reg.Fount.CEILING = s.get Reg.Fount.CEILING := by
    rw [get_put_ne (by decide), get_put_ne (by decide), get_put_ne (by decide), get_put_ne (by decide), get_pulse_ne (by decide)]
  unfold doSnapGo
  simp only [State.put_core, State.pulse_core, dirty_put, dirty_pulse, hceil, putFields, snapFields, List.foldl_cons, List.foldl_nil]

/-- The snapshot as it reads back, each value cut to the width of its field. -/
theorem get_snapped (hw : Rwf s) : ∀ p ∈ snapFields s, (doSnapGo s).get p.1 = p.2 % 2 ^ p.1.w := by
  rw [doSnapGo_eq]
  exact get_putFields (hw.pulse _ _) (by rw [snapFields_keys]; exact snapKeys_nodup)

theorem regsBut_snapped (s : State) : RegsBut (Reg.Glb.SNAP_GO.key 0 :: snapKeys) s (doSnapGo s) := by
  rw [doSnapGo_eq]
  refine ((RegsBut.refl _ s).pulse _ _ (by simp)).putFields _ fun p hp => List.mem_cons_of_mem _ ?_
  rw [← snapFields_keys s]
  exact List.mem_map_of_mem hp

theorem snapped_parts (s : State) : doSnapGo s = { s with rf := (doSnapGo s).rf } := by
  rw [doSnapGo_eq]
  exact putFields_parts (snapFields s) (s.pulse Reg.Glb.SNAP_GO)

theorem doCounterRecordWrite_writes (hm : s.core.mode ≠ .powerQualify) (ht : 7500000 ≤ s.since s.core.ctrAt) (hh : s.halfOk = true) :
    doCounterRecordWrite s =
      { s.eachHalf fun h => { h with ctrRecs := nset ((s.core.ctrGen + 1) % 2) ⟨s.core.ctrGen + 1, s.core.opImp, s.core.cycles⟩ h.ctrRecs } with
        core := { s.core with ctrGen := s.core.ctrGen + 1, ctrAt := s.core.imp } } := by
  unfold doCounterRecordWrite writeCounters
  rw [if_pos ⟨hm, ht⟩, if_pos hh]
  rfl

/-- Settles O39: GO, ABORT, retries and restarts by the run that they change, a step by the descriptor that it moves, and the snapshot by the row
of fields that it stores. -/
theorem dmaChannelsAndSnapshots : Obligations.DmaChannelsAndSnapshots := by
  unfold Obligations.DmaChannelsAndSnapshots
  refine ⟨?go, ?refused, ?abort, ?step, ?retry, ?restart, ?snap, ?counters⟩
  case go =>
    intro s c hl hc hn hm
    refine Gives.on (f := doDmaGo c) rfl hl ?_
    rw [doDmaGo_host hc, goRefused_idle (s := s.pulse Reg.Dma.GO c) hn hm, if_neg Bool.false_ne_true]
    obtain ⟨hstatus, hbytes, hindex⟩ := get_runBegun (.live hl) c.val
    exact ⟨rfl, hstatus, hbytes, hindex,
      (((((RegsBut.refl _ s).pulse _ _ (by simp)).put _ _ _ (by simp)).put _ _ _ (by simp)).put _ _ _ (by simp)).setDma _, rfl⟩
  case refused =>
    intro s c hl hc hr
    refine Gives.on (f := doDmaGo c) rfl hl ?_
    rw [doDmaGo_host hc, goRefused_running (s := s.pulse Reg.Dma.GO c) hr, if_pos rfl]
    exact ⟨get_raise_eq (Rwf.pulse (.live hl) _ _) _ _, rfl, rfl, (((RegsBut.refl _ s).pulse _ _ (by simp)).raise _ _ (by simp)).log _ _ _, rfl⟩
  case abort =>
    intro s c hl hc hr
    refine Gives.on (f := doDmaAbort c) rfl hl ?_
    rw [doDmaAbort_running hc hr]
    exact ⟨rfl, get_endRun (Rwf.pulse (.live hl) _ _) c 7, ((RegsBut.refl _ s).pulse _ _ (by simp)).endRun (by simp) 7, rfl⟩
  case step =>
    intro s c r d hl hr hst hre hry hcur hleft hpos hmax hlast hirq hsrc hdst hov hrd hwr
    refine Gives.on (f := doDmaStep c) rfl hl ?_
    rw [(BufferCopy.mk hleft hpos hmax hsrc hdst hov hrd hwr).doDmaStep hr hst hre hry hcur hlast hirq]
    have hw : Rwf (copied c d s) := Rwf.copied (.live hl) c d
    obtain ⟨hstatus, hdone, hbytes, hindex⟩ := get_runDone (hw.setDma _) c
    refine ⟨rfl, ?_, hstatus, hdone, hbytes.trans (get_copied_bytes (.live hl) c d), hindex.trans ?_, ?_, rfl⟩
    · exact if_pos rfl
    · exact congrArg (fun n => min (n + 1) 8191) (get_copied_ne (key_ne_of_place c) d s)
    · exact (((RegsBut.refl _ s).copied (by simp) d).setDma _).runDone (by simp) (by simp) (by simp) (by simp)
  case retry =>
    intro s c r a n hl hf hre hry hn hb
    refine Gives.on (f := doBusErrorRetry c .read a true) rfl hl ?_
    rw [doBusErrorRetry_good hf hre hry hn hb]
    exact ⟨rfl, get_bump_eq (Rwf.setDma (.live hl) _) _ _ _, ((RegsBut.refl _ s).setDma _).bump _ _ _ (by simp), rfl⟩
  case restart =>
    intro s a c r d hl hs ha hr hre hcur ho
    refine Gives.on (f := doSharedStopRestart) rfl hl ?_
    rw [doSharedStopRestart_restarts hs ha hr hre hcur ho]
    exact ⟨rfl, get_put_eq (Rwf.setDma (.live hl) _) _ _ _, ((RegsBut.refl _ s).setDma _).put _ _ _ (by simp), rfl⟩
  case snap =>
    intro s hl
    refine Gives.on (f := doSnapGo) rfl hl ?_
    have hg := get_snapped (.live hl)
    simp only [snapFields, List.forall_mem_cons] at hg
    obtain ⟨hlo, hhi, hop, hcyc, hdirty, hceil, -⟩ := hg
    exact ⟨hlo.trans (Nat.mod_mod _ _), hhi, hop, hcyc, hdirty, hceil, regsBut_snapped s, snapped_parts s⟩
  case counters =>
    intro s hl hm ht hh
    refine Gives.on (f := doCounterRecordWrite) rfl hl ?_
    rw [doCounterRecordWrite_writes hm ht hh]
    exact ⟨rfl, rfl, rfl, rfl⟩

end Sys2Proof.Machine
end

section
/-!
SUPPORT. Compared pairs: reading a pair and an engine through updates, the retirement of an engine, the spare that takes its place, and the
release of what was withheld (R328 to R338).
-/

namespace Sys2Proof.Machine

variable {s t : State} {ks : List Nat} {p e : Nat}

/-! ### Reading pairs and engines through updates -/

theorem pair_setPair (s : State) (p q : Nat) (x : Pair) : (s.setPair p x).pair q = if q = p then x else s.pair q := by
  split_ifs with h
  · subst h
    exact ngetD_nset_self _ _ _ _
  · exact ngetD_nset_ne h _ _ _

@[simp] theorem pair_setPair_self (s : State) (p : Nat) (x : Pair) : (s.setPair p x).pair p = x := (pair_setPair s p p x).trans (if_pos rfl)
theorem pair_setPair_ne {q : Nat} (h : q ≠ p) (s : State) (x : Pair) : (s.setPair p x).pair q = s.pair q := (pair_setPair s p q x).trans (if_neg h)

theorem engine_setEngine (s : State) (e g : Nat) (x : Engine) : (s.setEngine e x).engine g = if g = e then x else s.engine g := by
  split_ifs with h
  · subst h
    exact ngetD_nset_self _ _ _ _
  · exact ngetD_nset_ne h _ _ _

@[simp] theorem engine_setEngine_self (s : State) (e : Nat) (x : Engine) : (s.setEngine e x).engine e = x := (engine_setEngine s e e x).trans (if_pos rfl)
theorem engine_setEngine_ne {g : Nat} (h : g ≠ e) (s : State) (x : Engine) : (s.setEngine e x).engine g = s.engine g :=
  (engine_setEngine s e g x).trans (if_neg h)

theorem RegsBut.setPrs (h : RegsBut ks s t) (x : Pairs) : RegsBut ks s { t with prs := x } := h.same rfl

/-! ### Retirement (R331, R338) -/

/-- What a retirement does: the engine is retired with its cause, its record is due, and the event bit and the event tell of it. -/
structure Retires (e cause : Nat) (s t : State) : Prop where
  engine : t.engine e = { s.engine e with retired := true, cause := cause, testing := false }
  recDue : t.prs.recDue = true
  shown : t.get Reg.Cp.ENG_RETIRED = 1
  due : t.el.due = ⟨0x3003, 0, 0, opTimeOf s.core.opImp, s.core.cycles, e, [cause]⟩ :: s.el.due
  regs : RegsBut [Reg.Cp.ENG_RETIRED.key 0] s t
  parts : t = { s with rf := t.rf, el := t.el, prs := t.prs }

theorem retire_retires (hw : Rwf s) (e cause : Nat) : Retires e cause s (retire e cause s) where
  engine := engine_setEngine_self s e _
  recDue := rfl
  shown := get_raise_eq (s := { s.setEngine e { s.engine e with retired := true, cause := cause, testing := false } with
    prs.recDue := true }) hw _ _
  due := rfl
  regs := by
    have h : RegsBut [Reg.Cp.ENG_RETIRED.key 0] s (s.raise Reg.Cp.ENG_RETIRED) := (RegsBut.refl _ s).raise _ _ (by simp)
    exact h.same rfl
  parts := rfl

/-! ### A member is replaced (R328, R333) -/

/-- A spare that joins, or a pair that goes on alone: the pairs, a count or an event bit, and the event. -/
structure Refills (s t : State) : Prop where
  engines : t.prs.engines = s.prs.engines
  recDue : t.prs.recDue = s.prs.recDue
  shown : t.get Reg.Cp.ENG_RETIRED = s.get Reg.Cp.ENG_RETIRED
  parts : t = { s with rf := t.rf, el := t.el, prs := t.prs }

theorem refill_refills (p stay : Nat) (s : State) : Refills s (refill p stay s) := by
  unfold refill
  split
  · exact ⟨rfl, rfl, get_bump_ne (by decide) _ _, rfl⟩
  · exact ⟨rfl, rfl, get_raise_ne (by decide) _, rfl⟩

/-! ### Verdicts (R328, R330, R332) -/

/-- A pair whose switch-over waits for its verdict, with both members. -/
structure Judged (p a b : Nat) (s : State) : Prop where
  st : (s.pair p).st = .switching
  step : (s.pair p).step = 3
  waits : (s.pair p).verdict = false
  a : (s.pair p).a = some a
  b : (s.pair p).b = some b

theorem Judged.judges {a b : Nat} (h : Judged p a b s) (passA passB : Bool) : doSwitchOverVerdict p passA passB s = verdict p passA passB s :=
  if_pos ⟨h.st, h.step, by rw [h.waits]; rfl⟩

/-- The verdict of a switch-over is recorded. -/
def verdictNoted (p a row : Nat) (s : State) : State := s.log 0x3002 a [p, row]

theorem Judged.transient {a b : Nat} (h : Judged p a b s) (hagain : (s.pair p).again = false) (hrep : (s.pair p).replace = none) :
    doSwitchOverVerdict p true true s = reloaded p true ((verdictNoted p a 1 s).bump Reg.Cp.PAIR_TRANSIENTS) := by
  rw [h.judges, verdict]
  simp only [h.a, h.b, hagain, hrep]
  rfl

theorem Judged.retiresB {a b : Nat} (h : Judged p a b s) :
    doSwitchOverVerdict p true false s = reloaded p false (refill p a (retire b 1 (verdictNoted p a 2 s))) := by
  rw [h.judges, verdict]
  simp only [h.a, h.b]
  rfl

/-! ### Releases (R329, R335, R337) -/

/-- What was withheld leaves once no pair is in switch-over. -/
theorem releaseWithheld_eq (s : State) : releaseWithheld s =
    { s with out := if s.switching then s.out else s.withheld ++ s.out, withheld := if s.switching then s.withheld else [] } := by
  unfold releaseWithheld
  cases s.switching <;> rfl

/-- The pair after the re-execution: it works again with the members that it has. -/
def reexecuted (q : Pair) : Pair :=
  { q with
    st := if q.b.isNone then .simplex else .comparing, step := 0, verdict := false, transient := false, again := false, overA := false, overB := false }

theorem doHeldImpressionRelease_works (a b : Nat) (hst : (s.pair p).st = .switching) (hstep : (s.pair p).step = 5) (hv : (s.pair p).verdict = true)
    (ht : (s.pair p).transient = false) : doHeldImpressionRelease p a b s = releaseWithheld (s.setPair p (reexecuted (s.pair p))) := by
  unfold doHeldImpressionRelease
  dsimp only
  rw [if_pos ⟨hst, hstep, hv⟩, ht]
  rfl

/-- The connections of a dead pair go to its adopter, where it is a pair of protocol engines. -/
def adopted (p : Nat) (s : State) : State :=
  if pairType p = 2 then { s with conns := nmapv (fun _ c => if c.pair = p then { c with pair := (s.pair p).adopter.getD p } else c) s.conns } else s

theorem doAdoptionRelease_works (hd : (s.pair p).dying = true) (hs : (s.pair p).step = 8) : doAdoptionRelease p s =
    releaseWithheld { adopted p s with prs := (s.setPair p { s.pair p with dying := false, step := 0, verdict := false }).prs } := by
  unfold doAdoptionRelease adopted
  dsimp only
  rw [if_pos ⟨hd, hs⟩]
  split <;> rfl

theorem adopted_parts (p : Nat) (s : State) : adopted p s = { s with conns := (adopted p s).conns } := by
  unfold adopted
  split <;> rfl

/-! ### Self-tests (R333, R334) -/

theorem doSimplexSelfTest_passes (hst : (s.pair p).st = .simplex) (ht : 125000 ≤ s.since (s.pair p).lastTest) :
    doSimplexSelfTest p true s = s.setPair p { s.pair p with lastTest := s.core.imp, skip := 2 } := if_pos ⟨hst, ht⟩

/-- The result of a spare's self-test stands. -/
def spareTested (e : Nat) (pass : Bool) (s : State) : State := s.setEngine e { s.engine e with lastTest := s.core.imp, lastPass := pass }

theorem doSpareSelfTest_tests (hr : (s.engine e).retired = false) (hm : isMember s e = false) (ht : 125000 ≤ s.since (s.engine e).lastTest) (pass : Bool) :
    doSpareSelfTest e pass s = if pass then spareTested e pass s else retire e 1 (spareTested e pass s) :=
  if_pos ⟨by rw [hr]; rfl, by rw [hm]; rfl, ht⟩

/-! ### A half of the Stereo store leaves service (R355) -/

theorem dropHalf_idle (h : HalfSt) : dropHalf false h = { h with ok := false } := rfl

theorem castingNow_false (hm : s.core.mode ≠ .cast) : (s.core.mode == .cast) = false := beq_eq_false_iff_ne.mpr hm

/-- Settles O48: verdicts by the row of Table 14.4 that they take, releases by what leaves, self-tests and retirements by the engine that they
change, and a half by the writes that it no longer takes. -/
theorem pairsAndEngines : Obligations.PairsAndEngines := by
  unfold Obligations.PairsAndEngines
  refine ⟨?transient, ?retired, ?reexecuted, ?adopted, ?simplex, ?sparePass, ?spareFail, ?hour, ?record, ?half0, ?half1⟩
  case transient =>
    intro s p a b hl hst hstep hv ha hb hagain hrep hsafe hdue
    have hx := (Judged.mk hst hstep hv ha hb).transient hagain hrep
    refine Gives.settled (f := doSwitchOverVerdict p true true) rfl hl (by rw [hx]; exact hsafe) (by rw [hx]; exact hdue) ?_
    rw [hx]
    refine ⟨pair_setPair_self _ _ _, fun q hq => pair_setPair_ne hq _ _, ?_, rfl, ?_, rfl⟩
    · exact get_bump_eq (s := verdictNoted p a 1 s) ((Rwf.live hl).log _ _ _) _ _ _
    · exact (((RegsBut.refl _ s).log _ _ _).bump Reg.Cp.PAIR_TRANSIENTS 1 0 (by simp)).setPrs _
  case retired =>
    intro s p a b hl hst hstep hv ha hb hab hsafe hdue
    have hx := (Judged.mk hst hstep hv ha hb).retiresB
    have hret := retire_retires (s := verdictNoted p a 2 s) ((Rwf.live hl).log _ _ _) b 1
    have hfill := refill_refills p a (retire b 1 (verdictNoted p a 2 s))
    generalize refill p a (retire b 1 (verdictNoted p a 2 s)) = u at hx hfill
    have hparts : u = { s with rf := u.rf, el := u.el, prs := u.prs } := hfill.parts
    refine Gives.settled (f := doSwitchOverVerdict p true false) rfl hl (by rw [hx, hparts]; exact hsafe) (by rw [hx, hparts]; exact hdue) ?_
    rw [hx]
    have heng : (reloaded p false u).engine b = (retire b 1 (verdictNoted p a 2 s)).engine b :=
      congrArg (ngetD b ({} : Engine)) hfill.engines
    refine ⟨?_, ?_, ?_, ?_, ?_, ?_, ?_⟩
    · rw [heng, hret.engine]
    · rw [heng, hret.engine]
    · rw [reloaded, pair_setPair_self]
    · rw [reloaded, pair_setPair_self]
    · exact hfill.shown.trans hret.shown
    · exact hfill.recDue.trans hret.recDue
    · rw [hparts]
      rfl
  case reexecuted =>
    intro s p hl hst hstep hv ht hsafe hdue
    have hx := (doHeldImpressionRelease_works 0 0 hst hstep hv ht).trans (releaseWithheld_eq _)
    refine Gives.settled (f := doHeldImpressionRelease p 0 0) rfl hl (by rw [hx]; exact hsafe) (by rw [hx]; exact hdue) ?_
    rw [hx]
    exact ⟨pair_setPair_self _ _ _, rfl, rfl, rfl⟩
  case adopted =>
    intro s p hl hd hs hsafe hdue
    have hx := (doAdoptionRelease_works hd hs).trans (releaseWithheld_eq _)
    rw [adopted_parts] at hx
    refine Gives.settled (f := doAdoptionRelease p) rfl hl (by rw [hx]; exact hsafe) (by rw [hx]; exact hdue) ?_
    rw [hx]
    refine ⟨pair_setPair_self s _ _, fun hp => ?_, rfl, rfl, rfl⟩
    show (adopted p s).conns = s.conns
    rw [adopted, if_neg hp]
  case simplex =>
    intro s p hl hst ht hsafe hdue
    have hx := doSimplexSelfTest_passes hst ht
    refine Gives.settled (f := doSimplexSelfTest p true) rfl hl (by rw [hx]; exact hsafe) (by rw [hx]; exact hdue) ?_
    rw [hx]
    exact ⟨pair_setPair_self _ _ _, fun q hq => pair_setPair_ne hq _ _, rfl, rfl⟩
  case sparePass =>
    intro s e hl hr hm ht
    refine Gives.on (f := doSpareSelfTest e true) rfl hl ?_
    rw [doSpareSelfTest_tests hr hm ht, if_pos rfl]
    exact ⟨engine_setEngine_self _ _ _, fun q hq => engine_setEngine_ne hq _ _, rfl, rfl⟩
  case spareFail =>
    intro s e hl hr hm ht
    refine Gives.on (f := doSpareSelfTest e false) rfl hl ?_
    rw [doSpareSelfTest_tests hr hm ht, if_neg Bool.false_ne_true]
    have hret := retire_retires (s := spareTested e false s) (Rwf.live hl : Rwf s) e 1
    have hself : (spareTested e false s).engine e = { s.engine e with lastTest := s.core.imp, lastPass := false } := engine_setEngine_self _ _ _
    refine ⟨?_, hret.recDue, hret.shown, hret.due, ⟨hret.regs.regs, hret.regs.latches, hret.regs.words⟩, rfl⟩
    rw [hret.engine, hself]
  case hour =>
    intro s hl hh
    exact Gives.on (f := doTransientHourRoll) rfl hl (if_pos hh)
  case record =>
    intro s hl hd hh
    refine Gives.on (f := doEngineRecordWrite) rfl hl ?_
    rw [doEngineRecordWrite, if_pos ⟨hd, hh⟩]
    exact ⟨rfl, rfl, rfl, rfl, rfl⟩
  case half0 =>
    intro s hl hok hm
    refine Gives.on (f := doStereoHalfLeavesService .st0) rfl hl ?_
    unfold doStereoHalfLeavesService
    simp only [hok, castingNow_false hm, dropHalf_idle, ↓reduceIte, and_self]
  case half1 =>
    intro s hl hok hm
    refine Gives.on (f := doStereoHalfLeavesService .st1) rfl hl ?_
    unfold doStereoHalfLeavesService
    simp only [hok, castingNow_false hm, dropHalf_idle, ↓reduceIte, and_self]

end Sys2Proof.Machine
end
